-- ==== Sys2Proof/Word.lean ====
section
/-! DEFINITION. The words of the part and their plainest arithmetic (R3, R86). -/

namespace Sys2Proof

/-- A 64-bit register value. -/
abbrev Word := BitVec 64

/-- One byte. -/
abbrev Byte := BitVec 8

/-- Bits `h` down to `l` of a number, as a number (R3, R311). -/
def bitsOf (x h l : Nat) : Nat := (x >>> l) % 2 ^ (h + 1 - l)

/-- A word from a number, modulo 2^64. -/
abbrev word (n : Nat) : Word := BitVec.ofNat 64 n

/-- 1 when the condition holds and 0 otherwise, as the comparisons push it. -/
def boolWord (b : Bool) : Word := if b then 1 else 0

/-- The ceiling of `a / b`. -/
def ceilDiv (a b : Nat) : Nat := (a + b - 1) / b

/-- `x` modulo 2^32. -/
def mod32 (x : Nat) : Nat := x % 2 ^ 32

end Sys2Proof
end

