-- ==== Sys2Proof/Config.lean ====
section
/-! DEFINITION. What is fixed for the part: the figures of the manual, and the free values (opaque, without a body)
that stand for what the manual leaves open. -/

namespace Sys2Proof.Config

/-- Cores of the part (R22). -/
def numCores : Nat := 8192

/-- Active hearths of the part (R22). -/
def numHearths : Nat := 1024

/-- The announcement issued in window `w` is delivered in cycle 8 (w + 1) + 96 (R16). -/
def beatDelivery (w : Nat) : Nat := 8 * (w + 1) + 96

/-- Announcements a hearth places in one window (R16). -/
def beatsPerWindow : Nat := 8

/-- `CAP.AWAKE`: wake time of a gated sub-array in cycles (R232). (DEDUCED, log 76) -/
def awake : Nat := 544

/-- `CAP.LWAKE`: warming time of a transmitter in nanoseconds (R272). -/
def lwake : Nat := 2400

/-- `CAP.SUBREPLAY`: extra cycles of a subnormal replay (R93). -/
def subReplay : Nat := 32

/-- `CAP.VERSION` [47:32]: the Tongs drain allowance in cycles (R220). -/
def drainAllowance : Nat := 4096

/-- `CAP.VERSION` [15:0]: the revision of the part, which the manual does not give. -/
opaque revision : BitVec 16

/-- Bytes of HBM (R22). -/
def hbmBytes : Nat := 0xC000000000

/-- Bytes of a hearth pool (R14). -/
def poolBytes : Nat := 0x80000

/-- Bytes of a core's local SRAM (R14). -/
def coreSram : Nat := 0x18000

/-- A slice in cycles (R203). -/
def slice : Nat := 2 ^ 20

/-- Cycles an `amm` takes from start to retirement (R231). -/
def ammLatency : Nat := 24

/-- Live launches of the part (R197) and launches assigned to one core (R197). -/
def maxLaunches : Nat := 256
def maxAssigned : Nat := 8

/-- Nanoseconds between two trainings of an unreachable peer's slots (R278). -/
def retrainPeriod : Nat := 1000000000

/-- Nanoseconds between two scrubs of HBM: 24 hours (R285). -/
def scrubPeriod : Nat := 86400000000000

/-- Cycles in which the links role answers (R266). -/
def linksAnswer : Nat := 4096

/-- Seventeenths of a nanosecond in one cycle of the 850 MHz clock (R5, R20). -/
def tick17 : Nat := 20

/-- Free value: a word the manual leaves open. The argument is a counter of the state, so that two uses differ. -/
opaque freeWord : Nat → Word

/-- Free value: a choice of two the manual leaves open. -/
opaque freeBit : Nat → Bool

/-- Free value: a number the manual leaves open (which of several allowed). -/
opaque freeNat : Nat → Nat

/-- On how many slots of a port a peer can light receivers for this part at a point of the run (R262): by that point, port and
peer. -/
opaque peerLights : Nat → Nat → Nat → Nat

/-- Free value: the set of its LLC slice that a line falls into, of 256 (R14); the manual does not give the index. -/
opaque llcSet : Nat → Nat

/-- Whether a holder cannot be reached by the invalidations of a request that began in a cycle: core and cycle (R255, R259). -/
opaque unreachable : Nat → Nat → Bool

/-- Free value: the XMSS signature made with a one-time key index over a message (R289, R293). -/
opaque signature : Nat → List Byte → List Byte

end Sys2Proof.Config
end

