-- ==== Sys2Proof/Machine/Table.lean ====
section
/-! DEFINITION. Tables by number: sorted lists of (key, entry) pairs, one entry a key. -/

namespace Sys2Proof.Machine

/-- Entries by key, keys strictly rising. -/
abbrev Table (α : Type) := List (Nat × α)

/-- The entry of a key, if the table has one. -/
def tget {α : Type} : Table α → Nat → Option α
  | [], _ => none
  | (k, v) :: r, n => if k = n then some v else tget r n

/-- Gives a key an entry, in place of any it has. -/
def tset {α : Type} : Table α → Nat → α → Table α
  | [], n, a => [(n, a)]
  | (k, v) :: r, n, a =>
    if n < k then (n, a) :: (k, v) :: r
    else if k = n then (n, a) :: r
    else (k, v) :: tset r n a

/-- Takes a key's entry away. -/
def tdel {α : Type} (t : Table α) (n : Nat) : Table α := t.filter fun p => p.1 != n

/-- The keys that have an entry, rising. -/
def tkeys {α : Type} (t : Table α) : List Nat := t.map (·.1)

/-- Applies a function to every entry. -/
def tmap {α : Type} (f : Nat → α → α) (t : Table α) : Table α := t.map fun p => (p.1, f p.1 p.2)

end Sys2Proof.Machine
end

