-- ==== Sys2Proof/Syntax.lean ====
section
/-! DEFINITION. The instructions and events of the part: one constructor for each row of the opcode table.
Instructions carry typed operands, so no reserved operand code can be written down (R58, R59). Events (the rows
without an encoding) carry nothing: what an event concerns stands in the state's `ev`, which the schedule sets. -/

namespace Sys2Proof

/-- A source operand (R58): the result queue by age, the named window, a stream register s0-s6, or z. -/
inductive Src where
  | q (i : Fin 16)
  | n (i : Fin 32)
  | s (i : Fin 7)
  | z
  deriving DecidableEq, Repr

/-- A destination operand (R58): queue only, a named register, the composer s7, or z. -/
inductive Dst where
  | queue
  | n (i : Fin 32)
  | s7
  | z
  deriving DecidableEq, Repr

/-- A source with its mode bit (R63): `trap = false` reads in block mode. -/
structure SrcM where
  src : Src
  trap : Bool
  deriving DecidableEq, Repr

/-- Precision suffix of the scalar floating-point instructions. -/
inductive Prec where
  | d
  | s
  deriving DecidableEq, Repr

/-- The six integer conditions (R333). -/
inductive Cond where
  | eq | ne | lt | ltu | le | leu
  deriving DecidableEq, Repr

/-- The conditions of `fcmp` (R339). -/
inductive FCond where
  | eq | lt | le | un | eqSig
  deriving DecidableEq, Repr

/-- The forms of `ext` (R335). -/
inductive ExtKind where
  | sb | ub | sh | uh | sw | uw
  deriving DecidableEq, Repr

/-- The rounding modes of R88. -/
inductive Rounding where
  | rne | rtz | rup | rdn | rna
  deriving DecidableEq, Repr

/-- A rounding field (R88): a mode of its own, or code 7, which takes `FP.CTRL`. -/
inductive RndField where
  | mode (r : Rounding)
  | dyn
  deriving DecidableEq, Repr

/-- Access sizes SZ 0-3: 1, 2, 4 or 8 bytes (R299). -/
inductive Size where
  | b | h | w | d
  deriving DecidableEq, Repr

/-- The size and extension of a load: SX = 1 with SZ = 3 is reserved, so it has no constructor (R80). -/
inductive LoadKind where
  | ub | uh | uw | sb | sh | sw | d
  deriving DecidableEq, Repr

/-- The scopes of R132. -/
inductive Scope where
  | core | hearth | span | die | device | system
  deriving DecidableEq, Repr

/-- SZ of the atomic instructions: word or dword (R299). -/
inductive ASize where
  | w | d
  deriving DecidableEq, Repr

/-- ORD of the atomic instructions (R299). -/
inductive Order where
  | relaxed | acquire | release | sc
  deriving DecidableEq, Repr

/-- The operations of `atom` and `vatom` (R318). -/
inductive AtomOp where
  | add | and | or | xor | min | max | minu | maxu
  deriving DecidableEq, Repr

/-- The mask fields VM, ME and Z of a vector instruction (R69, R299). -/
structure VMask where
  vm : Fin 16
  me : Bool
  z : Bool
  deriving DecidableEq, Repr

/-- The types of `vcmp` (R392). -/
inductive VCmpType where
  | i | u | s | d
  deriving DecidableEq, Repr

/-- The conditions of `vcmp` (R392). -/
inductive VCond where
  | eq | ne | lt | le | un
  deriving DecidableEq, Repr

/-- The operations of `vred` (R106, R400). -/
inductive VRedOp where
  | addI | addS | addD | minI | maxI | minS | maxS | or | and
  deriving DecidableEq, Repr

/-- The forms of `vfma` (R395), and of `fma` inside the arithmetic. -/
inductive FmaKind where
  | fma | fms | fnma | fnms
  deriving DecidableEq, Repr

/-- The selector of `vext` (R390). -/
inductive VExtKind where
  | w | sw | d
  deriving DecidableEq, Repr

/-- CXL states of a half of a host line at the bridge (R255). -/
inductive CxlState where
  | i | s | e | m
  deriving DecidableEq, Repr

/-- One constructor for each row of the opcode table. The docstring gives the row's mnemonic and rule. -/
inductive Instr where
  -- the 190 instructions of 32 bits
  /-- ADD (R313). -/
  | add (d : Dst) (a b : SrcM)
  /-- SUB (R313). -/
  | sub (d : Dst) (a b : SrcM)
  /-- AND (R316). -/
  | and (d : Dst) (a b : SrcM)
  /-- OR (R316). -/
  | or (d : Dst) (a b : SrcM)
  /-- XOR (R316). -/
  | xor (d : Dst) (a b : SrcM)
  /-- SHL (R376). -/
  | shl (d : Dst) (a b : SrcM)
  /-- SHR (R376). -/
  | shr (d : Dst) (a b : SrcM)
  /-- SAR (R376). -/
  | sar (d : Dst) (a b : SrcM)
  /-- MIN (R366). -/
  | min (d : Dst) (a b : SrcM)
  /-- MAX (R366). -/
  | max (d : Dst) (a b : SrcM)
  /-- MINU (R366). -/
  | minu (d : Dst) (a b : SrcM)
  /-- MAXU (R366). -/
  | maxu (d : Dst) (a b : SrcM)
  /-- MUL (R368). -/
  | mul (d : Dst) (a b : SrcM)
  /-- MULH (R368). -/
  | mulh (d : Dst) (a b : SrcM)
  /-- MULHU (R368). -/
  | mulhu (d : Dst) (a b : SrcM)
  /-- DIV (R334). -/
  | div (d : Dst) (a b : SrcM)
  /-- DIVU (R334). -/
  | divu (d : Dst) (a b : SrcM)
  /-- REM (R334). -/
  | rem (d : Dst) (a b : SrcM)
  /-- REMU (R334). -/
  | remu (d : Dst) (a b : SrcM)
  /-- CLZ (R332). -/
  | clz (d : Dst) (a : SrcM)
  /-- CTZ (R332). -/
  | ctz (d : Dst) (a : SrcM)
  /-- POPC (R332). -/
  | popc (d : Dst) (a : SrcM)
  /-- MOV (R367). -/
  | mov (d : Dst) (a : SrcM)
  /-- EXT (R335). -/
  | ext (t : ExtKind) (d : Dst) (a : SrcM)
  /-- SEL (R373). -/
  | sel (d : Dst) (a b : SrcM)
  /-- ADDI (R313). -/
  | addi (d : Dst) (a : SrcM) (imm : BitVec 11)
  /-- ANDI (R316). -/
  | andi (d : Dst) (a : SrcM) (imm : BitVec 11)
  /-- ORI (R316). -/
  | ori (d : Dst) (a : SrcM) (imm : BitVec 11)
  /-- XORI (R316). -/
  | xori (d : Dst) (a : SrcM) (imm : BitVec 11)
  /-- SHLI (R376). -/
  | shli (d : Dst) (a : SrcM) (k : BitVec 6)
  /-- SHRI (R376). -/
  | shri (d : Dst) (a : SrcM) (k : BitVec 6)
  /-- SARI (R376). -/
  | sari (d : Dst) (a : SrcM) (k : BitVec 6)
  /-- CMP (R333). -/
  | cmp (c : Cond) (d : Dst) (a b : SrcM)
  /-- CMPI (R333). -/
  | cmpi (c : Cond) (d : Dst) (a : SrcM) (imm : BitVec 8)
  /-- LI (R363). -/
  | li (d : Dst) (imm : BitVec 18)
  /-- LIH (R363). -/
  | lih (d : Fin 32) (half : Fin 4) (v : BitVec 16)
  /-- BFX (R325). -/
  | bfx (d : Dst) (a : Src) (pos len : BitVec 6)
  /-- BFI (R325). -/
  | bfi (d : Fin 32) (a : Src) (pos len : BitVec 6)
  /-- FADD (R337). -/
  | fadd (p : Prec) (d : Dst) (a b : SrcM)
  /-- FSUB (R337). -/
  | fsub (p : Prec) (d : Dst) (a b : SrcM)
  /-- FMUL (R337). -/
  | fmul (p : Prec) (d : Dst) (a b : SrcM)
  /-- FDIV (R337). -/
  | fdiv (p : Prec) (d : Dst) (a b : SrcM)
  /-- FMIN (R344). -/
  | fmin (p : Prec) (d : Dst) (a b : SrcM)
  /-- FMAX (R344). -/
  | fmax (p : Prec) (d : Dst) (a b : SrcM)
  /-- FSQRT (R348). -/
  | fsqrt (p : Prec) (d : Dst) (a : SrcM)
  /-- FSGNJ (R347). -/
  | fsgnj (p : Prec) (d : Dst) (a b : SrcM)
  /-- FSGNN (R347). -/
  | fsgnn (p : Prec) (d : Dst) (a b : SrcM)
  /-- FSGNX (R347). -/
  | fsgnx (p : Prec) (d : Dst) (a b : SrcM)
  /-- FCLASS (R338). -/
  | fclass (p : Prec) (d : Dst) (a : SrcM)
  /-- FMA (R343). -/
  | fma (p : Prec) (d : Fin 32) (a b : SrcM)
  /-- FMS (R343). -/
  | fms (p : Prec) (d : Fin 32) (a b : SrcM)
  /-- FNMA (R343). -/
  | fnma (p : Prec) (d : Fin 32) (a b : SrcM)
  /-- FNMS (R343). -/
  | fnms (p : Prec) (d : Fin 32) (a b : SrcM)
  /-- FCMP (R339). -/
  | fcmp (c : FCond) (p : Prec) (d : Dst) (a b : SrcM)
  /-- FCVT (R340). -/
  | fcvt (code : BitVec 6) (sat : Bool) (r : RndField) (d : Dst) (a : SrcM)
  /-- FRINT (R346). -/
  | frint (p : Prec) (r : RndField) (d : Dst) (a : SrcM)
  /-- GMUL (R353). -/
  | gmul (d : Dst) (a b : SrcM)
  /-- GDIV (R353). -/
  | gdiv (d : Dst) (a b : SrcM)
  /-- GDAMP (R350). -/
  | gdamp (d : Dst) (a b : SrcM)
  /-- GMARG (R351). -/
  | gmarg (d : Dst) (a b : SrcM)
  /-- GMARGI (R351). -/
  | gmargi (d : Dst) (a b : SrcM)
  /-- GMEAN (R352). -/
  | gmean (d : Dst) (a : SrcM)
  /-- B (R320). -/
  | b (imm : BitVec 24)
  /-- CALL (R328). -/
  | call (imm : BitVec 24)
  /-- BZ (R327). -/
  | bz (a : SrcM) (imm : BitVec 17)
  /-- BNZ (R327). -/
  | bnz (a : SrcM) (imm : BitVec 17)
  /-- JR (R328). -/
  | jr (a : SrcM)
  /-- CALLR (R328). -/
  | callr (a : SrcM)
  /-- RET (R329). -/
  | ret
  /-- TEND (R381). -/
  | tend
  /-- NOP (R369). -/
  | nop
  /-- LD (R359). -/
  | ld (k : LoadKind) (d : Dst) (a : SrcM) (imm : BitVec 8)
  /-- ST (R378). -/
  | st (sz : Size) (data : Src) (a : SrcM) (imm : BitVec 8)
  /-- LDA (R361). -/
  | lda (k : LoadKind) (d : Dst) (a : SrcM) (sc : Scope) (off : BitVec 5)
  /-- STR (R379). -/
  | str (sz : Size) (data : Src) (a : SrcM) (sc : Scope) (off : BitVec 5)
  /-- ATOM_ADD (R318). -/
  | atomAdd (sz : ASize) (ord : Order) (d : Dst) (a b : Src)
  /-- ATOM_AND (R318). -/
  | atomAnd (sz : ASize) (ord : Order) (d : Dst) (a b : Src)
  /-- ATOM_OR (R318). -/
  | atomOr (sz : ASize) (ord : Order) (d : Dst) (a b : Src)
  /-- ATOM_XOR (R318). -/
  | atomXor (sz : ASize) (ord : Order) (d : Dst) (a b : Src)
  /-- ATOM_MIN (R318). -/
  | atomMin (sz : ASize) (ord : Order) (d : Dst) (a b : Src)
  /-- ATOM_MAX (R318). -/
  | atomMax (sz : ASize) (ord : Order) (d : Dst) (a b : Src)
  /-- ATOM_MINU (R318). -/
  | atomMinu (sz : ASize) (ord : Order) (d : Dst) (a b : Src)
  /-- ATOM_MAXU (R318). -/
  | atomMaxu (sz : ASize) (ord : Order) (d : Dst) (a b : Src)
  /-- CAS (R330). -/
  | cas (sz : ASize) (ord : Order) (d : Fin 32) (a b : Src)
  /-- SWAP (R330). -/
  | swap (sz : ASize) (ord : Order) (d : Dst) (a b : Src)
  /-- FENCE_FULL (R341). -/
  | fenceFull (sc : Scope)
  /-- FENCE_ACQUIRE (R341). -/
  | fenceAcquire (sc : Scope)
  /-- FENCE_RELEASE (R341). -/
  | fenceRelease (sc : Scope)
  /-- FENCEI (R342). -/
  | fencei
  /-- CFLUSH_CLEAN (R331). -/
  | cflushClean (a : SrcM)
  /-- CFLUSH_INV (R331). -/
  | cflushInv (a : SrcM)
  /-- CFLUSH_WBINV (R331). -/
  | cflushWbinv (a : SrcM)
  /-- SEND (R374). -/
  | send (cls : BitVec 8) (a b : Src) (keep : Bool)
  /-- SPAWN (R377). -/
  | spawn (cls : BitVec 8) (a b : Src)
  /-- MIGRATE (R364). -/
  | migrate (cls : BitVec 8) (a : Src)
  /-- SBIND_OFF (R370). -/
  | sbindOff (st : Fin 6)
  /-- SBIND_CHAN (R370). -/
  | sbindChan (st : Fin 6) (a : SrcM)
  /-- SBIND_COPY (R372). -/
  | sbindCopy (st : Fin 6)
  /-- CVG_NOTE (R151). -/
  | cvgNote (a : SrcM)
  /-- CVG_MAX (R151). -/
  | cvgMax (d : Dst)
  /-- CVG_COUNT (R151). -/
  | cvgCount (d : Dst)
  /-- CVG_QUIET (R151). -/
  | cvgQuiet (d : Dst)
  /-- CVG_CLEAR (R151). -/
  | cvgClear
  /-- CUT (R154). -/
  | cut (d : Dst)
  /-- CUTSTAT (R157). -/
  | cutstat (d : Dst) (a : SrcM)
  /-- BARRIVE (R322). -/
  | barrive (bar : BitVec 7)
  /-- BWAIT (R322). -/
  | bwait (bar : BitVec 7)
  /-- BSYNC (R322). -/
  | bsync (bar : BitVec 7)
  /-- BJOIN (R322). -/
  | bjoin (bar : BitVec 7) (a : Src)
  /-- BLEAVE (R322). -/
  | bleave (bar : BitVec 7)
  /-- BSTAT (R323). -/
  | bstat (bar : BitVec 7)
  /-- HOPEN (R355). -/
  | hopen (d : Dst) (a : SrcM)
  /-- HENTER (R354). -/
  | henter (a : SrcM)
  /-- HRESOLVE_C (R356). -/
  | hresolveC (d : Dst) (a : SrcM)
  /-- HRESOLVE_R (R356). -/
  | hresolveR (d : Dst) (a : SrcM)
  /-- HRESOLVE_X (R356). -/
  | hresolveX (d : Dst) (a : SrcM)
  /-- HSTAT (R358). -/
  | hstat (d : Dst) (a : SrcM)
  /-- QEND (R182). -/
  | qend
  /-- VFLAG (R184). -/
  | vflag (a : SrcM)
  /-- TIME (R172). -/
  | time (d : Dst)
  /-- LEASE (R266). -/
  | lease (d : Dst) (a b : SrcM)
  /-- LSTAT (R267). -/
  | lstat (d : Dst) (a : SrcM)
  /-- VCLAIM (R391). -/
  | vclaim (d : Dst) (a : SrcM)
  /-- VADD_I (R387). -/
  | vaddI (vd va vb : Fin 16) (m : VMask)
  /-- VSUB_I (R387). -/
  | vsubI (vd va vb : Fin 16) (m : VMask)
  /-- VMUL_I (R387). -/
  | vmulI (vd va vb : Fin 16) (m : VMask)
  /-- VMIN_I (R398). -/
  | vminI (vd va vb : Fin 16) (m : VMask)
  /-- VMAX_I (R398). -/
  | vmaxI (vd va vb : Fin 16) (m : VMask)
  /-- VMINU (R398). -/
  | vminu (vd va vb : Fin 16) (m : VMask)
  /-- VMAXU (R398). -/
  | vmaxu (vd va vb : Fin 16) (m : VMask)
  /-- VAND (R388). -/
  | vand (vd va vb : Fin 16) (m : VMask)
  /-- VOR (R388). -/
  | vor (vd va vb : Fin 16) (m : VMask)
  /-- VXOR (R388). -/
  | vxor (vd va vb : Fin 16) (m : VMask)
  /-- VSHL (R402). -/
  | vshl (vd va vb : Fin 16) (m : VMask)
  /-- VSHR (R402). -/
  | vshr (vd va vb : Fin 16) (m : VMask)
  /-- VSAR (R402). -/
  | vsar (vd va vb : Fin 16) (m : VMask)
  /-- VMOV (R399). -/
  | vmov (vd va : Fin 16) (m : VMask)
  /-- VADD_S (R387). -/
  | vaddS (vd va vb : Fin 16) (m : VMask)
  /-- VSUB_S (R387). -/
  | vsubS (vd va vb : Fin 16) (m : VMask)
  /-- VMUL_S (R387). -/
  | vmulS (vd va vb : Fin 16) (m : VMask)
  /-- VDIV_S (R394). -/
  | vdivS (vd va vb : Fin 16) (m : VMask)
  /-- VMIN_S (R398). -/
  | vminS (vd va vb : Fin 16) (m : VMask)
  /-- VMAX_S (R398). -/
  | vmaxS (vd va vb : Fin 16) (m : VMask)
  /-- VSQRT_S (R394). -/
  | vsqrtS (vd va : Fin 16) (m : VMask)
  /-- VADD_D (R387). -/
  | vaddD (vd va vb : Fin 16) (m : VMask)
  /-- VSUB_D (R387). -/
  | vsubD (vd va vb : Fin 16) (m : VMask)
  /-- VMUL_D (R387). -/
  | vmulD (vd va vb : Fin 16) (m : VMask)
  /-- VDIV_D (R394). -/
  | vdivD (vd va vb : Fin 16) (m : VMask)
  /-- VMIN_D (R398). -/
  | vminD (vd va vb : Fin 16) (m : VMask)
  /-- VMAX_D (R398). -/
  | vmaxD (vd va vb : Fin 16) (m : VMask)
  /-- VSQRT_D (R394). -/
  | vsqrtD (vd va : Fin 16) (m : VMask)
  /-- VFMA (R395). -/
  | vfma (p : Prec) (vd va vb : Fin 16) (m : VMask)
  /-- VFMS (R395). -/
  | vfms (p : Prec) (vd va vb : Fin 16) (m : VMask)
  /-- VFNMA (R395). -/
  | vfnma (p : Prec) (vd va vb : Fin 16) (m : VMask)
  /-- VFNMS (R395). -/
  | vfnms (p : Prec) (vd va vb : Fin 16) (m : VMask)
  /-- VCMP (R392). -/
  | vcmp (t : VCmpType) (c : VCond) (vd va vb : Fin 16) (m : VMask)
  /-- VSEL (R401). -/
  | vsel (vd va vb vm : Fin 16) (z : Bool)
  /-- VCVT (R393). -/
  | vcvt (code : BitVec 6) (vd va vb : Fin 16) (m : VMask)
  /-- VRED (R400). -/
  | vred (op : VRedOp) (va : Fin 16) (m : VMask)
  /-- VBCAST (R390). -/
  | vbcast (p : Prec) (vd : Fin 16) (m : VMask) (a : SrcM)
  /-- VEXT (R390). -/
  | vext (k : VExtKind) (va : Fin 16) (a : SrcM)
  /-- VIOTA (R390). -/
  | viota (vd : Fin 16) (m : VMask)
  /-- VPOPC (R390). -/
  | vpopc (va vm : Fin 16) (me : Bool)
  /-- VLD (R397). -/
  | vld (sz : Size) (strided : Bool) (vd : Fin 16) (m : VMask) (a : SrcM)
  /-- VST (R397). -/
  | vst (sz : Size) (strided : Bool) (vd : Fin 16) (m : VMask) (a : SrcM)
  /-- VGATHER (R396). -/
  | vgather (sz : Size) (vd va : Fin 16) (m : VMask) (a : SrcM)
  /-- VSCATTER (R396). -/
  | vscatter (sz : Size) (vd va : Fin 16) (m : VMask) (a : SrcM)
  /-- VATOM (R389). -/
  | vatom (op : AtomOp) (vd va : Fin 16) (m : VMask) (a : SrcM)
  /-- XGATHER (R236). -/
  | xgather (a b : SrcM)
  /-- XSCATTER (R236). -/
  | xscatter (a b : SrcM)
  /-- XCOPY (R236). -/
  | xcopy (a b : SrcM)
  /-- XPOP (R244). -/
  | xpop (d : Dst) (a : SrcM)
  /-- XTRY (R244). -/
  | xtry (d : Dst) (a : SrcM)
  /-- XSTAT (R245). -/
  | xstat (d : Dst) (a : SrcM)
  /-- ARING (R317). -/
  | aring (a b : SrcM)
  /-- AADV (R312). -/
  | aadv (a b : SrcM)
  /-- AADV_STAT (R312). -/
  | aadvStat (d : Dst) (a : SrcM)
  /-- AMM (R228). -/
  | amm (acc ra rb : Fin 16) (mode : BitVec 4) (zp : Bool) (pop : BitVec 2)
  /-- AZERO (R314). -/
  | azero (acc : Fin 16) (single : Bool)
  /-- ALD (R314). -/
  | ald (acc : Fin 16) (a : SrcM) (fmt : Fin 4)
  /-- AST (R314). -/
  | ast (acc : Fin 16) (a : SrcM) (fmt : Fin 4) (r : RndField)
  /-- AWAIT (R319). -/
  | await
  /-- SYSR (R380). -/
  | sysr (d : Dst) (reg : BitVec 12)
  /-- SYSW (R380). -/
  | sysw (reg : BitVec 12) (a : Src)
  /-- TRAP (R383). -/
  | trap (code : BitVec 24)
  /-- TRET (R384). -/
  | tret
  /-- TLBI_PAGE (R382). -/
  | tlbiPage (a b : SrcM)
  /-- TLBI_ASID (R382). -/
  | tlbiAsid (b : SrcM)
  /-- TLBI_ALL (R382). -/
  | tlbiAll
  /-- BRK (R326). -/
  | brk (code : BitVec 24)
  -- the 25 parcels of 16 bits; x and y are 5-bit operand codes (R60)
  /-- ADD_16 (R300). -/
  | add16 (x y : BitVec 5)
  /-- SUB_16 (R300). -/
  | sub16 (x y : BitVec 5)
  /-- AND_16 (R300). -/
  | and16 (x y : BitVec 5)
  /-- OR_16 (R300). -/
  | or16 (x y : BitVec 5)
  /-- XOR_16 (R300). -/
  | xor16 (x y : BitVec 5)
  /-- SHL_16 (R300). -/
  | shl16 (x y : BitVec 5)
  /-- SHR_16 (R300). -/
  | shr16 (x y : BitVec 5)
  /-- MOV_16 (R300). -/
  | mov16 (x : BitVec 5) (y : Fin 16)
  /-- ADDI_16 (R300). -/
  | addi16 (x imm : BitVec 5)
  /-- LI_16 (R300). -/
  | li16 (imm : BitVec 10)
  /-- CMP_EQ_16 (R300). -/
  | cmpEq16 (x y : BitVec 5)
  /-- CMP_LT_16 (R300). -/
  | cmpLt16 (x y : BitVec 5)
  /-- LD_D_16 (R300). -/
  | ldD16 (x : BitVec 5) (off : BitVec 5)
  /-- ST_D_16 (R300). -/
  | stD16 (x y : BitVec 5)
  /-- FADD_D_16 (R300). -/
  | faddD16 (x y : BitVec 5)
  /-- FSUB_D_16 (R300). -/
  | fsubD16 (x y : BitVec 5)
  /-- FMUL_D_16 (R300). -/
  | fmulD16 (x y : BitVec 5)
  /-- GMUL_16 (R300). -/
  | gmul16 (x y : BitVec 5)
  /-- BZ_16 (R300). -/
  | bz16 (x imm : BitVec 5)
  /-- BNZ_16 (R300). -/
  | bnz16 (x imm : BitVec 5)
  /-- B_16 (R300). -/
  | b16 (imm : BitVec 10)
  /-- RET_16 (R329). -/
  | ret16
  /-- TEND_16 (R381). -/
  | tend16
  /-- FRAME (R345). -/
  | frame (k : BitVec 5)
  /-- NOP_16 (R369). -/
  | nop16
  -- the 127 events of the part, in the order of the table; what an event concerns stands in the `Args` beside it
  /-- TRAP_CAUSE_READ (R212). -/
  | trapCauseRead
  /-- JRNL_RELEASE (R118). -/
  | jrnlRelease
  /-- LSPLIT_WRITE (R113). -/
  | lsplitWrite
  /-- LINK_REGISTER_ACCESS (R268). -/
  | linkRegisterAccess
  /-- FP_STAT_READ (R94). -/
  | fpStatRead
  /-- SUBMISSION_WRITE (R189). -/
  | submissionWrite
  /-- PACKET_NOP (R191). -/
  | packetNop
  /-- PACKET_DISPATCH (R192). -/
  | packetDispatch
  /-- PACKET_STOP (R191). -/
  | packetStop
  /-- PACKET_INDIRECT (R194). -/
  | packetIndirect
  /-- PACKET_STATUS (R195). -/
  | packetStatus
  /-- QUEUE_DISABLE (R193). -/
  | queueDisable
  /-- QUEUE_ENABLE (R193). -/
  | queueEnable
  /-- SCHEDULER_FIRMWARE_RESTART (R190). -/
  | schedulerFirmwareRestart
  /-- LAUNCH_PLACE (R197). -/
  | launchPlace
  /-- GANG_COMMIT (R201). -/
  | gangCommit
  /-- LAUNCH_QUIESCENT (R51). -/
  | launchQuiescent
  /-- LAUNCH_END_QUENCHED (R183). -/
  | launchEndQuenched
  /-- COMPLETION_RECORD_WRITE (R51). -/
  | completionRecordWrite
  /-- RANGE_HANDOUT (R200). -/
  | rangeHandout
  /-- RANGE_TASK_START (R56). -/
  | rangeTaskStart
  /-- RANGE_STEAL (R200). -/
  | rangeSteal
  /-- MESSAGE_ARRIVAL (R45). -/
  | messageArrival
  /-- REFUSAL_RECEIVED (R46). -/
  | refusalReceived
  /-- RETRY_TIMER (R46). -/
  | retryTimer
  /-- ACCEPTANCE_RECEIVED (R36). -/
  | acceptanceReceived
  /-- MESSAGE_DISPATCH (R47). -/
  | messageDispatch
  /-- PRIORITY_AGING (R47). -/
  | priorityAging
  /-- WATCHDOG_EXPIRY (R29). -/
  | watchdogExpiry
  /-- VALUE_LANDS (R62). -/
  | valueLands
  /-- POSTED_STORE_ACK (R116). -/
  | postedStoreAck
  /-- POSTED_STORE_REFUSED (R118). -/
  | postedStoreRefused
  /-- ASYNC_TRAP_TAKEN (R211). -/
  | asyncTrapTaken
  /-- ENDED_TASK_TRAP_CONTEXT (R211). -/
  | endedTaskTrapContext
  /-- SLICE_EXPIRY (R203). -/
  | sliceExpiry
  /-- SLICE_IDLE_END (R203). -/
  | sliceIdleEnd
  /-- CONTEXT_SAVE (R219). -/
  | contextSave
  /-- TONGS_DRAIN_EXPIRY (R220). -/
  | tongsDrainExpiry
  /-- CONTEXT_RESTORE (R222). -/
  | contextRestore
  /-- BEAT_DELIVERY (R16). -/
  | beatDelivery
  /-- TASK_DIVERSION (R177). -/
  | taskDiversion
  /-- QUENCH_BUDGET_EXPIRY (R181). -/
  | quenchBudgetExpiry
  /-- DEADLINE_FIRE (R175). -/
  | deadlineFire
  /-- CONVERGENCE_SAMPLE (R152). -/
  | convergenceSample
  /-- SWEEP_END (R160). -/
  | sweepEnd
  /-- CUT_COPY_POINT (R155). -/
  | cutCopyPoint
  /-- CUT_COMPLETE (R156). -/
  | cutComplete
  /-- ANVIL_PORT_ACCEPT (R207). -/
  | anvilPortAccept
  /-- AMM_START (R228). -/
  | ammStart
  /-- AMM_RETIRE (R231). -/
  | ammRetire
  /-- SUBARRAY_GATE (R232). -/
  | subarrayGate
  /-- SUBARRAY_WAKE (R232). -/
  | subarrayWake
  /-- TOKEN_ARRIVAL (R233). -/
  | tokenArrival
  /-- TOKEN_IDLE_RELEASE (R233). -/
  | tokenIdleRelease
  /-- TOKEN_HOLD_EXPIRY (R233). -/
  | tokenHoldExpiry
  /-- VECTOR_BIND (R205). -/
  | vectorBind
  /-- VECTOR_COMPLETE (R234). -/
  | vectorComplete
  /-- TONGS_ELEMENT_REPLY (R241). -/
  | tongsElementReply
  /-- GETS (R250). -/
  | gets
  /-- GETX (R250). -/
  | getx
  /-- UPG (R250). -/
  | upg
  /-- PUTM (R254). -/
  | putm
  /-- PUTO (R254). -/
  | puto
  /-- PUTE (R250). -/
  | pute
  /-- PUTS (R250). -/
  | puts
  /-- INVALIDATION (R249). -/
  | invalidation
  /-- INV_ACK (R250). -/
  | invAck
  /-- FWD_GETS (R252). -/
  | fwdGets
  /-- FWD_GETX (R252). -/
  | fwdGetx
  /-- FORWARD_RESPONSE (R251). -/
  | forwardResponse
  /-- MEMORY_DATA_RETURN (R251). -/
  | memoryDataReturn
  /-- GRANT_RECEIVED (R250). -/
  | grantReceived
  /-- PUT_ANSWER (R254). -/
  | putAnswer
  /-- INVALIDATION_TIMEOUT (R259). -/
  | invalidationTimeout
  /-- SNP_INV (R255). -/
  | snpInv
  /-- SNP_DATA (R255). -/
  | snpData
  /-- SNP_CUR (R255). -/
  | snpCur
  /-- HOST_LINE_FILL (R255). -/
  | hostLineFill
  /-- HOST_WRITE (R256). -/
  | hostWrite
  /-- HOST_READ (R256). -/
  | hostRead
  /-- FLIT_RECEIVED (R276). -/
  | flitReceived
  /-- LINK_CONTROL_RECEIVED (R276). -/
  | linkControlReceived
  /-- REPLAY_REQUEST_TIMER (R276). -/
  | replayRequestTimer
  /-- ACK_TIMER (R276). -/
  | ackTimer
  /-- REPLAY_TIMEOUT (R276). -/
  | replayTimeout
  /-- STREAM_FLIT_SEND (R275). -/
  | streamFlitSend
  /-- PEER_READ (R277). -/
  | peerRead
  /-- PEER_WRITE (R277). -/
  | peerWrite
  /-- PEER_ATOMIC (R277). -/
  | peerAtomic
  /-- PEER_RESPONSE (R274). -/
  | peerResponse
  /-- PEER_UNREACHABLE (R278). -/
  | peerUnreachable
  /-- LINK_RETRAIN (R278). -/
  | linkRetrain
  /-- STARVATION_TIMER (R270). -/
  | starvationTimer
  /-- PARK_DELAY_EXPIRY (R271). -/
  | parkDelayExpiry
  /-- WARMING_START (R272). -/
  | warmingStart
  /-- TRANSMITTER_JOIN (R272). -/
  | transmitterJoin
  /-- TRANSMITTER_FAILURE (R279). -/
  | transmitterFailure
  /-- DIE_LINK_LANE_FAILURE (R287). -/
  | dieLinkLaneFailure
  /-- CLOCK_GATE (R283). -/
  | clockGate
  /-- POWER_GATE_TIMER (R283). -/
  | powerGateTimer
  /-- HBM_SELF_REFRESH (R283). -/
  | hbmSelfRefresh
  /-- DIE_POWER_PARK (R283). -/
  | diePowerPark
  /-- LATENCY_TOLERANCE_WRITE (R282). -/
  | latencyToleranceWrite
  /-- THERMAL_READING (R25). -/
  | thermalReading
  /-- POWER_LIMIT_EXCEED (R23). -/
  | powerLimitExceed
  /-- DISCIPLINE_LOSS (R21). -/
  | disciplineLoss
  /-- DISCIPLINE_RETURN (R21). -/
  | disciplineReturn
  /-- SOFT_ERROR (R285). -/
  | softError
  /-- HBM_SCRUB (R285). -/
  | hbmScrub
  /-- HEARTH_RETIRE (R286). -/
  | hearthRetire
  /-- RESET_BOOT (R288). -/
  | resetBoot
  /-- READ_RAS (R291). -/
  | readRas
  /-- READ_SENSORS (R291). -/
  | readSensors
  /-- ATTEST (R289). -/
  | attest
  /-- RETIRE (R291). -/
  | retire
  /-- RECOVERY_IMAGE (R291). -/
  | recoveryImage
  /-- MGMT_RESPONSE_READ (R291). -/
  | mgmtResponseRead
  /-- BARRIER_RELEASE_DELIVERY (R17). -/
  | barrierReleaseDelivery
  /-- REMOTE_ACCESS_AT_TARGET (R115). -/
  | remoteAccessAtTarget
  /-- ATOMIC_OLD_VALUE_RETURN (R318). -/
  | atomicOldValueReturn
  /-- LINKS_ROLE_ANSWER (R266). -/
  | linksRoleAnswer
  /-- TLBI_COMPLETE (R125). -/
  | tlbiComplete
  /-- ANVIL_OPERATION_RETIRE (R231). -/
  | anvilOperationRetire
  /-- VECTOR_TRANSFER_COMPLETE (R234). -/
  | vectorTransferComplete
  /-- HOST_PORT_DOWN (R282). -/
  | hostPortDown
  /-- HOST_PORT_UP (R282). -/
  | hostPortUp
  /-- POWER_LOSS (R289). -/
  | powerLoss
  deriving DecidableEq, Repr

/-- What an event concerns. Each event's meaning says which of these it reads. -/
structure Args where
  core : Nat := 0
  slot : Nat := 0
  launch : Nat := 0
  hearth : Nat := 0
  die : Nat := 0
  peer : Nat := 0
  port : Nat := 0
  queue : Nat := 0
  /-- A message, producer, journal entry, command, tag, line, half, transmitter or remote access. -/
  id : Nat := 0
  /-- A further number: a register, a reason, a value, a key. -/
  n : Nat := 0
  int : Int := 0
  flag : Bool := false
  bytes : List Byte := []
  dst : Dst := .z
  src : Src := .z
  deriving DecidableEq, Repr

/-- An event with what it concerns. -/
structure Event where
  kind : Instr
  args : Args := {}
  deriving DecidableEq, Repr

/-- The rows of the table that are events and have no encoding. -/
def Instr.isEvent : Instr → Bool
  | .trapCauseRead | .jrnlRelease | .lsplitWrite | .linkRegisterAccess | .fpStatRead | .submissionWrite
  | .packetNop | .packetDispatch | .packetStop | .packetIndirect | .packetStatus | .queueDisable
  | .queueEnable | .schedulerFirmwareRestart | .launchPlace | .gangCommit | .launchQuiescent
  | .launchEndQuenched | .completionRecordWrite | .rangeHandout | .rangeTaskStart | .rangeSteal
  | .messageArrival | .refusalReceived | .retryTimer | .acceptanceReceived | .messageDispatch
  | .priorityAging | .watchdogExpiry | .valueLands | .postedStoreAck | .postedStoreRefused | .asyncTrapTaken
  | .endedTaskTrapContext | .sliceExpiry | .sliceIdleEnd | .contextSave | .tongsDrainExpiry | .contextRestore
  | .beatDelivery | .taskDiversion | .quenchBudgetExpiry | .deadlineFire | .convergenceSample | .sweepEnd
  | .cutCopyPoint | .cutComplete | .anvilPortAccept | .ammStart | .ammRetire | .subarrayGate | .subarrayWake
  | .tokenArrival | .tokenIdleRelease | .tokenHoldExpiry | .vectorBind | .vectorComplete | .tongsElementReply
  | .gets | .getx | .upg | .putm | .puto | .pute | .puts | .invalidation | .invAck | .fwdGets | .fwdGetx
  | .forwardResponse | .memoryDataReturn | .grantReceived | .putAnswer | .invalidationTimeout | .snpInv
  | .snpData | .snpCur | .hostLineFill | .hostWrite | .hostRead | .flitReceived | .linkControlReceived
  | .replayRequestTimer | .ackTimer | .replayTimeout | .streamFlitSend | .peerRead | .peerWrite | .peerAtomic
  | .peerResponse | .peerUnreachable | .linkRetrain | .starvationTimer | .parkDelayExpiry | .warmingStart
  | .transmitterJoin | .transmitterFailure | .dieLinkLaneFailure | .clockGate | .powerGateTimer
  | .hbmSelfRefresh | .diePowerPark | .latencyToleranceWrite | .thermalReading | .powerLimitExceed
  | .disciplineLoss | .disciplineReturn | .softError | .hbmScrub | .hearthRetire | .resetBoot | .readRas
  | .readSensors | .attest | .retire | .recoveryImage | .mgmtResponseRead | .barrierReleaseDelivery
  | .remoteAccessAtTarget | .atomicOldValueReturn | .linksRoleAnswer | .tlbiComplete | .anvilOperationRetire
  | .vectorTransferComplete | .hostPortDown | .hostPortUp | .powerLoss => true
  | _ => false

end Sys2Proof
end

