-- ==== Sys2Proof/Machine/State.lean ====
section
/-! DEFINITION. The state of the part: every piece the manual names, as plain data, with its value after reset as
the field's default. -/

namespace Sys2Proof.Machine

/-- Reasons a step stops the whole machine. The part has none: a failing task traps, a failing launch ends with a
status and a failing hearth is fenced (R208, R213, R259). -/
inductive Fault where
  /-- Raised by nothing in this model. Safe: no run ends here. -/
  | never
  deriving DecidableEq, Repr

/-- Reasons a step has no meaning. -/
inductive Refusal where
  /-- Raised by an arm of `exec` that has no meaning yet. Safe: the run ends there. -/
  | notModelled (mnemonic : String)
  deriving DecidableEq, Repr

/-! ### Registers of a task -/

/-- The full/empty state of a register or queue entry (R62, R115): full, empty with the producer it awaits (none: no
producer), or full-faulted with the cause, address and pc of the load that faulted it. -/
inductive Fill where
  | full
  | empty (producer : Option Nat)
  | faulted (poison : Bool) (addr pc : Word)
  deriving DecidableEq, Repr

/-- A named register or queue entry (R62). -/
structure Reg where
  val : Word := 0
  st : Fill := .full
  deriving DecidableEq, Repr

/-- A register that is full and holds `v`. -/
abbrev Reg.of (v : Word) : Reg := ⟨v, .full⟩

/-- A frame register never written (R65). -/
abbrev Reg.fresh : Reg := ⟨0, .empty none⟩

/-- A resident frame that is not the active one: its n0-n23 and the pc its `ret` resumes at (R67). -/
structure Frame where
  regs : List Reg
  ret : Option Word
  deriving DecidableEq, Repr

/-- The named window of a slot (R65-R67). -/
structure Win where
  /-- n0-n31 of the active frame. -/
  act : List Reg := List.replicate 32 .fresh
  /-- The frame before it, when resident. -/
  below : Option Frame := none
  /-- The pc the active frame's `ret` resumes at; none in an outermost frame. -/
  ret : Option Word := none
  /-- The frame size of the active frame, 8-32. -/
  k : Nat := 32
  /-- The link stack: the frame sizes of the callers, newest first. -/
  links : List Nat := []
  deriving DecidableEq, Repr

/-- Privilege levels (R72). -/
inductive Priv where
  | user | kernel | firmware
  deriving DecidableEq, Repr

/-- How the task in a slot started (R26, R27, R179, R211). -/
inductive Start where
  | message | continuation | range | wrapup | trapContext
  deriving DecidableEq, Repr

/-- A trap bank: cause, epc, addr and info (R73). -/
structure Bank where
  cause : Word := 0
  epc : Word := 0
  addr : Word := 0
  info : Word := 0
  deriving DecidableEq, Repr

/-- What trap entry saves (R212): the queue, n24-n31, privilege, `FP.CTRL` and `HYP.CUR`; and where the task's frame
stands while the handler's frames lie above it. -/
structure Shadow where
  queue : List Reg
  args : List Reg
  priv : Priv
  fpCtrl : Word
  hypCur : Nat
  /-- The interrupted frame's own return pc, frame size and callers. -/
  ret : Option Word
  k : Nat
  links : List Nat
  /-- Records in use when the handler's frame opened. -/
  mark : Nat
  /-- Elements that the interrupted vector store had performed (R386). -/
  vdone : Nat := 0
  /-- `TRAP.CAUSE` was read (R212). -/
  causeRead : Bool := false
  /-- The pc at which the trap was taken, and whether a class entry's or `TRAP.VEC`'s first parcel stood there, not executed
  (R40, R345). -/
  pc : Word := 0
  entry : Bool := false
  /-- The barrier of the interrupted `bwait` or `bsync` (R322). -/
  inBwait : Option Nat := none
  deriving DecidableEq, Repr

/-- A stream register s1-s6 (R68, R370-R372). -/
inductive Bind where
  | unbound
  /-- Bound to the arrival channel of a class. Each message stands as its header word, its mismatch mark, and the
  words not read yet; `started` says that its header word was read. -/
  | chan (cls : Nat) (msgs : List (Word × Bool × Bool × List Word))
  /-- Ready for a copy stream: the words buffered, the core's command that feeds it, and whether it has completed. -/
  | copy (buf : List Word) (feeder : Option Nat) (finished : Bool)
  deriving DecidableEq, Repr

/-- A vector register read or written while a fault is held in it (R285, R386). -/
structure VFault where
  poison : Bool
  addr : Word
  pc : Word
  deriving DecidableEq, Repr

/-- A value owed to a task by a long-latency producer (R62). -/
inductive OwedKind where
  /-- The value is formed and lands. -/
  | value (v : Word)
  /-- The access was refused: the destination becomes full-faulted (R115). -/
  | refused (poison : Bool) (addr pc : Word)
  /-- A distant access has not answered yet; the table of remote accesses holds it. -/
  | remote
  /-- The reading of the die's time unit, taken when it is performed (R172). -/
  | time
  /-- The status word of R267. -/
  | lstat (peer : Nat)
  deriving DecidableEq, Repr

/-- An outstanding producer of a task. `lda` marks one that holds later memory instructions (R361); `holds` one that
lets the task issue nothing until it lands (R244). -/
structure Owed where
  id : Nat
  kind : OwedKind
  lda : Bool := false
  holds : Bool := false
  deriving DecidableEq, Repr

/-- What a task asks of the links role (R266, R268). -/
inductive LinkOp where
  | lease (peer count : Nat) (dst : Dst)
  | read (reg : Nat) (dst : Dst)
  | write (reg : Nat) (v : Word)
  deriving DecidableEq, Repr

/-- What an invalidation removes (R382). -/
inductive TlbiOp where
  | page (va : Word) (asid : Nat)
  | asid (asid : Nat)
  | all
  deriving DecidableEq, Repr

/-- Where a translated address lies (R122). -/
inductive Target where
  | hbm (pa : Nat)
  | host (pa : Nat)
  | peer (peer pa : Nat)
  deriving DecidableEq, Repr

/-- What an address names once every check has passed. -/
inductive Place where
  /-- A unit of this device: hearth, unit and offset. -/
  | sram (h unit off : Nat)
  /-- An element of a unit of this device, or of a peer, through a decoding window. -/
  | window (peer : Option Nat) (h unit w off : Nat)
  /-- SRAM of a peer. -/
  | peerSram (peer : Nat)
  /-- Translated memory and whether its page is cached. -/
  | mem (t : Target) (cacheable : Bool)
  deriving DecidableEq, Repr

/-- Why an issued instruction is held (the stalls of R28). -/
inductive Stall where
  | none
  /-- Issued and tried again each turn: a release, an overlapping vector load, a fence, `FP.STAT` (R119, R94). -/
  | held
  /-- A load behind an overlapping journal entry (R119): its producer, its form, where it goes, and the next pc. -/
  | overlap (id : Nat) (kind : LoadKind) (va : Word) (place : Place) (next : Word)
  /-- Its own Beat delivery (R137, R154, R161); then the task goes on at `next`. -/
  | beat (next : Word)
  /-- Its announcement is delivered; the word is pushed in cycle `due` (R355, R356). -/
  | landing (due : Nat) (dst : Dst) (v next : Word)
  /-- The old value of an atomic whose access is distant (R115, R318). -/
  | atomic (id : Nat) (dst : Dst) (next : Word)
  /-- The answer of the links role, which comes in cycle `due` at the latest (R266, R268). -/
  | links (due : Nat) (op : LinkOp) (next : Word)
  /-- Completion of an invalidation (R125). -/
  | tlbi (op : TlbiOp) (next : Word)
  /-- An Anvil operation the port has accepted (R207, R231). -/
  | anvil (next : Word)
  deriving DecidableEq, Repr

/-- What a slot keeps without a task (R67, R198, R212): of the resident launch. -/
structure SlotBase where
  launch : Nat := 0
  rank : Nat := 0
  asid : Nat := 0
  spillCount : Nat := 0
  spillBase : Nat := 0
  trapVec : Word := 0
  trapStack : Word := 0
  deriving DecidableEq, Repr

/-- A task slot (R26-R30, R73): the task's registers and its context. (DESIGN CHOICE, log 2) -/
structure Slot where
  /-- The slot holds a task. -/
  held : Bool := false
  start : Start := .message
  /-- The task is a wrap-up task, started or diverted (R178, R179). -/
  wrapup : Bool := false
  launch : Nat := 0
  rank : Nat := 0
  /-- The class whose watchdog budget and exclusiveness the task has. -/
  cls : Nat := 0
  /-- The object slot an exclusive task runs for (R42). -/
  excl : Option Nat := none
  pc : Word := 0
  /-- The next parcel is the first at a class entry PC or at `TRAP.VEC` (R40, R345). -/
  entry : Bool := false
  priv : Priv := .user
  queue : List Reg := List.replicate 16 (Reg.of 0)
  win : Win := {}
  /-- Unread words of the payload (s0). -/
  payload : List Word := []
  msgSrc : Word := 0
  msgHdr : Word := 0
  msgSlot : Word := 0
  /-- The outbound composer (s7), at most 8 words; a reserved word is empty (R37, R360). -/
  composer : List Reg := []
  /-- The bindings of s1-s6. -/
  binds : List Bind := List.replicate 6 .unbound
  /-- v0-v15, 64 elements of 32 bits each. -/
  vregs : List (List (BitVec 32)) := List.replicate 16 (List.replicate 64 0)
  /-- Faults held by vector registers. -/
  vfaults : List (Option VFault) := List.replicate 16 Option.none
  /-- `VL`: the lane grant, 0 or 8-64. -/
  vl : Nat := 0
  /-- What the last `vclaim` asked for (R70). -/
  vasked : Nat := 0
  /-- The task has made its first `vclaim`. -/
  vclaimed : Bool := false
  /-- Elements that the vector store at the pc has performed while it waits for journal entries (R116, R386). -/
  vdone : Nat := 0
  fpCtrl : Word := 0
  fpStat : Word := 0
  fmtMode : Word := 0
  gbeta : Word := 0
  vstride : Word := 0
  hypCur : Nat := 0
  quenchPc : Word := 0
  quenchCause : Nat := 0
  quenchLeft : Nat := 0
  wdog : Nat := 0
  /-- `WIN.SPILL`: records used, capacity and base (R67). -/
  spillUsed : Nat := 0
  spillCount : Nat := 0
  spillBase : Nat := 0
  bank1 : Bank := {}
  bank2 : Bank := {}
  trapVec : Word := 0
  trapStack : Word := 0
  /-- Saved by trap entry; present while the task is in a handler. -/
  shadow : Option Shadow := none
  asid : Nat := 0
  /-- What the slot goes back to, while a kernel trap context of a launch that is not resident has it (R211). -/
  back : Option SlotBase := none
  /-- Pending asynchronous causes (R211): watchdog, stores refused (address, and the entry and reason as `TRAP.INFO`
  gives them), messages given up (destination, header). -/
  pendWatchdog : Bool := false
  pendPosted : List (Word × Word) := []
  pendRefused : List (Word × Word) := []
  owed : List Owed := []
  stall : Stall := .none
  /-- The instruction at the pc waits in a way of R28, when it was last tried. -/
  waiting : Bool := false
  /-- The message a `migrate` waits for (R49), and the source of its target, consumed once the message is accepted. -/
  migrating : Option Nat := none
  migrateSrc : Src := .z
  /-- What has become of the message while the task is in a handler: accepted (`none`), or given up, with its destination
  and header (R49, R29). -/
  migrateEnd : Option (Option (Word × Word)) := none
  /-- In the wait of a `spawn` beyond `SPAWN.LIMIT` (R48). -/
  spawning : Bool := false
  /-- In the wait of `bwait` or `bsync`: the barrier number (R322). -/
  inBwait : Option Nat := none
  /-- Its Anvil operation waits at the port (R207), and for a Bellows token (R233). -/
  atPort : Bool := false
  wantsToken : Bool := false
  /-- A double trap stopped the slot (R213). -/
  stopped : Bool := false
  deriving DecidableEq, Repr

/-! ### Messages and remote accesses -/

/-- A message: its 16-byte header as two words and its payload (R35). -/
structure Msg where
  lo : Word
  hi : Word
  words : List Word := []
  deriving DecidableEq, Repr

/-- A message in a hardware arrival queue: its arrival number and the cycle it arrived in (R45, R47). -/
structure Queued where
  msg : Msg
  arrival : Nat
  since : Nat
  /-- Rises of its priority for waiting (R47). -/
  aged : Nat := 0
  deriving DecidableEq, Repr

/-- What sent a message (R48, R49, R149, R215). -/
inductive Sender where
  | task (core slot : Nat)
  | spawn (core slot : Nat)
  | migrate (core slot : Nat)
  | distributor
  | peer (device stream transaction : Nat)
  deriving DecidableEq, Repr

/-- Where a message in transit stands (R45, R46). -/
inductive Leg where
  | flying
  | refused
  | accepted
  /-- It reaches its core in a cycle, behind messages that go before it (R45). -/
  | next (due : Nat)
  /-- Held by Tongs until the cycle of its next retry. -/
  | waiting (due : Nat)
  /-- Handed to a stream toward a peer, under a transaction number. -/
  | abroad (peer transaction : Nat)
  deriving DecidableEq, Repr

/-- A message Tongs still holds for its sender (R46). -/
structure Transit where
  msg : Msg
  sender : Sender
  dest : Nat
  leg : Leg := .flying
  /-- Cycle of the first refusal. -/
  firstRefusal : Option Nat := none
  refusals : Nat := 0
  /-- The sending task has ended or been forgotten. -/
  orphaned : Bool := false
  /-- The arrival number under which its receiver has accepted it. -/
  arrival : Option Nat := none
  deriving DecidableEq, Repr

/-- The kind of a remote access (R115, R274). -/
inductive RemoteKind where
  | load
  /-- An element of a vector load, by register and element (R386). -/
  | vload (reg elem : Nat)
  | store (entry : Nat)
  /-- An element of `vatom`, posted (R386, R389). -/
  | vatom (entry op : Nat)
  /-- A part of a Tongs element, by command and part (R274): a write when the access is marked `signed`. -/
  | tongs (cmd part : Nat)
  /-- A store to a cached line that waits for the right to write (R250), or an element of `vatom` with its operation. -/
  | line (op : Option Nat)
  | atomic (op : Nat) (cas : Bool) (ord : Nat) (operand compare : Word)
  deriving DecidableEq, Repr

/-- Stage of a remote access. -/
inductive RemoteStage where
  /-- Not sent to its peer yet: an earlier access of the task to its bytes has not been answered (R131). -/
  | behind
  | sent
  | answered (old : Word)
  | refused (reason : Nat)
  deriving DecidableEq, Repr

/-- A remote access under way (R114, R115). -/
structure Remote where
  core : Nat
  slot : Nat
  kind : RemoteKind
  addr : Word
  /-- The memory key, or the peer when it leaves the part. -/
  key : Nat
  peer : Option Nat := none
  size : Nat
  signed : Bool := false
  /-- The word of the issuing core's `FMT.WIN` the access is decoded by, and the reading of the top code (R102). -/
  window : Option (Word × Bool) := none
  /-- The reads of a record at a peer that its element is decoded from, by address and size: those still to be asked for, the
  first of them on its way; and what the earlier ones gave (R102, R274). -/
  parts : List (Word × Nat) := []
  got : List Nat := []
  data : Word := 0
  launch : Nat
  asid : Nat
  producer : Nat := 0
  pc : Word := 0
  stage : RemoteStage := .sent
  /-- An access through the L1 under this tag, performed once the line's state allows it (R168, R250). -/
  tag : Option Nat := none
  /-- The store instruction writes all 64 bytes of the granule (R129). -/
  whole : Bool := false
  /-- An element of a vector store (R319, R386). -/
  vector : Bool := false
  /-- The storing task has ended, and what it keeps busy if it was exclusive (R381); of an element of a vector load, a later
  instruction has written its place (R386). -/
  ended : Bool := false
  busy : Option (Nat × Nat) := none
  deriving DecidableEq, Repr

/-- A posted-store journal entry (R117). -/
structure JEntry where
  used : Bool := false
  refused : Bool := false
  size : Nat := 0
  reason : Nat := 0
  slot : Nat := 0
  launch : Nat := 0
  addr : Word := 0
  data : Word := 0
  /-- The memory key the store goes to. -/
  key : Nat := 0
  /-- The storing task has ended, and so has its launch: the entry stays occupied (R118). -/
  ended : Bool := false
  past : Bool := false
  /-- The launch and object slot that stay busy until the store is performed, once an exclusive task has ended (R381). -/
  busy : Option (Nat × Nat) := none
  deriving DecidableEq, Repr

/-! ### Cores -/

/-- A cached translation (R120-R124). -/
structure TlbEntry where
  asid : Nat
  /-- First virtual page number of 64 KiB, and the level (1-3) that gives the page's size. -/
  vpn : Nat
  level : Nat
  pte : Word
  deriving DecidableEq, Repr

/-- An entry of a die's walk cache (R124): the ASID, the level (0-2), the part of the address that leads to it, and the
entry. -/
structure WalkEntry where
  die : Nat
  asid : Nat
  level : Nat
  path : Nat
  pte : Nat
  deriving DecidableEq, Repr

/-- L1 states (R248). -/
inductive Moesi where
  | m | o | e | s | i
  deriving DecidableEq, Repr

/-- A line in an L1: its state, the version tag it carries (R168) and which halves are valid (R255). -/
structure L1Line where
  st : Moesi
  tag : Nat := 0
  halves : BitVec 2 := 3
  deriving DecidableEq, Repr

/-- A coherence request a core has sent (R250). -/
inductive CohReq where
  | getS | getX | upg | putM | putO | putE | putS
  deriving DecidableEq, Repr

/-- Kinds of Tongs commands (R235). -/
inductive CmdKind where
  | gather | scatter | copy
  deriving DecidableEq, Repr

/-- A Tongs command a core holds (R237-R243). -/
structure Command where
  slot : Nat
  launch : Nat
  asid : Nat
  user : Bool
  /-- The pushing task has ended: the completion is discarded (R246). -/
  orphaned : Bool := false
  kind : CmdKind
  tag : Nat
  /-- The 64-byte descriptor. -/
  desc : List Word
  /-- The stream register s1-s6 it delivers into, if any. -/
  stream : Option Nat := none
  /-- The stream was unbound while the command runs: words are discarded (R372). -/
  unbound : Bool := false
  done : Nat := 0
  /-- First faulting element: underlying code and address. -/
  fault : Option (Nat × Word) := none
  complete : Bool := false
  /-- What of the element at hand has been asked of a peer (0 the source, 4 the destination, 8 the index entry), and the
  peer's replies by part: bytes, and the status, 0 when done (R274). -/
  asked : List Nat := []
  reply : Table (List Byte × Nat) := []
  /-- Bytes of the index list that have been fetched ahead, from the entry of the element at hand on (R240). -/
  ahead : List Byte := []
  deriving DecidableEq, Repr

/-- An entry of a core's lane queue (R205, R234). -/
structure LaneOp where
  slot : Nat
  groups : Nat
  cycles : Nat
  /-- FP flags still to be ORed into `FP.STAT` (R94). -/
  flags : Nat := 0
  /-- The vector register a transfer loads or stores, and whether it stores. -/
  transfer : Option (Nat × Bool) := none
  reads : List Nat := []
  writes : List Nat := []
  /-- The launch and object slot it keeps busy, once an exclusive task has ended (R381). -/
  busy : Option (Nat × Nat) := none
  /-- A store's elements are remote accesses below this number (R319). -/
  upto : Nat := 0
  /-- It only holds the place of an instruction that has not issued, at this pc: a value of a register it reads is still to
  come (R234, R386). -/
  unformed : Option Word := none
  deriving DecidableEq, Repr

/-- A bound vector instruction that holds lane groups until a cycle (R234). -/
structure Bound where
  op : LaneOp
  until_ : Nat
  deriving DecidableEq, Repr

/-- A saved context of a launch on a core (R219-R222). -/
structure Saved where
  asid : Nat
  /-- Save sequence number. -/
  seq : Nat
  /-- Chunk map: for each chunk of 4 KiB 0 in place, 1 primary moved, 2 mirror moved. -/
  chunkMap : List Nat
  scratch : List (Nat × Byte)
  poison : List Nat
  hwq : List Queued
  lsplit : Nat
  arrLimit : Nat
  ovfBase : Nat
  ovfSize : Nat
  ringHead : Nat
  ring : List (Nat × Nat × Nat)
  deadCount : Nat
  spawnLimit : Nat
  cvg : Word × Word × Word × Word × Word
  fmtWin : List Word
  /-- `WIN.SPILL` count and base of each slot, and its `TRAP.VEC` and `TRAP.STACK`. -/
  spill : List (Nat × Nat)
  traps : List (Word × Word)
  tongs : List Command
  /-- Range tiles handed to the core and not started (R56, R200). -/
  tiles : List Nat
  faulted : Bool := false
  /-- The launch was quenched while the context was saved out: its wrap-up task is owed at the restore (R179). -/
  wrapupOwed : Bool := false
  deriving DecidableEq, Repr

/-- A scalar core (R14, R44, R73). (DESIGN CHOICE, log 2) -/
structure Core where
  /-- Slots 0-3. -/
  slots : Table Slot := []
  /-- The slot that issued last, and one more than the cycle in which it did (R28). -/
  lastSlot : Nat := 3
  issuedAt : Nat := 0
  /-- One more than a cycle, and the slots whose instructions were found waiting in it (R28). -/
  passed : Nat × List Nat := (0, [])
  /-- The message that arrived last: one more than its cycle, the place of its source, and its number (R45). -/
  lastArrival : Nat × Nat × Nat := (0, 0, 0)
  /-- The resident launch (R202) and its ASID. -/
  resident : Option Nat := none
  residentAsid : Nat := 0
  /-- Launches assigned to the core, with their saved contexts when saved out. -/
  assigned : List Nat := []
  saved : Table Saved := []
  /-- The save area of each assigned launch, by its number among the core's (R221). -/
  areas : Table Nat := []
  /-- Assigned launches that have not started on the core yet (R201). -/
  reserved : Option Nat := none
  lsplit : Nat := 0
  arrLimit : Nat := 32
  ovfBase : Nat := 0
  ovfSize : Nat := 0
  ringHead : Nat := 0
  /-- The messages in the overflow ring, oldest first: arrival number, cycle of arrival, rises of priority. Their
  bytes are in the scratchpad. -/
  ring : List (Nat × Nat × Nat) := []
  hwq : List Queued := []
  deadCount : Nat := 0
  spawnLimit : Nat := 16
  spawns : Nat := 0
  cvgMax : Word := 0
  cvgCount : Word := 0
  cvgQuiet : Word := 0
  cvgThresh : Word := 0
  cvgWindow : Word := 0
  /-- `FMT.WIN1` to `FMT.WIN15`. -/
  fmtWin : List Word := List.replicate 15 0
  vshare : Nat := 8
  journal : List JEntry := List.replicate 64 {}
  journalNext : Nat := 0
  journalSel : Nat := 0
  tlb : List TlbEntry := []
  /-- Lines of the instruction cache, and the halves of host lines in it that are valid (R255). -/
  icache : List Nat := []
  icHalves : List Nat := []
  l1 : Table L1Line := []
  /-- Coherence requests outstanding, and lines held in the write-back buffer. -/
  cohReqs : Table CohReq := []
  /-- For each of them the tag of the access, and whether a store waits for the right to write (R168, R250). -/
  cohWants : Table (Nat × Bool) := []
  writeback : Table Moesi := []
  commands : Table Command := []
  /-- Slots whose Anvil operations wait at the port, the head first (R207). -/
  port : List Nat := []
  lanes : List LaneOp := []
  bound : List Bound := []
  transfers : List LaneOp := []
  pass : Nat := 0
  /-- The core dispatches nothing and hands out no tile until its copy point (R155). -/
  cutWait : Bool := false
  /-- A wrap-up task is owed to the core (R179). -/
  wrapupOwed : Bool := false
  /-- Trap contexts owed for ended tasks (R211): code, address, info and launch. -/
  endedTraps : List (Nat × Word × Word × Nat) := []
  /-- Range tiles handed to the core and not started (R200). -/
  tiles : List Nat := []
  /-- Slice accounting (R203, R204): cycles left of the slice, its end, and the cycles since the core was idle. -/
  sliceLeft : Nat := 2 ^ 20
  sliceEnded : Bool := false
  overrun : Nat := 0
  idle : Nat := 0
  /-- Debt of each ASID on the core. -/
  debts : Table Nat := []
  lastHeld : Table Nat := []
  /-- The save is draining Tongs since this cycle (R220). -/
  draining : Option Nat := none
  /-- Save sequence number of the resident context: that of its last save (R221). -/
  saveSeq : Nat := 0
  deriving DecidableEq, Repr

/-! ### Hearths -/

/-- An operand ring (R224-R226). -/
structure Ring where
  base : Nat
  slots : Nat
  mode : Nat
  /-- G, block exponents present and zero point present, copied from the window. -/
  group : Nat := 0
  bx : Bool := false
  zp : Bool := false
  head : Nat
  tail : Nat
  read : Nat
  deriving DecidableEq, Repr

/-- An accepted Anvil operation (R207, R231). -/
structure AnvilOp where
  id : Nat := 0
  core : Nat
  slot : Nat
  /-- The tiles it writes. -/
  writes : List Nat
  /-- Ring pops to perform at retirement: ring numbers. -/
  pops : List Nat := []
  /-- Rings the operation names, and rings it holds alone (R228). -/
  rings : List Nat := []
  alone : List Nat := []
  retireAt : Nat
  isAmm : Bool := false
  /-- Elements of an `ast` that no journal entry was free for: their addresses and what is to be sent (R116). -/
  rest : List (Word × Remote) := []
  /-- Its task has ended, and the launch and object slot it keeps busy if that was exclusive (R381). -/
  ended : Bool := false
  busy : Option (Nat × Nat) := none
  deriving DecidableEq, Repr

/-- A sub-array of the Anvil (R232). -/
structure SubArray where
  gated : Bool := false
  lastStart : Nat := 0
  /-- Waking until this cycle. -/
  waking : Option Nat := none
  deriving DecidableEq, Repr

/-- Hearth-held state (R219). (DESIGN CHOICE, log 2) -/
structure HearthHeld where
  rings : List (Option Ring) := List.replicate 16 none
  /-- 16 accumulator tiles of 256 elements. -/
  acc : List (List (BitVec 32)) := List.replicate 16 (List.replicate 256 0)
  gate : Nat := 0
  deriving DecidableEq, Repr

/-- The saved state of a holder of a hearth (R218-R221): its hearth-held state, its pool with the poisoned granules, its
save sequence number and its chunk map. -/
structure SavedHeld where
  held : HearthHeld := {}
  pool : List (Nat × Byte) := []
  poison : List Nat := []
  seq : Nat := 0
  chunkMap : List Nat := []
  deriving DecidableEq, Repr

/-- A hearth (R14, R224-R233, R283). (DESIGN CHOICE, log 2) -/
structure Hearth where
  held : HearthHeld := {}
  /-- The ASID that holds the hearth (R218), the sequence number of its last save, the saved state of other holders, and the
  save area of each holder by its number among the hearth's (R221). -/
  holder : Option Nat := none
  heldSeq : Nat := 0
  savedHeld : Table SavedHeld := []
  areas : Table Nat := []
  token : Bool := false
  /-- Cycle the token was taken in, and of the last FP32 or FP64 start (R233). -/
  tokenSince : Nat := 0
  tokenUsed : Nat := 0
  /-- One more than the cycle it last let a token go in (R233). -/
  tokenLeft : Nat := 0
  subs : List SubArray := List.replicate 4 {}
  /-- Cores whose head Anvil operation waits at the port, the core served last, and the operations accepted. -/
  portLast : Nat := 7
  ops : List AnvilOp := []
  /-- First cycle in which the port may accept another operation (R207). -/
  nextAccept : Nat := 0
  /-- First cycle in which the Anvil may start another `amm` (R231). -/
  nextStart : Nat := 0
  /-- First cycle in which the lane arbiter may bind again (R205). -/
  nextBind : Nat := 0
  /-- First cycle in which Tongs may issue another element request, and the core served last (R240). -/
  nextRequest : Nat := 0
  tongsLast : Nat := 7
  /-- The command of each core that Tongs served last, by the core's number in the hearth (R240). -/
  tongsServed : Table Nat := []
  tlb : List TlbEntry := []
  fenced : Bool := false
  retired : Bool := false
  dispatchStopped : Bool := false
  /-- Contexts that retirement has saved, by core, to be restored at the spare site (R286). -/
  moved : Table Nat := []
  /-- The physical site: column and row (R10, R12). -/
  site : Option (Nat × Nat) := none
  clockGated : Bool := false
  powerGated : Bool := false
  /-- PTP nanosecond since which the hearth is clock-gated (R283), and that by which it has left its idle state (R284). -/
  idleSince : Nat := 0
  wakeAt : Nat := 0
  /-- Junction temperature in eighths of a degree (R25, R291). -/
  temp : Int := 0
  corrections : Nat := 0
  deriving DecidableEq, Repr

/-! ### Launches -/

/-- Where a launch stands: the state codes of STATUS (R195). -/
inductive LState where
  | queued | reserving | running | quenching | ended
  deriving DecidableEq, Repr

/-- A named barrier (R321): N, level and its scope, members with their pending generation, generation and arrivals. -/
structure Barrier where
  n : Nat
  level : Nat
  /-- The memory scope of the level (R52): 0 core, 1 hearth, 2 span, 3 die, 4 device, 5 system. -/
  scope : Nat := 5
  members : List (Nat × Nat × Option Nat)
  gen : Nat := 0
  arrivals : Nat := 0
  /-- Generations released (below this number) at every member (R17). -/
  released : Nat := 0
  /-- One more than the cycle of the last `bjoin`, and its core (R324). -/
  lastJoin : Nat × Nat := (0, 0)
  /-- The last cycle in which the release of a generation may reach the members (R17). -/
  due : Option Nat := none
  deriving DecidableEq, Repr

/-- The cut of a launch (R154-R157). -/
structure Cut where
  number : Nat := 0
  inProgress : Bool := false
  abandoned : Bool := false
  /-- Cores that have not copied yet. -/
  waiting : List Nat := []
  deriving DecidableEq, Repr

/-- Link settings of a launch toward a peer (R268). -/
structure LinkSet where
  park : Nat := 0
  wake : Nat := 0
  floor : Nat := 1
  deriving DecidableEq, Repr

/-- A transmitter in a lease (R266-R272). -/
inductive TxState where
  | active | warmWait | warming (until_ : Nat) | parked
  deriving DecidableEq, Repr

/-- A lease toward a peer (R264). The transmitters are named 17 × port + number. -/
structure Lease where
  die : Nat
  txs : List (Nat × TxState × Nat)
  /-- PTP nanosecond of its creation (R267). -/
  created : Nat
  /-- Time since which the lease starves, and of the last flit or join (R270, R271). -/
  starving : Option Nat := none
  lastFlit : Nat := 0
  deriving DecidableEq, Repr

/-- A launch (R50-R53, R195). (DESIGN CHOICE, log 2) -/
structure Launch where
  /-- The 32 fields of the launch record. -/
  lr : List Word
  queue : Nat
  state : LState := .queued
  /-- Acceptance number (R197). -/
  order : Nat := 0
  /-- Its place ahead in its class queue: 1 once no placement fitted it (R197), 2 once its reservation was released
  (R201). -/
  front : Nat := 0
  /-- Participating cores, rank r at index r. -/
  cores : List Nat := []
  /-- FP flags of its tasks (R53), dead and discarded messages and orphans (R51, R53). -/
  flags : Nat := 0
  dead : Nat := 0
  discarded : Nat := 0
  orphans : Nat := 0
  /-- In-flight counts of the four dies (R152) and their sum at the last sample. -/
  inflight : List Int := [0, 0, 0, 0]
  lastSample : Nat := 0
  /-- Period of 256 cycles of the last sample. -/
  sampled : Nat := 0
  converged : Bool := false
  /-- Its fire time had passed when it started: it ends by wrap-up (R175). -/
  late : Bool := false
  /-- Announced quench cause, and whether the Quench has been delivered (R175, R176). -/
  quench : Option Nat := none
  quenched : Bool := false
  /-- The end was fixed at quiescence (R51), and the status to write. -/
  endFixed : Bool := false
  status : Nat := 0
  /-- Its live tags have been refuted and their delivery cycle (R51, R183). -/
  refutedAt : Option Nat := none
  /-- Tile counts of the dimensions of a range launch, dimension 0 first (R54, R56). -/
  tileCounts : List Nat := []
  /-- Remaining range of each die: low and high tile index (R200). -/
  ranges : List (Nat × Nat) := [(0, 0), (0, 0), (0, 0), (0, 0)]
  barriers : Table Barrier := []
  cut : Cut := {}
  linkSel : Nat := 0
  linkSets : Table LinkSet := []
  leases : Table Lease := []
  /-- Reserved for the gang since acceptance. -/
  gangCores : List Nat := []
  /-- The gang's turn has come: its cores take no other context until all of them take its (R201). -/
  called : Bool := false
  deriving DecidableEq, Repr

/-! ### The device -/

/-- States of a tag (R159). -/
inductive TagState where
  | free | live | confirmed | sweeping | swept
  deriving DecidableEq, Repr

/-- An entry of the hypothesis tree (R159). -/
structure Tag where
  launch : Nat
  parent : Nat
  depth : Nat
  state : TagState
  target : Nat := 0
  /-- The background sweep has ended, and the cycle by which it must have (R160). -/
  sweepDone : Bool := false
  sweepBy : Nat := 0
  deriving DecidableEq, Repr

/-- A version of a line (R167, R168): the bytes its mask covers, its spill record and whether it is pinned. -/
structure Version where
  line : Nat
  tag : Nat
  bytes : List (Nat × Byte)
  record : Nat
  pinned : Bool := false
  /-- It has been evicted to its record. -/
  spilled : Bool := false
  deriving DecidableEq, Repr

/-- What is announced on the Beat network (R16, R175). -/
inductive BeatKind where
  /-- An sc atomic: memory key, virtual address, size, operation and destination. -/
  | atomic (key : Nat) (va : Word) (size op : Nat) (cas : Bool) (operand compare : Word) (dst : Dst)
  | hopen (parent : Nat) (dst : Dst)
  | hresolve (form tag : Nat) (dst : Dst)
  | cut (dst : Dst)
  | quench (launch cause : Nat)
  | refuteAll (launch : Nat)
  | cutDone (launch : Nat) (abandoned : Bool)
  deriving DecidableEq, Repr

/-- An announcement: its window, and the announcing core and slot (8192 and 0 for the firmware column). -/
structure Announcement where
  window : Nat
  core : Nat
  slot : Nat
  launch : Nat
  kind : BeatKind
  deriving DecidableEq, Repr

/-- A host queue (R188-R193). Its descriptor is in memory. -/
structure Queue where
  latched : Nat := 0
  shadow : List Word := List.replicate 32 0
  stopped : Bool := false
  /-- Blocks of an indirect buffer being executed: address, dwords, next dword. -/
  indirect : Option (Word × Nat × Nat) := none
  enabled : Bool := false
  deriving DecidableEq, Repr

/-- Directory states (R249). -/
structure Dir where
  st : Moesi := .i
  owner : Option Nat := none
  holders : List Nat := []
  /-- Spans recorded once there are more than 8 holders. -/
  spans : List Nat := []
  inLlc : Bool := false
  dirty : Bool := false
  deriving DecidableEq, Repr

/-- Requests and returns of CXL.cache (R255). -/
inductive CacheReq where
  | rdShared | rdOwn | rdCurr | dirtyEvict | cleanEvict
  deriving DecidableEq, Repr

/-- What a peer's request does (R274, R277). -/
inductive PeerOp where
  | read
  | write (data : Word) (poison : Bool)
  | atomic (op : Nat) (cas : Bool) (operand compare : Word)
  deriving DecidableEq, Repr

/-- What the host or a peer asks of a home (R255, R256, R277): a write, a read, or a snoop of a 64-byte half (0 SnpInv,
1 SnpData, 2 SnpCur) with the cycle it came in. A peer's request names the peer, the launch and the transaction it is
answered under. -/
inductive HostOp where
  | write (port key : Nat) (bytes : List Byte) (bad : Bool)
  | read (port key size : Nat)
  | snoop (port kind half since : Nat)
  | peer (peer launch transaction key size : Nat) (op : PeerOp)
  deriving DecidableEq, Repr

/-- A request at a home. -/
inductive HomeReq where
  | core (c : Nat) (r : CohReq)
  | host (op : HostOp)
  deriving DecidableEq, Repr

/-- Transient states of a home (R251). -/
inductive Transient where
  | none
  | memRd (core : Nat) (req : CohReq)
  | invFan (core : Nat) (req : CohReq) (waiting : List Nat) (since : Nat)
  | fwd (core : Nat) (req : CohReq) (owner : Nat) (responded : Bool)
  | hostSnp (op : HostOp) (waiting : List Nat) (since : Nat)
  /-- A holder has not acknowledged: the request goes on without it (R259). -/
  | fence (req : HomeReq) (waiting : List Nat) (since out : Nat)
  deriving DecidableEq, Repr

/-- A home's line: directory entry, transient state, requests waiting in arrival order, grants on the way, and Puts
held in WbHold (R249-R254). -/
structure Home where
  dir : Dir := {}
  trans : Transient := .none
  waiting : List HomeReq := []
  grants : Table Moesi := []
  answers : Table Bool := []
  wbHold : Option (Nat × CohReq) := none
  /-- The request that arrived last, one more than its cycle and its core, and the cores whose requests are to arrive in the
  next cycle (R250). -/
  arrived : Nat × Nat := (0, 0)
  late : List Nat := []
  deriving DecidableEq, Repr

/-- A RAS record (R292). -/
structure Ras where
  time : Nat
  seq : Nat
  kind : Nat
  die : Nat := 255
  hearth : Nat := 0xFFFF
  unit : Nat := 255
  index : Nat := 0
  addr : Nat := 0
  launch : Option Nat := none
  asid : Nat := 0
  count : Nat := 1
  detail : List Byte := List.replicate 32 0
  deriving DecidableEq, Repr

/-- A packet of R274: header, then the words that follow it. -/
structure Packet where
  header : Word
  words : List Word := []
  deriving DecidableEq, Repr

/-- A stream from one die to one peer, both directions (R263, R273-R278). -/
structure Stream where
  /-- Packets queued, by launch (256 for the base lease), with flits sent so far for each. -/
  queues : Table (List Packet × Nat) := []
  /-- Flits of appended packets not yet sent: the key of their queue, their launch and the flit. -/
  pending : List (Nat × Nat × Nat) := []
  nextSeq : Nat := 0
  /-- Replay buffer: sequence, flit, time sent, replays. -/
  unacked : List (Nat × Nat × Nat × Nat) := []
  ackedAt : Nat := 0
  /-- Receiver: next sequence to hand over, flits held with the time each came, the time a gap counts from, last
  acknowledgement sent. -/
  rxNext : Nat := 0
  rxHeld : Table (Nat × Nat) := []
  rxGap : Option Nat := none
  rxAcked : Nat := 0
  rxAckTime : Nat := 0
  /-- Flits of the packet being assembled. -/
  rxPart : List Nat := []
  /-- Packets received and not yet handled. -/
  rxPackets : List Packet := []
  nextTransaction : Nat := 0
  /-- First flit boundary, of 1.44 ns, at which the transmitters may send again. -/
  nextBoundary : Nat := 0
  deriving DecidableEq, Repr

/-- What the part has told the outside: host answers and notices, packets and flits sent (R193, R222, R256).
(DESIGN CHOICE, log 68) -/
inductive Notice where
  | queueStop (queue code : Nat)
  | launchEnd (launch status : Nat)
  | doubleTrap (core slot : Nat)
  | restoreFailed (core launch : Nat)
  | undeliverable (launch : Nat)
  | dieParked (die : Nat)
  | hostData (port : Nat) (bytes : List Byte) (poison : Bool)
  | hostWritten (port : Nat)
  | snooped (port half : Nat) (st : CxlState) (bytes : List Byte) (poison : Bool)
  /-- A CXL.cache request for a half of host memory, or its return (R255). -/
  | hostReq (port : Nat) (kind : CacheReq) (half : Nat) (bytes : List Byte) (poison : Bool)
  /-- A numbered flit on a transmitter, and a link-control flit (R273, R275, R276). -/
  | flit (die peer tx flit : Nat)
  | control (die peer tx flit : Nat)
  | rasInterrupt
  | mgmt (bytes : List Byte)
  deriving DecidableEq, Repr

/-- Mode of a host port (R9). -/
inductive PortMode where
  | pcie | cxl
  deriving DecidableEq, Repr

/-- The signed configuration table (R9, R13, R20, R261, R263, R277, R286), as loaded at boot. (DESIGN CHOICE, log 4) -/
structure CfgTable where
  version : Nat := 0
  port0 : Option PortMode := none
  port1 : Option PortMode := none
  deviceId : Nat := 0
  firmwareSites : Nat := 1
  /-- Peer reached on each slot: key 64 × port + slot. -/
  routes : Table Nat := []
  /-- Die of the base lease where it is not peer mod 4. -/
  baseDies : Table Nat := []
  /-- Windows a peer may reach: peer, first address, bytes. -/
  peerWindows : List (Nat × Nat × Nat) := []
  tokens : Nat := 64
  correctionLimit : Nat := 0
  timeFromPeer : Option Nat := none
  /-- First block of the save region in each die's range of HBM, a multiple of 3 (R221). -/
  saveRegion : Nat := 0
  image : List Byte := []
  deriving DecidableEq, Repr, Inhabited

/-- The configuration table that an image of one holds (R288); the manual does not give its format. -/
opaque tableOf : List Byte → CfgTable

/-- The hash of the public key that an image is signed with (R288); the manual does not give where an image holds it. -/
opaque keyHashOf : List Byte → List Byte

/-- The XMSS signature that an image holds verifies (R288); the manual does not give where an image holds it. -/
opaque signatureHolds : List Byte → Bool

/-- On-package non-volatile storage and fuses (R288, R289): the hash of the public key held in fuses, and of the keys that the
firmware image and the configuration table are signed with. -/
structure NonVolatile where
  keyHash : List Byte := []
  firmwareKey : List Byte := []
  tableKey : List Byte := []
  fusedVersion : Nat := 0
  attestIndex : Nat := 0
  table : CfgTable := {}
  firmware : List Byte := []
  deriving DecidableEq, Repr

/-- Boot state (R288). -/
inductive Boot where
  | reset | recovery | running
  deriving DecidableEq, Repr

/-- A response waiting at the management port (R291). -/
structure MgmtResponse where
  status : Nat
  command : Nat
  data : List Byte := []
  deriving DecidableEq, Repr

/-- Who moves next: the open order and timing of the part, as data. A turn lets `elapse` cycles pass and then has a core
issue, or takes an event. -/
inductive Act where
  | issue (core : Nat)
  | event (e : Event)
  deriving DecidableEq, Repr

structure Turn where
  elapse : Nat
  act : Act
  deriving DecidableEq, Repr

/-- The whole part. (DESIGN CHOICE, log 2) -/
structure State where
  /-- Memory and SRAM: bytes at keys, keys strictly rising, no zero byte listed; an unlisted byte reads 0. -/
  mem : List Host.Cell := []
  /-- Granules (key / 64) that are poisoned, rising (R129). -/
  poison : List Nat := []
  /-- Granules whose stored check does not match their bytes, rising: every other granule's check is the CRC of its bytes
  (R129). -/
  badCheck : List Nat := []
  /-- The walk caches of the dies (R124). -/
  walkCache : List WalkEntry := []
  cores : Table Core := []
  hearths : Table Hearth := []
  launches : Table Launch := []
  /-- Accepted launches that wait for a launch id (R197). -/
  backlog : List Launch := []
  lastId : Nat := 255
  accepted : Nat := 0
  /-- The slot that issues next: global core number and slot. -/
  cur : Nat × Nat := (0, 0)
  cycle : Nat := 0
  /-- PTP time in seventeenths of a nanosecond (R20). -/
  ptp17 : Nat := 0
  holdover : Bool := false
  /-- How far the source is ahead of the time unit, in seventeenths of a nanosecond, and the cycles since the last step
  toward it (R20, R21). -/
  slew : Int := 0
  slewCycles : Nat := 0
  hyp : Table Tag := []
  versions : List Version := []
  beats : List Announcement := []
  transits : Table Transit := []
  remotes : Table Remote := []
  /-- Next number for messages, producers, remote accesses and arrivals. -/
  nextId : Nat := 1
  homes : Table Home := []
  bridge : Table CxlState := []
  /-- Halves of host memory asked of the host, and how (R255). -/
  hostReqs : Table CacheReq := []
  /-- Bytes that confirmations have folded into a half the bridge does not own yet: they stand over what the host answers
  (R167, R255). -/
  hostFolds : Table (List (Nat × Byte)) := []
  /-- Posted writes of each host port in PCIe mode that are not performed, the oldest first: it alone is at its home
  (R257). -/
  hostWrites : Table (List HostOp) := []
  queueBase : Nat := 0
  asidBase : Nat := 0
  queues : Table Queue := []
  restarting : Bool := false
  /-- PTP nanosecond by which the restart of scheduler firmware ends (R190). -/
  restartBy : Nat := 0
  streams : Table Stream := []
  linked : List Nat := []
  /-- Slots of each port that receivers stand on (R260), and the PTP nanosecond at which the slots of each peer that is
  unreachable are trained again (R278). -/
  receivers : Table (List Nat) := []
  retrainAt : Table Nat := []
  /-- The transmitter of the base lease toward each linked peer (R263). -/
  baseTx : Table Nat := []
  /-- Leases that ended with packets queued: launch, peer and what they keep (R264). -/
  endingLeases : List (Nat × Nat × Lease) := []
  /-- Transmitters that have failed, or that are free to take (17 × port + number); spare use. -/
  failedTx : List Nat := []
  /-- Spare transmitters in use: port and the failed number they stand for. -/
  spares : Table Nat := []
  /-- PTP nanosecond at which each die may start warming the next transmitter. -/
  warmAt : List Nat := [0, 0, 0, 0]
  /-- Transactions toward peers: transaction to remote access or message. -/
  transactions : Table (Bool × Nat) := []
  /-- Bellows: tokens of each die in all, the tokens on the ring, each by the hearth it stood at in cycle 0, and dies halved
  for heat (R18, R25, R233). -/
  tokens : List Nat := [64, 64, 64, 64]
  freeTokens : List (List Nat) := List.replicate 4 (List.range 64)
  halved : List Bool := [false, false, false, false]
  heatParked : List Bool := [false, false, false, false]
  powerParked : List Bool := [false, false, false, false]
  /-- HBM stacks in self-refresh and the PTP nanosecond of their last access (R283). -/
  selfRefresh : List Bool := List.replicate 12 false
  hbmAccess : List Nat := List.replicate 12 0
  /-- PTP nanoseconds by which the stacks have left self-refresh and the dies the parked state (R284). -/
  hbmWake : List Nat := List.replicate 12 0
  dieWake : List Nat := List.replicate 4 0
  hbmCorrections : Table Nat := []
  sparedRows : List Nat := []
  sparedChannels : List Nat := []
  /-- Lanes of the six die-to-die links that have failed. -/
  failedLanes : List Nat := List.replicate 6 0
  tolerance : List Nat := [0, 0]
  portUp : List Bool := [true, true]
  ras : List Ras := []
  rasSeq : Nat := 0
  boot : Boot := .reset
  nv : NonVolatile := {}
  /-- The configuration in force since boot. -/
  cfg : CfgTable := {}
  /-- Bytes of a recovery image received so far and its length. -/
  recovery : Option (Nat × List Byte) := none
  responses : List MgmtResponse := []
  notices : List Notice := []
  /-- Spare sites in use: die, column and row (R10-R13). -/
  usedSpares : List (Nat × Nat × Nat) := []
  firmwareSites : List (Nat × Nat × Nat) := []
  retiring : List Nat := []
  /-- Scrubs of HBM so far and the PTP nanosecond of the next (R285). -/
  scrubs : Nat := 0
  scrubAt : Nat := 86400000000000
  /-- The model's own: the schedule given, events whose cycle this is, events the part has caused and not handled, what
  the event at hand concerns, and the free-value counter. -/
  turns : List Turn := []
  timers : List Event := []
  /-- Events of this cycle that come once every core has issued in it (R152, R271). -/
  closing : List Event := []
  agenda : List Event := []
  ev : Args := {}
  freeCtr : Nat := 0
  deriving DecidableEq, Repr

/-- The part right after reset: every field at its default (R288, and the log entries for what the manual leaves
open). (DESIGN CHOICE, log 2) -/
def State.reset : State := {}

end Sys2Proof.Machine
end

