-- ==== Sys2Proof/Machine/Mem.lean ====
section
/-! DEFINITION. Memory: one list of bytes at keys for HBM, host memory, peer memory held here and every SRAM unit;
words over it, little-endian (R3); and the poison of 64-byte granules (R129). -/

namespace Sys2Proof.Machine

/-- What a byte that memory does not list reads as. (DESIGN CHOICE, log 1) -/
def unlisted : Byte := 0

/-- The byte at a key. (DESIGN CHOICE, log 1) -/
def memGet : List Host.Cell → Nat → Byte
  | [], _ => unlisted
  | (k, b) :: r, a => if k = a then b else if a < k then unlisted else memGet r a

/-- Writes the byte at a key, keeping the list rising and without bytes equal to `unlisted`. -/
def memPut : List Host.Cell → Nat → Byte → List Host.Cell
  | [], a, b => if b = unlisted then [] else [(a, b)]
  | (k, c) :: r, a, b =>
    if a < k then (if b = unlisted then (k, c) :: r else (a, b) :: (k, c) :: r)
    else if k = a then (if b = unlisted then r else (a, b) :: r)
    else (k, c) :: memPut r a b

/-- Every key of the list is above `lo`, keys rise, and no listed byte equals `unlisted`. -/
def memOk : Nat → List Host.Cell → Bool
  | _, [] => true
  | lo, (k, b) :: r => decide (lo ≤ k) && decide (b ≠ unlisted) && memOk (k + 1) r

/-- The canonical form of memory. -/
def Memory.wf (m : List Host.Cell) : Bool := memOk 0 m

/-- `n` bytes from a key on, as a number, little-endian (R3). -/
def memNat (m : List Host.Cell) (a : Nat) : Nat → Nat
  | 0 => 0
  | n + 1 => (memGet m a).toNat + 256 * memNat m (a + 1) n

/-- Writes the low `n` bytes of a number from a key on, little-endian. -/
def memPutNat (m : List Host.Cell) (a v : Nat) : Nat → List Host.Cell
  | 0 => m
  | n + 1 => memPutNat (memPut m a (BitVec.ofNat 8 v)) (a + 1) (v / 256) n

/-- `n` bytes from a key on. -/
def memBytes (m : List Host.Cell) (a n : Nat) : List Byte := (List.range n).map fun i => memGet m (a + i)

/-- Writes bytes from a key on. -/
def memPutBytes (m : List Host.Cell) (a : Nat) : List Byte → List Host.Cell
  | [] => m
  | b :: r => memPutBytes (memPut m a b) (a + 1) r

/-- The 64-bit word at a key. -/
def memWord (m : List Host.Cell) (a : Nat) : Word := word (memNat m a 8)

/-- A granule is in a rising list. -/
def natMem : List Nat → Nat → Bool
  | [], _ => false
  | k :: r, a => k == a || natMem r a

/-- Adds to a rising list without repeats. -/
def natIns : List Nat → Nat → List Nat
  | [], a => [a]
  | k :: r, a => if a < k then a :: k :: r else if k = a then k :: r else k :: natIns r a

/-- Takes from a list. -/
def natDel (l : List Nat) (a : Nat) : List Nat := l.filter (· ≠ a)

/-- Some granule that the `n` bytes from a key on touch is poisoned (R115, R129). -/
def poisoned (p : List Nat) (a n : Nat) : Bool :=
  (List.range ((a + n - 1) / 64 + 1 - a / 64)).any fun i => natMem p (a / 64 + i)

/-- A store of `n` bytes clears poison of the granules it writes whole, and of no other (R129). -/
def unpoison (p : List Nat) (a n : Nat) : List Nat :=
  p.filter fun g => !(decide (a ≤ 64 * g) && decide (64 * g + 64 ≤ a + n))

/-- The bytes of a range cut out of memory: for a save (R219) and for a change of split (R113). -/
def memRange (m : List Host.Cell) (lo hi : Nat) : List (Nat × Byte) :=
  m.filter fun c => decide (lo ≤ c.1) && decide (c.1 < hi)

/-- Memory with a range reading `unlisted`. (DESIGN CHOICE, log 1) -/
def memClear (m : List Host.Cell) (lo hi : Nat) : List Host.Cell :=
  m.filter fun c => !(decide (lo ≤ c.1) && decide (c.1 < hi))

/-- Writes listed bytes back. -/
def memRestore (m : List Host.Cell) : List (Nat × Byte) → List Host.Cell
  | [] => m
  | (a, b) :: r => memRestore (memPut m a b) r

/-- Key of host memory at a PA (R122). -/
def hostKey (pa : Nat) : Nat := 2 ^ 52 + pa

/-- Key of offset `off` of unit `unit` (0-7 a scratchpad, 8 the pool) of hearth `h`: its window-0 address with device
0x3F (R111). -/
def sramKey (h unit off : Nat) : Nat := 0xFEFC000000000000 + h * 2 ^ 40 + unit * 2 ^ 36 + off

/-- Key of an offset in the scratchpad of a core by its global number. -/
def scratchKey (core off : Nat) : Nat := sramKey (core / 8) (core % 8) off

/-- The check of R129: CRC with polynomial 0x8BB7, initial value 0, most significant bit first. -/
def crcBit (c : Nat) (b : Bool) : Nat :=
  let top := decide (c / 2 ^ 15 % 2 = 1)
  let c' := c * 2 % 2 ^ 16
  if top != b then c' ^^^ 0x8BB7 else c'

def crcByte (c : Nat) (b : Byte) : Nat :=
  [7, 6, 5, 4, 3, 2, 1, 0].foldl (fun c i => crcBit c (b.getLsbD i)) c

def crc16 (bs : List Byte) : Nat := bs.foldl crcByte 0

/-- The `n` bytes of a number, least significant first. -/
def leBytes (v : Nat) : Nat → List Byte
  | 0 => []
  | n + 1 => BitVec.ofNat 8 v :: leBytes (v / 256) n

/-- The number of bytes in little-endian order. -/
def leNat : List Byte → Nat
  | [] => 0
  | b :: r => b.toNat + 256 * leNat r

end Sys2Proof.Machine
end

