-- ==== Sys2Proof/Machine/Translate.lean ====
section
/-! DEFINITION. Translation (R120-R124): the walk, its faults, permissions, the TLBs, and where a translated address
lies (R122, R127). -/

namespace Sys2Proof.Machine

/-- Access kinds with their codes in TRAP.INFO [9:8] (R209). -/
inductive AccKind where
  | load | store | fetch | atomic
  deriving DecidableEq, Repr

def AccKind.code : AccKind → Nat
  | .load => 0
  | .store => 1
  | .fetch => 2
  | .atomic => 3

/-- Why a data or fetch access faults (R121, R112). -/
inductive XFault where
  | xlate (level : Nat)
  | access
  | poison
  deriving DecidableEq, Repr

/-- A leaf found by a walk: its entry and its level (1-3). -/
structure Leaf where
  pte : Nat
  level : Nat
  deriving DecidableEq, Repr

/-- The bits of a VA below the page that a leaf of a level maps (R120). -/
def pageBits : Nat → Nat
  | 1 => 40
  | 2 => 28
  | _ => 16

/-- The index of a level's table (R120). -/
def walkIndex (va level : Nat) : Nat := va / 2 ^ (52 - 12 * level) % 4096

/-- The conditions of R121 on an entry that trap XLATE: valid, zero bits, and what a leaf and a non-leaf may hold.
(DESIGN CHOICE, log 15) -/
def pteBad (level pte : Nat) : Bool :=
  pte % 2 == 0 || bitsOf pte 63 52 != 0 || bitsOf pte 15 10 != 0 ||
  (if bitsOf pte 1 1 == 1 then
    level == 0 || bitsOf pte 51 16 * 2 ^ 16 % 2 ^ pageBits level != 0 || bitsOf pte 9 8 == 3
  else level == 3 || bitsOf pte 9 2 != 0)

/-- The walk from a table at a level on (R120, R121), its entries read by level and address. (DESIGN CHOICE, log 15) -/
def walkFrom (rd : Nat → Nat → Nat) (va : Nat) : Nat → Nat → Nat → Except XFault Leaf
  | 0, _, level => .error (.xlate level)
  | fuel + 1, table, level =>
    let a := table + 8 * walkIndex va level
    if Config.hbmBytes ≤ a then .error (.xlate level) else
    let pte := rd level a
    if pteBad level pte then .error (.xlate level)
    else if bitsOf pte 1 1 == 1 then .ok ⟨pte, level⟩
    else walkFrom rd va fuel (bitsOf pte 51 16 * 2 ^ 16) (level + 1)

/-- An ASID's entry of the ASID table: its low and its high dword (R123). -/
def asidEntry (s : State) (asid : Nat) : Nat × Nat :=
  (memNat s.mem (s.asidBase + 16 * asid) 8, memNat s.mem (s.asidBase + 16 * asid + 8) 8)

/-- The walk of an address under an ASID (R120, R123). -/
def walkBy (s : State) (rd : Nat → Nat → Nat) (asid va : Nat) : Except XFault Leaf :=
  let e := asidEntry s asid
  if e.1 % 2 == 0 then .error (.xlate 0)
  else walkFrom rd va 4 (bitsOf e.1 51 15 * 2 ^ 15) 0

def walk (s : State) (asid va : Nat) : Except XFault Leaf := walkBy s (fun _ a => memNat s.mem a 8) asid va

/-! ### Walk caches (R124) -/

/-- The part of an address that chooses the entries of a walk down to a level. -/
def walkPrefix (va level : Nat) : Nat := va / 2 ^ (52 - 12 * level)

/-- The entry of a walk at a level that the die's walk cache gives. Whether a cached entry is still there is free. -/
def walkHit (s : State) (die asid va level : Nat) : Option Nat :=
  match s.walkCache.find? fun e => e.die == die && e.asid == asid && e.level == level && e.path == walkPrefix va level with
  | some e => if Config.freeBit (s.freeCtr + level) then some e.pte else none
  | none => none

/-- The entry of a walk at a level and address on a die: one that the die's walk cache holds, or what memory holds.
(DESIGN CHOICE, log 15) -/
def walkEntry (s : State) (die asid va level a : Nat) : Nat := (walkHit s die asid va level).getD (memNat s.mem a 8)

/-- A walk on a die, through its walk cache. -/
def dieWalk (s : State) (die asid va : Nat) : Except XFault Leaf := walkBy s (walkEntry s die asid va) asid va

/-- The entries of levels 0 to 2 that name a next table on a walk. -/
def walkSteps (s : State) (die asid va : Nat) : Nat → Nat → Nat → List WalkEntry
  | 0, _, _ => []
  | fuel + 1, table, level =>
    let pte := walkEntry s die asid va level (table + 8 * walkIndex va level)
    if pteBad level pte || bitsOf pte 1 1 == 1 then []
    else { die := die, asid := asid, level := level, path := walkPrefix va level, pte := pte } ::
      walkSteps s die asid va fuel (bitsOf pte 51 16 * 2 ^ 16) (level + 1)

/-- The addresses in HBM that a walk reads. -/
def walkReads (s : State) (die asid va : Nat) : Nat → Nat → Nat → List Nat
  | 0, _, _ => []
  | fuel + 1, table, level =>
    let a := table + 8 * walkIndex va level
    let pte := walkEntry s die asid va level a
    (if (walkHit s die asid va level).isSome then [] else [a]) ++
      if pteBad level pte || bitsOf pte 1 1 == 1 then []
      else walkReads s die asid va fuel (bitsOf pte 51 16 * 2 ^ 16) (level + 1)

/-- A die's walk cache takes the entries of a walk. -/
def cacheWalk (s : State) (die asid va : Nat) : State :=
  let new := walkSteps s die asid va 3 (bitsOf (asidEntry s asid).1 51 15 * 2 ^ 15) 0
  let same := fun (a b : WalkEntry) => a.die == b.die && a.asid == b.asid && a.level == b.level && a.path == b.path
  { s with walkCache := new ++ s.walkCache.filter fun e => !(new.any (same e)) }

/-- A cached translation covers an address of an ASID (R124): a global leaf matches every ASID. -/
def TlbEntry.covers (e : TlbEntry) (asid va : Nat) : Bool :=
  (e.asid == asid || bitsOf e.pte.toNat 6 6 == 1) &&
    va / 2 ^ pageBits e.level == e.vpn * 2 ^ 16 / 2 ^ pageBits e.level

/-- The first cached translation of an address. -/
def tlbFind (l : List TlbEntry) (asid va : Nat) : Option Leaf :=
  (l.find? (·.covers asid va)).map fun e => ⟨e.pte.toNat, e.level⟩

/-- The translation in use for an address on a core of a die: from the core's TLB, its hearth's, or a walk (R124). -/
def leafOf (s : State) (coreTlb hearthTlb : List TlbEntry) (die asid va : Nat) : Except XFault Leaf :=
  match tlbFind coreTlb asid va with
  | some l => .ok l
  | none =>
    match tlbFind hearthTlb asid va with
    | some l => .ok l
    | none => dieWalk s die asid va

/-- The set of a hearth TLB that a translation falls in: 256 sets of 8 ways, by page number (R124).
(DESIGN CHOICE, log 15) -/
def TlbEntry.set (e : TlbEntry) : Nat := e.vpn * 2 ^ 16 / 2 ^ pageBits e.level % 256

/-- Puts a translation into a TLB whose entries of one set (`same`) are at most `ways`; a full set loses an entry that the
manual does not name. (DESIGN CHOICE, log 15) -/
def tlbAdd (ways ctr : Nat) (same : TlbEntry → Bool) (l : List TlbEntry) (e : TlbEntry) : List TlbEntry :=
  let mine := l.filter same
  if mine.length < ways then e :: l
  else match mine[Config.freeNat ctr % ways]? with
    | some x => e :: l.erase x
    | none => e :: l

/-- The permission rules of R121. Kernel code may use user pages. -/
def permOk (kind : AccKind) (user : Bool) (pte : Nat) : Bool :=
  (!user || bitsOf pte 5 5 == 1) &&
  match kind with
  | .load => bitsOf pte 2 2 == 1
  | .store => bitsOf pte 3 3 == 1
  | .atomic => bitsOf pte 3 3 == 1
  | .fetch => bitsOf pte 4 4 == 1

/-- Some host port is in CXL mode (R122). -/
def hasCxl (s : State) : Bool := s.cfg.port0 == some .cxl || s.cfg.port1 == some .cxl

/-- The port that carries host memory: the lower-numbered port in CXL mode (R122). -/
def cxlPort (s : State) : Nat := if s.cfg.port0 == some .cxl then 0 else 1

/-- The target of an address by its leaf, or ACCESS (R122). -/
def targetOf (s : State) (l : Leaf) (va : Nat) : Except XFault Target :=
  let pa := bitsOf l.pte 51 16 * 2 ^ 16 + va % 2 ^ pageBits l.level
  if bitsOf l.pte 8 8 == 1 then (if hasCxl s then .ok (.host pa) else .error .access)
  else if bitsOf l.pte 9 9 == 1 then
    (if natMem s.linked (pa / 2 ^ 46) then .ok (.peer (pa / 2 ^ 46) (pa % 2 ^ 46)) else .error .access)
  else if pa < Config.hbmBytes then .ok (.hbm pa) else .error .access

/-- A leaf's page is cached in L1 and LLC; peer pages never are (R121, R122). -/
def leafCacheable (l : Leaf) : Bool := bitsOf l.pte 7 7 == 1 && bitsOf l.pte 9 9 == 0

/-- Key of a target that is memory of this package or of the host. -/
def Target.key : Target → Nat
  | .hbm pa => pa
  | .host pa => hostKey pa
  | .peer q pa => 2 ^ 53 + q % 64 * 2 ^ 46 + pa

/-- Die that owns an HBM PA, and the stack its block lies in (R127). -/
def hbmDie (pa : Nat) : Nat := pa / 0x3000000000
def hbmStack (pa : Nat) : Nat := hbmDie pa * 3 + pa % 0x3000000000 / 4096 % 3

/-- PTP nanoseconds (R20). -/
def State.ptp (s : State) : Nat := s.ptp17 / 17

/-! ### Idle stacks and dies (R283, R284) -/

/-- A die parked for power rejoins, 40 µs on. -/
def unparkDie (s : State) (d : Nat) : State :=
  if s.powerParked.getD d false then
    { s with powerParked := s.powerParked.set d false, dieWake := s.dieWake.set d (s.ptp + 40000) }
  else s

/-- An access to the HBM at a key: it is recorded, and wakes a stack in self-refresh, 3 µs on, and its die.
(DEDUCED, log 76) -/
def touchKey (s : State) (key : Nat) : State :=
  if Config.hbmBytes ≤ key then s
  else
    let i := hbmStack key
    let s := unparkDie s (hbmDie key)
    { s with
      hbmAccess := s.hbmAccess.set i s.ptp
      hbmWake := if s.selfRefresh.getD i false then s.hbmWake.set i (s.ptp + 3000) else s.hbmWake
      selfRefresh := s.selfRefresh.set i false }

/-- The memory at a key can be accessed: its stack is in no self-refresh and its die in no parked state, nor leaving one.
(DEDUCED, log 76) -/
def stackReady (s : State) (key : Nat) : Bool :=
  decide (Config.hbmBytes ≤ key) ||
    (!s.selfRefresh.getD (hbmStack key) false && decide (s.hbmWake.getD (hbmStack key) 0 ≤ s.ptp) &&
      !s.powerParked.getD (hbmDie key) false && decide (s.dieWake.getD (hbmDie key) 0 ≤ s.ptp))

/-- The accesses of a walk to HBM. -/
def touchWalk (s : State) (die asid va : Nat) : State :=
  (walkReads s die asid va 4 (bitsOf (asidEntry s asid).1 51 15 * 2 ^ 15) 0).foldl touchKey s

/-- Translates for the part itself, under an ASID and with kernel rights: the key, when the access is allowed and does
not leave the part (R51, R39, R168). -/
def partKey (s : State) (asid va : Nat) (kind : AccKind) : Option Nat :=
  match walk s asid va with
  | .error _ => none
  | .ok l =>
    if !permOk kind false l.pte then none
    else match targetOf s l va with
      | .ok (.peer _ _) => none
      | .ok t => some t.key
      | .error _ => none

/-- Reads `n` bytes for the part itself, byte by byte through translation; none on a fault or on poison. -/
def partRead (s : State) (asid va : Nat) : Nat → Option (List Byte)
  | 0 => some []
  | n + 1 =>
    match partKey s asid va .load with
    | none => none
    | some k =>
      if natMem s.poison (k / 64) then none
      else match partRead s asid (va + 1) n with
        | none => none
        | some r => some (memGet s.mem k :: r)

/-- A 64-bit word read for the part itself. -/
def partWord (s : State) (asid va : Nat) : Option Word := (partRead s asid va 8).map fun b => word (leNat b)

/-- Home hearth of a line on its die (R128). -/
def homeHash (pa : Nat) : Nat :=
  bitsOf pa 14 7 ^^^ bitsOf pa 22 15 ^^^ bitsOf pa 30 23 ^^^ bitsOf pa 38 31 ^^^ bitsOf pa 46 39


end Sys2Proof.Machine
end

