-- ==== Sys2Proof/Machine/Ops.lean ====
section
/-! DEFINITION. The named operations over the state: access to cores, slots, hearths and launches; the RAS log; class
entries; the end of a task (R30); spills and reloads of frames (R67); taking a trap (R212, R213), returning from one
(R384) and diverting a task (R178). -/

namespace Sys2Proof.Machine

/-! ### Access -/

/-- Writes an entry of a list, padding it with `d`. -/
def padSet {α : Type} (d : α) : List α → Nat → α → List α
  | [], 0, a => [a]
  | [], n + 1, a => d :: padSet d [] n a
  | _ :: r, 0, a => a :: r
  | x :: r, n + 1, a => x :: padSet d r n a

def State.core (s : State) (c : Nat) : Core := (tget s.cores c).getD {}

def State.setCore (s : State) (c : Nat) (k : Core) : State := { s with cores := tset s.cores c k }

def State.modCore (s : State) (c : Nat) (f : Core → Core) : State := s.setCore c (f (s.core c))

def Core.slot (k : Core) (t : Nat) : Slot := (tget k.slots t).getD {}

def Core.setSlot (k : Core) (t : Nat) (sl : Slot) : Core := { k with slots := tset k.slots t sl }

def State.slotAt (s : State) (c t : Nat) : Slot := (s.core c).slot t

def State.setSlotAt (s : State) (c t : Nat) (sl : Slot) : State := s.setCore c ((s.core c).setSlot t sl)

def State.modSlotAt (s : State) (c t : Nat) (f : Slot → Slot) : State := s.setSlotAt c t (f (s.slotAt c t))

/-- The slot that issues. -/
def State.slot (s : State) : Slot := s.slotAt s.cur.1 s.cur.2

def State.setSlot (s : State) (sl : Slot) : State := s.setSlotAt s.cur.1 s.cur.2 sl

def State.modSlot (s : State) (f : Slot → Slot) : State := s.setSlot (f s.slot)

/-- The core of the slot that issues. -/
def State.myCore (s : State) : Core := s.core s.cur.1

def State.modMyCore (s : State) (f : Core → Core) : State := s.modCore s.cur.1 f

def State.hearth (s : State) (h : Nat) : Hearth := (tget s.hearths h).getD {}

def State.modHearth (s : State) (h : Nat) (f : Hearth → Hearth) : State :=
  { s with hearths := tset s.hearths h (f (s.hearth h)) }

/-- The hearth of the slot that issues. -/
def State.myHearth (s : State) : Nat := s.cur.1 / 8

def State.launch? (s : State) (l : Nat) : Option Launch := tget s.launches l

/-- A launch record field of a launch; 0 where there is no such launch. -/
def State.lr (s : State) (l i : Nat) : Word :=
  match s.launch? l with
  | some x => x.lr.getD i 0
  | none => 0

def State.modLaunch (s : State) (l : Nat) (f : Launch → Launch) : State :=
  match s.launch? l with
  | some x => { s with launches := tset s.launches l (f x) }
  | none => s

/-- An event the part has caused, to be handled in turn. -/
def State.poke (s : State) (e : Event) : State := { s with agenda := s.agenda ++ [e] }

def State.pokeAll (s : State) (es : List Event) : State := { s with agenda := s.agenda ++ es }

/-- Takes the next number for a message, producer or remote access. -/
def State.fresh (s : State) : State := { s with nextId := s.nextId + 1 }

/-- Advances the counter of free values. (DESIGN CHOICE, log 8) -/
def State.nextFree (s : State) : State := { s with freeCtr := s.freeCtr + 1 }

/-- Die of a global core number (R11). -/
def dieOf (c : Nat) : Nat := c / 2048

/-! ### The RAS log (R292) -/

/-- Logs a record: its time and sequence number are filled in here, and the in-band interrupt is raised (R290). -/
def State.logRas (s : State) (r : Ras) : State :=
  { s with ras := s.ras ++ [{ r with time := s.ptp, seq := s.rasSeq % 2 ^ 16 }]
           rasSeq := s.rasSeq + 1
           notices := s.notices ++ [.rasInterrupt] }

def State.notify (s : State) (n : Notice) : State := { s with notices := s.notices ++ [n] }

/-- 32 detail bytes from the words of bytes 32-39, 40-47, 48-55 and 56-63. -/
def detail (a b c d : Nat) : List Byte := leBytes a 8 ++ leBytes b 8 ++ leBytes c 8 ++ leBytes d 8

/-- A record of a kind that concerns a core and a launch. -/
def rasOfCore (kind c : Nat) (launch : Option Nat) (asid : Nat) (d : List Byte) : Ras :=
  { time := 0, seq := 0, kind := kind, die := dieOf c, hearth := c / 8, unit := c % 8, launch := launch
    asid := asid, detail := d }

/-! ### Traps -/

/-- Causes with their codes (R209). -/
inductive Cause where
  | illegal | priv | emptyRead | misalign | xlate | access | poison | fp | divzero | watchdog | posted | engine
  | msgOverrun | fmtMismatch | hypFull | hypUse | stackOvf | sendRefused | frame | software | brk | double | lease
  | vclaim | format | ring | tile | restore
  deriving DecidableEq, Repr

def Cause.code : Cause → Nat
  | .illegal => 0x01 | .priv => 0x02 | .emptyRead => 0x03 | .misalign => 0x04 | .xlate => 0x05 | .access => 0x06
  | .poison => 0x07 | .fp => 0x08 | .divzero => 0x09 | .watchdog => 0x0A | .posted => 0x0B | .engine => 0x0C
  | .msgOverrun => 0x0D | .fmtMismatch => 0x0E | .hypFull => 0x0F | .hypUse => 0x10 | .stackOvf => 0x11
  | .sendRefused => 0x12 | .frame => 0x13 | .software => 0x14 | .brk => 0x15 | .double => 0x16 | .lease => 0x17
  | .vclaim => 0x18 | .format => 0x19 | .ring => 0x1A | .tile => 0x1B | .restore => 0x1C

/-- A trap to take: cause, TRAP.ADDR, TRAP.INFO, and the marks of TRAP.CAUSE (R208). -/
structure Trap where
  cause : Cause
  addr : Word := 0
  info : Word := 0
  deferred : Bool := false
  async : Bool := false
  deriving DecidableEq, Repr

/-- The word of `TRAP.CAUSE` (R208). -/
def causeWord (t : Trap) (nested ended : Bool) : Word :=
  word (t.cause.code + (if t.async then 0x100 else 0) + (if ended then 0x200 else 0) +
    (if nested then 0x400 else 0) + (if t.deferred then 0x800 else 0))

/-- ILLEGAL with an info word. -/
abbrev Trap.illegal (info : Word) : Trap := { cause := .illegal, info := info }

/-- What an instruction comes to when it is tried. -/
inductive Effect where
  /-- It took effect; the task goes on at the next instruction. -/
  | done (s : State)
  /-- It took effect and the task goes on elsewhere. -/
  | jump (s : State) (pc : Word)
  /-- The state as given, the pc included: the task ended, or an issued instruction is held for an event. -/
  | stay (s : State)
  /-- A wait of R28: it has not taken effect. -/
  | wait
  /-- A stall of R28: it has issued and is tried again. -/
  | hold
  /-- A wait for a value of a vector register that is still to come: the instruction keeps a place in its core's lane queue
  (R234, R386). -/
  | behind
  /-- A trap of the state before it. -/
  | trap (t : Trap)
  /-- A trap of a state it has changed. -/
  | trapIn (s : State) (t : Trap)

/-! ### Class entries (R39) -/

structure ClassEntry where
  entry : Word
  budget : Nat
  prio : Nat
  excl : Bool
  inherit : Bool
  cont : Bool
  present : Bool
  deriving DecidableEq, Repr

/-- The class entry in its two dwords (R39). -/
def classOfWords (lo hi : Nat) : ClassEntry :=
  { entry := word lo, budget := bitsOf hi 31 0, present := bitsOf hi 32 32 == 1, cont := bitsOf hi 33 33 == 1
    inherit := bitsOf hi 34 34 == 1, excl := bitsOf hi 35 35 == 1, prio := bitsOf hi 43 40 }

/-- A launch's ASID (R50). -/
def State.asidOf (s : State) (l : Nat) : Nat := bitsOf (s.lr l 2).toNat 13 0

/-- A class of a launch, read from its class table; a table that cannot be read gives an absent class.
(DEDUCED, log 22) -/
def State.classOf (s : State) (l cls : Nat) : ClassEntry :=
  let a := (s.lr l 3).toNat + 16 * cls
  match partWord s (s.asidOf l) a, partWord s (s.asidOf l) (a + 8) with
  | some lo, some hi => classOfWords lo.toNat hi.toNat
  | _, _ => classOfWords 0 0

/-- The watchdog budget of a class: 0 means 2^32 cycles (R29). -/
def ClassEntry.cycles (c : ClassEntry) : Nat := if c.budget = 0 then 2 ^ 32 else c.budget

/-! ### Launch accounting -/

/-- Changes the in-flight count of a launch on a die (R152). -/
def State.inflight (s : State) (l die : Nat) (d : Int) : State :=
  s.modLaunch l fun x => { x with inflight := x.inflight.set die (x.inflight.getD die 0 + d) }

/-- Counts a discarded message of a launch (completion dword 3). -/
def State.countDiscard (s : State) (l n : Nat) : State :=
  s.modLaunch l fun x => { x with discarded := x.discarded + n }

/-- Events that may have become due when work of a launch has gone. -/
def State.pokeLaunch (s : State) (l : Nat) : State :=
  s.pokeAll [⟨.launchQuiescent, { launch := l }⟩, ⟨.launchEndQuenched, { launch := l }⟩]

/-- Announces an event on the Beat network (R16). A hearth places at most 8 announcements in one window; a further
one enters the first later window with room. -/
def beatWindow (l : List Announcement) (h : Nat) : Nat → Nat → Nat
  | 0, w => w
  | n + 1, w =>
    if (l.filter fun a => a.window == w && a.core / 8 == h).length < Config.beatsPerWindow then w
    else beatWindow l h n (w + 1)

def State.announce (s : State) (c t l : Nat) (k : BeatKind) : State :=
  let w := if c < Config.numCores then beatWindow s.beats (c / 8) s.beats.length (s.cycle / 8) else s.cycle / 8
  { s with beats := s.beats ++ [{ window := w, core := c, slot := t, launch := l, kind := k }] }

/-- Announces for the firmware column, after every core of the window (R175). -/
def State.announceFw (s : State) (l : Nat) (k : BeatKind) : State := s.announce Config.numCores 0 l k

/-- The messages of a launch in a core's queue and ring, or in its saved context there, are discarded and counted, and its
tiles go (R176, R213). -/
def State.discardQueued (s : State) (l c : Nat) : State :=
  let k := s.core c
  let drop := fun (s : State) (n : Nat) => (s.countDiscard l n).inflight l (dieOf c) (-n)
  if k.resident == some l then
    (drop s (k.hwq.length + k.ring.length)).modCore c fun k => { k with hwq := [], ring := [], ringHead := 0, tiles := [] }
  else match tget k.saved l with
    | some x =>
      (drop s (x.hwq.length + x.ring.length)).modCore c fun k => { k with
        saved := tset k.saved l { x with hwq := [], ring := [], ringHead := 0, tiles := [] } }
    | none => s

/-- A launch has failed, with a status (R213, R222, R259): its tasks are aborted at their next boundary and its messages
discarded; its live tags are refuted before the record is written. A first failure stands. (DEDUCED, log 26) -/
def State.failLaunch (s : State) (l status : Nat) : State :=
  match s.launch? l with
  | none => s
  | some x =>
    if x.status ≠ 0 then s
    else
      let s := x.cores.foldl (fun s c => s.discardQueued l c) s
      let s := s.modLaunch l fun x => { x with status := status, ranges := [(0, 0), (0, 0), (0, 0), (0, 0)] }
      s.poke ⟨.completionRecordWrite, { launch := l }⟩

/-! ### The end of a task (R30) -/

/-- A slot without a task keeps what launch start gave it (R198). -/
def Slot.base (sl : Slot) : SlotBase :=
  sl.back.getD { launch := sl.launch, rank := sl.rank, asid := sl.asid, spillCount := sl.spillCount, spillBase := sl.spillBase
                 trapVec := sl.trapVec, trapStack := sl.trapStack }

/-- A slot that holds no task. -/
def SlotBase.slot (b : SlotBase) : Slot :=
  { spillCount := b.spillCount, spillBase := b.spillBase, trapVec := b.trapVec, trapStack := b.trapStack
    asid := b.asid, launch := b.launch, rank := b.rank }

def Slot.freed (sl : Slot) : Slot := sl.base.slot

/-- Takes a task out of a barrier; a pending arrival still counts, and a barrier without members is undeclared
(R322). -/
def leaveBarrier (c t : Nat) (b : Barrier) : Option Barrier :=
  let m := b.members.filter fun x => !(x.1 == c && x.2.1 == t)
  if m.isEmpty then none else some { b with members := m }

/-- A task leaves every barrier of its launch (R322). -/
def Launch.leaveAll (x : Launch) (c t : Nat) : Launch :=
  { x with barriers := x.barriers.filterMap fun p => (leaveBarrier c t p.2).map fun b => (p.1, b) }

/-- Messages of a channel that were handed over and not wholly read (R371). -/
def Bind.unread : Bind → Nat
  | .chan _ m => m.length
  | _ => 0

/-- Frees a command's entry, or leaves it to complete without its task (R246). -/
def orphanCommands (t : Nat) (cs : Table Command) : Table Command :=
  (cs.filter fun p => !(p.2.slot == t && !p.2.orphaned && p.2.complete)).map fun p =>
    if p.2.slot == t then (p.1, { p.2 with orphaned := true }) else p

/-- Asynchronous causes of a task that has ended, each for a kernel trap context (R211, R118, R46).
(DEDUCED, log 27) -/
def endedCauses (sl : Slot) : List (Nat × Word × Word × Nat) :=
  (sl.pendPosted.map fun p => (Cause.posted.code, p.1, p.2, sl.launch)) ++
  sl.pendRefused.map fun p => (Cause.sendRefused.code, p.1, p.2, sl.launch)

def RemoteKind.isLoad : RemoteKind → Bool
  | .load => true
  | .vload _ _ => true
  | _ => false

/-- A store to a cached line. -/
def RemoteKind.isLine : RemoteKind → Bool
  | .line _ => true
  | _ => false

/-- An access of a task that ends: a load is dropped (R30), and a store is performed in time (R381). -/
def Remote.outlive (c t : Nat) (busy : Option (Nat × Nat)) (r : Remote) : Remote :=
  if r.core == c && r.slot == t && r.kind.isLine && !r.ended then { r with ended := true, busy := busy } else r

/-- A lane operation of a task that ends: its flags are the launch's already (R30), and it keeps an exclusive task's object
busy (R381). (DEDUCED, log 23) -/
def LaneOp.outlive (t : Nat) (busy : Option (Nat × Nat)) (o : LaneOp) : LaneOp :=
  if o.slot == t then { o with flags := 0, busy := if o.busy.isSome then o.busy else busy } else o

/-- The task of a slot ends, by any path (R30). (DEDUCED, log 23; DEDUCED, log 24) -/
def endTask (s : State) (c t : Nat) : State :=
  let k := s.core c
  let sl := k.slot t
  let l := sl.launch
  let owed := endedCauses sl
  let busy := sl.excl.map fun o => (l, o)
  let flags := (k.lanes ++ k.bound.map (·.op)).foldl (fun f o => if o.slot == t then f ||| o.flags else f) 0
  let k := (k.setSlot t sl.freed)
  let k := { k with
    commands := orphanCommands t k.commands
    journal := k.journal.map fun j => if j.used && j.slot == t && !j.ended then { j with ended := true, busy := busy } else j
    endedTraps := k.endedTraps ++ owed
    lanes := (k.lanes.filter fun o => o.slot != t || o.unformed.isNone).map (LaneOp.outlive t busy)
    bound := k.bound.map fun b => { b with op := b.op.outlive t busy }
    transfers := k.transfers.map (LaneOp.outlive t busy) }
  let s := (s.setCore c k).modHearth (c / 8) fun h => { h with
    ops := h.ops.map fun o => if o.core == c && o.slot == t && !o.ended then { o with ended := true, busy := busy } else o }
  let s := { s with
    transits := tmap (fun _ m => match m.sender with
      | .task c' t' => if c' == c && t' == t then { m with orphaned := true } else m
      | .spawn c' t' => if c' == c && t' == t then { m with orphaned := true } else m
      | _ => m) s.transits
    remotes := tmap (fun _ r => r.outlive c t busy)
      (s.remotes.filter fun p => !(p.2.core == c && p.2.slot == t && p.2.kind.isLoad)) }
  let s := s.modLaunch l fun x => { x.leaveAll c t with
    flags := x.flags ||| (sl.fpStat.toNat % 32) ||| flags
    discarded := x.discarded + (sl.binds.map Bind.unread).sum }
  let s := if owed.isEmpty then s else s.poke ⟨.endedTaskTrapContext, { core := c }⟩
  (s.pokeAll [⟨.messageDispatch, { core := c }⟩, ⟨.cutCopyPoint, { launch := l, core := c }⟩]).pokeLaunch l

/-- An issued instruction completes and the task goes on, or a wrap-up task without budget ends (R181). -/
def resume (s : State) (c t : Nat) (next : Word) : State :=
  let sl := s.slotAt c t
  if sl.wrapup && sl.quenchLeft == 0 && sl.shadow.isNone then endTask s c t
  else s.setSlotAt c t { sl with pc := next, entry := false, stall := .none }

/-- A task aborted as an orphan (R169): the steps of R30 and a count in dword 4. -/
def abortOrphan (s : State) (c t : Nat) : State :=
  endTask (s.modLaunch (s.slotAt c t).launch fun x => { x with orphans := x.orphans + 1 }) c t

/-! ### Frames (R65-R67) -/

/-- Some register of a list awaits a producer. -/
def owedIn (l : List Reg) : Bool :=
  l.any fun r => match r.st with
    | .empty (some _) => true
    | _ => false

/-- `WIN.SPILL` as it reads (R67). -/
def Slot.winSpill (sl : Slot) : Word :=
  word (sl.spillUsed * 2 ^ 48 + sl.spillCount * 2 ^ 32 + sl.spillBase)

/-- The dword of a register in a spill record (R67): a faulted one's address, another's value; an empty one's is the value it
holds, 0 in a fresh frame. (DESIGN CHOICE, log 74) -/
def regWord (r : Reg) : Word :=
  match r.st with
  | .faulted _ a _ => a
  | _ => r.val

def regFullBit (r : Reg) : Bool :=
  match r.st with
  | .full => true
  | .faulted p _ _ => p
  | .empty _ => false

def regFaultBit (r : Reg) : Bool :=
  match r.st with
  | .faulted _ _ _ => true
  | _ => false

/-- Bits of a list, the first in bit 0. -/
def bitsNat : List Bool → Nat
  | [] => 0
  | b :: r => (if b then 1 else 0) + 2 * bitsNat r

/-- The 208 bytes of a spill record (R67). (DESIGN CHOICE, log 74) -/
def spillRecord (f : Frame) : List Byte :=
  (f.regs.map fun r => leBytes (regWord r).toNat 8).flatten ++
  leBytes (bitsNat (f.regs.map regFullBit) + 2 ^ 24 * bitsNat (f.regs.map regFaultBit)) 8 ++
  leBytes (match f.ret with | some p => p.toNat / 2 * 2 | none => 0) 8

/-- Spills a frame to the next record of the slot (R67). -/
def spill (s : State) (c t : Nat) (f : Frame) : State :=
  let sl := s.slotAt c t
  let a := scratchKey c (sl.spillBase + 208 * sl.spillUsed)
  let s := { s with mem := memPutBytes s.mem a (spillRecord f), poison := unpoison s.poison a 208 }
  s.setSlotAt c t { sl with spillUsed := sl.spillUsed + 1 }

/-- A register as a spill record holds it (R67). (DEDUCED, log 17) -/
def unspillReg (v : Word) (full fault : Bool) : Reg :=
  if fault then ⟨0, .faulted full v 0⟩ else if full then Reg.of v else Reg.fresh

/-- The frame that a record holds. (DEDUCED, log 17) -/
def recordFrame (s : State) (a : Nat) : Frame :=
  let bits := memNat s.mem (a + 192) 8
  let link := memNat s.mem (a + 200) 8
  { regs := (List.range 24).map fun i =>
      if natMem s.poison ((a + 8 * i) / 64) then ⟨0, .faulted true (word (a + 8 * i)) 0⟩
      else unspillReg (memWord s.mem (a + 8 * i)) (bitsOf bits i i == 1) (bitsOf bits (24 + i) (24 + i) == 1)
    ret := if link = 0 then none else some (word link) }

/-- The key of a spill record of a slot. -/
def Slot.recordKey (sl : Slot) (c i : Nat) : Nat := scratchKey c (sl.spillBase + 208 * i)

/-- What a call or trap entry does to the window: the active frame's n0-n23 become the frame below, once the frame that
was below has been spilled. Nothing when the spill must wait for a producer; STACK_OVF when no record is free. -/
inductive Room where
  | ok (s : State)
  | waits
  | full

def makeRoom (s : State) (c t : Nat) : Room :=
  let sl := s.slotAt c t
  match sl.win.below with
  | none => .ok s
  | some f =>
    if sl.spillCount ≤ sl.spillUsed then .full
    else if owedIn f.regs then .waits
    else
      let s := spill s c t f
      .ok (s.modSlotAt c t fun sl => { sl with win := { sl.win with below := none } })

/-! ### Trap entry and return (R212, R213) -/

/-- Entry once the partition has room: the context is saved, bank 1 written, and the handler's frame opened. -/
def enterTrap (s : State) (c t : Nat) (cause epc addr info : Word) : State :=
  s.modSlotAt c t fun sl =>
    { sl with
      bank1 := { cause := cause, epc := epc, addr := addr, info := info }
      shadow := some { queue := sl.queue, args := sl.win.act.drop 24, priv := sl.priv, fpCtrl := sl.fpCtrl
                       hypCur := sl.hypCur, ret := sl.win.ret, k := sl.win.k, links := sl.win.links
                       mark := sl.spillUsed, vdone := sl.vdone, pc := sl.pc, entry := sl.entry, inBwait := sl.inBwait }
      vdone := 0
      priv := .kernel
      fpCtrl := 0
      hypCur := 0
      queue := List.replicate 16 (Reg.of 0)
      win := { below := some { regs := sl.win.act.take 24, ret := sl.win.ret } }
      pc := sl.trapVec
      entry := true
      stall := .none
      waiting := false
      inBwait := none
      spawning := false
      atPort := false
      wantsToken := false }

/-- A double trap (R213): bank 2 takes the cause, the slot stops, and the launch ends DOUBLE. -/
def doubleTrap (s : State) (c t : Nat) (tr : Trap) : State :=
  let sl := s.slotAt c t
  let s := s.setSlotAt c t { sl with
    bank2 := { cause := causeWord tr false false, epc := sl.pc, addr := tr.addr, info := tr.info }, stopped := true }
  let d := detail (bitsOf sl.bank1.cause.toNat 15 0 + 2 ^ 16 * bitsOf (causeWord tr false false).toNat 15 0)
    sl.bank1.epc.toNat sl.pc.toNat 0
  let s := s.logRas (rasOfCore 7 c (some sl.launch) sl.asid d)
  (s.notify (.doubleTrap c t)).failLaunch sl.launch 4

/-- A nested trap (R212): bank 2 takes the cause, which the RAS log holds too, and the task is aborted. -/
def nestedTrap (s : State) (c t : Nat) (tr : Trap) : State :=
  let sl := s.slotAt c t
  let cw := causeWord tr true false
  let s := s.setSlotAt c t { sl with bank2 := { cause := cw, epc := sl.pc, addr := tr.addr, info := tr.info } }
  let d := detail (2 ^ 16 * bitsOf cw.toNat 15 0) 0 sl.pc.toNat 0
  endTask (s.logRas (rasOfCore 8 c (some sl.launch) sl.asid d)) c t

/-- A wrap-up task at the end of its budget in a stall (R181): a trap of the stalled instruction is not taken. -/
def Slot.forcedOut (sl : Slot) : Bool := sl.wrapup && sl.quenchLeft == 0 && sl.stall != .none

/-- Taking a trap in a slot (R212, R213, R181): the one operation for every cause. The pc saved is the slot's.
(DEDUCED, log 20) -/
def takeTrapAt (s : State) (c t : Nat) (tr : Trap) : State :=
  let sl := s.slotAt c t
  if sl.forcedOut then endTask s c t
  else match sl.shadow with
    | some sh => if sh.causeRead then nestedTrap s c t tr else doubleTrap s c t tr
    | none =>
      match makeRoom s c t with
      | .waits => s.modSlotAt c t fun sl => { sl with waiting := true }
      | .full =>
        let s := s.setSlotAt c t { sl with
          bank1 := { cause := causeWord tr false false, epc := sl.pc, addr := tr.addr, info := tr.info } }
        doubleTrap s c t { cause := .stackOvf, info := sl.winSpill }
      | .ok s => enterTrap s c t (causeWord tr false false) sl.pc tr.addr tr.info

/-- A trap of a slot must wait for a spill (R67). -/
def trapWaits (s : State) (c t : Nat) : Bool :=
  !(s.slotAt c t).forcedOut && (s.slotAt c t).shadow.isNone && match makeRoom s c t with
    | .waits => true
    | _ => false

/-- Taking a trap in the slot that issues. -/
def takeTrap (s : State) (tr : Trap) : State := takeTrapAt s s.cur.1 s.cur.2 tr

/-- The rank of a core in a launch. -/
def State.rankOf (s : State) (l c : Nat) : Nat :=
  match s.launch? l with
  | some x => x.cores.findIdx (· == c)
  | none => 0

/-- A free slot for a task of a launch: with the launch's own `TRAP.VEC` and `TRAP.STACK`, which its saved context gives where
the launch is not resident; the slot then spills where it did, or where that launch does on a core without a resident launch. -/
def slotFor (s : State) (c t l : Nat) : Slot :=
  let k := s.core c
  let sl := (k.slot t).freed
  if k.resident == some l then sl
  else
    let own := { sl with launch := l, rank := s.rankOf l c, asid := s.asidOf l, back := some sl.base }
    match tget k.saved l with
    | none => own
    | some x =>
      let tr := x.traps.getD t (0, 0)
      let sp := if k.resident.isSome then (sl.spillCount, sl.spillBase) else x.spill.getD t (0, 0)
      { own with trapVec := tr.1, trapStack := tr.2, spillCount := sp.1, spillBase := sp.2 }

/-- A kernel trap context for a task that has ended takes a free slot (R211): ended = 1 and `TRAP.EPC` = 0. No class gives it a
watchdog budget: it has the largest, 2^32 cycles. (DESIGN CHOICE, log 78) -/
def trapContext (s : State) (c t : Nat) (code : Nat) (addr info : Word) (l : Nat) : State :=
  let sl := slotFor s c t l
  s.setSlotAt c t
    { sl with
      held := true
      start := .trapContext
      priv := .kernel
      pc := sl.trapVec
      entry := true
      wdog := 2 ^ 32
      bank1 := { cause := word (code + 0x300), epc := 0, addr := addr, info := info }
      shadow := some { queue := List.replicate 16 (Reg.of 0), args := List.replicate 8 Reg.fresh, priv := .user
                       fpCtrl := 0, hypCur := 0, ret := none, k := 32, links := [], mark := 0 } }

/-- The registers a trap entry saved come back (R384): the frame, the queue, n24-n31, and the shadow state. -/
def restoreShadow (s : State) (c t : Nat) (sh : Shadow) : State :=
  let sl := s.slotAt c t
  let deeper := decide (sh.mark < sl.spillUsed)
  let low := if deeper then recordFrame s (sl.recordKey c sh.mark)
    else match sl.win.below with
      | some f => f
      | none => { regs := List.replicate 24 Reg.fresh, ret := none }
  s.setSlotAt c t { sl with
    queue := sh.queue
    win := { act := low.regs.take 24 ++ sh.args, below := none, ret := sh.ret, k := sh.k, links := sh.links }
    spillUsed := if deeper then sh.mark else sl.spillUsed
    fpCtrl := sh.fpCtrl
    hypCur := sh.hypCur
    vdone := sh.vdone
    priv := .user
    shadow := none
    entry := false
    stall := .none }

/-! ### Diversion (R177, R178) -/

/-- The wrap-up budget: 0 means 2^32 (R173). -/
def State.qbudget (s : State) (l : Nat) : Nat :=
  let b := bitsOf (s.lr l 19).toNat 31 0
  if b = 0 then 2 ^ 32 else b

/-- The class wrap-up tasks run in. -/
def State.qclass (s : State) (l : Nat) : Nat := bitsOf (s.lr l 18).toNat 7 0

/-- A task is diverted at a pc (R178): it keeps its slot and state, but for these. -/
def divertAt (s : State) (c t : Nat) (qpc : Word) : State :=
  let sl := s.slotAt c t
  let l := sl.launch
  let cause := match s.launch? l with
    | some x => x.quench.getD 0
    | none => 0
  s.setSlotAt c t { sl with
    wrapup := true
    pc := (s.classOf l (s.qclass l)).entry
    entry := false
    msgSrc := 0, msgHdr := 0, msgSlot := 0
    quenchPc := qpc
    quenchCause := cause
    quenchLeft := s.qbudget l
    wdog := s.qbudget l
    stall := .none
    waiting := false
    inBwait := none
    migrating := none
    migrateEnd := none
    spawning := false
    vdone := 0
    pendWatchdog := false
    atPort := false
    wantsToken := false }

/-- A launch has been quenched (R176). -/
def State.quenched (s : State) (l : Nat) : Bool :=
  match s.launch? l with
  | some x => x.quenched
  | none => false

/-- An abort by a trap handler is counted with its cause and EPC (R214, R292): the end of a task inside its handler, a
kernel trap context's end left out. -/
def State.abortRecord (s : State) (c t : Nat) : State :=
  let sl := s.slotAt c t
  if sl.shadow.isSome && sl.start != .trapContext then
    s.logRas (rasOfCore 16 c (some sl.launch) sl.asid (detail (bitsOf sl.bank1.cause.toNat 15 0) sl.bank1.epc.toNat 0 0))
  else s

/-! #### Lanes (R206, R70) -/

/-- Tasks of a core that hold lanes, the task that claims left out. -/
def claimants (k : Core) (t : Option Nat) : Nat :=
  (k.slots.filter fun p => p.2.held && some p.1 != t && 0 < p.2.vl).length

/-- The grant of a claim of `n` (n not 0) by the task of a slot (R206). -/
def grant (s : State) (c t n : Nat) : Nat :=
  let h := c / 8
  let tasks := fun i => claimants (s.core (8 * h + i)) (if 8 * h + i = c then some t else none) + (if 8 * h + i = c then 1 else 0)
  let weights := (List.range 8).map fun i => if tasks i = 0 then 0 else (s.core (8 * h + i)).vshare
  let share := 64 * (s.core c).vshare / weights.sum
  let fair := max 8 (share / tasks (c % 8))
  let g := min (min (8 * ceilDiv n 8) fair) 64
  if 64 ≤ g then 64 else if 32 ≤ g then 32 else if 16 ≤ g then 16 else 8

/-- A task re-requests the lanes its last `vclaim` asked for (R70). -/
def reclaim (s : State) (c t : Nat) : State :=
  let n := (s.slotAt c t).vasked
  let g := if n = 0 then 0 else grant s c t n
  s.modSlotAt c t fun sl => { sl with vl := g, inBwait := none }

/-! #### The return -/

/-- The interrupted task as `tret` leaves it at a pc (R384). Where that is the pc of the trap, an entry parcel still stands
there to be executed (R345), and a `migrate`, `bwait` or `bsync` goes on with its wait; a task that the handler has taken out of one
requests its lanes as on release (R70). (DEDUCED, log 27) -/
def returnTo (s : State) (c t : Nat) (sh : Shadow) (e : Word) : State :=
  let s := (restoreShadow s c t sh).modSlotAt c t fun sl => { sl with
    pc := e, entry := sh.entry && e == sh.pc, migrating := if e == sh.pc then sl.migrating else none
    migrateEnd := if e == sh.pc then sl.migrateEnd else none }
  if sh.inBwait.isNone then s
  else if e == sh.pc then s.modSlotAt c t fun sl => { sl with inBwait := sh.inBwait }
  else reclaim s c t

/-- A task in a handler is diverted at its `tret` (R177): out of a `bwait` it requests its lanes as on release. -/
def divertReturn (s : State) (c t : Nat) (sh : Shadow) (e : Word) : State :=
  let s := restoreShadow s c t sh
  divertAt (if sh.inBwait.isSome then reclaim s c t else s) c t e

/-- `tret` (R384). A kernel trap context ends, and so does one whose `TRAP.CAUSE` [9] kernel code has set. A wrap-up task
without budget is forced to end (R181), and the task of a `migrate` whose message has been accepted meanwhile ends (R49).
(DEDUCED, log 25; DEDUCED, log 27) -/
def tretEffect (s : State) : Effect :=
  let c := s.cur.1
  let t := s.cur.2
  let sl := s.slot
  let e := sl.bank1.epc
  match sl.shadow with
  | none => .stay s
  | some sh =>
    if sl.start == .trapContext || sl.bank1.cause.getLsbD 9 then .stay (endTask s c t)
    else if sl.wdog == 0 then .stay (endTask (if sl.wrapup then s else s.abortRecord c t) c t)
    else if sl.migrateEnd == some none then .stay (endTask s c t)
    else if s.quenched sl.launch && !sl.wrapup then .stay (divertReturn s c t sh e)
    else if e.toNat % 2 == 1 then .trap { cause := .misalign, addr := e, info := 0x200 }
    else .stay (returnTo s c t sh e)

/-! ### The lane queue (R205, R234) -/

/-- The cores of a hearth whose lane queue is not empty, with their passes. -/
def passes (s : State) (h : Nat) : List (Nat × Nat) :=
  (List.range 8).filterMap fun i =>
    let k := s.core (8 * h + i)
    if k.lanes.isEmpty then none else some (8 * h + i, k.pass)

/-- The entry holds the place of the instruction of a slot at a pc. -/
def LaneOp.standsFor (o : LaneOp) (t : Nat) (pc : Word) : Bool := o.slot == t && o.unformed == some pc

/-- The task's instruction at the pc has a place in its core's lane queue. -/
def State.hasLane (s : State) : Bool := s.myCore.lanes.any (·.standsFor s.cur.2 s.slot.pc)

/-- Enters the lane queue (R205), in the place kept for the instruction if there is one: a core whose queue becomes non-empty
catches its pass up. (DESIGN CHOICE, log 37) -/
def enterLanes (s : State) (op : LaneOp) : State :=
  let k := s.myCore
  let others := (passes s s.myHearth).map (·.2)
  let pass := if k.lanes.isEmpty then
      (match others with
        | [] => k.pass
        | p :: r => max k.pass (r.foldl min p))
    else k.pass
  let lanes := if s.hasLane then k.lanes.map fun o => if o.standsFor s.cur.2 s.slot.pc then op else o
    else k.lanes ++ [op]
  (s.setCore s.cur.1 { k with lanes := lanes, pass := pass }).poke ⟨.vectorBind, { hearth := s.myHearth }⟩

/-- Keeps a place in the lane queue for the instruction at the pc: the queue's later instructions wait behind it (R234).
(DESIGN CHOICE, log 37) -/
def keepLane (s : State) : State :=
  if s.hasLane then s
  else enterLanes s { slot := s.cur.2, groups := s.slot.vl / 8, cycles := 0, unformed := some s.slot.pc }

/-! ### Finishing an instruction -/

/-- A release that traps POSTED takes the cause pending for the refused store (R119). (DEDUCED, log 21) -/
def State.takePosted (s : State) (t : Trap) : State :=
  if t.cause == .posted && !(s.slotAt s.cur.1 s.cur.2).forcedOut then
    s.modSlot fun sl => { sl with pendPosted := sl.pendPosted.erase (t.addr, t.info) }
  else s

/-- The instruction at the pc waits: it has not taken effect, and its core passes the slot over (R28). -/
def Slot.waits (sl : Slot) : Slot := { sl with stall := .none, waiting := true }

/-- What an effect does to the part: the pc moves past `len` bytes, or elsewhere, or a trap is taken (R210).
(DEDUCED, log 21) -/
def finish (s : State) (len : Nat) (e : Effect) : Host.Outcome State Fault Refusal :=
  match e with
  | .done s' => .next (s'.modSlot fun sl => { sl with pc := sl.pc + word len, entry := false, stall := .none })
  | .jump s' pc => .next (s'.modSlot fun sl => { sl with pc := pc, entry := false, stall := .none })
  | .stay s' => .next s'
  | .wait => .next (s.modSlot Slot.waits)
  | .hold => .next (s.modSlot fun sl => { sl with stall := .held })
  | .behind =>
    .next ((keepLane s).modSlot Slot.waits)
  | .trap t => .next (takeTrap (s.takePosted t) t)
  | .trapIn s' t =>
    if trapWaits s' s.cur.1 s.cur.2 then .next (s.modSlot Slot.waits) else .next (takeTrap s' t)

end Sys2Proof.Machine
end

