-- ==== Sys2Proof/Machine/Hyp.lean ====
section
/-! DEFINITION. Hypotheses: the tree (R159-R164), versions and what a load sees (R166-R168). A confirmation is folded
into its target at its delivery, which is the outcome R167 states; the version's spill record is freed by the sweep. -/

namespace Sys2Proof.Machine

def State.tag (s : State) (h : Nat) : Tag := (tget s.hyp h).getD { launch := 0, parent := 0, depth := 0, state := .free }

def State.modTag (s : State) (h : Nat) (f : Tag → Tag) : State := { s with hyp := tset s.hyp h (f (s.tag h)) }

/-- The tag is live and belongs to a launch. -/
def State.liveTag (s : State) (l h : Nat) : Bool := (s.tag h).state == .live && (s.tag h).launch == l

/-- The tag is refuted: its bit of the refuted-tag vector is set (R164). -/
def State.refuted (s : State) (h : Nat) : Bool := h != 0 && (s.tag h).state == .sweeping

/-- The live tag or root that stands for a tag once confirmations are followed (R164). (DEDUCED, log 56) -/
def followTag (s : State) : Nat → Nat → Nat
  | 0, h => h
  | n + 1, h => if h != 0 && (s.tag h).state == .confirmed then followTag s n (s.tag h).target else h

def State.follow (s : State) (h : Nat) : Nat := followTag s 16 h

/-- The tag and its ancestors, deepest first, the root left out (R167). -/
def chainFrom (s : State) : Nat → Nat → List Nat
  | 0, _ => []
  | n + 1, h => if h = 0 then [] else h :: chainFrom s n (s.tag h).parent

/-- The tags whose versions an access under a tag sees, deepest first: lookups ignore those of a refuted tag (R164). -/
def State.chain (s : State) (h : Nat) : List Nat := (chainFrom s 16 (s.follow h)).filter fun a => !s.refuted a

/-- Whether `a` is `h` or an ancestor of it. -/
def State.under (s : State) (h a : Nat) : Bool := natMem (chainFrom s 16 h) a

def Version.byte (v : Version) (off : Nat) : Option Byte := tget v.bytes off

/-- The version of a line a tag has. -/
def State.version? (s : State) (line h : Nat) : Option Version :=
  s.versions.find? fun v => v.line == line && v.tag == h

/-- The byte of the deepest version that covers a key under a tag (R167). -/
def State.versionByte (s : State) (h key : Nat) : Option Byte :=
  (s.chain h).findSome? fun a => (s.version? (key / 128) a).bind fun v => v.byte (key % 128)

/-- The byte at a key under a tag: the deepest version that covers it, else committed data (R167). -/
def State.byteUnder (s : State) (h key : Nat) : Byte := (s.versionByte h key).getD (memGet s.mem key)

/-- A load of `n` bytes under a tag takes a byte from committed data that is poisoned (R129, R167). -/
def poisonedUnder (s : State) (h key n : Nat) : Bool :=
  (List.range n).any fun i => natMem s.poison ((key + i) / 64) && (s.versionByte h (key + i)).isNone

/-- `n` bytes from a key on as seen under a tag, little-endian. -/
def natUnder (s : State) (h key : Nat) : Nat → Nat
  | 0 => 0
  | n + 1 => (s.byteUnder h key).toNat + 256 * natUnder s h (key + 1) n

/-- Changes the version of a line that a tag has. -/
def State.modVersion (s : State) (line h : Nat) (f : Version → Version) : State :=
  { s with versions := s.versions.map fun v => if v.line == line && v.tag == h then f v else v }

/-- Writes the low `n` bytes of a number into a version's bytes. -/
def putBytes (b : Table Byte) (off v : Nat) : Nat → Table Byte
  | 0 => b
  | n + 1 => putBytes (tset b off (BitVec.ofNat 8 v)) (off + 1) (v / 256) n

/-- Records of a launch's spill area (R168). -/
def State.spillArea (s : State) (l : Nat) : Nat := bitsOf (s.lr l 23).toNat 15 0 * 256

/-- Records in use: one for each version of the launch's tags. -/
def State.spillUsed (s : State) (l : Nat) : Nat := (s.versions.filter fun v => (s.tag v.tag).launch == l).length

/-- The lowest free record of a launch's spill area. -/
def State.freeRecord (s : State) (l : Nat) : Nat :=
  ((List.range ((s.versions.length) + 1)).find? fun r =>
    !(s.versions.any fun v => (s.tag v.tag).launch == l && v.record == r)).getD 0

/-- Die of a host port (R8). -/
def portDie (p : Nat) : Nat := if p = 0 then 0 else 2

/-- Home hearth of a line (R128). -/
def homeHearth (s : State) (line : Nat) : Nat :=
  let key := line * 128
  if key < Config.hbmBytes then hbmDie key * 256 + homeHash key
  else portDie (cxlPort s) * 256 + homeHash (key % 2 ^ 52)

/-- The set of its home slice a line falls in, of 256 of 16 ways (R14); the manual does not give the index.
(DESIGN CHOICE, log 14) -/
def lineSet (line : Nat) : Nat := Config.llcSet line % 256

/-- Two lines fall in one set of one slice. (DESIGN CHOICE, log 14) -/
def sameSet (s : State) (a b : Nat) : Bool := lineSet a == lineSet b && homeHearth s a == homeHearth s b

/-- The ways of a line's set that pinned versions fill (R168). (DESIGN CHOICE, log 14) -/
def State.pinnedWays (s : State) (line : Nat) : Nat := (s.versions.filter fun v => v.pinned && sameSet s v.line line).length

/-- The versions that stores of a launch that wait for their lines will make, by tag and line: each has its record
(R168). (DESIGN CHOICE, log 14) -/
def State.reservedBy (s : State) (l : Nat) : List (Nat × Nat) :=
  ((s.remotes.filterMap fun p => match p.2.tag with
    | some h =>
      let h := s.follow h
      let line := p.2.key / 128
      if p.2.kind.isLine && p.2.launch == l && h != 0 && (s.version? line h).isNone then some (h, line) else none
    | none => none).eraseDups)

/-- A store under `h` to a line needs a version that cannot be made: HYP_FULL (R168). (DESIGN CHOICE, log 14) -/
def State.hypFull (s : State) (l h line : Nat) : Bool :=
  let reserved := s.reservedBy l
  (s.version? line h).isNone && !reserved.contains (h, line) &&
    (s.spillArea l ≤ s.spillUsed l + reserved.length || 16 ≤ s.pinnedWays line)

/-- The checks of the granules that a store of `n` bytes touches are made anew over their bytes (R129).
(DEDUCED, log 77) -/
def recheck (l : List Nat) (a n : Nat) : List Nat := l.filter fun g => !(decide (64 * g < a + n) && decide (a < 64 * g + 64))

/-- Writes `n` bytes of committed memory at a key; poison clears where whole granules are written (R129). -/
def writeMem (s : State) (key n v : Nat) : State :=
  { s with mem := memPutNat s.mem key v n, poison := unpoison s.poison key n, badCheck := recheck s.badCheck key n }

/-- The event by which a request reaches its home. -/
def CohReq.event (r : CohReq) (c line : Nat) : Event :=
  ⟨match r with
    | .getS => .gets
    | .getX => .getx
    | .upg => .upg
    | .putM => .putm
    | .putO => .puto
    | .putE => .pute
    | .putS => .puts, { core := c, id := line }⟩

/-- A poison origin's record (R258, R292): 0 a check mismatch, 1 ECC, 2 a link; where it was detected, and the address. -/
def originRecord (s : State) (why die hearth unit index addr : Nat) : State :=
  s.logRas { time := 0, seq := 0, kind := 2, die := die, hearth := hearth, unit := unit, index := index, addr := addr
             detail := detail why 0 0 0 }

/-- Poisons the granule of a key. -/
def poisonGranule (s : State) (key : Nat) : State := { s with poison := natIns s.poison (key / 64) }

/-- The checks of the granules of `n` bytes are verified (R129): a mismatch poisons the granule, with a record of origin of
the unit that finds it. (DEDUCED, log 77) -/
def verify (s : State) (key n die unit index : Nat) : State :=
  (s.badCheck.filter fun g => decide (64 * g < key + n) && decide (key < 64 * g + 64)).foldl (fun s g =>
    originRecord { s with poison := natIns s.poison g, badCheck := natDel s.badCheck g } 0 die 0xFFFF unit index (64 * g)) s

/-- The link between two dies, by number. (DESIGN CHOICE, log 69) -/
def dieLink (a b : Nat) : Nat :=
  match min a b, max a b with
  | 0, b => b - 1
  | 1, b => b + 1
  | _, _ => 5

/-- Data goes from one die to another, where its checks are verified (R129). (DEDUCED, log 77) -/
def crossDies (s : State) (a b key n : Nat) : State :=
  if a = b then s else verify s key n b 14 (dieLink a b)

/-- The hearth, unit and offset of a key of this device's SRAM. -/
def keyUnit (key : Nat) : Option (Nat × Nat × Nat) :=
  if key / 2 ^ 50 = 0xFEFC000000000000 / 2 ^ 50 then some (bitsOf key 49 40, bitsOf key 39 36, bitsOf key 31 0) else none

/-- The die that holds a key of this part or of the host. -/
def keyDie (s : State) (key : Nat) : Nat :=
  match keyUnit key with
  | some (h, _, _) => h / 256
  | none => if key < Config.hbmBytes then hbmDie key else if cxlPort s = 0 then 0 else 2

/-- The bridge's state of a 64-byte half of host memory (R255). -/
def State.bridgeSt (s : State) (half : Nat) : CxlState := (tget s.bridge half).getD .i

/-- The bridge asks the host for a half, once; the host's answer is an event (R255). -/
def askHost (s : State) (half : Nat) (q : CacheReq) : State :=
  if (tget s.hostReqs half).isSome then s
  else ({ s with hostReqs := tset s.hostReqs half q }.notify (.hostReq (cxlPort s) q half [] false)).poke
    ⟨.hostLineFill, { id := half }⟩

/-- A half of host memory goes back to the host (R255): with its data when it is dirty. -/
def returnHalf (s : State) (half : Nat) : State :=
  let key := hostKey (64 * half)
  let dirty := s.bridgeSt half == .m
  if s.bridgeSt half == .i then s
  else
    let p := cxlPort s
    let s := if dirty then verify s key 64 (portDie p) 15 p else s
    { s with bridge := tdel s.bridge half }.notify (.hostReq p (if dirty then .dirtyEvict else .cleanEvict) half
      (if dirty then memBytes s.mem key 64 else []) (dirty && natMem s.poison (key / 64)))

/-! ### The ways of an LLC slice (R14, R168) -/

/-- A home's line, and a change to it. -/
def State.home (s : State) (line : Nat) : Home := (tget s.homes line).getD {}

def State.modHome (s : State) (line : Nat) (f : Home → Home) : State :=
  { s with homes := tset s.homes line (f (s.home line)) }

/-- No L1 is recorded as holding the line. -/
def Dir.unheld (d : Dir) : Bool := d.holders.isEmpty && d.spans.isEmpty && d.owner.isNone

/-- An LLC slice gives a line up: dirty data goes back to memory, and to the host when no L1 holds the line. -/
def evictLlc (s : State) (line : Nat) : State :=
  let d := (s.home line).dir
  let s := s.modHome line fun h => { h with dir := { h.dir with inLlc := false, dirty := false } }
  if 128 * line < hostKey 0 then (if d.dirty then touchKey s (128 * line) else s)
  else if !d.unheld then s
  else
    let half := (128 * line - hostKey 0) / 64
    returnHalf (returnHalf s half) (half + 1)

/-- The version is evicted to its record, or stays in its slice when the record cannot be written (R168): then it is
pinned and the event logged. (DESIGN CHOICE, log 14) -/
def evictVersion (s : State) (v : Version) : State :=
  let l := (s.tag v.tag).launch
  let a := (s.lr l 23).toNat / 2 ^ 16 * 2 ^ 16 + 256 * v.record
  match partKey s (s.asidOf l) a .store with
  | some k =>
    if poisoned s.poison k 256 then pin l a else (touchKey s k).modVersion v.line v.tag fun v => { v with spilled := true }
  | none => pin l a
where
  pin (l a : Nat) : State :=
    (s.modVersion v.line v.tag fun v => { v with pinned := true }).logRas
      { time := 0, seq := 0, kind := 17, die := homeHearth s v.line / 256, hearth := homeHearth s v.line
        unit := 9, addr := a, launch := some l, asid := s.asidOf l, detail := detail v.tag 0 0 0 }

/-- The versions of a line's set that its slice holds, and may evict. -/
def State.setVersions (s : State) (line : Nat) : List Version := s.versions.filter fun v => !v.spilled && sameSet s v.line line

/-- The lines of a line's set that its slice holds. -/
def State.setLines (s : State) (line : Nat) : List Nat :=
  (s.homes.filter fun p => p.2.dir.inLlc && sameSet s p.1 line).map (·.1)

/-- A slice holds at most 16 lines and versions of a set (R14, R168): as long as it holds more, another of them than the line that
has come in makes room, which one the manual does not say. A pinned version is no victim.
(DESIGN CHOICE, log 12; DESIGN CHOICE, log 14) -/
def trimSet : Nat → State → Nat → State
  | 0, s, _ => s
  | n + 1, s, line =>
    let lines := (s.setLines line).filter (· != line)
    let versions := (s.setVersions line).filter fun v => !v.pinned
    let all := lines.length + versions.length
    if (s.setLines line).length + (s.setVersions line).length ≤ 16 || all = 0 then s
    else
      let i := Config.freeNat s.freeCtr % all
      let s := s.nextFree
      let s := match versions[i]? with
        | some v => evictVersion s v
        | none => evictLlc s (lines.getD (i - versions.length) line)
      trimSet n s line

def trimLlc (s : State) (line : Nat) : State := trimSet ((s.setLines line).length + (s.setVersions line).length) s line

/-- The versions of a line's set that its slice evicts of its own choice as it takes another line in (R168). -/
def evictSet (s : State) (line : Nat) : State :=
  ((s.setVersions line).filter fun v => !v.pinned).foldl
    (fun s v => if Config.freeBit s.freeCtr then evictVersion s.nextFree v else s.nextFree) s

/-- A store of `n` bytes under tag `h`, into its version of the line (R167): of the target of a confirmed tag, and
discarded under a refuted one. -/
def storeUnder (s : State) (l h key n v : Nat) : State :=
  let h := s.follow h
  let line := key / 128
  if s.refuted h then s
  else if h = 0 then writeMem s key n v
  else
    let s := match s.version? line h with
      | some _ => s
      | none =>
        let x : Version := { line := line, tag := h, bytes := [], record := s.freeRecord l }
        evictSet { s with versions := s.versions ++ [x] } line
    trimLlc (s.modVersion line h fun x => { x with bytes := putBytes x.bytes (key % 128) v n, spilled := false }) line

/-- Every byte of a 64-byte half of the line stands in the bytes. -/
def coversHalf (b : Table Byte) (half : Nat) : Bool := (List.range 64).all fun i => (tget b (64 * half + i)).isSome

/-- Bytes of a half of host memory that the part writes of itself (R167): at once where the bridge owns the half; else it
asks for the right to write, and they stand over the host's answer (R255). (DEDUCED, log 56) -/
def foldHalf (s : State) (half : Nat) (b : List (Nat × Byte)) : State :=
  if b.isEmpty then s
  else match s.bridgeSt half with
    | .m => s
    | .e => { s with bridge := tset s.bridge half .m }
    | _ => askHost { s with hostFolds := tset s.hostFolds half ((tget s.hostFolds half).getD [] ++ b) } half .rdOwn

/-- The part itself writes a byte: to HBM, whose stack is accessed, or to host memory through the bridge (R129, R255). -/
def partPut (s : State) (key : Nat) (b : Byte) : State :=
  let s := { s with mem := memPut s.mem key b, badCheck := recheck s.badCheck key 1 }
  if key < hostKey 0 then touchKey s key else foldHalf s ((key - hostKey 0) / 64) [(key % 64, b)]

/-- Writes bytes for the part itself; none on a fault, and then nothing is written. -/
def partWrite (s : State) (asid va : Nat) : List Byte → Option State
  | [] => some s
  | b :: r =>
    match partKey s asid va .store with
    | none => none
    | some k => (partWrite s asid (va + 1) r).map fun s' => partPut s' k b

/-- A byte that the part itself reads cannot be read yet: its half of host memory is not held, or its stack is in self-refresh
(R255, R284). -/
def keyAway (s : State) (key : Nat) : Bool :=
  if key < hostKey 0 then !stackReady s key else s.bridgeSt ((key - hostKey 0) / 64) == .i

/-- It is asked for. -/
def summon (s : State) (key : Nat) : State :=
  if key < hostKey 0 then touchKey s key else askHost s ((key - hostKey 0) / 64) .rdShared

/-- The first byte of a region that the part cannot read yet. -/
def regionAway (s : State) (asid va n : Nat) : Option Nat :=
  (List.range (ceilDiv (va % 64 + n) 64)).findSome? fun i =>
    match partKey s asid (va / 64 * 64 + 64 * i) .load with
    | some k => if keyAway s k then some k else none
    | none => none

/-- Committed data takes the bytes of a version (R167): poison clears from a granule they cover whole, and its check is
made over them (R129). (DEDUCED, log 56) -/
def commitBytes (s : State) (line : Nat) (b : Table Byte) : State :=
  let g := line * 2
  let s := { s with
    mem := memRestore s.mem (b.map fun b => (line * 128 + b.1, b.2))
    poison := s.poison.filter fun p => !((p == g && coversHalf b 0) || (p == g + 1 && coversHalf b 1))
    badCheck := s.badCheck.filter fun p => !((p == g && b.any fun x => x.1 < 64) || (p == g + 1 && b.any fun x => 64 ≤ x.1)) }
  if line * 128 < hostKey 0 then s
  else
    let half := (line * 128 - hostKey 0) / 64
    foldHalf (foldHalf s half (b.filter fun x => decide (x.1 < 64))) (half + 1)
      ((b.filter fun x => decide (64 ≤ x.1)).map fun x => (x.1 - 64, x.2))

/-- Moves the bytes of a version of `h` into its target: committed data for the root, else the target's version
(R167). (DEDUCED, log 56) -/
def foldVersion (s : State) (h target : Nat) (v : Version) : State :=
  if target = 0 then commitBytes (s.modVersion v.line h fun v => { v with bytes := [] }) v.line v.bytes
  else match s.version? v.line target with
    | none => s.modVersion v.line h fun v => { v with tag := target }
    | some _ =>
      (s.modVersion v.line target fun t => { t with bytes := v.bytes.foldl (fun m b => tset m b.1 b.2) t.bytes }).modVersion
        v.line h fun v => { v with bytes := [] }

/-- Folds every version of a confirmed tag. (DEDUCED, log 56) -/
def foldTag (s : State) (h target : Nat) : State :=
  (s.versions.filter (·.tag == h)).foldl (fun s v => foldVersion s h target v) s

/-- Tags of a launch that are neither free nor swept (R159). -/
def State.tagsHeld (s : State) (l : Nat) : Nat :=
  (s.hyp.filter fun p => p.2.launch == l && p.2.state != .free && p.2.state != .swept).length

/-- Tags of the device that are not free or swept. -/
def State.tagsInUse (s : State) : Nat := (s.hyp.filter fun p => p.2.state != .free && p.2.state != .swept).length

/-- The lowest tag from `h` on that is free or swept. -/
def lowestFree (s : State) : Nat → Nat → Option Nat
  | 0, _ => none
  | n + 1, h =>
    if (s.tag h).state == .free || (s.tag h).state == .swept then some h else lowestFree s n (h + 1)

/-- Replaces a tag in `HYP.CUR` of every task (R164). -/
def replaceCur (s : State) (a b : Nat) : State :=
  { s with cores := tmap (fun _ k => { k with slots := tmap (fun _ sl =>
      { sl with hypCur := if sl.hypCur == a then b else sl.hypCur
                shadow := sl.shadow.map fun h => if h.hypCur == a then { h with hypCur := b } else h }) k.slots }) s.cores }

/-- Live tags below `a`. -/
def State.below (s : State) (a : Nat) : List Nat :=
  (tkeys s.hyp).filter fun h => h != a && (s.tag h).state == .live && s.under h a

/-- The last cycle in which the sweep of a tag may end (R160): 65,536 from now, and 64 more for each version in the spill
area. -/
def State.sweepBound (s : State) (h : Nat) : Nat :=
  s.cycle + 65536 + 64 * (s.versions.filter fun v => v.tag == h && v.spilled).length

/-- Refutes a live tag and its descendants (R164); their sweeps end by events. -/
def refuteTag (s : State) (a : Nat) : State :=
  let l := a :: s.below a
  let s := l.foldl (fun s h => s.modTag h fun t => { t with state := .sweeping, sweepBy := s.sweepBound h }) s
  s.pokeAll (l.map fun h => ⟨.sweepEnd, { id := h }⟩)

/-- Confirms a live tag (R164): its target is its parent, its children move up, descendants' depths fall by one, and
its versions are its target's. Tags confirmed into it before have its target from now on. -/
def confirmTag (s : State) (a : Nat) : State :=
  let p := (s.tag a).parent
  let below := s.below a
  let s := below.foldl (fun s h => s.modTag h fun t =>
    { t with depth := t.depth - 1, parent := if t.parent == a then p else t.parent }) s
  let s := s.modTag a fun t => { t with state := .confirmed, target := p, sweepBy := s.sweepBound a }
  let s := { s with hyp := tmap (fun _ t =>
    if t.state == .confirmed && t.target == a then { t with target := p } else t) s.hyp }
  let s := replaceCur (foldTag s a p) a p
  s.poke ⟨.sweepEnd, { id := a }⟩

/-- `.x`: as `.c`, and every other live child of the parent that the launch owns is refuted with its descendants. -/
def confirmOnly (s : State) (l a : Nat) : State :=
  let p := (s.tag a).parent
  let others := (tkeys s.hyp).filter fun h => h != a && s.liveTag l h && (s.tag h).parent == p
  confirmTag (others.foldl refuteTag s) a

/-- The word of `hstat` (R165, R358). -/
def hstatWord (s : State) (l h : Nat) : Word :=
  let t := s.tag h
  if h = 0 then 1
  else if t.launch != l then 0
  else match t.state with
    | .free => 0
    | .live => word (t.depth * 2 ^ 16 + t.parent * 2 ^ 4 + 1)
    | .confirmed => 2
    | .sweeping => 3
    | .swept => 4

/-- A task is an orphan: its `HYP.CUR` is refuted (R169). -/
def State.orphan (s : State) : Bool := s.refuted s.slot.hypCur

/-- An orphan is aborted at a memory access, a message or its end (R169). -/
def orphanGate (s : State) (e : Effect) : Effect :=
  if s.orphan then .stay (abortOrphan s s.cur.1 s.cur.2) else e

end Sys2Proof.Machine
end

