-- ==== Sys2Proof/Machine/Links.lean ====
section
/-! DEFINITION. Packets toward peers and the queues they wait in (R263, R264, R273-R275), and the waking of parked
transmitters (R272). -/

namespace Sys2Proof.Machine

/-- Key of the stream from a die to a peer. -/
def streamKey (die peer : Nat) : Nat := die * 64 + peer

def State.stream (s : State) (die peer : Nat) : Stream := (tget s.streams (streamKey die peer)).getD {}

def State.modStream (s : State) (die peer : Nat) (f : Stream → Stream) : State :=
  { s with streams := tset s.streams (streamKey die peer) (f (s.stream die peer)) }

/-- Die of a peer's base lease (R263). -/
def State.baseDie (s : State) (peer : Nat) : Nat := (tget s.cfg.baseDies peer).getD (peer % 4)

/-- A launch's lease toward a peer. -/
def State.lease? (s : State) (l peer : Nat) : Option Lease := (s.launch? l).bind fun x => tget x.leases peer

def State.modLease (s : State) (l peer : Nat) (f : Lease → Lease) : State :=
  s.modLaunch l fun x => match tget x.leases peer with
    | some y => { x with leases := tset x.leases peer (f y) }
    | none => x

/-- Key of the queue a launch's packets toward a peer wait in: its lease's, else the base lease's (256) (R264). -/
def State.queueKey (s : State) (l peer : Nat) : Nat := if (s.lease? l peer).isSome then l else 256

/-- The die that sends a launch's packets toward a peer. -/
def State.sendDie (s : State) (l peer : Nat) : Nat :=
  match s.lease? l peer with
  | some x => x.die
  | none => s.baseDie peer

/-- Kind, flits, transaction, launch, poison and op fields of a packet header (R274). -/
def Packet.kind (p : Packet) : Nat := bitsOf p.header.toNat 63 60
def Packet.flits (p : Packet) : Nat := bitsOf p.header.toNat 59 58 + 1
def Packet.poison (p : Packet) : Bool := bitsOf p.header.toNat 57 57 == 1
def Packet.size (p : Packet) : Nat := bitsOf p.header.toNat 56 54
def Packet.transaction (p : Packet) : Nat := bitsOf p.header.toNat 47 32
def Packet.launch (p : Packet) : Nat := bitsOf p.header.toNat 31 24
def Packet.op (p : Packet) : Nat := bitsOf p.header.toNat 7 0

/-- A packet header (R274). -/
def packetHeader (kind flits : Nat) (poison : Bool) (size tr launch op : Nat) : Word :=
  word (kind * 2 ^ 60 + (flits - 1) * 2 ^ 58 + (if poison then 2 ^ 57 else 0) + size * 2 ^ 54 + tr % 2 ^ 16 * 2 ^ 32 +
    launch * 2 ^ 24 + op)

/-- Flits of a message packet by its length (R274). -/
def messageFlits (len : Nat) : Nat := if len ≤ 1 then 1 else if len ≤ 5 then 2 else 3

/-- Flits queued under a key and not yet started (R275). -/
def Stream.depth (x : Stream) (key : Nat) : Nat :=
  ((((tget x.queues key).getD ([], 0)).1.map Packet.flits).sum) + (x.pending.filter (·.1 == key)).length

/-- Some flit waits to be sent (R275). -/
def Stream.hasFlits (x : Stream) : Bool := !x.pending.isEmpty || x.queues.any fun q => !q.2.1.isEmpty

/-- The flit boundary that has been reached: one every 1.44 ns, which is 24.48 seventeenths of a nanosecond (R275). -/
def boundary (s : State) : Nat := s.ptp17 * 100 / 2448

/-- The event that handles a packet (R274). (DEDUCED, log 61) -/
def packetHandler (kind : Nat) : Option Instr :=
  match kind with
  | 2 => some .peerRead
  | 3 => some .peerWrite
  | 4 => some .peerAtomic
  | 5 => some .peerResponse
  | _ => none

/-- Order in which a lease gives transmitters up (R266): parked, then warming, then active. -/
def TxState.rank : TxState → Nat
  | .parked => 0
  | .warmWait => 1
  | .warming _ => 1
  | .active => 2

/-- The settings of a launch toward a peer (R268). -/
def State.linkSet (s : State) (l peer : Nat) : LinkSet :=
  ((s.launch? l).bind fun x => tget x.linkSets peer).getD {}

/-! ### Transmitters (R260, R269) -/

/-- Port and number of a transmitter, named 17 × port + number. -/
def txPort (tx : Nat) : Nat := tx / 17

/-- Slots of a port that the route map leads to a peer (R261). -/
def slotsTo (s : State) (port peer : Nat) : Nat :=
  ((List.range 64).filter fun i => tget s.cfg.routes (64 * port + i) = some peer).length

/-- Every transmitter in use, with the peer it serves. -/
def usedTx (s : State) : List (Nat × Nat) :=
  s.baseTx.map (fun p => (p.2, p.1)) ++
  (s.launches.flatMap fun l => l.2.leases.flatMap fun p => p.2.txs.map fun t => (t.1, p.1)) ++
  s.endingLeases.flatMap fun e => e.2.2.txs.map fun t => (t.1, e.2.1)

/-- The port has a slot routed to the peer that no transmitter uses and that the peer can receive: on how many of a port's slots it
can light receivers is a free value (R262). (DEDUCED, log 60) -/
def slotFree (s : State) (port peer : Nat) : Bool :=
  decide (((usedTx s).filter fun t => txPort t.1 == port && t.2 == peer).length <
    min (slotsTo s port peer) (Config.peerLights s.freeCtr port peer))

/-- A transmitter that works: it has not failed, and a spare has been brought in (R260, R279). -/
def txWorks (s : State) (tx : Nat) : Bool :=
  !natMem s.failedTx tx && (tx % 17 != 16 || (tget s.spares (txPort tx)).isSome)

/-- A transmitter that can be taken: it works, and no lease holds it. -/
def txFree (s : State) (tx : Nat) : Bool := txWorks s tx && !(usedTx s).any fun t => t.1 == tx

/-- The lowest-numbered free transmitter of a die that can reach a peer. -/
def freeTx (s : State) (die peer : Nat) : Option Nat :=
  ((List.range 68).map (68 * die + ·)).find? fun tx => txFree s tx && slotFree s (txPort tx) peer

def Lease.count (x : Lease) : Nat := x.txs.length

/-- The transmitter a lease gives up first among those given: by rank, the highest-numbered first. -/
def firstGiven (l : List (Nat × TxState × Nat)) : Option (Nat × TxState × Nat) :=
  l.foldl (fun b t => match b with
    | none => some t
    | some u => if t.2.1.rank < u.2.1.rank || (t.2.1.rank == u.2.1.rank && u.1 < t.1) then some t else b) none

def Lease.dropTx (x : Lease) (tx : Nat) : Lease := { x with txs := x.txs.filter fun t => t.1 != tx }

/-- Leases of other holders on a die, with what they have: launch, peer, lease. -/
def otherLeases (s : State) (l peer die : Nat) : List (Nat × Nat × Lease) :=
  s.launches.flatMap fun p => p.2.leases.filterMap fun q =>
    if q.2.die == die && !(p.1 == l && q.1 == peer) then some (p.1, q.1, q.2) else none

/-- The holder with the largest count among those above their floor that have a transmitter to give; the lowest launch id
on a tie. `ok` says which transmitters may be taken. -/
def largestHolder (s : State) (hs : List (Nat × Nat × Lease)) (ok : Nat × TxState × Nat → Bool) :
    Option (Nat × Nat × Nat) :=
  let able := hs.filterMap fun h =>
    if (s.linkSet h.1 h.2.1).floor < h.2.2.count then
      (firstGiven (h.2.2.txs.filter ok)).map fun t => (h.1, h.2.1, h.2.2.count, t.1)
    else none
  (able.foldl (fun b h => match b with
    | none => some h
    | some c => if c.2.2.1 < h.2.2.1 then some h else b) none).map fun h => (h.1, h.2.1, h.2.2.2)

/-- Every linked peer has its base lease (R263): where it has no transmitter it takes a free one of its die, else one of the
holder that R270 would revoke from. (DEDUCED, log 60) -/
def placeBase (s : State) (peer : Nat) : State :=
  if (tget s.baseTx peer).isSome then s
  else
    let die := s.baseDie peer
    let u := { s with freeCtr := s.freeCtr + 1 }
    match freeTx s die peer with
    | some tx => { u with baseTx := tset s.baseTx peer tx }
    | none =>
      match largestHolder s (otherLeases s 256 peer die) fun t => slotFree s (txPort t.1) peer with
      | some h => { u.modLease h.1 h.2.1 (·.dropTx h.2.2) with baseTx := tset s.baseTx peer h.2.2 }
      | none => u

def placeBases (s : State) : State := s.linked.foldl placeBase s

/-- Every lease and every lease that is ending: launch, peer and lease. -/
def allLeases (s : State) : List (Nat × Nat × Lease) :=
  (s.launches.flatMap fun p => p.2.leases.map fun q => (p.1, q.1, q.2)) ++ s.endingLeases

/-- The transmitters of a stream that send, in transmitter order: the active ones of its leases and that of the base lease
(R263, R275). (DESIGN CHOICE, log 62) -/
def streamTxs (s : State) (die peer : Nat) : List Nat :=
  let own := (allLeases s).flatMap fun e =>
    if e.2.1 == peer && e.2.2.die == die then (e.2.2.txs.filter fun t => t.2.1 == .active).map (·.1) else []
  let base := if s.baseDie peer = die then (tget s.baseTx peer).toList else []
  (own ++ base).foldl natIns []

/-- The transmitter a lease that ends with packets queued keeps (R264): its first active one, else its first that is
warming, else its first, which wakes. (DEDUCED, log 60) -/
def Lease.kept (x : Lease) : List (Nat × TxState × Nat) :=
  let on := x.txs.filter fun t => t.2.1 == .active
  let warm := x.txs.filter fun t => t.2.1.rank == 1
  ((on ++ warm ++ x.txs).take 1).map fun t => (t.1, if t.2.1 == .parked then .warmWait else t.2.1, t.2.2)

/-- A lease ends (R264): with packets queued it keeps one transmitter until its queue is empty. What it gives back may be what a
base lease lacks (R263). -/
def endLease (s : State) (l peer : Nat) : State :=
  match s.lease? l peer with
  | none => s
  | some x =>
    let s := s.modLaunch l fun y => { y with leases := tdel y.leases peer }
    placeBases (
      if (s.stream x.die peer).depth l = 0 then s.modStream x.die peer fun y => { y with queues := tdel y.queues l }
      else { s with endingLeases := s.endingLeases ++ [(l, peer, { x with txs := x.kept })] }.poke
        ⟨.warmingStart, { die := x.die }⟩)

/-- Every lease of a launch ends. -/
def endLeases (s : State) (l : Nat) : State :=
  match s.launch? l with
  | none => s
  | some x => (tkeys x.leases).foldl (fun s p => endLease s l p) s

/-- Every parked transmitter of a lease waits to warm (R272). -/
def Lease.wake (x : Lease) : Lease :=
  { x with txs := x.txs.map fun t => (t.1, if t.2.1 == .parked then .warmWait else t.2.1, t.2.2) }

def Lease.hasParked (x : Lease) : Bool := x.txs.any fun t => t.2.1 == .parked

def Lease.isWarming (x : Lease) : Bool := x.txs.any fun t => t.2.1.rank == 1

/-- A trigger wakes a lease's parked transmitters, unless some are warming (R272). -/
def wakeLease (s : State) (l peer : Nat) : State :=
  match s.lease? l peer with
  | none => s
  | some x =>
    if x.hasParked && !x.isWarming then (s.modLease l peer Lease.wake).poke ⟨.warmingStart, { die := x.die }⟩ else s

/-- Queues a packet; an enqueue that lifts the depth above the wake threshold wakes the lease (R272). A stream that had nothing to
send sends it from the next flit boundary on (R275). -/
def enqueue (s : State) (die l peer : Nat) (p : Packet) : State :=
  let key := s.queueKey l peer
  let s := s.modStream die peer fun x =>
    let q := (tget x.queues key).getD ([], 0)
    { x with queues := tset x.queues key (q.1 ++ [p], q.2)
             nextBoundary := if x.hasFlits then x.nextBoundary else max x.nextBoundary (boundary s + 1) }
  let s := if key != 256 && (s.linkSet l peer).wake < (s.stream die peer).depth key then wakeLease s l peer else s
  s.poke ⟨.streamFlitSend, { die := die, peer := peer }⟩

/-- The number the next request toward a peer bears (R274), and its key in the table of transactions. Numbers are
given out for each peer by its base lease's die, so a response is matched whichever stream it comes by.
(DEDUCED, log 47) -/
def State.nextTrans (s : State) (peer : Nat) : Nat := (s.stream (s.baseDie peer) peer).nextTransaction

def transKey (peer tr : Nat) : Nat := peer * 2 ^ 16 + tr

/-- Queues a request toward a peer under a new transaction, for a message (true) or a remote access (false). -/
def sendRequest (s : State) (l peer : Nat) (isMsg : Bool) (id : Nat) (mk : Nat → Packet) : State :=
  let tr := s.nextTrans peer
  let s := s.modStream (s.baseDie peer) peer fun x => { x with nextTransaction := (tr + 1) % 2 ^ 16 }
  let s := { s with transactions := tset s.transactions (transKey peer tr) (isMsg, id) }
  enqueue s (s.sendDie l peer) l peer (mk tr)

end Sys2Proof.Machine
end

