-- ==== Sys2Proof/WellFormed.lean ====
section
/-! DEFINITION. When an instruction is one that the encodings of the part can hold: the rules on fields that the
operand types do not already enforce (R301 checks 2 and 3, R302-R308). -/

namespace Sys2Proof

/-- `pos + len ≤ 64` with `len = LEN + 1` (R325). -/
def fieldFits (pos len : BitVec 6) : Bool := pos.toNat + len.toNat + 1 ≤ 64

/-- The conversion codes that are not reserved (R306). -/
def convCodeOk (c : Nat) : Bool :=
  c ≤ 0x09 || (0x10 ≤ c && c ≤ 0x1F) || (0x24 ≤ c && c ≤ 0x2C) || (0x34 ≤ c && c ≤ 0x3C)

/-- The conversion codes whose target is an integer or a narrow format: only these take `sat` (R340). -/
def convSatOk (c : Nat) : Bool := (0x10 ≤ c && c ≤ 0x17) || (0x24 ≤ c && c ≤ 0x2C)

/-- The conversion codes that `vcvt` takes (R306). -/
def vcvtCodeOk (c : Nat) : Bool :=
  (0x06 ≤ c && c ≤ 0x09) || c == 0x16 || c == 0x17 || c == 0x1E || c == 0x1F ||
    (0x24 ≤ c && c ≤ 0x2C) || (0x34 ≤ c && c ≤ 0x3C)

/-- The codes for which VB of `vcvt` holds a multiplier (R303, R307). -/
def vcvtHasScale (c : Nat) : Bool := 0x24 ≤ c && c ≤ 0x2C

/-- Barrier numbers are 0-95 (R17). -/
def barrierOk (b : BitVec 7) : Bool := b.toNat ≤ 95

/-- The rules of R228 on MODE, ZP and ACC of `amm`. -/
def ammOk (acc : Fin 16) (mode : BitVec 4) (zp : Bool) : Bool :=
  mode.toNat ≤ 12 && (!zp || mode == 10 || mode == 12) && !(mode == 0 && acc.val % 2 == 1)

/-- FMT 0 requires an even ACC (R230). -/
def pairAccOk (acc : Fin 16) (fmt : Nat) : Bool := !(fmt == 0 && acc.val % 2 == 1)

/-- `un` is reserved with the integer types of `vcmp` (R392). -/
def vcmpOk (t : VCmpType) (c : VCond) : Bool :=
  match t, c with
  | .i, .un => false
  | .u, .un => false
  | _, _ => true

/-- The numbers of R73: any other is a reserved value of the register field (R380, R301 check 2). -/
def sysListed (n : Nat) : Bool :=
  n ≤ 0x004 || (0x010 ≤ n && n ≤ 0x013) || (0x020 ≤ n && n ≤ 0x022) || (0x030 ≤ n && n ≤ 0x034) || n == 0x040 ||
    (0x050 ≤ n && n ≤ 0x052) || n == 0x058 || n == 0x059 || (0x060 ≤ n && n ≤ 0x064) || n == 0x068 || n == 0x069 ||
    (0x070 ≤ n && n ≤ 0x072) || n == 0x080 || (0x090 ≤ n && n ≤ 0x094) || (0x0A0 ≤ n && n ≤ 0x0A3) || n == 0x0B0 ||
    n == 0x0B1 || (0x0C0 ≤ n && n ≤ 0x0CF) || (0x100 ≤ n && n ≤ 0x105) || (0x108 ≤ n && n ≤ 0x10B) ||
    (0x110 ≤ n && n ≤ 0x114) || n == 0x121 || n == 0x130

/-- The encodable instructions. Events have no encoding and are well formed as they stand. -/
def WellFormed (i : Instr) : Bool :=
  match i with
  | .bfx _ _ pos len => fieldFits pos len
  | .bfi _ _ pos len => fieldFits pos len
  | .fcvt code sat _ _ _ => convCodeOk code.toNat && (!sat || convSatOk code.toNat)
  | .barrive b | .bwait b | .bsync b | .bleave b | .bstat b => barrierOk b
  | .bjoin b _ => barrierOk b
  | .vcmp t c _ _ _ _ => vcmpOk t c
  | .vcvt code _ _ vb _ => vcvtCodeOk code.toNat && (vcvtHasScale code.toNat || vb == 0)
  | .amm acc _ _ mode zp _ => ammOk acc mode zp
  | .azero acc single => pairAccOk acc (if single then 1 else 0)
  | .ald acc _ fmt => pairAccOk acc fmt.val
  | .ast acc _ fmt _ => pairAccOk acc fmt.val
  | .sysr _ reg => sysListed reg.toNat
  | .sysw reg _ => sysListed reg.toNat
  | _ => true

end Sys2Proof
end

