-- ==== Sys2Proof/Decode.lean ====
section
/-! DEFINITION. Decoding (R294-R306) on any parcels, rejecting by name, and after it the encoder, both written from
the field layouts of R299 and R300. -/

namespace Sys2Proof

/-- Why an instruction's bits trap ILLEGAL at decode. The check numbers are those of R301. -/
inductive Reject where
  /-- The length trap of R295: the first parcel has bit 15 set and the second has not (check 4). -/
  | length
  /-- Check 1: a reserved OP or OP5. -/
  | opcode
  /-- Check 2: a reserved value in FN or in a selector field. -/
  | selector
  /-- Check 3: a must-be field that is not what it must be. -/
  | mustBe
  /-- Check 4: a reserved operand code (R59). -/
  | operand (code : Nat)
  /-- D of a Tongs push is not 0: TRAP.INFO holds the tag operand (R236). -/
  | pushDest (tag : SrcM)
  deriving DecidableEq, Repr

/-- What decoding answers. -/
abbrev Decoded := Except Reject Instr

/-! ## Fields -/

/-- The field of `w` whose low bit is `l` and whose width is `n` (R299). -/
def fld (w l n : Nat) : Nat := w / 2 ^ l % 2 ^ n

/-- One bit of a word. -/
def bitAt (w l : Nat) : Bool := w / 2 ^ l % 2 == 1

/-- The source an operand code names (R58); reserved codes name none. -/
def srcOfCode (c : Nat) : Option Src :=
  if h : c < 16 then some (.q ⟨c, h⟩)
  else if h : c - 16 < 32 then some (.n ⟨c - 16, h⟩)
  else if h : c - 48 < 7 then some (.s ⟨c - 48, h⟩)
  else if c = 56 then some .z
  else none

/-- The destination an operand code names (R58); reserved codes name none. -/
def dstOfCode (c : Nat) : Option Dst :=
  if c = 0 then some .queue
  else if c < 16 then none
  else if h : c - 16 < 32 then some (.n ⟨c - 16, h⟩)
  else if c = 55 then some .s7
  else if c = 56 then some .z
  else none

/-- The source a 5-bit code names (R60). -/
def src5 (c : BitVec 5) : Src :=
  if h : c.toNat < 16 then .q ⟨c.toNat, h⟩ else .n ⟨c.toNat - 16, by have := c.isLt; omega⟩

/-- A source of a 16-bit form, which always blocks (R60). -/
def srcM5 (c : BitVec 5) : SrcM := ⟨src5 c, false⟩

/-- The code of a source (R58). -/
def srcCode : Src → Nat
  | .q i => i.val
  | .n i => 16 + i.val
  | .s i => 48 + i.val
  | .z => 56

/-- The code of a destination (R58). -/
def dstCode : Dst → Nat
  | .queue => 0
  | .n i => 16 + i.val
  | .s7 => 55
  | .z => 56

/-- A number as an index, modulo the bound. -/
def fin16 (n : Nat) : Fin 16 := ⟨n % 16, Nat.mod_lt _ (by decide)⟩

/-- A named register number, modulo 32. -/
def fin32 (n : Nat) : Fin 32 := ⟨n % 32, Nat.mod_lt _ (by decide)⟩

/-- A number below 4. -/
def fin4 (n : Nat) : Fin 4 := ⟨n % 4, Nat.mod_lt _ (by decide)⟩

/-- Continue with the source at a code, or reject by its code (check 4). -/
def withSrcCode (c : Nat) (k : Src → Decoded) : Decoded :=
  match srcOfCode c with
  | some s => k s
  | none => .error (.operand c)

/-- Continue with the destination at a code, or reject by its code (check 4). -/
def withDstCode (c : Nat) (k : Dst → Decoded) : Decoded :=
  match dstOfCode c with
  | some d => k d
  | none => .error (.operand c)

/-- Continue when a field is what it must be, else reject (check 3). -/
def must (b : Bool) (k : Decoded) : Decoded := if b then k else .error .mustBe

/-- Continue when a selector is not reserved, else reject (check 2). -/
def sel (b : Bool) (k : Decoded) : Decoded := if b then k else .error .selector

/-! ## The shapes of RR (R299): D[23:18] A[17:12] B[11:6] EA[5] EB[4] FN[3:0] -/

/-- D, A and B are operands. (DEDUCED, log 81) -/
def rr (w : Nat) (mk : Dst → SrcM → SrcM → Instr) : Decoded :=
  withDstCode (fld w 18 6) fun d => withSrcCode (fld w 12 6) fun a => withSrcCode (fld w 6 6) fun b =>
    .ok (mk d ⟨a, bitAt w 5⟩ ⟨b, bitAt w 4⟩)

/-- B = z and EB = 0. -/
def rrBz (w : Nat) : Bool := fld w 6 6 == 56 && !bitAt w 4

/-- D and A are operands; B = z, EB = 0. -/
def rrU (w : Nat) (mk : Dst → SrcM → Instr) : Decoded :=
  must (rrBz w) (withDstCode (fld w 18 6) fun d => withSrcCode (fld w 12 6) fun a => .ok (mk d ⟨a, bitAt w 5⟩))

/-- A is the operand; D = 0, B = z, EB = 0. -/
def rrA (w : Nat) (mk : SrcM → Instr) : Decoded :=
  must (fld w 18 6 == 0 && rrBz w) (withSrcCode (fld w 12 6) fun a => .ok (mk ⟨a, bitAt w 5⟩))

/-- A = z and EA = 0. -/
def rrAz (w : Nat) : Bool := fld w 12 6 == 56 && !bitAt w 5

/-- D is the operand; A = B = z, EA = EB = 0. -/
def rrD (w : Nat) (mk : Dst → Instr) : Decoded :=
  must (rrAz w && rrBz w) (withDstCode (fld w 18 6) fun d => .ok (mk d))

/-- No operand: D = 0, A = B = z, EA = EB = 0. -/
def rr0 (w : Nat) (i : Instr) : Decoded := must (fld w 18 6 == 0 && rrAz w && rrBz w) (.ok i)

/-- A and B are operands; D = 0. -/
def rrAB (w : Nat) (mk : SrcM → SrcM → Instr) : Decoded :=
  must (fld w 18 6 == 0) (withSrcCode (fld w 12 6) fun a => withSrcCode (fld w 6 6) fun b =>
    .ok (mk ⟨a, bitAt w 5⟩ ⟨b, bitAt w 4⟩))

/-- D is n0-n31 and is also a source (R78); A and B are operands. -/
def rrN (w : Nat) (mk : Fin 32 → SrcM → SrcM → Instr) : Decoded :=
  must (16 ≤ fld w 18 6 && fld w 18 6 < 48) (withSrcCode (fld w 12 6) fun a => withSrcCode (fld w 6 6) fun b =>
    .ok (mk (fin32 (fld w 18 6 - 16)) ⟨a, bitAt w 5⟩ ⟨b, bitAt w 4⟩))

/-! ## Selectors -/

/-- The condition of `cmp` (R333). -/
def condOf (n : Nat) : Option Cond :=
  match n with
  | 0 => some .eq | 1 => some .ne | 2 => some .lt | 3 => some .ltu | 4 => some .le | 5 => some .leu
  | _ => none

/-- The field value of a condition. -/
def condCode : Cond → Nat
  | .eq => 0 | .ne => 1 | .lt => 2 | .ltu => 3 | .le => 4 | .leu => 5

/-- The condition of `fcmp` (R339). -/
def fcondOf (n : Nat) : Option FCond :=
  match n with
  | 0 => some .eq | 1 => some .lt | 2 => some .le | 3 => some .un | 4 => some .eqSig
  | _ => none

/-- The field value of an `fcmp` condition. -/
def fcondCode : FCond → Nat
  | .eq => 0 | .lt => 1 | .le => 2 | .un => 3 | .eqSig => 4

/-- FN of `ext`, less 8 (R335). -/
def extCode : ExtKind → Nat
  | .sb => 0 | .ub => 1 | .sh => 2 | .uh => 3 | .sw => 4 | .uw => 5

/-- A rounding field (R88): codes 5 and 6 are reserved. -/
def rndOf (n : Nat) : Option RndField :=
  match n with
  | 0 => some (.mode .rne) | 1 => some (.mode .rtz) | 2 => some (.mode .rup) | 3 => some (.mode .rdn)
  | 4 => some (.mode .rna) | 7 => some .dyn
  | _ => none

/-- The code of a rounding mode (R88). -/
def roundingCode : Rounding → Nat
  | .rne => 0 | .rtz => 1 | .rup => 2 | .rdn => 3 | .rna => 4

/-- The field value of a rounding field. -/
def rndCode : RndField → Nat
  | .mode r => roundingCode r
  | .dyn => 7

/-- SZ and SX of a load; SX = 1 with SZ = 3 is reserved (R302). -/
def loadKindOf (sz : Nat) (sx : Bool) : Option LoadKind :=
  match sz, sx with
  | 0, false => some .ub | 1, false => some .uh | 2, false => some .uw | 3, false => some .d
  | 0, true => some .sb | 1, true => some .sh | 2, true => some .sw
  | _, _ => none

/-- SX * 2^8 + SZ * 2^9 of a load. -/
def loadKindCode : LoadKind → Nat
  | .ub => 0 | .uh => 512 | .uw => 1024 | .d => 1536 | .sb => 256 | .sh => 768 | .sw => 1280

/-- SZ (R299). -/
def sizeOf2 (n : Nat) : Size :=
  match n % 4 with
  | 0 => .b | 1 => .h | 2 => .w | _ => .d

/-- The field value of a size. -/
def sizeCode : Size → Nat
  | .b => 0 | .h => 1 | .w => 2 | .d => 3

/-- The scope codes of R132; 6 and 7 are reserved. -/
def scopeOf (n : Nat) : Option Scope :=
  match n with
  | 0 => some .core | 1 => some .hearth | 2 => some .span | 3 => some .die | 4 => some .device | 5 => some .system
  | _ => none

/-- The code of a scope. -/
def scopeCode : Scope → Nat
  | .core => 0 | .hearth => 1 | .span => 2 | .die => 3 | .device => 4 | .system => 5

/-- ORD (R299). -/
def orderOf (n : Nat) : Order :=
  match n % 4 with
  | 0 => .relaxed | 1 => .acquire | 2 => .release | _ => .sc

/-- The field value of an ordering. -/
def orderCode : Order → Nat
  | .relaxed => 0 | .acquire => 1 | .release => 2 | .sc => 3

/-- FN of `atom` and `vatom` (R318). -/
def atomOpOf (n : Nat) : AtomOp :=
  match n % 8 with
  | 0 => .add | 1 => .and | 2 => .or | 3 => .xor | 4 => .min | 5 => .max | 6 => .minu | _ => .maxu

/-- The field value of an atomic operation. -/
def atomOpCode : AtomOp → Nat
  | .add => 0 | .and => 1 | .or => 2 | .xor => 3 | .min => 4 | .max => 5 | .minu => 6 | .maxu => 7

/-- FN of `vred` (R303). -/
def vredOf (n : Nat) : Option VRedOp :=
  match n with
  | 0 => some .addI | 1 => some .addS | 2 => some .addD | 3 => some .minI | 4 => some .maxI
  | 5 => some .minS | 6 => some .maxS | 7 => some .or | 8 => some .and
  | _ => none

/-- The field value of a reduction. -/
def vredCode : VRedOp → Nat
  | .addI => 0 | .addS => 1 | .addD => 2 | .minI => 3 | .maxI => 4 | .minS => 5 | .maxS => 6 | .or => 7 | .and => 8

/-- FN[5:4] of `vcmp` (R392). -/
def vcmpTypeOf (n : Nat) : VCmpType :=
  match n % 4 with
  | 0 => .i | 1 => .u | 2 => .s | _ => .d

/-- The field value of a `vcmp` type. -/
def vcmpTypeCode : VCmpType → Nat
  | .i => 0 | .u => 1 | .s => 2 | .d => 3

/-- FN[2:0] of `vcmp` (R392). -/
def vcondOf (n : Nat) : Option VCond :=
  match n with
  | 0 => some .eq | 1 => some .ne | 2 => some .lt | 3 => some .le | 4 => some .un
  | _ => none

/-- The field value of a `vcmp` condition. -/
def vcondCode : VCond → Nat
  | .eq => 0 | .ne => 1 | .lt => 2 | .le => 3 | .un => 4

/-- The precision a suffix bit selects: 0 `.d`, 1 `.s` (R302). -/
def precOf (s : Bool) : Prec := if s then .s else .d

/-- The bit of a precision where 1 is `.s`. -/
def precCode : Prec → Nat
  | .d => 0 | .s => 1

/-- The bit of a precision where 1 is `.d` (R303, `vfma`). -/
def pairCode : Prec → Nat
  | .d => 1 | .s => 0

/-- A bit as a number. -/
def bitCode (b : Bool) : Nat := if b then 1 else 0

/-! ## The 32-bit opcodes (R302-R304) -/

/-- OP 0x00. -/
def decode00 (w : Nat) : Decoded :=
  match fld w 0 4 with
  | 0 => rr w .add | 1 => rr w .sub | 2 => rr w .and | 3 => rr w .or | 4 => rr w .xor | 5 => rr w .shl
  | 6 => rr w .shr | 7 => rr w .sar | 8 => rr w .min | 9 => rr w .max | 10 => rr w .minu | 11 => rr w .maxu
  | 12 => rr w .mul | 13 => rr w .mulh | 14 => rr w .mulhu
  | _ => .error .selector

/-- OP 0x01. -/
def decode01 (w : Nat) : Decoded :=
  match fld w 0 4 with
  | 0 => rr w .div | 1 => rr w .divu | 2 => rr w .rem | 3 => rr w .remu
  | 4 => rrU w .clz | 5 => rrU w .ctz | 6 => rrU w .popc | 7 => rrU w .mov
  | 8 => rrU w (.ext .sb) | 9 => rrU w (.ext .ub) | 10 => rrU w (.ext .sh) | 11 => rrU w (.ext .uh)
  | 12 => rrU w (.ext .sw) | 13 => rrU w (.ext .uw) | 14 => rr w .sel
  | _ => .error .selector

/-- RI with a signed immediate: D[23:18] A[17:12] EA[11] IMM[10:0]. -/
def ri (w : Nat) (mk : Dst → SrcM → BitVec 11 → Instr) : Decoded :=
  withDstCode (fld w 18 6) fun d => withSrcCode (fld w 12 6) fun a =>
    .ok (mk d ⟨a, bitAt w 11⟩ (BitVec.ofNat 11 (fld w 0 11)))

/-- RI with a shift count: IMM[10:6] zero. -/
def riShift (w : Nat) (mk : Dst → SrcM → BitVec 6 → Instr) : Decoded :=
  must (fld w 6 5 == 0) (withDstCode (fld w 18 6) fun d => withSrcCode (fld w 12 6) fun a =>
    .ok (mk d ⟨a, bitAt w 11⟩ (BitVec.ofNat 6 (fld w 0 6))))

/-- OP 0x09. -/
def decode09 (w : Nat) : Decoded :=
  match condOf (fld w 0 4) with
  | some c => rr w (.cmp c)
  | none => .error .selector

/-- OP 0x0A. -/
def decode0A (w : Nat) : Decoded :=
  match condOf (fld w 0 3) with
  | some c => withDstCode (fld w 18 6) fun d => withSrcCode (fld w 12 6) fun a =>
      .ok (.cmpi c d ⟨a, bitAt w 11⟩ (BitVec.ofNat 8 (fld w 3 8)))
  | none => .error .selector

/-- D is a named register. -/
def isNamed (w : Nat) : Bool := 16 ≤ fld w 18 6 && fld w 18 6 < 48

/-- OP 0x0D and 0x0E: POS + LEN + 1 ≤ 64. -/
def rbFits (w : Nat) : Bool := fld w 6 6 + fld w 0 6 + 1 ≤ 64

/-- OP 0x10 and 0x11. -/
def decode10 (p : Prec) (w : Nat) : Decoded :=
  match fld w 0 4 with
  | 0 => rr w (.fadd p) | 1 => rr w (.fsub p) | 2 => rr w (.fmul p) | 3 => rr w (.fdiv p)
  | 4 => rr w (.fmin p) | 5 => rr w (.fmax p) | 6 => rrU w (.fsqrt p)
  | 7 => rr w (.fsgnj p) | 8 => rr w (.fsgnn p) | 9 => rr w (.fsgnx p) | 10 => rrU w (.fclass p)
  | _ => .error .selector

/-- OP 0x12 and 0x13. -/
def decode12 (p : Prec) (w : Nat) : Decoded :=
  match fld w 0 4 with
  | 0 => rrN w (.fma p) | 1 => rrN w (.fms p) | 2 => rrN w (.fnma p) | 3 => rrN w (.fnms p)
  | _ => .error .selector

/-- OP 0x14. -/
def decode14 (w : Nat) : Decoded :=
  match fcondOf (fld w 0 3) with
  | some c => rr w (.fcmp c (precOf (bitAt w 3)))
  | none => .error .selector

/-- OP 0x15: B is the conversion code, FN[3] saturate, FN[2:0] rounding. -/
def decode15 (w : Nat) : Decoded :=
  match rndOf (fld w 0 3) with
  | some r =>
    sel (convCodeOk (fld w 6 6)) (must (!bitAt w 4 && (!bitAt w 3 || convSatOk (fld w 6 6)))
      (withDstCode (fld w 18 6) fun d => withSrcCode (fld w 12 6) fun a =>
        .ok (.fcvt (BitVec.ofNat 6 (fld w 6 6)) (bitAt w 3) r d ⟨a, bitAt w 5⟩)))
  | none => .error .selector

/-- OP 0x16. -/
def decode16 (w : Nat) : Decoded :=
  match rndOf (fld w 0 3) with
  | some r => rrU w (.frint (precOf (bitAt w 3)) r)
  | none => .error .selector

/-- OP 0x18. -/
def decode18 (w : Nat) : Decoded :=
  match fld w 0 4 with
  | 0 => rr w .gmul | 1 => rr w .gdiv | 2 => rr w .gdamp | 3 => rr w .gmarg | 4 => rr w .gmargi | 5 => rrU w .gmean
  | _ => .error .selector

/-- BC: A[23:18] EA[17] IMM[16:0]. -/
def bc (w : Nat) (mk : SrcM → BitVec 17 → Instr) : Decoded :=
  withSrcCode (fld w 18 6) fun a => .ok (mk ⟨a, bitAt w 17⟩ (BitVec.ofNat 17 (fld w 0 17)))

/-- OP 0x24. -/
def decode24 (w : Nat) : Decoded :=
  match fld w 0 4 with
  | 0 => rrA w .jr | 1 => rrA w .callr | 2 => rr0 w .ret | 3 => rr0 w .tend | 4 => rr0 w .nop
  | _ => .error .selector

/-- OP 0x25. -/
def decode25 (w : Nat) : Decoded :=
  match loadKindOf (fld w 9 2) (bitAt w 8) with
  | some k => withDstCode (fld w 18 6) fun d => withSrcCode (fld w 12 6) fun a =>
      .ok (.ld k d ⟨a, bitAt w 11⟩ (BitVec.ofNat 8 (fld w 0 8)))
  | none => .error .selector

/-- OP 0x26: SX = 1 is reserved. -/
def decode26 (w : Nat) : Decoded :=
  sel (!bitAt w 8) (withSrcCode (fld w 18 6) fun d => withSrcCode (fld w 12 6) fun a =>
    .ok (.st (sizeOf2 (fld w 9 2)) d ⟨a, bitAt w 11⟩ (BitVec.ofNat 8 (fld w 0 8))))

/-- OP 0x27. -/
def decode27 (w : Nat) : Decoded :=
  match loadKindOf (fld w 9 2) (bitAt w 8), scopeOf (fld w 5 3) with
  | some k, some sc => withDstCode (fld w 18 6) fun d => withSrcCode (fld w 12 6) fun a =>
      .ok (.lda k d ⟨a, bitAt w 11⟩ sc (BitVec.ofNat 5 (fld w 0 5)))
  | _, _ => .error .selector

/-- OP 0x28. -/
def decode28 (w : Nat) : Decoded :=
  match scopeOf (fld w 5 3) with
  | some sc =>
    sel (!bitAt w 8) (withSrcCode (fld w 18 6) fun d => withSrcCode (fld w 12 6) fun a =>
      .ok (.str (sizeOf2 (fld w 9 2)) d ⟨a, bitAt w 11⟩ sc (BitVec.ofNat 5 (fld w 0 5))))
  | none => .error .selector

/-- SZ of AT. -/
def asizeOf (b : Bool) : ASize := if b then .d else .w

/-- The bit of an atomic size. -/
def asizeCode : ASize → Nat
  | .w => 0 | .d => 1

/-- AT: D[23:18] A[17:12] B[11:6] SZ[5] ORD[4:3] FN[2:0]. -/
def atomic (w : Nat) (mk : ASize → Order → Dst → Src → Src → Instr) : Decoded :=
  withDstCode (fld w 18 6) fun d => withSrcCode (fld w 12 6) fun a => withSrcCode (fld w 6 6) fun b =>
    .ok (mk (asizeOf (bitAt w 5)) (orderOf (fld w 3 2)) d a b)

/-- OP 0x29. -/
def decode29 (w : Nat) : Decoded :=
  match fld w 0 3 with
  | 0 => atomic w .atomAdd | 1 => atomic w .atomAnd | 2 => atomic w .atomOr | 3 => atomic w .atomXor
  | 4 => atomic w .atomMin | 5 => atomic w .atomMax | 6 => atomic w .atomMinu | _ => atomic w .atomMaxu

/-- OP 0x2A. -/
def decode2A (w : Nat) : Decoded :=
  match fld w 0 3 with
  | 0 => must (isNamed w) (withSrcCode (fld w 12 6) fun a => withSrcCode (fld w 6 6) fun b =>
      .ok (.cas (asizeOf (bitAt w 5)) (orderOf (fld w 3 2)) (fin32 (fld w 18 6 - 16)) a b))
  | 1 => atomic w .swap
  | _ => .error .selector

/-- OP 0x2B: SC[23:21] KIND[20:19] I[18] zero[17:0]. -/
def decode2B (w : Nat) : Decoded :=
  match scopeOf (fld w 21 3) with
  | none => .error .selector
  | some sc =>
    match fld w 19 2 with
    | 0 => if bitAt w 18 then must (fld w 21 3 == 0 && fld w 0 18 == 0) (.ok .fencei)
           else must (fld w 0 18 == 0) (.ok (.fenceFull sc))
    | 1 => must (!bitAt w 18 && fld w 0 18 == 0) (.ok (.fenceAcquire sc))
    | 2 => must (!bitAt w 18 && fld w 0 18 == 0) (.ok (.fenceRelease sc))
    | _ => .error .selector

/-- OP 0x2C: D = 0, IMM[10:2] zero. -/
def decode2C (w : Nat) : Decoded :=
  let go := fun (mk : SrcM → Instr) =>
    must (fld w 18 6 == 0 && fld w 2 9 == 0) (withSrcCode (fld w 12 6) fun a => .ok (mk ⟨a, bitAt w 11⟩))
  match fld w 0 2 with
  | 0 => go .cflushClean | 1 => go .cflushInv | 2 => go .cflushWbinv
  | _ => .error .selector

/-- OP 0x30, MS: CLS[23:16] A[15:10] B[9:4] FL[3:0]. -/
def decode30 (w : Nat) : Decoded :=
  must (fld w 1 3 == 0) (withSrcCode (fld w 10 6) fun a => withSrcCode (fld w 4 6) fun b =>
    .ok (.send (BitVec.ofNat 8 (fld w 16 8)) a b (bitAt w 0)))

/-- OP 0x31. -/
def decode31 (w : Nat) : Decoded :=
  must (fld w 0 4 == 0) (withSrcCode (fld w 10 6) fun a => withSrcCode (fld w 4 6) fun b =>
    .ok (.spawn (BitVec.ofNat 8 (fld w 16 8)) a b))

/-- OP 0x32: B = z. -/
def decode32m (w : Nat) : Decoded :=
  must (fld w 0 4 == 0 && fld w 4 6 == 56) (withSrcCode (fld w 10 6) fun a =>
    .ok (.migrate (BitVec.ofNat 8 (fld w 16 8)) a))

/-- A stream selector s1-s6 in D (R302). -/
def fin6 (n : Nat) : Fin 6 := ⟨n % 6, Nat.mod_lt _ (by decide)⟩

/-- OP 0x33: D is 49-54, IMM[10:2] zero; A = z for `.off` and `.copy`. -/
def decode33 (w : Nat) : Decoded :=
  let okD := 49 ≤ fld w 18 6 && fld w 18 6 ≤ 54 && fld w 2 9 == 0
  let az := fld w 12 6 == 56 && !bitAt w 11
  match fld w 0 2 with
  | 0 => must (okD && az) (.ok (.sbindOff (fin6 (fld w 18 6 - 49))))
  | 1 => must okD (withSrcCode (fld w 12 6) fun a => .ok (.sbindChan (fin6 (fld w 18 6 - 49)) ⟨a, bitAt w 11⟩))
  | 2 => must (okD && az) (.ok (.sbindCopy (fin6 (fld w 18 6 - 49))))
  | _ => .error .selector

/-- OP 0x34 (R151). -/
def decode34 (w : Nat) : Decoded :=
  match fld w 0 4 with
  | 0 => rrA w .cvgNote | 1 => rrD w .cvgMax | 2 => rrD w .cvgCount | 3 => rrD w .cvgQuiet | 4 => rr0 w .cvgClear
  | _ => .error .selector

/-- OP 0x35 (R154). -/
def decode35 (w : Nat) : Decoded :=
  match fld w 0 4 with
  | 0 => rrD w .cut | 1 => rrU w .cutstat
  | _ => .error .selector

/-- OP 0x36, BA: BAR[23:17] A[16:11] zero[10:3] FN[2:0]. -/
def decode36 (w : Nat) : Decoded :=
  let az := fld w 11 6 == 56 && fld w 3 8 == 0
  let bar := BitVec.ofNat 7 (fld w 17 7)
  sel (fld w 17 7 ≤ 95)
    (match fld w 0 3 with
      | 0 => must az (.ok (.barrive bar)) | 1 => must az (.ok (.bwait bar)) | 2 => must az (.ok (.bsync bar))
      | 3 => must (fld w 3 8 == 0) (withSrcCode (fld w 11 6) fun a => .ok (.bjoin bar a))
      | 4 => must az (.ok (.bleave bar)) | 5 => must az (.ok (.bstat bar))
      | _ => .error .selector)

/-- OP 0x37 (R161). -/
def decode37 (w : Nat) : Decoded :=
  match fld w 0 4 with
  | 0 => rrU w .hopen | 1 => rrA w .henter | 2 => rrU w .hresolveC | 3 => rrU w .hresolveR | 4 => rrU w .hresolveX
  | 5 => rrU w .hstat
  | _ => .error .selector

/-- OP 0x38 (R171). -/
def decode38 (w : Nat) : Decoded :=
  match fld w 0 4 with
  | 0 => rr0 w .qend | 1 => rrA w .vflag | 2 => rrD w .time
  | _ => .error .selector

/-- OP 0x39 (R265). -/
def decode39 (w : Nat) : Decoded :=
  match fld w 0 4 with
  | 0 => rr w .lease | 1 => rrU w .lstat
  | _ => .error .selector

/-- OP 0x3A. -/
def decode3A (w : Nat) : Decoded :=
  match fld w 0 4 with
  | 0 => rrU w .vclaim
  | _ => .error .selector

/-- The mask fields of V: VM[11:8] ME[7] Z[6]. -/
def vMask (w : Nat) : VMask := ⟨fin16 (fld w 8 4), bitAt w 7, bitAt w 6⟩

/-- V with VD, VA, VB. -/
def v3 (w : Nat) (mk : Fin 16 → Fin 16 → Fin 16 → VMask → Instr) : Decoded :=
  .ok (mk (fin16 (fld w 20 4)) (fin16 (fld w 16 4)) (fin16 (fld w 12 4)) (vMask w))

/-- V with VB = 0. -/
def v2 (w : Nat) (mk : Fin 16 → Fin 16 → VMask → Instr) : Decoded :=
  must (fld w 12 4 == 0) (.ok (mk (fin16 (fld w 20 4)) (fin16 (fld w 16 4)) (vMask w)))

/-- OP 0x40. -/
def decode40 (w : Nat) : Decoded :=
  match fld w 0 6 with
  | 0 => v3 w .vaddI | 1 => v3 w .vsubI | 2 => v3 w .vmulI | 3 => v3 w .vminI | 4 => v3 w .vmaxI
  | 5 => v3 w .vminu | 6 => v3 w .vmaxu | 7 => v3 w .vand | 8 => v3 w .vor | 9 => v3 w .vxor
  | 10 => v3 w .vshl | 11 => v3 w .vshr | 12 => v3 w .vsar | 13 => v2 w .vmov
  | _ => .error .selector

/-- OP 0x41. -/
def decode41 (w : Nat) : Decoded :=
  match fld w 0 6 with
  | 0 => v3 w .vaddS | 1 => v3 w .vsubS | 2 => v3 w .vmulS | 3 => v3 w .vdivS | 4 => v3 w .vminS | 5 => v3 w .vmaxS
  | 6 => v2 w .vsqrtS
  | _ => .error .selector

/-- OP 0x42. -/
def decode42 (w : Nat) : Decoded :=
  match fld w 0 6 with
  | 0 => v3 w .vaddD | 1 => v3 w .vsubD | 2 => v3 w .vmulD | 3 => v3 w .vdivD | 4 => v3 w .vminD | 5 => v3 w .vmaxD
  | 6 => v2 w .vsqrtD
  | _ => .error .selector

/-- OP 0x43. -/
def decode43 (w : Nat) : Decoded :=
  match fld w 0 6 with
  | 0 => v3 w (.vfma .s) | 1 => v3 w (.vfms .s) | 2 => v3 w (.vfnma .s) | 3 => v3 w (.vfnms .s)
  | 4 => v3 w (.vfma .d) | 5 => v3 w (.vfms .d) | 6 => v3 w (.vfnma .d) | 7 => v3 w (.vfnms .d)
  | _ => .error .selector

/-- OP 0x44. -/
def decode44 (w : Nat) : Decoded :=
  match vcondOf (fld w 0 3) with
  | some c => sel (vcmpOk (vcmpTypeOf (fld w 4 2)) c) (must (!bitAt w 3) (v3 w (.vcmp (vcmpTypeOf (fld w 4 2)) c)))
  | none => .error .selector

/-- OP 0x45: FN = 0, ME = 1. -/
def decode45 (w : Nat) : Decoded :=
  sel (fld w 0 6 == 0) (must (bitAt w 7)
    (.ok (.vsel (fin16 (fld w 20 4)) (fin16 (fld w 16 4)) (fin16 (fld w 12 4)) (fin16 (fld w 8 4)) (bitAt w 6))))

/-- OP 0x46: VB = 0 except for the codes that take a multiplier. -/
def decode46 (w : Nat) : Decoded :=
  sel (vcvtCodeOk (fld w 0 6)) (must (vcvtHasScale (fld w 0 6) || fld w 12 4 == 0)
    (v3 w (.vcvt (BitVec.ofNat 6 (fld w 0 6)))))

/-- OP 0x47: VD = 0, VB = 0. -/
def decode47 (w : Nat) : Decoded :=
  match vredOf (fld w 0 6) with
  | some op => must (fld w 20 4 == 0 && fld w 12 4 == 0) (.ok (.vred op (fin16 (fld w 16 4)) (vMask w)))
  | none => .error .selector

/-- The mask fields of VX: VM[15:12] ME[11] Z[10]. -/
def vxMask (w : Nat) : VMask := ⟨fin16 (fld w 12 4), bitAt w 11, bitAt w 10⟩

/-- A[9:4] EA[3] of VX. -/
def vxSrc (w : Nat) (k : SrcM → Decoded) : Decoded := withSrcCode (fld w 4 6) fun a => k ⟨a, bitAt w 3⟩

/-- OP 0x48 (R390). -/
def decode48 (w : Nat) : Decoded :=
  match fld w 0 3 with
  | 0 => sel (fld w 16 4 ≤ 1)
      (vxSrc w fun a => .ok (.vbcast (if fld w 16 4 == 1 then .d else .s) (fin16 (fld w 20 4)) (vxMask w) a))
  | 1 =>
    match fld w 20 4 with
    | 0 => must (fld w 10 6 == 0) (vxSrc w fun a => .ok (.vext .w (fin16 (fld w 16 4)) a))
    | 1 => must (fld w 10 6 == 0) (vxSrc w fun a => .ok (.vext .sw (fin16 (fld w 16 4)) a))
    | 2 => must (fld w 10 6 == 0) (vxSrc w fun a => .ok (.vext .d (fin16 (fld w 16 4)) a))
    | _ => .error .selector
  | 2 => must (fld w 16 4 == 0 && fld w 4 6 == 56 && !bitAt w 3) (.ok (.viota (fin16 (fld w 20 4)) (vxMask w)))
  | 3 => must (fld w 20 4 == 0 && fld w 4 6 == 56 && !bitAt w 3 && !bitAt w 10)
      (.ok (.vpopc (fin16 (fld w 16 4)) (fin16 (fld w 12 4)) (bitAt w 11)))
  | _ => .error .selector

/-- OP 0x49 and 0x4A: VA = 0. -/
def vxMem (w : Nat) (mk : Size → Bool → Fin 16 → VMask → SrcM → Instr) : Decoded :=
  must (fld w 16 4 == 0)
    (vxSrc w fun a => .ok (mk (sizeOf2 (fld w 0 2)) (bitAt w 2) (fin16 (fld w 20 4)) (vxMask w) a))

/-- OP 0x4B and 0x4C: FN[2] zero. -/
def vxIdx (w : Nat) (mk : Size → Fin 16 → Fin 16 → VMask → SrcM → Instr) : Decoded :=
  must (!bitAt w 2)
    (vxSrc w fun a => .ok (mk (sizeOf2 (fld w 0 2)) (fin16 (fld w 20 4)) (fin16 (fld w 16 4)) (vxMask w) a))

/-- OP 0x4D. -/
def decode4D (w : Nat) : Decoded :=
  vxSrc w fun a => .ok (.vatom (atomOpOf (fld w 0 3)) (fin16 (fld w 20 4)) (fin16 (fld w 16 4)) (vxMask w) a)

/-- A push of OP 0x60: D must be 0, and TRAP.INFO holds the tag operand when it is not (R236). -/
def push (w : Nat) (mk : SrcM → SrcM → Instr) : Decoded :=
  if fld w 18 6 == 0 then
    withSrcCode (fld w 12 6) fun a => withSrcCode (fld w 6 6) fun b => .ok (mk ⟨a, bitAt w 5⟩ ⟨b, bitAt w 4⟩)
  else
    match srcOfCode (fld w 6 6) with
    | some b => .error (.pushDest ⟨b, bitAt w 4⟩)
    | none => .error .mustBe

/-- OP 0x60 (R235). -/
def decode60 (w : Nat) : Decoded :=
  match fld w 0 4 with
  | 0 => push w .xgather | 1 => push w .xscatter | 2 => push w .xcopy
  | _ => .error .selector

/-- OP 0x61 (R235). -/
def decode61 (w : Nat) : Decoded :=
  match fld w 0 4 with
  | 0 => rrU w .xpop | 1 => rrU w .xtry | 2 => rrU w .xstat
  | _ => .error .selector

/-- OP 0x62 (R226). -/
def decode62 (w : Nat) : Decoded :=
  match fld w 0 4 with
  | 0 => rrAB w .aring
  | _ => .error .selector

/-- OP 0x63 (R227). -/
def decode63 (w : Nat) : Decoded :=
  match fld w 0 4 with
  | 0 => rrAB w .aadv | 1 => rrU w .aadvStat
  | _ => .error .selector

/-- OP 0x64, X: ACC[23:20] RA[19:16] RB[15:12] MODE[11:8] ZP[7] POP[6:5] zero[4:0]. -/
def decode64 (w : Nat) : Decoded :=
  let acc := fin16 (fld w 20 4)
  let mode := BitVec.ofNat 4 (fld w 8 4)
  sel (fld w 8 4 ≤ 12) (must (fld w 0 5 == 0 && ammOk acc mode (bitAt w 7))
    (.ok (.amm acc (fin16 (fld w 16 4)) (fin16 (fld w 12 4)) mode (bitAt w 7) (BitVec.ofNat 2 (fld w 5 2)))))

/-- OP 0x65, XA: ACC[23:20] A[19:14] EA[13] FN[12:11] FMT[10:7] RND[6:4] zero[3:0] (R230). -/
def decode65 (w : Nat) : Decoded :=
  let acc := fin16 (fld w 20 4)
  let fmt := fld w 7 4
  match fld w 11 2, rndOf (fld w 4 3) with
  | 0, some _ => sel (fmt ≤ 3) (must (fmt ≤ 1 && pairAccOk acc fmt && fld w 14 6 == 56 && !bitAt w 13 &&
      fld w 4 3 == 0 && fld w 0 4 == 0) (.ok (.azero acc (fmt == 1))))
  | 1, some _ => sel (fmt ≤ 3) (must (pairAccOk acc fmt && fld w 4 3 == 0 && fld w 0 4 == 0)
      (withSrcCode (fld w 14 6) fun a => .ok (.ald acc ⟨a, bitAt w 13⟩ (fin4 fmt))))
  | 2, some r => sel (fmt ≤ 3) (must (pairAccOk acc fmt && fld w 0 4 == 0)
      (withSrcCode (fld w 14 6) fun a => .ok (.ast acc ⟨a, bitAt w 13⟩ (fin4 fmt) r)))
  | _, _ => .error .selector

/-- OP 0x70, SY: D[23:18] SYS[17:6] zero[5:0]. -/
def decode70 (w : Nat) : Decoded :=
  sel (sysListed (fld w 6 12)) (must (fld w 0 6 == 0)
    (withDstCode (fld w 18 6) fun d => .ok (.sysr d (BitVec.ofNat 12 (fld w 6 12)))))

/-- OP 0x71: D is the source. -/
def decode71 (w : Nat) : Decoded :=
  sel (sysListed (fld w 6 12)) (must (fld w 0 6 == 0)
    (withSrcCode (fld w 18 6) fun a => .ok (.sysw (BitVec.ofNat 12 (fld w 6 12)) a)))

/-- OP 0x74 (R382). -/
def decode74 (w : Nat) : Decoded :=
  match fld w 0 4 with
  | 0 => rrAB w .tlbiPage
  | 1 => must (fld w 18 6 == 0 && rrAz w) (withSrcCode (fld w 6 6) fun b => .ok (.tlbiAsid ⟨b, bitAt w 4⟩))
  | 2 => rr0 w .tlbiAll
  | _ => .error .selector

/-- A 32-bit instruction (R301-R304): OP is bits [30:24]. -/
def decodeWord (w : Nat) : Decoded :=
  match fld w 24 7 with
  | 0x00 => decode00 w
  | 0x01 => decode01 w
  | 0x02 => ri w .addi
  | 0x03 => ri w .andi
  | 0x04 => ri w .ori
  | 0x05 => ri w .xori
  | 0x06 => riShift w .shli
  | 0x07 => riShift w .shri
  | 0x08 => riShift w .sari
  | 0x09 => decode09 w
  | 0x0A => decode0A w
  | 0x0B => withDstCode (fld w 18 6) fun d => .ok (.li d (BitVec.ofNat 18 (fld w 0 18)))
  | 0x0C => must (isNamed w)
      (.ok (.lih (fin32 (fld w 18 6 - 16)) (fin4 (fld w 16 2)) (BitVec.ofNat 16 (fld w 0 16))))
  | 0x0D => must (rbFits w) (withDstCode (fld w 18 6) fun d => withSrcCode (fld w 12 6) fun a =>
      .ok (.bfx d a (BitVec.ofNat 6 (fld w 6 6)) (BitVec.ofNat 6 (fld w 0 6))))
  | 0x0E => must (isNamed w && rbFits w) (withSrcCode (fld w 12 6) fun a =>
      .ok (.bfi (fin32 (fld w 18 6 - 16)) a (BitVec.ofNat 6 (fld w 6 6)) (BitVec.ofNat 6 (fld w 0 6))))
  | 0x10 => decode10 .d w
  | 0x11 => decode10 .s w
  | 0x12 => decode12 .d w
  | 0x13 => decode12 .s w
  | 0x14 => decode14 w
  | 0x15 => decode15 w
  | 0x16 => decode16 w
  | 0x18 => decode18 w
  | 0x20 => .ok (.b (BitVec.ofNat 24 (fld w 0 24)))
  | 0x21 => .ok (.call (BitVec.ofNat 24 (fld w 0 24)))
  | 0x22 => bc w .bz
  | 0x23 => bc w .bnz
  | 0x24 => decode24 w
  | 0x25 => decode25 w
  | 0x26 => decode26 w
  | 0x27 => decode27 w
  | 0x28 => decode28 w
  | 0x29 => decode29 w
  | 0x2A => decode2A w
  | 0x2B => decode2B w
  | 0x2C => decode2C w
  | 0x30 => decode30 w
  | 0x31 => decode31 w
  | 0x32 => decode32m w
  | 0x33 => decode33 w
  | 0x34 => decode34 w
  | 0x35 => decode35 w
  | 0x36 => decode36 w
  | 0x37 => decode37 w
  | 0x38 => decode38 w
  | 0x39 => decode39 w
  | 0x3A => decode3A w
  | 0x40 => decode40 w
  | 0x41 => decode41 w
  | 0x42 => decode42 w
  | 0x43 => decode43 w
  | 0x44 => decode44 w
  | 0x45 => decode45 w
  | 0x46 => decode46 w
  | 0x47 => decode47 w
  | 0x48 => decode48 w
  | 0x49 => vxMem w .vld
  | 0x4A => vxMem w .vst
  | 0x4B => vxIdx w .vgather
  | 0x4C => vxIdx w .vscatter
  | 0x4D => decode4D w
  | 0x60 => decode60 w
  | 0x61 => decode61 w
  | 0x62 => decode62 w
  | 0x63 => decode63 w
  | 0x64 => decode64 w
  | 0x65 => decode65 w
  | 0x66 => must (fld w 0 24 == 0) (.ok .await)
  | 0x70 => decode70 w
  | 0x71 => decode71 w
  | 0x72 => .ok (.trap (BitVec.ofNat 24 (fld w 0 24)))
  | 0x73 => must (fld w 0 24 == 0) (.ok .tret)
  | 0x74 => decode74 w
  | 0x75 => .ok (.brk (BitVec.ofNat 24 (fld w 0 24)))
  | _ => .error .opcode

/-- A 16-bit instruction (R300): OP5[14:10] X[9:5] Y[4:0]. -/
def decodeParcel (p : Nat) : Decoded :=
  let x := BitVec.ofNat 5 (fld p 5 5)
  let y := BitVec.ofNat 5 (fld p 0 5)
  match fld p 10 5 with
  | 0x01 => .ok (.add16 x y)
  | 0x02 => .ok (.sub16 x y)
  | 0x03 => .ok (.and16 x y)
  | 0x04 => .ok (.or16 x y)
  | 0x05 => .ok (.xor16 x y)
  | 0x06 => .ok (.shl16 x y)
  | 0x07 => .ok (.shr16 x y)
  | 0x08 => must (bitAt p 4) (.ok (.mov16 x (fin16 (fld p 0 4))))
  | 0x09 => .ok (.addi16 x y)
  | 0x0A => .ok (.li16 (BitVec.ofNat 10 (fld p 0 10)))
  | 0x0B => .ok (.cmpEq16 x y)
  | 0x0C => .ok (.cmpLt16 x y)
  | 0x0D => .ok (.ldD16 x y)
  | 0x0E => .ok (.stD16 x y)
  | 0x0F => .ok (.faddD16 x y)
  | 0x10 => .ok (.fsubD16 x y)
  | 0x11 => .ok (.fmulD16 x y)
  | 0x12 => .ok (.gmul16 x y)
  | 0x13 => .ok (.bz16 x y)
  | 0x14 => .ok (.bnz16 x y)
  | 0x15 => .ok (.b16 (BitVec.ofNat 10 (fld p 0 10)))
  | 0x16 => must (fld p 0 10 == 0) (.ok .ret16)
  | 0x17 => must (fld p 0 10 == 0) (.ok .tend16)
  | 0x18 => must (fld p 5 5 == 0) (.ok (.frame y))
  | 0x19 => must (fld p 0 10 == 0) (.ok .nop16)
  | _ => .error .opcode

/-! ## Length (R295) -/

/-- Bit 15 of a parcel. -/
def bit15 (p : Nat) : Bool := bitAt p 15

/-- The number of parcels with bit 15 set at the head of the list. -/
def runOf : List Nat → Nat
  | [] => 0
  | p :: ps => if bit15 p then runOf ps + 1 else 0

/-- What stands at an instruction start, given its parcels and those after it up to the end of the run:
the number of its parcels and what it decodes to (R295, R301). -/
def decodeParcels (ps : List Nat) : Nat × Decoded :=
  match ps with
  | [] => (1, .error .opcode)
  | p :: rest =>
    let second := rest.headD 0
    if bit15 p then
      if bit15 second then (2, decodeWord (second * 2 ^ 16 + p)) else (2, .error .length)
    else if runOf rest % 2 == 1 then (2, decodeWord (second * 2 ^ 16 + p))
    else (1, decodeParcel p)

/-- The parcels of a little-endian byte sequence. -/
def parcelsOf : List Byte → List Nat
  | a :: b :: bs => (a.toNat + 256 * b.toNat) :: parcelsOf bs
  | [a] => [a.toNat]
  | [] => []

/-- The `n` low bytes of `w`, lowest first. -/
def bytesOfNat : Nat → Nat → List Byte
  | 0, _ => []
  | n + 1, w => BitVec.ofNat 8 w :: bytesOfNat n (w / 256)

/-- The bytes of an instruction of the table as the part stores them: the first parcel lowest, followed by zeros
up to two instructions' length, so that the run of R295 ends. -/
def tableBytes (nbits w : Nat) : List Byte := bytesOfNat (nbits / 8) w ++ List.replicate 8 0

/-- The instruction the decoder reads from an instruction whose bits are `w`. -/
def decodeTableWord (nbits w : Nat) : Option Instr :=
  match (decodeParcels (parcelsOf (tableBytes nbits w))).2 with
  | .ok i => some i
  | .error _ => none

/-! ## The encoder -/

/-- RR fields. -/
def encRR (op d a b ea eb fn : Nat) : Nat :=
  (128 + op) * 2 ^ 24 + d * 2 ^ 18 + a * 2 ^ 12 + b * 2 ^ 6 + ea * 2 ^ 5 + eb * 2 ^ 4 + fn

/-- RR with D, A, B. -/
def encRr (op fn : Nat) (d : Dst) (a b : SrcM) : Nat :=
  encRR op (dstCode d) (srcCode a.src) (srcCode b.src) (bitCode a.trap) (bitCode b.trap) fn

/-- RR with B = z. -/
def encRrU (op fn : Nat) (d : Dst) (a : SrcM) : Nat := encRR op (dstCode d) (srcCode a.src) 56 (bitCode a.trap) 0 fn

/-- RR with D = 0 and B = z. -/
def encRrA (op fn : Nat) (a : SrcM) : Nat := encRR op 0 (srcCode a.src) 56 (bitCode a.trap) 0 fn

/-- RR with A = B = z. -/
def encRrD (op fn : Nat) (d : Dst) : Nat := encRR op (dstCode d) 56 56 0 0 fn

/-- RR without operands. -/
def encRr0 (op fn : Nat) : Nat := encRR op 0 56 56 0 0 fn

/-- RR with D = 0. -/
def encRrAB (op fn : Nat) (a b : SrcM) : Nat :=
  encRR op 0 (srcCode a.src) (srcCode b.src) (bitCode a.trap) (bitCode b.trap) fn

/-- RR with D a named register. -/
def encRrN (op fn : Nat) (d : Fin 32) (a b : SrcM) : Nat :=
  encRR op (16 + d.val) (srcCode a.src) (srcCode b.src) (bitCode a.trap) (bitCode b.trap) fn

/-- RI fields. -/
def encRI (op : Nat) (d : Nat) (a : SrcM) (imm : Nat) : Nat :=
  (128 + op) * 2 ^ 24 + d * 2 ^ 18 + srcCode a.src * 2 ^ 12 + bitCode a.trap * 2 ^ 11 + imm

/-- M fields; `kind` holds SZ and SX in place. -/
def encM (op d : Nat) (a : SrcM) (kind imm : Nat) : Nat :=
  (128 + op) * 2 ^ 24 + d * 2 ^ 18 + srcCode a.src * 2 ^ 12 + bitCode a.trap * 2 ^ 11 + kind + imm

/-- AT fields. -/
def encAT (op fn : Nat) (sz : ASize) (ord : Order) (d : Nat) (a b : Src) : Nat :=
  (128 + op) * 2 ^ 24 + d * 2 ^ 18 + srcCode a * 2 ^ 12 + srcCode b * 2 ^ 6 + asizeCode sz * 2 ^ 5 +
    orderCode ord * 2 ^ 3 + fn

/-- J fields. -/
def encJ (op imm : Nat) : Nat := (128 + op) * 2 ^ 24 + imm

/-- BC fields. -/
def encBC (op : Nat) (a : SrcM) (imm : Nat) : Nat :=
  (128 + op) * 2 ^ 24 + srcCode a.src * 2 ^ 18 + bitCode a.trap * 2 ^ 17 + imm

/-- DI fields. -/
def encDI (op d imm : Nat) : Nat := (128 + op) * 2 ^ 24 + d * 2 ^ 18 + imm

/-- RB fields. -/
def encRB (op d : Nat) (a : Src) (pos len : Nat) : Nat :=
  (128 + op) * 2 ^ 24 + d * 2 ^ 18 + srcCode a * 2 ^ 12 + pos * 2 ^ 6 + len

/-- SY fields. -/
def encSY (op d reg : Nat) : Nat := (128 + op) * 2 ^ 24 + d * 2 ^ 18 + reg * 2 ^ 6

/-- MS fields. -/
def encMS (op cls a b fl : Nat) : Nat := (128 + op) * 2 ^ 24 + cls * 2 ^ 16 + a * 2 ^ 10 + b * 2 ^ 4 + fl

/-- BA fields. -/
def encBA (fn : Nat) (bar : BitVec 7) (a : Nat) : Nat := (128 + 0x36) * 2 ^ 24 + bar.toNat * 2 ^ 17 + a * 2 ^ 11 + fn

/-- V fields. -/
def encV (op fn : Nat) (vd va vb : Nat) (m : VMask) : Nat :=
  (128 + op) * 2 ^ 24 + vd * 2 ^ 20 + va * 2 ^ 16 + vb * 2 ^ 12 + m.vm.val * 2 ^ 8 + bitCode m.me * 2 ^ 7 +
    bitCode m.z * 2 ^ 6 + fn

/-- VX fields. -/
def encVX (op fn : Nat) (vd va : Nat) (m : VMask) (a : Nat) (ea : Bool) : Nat :=
  (128 + op) * 2 ^ 24 + vd * 2 ^ 20 + va * 2 ^ 16 + m.vm.val * 2 ^ 12 + bitCode m.me * 2 ^ 11 + bitCode m.z * 2 ^ 10 +
    a * 2 ^ 4 + bitCode ea * 2 ^ 3 + fn

/-- FE fields. -/
def encFE (sc : Scope) (kind i : Nat) : Nat :=
  (128 + 0x2B) * 2 ^ 24 + scopeCode sc * 2 ^ 21 + kind * 2 ^ 19 + i * 2 ^ 18

/-- XA fields. -/
def encXA (fn : Nat) (acc a : Nat) (ea : Bool) (fmt rnd : Nat) : Nat :=
  (128 + 0x65) * 2 ^ 24 + acc * 2 ^ 20 + a * 2 ^ 14 + bitCode ea * 2 ^ 13 + fn * 2 ^ 11 + fmt * 2 ^ 7 + rnd * 2 ^ 4

/-- A 16-bit form. -/
def enc16 (op5 : Nat) (x y : Nat) : Nat := op5 * 2 ^ 10 + x * 2 ^ 5 + y

/-- The mask fields all zero. -/
def noMask : VMask := ⟨0, false, false⟩

/-- The word of a 32-bit instruction (R299, R302-R304); other constructors have none. -/
def encodeWord (i : Instr) : Option Nat :=
  match i with
  | .add d a b => some (encRr 0x00 0 d a b)
  | .sub d a b => some (encRr 0x00 1 d a b)
  | .and d a b => some (encRr 0x00 2 d a b)
  | .or d a b => some (encRr 0x00 3 d a b)
  | .xor d a b => some (encRr 0x00 4 d a b)
  | .shl d a b => some (encRr 0x00 5 d a b)
  | .shr d a b => some (encRr 0x00 6 d a b)
  | .sar d a b => some (encRr 0x00 7 d a b)
  | .min d a b => some (encRr 0x00 8 d a b)
  | .max d a b => some (encRr 0x00 9 d a b)
  | .minu d a b => some (encRr 0x00 10 d a b)
  | .maxu d a b => some (encRr 0x00 11 d a b)
  | .mul d a b => some (encRr 0x00 12 d a b)
  | .mulh d a b => some (encRr 0x00 13 d a b)
  | .mulhu d a b => some (encRr 0x00 14 d a b)
  | .div d a b => some (encRr 0x01 0 d a b)
  | .divu d a b => some (encRr 0x01 1 d a b)
  | .rem d a b => some (encRr 0x01 2 d a b)
  | .remu d a b => some (encRr 0x01 3 d a b)
  | .clz d a => some (encRrU 0x01 4 d a)
  | .ctz d a => some (encRrU 0x01 5 d a)
  | .popc d a => some (encRrU 0x01 6 d a)
  | .mov d a => some (encRrU 0x01 7 d a)
  | .ext t d a => some (encRrU 0x01 (8 + extCode t) d a)
  | .sel d a b => some (encRr 0x01 14 d a b)
  | .addi d a imm => some (encRI 0x02 (dstCode d) a imm.toNat)
  | .andi d a imm => some (encRI 0x03 (dstCode d) a imm.toNat)
  | .ori d a imm => some (encRI 0x04 (dstCode d) a imm.toNat)
  | .xori d a imm => some (encRI 0x05 (dstCode d) a imm.toNat)
  | .shli d a k => some (encRI 0x06 (dstCode d) a k.toNat)
  | .shri d a k => some (encRI 0x07 (dstCode d) a k.toNat)
  | .sari d a k => some (encRI 0x08 (dstCode d) a k.toNat)
  | .cmp c d a b => some (encRr 0x09 (condCode c) d a b)
  | .cmpi c d a imm => some (encRI 0x0A (dstCode d) a (imm.toNat * 2 ^ 3 + condCode c))
  | .li d imm => some (encDI 0x0B (dstCode d) imm.toNat)
  | .lih d half v => some (encDI 0x0C (16 + d.val) (half.val * 2 ^ 16 + v.toNat))
  | .bfx d a pos len => some (encRB 0x0D (dstCode d) a pos.toNat len.toNat)
  | .bfi d a pos len => some (encRB 0x0E (16 + d.val) a pos.toNat len.toNat)
  | .fadd p d a b => some (encRr (0x10 + precCode p) 0 d a b)
  | .fsub p d a b => some (encRr (0x10 + precCode p) 1 d a b)
  | .fmul p d a b => some (encRr (0x10 + precCode p) 2 d a b)
  | .fdiv p d a b => some (encRr (0x10 + precCode p) 3 d a b)
  | .fmin p d a b => some (encRr (0x10 + precCode p) 4 d a b)
  | .fmax p d a b => some (encRr (0x10 + precCode p) 5 d a b)
  | .fsqrt p d a => some (encRrU (0x10 + precCode p) 6 d a)
  | .fsgnj p d a b => some (encRr (0x10 + precCode p) 7 d a b)
  | .fsgnn p d a b => some (encRr (0x10 + precCode p) 8 d a b)
  | .fsgnx p d a b => some (encRr (0x10 + precCode p) 9 d a b)
  | .fclass p d a => some (encRrU (0x10 + precCode p) 10 d a)
  | .fma p d a b => some (encRrN (0x12 + precCode p) 0 d a b)
  | .fms p d a b => some (encRrN (0x12 + precCode p) 1 d a b)
  | .fnma p d a b => some (encRrN (0x12 + precCode p) 2 d a b)
  | .fnms p d a b => some (encRrN (0x12 + precCode p) 3 d a b)
  | .fcmp c p d a b => some (encRr 0x14 (precCode p * 2 ^ 3 + fcondCode c) d a b)
  | .fcvt code sat r d a => some (encRR 0x15 (dstCode d) (srcCode a.src) code.toNat (bitCode a.trap) 0 (bitCode sat * 2 ^ 3 + rndCode r))
  | .frint p r d a => some (encRrU 0x16 (precCode p * 2 ^ 3 + rndCode r) d a)
  | .gmul d a b => some (encRr 0x18 0 d a b)
  | .gdiv d a b => some (encRr 0x18 1 d a b)
  | .gdamp d a b => some (encRr 0x18 2 d a b)
  | .gmarg d a b => some (encRr 0x18 3 d a b)
  | .gmargi d a b => some (encRr 0x18 4 d a b)
  | .gmean d a => some (encRrU 0x18 5 d a)
  | .b imm => some (encJ 0x20 imm.toNat)
  | .call imm => some (encJ 0x21 imm.toNat)
  | .bz a imm => some (encBC 0x22 a imm.toNat)
  | .bnz a imm => some (encBC 0x23 a imm.toNat)
  | .jr a => some (encRrA 0x24 0 a)
  | .callr a => some (encRrA 0x24 1 a)
  | .ret => some (encRr0 0x24 2)
  | .tend => some (encRr0 0x24 3)
  | .nop => some (encRr0 0x24 4)
  | .ld k d a imm => some (encM 0x25 (dstCode d) a (loadKindCode k) imm.toNat)
  | .st sz v a imm => some (encM 0x26 (srcCode v) a (sizeCode sz * 2 ^ 9) imm.toNat)
  | .lda k d a sc off => some (encM 0x27 (dstCode d) a (loadKindCode k) (scopeCode sc * 2 ^ 5 + off.toNat))
  | .str sz v a sc off => some (encM 0x28 (srcCode v) a (sizeCode sz * 2 ^ 9) (scopeCode sc * 2 ^ 5 + off.toNat))
  | .atomAdd sz ord d a b => some (encAT 0x29 0 sz ord (dstCode d) a b)
  | .atomAnd sz ord d a b => some (encAT 0x29 1 sz ord (dstCode d) a b)
  | .atomOr sz ord d a b => some (encAT 0x29 2 sz ord (dstCode d) a b)
  | .atomXor sz ord d a b => some (encAT 0x29 3 sz ord (dstCode d) a b)
  | .atomMin sz ord d a b => some (encAT 0x29 4 sz ord (dstCode d) a b)
  | .atomMax sz ord d a b => some (encAT 0x29 5 sz ord (dstCode d) a b)
  | .atomMinu sz ord d a b => some (encAT 0x29 6 sz ord (dstCode d) a b)
  | .atomMaxu sz ord d a b => some (encAT 0x29 7 sz ord (dstCode d) a b)
  | .cas sz ord d a b => some (encAT 0x2A 0 sz ord (16 + d.val) a b)
  | .swap sz ord d a b => some (encAT 0x2A 1 sz ord (dstCode d) a b)
  | .fenceFull sc => some (encFE sc 0 0)
  | .fenceAcquire sc => some (encFE sc 1 0)
  | .fenceRelease sc => some (encFE sc 2 0)
  | .fencei => some (encFE .core 0 1)
  | .cflushClean a => some (encRI 0x2C 0 a 0)
  | .cflushInv a => some (encRI 0x2C 0 a 1)
  | .cflushWbinv a => some (encRI 0x2C 0 a 2)
  | .send cls a b keep => some (encMS 0x30 cls.toNat (srcCode a) (srcCode b) (bitCode keep))
  | .spawn cls a b => some (encMS 0x31 cls.toNat (srcCode a) (srcCode b) 0)
  | .migrate cls a => some (encMS 0x32 cls.toNat (srcCode a) 56 0)
  | .sbindOff st => some (encRI 0x33 (49 + st.val) ⟨.z, false⟩ 0)
  | .sbindChan st a => some (encRI 0x33 (49 + st.val) a 1)
  | .sbindCopy st => some (encRI 0x33 (49 + st.val) ⟨.z, false⟩ 2)
  | .cvgNote a => some (encRrA 0x34 0 a)
  | .cvgMax d => some (encRrD 0x34 1 d)
  | .cvgCount d => some (encRrD 0x34 2 d)
  | .cvgQuiet d => some (encRrD 0x34 3 d)
  | .cvgClear => some (encRr0 0x34 4)
  | .cut d => some (encRrD 0x35 0 d)
  | .cutstat d a => some (encRrU 0x35 1 d a)
  | .barrive bar => some (encBA 0 bar 56)
  | .bwait bar => some (encBA 1 bar 56)
  | .bsync bar => some (encBA 2 bar 56)
  | .bjoin bar a => some (encBA 3 bar (srcCode a))
  | .bleave bar => some (encBA 4 bar 56)
  | .bstat bar => some (encBA 5 bar 56)
  | .hopen d a => some (encRrU 0x37 0 d a)
  | .henter a => some (encRrA 0x37 1 a)
  | .hresolveC d a => some (encRrU 0x37 2 d a)
  | .hresolveR d a => some (encRrU 0x37 3 d a)
  | .hresolveX d a => some (encRrU 0x37 4 d a)
  | .hstat d a => some (encRrU 0x37 5 d a)
  | .qend => some (encRr0 0x38 0)
  | .vflag a => some (encRrA 0x38 1 a)
  | .time d => some (encRrD 0x38 2 d)
  | .lease d a b => some (encRr 0x39 0 d a b)
  | .lstat d a => some (encRrU 0x39 1 d a)
  | .vclaim d a => some (encRrU 0x3A 0 d a)
  | .vaddI vd va vb m => some (encV 0x40 0 vd.val va.val vb.val m)
  | .vsubI vd va vb m => some (encV 0x40 1 vd.val va.val vb.val m)
  | .vmulI vd va vb m => some (encV 0x40 2 vd.val va.val vb.val m)
  | .vminI vd va vb m => some (encV 0x40 3 vd.val va.val vb.val m)
  | .vmaxI vd va vb m => some (encV 0x40 4 vd.val va.val vb.val m)
  | .vminu vd va vb m => some (encV 0x40 5 vd.val va.val vb.val m)
  | .vmaxu vd va vb m => some (encV 0x40 6 vd.val va.val vb.val m)
  | .vand vd va vb m => some (encV 0x40 7 vd.val va.val vb.val m)
  | .vor vd va vb m => some (encV 0x40 8 vd.val va.val vb.val m)
  | .vxor vd va vb m => some (encV 0x40 9 vd.val va.val vb.val m)
  | .vshl vd va vb m => some (encV 0x40 10 vd.val va.val vb.val m)
  | .vshr vd va vb m => some (encV 0x40 11 vd.val va.val vb.val m)
  | .vsar vd va vb m => some (encV 0x40 12 vd.val va.val vb.val m)
  | .vmov vd va m => some (encV 0x40 13 vd.val va.val 0 m)
  | .vaddS vd va vb m => some (encV 0x41 0 vd.val va.val vb.val m)
  | .vsubS vd va vb m => some (encV 0x41 1 vd.val va.val vb.val m)
  | .vmulS vd va vb m => some (encV 0x41 2 vd.val va.val vb.val m)
  | .vdivS vd va vb m => some (encV 0x41 3 vd.val va.val vb.val m)
  | .vminS vd va vb m => some (encV 0x41 4 vd.val va.val vb.val m)
  | .vmaxS vd va vb m => some (encV 0x41 5 vd.val va.val vb.val m)
  | .vsqrtS vd va m => some (encV 0x41 6 vd.val va.val 0 m)
  | .vaddD vd va vb m => some (encV 0x42 0 vd.val va.val vb.val m)
  | .vsubD vd va vb m => some (encV 0x42 1 vd.val va.val vb.val m)
  | .vmulD vd va vb m => some (encV 0x42 2 vd.val va.val vb.val m)
  | .vdivD vd va vb m => some (encV 0x42 3 vd.val va.val vb.val m)
  | .vminD vd va vb m => some (encV 0x42 4 vd.val va.val vb.val m)
  | .vmaxD vd va vb m => some (encV 0x42 5 vd.val va.val vb.val m)
  | .vsqrtD vd va m => some (encV 0x42 6 vd.val va.val 0 m)
  | .vfma p vd va vb m => some (encV 0x43 (pairCode p * 2 ^ 2 + 0) vd.val va.val vb.val m)
  | .vfms p vd va vb m => some (encV 0x43 (pairCode p * 2 ^ 2 + 1) vd.val va.val vb.val m)
  | .vfnma p vd va vb m => some (encV 0x43 (pairCode p * 2 ^ 2 + 2) vd.val va.val vb.val m)
  | .vfnms p vd va vb m => some (encV 0x43 (pairCode p * 2 ^ 2 + 3) vd.val va.val vb.val m)
  | .vcmp t c vd va vb m => some (encV 0x44 (vcmpTypeCode t * 2 ^ 4 + vcondCode c) vd.val va.val vb.val m)
  | .vsel vd va vb vm z => some (encV 0x45 0 vd.val va.val vb.val ⟨vm, true, z⟩)
  | .vcvt code vd va vb m => some (encV 0x46 code.toNat vd.val va.val vb.val m)
  | .vred op va m => some (encV 0x47 (vredCode op) 0 va.val 0 m)
  | .vbcast p vd m a => some (encVX 0x48 0 vd.val (pairCode p) m (srcCode a.src) a.trap)
  | .vext k va a => some (encVX 0x48 1 (match k with | .w => 0 | .sw => 1 | .d => 2) va.val noMask (srcCode a.src) a.trap)
  | .viota vd m => some (encVX 0x48 2 vd.val 0 m 56 false)
  | .vpopc va vm me => some (encVX 0x48 3 0 va.val ⟨vm, me, false⟩ 56 false)
  | .vld sz st vd m a => some (encVX 0x49 (bitCode st * 2 ^ 2 + sizeCode sz) vd.val 0 m (srcCode a.src) a.trap)
  | .vst sz st vd m a => some (encVX 0x4A (bitCode st * 2 ^ 2 + sizeCode sz) vd.val 0 m (srcCode a.src) a.trap)
  | .vgather sz vd va m a => some (encVX 0x4B (sizeCode sz) vd.val va.val m (srcCode a.src) a.trap)
  | .vscatter sz vd va m a => some (encVX 0x4C (sizeCode sz) vd.val va.val m (srcCode a.src) a.trap)
  | .vatom op vd va m a => some (encVX 0x4D (atomOpCode op) vd.val va.val m (srcCode a.src) a.trap)
  | .xgather a b => some (encRrAB 0x60 0 a b)
  | .xscatter a b => some (encRrAB 0x60 1 a b)
  | .xcopy a b => some (encRrAB 0x60 2 a b)
  | .xpop d a => some (encRrU 0x61 0 d a)
  | .xtry d a => some (encRrU 0x61 1 d a)
  | .xstat d a => some (encRrU 0x61 2 d a)
  | .aring a b => some (encRrAB 0x62 0 a b)
  | .aadv a b => some (encRrAB 0x63 0 a b)
  | .aadvStat d a => some (encRrU 0x63 1 d a)
  | .amm acc ra rb mode zp pop => some ((128 + 0x64) * 2 ^ 24 + acc.val * 2 ^ 20 + ra.val * 2 ^ 16 + rb.val * 2 ^ 12 + mode.toNat * 2 ^ 8 +
      bitCode zp * 2 ^ 7 + pop.toNat * 2 ^ 5)
  | .azero acc single => some (encXA 0 acc.val 56 false (bitCode single) 0)
  | .ald acc a fmt => some (encXA 1 acc.val (srcCode a.src) a.trap fmt.val 0)
  | .ast acc a fmt r => some (encXA 2 acc.val (srcCode a.src) a.trap fmt.val (rndCode r))
  | .await => some (encJ 0x66 0)
  | .sysr d reg => some (encSY 0x70 (dstCode d) reg.toNat)
  | .sysw reg a => some (encSY 0x71 (srcCode a) reg.toNat)
  | .trap code => some (encJ 0x72 code.toNat)
  | .tret => some (encJ 0x73 0)
  | .tlbiPage a b => some (encRrAB 0x74 0 a b)
  | .tlbiAsid b => some (encRR 0x74 0 56 (srcCode b.src) 0 (bitCode b.trap) 1)
  | .tlbiAll => some (encRr0 0x74 2)
  | .brk code => some (encJ 0x75 code.toNat)
  | _ => none

/-- The parcel of a 16-bit instruction (R300); other constructors have none. -/
def encodeParcel (i : Instr) : Option Nat :=
  match i with
  | .add16 x y => some (enc16 0x01 x.toNat y.toNat)
  | .sub16 x y => some (enc16 0x02 x.toNat y.toNat)
  | .and16 x y => some (enc16 0x03 x.toNat y.toNat)
  | .or16 x y => some (enc16 0x04 x.toNat y.toNat)
  | .xor16 x y => some (enc16 0x05 x.toNat y.toNat)
  | .shl16 x y => some (enc16 0x06 x.toNat y.toNat)
  | .shr16 x y => some (enc16 0x07 x.toNat y.toNat)
  | .mov16 x y => some (enc16 0x08 x.toNat (16 + y.val))
  | .addi16 x i => some (enc16 0x09 x.toNat i.toNat)
  | .li16 i => some (0x0A * 2 ^ 10 + i.toNat)
  | .cmpEq16 x y => some (enc16 0x0B x.toNat y.toNat)
  | .cmpLt16 x y => some (enc16 0x0C x.toNat y.toNat)
  | .ldD16 x y => some (enc16 0x0D x.toNat y.toNat)
  | .stD16 x y => some (enc16 0x0E x.toNat y.toNat)
  | .faddD16 x y => some (enc16 0x0F x.toNat y.toNat)
  | .fsubD16 x y => some (enc16 0x10 x.toNat y.toNat)
  | .fmulD16 x y => some (enc16 0x11 x.toNat y.toNat)
  | .gmul16 x y => some (enc16 0x12 x.toNat y.toNat)
  | .bz16 x y => some (enc16 0x13 x.toNat y.toNat)
  | .bnz16 x y => some (enc16 0x14 x.toNat y.toNat)
  | .b16 i => some (0x15 * 2 ^ 10 + i.toNat)
  | .ret16 => some (0x16 * 2 ^ 10)
  | .tend16 => some (0x17 * 2 ^ 10)
  | .frame k => some (enc16 0x18 0 k.toNat)
  | .nop16 => some (0x19 * 2 ^ 10)
  | _ => none

/-- The parcels of an instruction, the first at the lowest address (R294); an event has none. -/
def encode (i : Instr) : List Nat :=
  match encodeWord i with
  | some w => [w % 2 ^ 16, w / 2 ^ 16]
  | none =>
    match encodeParcel i with
    | some p => [p]
    | none => []

/-- The parcels of an instruction followed by a parcel that ends the run of R295. -/
def encodeEnded (i : Instr) : List Nat := encode i ++ [0]

end Sys2Proof
end

