-- ==== Sys2Proof/Machine/Operands.lean ====
section
/-! DEFINITION. Reading source operands and writing destinations (R58-R64, R37, R68, R371), with the traps they raise
in the order of R210. -/

namespace Sys2Proof.Machine

/-- What reading an operand meets. -/
inductive Peek where
  | val (v : Word)
  /-- Empty, with or without an outstanding producer (R63). -/
  | empty (producer : Bool)
  /-- Full-faulted (R115). -/
  | faulted (poison : Bool) (addr pc : Word)
  /-- Beyond the payload of s0 (R37). -/
  | overrun
  /-- A stream register that is not bound (R59). -/
  | unbound
  /-- The header word of a message with the wrong top-code bit (R371). -/
  | mismatch (hdr : Word)
  deriving DecidableEq, Repr

def Reg.peek (r : Reg) : Peek :=
  match r.st with
  | .full => .val r.val
  | .empty p => .empty p.isSome
  | .faulted p a pc => .faulted p a pc

/-- What a bound stream shows, and the binding once the word is read (R68, R371). -/
def Bind.read : Bind → Peek × Bind
  | .unbound => (.unbound, .unbound)
  | .chan c [] => (.empty true, .chan c [])
  | .chan c ((hdr, bad, started, ws) :: r) =>
    if !started then
      if bad then (.mismatch hdr, .chan c r)
      else (.val hdr, .chan c (if ws.isEmpty then r else (hdr, bad, true, ws) :: r))
    else match ws with
      | [] => (.empty true, .chan c r)
      | w :: ws' => (.val w, .chan c (if ws'.isEmpty then r else (hdr, bad, true, ws') :: r))
  | .copy [] f fin => (.empty (!fin), .copy [] f fin)
  | .copy (w :: b) f fin => (.val w, .copy b f fin)

/-- What a source shows, and the slot once it is read: stream reads consume a word (R37, R68). -/
def Slot.read (sl : Slot) (x : Src) : Peek × Slot :=
  match x with
  | .q i => ((sl.queue.getD i.val (Reg.of 0)).peek, sl)
  | .n i => ((sl.win.act.getD i.val Reg.fresh).peek, sl)
  | .z => (.val 0, sl)
  | .s i =>
    if i.val = 0 then
      match sl.payload with
      | [] => (.overrun, sl)
      | w :: r => (.val w, { sl with payload := r })
    else
      let p := (sl.binds.getD (i.val - 1) .unbound).read
      (p.1, { sl with binds := padSet .unbound sl.binds (i.val - 1) p.2 })

/-- What a list of sources shows, each read after those before it. -/
def Slot.reads (sl : Slot) : List SrcM → List (SrcM × Peek) × Slot
  | [] => ([], sl)
  | x :: r =>
    let p := sl.read x.src
    let q := p.2.reads r
    ((x, p.1) :: q.1, q.2)

/-- A register of the gap k-23 of the active frame (R65). -/
def Slot.gap (sl : Slot) (i : Nat) : Bool := decide (sl.win.k ≤ i) && decide (i < 24)

def srcGap (sl : Slot) (x : SrcM) : Option Nat :=
  match x.src with
  | .n i => if sl.gap i.val then some i.val else none
  | _ => none

def dstGap (sl : Slot) (d : Dst) : Option Nat :=
  match d with
  | .n i => if sl.gap i.val then some i.val else none
  | _ => none

/-- The first of the second group of R210: an unbound stream, then a register outside the frame. -/
def groupTwo (sl : Slot) (d : Dst) (ps : List (SrcM × Peek)) : Option Trap :=
  match ps.find? (·.2 == .unbound) with
  | some p => some (.illegal (word (srcCode p.1.src)))
  | none =>
    match ps.findSome? (fun p => srcGap sl p.1), dstGap sl d with
    | some i, _ => some { cause := .frame, info := word i }
    | none, some i => some { cause := .frame, info := word i }
    | none, none => none

/-- What one source does to the instruction in the third group: EMPTY_READ, a wait, or a deferred trap (R63, R115). -/
def groupThree (p : SrcM × Peek) : Option Effect :=
  match p.2 with
  | .empty producer =>
    if p.1.trap || !producer then some (.trap { cause := .emptyRead, info := word (srcCode p.1.src) }) else some .wait
  | .faulted poison a pc =>
    some (.trap { cause := if poison then .poison else .access, addr := a, info := pc, deferred := true })
  | _ => none

/-- A channel without the mismatched message at its head (R371): its words are discarded with the trap. -/
def Bind.dropBad : Bind → Bind
  | .chan c m => .chan c (match m.findIdx? fun x => x.2.1 && !x.2.2.1 with
    | some i => m.eraseIdx i
    | none => m)
  | b => b

/-- MSG_OVERRUN of a source or of the composer, and the mismatch of a channel's header word (R37, R371). -/
def groupFour (s : State) (sl : Slot) (d : Dst) (ps : List (SrcM × Peek)) : Option Effect :=
  if ps.any (·.2 == .overrun) then some (.trap { cause := .msgOverrun, info := 48 })
  else match ps.findSome? (fun p => match p.2 with
      | .mismatch h => some (p.1.src, h)
      | _ => none) with
    | some (x, h) =>
      let i := srcCode x - 49
      some (.trapIn (s.setSlot { sl with binds := padSet .unbound sl.binds i (sl.binds.getD i .unbound).dropBad })
        { cause := .fmtMismatch, info := h })
    | none =>
      if d == .s7 && 8 ≤ sl.composer.length then some (.trap { cause := .msgOverrun, info := 55 }) else none

/-- The value a source has given. -/
def Peek.word : Peek → Word
  | .val v => v
  | _ => 0

/-- Reads the sources and checks the destination, in the order of R210; then goes on with the values and the state in
which the streams have moved. -/
def withOps (s : State) (d : Dst) (xs : List SrcM) (k : List Word → State → Effect) : Effect :=
  let sl := s.slot
  let r := sl.reads xs
  match groupTwo sl d r.1 with
  | some t => .trap t
  | none =>
    match r.1.findSome? groupThree with
    | some e => e
    | none =>
      match groupFour s sl d r.1 with
      | some e => e
      | none => k (r.1.map (·.2.word)) (s.setSlot r.2)

def ops0 (s : State) (d : Dst) (k : State → Effect) : Effect := withOps s d [] fun _ s => k s

def ops1 (s : State) (d : Dst) (a : SrcM) (k : Word → State → Effect) : Effect :=
  withOps s d [a] fun vs s => k (vs.getD 0 0) s

def ops2 (s : State) (d : Dst) (a b : SrcM) (k : Word → Word → State → Effect) : Effect :=
  withOps s d [a, b] fun vs s => k (vs.getD 0 0) (vs.getD 1 0) s

/-- A source in a field without a mode bit blocks (R63). -/
def blk (x : Src) : SrcM := ⟨x, false⟩

/-! ### Destinations (R58, R61, R62) -/

/-- Pushes an entry as q0; the entry beyond q15 is lost. -/
def Slot.push (sl : Slot) (r : Reg) : Slot := { sl with queue := r :: sl.queue.take 15 }

/-- Writes a named register. -/
def Slot.setN (sl : Slot) (i : Nat) (r : Reg) : Slot :=
  { sl with win := { sl.win with act := padSet Reg.fresh sl.win.act i r } }

/-- Writes a destination: z takes nothing; every other pushes, and a named register or the composer takes it too. -/
def Slot.write (sl : Slot) (d : Dst) (r : Reg) : Slot :=
  match d with
  | .z => sl
  | .queue => sl.push r
  | .n i => (sl.push r).setN i.val r
  | .s7 => { sl.push r with composer := sl.composer ++ [r] }

/-- A full value for a destination of the slot that issues. -/
def pushTo (s : State) (d : Dst) (v : Word) : State := s.modSlot (·.write d (Reg.of v))

/-- A long-latency producer issues (R62): its entry and its destination are empty and await it. A destination z owes
nothing. A value that waits for no distant answer lands by an event of its own. -/
def oweTo (s : State) (d : Dst) (kind : OwedKind) (lda holds : Bool) : State :=
  if d == .z && !lda && !holds then s
  else
    let id := s.nextId
    let s := s.modSlot fun sl =>
      { sl.write d ⟨0, .empty (some id)⟩ with owed := sl.owed ++ [{ id := id, kind := kind, lda := lda, holds := holds }] }
    let s := s.fresh
    if kind == .remote then s else s.poke ⟨.valueLands, { core := s.cur.1, slot := s.cur.2, id := id }⟩

/-- An operand of one source and one destination whose result is a function of its value. -/
def unary (s : State) (len : Nat) (d : Dst) (a : SrcM) (f : Word → Word) : Host.Outcome State Fault Refusal :=
  finish s len (ops1 s d a fun v s => .done (pushTo s d (f v)))

/-- The same of two sources. -/
def binary (s : State) (len : Nat) (d : Dst) (a b : SrcM) (f : Word → Word → Word) : Host.Outcome State Fault Refusal :=
  finish s len (ops2 s d a b fun x y s => .done (pushTo s d (f x y)))

/-! ### Landing (R62, R64) -/

/-- Fills a register that still awaits a producer. -/
def Reg.land (r : Reg) (id : Nat) (v : Reg) : Reg := if r.st == .empty (some id) then v else r

/-- Fills every register of a task that awaits a producer, wherever it stands. -/
def Slot.land (sl : Slot) (id : Nat) (v : Reg) : Slot :=
  let f := fun l : List Reg => l.map fun r => r.land id v
  { sl with
    queue := f sl.queue
    win := { sl.win with act := f sl.win.act
                         below := sl.win.below.map fun b => { b with regs := f b.regs } }
    composer := f sl.composer
    shadow := sl.shadow.map fun h => { h with queue := f h.queue, args := f h.args }
    owed := sl.owed.filter fun o => o.id != id }

end Sys2Proof.Machine
end

