-- ==== Sys2Proof/Machine/Clock.lean ====
section
/-! DEFINITION. Time: what a cycle does to the counters of the part (R29, R150, R181, R203), the events whose cycle has
come (R1), and the slot of a core that issues next (R28). -/

namespace Sys2Proof.Machine

/-- Budgets of a slot that holds a task (R29, R181): a wrap-up task's watchdog reads its quench budget. -/
def tickSlot (n : Nat) (sl : Slot) : Slot :=
  if !sl.held || sl.stopped then sl
  else if sl.wrapup then { sl with quenchLeft := sl.quenchLeft - n, wdog := sl.quenchLeft - n }
  else { sl with wdog := sl.wdog - n }

/-- Some slot holds a task. -/
def Core.busy (k : Core) : Bool := k.slots.any (·.2.held)

/-- Counters of a core: `CVG.QUIET` while a context is resident (R150), and its slice (R203, R204). -/
def tickCore (n : Nat) (k : Core) : Core :=
  let live := k.resident.isSome
  { k with
    slots := tmap (fun _ sl => tickSlot n sl) k.slots
    cvgQuiet := if live then word (min (2 ^ 63 - 1) (k.cvgQuiet.toNat + n)) else k.cvgQuiet
    sliceLeft := if live && !k.sliceEnded then k.sliceLeft - n else k.sliceLeft
    overrun := if live && k.sliceEnded then k.overrun + n else k.overrun
    idle := if live && !k.busy && k.hwq.isEmpty && k.ring.isEmpty then k.idle + n else 0 }

/-- A lease starves (R270): its depth is above the wake threshold and fewer than its floor are on or warming. -/
def leaseStarves (s : State) (l peer : Nat) (x : Lease) : Bool :=
  let q := s.linkSet l peer
  let on := (x.txs.filter fun t => t.2.1 != .parked).length
  decide (q.wake < (s.stream x.die peer).depth l) && decide (on < q.floor)

/-- Since when each lease starves without a break. -/
def tickLeases (s : State) (l : Nat) (x : Launch) : Launch :=
  { x with leases := tmap (fun p y => { y with
      starving := if leaseStarves s l p y then some (y.starving.getD s.ptp) else none }) x.leases }

/-- Cycles in which the slew of 100 ns a second moves the time unit by a seventeenth of a nanosecond (R21). -/
def slewPeriod : Nat := 500000

/-- The time unit in one cycle (R5, R20, R21): 20 seventeenths of a nanosecond pass, and one more or one fewer once in
each slew period while the source is ahead or behind; it never goes back. In holdover it runs free.
(DEDUCED, log 75) -/
def tickTime (s : State) : State :=
  let s := { s with ptp17 := s.ptp17 + Config.tick17 }
  if s.holdover || s.slew == 0 then { s with slewCycles := 0 }
  else if s.slewCycles + 1 < slewPeriod then { s with slewCycles := s.slewCycles + 1 }
  else if 0 < s.slew then { s with ptp17 := s.ptp17 + 1, slew := s.slew - 1, slewCycles := 0 }
  else { s with ptp17 := s.ptp17 - 1, slew := s.slew + 1, slewCycles := 0 }

/-- One cycle passes in every counter (R5, R20). -/
def tick (s : State) : State :=
  let s := tickTime s
  let s := { s with cycle := s.cycle + 1, cores := tmap (fun _ k => tickCore 1 k) s.cores }
  { s with launches := tmap (tickLeases s) s.launches }

/-- Nanoseconds a hearth takes to leave its idle state (R283). (DEDUCED, log 76) -/
def exitNs (s : State) (h : Nat) : Nat :=
  if (s.hearth h).powerGated then 2000 else if (s.hearth h).clockGated then 20 else 0

/-- An arrival wakes its hearth, and its die if that was parked for power (R284). (DEDUCED, log 76) -/
def wakeHearth (s : State) (h : Nat) : State :=
  let n := exitNs s h
  (unparkDie s (h / 256)).modHearth h fun x => { x with
    clockGated := false, powerGated := false, idleSince := s.ptp, wakeAt := if n = 0 then x.wakeAt else s.ptp + n }

/-- The same for a hearth that idles. (DEDUCED, log 76) -/
def rouse (s : State) (h : Nat) : State :=
  if exitNs s h = 0 && !s.powerParked.getD (h / 256) false then s else wakeHearth s h

/-- The hearths of a launch's cores that idle are woken (R284). -/
def rouseLaunch (s : State) (l : Nat) : State :=
  match s.launch? l with
  | some x => x.cores.foldl (fun s c => rouse s (c / 8)) s
  | none => s

/-- The hearth has left its idle state: an arrival waits out the exit latency (R284). (DEDUCED, log 76) -/
def awake (s : State) (h : Nat) : Bool :=
  decide ((s.hearth h).wakeAt ≤ s.ptp) && decide (s.dieWake.getD (h / 256) 0 ≤ s.ptp)

/-- Slots that hold a task: core and slot. -/
def slotsOf (s : State) : List (Nat × Nat) :=
  s.cores.flatMap fun p => p.2.slots.filterMap fun q => if q.2.held then some (p.1, q.1) else none

/-- Words of delivered announcements whose cycle has come are pushed (R355, R356). (DESIGN CHOICE, log 32) -/
def landWord (s : State) (p : Nat × Nat) : State :=
  match (s.slotAt p.1 p.2).stall with
  | .landing due d v next =>
    if due ≤ s.cycle then resume (s.modSlotAt p.1 p.2 fun sl => sl.write d (Reg.of v)) p.1 p.2 next else s
  | _ => s

def landWords (s : State) : State := (slotsOf s).foldl landWord s

/-- The time at which a launch's Quench fires (R173). -/
def fireTime (lr : List Word) : Nat := (lr.getD 16 0).toNat - (lr.getD 17 0).toNat

/-- Events of a core whose cycle has come: the links role's answer (R266), budgets (R29, R181), priorities (R47), its slice
(R203, R204), its drain
(R220) and its vector instructions (R234). -/
def coreTimers (now c : Nat) (k : Core) : List Event :=
  (k.slots.flatMap fun p =>
    let sl := p.2
    (match sl.stall with
      | .links due _ _ => if sl.held && due ≤ now then [⟨.linksRoleAnswer, { core := c, slot := p.1 }⟩] else []
      | _ => []) ++
    if !sl.held || sl.stopped then []
    else if sl.wrapup then (if sl.quenchLeft = 0 then [⟨.quenchBudgetExpiry, { core := c, slot := p.1 }⟩] else [])
    else if sl.wdog = 0 && !sl.pendWatchdog && sl.shadow.isNone then [⟨.watchdogExpiry, { core := c, slot := p.1 }⟩]
    else []) ++
  (k.hwq.filterMap fun q =>
    if q.since + 2 ^ 16 * (q.aged + 1) ≤ now then some ⟨.priorityAging, { core := c, id := q.arrival }⟩ else none) ++
  (k.ring.filterMap fun q =>
    if q.2.1 + 2 ^ 16 * (q.2.2 + 1) ≤ now then some ⟨.priorityAging, { core := c, id := q.1 }⟩ else none) ++
  (if k.resident.isSome && !k.sliceEnded && k.sliceLeft = 0 then [⟨.sliceExpiry, { core := c }⟩] else []) ++
  (if k.resident.isSome && !k.sliceEnded && 256 ≤ k.idle then [⟨.sliceIdleEnd, { core := c }⟩] else []) ++
  (match k.draining with
    | some t => if t + Config.drainAllowance ≤ now then [⟨.tongsDrainExpiry, { core := c }⟩] else []
    | none => []) ++
  (if k.bound.any fun b => b.until_ ≤ now then [⟨.vectorComplete, { core := c }⟩] else [])

/-- Events of a core that may happen. -/
def dueCore (c : Nat) (k : Core) : List Event :=
  (k.slots.flatMap fun p =>
    if !p.2.held then [] else match p.2.stall with
      | .tlbi _ _ => [⟨.tlbiComplete, { core := c, slot := p.1 }⟩]
      | .atomic _ _ _ => [⟨.atomicOldValueReturn, { core := c, slot := p.1 }⟩]
      | .links _ _ _ => [⟨.linksRoleAnswer, { core := c, slot := p.1 }⟩]
      | _ => []) ++
  (if k.sliceEnded && !k.busy then [⟨.contextSave, { core := c }⟩] else []) ++
  (if k.resident.isNone then (k.assigned.map fun l => ⟨.contextRestore, { core := c, launch := l }⟩) else []) ++
  (k.commands.filterMap fun p => if p.2.complete then none else some ⟨.tongsElementReply, { core := c, id := p.1 }⟩) ++
  (k.transfers.map fun o => ⟨.vectorTransferComplete, { core := c, slot := o.slot }⟩) ++
  (if k.endedTraps.isEmpty then [] else [⟨.endedTaskTrapContext, { core := c }⟩]) ++
  (if k.hwq.isEmpty && !k.wrapupOwed then [] else [⟨.messageDispatch, { core := c }⟩]) ++
  (if k.tiles.isEmpty then [] else [⟨.rangeTaskStart, { core := c }⟩])

/-- An FP32 or FP64 `amm` waits at the port of a hearth for a token (R233). -/
def tokenWaits (s : State) (h : Nat) : Bool :=
  [0, 1, 2, 3, 4, 5, 6, 7].any fun i => (s.core (8 * h + i)).slots.any fun p => p.2.held && p.2.atPort && p.2.wantsToken

/-- The token of its die's ring that a hearth is visited by in this cycle (R233): each moves on by one hearth a cycle, and one
that the hearth has just let go is not taken again. -/
def tokenAt (s : State) (h : Nat) : Option Nat :=
  ((s.freeTokens.getD (h / 256) []).filter fun p => (p + s.cycle) % 256 == h % 256)[if (s.hearth h).tokenLeft == s.cycle + 1 then 1 else 0]?

/-- Events of a hearth whose cycle has come (R205, R207, R231-R233). -/
def hearthTimers (s : State) (h : Nat) (x : Hearth) : List Event :=
  (x.ops.filterMap fun o =>
    if o.retireAt ≤ s.cycle then
      some ⟨if o.isAmm then .ammRetire else .anvilOperationRetire, { core := o.core, slot := o.slot }⟩
    else none) ++
  (if !x.token && tokenWaits s h && (tokenAt s h).isSome then [⟨.tokenArrival, { hearth := h }⟩] else []) ++
  (if x.token && x.tokenUsed + 256 ≤ s.cycle then [⟨.tokenIdleRelease, { hearth := h }⟩] else []) ++
  (if x.token && x.tokenSince + 65536 ≤ s.cycle && x.nextStart ≤ s.cycle then [⟨.tokenHoldExpiry, { hearth := h }⟩] else []) ++
  ([0, 1, 2, 3].filterMap fun i =>
    let b := x.subs.getD i {}
    if !b.gated && x.held.gate != 0 && b.lastStart + x.held.gate ≤ s.cycle then
      some ⟨.subarrayGate, { hearth := h, id := i }⟩
    else match b.waking with
      | some t => if t ≤ s.cycle then some ⟨.subarrayWake, { hearth := h, id := i }⟩ else none
      | none => none) ++
  (if ([0, 1, 2, 3, 4, 5, 6, 7].any fun i => !(s.core (8 * h + i)).lanes.isEmpty) then [⟨.vectorBind, { hearth := h }⟩] else []) ++
  (if ([0, 1, 2, 3, 4, 5, 6, 7].any fun i => (s.core (8 * h + i)).slots.any (·.2.atPort)) then
    [⟨.anvilPortAccept, { hearth := h }⟩] else [])

/-- The deadline of a launch fires (R173, R175): its Quench has not been announced, or for a higher cause in this
window. -/
def deadlineDue (s : State) (l : Nat) (x : Launch) : Bool :=
  !x.endFixed && x.status == 0 && x.lr.getD 16 0 != 0 && decide (fireTime x.lr ≤ s.ptp) &&
    match x.quench with
    | none => true
    | some c => decide (1 < c) && s.beats.any fun a => a.kind == .quench l c && a.window == s.cycle / 8

/-- The launch has a task in a slot of a core. -/
def holdsTask (s : State) (c l : Nat) : Bool :=
  (s.core c).slots.any fun p => p.2.held && p.2.launch == l && p.2.start != .trapContext

/-- A core stands at its copy point (R155): the launch is resident, and no task of it holds a slot or is owed one. -/
def atCopyPoint (s : State) (l c : Nat) : Bool :=
  (s.core c).resident == some l && !holdsTask s c l && !(s.core c).wrapupOwed

/-- A task or a kernel trap context of the launch holds a slot, or is owed one. (DEDUCED, log 51) -/
def anyTask (s : State) (l : Nat) : Bool :=
  s.cores.any fun p => (p.2.slots.any fun q => q.2.held && q.2.launch == l) || p.2.endedTraps.any fun e => e.2.2.2 == l

/-- A journal entry of the launch satisfies `p`. -/
def anyEntry (s : State) (l : Nat) (p : JEntry → Bool) : Bool :=
  s.cores.any fun k => k.2.journal.any fun j => j.used && !j.past && j.launch == l && p j

/-- A store of the launch waits for its line, or an element of an `ast` for a journal entry. -/
def anyStore (s : State) (l : Nat) : Bool :=
  (s.remotes.any fun p => p.2.launch == l && p.2.kind.isLine) ||
    s.hearths.any fun h => h.2.ops.any fun o => o.rest.any fun p => p.2.launch == l

/-- A Tongs command of the launch still has a write to perform. -/
def anyCommand (s : State) (l : Nat) : Bool :=
  s.cores.any fun k => (k.2.commands.any fun x => x.2.launch == l && !x.2.complete) ||
    (match tget k.2.saved l with
      | some x => !x.tongs.isEmpty
      | none => false)

/-- The launch is quiescent (R51). -/
def quiescent (s : State) (l : Nat) (x : Launch) : Bool :=
  !anyTask s l && x.inflight.sum == 0 && (x.ranges.all fun r => decide (r.2 ≤ r.1)) &&
    !(x.cores.any fun c => ((s.core c).resident == some l && !(s.core c).tiles.isEmpty) || match tget (s.core c).saved l with
      | some y => !y.tiles.isEmpty
      | none => false) &&
    !anyEntry s l (fun _ => true) && !anyStore s l && !anyCommand s l

/-- A launch without RESIDENT ends by quiescence (R51). -/
def endsQuiescent (s : State) (l : Nat) (x : Launch) : Bool :=
  x.state == .running && bitsOf (x.lr.getD 0 0).toNat 5 5 == 0 && !x.late && !x.quenched && !x.endFixed && x.status == 0 &&
    quiescent s l x

/-- Transmitters of a lease that have warmed (R272). -/
def joins (s : State) (x : Lease) : List Event :=
  x.txs.filterMap fun t => match t.2.1 with
    | .warming u => if u ≤ s.ptp then some ⟨.transmitterJoin, { port := t.1 / 17, id := t.1 % 17 }⟩ else none
    | _ => none

/-- Events of a launch whose cycle has come: its deadline (R175), its copy points (R155), its quiescence
(R51), the bounds of its barriers (R17), and its leases (R270-R272). (DEDUCED, log 58) -/
def launchTimers (s : State) (l : Nat) (x : Launch) : List Event :=
  (if deadlineDue s l x then [⟨.deadlineFire, { launch := l }⟩] else []) ++
  (if x.cut.inProgress then
    (x.cut.waiting.filter fun c => atCopyPoint s l c).map fun c => ⟨.cutCopyPoint, { launch := l, core := c }⟩
   else []) ++
  (if endsQuiescent s l x then [⟨.launchQuiescent, { launch := l }⟩] else []) ++
  (x.barriers.filterMap fun p => match p.2.due with
    | some t => if t ≤ s.cycle then some ⟨.barrierReleaseDelivery, { launch := l, id := p.1, n := p.2.gen }⟩ else none
    | none => none) ++
  (x.leases.flatMap fun p =>
    (match p.2.starving with
      | some t => if t + 10000 ≤ s.ptp then [⟨.starvationTimer, { launch := l, peer := p.1 }⟩] else []
      | none => []) ++
    joins s p.2)

/-- Events of a launch that what happens in the cycle can still stop: its sample takes in the notes of that cycle (R152),
and a packet enqueued in it stops a parking (R271). They come once every core has issued. (DEDUCED, log 58) -/
def launchClosing (s : State) (l : Nat) (x : Launch) : List Event :=
  (if s.cycle % 256 = 0 && x.state == .running then [⟨.convergenceSample, { launch := l }⟩] else []) ++
  x.leases.flatMap fun p =>
    let q := (tget x.linkSets p.1).getD {}
    if q.park ≠ 0 && p.2.lastFlit + 100 * q.park ≤ s.ptp && (p.2.txs.any fun t => t.2.1 == .active) then
      [⟨.parkDelayExpiry, { launch := l, peer := p.1 }⟩] else []

/-- Events of a launch that may happen: its placement, its range, its cut and its end. -/
def dueLaunch (l : Nat) (x : Launch) : List Event :=
  (match x.state with
    | .queued => [⟨.launchPlace, {}⟩]
    | .reserving => [⟨.gangCommit, { launch := l }⟩]
    | _ => [⟨.launchEndQuenched, { launch := l }⟩]) ++
  (if x.status = 0 then [] else [⟨.completionRecordWrite, { launch := l }⟩]) ++
  (if x.ranges.all fun r => decide (r.2 ≤ r.1) then []
   else (x.cores.map fun c => ⟨.rangeHandout, { core := c }⟩) ++
     [0, 1, 2, 3].map fun d => ⟨.rangeSteal, { launch := l, die := d }⟩) ++
  (if x.cut.inProgress then [⟨.cutComplete, { launch := l }⟩] else [])

/-- Launches that wait for an id and whose fire time has come (R175). -/
def backlogTimers (s : State) : List Event :=
  s.backlog.filterMap fun x =>
    if x.lr.getD 16 0 ≠ 0 && fireTime x.lr ≤ s.ptp then some ⟨.deadlineFire, { launch := 256, n := x.order }⟩ else none

/-- Tags whose sweep must end in this cycle, or has ended: they are swept in the first cycle in which nothing names them
(R160). -/
def sweepTimers (s : State) : List Event :=
  s.hyp.filterMap fun p =>
    if (p.2.state == .confirmed || p.2.state == .sweeping) && (p.2.sweepDone || p.2.sweepBy ≤ s.cycle) then
      some ⟨.sweepEnd, { id := p.1 }⟩ else none

/-- Sweeps of tags that are confirmed or refuted (R160). -/
def dueSweeps (s : State) : List Event :=
  s.hyp.filterMap fun p =>
    if p.2.state == .confirmed || p.2.state == .sweeping then some ⟨.sweepEnd, { id := p.1 }⟩ else none

/-- Key of a queue's descriptor. -/
def State.queueKeyOf (s : State) (q : Nat) : Nat := s.queueBase + 64 * q

/-- A dword of a queue's descriptor. -/
def queueDword (s : State) (q i : Nat) : Nat := memNat s.mem (s.queueKeyOf q + 8 * i) 8

/-- The absolute index of the next dword to execute. -/
def queueConsumer (s : State) (q : Nat) : Nat := queueDword s q 2

/-- Queues that have something to execute: what they await may have come (R189). -/
def dueQueues (s : State) : List Event :=
  s.queues.flatMap fun p =>
    if p.2.enabled && !p.2.stopped && decide (queueConsumer s p.1 < p.2.latched) then
      [.packetNop, .packetDispatch, .packetStop, .packetIndirect, .packetStatus].map fun i => (⟨i, { queue := p.1 }⟩ : Event)
    else []

/-- Remote accesses that have not reached their holder (R115). -/
def dueRemotes (s : State) : List Event :=
  s.remotes.filterMap fun p =>
    if p.2.stage == .sent && p.2.peer.isNone then some ⟨.remoteAccessAtTarget, { id := p.1 }⟩ else none

/-- Timers of a stream: its flit boundaries (R275), and those of R276 and R278. -/
def streamTimers (s : State) (key : Nat) (x : Stream) : List Event :=
  let a : Args := { die := key / 64, peer := key % 64 }
  (if x.hasFlits && natMem s.linked (key % 64) && x.nextBoundary ≤ boundary s then [⟨.streamFlitSend, a⟩] else []) ++
  (match x.rxGap with
    | some t => if t + 16 ≤ s.ptp then [⟨.replayRequestTimer, a⟩] else []
    | none => []) ++
  (if x.rxNext ≠ x.rxAcked && x.rxAckTime + 256 ≤ s.ptp then [⟨.ackTimer, a⟩] else []) ++
  (if x.unacked.any fun u => u.2.2.1 + 2000 < s.ptp then [⟨.replayTimeout, a⟩] else []) ++
  (if !x.unacked.isEmpty && x.ackedAt + 100000 ≤ s.ptp then [⟨.peerUnreachable, a⟩] else [])

/-- Requests of a peer that its die has not served, and responses it has not matched (R274). -/
def dueStream (key : Nat) (x : Stream) : List Event :=
  x.rxPackets.filterMap fun p => (packetHandler p.kind).map fun i => ⟨i, { die := key / 64, peer := key % 64 }⟩

/-- Dies that may start warming a transmitter (R272). -/
def warmingTimers (s : State) : List Event :=
  [0, 1, 2, 3].filterMap fun d =>
    let here := fun x : Lease => x.die == d && x.txs.any fun t => t.2.1 == .warmWait
    let waits := (s.launches.any fun l => l.2.leases.any fun q => here q.2) || s.endingLeases.any fun e => here e.2.2
    if waits && s.warmAt.getD d 0 ≤ s.ptp then some ⟨.warmingStart, { die := d }⟩ else none

/-- The request of a core for a line that is to arrive at its home (R250): one outstanding, or the Put of a line in its
write-back buffer. -/
def lateRequest (s : State) (line c : Nat) : Option CohReq :=
  match tget (s.core c).cohReqs line, tget (s.core c).writeback line with
  | some q, _ => some q
  | none, some .m => some .putM
  | none, some .o => some .putO
  | none, some .e => some .putE
  | none, some _ => some .putS
  | none, none => none

/-- The events that bring what a home is doing further, but for holders that cannot be reached (R259). -/
def homeMoves (line : Nat) (h : Home) : List Event :=
  let at_ := fun (i : Instr) (c : Nat) => (⟨i, { core := c, id := line }⟩ : Event)
  let acks := fun (w : List Nat) (t : Nat) => (w.filter fun c => !Config.unreachable c t).flatMap fun c =>
    [at_ .grantReceived c, at_ .invalidation c, at_ .invAck c]
  match h.trans with
  | .none => [at_ .memoryDataReturn 0]
  | .memRd _ _ => [at_ .memoryDataReturn 0]
  | .invFan _ _ w t => acks w t
  | .hostSnp _ w t => acks w t
  | .fence _ w t _ => acks w t
  | .fwd _ q o _ => [at_ .grantReceived o, at_ (if q == .getS then .fwdGets else .fwdGetx) o, at_ .forwardResponse 0]

/-- A snoop of the host has waited so long for its answer that its home must bring it on, to answer within 2,048 cycles (R255):
the last eight are for the steps this takes. -/
def HomeReq.late (now : Nat) : HomeReq → Bool
  | .host (.snoop _ _ _ t) => decide (t + 2040 ≤ now)
  | _ => false

def Home.snoopLate (h : Home) (now : Nat) : Bool :=
  h.waiting.any (·.late now) || match h.trans with
    | .hostSnp op _ _ => (HomeReq.host op).late now
    | .fence r _ _ _ => r.late now
    | _ => false

/-- Homes whose memory has answered, or whose requests wait for a hearth or a stack to wake (R251, R284). -/
def dueHomes (s : State) : List Event :=
  s.homes.filterMap fun p =>
    let e : Event := ⟨.memoryDataReturn, { id := p.1 }⟩
    match p.2.trans with
    | .memRd _ _ => some e
    | .none => if p.2.waiting.isEmpty then none else some e
    | _ => none

/-- Invalidations that a holder has not acknowledged in 8,192 cycles (R259), snoops of the host that must be answered (R255), and
requests that arrive in this cycle (R250). -/
def homeTimers (s : State) : List Event :=
  s.homes.flatMap fun p =>
    let late := fun (w : List Nat) (t : Nat) =>
      if t + 8192 ≤ s.cycle then w.map fun c => (⟨.invalidationTimeout, { core := c, id := p.1 }⟩ : Event) else []
    (match p.2.trans with
    | .invFan _ _ w t => late w t
    | .hostSnp _ w t => late w t
    | _ => []) ++ (if p.2.snoopLate s.cycle then homeMoves p.1 p.2 else []) ++ p.2.late.filterMap fun c => (lateRequest s p.1 c).map fun r => r.event c p.1

/-- A host accepts some wake latency. -/
def State.mayIdle (s : State) : Bool := !(s.tolerance.all (· == 0) && s.portUp.all id)

/-- Idle states that a unit enters after a time (R283): a hearth after 64 µs of clock gating, a stack 10 µs after its last
access. -/
def idleTimers (s : State) : List Event :=
  if !s.mayIdle then []
  else
    (s.hearths.filterMap fun p =>
      if p.2.clockGated && !p.2.powerGated && p.2.idleSince + 64000 ≤ s.ptp then some ⟨.powerGateTimer, { hearth := p.1 }⟩ else none) ++
    ((List.range 12).filterMap fun i =>
      if !s.selfRefresh.getD i false && s.hbmAccess.getD i 0 + 10000 ≤ s.ptp then some ⟨.hbmSelfRefresh, { id := i }⟩ else none)

/-- Idle states that units may enter, once a host accepts any wake latency (R283). -/
def dueIdle (s : State) : List Event :=
  if !s.mayIdle then []
  else
    (s.hearths.filterMap fun p => if p.2.clockGated then none else some ⟨.clockGate, { hearth := p.1 }⟩) ++
    ([0, 1, 2, 3].filterMap fun d =>
      let ready := [0, 1, 2].all fun i => s.selfRefresh.getD (3 * d + i) false
      if s.powerParked.getD d false || !ready then none else some ⟨.diePowerPark, { die := d }⟩)

/-- The windows of announcements whose delivery cycle has come, the earliest first. -/
def beatTimers (s : State) : List Event :=
  match (s.beats.filter fun a => Config.beatDelivery a.window ≤ s.cycle).map (·.window) with
  | [] => []
  | w :: r => [⟨.beatDelivery, { n := r.foldl min w }⟩]

/-- Messages that reach their core (R45) and retries (R46) whose cycle has come. -/
def transitTimers (s : State) : List Event :=
  s.transits.filterMap fun p => match p.2.leg with
    | .waiting t => if t ≤ s.cycle then some ⟨.retryTimer, { id := p.1 }⟩ else none
    | .next t => if t ≤ s.cycle then some ⟨.messageArrival, { id := p.1 }⟩ else none
    | _ => none

/-- Peers whose slots are trained again (R278), the scrub of HBM (R285), and the last nanosecond of a restart of scheduler firmware
(R190). -/
def serviceTimers (s : State) : List Event :=
  (if s.restarting && s.restartBy ≤ s.ptp then [⟨.schedulerFirmwareRestart, {}⟩] else []) ++
  (s.retrainAt.filterMap fun p => if p.2 ≤ s.ptp then some ⟨.linkRetrain, { peer := p.1 }⟩ else none) ++
    (if s.boot == .running && s.scrubAt ≤ s.ptp then [⟨.hbmScrub, {}⟩] else [])

/-- Every event whose cycle this is: a figure that the manual gives as an exact count binds exactly, and a bound is the
last cycle (R1). (DESIGN CHOICE, log 6) -/
def timersOf (s : State) : List Event :=
  beatTimers s ++ (s.launches.flatMap fun p => launchTimers s p.1 p.2) ++ backlogTimers s ++
    (s.cores.flatMap fun p => coreTimers s.cycle p.1 p.2) ++ (s.hearths.flatMap fun p => hearthTimers s p.1 p.2) ++
    transitTimers s ++ homeTimers s ++ (s.streams.flatMap fun p => streamTimers s p.1 p.2) ++ warmingTimers s ++
    (s.endingLeases.flatMap fun e => joins s e.2.2) ++ serviceTimers s ++ sweepTimers s ++ idleTimers s

/-- Every event that may happen and has no cycle of its own. (DESIGN CHOICE, log 6) -/
def due (s : State) : List Event :=
  (s.cores.flatMap fun p => dueCore p.1 p.2) ++ dueRemotes s ++ dueHomes s ++ dueQueues s ++ (s.streams.flatMap fun p => dueStream p.1 p.2) ++
    dueSweeps s ++ (s.retiring.map fun h => ⟨.hearthRetire, { hearth := h }⟩) ++ dueIdle s ++
    (s.launches.flatMap fun p => dueLaunch p.1 p.2)

/-- A cycle passes: the events whose cycle has come are to happen before anything else, and those that may happen stand
in the agenda. (DESIGN CHOICE, log 6) -/
def elapse (s : State) : State :=
  let s := landWords (tick s)
  { s.pokeAll (due s) with timers := timersOf s, closing := s.launches.flatMap fun p => launchClosing s p.1 p.2 }

/-! ### Whose turn it is (R28) -/

/-- The slot's issued instruction waits for nothing but another try (R28), and no `xpop` value is on its way (R244). -/
def Slot.ready (sl : Slot) : Bool :=
  sl.held && (sl.stall == .none || sl.stall == .held) && !sl.owed.any (·.holds)

/-- The launch has failed: its tasks are aborted at their next boundary (R213, R222, R259). (DEDUCED, log 26) -/
def State.failing (s : State) (l : Nat) : Bool :=
  match s.launch? l with
  | some x => decide (3 ≤ x.status)
  | none => false

/-- A failed launch's task stands at a boundary, where it is aborted; a kernel trap context runs on (R213, R222).
(DEDUCED, log 26) -/
def State.aborts (s : State) (sl : Slot) : Bool :=
  sl.held && s.failing sl.launch && (sl.stopped || sl.stall == .none) && (sl.stopped || sl.start != .trapContext)

/-- The slot takes turns: its core issues from it. -/
def State.takesTurn (s : State) (c t : Nat) : Bool :=
  let sl := s.slotAt c t
  s.boot == .running && (s.aborts sl || (!sl.stopped && sl.ready))

/-- The core has found the slot's instruction waiting in this cycle (R28). -/
def Core.passedOver (k : Core) (now t : Nat) : Bool := k.passed.1 == now + 1 && natMem k.passed.2 t

/-- The slot of a core that issues next, round-robin among those that take turns; slots that wait are passed over
(R28, R205). -/
def nextSlot (s : State) (c : Nat) : Option Nat :=
  ([1, 2, 3, 4].map fun i => ((s.core c).lastSlot + i) % 4).find? fun t =>
    s.takesTurn c t && !(s.core c).passedOver s.cycle t

/-- The core has issued in this cycle. -/
def State.issued (s : State) (c : Nat) : Bool := (s.core c).issuedAt == s.cycle + 1

/-- The next core of the cycle: the lowest that has not issued and has a slot that does. (DESIGN CHOICE, log 6) -/
def nextCore (s : State) : Option Nat :=
  let l := (tkeys s.cores).filter fun c => !s.issued c && (nextSlot s c).isSome
  l.head?

/-- A core takes a slot's turn. -/
def State.takeTurn (s : State) (c t : Nat) : State :=
  { (s.modCore c fun k => { k with lastSlot := t, issuedAt := s.cycle + 1 }).modSlotAt c t fun sl => { sl with
      waiting := false } with cur := (c, t) }

/-- A slot's try is no issue of its core (R28): its instruction waits, or had issued before and was only tried again. -/
def State.noIssue (s v : State) (c t : Nat) : Bool := (s.slotAt c t).stall == .held || (v.slotAt c t).waiting

/-- The core passes the slot over for this cycle, at no cost: its turn is still to come, and the schedule's too. -/
def State.passOver (s v : State) (c t : Nat) : State :=
  { v.modCore c fun k => { k with
      lastSlot := (s.core c).lastSlot, issuedAt := (s.core c).issuedAt
      passed := (s.cycle + 1, if (s.core c).passed.1 == s.cycle + 1 then t :: (s.core c).passed.2 else [t]) } with
    turns := s.turns }

/-- What the try of a slot comes to for its core. -/
def State.afterTry (s : State) (c t : Nat) (o : Host.Outcome State Fault Refusal) : Host.Outcome State Fault Refusal :=
  match o with
  | .next v => .next (if s.noIssue v c t then s.passOver v c t else v)
  | o => o

end Sys2Proof.Machine
end

