-- ==== Sys2Proof/Machine/Flags.lean ====
section
/-! DEFINITION. Floating point: exact values, the one rounding of R88-R91, the IEEE flags, comparisons, conversions
(R92, R98, R306, R307), narrow formats (R95, R96), and how flags reach `FP.STAT` and trap (R90). -/

namespace Sys2Proof.Machine

/-! ### Flags (R73, R89): NV DZ OF UF NX in bits 4-0 -/

def flNV : Nat := 16
def flDZ : Nat := 8
def flOF : Nat := 4
def flUF : Nat := 2
def flNX : Nat := 1

def flagIf (b : Bool) (f : Nat) : Nat := if b then f else 0

/-- The rounding in force and whether the UF trap is enabled (R88, R89). -/
structure FpEnv where
  rm : Rounding
  ufTrap : Bool
  deriving DecidableEq, Repr

/-- The rounding that a code of `FP.CTRL` [2:0] names (R88). -/
def roundingOf (n : Nat) : Rounding :=
  match n with
  | 1 => .rtz
  | 2 => .rup
  | 3 => .rdn
  | 4 => .rna
  | _ => .rne

def Slot.fpEnv (sl : Slot) : FpEnv := ⟨roundingOf (sl.fpCtrl.toNat % 8), sl.fpCtrl.getLsbD 4⟩

/-- The rounding a field of `fcvt`, `frint` or `ast` names; code 7 takes `FP.CTRL` (R88). -/
def FpEnv.with (e : FpEnv) (r : RndField) : FpEnv :=
  match r with
  | .mode m => { e with rm := m }
  | .dyn => e

/-! ### Formats and values -/

/-- A binary format with infinities and NaNs as IEEE 754 has them (R87). -/
structure FpFmt where
  exp : Nat
  frac : Nat
  deriving DecidableEq, Repr

def fp64 : FpFmt := ⟨11, 52⟩
def fp32 : FpFmt := ⟨8, 23⟩
def fp16 : FpFmt := ⟨5, 10⟩
def bf16 : FpFmt := ⟨8, 7⟩

def FpFmt.bias (f : FpFmt) : Nat := 2 ^ (f.exp - 1) - 1
def FpFmt.width (f : FpFmt) : Nat := 1 + f.exp + f.frac

/-- The default NaN (R91). -/
def FpFmt.nan (f : FpFmt) : Nat := (2 ^ f.exp - 1) * 2 ^ f.frac + 2 ^ (f.frac - 1)

def FpFmt.signBit (f : FpFmt) (neg : Bool) : Nat := if neg then 2 ^ (f.exp + f.frac) else 0
def FpFmt.inf (f : FpFmt) (neg : Bool) : Nat := f.signBit neg + (2 ^ f.exp - 1) * 2 ^ f.frac
def FpFmt.maxFinite (f : FpFmt) (neg : Bool) : Nat := f.inf neg - 1

/-- A value: NaN, an infinity, or (-1)^neg * m * 2^e; m = 0 is a zero with its sign. -/
inductive FVal where
  | nan
  | inf (neg : Bool)
  | num (neg : Bool) (m : Nat) (e : Int)
  deriving DecidableEq, Repr

/-- The sign, exponent field and fraction field of bits. -/
def FpFmt.sign (f : FpFmt) (x : Nat) : Bool := x / 2 ^ (f.exp + f.frac) % 2 == 1
def FpFmt.expField (f : FpFmt) (x : Nat) : Nat := x / 2 ^ f.frac % 2 ^ f.exp
def FpFmt.fracField (f : FpFmt) (x : Nat) : Nat := x % 2 ^ f.frac

def FpFmt.val (f : FpFmt) (x : Nat) : FVal :=
  let e := f.expField x
  let m := f.fracField x
  if e = 2 ^ f.exp - 1 then (if m = 0 then .inf (f.sign x) else .nan)
  else if e = 0 then .num (f.sign x) m (1 - (f.bias : Int) - f.frac)
  else .num (f.sign x) (2 ^ f.frac + m) ((e : Int) - f.bias - f.frac)

def FpFmt.isNan (f : FpFmt) (x : Nat) : Bool := f.val x == .nan

/-- A signalling NaN: its leading fraction bit is 0. -/
def FpFmt.isSnan (f : FpFmt) (x : Nat) : Bool := f.isNan x && x / 2 ^ (f.frac - 1) % 2 == 0

/-! ### Rounding (R88, R89) -/

/-- Whether a magnitude is rounded up: by mode, sign, the last kept bit, and the part cut off against one half. -/
def roundUp (rm : Rounding) (neg odd : Bool) (rest half : Nat) : Bool :=
  match rm with
  | .rne => half < rest || (rest == half && odd)
  | .rtz => false
  | .rup => !neg && rest != 0
  | .rdn => neg && rest != 0
  | .rna => half ≤ rest

/-- Rounds m * 2^e to a whole multiple of 2^q: the multiple, and whether it is inexact. -/
def roundTo (rm : Rounding) (neg : Bool) (m : Nat) (e q : Int) : Nat × Bool :=
  if q ≤ e then (m * 2 ^ (e - q).toNat, false)
  else
    let sh := (q - e).toNat
    let n := m / 2 ^ sh
    let rest := m % 2 ^ sh
    -- one half of 2^sh, in units that keep sh = 0 out of reach
    (n + (if roundUp rm neg (n % 2 == 1) rest (2 ^ (sh - 1)) then 1 else 0), rest != 0)

/-- What rounding a non-zero magnitude to `frac` fraction bits above exponent `emin` gives: the multiple n of 2^q, and
whether the result is inexact and tiny after rounding (R89). -/
structure Rounded where
  n : Nat
  q : Int
  inexact : Bool
  tiny : Bool

def roundMag (frac : Nat) (emin : Int) (rm : Rounding) (neg : Bool) (m : Nat) (e : Int) : Rounded :=
  let top := (Nat.log2 m : Int) + e
  let q := max (top - frac) (emin - frac)
  let r := roundTo rm neg m e q
  let u := roundTo rm neg m e (top - frac)
  { n := r.1, q := q, inexact := r.2
    tiny := decide (top < emin) && !(decide (top = emin - 1) && u.1 == 2 ^ (frac + 1)) }

/-- The exponent and fraction fields of a rounded magnitude, carrying into the exponent where n has grown. -/
def fieldsOf (frac : Nat) (bias : Int) (r : Rounded) : Nat :=
  if r.n < 2 ^ frac then r.n else ((r.q + frac + bias).toNat) * 2 ^ frac + (r.n - 2 ^ frac)

/-- Overflow by rounding direction goes to an infinity, or stays at the largest finite (R98, IEEE). -/
def overflowsToInf (rm : Rounding) (neg : Bool) : Bool :=
  match rm with
  | .rne => true
  | .rna => true
  | .rtz => false
  | .rup => !neg
  | .rdn => neg

/-- RoundFP of an exact value (R7): bits and flags. -/
def FpFmt.round (f : FpFmt) (env : FpEnv) (neg : Bool) (m : Nat) (e : Int) : Nat × Nat :=
  if m = 0 then (f.signBit neg, 0)
  else
    let r := roundMag f.frac (1 - (f.bias : Int)) env.rm neg m e
    let bits := fieldsOf f.frac f.bias r
    if (2 ^ f.exp - 1) * 2 ^ f.frac ≤ bits then
      (if overflowsToInf env.rm neg then f.inf neg else f.maxFinite neg, flOF + flNX)
    else (f.signBit neg + bits, flagIf (r.tiny && (r.inexact || env.ufTrap)) flUF + flagIf r.inexact flNX)

/-! ### Arithmetic (R337, R343, R348) -/

/-- An exact signed value m * 2^e as an integer multiple of 2^q, q at most e. -/
def scaled (neg : Bool) (m : Nat) (e q : Int) : Int :=
  let v : Int := m * 2 ^ (e - q).toNat
  if neg then -v else v

/-- The exact sum of two finite values, rounded. An exact zero takes the sign of R337. -/
def FpFmt.sum (f : FpFmt) (env : FpEnv) (n1 : Bool) (m1 : Nat) (e1 : Int) (n2 : Bool) (m2 : Nat) (e2 : Int) : Nat × Nat :=
  let q := min e1 e2
  let v := scaled n1 m1 e1 q + scaled n2 m2 e2 q
  if v = 0 then
    (f.signBit (if m1 = 0 && m2 = 0 && n1 == n2 then n1 else env.rm == .rdn), 0)
  else f.round env (decide (v < 0)) v.natAbs q

/-- NV for signalling operands. -/
def FpFmt.snans (f : FpFmt) (xs : List Nat) : Nat := flagIf (xs.any f.isSnan) flNV

def FpFmt.neg (f : FpFmt) (x : Nat) : Nat :=
  if f.sign x then x - 2 ^ (f.exp + f.frac) else x + 2 ^ (f.exp + f.frac)

def FpFmt.add (f : FpFmt) (env : FpEnv) (x y : Nat) : Nat × Nat :=
  match f.val x, f.val y with
  | .nan, _ => (f.nan, f.snans [x, y])
  | _, .nan => (f.nan, f.snans [x, y])
  | .inf a, .inf b => if a == b then (f.inf a, 0) else (f.nan, flNV)
  | .inf a, _ => (f.inf a, 0)
  | _, .inf b => (f.inf b, 0)
  | .num n1 m1 e1, .num n2 m2 e2 => f.sum env n1 m1 e1 n2 m2 e2

/-- Subtraction: the second operand's sign is inverted; a NaN stays a NaN. -/
def FpFmt.sub (f : FpFmt) (env : FpEnv) (x y : Nat) : Nat × Nat := f.add env x (f.neg y)

def FpFmt.mul (f : FpFmt) (env : FpEnv) (x y : Nat) : Nat × Nat :=
  match f.val x, f.val y with
  | .nan, _ => (f.nan, f.snans [x, y])
  | _, .nan => (f.nan, f.snans [x, y])
  | .inf a, .inf b => (f.inf (a != b), 0)
  | .inf a, .num b m _ => if m = 0 then (f.nan, flNV) else (f.inf (a != b), 0)
  | .num a m _, .inf b => if m = 0 then (f.nan, flNV) else (f.inf (a != b), 0)
  | .num a m e, .num b m' e' => f.round env (a != b) (m * m') (e + e')

/-- A quotient of magnitudes with a last bit that says whether a remainder was left. -/
def stickyQuot (m m' : Nat) : Nat :=
  let n := m * 2 ^ 120
  2 * (n / m') + (if n % m' = 0 then 0 else 1)

def FpFmt.div (f : FpFmt) (env : FpEnv) (x y : Nat) : Nat × Nat :=
  match f.val x, f.val y with
  | .nan, _ => (f.nan, f.snans [x, y])
  | _, .nan => (f.nan, f.snans [x, y])
  | .inf _, .inf _ => (f.nan, flNV)
  | .inf a, .num b _ _ => (f.inf (a != b), 0)
  | .num a _ _, .inf b => (f.signBit (a != b), 0)
  | .num a m e, .num b m' e' =>
    if m' = 0 then (if m = 0 then (f.nan, flNV) else (f.inf (a != b), flDZ))
    else f.round env (a != b) (stickyQuot m m') (e - e' - 121)

/-- The whole square root by digits, from bit `n` down. -/
def isqrtFrom (x : Nat) : Nat → Nat → Nat
  | 0, r => if (r + 1) * (r + 1) ≤ x then r + 1 else r
  | n + 1, r =>
    let r' := r + 2 ^ (n + 1)
    isqrtFrom x n (if r' * r' ≤ x then r' else r)

def isqrt (x : Nat) : Nat := isqrtFrom x (Nat.log2 x / 2) 0

def FpFmt.sqrt (f : FpFmt) (env : FpEnv) (x : Nat) : Nat × Nat :=
  match f.val x with
  | .nan => (f.nan, f.snans [x])
  | .inf true => (f.nan, flNV)
  | .inf false => (f.inf false, 0)
  | .num neg m e =>
    if m = 0 then (f.signBit neg, 0)
    else if neg then (f.nan, flNV)
    else
      let sh := 128 + (e % 2).toNat
      let v := m * 2 ^ sh
      let r := isqrt v
      f.round env false (2 * r + (if r * r = v then 0 else 1)) ((e - sh) / 2 - 1)

/-- a * b + c with one rounding, the product and the addend negated as asked (R343). -/
def FpFmt.fma (f : FpFmt) (env : FpEnv) (np nc : Bool) (x y z : Nat) : Nat × Nat :=
  let nv := f.snans [x, y, z]
  let bad : Nat × Nat := (f.nan, flNV)
  let anyNan := f.isNan x || f.isNan y || f.isNan z
  match f.val x, f.val y with
  | .inf _, .num _ 0 _ => bad
  | .num _ 0 _, .inf _ => bad
  | .inf a, .inf b =>
    if anyNan then (f.nan, nv) else
    match f.val z with
    | .inf c => if ((a != b) != np) == (c != nc) then (f.inf (c != nc), 0) else bad
    | _ => (f.inf ((a != b) != np), 0)
  | .inf a, .num b _ _ =>
    if anyNan then (f.nan, nv) else
    match f.val z with
    | .inf c => if ((a != b) != np) == (c != nc) then (f.inf (c != nc), 0) else bad
    | _ => (f.inf ((a != b) != np), 0)
  | .num a _ _, .inf b =>
    if anyNan then (f.nan, nv) else
    match f.val z with
    | .inf c => if ((a != b) != np) == (c != nc) then (f.inf (c != nc), 0) else bad
    | _ => (f.inf ((a != b) != np), 0)
  | .num a m e, .num b m' e' =>
    match f.val z with
    | .nan => (f.nan, nv)
    | .inf c => (f.inf (c != nc), 0)
    | .num c m'' e'' => f.sum env ((a != b) != np) (m * m') (e + e') (c != nc) m'' e''
  | _, _ => (f.nan, nv)

/-- Order of two values that are not NaN: whether the first is below the second. -/
def FVal.lt : FVal → FVal → Bool
  | .nan, _ => false
  | _, .nan => false
  | .inf a, .inf b => a && !b
  | .inf a, _ => a
  | _, .inf b => !b
  | .num n1 m1 e1, .num n2 m2 e2 => decide (scaled n1 m1 e1 (min e1 e2) < scaled n2 m2 e2 (min e1 e2))

def FVal.eq : FVal → FVal → Bool
  | .inf a, .inf b => a == b
  | .num n1 m1 e1, .num n2 m2 e2 => decide (scaled n1 m1 e1 (min e1 e2) = scaled n2 m2 e2 (min e1 e2))
  | _, _ => false

/-- IEEE minimum or maximum with -0 below +0 (R91, R344). -/
def FpFmt.pick (f : FpFmt) (max : Bool) (x y : Nat) : Nat × Nat :=
  if f.isNan x || f.isNan y then (f.nan, f.snans [x, y])
  else
    let below := FVal.lt (f.val x) (f.val y) || (FVal.eq (f.val x) (f.val y) && f.sign x && !f.sign y)
    (if below == max then y else x, 0)

/-- `fcmp` (R339). -/
def FpFmt.cmp (f : FpFmt) (c : FCond) (x y : Nat) : Bool × Nat :=
  let nan := f.isNan x || f.isNan y
  let quiet := f.snans [x, y]
  let loud := flagIf nan flNV
  let a := f.val x
  let b := f.val y
  match c with
  | .eq => (FVal.eq a b, quiet)
  | .lt => (FVal.lt a b, loud)
  | .le => (FVal.lt a b || FVal.eq a b, loud)
  | .un => (nan, quiet)
  | .eqSig => (FVal.eq a b, loud)

/-- `fclass` (R338). -/
def FpFmt.classify (f : FpFmt) (x : Nat) : Nat :=
  let neg := f.sign x
  match f.val x with
  | .nan => if f.isSnan x then 2 ^ 0 else 2 ^ 1
  | .inf n => if n then 2 ^ 2 else 2 ^ 9
  | .num _ m _ =>
    if m = 0 then (if neg then 2 ^ 5 else 2 ^ 6)
    else if f.expField x = 0 then (if neg then 2 ^ 4 else 2 ^ 7)
    else (if neg then 2 ^ 3 else 2 ^ 8)

/-- `frint` (R346): an integral value of the format. -/
def FpFmt.rint (f : FpFmt) (env : FpEnv) (x : Nat) : Nat × Nat :=
  match f.val x with
  | .nan => (f.nan, f.snans [x])
  | .inf _ => (x, 0)
  | .num neg m e =>
    if m = 0 then (x, 0)
    else
      let r := roundTo env.rm neg m e 0
      ((f.round ⟨env.rm, false⟩ neg r.1 0).1, flagIf r.2 flNX)

/-! ### Conversions (R92, R306, R307) -/

/-- A value to another format (IEEE conversion). -/
def FpFmt.to (f g : FpFmt) (env : FpEnv) (x : Nat) : Nat × Nat :=
  match f.val x with
  | .nan => (g.nan, f.snans [x])
  | .inf n => (g.inf n, 0)
  | .num n m e => g.round env n m e

/-- Rounds a finite value to an integer. -/
def roundInt (rm : Rounding) (neg : Bool) (m : Nat) (e : Int) : Int × Bool :=
  let r := roundTo rm neg m e 0
  (if neg then -(r.1 : Int) else r.1, r.2)

/-- A value to an integer of a range (R92). -/
def toInteger (rm : Rounding) (sat : Bool) (lo hi : Int) (v : FVal) : Int × Nat :=
  match v with
  | .nan => if sat then (0, flNX) else (hi, flNV)
  | .inf n => (if n then lo else hi, if sat then flNX else flNV)
  | .num neg m e =>
    let r := roundInt rm neg m e
    if r.1 < lo then (lo, if sat then flNX else flNV)
    else if hi < r.1 then (hi, if sat then flNX else flNV)
    else (r.1, flagIf r.2 flNX)

/-- An integer to a format (R92): only NX and OF arise. -/
def FpFmt.ofInt (f : FpFmt) (env : FpEnv) (v : Int) : Nat × Nat := f.round env (decide (v < 0)) v.natAbs 0

/-! ### Narrow formats (R95, R96, R98) -/

/-- Exponent bits, fraction bits and bias of a narrow float by its MODE code. -/
def narrowFloat (mode : Nat) : Option (Nat × Nat × Nat) :=
  match mode with
  | 4 => some (4, 3, 7)
  | 5 => some (5, 2, 15)
  | 6 => some (3, 2, 3)
  | 7 => some (2, 3, 1)
  | 8 => some (2, 1, 1)
  | _ => none

/-- Bits of an element of a narrow format (R99). -/
def narrowWidth (mode : Nat) : Nat :=
  match mode with
  | 4 => 8 | 5 => 8 | 6 => 6 | 7 => 6 | 8 => 4 | 9 => 8 | 10 => 8 | 11 => 4 | _ => 4

/-- The range of a narrow integer format (R96). -/
def narrowRange (mode : Nat) : Int × Int :=
  match mode with
  | 9 => (-128, 127)
  | 10 => (0, 255)
  | 11 => (-8, 7)
  | _ => (0, 15)

/-- The signed or unsigned value of a narrow integer code. -/
def narrowInt (mode code : Nat) : Int :=
  let w := narrowWidth mode
  let c := code % 2 ^ w
  if (mode == 9 || mode == 11) && 2 ^ (w - 1) ≤ c then (c : Int) - 2 ^ w else c

/-- The value of a narrow float code under a reading of the top exponent code (R95). -/
def narrowVal (mode : Nat) (extended : Bool) (code : Nat) : FVal :=
  match narrowFloat mode with
  | none => .num (decide (narrowInt mode code < 0)) (narrowInt mode code).natAbs 0
  | some (eb, fb, bias) =>
    let neg := code / 2 ^ (eb + fb) % 2 == 1
    let e := code / 2 ^ fb % 2 ^ eb
    let m := code % 2 ^ fb
    if !extended && e == 2 ^ eb - 1 then (if m = 0 then .inf neg else .nan)
    else if extended && mode == 4 && e == 15 && m == 7 then .nan
    else if e = 0 then .num neg m (1 - (bias : Int) - fb)
    else .num neg (2 ^ fb + m) ((e : Int) - bias - fb)

/-- The largest finite code, without sign. -/
def narrowMax (mode eb fb : Nat) (extended : Bool) : Nat :=
  if !extended then (2 ^ eb - 1) * 2 ^ fb - 1
  else if mode == 4 then 2 ^ (eb + fb) - 2 else 2 ^ (eb + fb) - 1

/-- A value into a narrow float (R98); `sig` says that a NaN signals. (DEDUCED, log 83) -/
def toNarrow (mode : Nat) (extended sat sig : Bool) (env : FpEnv) (v : FVal) : Nat × Nat :=
  match narrowFloat mode with
  | none => (0, 0)
  | some (eb, fb, bias) =>
    let sgn := fun neg : Bool => if neg then 2 ^ (eb + fb) else 0
    let mx := narrowMax mode eb fb extended
    match v with
    | .nan =>
      if !extended then ((2 ^ eb - 1) * 2 ^ fb + 2 ^ (fb - 1), flagIf sig flNV)
      else if mode == 4 then (0x7F, flagIf sig flNV) else (0, flNV)
    | .inf neg => if !extended then (sgn neg + (2 ^ eb - 1) * 2 ^ fb, 0) else (sgn neg + mx, flNX)
    | .num neg m e =>
      if m = 0 then (sgn neg, 0)
      else
        let r := roundMag fb (1 - (bias : Int)) env.rm neg m e
        let bits := fieldsOf fb bias r
        if mx < bits then
          (sgn neg + (if !extended && !sat && overflowsToInf env.rm neg then (2 ^ eb - 1) * 2 ^ fb else mx), flOF + flNX)
        else (sgn neg + bits, flagIf (r.tiny && (r.inexact || env.ufTrap)) flUF + flagIf r.inexact flNX)

/-- The product of two values, exact. -/
def FVal.times : FVal → FVal → FVal
  | .nan, _ => .nan
  | _, .nan => .nan
  | .inf a, .inf b => .inf (a != b)
  | .inf a, .num b m _ => if m = 0 then .nan else .inf (a != b)
  | .num a m _, .inf b => if m = 0 then .nan else .inf (a != b)
  | .num a m e, .num b m' e' => .num (a != b) (m * m') (e + e')

/-- The product is a NaN that neither factor is: 0 times an infinity. -/
def FVal.invalidTimes (a b : FVal) : Bool := a.times b == .nan && a != .nan && b != .nan

/-- A narrow integer of a value, with a zero point added before the clamp (R307). -/
def toNarrowInt (mode : Nat) (sat : Bool) (rm : Rounding) (z : Nat) (v : FVal) : Nat × Nat :=
  let r := narrowRange mode
  match v with
  | .num neg m e =>
    let q := roundInt rm neg m e
    let x := q.1 + z
    let w := 2 ^ narrowWidth mode
    let out := fun i : Int => (i % w).toNat
    if x < r.1 then (out r.1, if sat then flNX else flNV)
    else if r.2 < x then (out r.2, if sat then flNX else flNV)
    else (out x, flagIf q.2 flNX)
  | v =>
    let x := toInteger rm sat r.1 r.2 v
    ((x.1 % (2 ^ narrowWidth mode : Nat)).toNat, x.2)

/-- A 64-bit pattern from an integer of `n` bits. -/
def bitsOfInt (n : Nat) (v : Int) : Nat := (v % (2 ^ n : Nat)).toNat

/-- Integer ranges by width and sign. -/
def intRange (n : Nat) (signed : Bool) : Int × Int :=
  if signed then (-(2 ^ (n - 1) : Nat), (2 ^ (n - 1) : Nat) - 1) else (0, (2 ^ n : Nat) - 1)

/-- An integer read from the low bits of a register. -/
def intVal (n : Nat) (signed : Bool) (x : Nat) : Int :=
  let v := x % 2 ^ n
  if signed && 2 ^ (n - 1) ≤ v then (v : Int) - (2 ^ n : Nat) else v

/-- A conversion code (R306) on a 64-bit register: the result as `fcvt` places it (R307) and its flags. -/
def convert (code : Nat) (sat extended : Bool) (env : FpEnv) (x : Nat) : Nat × Nat :=
  let lo := fun f : FpFmt => x % 2 ^ f.width
  let flo := fun (f g : FpFmt) => f.to g env (lo f)
  let toI := fun (f : FpFmt) (n : Nat) (sg : Bool) =>
    let r := toInteger env.rm sat (intRange n sg).1 (intRange n sg).2 (f.val (lo f))
    (bitsOfInt 64 r.1, r.2)
  let ofI := fun (f : FpFmt) (n : Nat) (sg : Bool) => f.ofInt env (intVal n sg x)
  match code with
  | 0x00 => flo fp64 fp32
  | 0x01 => flo fp32 fp64
  | 0x02 => flo fp64 fp16
  | 0x03 => flo fp16 fp64
  | 0x04 => flo fp64 bf16
  | 0x05 => flo bf16 fp64
  | 0x06 => flo fp32 fp16
  | 0x07 => flo fp16 fp32
  | 0x08 => flo fp32 bf16
  | 0x09 => flo bf16 fp32
  | 0x10 => toI fp64 64 true
  | 0x11 => toI fp64 64 false
  | 0x12 => toI fp64 32 true
  | 0x13 => toI fp64 32 false
  | 0x14 => toI fp32 64 true
  | 0x15 => toI fp32 64 false
  | 0x16 => toI fp32 32 true
  | 0x17 => toI fp32 32 false
  | 0x18 => ofI fp64 64 true
  | 0x19 => ofI fp64 64 false
  | 0x1A => ofI fp64 32 true
  | 0x1B => ofI fp64 32 false
  | 0x1C => ofI fp32 64 true
  | 0x1D => ofI fp32 64 false
  | 0x1E => ofI fp32 32 true
  | 0x1F => ofI fp32 32 false
  | c =>
    if 0x24 ≤ c && c ≤ 0x28 then toNarrow (c - 0x20) extended sat (fp32.isSnan (lo fp32)) env (fp32.val (lo fp32))
    else if 0x29 ≤ c && c ≤ 0x2C then toNarrowInt (c - 0x20) sat env.rm 0 (fp32.val (lo fp32))
    else
      -- 0x34-0x3C: exact
      match narrowVal (c - 0x30) extended x with
      | .nan => (fp32.nan, 0)
      | .inf n => (fp32.inf n, 0)
      | .num n m e => ((fp32.round env n m e).1, 0)

/-! ### `FP.STAT` and the FP trap (R90) -/

/-- ORs flags into `FP.STAT`. -/
def Slot.orFlags (sl : Slot) (fl : Nat) : Slot := { sl with fpStat := sl.fpStat ||| word fl }

/-- Some flag's trap is enabled. -/
def Slot.traps (sl : Slot) (fl : Nat) : Bool := sl.fpCtrl.toNat / 8 % 32 &&& fl != 0

/-- A scalar FP result with its flags (R90): the trap leaves the task of `s0` as it was but for `FP.STAT`. -/
def fpPush (s0 s : State) (d : Dst) (v : Nat) (fl : Nat) : Effect :=
  if s0.slot.traps fl then .trapIn (s0.modSlot (·.orFlags fl)) { cause := .fp, info := word fl }
  else .done ((pushTo s d (word v)).modSlot (·.orFlags fl))

end Sys2Proof.Machine

namespace Sys2Proof

/-- The negations of the four forms (R343). -/
def FmaKind.negs : FmaKind → Bool × Bool
  | .fma => (false, false)
  | .fms => (false, true)
  | .fnma => (true, false)
  | .fnms => (true, true)

/-- The format a precision names. -/
def Prec.fmt : Prec → Machine.FpFmt
  | .d => Machine.fp64
  | .s => Machine.fp32

/-- The bits of an operand in a precision (R336). -/
def Prec.bits (p : Prec) (x : Word) : Nat :=
  match p with
  | .d => x.toNat
  | .s => x.toNat % 2 ^ 32

end Sys2Proof
end

