-- ==== Sys2Proof/Machine/Access.lean ====
section
/-! DEFINITION. Reaching memory for a task: where an address lies and the checks on it (R111-R113, R120-R122, R102),
decoding windows, local and remote accesses (R114, R115), posted stores and the journal (R116-R119), release and `lda`
gates (R119, R134, R361), and atomics (R318). -/

namespace Sys2Proof.Machine

/-! ### Leaving the part -/

/-- The port by which a launch's packets leave for a peer: that of the first transmitter that sends. -/
def exitPort (s : State) (l peer : Nat) : Nat :=
  let die := s.sendDie l peer
  (((streamTxs s die peer).head?).map txPort).getD (4 * die)

/-- Bytes leave for a peer (R129): their checks are verified at the crossing to the die that sends them, and at its port.
(DEDUCED, log 77) -/
def exitPeer (s : State) (l peer from_ key n : Nat) : State :=
  let d := s.sendDie l peer
  verify (crossDies s from_ d key n) key n d 13 (exitPort s l peer)

/-! ### Where an address lies -/

/-- TRAP.INFO of a data fault: access kind and element (R209). -/
def kindInfo (k : AccKind) (elem : Nat) : Word := word (k.code * 256 + elem)

/-- The bytes of scratchpad a split leaves (R113). -/
def splitBytes (lsplit : Nat) : Nat := Config.coreSram - 0x2000 * lsplit

/-- The firewall's static bound of a unit (R112). -/
def unitBytes (unit : Nat) : Nat := if unit = 8 then Config.poolBytes else Config.coreSram

/-- The bytes of a unit that the issuing core's check allows (R112). -/
def unitLimit (s : State) (c h unit : Nat) : Nat :=
  if unit ≠ 8 && h * 8 + unit = c then splitBytes (s.core c).lsplit else unitBytes unit

/-- A core takes part in a launch. -/
def State.participates (s : State) (l c : Nat) : Bool :=
  match s.launch? l with
  | some x => natMem x.cores c
  | none => false

/-- A hearth has a participating core of a launch. -/
def State.hearthIn (s : State) (l h : Nat) : Bool :=
  match s.launch? l with
  | some x => x.cores.any fun c => c / 8 == h
  | none => false

/-- The device field names this device (R111). -/
def State.thisDevice (s : State) (d : Nat) : Bool := d == 63 || d == s.cfg.deviceId

/-- An SRAM-space address (top byte 0xFE) for a launch's task on a core (R111, R112), without its alignment.
(DEDUCED, log 72) -/
def locateSram (s : State) (c l : Nat) (va n : Nat) : Option Place :=
  let dev := bitsOf va 55 50
  let h := bitsOf va 49 40
  let unit := bitsOf va 39 36
  let w := bitsOf va 35 32
  let off := bitsOf va 31 0
  if 9 ≤ unit then none
  else if s.thisDevice dev then
    if (s.hearth h).fenced then none
    else if !(if unit = 8 then s.hearthIn l h else s.participates l (h * 8 + unit)) then none
    else if w = 0 then (if unitLimit s c h unit < off + n then none else some (.sram h unit off))
    else some (.window none h unit w off)
  else if natMem s.linked dev then
    if w = 0 then (if unitBytes unit < off + n then none else some (.peerSram dev))
    else some (.window (some dev) h unit w off)
  else none

/-- The trap of a translation fault (R209). -/
def xfaultTrap (f : XFault) (k : AccKind) (va : Word) (elem : Nat) : Trap :=
  match f with
  | .xlate level => { cause := .xlate, addr := va, info := word (level * 2 ^ 12 + k.code * 256 + elem) }
  | .access => { cause := .access, addr := va, info := kindInfo k elem }
  | .poison => { cause := .poison, addr := va, info := kindInfo k elem }

/-- The translation a core uses for an address (R124). (DESIGN CHOICE, log 15) -/
def coreLeaf (s : State) (c asid va : Nat) : Except XFault Leaf :=
  leafOf s (s.core c).tlb (s.hearth (c / 8)).tlb (dieOf c) asid va

/-- A translated address with its permission (R120-R122). -/
def locateMem (s : State) (c asid : Nat) (user : Bool) (k : AccKind) (va : Nat) : Except XFault Place :=
  match coreLeaf s c asid va with
  | .error f => .error f
  | .ok l =>
    -- an atomic needs read and write (R318)
    if !permOk k user l.pte || (k == .atomic && bitsOf l.pte 2 2 != 1) then .error .access
    else match targetOf s l va with
      | .error f => .error f
      | .ok t => .ok (.mem t (leafCacheable l))

/-- Where `n` bytes at an address lie for the task that issues, with every local check but alignment. -/
def locate (s : State) (k : AccKind) (n : Nat) (va : Word) (elem : Nat) : Except Trap Place :=
  let sl := s.slot
  let top := bitsOf va.toNat 63 56
  if top = 0xFE then
    match locateSram s s.cur.1 sl.launch va.toNat n with
    | some p => .ok p
    | none => .error { cause := .access, addr := va, info := kindInfo k elem }
  else if top = 0xFF && sl.priv != .firmware then .error { cause := .access, addr := va, info := kindInfo k elem }
  else match locateMem s s.cur.1 sl.asid (sl.priv == .user) k va.toNat with
    | .ok p => .ok p
    | .error f => .error (xfaultTrap f k va elem)

/-- Puts the translation of an address into the TLBs that missed it (R124). (DESIGN CHOICE, log 15) -/
def fillTlb (s : State) (c asid : Nat) (va : Nat) : State :=
  if 0xFE ≤ va / 2 ^ 56 then s
  else
    match tlbFind (s.core c).tlb asid va, coreLeaf s c asid va with
    | none, .ok l =>
      let e : TlbEntry := { asid := asid, vpn := va / 2 ^ 16, level := l.level, pte := word l.pte }
      let inHearth := (tlbFind (s.hearth (c / 8)).tlb asid va).isSome
      let ctr := s.freeCtr
      let s := if inHearth then s else
        (cacheWalk (touchWalk s (dieOf c) asid va) (dieOf c) asid va).modHearth (c / 8) fun h =>
          { h with tlb := tlbAdd 8 (ctr + 1) (fun x => x.set == e.set) h.tlb e }
      let s := s.modCore c fun k => { k with tlb := tlbAdd 32 ctr (fun _ => true) k.tlb e }
      { s with freeCtr := ctr + 4 }
    | _, _ => s

/-- The same for the task that issues. -/
def State.tlbFor (s : State) (va : Word) : State := fillTlb s s.cur.1 s.slot.asid va.toNat

/-- The key of a place that is memory here. -/
def Place.key : Place → Nat
  | .sram h u off => sramKey h u off
  | .window _ h u _ off => sramKey h u off
  | .peerSram _ => 0
  | .mem t _ => t.key

/-- The place is the issuing core's own scratchpad or its own hearth's pool (R114). -/
def isLocalUnit (c h unit : Nat) : Bool := h == c / 8 && (unit == 8 || unit == c % 8)

/-! ### Decoding windows (R99, R101, R102) -/

/-- The fields of a window word (R101). -/
def winFormat (w : Nat) : Nat := bitsOf w 3 0
def winGroup (w : Nat) : Nat := 16 * 2 ^ bitsOf w 5 4
def winZp (w : Nat) : Bool := bitsOf w 6 6 == 1
def winBx (w : Nat) : Bool := bitsOf w 7 7 == 1
def winOffset (w : Nat) : Nat := bitsOf w 31 8
def winCount (w : Nat) : Nat := bitsOf w 63 32

/-- Bytes of a group record (R99, R100). -/
def recordBytes (fmt group : Nat) (bx : Bool) : Nat :=
  4 + (if bx then group / 8 else 0) + group * narrowWidth fmt / 8

/-- A record's parts at a key, for one element at position `p` in it: scale, zero point, block exponent and code. -/
structure Elem where
  scale : Nat
  zero : Nat
  block : Nat
  code : Nat

def elemAt (mem : List Host.Cell) (rec fmt group : Nat) (bx zp : Bool) (p : Nat) : Elem :=
  let w := narrowWidth fmt
  let body := rec + 4 + (if bx then group / 8 else 0)
  let nib := (memGet mem (rec + 4 + p / 8)).toNat
  { scale := memNat mem rec 2
    zero := if zp then (memGet mem (rec + 2)).toNat else 0
    block := if bx then (if p / 4 % 2 = 0 then nib % 16 else nib / 16) else 0
    code := memNat mem (body + w * p / 8) 2 / 2 ^ (w * p % 8) % 2 ^ w }

/-- The FP32 bits of an exact value. -/
def exactFp32 (v : FVal) : Nat :=
  match v with
  | .nan => fp32.nan
  | .inf n => fp32.inf n
  | .num n m e => (fp32.round ⟨.rne, false⟩ n m e).1

/-- The 32-bit word an element decodes to (R102): FP32 of a float, INT32 of an integer. -/
def decodeElem (fmt : Nat) (ext : Bool) (e : Elem) : Nat :=
  if 9 ≤ fmt then bitsOfInt 32 (narrowInt fmt e.code - e.zero)
  else
    match (fp16.val e.scale).times (narrowVal fmt ext e.code) with
    | .num n m x => exactFp32 (.num n m (x - e.block))
    | v => exactFp32 v

/-- Position of element `i` of a window in its unit: the offset of its record. -/
def elemRecord (w i : Nat) : Nat :=
  winOffset w + recordBytes (winFormat w) (winGroup w) (winBx w) * (i / winGroup w)

/-- The element's record ends within the unit, and the element is below the count. -/
def windowFits (w i limit : Nat) : Bool :=
  decide (i < winCount w) && decide (elemRecord w i + recordBytes (winFormat w) (winGroup w) (winBx w) ≤ limit)

def windowElem (mem : List Host.Cell) (base w i : Nat) (ext : Bool) : Nat :=
  decodeElem (winFormat w) ext
    (elemAt mem (base + elemRecord w i) (winFormat w) (winGroup w) (winBx w) (winZp w) (i % winGroup w))

/-- The window word of a core (R101): `FMT.WIN0` reads 0. -/
def Core.fmtWindow (k : Core) (w : Nat) : Nat := if w = 0 then 0 else (k.fmtWin.getD (w - 1) 0).toNat

/-- An access through a window names an element of it (R102): below its count, its record within the unit. The issuing core
checks it for a unit of a peer too, by its static bound (R112). A window that is not described has no elements to name. -/
def windowHolds (s : State) (c : Nat) (peer : Option Nat) (h unit w off : Nat) : Bool :=
  let fw := (s.core c).fmtWindow w
  fw == 0 || windowFits fw (off / 4) (if peer.isSome then unitBytes unit else unitLimit s c h unit)

/-- The record of the element that a window of the issuing core's own scratchpad or pool names is poisoned (R115, R129).
(DEDUCED, log 72) -/
def windowPoison (s : State) (c : Nat) (peer : Option Nat) (h unit w off : Nat) : Bool :=
  let fw := (s.core c).fmtWindow w
  fw != 0 && peer.isNone && isLocalUnit c h unit &&
    poisoned s.poison (sramKey h unit 0 + elemRecord fw (off / 4)) (recordBytes (winFormat fw) (winGroup fw) (winBx fw))

/-- The faults of a load through a window in their order (R102, R359): MISALIGN, ACCESS, POISON in the core's own units, and
FORMAT. (DEDUCED, log 72) -/
def windowFault (s : State) (c : Nat) (peer : Option Nat) (h unit w off n : Nat) (va : Word) (elem : Nat) : Option Trap :=
  let fw := (s.core c).fmtWindow w
  if off % 4 ≠ 0 then some { cause := .misalign, addr := va, info := kindInfo .load elem }
  else if !windowHolds s c peer h unit w off then some { cause := .access, addr := va, info := kindInfo .load elem }
  else if windowPoison s c peer h unit w off then some { cause := .poison, addr := va, info := kindInfo .load elem }
  else if fw = 0 || n ≠ 4 then some { cause := .format, addr := va, info := word w }
  else none

/-! ### Coherence traffic an access gives rise to (R248, R250) -/

/-- The request a core sends for a line, if the state it holds does not allow the access. (DESIGN CHOICE, log 12) -/
def lineRequest (st : Moesi) (store : Bool) : Option CohReq :=
  match st, store with
  | .m, _ => none
  | .e, _ => none
  | .o, false => none
  | .s, false => none
  | .o, true => some .upg
  | .s, true => some .upg
  | .i, false => some .getS
  | .i, true => some .getX

/-- A core sends a request for a line, for an access under a tag. -/
def sendCoh (s : State) (c line h : Nat) (store : Bool) (r : CohReq) : State :=
  (s.modCore c fun k => { k with
    cohReqs := tset k.cohReqs line r, cohWants := tset k.cohWants line (h, store) }).poke (r.event c line)

/-- An access under a tag to a cached line: E moves to M silently on a store, and a miss sends its request to the home. A
line that carries another tag is no hit (R168), nor one of a refuted tag (R164). A store that finds a GetS outstanding asks
for the right to write once that is granted
(R250). A core without an L1 gives its line up again at once (R113). (DESIGN CHOICE, log 12) -/
def touchLine (s : State) (c line h : Nat) (store : Bool) : State :=
  let k := s.core c
  let x := match tget k.l1 line with
    | some x => if x.tag == h && !s.refuted h then x else { st := .i }
    | none => { st := .i }
  -- a line whose Put is not answered is asked for again once it is (R250, R254)
  if (tget k.writeback line).isSome then s
  else match lineRequest x.st store with
    | none =>
      if store && x.st == .e then s.setCore c { k with l1 := tset k.l1 line { x with st := .m } } else s
    | some r =>
      match tget k.cohReqs line with
      | none => sendCoh s c line h store r
      | some q =>
        if store && q == .getS then s.setCore c { k with cohWants := tset k.cohWants line (h, true) } else s

/-- Records an access to the HBM of a target (R283, R284). -/
def touchHbm (s : State) (t : Target) : State :=
  match t with
  | .hbm pa => touchKey s pa
  | _ => s

/-- The bridge asks for a half it does not hold, or holds shared when it is stored to; a store moves E to M silently
(R255). -/
def touchHost (s : State) (t : Target) (store : Bool) : State :=
  match t with
  | .host pa =>
    match s.bridgeSt (pa / 64), store with
    | .i, false => askHost s (pa / 64) .rdShared
    | .i, true => askHost s (pa / 64) .rdOwn
    | .s, true => askHost s (pa / 64) .rdOwn
    | .e, true => { s with bridge := tset s.bridge (pa / 64) .m }
    | _, _ => s
  | _ => s

/-- A half of a line becomes valid in a copy. -/
def Core.fillHalf (k : Core) (line : Nat) (bit : BitVec 2) : Core :=
  match tget k.l1 line with
  | some x => { k with l1 := tset k.l1 line { x with halves := x.halves ||| bit } }
  | none => k

/-- The half of a host line that the bridge holds reaches a copy that lacks it (R255). -/
def fetchHalf (s : State) (c : Nat) (t : Target) : State :=
  match t with
  | .host pa =>
    if s.bridgeSt (pa / 64) == .i then s
    else s.modCore c fun k => k.fillHalf (t.key / 128) (if pa / 64 % 2 = 0 then 1 else 2)
  | _ => s

/-- What a memory access under a tag gives rise to beside its data; the HBM of a cached line is the home's to reach.
(DESIGN CHOICE, log 12) -/
def touchUnder (s : State) (c h : Nat) (t : Target) (cacheable store : Bool) : State :=
  if cacheable then touchLine (fetchHalf (touchHost s t store) c t) c (t.key / 128) h store else touchHbm s t

/-- The bridge holds what an access needs of host memory (R255). -/
def hostReady (s : State) (t : Target) (store : Bool) : Bool :=
  match t with
  | .host pa =>
    match s.bridgeSt (pa / 64) with
    | .i => false
    | .s => !store
    | _ => true
  | _ => true

/-- The first half of host memory that an engine's access lacks (R255). -/
def hostLacks (s : State) (store : Bool) (ps : List Place) : Option Nat :=
  ps.findSome? fun p => match p with
    | .mem (.host pa) _ => if hostReady s (.host pa) store then none else some (pa / 64)
    | _ => none

/-- The half of a host line that an access lies in is valid in an L1 copy (R255). -/
def L1Line.valid (x : L1Line) (t : Target) : Bool :=
  match t with
  | .host pa => x.halves.getLsbD (pa / 64 % 2)
  | _ => true

/-- The L1's line, under the tag of the access, may be read or written (R248, R168, R164). -/
def lineReady (s : State) (c h : Nat) (t : Target) (store : Bool) : Bool :=
  hostReady s t store && match tget (s.core c).l1 (t.key / 128) with
    | some x => x.tag == h && !s.refuted h && x.valid t && (lineRequest x.st store).isNone
    | none => false

/-- The bytes of a remote access: of one through a window, its element's record (R102). -/
def Remote.range (r : Remote) : Nat × Nat :=
  match r.window with
  | some (w, _) =>
    let off := bitsOf r.addr.toNat 31 0
    (r.key - off + elemRecord w.toNat (off / 4), recordBytes (winFormat w.toNat) (winGroup w.toNat) (winBx w.toNat))
  | none => (r.key, r.size)

/-- An access that a task makes in program order; an engine's are not (R131). -/
def RemoteKind.ordered : RemoteKind → Bool
  | .tongs _ _ => false
  | _ => true

/-- A remote access of a task to some of these bytes is under way (R131). -/
def Remote.overlaps (r : Remote) (c t key n : Nat) : Bool :=
  r.core == c && r.slot == t && !r.ended && (r.stage == .sent || r.stage == .behind) && r.kind.ordered &&
    decide (r.range.1 < key + n) && decide (key < r.range.1 + r.range.2)

/-- An earlier access of a task to some of these bytes is on its way still (R131, R136). -/
def lineWaits (s : State) (c t key n : Nat) : Bool := s.remotes.any fun p => p.2.overlaps c t key n

/-- A store of a task waits for its line (R250). -/
def linePending (s : State) (c t : Nat) : Bool :=
  s.remotes.any fun p => p.2.core == c && p.2.slot == t && p.2.kind.isLine && !p.2.ended

/-- A cached access of `n` bytes by the task that issues is performed at once (R250). -/
def cacheReady (s : State) (t : Target) (n : Nat) (store : Bool) : Bool :=
  lineReady s s.cur.1 (s.follow s.slot.hypCur) t store && !lineWaits s s.cur.1 s.cur.2 t.key n

/-- An access to memory that is not cached is performed at once: the part holds the bytes, their stack is awake (R284), and no
earlier access of the task to them is under way (R131). -/
def plainReady (s : State) (t : Target) (n : Nat) : Bool :=
  hostReady s t false && stackReady s t.key && !lineWaits s s.cur.1 s.cur.2 t.key n

/-- A load of memory is performed at once: through the L1, or of memory that is not cached and that the part holds. -/
def loadReady (s : State) (t : Target) (cacheable : Bool) (n : Nat) : Bool :=
  if cacheable then cacheReady s t n false else plainReady s t n

/-- The same for the task that issues. -/
def touchMem (s : State) (c : Nat) (t : Target) (cacheable store : Bool) : State :=
  touchUnder s c (s.follow s.slot.hypCur) t cacheable store

/-! ### The unit that holds SRAM (R115) -/

/-- The unit holds state of a launch that `p` accepts: the launch resident on the core, or any of the hearth's holder. -/
def unitHolds (s : State) (h unit : Nat) (p : Nat → Bool) : Bool :=
  if unit = 8 then
    s.launches.any fun x => p x.1 && (s.hearth h).holder == some (s.asidOf x.1) && s.hearthIn x.1 h
  else match (s.core (8 * h + unit)).resident with
    | some l => p l
    | none => false

/-- Bytes of a unit as it applies them itself. -/
def trueLimit (s : State) (h unit : Nat) : Nat :=
  if unit = 8 then Config.poolBytes else splitBytes (s.core (8 * h + unit)).lsplit

/-- The reason a unit refuses `n` bytes at an offset: 1 protection, 2 bad address (R115, R117). -/
def unitRefusal (s : State) (h unit off n : Nat) (p : Nat → Bool) : Option Nat :=
  if (s.hearth h).fenced || !unitHolds s h unit p then some 1
  else if trueLimit s h unit < off + n then some 2
  else none

/-! ### Gates -/

/-- A memory instruction waits, not issued, behind an earlier `lda` whose value has not landed (R361).
(DEDUCED, log 11) -/
def memGate (s : State) (e : Effect) : Effect :=
  if s.slot.owed.any (·.lda) then .wait else e

/-- A journal entry of the issuing task. -/
def JEntry.mine (j : JEntry) (t : Nat) : Bool := j.used && j.slot == t && !j.ended

/-- Vector loads of a slot that are not complete (R234). -/
def Core.vloading (k : Core) (t : Nat) : Bool :=
  (k.transfers ++ k.lanes ++ k.bound.map (·.op)).any fun o => o.slot == t && match o.transfer with
    | some (_, store) => !store
    | none => false

/-- Vector transfers of a slot that are not complete (R234). -/
def Core.transferring (k : Core) (t : Nat) : Bool :=
  (k.transfers ++ k.lanes ++ k.bound.map (·.op)).any fun o => o.slot == t && o.transfer.isSome

/-- A release (R119, R134, R172): a refused posted store of the task traps POSTED, an unacknowledged one holds it, and so does
an earlier access that has not been performed. (DESIGN CHOICE, log 9; DEDUCED, log 21; DEDUCED, log 31) -/
def releaseGate (s : State) (e : Effect) : Effect :=
  let k := s.myCore
  let t := s.cur.2
  match k.journal.findIdx? fun j => j.mine t && j.refused with
  | some i =>
    let j := k.journal.getD i {}
    .trap { cause := .posted, addr := j.addr, info := word (i + 256 * j.reason) }
  | none =>
    if k.journal.any (·.mine t) || s.slot.owed.any (fun o => o.kind == .remote || o.kind == .time) || k.transferring t || linePending s s.cur.1 t then .hold
    else e

/-- The release of an instruction whose checks have been made: a trap of theirs comes before it (R318, R379). -/
def releaseAfter (s : State) (e : Effect) : Effect :=
  match e with
  | .trap t => .trap t
  | .trapIn s t => .trapIn s t
  | e => releaseGate s e

/-- An occupied, unrefused journal entry overlaps the bytes of a load (R119). (DEDUCED, log 11) -/
def journalOverlap (k : Core) (key n : Nat) : Bool :=
  k.journal.any fun j => j.used && !j.refused && decide (j.key < key + n) && decide (key < j.key + 2 ^ j.size)

/-! ### Posted stores (R116, R117) -/

/-- The free entry a posted store takes: the first from the next index on, wrapping after 63.
(DESIGN CHOICE, log 71) -/
def freeEntry (js : List JEntry) (from_ : Nat) : Option Nat :=
  ((List.range 64).map fun i => (from_ + i) % 64).find? fun i => !(js.getD i {}).used

/-- A distant key of a unit of a peer's SRAM or memory: kept apart from this part's. -/
def peerKey (va : Word) : Nat := 2 ^ 65 + va.toNat

/-- The packet of a remote access toward a peer (R274); of an element's record, the next part that is read. -/
def remotePacket (r : Remote) (tr : Nat) : Packet :=
  let at_ := r.parts.headD (r.addr, r.size)
  let read : Packet := { header := packetHeader 2 1 false (Nat.log2 at_.2) tr r.launch 0, words := [at_.1] }
  let write : Packet := { header := packetHeader 3 1 false (Nat.log2 r.size) tr r.launch 0, words := [r.addr, r.data] }
  match r.kind with
  | .load => read
  | .vload _ _ => read
  | .tongs _ _ => if r.signed then write else read
  | .vatom _ op => { header := packetHeader 4 1 false (Nat.log2 r.size) tr r.launch op, words := [r.addr, r.data, 0] }
  | .store _ => write
  | .line _ => write
  | .atomic op cas ord x y =>
    { header := packetHeader 4 1 false (Nat.log2 r.size) tr r.launch (op + (if cas then 8 else 0) + 16 * ord)
      words := [r.addr, x, y] }

/-- An earlier access of the same task to overlapping bytes is still on its way (R119, R131, R136).
(DESIGN CHOICE, log 9) -/
def accessBefore (s : State) (id : Nat) (r : Remote) : Bool :=
  r.kind.ordered && s.remotes.any fun p =>
    decide (p.1 < id) && p.2.ended == r.ended && { p.2 with ended := false }.overlaps r.core r.slot r.range.1 r.range.2

/-- Sends a remote access: to the unit over the mesh, or to a peer as a packet, which waits for the answer to an earlier
access of the task to its bytes (R114, R131, R274). -/
def sendRemote (s : State) (r : Remote) : State :=
  let id := s.nextId
  match r.peer with
  | none =>
    (({ s with remotes := tset s.remotes id r }).fresh).poke ⟨.remoteAccessAtTarget, { id := id }⟩
  | some p =>
    if accessBefore s id r then ({ s with remotes := tset s.remotes id { r with stage := .behind } }).fresh
    else sendRequest ({ s with remotes := tset s.remotes id r }).fresh r.launch p false id (remotePacket r)

/-- A store takes a journal entry of its core and is sent; none when no entry is free (R116). `op` is the operation of a
`vatom` element. (DESIGN CHOICE, log 71) -/
def postRemote (s : State) (va : Word) (r : Remote) (op : Option Nat) : Option State :=
  let k := s.core r.core
  (freeEntry k.journal k.journalNext).map fun i =>
    let j : JEntry := { used := true, size := Nat.log2 r.size, slot := r.slot, launch := r.launch, addr := va, data := r.data
                        key := r.key, ended := r.ended, busy := r.busy }
    let s := s.modCore r.core fun k => { k with journal := padSet {} k.journal i j, journalNext := (i + 1) % 64 }
    let kind := match op with
      | some o => RemoteKind.vatom i o
      | none => .store i
    sendRemote s { r with kind := kind, ended := false, busy := none }

/-- The same for `2^sz` bytes of the task that issues. -/
def takeEntry (s : State) (va : Word) (key : Nat) (peer : Option Nat) (addr : Word) (sz : Nat) (v : Word)
    (op : Option Nat) : Option State :=
  let sl := s.slot
  postRemote s va { core := s.cur.1, slot := s.cur.2, kind := .store 0, addr := addr, key := key, peer := peer, size := 2 ^ sz
                    data := word (v.toNat % 2 ^ (8 * 2 ^ sz)), launch := sl.launch, asid := sl.asid, pc := sl.pc } op

/-- A posted store takes a journal entry, or waits for one (R116). -/
def postStore (s : State) (va : Word) (key : Nat) (peer : Option Nat) (addr : Word) (sz : Nat) (v : Word) : Effect :=
  match takeEntry s va key peer addr sz v none with
  | none => .wait
  | some s => .done s

/-! ### Loads (R359) -/

/-- The value of a load of `n` bytes with its extension. -/
def extendLoad (n : Nat) (signed : Bool) (v : Nat) : Word :=
  if signed then BitVec.ofInt 64 (intVal (8 * n) true v) else word (v % 2 ^ (8 * n))

/-- Bytes and extension of a load. -/
def loadForm : LoadKind → Nat × Bool
  | .ub => (1, false)
  | .uh => (2, false)
  | .uw => (4, false)
  | .sb => (1, true)
  | .sh => (2, true)
  | .sw => (4, true)
  | .d => (8, false)

/-- A remote load issues: its destination awaits the answer (R115). -/
def remoteLoad (s : State) (d : Dst) (r : Remote) (lda : Bool) : Effect :=
  let id := s.nextId
  let s := oweTo s d .remote lda false
  .done (sendRemote s { r with producer := id })

/-- What a load comes to when it is performed or leaves the core (R359). -/
inductive Loaded where
  /-- The value, and the state after the access. -/
  | value (s : State) (v : Nat)
  /-- Poison away from the issuing core: the destination becomes full-faulted (R115). -/
  | faulted (s : State)
  /-- Poison in the issuing core's own scratchpad or pool (R115). -/
  | poison
  /-- A remote access, or one that waits for its line, and the state that sends it. -/
  | remote (s : State) (r : Remote)

/-- The window-0 address of offset 0 of the unit that an SRAM-space address names (R111). -/
def unitAddr (va : Word) : Word := word (va.toNat / 2 ^ 36 * 2 ^ 36)

/-- The reads that bring the parts of an element of a window at a peer: scale and zero point, the byte of its block exponent,
and the byte or two of its code (R99, R102, R274). (DEDUCED, log 72) -/
def windowParts (fw i : Nat) (va : Word) : List (Word × Nat) :=
  let w := narrowWidth (winFormat fw)
  let p := i % winGroup fw
  let rec_ := elemRecord fw i
  let body := rec_ + 4 + (if winBx fw then winGroup fw / 8 else 0)
  let at_ := fun off n : Nat => (unitAddr va + word off, n)
  at_ rec_ 4 :: (if winBx fw then [at_ (rec_ + 4 + p / 8) 1] else []) ++ [at_ (body + w * p / 8) 1] ++
    (if 8 < w * p % 8 + w then [at_ (body + w * p / 8 + 1) 1] else [])

/-- The 32-bit word that the parts of an element decode to. (DEDUCED, log 72) -/
def windowValue (fw i : Nat) (ext : Bool) (got : List Nat) : Nat :=
  let w := narrowWidth (winFormat fw)
  let p := i % winGroup fw
  let head := got.getD 0 0
  let codes := got.drop (if winBx fw then 2 else 1)
  let nib := if winBx fw then got.getD 1 0 else 0
  decodeElem (winFormat fw) ext
    { scale := head % 2 ^ 16
      zero := if winZp fw then head / 2 ^ 16 % 256 else 0
      block := if winBx fw then (if p / 4 % 2 = 0 then nib % 16 else nib / 16 % 16) else 0
      code := (codes.getD 0 0 + 256 * codes.getD 1 0) / 2 ^ (w * p % 8) % 2 ^ w }

/-- The bytes of a load as the journal knows them: their key and number (R119). (DEDUCED, log 72) -/
def loadRange (s : State) (n : Nat) (va : Word) (p : Place) : Nat × Nat :=
  match p with
  | .window none h u w off =>
    let fw := s.myCore.fmtWindow w
    (sramKey h u (elemRecord fw (off / 4)), recordBytes (winFormat fw) (winGroup fw) (winBx fw))
  | .window (some _) _ _ w off =>
    let fw := s.myCore.fmtWindow w
    (peerKey (unitAddr va) + elemRecord fw (off / 4), recordBytes (winFormat fw) (winGroup fw) (winBx fw))
  | .peerSram _ => (peerKey va, n)
  | p => (p.key, n)

/-- A load of a place by the task at hand: performed where it is local, sent where it is not. A read through a window takes
in its element's whole record: poison anywhere in it counts, and a journal entry anywhere in it holds the load. At a peer it is
the reads of the element's parts. (DEDUCED, log 72) -/
def loadNow (s : State) (k : LoadKind) (va : Word) (p : Place) : Loaded :=
  let c := s.cur.1
  let sl := s.slot
  let f := loadForm k
  let r : Remote := { core := c, slot := s.cur.2, kind := .load, addr := va, key := p.key, size := f.1, signed := f.2
                      launch := sl.launch, asid := sl.asid, pc := sl.pc }
  let ext := sl.fmtMode.getLsbD 0
  match p with
  | .sram h u off =>
    let key := sramKey h u off
    if !isLocalUnit c h u then .remote s r
    else if poisoned s.poison key f.1 then .poison else .value s (memNat s.mem key f.1)
  | .window none h u w off =>
    let fw := (s.core c).fmtWindow w
    let base := sramKey h u 0
    let rec_ := base + elemRecord fw (off / 4)
    if !isLocalUnit c h u then .remote s { r with window := some (word fw, ext) }
    else if poisoned s.poison rec_ (recordBytes (winFormat fw) (winGroup fw) (winBx fw)) then .poison
    else .value s (windowElem s.mem base fw (off / 4) ext)
  | .window (some peer) _ _ w off =>
    let fw := (s.core c).fmtWindow w
    .remote s { r with key := peerKey (unitAddr va) + off, peer := some peer, window := some (word fw, ext)
                       parts := windowParts fw (off / 4) va }
  | .peerSram peer => .remote s { r with key := peerKey va, peer := some peer }
  | .mem (.peer peer pa) _ => .remote s { r with peer := some peer, addr := word (peer * 2 ^ 46 + pa) }
  | .mem t cacheable =>
    let h := if cacheable then sl.hypCur else 0
    let s' := touchMem s c t cacheable false
    if !loadReady s t cacheable f.1 then .remote s' { r with tag := if cacheable then some sl.hypCur else none }
    else
      let s' := if cacheable then s' else crossDies s' (keyDie s' t.key) (dieOf c) t.key f.1
      if poisonedUnder s' h t.key f.1 then .faulted s' else .value s' (natUnder s' h t.key f.1)

/-- A load whose journal overlap, if it had one, has gone (R119, R359). -/
def loadPlace (s : State) (d : Dst) (k : LoadKind) (va : Word) (p : Place) (lda : Bool) : Effect :=
  let f := loadForm k
  match loadNow s k va p with
  | .value s v => .done (oweTo s d (.value (extendLoad f.1 f.2 v)) lda false)
  | .faulted s => .done (oweTo s d (.refused true va s.slot.pc) lda false)
  | .poison => .trap { cause := .poison, addr := va, info := kindInfo .load 0 }
  | .remote s r => remoteLoad s d r lda

/-- A load behind an overlapping journal entry (R119): it has issued, its entry and its destination are empty, and the task
issues nothing further until it leaves. (DEDUCED, log 11) -/
def loadOrWait (s : State) (len : Nat) (d : Dst) (k : LoadKind) (va : Word) (p : Place) (lda : Bool) : Effect :=
  let r := loadRange s (loadForm k).1 va p
  if journalOverlap s.myCore r.1 r.2 then
    let next := s.slot.pc + word len
    .stay ((oweTo s d .remote lda true).modSlot fun sl => { sl with stall := .overlap s.nextId k va p next })
  else loadPlace s d k va p lda

/-- The load of a slot leaves once no entry overlaps it: its value is formed or its access sent (R119).
(DEDUCED, log 11) -/
def leaveOverlap (s : State) (c t : Nat) : State :=
  let s' := { s with cur := (c, t) }
  let sl := s'.slot
  match sl.stall with
  | .overlap id k va p next =>
    let f := loadForm k
    let r := loadRange s' f.1 va p
    let form := fun (s : State) (o : OwedKind) =>
      ((s.modSlotAt c t fun sl => { sl with
        owed := sl.owed.map fun x : Owed => if x.id == id then { x with kind := o, holds := false } else x }).poke
          ⟨.valueLands, { core := c, slot := t, id := id }⟩)
    if journalOverlap s'.myCore r.1 r.2 then s
    else
      let s' := match loadNow s' k va p with
        | .value s v => form s (.value (extendLoad f.1 f.2 v))
        | .faulted s => form s (.refused true va sl.pc)
        | .poison => form s' (.refused true va sl.pc)
        | .remote s' r => (sendRemote s' { r with producer := id }).modSlotAt c t fun sl => { sl with
            owed := sl.owed.map fun x : Owed => if x.id == id then { x with holds := false } else x }
      resume { s' with cur := s.cur } c t next
  | _ => s

/-- Every load of a core that waits behind a journal entry is looked at again. -/
def leaveOverlaps (s : State) (c : Nat) : State := [0, 1, 2, 3].foldl (fun s t => leaveOverlap s c t) s

/-- `ld` and `lda` of `len` bytes (R359, R361): alignment, location, window rules, and the load.
(DESIGN CHOICE, log 9; DEDUCED, log 11) -/
def loadEffect (s : State) (len : Nat) (d : Dst) (k : LoadKind) (a : SrcM) (off : Int) (lda : Bool) : Effect :=
  memGate s <| orphanGate s <| ops1 s d a fun b s =>
    let n := (loadForm k).1
    let va := b + BitVec.ofInt 64 (off * n)
    let isWindow := bitsOf va.toNat 63 56 = 0xFE && bitsOf va.toNat 35 32 ≠ 0
    if (if isWindow then va.toNat % 4 else va.toNat % n) ≠ 0 then
      .trap { cause := .misalign, addr := va, info := kindInfo .load 0 }
    else match locate s .load n va 0 with
      | .error t => .trap t
      | .ok (.window q h u w o) =>
        match windowFault s s.cur.1 q h u w o n va 0 with
        | some t => .trap t
        | none => loadOrWait s len d k va (.window q h u w o) lda
      | .ok p => loadOrWait (s.tlbFor va) len d k va p lda

/-! ### Stores (R378) -/

/-- A store of the task that issues that waits for its line (R250). -/
def pendStore (s : State) (key n v : Nat) (op : Option Nat) : State :=
  let sl := s.slot
  sendRemote s { core := s.cur.1, slot := s.cur.2, kind := .line op, addr := word key, key := key, size := n, data := word v
                 launch := sl.launch, asid := sl.asid, pc := sl.pc, tag := some sl.hypCur }

/-- A store of a place: performed where its unit or its line is at hand, posted where it is distant, and left to wait for its
line otherwise. A committed store takes its bytes away from no version: a confirmation has been folded already. -/
def storePlace (s : State) (sz : Nat) (va : Word) (v : Word) (p : Place) : Effect :=
  let c := s.cur.1
  let h := s.slot.hypCur
  let l := s.slot.launch
  let n := 2 ^ sz
  match p with
  | .sram hh u off =>
    if isLocalUnit c hh u then .done (writeMem s (sramKey hh u off) n v.toNat)
    else postStore s va (sramKey hh u off) none va sz v
  | .window _ _ _ w _ => .trap { cause := .format, addr := va, info := word w }
  | .peerSram peer => postStore s va (peerKey va) (some peer) va sz v
  | .mem (.peer peer pa) _ =>
    if h ≠ 0 then .trap { cause := .hypUse, addr := va, info := word h }
    else postStore s va (Target.peer peer pa).key (some peer) (word (peer * 2 ^ 46 + pa)) sz v
  | .mem t cacheable =>
    if h ≠ 0 && !cacheable then .trap { cause := .hypUse, addr := va, info := word h }
    else if !cacheable then postStore s va t.key none va sz v
    else if h ≠ 0 && s.hypFull l h (t.key / 128) then .trap { cause := .hypFull, addr := va, info := word h }
    else
      let s' := touchMem s c t cacheable true
      if !cacheReady s t n true then .done (pendStore s' t.key n v.toNat none)
      else if h ≠ 0 then .done (storeUnder s' l h t.key n v.toNat)
      else .done (writeMem s' t.key n v.toNat)

/-- `st` and `str` (R378, R379): the checks, then the release of `str`, then the store. (DESIGN CHOICE, log 9) -/
def storeEffect (s : State) (sz : Nat) (data : Src) (a : SrcM) (off : Int) (release : Bool) : Effect :=
  memGate s <| orphanGate s <| withOps s .z [a, blk data] fun vs s =>
    let n : Nat := 2 ^ sz
    let va := vs.getD 0 0 + BitVec.ofInt 64 (off * n)
    let v := vs.getD 1 0
    let h := s.slot.hypCur
    let inSram := bitsOf va.toNat 63 56 = 0xFE
    let isWindow := inSram && bitsOf va.toNat 35 32 ≠ 0
    if inSram && h ≠ 0 then .trap { cause := .hypUse, addr := va, info := word h }
    else if (if isWindow then va.toNat % 4 else va.toNat % n) ≠ 0 then
      .trap { cause := .misalign, addr := va, info := kindInfo .store 0 }
    else match locate s .store n va 0 with
      | .error t => .trap t
      | .ok p =>
        let e := storePlace (s.tlbFor va) sz va v p
        if release then releaseAfter s e else e

/-! ### Atomics (R318, R330) -/

/-- The operation of an atomic by its code (R318): 8 is `swap`. -/
def atomValue (op n : Nat) (old b : Nat) : Nat :=
  let m := 2 ^ (8 * n)
  let si := fun x : Nat => intVal (8 * n) true x
  match op with
  | 0 => (old + b) % m
  | 1 => old &&& b
  | 2 => old ||| b
  | 3 => old ^^^ b
  | 4 => if si old ≤ si b then old else b
  | 5 => if si old ≤ si b then b else old
  | 6 => min old b
  | 7 => max old b
  | _ => b

/-- The value an atomic leaves, when it writes. -/
def atomResult (op : Nat) (cas : Bool) (n old b cmp : Nat) : Option Nat :=
  if cas then (if old = cmp then some b else none) else some (atomValue op n old b)

/-- Performs an atomic on committed memory at a key: the old value and the state after it. (DEDUCED, log 10) -/
def performAtomic (s : State) (op : Nat) (cas : Bool) (key n b cmp : Nat) : Nat × State :=
  let old := memNat s.mem key n
  match atomResult op cas n old b cmp with
  | some v => (old, writeMem s key n v)
  | none => (old, s)

/-- The address is outside the package's own memory: host memory, peer memory or peer SRAM (R133, R137). -/
def Place.system : Place → Bool
  | .peerSram _ => true
  | .mem (.host _) _ => true
  | .mem (.peer _ _) _ => true
  | _ => false

/-- An atomic of memory is performed at once: at the L1 in M, or in HBM that is not cached. Host memory is written by way of the
bridge (R255). -/
def atomReady (s : State) (t : Target) (cacheable : Bool) (n : Nat) : Bool :=
  if cacheable then cacheReady s t n true
  else match t with
    | .hbm _ => plainReady s t n
    | _ => false

/-- An atomic once every check has passed (R318): announced if sc, sent if distant, else performed. `s0` is the state before its
operands were read, in which a check that fails on the way from another die is logged (R129). -/
def atomicPlace (s0 s : State) (op : Nat) (cas : Bool) (ord n : Nat) (d : Dst) (va : Word) (b cmp : Nat) (p : Place) : Effect :=
  let c := s.cur.1
  let sl := s.slot
  let next := sl.pc + 4
  let r : Remote := { core := c, slot := s.cur.2, kind := .atomic op cas ord (word b) (word cmp), addr := va, key := p.key
                      size := n, launch := sl.launch, asid := sl.asid, pc := sl.pc }
  let far := fun (s : State) (peer : Option Nat) (addr : Word) (key : Nat) (tag : Option Nat) =>
    let id := s.nextId
    let s := sendRemote s { r with peer := peer, addr := addr, key := key, tag := tag }
    Effect.stay (s.modSlot fun sl => { sl with stall := .atomic id d next })
  if ord = 3 then
    let s := s.announce c s.cur.2 sl.launch (.atomic p.key va n op cas (word b) (word cmp) d)
    .stay (s.modSlot fun sl => { sl with stall := .beat next })
  else
    match p with
    | .sram h u off =>
      if isLocalUnit c h u then
        if poisoned s.poison (sramKey h u off) n then .trap { cause := .poison, addr := va, info := kindInfo .atomic 0 }
        else
          let q := performAtomic s op cas (sramKey h u off) n b cmp
          .done (pushTo q.2 d (word q.1))
      else far s none va (sramKey h u off) none
    | .window _ _ _ w _ => .trap { cause := .format, addr := va, info := word w }
    | .peerSram peer => far s (some peer) va (peerKey va) none
    | .mem (.peer peer pa) _ => far s (some peer) (word (peer * 2 ^ 46 + pa)) (Target.peer peer pa).key none
    | .mem t cacheable =>
      if journalOverlap s.myCore t.key n then .hold
      else if !atomReady s t cacheable n then
        far (touchMem s c t cacheable true) none va t.key (if cacheable then some 0 else none)
      else
        let cross := fun s : State => if cacheable then s else crossDies s (keyDie s t.key) (dieOf c) t.key n
        let bad : Trap := { cause := .poison, addr := va, info := kindInfo .atomic 0 }
        if poisoned s.poison t.key n then .trap bad
        else if poisoned (cross s).poison t.key n then .trapIn (cross s0) bad
        else
          let q := performAtomic (touchMem s c t cacheable true) op cas t.key n b cmp
          .done (pushTo q.2 d (word q.1))

/-- `atom`, `swap` and `cas` (R318, R330): the checks in their order, the release, and the access.
(DESIGN CHOICE, log 9; DEDUCED, log 10) -/
def atomicEffect (s : State) (op : Nat) (sz : ASize) (ord : Order) (d : Dst) (a b : Src) (compare : Option Src) : Effect :=
  let n := match sz with
    | .w => 4
    | .d => 8
  let o := orderCode ord
  let srcs := [blk a, blk b] ++ (match compare with
    | some c => [blk c]
    | none => [])
  memGate s <| withOps s d srcs fun vs s' =>
    let s0 := s
    let s := s'
    let va := vs.getD 0 0
    let m := 2 ^ (8 * n)
    let h := s.slot.hypCur
    if h ≠ 0 then .trap { cause := .hypUse, addr := va, info := word h }
    else if va.toNat % n ≠ 0 then .trap { cause := .misalign, addr := va, info := kindInfo .atomic 0 }
    else match locate s .atomic n va 0 with
      | .error t => .trap t
      | .ok (.window _ _ _ w _) => .trap { cause := .format, addr := va, info := word w }
      | .ok p =>
        if o = 3 && p.system then .trap { cause := .access, addr := va, info := kindInfo .atomic 0 }
        else
          let e := atomicPlace s0 (s.tlbFor va) op compare.isSome o n d va ((vs.getD 1 0).toNat % m) ((vs.getD 2 0).toNat % m) p
          if 2 ≤ o then releaseAfter s e else e

end Sys2Proof.Machine
end

