-- ==== Sys2Proof/Machine/Fp.lean ====
section
/-! DEFINITION. Scalar floating point (OP 0x10-0x16, R336-R348) and Gaussian pairs (OP 0x18, R107-R109, R349-R353). -/

namespace Sys2Proof.Machine

/-- A scalar FP instruction of two sources (R336). -/
def fpBinary (s : State) (len : Nat) (p : Prec) (d : Dst) (a b : SrcM) (f : FpEnv → Nat → Nat → Nat × Nat) :
    Host.Outcome State Fault Refusal :=
  finish s len (ops2 s d a b fun x y s' =>
    let r := f s.slot.fpEnv (p.bits x) (p.bits y)
    fpPush s s' d r.1 r.2)

/-- The same of one source. -/
def fpUnary (s : State) (len : Nat) (p : Prec) (d : Dst) (a : SrcM) (f : FpEnv → Nat → Nat × Nat) :
    Host.Outcome State Fault Refusal :=
  finish s len (ops1 s d a fun x s' =>
    let r := f s.slot.fpEnv (p.bits x)
    fpPush s s' d r.1 r.2)

/-- A fused multiply-add with D as the addend, which blocks (R343). -/
def fusedOp (s : State) (k : FmaKind) (p : Prec) (d : Fin 32) (a b : SrcM) : Host.Outcome State Fault Refusal :=
  finish s 4 (withOps s (.n d) [a, b, blk (.n d)] fun vs s' =>
    let r := p.fmt.fma s.slot.fpEnv k.negs.1 k.negs.2 (p.bits (vs.getD 0 0)) (p.bits (vs.getD 1 0)) (p.bits (vs.getD 2 0))
    fpPush s s' (.n d) r.1 r.2)

/-- A sign operation (R347): the sign of `a` is replaced. -/
def withSign (p : Prec) (x : Nat) (neg : Bool) : Nat := x % 2 ^ (p.fmt.exp + p.fmt.frac) + p.fmt.signBit neg

/-- FADD (R337). -/
def execFadd (p : Prec) (d : Dst) (a b : SrcM) (s : State) : Host.Outcome State Fault Refusal :=
  fpBinary s 4 p d a b p.fmt.add

/-- FSUB (R337). -/
def execFsub (p : Prec) (d : Dst) (a b : SrcM) (s : State) : Host.Outcome State Fault Refusal :=
  fpBinary s 4 p d a b p.fmt.sub

/-- FMUL (R337). -/
def execFmul (p : Prec) (d : Dst) (a b : SrcM) (s : State) : Host.Outcome State Fault Refusal :=
  fpBinary s 4 p d a b p.fmt.mul

/-- FDIV (R337). -/
def execFdiv (p : Prec) (d : Dst) (a b : SrcM) (s : State) : Host.Outcome State Fault Refusal :=
  fpBinary s 4 p d a b p.fmt.div

/-- FMIN (R344). -/
def execFmin (p : Prec) (d : Dst) (a b : SrcM) (s : State) : Host.Outcome State Fault Refusal :=
  fpBinary s 4 p d a b fun _ x y => p.fmt.pick false x y

/-- FMAX (R344). -/
def execFmax (p : Prec) (d : Dst) (a b : SrcM) (s : State) : Host.Outcome State Fault Refusal :=
  fpBinary s 4 p d a b fun _ x y => p.fmt.pick true x y

/-- FSQRT (R348). -/
def execFsqrt (p : Prec) (d : Dst) (a : SrcM) (s : State) : Host.Outcome State Fault Refusal :=
  fpUnary s 4 p d a p.fmt.sqrt

/-- FSGNJ (R347). -/
def execFsgnj (p : Prec) (d : Dst) (a b : SrcM) (s : State) : Host.Outcome State Fault Refusal :=
  fpBinary s 4 p d a b fun _ x y => (withSign p x (p.fmt.sign y), 0)

/-- FSGNN (R347). -/
def execFsgnn (p : Prec) (d : Dst) (a b : SrcM) (s : State) : Host.Outcome State Fault Refusal :=
  fpBinary s 4 p d a b fun _ x y => (withSign p x (!p.fmt.sign y), 0)

/-- FSGNX (R347). -/
def execFsgnx (p : Prec) (d : Dst) (a b : SrcM) (s : State) : Host.Outcome State Fault Refusal :=
  fpBinary s 4 p d a b fun _ x y => (withSign p x (p.fmt.sign x != p.fmt.sign y), 0)

/-- FCLASS (R338). -/
def execFclass (p : Prec) (d : Dst) (a : SrcM) (s : State) : Host.Outcome State Fault Refusal :=
  fpUnary s 4 p d a fun _ x => (p.fmt.classify x, 0)

/-- FMA (R343). -/
def execFma (p : Prec) (d : Fin 32) (a b : SrcM) (s : State) : Host.Outcome State Fault Refusal :=
  fusedOp s .fma p d a b

/-- FMS (R343). -/
def execFms (p : Prec) (d : Fin 32) (a b : SrcM) (s : State) : Host.Outcome State Fault Refusal :=
  fusedOp s .fms p d a b

/-- FNMA (R343). -/
def execFnma (p : Prec) (d : Fin 32) (a b : SrcM) (s : State) : Host.Outcome State Fault Refusal :=
  fusedOp s .fnma p d a b

/-- FNMS (R343). -/
def execFnms (p : Prec) (d : Fin 32) (a b : SrcM) (s : State) : Host.Outcome State Fault Refusal :=
  fusedOp s .fnms p d a b

/-- FCMP (R339). -/
def execFcmp (c : FCond) (p : Prec) (d : Dst) (a b : SrcM) (s : State) : Host.Outcome State Fault Refusal :=
  fpBinary s 4 p d a b fun _ x y => ((boolWord (p.fmt.cmp c x y).1).toNat, (p.fmt.cmp c x y).2)

/-- FCVT (R340, R306, R307): narrow formats under `FMT.MODE` bit 0. -/
def execFcvt (code : BitVec 6) (sat : Bool) (r : RndField) (d : Dst) (a : SrcM) (s : State) :
    Host.Outcome State Fault Refusal :=
  finish s 4 (ops1 s d a fun x s' =>
    let v := convert code.toNat sat (s.slot.fmtMode.getLsbD 0) (s.slot.fpEnv.with r) x.toNat
    fpPush s s' d v.1 v.2)

/-- FRINT (R346). -/
def execFrint (p : Prec) (r : RndField) (d : Dst) (a : SrcM) (s : State) : Host.Outcome State Fault Refusal :=
  fpUnary s 4 p d a fun env x => p.fmt.rint (env.with r) x

/-- FADD_D_16 (R300). -/
def execFaddD16 (u v : BitVec 5) (s : State) : Host.Outcome State Fault Refusal :=
  fpBinary s 2 .d .queue (srcM5 u) (srcM5 v) fp64.add

/-- FSUB_D_16 (R300). -/
def execFsubD16 (u v : BitVec 5) (s : State) : Host.Outcome State Fault Refusal :=
  fpBinary s 2 .d .queue (srcM5 u) (srcM5 v) fp64.sub

/-- FMUL_D_16 (R300). -/
def execFmulD16 (u v : BitVec 5) (s : State) : Host.Outcome State Fault Refusal :=
  fpBinary s 2 .d .queue (srcM5 u) (srcM5 v) fp64.mul

/-! ### Gaussian pairs -/

/-- The halves of a pair (R107). -/
def eta (x : Nat) : Nat := x / 2 ^ 32 % 2 ^ 32
def lam (x : Nat) : Nat := x % 2 ^ 32

/-- A pair of halves with the flags of both. -/
def gpair (h l : Nat × Nat) : Nat × Nat := (h.1 * 2 ^ 32 + l.1, h.2 ||| l.2)

/-- The answer of a guard that fails (R109). -/
def gbad : Nat × Nat := (fp32.nan * 2 ^ 32 + fp32.nan, flNV)

def gsum (env : FpEnv) (x y : Nat) : Nat × Nat :=
  gpair (fp32.add env (eta x) (eta y)) (fp32.add env (lam x) (lam y))

def gdiff (env : FpEnv) (x y : Nat) : Nat × Nat :=
  gpair (fp32.sub env (eta x) (eta y)) (fp32.sub env (lam x) (lam y))

/-- One component of `gdamp` (R350). -/
def dampOne (env : FpEnv) (beta a b : Nat) : Nat × Nat :=
  let x := fp32.sub env b a
  let y := fp32.mul env beta x.1
  let z := fp32.add env a y.1
  (z.1, x.2 ||| y.2 ||| z.2)

def gdampOf (env : FpEnv) (beta x y : Nat) : Nat × Nat :=
  let v := fp32.val beta
  if v == .nan || FVal.lt v (.num false 0 0) || !FVal.lt v (.num false 1 0) then gbad
  else gpair (dampOne env beta (eta x) (eta y)) (dampOne env beta (lam x) (lam y))

/-- `gmarg` and `gmargi` (R108, R109, R351). -/
def gmargOf (inverse : Bool) (env : FpEnv) (x y : Nat) : Nat × Nat :=
  let l := lam y
  let v := fp32.val l
  if v == .nan || !FVal.lt (.num false 0 0) v then gbad
  else
    let sm := fp32.add env l (lam x)
    let u := fp32.div env l sm.1
    let lu := fp32.mul env l u.1
    let lm := fp32.sub env l lu.1
    let p := fp32.mul env l (eta y)
    let w := if inverse then fp32.add env (eta x) p.1 else fp32.sub env (eta x) p.1
    let uw := fp32.mul env u.1 w.1
    let em := if inverse then fp32.sub env uw.1 p.1 else fp32.add env p.1 uw.1
    (em.1 * 2 ^ 32 + lm.1, sm.2 ||| u.2 ||| lu.2 ||| lm.2 ||| p.2 ||| w.2 ||| uw.2 ||| em.2)

/-- `gmean` (R352): the mean and then the variance. -/
def gmeanOf (env : FpEnv) (x : Nat) : Nat × Nat :=
  gpair (fp32.div env (eta x) (lam x)) (fp32.div env 0x3F800000 (lam x))

/-- GMUL (R353). -/
def execGmul (d : Dst) (a b : SrcM) (s : State) : Host.Outcome State Fault Refusal := fpBinary s 4 .d d a b gsum

/-- GDIV (R353). -/
def execGdiv (d : Dst) (a b : SrcM) (s : State) : Host.Outcome State Fault Refusal := fpBinary s 4 .d d a b gdiff

/-- GDAMP (R350): the damping factor is `GBETA`. -/
def execGdamp (d : Dst) (a b : SrcM) (s : State) : Host.Outcome State Fault Refusal :=
  fpBinary s 4 .d d a b fun env x y => gdampOf env (s.slot.gbeta.toNat % 2 ^ 32) x y

/-- GMARG (R351). -/
def execGmarg (d : Dst) (a b : SrcM) (s : State) : Host.Outcome State Fault Refusal :=
  fpBinary s 4 .d d a b (gmargOf false)

/-- GMARGI (R351). -/
def execGmargi (d : Dst) (a b : SrcM) (s : State) : Host.Outcome State Fault Refusal :=
  fpBinary s 4 .d d a b (gmargOf true)

/-- GMEAN (R352). -/
def execGmean (d : Dst) (a : SrcM) (s : State) : Host.Outcome State Fault Refusal := fpUnary s 4 .d d a gmeanOf

/-- GMUL_16 (R300). -/
def execGmul16 (u v : BitVec 5) (s : State) : Host.Outcome State Fault Refusal :=
  fpBinary s 2 .d .queue (srcM5 u) (srcM5 v) gsum

end Sys2Proof.Machine
end

