-- ==== Sys2Proof/Machine/Vec.lean ====
section
/-! DEFINITION. Vector instructions on registers (OP 0x40-0x48): masks and writes (R69), the lane queue (R205, R234), FP
reporting (R94), element operations (R387-R402) and the reduction tree (R106). Results are formed at issue; an entry of
the lane queue stands for the instruction until it completes. -/

namespace Sys2Proof.Machine

/-! ### Registers (R69) -/

def Slot.vreg (sl : Slot) (r : Fin 16) : List (BitVec 32) := sl.vregs.getD r.val []

/-- Element `i` of a register. -/
def Slot.velem (sl : Slot) (r : Fin 16) (i : Nat) : Nat := ((sl.vreg r).getD i 0).toNat

/-- FP64 pair `i` of a register. -/
def Slot.vpair (sl : Slot) (r : Fin 16) (i : Nat) : Nat := sl.velem r (2 * i) + 2 ^ 32 * sl.velem r (2 * i + 1)

/-- An element of the width an instruction works on. -/
def Slot.vget (sl : Slot) (pair : Bool) (r : Fin 16) (i : Nat) : Nat := if pair then sl.vpair r i else sl.velem r i

/-- Elements an instruction works on (R385). -/
def Slot.vcount (sl : Slot) (pair : Bool) : Nat := if pair then sl.vl / 2 else sl.vl

/-- `Active(i)` (R69). -/
def Slot.vactive (sl : Slot) (m : VMask) (i : Nat) : Bool := !m.me || sl.velem m.vm i % 2 == 1

/-- A register after a write of `vals` to elements below `n` (R69): inactive elements are kept, or zeroed with Z. -/
def vecResult (old : List (BitVec 32)) (n : Nat) (pair : Bool) (m : VMask) (act : Nat → Bool) (vals : List Nat) :
    List (BitVec 32) :=
  (List.range 64).map fun j =>
    let i := if pair then j / 2 else j
    let v := vals.getD i 0
    let x := if pair && j % 2 == 1 then v / 2 ^ 32 else v
    if n ≤ i then old.getD j 0
    else if act i then BitVec.ofNat 32 x
    else if m.z then 0
    else old.getD j 0

/-- A write of all elements below `VL` with ME = 0 clears a held fault (R386). (DESIGN CHOICE, log 40) -/
def Slot.vwrite (sl : Slot) (vd : Fin 16) (n : Nat) (pair : Bool) (m : VMask) (vals : List Nat) : Slot :=
  let whole := !m.me && decide (sl.vl ≤ if pair then 2 * n else n)
  { sl with
    vregs := padSet [] sl.vregs vd.val (vecResult (sl.vreg vd) n pair m (sl.vactive m) vals)
    vfaults := if whole then padSet none sl.vfaults vd.val none else sl.vfaults }

/-! ### Issue (R205, R234, R385) -/

/-- The first held fault of the registers an instruction reads (R386). (DEDUCED, log 38; DESIGN CHOICE, log 40) -/
def vecFault (sl : Slot) (regs : List (Fin 16)) : Option Trap :=
  (regs.findSome? fun r => sl.vfaults.getD r.val none).map fun f =>
    { cause := if f.poison then .poison else .access, addr := f.addr, info := f.pc, deferred := true }

/-- Registers read because of the mask and of the old destination (R69, R386). -/
def maskReads (m : VMask) (vd : Option (Fin 16)) : List (Fin 16) :=
  (if m.me then [m.vm] else []) ++ (match vd with
    | some d => if m.me && !m.z then [d] else []
    | none => [])

/-- Vector instructions of a slot that have issued and not completed (R94, R234). -/
def Core.laneOps (k : Core) (t : Nat) : List LaneOp :=
  (k.lanes ++ k.bound.map (·.op) ++ k.transfers).filter fun o => o.slot == t && o.unformed.isNone

/-- An element that a load of the task is to bring into one of these registers has not arrived: what it brings may be a fault,
which traps precisely at the reader (R386). -/
def vecAwaits (s : State) (reads : List (Fin 16)) : Bool :=
  s.remotes.any fun p => p.2.core == s.cur.1 && p.2.slot == s.cur.2 && match p.2.kind with
    | .vload r _ => reads.any (·.val == r)
    | _ => false

/-- No place in the lane queue is left for the instruction (R205). -/
def laneFull (s : State) : Bool := decide (16 ≤ s.myCore.lanes.length) && !s.hasLane

/-- The conditions every vector instruction passes before it issues: a held fault of a register it reads, the grant, a
place in the lane queue, and the values of the registers it reads. A register whose values are there and whose transfer goes
on holds
the instruction in the queue (R234). (DESIGN CHOICE, log 37; DEDUCED, log 38) -/
def vecStart (s : State) (reads : List (Fin 16)) (k : Effect) : Effect :=
  match vecFault s.slot reads with
  | some t => .trap t
  | none =>
    if s.slot.vl = 0 then .trap { cause := .vclaim }
    else if laneFull s then .wait
    else if vecAwaits s reads then .behind
    else k

/-- Elements below `n` that an earlier load is still to bring into a register are overtaken by a write of it (R386): their
values are not wanted, nor, when the write clears the register's fault, what their access comes to. The load's accesses are
those below `before`. -/
def overtake (s : State) (before reg n : Nat) (whole : Bool) : State :=
  let hit := fun p : Nat × Remote => decide (p.1 < before) && p.2.core == s.cur.1 && p.2.slot == s.cur.2 && match p.2.kind with
    | .vload r e => r == reg && decide ((if p.2.size = 8 then 2 * e else e) < n)
    | _ => false
  { s with remotes := (s.remotes.filter fun p => !(whole && hit p)).map fun p =>
      if hit p then (p.1, { p.2 with ended := true }) else p }

/-- The instruction at hand writes a vector register (R69), over what earlier loads are still to bring. -/
def State.vwrite (s : State) (vd : Fin 16) (n : Nat) (pair : Bool) (m : VMask) (vals : List Nat) : State :=
  (overtake s s.nextId vd.val (if pair then 2 * n else n) (!m.me)).modSlot fun sl => sl.vwrite vd n pair m vals

/-- The lane queue entry of an instruction of the slot that issues. -/
def laneOp (s : State) (cycles flags : Nat) (reads : List (Fin 16)) (writes : Option (Fin 16)) (transfer : Option (Nat × Bool)) :
    LaneOp :=
  { slot := s.cur.2, groups := s.slot.vl / 8, cycles := cycles, flags := flags, transfer := transfer
    reads := reads.map (·.val), writes := match writes with
      | some d => [d.val]
      | none => [] }

/-! ### FP reporting (R93, R94) -/

/-- Some FP trap is enabled. -/
def Slot.fpTraps (sl : Slot) : Bool := sl.fpCtrl.toNat / 8 % 32 != 0

/-- `FP.STAT` after flags, with the trapping element in [15:8] (R94). -/
def Slot.fpTrapStat (sl : Slot) (fl elem : Nat) : Slot :=
  { sl with fpStat := word ((sl.fpStat.toNat ||| fl) / 2 ^ 16 * 2 ^ 16 + elem % 256 * 2 ^ 8 + (sl.fpStat.toNat ||| fl) % 256) }

/-- Flags of a vector instruction: a trap at its lowest trapping element, or the state given, in which enabled traps make
the flags visible at once and otherwise the lane queue entry carries them. -/
def vecFlags (s : State) (fls : List (Nat × Nat)) (k : Nat → State → Effect) : Effect :=
  let fl := fls.foldl (fun a p => a ||| p.2) 0
  match (fls.filter fun p => s.slot.traps p.2).map (·.1) with
  | i :: r => .trapIn (s.modSlot (·.fpTrapStat fl (r.foldl min i))) { cause := .fp, info := word fl }
  | [] => if s.slot.fpTraps then k 0 (s.modSlot (·.orFlags fl)) else k fl s

/-- A subnormal of a format (R93). -/
def FpFmt.isSub (f : FpFmt) (x : Nat) : Bool := f.expField x == 0 && f.fracField x != 0

/-- The extra cycles of a subnormal replay (R93). -/
def replay (sub : Bool) : Nat := if sub then Config.subReplay else 0

/-! ### Element operations -/

/-- An element operation without flags: active element `i` below `n` becomes `f i`. (DESIGN CHOICE, log 37) -/
def vecMap (s : State) (reads : List (Fin 16)) (vd : Fin 16) (m : VMask) (pair : Bool) (f : Nat → Nat) : Effect :=
  let sl := s.slot
  let reads := reads ++ maskReads m (some vd)
  let n := sl.vcount pair
  vecStart s reads <|
    let s := enterLanes s (laneOp s 1 0 reads (some vd) none)
    .done (s.vwrite vd n pair m ((List.range n).map f))

/-- An FP element operation: `f i` gives the bits, the flags and whether a subnormal was met. `pairIn` is the width of the
operands and `pairOut` that of the result. -/
def vecFp (s : State) (reads : List (Fin 16)) (vd : Fin 16) (m : VMask) (pairIn pairOut : Bool) (cycles : Nat)
    (f : Nat → (Nat × Nat) × Bool) : Effect :=
  let sl := s.slot
  let reads := reads ++ maskReads m (some vd)
  let n := sl.vcount pairIn
  vecStart s reads <|
    let rs := (List.range n).map fun i => if sl.vactive m i then f i else ((0, 0), false)
    vecFlags s ((rs.zipIdx).map fun p => (p.2, p.1.1.2)) fun fl s =>
      let s := enterLanes s (laneOp s (cycles + replay (rs.any (·.2))) fl reads (some vd) none)
      .done (s.vwrite vd n pairOut m (rs.map (·.1.1)))

/-- An FP operation of two registers in a precision. -/
def vecFp2 (s : State) (p : Prec) (cycles : Nat) (vd va vb : Fin 16) (m : VMask) (f : FpEnv → Nat → Nat → Nat × Nat) : Effect :=
  let sl := s.slot
  let pair := p == .d
  vecFp s [va, vb] vd m pair pair cycles fun i =>
    let x := sl.vget pair va i
    let y := sl.vget pair vb i
    let r := f sl.fpEnv x y
    (r, p.fmt.isSub x || p.fmt.isSub y || p.fmt.isSub r.1)

/-- An FP operation of one register. -/
def vecFp1 (s : State) (p : Prec) (cycles : Nat) (vd va : Fin 16) (m : VMask) (f : FpEnv → Nat → Nat × Nat) : Effect :=
  let sl := s.slot
  let pair := p == .d
  vecFp s [va] vd m pair pair cycles fun i =>
    let x := sl.vget pair va i
    let r := f sl.fpEnv x
    (r, p.fmt.isSub x || p.fmt.isSub r.1)

/-- A fused multiply-add with the old VD as the addend (R395). -/
def vecFma (s : State) (k : FmaKind) (p : Prec) (vd va vb : Fin 16) (m : VMask) : Effect :=
  let sl := s.slot
  let pair := p == .d
  vecFp s [va, vb, vd] vd m pair pair 1 fun i =>
    let x := sl.vget pair va i
    let y := sl.vget pair vb i
    let c := sl.vget pair vd i
    let r := p.fmt.fma sl.fpEnv k.negs.1 k.negs.2 x y c
    (r, [x, y, c, r.1].any p.fmt.isSub)

/-- An integer operation of two registers on 32-bit elements. -/
def vecInt (s : State) (vd va vb : Fin 16) (m : VMask) (f : Nat → Nat → Nat) : Effect :=
  let sl := s.slot
  vecMap s [va, vb] vd m false fun i => f (sl.velem va i) (sl.velem vb i)

/-- The signed value of a 32-bit element. -/
def i32 (x : Nat) : Int := intVal 32 true x

/-- The order of two 32-bit values as a comparison sees them. -/
def vecLe (signed : Bool) (a b : Nat) : Bool := if signed then decide (i32 a ≤ i32 b) else decide (a ≤ b)

/-! ### OP 0x40: integers (R387, R388, R398, R399, R402) -/

/-- VADD_I (R387). -/
def execVaddI (vd va vb : Fin 16) (m : VMask) (s : State) : Host.Outcome State Fault Refusal :=
  finish s 4 (vecInt s vd va vb m (· + ·))

/-- VSUB_I (R387). -/
def execVsubI (vd va vb : Fin 16) (m : VMask) (s : State) : Host.Outcome State Fault Refusal :=
  finish s 4 (vecInt s vd va vb m fun a b => a + 2 ^ 32 - b)

/-- VMUL_I (R387). -/
def execVmulI (vd va vb : Fin 16) (m : VMask) (s : State) : Host.Outcome State Fault Refusal :=
  finish s 4 (vecInt s vd va vb m (· * ·))

/-- VMIN_I (R398). -/
def execVminI (vd va vb : Fin 16) (m : VMask) (s : State) : Host.Outcome State Fault Refusal :=
  finish s 4 (vecInt s vd va vb m fun a b => if vecLe true a b then a else b)

/-- VMAX_I (R398). -/
def execVmaxI (vd va vb : Fin 16) (m : VMask) (s : State) : Host.Outcome State Fault Refusal :=
  finish s 4 (vecInt s vd va vb m fun a b => if vecLe true a b then b else a)

/-- VMINU (R398). -/
def execVminu (vd va vb : Fin 16) (m : VMask) (s : State) : Host.Outcome State Fault Refusal :=
  finish s 4 (vecInt s vd va vb m Nat.min)

/-- VMAXU (R398). -/
def execVmaxu (vd va vb : Fin 16) (m : VMask) (s : State) : Host.Outcome State Fault Refusal :=
  finish s 4 (vecInt s vd va vb m Nat.max)

/-- VAND (R388). -/
def execVand (vd va vb : Fin 16) (m : VMask) (s : State) : Host.Outcome State Fault Refusal :=
  finish s 4 (vecInt s vd va vb m (· &&& ·))

/-- VOR (R388). -/
def execVor (vd va vb : Fin 16) (m : VMask) (s : State) : Host.Outcome State Fault Refusal :=
  finish s 4 (vecInt s vd va vb m (· ||| ·))

/-- VXOR (R388). -/
def execVxor (vd va vb : Fin 16) (m : VMask) (s : State) : Host.Outcome State Fault Refusal :=
  finish s 4 (vecInt s vd va vb m (· ^^^ ·))

/-- VSHL (R402). -/
def execVshl (vd va vb : Fin 16) (m : VMask) (s : State) : Host.Outcome State Fault Refusal :=
  finish s 4 (vecInt s vd va vb m fun a b => a <<< (b % 32))

/-- VSHR (R402). -/
def execVshr (vd va vb : Fin 16) (m : VMask) (s : State) : Host.Outcome State Fault Refusal :=
  finish s 4 (vecInt s vd va vb m fun a b => a >>> (b % 32))

/-- VSAR (R402). -/
def execVsar (vd va vb : Fin 16) (m : VMask) (s : State) : Host.Outcome State Fault Refusal :=
  finish s 4 (vecInt s vd va vb m fun a b => bitsOfInt 32 (i32 a / 2 ^ (b % 32)))

/-- VMOV (R399). -/
def execVmov (vd va : Fin 16) (m : VMask) (s : State) : Host.Outcome State Fault Refusal :=
  finish s 4 (vecMap s [va] vd m false fun i => s.slot.velem va i)

/-! ### OP 0x41-0x43: floating point (R387, R394, R395, R398) -/

/-- VADD_S (R387). -/
def execVaddS (vd va vb : Fin 16) (m : VMask) (s : State) : Host.Outcome State Fault Refusal :=
  finish s 4 (vecFp2 s .s 1 vd va vb m fp32.add)

/-- VSUB_S (R387). -/
def execVsubS (vd va vb : Fin 16) (m : VMask) (s : State) : Host.Outcome State Fault Refusal :=
  finish s 4 (vecFp2 s .s 1 vd va vb m fp32.sub)

/-- VMUL_S (R387). -/
def execVmulS (vd va vb : Fin 16) (m : VMask) (s : State) : Host.Outcome State Fault Refusal :=
  finish s 4 (vecFp2 s .s 1 vd va vb m fp32.mul)

/-- VDIV_S (R394). -/
def execVdivS (vd va vb : Fin 16) (m : VMask) (s : State) : Host.Outcome State Fault Refusal :=
  finish s 4 (vecFp2 s .s 8 vd va vb m fp32.div)

/-- VMIN_S (R398). -/
def execVminS (vd va vb : Fin 16) (m : VMask) (s : State) : Host.Outcome State Fault Refusal :=
  finish s 4 (vecFp2 s .s 1 vd va vb m fun _ x y => fp32.pick false x y)

/-- VMAX_S (R398). -/
def execVmaxS (vd va vb : Fin 16) (m : VMask) (s : State) : Host.Outcome State Fault Refusal :=
  finish s 4 (vecFp2 s .s 1 vd va vb m fun _ x y => fp32.pick true x y)

/-- VSQRT_S (R394). -/
def execVsqrtS (vd va : Fin 16) (m : VMask) (s : State) : Host.Outcome State Fault Refusal :=
  finish s 4 (vecFp1 s .s 8 vd va m fp32.sqrt)

/-- VADD_D (R387). -/
def execVaddD (vd va vb : Fin 16) (m : VMask) (s : State) : Host.Outcome State Fault Refusal :=
  finish s 4 (vecFp2 s .d 1 vd va vb m fp64.add)

/-- VSUB_D (R387). -/
def execVsubD (vd va vb : Fin 16) (m : VMask) (s : State) : Host.Outcome State Fault Refusal :=
  finish s 4 (vecFp2 s .d 1 vd va vb m fp64.sub)

/-- VMUL_D (R387). -/
def execVmulD (vd va vb : Fin 16) (m : VMask) (s : State) : Host.Outcome State Fault Refusal :=
  finish s 4 (vecFp2 s .d 1 vd va vb m fp64.mul)

/-- VDIV_D (R394). -/
def execVdivD (vd va vb : Fin 16) (m : VMask) (s : State) : Host.Outcome State Fault Refusal :=
  finish s 4 (vecFp2 s .d 16 vd va vb m fp64.div)

/-- VMIN_D (R398). -/
def execVminD (vd va vb : Fin 16) (m : VMask) (s : State) : Host.Outcome State Fault Refusal :=
  finish s 4 (vecFp2 s .d 1 vd va vb m fun _ x y => fp64.pick false x y)

/-- VMAX_D (R398). -/
def execVmaxD (vd va vb : Fin 16) (m : VMask) (s : State) : Host.Outcome State Fault Refusal :=
  finish s 4 (vecFp2 s .d 1 vd va vb m fun _ x y => fp64.pick true x y)

/-- VSQRT_D (R394). -/
def execVsqrtD (vd va : Fin 16) (m : VMask) (s : State) : Host.Outcome State Fault Refusal :=
  finish s 4 (vecFp1 s .d 16 vd va m fp64.sqrt)

/-- VFMA (R395). -/
def execVfma (p : Prec) (vd va vb : Fin 16) (m : VMask) (s : State) : Host.Outcome State Fault Refusal :=
  finish s 4 (vecFma s .fma p vd va vb m)

/-- VFMS (R395). -/
def execVfms (p : Prec) (vd va vb : Fin 16) (m : VMask) (s : State) : Host.Outcome State Fault Refusal :=
  finish s 4 (vecFma s .fms p vd va vb m)

/-- VFNMA (R395). -/
def execVfnma (p : Prec) (vd va vb : Fin 16) (m : VMask) (s : State) : Host.Outcome State Fault Refusal :=
  finish s 4 (vecFma s .fnma p vd va vb m)

/-- VFNMS (R395). -/
def execVfnms (p : Prec) (vd va vb : Fin 16) (m : VMask) (s : State) : Host.Outcome State Fault Refusal :=
  finish s 4 (vecFma s .fnms p vd va vb m)

/-! ### Comparison, selection and conversion (R392, R401, R393) -/

/-- A relation of two FP values with its flags (R392, R339). -/
def FpFmt.rel (f : FpFmt) (c : VCond) (x y : Nat) : Bool × Nat :=
  match c with
  | .eq => f.cmp .eq x y
  | .ne => (!(f.cmp .eq x y).1, (f.cmp .eq x y).2)
  | .lt => f.cmp .lt x y
  | .le => f.cmp .le x y
  | .un => f.cmp .un x y

/-- A relation of two 32-bit integers. -/
def intRel (signed : Bool) (c : VCond) (a b : Nat) : Bool :=
  match c with
  | .eq => a == b
  | .ne => a != b
  | .lt => !vecLe signed b a
  | .le => vecLe signed a b
  | .un => false

def natOf (b : Bool) : Nat := if b then 1 else 0

/-- The FP forms of `vcmp`: a pair's result goes to its 32-bit element. -/
def vecCmpFp (s : State) (p : Prec) (c : VCond) (vd va vb : Fin 16) (m : VMask) : Effect :=
  let sl := s.slot
  let pair := p == .d
  vecFp s [va, vb] vd m pair false 1 fun i =>
    let x := sl.vget pair va i
    let y := sl.vget pair vb i
    let r := p.fmt.rel c x y
    ((natOf r.1, r.2), p.fmt.isSub x || p.fmt.isSub y)

/-- VCMP (R392). -/
def execVcmp (t : VCmpType) (c : VCond) (vd va vb : Fin 16) (m : VMask) (s : State) : Host.Outcome State Fault Refusal :=
  finish s 4 (
    match t with
    | .i => vecInt s vd va vb m fun a b => natOf (intRel true c a b)
    | .u => vecInt s vd va vb m fun a b => natOf (intRel false c a b)
    | .s => vecCmpFp s .s c vd va vb m
    | .d => vecCmpFp s .d c vd va vb m)

/-- VSEL (R401): every element below `VL` is written. -/
def execVsel (vd va vb vm : Fin 16) (_z : Bool) (s : State) : Host.Outcome State Fault Refusal :=
  let sl := s.slot
  let reads := [va, vb, vm]
  finish s 4 (vecStart s reads <|
    let s := enterLanes s (laneOp s 1 0 reads (some vd) none)
    let vals := (List.range sl.vl).map fun i => if sl.velem vm i % 2 = 1 then sl.velem va i else sl.velem vb i
    .done ((overtake s s.nextId vd.val sl.vl false).modSlot fun x => { x with
      vregs := padSet [] x.vregs vd.val (vecResult (x.vreg vd) x.vl false ⟨vm, false, false⟩ (fun _ => true) vals) }))

/-- The codes that scale by VB (R307). -/
def narrowTarget (c : Nat) : Bool := decide (0x24 ≤ c) && decide (c ≤ 0x2C)

/-- The codes that take a zero point from VD (R307). -/
def takesZero (c : Nat) : Bool := c == 0x2A || c == 0x2C

/-- One element of `vcvt` (R393, R307): the exact product with the multiplier, rounded once to the target. -/
def vecConvert (c : Nat) (ext : Bool) (env : FpEnv) (a mult z : Nat) : Nat × Nat :=
  if narrowTarget c then
    let x := fp32.val a
    let y := fp32.val mult
    let sig := fp32.isSnan a || fp32.isSnan mult || x.invalidTimes y
    if c ≤ 0x28 then toNarrow (c - 0x20) ext true sig env (x.times y)
    else toNarrowInt (c - 0x20) true env.rm (if takesZero c then z % 256 else 0) (x.times y)
  else
    let r := convert c true ext env a
    (r.1 % 2 ^ 32, r.2)

/-- A conversion meets a subnormal (R93): its operand or multiplier, or a result in FP32, FP16 or BF16.
(DESIGN CHOICE, log 37) -/
def convSub (c a mult r : Nat) : Bool :=
  match c with
  | 0x06 => fp32.isSub a || fp16.isSub r
  | 0x07 => fp16.isSub (a % 2 ^ 16) || fp32.isSub r
  | 0x08 => fp32.isSub a || bf16.isSub r
  | 0x09 => bf16.isSub (a % 2 ^ 16) || fp32.isSub r
  | 0x16 => fp32.isSub a
  | 0x17 => fp32.isSub a
  | c => narrowTarget c && (fp32.isSub a || fp32.isSub mult)

/-- VCVT (R393). -/
def execVcvt (code : BitVec 6) (vd va vb : Fin 16) (m : VMask) (s : State) : Host.Outcome State Fault Refusal :=
  let sl := s.slot
  let c := code.toNat
  let ext := sl.fmtMode.getLsbD 0
  let reads := [va] ++ (if narrowTarget c then [vb] else []) ++ (if takesZero c then [vd] else [])
  finish s 4 (vecFp s reads vd m false false 1 fun i =>
    let r := vecConvert c ext sl.fpEnv (sl.velem va i) (sl.velem vb i) (sl.velem vd i)
    (r, convSub c (sl.velem va i) (sl.velem vb i) r.1))

/-! ### Reduction (R106, R400) -/

/-- One level of the tree: pairs of neighbours combined. -/
def pairUp {α : Type} (f : α → α → α) : List α → List α
  | a :: b :: r => f a b :: pairUp f r
  | l => l

/-- The pairwise tree of at most 2^fuel inputs. -/
def treeFold {α : Type} (f : α → α → α) (d : α) : Nat → List α → α
  | 0, l => l.headD d
  | n + 1, l => treeFold f d n (pairUp f l)

/-- A value of the FP tree: its bits, its lowest input, the flags of the steps below it with the lowest input of each,
and whether a subnormal was met. -/
structure RedVal where
  bits : Nat
  low : Nat
  fls : List (Nat × Nat)
  sub : Bool

def redStep (f : FpFmt) (op : Nat → Nat → Nat × Nat) (a b : RedVal) : RedVal :=
  let r := op a.bits b.bits
  { bits := r.1, low := a.low, fls := a.fls ++ b.fls ++ [(a.low, r.2)], sub := a.sub || b.sub || f.isSub r.1 }

/-- An FP reduction. -/
def vecRedFp (s : State) (p : Prec) (ident : Nat) (op : Nat → Nat → Nat × Nat) (va : Fin 16) (m : VMask) : Effect :=
  let sl := s.slot
  let pair := p == .d
  let reads := va :: maskReads m none
  let n := sl.vcount pair
  vecStart s reads <|
    let ins := (List.range n).map fun i =>
      let x := if sl.vactive m i then sl.vget pair va i else ident
      ({ bits := x, low := i, fls := [], sub := p.fmt.isSub x } : RedVal)
    let r := treeFold (redStep p.fmt op) ⟨ident, 0, [], false⟩ 6 ins
    let fl := r.fls.foldl (fun a q => a ||| q.2) 0
    vecFlags s r.fls fun _ s =>
      let s := enterLanes s (laneOp s (1 + Nat.log2 n + replay r.sub) 0 reads none none)
      .done ((pushTo s .queue (word r.bits)).modSlot (·.orFlags fl))

/-- An integer reduction. -/
def vecRedInt (s : State) (ident : Int) (signed : Bool) (op : Int → Int → Int) (va : Fin 16) (m : VMask) : Effect :=
  let sl := s.slot
  let reads := va :: maskReads m none
  let n := sl.vcount false
  vecStart s reads <|
    let ins := (List.range n).map fun i =>
      if sl.vactive m i then (if signed then i32 (sl.velem va i) else (sl.velem va i : Int)) else ident
    let s := enterLanes s (laneOp s (1 + Nat.log2 n) 0 reads none none)
    .done (pushTo s .queue (BitVec.ofInt 64 (treeFold op ident 6 ins)))

/-- VRED (R400). -/
def execVred (op : VRedOp) (va : Fin 16) (m : VMask) (s : State) : Host.Outcome State Fault Refusal :=
  let env := s.slot.fpEnv
  finish s 4 (
    match op with
    | .addI => vecRedInt s 0 true (· + ·) va m
    | .minI => vecRedInt s 0x7FFFFFFF true min va m
    | .maxI => vecRedInt s (-0x80000000) true max va m
    | .or => vecRedInt s 0 false (fun a b => ((a.toNat ||| b.toNat : Nat) : Int)) va m
    | .and => vecRedInt s 0xFFFFFFFF false (fun a b => ((a.toNat &&& b.toNat : Nat) : Int)) va m
    | .addS => vecRedFp s .s 0x80000000 (fp32.add env) va m
    | .addD => vecRedFp s .d (2 ^ 63) (fp64.add env) va m
    | .minS => vecRedFp s .s 0x7F800000 (fp32.pick false) va m
    | .maxS => vecRedFp s .s 0xFF800000 (fp32.pick true) va m)

/-! ### OP 0x48 (R390) -/

/-- VBCAST (R390). -/
def execVbcast (p : Prec) (vd : Fin 16) (m : VMask) (a : SrcM) (s : State) : Host.Outcome State Fault Refusal :=
  finish s 4 (ops1 s .z a fun x s => vecMap s [] vd m (p == .d) fun _ => x.toNat)

/-- VEXT (R390). (DEDUCED, log 38) -/
def execVext (k : VExtKind) (va : Fin 16) (a : SrcM) (s : State) : Host.Outcome State Fault Refusal :=
  finish s 4 (ops1 s .z a fun i s =>
    let sl := s.slot
    let pair := k == .d
    vecStart s [va] <|
      if sl.vcount pair ≤ i.toNat then .trap (.illegal i)
      else
        let x := sl.vget pair va i.toNat
        let y := if k == .sw then BitVec.ofInt 64 (i32 x) else word x
        .done (pushTo (enterLanes s (laneOp s 1 0 [va] none none)) .queue y))

/-- Active elements below `i`. -/
def activeBelow (sl : Slot) (m : VMask) (i : Nat) : Nat := ((List.range i).filter fun j => sl.vactive m j).length

/-- VIOTA (R390). -/
def execViota (vd : Fin 16) (m : VMask) (s : State) : Host.Outcome State Fault Refusal :=
  finish s 4 (vecMap s [] vd m false fun i => activeBelow s.slot m i)

/-- VPOPC (R390). -/
def execVpopc (va vm : Fin 16) (me : Bool) (s : State) : Host.Outcome State Fault Refusal :=
  let sl := s.slot
  let m : VMask := ⟨vm, me, false⟩
  let reads := va :: maskReads m none
  finish s 4 (vecStart s reads <|
    let c := ((List.range sl.vl).filter fun i => sl.vactive m i && sl.velem va i % 2 == 1).length
    .done (pushTo (enterLanes s (laneOp s 1 0 reads none none)) .queue (word c)))

end Sys2Proof.Machine
end

