-- ==== Sys2Proof/Machine/Anvil.lean ====
section
/-! DEFINITION. The Anvil (R224-R233, R103-R105, R312, R314, R315, R317): operand rings, the coprocessor port (R207), tile
arithmetic, and `await` (R319). -/

namespace Sys2Proof.Machine

/-! ### Modes and rings (R225, R308) -/

/-- Elements of a row in a mode (R308). -/
def modeK (mode : Nat) : Nat :=
  match mode with
  | 0 => 6
  | 1 => 12
  | 2 => 24
  | 3 => 24
  | 6 => 64
  | 7 => 64
  | 8 => 96
  | 11 => 96
  | 12 => 96
  | _ => 48

def Ring.rowBytes (r : Ring) : Nat :=
  if r.mode ≤ 3 then 48 else ceilDiv (modeK r.mode) r.group * recordBytes r.mode r.group r.bx

def Ring.stride (r : Ring) : Nat := ceilDiv (16 * r.rowBytes) 64 * 64

/-- Slots not filled, and full slots not read, counted modulo 2^32 (R226). -/
def Ring.free (r : Ring) : Nat := r.slots - mod32 (r.tail + 2 ^ 32 - r.head)
def Ring.unread (r : Ring) : Nat := mod32 (r.tail + 2 ^ 32 - r.read)

/-- Memory key of the slot that is read next. -/
def Ring.slotKey (r : Ring) : Nat := r.base + r.stride * (r.read % r.slots)

def State.ring? (s : State) (h i : Nat) : Option Ring := (s.hearth h).held.rings.getD i none

def State.setRing (s : State) (h i : Nat) (r : Option Ring) : State :=
  s.modHearth h fun x => { x with held := { x.held with rings := x.held.rings.set i r } }

/-- A core owns a tile for a launch (R229). -/
def ownsTile (s : State) (l c t : Nat) : Bool :=
  let w := (s.lr l 15).toNat
  bitsOf w (48 + t) (48 + t) == 1 && bitsOf w (3 * t + 2) (3 * t) == c % 8

/-! ### Exact sums over the extended reals (R103, R104) -/

/-- A sum of terms: whether a NaN or an invalid operation has been met, infinities of each sign, and the finite part
v * 2^q. -/
structure XSum where
  nan : Bool := false
  nv : Bool := false
  pinf : Bool := false
  ninf : Bool := false
  v : Int := 0
  q : Int := 0

/-- Adds the product of two values; the flags say that a factor is a signalling NaN. -/
def XSum.addProduct (t : XSum) (a b : FVal × Bool) : XSum :=
  let nv := t.nv || a.2 || b.2 || a.1.invalidTimes b.1
  match a.1.times b.1 with
  | .nan => { t with nan := true, nv := nv }
  | .inf n => { t with pinf := t.pinf || !n, ninf := t.ninf || n, nv := nv }
  | .num n m e =>
    if m = 0 then { t with nv := nv }
    else if t.v = 0 then { t with v := scaled n m 0 0, q := e, nv := nv }
    else
      let q := min t.q e
      { t with v := t.v * 2 ^ (t.q - q).toNat + scaled n m e q, q := q, nv := nv }

/-- The value of the sum and whether NV is raised. A NaN element makes it NaN, and infinities of both signs beside one raise
nothing. (DEDUCED, log 42) -/
def XSum.value (t : XSum) : FVal × Bool :=
  if t.nan then (.nan, t.nv)
  else if t.pinf && t.ninf then (.nan, true)
  else if t.pinf then (.inf false, t.nv)
  else if t.ninf then (.inf true, t.nv)
  else (.num (decide (t.v < 0)) t.v.natAbs t.q, t.nv)

/-- The sum of a value in a format and an exact value, rounded once. -/
def FpFmt.accumulate (f : FpFmt) (env : FpEnv) (acc : Nat) (x : FVal) : Nat × Nat :=
  let nv := flagIf (f.isSnan acc) flNV
  match f.val acc, x with
  | .nan, _ => (f.nan, nv)
  | _, .nan => (f.nan, nv)
  | .inf a, .inf b => if a == b then (f.inf a, 0) else (f.nan, flNV)
  | .inf a, _ => (f.inf a, 0)
  | _, .inf b => (f.inf b, 0)
  | .num n1 m1 e1, .num n2 m2 e2 => f.sum env n1 m1 e1 n2 m2 e2

/-! ### Operand rows (R99, R225) -/

/-- One group of a row: its scale and its elements with zero point and block exponent applied, each with whether it is a
signalling NaN. -/
abbrev Group := (FVal × Bool) × List (FVal × Bool)

/-- An element of a narrow record as `amm` takes it (R103). (DEDUCED, log 42) -/
def narrowElem (mode : Nat) (ext zp : Bool) (e : Elem) : FVal × Bool :=
  let v := if 9 ≤ mode then
      let q := narrowInt mode e.code - (if zp then (e.zero : Int) else 0)
      FVal.num (decide (q < 0)) q.natAbs 0
    else narrowVal mode ext e.code
  match v with
  | .num n m x => (.num n m (x - e.block), false)
  | v => (v, false)

/-- The groups of row `i` of the slot at a key. -/
def ringRow (mem : List Host.Cell) (r : Ring) (key : Nat) (ext zp : Bool) (i : Nat) : List Group :=
  let row := key + i * r.rowBytes
  let k := modeK r.mode
  if r.mode ≤ 3 then
    let f := if r.mode = 2 then fp16 else bf16
    let el := (List.range k).map fun j =>
      let x := memNat mem (row + 2 * j) 2
      (f.val x, f.isSnan x)
    [((.num false 1 0, false), el)]
  else (List.range (ceilDiv k r.group)).map fun g =>
    let rec_ := row + g * recordBytes r.mode r.group r.bx
    let el := (List.range (min r.group (k - g * r.group))).map fun p =>
      narrowElem r.mode ext zp (elemAt mem rec_ r.mode r.group r.bx r.zp p)
    ((fp16.val (memNat mem rec_ 2), fp16.isSnan (memNat mem rec_ 2)), el)

/-- One group's addition to an accumulator element (R103, R104): bits and flags. A sum of zero is +0, whatever the signs of its
products. (DEDUCED, log 42) -/
def addGroup (env : FpEnv) (acc : Nat × Nat) (p : Group × Group) : Nat × Nat :=
  let t := ((p.1.2.zip p.2.2).foldl (fun t x => t.addProduct x.1 x.2) ({} : XSum)).value
  let x := t.1.times p.1.1.1
  let y := x.times p.2.1.1
  let nv := t.2 || p.1.1.2 || p.2.1.2 || t.1.invalidTimes p.1.1.1 || x.invalidTimes p.2.1.1
  let y := match y with
    | .num _ 0 e => .num false 0 e
    | v => v
  let r := fp32.accumulate env acc.1 y
  (r.1, acc.2 ||| r.2 ||| flagIf nv flNV)

/-- One element of an FP32 or FP64 `amm`: a chain of fused multiply-adds (R105). -/
def chain (f : FpFmt) (env : FpEnv) (acc : Nat) (xs : List (Nat × Nat)) : Nat × Nat :=
  xs.foldl (fun a x => let r := f.fma env false false x.1 x.2 a.1; (r.1, a.2 ||| r.2)) (acc, 0)

/-- Row `i` of an FP32 or FP64 slot. -/
def wideRow (mem : List Host.Cell) (r : Ring) (key i : Nat) : List Nat :=
  let w := if r.mode = 0 then 8 else 4
  (List.range (modeK r.mode)).map fun k => memNat mem (key + 48 * i + w * k) w

/-- Accumulator element (i, j), and a pair's. -/
def tileElem (acc : List (List (BitVec 32))) (t n : Nat) : Nat := ((acc.getD t []).getD n 0).toNat
def pairElem (acc : List (List (BitVec 32))) (t n : Nat) : Nat := tileElem acc t n + 2 ^ 32 * tileElem acc (t + 1) n

/-- The 256 new elements of the tile, each with its flags (R103-R105). (DEDUCED, log 42) -/
def ammElems (mem : List Host.Cell) (acc : List (List (BitVec 32))) (env : FpEnv) (ext zp : Bool) (tile : Nat) (ra rb : Ring) :
    List (Nat × Nat) :=
  let a := ra.slotKey
  let b := rb.slotKey
  if ra.mode ≤ 1 then
    let f := if ra.mode = 0 then fp64 else fp32
    let rows := (List.range 16).map (wideRow mem ra a)
    let cols := (List.range 16).map (wideRow mem rb b)
    rows.zipIdx.flatMap fun x => cols.zipIdx.map fun y =>
      let n := 16 * x.2 + y.2
      chain f env (if ra.mode = 0 then pairElem acc tile n else tileElem acc tile n) (x.1.zip y.1)
  else
    let rows := (List.range 16).map (ringRow mem ra a ext zp)
    let cols := (List.range 16).map (ringRow mem rb b ext zp)
    rows.zipIdx.flatMap fun x => cols.zipIdx.map fun y =>
      (x.1.zip y.1).foldl (addGroup env) (tileElem acc tile (16 * x.2 + y.2), 0)

/-- Writes a tile, or the pair of an FP64 tile (R229). -/
def setTile (acc : List (List (BitVec 32))) (t : Nat) (pair : Bool) (vals : List Nat) : List (List (BitVec 32)) :=
  let acc := acc.set t (vals.map fun v => BitVec.ofNat 32 v)
  if pair then acc.set (t + 1) (vals.map fun v => BitVec.ofNat 32 (v / 2 ^ 32)) else acc

def State.setTile (s : State) (h t : Nat) (pair : Bool) (vals : List Nat) : State :=
  s.modHearth h fun x => { x with held := { x.held with acc := Machine.setTile x.held.acc t pair vals } }

/-! ### The coprocessor port (R207) -/

/-- The slots of a core whose Anvil operations still wait at the port, the head first. -/
def Core.waitingPort (k : Core) : List Nat := k.port.filter fun t => (k.slot t).held && (k.slot t).atPort

/-- The slot's operation waits at the port, behind those of its core that came before. -/
def portWait (s : State) : State :=
  let t := s.cur.2
  let s := s.modMyCore fun k =>
    if natMem k.waitingPort t then { k with port := k.waitingPort } else { k with port := k.waitingPort ++ [t] }
  s.modSlot fun sl => { sl.waits with atPort := true }

/-- An operation of another core of the hearth waits at the port. -/
def portOthers (s : State) : Bool :=
  [0, 1, 2, 3, 4, 5, 6, 7].any fun i =>
    8 * s.myHearth + i != s.cur.1 && !(s.core (8 * s.myHearth + i)).waitingPort.isEmpty

/-- The operation at hand is not the port's to take: its core's earlier ones wait, the port has taken one in this cycle, or
others wait too and it has not been chosen among them (R207). -/
def portBlocked (chosen : Bool) (s : State) : Bool :=
  (s.myCore.waitingPort.headD s.cur.2 != s.cur.2) || decide (s.cycle < (s.hearth s.myHearth).nextAccept) ||
    (!chosen && portOthers s)

/-- It joins those that wait, and the port chooses. -/
def portJoin (s : State) : Effect := .stay ((portWait s).poke ⟨.anvilPortAccept, { hearth := s.myHearth }⟩)

/-- Offers an operation to the port: `s0` is the state before its operands were read. It waits while the port does not take
it, and while `k` has it wait. (DESIGN CHOICE, log 41) -/
def portTry (chosen : Bool) (s0 s : State) (k : State → Effect) : Effect :=
  if portBlocked chosen s0 then portJoin s0
  else match k s with
    | .wait => .stay (portWait s0)
    | .hold => .stay (portWait s0)
    | e => e

/-- Operations of a core retire in its program order (R207). -/
def lastRetire (x : Hearth) (c : Nat) : Nat := (x.ops.filter (·.core == c)).foldl (fun m o => max m o.retireAt) 0

/-- The port has served the slot at hand in this cycle (R207). -/
def portServed (s : State) : State :=
  let c := s.cur.1
  let t := s.cur.2
  let s := s.modHearth s.myHearth fun x => { x with portLast := c % 8, nextAccept := s.cycle + 1 }
  let s := s.modMyCore fun k => { k with port := k.port.filter (· ≠ t) }
  s.modSlot fun sl => { sl with atPort := false, wantsToken := false }

/-- The port accepts an operation under a number (0: none waits for its writes) that retires `n` cycles on; the task issues
nothing until then. (DESIGN CHOICE, log 41) -/
def acceptAs (id : Nat) (rest : List (Word × Remote)) (s : State) (n : Nat) (writes pops rings alone : List Nat)
    (isAmm : Bool) : Effect :=
  let c := s.cur.1
  let t := s.cur.2
  let s := s.modHearth s.myHearth fun x =>
    let o : AnvilOp := { id := id, core := c, slot := t, writes := writes, pops := pops, rings := rings, alone := alone
                         retireAt := max (s.cycle + n) (lastRetire x c), isAmm := isAmm, rest := rest }
    { x with ops := x.ops ++ [o] }
  .stay ((portServed s).modSlot fun sl => { sl with stall := .anvil (sl.pc + 4) })

/-- The same of an operation that writes nothing outside the part. -/
def accept (s : State) (n : Nat) (writes pops rings alone : List Nat) (isAmm : Bool) : Effect :=
  acceptAs 0 [] s n writes pops rings alone isAmm

/-- The operation is held for a half of host memory (R255). -/
def holdFor (s : State) (half : Nat) (store : Bool) : Effect :=
  .stay ((askHost s half (if store then .rdOwn else .rdShared)).modSlot fun sl => { sl with stall := .held })

/-- A load of the Anvil meets poison at a place: as its task reads the bytes (R167, R230). -/
def placePoison (s : State) (n : Nat) (p : Place) : Bool :=
  match p with
  | .peerSram _ => false
  | .mem (.peer _ _) _ => false
  | .mem t true => poisonedUnder s s.slot.hypCur t.key n
  | p => poisoned s.poison p.key n

/-- The bytes of a place come to the core's die (R129), but for those of a line that is at hand. -/
def fetchPlace (n : Nat) (s : State) (p : Place) : State :=
  let cross := fun key : Nat => crossDies s (keyDie s key) (dieOf s.cur.1) key n
  match p with
  | .peerSram _ => s
  | .mem (.peer _ _) _ => s
  | .mem t cacheable => if cacheable && lineReady s s.cur.1 (s.follow s.slot.hypCur) t false then s else cross t.key
  | p => cross p.key

/-- The Anvil reads places of `n` bytes for the task at hand: it waits for host memory (R255), for the task's stores to them
(R119) and for their stacks (R284), and the bytes come to its die. `s` is the state before the operands were read. -/
def engineRead (s s1 : State) (ps : List Place) (n : Nat) (posted : Bool) (k : State → Effect) : Effect :=
  match hostLacks s false ps with
  | some half => holdFor s half false
  | none =>
    if posted then .hold
    else
      let touch := fun (s : State) => ps.foldl (fun s p => touchKey s p.key) s
      if ps.all fun p => stackReady (touch s) p.key then k (ps.foldl (fetchPlace n) (touch s1))
      else .stay ((touch s).modSlot fun sl => { sl with stall := .held })

/-- A ring operand: a number 0-15, or ILLEGAL with the value. -/
def ringOperand (v : Word) (k : Nat → Effect) : Effect := if 16 ≤ v.toNat then .trap (.illegal v) else k v.toNat

def ringTrap (i : Nat) : Effect := .trap { cause := .ring, info := word i }

/-! ### `aring` (R317, R226) -/

/-- Reads words for an engine operation; a peer's words are free values. (DESIGN CHOICE, log 44) -/
def readWords (s : State) (p : Place) (n : Nat) : List Word :=
  match p with
  | .peerSram _ => (List.range n).map fun i => Config.freeWord (s.freeCtr + i)
  | .mem (.peer _ _) _ => (List.range n).map fun i => Config.freeWord (s.freeCtr + i)
  | .mem t cacheable =>
    (List.range n).map fun i => word (natUnder s (if cacheable then s.slot.hypCur else 0) (t.key + 8 * i) 8)
  | p => (List.range n).map fun i => memWord s.mem (p.key + 8 * i)

/-- A ring's base: a window-0 address of a unit of this hearth (R224). -/
def ringUnit (s : State) (base : Nat) : Option (Nat × Nat) :=
  let u := bitsOf base 39 36
  if bitsOf base 63 56 == 0xFE && s.thisDevice (bitsOf base 55 50) && bitsOf base 49 40 == s.myHearth && u ≤ 8 &&
      bitsOf base 35 32 == 0 then some (u, bitsOf base 31 0)
  else none

/-- The bytes of a unit of this hearth: the pool, or a scratchpad up to its top (R113, R226). -/
def ringLimit (s : State) (u : Nat) : Nat :=
  trueLimit s s.myHearth u

/-- The checks of R226 in their order, and the definition that passes them (none: the ring becomes undefined). -/
def checkRing (s : State) (i : Nat) (d : List Word) : Except Trap (Option Ring) :=
  let d0 := (d.getD 0 0).toNat
  let d1 := (d.getD 1 0).toNat
  let d2 := (d.getD 2 0).toNat
  let d3 := (d.getD 3 0).toNat
  let slots := bitsOf d1 42 32
  let w := bitsOf d1 19 16
  let mode := bitsOf d1 3 0
  let fw := s.myCore.fmtWindow w
  let r : Ring := { base := 0, slots := slots, mode := mode, group := winGroup fw, bx := winBx fw, zp := winZp fw
                    head := mod32 d2, tail := mod32 d3, read := mod32 d2 }
  if bitsOf d1 63 43 ≠ 0 || bitsOf d1 31 20 ≠ 0 || bitsOf d1 15 4 ≠ 0 || bitsOf d2 63 32 ≠ 0 || bitsOf d3 63 32 ≠ 0 ||
      1024 < slots || d0 % 64 ≠ 0 then .error (.illegal 0)
  else if 13 ≤ mode then .error (.illegal 0)
  else match ringUnit s d0 with
    | none => .error { cause := .access, addr := word d0 }
    | some (u, off) =>
      if ringLimit s u ≤ off || ringLimit s u < off + (if fw = 0 && 4 ≤ mode then 0 else r.stride * slots) then
        .error { cause := .access, addr := word d0 }
      else if (mode ≤ 3 && w ≠ 0) || (4 ≤ mode && (fw = 0 || winFormat fw ≠ mode)) then
        .error { cause := .format, info := word w }
      else if slots < mod32 (r.tail + 2 ^ 32 - r.head) then .error { cause := .ring, info := word i }
      else if slots = 0 then .ok none
      else .ok (some { r with base := sramKey s.myHearth u off })

/-- The unit of another core or hearth that a descriptor lies in: asleep (R284), or it refuses the load (R115). -/
inductive UnitAnswer where
  | asleep (s : State)
  | refuses
  | serves
  deriving DecidableEq, Repr

/-- What the unit of a place answers to a load of the task at hand. -/
def unitAnswer (s : State) (n : Nat) (p : Place) : UnitAnswer :=
  match p with
  | .sram h u off =>
    if isLocalUnit s.cur.1 h u then .serves
    else if !awake (rouse s h) h then .asleep (rouse s h)
    else if (unitRefusal s h u off n fun l => s.asidOf l == s.slot.asid).isSome then .refuses else .serves
  | _ => .serves

/-- ARING (R317): the descriptor's load waits for an overlapping posted store (R119), and the unit that holds it may refuse it
(R115). -/
def aringEffect (chosen : Bool) (s : State) (a b : SrcM) : Effect :=
  memGate s <| ops2 s .z a b fun r p s1 => ringOperand r fun i =>
    if p.toNat % 32 ≠ 0 then .trap { cause := .misalign, addr := p, info := kindInfo .load 0 }
    else match locate s .load 32 p 0 with
      | .error t => .trap t
      | .ok (.window _ _ _ w _) => .trap { cause := .format, addr := p, info := word w }
      | .ok pl =>
        let b := loadRange s 32 p pl
        match unitAnswer s 32 pl with
        | .asleep s => .stay (s.modSlot fun sl => { sl with stall := .held })
        | .refuses => .trap { cause := .access, addr := p, info := kindInfo .load 0 }
        | .serves =>
          engineRead s (s1.tlbFor p) [pl] 32 (journalOverlap s.myCore b.1 b.2 || lineWaits s s.cur.1 s.cur.2 b.1 b.2) fun s1 =>
            if placePoison s1 32 pl then
              .trapIn (fetchPlace 32 (s.tlbFor p) pl) { cause := .poison, addr := p, info := kindInfo .load 0 }
            else
              let d := readWords s pl 4
              portTry chosen s { s1 with freeCtr := s1.freeCtr + 4 } fun s =>
                if (s.hearth s.myHearth).ops.any fun o => natMem o.rings i then .wait
                else match checkRing s i d with
                  | .error t => .trap t
                  | .ok x => accept (s.setRing s.myHearth i x) 1 [] [] [i] [] false

def execAring (a b : SrcM) (s : State) : Host.Outcome State Fault Refusal := finish s 4 (aringEffect false s a b)

/-! ### `aadv` (R312) -/

/-- `aadv` with FN 0: once the port takes it and its ring is defined it reads B, and with its checks made it is a release of the
task's earlier stores (R133, R139). -/
def aadvEffect (chosen : Bool) (s : State) (a b : SrcM) : Effect :=
  memGate s <| ops1 s .z a fun r s1 => ringOperand r fun i =>
    portTry chosen s s1 fun s =>
      match s.ring? s.myHearth i with
      | none => ringTrap i
      | some x =>
        ops1 s .z b fun n s' =>
          if n = 0 || x.free < n.toNat then ringTrap i
          else releaseGate s
            (accept (s'.setRing s.myHearth i (some { x with tail := mod32 (x.tail + n.toNat) })) 1 [] [] [i] [] false)

/-- AADV (R312). -/
def execAadv (a b : SrcM) (s : State) : Host.Outcome State Fault Refusal := finish s 4 (aadvEffect false s a b)

def aadvStatEffect (chosen : Bool) (s : State) (d : Dst) (a : SrcM) : Effect :=
  memGate s <| ops1 s d a fun r s1 => ringOperand r fun i =>
    portTry chosen s s1 fun s =>
      match s.ring? s.myHearth i with
      | none => ringTrap i
      | some x => accept (pushTo s d (word (x.free * 2 ^ 48 + x.unread * 2 ^ 32 + x.head))) 1 [] [] [i] [] false

/-- AADV_STAT (R312). -/
def execAadvStat (d : Dst) (a : SrcM) (s : State) : Host.Outcome State Fault Refusal := finish s 4 (aadvStatEffect false s d a)

/-! ### `amm` (R228, R315) -/

/-- Start spacing of a mode (R231). -/
def startGap (mode : Nat) : Nat := if mode = 0 then 16 else if mode = 1 then 4 else 1

/-- A gated sub-array begins to wake (R232). (DESIGN CHOICE, log 59) -/
def wakeSub (s : State) (h i : Nat) : State :=
  s.modHearth h fun x =>
    let b := x.subs.getD i {}
    if b.gated && b.waking.isNone then { x with subs := padSet {} x.subs i { b with waking := some (s.cycle + Config.awake) } } else x

/-- The sub-array of a tile is gated. -/
def subGated (s : State) (h tile : Nat) : Bool := ((s.hearth h).subs.getD (tile / 4) {}).gated

/-- An operation starts on a sub-array. -/
def markStart (s : State) (h tile : Nat) : State :=
  s.modHearth h fun x =>
    { x with subs := padSet {} x.subs (tile / 4) { x.subs.getD (tile / 4) {} with lastStart := s.cycle } }

/-- Another operation holds a ring alone, or this one would and another names it (R228). -/
def ringHeld (x : Hearth) (ra rb : Nat) (alone : Bool) : Bool :=
  x.ops.any fun o => o.isAmm && (natMem o.alone ra || natMem o.alone rb || (alone && (natMem o.rings ra || natMem o.rings rb)))

/-- A ring has no slot to read; one that is undefined is no wait (R315). -/
def noSlot (x : Option Ring) : Bool :=
  match x with
  | some x => x.unread == 0
  | none => false

/-- What an `amm` still waits for: a token asked for, a sub-array waking. (DESIGN CHOICE, log 41) -/
def ammWaits (s : State) (acc : Nat) (mode : Nat) (ra rb : Nat) (alone : Bool) : Option State :=
  let h := s.myHearth
  let k := s.hearth h
  if noSlot (s.ring? h ra) || noSlot (s.ring? h rb) || ringHeld k ra rb alone then some s
  else if mode ≤ 1 && !k.token then
    some ((s.modSlot fun sl => { sl with wantsToken := true }).poke ⟨.tokenArrival, { hearth := h }⟩)
  else if subGated s h acc then some (wakeSub s h (acc / 4))
  else if s.cycle < k.nextStart then some s
  else none

/-- What the start of an `amm` does to the pace of its Anvil, to its hearth's token and to its sub-array (R231-R233); one that
traps FP has started too. (DESIGN CHOICE, log 59) -/
def markAmm (s : State) (acc mode : Nat) : State :=
  let h := s.myHearth
  markStart (s.modHearth h fun k =>
    { k with nextStart := s.cycle + startGap mode, tokenUsed := if mode ≤ 1 then s.cycle else k.tokenUsed }) h acc

/-- The start of an `amm` (R228): the slots are read and popped, and the tile is updated unless an enabled exception
traps. (DESIGN CHOICE, log 41) -/
def ammStartEffect (s : State) (acc ra rb mode : Nat) (zp : Bool) (popA popB : Bool) (x y : Ring) : Effect :=
  let h := s.myHearth
  let sl := s.slot
  let el := ammElems s.mem (s.hearth h).held.acc sl.fpEnv (sl.fmtMode.getLsbD 0) zp acc x y
  let fl := el.foldl (fun a e => a ||| e.2) 0
  let alone := sl.fpTraps
  if sl.traps fl then
    .trapIn ((portServed (markAmm s acc mode)).modSlot (·.orFlags fl)) { cause := .fp, info := word fl }
  else
    let s := if popA then s.setRing h ra (some { x with read := mod32 (x.read + 1) }) else s
    let y' := if popA && ra == rb then none else some y
    let s := match y', popB with
      | some y, true => s.setRing h rb (some { y with read := mod32 (y.read + 1) })
      | _, _ => s
    let pops := (if popA then [ra] else []) ++ (if popB && !(popA && ra == rb) then [rb] else [])
    let s := (s.setTile h acc (mode == 0) (el.map (·.1))).modSlot (·.orFlags fl)
    accept (markAmm s acc mode) Config.ammLatency (if mode = 0 then [acc, acc + 1] else [acc]) pops [ra, rb]
      (if alone then [ra, rb] else []) true

/-- `amm` at the port (R228, R315): the checks are made when it starts. -/
def ammEffect (chosen : Bool) (s : State) (acc ra rb : Fin 16) (mode : BitVec 4) (zp : Bool) (pop : BitVec 2) : Effect :=
  memGate s <|
    let h := s.myHearth
    let m := mode.toNat
    if portBlocked chosen s then portJoin s
    else match ammWaits s acc.val m ra.val rb.val s.slot.fpTraps with
      | some s => .stay (portWait s)
      | none =>
        match s.ring? h ra.val, s.ring? h rb.val with
        | none, _ => ringTrap ra.val
        | _, none => ringTrap rb.val
        | some x, some y =>
          let own := fun t : Nat => ownsTile s s.slot.launch s.cur.1 t
          if x.mode ≠ m || y.mode ≠ m || (4 ≤ m && x.group ≠ y.group) then .trap { cause := .format, info := word m }
          else if !own acc.val || (m = 0 && !own (acc.val + 1)) then
            .trap { cause := .tile, info := word (if own acc.val then acc.val + 1 else acc.val) }
          else ammStartEffect s acc.val ra.val rb.val m zp (pop.getLsbD 0) (pop.getLsbD 1) x y

/-- AMM (R315). -/
def execAmm (acc ra rb : Fin 16) (mode : BitVec 4) (zp : Bool) (pop : BitVec 2) (s : State) :
    Host.Outcome State Fault Refusal :=
  finish s 4 (ammEffect false s acc ra rb mode zp pop)

/-! ### `azero`, `ald`, `ast` (R314) -/

/-- Bytes of an element in memory by FMT. -/
def fmtBytes (fmt : Nat) : Nat := if fmt = 0 then 8 else if fmt = 1 then 4 else 2

/-- The tiles an operation of a format names. -/
def fmtTiles (acc fmt : Nat) : List Nat := if fmt = 0 then [acc, acc + 1] else [acc]

/-- Tile ownership, and the waits for earlier operations on the tiles and for a gated sub-array; then the operation. -/
def tileOp (chosen : Bool) (s0 s : State) (acc fmt : Nat) (k : State → Effect) : Effect :=
  match (fmtTiles acc fmt).find? fun t => !ownsTile s s.slot.launch s.cur.1 t with
  | some t => .trap { cause := .tile, info := word t }
  | none =>
    let h := s.myHearth
    portTry chosen s0 s fun s =>
      if (s.hearth h).ops.any fun o => o.core == s.cur.1 && o.writes.any (natMem (fmtTiles acc fmt)) then .wait
      else if subGated s h acc then .stay (portWait (wakeSub s0 h (acc / 4)))
      else k (markStart s h acc)

def azeroEffect (chosen : Bool) (s : State) (acc fmt : Nat) : Effect :=
  tileOp chosen s s acc fmt fun s =>
    accept (s.setTile s.myHearth acc (fmt == 0) (List.replicate 256 0)) 1 (fmtTiles acc fmt) [] [] [] false

/-- AZERO (R314). -/
def execAzero (acc : Fin 16) (single : Bool) (s : State) : Host.Outcome State Fault Refusal :=
  finish s 4 (azeroEffect false s acc.val (if single then 1 else 0))

/-- A place the Anvil reaches (R314): the core's own scratchpad, its hearth's pool, or translated memory. -/
def anvilPlace (s : State) (k : AccKind) (va : Word) (p : Place) : Except Trap Place :=
  match p with
  | .sram h u off =>
    if isLocalUnit s.cur.1 h u then .ok (.sram h u off) else .error { cause := .access, addr := va, info := kindInfo k 0 }
  | .peerSram _ => .error { cause := .access, addr := va, info := kindInfo k 0 }
  | .window q h u w _ =>
    if q.isSome || !isLocalUnit s.cur.1 h u then .error { cause := .access, addr := va, info := kindInfo k 0 }
    else .error { cause := .format, addr := va, info := word w }
  | p => .ok p

/-- The places of the granules of a tile in memory, or the first fault (R314). -/
def tilePlaces (s : State) (k : AccKind) (va : Word) : Nat → Except Trap (List Place)
  | 0 => .ok []
  | n + 1 =>
    match locate s k 64 va 0 with
    | .error t => .error t
    | .ok p =>
      match anvilPlace s k va p with
      | .error t => .error t
      | .ok p =>
        match tilePlaces s k (va + 64) n with
        | .error t => .error t
        | .ok r => .ok (p :: r)

/-- A posted store of this core, or a store of the task, to a granule of the tile is on its way (R119, R131, R139). -/
def tilePosted (s : State) (va : Word) (ps : List Place) : Bool :=
  ps.zipIdx.any fun p =>
    let b := loadRange s 64 (va + word (64 * p.2)) p.1
    journalOverlap s.myCore b.1 b.2 || lineWaits s s.cur.1 s.cur.2 b.1 b.2

/-- The bytes of a granule; a peer's are free values. (DESIGN CHOICE, log 44) -/
def granuleBytes (s : State) (i : Nat) (p : Place) : List Byte :=
  match p with
  | .mem (.peer _ _) _ => (List.range 64).map fun j => BitVec.setWidth 8 (Config.freeWord (s.freeCtr + 64 * i + j))
  | .mem t cacheable => leBytes (natUnder s (if cacheable then s.slot.hypCur else 0) t.key 64) 64
  | p => memBytes s.mem p.key 64

/-- A loaded element (R230): bits, and flags. (DEDUCED, log 43) -/
def widen (fmt x : Nat) : Nat × Nat :=
  match fmt with
  | 2 => ((fp16.to fp32 ⟨.rne, false⟩ x).1, fp16.snans [x])
  | 3 => ((bf16.to fp32 ⟨.rne, false⟩ x).1, bf16.snans [x])
  | _ => (x, 0)

/-- A stored element (R230): bits, and flags. -/
def narrowTo (fmt : Nat) (env : FpEnv) (x : Nat) : Nat × Nat :=
  match fmt with
  | 2 => fp32.to fp16 env x
  | 3 => fp32.to bf16 env x
  | _ => (x, 0)

/-- The `n`-byte numbers of a byte list. -/
def chunks (n : Nat) : Nat → List Byte → List Nat
  | 0, _ => []
  | k + 1, l => leNat (l.take n) :: chunks n k (l.drop n)

def aldEffect (chosen : Bool) (s : State) (acc : Nat) (a : SrcM) (fmt : Nat) : Effect :=
  memGate s <| ops1 s .z a fun va s1 =>
    let w := fmtBytes fmt
    let n := 4 * w
    if va.toNat % 64 ≠ 0 then .trap { cause := .misalign, addr := va, info := kindInfo .load 0 }
    else match tilePlaces s .load va n with
      | .error t => .trap t
      | .ok ps =>
        engineRead s (s1.tlbFor va) ps 64 (tilePosted s va ps) fun s1 =>
          match (ps.zipIdx.find? fun p => placePoison s1 64 p.1).map (·.2) with
          | some i =>
            .trapIn (ps.foldl (fetchPlace 64) (s.tlbFor va))
              { cause := .poison, addr := va + word (64 * i), info := kindInfo .load 0 }
          | none =>
            tileOp chosen s s1 acc fmt fun s =>
              let bytes := (ps.zipIdx.map fun p => granuleBytes s p.2 p.1).flatten
              let el := (chunks w 256 bytes).map (widen fmt)
              let fl := el.foldl (fun a e => a ||| e.2) 0
              let s := (s.setTile s.myHearth acc (fmt == 0) (el.map (·.1))).modSlot (·.orFlags fl)
              accept { s with freeCtr := s.freeCtr + 64 * n } 1 (fmtTiles acc fmt) [] [] [] false

/-- ALD (R314). -/
def execAld (acc : Fin 16) (a : SrcM) (fmt : Fin 4) (s : State) : Host.Outcome State Fault Refusal :=
  finish s 4 (aldEffect false s acc.val a fmt.val)

/-- Stores a granule of a tile for an operation, at `va`: the state, and the elements that are posted, as those of pages that are
not cacheable and of peers (R116, R314). An element of a line that is not at hand waits for it (R250).
(DESIGN CHOICE, log 44) -/
def putGranule (s : State) (op w : Nat) (va : Word) (p : Place) (bytes : List Byte) : State × List (Word × Remote) :=
  let elems := fun (kind : RemoteKind) (peer : Option Nat) (addr key : Nat) =>
    (List.range (64 / w)).map fun i =>
      let r : Remote := { core := s.cur.1, slot := s.cur.2, kind := kind, addr := word (addr + w * i), key := key + w * i
                          peer := peer, size := w, data := word (leNat ((bytes.drop (w * i)).take w)), producer := op
                          launch := s.slot.launch, asid := s.slot.asid, pc := s.slot.pc, whole := true }
      (va + word (w * i), r)
  match p with
  | .mem (.peer q pa) _ => (s, elems (.store 0) (some q) (q * 2 ^ 46 + pa) (Target.peer q pa).key)
  | .mem t false => (s, elems (.store 0) none va.toNat t.key)
  | .mem t true =>
    let s' := touchMem s s.cur.1 t true true
    if cacheReady s' t 64 true then (writeMem s' t.key 64 (leNat bytes), [])
    else ((elems (.line none) none t.key t.key).foldl (fun s p => sendRemote s { p.2 with tag := some 0 }) s', [])
  | p => (writeMem s p.key 64 (leNat bytes), [])

/-- Elements that wait for journal entries take those that are free, in order: the state, and those still left.
(DESIGN CHOICE, log 44) -/
def postAll (s : State) (o : AnvilOp) : List (Word × Remote) → State × List (Word × Remote)
  | [] => (s, [])
  | p :: r =>
    match postRemote s p.1 { p.2 with ended := o.ended, busy := o.busy } none with
    | some s => postAll s o r
    | none => (s, p :: r)

/-- Stores the granules of a tile, in order (R314). -/
def putTile (op w : Nat) (va : Word) : State → List Place → List Byte → State × List (Word × Remote)
  | s, [], _ => (s, [])
  | s, p :: ps, bytes =>
    let q := putGranule s op w va p (bytes.take 64)
    let r := putTile op w (va + 64) q.1 ps (bytes.drop 64)
    (r.1, q.2 ++ r.2)

def astEffect (chosen : Bool) (s : State) (acc : Nat) (a : SrcM) (fmt : Nat) (r : RndField) : Effect :=
  memGate s <| ops1 s .z a fun va s1 =>
    let w := fmtBytes fmt
    let n := 4 * w
    let h := s.slot.hypCur
    if h ≠ 0 then .trap { cause := .hypUse, addr := va, info := word h }
    else if va.toNat % 64 ≠ 0 then .trap { cause := .misalign, addr := va, info := kindInfo .store 0 }
    else match tilePlaces s .store va n with
      | .error t => .trap t
      | .ok ps =>
        if tilePosted s va ps then .hold
        else tileOp chosen s (s1.tlbFor va) acc fmt fun s =>
          let sl := s.slot
          let t := (s.hearth s.myHearth).held.acc
          let el := (List.range 256).map fun i =>
            narrowTo fmt (sl.fpEnv.with r) (if fmt = 0 then pairElem t acc i else tileElem t acc i)
          let fl := el.foldl (fun a e => a ||| e.2) 0
          if sl.traps fl then .trapIn (s.modSlot (·.orFlags fl)) { cause := .fp, info := word fl }
          else
            let bytes := (el.map fun e => leBytes e.1 w).flatten
            let op := s.nextId
            let q := putTile op w va s.fresh ps bytes
            let o : AnvilOp := { id := op, core := s.cur.1, slot := s.cur.2, writes := [], retireAt := 0 }
            let r := postAll q.1 o q.2
            acceptAs op r.2 (r.1.modSlot (·.orFlags fl)) 1 [] [] [] [] false

/-- AST (R314). -/
def execAst (acc : Fin 16) (a : SrcM) (fmt : Fin 4) (r : RndField) (s : State) : Host.Outcome State Fault Refusal :=
  finish s 4 (astEffect false s acc.val a fmt.val r)

/-- AWAIT (R319). -/
def execAwait (s : State) : Host.Outcome State Fault Refusal :=
  finish s 4 (
    if (s.myCore.laneOps s.cur.2).isEmpty && !((s.hearth s.myHearth).ops.any fun o => o.core == s.cur.1 && o.slot == s.cur.2 && !o.ended)
    then .done s else .wait)

/-! ### Events of the Anvil -/

/-- The operation that a slot's next instruction is, once the port has chosen it. -/
def portRetry (i : Instr) (s : State) : Effect :=
  match i with
  | .aring a b => aringEffect true s a b
  | .aadv a b => aadvEffect true s a b
  | .aadvStat d a => aadvStatEffect true s d a
  | .amm acc ra rb mode zp pop => ammEffect true s acc ra rb mode zp pop
  | .azero acc single => azeroEffect true s acc.val (if single then 1 else 0)
  | .ald acc a fmt => aldEffect true s acc.val a fmt.val
  | .ast acc a fmt r => astEffect true s acc.val a fmt.val r
  | _ => .wait

end Sys2Proof.Machine
end

