-- ==== Sys2Proof/Machine/Arith.lean ====
section
/-! DEFINITION. Scalar integer instructions: OP 0x00-0x0E and their 16-bit forms (R86, R302, R300). -/

namespace Sys2Proof.Machine

/-- A shift count: bits [5:0] (R86). -/
def count (y : Word) : Nat := y.toNat % 64

def shlW (x y : Word) : Word := x <<< count y

def shrW (x y : Word) : Word := x >>> count y

def sarW (x y : Word) : Word := x.sshiftRight (count y)

def minS (x y : Word) : Word := if x.toInt ≤ y.toInt then x else y

def maxS (x y : Word) : Word := if x.toInt ≤ y.toInt then y else x

def minU (x y : Word) : Word := if x.toNat ≤ y.toNat then x else y

def maxU (x y : Word) : Word := if x.toNat ≤ y.toNat then y else x

/-- Bits [127:64] of the signed product (R86). -/
def mulhS (x y : Word) : Word := BitVec.ofInt 64 (x.toInt * y.toInt / 2 ^ 64)

/-- Bits [127:64] of the unsigned product (R86). -/
def mulhU (x y : Word) : Word := word (x.toNat * y.toNat / 2 ^ 64)

/-- Quotient rounded toward zero; the most negative by -1 wraps to itself (R86). -/
def divS (x y : Word) : Word := BitVec.ofInt 64 (x.toInt.tdiv y.toInt)

def remS (x y : Word) : Word := BitVec.ofInt 64 (x.toInt.tmod y.toInt)

def divU (x y : Word) : Word := word (x.toNat / y.toNat)

def remU (x y : Word) : Word := word (x.toNat % y.toNat)

/-- Set bits of the low `n` bits (R332). -/
def popcount (x : Nat) : Nat → Nat
  | 0 => 0
  | n + 1 => x % 2 + popcount (x / 2) n

/-- Zero bits below the lowest set bit, at most `n`. -/
def trailing (x : Nat) : Nat → Nat
  | 0 => 0
  | n + 1 => if x % 2 = 1 then 0 else 1 + trailing (x / 2) n

/-- Zero bits above the highest set bit of the low `n` bits. -/
def leading (x : Nat) : Nat → Nat
  | 0 => 0
  | n + 1 => if x / 2 ^ n % 2 = 1 then 0 else 1 + leading x n

/-- The field of `ext` (R335). -/
def extend (k : ExtKind) (x : Word) : Word :=
  match k with
  | .sb => (x.setWidth 8).signExtend 64
  | .ub => (x.setWidth 8).setWidth 64
  | .sh => (x.setWidth 16).signExtend 64
  | .uh => (x.setWidth 16).setWidth 64
  | .sw => (x.setWidth 32).signExtend 64
  | .uw => (x.setWidth 32).setWidth 64

/-- The conditions of `cmp` (R333). -/
def condHolds (c : Cond) (x y : Word) : Bool :=
  match c with
  | .eq => x == y
  | .ne => x != y
  | .lt => x.toInt < y.toInt
  | .ltu => x.toNat < y.toNat
  | .le => x.toInt ≤ y.toInt
  | .leu => x.toNat ≤ y.toNat

/-- A mask of `len` bits from bit `pos` on (R325). -/
def fieldMask (pos len : Nat) : Word := word ((2 ^ len - 1) * 2 ^ pos)

/-- Writes 16 bits of a register (R363). -/
def putHalf (d : Word) (h : Nat) (v : BitVec 16) : Word :=
  (d &&& ~~~fieldMask (16 * h) 16) ||| (v.setWidth 64 <<< (16 * h))

/-- A long-latency division (R334): a divisor of 0 traps at issue, and the result lands later. -/
def division (s : State) (d : Dst) (a b : SrcM) (f : Word → Word → Word) : Host.Outcome State Fault Refusal :=
  finish s 4 (ops2 s d a b fun x y s =>
    if y = 0 then .trap { cause := .divzero } else .done (oweTo s d (.value (f x y)) false false))

/-- ADD (R313). -/
def execAdd (d : Dst) (a b : SrcM) (s : State) : Host.Outcome State Fault Refusal :=
  binary s 4 d a b fun x y => x + y

/-- SUB (R313). -/
def execSub (d : Dst) (a b : SrcM) (s : State) : Host.Outcome State Fault Refusal :=
  binary s 4 d a b fun x y => x - y

/-- AND (R316). -/
def execAnd (d : Dst) (a b : SrcM) (s : State) : Host.Outcome State Fault Refusal :=
  binary s 4 d a b fun x y => x &&& y

/-- OR (R316). -/
def execOr (d : Dst) (a b : SrcM) (s : State) : Host.Outcome State Fault Refusal :=
  binary s 4 d a b fun x y => x ||| y

/-- XOR (R316). -/
def execXor (d : Dst) (a b : SrcM) (s : State) : Host.Outcome State Fault Refusal :=
  binary s 4 d a b fun x y => x ^^^ y

/-- SHL (R376). -/
def execShl (d : Dst) (a b : SrcM) (s : State) : Host.Outcome State Fault Refusal :=
  binary s 4 d a b fun x y => shlW x y

/-- SHR (R376). -/
def execShr (d : Dst) (a b : SrcM) (s : State) : Host.Outcome State Fault Refusal :=
  binary s 4 d a b fun x y => shrW x y

/-- SAR (R376). -/
def execSar (d : Dst) (a b : SrcM) (s : State) : Host.Outcome State Fault Refusal :=
  binary s 4 d a b fun x y => sarW x y

/-- MIN (R366). -/
def execMin (d : Dst) (a b : SrcM) (s : State) : Host.Outcome State Fault Refusal :=
  binary s 4 d a b fun x y => minS x y

/-- MAX (R366). -/
def execMax (d : Dst) (a b : SrcM) (s : State) : Host.Outcome State Fault Refusal :=
  binary s 4 d a b fun x y => maxS x y

/-- MINU (R366). -/
def execMinu (d : Dst) (a b : SrcM) (s : State) : Host.Outcome State Fault Refusal :=
  binary s 4 d a b fun x y => minU x y

/-- MAXU (R366). -/
def execMaxu (d : Dst) (a b : SrcM) (s : State) : Host.Outcome State Fault Refusal :=
  binary s 4 d a b fun x y => maxU x y

/-- MUL (R368, R86). -/
def execMul (d : Dst) (a b : SrcM) (s : State) : Host.Outcome State Fault Refusal :=
  binary s 4 d a b fun x y => x * y

/-- MULH (R368). -/
def execMulh (d : Dst) (a b : SrcM) (s : State) : Host.Outcome State Fault Refusal :=
  binary s 4 d a b fun x y => mulhS x y

/-- MULHU (R368). -/
def execMulhu (d : Dst) (a b : SrcM) (s : State) : Host.Outcome State Fault Refusal :=
  binary s 4 d a b fun x y => mulhU x y

/-- DIV (R334, R86). -/
def execDiv (d : Dst) (a b : SrcM) (s : State) : Host.Outcome State Fault Refusal := division s d a b divS

/-- DIVU (R334, R86). -/
def execDivu (d : Dst) (a b : SrcM) (s : State) : Host.Outcome State Fault Refusal := division s d a b divU

/-- REM (R334, R86). -/
def execRem (d : Dst) (a b : SrcM) (s : State) : Host.Outcome State Fault Refusal := division s d a b remS

/-- REMU (R334, R86). -/
def execRemu (d : Dst) (a b : SrcM) (s : State) : Host.Outcome State Fault Refusal := division s d a b remU

/-- CLZ (R332). -/
def execClz (d : Dst) (a : SrcM) (s : State) : Host.Outcome State Fault Refusal := unary s 4 d a fun x => word (leading x.toNat 64)

/-- CTZ (R332). -/
def execCtz (d : Dst) (a : SrcM) (s : State) : Host.Outcome State Fault Refusal := unary s 4 d a fun x => word (trailing x.toNat 64)

/-- POPC (R332). -/
def execPopc (d : Dst) (a : SrcM) (s : State) : Host.Outcome State Fault Refusal := unary s 4 d a fun x => word (popcount x.toNat 64)

/-- MOV (R367). -/
def execMov (d : Dst) (a : SrcM) (s : State) : Host.Outcome State Fault Refusal := unary s 4 d a fun x => x

/-- EXT (R335). -/
def execExt (k : ExtKind) (d : Dst) (a : SrcM) (s : State) : Host.Outcome State Fault Refusal := unary s 4 d a (extend k)

/-- SEL (R373): q0 is an implicit third source that blocks. -/
def execSel (d : Dst) (a b : SrcM) (s : State) : Host.Outcome State Fault Refusal :=
  finish s 4 (withOps s d [blk (.q 0), a, b] fun vs s =>
    .done (pushTo s d (if vs.getD 0 0 ≠ 0 then vs.getD 1 0 else vs.getD 2 0)))

/-- ADDI (R313): the immediate is sign-extended. -/
def execAddi (d : Dst) (a : SrcM) (imm : BitVec 11) (s : State) : Host.Outcome State Fault Refusal :=
  unary s 4 d a fun x => x + imm.signExtend 64

/-- ANDI (R316): the immediate is sign-extended. -/
def execAndi (d : Dst) (a : SrcM) (imm : BitVec 11) (s : State) : Host.Outcome State Fault Refusal :=
  unary s 4 d a fun x => x &&& imm.signExtend 64

/-- ORI (R316): the immediate is sign-extended. -/
def execOri (d : Dst) (a : SrcM) (imm : BitVec 11) (s : State) : Host.Outcome State Fault Refusal :=
  unary s 4 d a fun x => x ||| imm.signExtend 64

/-- XORI (R316): the immediate is sign-extended. -/
def execXori (d : Dst) (a : SrcM) (imm : BitVec 11) (s : State) : Host.Outcome State Fault Refusal :=
  unary s 4 d a fun x => x ^^^ imm.signExtend 64

/-- SHLI (R376). -/
def execShli (d : Dst) (a : SrcM) (k : BitVec 6) (s : State) : Host.Outcome State Fault Refusal :=
  unary s 4 d a fun x => x <<< k.toNat

/-- SHRI (R376). -/
def execShri (d : Dst) (a : SrcM) (k : BitVec 6) (s : State) : Host.Outcome State Fault Refusal :=
  unary s 4 d a fun x => x >>> k.toNat

/-- SARI (R376). -/
def execSari (d : Dst) (a : SrcM) (k : BitVec 6) (s : State) : Host.Outcome State Fault Refusal :=
  unary s 4 d a fun x => x.sshiftRight k.toNat

/-- CMP (R333). -/
def execCmp (c : Cond) (d : Dst) (a b : SrcM) (s : State) : Host.Outcome State Fault Refusal :=
  binary s 4 d a b fun x y => boolWord (condHolds c x y)

/-- CMPI (R333). -/
def execCmpi (c : Cond) (d : Dst) (a : SrcM) (imm : BitVec 8) (s : State) : Host.Outcome State Fault Refusal :=
  unary s 4 d a fun x => boolWord (condHolds c x (imm.signExtend 64))

/-- LI (R363). -/
def execLi (d : Dst) (imm : BitVec 18) (s : State) : Host.Outcome State Fault Refusal :=
  finish s 4 (ops0 s d fun s => .done (pushTo s d (imm.signExtend 64)))

/-- LIH (R363): D is read as a source that blocks. -/
def execLih (d : Fin 32) (half : Fin 4) (v : BitVec 16) (s : State) : Host.Outcome State Fault Refusal :=
  unary s 4 (.n d) (blk (.n d)) fun x => putHalf x half.val v

/-- BFX (R325). -/
def execBfx (d : Dst) (a : Src) (pos len : BitVec 6) (s : State) : Host.Outcome State Fault Refusal :=
  unary s 4 d (blk a) fun x => (x >>> pos.toNat) &&& fieldMask 0 (len.toNat + 1)

/-- BFI (R325): D is read as a source too. -/
def execBfi (d : Fin 32) (a : Src) (pos len : BitVec 6) (s : State) : Host.Outcome State Fault Refusal :=
  binary s 4 (.n d) (blk a) (blk (.n d)) fun x y =>
    let m := fieldMask pos.toNat (len.toNat + 1)
    (y &&& ~~~m) ||| ((x <<< pos.toNat) &&& m)

/-- The 16-bit add (R300): blocks on its sources and pushes. -/
def execAdd16 (u v : BitVec 5) (s : State) : Host.Outcome State Fault Refusal :=
  binary s 2 .queue (srcM5 u) (srcM5 v) fun x y => x + y

/-- The 16-bit sub (R300): blocks on its sources and pushes. -/
def execSub16 (u v : BitVec 5) (s : State) : Host.Outcome State Fault Refusal :=
  binary s 2 .queue (srcM5 u) (srcM5 v) fun x y => x - y

/-- The 16-bit and (R300): blocks on its sources and pushes. -/
def execAnd16 (u v : BitVec 5) (s : State) : Host.Outcome State Fault Refusal :=
  binary s 2 .queue (srcM5 u) (srcM5 v) fun x y => x &&& y

/-- The 16-bit or (R300): blocks on its sources and pushes. -/
def execOr16 (u v : BitVec 5) (s : State) : Host.Outcome State Fault Refusal :=
  binary s 2 .queue (srcM5 u) (srcM5 v) fun x y => x ||| y

/-- The 16-bit xor (R300): blocks on its sources and pushes. -/
def execXor16 (u v : BitVec 5) (s : State) : Host.Outcome State Fault Refusal :=
  binary s 2 .queue (srcM5 u) (srcM5 v) fun x y => x ^^^ y

/-- The 16-bit shl (R300): blocks on its sources and pushes. -/
def execShl16 (u v : BitVec 5) (s : State) : Host.Outcome State Fault Refusal :=
  binary s 2 .queue (srcM5 u) (srcM5 v) fun x y => shlW x y

/-- The 16-bit shr (R300): blocks on its sources and pushes. -/
def execShr16 (u v : BitVec 5) (s : State) : Host.Outcome State Fault Refusal :=
  binary s 2 .queue (srcM5 u) (srcM5 v) fun x y => shrW x y

/-- The 16-bit cmpEq (R300): blocks on its sources and pushes. -/
def execCmpEq16 (u v : BitVec 5) (s : State) : Host.Outcome State Fault Refusal :=
  binary s 2 .queue (srcM5 u) (srcM5 v) fun x y => boolWord (x == y)

/-- The 16-bit cmpLt (R300): blocks on its sources and pushes. -/
def execCmpLt16 (u v : BitVec 5) (s : State) : Host.Outcome State Fault Refusal :=
  binary s 2 .queue (srcM5 u) (srcM5 v) fun x y => boolWord (condHolds .lt x y)

/-- MOV_16 (R300, R60): the destination is n0-n15. -/
def execMov16 (u : BitVec 5) (v : Fin 16) (s : State) : Host.Outcome State Fault Refusal :=
  unary s 2 (.n ⟨v.val, by omega⟩) (srcM5 u) fun x => x

/-- ADDI_16 (R300). -/
def execAddi16 (u imm : BitVec 5) (s : State) : Host.Outcome State Fault Refusal :=
  unary s 2 .queue (srcM5 u) fun x => x + imm.signExtend 64

/-- LI_16 (R300). -/
def execLi16 (imm : BitVec 10) (s : State) : Host.Outcome State Fault Refusal :=
  finish s 2 (ops0 s .queue fun s => .done (pushTo s .queue (imm.signExtend 64)))

/-- NOP (R369). -/
def execNop (s : State) : Host.Outcome State Fault Refusal := finish s 4 (.done s)

/-- NOP_16 (R369). -/
def execNop16 (s : State) : Host.Outcome State Fault Refusal := finish s 2 (.done s)

end Sys2Proof.Machine
end

