-- ==== Sys2Proof/Machine/MemOps.lean ====
section
/-! DEFINITION. Scalar memory instructions: OP 0x25-0x2C and their 16-bit forms (R341, R342, R359-R361, R378, R379,
R318, R330, R331). -/

namespace Sys2Proof.Machine

/-- LD (R359). -/
def execLd (k : LoadKind) (d : Dst) (a : SrcM) (imm : BitVec 8) (s : State) : Host.Outcome State Fault Refusal :=
  finish s 4 (loadEffect s 4 d k a imm.toInt false)

/-- LD_D_16 (R300): the offset is 8 × Y. -/
def execLdD16 (u off : BitVec 5) (s : State) : Host.Outcome State Fault Refusal :=
  finish s 2 (loadEffect s 2 .queue .d (srcM5 u) off.toNat false)

/-- LDA (R361): an acquire; accesses after it wait for its value. -/
def execLda (k : LoadKind) (d : Dst) (a : SrcM) (_sc : Scope) (off : BitVec 5) (s : State) :
    Host.Outcome State Fault Refusal :=
  finish s 4 (loadEffect s 4 d k a off.toNat true)

/-- ST (R378). -/
def execSt (sz : Size) (data : Src) (a : SrcM) (imm : BitVec 8) (s : State) : Host.Outcome State Fault Refusal :=
  finish s 4 (storeEffect s (sizeCode sz) data a imm.toInt false)

/-- ST_D_16 (R300). -/
def execStD16 (u v : BitVec 5) (s : State) : Host.Outcome State Fault Refusal :=
  finish s 2 (storeEffect s 3 (src5 u) (srcM5 v) 0 false)

/-- STR (R379): a release, then the store. -/
def execStr (sz : Size) (data : Src) (a : SrcM) (_sc : Scope) (off : BitVec 5) (s : State) :
    Host.Outcome State Fault Refusal :=
  finish s 4 (storeEffect s (sizeCode sz) data a off.toNat true)

/-- ATOM_ADD (R318). -/
def execAtomAdd (sz : ASize) (ord : Order) (d : Dst) (a b : Src) (s : State) : Host.Outcome State Fault Refusal :=
  finish s 4 (atomicEffect s 0 sz ord d a b none)

/-- ATOM_AND (R318). -/
def execAtomAnd (sz : ASize) (ord : Order) (d : Dst) (a b : Src) (s : State) : Host.Outcome State Fault Refusal :=
  finish s 4 (atomicEffect s 1 sz ord d a b none)

/-- ATOM_OR (R318). -/
def execAtomOr (sz : ASize) (ord : Order) (d : Dst) (a b : Src) (s : State) : Host.Outcome State Fault Refusal :=
  finish s 4 (atomicEffect s 2 sz ord d a b none)

/-- ATOM_XOR (R318). -/
def execAtomXor (sz : ASize) (ord : Order) (d : Dst) (a b : Src) (s : State) : Host.Outcome State Fault Refusal :=
  finish s 4 (atomicEffect s 3 sz ord d a b none)

/-- ATOM_MIN (R318). -/
def execAtomMin (sz : ASize) (ord : Order) (d : Dst) (a b : Src) (s : State) : Host.Outcome State Fault Refusal :=
  finish s 4 (atomicEffect s 4 sz ord d a b none)

/-- ATOM_MAX (R318). -/
def execAtomMax (sz : ASize) (ord : Order) (d : Dst) (a b : Src) (s : State) : Host.Outcome State Fault Refusal :=
  finish s 4 (atomicEffect s 5 sz ord d a b none)

/-- ATOM_MINU (R318). -/
def execAtomMinu (sz : ASize) (ord : Order) (d : Dst) (a b : Src) (s : State) : Host.Outcome State Fault Refusal :=
  finish s 4 (atomicEffect s 6 sz ord d a b none)

/-- ATOM_MAXU (R318). -/
def execAtomMaxu (sz : ASize) (ord : Order) (d : Dst) (a b : Src) (s : State) : Host.Outcome State Fault Refusal :=
  finish s 4 (atomicEffect s 7 sz ord d a b none)

/-- CAS (R330): D holds the compare value and takes the old value. -/
def execCas (sz : ASize) (ord : Order) (d : Fin 32) (a b : Src) (s : State) : Host.Outcome State Fault Refusal :=
  finish s 4 (atomicEffect s 8 sz ord (.n d) a b (some (.n d)))

/-- SWAP (R330). -/
def execSwap (sz : ASize) (ord : Order) (d : Dst) (a b : Src) (s : State) : Host.Outcome State Fault Refusal :=
  finish s 4 (atomicEffect s 8 sz ord d a b none)

/-- FENCE_FULL (R341): a release, and then an acquire; what the task issued before is performed when it completes.
(DESIGN CHOICE, log 9) -/
def execFenceFull (_sc : Scope) (s : State) : Host.Outcome State Fault Refusal :=
  finish s 4 (memGate s (releaseGate s (.done s)))

/-- FENCE_ACQUIRE (R341): every earlier load, scalar or vector, has been performed: one of memory that is not distant is
performed when it issues, and the answer of any other is awaited. -/
def execFenceAcquire (_sc : Scope) (s : State) : Host.Outcome State Fault Refusal :=
  finish s 4 (memGate s (
    if s.slot.owed.any (·.kind == .remote) || s.myCore.vloading s.cur.2 then .hold else .done s))

/-- FENCE_RELEASE (R341). -/
def execFenceRelease (_sc : Scope) (s : State) : Host.Outcome State Fault Refusal :=
  finish s 4 (memGate s (releaseGate s (.done s)))

/-- FENCEI (R342): waits until every store of the task is performed, then discards the core's instruction lines. A
refused store does not trap here: it is no release. -/
def execFencei (s : State) : Host.Outcome State Fault Refusal :=
  finish s 4 (memGate s (
    if s.myCore.journal.any (fun j => j.mine s.cur.2 && !j.refused) || s.myCore.transferring s.cur.2 ||
      linePending s s.cur.1 s.cur.2 then .hold
    else .done (s.modMyCore fun k => { k with icache := [], icHalves := [] })))

/-! ### `cflush` (R331) -/

/-- A state once its dirty data has been written back: dirty copies become clean. -/
def cleanState : Moesi → Moesi
  | .m => .e
  | .o => .s
  | x => x

/-- A dirty half of host memory is written back and stays, clean (R331). (DESIGN CHOICE, log 12) -/
def cleanHalf (s : State) (half : Nat) : State :=
  if s.bridgeSt half == .m then
    let s := returnHalf s half
    { s with bridge := tset s.bridge half .e }
  else s

/-- The halves of a line of host memory. -/
def lineHalves (line : Nat) : List Nat :=
  if 128 * line < hostKey 0 then [] else [(128 * line - hostKey 0) / 64, (128 * line - hostKey 0) / 64 + 1]

/-- Every dirty copy of a line is written to its backing store and becomes clean. -/
def cleanAll (s : State) (line : Nat) : State :=
  let clean := fun (_ : Nat) (k : Core) => match tget k.l1 line with
    | some x => { k with l1 := tset k.l1 line { x with st := cleanState x.st } }
    | none => k
  let s := { s with cores := tmap clean s.cores }
  let s := s.modHome line fun h =>
    let d := h.dir
    { h with dir := { d with dirty := false, st := cleanState d.st
                             owner := if d.st == .m || d.st == .e then d.owner else none } }
  (lineHalves line).foldl cleanHalf s

/-- A copy is dropped; an upgrade under way will bring data (R253). -/
def Core.loseLine (k : Core) (line : Nat) : Core :=
  { k with l1 := tdel k.l1 line, cohReqs := if tget k.cohReqs line = some .upg then tset k.cohReqs line .getX else k.cohReqs }

/-- Every copy of a line, in every L1 and in the LLC, is dropped. -/
def dropAll (s : State) (line : Nat) : State :=
  let s := { s with cores := tmap (fun _ k => k.loseLine line) s.cores }
  (lineHalves line).foldl returnHalf (s.modHome line fun h => { h with dir := {} })

/-- A holder that is recorded exactly leaves; a span stays marked. -/
def Dir.dropHolder (d : Dir) (c : Nat) : Dir :=
  let d := { d with holders := natDel d.holders c, owner := if d.owner == some c then none else d.owner }
  { d with st := if d.holders.isEmpty && d.spans.isEmpty && d.owner.isNone then .i
                 else if d.owner.isNone then .s else d.st }

/-- The issuing core's copy is written home if dirty, and dropped. -/
def dropMine (s : State) (c line : Nat) : State :=
  match tget (s.core c).l1 line with
  | none => s
  | some x =>
    let s := s.modCore c (·.loseLine line)
    let s := s.modHome line fun h =>
      let dirty := x.st == .m || x.st == .o
      let d := h.dir.dropHolder c
      { h with dir := { d with inLlc := d.inLlc || dirty, dirty := d.dirty || dirty } }
    trimLlc s line

/-- An L1 portion of `l` 8 KiB parts takes the place of the core's (R113): lines that do not fit are written back and dropped. -/
def fitL1 (s : State) (c l : Nat) : State :=
  let lines := tkeys (s.core c).l1
  if lines.length ≤ 64 * l then s
  else
    let kept := (lines.filter fun line => Config.freeBit (s.freeCtr + line)).take (64 * l)
    (lines.filter fun line => !natMem kept line).foldl (fun s line => dropMine s c line) s.nextFree

/-- The home serves a request for the line, or its grant is on the way. -/
def lineBusy (s : State) (line : Nat) : Bool := (s.home line).trans != .none || !(s.home line).grants.isEmpty

/-- A copy of the line in the part is dirty. -/
def lineDirty (s : State) (line : Nat) : Bool :=
  (s.home line).dir.dirty || s.cores.any fun p => match tget p.2.l1 line with
    | some x => x.st == .m || x.st == .o
    | none => false

/-- The three kinds (R331): read permission is needed, and memory that is never cached is left alone. The task's stores that
wait for their lines are performed first, and a request for the line that the home serves; `back` says that dirty data goes to its
backing store, whose stack is woken (R284). -/
def flushEffect (s : State) (a : SrcM) (back : Bool) (f : State → Nat → State) : Effect :=
  memGate s <| ops1 s .z a fun va s' =>
    match locate s' .load 1 va 0 with
    | .error t => .trap t
    | .ok (.mem t true) =>
      let line := t.key / 128
      if linePending s' s'.cur.1 s'.cur.2 || lineBusy s' line then .hold
      else if back && lineDirty s' line then
        let u := touchKey (s'.tlbFor va) t.key
        if stackReady u t.key then .done (f u line)
        else .stay ((touchKey s t.key).modSlot fun sl => { sl with stall := .held })
      else .done (f (s'.tlbFor va) line)
    | .ok _ => .done s'

/-- CFLUSH_CLEAN (R331). -/
def execCflushClean (a : SrcM) (s : State) : Host.Outcome State Fault Refusal :=
  finish s 4 (flushEffect s a true cleanAll)

/-- CFLUSH_INV (R331). -/
def execCflushInv (a : SrcM) (s : State) : Host.Outcome State Fault Refusal :=
  finish s 4 (flushEffect s a false fun s line => dropMine s s.cur.1 line)

/-- CFLUSH_WBINV (R331). -/
def execCflushWbinv (a : SrcM) (s : State) : Host.Outcome State Fault Refusal :=
  finish s 4 (flushEffect s a true fun s line => dropAll (cleanAll s line) line)

end Sys2Proof.Machine
end

