-- ==== Sys2Proof/Machine/Fetch.lean ====
section
/-! DEFINITION. Fetching and decoding the instruction at the pc (R112, R294-R296), the traps of the fetch and of decode
(R301), and what an instruction boundary does before an instruction issues (R177, R210, R211, R213). -/

namespace Sys2Proof.Machine

/-- Where the parcel at an address lies, for the task that issues: its key, or the fetch fault (R112, R121, R210). -/
def fetchKey (s : State) (va : Word) : Except Trap Nat :=
  let sl := s.slot
  if 0xFE ≤ va.toNat / 2 ^ 56 then .error { cause := .access, addr := va, info := kindInfo .fetch 0 }
  else match locateMem s s.cur.1 sl.asid (sl.priv == .user) .fetch va.toNat with
    | .error f => .error (xfaultTrap f .fetch va 0)
    | .ok p => .ok p.key

/-- A key of memory at a peer (R122). (DESIGN CHOICE, log 18) -/
def atPeer (k : Nat) : Bool := decide (2 ^ 53 ≤ k) && decide (k < 2 ^ 54)

/-- The half of host memory that a key lies in. -/
def halfOf (k : Nat) : Option Nat := if hostKey 0 ≤ k && !atPeer k then some ((k - hostKey 0) / 64) else none

/-- The instruction cache of the core at hand holds a key: its line, and of host memory its half (R255). -/
def inIcache (s : State) (k : Nat) : Bool :=
  natMem s.myCore.icache (k / 128) && match halfOf k with
    | some h => natMem s.myCore.icHalves h
    | none => true

/-- A key's granule comes from another die with a check that does not match: it is poisoned there (R129). -/
def badFetch (s : State) (k : Nat) : Bool :=
  natMem s.badCheck (k / 64) && keyDie s k != dieOf s.cur.1 && !inIcache s k

/-- The key of the parcel at an address, or the fetch fault, poison among them (R210). -/
def parcelKey (s : State) (va : Word) : Except Trap Nat :=
  match fetchKey s va with
  | .error t => .error t
  | .ok k =>
    if natMem s.poison (k / 64) || badFetch s k then .error { cause := .poison, addr := va, info := kindInfo .fetch 0 } else .ok k

/-- A parcel's 16 bits; those of a page at a peer, whose memory the part does not hold, are free.
(DESIGN CHOICE, log 18; DEDUCED, log 70) -/
def parcelAt (s : State) (va : Word) : Except Trap Nat :=
  match parcelKey s va with
  | .error t => .error t
  | .ok k => .ok (if atPeer k then Config.freeNat (s.freeCtr + k) % 2 ^ 16 else memNat s.mem k 2)

/-- A half of host memory that a fetch of an address misses: neither the instruction cache nor the bridge holds it (R255). -/
def missingHalf (s : State) (va : Word) : Option Nat :=
  match parcelKey s va with
  | .error _ => none
  | .ok k =>
    match halfOf k with
    | some h => if inIcache s k || s.bridgeSt h != .i then none else some h
    | none => none

/-- Why a fetch gives no instruction: a fault, or a half of host memory that has to come first (R255). -/
inductive FetchStop where
  | trap (t : Trap)
  | lacks (half : Nat)
  deriving DecidableEq, Repr

/-- Whether the run of parcels with bit 15 set from an address on is odd, or the half of host memory its reading lacks; a
parcel that cannot be fetched ends it (R295, R296). (DEDUCED, log 70) -/
def runOdd (s : State) : Nat → Word → Except Nat Bool
  | 0, _ => .ok false
  | n + 1, va =>
    match missingHalf s va, parcelAt s va with
    | some h, _ => .error h
    | none, .error _ => .ok false
    | none, .ok p =>
      if p < 2 ^ 15 then .ok false
      else match runOdd s n (va + 2) with
        | .error h => .error h
        | .ok b => .ok !b

/-- One parcel of the instruction. -/
def fetchParcel (s : State) (va : Word) : Except FetchStop Nat :=
  match parcelAt s va, missingHalf s va with
  | .error t, _ => .error (.trap t)
  | .ok _, some h => .error (.lacks h)
  | .ok p, none => .ok p

/-- The parcels of the instruction at the pc: one, or two when the first has bit 15 set or the run after it is odd
(R294-R296). No run is longer than the address space has parcels. (DEDUCED, log 70) -/
def fetchParcels (s : State) : Except FetchStop (List Nat) :=
  let pc := s.slot.pc
  match fetchParcel s pc with
  | .error e => .error e
  | .ok p =>
    match if p < 2 ^ 15 then runOdd s (2 ^ 63) (pc + 2) else .ok true with
    | .error h => .error (.lacks h)
    | .ok false => .ok [p]
    | .ok true =>
      match fetchParcel s (pc + 2) with
      | .error e => .error e
      | .ok q => .ok [p, q]

/-- The addresses that the reading of a run takes in. -/
def runAddrs (s : State) : Nat → Word → List Word
  | 0, _ => []
  | n + 1, va => va :: match parcelAt s va with
    | .error _ => []
    | .ok p => if p < 2 ^ 15 then [] else runAddrs s n (va + 2)

/-- The checks of what a fetch brings from another die are verified (R129). -/
def crossFetch (s : State) : State :=
  if s.badCheck.isEmpty then s
  else
    (s.slot.pc :: runAddrs s (2 ^ 63) (s.slot.pc + 2)).foldl (fun s va =>
      match fetchKey s va with
      | .error _ => s
      | .ok k => if badFetch s k then crossDies s (keyDie s k) (dieOf s.cur.1) k 2 else s) s

/-- The state once the pc has been fetched: its translations are in the TLBs and its line in the instruction cache, which holds
256 lines (R14); which one makes room the manual does not say. -/
def fetched (s : State) : State :=
  let pc := s.slot.pc
  match parcelKey s pc with
  | .error _ => s
  | .ok k =>
    let s := crossFetch (touchKey (s.tlbFor pc) k)
    let valid := fun (x : Core) => match halfOf k with
      | some h => { x with icHalves := natIns x.icHalves h }
      | none => x
    let old := s.myCore.icache
    if natMem old (k / 128) then s.modMyCore valid
    else
      let keep := if old.length < 256 then old else old.eraseIdx (Config.freeNat s.freeCtr % old.length)
      let s := if old.length < 256 then s else s.nextFree
      s.modMyCore fun c => valid { c with
        icache := natIns keep (k / 128), icHalves := c.icHalves.filter fun h => natMem keep ((hostKey 0 + 64 * h) / 128) }

/-- TRAP.INFO of a decode trap (R301, R59, R236). A 32-bit instruction's first parcel is its low half.
(DEDUCED, log 19) -/
def rejectInfo (s : State) (ps : List Nat) (r : Reject) : Word :=
  let ins := ps.getD 0 0 + 2 ^ 16 * ps.getD 1 0
  let w := if ps.length = 2 then 2 ^ 35 else 0
  match r with
  | .length => word (2 ^ 35 + 4 * 2 ^ 32 + ins)
  | .opcode => word (w + 1 * 2 ^ 32 + ins)
  | .selector => word (w + 2 * 2 ^ 32 + ins)
  | .mustBe => word (w + 3 * 2 ^ 32 + ins)
  | .operand code => word code
  | .pushDest tag => match (s.slot.read tag.src).1 with
    | .val v => v
    | _ => 0

/-! ### Who may reach the system registers (R72, R73) -/

/-- Access to a register: whether user code may read it, and who may write it. -/
inductive Writer where
  | nobody | kernel | user
  deriving DecidableEq, Repr

structure RegAccess where
  userRead : Bool
  writer : Writer
  deriving DecidableEq, Repr

/-- The registers of R73 by number; none for an unlisted number. (DEDUCED, log 35) -/
def regAccess (n : Nat) : Option RegAccess :=
  if n ≤ 0x004 then some ⟨true, .nobody⟩
  else if 0x010 ≤ n && n ≤ 0x013 then some ⟨true, .user⟩
  else if n = 0x020 then some ⟨true, .nobody⟩
  else if n = 0x021 then some ⟨true, .user⟩
  else if n = 0x022 then some ⟨true, .kernel⟩
  else if 0x030 ≤ n && n ≤ 0x032 then some ⟨true, .nobody⟩
  else if n = 0x033 || n = 0x034 then some ⟨true, .user⟩
  else if n = 0x040 || (0x050 ≤ n && n ≤ 0x052) || n = 0x058 || n = 0x059 then some ⟨true, .nobody⟩
  else if 0x060 ≤ n && n ≤ 0x062 then some ⟨true, .user⟩
  else if n = 0x063 || n = 0x064 then some ⟨true, .nobody⟩
  else if n = 0x068 then some ⟨true, .user⟩
  else if n = 0x069 then some ⟨true, .kernel⟩
  else if 0x070 ≤ n && n ≤ 0x072 then some ⟨true, .nobody⟩
  else if n = 0x080 then some ⟨true, .kernel⟩
  else if 0x090 ≤ n && n ≤ 0x092 then some ⟨true, .user⟩
  else if n = 0x093 || n = 0x094 || (0x0A0 ≤ n && n ≤ 0x0A3) then some ⟨true, .nobody⟩
  else if n = 0x0B0 then some ⟨true, .kernel⟩
  else if n = 0x0B1 || n = 0x0C0 then some ⟨true, .nobody⟩
  else if 0x0C1 ≤ n && n ≤ 0x0CF then some ⟨true, .user⟩
  else if (0x100 ≤ n && n ≤ 0x105) || (0x108 ≤ n && n ≤ 0x10B) then some ⟨false, .kernel⟩
  else if n = 0x110 then some ⟨true, .nobody⟩
  else if n = 0x111 then some ⟨true, .user⟩
  else if 0x112 ≤ n && n ≤ 0x114 then some ⟨true, .nobody⟩
  else if n = 0x121 then some ⟨false, .kernel⟩
  else if n = 0x130 then some ⟨true, .nobody⟩
  else none

def Writer.allows (w : Writer) (p : Priv) : Bool :=
  match w with
  | .nobody => false
  | .kernel => p != .user
  | .user => true

def RegAccess.reads (a : RegAccess) (p : Priv) : Bool := a.userRead || p != .user

/-- PRIV of a register access: its number. -/
def privTrap (n : Nat) : Trap := { cause := .priv, info := word n }

/-- A read that the level may not make (R380). -/
def sysrDenied (p : Priv) (n : Nat) : Option Trap :=
  match regAccess n with
  | some a => if a.reads p then none else some (privTrap n)
  | none => none

/-- A write that the level may not make (R380). -/
def syswDenied (p : Priv) (n : Nat) : Option Trap :=
  match regAccess n with
  | some a => if a.writer.allows p then none else some (privTrap n)
  | none => none

/-! ### The instruction boundary -/

/-- What a slot does with its turn. -/
inductive Issue where
  /-- It holds no task, or its instruction stalls: the turn passes. -/
  | idle
  /-- Something else is taken at the boundary, and this is the state after it. -/
  | act (s : State)
  /-- An event is taken at the boundary. -/
  | event (e : Event)
  /-- An instruction issues. -/
  | run (i : Instr) (s : State)

/-- An asynchronous cause is pending (R211). -/
def Slot.pending (sl : Slot) : Bool := sl.pendWatchdog || !sl.pendPosted.isEmpty || !sl.pendRefused.isEmpty

/-- Whether the first parcel at an entry is a `frame` parcel (R40, R345). -/
def isFrameParcel (ps : List Nat) : Bool := ps.length == 1 && ps.getD 0 0 / 2 ^ 10 == 0x18

/-- The trap of an entry parcel that is no `frame` (R40): FRAME, behind the PRIV of an instruction that user code may not
execute (R210, R301). -/
def entryTrap (s : State) (i : Instr) : Trap :=
  let priv : Trap := { cause := .priv }
  let user := s.slot.priv == .user
  match i with
  | .tret => if user then priv else { cause := .frame }
  | .tlbiPage _ _ => if user then priv else { cause := .frame }
  | .tlbiAsid _ => if user then priv else { cause := .frame }
  | .tlbiAll => if user then priv else { cause := .frame }
  | .sysr _ reg => (sysrDenied s.slot.priv reg.toNat).getD { cause := .frame }
  | .sysw reg _ => (syswDenied s.slot.priv reg.toNat).getD { cause := .frame }
  | _ => { cause := .frame }

/-- The fetch waits for memory: the slot is passed over (R28). -/
def fetchWaits (s : State) : State := s.modSlot fun sl => { sl with waiting := true }

/-- The HBM that a fetch from memory needs is not ready (R284). -/
def sleepingFetch (s : State) : Option Nat :=
  match parcelKey s s.slot.pc with
  | .ok k => if inIcache s k || stackReady s k then none else some k
  | .error _ => none

/-- Fetches, decodes and issues the instruction at the pc, or takes the trap of the fetch (R210), of the entry (R40) or
of decoding (R301). (DEDUCED, log 19) -/
def fetchIssue (s : State) : Issue :=
  match fetchParcels s with
  | .error (.trap t) => .act (takeTrap (crossFetch s) t)
  | .error (.lacks half) => .act (fetchWaits (askHost s half .rdShared))
  | .ok ps =>
    match sleepingFetch s with
    | some k => .act (fetchWaits (touchKey s k))
    | none =>
      match (decodeParcels ps).2 with
      | .error r => .act (takeTrap (fetched s) (.illegal (rejectInfo s ps r)))
      | .ok i =>
        if s.slot.entry && !isFrameParcel ps then .act (takeTrap (fetched s) (entryTrap s i)) else .run i (fetched s)

/-- The task at hand stands at an instruction boundary outside a handler: its instruction has not issued. -/
def Slot.atBoundary (sl : Slot) : Bool := sl.stall == .none && sl.shadow.isNone

/-- What the slot at hand does with its turn: a failed launch's abort, the end of a wrap-up budget (R181), a diversion
(R177) and then a pending asynchronous cause (R211, R223) come before the instruction, except that an issued instruction is first
finished. (DEDUCED, log 5; DEDUCED, log 26) -/
def issue (s : State) : Issue :=
  let sl := s.slot
  let at_ : Args := { core := s.cur.1, slot := s.cur.2 }
  if s.boot ≠ .running then .idle
  else if s.aborts sl then .act (endTask s s.cur.1 s.cur.2)
  else if sl.stopped || !sl.ready then .idle
  else if sl.atBoundary && sl.wrapup && sl.quenchLeft == 0 then .event ⟨.quenchBudgetExpiry, at_⟩
  else if sl.atBoundary && s.quenched sl.launch && !sl.wrapup && sl.start != .trapContext then .event ⟨.taskDiversion, at_⟩
  else if sl.atBoundary && sl.pending then .event ⟨.asyncTrapTaken, at_⟩
  else fetchIssue s

end Sys2Proof.Machine
end

