-- ==== Sys2Proof/Machine/Control.lean ====
section
/-! DEFINITION. Control flow: branches (R305, R320, R327), calls and returns (R328, R329, R65-R67), `frame` (R345), the
end of a task (R381, R182) and the software traps (R326, R383, R384). -/

namespace Sys2Proof.Machine

/-- The target of an immediate branch (R305). -/
def branchTarget (s : State) (imm : Int) : Word := s.slot.pc + BitVec.ofInt 64 (2 * imm)

/-- `b` (R320). -/
def branchEffect (s : State) (imm : Int) : Effect := .jump s (branchTarget s imm)

/-- `bz` and `bnz` (R327): a test of all 64 bits. -/
def branchIf (s : State) (len : Nat) (a : SrcM) (imm : Int) (onZero : Bool) : Effect :=
  ops1 s .z a fun v s' =>
    if (v == 0) == onZero then .jump s' (branchTarget s imm) else .jump s' (s.slot.pc + word len)

/-- The trap of a register target with bit 0 set (R305). -/
def oddTarget (t : Word) : Trap := { cause := .misalign, addr := t, info := 0x200 }

/-- The call depth of the task: the frames of a handler lie above those of the task (R67, R212). (DEDUCED, log 28) -/
def Slot.depth (sl : Slot) : Nat :=
  sl.win.links.length + (match sl.shadow with
    | some h => h.links.length
    | none => 0)

/-- The window of a callee that declares a frame of `k2` registers (R65, R66). -/
def Win.callee (w : Win) (next : Word) (k2 : Nat) : Win :=
  { act := w.act.drop 24 ++ List.replicate 24 Reg.fresh
    below := some { regs := w.act.take 24, ret := w.ret }
    ret := some next
    k := k2
    links := w.k :: w.links }

/-- A call of a target from an instruction of `len` bytes (R328). (DEDUCED, log 19; DEDUCED, log 28) -/
def callTo (s : State) (len : Nat) (t : Word) : Effect :=
  if t.toNat % 2 = 1 then .trap (oddTarget t)
  else match parcelAt s t with
    | .error f => .trap f
    | .ok p =>
      let k2 := p % 32 + 1
      let sl := s.slot
      if p / 2 ^ 10 ≠ 0x18 then .trap { cause := .frame }
      else if p / 32 % 32 ≠ 0 then .trap (.illegal 0)
      else if k2 < 8 then .trap { cause := .frame, info := word k2 }
      else if 64 ≤ sl.depth then .trap { cause := .stackOvf, info := sl.winSpill }
      else match makeRoom s s.cur.1 s.cur.2 with
        | .full => .trap { cause := .stackOvf, info := sl.winSpill }
        | .waits => .wait
        | .ok s' =>
          .jump (s'.modSlot fun x => { x with win := x.win.callee (sl.pc + word len) k2 }) (t + 2)

/-- A call waits for the half of host memory that its target's parcel lies in (R255). -/
def targetHeld (s : State) (t : Word) (e : Effect) : Effect :=
  match if t.toNat % 2 = 1 then none else missingHalf s t with
  | some half => .stay ((askHost s half .rdShared).modSlot Slot.waits)
  | none => e

/-- The frame a return goes back to: the resident one, or the newest record (R67), and the records left in use. -/
def callerFrame (s : State) (sl : Slot) : Frame × Nat :=
  match sl.win.below with
  | some f => (f, sl.spillUsed)
  | none => (recordFrame s (sl.recordKey s.cur.1 (sl.spillUsed - 1)), sl.spillUsed - 1)

/-- The window of the caller once the callee has returned (R66). -/
def Win.caller (w : Win) (f : Frame) (k : Nat) (links : List Nat) : Win :=
  { act := f.regs.take 24 ++ w.act.take 8, below := none, ret := f.ret, k := k, links := links }

/-- `ret` (R329). -/
def retEffect (s : State) : Effect :=
  let sl := s.slot
  match sl.win.links, sl.win.ret with
  | k :: links, some r =>
    if r.toNat % 2 = 1 then .trap (oddTarget r)
    else
      let f := callerFrame s sl
      .jump (s.setSlot { sl with win := sl.win.caller f.1 k links, spillUsed := f.2 }) r
  | _, _ => .trap { cause := .frame }

/-- `tend` and `qend` (R381, R182): the end of the task, as an abort when it is an orphan or in a handler (R212, R214). -/
def endEffect (s : State) : Effect := orphanGate s (.stay (endTask (s.abortRecord s.cur.1 s.cur.2) s.cur.1 s.cur.2))

/-- A trap taken once the instruction has taken effect: the pc saved is the next one (R210). -/
def softTrap (s : State) (c : Cause) (code : Nat) : Effect :=
  .trapIn (s.modSlot fun sl => { sl with pc := sl.pc + 4, entry := false }) { cause := c, info := word code }

/-- B (R320). -/
def execB (imm : BitVec 24) (s : State) : Host.Outcome State Fault Refusal := finish s 4 (branchEffect s imm.toInt)

/-- B_16 (R300). -/
def execB16 (imm : BitVec 10) (s : State) : Host.Outcome State Fault Refusal := finish s 2 (branchEffect s imm.toInt)

/-- BZ (R327). -/
def execBz (a : SrcM) (imm : BitVec 17) (s : State) : Host.Outcome State Fault Refusal :=
  finish s 4 (branchIf s 4 a imm.toInt true)

/-- BNZ (R327). -/
def execBnz (a : SrcM) (imm : BitVec 17) (s : State) : Host.Outcome State Fault Refusal :=
  finish s 4 (branchIf s 4 a imm.toInt false)

/-- BZ_16 (R300). -/
def execBz16 (x imm : BitVec 5) (s : State) : Host.Outcome State Fault Refusal :=
  finish s 2 (branchIf s 2 (srcM5 x) imm.toInt true)

/-- BNZ_16 (R300). -/
def execBnz16 (x imm : BitVec 5) (s : State) : Host.Outcome State Fault Refusal :=
  finish s 2 (branchIf s 2 (srcM5 x) imm.toInt false)

/-- CALL (R328). -/
def execCall (imm : BitVec 24) (s : State) : Host.Outcome State Fault Refusal :=
  finish s 4 (targetHeld s (branchTarget s imm.toInt) (callTo s 4 (branchTarget s imm.toInt)))

/-- CALLR (R328). -/
def execCallr (a : SrcM) (s : State) : Host.Outcome State Fault Refusal :=
  finish s 4 (ops1 s .z a fun t s' => targetHeld s t (callTo s' 4 t))

/-- JR (R328). -/
def execJr (a : SrcM) (s : State) : Host.Outcome State Fault Refusal :=
  finish s 4 (ops1 s .z a fun t s => if t.toNat % 2 = 1 then .trap (oddTarget t) else .jump s t)

/-- RET (R329). -/
def execRet (s : State) : Host.Outcome State Fault Refusal := finish s 4 (retEffect s)

/-- RET_16 (R300). -/
def execRet16 (s : State) : Host.Outcome State Fault Refusal := finish s 2 (retEffect s)

/-- TEND (R381). -/
def execTend (s : State) : Host.Outcome State Fault Refusal := finish s 4 (endEffect s)

/-- TEND_16 (R300). -/
def execTend16 (s : State) : Host.Outcome State Fault Refusal := finish s 2 (endEffect s)

/-- QEND (R182): the end of a wrap-up task; ILLEGAL in any other. An orphan is aborted. -/
def execQend (s : State) : Host.Outcome State Fault Refusal :=
  finish s 4 (orphanGate s (if s.slot.wrapup then endEffect s else .trap (.illegal 0)))

/-- FRAME (R345): declares a frame as the first parcel of an entry, and does nothing in line. -/
def execFrame (k : BitVec 5) (s : State) : Host.Outcome State Fault Refusal :=
  let n := k.toNat + 1
  finish s 2 (
    if s.slot.entry then
      if n < 8 then .trap { cause := .frame, info := word n }
      else .done (s.modSlot fun sl => { sl with win := { sl.win with k := n } })
    else .done s)

/-- TRAP (R383). -/
def execTrap (code : BitVec 24) (s : State) : Host.Outcome State Fault Refusal :=
  finish s 4 (softTrap s .software code.toNat)

/-- BRK (R326). -/
def execBrk (code : BitVec 24) (s : State) : Host.Outcome State Fault Refusal :=
  finish s 4 (softTrap s .brk code.toNat)

/-- TRET (R384). -/
def execTret (s : State) : Host.Outcome State Fault Refusal :=
  finish s 4 (if s.slot.priv == .user then .trap { cause := .priv } else tretEffect s)

end Sys2Proof.Machine
end

