-- ==== Sys2Proof/Machine/Send.lean ====
section
/-! DEFINITION. Messages as they leave a core: targets (R31, R32), the header (R35), and handing a message to Tongs
(R45, R46, R152, R274). -/

namespace Sys2Proof.Machine

/-- An object handle of this device's form (R31). -/
def handle (device hearth core slot gen : Nat) : Nat :=
  device * 2 ^ 58 + hearth * 2 ^ 48 + core * 2 ^ 45 + slot * 2 ^ 29 + gen * 2 ^ 21

/-- The handle of a core itself. -/
def coreHandle (c : Nat) : Nat := handle 63 (c / 8) (c % 8) 0xFFFF 0

/-- What a message target names: a handle, with device 63 for this device (R31), and, when it is on a peer, the peer (R31,
R32). None where it traps ACCESS, as at a fenced hearth (R259). (DEDUCED, log 33) -/
def resolveTarget (s : State) (l : Nat) (t : Word) : Option (Nat × Option Nat) :=
  let x := t.toNat
  if bitsOf x 20 0 ≠ 0 then
    let r := bitsOf x 12 0
    if bitsOf x 20 20 = 1 && x == 2 ^ 20 + r && r < bitsOf (s.lr l 10).toNat 13 0 then
      (s.launch? l).bind fun y => (y.cores[r]?).bind fun c =>
        if (s.hearth (c / 8)).fenced then none else some (coreHandle c, none)
    else none
  else
    let d := bitsOf x 63 58
    if s.thisDevice d then (if (s.hearth (bitsOf x 57 48)).fenced then none else some (63 * 2 ^ 58 + x % 2 ^ 58, none))
    else if natMem s.linked d then some (x, some d)
    else none

/-- Global core number a handle names. -/
def handleCore (h : Nat) : Nat := bitsOf h 57 48 * 8 + bitsOf h 47 45

/-- Header bits [127:64] without the check (R35). -/
def headerHi (srcCore srcDev launch : Nat) (top : Bool) (tag prio len : Nat) : Nat :=
  srcCore * 2 ^ 35 + srcDev * 2 ^ 29 + launch * 2 ^ 21 + (if top then 2 ^ 20 else 0) + tag * 2 ^ 8 + prio * 2 ^ 4 + len

/-- The check of a message (R35): over header bytes 0-13 and the payload. (DEDUCED, log 82) -/
def messageCheck (lo hi : Nat) (ws : List Word) : Nat :=
  crc16 (leBytes lo 8 ++ leBytes hi 6 ++ (ws.map fun w => leBytes w.toNat 8).flatten)

/-- A message with its check. -/
def mkMsg (dest cls hi : Nat) (ws : List Word) : Msg :=
  let lo := dest / 2 ^ 8 * 2 ^ 8 + cls
  { lo := word lo, hi := word (hi + 2 ^ 48 * messageCheck lo hi ws), words := ws }

/-! Fields of a message (R35). -/

def Msg.check (m : Msg) : Nat := bitsOf m.hi.toNat 63 48
def Msg.srcCore (m : Msg) : Nat := bitsOf m.hi.toNat 47 35
def Msg.srcDev (m : Msg) : Nat := bitsOf m.hi.toNat 34 29
def Msg.launch (m : Msg) : Nat := bitsOf m.hi.toNat 28 21
def Msg.top (m : Msg) : Bool := bitsOf m.hi.toNat 20 20 == 1
def Msg.tag (m : Msg) : Nat := bitsOf m.hi.toNat 19 8
def Msg.prio (m : Msg) : Nat := bitsOf m.hi.toNat 7 4
def Msg.len (m : Msg) : Nat := bitsOf m.hi.toNat 3 0
def Msg.cls (m : Msg) : Nat := bitsOf m.lo.toNat 7 0
def Msg.gen (m : Msg) : Nat := bitsOf m.lo.toNat 28 21
def Msg.slot (m : Msg) : Nat := bitsOf m.lo.toNat 44 29
def Msg.core (m : Msg) : Nat := handleCore m.lo.toNat
/-- Handle bits [63:8] of the destination; bits [7:0] are zero. -/
def Msg.dest (m : Msg) : Word := word (m.lo.toNat / 2 ^ 8 * 2 ^ 8)

/-- The header check of an arriving message holds. -/
def Msg.checked (m : Msg) : Bool := m.check == messageCheck m.lo.toNat (m.hi.toNat % 2 ^ 48) m.words

/-! Rings (R44, R45). -/

/-- A message of its ring slot's words; a length above 9 cannot have been accepted. -/
def msgOfWords (w : Nat → Word) : Msg :=
  { lo := w 0, hi := w 1, words := (List.range (min 9 (bitsOf (w 1).toNat 3 0))).map fun i => w (i + 2) }

/-- Scratchpad offset of a ring slot. -/
def ringOffset (base i : Nat) : Nat := base + 96 * i

/-- The message of a ring slot of the resident launch. -/
def ringMsg (s : State) (c i : Nat) : Msg :=
  msgOfWords fun j => memWord s.mem (scratchKey c (ringOffset (s.core c).ovfBase i) + 8 * j)

/-- The ring's head moves into the hardware queue while it has room (R45). -/
def moveRing (c : Nat) : Nat → State → State
  | 0, s => s
  | n + 1, s =>
    let k := s.core c
    match k.ring with
    | [] => s
    | (a, since, aged) :: r =>
      if k.arrLimit ≤ k.hwq.length then s
      else
        let q : Queued := { msg := ringMsg s c k.ringHead, arrival := a, since := since, aged := aged }
        let head := if r.isEmpty then 0 else (k.ringHead + 1) % k.ovfSize
        moveRing c n (s.setCore c { k with hwq := k.hwq ++ [q], ring := r, ringHead := head })

def refillQueue (s : State) (c : Nat) : State := moveRing c 32 s

/-- A message that the task that issues sends (R374). -/
def taskMsg (s : State) (t : Nat × Option Nat) (cls prio : Nat) (ws : List Word) : Msg :=
  let sl := s.slot
  let dev := if t.2.isSome then s.cfg.deviceId else 63
  mkMsg t.1 cls (headerHi s.cur.1 dev sl.launch (sl.fmtMode.getLsbD 0) sl.hypCur prio ws.length) ws

/-- Tongs takes a message (R45, R152): it flies to its core, or leaves as a packet to its peer (R274). -/
def handToTongs (s : State) (die : Nat) (peer : Option Nat) (m : Msg) (sender : Sender) : State :=
  let id := s.nextId
  let s := (s.inflight m.launch die 1).fresh
  match peer with
  | none =>
    ({ s with transits := tset s.transits id { msg := m, sender := sender, dest := m.core } }).poke
      ⟨.messageArrival, { id := id }⟩
  | some p =>
    let leg := Leg.abroad p (s.nextTrans p)
    let s := { s with transits := tset s.transits id { msg := m, sender := sender, dest := m.core, leg := leg } }
    sendRequest s m.launch p true id fun tr =>
      { header := packetHeader 1 (messageFlits m.words.length) false 0 tr m.launch 0, words := m.lo :: m.hi :: m.words }

/-- What the composer's words show to a `send` (R360): a word still reserved makes it wait, and a full-faulted word
traps. -/
def composerBlocks (ws : List Reg) : Option Effect :=
  match ws.findSome? (fun r => match r.st with
      | .empty _ => some ()
      | _ => none) with
  | some _ => some .wait
  | none =>
    match ws.findSome? (fun r => match r.st with
        | .faulted p a pc => some (p, a, pc)
        | _ => none) with
    | some (p, a, pc) =>
      some (.trap { cause := if p then .poison else .access, addr := a, info := pc, deferred := true })
    | none => none

/-- ACCESS of a message target (R32): the target is in TRAP.ADDR. -/
def targetTrap (t : Word) : Trap := { cause := .access, addr := t }

/-- The tasks of a launch's class default to its priority (R39). -/
def State.defaultPrio (s : State) (l cls : Nat) : Nat := (s.classOf l cls).prio

/-- `send` (R374). -/
def sendEffect (s : State) (cls : Nat) (a b : Src) (keep : Bool) : Effect :=
  orphanGate s <| memGate s <| withOps s .z [blk a, blk b] fun vs s =>
    let sl := s.slot
    let t := vs.getD 0 0
    let p := if b == .z then s.defaultPrio sl.launch cls else (vs.getD 1 0).toNat
    if 16 ≤ p then .trap (.illegal (vs.getD 1 0))
    else match resolveTarget s sl.launch t with
      | none => .trap (targetTrap t)
      | some x =>
        match composerBlocks sl.composer with
        | some e => e
        | none =>
          let m := taskMsg s x cls p (sl.composer.map (·.val))
          let s' := handToTongs s (dieOf s.cur.1) x.2 m (.task s.cur.1 s.cur.2)
          let s' := if keep then s' else s'.modSlot fun y => { y with composer := [] }
          releaseGate s (.done s')

/-- A composer word is reserved and not filled: `send`, `spawn` and `migrate` wait for it (R360). -/
def Slot.reservedWord (sl : Slot) : Bool :=
  sl.composer.any fun r => match r.st with
    | .empty _ => true
    | _ => false

/-- `spawn` (R377, R48). -/
def spawnEffect (s : State) (cls : Nat) (a b : Src) : Effect :=
  orphanGate s <| memGate s <| withOps s .z [blk a, blk b] fun vs s₁ =>
    let sl := s₁.slot
    let t := vs.getD 0 0
    match resolveTarget s₁ sl.launch t with
    | none => .trap (targetTrap t)
    | some x =>
      if sl.reservedWord then .wait
      else if s.myCore.spawnLimit ≤ s.myCore.spawns then .stay (s.modSlot fun y => { y.waits with spawning := true })
      else
        let m := taskMsg s₁ x cls (s₁.defaultPrio sl.launch cls) [vs.getD 1 0]
        let s' := handToTongs s₁ (dieOf s.cur.1) x.2 m (.spawn s.cur.1 s.cur.2)
        releaseGate s₁ (.done ((s'.modMyCore fun k => { k with spawns := k.spawns + 1 }).modSlot fun y =>
          { y with spawning := false }))

/-- n0-n7 as a continuation carries them: all full, or what the first that is not comes to (R364). -/
def carried (regs : List Reg) : Nat → List Word × Option Effect
  | 0 => ([], none)
  | n + 1 =>
    match regs with
    | [] => ([], none)
    | r :: rest =>
      let i := 7 - n
      match groupThree (⟨.n (Fin.ofNat 32 i), false⟩, r.peek) with
      | some e => ([], some e)
      | none =>
        let q := carried rest n
        (r.val :: q.1, q.2)

/-- A `migrate` whose message is under way waits; once Tongs has given the message up it traps precisely (R49, R46). -/
def migrateWait (s : State) : Effect :=
  match s.slot.migrateEnd with
  | some (some r) =>
    .trapIn (s.modSlot fun sl => { sl with migrating := none, migrateEnd := none })
      { cause := .sendRefused, addr := r.1, info := r.2 }
  | _ => .stay (s.modSlot Slot.waits)

/-- `migrate` (R364, R49): the continuation is sent once, and the task keeps its slot until it is accepted.
(DEDUCED, log 27) -/
def migrateEffect (s0 : State) (cls : Nat) (a : Src) : Effect :=
  let s := s0
  orphanGate s <|
    if s.slot.migrating.isSome then migrateWait s
    else if s.slot.depth ≠ 0 then .trap { cause := .frame }
    else memGate s <| withOps s .z [blk a] fun vs s =>
      let sl := s.slot
      let t := vs.getD 0 0
      match resolveTarget s sl.launch t with
      | none => .trap (targetTrap t)
      | some x =>
        match carried sl.win.act 8 with
        | (_, some e) => e
        | (ws, none) =>
          if sl.reservedWord then .wait
          else
            let m := taskMsg s x cls (s.defaultPrio sl.launch cls) (ws ++ [sl.pc + 4])
            let id := s.nextId
            let s' := handToTongs s (dieOf s.cur.1) x.2 m (.migrate s.cur.1 s.cur.2)
            -- the target's word is consumed once the message is accepted: the state stays intact till then (R49)
            releaseGate s (.stay (s'.modSlot fun y => { s0.slot with
              composer := y.composer, migrating := some id, migrateSrc := a, migrateEnd := none, stall := .none }))

/-- SEND (R374). -/
def execSend (cls : BitVec 8) (a b : Src) (keep : Bool) (s : State) : Host.Outcome State Fault Refusal :=
  finish s 4 (sendEffect s cls.toNat a b keep)

/-- SPAWN (R377). -/
def execSpawn (cls : BitVec 8) (a b : Src) (s : State) : Host.Outcome State Fault Refusal :=
  finish s 4 (spawnEffect s cls.toNat a b)

/-- MIGRATE (R364). -/
def execMigrate (cls : BitVec 8) (a : Src) (s : State) : Host.Outcome State Fault Refusal :=
  finish s 4 (migrateEffect s cls.toNat a)

/-! ### Streams (R370-R372) -/

/-- The bits of an instruction of two parcels. -/
def joinParcels (ps : List Nat) : Nat := ps.getD 0 0 + 2 ^ 16 * ps.getD 1 0

/-- TRAP.INFO of `sbind` on a bound register: the layout of R301, whose check number the manual does not give for this
case. (DESIGN CHOICE, log 30) -/
def boundTrap (s : State) (i : Instr) : Effect :=
  .trapIn s.nextFree (.illegal (word (2 ^ 35 + Config.freeNat s.freeCtr % 8 * 2 ^ 32 + joinParcels (encode i))))

/-- A binding of the task that issues. -/
def State.bind (s : State) (st : Nat) : Bind := s.slot.binds.getD st .unbound

def State.setBind (s : State) (st : Nat) (b : Bind) : State :=
  s.modSlot fun sl => { sl with binds := padSet .unbound sl.binds st b }

/-- `.off` (R371, R372): words not read are discarded, and a command that delivers into the stream runs on. -/
def unbind (s : State) (st : Nat) : State :=
  let t := s.cur.2
  match s.bind st with
  | .unbound => s
  | .chan c m =>
    ((s.countDiscard s.slot.launch (Bind.chan c m).unread).setBind st .unbound).poke ⟨.messageDispatch, { core := s.cur.1 }⟩
  | .copy _ _ _ =>
    (s.setBind st .unbound).modMyCore fun k => { k with
      commands := tmap (fun _ x => if x.slot == t && x.stream == some (st + 1) then { x with unbound := true } else x) k.commands }

/-- SBIND_OFF (R370). -/
def execSbindOff (st : Fin 6) (s : State) : Host.Outcome State Fault Refusal := finish s 4 (.done (unbind s st.val))

/-- SBIND_CHAN (R370). -/
def execSbindChan (st : Fin 6) (a : SrcM) (s : State) : Host.Outcome State Fault Refusal :=
  finish s 4 (
    if s.bind st.val ≠ .unbound then boundTrap s (.sbindChan st a)
    else ops1 s .z a fun v s =>
      let c := v.toNat
      let taken := s.myCore.slots.any fun p => p.2.held && p.1 != s.cur.2 && p.2.binds.any fun b => match b with
        | .chan x _ => x == c
        | _ => false
      if 255 ≤ c || (s.classOf s.slot.launch c).cont || taken then .trap (.illegal v)
      else .done ((s.setBind st.val (.chan c [])).poke ⟨.messageDispatch, { core := s.cur.1 }⟩))

/-- SBIND_COPY (R372). -/
def execSbindCopy (st : Fin 6) (s : State) : Host.Outcome State Fault Refusal :=
  finish s 4 (
    if s.bind st.val ≠ .unbound then boundTrap s (.sbindCopy st) else .done (s.setBind st.val (.copy [] none false)))

end Sys2Proof.Machine
end

