-- ==== Sys2Proof/Machine/Msg.lean ====
section
/-! DEFINITION. Graph and system instructions: convergence (R151), cuts (R154, R157), barriers (R321-R323), hypotheses
(R354-R358), flags (R184), time (R172), lanes (R391, R206) and leases (R266, R267). -/

namespace Sys2Proof.Machine

/-! ### `cvg` (R150, R151) -/

/-- What a note of the FP32 bits `x` does to the convergence registers. -/
def Core.note (k : Core) (x : Nat) : Core :=
  let m := min (x % 2 ^ 31) 0x7F800000
  let k := if k.cvgMax.toNat < m then { k with cvgMax := word m } else k
  if k.cvgThresh.toNat < m then { k with cvgCount := k.cvgCount + 1, cvgQuiet := 0 } else k

/-- CVG_NOTE (R151). -/
def execCvgNote (a : SrcM) (s : State) : Host.Outcome State Fault Refusal :=
  finish s 4 (ops1 s .z a fun v s => .done (s.modMyCore (·.note (v.toNat % 2 ^ 32))))

/-- CVG_MAX (R151). -/
def execCvgMax (d : Dst) (s : State) : Host.Outcome State Fault Refusal :=
  finish s 4 (ops0 s d fun s => .done (pushTo s d s.myCore.cvgMax))

/-- CVG_COUNT (R151). -/
def execCvgCount (d : Dst) (s : State) : Host.Outcome State Fault Refusal :=
  finish s 4 (ops0 s d fun s => .done (pushTo s d s.myCore.cvgCount))

/-- The launch is converged (R152). -/
def State.converged (s : State) (l : Nat) : Bool :=
  match s.launch? l with
  | some x => x.converged
  | none => false

/-- CVG_QUIET (R151): the converged bit and the quiet cycles. -/
def execCvgQuiet (d : Dst) (s : State) : Host.Outcome State Fault Refusal :=
  finish s 4 (ops0 s d fun s =>
    let bit := if s.converged s.slot.launch then 2 ^ 63 else 0
    .done (pushTo s d (word (bit + s.myCore.cvgQuiet.toNat % 2 ^ 63))))

/-- CVG_CLEAR (R151). -/
def execCvgClear (s : State) : Host.Outcome State Fault Refusal :=
  finish s 4 (.done (s.modMyCore fun k => { k with cvgMax := 0, cvgCount := 0 }))

/-! ### Instructions that wait for their Beat delivery -/

/-- Announces for the task, which issues nothing until the delivery (R137, R154, R161). -/
def announceTask (s : State) (k : BeatKind) : Effect :=
  let sl := s.slot
  .stay ((s.announce s.cur.1 s.cur.2 sl.launch k).modSlot fun x => { x with stall := .beat (sl.pc + 4) })

/-- CUT (R154). The ADDR and INFO of its ACCESS are 0. (DEDUCED, log 57) -/
def execCut (d : Dst) (s : State) : Host.Outcome State Fault Refusal :=
  finish s 4 (memGate s <| ops0 s d fun s =>
    if s.lr s.slot.launch 27 = 0 then .trap { cause := .access } else announceTask s (.cut d))

/-- The state code of cut `n` for `cutstat` (R157). -/
def cutCode (c : Cut) (n : Nat) : Nat :=
  let ahead := (n + 2 ^ 32 - c.number) % 2 ^ 32
  if n = 0 || (0 < ahead && ahead < 2 ^ 31) then 0
  else if n = c.number then (if c.inProgress then 1 else if c.abandoned then 4 else 2)
  else 3

/-- CUTSTAT (R157). -/
def execCutstat (d : Dst) (a : SrcM) (s : State) : Host.Outcome State Fault Refusal :=
  finish s 4 (ops1 s d a fun v s =>
    let c := match s.launch? s.slot.launch with
      | some x => x.cut
      | none => {}
    .done (pushTo s d (word (cutCode c (v.toNat % 2 ^ 32) * 2 ^ 32 + c.number))))

/-- The A value of a hypothesis instruction: a tag, or ILLEGAL with the value (R161). -/
def tagOperand (v : Word) (k : Nat → Effect) : Effect := if 4096 ≤ v.toNat then .trap (.illegal v) else k v.toNat

/-- The tag is one of the launch's that is neither free nor swept (R163, R164). -/
def State.heldTag (s : State) (l h : Nat) : Bool :=
  (s.tag h).launch == l && (s.tag h).state != .free && (s.tag h).state != .swept

/-- HOPEN (R355). -/
def execHopen (d : Dst) (a : SrcM) (s : State) : Host.Outcome State Fault Refusal :=
  finish s 4 (memGate s <| ops1 s d a fun v s => tagOperand v fun h => announceTask s (.hopen h d))

/-- HENTER (R354): a confirmed tag stands for its target (R164). -/
def execHenter (a : SrcM) (s : State) : Host.Outcome State Fault Refusal :=
  finish s 4 (ops1 s .z a fun v s => tagOperand v fun h =>
    if h ≠ 0 && !s.heldTag s.slot.launch h then .trap (.illegal v)
    else .done (s.modSlot fun sl => { sl with hypCur := s.follow h }))

/-- `hresolve` (R356): forms 2 `.c`, 3 `.r` and 4 `.x`. (DEDUCED, log 19) -/
def resolveEffect (s : State) (form : Nat) (d : Dst) (a : SrcM) : Effect :=
  memGate s <| ops1 s d a fun v s => tagOperand v fun h =>
    if h = 0 || !s.heldTag s.slot.launch h then .trap (.illegal 0)
    else
      let e := announceTask s (.hresolve form h d)
      if form = 3 then e else releaseGate s e

/-- HRESOLVE_C (R356). -/
def execHresolveC (d : Dst) (a : SrcM) (s : State) : Host.Outcome State Fault Refusal := finish s 4 (resolveEffect s 2 d a)

/-- HRESOLVE_R (R356). -/
def execHresolveR (d : Dst) (a : SrcM) (s : State) : Host.Outcome State Fault Refusal := finish s 4 (resolveEffect s 3 d a)

/-- HRESOLVE_X (R356). -/
def execHresolveX (d : Dst) (a : SrcM) (s : State) : Host.Outcome State Fault Refusal := finish s 4 (resolveEffect s 4 d a)

/-- HSTAT (R358): its word is formed when it issues, so accesses that follow see what it tells (R140). -/
def execHstat (d : Dst) (a : SrcM) (s : State) : Host.Outcome State Fault Refusal :=
  finish s 4 (ops1 s d a fun v s => tagOperand v fun h => .done (oweTo s d (.value (hstatWord s s.slot.launch h)) false false))

/-! ### Barriers (R321-R323) -/

/-- The level descriptor byte of a level (R52). -/
def levelByte (levels i : Nat) : Nat := levels / 2 ^ (8 * i) % 256

/-- Cores of one instance of a level descriptor (R52, R53). -/
def levelCores (b : Nat) : Nat :=
  let n := 2 ^ (b % 32)
  match b / 32 with
  | 0 => ceilDiv n 4
  | 1 => n
  | 2 => 8 * n
  | 3 => 128 * n
  | 4 => 2048 * n
  | _ => 8192 * n

/-- The memory scope of a level descriptor (R52): the smallest whose capacity holds one instance. -/
def levelScope (b : Nat) : Nat :=
  let tasks := 2 ^ (b % 32) * match b / 32 with
    | 0 => 1
    | 1 => 4
    | 2 => 32
    | 3 => 512
    | 4 => 8192
    | _ => 32768
  if tasks ≤ 4 then 0 else if tasks ≤ 32 then 1 else if tasks ≤ 512 then 2 else if tasks ≤ 8192 then 3
  else if tasks ≤ 32768 then 4 else 5

/-- Levels a launch declares (R52): those before the first byte of kind 7. `LR.LEVELS` = 0 stands for one level. -/
def levelCount (levels : Nat) : Nat :=
  if levels = 0 then 1 else ((List.range 8).takeWhile fun i => levelByte levels i / 32 != 7).length

/-- The cores of one instance of level `i` of a launch, when it has that level. (DESIGN CHOICE, log 73) -/
def Launch.levelSize (x : Launch) (i : Nat) : Option Nat :=
  let levels := (x.lr.getD 9 0).toNat
  let ranks := bitsOf (x.lr.getD 10 0).toNat 13 0
  if levelCount levels ≤ i then none
  else if levels = 0 then some (2 ^ Nat.clog 2 ranks)
  else some (levelCores (levelByte levels i))

/-- The memory scope of level `i` of a launch (R52). -/
def Launch.levelScope (x : Launch) (i : Nat) : Nat :=
  let levels := (x.lr.getD 9 0).toNat
  if levels = 0 then Machine.levelScope (32 + Nat.clog 2 (bitsOf (x.lr.getD 10 0).toNat 13 0))
  else Machine.levelScope (levelByte levels i)

/-- The key of a barrier: its number, level and the instance of the level. -/
def barrierKey (bar level inst : Nat) : Nat := bar * 2 ^ 16 + level * 2 ^ 13 + inst

/-- The ranks of a declared barrier's instance, first and past the last: the instance of a rank is its rank divided by the
size, also in a launch wider than a span (R53). (DESIGN CHOICE, log 73) -/
def Launch.barrierRanks (x : Launch) (key : Nat) : Nat × Nat :=
  let n := (x.levelSize (bitsOf key 15 13)).getD 1
  (bitsOf key 12 0 * n, bitsOf key 12 0 * n + n)

/-- The declared barrier that a number names on the core of a rank. -/
def Launch.barrier? (x : Launch) (rank bar : Nat) : Option (Nat × Barrier) :=
  x.barriers.find? fun p =>
    let r := x.barrierRanks p.1
    p.1 / 2 ^ 16 == bar && decide (r.1 ≤ rank) && decide (rank < r.2)

/-- Some declared barrier of the number overlaps a range of ranks. -/
def Launch.barrierOverlaps (x : Launch) (bar lo hi : Nat) : Bool :=
  x.barriers.any fun p =>
    let r := x.barrierRanks p.1
    p.1 / 2 ^ 16 == bar && decide (r.1 < hi) && decide (lo < r.2)

/-- A task's membership of a barrier: its pending generation. -/
def Barrier.member? (b : Barrier) (c t : Nat) : Option (Option Nat) :=
  (b.members.find? fun m => m.1 == c && m.2.1 == t).map fun m => m.2.2

/-- Sets a member's pending generation. -/
def Barrier.setPending (b : Barrier) (c t : Nat) (g : Option Nat) : Barrier :=
  { b with members := b.members.map fun m => if m.1 == c && m.2.1 == t then (c, t, g) else m }

def State.setBarrier (s : State) (l key : Nat) (b : Barrier) : State :=
  s.modLaunch l fun x => { x with barriers := tset x.barriers key b }

/-- The barrier a number names for the task that issues. -/
def State.barrier? (s : State) (bar : Nat) : Option (Nat × Barrier) :=
  (s.launch? s.slot.launch).bind fun x => x.barrier? s.slot.rank bar

/-- A higher core has joined a barrier of the number in this cycle: two `bjoin` of one cycle are taken in ascending core
number (R324), so that this one is taken in the next. -/
def Launch.joinsLater (x : Launch) (bar now c : Nat) : Bool :=
  x.barriers.any fun p => p.1 / 2 ^ 16 == bar && p.2.lastJoin.1 == now + 1 && decide (c < p.2.lastJoin.2)

/-- `bjoin` (R322), of the instance that the rank divided by the size names (R53).
(DEDUCED, log 19; DESIGN CHOICE, log 73) -/
def joinEffect (s : State) (bar : Nat) (a : Src) : Effect :=
  withOps s .z [blk a] fun vs s =>
    let v := vs.getD 0 0
    let w := v.toNat
    let n := bitsOf w 15 0
    let lv := bitsOf w 18 16
    let sl := s.slot
    match s.launch? sl.launch with
    | none => .trap (.illegal v)
    | some x =>
      match x.levelSize lv with
      | none => .trap (.illegal v)
      | some size =>
        let inst := sl.rank / size
        let cores := min size (x.cores.length - inst * size)
        let me := (s.cur.1, s.cur.2, (none : Option Nat))
        if 2 ^ 19 ≤ w || n = 0 || 4 * cores < n then .trap (.illegal v)
        else if x.joinsLater bar s.cycle s.cur.1 then .wait
        else match x.barrier? sl.rank bar with
          | some (key, b) =>
            if (b.member? s.cur.1 s.cur.2).isSome || b.n ≠ n || b.level ≠ lv then .trap (.illegal 0)
            else .done (s.setBarrier sl.launch key { b with members := b.members ++ [me], lastJoin := (s.cycle + 1, s.cur.1) })
          | none =>
            if x.barrierOverlaps bar (inst * size) (inst * size + size) then .trap (.illegal 0)
            else .done (s.setBarrier sl.launch (barrierKey bar lv inst)
              { n := n, level := lv, scope := x.levelScope lv, members := [me], lastJoin := (s.cycle + 1, s.cur.1) })

/-- The span of a core: 4 × 4 hearths of a die (R11). -/
def spanOf (c : Nat) : Nat :=
  let h := c / 8
  h / 256 * 16 + h / 64 % 4 * 4 + h / 4 % 4

/-- Cycles within which a release reaches every member (R17), by the widest level that the members' cores span. -/
def spanBound (cs : List Nat) : Nat :=
  let same := fun f : Nat → Nat => cs.all fun c => f c == f (cs.headD 0)
  if same id then 4 else if same (· / 8) then 8 else if same spanOf then 24 else if same dieOf then 64 else 192

/-- An arrival of the task that issues (R322): the N-th releases the generation. -/
def arrive (s : State) (key : Nat) (b : Barrier) : State :=
  let l := s.slot.launch
  let b := b.setPending s.cur.1 s.cur.2 (some b.gen)
  if b.arrivals + 1 = b.n then
    (s.setBarrier l key { b with gen := b.gen + 1, arrivals := 0, due := some (b.due.getD (s.cycle + spanBound (b.members.map (·.1)))) }).poke
      ⟨.barrierReleaseDelivery, { launch := l, id := key, n := b.gen + 1 }⟩
  else s.setBarrier l key { b with arrivals := b.arrivals + 1 }

/-- `barrive`: the release comes before the arrival; `k` goes on after it. (DEDUCED, log 29) -/
def arriveEffect (s : State) (bar : Nat) (k : State → Effect) : Effect :=
  match s.barrier? bar with
  | none => .trap (.illegal 0)
  | some (key, b) =>
    match b.member? s.cur.1 s.cur.2 with
    | some none => memGate s (releaseGate s (k (arrive s key b)))
    | _ => .trap (.illegal 0)

/-- `bwait` (R322): lanes are returned on entry and requested again on release. (DEDUCED, log 29) -/
def waitEffect (s : State) (bar : Nat) : Effect :=
  match s.barrier? bar with
  | none => .trap (.illegal 0)
  | some (key, b) =>
    match b.member? s.cur.1 s.cur.2 with
    | some (some g) =>
      if g < b.released then
        .done (reclaim (s.setBarrier s.slot.launch key (b.setPending s.cur.1 s.cur.2 none)) s.cur.1 s.cur.2)
      else .stay (s.modSlot fun sl => { sl.waits with vl := 0, inBwait := some bar })
    | _ => .trap (.illegal 0)

/-- BARRIVE (R322). -/
def execBarrive (bar : BitVec 7) (s : State) : Host.Outcome State Fault Refusal :=
  finish s 4 (arriveEffect s bar.toNat fun s => .done s)

/-- BWAIT (R322). -/
def execBwait (bar : BitVec 7) (s : State) : Host.Outcome State Fault Refusal := finish s 4 (waitEffect s bar.toNat)

/-- BSYNC (R322): an arrival once, and then the wait. -/
def execBsync (bar : BitVec 7) (s : State) : Host.Outcome State Fault Refusal :=
  finish s 4 (
    if s.slot.inBwait == some bar.toNat then waitEffect s bar.toNat
    else arriveEffect s bar.toNat fun s =>
      match waitEffect s bar.toNat with
      | .stay s' => .stay (s'.modSlot fun sl => { sl with waiting := false })
      | e => e)

/-- BJOIN (R322). -/
def execBjoin (bar : BitVec 7) (a : Src) (s : State) : Host.Outcome State Fault Refusal :=
  finish s 4 (joinEffect s bar.toNat a)

/-- The task has left a barrier: a `bsync` it was interrupted in has made no arrival (R322). -/
def Slot.leftBwait (sl : Slot) (bar : Nat) : Slot :=
  { sl with shadow := sl.shadow.map fun h => if h.inBwait == some bar then { h with inBwait := none } else h }

/-- BLEAVE (R322). -/
def execBleave (bar : BitVec 7) (s : State) : Host.Outcome State Fault Refusal :=
  finish s 4 (
    match s.barrier? bar.toNat with
    | none => .trap (.illegal 0)
    | some (key, b) =>
      if (b.member? s.cur.1 s.cur.2).isNone then .trap (.illegal 0)
      else .done ((s.modSlot (·.leftBwait bar.toNat)).modLaunch s.slot.launch fun x =>
        { x with barriers := match leaveBarrier s.cur.1 s.cur.2 b with
            | some b => tset x.barriers key b
            | none => tdel x.barriers key }))

/-- The word of `bstat` (R323). (DEDUCED, log 29) -/
def barrierWord (s : State) (bar : Nat) : Nat :=
  match s.barrier? bar with
  | none => 0
  | some (_, b) =>
    let m := b.member? s.cur.1 s.cur.2
    (if m.isSome then 2 ^ 63 else 0) + (if (m.getD none).isSome then 2 ^ 62 else 0) + b.level * 2 ^ 59 + b.n * 2 ^ 32 +
      b.arrivals * 2 ^ 16 + b.gen % 2 ^ 16

/-- BSTAT (R323). -/
def execBstat (bar : BitVec 7) (s : State) : Host.Outcome State Fault Refusal :=
  finish s 4 (.done (pushTo s .queue (word (barrierWord s bar.toNat))))

/-- VCLAIM (R391). -/
def execVclaim (d : Dst) (a : SrcM) (s : State) : Host.Outcome State Fault Refusal :=
  finish s 4 (ops1 s d a fun v s =>
    let n := v.toNat
    if 64 < n then .trap (.illegal v)
    else
      let g := if n = 0 then 0 else grant s s.cur.1 s.cur.2 n
      let s := s.modSlot fun sl =>
        let sl := { sl with vl := g, vasked := n, vclaimed := true }
        if s.slot.vclaimed then sl
        else { sl with vregs := List.replicate 16 (List.replicate 64 0), vfaults := List.replicate 16 none }
      .done (pushTo s d (word g)))

/-! ### Flags, time and leases -/

/-- `vflag` (R184): the checks of its access, then a release, and one atomic OR of the flag's bit. (DEDUCED, log 31) -/
def flagEffect (s0 : State) (a : SrcM) : Effect :=
  memGate s0 <| ops1 s0 .z a fun v s =>
    let l := s.slot.launch
    let h := s.slot.hypCur
    let i := v.toNat
    let va := s.lr l 20 + word (8 * (i / 64))
    if bitsOf (s.lr l 21).toNat 15 0 ≤ i then .trap (.illegal v)
    else if h ≠ 0 then .trap { cause := .hypUse, info := word h }
    else match locate s .atomic 8 va 0 with
      | .error t => .trap t
      | .ok (.mem (.peer _ _) _) => .trap { cause := .access, addr := va, info := kindInfo .atomic 0 }
      | .ok (.peerSram _) => .trap { cause := .access, addr := va, info := kindInfo .atomic 0 }
      | .ok (.window _ _ _ w _) => .trap { cause := .format, addr := va, info := word w }
      | .ok p => releaseAfter s (atomicPlace s0 (s.tlbFor va) 2 false 2 8 .z va (2 ^ (i % 64)) 0 p)

/-- VFLAG (R184). -/
def execVflag (a : SrcM) (s : State) : Host.Outcome State Fault Refusal := finish s 4 (flagEffect s a)

/-- TIME (R172). -/
def execTime (d : Dst) (s : State) : Host.Outcome State Fault Refusal :=
  finish s 4 (ops0 s d fun s => .done (oweTo s d .time false false))

/-- The task waits for the links role (R266, R268). -/
def askLinks (s : State) (op : LinkOp) : Effect :=
  let sl := s.slot
  .stay ((s.modSlot fun x => { x with stall := .links (s.cycle + Config.linksAnswer) op (sl.pc + 4) }).poke
    ⟨.linksRoleAnswer, { core := s.cur.1, slot := s.cur.2 }⟩)

/-- LEASE (R266). -/
def execLease (d : Dst) (a b : SrcM) (s : State) : Host.Outcome State Fault Refusal :=
  finish s 4 (ops2 s d a b fun p n s =>
    if 64 ≤ p.toNat then .trap (.illegal p)
    else if 64 < n.toNat then .trap (.illegal n)
    else if bitsOf (s.lr s.slot.launch 0).toNat 2 2 = 0 || s.thisDevice p.toNat || !natMem s.linked p.toNat then
      .trap { cause := .lease, addr := p, info := n }
    else askLinks s (.lease p.toNat n.toNat d))

/-- LSTAT (R267). -/
def execLstat (d : Dst) (a : SrcM) (s : State) : Host.Outcome State Fault Refusal :=
  finish s 4 (ops1 s d a fun p s =>
    if 64 ≤ p.toNat then .trap (.illegal p) else .done (oweTo s d (.lstat p.toNat) false false))

end Sys2Proof.Machine
end

