-- ==== Sys2Proof/Machine/System.lean ====
section
/-! DEFINITION. System registers (R72, R73, R380), the split (R113), the journal registers (R117, R118), and the start of
an invalidation (R382). -/

namespace Sys2Proof.Machine

/-! ### The registers and who may reach them (R73) -/

/-- A register of the links role (R268). -/
def isLinkReg (n : Nat) : Bool := decide (0x090 ≤ n) && decide (n ≤ 0x094)

/-! ### Values -/

/-- `SLACK` (R180): the fire time less the hearth's PTP time, or the greatest value without a deadline.
(DESIGN CHOICE, log 84) -/
def slackWord (s : State) (l : Nat) : Word :=
  match s.launch? l with
  | some x => if x.lr.getD 16 0 = 0 then word (2 ^ 63 - 1) else word (fireTime x.lr) - word s.ptp
  | none => word (2 ^ 63 - 1)

/-- `JRNL.HEAD` (R117). (DESIGN CHOICE, log 71) -/
def journalHead (k : Core) : Word :=
  word ((k.journal.filter fun j => j.used && j.refused).length * 2 ^ 16 + (k.journal.filter (·.used)).length * 2 ^ 8 +
    (freeEntry k.journal k.journalNext).getD k.journalNext)

/-- `JRNL.WHY` of an entry (R117). -/
def journalWhy (j : JEntry) : Word :=
  word (j.launch * 2 ^ 16 + j.slot * 2 ^ 12 + (if j.used then 2 ^ 11 else 0) + (if j.refused then 2 ^ 10 else 0) +
    j.size * 2 ^ 8 + j.reason)

/-- The value of a register as the task of the slot that issues reads it (R73). Registers of the links role are read
there. (DESIGN CHOICE, log 16) -/
def regValue (s : State) (n : Nat) : Word :=
  let c := s.cur.1
  let k := s.myCore
  let sl := s.slot
  let j := k.journal.getD k.journalSel {}
  let quench := fun w : Word => if sl.wrapup then w else 0
  match n with
  | 0x000 => word c
  | 0x001 => word s.cur.2
  | 0x002 => word sl.launch
  | 0x003 => word sl.rank
  | 0x004 => word s.cfg.deviceId
  | 0x010 => sl.fpCtrl
  | 0x011 => sl.fpStat
  | 0x012 => sl.fmtMode
  | 0x013 => sl.gbeta
  | 0x020 => word sl.vl
  | 0x021 => sl.vstride
  | 0x022 => word k.vshare
  | 0x030 => k.cvgMax
  | 0x031 => k.cvgCount
  | 0x032 => word (k.cvgQuiet.toNat % 2 ^ 63)
  | 0x033 => k.cvgThresh
  | 0x034 => k.cvgWindow
  | 0x040 => word sl.hypCur
  | 0x050 => quench sl.quenchPc
  | 0x051 => quench (word sl.quenchCause)
  | 0x052 => quench (word sl.quenchLeft)
  | 0x058 => s.lr sl.launch 16
  | 0x059 => slackWord s sl.launch
  | 0x060 => word k.arrLimit
  | 0x061 => word k.ovfBase
  | 0x062 => word k.ovfSize
  | 0x063 => word (k.ringHead * 2 ^ 32 + k.ring.length * 2 ^ 16 + k.hwq.length)
  | 0x064 => word k.deadCount
  | 0x068 => word k.spawnLimit
  | 0x069 => sl.winSpill
  | 0x070 => sl.msgSrc
  | 0x071 => sl.msgHdr
  | 0x072 => sl.msgSlot
  | 0x080 => word k.lsplit
  | 0x0A0 => word Config.awake
  | 0x0A1 => word Config.lwake
  | 0x0A2 => word Config.subReplay
  | 0x0A3 => word (Config.drainAllowance * 2 ^ 32) + BitVec.setWidth 64 Config.revision
  | 0x0B0 => word (s.hearth s.myHearth).held.gate
  | 0x0B1 => boolWord (s.hearth s.myHearth).token
  | 0x0C0 => 0
  | 0x100 => sl.bank1.cause
  | 0x101 => sl.bank1.epc
  | 0x102 => sl.bank1.addr
  | 0x103 => sl.bank1.info
  | 0x104 => sl.trapVec
  | 0x105 => sl.trapStack
  | 0x108 => sl.bank2.cause
  | 0x109 => sl.bank2.epc
  | 0x10A => sl.bank2.addr
  | 0x10B => sl.bank2.info
  | 0x110 => journalHead k
  | 0x111 => word k.journalSel
  | 0x112 => j.addr
  | 0x113 => j.data
  | 0x114 => journalWhy j
  | 0x121 => word sl.asid
  | 0x130 => word sl.wdog
  | _ => if 0x0C1 ≤ n && n ≤ 0x0CF then word (k.fmtWindow (n - 0xC0)) else 0

/-! ### Writes -/

/-- A window word that describes nothing or breaks no rule of R101. (DEDUCED, log 35) -/
def windowOk (w : Nat) : Bool :=
  w == 0 ||
  (decide (4 ≤ winFormat w) && decide (winFormat w ≤ 12) && bitsOf w 5 4 != 0 &&
    (!winZp w || winFormat w == 10 || winFormat w == 12) && winOffset w % 4 == 0)

/-- The ring fits the scratchpad (R44); a ring of no slots is none. (DEDUCED, log 35) -/
def ringFits (k : Core) (base size : Nat) : Bool :=
  size == 0 || decide (base + 96 * size ≤ splitBytes k.lsplit)

/-- The value is one the register takes (R380, check 3); reserved bits of it are ignored (R4).
(DEDUCED, log 34; DEDUCED, log 35) -/
def regAccepts (s : State) (n : Nat) (v : Word) : Bool :=
  let k := s.myCore
  let x := v.toNat
  match n with
  | 0x010 => decide (bitsOf x 2 0 ≤ 4)
  | 0x022 => bitsOf x 3 0 != 0
  | 0x033 => decide (x % 2 ^ 32 ≤ 0x7F800000)
  | 0x060 => decide (1 ≤ bitsOf x 5 0) && decide (bitsOf x 5 0 ≤ 32)
  | 0x061 => k.ring.isEmpty && bitsOf x 16 0 % 32 == 0 && ringFits k (bitsOf x 16 0) k.ovfSize
  | 0x062 => k.ring.isEmpty && ringFits k k.ovfBase (bitsOf x 15 0)
  | 0x068 => decide (1 ≤ bitsOf x 6 0) && decide (bitsOf x 6 0 ≤ 64)
  | 0x069 => bitsOf x 2 0 == 0
  | 0x080 => decide (bitsOf x 3 0 ≤ 8) && !k.busy
  | 0x090 => natMem s.linked (bitsOf x 5 0)
  | 0x091 => bitsOf x 63 32 == 0
  | 0x092 => decide (1 ≤ bitsOf x 7 0) && decide (bitsOf x 7 0 ≤ 64)
  | 0x104 => x % 2 == 0
  | 0x105 => x % 64 == 0
  | _ => if 0x0C1 ≤ n && n ≤ 0x0CF then windowOk x else true

/-- A change of split (R113): the lines of the L1 portion that goes are written back, and the bytes that move read 0.
(DEDUCED, log 34) -/
def setSplit (s : State) (c l : Nat) : State :=
  let old := splitBytes (s.core c).lsplit
  let new := splitBytes l
  let lo := scratchKey c (min old new)
  let hi := scratchKey c (max old new)
  let s := fitL1 s c l
  let s := { s with mem := memClear s.mem lo hi
                    poison := s.poison.filter fun g => !(decide (lo ≤ 64 * g) && decide (64 * g < hi)) }
  s.modCore c fun k => { k with lsplit := l }

/-- A journal entry is freed if it is refused (R118). (DESIGN CHOICE, log 71) -/
def releaseEntry (s : State) (c i : Nat) : State :=
  s.modCore c fun k =>
    if (k.journal.getD i {}).used && (k.journal.getD i {}).refused then { k with journal := padSet {} k.journal i {} } else k

/-- `JRNL.SEL` takes an entry number, and a release (R117, R118). -/
def selectEntry (s : State) (v : Word) : State :=
  let i := bitsOf v.toNat 5 0
  let s := s.modMyCore fun k => { k with journalSel := i }
  if bitsOf v.toNat 8 8 = 1 then releaseEntry s s.cur.1 i else s

/-- Writes a register whose value has passed the checks. (DEDUCED, log 35) -/
def regWrite (s : State) (n : Nat) (v : Word) : State :=
  let x := v.toNat
  let slot := fun f : Slot → Slot => s.modSlot f
  let core := fun f : Core → Core => s.modMyCore f
  match n with
  | 0x010 => slot fun sl => { sl with fpCtrl := word (bitsOf x 7 0) }
  | 0x011 => slot fun sl => { sl with fpStat := word (bitsOf x 15 8 * 2 ^ 8 + bitsOf x 4 0) }
  | 0x012 => slot fun sl => { sl with fmtMode := word (bitsOf x 0 0) }
  | 0x013 => slot fun sl => { sl with gbeta := word (bitsOf x 31 0) }
  | 0x021 => slot fun sl => { sl with vstride := v }
  | 0x022 => core fun k => { k with vshare := bitsOf x 3 0 }
  | 0x033 => core fun k => { k with cvgThresh := word (bitsOf x 31 0) }
  | 0x034 => core fun k => { k with cvgWindow := word (bitsOf x 31 0) }
  | 0x060 => refillQueue (core fun k => { k with arrLimit := bitsOf x 5 0 }) s.cur.1
  | 0x061 => core fun k => { k with ovfBase := bitsOf x 16 0 }
  | 0x062 => core fun k => { k with ovfSize := bitsOf x 15 0 }
  | 0x068 => core fun k => { k with spawnLimit := bitsOf x 6 0 }
  | 0x069 => slot fun sl => { sl with spillCount := bitsOf x 39 32, spillBase := bitsOf x 16 0 }
  | 0x080 => setSplit s s.cur.1 (bitsOf x 3 0)
  | 0x0B0 => s.modHearth s.myHearth fun h => { h with held := { h.held with gate := bitsOf x 31 0 } }
  | 0x100 => slot fun sl => { sl with bank1 := { sl.bank1 with cause := word (bitsOf x 11 0) } }
  | 0x101 => slot fun sl => { sl with bank1 := { sl.bank1 with epc := v } }
  | 0x102 => slot fun sl => { sl with bank1 := { sl.bank1 with addr := v } }
  | 0x103 => slot fun sl => { sl with bank1 := { sl.bank1 with info := v } }
  | 0x104 => slot fun sl => { sl with trapVec := v }
  | 0x105 => slot fun sl => { sl with trapStack := v }
  | 0x108 => slot fun sl => { sl with bank2 := { sl.bank2 with cause := word (bitsOf x 11 0) } }
  | 0x109 => slot fun sl => { sl with bank2 := { sl.bank2 with epc := v } }
  | 0x10A => slot fun sl => { sl with bank2 := { sl.bank2 with addr := v } }
  | 0x10B => slot fun sl => { sl with bank2 := { sl.bank2 with info := v } }
  | 0x111 => selectEntry s v
  | 0x121 => slot fun sl => { sl with asid := bitsOf x 13 0 }
  | _ => if 0x0C1 ≤ n && n ≤ 0x0CF then core fun k => { k with fmtWin := padSet 0 k.fmtWin (n - 0xC1) v } else s

/-! ### `sysr` and `sysw` (R380) -/

/-- The trap of an unlisted number (R301, check 2): such a word decodes to no instruction. -/
def unlistedTrap (i : Instr) : Trap := .illegal (word (2 ^ 35 + 2 * 2 ^ 32 + joinParcels (encode i)))

/-- A kernel read of `TRAP.CAUSE` marks the handler as having read its cause (R212). -/
def markCauseRead (s : State) (c t : Nat) : State :=
  s.modSlotAt c t fun sl => { sl with shadow := sl.shadow.map fun h => { h with causeRead := true } }

/-- `sysr` (R380). -/
def sysrEffect (s : State) (d : Dst) (n : Nat) (i : Instr) : Effect :=
  match regAccess n with
  | none => .trap (unlistedTrap i)
  | some a =>
    if !a.reads s.slot.priv then .trap (privTrap n)
    else ops0 s d fun s =>
      if isLinkReg n then askLinks s (.read n d)
      else if n = 0x011 && !(s.myCore.laneOps s.cur.2).isEmpty then .hold
      else
        let v := regValue s n
        let s := if n = 0x100 then markCauseRead s s.cur.1 s.cur.2 else s
        .done (pushTo s d v)

/-- `sysw` (R380). -/
def syswEffect (s : State) (n : Nat) (a : Src) (i : Instr) : Effect :=
  match regAccess n with
  | none => .trap (unlistedTrap i)
  | some x =>
    if (s.slot.read a).1 == .unbound then .trap (.illegal (word (srcCode a)))
    else if !x.writer.allows s.slot.priv then .trap (privTrap n)
    else ops1 s .z (blk a) fun v s =>
      if !regAccepts s n v then .trap (.illegal (word n))
      else if isLinkReg n then askLinks s (.write n v)
      else .done (regWrite s n v)

/-- SYSR (R380). -/
def execSysr (d : Dst) (reg : BitVec 12) (s : State) : Host.Outcome State Fault Refusal :=
  finish s 4 (sysrEffect s d reg.toNat (.sysr d reg))

/-- SYSW (R380). -/
def execSysw (reg : BitVec 12) (a : Src) (s : State) : Host.Outcome State Fault Refusal :=
  finish s 4 (syswEffect s reg.toNat a (.sysw reg a))

/-! ### `tlbi` (R382, R125) -/

/-- The task issues nothing further until the invalidation completes. (DEDUCED, log 36) -/
def startTlbi (s : State) (op : TlbiOp) : Effect :=
  let sl := s.slot
  .stay ((s.modSlot fun x => { x with stall := .tlbi op (sl.pc + 4) }).poke
    ⟨.tlbiComplete, { core := s.cur.1, slot := s.cur.2 }⟩)

/-- `tlbi` is kernel-only. (DEDUCED, log 36) -/
def kernelOnly (s : State) (e : Effect) : Effect := if s.slot.priv == .user then .trap { cause := .priv } else e

/-- The ASID operand: 14 bits, or ILLEGAL with the value. (DEDUCED, log 36) -/
def asidOperand (v : Word) (k : Nat → Effect) : Effect := if 2 ^ 14 ≤ v.toNat then .trap (.illegal v) else k v.toNat

/-- TLBI_PAGE (R382). -/
def execTlbiPage (a b : SrcM) (s : State) : Host.Outcome State Fault Refusal :=
  finish s 4 (kernelOnly s <| ops2 s .z a b fun va v s => asidOperand v fun asid => startTlbi s (.page va asid))

/-- TLBI_ASID (R382). -/
def execTlbiAsid (b : SrcM) (s : State) : Host.Outcome State Fault Refusal :=
  finish s 4 (kernelOnly s <| ops1 s .z b fun v s => asidOperand v fun asid => startTlbi s (.asid asid))

/-- TLBI_ALL (R382). -/
def execTlbiAll (s : State) : Host.Outcome State Fault Refusal := finish s 4 (kernelOnly s (startTlbi s .all))

/-- What an invalidation takes from a TLB (R382). -/
def TlbiOp.keeps (op : TlbiOp) (e : TlbEntry) : Bool :=
  match op with
  | .page va a => !(decide (va.toNat / 2 ^ 56 < 0xFE) && e.covers a va.toNat)
  | .asid a => e.asid != a || bitsOf e.pte.toNat 6 6 == 1
  | .all => false

/-- What an invalidation takes from a walk cache (R124, R382): entries of the walk of the page, of the ASID, or all. -/
def TlbiOp.keepsWalk (op : TlbiOp) (e : WalkEntry) : Bool :=
  match op with
  | .page va a => !(decide (va.toNat / 2 ^ 56 < 0xFE) && e.asid == a && e.path == walkPrefix va.toNat e.level)
  | .asid a => e.asid != a
  | .all => false

/-- Every core and hearth TLB and every walk cache drops the entries (R125, R382). -/
def invalidate (s : State) (op : TlbiOp) : State :=
  { s with cores := tmap (fun _ k => { k with tlb := k.tlb.filter op.keeps }) s.cores
           hearths := tmap (fun _ h => { h with tlb := h.tlb.filter op.keeps }) s.hearths
           walkCache := s.walkCache.filter op.keepsWalk }

/-- An address that is translated. -/
def translated (va : Word) : Bool := decide (va.toNat / 2 ^ 56 < 0xFE)

/-- Accesses under way that used a translation (R125): remote ones, sc atomics that are not delivered, and loads behind a
journal entry. -/
def State.translating (s : State) : Bool :=
  (s.remotes.any fun p => translated p.2.addr) ||
    (s.beats.any fun a => match a.kind with
      | .atomic _ va _ _ _ _ _ _ => translated va
      | _ => false) ||
    (s.cores.any fun k => k.2.slots.any fun q => match q.2.stall with
      | .overlap _ _ va _ _ => translated va
      | _ => false)

/-! ### Events of this family -/

/-- TLBI_COMPLETE (R125): once no access that used an old translation is under way. -/
def execTlbiComplete (s : State) : Host.Outcome State Fault Refusal :=
  let c := s.ev.core
  let t := s.ev.slot
  match (s.slotAt c t).stall with
  | .tlbi op next => .next (if s.translating then s else resume (invalidate s op) c t next)
  | _ => .next s

/-- TRAP_CAUSE_READ (R212): the part of a kernel `sysr TRAP.CAUSE` that marks the handler. -/
def execTrapCauseRead (s : State) : Host.Outcome State Fault Refusal :=
  let sl := s.slotAt s.ev.core s.ev.slot
  .next (if sl.held && sl.priv != .user then markCauseRead s s.ev.core s.ev.slot else s)

/-- JRNL_RELEASE (R118): the part of a write of `JRNL.SEL` with release = 1 that frees the selected entry. -/
def execJrnlRelease (s : State) : Host.Outcome State Fault Refusal :=
  .next (releaseEntry s s.ev.core (s.core s.ev.core).journalSel)

/-- LSPLIT_WRITE (R113): a write between tasks; the same write with a task in a slot, or above 8, changes nothing.
(DEDUCED, log 34) -/
def execLsplitWrite (s : State) : Host.Outcome State Fault Refusal :=
  let c := s.ev.core
  .next (if 8 < s.ev.n || (s.core c).busy then s else setSplit s c s.ev.n)

/-- What a slot is about to do, when that is an instruction. -/
def nextInstr (s : State) : Option Instr :=
  match fetchIssue s with
  | .run i _ => some i
  | _ => none

/-- Goes on from a next state; a stop stays as it is. -/
def mapNext (f : State → State) : Host.Outcome State Fault Refusal → Host.Outcome State Fault Refusal
  | .next s => .next (f s)
  | .fault e => .fault e
  | .refused r => .refused r

/-- Does something in the place of a slot, and gives the turn back. -/
def inSlot (s : State) (c t : Nat) (f : State → Host.Outcome State Fault Refusal) : Host.Outcome State Fault Refusal :=
  mapNext (fun s' => { s' with cur := s.cur }) (f { s with cur := (c, t) })

/-- FP_STAT_READ (R94): the held read of `FP.STAT` is performed once the task's vector instructions have completed. -/
def execFpStatRead (s : State) : Host.Outcome State Fault Refusal :=
  inSlot s s.ev.core s.ev.slot fun s =>
    match s.slot.held && s.slot.stall == .held, nextInstr s with
    | true, some (.sysr d reg) => if reg = 0x011 then finish s 4 (sysrEffect s d 0x011 (.sysr d reg)) else .next s
    | _, _ => .next s

end Sys2Proof.Machine
end

