-- ==== Sys2Proof/Machine/VecMem.lean ====
section
/-! DEFINITION. Vector memory: `vld`, `vst`, `vgather`, `vscatter` and `vatom` (R386, R389, R396, R397). Elements are
checked and performed in ascending index; a trap discards what the elements before it did. -/

namespace Sys2Proof.Machine

/-- What the elements have done so far: the state, the values loaded, the first fault met away from the core, what makes the
instruction wait or try again, the elements done, the bytes written here, and whether this is the pass that only checks. -/
structure VAcc where
  s : State
  vals : Table Nat := []
  fault : Option VFault := none
  blocked : Option Effect := none
  done : Nat := 0
  wrote : List (Nat × Nat) := []
  dry : Bool := false

/-- Performs elements in order, up to the first that traps or must wait. -/
def foldElems (f : VAcc → Nat → Word → Except Trap VAcc) : List (Nat × Word) → VAcc → Except Trap VAcc
  | [], a => .ok a
  | (i, va) :: r, a =>
    if a.blocked.isSome then .ok a
    else match f a i va with
      | .error t => .error t
      | .ok b => foldElems f r (if b.blocked.isSome then b else { b with done := b.done + 1 })

/-- The layout of R386 for a trap of an element; XLATE keeps its level (R209). (DEDUCED, log 38) -/
def elemInfo (t : Trap) (k : AccKind) (i hyp : Nat) : Trap :=
  match t.cause with
  | .format => { t with info := kindInfo k i }
  | .hypUse => { t with info := word (hyp * 2 ^ 16 + k.code * 2 ^ 8 + i) }
  | _ => t

/-- An address in a decoding window (R101). -/
def inWindow (va : Word) : Bool := bitsOf va.toNat 63 56 == 0xFE && bitsOf va.toNat 35 32 != 0

/-- An element is naturally aligned, and one of a window a multiple of 4 (R386, R102). -/
def elemAligned (n : Nat) (va : Word) : Bool := va.toNat % n == 0 && (!inWindow va || va.toNat % 4 == 0)

/-- The checks of a load element (R386): alignment, location, and what a window asks. -/
def loadElemPlace (s : State) (n i : Nat) (va : Word) : Except Trap Place :=
  if !elemAligned n va then
    .error { cause := .misalign, addr := va, info := kindInfo .load i }
  else match locate s .load n va i with
    | .error t => .error t
    | .ok (.window q h u w o) =>
      match windowFault s s.cur.1 q h u w o n va i with
      | some t => .error (elemInfo t .load i 0)
      | none => .ok (.window q h u w o)
    | .ok p => .ok p

/-- The form of an element of `n` bytes as `loadNow` reads it: zero-extended. -/
def elemKind (n : Nat) : LoadKind :=
  match n with
  | 1 => .ub
  | 2 => .uh
  | 4 => .uw
  | _ => .d

/-- One element of a load (R386, R396). -/
def loadElem (n : Nat) (vd : Fin 16) (a : VAcc) (i : Nat) (va : Word) : Except Trap VAcc :=
  let s := a.s
  match loadElemPlace s n i va with
  | .error t => .error t
  | .ok p =>
    let r := loadRange s n va p
    if journalOverlap s.myCore r.1 r.2 then .ok { a with blocked := some .hold }
    else match loadNow (s.tlbFor va) (elemKind n) va p with
      | .value s v => .ok { a with s := s, vals := tset a.vals i (v % 2 ^ (8 * n)) }
      | .faulted s => .ok { a with s := s, fault := some (a.fault.getD { poison := true, addr := va, pc := s.slot.pc }) }
      | .poison => .error { cause := .poison, addr := va, info := kindInfo .load i }
      | .remote s x => .ok { a with s := sendRemote s { x with kind := .vload vd.val i } }

/-- Free values for the elements of a register whose load met a fault (R386). (DESIGN CHOICE, log 40) -/
def freeElems (ctr n : Nat) (pair : Bool) (old : List (BitVec 32)) : List (BitVec 32) :=
  (List.range 64).map fun j =>
    if (if pair then j / 2 else j) < n then BitVec.setWidth 32 (Config.freeWord (ctr + j)) else old.getD j 0

/-- A load into a register becomes full-faulted (R386). (DESIGN CHOICE, log 40) -/
def faultVreg (s : State) (c t : Nat) (vd n : Nat) (pair : Bool) (f : VFault) : State :=
  let s' := s.modSlotAt c t fun sl => { sl with
    vregs := padSet [] sl.vregs vd (freeElems s.freeCtr n pair (sl.vregs.getD vd []))
    vfaults := padSet none sl.vfaults vd (some f) }
  { s' with freeCtr := s'.freeCtr + 64 }

/-- The active elements of a vector access with their addresses. -/
def vecAddrs (sl : Slot) (cnt : Nat) (m : VMask) (addr : Nat → Word) : List (Nat × Word) :=
  ((List.range cnt).filter (sl.vactive m)).map fun i => (i, addr i)

/-- A load or gather (R396, R397). -/
def vecLoad (s : State) (sz : Size) (reads : List (Fin 16)) (vd : Fin 16) (m : VMask) (addr : Nat → Word) : Effect :=
  let sl := s.slot
  let n := 2 ^ sizeCode sz
  let pair := n == 8
  let cnt := sl.vcount pair
  let reads := reads ++ maskReads m (some vd)
  vecStart s reads <|
    match foldElems (loadElem n vd) (vecAddrs sl cnt m addr) { s := s } with
    | .error t => .trap t
    | .ok a =>
      match a.blocked with
      | some e => e
      | none =>
        let s' := (overtake a.s s.nextId vd.val (if pair then 2 * cnt else cnt) (!m.me)).modSlot fun sl =>
          sl.vwrite vd cnt pair m ((List.range cnt).map fun i => (tget a.vals i).getD 0)
        let s' := enterLanes s' (laneOp s 1 0 reads (some vd) (some (vd.val, false)))
        match a.fault with
        | none => .done s'
        | some f => .done (faultVreg s' s.cur.1 s.cur.2 vd.val cnt pair f)

/-- The checks of a store element (R386): HYP_USE, alignment, location, and that no window is stored through: ACCESS for an
element the window does not have, POISON of a `vatom` in the core's own units, else FORMAT (R102). -/
def storeElemPlace (s : State) (k : AccKind) (n i : Nat) (va : Word) : Except Trap Place :=
  let h := s.slot.hypCur
  let use : Trap := elemInfo { cause := .hypUse, addr := va } k i h
  if h ≠ 0 && (bitsOf va.toNat 63 56 == 0xFE || k == .atomic) then .error use
  else if !elemAligned n va then .error { cause := .misalign, addr := va, info := kindInfo k i }
  else match locate s k n va i with
    | .error t => .error t
    | .ok (.window q hh u w o) =>
      let c := s.cur.1
      .error { cause := if !windowHolds s c q hh u w o then .access
                        else if k == .atomic && windowPoison s c q hh u w o then .poison
                        else .format
               addr := va, info := kindInfo k i }
    | .ok (.mem (.peer q pa) b) => if h ≠ 0 then .error use else .ok (.mem (.peer q pa) b)
    | .ok (.mem t b) => if h ≠ 0 && !b then .error use else .ok (.mem t b)
    | .ok p => .ok p

/-- A posted element: its journal entry, or a wait for one (R116, R386). (DEDUCED, log 39) -/
def postElem (a : VAcc) (s : State) (va : Word) (key : Nat) (peer : Option Nat) (addr : Word) (sz : Nat) (v : Nat)
    (op : Option Nat) : VAcc :=
  if a.dry then { a with s := s }
  else match takeEntry s va key peer addr sz (word v) op with
    | some s => { a with s := s }
    | none => { a with blocked := some .wait }

/-- An element's bytes are written here, or once its line is at hand (R250). -/
def VAcc.write (a : VAcc) (s : State) (key n v : Nat) : VAcc :=
  { a with s := writeMem s key n v, wrote := (key, n) :: a.wrote }

def VAcc.pend (a : VAcc) (s : State) (key n v : Nat) (op : Option Nat) : VAcc :=
  { a with s := pendStore s key n v op, wrote := (key, n) :: a.wrote }

/-- One element of a store or scatter (R386, R396). -/
def storeElem (sz : Nat) (data : Nat → Nat) (a : VAcc) (i : Nat) (va : Word) : Except Trap VAcc :=
  let s := a.s
  let sl := s.slot
  let c := s.cur.1
  let n := 2 ^ sz
  let v := data i
  match storeElemPlace s .store n i va with
  | .error t => .error t
  | .ok p =>
    match p with
    | .sram h u off =>
      if isLocalUnit c h u then .ok (a.write s (sramKey h u off) n v)
      else .ok (postElem a s va (sramKey h u off) none va sz v none)
    | .window _ _ _ _ _ => .ok a
    | .peerSram peer => .ok (postElem a s va (peerKey va) (some peer) va sz v none)
    | .mem (.peer q pa) _ => .ok (postElem a s va (Target.peer q pa).key (some q) (word (q * 2 ^ 46 + pa)) sz v none)
    | .mem t cacheable =>
      let s := s.tlbFor va
      if !cacheable then .ok (postElem a s va t.key none va sz v none)
      else if sl.hypCur ≠ 0 && s.hypFull sl.launch sl.hypCur (t.key / 128) then
        .error { cause := .hypFull, addr := va, info := word sl.hypCur }
      else
        let s' := touchMem s c t cacheable true
        if !cacheReady s t n true then .ok (a.pend s' t.key n v none)
        else if sl.hypCur ≠ 0 then .ok { a with s := storeUnder s' sl.launch sl.hypCur t.key n v }
        else .ok (a.write s' t.key n v)

/-- One element of `vatom` (R389): performed where a relaxed `atom` is, and posted where that is distant.
(DEDUCED, log 39) -/
def atomElem (op : Nat) (data : Nat → Nat) (a : VAcc) (i : Nat) (va : Word) : Except Trap VAcc :=
  let s := a.s
  let c := s.cur.1
  let v := data i
  let poison : Trap := { cause := .poison, addr := va, info := kindInfo .atomic i }
  match storeElemPlace s .atomic 4 i va with
  | .error t => .error t
  | .ok p =>
    match p with
    | .sram h u off =>
      let key := sramKey h u off
      if isLocalUnit c h u then
        if poisoned s.poison key 4 then .error poison else .ok { a with s := (performAtomic s op false key 4 v 0).2 }
      else .ok (postElem a s va key none va 2 v (some op))
    | .window _ _ _ _ _ => .ok a
    | .peerSram peer => .ok (postElem a s va (peerKey va) (some peer) va 2 v (some op))
    | .mem (.peer q pa) _ => .ok (postElem a s va (Target.peer q pa).key (some q) (word (q * 2 ^ 46 + pa)) 2 v (some op))
    | .mem t cacheable =>
      let s := s.tlbFor va
      if !cacheable then .ok (postElem a s va t.key none va 2 v (some op)) else
      let s' := touchMem s c t cacheable true
      if poisoned s.poison t.key 4 then .error poison
      else if !a.dry && journalOverlap s.myCore t.key 4 then .ok { a with blocked := some .hold }
      else if !cacheReady s t 4 true then .ok { a with s := pendStore s' t.key 4 v (some op) }
      else .ok { a with s := (performAtomic s' op false t.key 4 v 0).2 }

/-- A store instruction has written all 64 bytes of a granule. -/
def writesWhole (wrote : List (Nat × Nat)) (g : Nat) : Bool :=
  (List.range 64).all fun i => wrote.any fun w => decide (w.1 ≤ 64 * g + i) && decide (64 * g + i < w.1 + w.2)

/-- Poison clears from the granules whose 64 bytes a store instruction has all written (R129, R258): at once, or as the
elements that wait for their line are performed. -/
def clearWritten (s : State) (wrote : List (Nat × Nat)) : State :=
  let mine := fun r : Remote => r.core == s.cur.1 && r.slot == s.cur.2 && r.kind == .line none && writesWhole wrote (r.key / 64)
  { s with
    poison := s.poison.filter fun g => !writesWhole wrote g || s.remotes.any fun p => mine p.2 && p.2.key / 64 == g
    remotes := if wrote.isEmpty then s.remotes else tmap (fun _ r => if mine r then { r with whole := true } else r) s.remotes }

/-- The accesses a vector store has made from number `lo` on are its elements (R319). -/
def markVector (s : State) (lo : Nat) : State :=
  { s with remotes := tmap (fun id r =>
      if decide (lo ≤ id) && r.core == s.cur.1 && r.slot == s.cur.2 then { r with vector := true } else r) s.remotes }

/-- A store, scatter or `vatom` (R386): every element is checked, then they are performed in order. One that finds no free
journal entry waits, and goes on from there: its operand `b` is consumed once all are. (DEDUCED, log 39) -/
def vecStore (s : State) (b : SrcM) (pair : Bool) (reads : List (Fin 16)) (vd : Fin 16) (m : VMask) (addr : Nat → Word)
    (f : VAcc → Nat → Word → Except Trap VAcc) : Effect :=
  let sl := s.slot
  let reads := vd :: reads ++ maskReads m none
  let elems := vecAddrs sl (sl.vcount pair) m addr
  vecStart s reads <|
    match (if sl.vdone = 0 then foldElems f elems { s := s, dry := true } else .ok { s := s }) with
    | .error t => .trap t
    | .ok _ =>
      match foldElems f (elems.drop sl.vdone) { s := s } with
      | .error t => .trap t
      | .ok a =>
        let s' := markVector (clearWritten a.s a.wrote) s.nextId
        match a.blocked with
        | some .wait => .stay (s'.modSlot fun x => { x with vdone := sl.vdone + a.done, stall := .none, waiting := true })
        | some _ => .stay (s'.modSlot fun x => { x with vdone := sl.vdone + a.done, stall := .held })
        | none =>
          let op := { laneOp s 1 0 reads none (some (vd.val, true)) with upto := s'.nextId }
          ops1 (enterLanes (s'.modSlot fun x => { x with vdone := 0 }) op) .z b
            fun _ s => .done s

/-- The addresses of `vld` and `vst` (R397). -/
def strideAddr (s : State) (b : Word) (n : Nat) (strided : Bool) (i : Nat) : Word :=
  if strided then b + word i * s.slot.vstride else b + word (i * n)

/-- The addresses of `vgather`, `vscatter` and `vatom` (R396, R389). -/
def indexAddr (s : State) (b : Word) (va : Fin 16) (i : Nat) : Word := b + word (s.slot.velem va i)

/-- VLD (R397). -/
def execVld (sz : Size) (strided : Bool) (vd : Fin 16) (m : VMask) (a : SrcM) (s : State) :
    Host.Outcome State Fault Refusal :=
  finish s 4 (memGate s <| orphanGate s <| ops1 s .z a fun b s =>
    vecLoad s sz [] vd m (strideAddr s b (2 ^ sizeCode sz) strided))

/-- VST (R397). -/
def execVst (sz : Size) (strided : Bool) (vd : Fin 16) (m : VMask) (a : SrcM) (s : State) :
    Host.Outcome State Fault Refusal :=
  let pair := sz == .d
  finish s 4 (memGate s <| orphanGate s <| ops1 s .z a fun b _ =>
    vecStore s a pair [] vd m (strideAddr s b (2 ^ sizeCode sz) strided) (storeElem (sizeCode sz) (s.slot.vget pair vd)))

/-- VGATHER (R396). -/
def execVgather (sz : Size) (vd va : Fin 16) (m : VMask) (a : SrcM) (s : State) : Host.Outcome State Fault Refusal :=
  finish s 4 (memGate s <| ops1 s .z a fun b s => vecLoad s sz [va] vd m (indexAddr s b va))

/-- VSCATTER (R396). -/
def execVscatter (sz : Size) (vd va : Fin 16) (m : VMask) (a : SrcM) (s : State) : Host.Outcome State Fault Refusal :=
  let pair := sz == .d
  finish s 4 (memGate s <| ops1 s .z a fun b _ =>
    vecStore s a pair [va] vd m (indexAddr s b va) (storeElem (sizeCode sz) (s.slot.vget pair vd)))

/-- VATOM (R389). -/
def execVatom (op : AtomOp) (vd va : Fin 16) (m : VMask) (a : SrcM) (s : State) : Host.Outcome State Fault Refusal :=
  finish s 4 (memGate s <| ops1 s .z a fun b _ =>
    vecStore s a false [va] vd m (indexAddr s b va) (atomElem (atomOpCode op) (s.slot.velem vd)))

end Sys2Proof.Machine
end

