-- ==== Sys2Proof/Machine/Remote.lean ====
section
/-! DEFINITION. Accesses away from the core that made them: the distant unit's checks and answers (R115), values that land
(R62), posted stores acknowledged or refused (R116, R118), and the asynchronous causes (R211). -/

namespace Sys2Proof.Machine

/-! ### The distant unit (R115) -/

/-- The reason the holder of a remote access refuses it. (DEDUCED, log 39) -/
def remoteRefusal (s : State) (r : Remote) : Option Nat :=
  let p := fun l => s.asidOf l == r.asid
  let reads := match r.kind with
    | .store _ => false
    | .vatom _ _ => false
    | .line _ => false
    | _ => true
  match keyUnit r.key with
  | none =>
    let bad := match r.tag with
      | some h => poisonedUnder s h r.key r.size
      | none => poisoned s.poison r.key r.size
    if reads && bad then some 3 else none
  | some (h, u, off) =>
    match r.window with
    | none =>
      match unitRefusal s h u off r.size p with
      | some x => some x
      | none => if reads && poisoned s.poison r.key r.size then some 3 else none
    | some (w, _) =>
      let rec_ := elemRecord w.toNat (off / 4)
      let n := recordBytes (winFormat w.toNat) (winGroup w.toNat) (winBx w.toNat)
      match unitRefusal s h u rec_ n p with
      | some x => some x
      | none => if poisoned s.poison (sramKey h u rec_) n then some 3 else none

/-- The bytes a load gives at its holder, through its window if it has one, or as its tag sees them (R167). -/
def remoteValue (s : State) (r : Remote) : Nat :=
  match r.window, keyUnit r.key with
  | some (w, ext), some (h, u, off) => windowElem s.mem (sramKey h u 0) w.toNat (off / 4) ext
  | _, _ => match r.tag with
    | some h => natUnder s h r.key r.size
    | none => memNat s.mem r.key r.size

def State.setRemote (s : State) (id : Nat) (r : Remote) : State := { s with remotes := tset s.remotes id r }

def State.dropRemote (s : State) (id : Nat) : State := { s with remotes := tdel s.remotes id }

/-- The event that takes an answer back to the core. -/
def answerEvent (id : Nat) (r : Remote) : Event :=
  match r.kind with
  | .load => ⟨.valueLands, { core := r.core, slot := r.slot, id := r.producer }⟩
  | .vload _ _ => ⟨.vectorTransferComplete, { core := r.core, slot := r.slot }⟩
  | .store e => ⟨match r.stage with
      | .refused _ => .postedStoreRefused
      | _ => .postedStoreAck, { core := r.core, id := e }⟩
  | .vatom e _ => ⟨match r.stage with
      | .refused _ => .postedStoreRefused
      | _ => .postedStoreAck, { core := r.core, id := e }⟩
  | .tongs cmd _ => ⟨.tongsElementReply, { core := r.core, id := cmd }⟩
  | .line _ => ⟨.messageDispatch, { core := r.core }⟩
  | .atomic _ _ _ _ _ => ⟨.atomicOldValueReturn, { core := r.core, slot := r.slot, id := id }⟩

/-- The element of a vector load arrives, or its refusal (R386). -/
def landElem (s : State) (r : Remote) (reg elem : Nat) (answer : Option Nat) (reason : Nat) : State :=
  match answer with
  | some v =>
    s.modSlotAt r.core r.slot fun sl =>
      let old := sl.vregs.getD reg []
      let new := if r.size = 8 then (old.set (2 * elem) (BitVec.ofNat 32 v)).set (2 * elem + 1) (BitVec.ofNat 32 (v / 2 ^ 32))
        else old.set elem (BitVec.ofNat 32 v)
      if r.ended || (sl.vfaults.getD reg none).isSome then sl else { sl with vregs := padSet [] sl.vregs reg new }
  | none =>
    let n := match ((s.core r.core).laneOps r.slot).find? fun o => o.transfer == some (reg, false) with
      | some o => 8 * o.groups
      | none => 0
    if ((s.slotAt r.core r.slot).vfaults.getD reg none).isSome then s
    else faultVreg s r.core r.slot reg n false { poison := reason == 3, addr := r.addr, pc := r.pc }

/-- Accesses toward peers that waited for the answer to an earlier one leave (R131). -/
def releaseBehind (s : State) : State :=
  s.remotes.foldl (fun s p =>
    match p.2.peer with
    | some q =>
      if p.2.stage == .behind && !accessBefore s p.1 p.2 then
        sendRequest { s with remotes := tset s.remotes p.1 { p.2 with stage := .sent } } p.2.launch q false p.1 (remotePacket p.2)
      else s
    | none => s) s

/-- The answer to a remote access reaches the core: `old` is the value read. -/
def answeredWith (s : State) (id : Nat) (r : Remote) (old : Nat) : State :=
  match r.kind with
  | .vload reg elem => ((landElem s r reg elem (some old) 0).dropRemote id).poke (answerEvent id r)
  | .tongs cmd part =>
    ((s.dropRemote id).modCore r.core fun k => { k with
      commands := match tget k.commands cmd with
        | some x => tset k.commands cmd { x with reply := tset x.reply part (leBytes old r.size, 0) }
        | none => k.commands }).poke (answerEvent id r)
  | .line _ => ((s.dropRemote id).poke (answerEvent id r)).pokeLaunch r.launch
  | _ =>
    let r := { r with stage := .answered (word old) }
    (s.setRemote id r).poke (answerEvent id r)

/-- An answer comes: of a record at a peer, one part, upon which the next is asked for, or the element is decoded by the
issuing core's window word (R102). -/
def answered (s : State) (id : Nat) (r : Remote) (old : Nat) : State :=
  let got := r.got ++ [old]
  match r.parts, r.window, r.peer with
  | [_], some (w, ext), _ =>
    answeredWith s id { r with parts := [] } (windowValue w.toNat (bitsOf r.addr.toNat 31 0 / 4) ext got)
  | _ :: rest, _, some p =>
    let r := { r with parts := rest, got := got }
    sendRequest (s.setRemote id r) r.launch p false id (remotePacket r)
  | _, _, _ => answeredWith s id r old

/-- The refusal of a remote access reaches the core. -/
def refused (s : State) (id : Nat) (r : Remote) (reason : Nat) : State :=
  match r.kind with
  | .vload reg elem => ((landElem s r reg elem none reason).dropRemote id).poke (answerEvent id r)
  | .tongs cmd part =>
    ((s.dropRemote id).modCore r.core fun k => { k with
      commands := match tget k.commands cmd with
        | some x => tset k.commands cmd { x with reply := tset x.reply part ([], reason) }
        | none => k.commands }).poke (answerEvent id r)
  | _ =>
    let r := { r with stage := .refused reason }
    (s.setRemote id r).poke (answerEvent id r)

/-- Poison clears where the instruction of a store writes the whole granule (R129). -/
def clearWhole (s : State) (r : Remote) : State :=
  if r.whole && s.follow (r.tag.getD 0) == 0 then { s with poison := natDel s.poison (r.key / 64) } else s

/-- A store that waited for its line is performed (R250, R167), under its tag. -/
def performLineStore (s : State) (r : Remote) : State :=
  clearWhole (storeUnder s r.launch (r.tag.getD 0) r.key r.size r.data.toNat) r

/-- The holder performs an access: the value read, and the state after it. (DESIGN CHOICE, log 9) -/
def performRemote (s : State) (r : Remote) : Nat × State :=
  match r.kind with
  | .store _ => (0, clearWhole (writeMem s r.key r.size r.data.toNat) r)
  | .line none => (0, performLineStore s r)
  | .line (some op) =>
    (0, if poisoned s.poison r.key r.size then s else (performAtomic s op false r.key r.size r.data.toNat 0).2)
  | .vatom _ op => (0, (performAtomic s op false r.key r.size r.data.toNat 0).2)
  | .atomic op cas _ x y => performAtomic s op cas r.key r.size x.toNat y.toNat
  | _ => (remoteValue s r, s)

/-- Where a key of translated memory lies: this part's HBM or host memory. -/
def keyTarget (key : Nat) : Target := if key < hostKey 0 then .hbm key else .host (key - hostKey 0)

/-- An access needs the right to write its line. -/
def RemoteKind.writes (k : RemoteKind) : Bool := !k.isLoad

/-- A half of host memory that a write which is not cached has been given goes back to the host, dirty when it was written, once
no copy of its line stands in the part (R255). (DESIGN CHOICE, log 12) -/
def settleHost (s : State) (key : Nat) (wrote : Bool) : State :=
  match keyUnit key, keyTarget key with
  | none, .host pa =>
    let s := if wrote then { s with bridge := tset s.bridge (pa / 64) .m } else s
    let d := (s.home (key / 128)).dir
    if d.inLlc || !d.unheld then s else returnHalf s (pa / 64)
  | _, _ => s

/-- The holder performs an access, or refuses it, and answers. -/
def performAt (s : State) (id : Nat) (r : Remote) : State :=
  let s := crossDies s (keyDie s r.key) (dieOf r.core) r.key r.size
  let settle := fun (s : State) (wrote : Bool) => if r.tag.isNone && r.kind.writes then settleHost s r.key wrote else s
  match remoteRefusal s r with
  | some why => refused (settle s false) id r why
  | none =>
    let q := performRemote s r
    answered (settle q.2 true) id r q.1

/-- The line of a cached access is at hand (R250). -/
def remoteReady (s : State) (r : Remote) : Bool :=
  match r.tag with
  | some h => lineReady s r.core (s.follow h) (keyTarget r.key) r.kind.writes
  | none => true

/-- What a cached access does to the states of its line. -/
def remoteTouch (s : State) (r : Remote) : State :=
  match r.tag with
  | some h => touchUnder s r.core (s.follow h) (keyTarget r.key) true r.kind.writes
  | none => s

/-- A cached access is performed when its line is at hand, and asks for the line otherwise. -/
def tryCached (s : State) (id : Nat) (r : Remote) : State :=
  if accessBefore s id r then s
  else if remoteReady s r then performAt (remoteTouch s r) id r
  else remoteTouch s r

/-- The accesses of a core to a line are tried, in the order they were issued (R131, R250). -/
def tryLine (s : State) (c line : Nat) : State :=
  s.remotes.foldl (fun s p =>
    if p.2.core == c && p.2.tag.isSome && p.2.stage == .sent && p.2.key / 128 == line then tryCached s p.1 p.2 else s) s

/-- What an access of host memory that is not cached needs of the host first (R255): a load its bytes as they are, and any other
the right to write. -/
def hostNeed (s : State) (r : Remote) : Option CacheReq :=
  if r.tag.isSome || (keyUnit r.key).isSome || hostReady s (keyTarget r.key) r.kind.writes then none
  else some (if r.kind.writes then .rdOwn else .rdCurr)

/-- REMOTE_ACCESS_AT_TARGET (R115, R250): the holder performs the access or refuses it, and answers. A hearth that idles is
woken first, and a stack in self-refresh (R284); a cached access waits for its line, and one of host memory for the host. -/
def execRemoteAccessAtTarget (s : State) : Host.Outcome State Fault Refusal :=
  let id := s.ev.id
  .next (match tget s.remotes id with
    | none => s
    | some r =>
      if r.stage != .sent || r.peer.isSome || accessBefore s id r then s
      else if r.tag.isSome then tryCached s id r
      else match hostNeed s r, keyUnit r.key with
        | some q, _ => askHost s ((r.key - hostKey 0) / 64) q
        | none, none =>
          let s := touchKey s r.key
          if stackReady s r.key then performAt s id r else s
        | none, some (h, _, _) =>
          let s := rouse s h
          if awake s h then performAt s id r else s)

/-! ### Values that land (R62) -/

/-- Transmitters of a lease that send or can send, and those that are parked or warming (R267). -/
def Lease.active (x : Lease) : Nat := (x.txs.filter fun t => t.2.1 == .active).length
def Lease.resting (x : Lease) : Nat := x.txs.length - x.active

/-- Flits of a launch in the base lease's queue. -/
def Stream.baseDepth (x : Stream) (l : Nat) : Nat :=
  (((((tget x.queues 256).getD ([], 0)).1.filter fun p => p.launch == l).map Packet.flits).sum) +
    (x.pending.filter fun p => p.1 == 256 && p.2.1 == l).length

/-- The word of `lstat` (R267). -/
def lstatWord (s : State) (l peer : Nat) : Word :=
  if !natMem s.linked peer then 0
  else match s.lease? l peer with
    | some x =>
      let depth := min (2 ^ 24 - 1) ((s.stream x.die peer).depth l)
      word (x.active * 2 ^ 56 + x.resting * 2 ^ 48 + depth * 2 ^ 24 + min (2 ^ 24 - 1) ((s.ptp - x.created) / 1000))
    | none => word (min (2 ^ 24 - 1) ((s.stream (s.baseDie peer) peer).baseDepth l) * 2 ^ 24)

/-- What a producer gives when its value lands; none while a distant answer is outstanding. -/
def landing (s : State) (c t : Nat) (o : Owed) : Option Reg :=
  let l := (s.slotAt c t).launch
  match o.kind with
  | .value v => some (Reg.of v)
  | .refused p a pc => some ⟨0, .faulted p a pc⟩
  | .time => some (Reg.of (word s.ptp))
  | .lstat peer => some (Reg.of (lstatWord s l peer))
  | .remote =>
    match s.remotes.find? fun p => p.2.core == c && p.2.slot == t && p.2.kind == .load && p.2.producer == o.id with
    | none => none
    | some (_, r) =>
      match r.stage with
      | .behind => none
      | .sent => none
      | .answered v => some (Reg.of (extendLoad r.size r.signed v.toNat))
      | .refused why => some ⟨0, .faulted (why == 3) r.addr r.pc⟩

/-- An earlier reading of the time unit by the task has not landed: readings of one task never decrease (R20, R172). -/
def timeBefore (sl : Slot) (o : Owed) : Bool := o.kind == .time && sl.owed.any fun x => x.kind == .time && decide (x.id < o.id)

/-- VALUE_LANDS (R62, R64): the queue entry and the register that still awaits the producer are filled. -/
def execValueLands (s : State) : Host.Outcome State Fault Refusal :=
  let c := s.ev.core
  let t := s.ev.slot
  let id := s.ev.id
  .next (match (s.slotAt c t).owed.find? (·.id == id) with
    | none => s
    | some o =>
      match if timeBefore (s.slotAt c t) o then none else landing s c t o with
      | none => s
      | some v =>
        { s.modSlotAt c t (·.land id v) with
          remotes := s.remotes.filter fun p =>
            !(p.2.core == c && p.2.slot == t && p.2.kind == .load && p.2.producer == id) })

/-! ### The old value of an atomic (R318) -/

/-- Takes a trap in a slot unless its entry must wait for a spill (R67); then nothing happens yet. (DEDUCED, log 20) -/
def trapWhenRoom (s : State) (c t : Nat) (tr : Trap) (done : State → State) : State :=
  if trapWaits s c t then s else takeTrapAt (done s) c t tr

/-- ATOMIC_OLD_VALUE_RETURN (R318): the stall ends with the old value, or with a precise trap at a refusal (R115).
(DEDUCED, log 10) -/
def execAtomicOldValueReturn (s : State) : Host.Outcome State Fault Refusal :=
  let c := s.ev.core
  let t := s.ev.slot
  .next (match (s.slotAt c t).stall with
    | .atomic id d next =>
      match tget s.remotes id with
      | none => s
      | some r =>
        match r.stage with
        | .behind => s
        | .sent => s
        | .answered old =>
          resume ((s.dropRemote id).modSlotAt c t (·.write d (Reg.of (word (old.toNat % 2 ^ (8 * r.size)))))) c t next
        | .refused why =>
          trapWhenRoom s c t { cause := if why = 3 then .poison else .access, addr := r.addr, info := kindInfo .atomic 0 }
            (·.dropRemote id)
    | _ => s)

/-! ### Posted stores (R116, R118) -/

/-- The remote access of a journal entry. -/
def entryRemote (s : State) (c e : Nat) : Option (Nat × Remote) :=
  s.remotes.find? fun p => p.2.core == c && match p.2.kind with
    | .store i => i == e
    | .vatom i _ => i == e
    | _ => false

/-- The target has acknowledged: the entry frees. (DESIGN CHOICE, log 71) -/
def ackEntry (s : State) (c e : Nat) : State :=
  leaveOverlaps (s.modCore c fun k => { k with journal := padSet {} k.journal e {} }) c

/-- The target has refused: the entry is held, and POSTED is raised in the storing task, or for it once it has ended. -/
def refuseEntry (s : State) (c e reason : Nat) : State :=
  let j := (s.core c).journal.getD e {}
  let s := s.modCore c fun k => { k with journal := padSet {} k.journal e { j with refused := true, reason := reason } }
  let s := leaveOverlaps s c
  if j.ended then
    (s.modCore c fun k => { k with
      endedTraps := k.endedTraps ++ [(Cause.posted.code, j.addr, word (e + 256 * reason), j.launch)] }).poke
      ⟨.endedTaskTrapContext, { core := c }⟩
  else s.modSlotAt c j.slot fun sl => { sl with pendPosted := sl.pendPosted ++ [(j.addr, word (e + 256 * reason))] }

/-- POSTED_STORE_ACK (R116). -/
def execPostedStoreAck (s : State) : Host.Outcome State Fault Refusal :=
  let c := s.ev.core
  .next (match entryRemote s c s.ev.id with
    | some (id, r) =>
      match r.stage with
      | .answered _ => (ackEntry (s.dropRemote id) c s.ev.id).pokeLaunch r.launch
      | _ => s
    | none => s)

/-- POSTED_STORE_REFUSED (R118). -/
def execPostedStoreRefused (s : State) : Host.Outcome State Fault Refusal :=
  let c := s.ev.core
  .next (match entryRemote s c s.ev.id with
    | some (id, r) =>
      match r.stage with
      | .refused why => refuseEntry (s.dropRemote id) c s.ev.id why
      | _ => s
    | none => s)

/-! ### Asynchronous causes (R211) and the watchdog (R29) -/

/-- WATCHDOG_EXPIRY (R29): the task traps WATCHDOG at its next boundary; never in kernel mode (R212) or in wrap-up
(R181). -/
def execWatchdogExpiry (s : State) : Host.Outcome State Fault Refusal :=
  let sl := s.slotAt s.ev.core s.ev.slot
  .next (if sl.held && !sl.stopped && !sl.wrapup && sl.shadow.isNone && sl.wdog == 0 then
      s.modSlotAt s.ev.core s.ev.slot fun sl => { sl with pendWatchdog := true }
    else s)

/-- The first pending cause of a slot and the slot without it, in the order WATCHDOG, POSTED, SEND_REFUSED.
(DEDUCED, log 21) -/
def firstPending (sl : Slot) : Option (Trap × Slot) :=
  if sl.pendWatchdog then
    some ({ cause := .watchdog, info := word sl.cls, async := true }, { sl with pendWatchdog := false })
  else match sl.pendPosted with
    | p :: r => some ({ cause := .posted, addr := p.1, info := p.2, async := true }, { sl with pendPosted := r })
    | [] =>
      match sl.pendRefused with
      | p :: r => some ({ cause := .sendRefused, addr := p.1, info := p.2, async := true }, { sl with pendRefused := r })
      | [] => none

/-- ASYNC_TRAP_TAKEN (R211): at a boundary, ahead of the instruction there, and behind a diversion (R223). -/
def execAsyncTrapTaken (s : State) : Host.Outcome State Fault Refusal :=
  let c := s.ev.core
  let t := s.ev.slot
  let sl := s.slotAt c t
  .next (
    if !sl.held || sl.stopped || sl.stall != .none || sl.shadow.isSome ||
      (s.quenched sl.launch && !sl.wrapup && sl.start != .trapContext) then s
    else match firstPending sl with
      | none => s
      | some (tr, sl') => trapWhenRoom s c t tr fun s => s.setSlotAt c t sl')

/-- The lowest free slot of a core. -/
def freeSlot (k : Core) : Option Nat := [0, 1, 2, 3].find? fun t => !(k.slot t).held

/-- ENDED_TASK_TRAP_CONTEXT (R211): the core's next free slot takes the cause, ahead of any dispatch. -/
def execEndedTaskTrapContext (s : State) : Host.Outcome State Fault Refusal :=
  let c := s.ev.core
  let k := s.core c
  .next (match k.endedTraps, freeSlot k with
    | (code, addr, info, l) :: r, some t =>
      let s := rouse s (c / 8)
      if !awake s (c / 8) then s else
      trapContext (s.modCore c fun k => { k with endedTraps := r }) c t code addr info l
    | _, _ => s)

end Sys2Proof.Machine
end

