-- ==== Sys2Proof/Machine/SaveArea.lean ====
section
/-! DEFINITION. The save area in HBM (R221, R222): its blocks, the two copies of each chunk, the header and the chunk map, what
a context's and a holder's save hold, and the reading and verifying of a save. -/

namespace Sys2Proof.Machine

/-! ### Chunks (R221) -/

/-- Bytes of HBM of one die, and of a block (R127). -/
def dieBytes : Nat := 0x3000000000
def blockBytes : Nat := 4096

/-- Triples of a core's save area and of a hearth's, and the first triple of each. (DESIGN CHOICE, log 50) -/
def coreTriples : Nat := 40
def heldTriples : Nat := 144
def coreArea (c area : Nat) : Nat := (c % 2048 * 8 + area) * coreTriples
def heldArea (h area : Nat) : Nat := 2048 * 8 * coreTriples + (h % 256 * 64 + area) * heldTriples

/-- Address of place `n` of chunk `j` of the area that starts at triple `t0`: 0 the primary copy's block, 1 the mirror's, 2
the third block. -/
def saveKey (s : State) (die t0 j n : Nat) : Nat :=
  die * dieBytes + blockBytes * (s.cfg.saveRegion + 3 * (t0 + j) + (j + n) % 3)

/-- The places that the map names as a chunk's primary and mirror copy. -/
def copyPlaces (m : Nat) : Nat × Nat :=
  match m with
  | 1 => (2, 1)
  | 2 => (0, 2)
  | _ => (0, 1)

/-- Bytes of a chunk map, 2 bits a chunk. -/
def mapBytes (n : Nat) : Nat := ceilDiv (2 * n) 8

/-- Chunks of a save of `len` bytes, header and map included. -/
def saveChunks (len : Nat) : Nat :=
  let n := ceilDiv (64 + len) blockBytes
  if 64 + mapBytes n + len ≤ blockBytes * n then n else n + 1

/-- Listed bytes of a byte list that starts at an offset. -/
def cellsOf (off : Nat) (b : List Byte) : List (Nat × Byte) :=
  (b.zipIdx.map fun p => (off + p.2, p.1)).filter fun p => p.2 != unlisted

/-- The bytes of a save: the header, the chunk map, and then the contents. -/
def saveImage (header : List Nat) (map : List Nat) (len : Nat) (cells : List (Nat × Byte)) : List (Nat × Byte) :=
  let n := saveChunks len
  let bits := (List.range n).foldl (fun v j => v + map.getD j 0 % 4 * 4 ^ j) 0
  cellsOf 0 (header.flatMap fun w => leBytes w 8) ++ cellsOf 64 (leBytes bits (mapBytes n)) ++
    cells.map fun p => (64 + mapBytes n + p.1, p.2)

/-- Writes the bytes of a block, each granule with its check (R129). -/
def putBlock (s : State) (key : Nat) (cells : List (Nat × Byte)) : State :=
  let out := fun g : Nat => decide (64 * g < key) || decide (key + blockBytes ≤ 64 * g)
  { s with
    mem := memRestore (memClear s.mem key (key + blockBytes)) (cells.map fun p => (key + p.1 % blockBytes, p.2))
    poison := s.poison.filter out
    badCheck := s.badCheck.filter out }

/-- Writes both copies of every chunk of a save. -/
def writeSave (s : State) (die t0 : Nat) (map : List Nat) (n : Nat) (image : List (Nat × Byte)) : State :=
  (List.range n).foldl (fun s j =>
    let cells := image.filter fun p => p.1 / blockBytes == j
    let q := copyPlaces (map.getD j 0)
    let a := saveKey s die t0 j q.1
    let b := saveKey s die t0 j q.2
    touchKey (touchKey (putBlock (putBlock s a cells) b cells) a) b) s

/-- Writes bytes at an offset of the contents of a save, in both copies. -/
def putSaved (s : State) (die t0 : Nat) (map : List Nat) (len off : Nat) (b : List Byte) : State :=
  let start := 64 + mapBytes (saveChunks len) + off
  { s with mem := b.zipIdx.foldl (fun m p =>
      let o := start + p.2
      let j := o / blockBytes
      let q := copyPlaces (map.getD j 0)
      memPut (memPut m (saveKey s die t0 j q.1 + o % blockBytes) p.1) (saveKey s die t0 j q.2 + o % blockBytes) p.1) s.mem }

/-! ### Verifying (R222) -/

/-- A granule's check does not verify, or its error cannot be corrected. -/
def granuleBad (s : State) (key : Nat) : Bool := natMem s.poison (key / 64) || natMem s.badCheck (key / 64)

/-- A place of chunk 0 verifies and bears the sequence number recorded for the save. -/
def firstChunkOk (s : State) (die t0 seq n : Nat) : Bool :=
  let k := saveKey s die t0 0 n
  ((List.range 64).all fun i => !granuleBad s (k + 64 * i)) && memNat s.mem (k + 16) 8 == seq

/-- The map entry of a chunk as a place of chunk 0 holds it. -/
def mapEntry (s : State) (die t0 n j : Nat) : Nat := memNat s.mem (saveKey s die t0 0 n + 64 + j / 4) 1 / 4 ^ (j % 4) % 4

/-- The first granule of chunk `j` both of whose copies fail, by its primary copy's address. -/
def chunkFailure (s : State) (die t0 j m : Nat) : Option Nat :=
  let q := copyPlaces m
  let a := saveKey s die t0 j q.1
  let b := saveKey s die t0 j q.2
  ((List.range 64).find? fun i => granuleBad s (a + 64 * i) && granuleBad s (b + 64 * i)).map fun i => a + 64 * i

/-- The granule at which the restore of a save stops, none when every granule verifies from one copy or the other.
(DESIGN CHOICE, log 50) -/
def saveFailure (s : State) (die t0 seq n : Nat) : Option Nat :=
  match [0, 1, 2].find? fun p => firstChunkOk s die t0 seq p with
  | none =>
    let k := saveKey s die t0 0 0
    some ((((List.range 64).find? fun i => granuleBad s (k + 64 * i)).map fun i => k + 64 * i).getD k)
  | some p => (List.range n).findSome? fun j => if j = 0 then none else chunkFailure s die t0 j (mapEntry s die t0 p j)

/-! ### What a save holds (R219) -/

/-- The 96 bytes of a ring slot (R44). -/
def ringBytes (m : Msg) : List Byte :=
  leBytes m.lo.toNat 8 ++ leBytes m.hi.toNat 8 ++
    (List.range 10).flatMap fun i => leBytes ((m.words.getD i 0).toNat) 8

/-- A core's registers that a context saves, as dwords. -/
def Saved.dwords (x : Saved) : List Nat :=
  let (cm, cc, cq, ct, cw) := x.cvg
  [x.lsplit, x.arrLimit, x.ovfBase, x.ovfSize, x.ringHead, x.deadCount, x.spawnLimit, cm.toNat, cc.toNat, cq.toNat, ct.toNat,
    cw.toNat] ++ x.fmtWin.map (·.toNat)

/-- Scratchpad bytes of a save. -/
def Saved.scratchBytes (x : Saved) : Nat := splitBytes x.lsplit

/-- What follows the scratchpad: the hardware queue in arrival order, the registers, and the Tongs descriptors with their
tags. (DESIGN CHOICE, log 50) -/
def Saved.tail (x : Saved) : List Byte :=
  (x.hwq.flatMap fun q => ringBytes q.msg) ++ (x.dwords.flatMap fun w => leBytes w 8) ++
    x.tongs.flatMap fun c => (c.desc.flatMap fun w => leBytes w.toNat 8) ++ leBytes c.tag 8

def Saved.length (x : Saved) : Nat := x.scratchBytes + x.tail.length

/-- A context's header (R221). -/
def Saved.header (x : Saved) (c l : Nat) : List Nat :=
  [c * 2 ^ 32 + x.asid * 2 ^ 16 + l, x.length, x.seq, x.hwq.length + 2 ^ 8 * x.tongs.length, saveChunks x.length, 0, 0, 0]

/-- The save area of a launch on a core: its first triple. -/
def areaOf (s : State) (c l : Nat) : Nat := coreArea c ((tget (s.core c).areas l).getD 0)

/-- Writes a context's save (R221). -/
def writeContext (s : State) (c l : Nat) (x : Saved) : State :=
  let image := saveImage (x.header c l) x.chunkMap x.length (x.scratch ++ cellsOf x.scratchBytes x.tail)
  writeSave s (dieOf c) (areaOf s c l) x.chunkMap (saveChunks x.length) image

/-- The granule at which a context's restore stops; a context that has not been saved yet is built at its first residence. -/
def contextFailure (s : State) (c l : Nat) (x : Saved) : Option Nat :=
  if x.seq = 0 then none else saveFailure s (dieOf c) (areaOf s c l) x.seq (saveChunks x.length)

/-- What a holder's save holds after the pool: the accumulators, the rings with their counters, and `A.GATE`.
(DESIGN CHOICE, log 50) -/
def SavedHeld.tail (x : SavedHeld) : List Byte :=
  (x.held.acc.flatMap fun t => t.flatMap fun e => leBytes e.toNat 4) ++
  (x.held.rings.flatMap fun r => match r with
    | none => List.replicate 32 0
    | some r => leBytes r.base 8 ++ leBytes (r.slots * 2 ^ 32 + r.group * 2 ^ 24 + (if r.bx then 2 ^ 22 else 0) +
        (if r.zp then 2 ^ 21 else 0) + 2 ^ 20 + r.mode) 8 ++ leBytes r.head 8 ++ leBytes r.tail 8) ++ leBytes x.held.gate 8

def SavedHeld.length (x : SavedHeld) : Nat := Config.poolBytes + x.tail.length

def SavedHeld.header (x : SavedHeld) (h asid : Nat) : List Nat :=
  [h * 2 ^ 32 + asid * 2 ^ 16, x.length, x.seq, 0, saveChunks x.length, 0, 0, 0]

def heldAreaOf (s : State) (h asid : Nat) : Nat := heldArea h ((tget (s.hearth h).areas asid).getD 0)

/-- Writes a holder's save (R221). -/
def writeHeld (s : State) (h asid : Nat) (x : SavedHeld) : State :=
  let image := saveImage (x.header h asid) x.chunkMap x.length (x.pool ++ cellsOf Config.poolBytes x.tail)
  writeSave s (h / 256) (heldAreaOf s h asid) x.chunkMap (saveChunks x.length) image

/-- The granule at which a holder's restore stops. -/
def heldFailureAt (s : State) (h asid : Nat) (x : SavedHeld) : Option Nat :=
  if x.seq = 0 then none else saveFailure s (h / 256) (heldAreaOf s h asid) x.seq (saveChunks x.length)

/-- The lowest number below `n` that a table of areas does not give. -/
def freeArea (t : Table Nat) (n : Nat) : Option Nat := (List.range n).find? fun i => !(t.any fun p => p.2 == i)

/-! ### Reading a save (R222) -/

/-- The bytes of a chunk, each granule from its primary copy at `a`, or from its mirror at `b` where that does not verify; they
stand from the offset `at_` on. -/
def readChunk (s : State) (a b at_ : Nat) : List (Nat × Byte) :=
  ((memRange s.mem a (a + blockBytes)).filter fun p => !granuleBad s p.1).map (fun p => (at_ + (p.1 - a), p.2)) ++
    ((memRange s.mem b (b + blockBytes)).filter fun p => granuleBad s (a + (p.1 - b))).map fun p => (at_ + (p.1 - b), p.2)

/-- The image of a save of `n` chunks that verifies: chunk 0 whole from its first place that does, the others by the chunk map.
(DESIGN CHOICE, log 50) -/
def readSave (s : State) (die t0 seq n : Nat) : List Host.Cell :=
  match [0, 1, 2].find? fun p => firstChunkOk s die t0 seq p with
  | none => []
  | some p => memRestore [] ((List.range n).flatMap fun j =>
      if j = 0 then
        let k := saveKey s die t0 0 p
        readChunk s k k 0
      else
        let q := copyPlaces (mapEntry s die t0 p j)
        readChunk s (saveKey s die t0 j q.1) (saveKey s die t0 j q.2) (blockBytes * j))

/-- `n` words of an image from an offset on. -/
def imageWords (m : List Host.Cell) (off n : Nat) : List Word := (List.range n).map fun i => memWord m (off + 8 * i)

/-- The message of a ring slot in an image. -/
def imageMsg (m : List Host.Cell) (off : Nat) : Msg := msgOfWords fun j => memWord m (off + 8 * j)

/-- The bytes of an image in a range, from 0 on. -/
def imageCells (m : List Host.Cell) (lo n : Nat) : List (Nat × Byte) := (memRange m lo (lo + n)).map fun p => (p.1 - lo, p.2)

/-- A context with the contents that its image gives: the scratchpad, the queue's messages, the registers, and the Tongs
descriptors with their tags. (DESIGN CHOICE, log 50) -/
def Saved.ofImage (x : Saved) (m : List Host.Cell) : Saved :=
  let base := 64 + mapBytes (saveChunks x.length)
  let queue := base + x.scratchBytes
  let counts := memNat m 24 8
  let regs := queue + 96 * bitsOf counts 5 0
  let w := fun i => memWord m (regs + 8 * i)
  let cmds := regs + 8 * 27
  { x with
    scratch := imageCells m base x.scratchBytes
    hwq := x.hwq.zipIdx.map fun q => { q.1 with msg := imageMsg m (queue + 96 * q.2) }
    lsplit := (w 0).toNat, arrLimit := (w 1).toNat, ovfBase := (w 2).toNat, ovfSize := (w 3).toNat, ringHead := (w 4).toNat
    deadCount := (w 5).toNat, spawnLimit := (w 6).toNat, cvg := (w 7, w 8, w 9, w 10, w 11)
    fmtWin := imageWords m (regs + 96) 15
    tongs := x.tongs.zipIdx.map fun c => { c.1 with
      desc := imageWords m (cmds + 72 * c.2) 8, tag := (memWord m (cmds + 72 * c.2 + 64)).toNat } }

/-- A context as its restore reads it (R222); one that has not been saved yet is built at its first residence. -/
def readContext (s : State) (c l : Nat) (x : Saved) : Saved :=
  if x.seq = 0 then x
  else x.ofImage (readSave s (dieOf c) (areaOf s c l) x.seq (saveChunks x.length))

/-- A ring as a holder's save gives it at an offset. -/
def imageRing (m : List Host.Cell) (off : Nat) : Option Ring :=
  let d := memNat m (off + 8) 8
  let head := memNat m (off + 16) 8
  if bitsOf d 20 20 = 0 then none
  else some { base := memNat m off 8, slots := bitsOf d 63 32, mode := bitsOf d 19 0, group := bitsOf d 31 24
              bx := bitsOf d 22 22 == 1, zp := bitsOf d 21 21 == 1, head := head, tail := memNat m (off + 24) 8, read := head }

/-- A holder's state with the contents that its image gives. (DESIGN CHOICE, log 50) -/
def SavedHeld.ofImage (x : SavedHeld) (m : List Host.Cell) : SavedHeld :=
  let base := 64 + mapBytes (saveChunks x.length)
  let acc := base + Config.poolBytes
  let rings := acc + 16 * 1024
  { x with
    pool := imageCells m base Config.poolBytes
    held := {
      acc := (List.range 16).map fun t => (List.range 256).map fun e => BitVec.ofNat 32 (memNat m (acc + 1024 * t + 4 * e) 4)
      rings := (List.range 16).map fun i => imageRing m (rings + 32 * i)
      gate := memNat m (rings + 512) 8 } }

/-- A holder's state as its restore reads it. -/
def readHeld (s : State) (h asid : Nat) (x : SavedHeld) : SavedHeld :=
  if x.seq = 0 then x
  else x.ofImage (readSave s (h / 256) (heldAreaOf s h asid) x.seq (saveChunks x.length))

end Sys2Proof.Machine
end

