-- ==== Sys2Proof/Machine/Arrive.lean ====
section
/-! DEFINITION. Messages at their receiver: arrival (R36, R45, R202), the answers to the sender and its retries (R46, R48,
R49), the choice of a message and the start of its task (R27, R38-R42, R47, R49), and channels (R371). -/

namespace Sys2Proof.Machine

/-! ### Rings (R44, R45) -/

/-- Takes an arriving message into the resident launch's queue or ring; none when both are full (R45). -/
def takeResident (s : State) (c : Nat) (m : Msg) : Option State :=
  let s := refillQueue s c
  let k := s.core c
  let id := s.nextId
  if k.ring.isEmpty && decide (k.hwq.length < k.arrLimit) then
    some (s.fresh.setCore c { k with hwq := k.hwq ++ [{ msg := m, arrival := id, since := s.cycle }] })
  else if k.ring.length < k.ovfSize then
    let a := scratchKey c (ringOffset k.ovfBase ((k.ringHead + k.ring.length) % k.ovfSize))
    let s := { s with mem := memPutBytes s.mem a (ringBytes m), poison := unpoison s.poison a 96 }
    some (s.fresh.setCore c { k with ring := k.ring ++ [(id, s.cycle, 0)] })
  else none

/-- Puts bytes into a saved scratchpad. -/
def savedPut (t : Table Byte) (off : Nat) : List Byte → Table Byte
  | [] => t
  | b :: r => savedPut (if b = unlisted then tdel t off else tset t off b) (off + 1) r

/-- The same for a saved-out launch: its ring only, in the save area too (R202, R221). -/
def takeSaved (s : State) (c l : Nat) (x : Saved) (m : Msg) : Option State :=
  if x.ring.length < x.ovfSize then
    let off := ringOffset x.ovfBase ((x.ringHead + x.ring.length) % x.ovfSize)
    let s := if x.seq = 0 then s else putSaved s (dieOf c) (areaOf s c l) x.chunkMap x.length off (ringBytes m)
    let x := { x with scratch := savedPut x.scratch off (ringBytes m), ring := x.ring ++ [(s.nextId, s.cycle, 0)] }
    some (s.fresh.modCore c fun k => { k with saved := tset k.saved l x })
  else none

/-! ### Arrival (R36, R45) -/

/-- The launch has state on a core, resident or saved out. -/
def hasState (s : State) (c l : Nat) : Bool :=
  (s.launch? l).isSome && ((s.core c).resident == some l || (tget (s.core c).saved l).isSome)


/-- The RAS record of a discarded message (R36, R292): kind 11. -/
def discardRecord (s : State) (c : Nat) (m : Msg) : State :=
  s.logRas { rasOfCore 11 c (some m.launch) (s.asidOf m.launch) (detail m.lo.toNat m.hi.toNat 0 0) with unit := 11 }

/-- A message is discarded at its receiver: it is counted, and has left flight (R36, R152, R176). -/
def discardAt (s : State) (c : Nat) (m : Msg) : State := (s.countDiscard m.launch 1).inflight m.launch (dieOf c) (-1)

def State.setTransit (s : State) (id : Nat) (t : Transit) : State := { s with transits := tset s.transits id t }

def State.dropTransit (s : State) (id : Nat) : State := { s with transits := tdel s.transits id }

/-- The answer to a peer's request (R274): status 0 for one that is done or a message accepted, 5 for a message refused. Data
that is poisoned goes with the link's poison bit (R258). -/
def respond (s : State) (peer l tr status : Nat) (data : Word) : State :=
  enqueue s (s.sendDie l peer) l peer { header := packetHeader 5 1 (status == 3) 0 tr l status, words := [data] }

/-- The receiver's Tongs answers (R45): acceptance or refusal goes back to the sender. -/
def answerSender (s : State) (id : Nat) (t : Transit) (accepted : Bool) : State :=
  match t.sender with
  | .peer dev _ tr =>
    let s := if accepted then s else s.inflight t.msg.launch (dieOf t.dest) (-1)
    respond (s.dropTransit id) dev t.msg.launch tr (if accepted then 0 else 5) 0
  | _ =>
    if accepted then (s.setTransit id { t with leg := .accepted }).poke ⟨.acceptanceReceived, { id := id }⟩
    else (s.setTransit id { t with leg := .refused }).poke ⟨.refusalReceived, { id := id }⟩

/-- The launch takes no message any more: quenched (R176), or ended or ending (R51, R213). -/
def State.deaf (s : State) (l : Nat) : Bool :=
  match s.launch? l with
  | some x => x.quenched || x.status != 0
  | none => true

/-- The cores whose slice ends with a core's: a gang's contexts are switched together (R201). -/
def sliceCores (s : State) (c : Nat) : List Nat :=
  match (s.core c).resident.bind s.launch? with
  | some x => if bitsOf (x.lr.getD 0 0).toNat 0 0 = 1 then x.cores else [c]
  | none => [c]

/-- A slice ends: nothing more of the launch is dispatched (R204). -/
def endSlice (s : State) (c : Nat) : State :=
  let r := (s.core c).resident
  (sliceCores s c).foldl (fun s c' =>
    if r.isSome && (s.core c').resident == r && !(s.core c').sliceEnded then
      (s.modCore c' fun k => { k with sliceEnded := true }).poke ⟨.contextSave, { core := c' }⟩
    else s) s

def State.prioOf (s : State) (l : Nat) : Nat := bitsOf (s.lr l 1).toNat 2 0

/-- A launch assigned to the core has work: the slice of a resident launch of lower `LR.PRIO` ends (R203). -/
def preempt (s : State) (c l : Nat) : State :=
  match (s.core c).resident with
  | some r => if r != l && s.prioOf r < s.prioOf l then endSlice s c else s
  | none => s

/-- A peer's message enters the launch's count of messages in flight when it is accepted (R152). (DEDUCED, log 47) -/
def countInbound (s : State) (t : Transit) : State :=
  match t.sender with
  | .peer _ _ _ => s.inflight t.msg.launch (dieOf t.dest) 1
  | _ => s

/-- The place of a message's source among those of one cycle (R45): cores of this device, the distributor, then peers by
device and core. -/
def sourceKey (t : Transit) : Nat :=
  match t.sender with
  | .peer dev _ _ => (dev + 2) * 2 ^ 13 + t.msg.srcCore
  | .distributor => 2 ^ 13
  | _ => t.msg.srcCore

/-- The message reaches its core now. (DEDUCED, log 47) -/
def Transit.arriving (t : Transit) (now : Nat) : Bool :=
  match t.leg with
  | .flying => true
  | .next due => decide (due ≤ now)
  | _ => false

/-- Another message of this cycle that goes before it has arrived already: this one reaches the core in the next cycle
(R45). (DEDUCED, log 47) -/
def tooLate (s : State) (c id : Nat) (t : Transit) : Bool :=
  let (at_, key, n) := (s.core c).lastArrival
  at_ == s.cycle + 1 && (decide (sourceKey t < key) || (sourceKey t == key && decide (id < n)))

/-- MESSAGE_ARRIVAL (R45): discarded, taken or refused. Messages that reach a core in one cycle are taken in the order of
their sources. (DEDUCED, log 47) -/
def execMessageArrival (s : State) : Host.Outcome State Fault Refusal :=
  let id := s.ev.id
  .next (match tget s.transits id with
    | none => s
    | some t =>
      if !t.arriving s.cycle then s
      else if tooLate s t.dest id t then s.setTransit id { t with leg := .next (s.cycle + 1) }
      else
        let c := t.dest
        let m := t.msg
        let s := wakeHearth s (c / 8)
        if !awake s (c / 8) then s.setTransit id { t with leg := .next (s.cycle + 1) } else
        let s := s.modCore c fun k => { k with lastArrival := (s.cycle + 1, sourceKey t, id) }
        let s := countInbound s t
        if !m.checked || 10 ≤ m.len || !hasState s c m.launch || (s.hearth (c / 8)).fenced then
          answerSender (discardRecord (discardAt s c m) c m) id t true
        else if s.deaf m.launch then answerSender (discardAt s c m) id t true
        else
          let got := if (s.core c).resident == some m.launch then takeResident s c m
            else match tget (s.core c).saved m.launch with
              | some x => (takeSaved s c m.launch x m).map fun s => preempt s c m.launch
              | none => none
          match got with
          | some s' => (answerSender s' id { t with arrival := some s.nextId } true).poke ⟨.messageDispatch, { core := c }⟩
          | none => answerSender s id t false)

/-! ### At the sender (R46, R48, R49) -/

/-- A place under `SPAWN.LIMIT` is free again (R48). -/
def spawnDone (s : State) (c : Nat) : State := s.modCore c fun k => { k with spawns := k.spawns - 1 }

/-- The sender learns that its message is accepted (R36, R48, R49): a `migrate` has taken effect, and its task ends, or ends at
the `tret` of the handler it is in. (DEDUCED, log 27) -/
def senderAccepted (s : State) (id : Nat) (x : Sender) : State :=
  match x with
  | .spawn c _ => spawnDone s c
  | .migrate c t =>
    if (s.slotAt c t).migrating != some id then s
    else
      let s := s.modSlotAt c t fun sl => (sl.read sl.migrateSrc).2
      if (s.slotAt c t).shadow.isNone then endTask s c t else s.modSlotAt c t fun sl => { sl with migrateEnd := some none }
  | _ => s

/-- ACCEPTANCE_RECEIVED (R36). -/
def execAcceptanceReceived (s : State) : Host.Outcome State Fault Refusal :=
  let id := s.ev.id
  .next (match tget s.transits id with
    | none => s
    | some t => if t.leg != .accepted then s else senderAccepted (s.dropTransit id) id t.sender)

/-- SEND_REFUSED in the sending task, or for it once it has ended (R46). -/
def raiseRefused (s : State) (c t : Nat) (m : Msg) (orphaned : Bool) : State :=
  if orphaned then
    (s.modCore c fun k => { k with
      endedTraps := k.endedTraps ++ [(Cause.sendRefused.code, m.dest, m.hi, m.launch)] }).poke
      ⟨.endedTaskTrapContext, { core := c }⟩
  else s.modSlotAt c t fun sl => { sl with pendRefused := sl.pendRefused ++ [(m.dest, m.hi)] }

/-- Tongs gives a message up (R46): it is counted, and SEND_REFUSED is raised; precisely at a `migrate` (R49). -/
def giveUp (s : State) (id : Nat) (t : Transit) : State :=
  let s := s.dropTransit id
  let m := t.msg
  match t.sender with
  | .task c k => raiseRefused (discardAt s c m) c k m t.orphaned
  | .spawn c k => raiseRefused (spawnDone (discardAt s c m) c) c k m t.orphaned
  | .migrate c k =>
    let s := discardAt s c m
    if (s.slotAt c k).migrating == some id then
      s.modSlotAt c k fun sl => { sl with migrateEnd := some (some (m.dest, m.hi)) }
    else s
  | .distributor => discardAt s 0 m
  | .peer _ _ _ => s

/-- A refused message of a launch that was quenched is discarded and counted only (R176). -/
def dropRefused (s : State) (id : Nat) (t : Transit) : State :=
  let s := s.dropTransit id
  match t.sender with
  | .task c _ => discardAt s c t.msg
  | .spawn c _ => spawnDone (discardAt s c t.msg) c
  | .migrate c _ => discardAt s c t.msg
  | _ => discardAt s 0 t.msg

/-- The gap before the n-th retry (R46). -/
def retryGap (n : Nat) : Nat := if n ≤ 1 then 16 else min 512 (2 ^ (n + 3))

/-- A refusal reaches the sender's Tongs: another retry, or the end (R46). -/
def refusalAt (s : State) (id : Nat) (t : Transit) : State :=
  if s.deaf t.msg.launch then (dropRefused s id t).pokeLaunch t.msg.launch
  else
    let first := t.firstRefusal.getD s.cycle
    if t.firstRefusal.isSome && first + 4096 ≤ s.cycle then (giveUp s id t).pokeLaunch t.msg.launch
    else
      let n := t.refusals + 1
      s.setTransit id { t with firstRefusal := some first, refusals := n, leg := .waiting (s.cycle + retryGap n) }

/-- REFUSAL_RECEIVED (R46). -/
def execRefusalReceived (s : State) : Host.Outcome State Fault Refusal :=
  let id := s.ev.id
  .next (match tget s.transits id with
    | none => s
    | some t => if t.leg != .refused then s else refusalAt s id t)

/-- A message leaves for its peer again under a new transaction. -/
def resendAbroad (s : State) (id : Nat) (t : Transit) (p : Nat) : State :=
  let m := t.msg
  let s := s.setTransit id { t with leg := .abroad p (s.nextTrans p) }
  sendRequest s m.launch p true id fun tr =>
    { header := packetHeader 1 (messageFlits m.words.length) false 0 tr m.launch 0, words := m.lo :: m.hi :: m.words }

/-- The peer a transit's destination handle names, if it leaves the part. -/
def Transit.peer? (s : State) (t : Transit) : Option Nat :=
  let d := bitsOf t.msg.lo.toNat 63 58
  if s.thisDevice d then none else some d

/-- RETRY_TIMER (R46): the gap is over and Tongs resends. -/
def execRetryTimer (s : State) : Host.Outcome State Fault Refusal :=
  let id := s.ev.id
  .next (match tget s.transits id with
    | none => s
    | some t =>
      match t.leg with
      | .waiting due =>
        if s.cycle < due then s
        else match t.peer? s with
          | some p => resendAbroad s id t p
          | none => (s.setTransit id { t with leg := .flying }).poke ⟨.messageArrival, { id := id }⟩
      | _ => s)

/-! ### Choosing a message (R47, R41, R42, R371) -/

/-- The launch's top-code bit (R38). -/
def State.topBit (s : State) (l : Nat) : Bool := bitsOf (s.lr l 0).toNat 4 4 == 1

/-- The object table entry of a slot on a core: live, generation and offset (R33).
(DEDUCED, log 22; DEDUCED, log 48) -/
def objectEntry (s : State) (c l slot : Nat) : Bool × Nat × Nat :=
  let t := (s.lr l 4).toNat
  if bitsOf t 47 32 ≤ slot then (false, 0, 0)
  else
    let a := scratchKey c (bitsOf t 16 0 + 8 * slot)
    let e := memNat s.mem a 8
    (bitsOf e 32 32 == 1 && !natMem s.poison (a / 64), bitsOf e 47 40, bitsOf e 16 0)

/-- A message is a dead letter (R41). `bound`: its class is bound as a channel, whose entry need not be present.
(DEDUCED, log 48) -/
def isDead (s : State) (c : Nat) (m : Msg) (bound : Bool) : Bool :=
  let l := m.launch
  let o := objectEntry s c l m.slot
  let e := s.classOf l m.cls
  (if m.slot = 0xFFFF then m.gen != 0 else !o.1 || o.2.1 != m.gen) ||
    (!bound && (!e.present || e.cont != (m.len == 9))) || (bound && m.len == 9)

/-- Words a channel's buffer holds. -/
def chanWords (ms : List (Word × Bool × Bool × List Word)) : Nat :=
  (ms.map fun m => (if m.2.2.1 then 0 else 1) + m.2.2.2.length).sum

/-- The slot and stream that bind a class on a core, with the words buffered. -/
def boundChan (k : Core) (cls : Nat) : Option (Nat × Nat × Nat) :=
  k.slots.findSome? fun p =>
    if !p.2.held then none
    else p.2.binds.zipIdx.findSome? fun b => match b.1 with
      | .chan c ms => if c == cls then some (p.1, b.2, chanWords ms) else none
      | _ => none

/-- What becomes of a message at a dispatch decision. -/
inductive Fate where
  | passedOver
  | dropped
  | handed (slot stream : Nat)
  | started (slot : Nat) (dead : Bool)
  deriving DecidableEq, Repr

/-- A task of an exclusive class runs for an object slot on a core (R42), or writes of one that has ended are still to be
performed (R381). (DEDUCED, log 24) -/
def exclusiveRuns (s : State) (c l slot : Nat) : Bool :=
  let k := s.core c
  let busy := fun x : Option (Nat × Nat) => x == some (l, slot)
  (k.slots.any fun p => p.2.held && p.2.launch == l && p.2.excl == some slot) ||
    (k.journal.any fun j => j.used && !j.refused && busy j.busy) || (k.lanes.any fun o => busy o.busy) ||
    (k.bound.any fun b => busy b.op.busy) || (k.transfers.any fun o => busy o.busy) ||
    (s.remotes.any fun p => p.2.core == c && busy p.2.busy) ||
    (s.hearth (c / 8)).ops.any fun o => o.core == c && busy o.busy

/-- The fate of a queued message (R47, R41, R42, R371). (DEDUCED, log 22; DEDUCED, log 48) -/
def fateOf (s : State) (c : Nat) (m : Msg) : Fate :=
  let k := s.core c
  let ch := boundChan k m.cls
  let dead := isDead s c m ch.isSome
  let start := fun d : Bool =>
    match freeSlot k with
    | some t => if s.refuted (s.follow m.tag) then .dropped else .started t d
    | none => .passedOver
  match dead, ch with
  | true, _ => start true
  | false, some (t, st, used) =>
    if 16 < used + 1 + m.words.length then .passedOver
    else if s.refuted (s.follow m.tag) then .dropped else .handed t st
  | false, none =>
    let e := s.classOf m.launch m.cls
    if e.excl && m.slot != 0xFFFF && exclusiveRuns s c m.launch m.slot then .passedOver else start false

/-- A message's priority with what waiting has added (R47). -/
def Queued.prio (q : Queued) : Nat := min 15 (q.msg.prio + q.aged)

/-- The best of the eligible messages: higher priority, then earlier arrival. The launch is the resident one for all. -/
def bestMessage (s : State) (c : Nat) : List Queued → Option (Queued × Fate)
  | [] => none
  | q :: r =>
    let rest := bestMessage s c r
    match fateOf s c q.msg with
    | .passedOver => rest
    | f => match rest with
      | none => some (q, f)
      | some (q', f') =>
        if q.prio > q'.prio || (q.prio == q'.prio && q.arrival < q'.arrival) then some (q, f) else some (q', f')

/-! ### The start of a task (R27) -/

/-- The state every task starts with (R27). -/
def Slot.begin (sl : Slot) (s : State) (l rank cls : Nat) (start : Start) (e : ClassEntry) : Slot :=
  let fp := (s.lr l 28).toNat
  { sl.freed with
    held := true, start := start, launch := l, rank := rank, cls := cls, asid := s.asidOf l
    pc := e.entry, entry := true, wdog := e.cycles
    fpCtrl := word (bitsOf fp 7 0), gbeta := word (bitsOf fp 63 32), fmtMode := boolWord (s.topBit l) }

/-- A first frame: n0-n7 full, the rest empty (R65). -/
def firstFrame (ws : List Word) : Win :=
  { act := (List.range 8).map (fun i => Reg.of (ws.getD i 0)) ++ List.replicate 24 Reg.fresh }

/-- The frame size a continuation class declares at its entry PC (R49): the parcel there, or none when it is not a frame
parcel or cannot be fetched. (DEDUCED, log 48) -/
def declaredFrame (s : State) (c t : Nat) (entry : Word) : Option Nat :=
  match parcelAt { s with cur := (c, t) } entry with
  | .ok p => if p / 2 ^ 10 = 0x18 && p / 32 % 32 = 0 then some (p % 32 + 1) else none
  | .error _ => none

/-- `MSG.SLOT` (R43). -/
def msgSlotWord (m : Msg) (dead : Bool) (off : Nat) : Word :=
  word ((if dead then 2 ^ 63 else 0) + m.slot * 2 ^ 32 + off)

/-- Starts the task of a message in a slot (R27, R38, R41, R49). (DEDUCED, log 48) -/
def startTask (s : State) (c t : Nat) (m : Msg) (dead : Bool) : State :=
  let l := m.launch
  let cls := if dead then 255 else m.cls
  let e := s.classOf l cls
  let o := objectEntry s c l m.slot
  let off := if dead || m.slot = 0xFFFF then 0 else o.2.2
  let obj : Word := if dead || m.slot = 0xFFFF then 0 else word (scratchKey c off)
  let cont := !dead && m.len == 9
  let tag := s.follow m.tag
  let sl := (s.slotAt c t).begin s l (s.rankOf l c) cls (if cont then .continuation else .message) e
  let sl := { sl with
    msgSrc := word (m.srcDev * 2 ^ 13 + m.srcCore), msgHdr := m.hi, msgSlot := msgSlotWord m dead off
    excl := if !dead && e.excl && m.slot != 0xFFFF then some m.slot else none
    payload := if cont then [] else m.words
    hypCur := if cont || e.inherit then tag else 0
    win := firstFrame (if cont then m.words.take 8 else [m.dest, obj]) }
  let s' := s.setSlotAt c t sl
  let s' := if cont then
      let k := declaredFrame s' c t e.entry
      let s' := s'.modSlotAt c t fun sl => { sl with
        pc := m.words.getD 8 0, entry := false, win := { sl.win with k := k.getD 32 } }
      if (k.getD 0) < 8 then takeTrapAt s' c t { cause := .frame, info := word (k.getD 0) } else s'
    else s'
  if !dead && m.top != s.topBit l && (s'.slotAt c t).shadow.isNone then
    takeTrapAt s' c t { cause := .fmtMismatch, info := m.hi }
  else s'

/-- The message leaves the hardware queue. -/
def takeQueued (s : State) (c : Nat) (q : Queued) : State :=
  refillQueue (s.modCore c fun k => { k with hwq := k.hwq.filter fun x => x.arrival != q.arrival }) c

/-- Counts a dead letter on its core and for its launch (R41). (DEDUCED, log 48) -/
def countDead (s : State) (c l : Nat) : State :=
  (s.modCore c fun k => { k with deadCount := k.deadCount + 1 }).modLaunch l fun x => { x with dead := x.dead + 1 }

/-- Puts a message's words into a channel's buffer (R371). -/
def handOver (s : State) (c t st : Nat) (m : Msg) : State :=
  s.modSlotAt c t fun sl => { sl with
    binds := match sl.binds.getD st .unbound with
      | .chan cls ms => padSet .unbound sl.binds st (.chan cls (ms ++ [(m.hi, m.top != s.topBit m.launch, false, m.words)]))
      | _ => sl.binds }

/-- Carries out the fate of a message; it leaves flight (R152). -/
def carryOut (s : State) (c : Nat) (q : Queued) (f : Fate) : State :=
  let m := q.msg
  let l := m.launch
  match f with
  | .passedOver => s
  | .dropped =>
    ((takeQueued s c q).modLaunch l fun x => { x with orphans := x.orphans + 1 }).inflight l (dieOf c) (-1)
  | .handed t st => (handOver (takeQueued s c q) c t st m).inflight l (dieOf c) (-1)
  | .started t false => startTask ((takeQueued s c q).inflight l (dieOf c) (-1)) c t m false
  | .started t true =>
    let s := (countDead (takeQueued s c q) c l).inflight l (dieOf c) (-1)
    if (s.classOf l 255).present then startTask s c t m true else s.countDiscard l 1

/-- A launch with GANG set: all its cores hold it before any of them dispatches (R201). -/
def gangReady (s : State) (l : Nat) : Bool :=
  match s.launch? l with
  | some x => bitsOf (x.lr.getD 0 0).toNat 0 0 == 0 || x.cores.all fun c => (s.core c).resident == some l
  | none => false

/-- The core may dispatch messages of its resident launch and start its range tasks: nothing goes ahead of them (R211,
R179), no cut (R155), slice end (R204), save (R220), Quench (R176), failure or fence holds them, and its hearth has left its idle
state (R284). -/
def mayDispatch (s : State) (c : Nat) : Bool :=
  let k := s.core c
  let h := s.hearth (c / 8)
  s.boot == .running && !h.fenced && !h.dispatchStopped && k.endedTraps.isEmpty && !k.wrapupOwed && !k.cutWait &&
    !k.sliceEnded && k.draining.isNone && awake s (c / 8) && match k.resident with
      | some l => !s.deaf l && gangReady s l
      | none => false

/-- A wrap-up task owed to a core takes its next free slot, ahead of any dispatch (R179): of a gang once all its cores hold it
(R201), and once the hearth has left its idle state (R284). (DEDUCED, log 51) -/
def startWrapup (s : State) (c : Nat) : State :=
  let k := s.core c
  match k.wrapupOwed, k.resident, freeSlot k with
  | true, some l, some t =>
    if !gangReady s l || !awake s (c / 8) then s else
    let e := s.classOf l (s.qclass l)
    let cause := match s.launch? l with
      | some x => x.quench.getD 0
      | none => 0
    let sl := (k.slot t).begin s l (s.rankOf l c) (s.qclass l) .wrapup e
    let sl := { sl with
      wrapup := true, quenchCause := cause, quenchLeft := s.qbudget l, wdog := s.qbudget l
      win := firstFrame [word (coreHandle c)] }
    (s.modCore c fun k => { k with wrapupOwed := false }).setSlotAt c t sl
  | _, _, _ => s

/-- MESSAGE_DISPATCH (R47): one message. (DEDUCED, log 5) -/
def execMessageDispatch (s : State) : Host.Outcome State Fault Refusal :=
  let c := s.ev.core
  let s := if (s.core c).hwq.isEmpty && !(s.core c).wrapupOwed then s else rouse s (c / 8)
  .next (if !mayDispatch s c then startWrapup s c
    else match bestMessage s c (s.core c).hwq with
      | none => s
      | some (q, f) =>
        (wakeHearth (carryOut s c q f) (c / 8)).pokeAll
          [⟨.messageDispatch, { core := c }⟩, ⟨.launchQuiescent, { launch := q.msg.launch }⟩])

/-- PRIORITY_AGING (R47): another 2^16 cycles of waiting. -/
def execPriorityAging (s : State) : Host.Outcome State Fault Refusal :=
  let id := s.ev.id
  .next (s.modCore s.ev.core fun k => { k with
    hwq := k.hwq.map fun q =>
      if q.arrival == id && q.since + 2 ^ 16 * (q.aged + 1) ≤ s.cycle then { q with aged := q.aged + 1 } else q
    ring := k.ring.map fun q =>
      if q.1 == id && q.2.1 + 2 ^ 16 * (q.2.2 + 1) ≤ s.cycle then (q.1, q.2.1, q.2.2 + 1) else q })

end Sys2Proof.Machine
end

