-- ==== Sys2Proof/Machine/Context.lean ====
section
/-! DEFINITION. Contexts of launches on cores: what a context holds (R219), loading and saving it (R220-R222), the hearth's
holder (R218), and slices (R202-R204). -/

namespace Sys2Proof.Machine

/-! ### Loading and saving -/

/-- The ranges of a core's scratchpad as it now is. -/
def scratchLo (c : Nat) : Nat := scratchKey c 0
def scratchHi (c lsplit : Nat) : Nat := scratchKey c (splitBytes lsplit)

/-- The hearth-held state of the holder, with the pool, as it is saved (R219, R221). `map` is the chunk map. -/
def heldNow (s : State) (h : Nat) (map : List Nat) : SavedHeld :=
  let lo := sramKey h 8 0
  let hi := sramKey h 8 Config.poolBytes
  { held := (s.hearth h).held, pool := (memRange s.mem lo hi).map fun b => (b.1 - lo, b.2)
    poison := s.poison.filter fun g => decide (lo ≤ 64 * g) && decide (64 * g < hi)
    seq := (s.hearth h).heldSeq + 1, chunkMap := map }

/-- The hearth may take an ASID: it holds it already, or no core of it holds a context of the holder (R218). -/
def holderFree (s : State) (h asid : Nat) : Bool :=
  match (s.hearth h).holder with
  | none => true
  | some a => a == asid || !([0, 1, 2, 3, 4, 5, 6, 7].any fun i =>
      (s.core (8 * h + i)).resident.isSome && (s.core (8 * h + i)).residentAsid == a)

/-- The pool of a hearth holds what is listed, and no other byte. -/
def setPool (s : State) (h : Nat) (pool : List (Nat × Byte)) (poison : List Nat) : State :=
  let lo := sramKey h 8 0
  let hi := sramKey h 8 Config.poolBytes
  { s with
    mem := memRestore (memClear s.mem lo hi) (pool.map fun b : Nat × Byte => (lo + b.1, b.2))
    poison := (s.poison.filter fun g => !(decide (lo ≤ 64 * g) && decide (64 * g < hi))) ++ poison }

/-- A launch of the ASID is live on the hearth. -/
def asidLives (s : State) (h asid : Nat) : Bool := s.launches.any fun p => s.asidOf p.1 == asid && s.hearthIn p.1 h

/-- The save areas of a hearth's holders once one has its own (R221): a free one, or that of an ASID of which no launch is
live on the hearth any more; at most 64 have one. -/
def withArea (s : State) (h asid : Nat) (x : Hearth) : Hearth :=
  if (tget x.areas asid).isSome then x
  else match freeArea x.areas 64 with
    | some i => { x with areas := tset x.areas asid i }
    | none =>
      match x.areas.find? fun p => !asidLives s h p.1 with
      | some p => { x with areas := tset (tdel x.areas p.1) asid p.2, savedHeld := tdel x.savedHeld p.1 }
      | none => x

/-- The holder's state is saved (R218, R221): the hearth is no one's. Without an area, which only a holder without live launches
can lack, the state is not kept. -/
def saveHolder (s : State) (h : Nat) (map : List Nat) : State :=
  match (s.hearth h).holder with
  | none => s
  | some a =>
    let y := heldNow s h map
    let s := s.modHearth h (withArea s h a)
    let kept := (tget (s.hearth h).areas a).isSome
    let s := if kept then writeHeld s h a y else s
    (setPool s h [] []).modHearth h fun x => { x with
      held := {}, holder := none, heldSeq := 0
      savedHeld := if kept then tset x.savedHeld a y else tdel x.savedHeld a }

/-- HOLDER_SWITCH (R218): a hearth that is no one's takes an ASID's state from its save (R222); a new holder's pool reads 0. -/
def takeHolder (s : State) (h asid : Nat) : State :=
  if (s.hearth h).holder == some asid then s
  else
    let new := readHeld s h asid ((tget (s.hearth h).savedHeld asid).getD {})
    (setPool s h new.pool new.poison).modHearth h fun x => { x with
      held := new.held, holder := some asid, heldSeq := new.seq, savedHeld := tdel x.savedHeld asid }

/-- Slots of a core take a context's `WIN.SPILL`, `TRAP.VEC` and `TRAP.STACK` (R198, R212). -/
def loadSlots (l rank asid : Nat) (x : Saved) : Table Slot :=
  [0, 1, 2, 3].map fun t =>
    let sp := x.spill.getD t (0, 0)
    let tr := x.traps.getD t (0, 0)
    (t, ({ launch := l, rank := rank, asid := asid, spillCount := sp.1, spillBase := sp.2, trapVec := tr.1
           trapStack := tr.2 } : Slot))

/-- Tongs commands recorded at a save are issued again whole; their completions are discarded (R220). -/
def reissue (s : State) (c : Nat) (cs : List Command) : State :=
  cs.foldl (fun s x =>
    let id := s.nextId
    let x := { x with done := 0, fault := none, complete := false, asked := [], reply := [], orphaned := true }
    (s.fresh.modCore c fun k => { k with commands := tset k.commands id x }).poke
      ⟨.tongsElementReply, { core := c, id := id }⟩) s

/-- The length of a launch's slice on a core, less the debt of its ASID; a debt above one slice carries over (R203,
R204). -/
def sliceOf (k : Core) (asid : Nat) : Nat × Nat :=
  let d := (tget k.debts asid).getD 0
  (Config.slice - min d Config.slice, d - Config.slice)

/-- Makes a context resident, with the contents that its save gives. (DEDUCED, log 34; DEDUCED, log 49) -/
def loadContext (s : State) (c l : Nat) (x : Saved) : State :=
  let x := readContext s c l x
  let s := fitL1 (takeHolder s (c / 8) x.asid) c x.lsplit
  let lo := scratchLo c
  let hi := scratchKey c Config.coreSram
  let s := { s with
    mem := memRestore (memClear s.mem lo hi) (x.scratch.map fun b : Nat × Byte => (lo + b.1, b.2))
    poison := (s.poison.filter fun g => !(decide (lo ≤ 64 * g) && decide (64 * g < hi))) ++ x.poison }
  let (cm, cc, cq, ct, cw) := x.cvg
  let waiting := match s.launch? l with
    | some y => y.cut.inProgress && natMem y.cut.waiting c
    | none => false
  let rank := s.rankOf l c
  let aged := fun since : Nat => (s.cycle - since) / 2 ^ 16
  let s := s.modCore c fun k =>
    let sl := sliceOf k x.asid
    { k with
      resident := some l, residentAsid := x.asid, saved := tdel k.saved l
      slots := loadSlots l rank x.asid x
      lsplit := x.lsplit, arrLimit := x.arrLimit, ovfBase := x.ovfBase, ovfSize := x.ovfSize
      ringHead := x.ringHead
      ring := x.ring.map (fun q : Nat × Nat × Nat => (q.1, q.2.1, aged q.2.1))
      hwq := x.hwq.map (fun q : Queued => { q with aged := aged q.since })
      deadCount := x.deadCount, spawnLimit := x.spawnLimit
      cvgMax := cm, cvgCount := cc, cvgQuiet := cq, cvgThresh := ct, cvgWindow := cw
      fmtWin := x.fmtWin, cutWait := waiting, wrapupOwed := x.wrapupOwed, tiles := x.tiles, journalSel := 0
      saveSeq := x.seq
      sliceLeft := sl.1, debts := tset k.debts x.asid sl.2
      sliceEnded := false, overrun := 0, idle := 0, draining := none }
  (startWrapup (refillQueue (reissue s c x.tongs) c) c).pokeAll
    [⟨.messageDispatch, { core := c }⟩, ⟨.cutCopyPoint, { launch := l, core := c }⟩, ⟨.rangeTaskStart, { core := c }⟩,
      ⟨.rangeHandout, { core := c }⟩]

/-- The context of the resident launch as it is saved (R219, R221). `map` is the chunk map. (DEDUCED, log 49) -/
def contextOf (s : State) (c : Nat) (seq : Nat) (map : List Nat) : Saved :=
  let k := s.core c
  let lo := scratchLo c
  let hi := scratchHi c k.lsplit
  { asid := k.residentAsid, seq := seq, chunkMap := map
    scratch := (memRange s.mem lo hi).map fun b => (b.1 - lo, b.2)
    poison := s.poison.filter fun g => decide (lo ≤ 64 * g) && decide (64 * g < hi)
    hwq := k.hwq, lsplit := k.lsplit, arrLimit := k.arrLimit, ovfBase := k.ovfBase, ovfSize := k.ovfSize
    ringHead := k.ringHead, ring := k.ring, deadCount := k.deadCount, spawnLimit := k.spawnLimit
    cvg := (k.cvgMax, k.cvgCount, k.cvgQuiet, k.cvgThresh, k.cvgWindow), fmtWin := k.fmtWin
    spill := [0, 1, 2, 3].map fun t => ((k.slot t).spillCount, (k.slot t).spillBase)
    traps := [0, 1, 2, 3].map fun t => ((k.slot t).trapVec, (k.slot t).trapStack)
    tongs := k.commands.map (·.2), tiles := k.tiles, wrapupOwed := k.wrapupOwed }

/-- A core without a resident context (R74): its registers hold what they hold after reset. A kernel trap context of another launch
stays. -/
def Core.vacate (k : Core) : Core :=
  { k with
    resident := none
    slots := (k.slots.filter fun p => p.2.held).map fun p => (p.1, { p.2 with back := some {} })
    lsplit := 0, arrLimit := 32, ovfBase := 0, ovfSize := 0, deadCount := 0, spawnLimit := 16
    cvgMax := 0, cvgCount := 0, cvgQuiet := 0, cvgThresh := 0, cvgWindow := 0, fmtWin := List.replicate 15 0
    hwq := [], ring := [], ringHead := 0, commands := [], cutWait := false
    wrapupOwed := false, tiles := [], sliceEnded := false, overrun := 0, idle := 0, draining := none, journalSel := 0
    saveSeq := 0 }

/-- The resident context leaves a core: its L1 portion is given up (R74, R113). -/
def vacateCore (s : State) (c : Nat) : State := (fitL1 s c 0).modCore c Core.vacate

/-- A core's scratchpad is given to the next context, which finds 0 in it (R221). (DESIGN CHOICE, log 1) -/
def clearScratch (s : State) (c : Nat) : State :=
  let lo := scratchLo c
  let hi := scratchKey c Config.coreSram
  { s with mem := memClear s.mem lo hi
           poison := s.poison.filter fun g => !(decide (lo ≤ 64 * g) && decide (64 * g < hi)) }

/-- The save itself (R219-R221): both copies of every chunk are written, the context leaves the core, and its overrun is added
to the debt (R204). -/
def doSave (s : State) (c l : Nat) (map : List Nat) : State :=
  let k := s.core c
  let x := contextOf s c (k.saveSeq + 1) map
  let debt := (tget k.debts x.asid).getD 0 + k.overrun
  ((clearScratch (vacateCore (writeContext s c l x) c) c).modCore c fun k => { k with
    saved := tset k.saved l x, debts := tset k.debts x.asid debt
    lastHeld := tset k.lastHeld l s.cycle }).poke ⟨.contextRestore, { core := c }⟩

/-! ### Slices (R203, R204) -/

/-- SLICE_EXPIRY (R203). -/
def execSliceExpiry (s : State) : Host.Outcome State Fault Refusal :=
  let k := s.core s.ev.core
  .next (if k.resident.isSome && !k.sliceEnded && k.sliceLeft == 0 then endSlice s s.ev.core else s)

/-- SLICE_IDLE_END (R203): 256 cycles with no task and no message. -/
def execSliceIdleEnd (s : State) : Host.Outcome State Fault Refusal :=
  let k := s.core s.ev.core
  .next (if k.resident.isSome && !k.sliceEnded && decide (256 ≤ k.idle) then endSlice s s.ev.core else s)

/-- No task of the launch holds a slot, its posted stores and those that wait for their lines are settled (R219), and no
Anvil operation of the core is under
way (R220). -/
def maySave (s : State) (c l : Nat) : Bool :=
  let k := s.core c
  !k.busy && k.endedTraps.isEmpty && !(k.journal.any fun j => j.used && !j.refused && j.launch == l) &&
    !(s.remotes.any fun p => p.2.core == c && p.2.kind.isLine) &&
    k.lanes.isEmpty && k.bound.isEmpty && k.transfers.isEmpty && !((s.hearth (c / 8)).ops.any (·.core == c))

/-- A new slice for the launch that stays. (DEDUCED, log 49) -/
def renewSlice (s : State) (c : Nat) : State :=
  (s.modCore c fun k =>
    let d := (tget k.debts k.residentAsid).getD 0 + k.overrun
    { k with sliceEnded := false, sliceLeft := Config.slice - min d Config.slice
             debts := tset k.debts k.residentAsid (d - Config.slice), overrun := 0, idle := 0, draining := none }).poke
    ⟨.messageDispatch, { core := c }⟩

/-- The launch's fire time, when it has a deadline (R173). -/
def State.fire? (s : State) (l : Nat) : Option Nat :=
  match s.launch? l with
  | some x => if x.lr.getD 16 0 = 0 then none else some (fireTime x.lr)
  | none => none

/-- Less slack: the earlier fire time; no deadline ranks last (R185). (DESIGN CHOICE, log 84) -/
def lessSlack (a b : Option Nat) : Bool :=
  match a, b with
  | some x, some y => decide (x < y)
  | some _, none => true
  | _, _ => false

/-- A saved-out launch has work on a core: a message, a range tile of its die, a wrap-up task or a cut's copy owed to
it. (DEDUCED, log 49) -/
def hasWork (s : State) (c l : Nat) (x : Saved) : Bool :=
  !x.hwq.isEmpty || !x.ring.isEmpty || x.wrapupOwed || !x.tongs.isEmpty || !x.tiles.isEmpty ||
    match s.launch? l with
    | some y =>
      let r := y.ranges.getD (dieOf c) (0, 0)
      decide (r.1 < r.2) || (y.cut.inProgress && natMem y.cut.waiting c)
    | none => false

/-- A gang whose turn has come, and that waits for its cores to be free (R201). -/
def State.called (s : State) (l : Nat) : Bool :=
  match s.launch? l with
  | some x => x.called
  | none => false

/-- A launch of a core goes before one of a core, by the keys of R203; among those of one class a gang whose turn has come waits for
no other (R201). Of two that are equal in every key neither goes before. (DEDUCED, log 49; DEDUCED, log 53) -/
def ranksBefore (s : State) (a b : Nat × Nat) : Bool :=
  let held := fun p : Nat × Nat => (tget (s.core p.1).lastHeld p.2).getD 0
  if s.prioOf a.2 ≠ s.prioOf b.2 then decide (s.prioOf b.2 < s.prioOf a.2)
  else if s.called a.2 != s.called b.2 then s.called a.2
  else if lessSlack (s.fire? a.2) (s.fire? b.2) then true
  else if lessSlack (s.fire? b.2) (s.fire? a.2) then false
  else decide (held a < held b)

/-- The launch that a core's slice goes to next, by the keys of R203: of those with work, or gangs whose turn has come; with none of
them, one that has not been resident yet. Of launches equal in every key, the lowest-numbered.
(DEDUCED, log 49; DESIGN CHOICE, log 79) -/
def nextContext (s : State) (c : Nat) : Option (Nat × Saved) :=
  let k := s.core c
  let able := k.saved.filter fun p => natMem k.assigned p.1 && !p.2.faulted
  let busy := able.filter fun p => hasWork s c p.1 p.2 || s.called p.1
  match if busy.isEmpty then able.filter fun p => p.2.seq == 0 else busy with
  | [] => none
  | p :: r => some (r.foldl (fun a b => if ranksBefore s (c, b.1) (c, a.1) then b else a) p)

/-- The cores of a hearth that no context holds and that may take one. -/
def freeCores (s : State) (h : Nat) : List Nat :=
  ([0, 1, 2, 3, 4, 5, 6, 7].map (8 * h + ·)).filter fun c =>
    (s.core c).resident.isNone && (s.core c).endedTraps.isEmpty && !(s.core c).busy

/-- A free core of the hearth waits for a launch of another ASID than `asid` (R218). -/
def hearthWanted (s : State) (h asid : Nat) : Bool :=
  (freeCores s h).any fun c => (nextContext s c).any fun p => p.2.asid != asid

/-- A launch leaves the hearth to a launch of another ASID that goes before it and waits on a free core there (R203, R218).
(DEDUCED, log 49) -/
def yields (s : State) (c l asid : Nat) : Bool :=
  (freeCores s (c / 8)).any fun e => (nextContext s e).any fun p => p.2.asid != asid && ranksBefore s (e, p.1) (c, l)

/-- The chunk map that an event gives for the save of the `i`-th context it moves: which copies had to be moved to the third block
(R221). -/
def State.chunkMap (s : State) (i : Nat) : List Nat := ((s.ev.bytes.drop (256 * i)).take 256).map (·.toNat)

/-- The core's context of the launch may be saved now: its slice has ended, it has settled, and its Tongs commands are complete or
have had their allowance (R219, R220). -/
def savable (s : State) (c l : Nat) : Bool :=
  let k := s.core c
  k.resident == some l && k.sliceEnded && maySave s c l &&
    (k.commands.isEmpty || match k.draining with
      | some t => decide (t + Config.drainAllowance ≤ s.cycle)
      | none => false)

/-- The contexts that are switched out with a core's are saved, once all of them may be: a gang's leave its cores together (R201).
Where some chunk could not be written twice (the event's flag), they stay resident, and the save is tried again at the next slice
end (R221). -/
def saveOrStay (s : State) (c l : Nat) : State :=
  let cs := sliceCores s c
  if !cs.all fun c => savable s c l then s
  else if s.ev.flag then cs.foldl renewSlice s
  else cs.zipIdx.foldl (fun s p => doSave s p.1 l (s.chunkMap p.2)) s

/-- The launch goes on with a new slice on the cores whose slices end together: no other launch is assigned to them, and no core of
their hearths waits for another ASID. -/
def goesOn (s : State) (c l : Nat) : Bool :=
  (sliceCores s c).all fun c => (s.core c).assigned.all (· == l) && !hearthWanted s (c / 8) (s.asidOf l)

/-- CONTEXT_SAVE (R219): the save begins, and waits for Tongs commands up to the drain allowance. -/
def execContextSave (s : State) : Host.Outcome State Fault Refusal :=
  let c := s.ev.core
  let k := s.core c
  .next (match k.resident with
    | none => s
    | some l =>
      if !k.sliceEnded || !maySave s c l then s
      else if goesOn s c l then (sliceCores s c).foldl renewSlice s
      else if !k.commands.isEmpty && k.draining.isNone then s.modCore c fun k => { k with draining := some s.cycle }
      else saveOrStay s c l)

/-- TONGS_DRAIN_EXPIRY (R220): the commands still incomplete are aborted and recorded in the save. -/
def execTongsDrainExpiry (s : State) : Host.Outcome State Fault Refusal :=
  let c := s.ev.core
  .next (match (s.core c).resident with
    | some l => saveOrStay s c l
    | none => s)

/-! ### The next resident launch (R203, R222) -/

/-- RESTORE is raised in a kernel trap context on the core: the failing granule's address and the launch; the host is told and
a record logged (R222). -/
def raiseRestore (s : State) (c l seq addr asid : Nat) : State :=
  let s := s.modCore c fun k => { k with endedTraps := k.endedTraps ++ [(Cause.restore.code, word addr, word l, l)] }
  ((s.notify (.restoreFailed c l)).logRas (rasOfCore 9 c (some l) asid (detail seq 0 0 0))).poke
    ⟨.endedTaskTrapContext, { core := c }⟩

/-- RESTORE_FAILURE (R222): nothing of the context runs, it is marked faulted, and its launch ends FAULTED. -/
def restoreFailure (s : State) (c l : Nat) (x : Saved) (addr : Nat) : State :=
  let s := s.modCore c fun k => { k with saved := tset k.saved l { x with faulted := true } }
  (raiseRestore s c l x.seq addr x.asid).failLaunch l 3

/-- A failed hearth restore faults every launch of the holder's ASID that has a rank on the hearth (R222). -/
def heldFailure (s : State) (c l : Nat) (x : Saved) (addr : Nat) : State :=
  let h := c / 8
  let seq := ((tget (s.hearth h).savedHeld x.asid).getD {}).seq
  let s := s.modHearth h fun y => { y with savedHeld := tdel y.savedHeld x.asid }
  let s := ([0, 1, 2, 3, 4, 5, 6, 7].map (8 * h + ·)).foldl (fun s c => s.modCore c fun k => { k with
    saved := tmap (fun _ (y : Saved) => if y.asid == x.asid then { y with faulted := true } else y) k.saved }) s
  let s := raiseRestore s c l seq addr x.asid
  (s.launches.filter fun p => s.asidOf p.1 == x.asid && s.hearthIn p.1 h).foldl (fun s p => s.failLaunch p.1 3) s

/-- Restores a context (R222): once the hearth is the ASID's (R218), each granule of its save and of its holder's must verify from
one copy or the other. `map` is the chunk map of the old holder's save. -/
def restoreContext (s : State) (c l : Nat) (x : Saved) (map : List Nat) : State :=
  let h := c / 8
  let same := (s.hearth h).holder == some x.asid
  let s := if same then s else saveHolder s h map
  match if same then none else heldFailureAt s h x.asid ((tget (s.hearth h).savedHeld x.asid).getD {}) with
  | some a => heldFailure s c l x a
  | none => match contextFailure s c l x with
    | some a => restoreFailure s c l x a
    | none => loadContext s c l x

/-- A core may take a context: it has none, no kernel trap context has a slot of it or is owed one, and its hearth dispatches. -/
def coreFree (s : State) (c : Nat) : Bool :=
  let k := s.core c
  let h := s.hearth (c / 8)
  k.resident.isNone && k.endedTraps.isEmpty && !k.busy && !h.dispatchStopped && !h.fenced

/-- A free core takes the context of a launch now: it is the core's next, and the hearth is the ASID's or may become so, unless some
chunk of the old holder's state could not be written twice (the event's flag): then the hearth stays that holder's (R221). -/
def mayTake (s : State) (c l asid : Nat) : Bool :=
  coreFree s c && (nextContext s c).any (fun p => p.1 == l) && holderFree s (c / 8) asid && !yields s c l asid &&
    !(s.ev.flag && (s.hearth (c / 8)).holder != some asid)

/-! ### Gangs in turn (R201) -/

/-- Another gang that waits for a core: those of lower class give way. (DEDUCED, log 53) -/
def otherGang (s : State) (c l : Nat) : Bool :=
  (s.core c).assigned.any fun g => g != l && s.called g && decide (s.prioOf l ≤ s.prioOf g)

/-- A gang's turn: all its contexts are switched in together once every core of it is free and has no launch that goes before; till
then the slices of launches of lower class that stand on its cores end, unless another gang is waited for there.
(DEDUCED, log 53) -/
def gangTurn (s : State) (l : Nat) : State :=
  match s.launch? l with
  | none => s
  | some x =>
    if x.cores.any fun c => otherGang s c l then s
    else
      let s := s.modLaunch l fun x => { x with called := true }
      if x.cores.all fun c => (s.core c).resident == some l || mayTake s c l (s.asidOf l) then
        let s := x.cores.zipIdx.foldl (fun s p => match (s.core p.1).resident, tget (s.core p.1).saved l with
          | none, some y => restoreContext s p.1 l y (s.chunkMap p.2)
          | _, _ => s) (s.modLaunch l fun x => { x with called := false })
        x.cores.foldl startWrapup s
      else x.cores.foldl (fun s c => preempt s c l) s

/-- A free core takes its next context, and a gang's cores take theirs together. -/
def takeContext (s : State) (c : Nat) : State :=
  match nextContext s c with
  | none => s
  | some (l, x) =>
    if bitsOf (s.lr l 0).toNat 0 0 = 1 then gangTurn s l
    else if mayTake s c l x.asid then restoreContext s c l x (s.chunkMap 0)
    else s

/-- The same, where the core is free. -/
def fillCore (s : State) (c : Nat) : State := if coreFree s c then takeContext s c else s

/-- CONTEXT_RESTORE (R222, R203). -/
def execContextRestore (s : State) : Host.Outcome State Fault Refusal := .next (fillCore s s.ev.core)

end Sys2Proof.Machine
end

