-- ==== Sys2Proof/Machine/Launch.lean ====
section
/-! DEFINITION. Launches: acceptance and rejection (R51-R54, R173, R197), placement and gangs (R53, R197, R201), launch start
(R54, R149, R174, R198, R199), ranges (R56, R200), the firing of a Quench (R175), quiescence and the end (R51, R183). -/

namespace Sys2Proof.Machine

/-! ### Checks of a launch record (R51) -/

/-- Every page of a region passes a check on its leaf and its target, under an ASID. -/
def regionOk (s : State) (asid : Nat) (p : Leaf → Target → Bool) (va : Nat) : Nat → Bool
  | 0 => true
  | n + 1 =>
    (match walk s asid (va % 2 ^ 64) with
      | .error _ => false
      | .ok l => match targetOf s l (va % 2 ^ 64) with
        | .ok t => p l t
        | .error _ => false) && regionOk s asid p (va / 2 ^ 16 * 2 ^ 16 + 2 ^ 16) n

/-- Pages of 64 KiB that `n` bytes from an address on touch. -/
def pagesOf (va n : Nat) : Nat := if n = 0 then 0 else (va + n - 1) / 2 ^ 16 + 1 - va / 2 ^ 16

def readable (l : Leaf) (t : Target) : Bool :=
  permOk .load false l.pte && match t with
    | .peer _ _ => false
    | _ => true

def writable (l : Leaf) (t : Target) : Bool :=
  permOk .store false l.pte && match t with
    | .peer _ _ => false
    | _ => true

def writableCached (l : Leaf) (t : Target) : Bool :=
  permOk .store false l.pte && leafCacheable l && match t with
    | .hbm _ => true
    | _ => false

def readOk (s : State) (asid va n : Nat) : Bool := regionOk s asid readable va (pagesOf va n)
def writeOk (s : State) (asid va n : Nat) : Bool := regionOk s asid writable va (pagesOf va n)

/-- Tasks that one domain of a kind holds (R52). -/
def kindTasks (kind : Nat) : Nat :=
  match kind with
  | 0 => 1
  | 1 => 4
  | 2 => 32
  | 3 => 512
  | 4 => 8192
  | _ => 32768

/-- The level descriptors of a list are consistent (R52): kinds rise and each instance holds whole instances of the level
below. -/
def levelsRise : List Nat → Nat → Nat → Bool
  | [], _, _ => true
  | b :: r, kind, tasks =>
    let t := kindTasks (b / 32) * 2 ^ (b % 32)
    decide (kind ≤ b / 32) && b / 32 != 6 && t % tasks == 0 && levelsRise r (b / 32) t

/-- The levels and ranks of a record agree (R52). -/
def levelsOk (levels ranks : Nat) : Bool :=
  if levels = 0 then decide (1 ≤ ranks) && decide (ranks ≤ 8192)
  else
    let bytes := (List.range 8).map (levelByte levels)
    let n := levelCount levels
    n != 0 && levelsRise (bytes.take n) 0 1 && ((bytes.drop (n + 1)).all fun b => b == 0xFF) &&
      levelCores (levelByte levels (n - 1)) == ranks && decide (ranks ≤ 8192)

/-- The scratchpad areas a record lays out: first byte and end (R51). -/
def recordAreas (lr : List Word) : List (Nat × Nat) :=
  let f := fun i => (lr.getD i 0).toNat
  let tab := bitsOf (f 4) 16 0
  let ovf := bitsOf (f 12) 48 32
  let win := bitsOf (f 14) 16 0
  [(0, 0x100), (tab, tab + 8 * bitsOf (f 4) 47 32), (ovf, ovf + 96 * bitsOf (f 12) 23 8),
   (win, win + 4 * 208 * bitsOf (f 14) 39 32)].filter fun a => decide (a.1 < a.2)

/-- No two areas overlap. -/
def apart : List (Nat × Nat) → Bool
  | [] => true
  | a :: r => (r.all fun b => decide (a.2 ≤ b.1) || decide (b.2 ≤ a.1)) && apart r

/-- The kernel descriptor of an ASID: vector, stack base and stride, when it breaks no rule (R212); its zero fields are not looked
at (R4). (DEDUCED, log 52) -/
def kernelDesc (s : State) (asid : Nat) : Option (Word × Nat × Nat) :=
  let hi := (asidEntry s asid).2
  let a := bitsOf hi 51 6 * 64
  let w := fun i => memNat s.mem (a + 8 * i) 8
  if hi % 2 = 0 || Config.hbmBytes < a + 64 || poisoned s.poison a 64 then none
  else if w 0 % 2 ≠ 0 || w 1 % 64 ≠ 0 || w 2 % 64 ≠ 0 || bitsOf (w 2) 31 0 < 1024 then none
  else some (word (w 0), w 1, bitsOf (w 2) 31 0)

/-- The word at an index of a byte list. -/
def wordIn (b : List Byte) (off : Nat) : Nat := leNat ((b.drop off).take 8)

/-- The shape record of a launch record (R54). -/
def shapeRecord (s : State) (lr : List Word) : Option (List Byte) :=
  partRead s (bitsOf (lr.getD 2 0).toNat 13 0) (lr.getD 7 0).toNat 0x90

/-- The shape is consistent with the ranks (R54). (DEDUCED, log 52) -/
def shapeOk (b : List Byte) (ranks : Nat) : Bool :=
  let d := wordIn b 0 % 16
  let dims := List.range d
  decide (1 ≤ d) && decide (d ≤ 4) && (dims.all fun i => wordIn b (0x18 + 32 * i) != 0) &&
    (dims.map fun i => bitsOf (wordIn b (0x20 + 32 * i)) 31 16).foldl (· * ·) 1 == ranks

/-- The tile counts T = ceil(E / S) of the dimensions (R54). -/
def tileCountsOf (b : List Byte) : List Nat :=
  (List.range (wordIn b 0 % 16)).map fun i => ceilDiv (wordIn b (0x10 + 32 * i)) (wordIn b (0x18 + 32 * i))

/-- An entry of the placement list: rank, slot, image, length and offset (R199). -/
def placeEntry (b : List Byte) : Nat × Nat × Nat × Nat × Nat :=
  let d0 := wordIn b 0
  let d2 := wordIn b 16
  (bitsOf d0 12 0, bitsOf d0 47 32, wordIn b 8, bitsOf d2 47 32, bitsOf d2 16 0)

/-- `n` records of `size` bytes from an address on; none when a read faults. -/
def readRecords (s : State) (asid va size : Nat) : Nat → Option (List (List Byte))
  | 0 => some []
  | n + 1 =>
    match partRead s asid va size, readRecords s asid (va + size) size n with
    | some b, some r => some (b :: r)
    | _, _ => none

/-- A counted list of records: a 64-bit count and then the records. -/
def countedList (s : State) (asid va size : Nat) : Option (List (List Byte)) :=
  if va = 0 then some []
  else match partWord s asid va with
    | none => none
    | some n => if readOk s asid (va + 8) (size * n.toNat) then readRecords s asid (va + 8) size n.toNat else none

/-- A part of a counted list that the part cannot read yet (R255, R284). -/
def listAway (s : State) (asid va size : Nat) : Option Nat :=
  if va = 0 then none
  else match regionAway s asid va 8 with
    | some k => some k
    | none => match partWord s asid va with
      | none => none
      | some n => if readOk s asid (va + 8) (size * n.toNat) then regionAway s asid (va + 8) (size * n.toNat) else none

/-- A part of what a launch record has the part read, and that it cannot read yet. -/
def recordAway (s : State) (asid : Nat) (lr : List Word) : Option Nat :=
  let f := fun i => (lr.getD i 0).toNat
  let images := fun _ : Unit => ((countedList s asid (f 5) 32).getD []).findSome? fun e =>
    let (_, _, img, len, _) := placeEntry e
    regionAway s asid img len
  regionAway s asid (f 3) 4096 <|> (if f 7 = 0 then none else regionAway s asid (f 7) 0x90) <|>
    listAway s asid (f 5) 32 <|> listAway s asid (f 6) 96 <|> images ()

/-- A placement entry that rejects its launch (R54, R199). -/
def placeBad (s : State) (lr : List Word) (b : List Byte) : Bool :=
  let (rank, slot, img, len, off) := placeEntry b
  decide (bitsOf (lr.getD 10 0).toNat 13 0 ≤ rank) || decide (bitsOf (lr.getD 4 0).toNat 47 32 ≤ slot) ||
    decide (splitBytes (bitsOf (lr.getD 11 0).toNat 3 0) < off + len) || (len != 0 && decide (off < 0x100)) ||
    (partRead s (bitsOf (lr.getD 2 0).toNat 13 0) img len).isNone

/-- The fields that load registers hold values the registers take (R51). (DEDUCED, log 52) -/
def fieldsOk (lr : List Word) : Bool :=
  let f := fun i => (lr.getD i 0).toNat
  let lim := bitsOf (f 12) 5 0
  decide (bitsOf (f 11) 3 0 ≤ 8) && decide (1 ≤ lim) && decide (lim ≤ 32) && bitsOf (f 12) 48 32 % 32 == 0 &&
    decide (bitsOf (f 13) 6 0 ≤ 64) && decide (bitsOf (f 28) 2 0 ≤ 4) && decide (bitsOf (f 25) 31 0 ≤ 0x7F800000) &&
    f 27 % 64 == 0

/-- The wrap-up fields are consistent (R173). -/
def wrapupOk (s : State) (asid : Nat) (lr : List Word) : Bool :=
  let f := fun i => (lr.getD i 0).toNat
  let needs := f 16 ≠ 0 || bitsOf (f 0) 1 1 = 1
  let a := f 3 + 16 * bitsOf (f 18) 7 0
  let e := match partWord s asid a, partWord s asid (a + 8) with
    | some lo, some hi => classOfWords lo.toNat hi.toNat
    | _, _ => classOfWords 0 0
  (!needs || (e.present && !e.cont)) &&
    (bitsOf (f 21) 15 0 == 0 || (f 20 != 0 && f 20 % 8 == 0 && writeOk s asid (f 20) (8 * ceilDiv (bitsOf (f 21) 15 0) 64)))

/-- The spill area of hypotheses (R168). -/
def spillOk (s : State) (asid : Nat) (lr : List Word) : Bool :=
  let f := (lr.getD 23 0).toNat
  bitsOf (lr.getD 22 0).toNat 11 0 == 0 || regionOk s asid writableCached (f / 2 ^ 16 * 2 ^ 16) (f % 2 ^ 16)

/-- A launch record passes every check of R51 (the id of FIXID apart). (DEDUCED, log 52) -/
def recordOk (s : State) (asid ceiling : Nat) (lr : List Word) : Bool :=
  let f := fun i => (lr.getD i 0).toNat
  let ranks := bitsOf (f 10) 13 0
  bitsOf (f 2) 13 0 == asid && decide (bitsOf (f 1) 2 0 ≤ ceiling) && (kernelDesc s asid).isSome &&
    levelsOk (f 9) ranks && fieldsOk lr && f 3 % 16 == 0 && readOk s asid (f 3) 4096 &&
    ((recordAreas lr).all fun a => decide (a.2 ≤ splitBytes (bitsOf (f 11) 3 0))) && apart (recordAreas lr) &&
    (if f 7 = 0 then bitsOf (f 0) 3 3 == 0
     else match shapeRecord s lr with
       | some b => shapeOk b ranks
       | none => false) &&
    wrapupOk s asid lr && spillOk s asid lr &&
    (match countedList s asid (f 5) 32 with
      | some es => es.all fun e => !placeBad s lr e
      | none => false) &&
    (countedList s asid (f 6) 96).isSome

/-! ### The completion record (R51) -/

/-- The dwords of a completion record. -/
def recordWords (status flags dead discarded orphans time : Nat) : List Nat :=
  [status, flags % 32, dead, discarded, orphans, time, 0, 0]

/-- Writes a completion record, dword 0 last; a write that faults is logged and the host told. -/
def writeRecord (s : State) (asid : Nat) (l : Option Nat) (done : Word) (ws : List Nat) : State :=
  let ok := match partKey s asid done.toNat .store with
    | some k => !natMem s.poison (k / 64)
    | none => false
  let put := fun s off (w : Nat) => (partWrite s asid (done.toNat + off) (leBytes w 8)).getD s
  if ok then put ((List.range 7).foldl (fun s i => put s (8 * (i + 1)) (ws.getD (i + 1) 0)) s) 0 (ws.getD 0 0)
  else (s.logRas { time := 0, seq := 0, kind := 13, addr := done.toNat, launch := l, asid := asid
                   detail := detail (ws.getD 0 0) (ws.getD 1 0) (ws.getD 2 0) (ws.getD 3 0) }).notify
      (.undeliverable (l.getD 256))

/-! ### Acceptance (R192, R197) -/

/-- The next launch id in cyclic order that no live launch holds (R197). -/
def nextLaunchId (s : State) : Nat → Nat → Option Nat
  | 0, _ => none
  | n + 1, i => if (s.launch? (i % 256)).isSome then nextLaunchId s n (i + 1) else some (i % 256)

/-- A record asks for a fixed id (R197). (DEDUCED, log 52) -/
def fixId (lr : List Word) : Option Nat :=
  let f := (lr.getD 0 0).toNat
  if bitsOf f 6 6 = 1 then some (bitsOf f 15 8) else none

/-- GANG_RELEASE (R201): a reserving gang of lower class gives its cores back and returns to the head of its queue.
(DEDUCED, log 53) -/
def releaseGang (s : State) (l : Nat) : State :=
  match s.launch? l with
  | none => s
  | some x =>
    let s := x.gangCores.foldl (fun s c => s.modCore c fun k => { k with reserved := none }) s
    s.modLaunch l fun x => { x with state := .queued, gangCores := [], front := 2 }

def releaseGangs (s : State) (prio : Nat) : State :=
  ((s.launches.filter fun p => p.2.state == .reserving && decide (s.prioOf p.1 < prio)).map (·.1)).foldl releaseGang s

/-- An accepted launch receives its id and joins its class queue (R197). -/
def enterLaunch (s : State) (id : Nat) (x : Launch) : State :=
  let tiles := match bitsOf (x.lr.getD 0 0).toNat 3 3 == 1, shapeRecord s x.lr with
    | true, some b => tileCountsOf b
    | _, _ => []
  let s := { s with launches := tset s.launches id { x with tileCounts := tiles } }
  (releaseGangs s (bitsOf (x.lr.getD 1 0).toNat 2 0)).poke ⟨.launchPlace, {}⟩

/-- LAUNCH_REJECT (R51): status REJECTED before any task runs. (DEDUCED, log 52) -/
def rejectLaunch (s : State) (asid : Nat) (lr : List Word) : State :=
  writeRecord s asid none (lr.getD 29 0) (recordWords 5 0 0 0 0 s.ptp)

/-- A launch record is submitted by a queue of an ASID and a priority ceiling (R192, R197). -/
def submitLaunch (s : State) (queue asid ceiling : Nat) (lr : List Word) : State :=
  let s := { s with accepted := s.accepted + 1 }
  let x : Launch := { lr := lr, queue := queue, order := s.accepted }
  if !recordOk s asid ceiling lr then rejectLaunch s asid lr
  else match fixId lr with
    | some id => if (s.launch? id).isSome then rejectLaunch s asid lr else enterLaunch s id x
    | none =>
      match nextLaunchId s 256 (s.lastId + 1) with
      | some id => enterLaunch { s with lastId := id } id x
      | none => releaseGangs { s with backlog := s.backlog ++ [x] } (bitsOf (lr.getD 1 0).toNat 2 0)

/-! ### Placement (R53, R197, R201) -/

/-- The core at an index of the order in which blocks are aligned: die, span, hearth in its span, core (R53). -/
def blockCore (i : Nat) : Nat :=
  let span := i / 128 % 16
  let h := i / 8 % 16
  let y := span / 4 * 4 + h / 4
  let x := span % 4 * 4 + h % 4
  (i / 2048 * 256 + y * 16 + x) * 8 + i % 8

/-- The index of a core in that order. -/
def coreBlock (c : Nat) : Nat :=
  let h := c / 8 % 256
  let y := h / 16
  let x := h % 16
  c / 2048 * 2048 + ((y / 4 * 4 + x / 4) * 128) + ((y % 4 * 4 + x % 4) * 8) + c % 8

/-- Cores of the block a record's outermost level takes. -/
def blockSize (lr : List Word) : Nat :=
  let levels := (lr.getD 9 0).toNat
  let ranks := bitsOf (lr.getD 10 0).toNat 13 0
  if levels = 0 then 2 ^ Nat.clog 2 ranks else ranks

/-- A core takes part in a launch on its block (R52): all cores of the block do, or its first `ranks` in ascending global core
number. -/
def takesPart (size ranks c : Nat) : Bool :=
  ranks == size ||
    decide (((List.range c).filter fun e => coreBlock e / size == coreBlock c / size).length < ranks)

/-- What stands against a block: whether it may not be taken, and the launches assigned to its cores. -/
def blockLoad (s : State) (size ranks : Nat) (gang : Bool) : Table (Bool × Nat) :=
  let byCore := s.cores.foldl (fun t p =>
    let b := coreBlock p.1 / size
    let e := (tget t b).getD (false, 0)
    let bad := p.2.reserved.isSome || (!gang && decide (Config.maxAssigned ≤ p.2.assigned.length))
    tset t b (e.1 || (bad && takesPart size ranks p.1), e.2 + p.2.assigned.length)) []
  s.hearths.foldl (fun t p =>
    if p.2.fenced && [0, 1, 2, 3, 4, 5, 6, 7].any fun i => takesPart size ranks (8 * p.1 + i) then
      [0, 1, 2, 3, 4, 5, 6, 7].foldl (fun t i =>
        let b := coreBlock (8 * p.1 + i) / size
        if takesPart size ranks (8 * p.1 + i) then tset t b (true, ((tget t b).getD (false, 0)).2) else t) t
    else t) byCore

/-- A die that takes part in a launch on a block is parked for heat (R25). -/
def blockParked (s : State) (size ranks b : Nat) : Bool :=
  [0, 1, 2, 3].any fun d => s.heatParked.getD d false && decide (b * size < 2048 * (d + 1)) && decide (2048 * d < b * size + ranks)

/-- The block with the fewest launches assigned, the lowest-numbered on a tie. -/
def bestBlock (load : Table (Bool × Nat)) : List Nat → Option (Nat × Nat)
  | [] => none
  | b :: r =>
    let rest := bestBlock load r
    let e := (tget load b).getD (false, 0)
    if e.1 then rest
    else match rest with
      | some (b', n) => if n < e.2 then some (b', n) else some (b, e.2)
      | none => some (b, e.2)

/-- The participating cores of the placement chosen for a launch, in ascending global core number. -/
def placement (s : State) (x : Launch) : Option (List Nat) :=
  let size := blockSize x.lr
  let ranks := bitsOf (x.lr.getD 10 0).toNat 13 0
  let gang := bitsOf (x.lr.getD 0 0).toNat 0 0 == 1
  let blocks := (List.range (Config.numCores / size)).filter fun b => !blockParked s size ranks b
  (bestBlock (blockLoad s size ranks gang) blocks).map fun b =>
    let cores := (List.range Config.numCores).filter fun c => coreBlock c / size == b.1
    cores.take ranks

/-- Launch `a` is taken before launch `b` (R197, R201). (DEDUCED, log 53) -/
def takenBefore (s : State) (a b : Nat × Launch) : Bool :=
  if s.prioOf a.1 ≠ s.prioOf b.1 then decide (s.prioOf b.1 < s.prioOf a.1)
  else if a.2.front ≠ b.2.front then decide (b.2.front < a.2.front)
  else if lessSlack (s.fire? a.1) (s.fire? b.1) then true
  else if lessSlack (s.fire? b.1) (s.fire? a.1) then false
  else decide (a.2.order < b.2.order)

/-- Inserts a launch in the order the distributor takes them. (DEDUCED, log 53) -/
def insertLaunch (s : State) (a : Nat × Launch) : List (Nat × Launch) → List (Nat × Launch)
  | [] => [a]
  | b :: r => if takenBefore s a b then a :: b :: r else b :: insertLaunch s a r

/-- The queued launches in the order the distributor takes them. -/
def queuedLaunches (s : State) : List (Nat × Launch) :=
  (s.launches.filter fun p => p.2.state == .queued && p.2.status == 0).foldl (fun l p => insertLaunch s p l) []

/-! ### Launch start (R198) -/

/-- The shape page of a launch (R54). -/
def shapePage (s : State) (lr : List Word) : List Byte :=
  let ranks := bitsOf (lr.getD 10 0).toNat 13 0
  let arg := (lr.getD 30 0).toNat
  let head := fun d => leBytes d 8 ++ leBytes ranks 8
  let body :=
    if lr.getD 7 0 = 0 then head 0 ++ List.replicate 0x80 0
    else
      let b := (shapeRecord s lr).getD []
      let d := wordIn b 0 % 16
      head (wordIn b 0) ++ (List.range 4).flatMap fun i =>
        if i < d then
          let e := wordIn b (0x10 + 32 * i)
          let t := wordIn b (0x18 + 32 * i)
          leBytes e 8 ++ leBytes t 8 ++ leBytes (wordIn b (0x20 + 32 * i)) 8 ++ leBytes (ceilDiv e t) 8
        else leBytes 0 8 ++ leBytes 1 8 ++ leBytes (2 ^ 16) 8 ++ leBytes 0 8
  body ++ List.replicate 0x68 0 ++ leBytes arg 8

/-- The images and object table entries of a rank (R199). -/
def placedBytes (s : State) (asid : Nat) (lr : List Word) (rank : Nat) (es : List (List Byte)) (t : Table Byte) : Table Byte :=
  es.foldl (fun t e =>
    let (r, slot, img, len, off) := placeEntry e
    if r ≠ rank then t
    else
      let t := savedPut t off ((partRead s asid img len).getD [])
      savedPut t (bitsOf (lr.getD 4 0).toNat 16 0 + 8 * slot) (leBytes (2 ^ 32 + off) 8)) t

/-- The context a launch starts with on a core (R198, steps 1-4). -/
def freshContext (s : State) (l c rank : Nat) : Saved :=
  let f := fun i => (s.lr l i).toNat
  let lr := (s.launch? l).elim [] (·.lr)
  let asid := s.asidOf l
  let (vec, stack, stride) := (kernelDesc s asid).getD (0, 0, 0)
  let cnt := bitsOf (f 14) 39 32
  let spawn := bitsOf (f 13) 6 0
  let objs := (countedList s asid (f 5) 32).getD []
  { asid := asid, seq := 0, chunkMap := []
    scratch := placedBytes s asid lr rank objs (savedPut [] 0 (shapePage s lr))
    poison := [], hwq := [], lsplit := bitsOf (f 11) 3 0, arrLimit := bitsOf (f 12) 5 0
    ovfBase := bitsOf (f 12) 48 32, ovfSize := bitsOf (f 12) 23 8, ringHead := 0, ring := [], deadCount := 0
    spawnLimit := if spawn = 0 then 16 else spawn
    cvg := (0, 0, 0, word (bitsOf (f 25) 31 0), word (bitsOf (f 25) 63 32)), fmtWin := List.replicate 15 0
    spill := [0, 1, 2, 3].map fun t => (cnt, bitsOf (f 14) 16 0 + t * cnt * 208)
    traps := [0, 1, 2, 3].map fun t => (vec, word (stack + stride * (4 * c + t)))
    tongs := [], tiles := [] }

/-- Firmware sets `A.GATE` at launch start (R232): in the hearth, or in the saved state of an ASID that does not hold it. -/
def setGate (s : State) (h asid : Nat) : State :=
  if (s.hearth h).holder == some asid then
    s.modHearth h fun x => { x with held := { x.held with gate := 2048 } }
  else
    let y := (tget (s.hearth h).savedHeld asid).getD {}
    if (heldFailureAt s h asid y).isSome then s
    else
      let y := readHeld s h asid y
      let y := { y with held := { y.held with gate := 2048 } }
      let s := s.modHearth h fun x => { x with savedHeld := tset x.savedHeld asid y }
      if y.seq = 0 then s else writeHeld s h asid y

/-- Sets a launch up on one core: its context becomes resident in its turn (R203). -/
def startCore (s : State) (l c rank : Nat) : State :=
  let x := freshContext s l c rank
  let s := wakeHearth s (c / 8)
  setGate (s.modCore c fun k => { k with
    assigned := k.assigned ++ [l], areas := tset k.areas l ((freeArea k.areas 8).getD 0), saved := tset k.saved l x }) (c / 8) x.asid

/-- Some granule of a region under an ASID is poisoned. -/
def regionPoisoned (s : State) (asid va n : Nat) : Bool :=
  (List.range (ceilDiv (va % 64 + n) 64)).any fun i => match partKey s asid (va / 64 * 64 + 64 * i) .store with
    | some k => natMem s.poison (k / 64)
    | none => false

/-- A read or a write that the part makes at launch start faults (R51): the kernel descriptor, the shape, the placement list and
its images, the initial messages, or the clearing of the validity flags. (DEDUCED, log 52) -/
def startFaults (s : State) (lr : List Word) : Bool :=
  let f := fun i => (lr.getD i 0).toNat
  let asid := bitsOf (f 2) 13 0
  let flags := 8 * ceilDiv (bitsOf (f 21) 15 0) 64
  (kernelDesc s asid).isNone || (f 7 ≠ 0 && (shapeRecord s lr).isNone) ||
    (match countedList s asid (f 5) 32 with
      | some es => es.any (placeBad s lr)
      | none => true) ||
    (countedList s asid (f 6) 96).isNone ||
    (flags ≠ 0 && (!writeOk s asid (f 20) flags || regionPoisoned s asid (f 20) flags))

/-- VALIDITY_CLEAR (R174). -/
def clearFlags (s : State) (l : Nat) : State :=
  let n := ceilDiv (bitsOf (s.lr l 21).toNat 15 0) 64
  (partWrite s (s.asidOf l) (s.lr l 20).toNat (List.replicate (8 * n) 0)).getD s

/-- INITIAL_MESSAGE_POST (R149): the distributor fills in an entry of the list and posts it, or counts it discarded.
(DEDUCED, log 33) -/
def postInitial (s : State) (l : Nat) (b : List Byte) : State :=
  let lo := wordIn b 0
  let hi := wordIn b 8
  let rank := bitsOf lo 57 45
  let cores := (s.launch? l).elim [] (·.cores)
  match s.thisDevice (bitsOf lo 63 58), cores[rank]? with
  | true, some c =>
    let len := bitsOf hi 3 0
    let dest := 63 * 2 ^ 58 + c * 2 ^ 45 + bitsOf lo 44 8 * 2 ^ 8
    let ws := (List.range (min 9 len)).map fun i => word (wordIn b (16 + 8 * i))
    let m := mkMsg dest (bitsOf lo 7 0) (headerHi 0x1FFF 63 l (s.topBit l) 0 (bitsOf hi 7 4) len) ws
    handToTongs s 0 none m .distributor
  | _, _ => s.countDiscard l 1

/-- The die shares of a range launch (R200). -/
def dieShares (tiles : Nat) (perDie : List Nat) : List (Nat × Nat) :=
  let total := perDie.sum
  let base := perDie.map fun n => if total = 0 then 0 else tiles * n / total
  let rest := tiles - base.sum
  let extra := (perDie.foldl (fun (p : List Nat × Nat) n =>
    if n ≠ 0 && 0 < p.2 then (p.1 ++ [1], p.2 - 1) else (p.1 ++ [0], p.2)) ([], rest)).1
  let sizes := (base.zip extra).map fun p => p.1 + p.2
  (sizes.foldl (fun (p : List (Nat × Nat) × Nat) n => (p.1 ++ [(p.2, p.2 + n)], p.2 + n)) ([], 0)).1

/-- Participating cores of each die. -/
def Launch.perDie (x : Launch) : List Nat := [0, 1, 2, 3].map fun d => (x.cores.filter fun c => dieOf c == d).length

/-- Step 6 of R198: the initial messages and the range tiles. -/
def postWork (s : State) (l : Nat) : State :=
  let list := (countedList s (s.asidOf l) (s.lr l 6).toNat 96).getD []
  let s := list.foldl (fun s b => postInitial s l b) s
  if bitsOf (s.lr l 0).toNat 3 3 = 1 then
    let s := s.modLaunch l fun x => { x with ranges := dieShares (x.tileCounts.foldl (· * ·) 1) x.perDie }
    let cores := (s.launch? l).elim [] (·.cores)
    (cores.foldl (fun s c => preempt s c l) s).pokeAll (cores.map fun c => ⟨.rangeHandout, { core := c }⟩)
  else s

/-- The firmware column announces a Quench (R175): at most once, the lowest cause of one window standing.
(DEDUCED, log 54) -/
def fireQuench (s : State) (l cause : Nat) : State :=
  match s.launch? l with
  | none => s
  | some x =>
    if x.endFixed || x.status ≠ 0 then s
    else match x.quench with
      | none => (s.modLaunch l fun x => { x with quench := some cause }).announceFw l (.quench l cause)
      | some old =>
        let now := s.beats.any fun a => a.kind == .quench l old && a.window == s.cycle / 8
        if now && cause < old then
          { s.modLaunch l fun x => { x with quench := some cause } with
            beats := s.beats.map fun a => if a.kind == .quench l old then { a with kind := .quench l cause } else a }
        else s

/-- LAUNCH_TAG_REFUTE (R51, R160, R183): the end is fixed, and every live tag is refuted in one Beat event. -/
def fixEnd (s : State) (l status : Nat) : State :=
  let s := s.modLaunch l fun x => { x with
    endFixed := true, status := status, refutedAt := some (Config.beatDelivery (s.cycle / 8)) }
  (s.announceFw l (.refuteAll l)).poke ⟨.completionRecordWrite, { launch := l }⟩

/-- A core forgets a launch that has ended; journal entries of its refused stores stay occupied until they are released
(R118). -/
def Core.forget (k : Core) (l : Nat) : Core :=
  { k with
    assigned := k.assigned.filter (· != l), saved := tdel k.saved l, areas := tdel k.areas l, lastHeld := tdel k.lastHeld l
    reserved := if k.reserved == some l then none else k.reserved
    journal := k.journal.map fun j => if j.used && j.launch == l then { j with past := true } else j }

/-- The first waiting launch receives an id that has come free (R197). -/
def enterWaiting (s : State) : State :=
  let key := fun x : Launch => (bitsOf (x.lr.getD 1 0).toNat 2 0, x.lr.getD 16 0, x.order)
  let before := fun a b : Launch =>
    let p := key a
    let q := key b
    if p.1 ≠ q.1 then decide (q.1 < p.1)
    else
      let fa := if p.2.1 = 0 then none else some (fireTime a.lr)
      let fb := if q.2.1 = 0 then none else some (fireTime b.lr)
      if lessSlack fa fb then true else if lessSlack fb fa then false else decide (p.2.2 < q.2.2)
  match s.backlog with
  | [] => s
  | x :: r =>
    let best := r.foldl (fun a b => if before b a then b else a) x
    match nextLaunchId s 256 (s.lastId + 1) with
    | some id => enterLaunch { s with lastId := id, backlog := s.backlog.filter fun y => y.order != best.order } id best
    | none => s

/-- The launch ends: its record is written, its leases end and its cores are free of it (R51, R183, R264). -/
def endLaunch (s : State) (l status : Nat) : State :=
  match s.launch? l with
  | none => s
  | some x =>
    let s := writeRecord s (s.asidOf l) (some l) (s.lr l 29) (recordWords status x.flags x.dead x.discarded x.orphans s.ptp)
    let s := endLeases s l
    let s := ((tkeys s.cores).filter fun c => (s.core c).resident == some l).foldl vacateCore s
    let s := { s with cores := tmap (fun _ k => k.forget l) s.cores }
    let s := { s with launches := tdel s.launches l }
    let s := enterWaiting (s.notify (.launchEnd l status))
    s.pokeAll (⟨.launchPlace, {}⟩ :: (x.cores.map fun c => ⟨.contextRestore, { core := c }⟩) ++
      ((s.launches.filter fun p => p.2.state == .reserving).map fun p => ⟨.gangCommit, { launch := p.1 }⟩))

/-- Cores that a launch starts on are reserved no longer. -/
def unreserve (s : State) (cores : List Nat) : State :=
  cores.foldl (fun s c => s.modCore c fun k => { k with reserved := none }) s

/-- LAUNCH_START (R198) on its cores, in ascending rank; a read or write of it that faults rejects the launch (R51).
(DEDUCED, log 54) -/
def startLaunch (s : State) (l : Nat) (cores : List Nat) : State :=
  let s := unreserve s cores
  if startFaults s ((s.launch? l).elim [] (·.lr)) then endLaunch s l 5
  else
    let s := s.modLaunch l fun x => { x with state := .running, cores := cores, gangCores := [] }
    let s := cores.zipIdx.foldl (fun s p => startCore s l p.1 p.2) s
    let s := if bitsOf (s.lr l 0).toNat 0 0 = 1 then gangTurn s l else cores.foldl fillCore s
    let s := clearFlags s l
    let late := match s.fire? l with
      | some t => decide (t ≤ s.ptp)
      | none => false
    if late then fireQuench (s.modLaunch l fun x => { x with late := true }) l 1 else (postWork s l).pokeLaunch l

/-- A gang that gave its cores back waits while a launch of a higher class is accepted and not placed (R201). -/
def heldBack (s : State) (l : Nat) (x : Launch) : Bool :=
  x.front == 2 && ((s.launches.any fun p => p.2.state == .queued && decide (s.prioOf l < s.prioOf p.1)) ||
    s.backlog.any fun y => decide (s.prioOf l < bitsOf (y.lr.getD 1 0).toNat 2 0))

/-- Tries the queued launches in order: the first that fits starts, or reserves its cores; those before it wait ahead. -/
def placeFirst (s : State) : List (Nat × Launch) → State
  | [] => s
  | (l, x) :: r =>
    match if heldBack s l x then none else placement s x with
    | none => placeFirst (s.modLaunch l fun x => { x with front := max x.front 1 }) r
    | some cores =>
      let s := if bitsOf (x.lr.getD 0 0).toNat 0 0 = 1 then
          let s := cores.foldl (fun s c => s.modCore c fun k => { k with reserved := some l }) s
          (s.modLaunch l fun x => { x with state := .reserving, gangCores := cores }).poke ⟨.gangCommit, { launch := l }⟩
        else startLaunch s l cores
      s.poke ⟨.launchPlace, {}⟩

/-- LAUNCH_PLACE (R197). (DEDUCED, log 5) -/
def execLaunchPlace (s : State) : Host.Outcome State Fault Refusal :=
  .next (if s.boot == .running then placeFirst s (queuedLaunches s) else s)

/-- GANG_COMMIT (R201): every reserved core has a free assignment. A reservation that reaches a fenced hearth or a parked die is
given back. (DEDUCED, log 53) -/
def execGangCommit (s : State) : Host.Outcome State Fault Refusal :=
  let l := s.ev.launch
  .next (match s.launch? l with
    | none => s
    | some x =>
      if x.state == .reserving && x.gangCores.any fun c => (s.hearth (c / 8)).fenced || s.heatParked.getD (dieOf c) false then
        (releaseGang s l).poke ⟨.launchPlace, {}⟩
      else if x.state == .reserving && x.gangCores.all fun c => decide ((s.core c).assigned.length < Config.maxAssigned) then
        startLaunch s l x.gangCores
      else s)

/-! ### Ranges (R56, R200) -/

/-- RANGE_HANDOUT (R200): a core with a free slot takes from the low end of its die's range. -/
def execRangeHandout (s : State) : Host.Outcome State Fault Refusal :=
  let c := s.ev.core
  let k := s.core c
  .next (match k.resident with
    | none => s
    | some l =>
      match s.launch? l with
      | none => s
      | some x =>
        let d := dieOf c
        let r := x.ranges.getD d (0, 0)
        let s := if r.2 ≤ r.1 then s else rouse s (c / 8)
        if !mayDispatch s c || !k.tiles.isEmpty || (freeSlot k).isNone || r.2 ≤ r.1 then s
        else
          let n := max 1 (ceilDiv (r.2 - r.1) (4 * x.perDie.getD d 1))
          let s := s.modLaunch l fun x => { x with ranges := x.ranges.set d (r.1 + n, r.2) }
          (s.modCore c fun k => { k with tiles := (List.range n).map (r.1 + ·) }).poke ⟨.rangeTaskStart, { core := c }⟩)

/-- The coordinates of a tile, dimension 0 fastest (R56). -/
def tileCoords : List Nat → Nat → List Nat
  | [], _ => []
  | n :: r, i => i % n :: tileCoords r (i / n)

/-- RANGE_TASK_START (R56): one task for the next tile as a slot frees. -/
def execRangeTaskStart (s : State) : Host.Outcome State Fault Refusal :=
  let c := s.ev.core
  let k := s.core c
  .next (match k.tiles, k.resident, freeSlot k with
    | i :: rest, some l, some t =>
      let s := rouse s (c / 8)
      if !mayDispatch s c then s
      else
        let cls := bitsOf (s.lr l 8).toNat 7 0
        let co := tileCoords ((s.launch? l).elim [] (·.tileCounts)) i
        let ws := ([0, 1, 2, 3].map fun d => word (co.getD d 0)) ++ [word i]
        let sl := (k.slot t).begin s l (s.rankOf l c) cls .range (s.classOf l cls)
        ((s.modCore c fun k => { k with tiles := rest }).setSlotAt c t { sl with win := firstFrame ws }).pokeAll
          [⟨.rangeTaskStart, { core := c }⟩, ⟨.rangeHandout, { core := c }⟩]
    | _, _, _ => s)

/-- The die with the largest remaining range, the lowest on a tie, and its size. -/
def largestRange (rs : List (Nat × Nat)) : Nat × Nat :=
  (rs.zipIdx.foldl (fun (b : Nat × Nat) r => if b.2 < r.1.2 - r.1.1 then (r.2, r.1.2 - r.1.1) else b) (0, 0))

/-- RANGE_STEAL (R200): a die that has run dry takes the upper half of the largest range. -/
def execRangeSteal (s : State) : Host.Outcome State Fault Refusal :=
  let l := s.ev.launch
  let d := s.ev.die
  .next (match s.launch? l with
    | none => s
    | some x =>
      let mine := x.ranges.getD d (0, 0)
      let v := largestRange x.ranges
      let r := x.ranges.getD v.1 (0, 0)
      let n := (r.2 - r.1) / 2
      if x.perDie.getD d 0 = 0 || mine.1 < mine.2 || n = 0 || s.deaf l then s
      else
        let s := s.modLaunch l fun x => { x with ranges := (x.ranges.set v.1 (r.1, r.2 - n)).set d (r.2 - n, r.2) }
        let cores := x.cores.filter fun c => dieOf c == d
        (cores.foldl (fun s c => preempt s c l) s).pokeAll (cores.map fun c => ⟨.rangeHandout, { core := c }⟩))

/-! ### The end (R51, R183) -/

/-- LAUNCH_QUIESCENT (R51): the end of a launch without RESIDENT is fixed. -/
def execLaunchQuiescent (s : State) : Host.Outcome State Fault Refusal :=
  let l := s.ev.launch
  .next (match s.launch? l with
    | none => s
    | some x =>
      if endsQuiescent s l x then fixEnd s l 1 else s)

/-- Every wrap-up task has ended and none is owed. -/
def wrapupDone (s : State) (l : Nat) (x : Launch) : Bool :=
  !anyTask s l && x.cores.all fun c =>
    !((s.core c).resident == some l && (s.core c).wrapupOwed) &&
      match tget (s.core c).saved l with
      | some y => !y.wrapupOwed
      | none => true

/-- Every posted store of the launch is acknowledged or refused, and its stores that waited for their lines are performed, as is
what the part has written to host memory of itself (R51, R183). -/
def storesDone (s : State) (l : Nat) : Bool :=
  !anyEntry s l (fun j => !j.refused) && !anyStore s l && s.hostFolds.isEmpty

/-- LAUNCH_END_QUENCHED (R183). -/
def execLaunchEndQuenched (s : State) : Host.Outcome State Fault Refusal :=
  let l := s.ev.launch
  .next (match s.launch? l with
    | none => s
    | some x =>
      if x.quenched && x.status == 0 && wrapupDone s l x && !x.cut.inProgress && storesDone s l then
        fixEnd s l 2
      else s)

/-- A core still has tasks of the launch, or announcements of them are not delivered (R160). -/
def stillActs (s : State) (l : Nat) : Bool :=
  anyTask s l || s.beats.any fun a => a.launch == l && decide (a.core < Config.numCores)

/-- A core that a cut waits for copies nothing any more: its hearth is fenced, its die parked, or its context faulted
(R222, R259). (DEDUCED, log 26) -/
def cutStuck (s : State) (l : Nat) (x : Cut) : Bool :=
  x.waiting.any fun c => (s.hearth (c / 8)).fenced || s.heatParked.getD (dieOf c) false || match tget (s.core c).saved l with
    | some y => y.faulted
    | none => false

/-- COMPLETION_RECORD_WRITE (R51, R213): a failed launch's live tags are refuted once its tasks have been aborted; after the
refutation's delivery cycle, and the end of a cut in progress (R155), the record is written. -/
def execCompletionRecordWrite (s : State) : Host.Outcome State Fault Refusal :=
  let l := s.ev.launch
  .next (match s.launch? l with
    | none => s
    | some x =>
      match x.refutedAt with
      | none =>
        if x.status < 3 || stillActs s l then s
        else (s.modLaunch l fun x => { x with refutedAt := some (Config.beatDelivery (s.cycle / 8)) }).announceFw l (.refuteAll l)
      | some t =>
        if x.status = 0 || s.cycle ≤ t || (s.beats.any fun a => a.kind == .refuteAll l) || anyTask s l || !storesDone s l then s
        else if x.cut.inProgress then
          if cutStuck s l x.cut then s.modLaunch l fun x => { x with cut := { x.cut with inProgress := false, abandoned := true } }
          else s
        else endLaunch s l x.status)

/-- A Quench of a launch (R175): one not yet placed never starts. -/
def quenchLaunch (s : State) (l cause : Nat) : State :=
  match s.launch? l with
  | none => s
  | some x =>
    if x.state == .queued || x.state == .reserving then
      endLaunch (clearFlags (s.modLaunch l fun x => { x with quench := some cause }) l) l 2
    else fireQuench s l cause

/-- A Quench of an accepted launch that waits for an id: it never starts (R175). -/
def quenchWaiting (s : State) (x : Launch) : State :=
  let asid := bitsOf (x.lr.getD 2 0).toNat 13 0
  let n := ceilDiv (bitsOf (x.lr.getD 21 0).toNat 15 0) 64
  let s := { s with backlog := s.backlog.filter fun y => y.order != x.order }
  let s := (partWrite s asid (x.lr.getD 20 0).toNat (List.replicate (8 * n) 0)).getD s
  writeRecord s asid none (x.lr.getD 29 0) (recordWords 2 0 0 0 0 s.ptp)

/-- DEADLINE_FIRE (R175): die 0's time has reached the fire time. A launch that waits for an id is named by its acceptance number
`n`, with 256 for its id. -/
def execDeadlineFire (s : State) : Host.Outcome State Fault Refusal :=
  let l := s.ev.launch
  .next (if l = 256 then
      match s.backlog.find? fun x => x.order == s.ev.n with
      | some x => if x.lr.getD 16 0 ≠ 0 && fireTime x.lr ≤ s.ptp then quenchWaiting s x else s
      | none => s
    else match s.fire? l with
      | some t => if t ≤ s.ptp then quenchLaunch s l 1 else s
      | none => s)

end Sys2Proof.Machine
end

