-- ==== Sys2Proof/Machine/Queue.lean ====
section
/-! DEFINITION. Host queues: submission registers (R189), packets (R191, R192, R194, R195), stops and restarts (R193), and
the restart of scheduler firmware (R190). -/

namespace Sys2Proof.Machine

/-! ### The descriptor (R188) -/

/-- The part writes dwords 2 and 3. -/
def setQueueDword (s : State) (q i v : Nat) : State := { s with mem := memPutNat s.mem (s.queueKeyOf q + 8 * i) v 8 }

def State.queue (s : State) (q : Nat) : Queue := (tget s.queues q).getD {}

def State.modQueue (s : State) (q : Nat) (f : Queue → Queue) : State := { s with queues := tset s.queues q (f (s.queue q)) }

/-- Fields of dword 0: the ASID, the priority ceiling, and the dwords of the ring. -/
def queueAsid (s : State) (q : Nat) : Nat := bitsOf (queueDword s q 0) 29 16
def queueCeiling (s : State) (q : Nat) : Nat := bitsOf (queueDword s q 0) 10 8
def queueRing (s : State) (q : Nat) : Nat := 2 ^ bitsOf (queueDword s q 0) 7 2

/-- QUEUE_STOP (R193): the code is written, the host is told and a record logged; consumer stays. -/
def stopQueue (s : State) (q code : Nat) : State :=
  let s := setQueueDword (s.modQueue q fun x => { x with stopped := true }) q 3 (code * 2 ^ 56)
  (s.logRas { time := 0, seq := 0, kind := 15, unit := 16, asid := queueAsid s q
              detail := detail (q + 2 ^ 16 * code) 0 0 0 }).notify (.queueStop q code)

/-! ### Reading packets -/

/-- Why the part does not execute a packet: it is malformed, with the code of R193, or its bytes cannot be read yet. -/
inductive Unready where
  | malformed (code : Nat)
  | away (key : Nat)
  deriving DecidableEq, Repr

/-- A dword at a key of the ring or of a buffer: code 7 where it cannot be reached, 5 where its check fails. Host memory is asked of
the host (R255). -/
def dwordAt (s : State) (key : Option Nat) : Except Unready Word :=
  match key with
  | none => .error (.malformed 7)
  | some k =>
    if keyAway s k then .error (.away k)
    else if natMem s.poison (k / 64) || natMem s.badCheck (k / 64) then .error (.malformed 5)
    else .ok (memWord s.mem k)

/-- Key of a ring dword: in HBM, or in host memory when a port carries it (R188). -/
def ringDwordKey (s : State) (q i : Nat) : Option Nat :=
  let pa := queueDword s q 1 + 8 * (i % queueRing s q)
  if bitsOf (queueDword s q 0) 1 1 = 1 then (if hasCxl s then some (hostKey pa) else none)
  else if pa + 8 ≤ Config.hbmBytes then some pa else none

/-- Dword `i` of what the queue executes from: the indirect buffer at hand, or the ring (R194). A block of a buffer is fetched when
its packet is executed. (DESIGN CHOICE, log 80) -/
def sourceDword (s : State) (q i : Nat) : Except Unready Word :=
  match (s.queue q).indirect with
  | some (a, _, _) => dwordAt s (partKey s (queueAsid s q) ((a.toNat + 8 * i) % 2 ^ 64) .load)
  | none => dwordAt s (ringDwordKey s q i)

/-- `n` dwords from an index on. -/
def sourceDwords (s : State) (q i : Nat) : Nat → Except Unready (List Word)
  | 0 => .ok []
  | n + 1 =>
    match sourceDword s q i with
    | .error e => .error e
    | .ok w => match sourceDwords s q (i + 1) n with
      | .error e => .error e
      | .ok r => .ok (w :: r)

/-- The next dword to execute and the first that may not be. -/
def sourceRange (s : State) (q : Nat) : Nat × Nat :=
  match (s.queue q).indirect with
  | some (_, n, i) => (i, n)
  | none => (queueConsumer s q, (s.queue q).latched)

/-- Bits set of a 32-bit mask. -/
def maskCount (m : Nat) : Nat := ((List.range 32).filter fun i => m.testBit i).length

/-- A packet of R191. -/
structure QPacket where
  type : Nat
  mask : Nat
  body : List Word
  deriving DecidableEq, Repr

/-- The length a type asks for. -/
def lengthOk (type mask len : Nat) : Bool :=
  match type with
  | 0 => decide (1 ≤ len) && decide (len ≤ 33)
  | 1 => len == 1 + maskCount mask
  | 2 => len == 2
  | _ => len == 3

/-- The shadow state with a packet's fields copied over it (R192). -/
def copyFields (sh : List Word) (mask : Nat) : Nat → List Word → List Word
  | _, [] => sh
  | 0, _ => sh
  | n + 1, w :: r =>
    let i := 31 - n
    if mask.testBit i then copyFields (sh.set i w) mask n r else copyFields sh mask n (w :: r)

def QPacket.fields (p : QPacket) (sh : List Word) : List Word := copyFields sh p.mask 32 p.body

/-- Some live launch, one that waits for an id included, has an `LR.DONE`. -/
def doneTaken (s : State) (done : Word) : Bool :=
  (s.launches.any fun x => x.2.lr.getD 29 0 == done) || s.backlog.any fun x => x.lr.getD 29 0 == done

/-- The rules of a type's fields: codes 3, 4, 8 and 9. (DEDUCED, log 55) -/
def fieldCode (s : State) (q : Nat) (p : QPacket) : Option Nat :=
  match p.type with
  | 1 =>
    let lr := p.fields (s.queue q).shadow
    let done := lr.getD 29 0
    if p.mask.testBit 31 && lr.getD 31 0 ≠ 0 then some 3
    else if done = 0 || done.toNat % 64 ≠ 0 || !writeOk s (queueAsid s q) done.toNat 64 then some 8
    else if doneTaken s done then some 9
    else none
  | 3 =>
    let n := (p.body.getD 1 0).toNat
    if (s.queue q).indirect.isSome then some 4
    else if (p.body.getD 0 0).toNat % 64 ≠ 0 || n = 0 || 4096 < n then some 3
    else none
  | 4 => if (p.body.getD 1 0).toNat % 16 ≠ 0 then some 3 else none
  | _ => none

/-- The next packet, or why it is not executed: the code that stops the queue (R193), or what must be read first.
(DEDUCED, log 55) -/
def nextPacket (s : State) (q : Nat) : Except Unready QPacket :=
  let (i, lim) := sourceRange s q
  match sourceDword s q i with
  | .error e => .error e
  | .ok h =>
    let type := bitsOf h.toNat 7 0
    let len := bitsOf h.toNat 15 8
    let mask := bitsOf h.toNat 63 32
    if 5 ≤ type then .error (.malformed 1)
    else if !lengthOk type mask len || lim < i + len then .error (.malformed 2)
    else if bitsOf h.toNat 31 16 ≠ 0 || (type ≠ 1 && mask ≠ 0) then .error (.malformed 3)
    else match sourceDwords s q (i + 1) (len - 1) with
      | .error e => .error e
      | .ok body =>
        let p : QPacket := { type := type, mask := mask, body := body }
        match fieldCode s q p with
        | some e => .error (.malformed e)
        | none => .ok p

/-- The queue executes: it is enabled and not stopped, firmware is up, and a dword stands below the latched index. -/
def queueRuns (s : State) (q : Nat) : Bool :=
  let x := s.queue q
  x.enabled && !x.stopped && !s.restarting && s.boot == .running && decide (queueConsumer s q < x.latched)

/-- A queue that does not execute: a malformed packet stops it (R193), and bytes that are away are asked for. -/
def holdQueue (s : State) (q : Nat) (e : Unready) : State :=
  match e with
  | .malformed code => stopQueue s q code
  | .away k => summon s k

/-- The event of a packet. -/
def packetEvent (type : Nat) : Instr :=
  match type with
  | 0 => .packetNop
  | 1 => .packetDispatch
  | 2 => .packetStop
  | 3 => .packetIndirect
  | _ => .packetStatus

/-- Looks at what the queue has next: a packet is to be executed, or a malformed one stops the queue. -/
def lookNext (s : State) (q : Nat) : State :=
  if !queueRuns s q then s
  else if queueConsumer s q + queueRing s q < (s.queue q).latched then stopQueue s q 6
  else match nextPacket s q with
    | .error e => holdQueue s q e
    | .ok p => s.poke ⟨packetEvent p.type, { queue := q }⟩

/-- Moves past a packet of a length: past the INDIRECT packet when its buffer ends (R190). -/
def pastPacket (s : State) (q len : Nat) : State :=
  match (s.queue q).indirect with
  | none => setQueueDword s q 2 (queueConsumer s q + len)
  | some (a, n, i) =>
    if i + len < n then s.modQueue q fun x => { x with indirect := some (a, n, i + len) }
    else setQueueDword (s.modQueue q fun x => { x with indirect := none }) q 2 (queueConsumer s q + 3)

/-- What a DISPATCH has the part read, and that cannot be read yet: the shape, the placement list with its images, the initial
messages and the class table. -/
def packetAway (s : State) (q : Nat) (p : QPacket) : Option Nat :=
  if p.type ≠ 1 then none
  else recordAway s (queueAsid s q) (p.fields (s.queue q).shadow)

/-- Executes the queue's next packet when it is of a type: its effect and its passing are committed together (R190). -/
def onPacket (s : State) (type : Nat) (k : State → QPacket → State) : State :=
  let q := s.ev.queue
  if !queueRuns s q then s
  else match nextPacket s q with
    | .error e => holdQueue s q e
    | .ok p =>
      if p.type ≠ type then s
      else match packetAway s q p with
        | some key => summon s key
        | none => lookNext (k s p) q

/-! ### Events of the host -/

/-- SUBMISSION_WRITE (R189): the largest index stands, and one beyond the ring stops the queue. A write narrower than 8
bytes (`n` bytes of `bytes`) is ignored. -/
def execSubmissionWrite (s : State) : Host.Outcome State Fault Refusal :=
  let q := s.ev.queue
  .next (if s.ev.bytes.length ≠ 8 || 4096 ≤ q then s
    else lookNext (s.modQueue q fun x => { x with latched := max x.latched (leNat s.ev.bytes) }) q)

/-- QUEUE_DISABLE (R193): dword 0 is written with enable = 0 (`n`); the part stops reading the ring.
(DEDUCED, log 55) -/
def execQueueDisable (s : State) : Host.Outcome State Fault Refusal :=
  let q := s.ev.queue
  .next (if s.ev.n % 2 = 1 || 4096 ≤ q then s
    else setQueueDword (s.modQueue q fun x => { x with enabled := false, indirect := none }) q 0 s.ev.n)

/-- QUEUE_ENABLE (R192, R193): dword 0 is written with enable = 1 (`n`): the error and the shadow state are cleared, and a
consumer above the latched index is taken as equal to it. (DEDUCED, log 5) -/
def execQueueEnable (s : State) : Host.Outcome State Fault Refusal :=
  let q := s.ev.queue
  .next (if s.ev.n % 2 = 0 || 4096 ≤ q then s
    else
      let s := setQueueDword s q 0 s.ev.n
      if (s.queue q).enabled then s
      else
        let s := s.modQueue q fun x => { x with
          enabled := true, stopped := false, indirect := none, shadow := List.replicate 32 0 }
        let s := setQueueDword s q 3 0
        lookNext (setQueueDword s q 2 (min (queueConsumer s q) (s.queue q).latched)) q)

/-- SCHEDULER_FIRMWARE_RESTART (R190): it begins (`flag` set) or ends, within 1 ms. Queues go on from their latched and committed
indices. (DEDUCED, log 55) -/
def execSchedulerFirmwareRestart (s : State) : Host.Outcome State Fault Refusal :=
  .next (if s.ev.flag then (if s.restarting then s else { s with restarting := true, restartBy := s.ptp + 1000000 })
    else (tkeys s.queues).foldl lookNext { s with restarting := false })

/-! ### Packets -/

/-- PACKET_NOP (R191). -/
def execPacketNop (s : State) : Host.Outcome State Fault Refusal :=
  .next (onPacket s 0 fun s p => pastPacket s s.ev.queue (1 + p.body.length))

/-- PACKET_DISPATCH (R192): the shadow state takes the fields and is submitted as a launch record. (DEDUCED, log 5) -/
def execPacketDispatch (s : State) : Host.Outcome State Fault Refusal :=
  .next (onPacket s 1 fun s p =>
    let q := s.ev.queue
    let lr := p.fields (s.queue q).shadow
    let s := pastPacket (s.modQueue q fun x => { x with shadow := lr }) q (1 + p.body.length)
    submitLaunch s q (queueAsid s q) (queueCeiling s q) lr)

/-- PACKET_STOP (R191): a host stop of a live launch of the queue. -/
def execPacketStop (s : State) : Host.Outcome State Fault Refusal :=
  .next (onPacket s 2 fun s p =>
    let q := s.ev.queue
    let done := p.body.getD 0 0
    let s := pastPacket s q 2
    match s.launches.find? fun x => x.2.queue == q && x.2.lr.getD 29 0 == done with
    | some x => quenchLaunch s x.1 3
    | none =>
      match s.backlog.find? fun x => x.queue == q && x.lr.getD 29 0 == done with
      | some x => quenchWaiting s x
      | none => s)

/-- PACKET_INDIRECT (R191, R194): the buffer's packets are executed before the queue goes on. (DEDUCED, log 55) -/
def execPacketIndirect (s : State) : Host.Outcome State Fault Refusal :=
  .next (onPacket s 3 fun s p => s.modQueue s.ev.queue fun x => { x with
    indirect := some (p.body.getD 0 0, 8 * (p.body.getD 1 0).toNat, 0) })

/-- The state code of a launch (R195). -/
def launchCode (x : Launch) : Nat :=
  if x.endFixed || x.status ≠ 0 then 5
  else match x.state with
    | .queued => 1
    | .reserving => 2
    | .running => if x.quench.isSome then 4 else 3
    | .quenching => 4
    | .ended => 5

/-- The two words of a STATUS (R195). (DEDUCED, log 55) -/
def statusWords (s : State) (done : Word) : Nat × Nat :=
  match s.launches.find? fun x => x.2.lr.getD 29 0 == done with
  | some x => (launchCode x.2 + (if x.2.converged then 16 else 0) + 256 * x.1, x.2.lastSample % 2 ^ 64)
  | none => if s.backlog.any fun x => x.lr.getD 29 0 == done then (1, 0) else (0, 0)

/-- The peer and the peer's address of a page that is mapped on one, for a write of the part. -/
def peerPage (s : State) (asid va : Nat) : Option (Nat × Nat) :=
  match walk s asid va with
  | .ok l => if !permOk .store false l.pte then none else match targetOf s l va with
    | .ok (.peer p pa) => some (p, pa)
    | _ => none
  | .error _ => none

/-- The two words of a STATUS reach their destination: host memory through the bridge (R255), a page of a peer in write packets
(R274). One that cannot be written takes nothing. (DEDUCED, log 55) -/
def writeStatus (s : State) (asid va l : Nat) (w : Nat × Nat) : State :=
  match peerPage s asid va with
  | some (p, pa) =>
    let send := fun (s : State) (off v : Nat) => sendRequest s l p false 0 fun tr =>
      { header := packetHeader 3 1 false 3 tr l 0, words := [word (pa + off), word v] }
    send (send s 8 w.2) 0 w.1
  | none => (partWrite s asid va (leBytes w.1 8 ++ leBytes w.2 8)).getD s

/-- PACKET_STATUS (R195): the status word is written under the queue's ASID. -/
def execPacketStatus (s : State) : Host.Outcome State Fault Refusal :=
  .next (onPacket s 4 fun s p =>
    let q := s.ev.queue
    let w := statusWords s (p.body.getD 0 0)
    writeStatus (pastPacket s q 3) (queueAsid s q) (p.body.getD 1 0).toNat (w.1 / 256) w)

end Sys2Proof.Machine
end

