-- ==== Sys2Proof/Machine/Beat.lean ====
section
/-! DEFINITION. Beat deliveries (R16, R137, R154, R161-R164, R175, R176), diversion and the wrap-up budget (R177, R181),
convergence samples (R152, R153), sweeps (R160), cuts (R155, R156) and barrier releases (R17). -/

namespace Sys2Proof.Machine

/-! ### What an announcement does at its delivery -/

/-- Where a task that stalls for its Beat delivery goes on. -/
def beatNext (s : State) (a : Announcement) : Option Word :=
  let sl := s.slotAt a.core a.slot
  match sl.held && sl.launch == a.launch, sl.stall with
  | true, .beat next => some next
  | _, _ => none

/-- The announcing task receives a word and goes on. (DEDUCED, log 10) -/
def deliverWord (s : State) (a : Announcement) (d : Dst) (v next : Word) : State :=
  resume (s.modSlotAt a.core a.slot fun sl => sl.write d (Reg.of v)) a.core a.slot next

/-- The word is pushed a number of cycles after the delivery, and the task goes on then (R355, R356).
(DESIGN CHOICE, log 32) -/
def deliverLater (s : State) (a : Announcement) (n : Nat) (d : Dst) (v next : Word) : State :=
  s.modSlotAt a.core a.slot fun sl => { sl with stall := .landing (s.cycle + n) d v next }

/-- The announcing task takes a trap; while its entry must wait for a spill (R67) the instruction is tried again.
(DEDUCED, log 20) -/
def deliverTrap (s : State) (a : Announcement) (tr : Trap) : State :=
  if trapWaits s a.core a.slot then s.modSlotAt a.core a.slot fun sl => { sl with stall := .none }
  else takeTrapAt s a.core a.slot tr

/-- Why the holder of an sc atomic's location refuses it (R115, R137). -/
def scRefusal (s : State) (asid key n : Nat) : Option Cause :=
  let poison := if poisoned s.poison key n then some Cause.poison else none
  match keyUnit key with
  | none => poison
  | some (h, u, off) =>
    if (unitRefusal s h u off n fun l => s.asidOf l == asid).isSome then some .access else poison

/-- The open word of `hopen` and the state after it (R162, R355). -/
def openTag (s : State) (l parent : Nat) : Word × State :=
  let depth := (if parent = 0 then 0 else (s.tag parent).depth) + 1
  if parent ≠ 0 && !s.liveTag l parent then (word (4 * 2 ^ 16), s)
  else if 15 < depth then (word (3 * 2 ^ 16), s)
  else if bitsOf (s.lr l 22).toNat 11 0 ≤ s.tagsHeld l then (word (2 ^ 16), s)
  else match lowestFree s 4095 1 with
    | none => (word (2 * 2 ^ 16), s)
    | some h =>
      (word (depth * 2 ^ 12 + h),
       s.modTag h fun _ => { launch := l, parent := parent, depth := depth, state := .live })

/-- Applies a resolution (R164): the word pushed and the state after it. (DESIGN CHOICE, log 32) -/
def resolveTag (s : State) (l form h : Nat) : Word × State :=
  if !s.liveTag l h then (0, s)
  else (1, match form with
    | 2 => confirmTag s h
    | 3 => refuteTag s h
    | _ => confirmOnly s l h)

/-! ### Cuts (R154-R156) -/

/-- L, the stride and the offset of a launch's publish region. -/
def cutLen (s : State) (l : Nat) : Nat := bitsOf (s.lr l 26).toNat 47 32
def cutStride (s : State) (l : Nat) : Nat := ceilDiv (cutLen s l) 64 * 64
def cutOffset (s : State) (l : Nat) : Nat := bitsOf (s.lr l 26).toNat 16 0

/-- The first fault of a write of `n` bytes that the part makes, byte by byte: XLATE, ACCESS or poison, and its address.
(DEDUCED, log 57) -/
def writeFault (s : State) (asid va : Nat) : Nat → Option (Cause × Nat)
  | 0 => none
  | n + 1 =>
    match walk s asid va with
    | .error (.xlate _) => some (.xlate, va)
    | .error .access => some (.access, va)
    | .error .poison => some (.poison, va)
    | .ok _ =>
      match partKey s asid va .store with
      | none => some (.access, va)
      | some k => if natMem s.poison (k / 64) then some (.poison, va) else writeFault s asid (va + 1) n

/-- CUT_ABANDON (R156): the remaining copies are skipped, dispatch resumes, and the fault is logged with its address in the
counters of the die whose unit met it: the Tongs of the core that copies, or the distributor in the firmware column for the header
and the number. Every core learns of it by a Beat event. (DEDUCED, log 57) -/
def abandonCut (s : State) (l : Nat) (why : Cause × Nat) (core : Option Nat) : State :=
  match s.launch? l with
  | none => s
  | some x =>
    let s := x.cut.waiting.foldl (fun s c =>
      if (s.core c).resident == some l then
        (s.modCore c fun k => { k with cutWait := false }).pokeAll
          [⟨.messageDispatch, { core := c }⟩, ⟨.rangeHandout, { core := c }⟩]
      else s) s
    let s := s.modLaunch l fun x => { x with cut := { x.cut with waiting := [] } }
    let r : Ras := { time := 0, seq := 0, kind := 12, addr := why.2, launch := some l, asid := s.asidOf l
                     detail := detail (x.cut.number + 2 ^ 32 * why.1.code) 0 0 0 }
    let s := s.logRas (match core with
      | some c => { r with die := dieOf c, hearth := c / 8, unit := 11 }
      | none => { r with die := 0, unit := 16 })
    s.announceFw l (.cutDone l true)

/-- A cut's end is announced and not delivered yet. (DEDUCED, log 57) -/
def cutEnding (s : State) (l : Nat) : Bool := s.beats.any fun a => a.kind == .cutDone l true || a.kind == .cutDone l false

/-- Writes bytes of a launch's snapshot buffer, for a core or the distributor, or abandons the cut. -/
def cutWrite (s : State) (l : Nat) (core : Option Nat) (off : Nat) (b : List Byte) (k : State → State) : State :=
  let va := (s.lr l 27).toNat + off
  match writeFault s (s.asidOf l) va b.length with
  | some why => abandonCut s l why core
  | none => k ((partWrite s (s.asidOf l) va b).getD s)

/-- CUT_START (R154, R155): the next number; every participating core stops dispatch, and the header is written. -/
def startCut (s : State) (l : Nat) : State :=
  match s.launch? l with
  | none => s
  | some x =>
    let n := x.cut.number % (2 ^ 32 - 1) + 1
    let s := s.modLaunch l fun x => { x with
      cut := { number := n, inProgress := true, waiting := x.cores } }
    let s := x.cores.foldl (fun s c =>
      if (s.core c).resident == some l then s.modCore c fun k => { k with cutWait := true } else s) s
    let head := [0, s.ptp, x.cores.length, cutLen s l, cutStride s l, 0, 0, 0].flatMap fun v => leBytes v 8
    cutWrite s l none 0 head fun s =>
      { s with timers := s.timers ++ x.cores.map fun c => (⟨.cutCopyPoint, { launch := l, core := c }⟩ : Event) }

/-- What a `cut` pushes, and the state after its delivery (R154). -/
def deliverCut (s : State) (l : Nat) : Word × State :=
  match s.launch? l with
  | none => (0, s)
  | some x =>
    if x.cut.inProgress then (word (2 ^ 63 + x.cut.number), s)
    else
      let s := startCut s l
      (word (x.cut.number % (2 ^ 32 - 1) + 1), s)

/-- The publish region of a core as a cut copies it: bytes above the scratchpad's top are zero, and zeros fill the
stride. -/
def publishBytes (s : State) (l c : Nat) : List Byte :=
  let top := splitBytes (s.core c).lsplit
  let off := cutOffset s l
  let n := cutLen s l
  (List.range (cutStride s l)).map fun i =>
    if i < n && off + i < top then memGet s.mem (scratchKey c (off + i)) else 0

/-- The first poisoned byte of the region. (DEDUCED, log 57) -/
def publishPoison (s : State) (l c : Nat) : Option Nat :=
  let n := min (cutLen s l) (splitBytes (s.core c).lsplit - cutOffset s l)
  ((List.range n).map (scratchKey c (cutOffset s l) + ·)).find? fun k => natMem s.poison (k / 64)

/-- CUT_COPY_POINT (R155): in the first cycle in which no task of the launch holds a slot of the core or is owed one.
(DEDUCED, log 57) -/
def execCutCopyPoint (s : State) : Host.Outcome State Fault Refusal :=
  let l := s.ev.launch
  let c := s.ev.core
  .next (match s.launch? l with
    | none => s
    | some x =>
      let s := rouse s (c / 8)
      if !x.cut.inProgress || !natMem x.cut.waiting c || !atCopyPoint s l c || !awake s (c / 8) then s
      else match publishPoison s l c with
      | some k => abandonCut s l (.poison, k) (some c)
      | none => cutWrite s l (some c) (0x40 + s.rankOf l c * cutStride s l) (publishBytes s l c) fun s =>
        let s := s.modLaunch l fun x => { x with cut := { x.cut with waiting := x.cut.waiting.filter (· != c) } }
        (s.modCore c fun k => { k with cutWait := false }).pokeAll
          [⟨.messageDispatch, { core := c }⟩, ⟨.rangeHandout, { core := c }⟩, ⟨.cutComplete, { launch := l }⟩])

/-- CUT_COMPLETE (R156): the number is written last, with a release at system scope of what the part has written to host memory too,
and the completion announced. -/
def execCutComplete (s : State) : Host.Outcome State Fault Refusal :=
  let l := s.ev.launch
  .next (match s.launch? l with
    | none => s
    | some x =>
      if !x.cut.inProgress || !x.cut.waiting.isEmpty || cutEnding s l || !s.hostFolds.isEmpty then s
      else cutWrite s l none 0 (leBytes x.cut.number 8) fun s => s.announceFw l (.cutDone l false))

/-- Every core learns that a cut is complete or abandoned. (DEDUCED, log 57) -/
def endCut (s : State) (l : Nat) (abandoned : Bool) : State :=
  (s.modLaunch l fun x => { x with cut := { x.cut with inProgress := false, abandoned := abandoned } }).pokeLaunch l

/-! ### The Quench at Q (R176, R179) -/

/-- A barrier at Q (R324): the arrivals of its current generation are lost, a new generation starts, and every pending
arrival is cleared. -/
def Barrier.restart (b : Barrier) : Barrier :=
  { b with gen := b.gen + 1, arrivals := 0, due := none, members := b.members.map fun m => (m.1, m.2.1, none) }

/-- A core at Q: queued messages and tiles of the launch go, and a core without a task of it is owed a wrap-up task.
(DEDUCED, log 51) -/
def quenchCore (s : State) (l c : Nat) : State :=
  let s := s.discardQueued l c
  if (s.core c).resident == some l then
    startWrapup (s.modCore c fun k => { k with wrapupOwed := !holdsTask s c l }) c
  else match tget (s.core c).saved l with
    | some x => s.modCore c fun k => { k with saved := tset k.saved l { x with wrapupOwed := true } }
    | none => s

/-- An accepted message stands in its receiver's queue or ring still, or in its launch's saved context there. -/
def State.stillQueued (s : State) (t : Transit) : Bool :=
  let k := s.core t.dest
  let here := fun (q : List Queued) (r : List (Nat × Nat × Nat)) =>
    (q.any fun m => some m.arrival == t.arrival) || r.any fun m => some m.1 == t.arrival
  here k.hwq k.ring || k.saved.any fun x => here x.2.hwq x.2.ring

/-- The wait of a task in `spawn` or `migrate` ends in the cycle of a delivery (R49, R186): a `migrate` whose acceptance
reaches the sender in that cycle has taken effect, and the task has ended; else `k` is done to it, and a continuation that was
sent starts nothing. Whether an acceptance on its way arrives in that cycle is free, unless the message has left its
receiver's queue already: then it has. (DEDUCED, log 27) -/
def endWait (s : State) (k : State → Nat → Nat → State) (p : Nat × Nat) : State :=
  let sl := s.slotAt p.1 p.2
  match sl.migrating with
  | none => if sl.spawning && sl.shadow.isNone then k s p.1 p.2 else s
  | some id =>
    let accepted : Bool := match tget s.transits id with
      | some t => t.leg == .accepted && (!s.stillQueued t || Config.freeBit s.freeCtr)
      | none => false
    if sl.migrateEnd == some none then s
    else if accepted then senderAccepted (s.dropTransit id).nextFree id (.migrate p.1 p.2)
    else k (s.nextFree.modSlotAt p.1 p.2 fun sl => { sl with migrating := none, migrateEnd := none }) p.1 p.2

/-- Refused messages of the launch that Tongs holds are discarded. -/
def quenchTransits (s : State) (l : Nat) : State :=
  (s.transits.filter fun p => p.2.msg.launch == l && match p.2.leg with
    | .waiting _ => true
    | .refused => true
    | _ => false).foldl (fun s p => dropRefused s p.1 p.2) s

/-- The tasks of a launch that wait in `spawn` or `migrate` stand at a boundary from Q on (R49, R177). -/
def quenchWaits (s : State) (l : Nat) : State :=
  ((slotsOf s).filter fun p => (s.slotAt p.1 p.2).launch == l && !(s.slotAt p.1 p.2).wrapup).foldl
    (endWait · fun s c t => s.modSlotAt c t fun sl => { sl with spawning := false }) s

/-- QUENCH_APPLY (R176): ignored once the launch's end is fixed, and a launch that is quiescent at Q ends by that
(R51, R175). -/
def applyQuench (s : State) (l cause : Nat) : State :=
  match s.launch? l with
  | none => s
  | some x =>
    if x.endFixed || x.status ≠ 0 || x.quenched then s
    else if endsQuiescent s l x then fixEnd s l 1
    else
      let s := quenchWaits s l
      let s := s.modLaunch l fun x => { x with
        quench := some cause, quenched := true, ranges := [(0, 0), (0, 0), (0, 0), (0, 0)]
        barriers := tmap (fun _ b => b.restart) x.barriers }
      ((x.cores.foldl (fun s c => quenchCore s l c) (quenchTransits s l)).pokeAll
        (x.cores.map fun c => ⟨.contextRestore, { core := c }⟩)).pokeLaunch l

/-! ### Deliveries -/

/-- Every live tag of a launch is refuted (R160). -/
def refuteAllTags (s : State) (l : Nat) : State :=
  ((tkeys s.hyp).filter fun h => s.liveTag l h).foldl (fun s h => if s.liveTag l h then refuteTag s h else s) s

/-- Orphans that wait in `spawn` or `migrate` are aborted in the delivery cycle of the refutation (R169). -/
def abortWaits (s : State) : State :=
  ((slotsOf s).filter fun p => s.refuted (s.slotAt p.1 p.2).hypCur).foldl (endWait · abortOrphan) s

/-- One announcement is delivered. -/
def deliver (s : State) (a : Announcement) : State :=
  match a.kind with
  | .quench l cause => applyQuench s l cause
  | .refuteAll l => (abortWaits (refuteAllTags s l)).poke ⟨.completionRecordWrite, { launch := l }⟩
  | .cutDone l abandoned => endCut s l abandoned
  | .atomic key va n op cas x y d =>
    (match beatNext s a with
    | none => s
    | some next =>
      match scRefusal s (s.slotAt a.core a.slot).asid key n with
      | some why => deliverTrap s a { cause := why, addr := va, info := kindInfo .atomic 0 }
      | none =>
        let q := performAtomic s op cas key n x.toNat y.toNat
        deliverWord q.2 a d (word q.1) next)
  | .hopen parent d =>
    (match beatNext s a with
    | none => s
    | some next =>
      let q := openTag s a.launch parent
      deliverLater q.2 a 1 d q.1 next)
  | .hresolve form h d =>
    (match beatNext s a with
    | none => s
    | some next =>
      let q := resolveTag s a.launch form h
      abortWaits (deliverLater q.2 a 8 d q.1 next))
  | .cut d =>
    match beatNext s a with
    | none => s
    | some next =>
      let q := deliverCut s a.launch
      deliverWord q.2 a d q.1 next

/-- Inserts an announcement behind those of its core and of lower cores. -/
def insertBeat (a : Announcement) : List Announcement → List Announcement
  | [] => [a]
  | b :: r => if b.core ≤ a.core then b :: insertBeat a r else a :: b :: r

/-- The announcements of a window in Beat order (R16): by core, and in program order of each. -/
def beatOrder (s : State) (w : Nat) : List Announcement :=
  (s.beats.filter (·.window == w)).foldl (fun l a => insertBeat a l) []

/-- BEAT_DELIVERY (R16): the announcements of window `n`, in its delivery cycle: no cycle passes while one is due. Hearths of
their launches are woken (R284). (DESIGN CHOICE, log 32) -/
def execBeatDelivery (s : State) : Host.Outcome State Fault Refusal :=
  let w := s.ev.n
  .next (if s.cycle < Config.beatDelivery w || s.beats.any fun a => decide (a.window < w) then s
    else (beatOrder s w).foldl (fun s a => deliver (rouseLaunch s a.launch) a) { s with
      beats := s.beats.filter (·.window != w) })

/-! ### Diversion and the wrap-up budget -/

/-- TASK_DIVERSION (R177): at a boundary; a task that leaves `bwait` asks for its lanes again. -/
def execTaskDiversion (s : State) : Host.Outcome State Fault Refusal :=
  let c := s.ev.core
  let t := s.ev.slot
  let sl := s.slotAt c t
  .next (
    if !sl.held || sl.stopped || sl.wrapup || sl.stall != .none || sl.shadow.isSome || sl.start == .trapContext ||
      !s.quenched sl.launch then s
    else divertAt (if sl.inBwait.isSome then reclaim s c t else s) c t sl.pc)

/-- QUENCH_BUDGET_EXPIRY (R181): a wrap-up task without budget ends at once, unless it is in a handler or a stall. -/
def execQuenchBudgetExpiry (s : State) : Host.Outcome State Fault Refusal :=
  let c := s.ev.core
  let t := s.ev.slot
  let sl := s.slotAt c t
  .next (if sl.held && sl.wrapup && sl.quenchLeft == 0 && sl.shadow.isNone && sl.stall == .none then endTask s c t else s)

/-! ### Convergence (R152, R153) -/

/-- The quiet condition of a participating core, from its registers or its saved context. (DEDUCED, log 58) -/
def coreQuiet (s : State) (l c : Nat) : Bool :=
  let k := s.core c
  if k.resident == some l then decide (k.cvgWindow.toNat ≤ k.cvgQuiet.toNat)
  else match tget k.saved l with
    | some x => decide (x.cvg.2.2.2.2.toNat ≤ x.cvg.2.2.1.toNat)
    | none => false

/-- CONVERGENCE_SAMPLE (R152, R153): in each cycle that is a multiple of 256, once. (DEDUCED, log 58) -/
def execConvergenceSample (s : State) : Host.Outcome State Fault Refusal :=
  let l := s.ev.launch
  .next (match s.launch? l with
    | none => s
    | some x =>
      if x.state != .running || x.quench.isSome || s.cycle % 256 ≠ 0 || s.cycle / 256 ≤ x.sampled then s
      else
        let sum := x.inflight.sum
        let conv := sum == 0 && x.cores.all (coreQuiet s l)
        let s := s.modLaunch l fun x => { x with
          lastSample := sum.toNat, sampled := s.cycle / 256, converged := conv }
        if conv && bitsOf (s.lr l 0).toNat 1 1 == 1 then fireQuench s l 2 else s)

/-! ### Sweeps (R160) -/

/-- Messages in a core's ring, and in the queue and ring of a saved context. -/
def ringMsgs (s : State) (c : Nat) (k : Core) : List Msg :=
  (List.range k.ring.length).map fun i => ringMsg s c ((k.ringHead + i) % k.ovfSize)

def savedMsgs (x : Saved) : List Msg :=
  x.hwq.map (·.msg) ++ (List.range x.ring.length).map fun i =>
    msgOfWords fun j => word ((List.range 8).foldr (fun b v =>
      ((tget x.scratch (ringOffset x.ovfBase ((x.ringHead + i) % x.ovfSize) + 8 * j + b)).getD unlisted).toNat + 256 * v) 0)

/-- Some message bears the tag: queued, in a ring, or in flight. -/
def tagInMessage (s : State) (h : Nat) : Bool :=
  (s.transits.any fun p => p.2.leg != .accepted && p.2.msg.tag == h) ||
    s.cores.any fun p =>
      (p.2.hwq.any fun q => q.msg.tag == h) || ((ringMsgs s p.1 p.2).any fun m => m.tag == h) ||
        p.2.saved.any fun x => (savedMsgs x.2).any fun m => m.tag == h

/-- Some task's `HYP.CUR` names the tag. -/
def tagInTask (s : State) (h : Nat) : Bool :=
  s.cores.any fun p => p.2.slots.any fun q => q.2.held && (q.2.hypCur == h || q.2.shadow.any fun x => x.hypCur == h)

/-- A confirmed tag that is not swept still stands for this one (R164). (DEDUCED, log 56) -/
def tagIsTarget (s : State) (h : Nat) : Bool := s.hyp.any fun p => p.2.state == .confirmed && p.2.target == h

/-- The sweep frees the lines of the L1s that carry the tag (R164, R168). -/
def sweepLines (s : State) (h : Nat) : State :=
  s.cores.foldl (fun s p => (p.2.l1.filter fun x => x.2.tag == h).foldl (fun s x => dropMine s p.1 x.1) s) s

/-- SWEEP_END (R160): the sweep has retired the tag's versions; once nothing names the tag it is swept.
(DEDUCED, log 56) -/
def execSweepEnd (s : State) : Host.Outcome State Fault Refusal :=
  let h := s.ev.id
  .next (
    if (s.tag h).state != .confirmed && (s.tag h).state != .sweeping then s
    else
      let s := ({ s with versions := s.versions.filter fun v => v.tag != h }).modTag h fun t => { t with sweepDone := true }
      let s := sweepLines s h
      if tagInTask s h || tagInMessage s h || tagIsTarget s h || s.remotes.any (fun p => p.2.tag == some h) then s
      else s.modTag h fun t => { t with state := .swept })

/-! ### Barriers -/

/-- The generations below `n` are released; one that is still on its way keeps its bound. -/
def Barrier.release (b : Barrier) (n : Nat) : Barrier :=
  let r := max b.released n
  { b with released := r, due := if b.gen ≤ r then none else b.due }

/-- BARRIER_RELEASE_DELIVERY (R17): the generations below `n` of a barrier are released at every member. It comes at any
cycle up to the bound of the barrier's level, and in that one at the latest. Hearths of the launch are woken (R284). -/
def execBarrierReleaseDelivery (s : State) : Host.Outcome State Fault Refusal :=
  .next ((rouseLaunch s s.ev.launch).modLaunch s.ev.launch fun x => { x with
    barriers := match tget x.barriers s.ev.id with
      | some b => if s.ev.n ≤ b.gen then tset x.barriers s.ev.id (b.release s.ev.n) else x.barriers
      | none => x.barriers })

end Sys2Proof.Machine
end

