-- ==== Sys2Proof/Machine/Coherence.lean ====
section
/-! DEFINITION. Coherence (R248-R259): requests at their home, invalidations, forwards and grants, evictions, what the host
asks of the part's memory and of its copies of host memory, and fences. Data is held once, in memory: these events carry
the states of its copies. -/

namespace Sys2Proof.Machine

/-! ### Holders (R249) -/

/-- The cores of a span (R11). -/
def spanCores (p : Nat) : List Nat := (List.range 128).map fun i => blockCore (128 * p + i)

def natUnion (l m : List Nat) : List Nat := m.foldl natIns l

/-- The entry records a core as a holder. -/
def Dir.holds (d : Dir) (c : Nat) : Bool := natMem d.holders c || natMem d.spans (spanOf c) || d.owner == some c

/-- Records a holder: 8 exactly, more by span. -/
def Dir.addHolder (d : Dir) (c : Nat) : Dir :=
  if !d.spans.isEmpty then { d with spans := natIns d.spans (spanOf c) }
  else if natMem d.holders c || d.holders.length < 8 then { d with holders := natIns d.holders c }
  else { d with holders := [], spans := natUnion [] ((c :: d.holders).map spanOf) }

/-- The cores an invalidation goes to: every recorded holder and owner, or every core of every marked span. -/
def Dir.targets (d : Dir) (but : Option Nat) : List Nat :=
  let l := natUnion (d.holders) (d.spans.flatMap spanCores)
  let l := match d.owner with
    | some o => natIns l o
    | none => l
  l.filter fun c => some c != but

/-! ### Host operations -/

/-- The line an operation concerns. -/
def HostOp.line : HostOp → Nat
  | .write _ key _ _ => key / 128
  | .read _ key _ => key / 128
  | .snoop _ _ half _ => (hostKey (64 * half)) / 128
  | .peer _ _ _ key _ _ => key / 128

/-- What an operation leaves of an L1 copy (R255, R256): a write drops it, a read makes its owner share it, and a snoop
takes the half it names (SnpInv and SnpData) or nothing (SnpCur). -/
def HostOp.after (op : HostOp) (x : L1Line) : Option L1Line :=
  match op with
  | .write _ _ _ _ => none
  | .peer _ _ _ _ _ .read => some { x with st := if x.st == .m then .o else if x.st == .e then .s else x.st }
  | .peer _ _ _ _ _ _ => none
  | .read _ _ _ => some { x with st := if x.st == .m then .o else if x.st == .e then .s else x.st }
  | .snoop _ kind half _ =>
    if kind = 2 then some x
    else
      let h := if half % 2 = 0 then x.halves &&& 2 else x.halves &&& 1
      if h = 0 then none else some { x with halves := h }

/-- The copies an operation has to change. -/
def HostOp.targets (op : HostOp) (d : Dir) : List Nat :=
  match op with
  | .read _ _ _ => d.owner.toList
  | .peer _ _ _ _ _ .read => d.owner.toList
  | .snoop _ kind _ _ => if kind = 2 then [] else d.targets none
  | _ => d.targets none

/-- Writes bytes a host brought, with a check made at entry (R256); a mismatch of theirs poisons the granule and is
recorded as an origin at the port (R129). (DEDUCED, log 77) -/
def inboundWrite (s : State) (port key : Nat) (bytes : List Byte) (bad : Bool) : State :=
  let s := writeMem s key bytes.length (leNat bytes)
  if bad then originRecord (poisonGranule s key) 0 (portDie port) 0xFFFF 15 port key else s

/-- The queues whose dword 0 a write of `n` bytes touches. -/
def writtenQueues (s : State) (key n : Nat) : List Nat :=
  ((List.range (n / 64 + 2)).map ((key - s.queueBase) / 64 + ·)).filter fun q =>
    decide (q < 4096) && decide (key < s.queueKeyOf q + 8) && decide (s.queueKeyOf q < key + n)

/-- A write into the queue table is a descriptor write of each queue whose dword 0 it touches (R188, R193). -/
def descriptorWrite (s : State) (key n : Nat) : State :=
  s.pokeAll ((writtenQueues s key n).map fun q =>
    let w := queueDword s q 0
    ⟨if w % 2 = 1 then .queueEnable else .queueDisable, { queue := q, n := w }⟩)

/-- Answers a snoop (R255): dirty data goes back with the response, and current data with that of SnpCur, where the bridge holds
the half. -/
def answerSnoop (s : State) (port kind half : Nat) : State :=
  let st := s.bridgeSt half
  let key := hostKey (64 * half)
  let new := if kind = 0 then CxlState.i else if kind = 1 then (if st == .i then .i else .s) else st
  let data := if st == .m || (kind = 2 && st != .i) then memBytes s.mem key 64 else []
  let s := if data.isEmpty then s else verify s key 64 (portDie port) 15 port
  { s with
    bridge := tset s.bridge half new
    notices := s.notices ++ [.snooped port half new data (!data.isEmpty && natMem s.poison (key / 64))] }

/-- Performs a peer's request for a launch at a key: its status, its data and the state after it (R274). -/
def peerPerform (s : State) (peer l key n : Nat) (op : PeerOp) : Nat × Word × State :=
  match op with
  | .read =>
    let s := exitPeer s l peer (keyDie s key) key n
    (if poisoned s.poison key n then 3 else 0, word (memNat s.mem key n), s)
  | .write v bad =>
    let s := writeMem s key n v.toNat
    (0, 0, if bad then poisonGranule s key else s)
  | .atomic f cas x y =>
    let s := exitPeer s l peer (keyDie s key) key n
    if poisoned s.poison key n then (3, 0, s)
    else
      let m := 2 ^ (8 * n)
      let q := performAtomic s f cas key n (x.toNat % m) (y.toNat % m)
      (0, word q.1, q.2)

/-- A posted write of a port in PCIe mode has been performed: the next one goes to its home (R257). -/
def nextHostWrite (s : State) (port : Nat) : State :=
  match tget s.hostWrites port with
  | some (_ :: r) =>
    { s with hostWrites := if r.isEmpty then tdel s.hostWrites port else tset s.hostWrites port r }.poke
      ⟨.hostWrite, { port := port }⟩
  | _ => s

/-- The home performs what the host or a peer asked, once the copies are as it needs them. -/
def finishHost (s : State) (op : HostOp) : State :=
  match op with
  | .write port key bytes bad =>
    nextHostWrite ((descriptorWrite (inboundWrite s port key bytes bad) key bytes.length).notify (.hostWritten port)) port
  | .read port key n =>
    let s := verify s key n (portDie port) 15 port
    s.notify (.hostData port (memBytes s.mem key n) (poisoned s.poison key n))
  | .snoop port kind half _ => answerSnoop s port kind half
  | .peer peer l tr key n x =>
    let q := peerPerform s peer l key n x
    respond q.2.2 peer l tr q.1 q.2.1

/-- The entry once a read has made the line's owner share it. -/
def Dir.afterRead (d : Dir) (s : State) (line : Nat) : Dir :=
  match d.owner with
  | none => d
  | some o =>
    match tget (s.core o).l1 line with
    | some x => if x.st == .o then { d with st := .o, inLlc := true } else { d with st := .s, owner := none, inLlc := true }
    | none => { d.dropHolder o with inLlc := true, dirty := true }

/-- The directory entry after an operation: a write leaves the line at its home. -/
def HostOp.entry (op : HostOp) (s : State) (d : Dir) : Dir :=
  match op with
  | .write _ _ _ _ => { inLlc := true, dirty := true }
  | .read _ _ _ => d.afterRead s op.line
  | .peer _ _ _ _ _ .read => d.afterRead s op.line
  | .peer _ _ _ _ _ _ => { inLlc := true, dirty := true }
  | .snoop _ _ _ _ => d

/-! ### Serving requests (R250, R251) -/

/-- Grants a request: the entry, and the grant on its way; data that goes to another die is verified there (R129). -/
def grantReq (s : State) (line c : Nat) (req : CohReq) : State :=
  let s := if req == .upg then s else crossDies s (homeHearth s line / 256) (dieOf c) (128 * line) 128
  let s := s.modHome line fun h =>
    let d := h.dir
    let alone := (d.targets (some c)).isEmpty
    let g : Moesi := match req with
      | .getS => if alone then .e else .s
      | _ => .m
    let dir := match g with
      | .s => let x := d.addHolder c
              { x with st := if d.owner.isSome then .o else .s }
      | g => { d with st := g, owner := some c, holders := [c], spans := [] }
    { h with dir := dir, grants := tset h.grants c g, trans := .none }
  s.poke ⟨.grantReceived, { core := c, id := line }⟩

/-- Fetches from memory, or grants: after forwards and invalidations that are not needed. -/
def fetchOrGrant (s : State) (line c : Nat) (req : CohReq) : State :=
  if (s.home line).dir.inLlc then grantReq s line c req
  else (s.modHome line fun h => { h with trans := .memRd c req }).poke ⟨.memoryDataReturn, { id := line }⟩

/-- Forwards to an owner, else fetches or grants. -/
def forwardOr (s : State) (line c : Nat) (req : CohReq) : State :=
  match (s.home line).dir.owner with
  | some o =>
    if o = c then grantReq s line c req
    else (s.modHome line fun h => { h with trans := .fwd c req o false }).poke
      ⟨if req == .getS then .fwdGets else .fwdGetx, { core := o, id := line }⟩
  | none => fetchOrGrant s line c req

/-- Sends invalidations, or goes on when there are none to send. (DEDUCED, log 13) -/
def invalidateOthers (s : State) (line c : Nat) (req : CohReq) (l : List Nat) (k : State → State) : State :=
  if l.isEmpty then k s
  else (s.modHome line fun h => { h with trans := .invFan c req l s.cycle }).pokeAll
    (l.map fun x => ⟨.invalidation, { core := x, id := line }⟩)

/-- A core's request has the line's copies out of its way. (DEDUCED, log 13) -/
def afterInvalidations (s : State) (line c : Nat) (req : CohReq) : State :=
  let mine := (s.home line).dir.holds c
  let s := s.modHome line fun h =>
    let d := h.dir
    let keep := match d.owner, req with
      | some o, .getX => [o]
      | _, _ => []
    { h with dir := { d with holders := if mine then natUnion keep [c] else keep, spans := []
                             owner := if req == .upg then none else d.owner } }
  if req == .upg then grantReq s line c req else forwardOr s line c req

/-- Takes a Put (R250, R254): the recorded owner's data or a holder's leave; any other is stale. -/
def takePut (s : State) (line c : Nat) (req : CohReq) : State :=
  let d := (s.home line).dir
  let dirty := req == .putM || req == .putO
  let good := !dirty || d.owner == some c
  let s := if dirty then crossDies s (dieOf c) (homeHearth s line / 256) (128 * line) 128 else s
  let s := s.modHome line fun h =>
    let x := if good then d.dropHolder c else d
    { h with dir := if good && dirty then { x with inLlc := true, dirty := true } else x, answers := tset h.answers c good }
  s.poke ⟨.putAnswer, { core := c, id := line }⟩

/-- The home starts a core's request (R250, R253). (DEDUCED, log 13) -/
def beginCore (s : State) (line c : Nat) (req : CohReq) : State :=
  let d := (s.home line).dir
  match req with
  | .getS => forwardOr s line c .getS
  | .getX =>
    invalidateOthers s line c .getX ((d.targets (some c)).filter fun x => some x != d.owner) fun s => forwardOr s line c .getX
  | .upg =>
    if d.holds c then invalidateOthers s line c .upg (d.targets (some c)) fun s => grantReq s line c .upg
    else
      -- UPG_CONVERT
      let s := s.modCore c fun k => { k with
        cohReqs := if (tget k.cohReqs line).isSome then tset k.cohReqs line .getX else k.cohReqs }
      invalidateOthers s line c .getX ((d.targets (some c)).filter fun x => some x != d.owner) fun s => forwardOr s line c .getX
  | req => takePut s line c req

/-- The home starts what the host or a peer asks. -/
def beginHost (s : State) (line : Nat) (op : HostOp) : State :=
  let l := op.targets (s.home line).dir
  if l.isEmpty then finishHost (s.modHome line fun h => { h with dir := op.entry s h.dir }) op
  else (s.modHome line fun h => { h with trans := .hostSnp op l s.cycle }).pokeAll
    (l.map fun x => ⟨.invalidation, { core := x, id := line }⟩)

def HomeReq.start (s : State) (line : Nat) : HomeReq → State
  | .core c r => beginCore s line c r
  | .host op => beginHost s line op

/-- The home's hearth is awake, and so is the stack that what the host or a peer asks needs (R284). -/
def HomeReq.ready (s : State) (line : Nat) (r : HomeReq) : Bool :=
  awake s (homeHearth s line) && match r with
    | .core _ _ => true
    | .host _ => (s.home line).dir.inLlc || stackReady s (128 * line)

/-- Serves the requests that wait, in arrival order, while the line is in no transient state. -/
def serveWaiting : Nat → State → Nat → State
  | 0, s, _ => s
  | n + 1, s, line =>
    match (s.home line).trans, (s.home line).waiting with
    | .none, r :: rest =>
      if r.ready s line then
        serveWaiting n (HomeReq.start (s.modHome line fun h => { h with waiting := rest }) line r) line
      else s
    | _, _ => s

/-- Serves what waits. -/
def serve (s : State) (line : Nat) : State := trimLlc (serveWaiting ((s.home line).waiting.length) s line) line

/-- A request arrives at the home, whose hearth and HBM it wakes (R284). -/
def atHome (s : State) (line : Nat) (r : HomeReq) : State :=
  let s := rouse s (homeHearth s line)
  let s := match r with
    | .host _ => if (s.home line).dir.inLlc then s else touchKey s (128 * line)
    | .core _ _ => s
  serve (s.modHome line fun h => { h with waiting := h.waiting ++ [r] }) line

/-- A core's request arrives, unless its home is still waking (R284), or a request of a higher core has arrived in this cycle:
then it arrives in a later one (R250). (DEDUCED, log 13) -/
def arriveAtHome (s : State) (line c : Nat) (req : CohReq) : State :=
  let h := homeHearth s line
  let s := rouse s h
  let x := s.home line
  if !awake s h || (x.arrived.1 == s.cycle + 1 && decide (c < x.arrived.2)) then
    s.modHome line fun y => { y with late := natIns y.late c }
  else
    atHome (s.modHome line fun y => { y with late := natDel y.late c, arrived := (s.cycle + 1, c) }) line (.core c req)

/-- A core's outstanding request arrives, if it is of a kind. An upgrade that an invalidation has overtaken arrives as the
GetX it has become (R253). (DEDUCED, log 13) -/
def requestArrives (s : State) (req : CohReq) : State :=
  let c := s.ev.core
  let line := s.ev.id
  let here := (s.home line).waiting.any fun r => match r with
    | .core x _ => x == c
    | .host _ => false
  let served := match (s.home line).trans with
    | .memRd x _ => x == c
    | .invFan x _ _ _ => x == c
    | .fwd x _ _ _ => x == c
    | .fence (.core x _) _ _ _ => x == c
    | _ => false
  match tget (s.core c).cohReqs line with
  | none => s
  | some q =>
    if (q != req && !(req == .upg && q == .getX)) || here || served || (tget (s.home line).grants c).isSome then s
    else arriveAtHome s line c q

/-- GETS (R250). -/
def execGets (s : State) : Host.Outcome State Fault Refusal := .next (requestArrives s .getS)

/-- GETX (R250). -/
def execGetx (s : State) : Host.Outcome State Fault Refusal := .next (requestArrives s .getX)

/-- UPG (R250, R253). -/
def execUpg (s : State) : Host.Outcome State Fault Refusal := .next (requestArrives s .upg)

/-! ### Evictions (R250, R254) -/

/-- The L1 state a Put evicts. -/
def putState : CohReq → Moesi
  | .putM => .m
  | .putO => .o
  | .putE => .e
  | _ => .s

/-- The request that a line in the write-back buffer makes. -/
def putOf : Moesi → CohReq
  | .m => .putM
  | .o => .putO
  | .e => .putE
  | _ => .putS

/-- A core evicts a line: it stands in the write-back buffer until its Put is answered. -/
def evictLine (s : State) (c line : Nat) : State :=
  match tget (s.core c).l1 line with
  | none => s
  | some x => (s.modCore c fun k => { k with l1 := tdel k.l1 line, writeback := tset k.writeback line x.st }).poke
      ((putOf x.st).event c line)

/-- An eviction and, the next time, its Put's arrival: it waits in WbHold while the home awaits that owner's forward. -/
def putArrives (s : State) (req : CohReq) : State :=
  let c := s.ev.core
  let line := s.ev.id
  let k := s.core c
  let mine := fun st : Moesi => match tget k.l1 line with
    | some x => x.st == st
    | none => false
  if mine (putState req) && (tget k.writeback line).isNone && (tget k.cohReqs line).isNone then
    evictLine s c line
  else if tget k.writeback line ≠ some (putState req) || (tget (s.home line).answers c).isSome then s
  else
    let held := (s.home line).waiting.any fun r => match r with
      | .core x _ => x == c
      | .host _ => false
    if held || (s.home line).wbHold.isSome then s
    else match (s.home line).trans, req with
      | .fwd _ _ o _, .putM =>
        if o = c then s.modHome line fun h => { h with wbHold := some (c, req) } else arriveAtHome s line c req
      | .fwd _ _ o _, .putO =>
        if o = c then s.modHome line fun h => { h with wbHold := some (c, req) } else arriveAtHome s line c req
      | _, _ => arriveAtHome s line c req

/-- PUTM (R254). -/
def execPutm (s : State) : Host.Outcome State Fault Refusal := .next (putArrives s .putM)

/-- PUTO (R254). -/
def execPuto (s : State) : Host.Outcome State Fault Refusal := .next (putArrives s .putO)

/-- PUTE (R250). -/
def execPute (s : State) : Host.Outcome State Fault Refusal := .next (putArrives s .putE)

/-- PUTS (R250). -/
def execPuts (s : State) : Host.Outcome State Fault Refusal := .next (putArrives s .putS)

/-- PUT_ANSWER (R254): the write-back buffer's entry is free, and accesses that wait for the line may ask for it again. -/
def execPutAnswer (s : State) : Host.Outcome State Fault Refusal :=
  let c := s.ev.core
  let line := s.ev.id
  .next (if (tget (s.home line).answers c).isSome then
      tryLine ((s.modHome line fun h => { h with answers := tdel h.answers c }).modCore c fun k => { k with
        writeback := tdel k.writeback line }) c line
    else s)

/-! ### Invalidations -/

/-- What a request leaves of a copy. -/
def HomeReq.after (r : HomeReq) (x : L1Line) : Option L1Line :=
  match r with
  | .core _ _ => none
  | .host op => op.after x

/-- The request that holds a line in a fan-out of invalidations, the holders that have not acknowledged, and since when. -/
def Transient.fanOut : Transient → Option (HomeReq × List Nat × Nat)
  | .invFan c q w t => some (.core c q, w, t)
  | .hostSnp op w t => some (.host op, w, t)
  | .fence r w t _ => some (r, w, t)
  | _ => .none

/-- The fan-out of a request. -/
def HomeReq.fan (r : HomeReq) (w : List Nat) (t : Nat) : Transient :=
  match r with
  | .core c q => .invFan c q w t
  | .host op => .hostSnp op w t

/-- What the home still waits for of a core: all of its copy, or what a host operation leaves of it. -/
def wantedOf (s : State) (line c : Nat) : Option (L1Line → Option L1Line) :=
  match (s.home line).trans.fanOut with
  | some (r, w, _) => if natMem w c then some r.after else none
  | none => none

/-- INVALIDATION (R249, R253): the copy is dropped, and an upgrade outstanding will bring data. A core whose grant is on
the way takes the grant first. One that meets a failed route (`flag`) is sent again over another (R259).
(DEDUCED, log 13) -/
def execInvalidation (s : State) : Host.Outcome State Fault Refusal :=
  let c := s.ev.core
  let line := s.ev.id
  .next (match wantedOf s line c with
    | none => s
    | some f =>
      if s.ev.flag then s.poke ⟨.invalidation, { core := c, id := line }⟩
      else if (tget (s.home line).grants c).isSome then s
      else
        let k := s.core c
        let l1 := match (tget k.l1 line).bind f with
          | some x => tset k.l1 line x
          | none => tdel k.l1 line
        let reqs := if l1.any (·.1 == line) || tget k.cohReqs line ≠ some .upg then k.cohReqs
          else tset k.cohReqs line .getX
        (s.setCore c { k with l1 := l1, cohReqs := reqs }).poke ⟨.invAck, { core := c, id := line }⟩)

/-- A request goes on once every holder has acknowledged. -/
def HomeReq.acked (s : State) (line : Nat) : HomeReq → State
  | .core c q => afterInvalidations s line c q
  | .host op => finishHost (s.modHome line fun h => { h with trans := .none, dir := op.entry s h.dir }) op

/-- The home has one answer more; with the last it goes on. A fence stands until its holder is out of the way. -/
def collectAck (s : State) (line c : Nat) : State :=
  match (s.home line).trans.fanOut with
  | none => s
  | some (r, w, t) =>
    let w := natDel w c
    if w.isEmpty then serve (r.acked s line) line
    else s.modHome line fun h => { h with trans := match h.trans with
      | .fence r _ t out => if out = c then r.fan w t else .fence r w t out
      | _ => r.fan w t }

/-- INV_ACK (R250): of a core whose copy is as the home asked. -/
def execInvAck (s : State) : Host.Outcome State Fault Refusal :=
  let c := s.ev.core
  let line := s.ev.id
  .next (match wantedOf s line c with
    | none => s
    | some f =>
      let x := tget (s.core c).l1 line
      if (tget (s.home line).grants c).isSome || x.bind f != x then s else collectAck s line c)

/-! ### Forwards (R252, R254) -/

/-- The owner answers: from its L1 (`f` gives what it keeps) or from its write-back buffer. -/
def forward (s : State) (gets : Bool) : State :=
  let o := s.ev.core
  let line := s.ev.id
  match (s.home line).trans with
  | .fwd c req o' false =>
    if o' ≠ o || (req == .getS) ≠ gets || (tget (s.home line).grants o).isSome then s
    else
      let s := s.modCore o fun k => { k with
        l1 := match tget k.l1 line with
          | some x =>
            if gets then tset k.l1 line { x with st := if x.st == .e then .s else .o } else tdel k.l1 line
          | none => k.l1
        cohReqs := if !gets && tget k.cohReqs line = some .upg then tset k.cohReqs line .getX else k.cohReqs }
      (s.modHome line fun h => { h with trans := .fwd c req o true }).poke ⟨.forwardResponse, { id := line }⟩
  | _ => s

/-- FWD_GETS (R252). -/
def execFwdGets (s : State) : Host.Outcome State Fault Refusal := .next (forward s true)

/-- FWD_GETX (R252). (DEDUCED, log 13) -/
def execFwdGetx (s : State) : Host.Outcome State Fault Refusal := .next (forward s false)

/-- FORWARD_RESPONSE (R251, R254): the home has a copy of the data, records the new holders, and answers a Put held in
WbHold as stale. -/
def execForwardResponse (s : State) : Host.Outcome State Fault Refusal :=
  let line := s.ev.id
  .next (match (s.home line).trans with
    | .fwd c req o true =>
      let kept := (tget (s.core o).l1 line).map (·.st)
      let held := tget (s.core o).writeback line
      let s := s.modHome line fun h =>
        let d := h.dir
        let d := match kept with
          | some .o => { d with st := .o, owner := some o, inLlc := true }
          | some _ => { d with st := .s, owner := none, inLlc := true }
          | none =>
            let x := d.dropHolder o
            { x with inLlc := true, dirty := d.dirty || held == some .m || held == some .o }
        { h with dir := d }
      let s := match (s.home line).wbHold with
        | some (p, _) =>
          (s.modHome line fun h => { h with wbHold := none, answers := tset h.answers p false }).poke
            ⟨.putAnswer, { core := p, id := line }⟩
        | none => s
      let s := if req == .getS && kept.isNone then
          -- the former owner holds nothing; the entry reads S, held by the requester (R254)
          (s.modHome line fun h => { h with
            dir := { h.dir.addHolder c with st := .s }, grants := tset h.grants c .s, trans := .none }).poke
              ⟨.grantReceived, { core := c, id := line }⟩
        else grantReq s line c req
      serve s line
    | _ => s)

/-- The halves of a line that are valid in the part: both, but for host memory those its bridge holds (R255). -/
def validHalves (s : State) (line : Nat) : BitVec 2 :=
  if line * 128 < hostKey 0 then 3
  else
    let half := (line * 128 - hostKey 0) / 64
    let bit := fun i : Nat => if s.bridgeSt (half + i) == .i then (0 : BitVec 2) else 1
    bit 0 ||| (bit 1 <<< (1 : Nat))

/-- The halves of a host line that accesses of a core wait for and the bridge does not hold, each with its request: an access to
such a half is a miss for that half alone (R255). -/
def halvesMissed (s : State) (c line : Nat) : List (Nat × CacheReq) :=
  if 128 * line < hostKey 0 then []
  else s.remotes.filterMap fun p =>
    let half := (p.2.key - hostKey 0) / 64
    if p.2.core == c && p.2.tag.isSome && p.2.stage == .sent && p.2.key / 128 == line && s.bridgeSt half == .i then
      some (half, if p.2.kind.writes then .rdOwn else .rdShared)
    else none

/-- MEMORY_DATA_RETURN (R251): the data of HBM or the host is in the LLC and the request granted. A carried check that
does not match (`flag`, in granule `n` of the line) poisons the granule (R129). A line of host memory waits for the host's data
(R255), and one of HBM for its stack (R284). At a home that has been waking, the requests that wait are served. -/
def execMemoryDataReturn (s : State) : Host.Outcome State Fault Refusal :=
  let line := s.ev.id
  .next (match (s.home line).trans with
    | .memRd c req =>
      let key := line * 128 + 64 * (s.ev.n % 2)
      let s := touchKey s (128 * line)
      let h := homeHearth s line
      let missed := halvesMissed s c line
      if !stackReady s (128 * line) then s
      else if !missed.isEmpty then missed.foldl (fun s p => askHost s p.1 p.2) s
      else
        let s := if s.ev.flag then originRecord (poisonGranule s key) 0 (h / 256) h 9 0 key else s
        let s := s.modHome line fun h => { h with dir := { h.dir with inLlc := true } }
        serve (grantReq (evictSet s line) line c req) line
    | .none => serve s line
    | _ => s)

/-- An L1 of 8 × L KiB holds 64 × L lines (R113): another line makes room for one that came in, which one the manual does not
say. (DESIGN CHOICE, log 12) -/
def fitLine (s : State) (c line : Nat) : State :=
  let k := s.core c
  if k.l1.length ≤ 64 * k.lsplit then s
  else
    let l := (tkeys k.l1).filter fun x => x != line && (tget k.cohReqs x).isNone && (tget k.writeback x).isNone
    (evictLine s c (l.getD (Config.freeNat s.freeCtr % l.length) line)).nextFree

/-- A grant on its way to a core of a fenced hearth is void (R259). -/
def voidGrant (s : State) (line c : Nat) : State :=
  s.modHome line fun h => { h with grants := tdel h.grants c, dir := h.dir.dropHolder c }

/-- GRANT_RECEIVED (R250): the core's copy is as granted, under the tag of its access, and its request is over: the accesses
that waited for the line are performed. A forward or an invalidation that waited for it follows. -/
def execGrantReceived (s : State) : Host.Outcome State Fault Refusal :=
  let c := s.ev.core
  let line := s.ev.id
  .next (match tget (s.home line).grants c with
    | none => s
    | some g =>
      if (s.hearth (c / 8)).fenced then voidGrant s line c else
      let s := s.modHome line fun h => { h with grants := tdel h.grants c }
      let tag := ((tget (s.core c).cohWants line).getD (0, false)).1
      let s := s.modCore c fun k => { k with
        l1 := tset k.l1 line { st := g, tag := tag, halves := validHalves s line }, cohReqs := tdel k.cohReqs line
        cohWants := tdel k.cohWants line }
      (fitLine (tryLine s c line) c line).pokeAll [⟨.invalidation, { core := c, id := line }⟩, ⟨.fwdGets, { core := c, id := line }⟩,
        ⟨.fwdGetx, { core := c, id := line }⟩])

/-! ### Fences (R259) and dies that are parked (R25) -/

/-- A hearth's tasks end, without more of them running. (DEDUCED, log 26) -/
def abortTasks (s : State) (h : Nat) : State :=
  (List.range 8).foldl (fun s i => [0, 1, 2, 3].foldl (fun s t =>
    if (s.slotAt (8 * h + i) t).held then endTask s (8 * h + i) t else s) s) s

/-- Launches with a rank on a hearth fail (R259). -/
def failOnHearth (s : State) (h : Nat) : State :=
  ((tkeys s.launches).filter fun l => s.hearthIn l h).foldl (fun s l => s.failLaunch l 3) s

/-- A home goes on without what a fenced core has asked of it: its grant on the way, its request and its Put. -/
def Home.without (h : Home) (c : Nat) : Home :=
  { h with
    dir := h.dir.dropHolder c, grants := tdel h.grants c, answers := tdel h.answers c, late := natDel h.late c
    waiting := h.waiting.filter fun r => match r with
      | .core x _ => x != c
      | .host _ => true
    wbHold := h.wbHold.filter fun p => p.1 != c }

/-- The copies of a fenced core are void, in its L1, its write-back buffer and on their way; a line it held in M or O has its home
copy poisoned, with a record of origin. -/
def voidCopies (s : State) (c : Nat) : State :=
  let k := s.core c
  let s := (k.l1.map (fun p => (p.1, p.2.st)) ++ k.writeback).foldl (fun s p =>
    let key := p.1 * 128
    if p.2 == .m || p.2 == .o then
      let h := homeHearth s p.1
      originRecord (poisonGranule (poisonGranule s key) (key + 64)) 2 (h / 256) h 9 0 key
    else s) s
  let s := { s with homes := tmap (fun _ h => h.without c) s.homes }
  let s := { s with remotes := s.remotes.filter fun p => !(p.2.core == c && p.2.tag.isSome) }
  s.modCore c fun k => { k with l1 := [], cohReqs := [], cohWants := [], writeback := [] }

/-- Homes go on without the cores of a hearth. -/
def withoutHearth (s : State) (h : Nat) : State :=
  let cores := (List.range 8).map (8 * h + ·)
  (tkeys s.homes).foldl (fun s line =>
    let s := cores.foldl (fun s c => if (wantedOf s line c).isSome then collectAck s line c else s) s
    match (s.home line).trans with
    | .fwd c req o false =>
      if natMem cores o then
        (s.modHome line fun x => { x with trans := .fwd c req o true }).poke ⟨.forwardResponse, { id := line }⟩
      else s
    | _ => s) s

/-- Fences a hearth (R259). `by` is the home hearth that fenced it. -/
def fenceHearth (s : State) (h by_ : Nat) : State :=
  if (s.hearth h).fenced then s
  else
    let s := s.modHearth h fun x => { x with fenced := true }
    let s := (List.range 8).foldl (fun s i => voidCopies s (8 * h + i)) s
    let s := failOnHearth (abortTasks s h) h
    withoutHearth (s.logRas { time := 0, seq := 0, kind := 3, die := h / 256, hearth := h, detail := detail by_ 0 0 0 }) h

/-- Parks a die (R25, R259): its launches end FAULTED, a record is logged and the host told. -/
def parkDie (s : State) (d why : Nat) : State :=
  if s.heatParked.getD d false then s
  else
    let s := { s with heatParked := s.heatParked.set d true }
    let s := (s.launches.filter fun p => p.2.cores.any fun c => dieOf c == d).foldl (fun s p => s.failLaunch p.1 3) s
    (s.logRas { time := 0, seq := 0, kind := 4, die := d, detail := detail why 0 0 0 }).notify (.dieParked d)

/-- Cycles since the home first sent an invalidation that a core has not acknowledged. -/
def unackedSince (s : State) (line c : Nat) : Option Nat :=
  match (s.home line).trans.fanOut with
  | some (_, w, t) => if natMem w c then some t else none
  | none => none

/-- The holder that a home has entered Fence for. -/
def Transient.fencing : Transient → Option Nat
  | .fence _ _ _ out => some out
  | _ => .none

/-- INVALIDATION_TIMEOUT (R259): 8,192 cycles without an acknowledgement: the home enters Fence, and then fences the holder's
hearth and goes on without it. With `flag` set it is the home slice of the line that cannot be reached: its die is parked. -/
def execInvalidationTimeout (s : State) : Host.Outcome State Fault Refusal :=
  let c := s.ev.core
  let line := s.ev.id
  .next (match unackedSince s line c with
    | none => s
    | some t =>
      if s.cycle < t + 8192 then s
      else if s.ev.flag then parkDie s (homeHearth s line / 256) 1
      else match (s.home line).trans.fencing, (s.home line).trans.fanOut with
        | some out, _ => if out = c then fenceHearth s (c / 8) (homeHearth s line) else s
        | none, some (r, w, t) =>
          (s.modHome line fun h => { h with trans := .fence r w t c }).poke ⟨.invalidationTimeout, { core := c, id := line }⟩
        | none, none => s)

/-! ### The host (R255-R257) -/

/-- Bytes of a write, cut where lines of 128 bytes end. -/
def splitLines (key : Nat) (b : List Byte) : List (Nat × List Byte) :=
  let n := 128 - key % 128
  if b.length ≤ n then [(key, b)]
  else (key, b.take n) ::
    (List.range (ceilDiv (b.length - n) 128)).map fun i => (key + n + 128 * i, ((b.drop n).drop (128 * i)).take 128)

/-- The port takes traffic: it is up and the part runs. -/
def portOpen (s : State) (p : Nat) : Bool := s.boot == .running && s.portUp.getD p false

/-- The port is in PCIe mode: its writes are posted and keep their order (R257). -/
def postedPort (s : State) (p : Nat) : Bool := (if p = 0 then s.cfg.port0 else s.cfg.port1) == some .pcie

/-- Some home holds or serves a request of the host. -/
def hostAtHome (s : State) (op : HostOp) : Bool :=
  s.homes.any fun p => p.2.waiting.any (· == .host op) || match p.2.trans.fanOut with
    | some (r, _, _) => r == .host op
    | none => false

/-- The oldest posted write of a port goes to its home, if it is not there. -/
def startHostWrite (s : State) (port : Nat) : State :=
  match tget s.hostWrites port with
  | some (op :: _) => if hostAtHome s op then s else atHome s op.line (.host op)
  | _ => s

/-- HOST_WRITE (R256, R257): `bytes` to HBM at `id` through `port`; `flag` says that their carried check does not match. Without
bytes it is the next posted write of the port that goes to its home. -/
def execHostWrite (s : State) : Host.Outcome State Fault Refusal :=
  let a := s.ev
  let ops := (splitLines a.id a.bytes).map fun p => HostOp.write a.port p.1 p.2 a.flag
  .next (if a.bytes.isEmpty then startHostWrite s a.port
    else if !portOpen s a.port || Config.hbmBytes < a.id + a.bytes.length then s
    else if postedPort s a.port then
      startHostWrite { s with hostWrites := tset s.hostWrites a.port ((tget s.hostWrites a.port).getD [] ++ ops) } a.port
    else ops.foldl (fun s op => atHome s op.line (.host op)) s)

/-- HOST_READ (R256): `n` bytes of HBM at `id`, within one line. -/
def execHostRead (s : State) : Host.Outcome State Fault Refusal :=
  let a := s.ev
  .next (if !portOpen s a.port || Config.hbmBytes < a.id + a.n || a.n = 0 || 128 < a.id % 128 + a.n then s
    else atHome s (a.id / 128) (.host (.read a.port a.id a.n)))

/-- A snoop of the 64-byte half `id` through a port in CXL mode. -/
def snoop (s : State) (kind : Nat) : State :=
  let a := s.ev
  let mode := if a.port = 0 then s.cfg.port0 else s.cfg.port1
  if !portOpen s a.port || mode ≠ some .cxl then s
  else
    let op := HostOp.snoop a.port kind a.id s.cycle
    atHome s op.line (.host op)

/-- SNP_INV (R255). -/
def execSnpInv (s : State) : Host.Outcome State Fault Refusal := .next (snoop s 0)

/-- SNP_DATA (R255). -/
def execSnpData (s : State) : Host.Outcome State Fault Refusal := .next (snoop s 1)

/-- SNP_CUR (R255). -/
def execSnpCur (s : State) : Host.Outcome State Fault Refusal := .next (snoop s 2)

/-- The bridge's state of a half that the host has answered a request for: owned by RdOwn or when the host says so. -/
def filledSt (q : CacheReq) (owned : Bool) (old : CxlState) : CxlState :=
  match q with
  | .rdCurr => old
  | .rdOwn => .e
  | _ => if owned then .e else if old == .i then .s else old

/-- The accesses that waited for a half are tried: cached ones through their lines, and those of memory that is not cached at
once. -/
def tryHalf (s : State) (half : Nat) : State :=
  s.remotes.foldl (fun s p =>
    if p.2.stage != .sent || p.2.peer.isSome || p.2.key / 64 != hostKey (64 * half) / 64 then s
    else if p.2.tag.isSome then tryCached s p.1 p.2
    else if accessBefore s p.1 p.2 then s
    else match hostNeed s p.2 with
      | some .rdOwn => askHost s half .rdOwn
      | _ => performAt s p.1 p.2) s

/-- Bytes that confirmations have folded into a half stand over what the host has answered (R167): written once the bridge owns
the half, which it asks for until then. -/
def layFolds (s : State) (half : Nat) : State :=
  match tget s.hostFolds half with
  | none => s
  | some b =>
    let key := hostKey (64 * half)
    let s := { s with mem := memRestore s.mem (b.map fun x : Nat × Byte => (key + x.1, x.2)) }
    match s.bridgeSt half with
    | .e => { s with bridge := tset s.bridge half .m, hostFolds := tdel s.hostFolds half }
    | .m => { s with hostFolds := tdel s.hostFolds half }
    | _ => askHost s half .rdOwn

/-- HOST_LINE_FILL (R255): the host answers the request for the half `id` of its memory with `bytes` (none: unchanged), poisoned
when `n` is 1, and owned when `flag` is set. It becomes valid in the copies of its line; data that the part holds already
stays. -/
def execHostLineFill (s : State) : Host.Outcome State Fault Refusal :=
  let half := s.ev.id
  let key := hostKey (64 * half)
  .next (match tget s.hostReqs half with
    | none => s
    | some q =>
      let old := s.bridgeSt half
      let s := if s.ev.bytes.length = 64 && old == .i then
          let s := writeMem s key 64 (leNat s.ev.bytes)
          if s.ev.n = 1 then poisonGranule s key else s
        else s
      let s := { s with hostReqs := tdel s.hostReqs half, bridge := tset s.bridge half (filledSt q s.ev.flag old) }
      let s := layFolds s half
      let s := if q == .rdCurr then s else
        { s with cores := tmap (fun _ k => k.fillHalf (key / 128) (if half % 2 = 0 then 1 else 2)) s.cores }
      (tryHalf s half).poke ⟨.memoryDataReturn, { id := key / 128 }⟩)

end Sys2Proof.Machine
end

