-- ==== Sys2Proof/Machine/Engine.lean ====
section
/-! DEFINITION. Events of the lane pool (R205, R234) and of the Anvil (R207, R228, R231-R233). -/

namespace Sys2Proof.Machine

/-! ### The lane pool -/

/-- Lane groups of a hearth that are bound. -/
def boundGroups (s : State) (h : Nat) : Nat :=
  ((List.range 8).map fun i => ((s.core (8 * h + i)).bound.map fun b => b.op.groups).sum).sum

/-- The next core the arbiter considers: lowest pass, then lowest number. -/
def lowestPass : List (Nat × Nat) → Option (Nat × Nat)
  | [] => none
  | p :: r => match lowestPass r with
    | none => some p
    | some q => if q.2 < p.2 then some q else some p

/-- A head reads a register still being loaded, or writes one still being stored (R234). -/
def headBusy (k : Core) (op : LaneOp) : Bool :=
  (k.bound.map (·.op) ++ k.transfers).any fun o => o.slot == op.slot && match o.transfer with
    | none => false
    | some (r, store) => natMem (if store then op.writes else op.reads) r

/-- Places kept for instructions that their tasks have left are given up. (DESIGN CHOICE, log 37) -/
def dropLanes (s : State) (h : Nat) : State :=
  (List.range 8).foldl (fun s i =>
    if !(s.core (8 * h + i)).lanes.any (·.unformed.isSome) then s
    else s.modCore (8 * h + i) fun k => { k with
      lanes := k.lanes.filter fun o => match o.unformed with
        | some pc => (k.slot o.slot).held && !(k.slot o.slot).stopped && (k.slot o.slot).pc == pc
        | none => true }) s

/-- Binds the heads in ascending pass order, up to the first that does not fit (R205); a head that waits for a register is no
hindrance to those of other cores (R234). (DESIGN CHOICE, log 59) -/
def bindHeads : Nat → List (Nat × Nat) → Nat → State → State
  | 0, _, _, s => s
  | n + 1, heads, free, s =>
    match lowestPass heads with
    | none => s
    | some (c, _) =>
      let k := s.core c
      match k.lanes with
      | [] => s
      | op :: r =>
        if op.unformed.isSome || headBusy k op then bindHeads n (heads.filter (·.1 != c)) free s
        else if free < op.groups then s
        else
          let s := s.setCore c { k with
            lanes := r, bound := k.bound ++ [{ op := op, until_ := s.cycle + op.cycles }]
            pass := k.pass + op.groups * (1024 / k.vshare) }
          bindHeads n (heads.filter (·.1 != c)) (free - op.groups) s

/-- VECTOR_BIND (R205): the arbiter's choice of one cycle. -/
def execVectorBind (s : State) : Host.Outcome State Fault Refusal :=
  let h := s.ev.hearth
  .next (if s.cycle < (s.hearth h).nextBind then s
    else
      let s := dropLanes (s.modHearth h fun x => { x with nextBind := s.cycle + 1 }) h
      bindHeads 8 (passes s h) (8 - boundGroups s h) s)

/-- An instruction leaves the lanes: its flags go to its task, and its transfer goes on. -/
def leaveLanes (s : State) (c : Nat) (op : LaneOp) : State :=
  let s := if op.flags = 0 then s else s.modSlotAt c op.slot (·.orFlags op.flags)
  if op.transfer.isSome then
    (s.modCore c fun k => { k with transfers := k.transfers ++ [{ op with flags := 0 }] }).poke
      ⟨.vectorTransferComplete, { core := c, slot := op.slot }⟩
  else s

/-- VECTOR_COMPLETE (R94, R234): every bound instruction of the core whose cycles have passed.
(DESIGN CHOICE, log 37) -/
def execVectorComplete (s : State) : Host.Outcome State Fault Refusal :=
  let c := s.ev.core
  let ended := (s.core c).bound.filter fun b => decide (b.until_ ≤ s.cycle)
  .next (
    let s := s.modCore c fun k => { k with bound := k.bound.filter fun b => !decide (b.until_ ≤ s.cycle) }
    ended.foldl (fun s b => leaveLanes s c b.op) s)

/-- An element of the register is still on its way. -/
def elemsOutstanding (s : State) (c t reg : Nat) : Bool :=
  s.remotes.any fun p => p.2.core == c && p.2.slot == t && match p.2.kind with
    | .vload r _ => r == reg
    | _ => false

/-- An element of a vector store is still to be performed (R319). -/
def elemsUnperformed (s : State) (c t upto : Nat) : Bool :=
  s.remotes.any fun p => p.2.core == c && p.2.slot == t && p.2.vector && !p.2.ended && decide (p.1 < upto)

/-- VECTOR_TRANSFER_COMPLETE (R234): a load whose elements have all arrived, or a store whose elements are all performed. -/
def execVectorTransferComplete (s : State) : Host.Outcome State Fault Refusal :=
  let c := s.ev.core
  let t := s.ev.slot
  .next (s.modCore c fun k => { k with
    transfers := k.transfers.filter fun o => o.slot != t || match o.transfer with
      | some (r, false) => elemsOutstanding s c t r
      | some (_, true) => elemsUnperformed s c t o.upto
      | none => false })

/-! ### The coprocessor port -/

/-- The head operation of a core is tried at the port (R207): the state after it, and whether the port took it (or it
trapped). -/
def tryHead (s : State) (c : Nat) : State × Bool :=
  match (s.core c).waitingPort with
  | [] => (s, false)
  | t :: _ =>
    match issue { s with cur := (c, t) } with
    | .run i s1 =>
      match finish s1 4 (portRetry i s1) with
      | .next s2 => ({ s2 with cur := s.cur }, !(s2.slotAt c t).atPort)
      | _ => (s, false)
    | _ => (s, false)

/-- The first core in round-robin order whose head can start. -/
def tryHeads (s : State) : List Nat → State
  | [] => s
  | c :: r =>
    let q := tryHead s c
    if q.2 then q.1 else tryHeads q.1 r

/-- The port's choice of one cycle: round-robin from the core after the one it served last. -/
def portChoice (s : State) (h : Nat) : State :=
  let x := s.hearth h
  if s.cycle < x.nextAccept then s else tryHeads s ((List.range 8).map fun i => 8 * h + (x.portLast + 1 + i) % 8)

/-- ANVIL_PORT_ACCEPT (R207). (DESIGN CHOICE, log 41) -/
def execAnvilPortAccept (s : State) : Host.Outcome State Fault Refusal :=
  .next (portChoice s s.ev.hearth)

def isAmm (i : Instr) : Bool :=
  match i with
  | .amm _ _ _ _ _ _ => true
  | _ => false

/-- The head operation of a core at the port is an `amm`. -/
def headIsAmm (s : State) (c : Nat) : Bool :=
  match (s.core c).waitingPort with
  | [] => false
  | t :: _ => match issue { s with cur := (c, t) } with
    | .run i _ => isAmm i
    | _ => false

/-- AMM_START (R228): the head `amm` of a core starts once slots, token and wake allow, in its turn among the cores whose
heads can start (R207). (DESIGN CHOICE, log 41) -/
def execAmmStart (s : State) : Host.Outcome State Fault Refusal :=
  .next (if headIsAmm s s.ev.core then portChoice s (s.ev.core / 8) else s)

/-- Ring heads advance as the reads did at start (R228). -/
def advanceHead (s : State) (h r : Nat) : State :=
  match s.ring? h r with
  | some x => s.setRing h r (some { x with head := mod32 (x.head + 1) })
  | none => s

/-- A byte that the operation stores has not been stored (R231). (DESIGN CHOICE, log 44) -/
def storing (s : State) (o : AnvilOp) : Bool :=
  o.id != 0 && (!o.rest.isEmpty || s.remotes.any fun p => p.2.producer == o.id)

/-- The oldest operation of a core retires when its time has come and its bytes are stored, and its task goes on (R207, R231);
until then its elements take the entries that have come free (R116). (DESIGN CHOICE, log 41) -/
def retireOp (s : State) (amm : Bool) : State :=
  let c := s.ev.core
  let t := s.ev.slot
  let h := c / 8
  match (s.hearth h).ops.find? (·.core == c) with
  | none => s
  | some o =>
    if o.slot ≠ t || o.isAmm ≠ amm || s.cycle < o.retireAt then s
    else if storing s o then
      let q := postAll s o o.rest
      q.1.modHearth h fun x => { x with ops := x.ops.map fun y => if y == o then { o with rest := q.2 } else y }
    else
      let s := s.modHearth h fun x => { x with ops := x.ops.erase o }
      let s := o.pops.foldl (fun s r => advanceHead s h r) s
      let s := match o.ended, (s.slotAt c t).stall with
        | false, .anvil next => resume s c t next
        | _, _ => s
      s.poke ⟨.anvilPortAccept, { hearth := h }⟩

/-- AMM_RETIRE (R228): 24 cycles after its start, in its core's program order. -/
def execAmmRetire (s : State) : Host.Outcome State Fault Refusal := .next (retireOp s true)

/-- ANVIL_OPERATION_RETIRE (R207). -/
def execAnvilOperationRetire (s : State) : Host.Outcome State Fault Refusal := .next (retireOp s false)

/-! ### Sub-arrays (R232) -/

def State.modSub (s : State) (h i : Nat) (f : SubArray → SubArray) : State :=
  s.modHearth h fun x => { x with subs := padSet {} x.subs i (f (x.subs.getD i {})) }

/-- SUBARRAY_GATE (R232): no operation has started on its tiles for `A.GATE` cycles. (DESIGN CHOICE, log 59) -/
def execSubarrayGate (s : State) : Host.Outcome State Fault Refusal :=
  let x := s.hearth s.ev.hearth
  let b := x.subs.getD s.ev.id {}
  .next (if !b.gated && x.held.gate != 0 && b.lastStart + x.held.gate ≤ s.cycle && s.ev.id < 4 then
      s.modSub s.ev.hearth s.ev.id fun b => { b with gated := true }
    else s)

/-- SUBARRAY_WAKE (R232): `CAP.AWAKE` cycles after an operation asked for it. -/
def execSubarrayWake (s : State) : Host.Outcome State Fault Refusal :=
  let h := s.ev.hearth
  .next (match ((s.hearth h).subs.getD s.ev.id {}).waking with
    | some t =>
      if t ≤ s.cycle then
        (s.modSub h s.ev.id fun b => { b with gated := false, waking := none, lastStart := s.cycle }).poke
          ⟨.anvilPortAccept, { hearth := h }⟩
      else s
    | none => s)

/-! ### Bellows tokens (R18, R233) -/

/-- Tokens of a die as its limits now stand (R25): half of an odd count is rounded down. (DESIGN CHOICE, log 59) -/
def tokenLimit (s : State) (d : Nat) : Nat :=
  let n := s.tokens.getD d 0
  if s.halved.getD d false then n / 2 else n

/-- Tokens held by hearths of a die. -/
def tokensHeld (s : State) (d : Nat) : Nat := (s.hearths.filter fun p => p.1 / 256 == d && p.2.token).length

/-- Where a token that visits a hearth in this cycle stood in cycle 0 (R233). -/
def tokenPhase (s : State) (h : Nat) : Nat := (h % 256 + 256 - s.cycle % 256) % 256

/-- The tokens left on a die's ring: a lowered count takes tokens only as they are released, and a raised one puts further
tokens on at hearth 0. (DESIGN CHOICE, log 59) -/
def retoken (s : State) (d : Nat) : State :=
  let n := tokenLimit s d - tokensHeld s d
  let l := s.freeTokens.getD d []
  { s with freeTokens := s.freeTokens.set d (l.take n ++ List.replicate (n - l.length) (tokenPhase s 0)) }

/-- Another hearth of the die waits for a token. -/
def otherWaits (s : State) (h : Nat) : Bool :=
  s.hearths.any fun p => p.1 != h && p.1 / 256 == h / 256 && !p.2.token && tokenWaits s p.1

/-- TOKEN_ARRIVAL (R233): a token visits a hearth that waits for one, which takes it. -/
def execTokenArrival (s : State) : Host.Outcome State Fault Refusal :=
  let h := s.ev.hearth
  let x := s.hearth h
  let d := h / 256
  .next (match tokenAt s h with
    | none => s
    | some p =>
      if !tokenWaits s h || x.token then s
      else
        let s := s.modHearth h fun x => { x with token := true, tokenSince := s.cycle, tokenUsed := s.cycle }
        let s := { s with freeTokens := s.freeTokens.set d ((s.freeTokens.getD d []).erase p) }
        s.poke ⟨.anvilPortAccept, { hearth := h }⟩)

/-- The hearth lets its token go: the token visits the next hearth of the ring one cycle on, and comes back once it has
visited every other; it is withdrawn where the count has been lowered. (DESIGN CHOICE, log 59) -/
def releaseToken (s : State) (h : Nat) : State :=
  let d := h / 256
  let s := s.modHearth h fun x => { x with token := false }
  let ring := s.freeTokens.getD d []
  if tokenLimit s d - tokensHeld s d ≤ ring.length then s
  else
    { s.modHearth h fun x => { x with tokenLeft := s.cycle + 1 } with
      freeTokens := s.freeTokens.set d (tokenPhase s h :: ring) }

/-- TOKEN_IDLE_RELEASE (R233): 256 cycles without an FP32 or FP64 `amm`. -/
def execTokenIdleRelease (s : State) : Host.Outcome State Fault Refusal :=
  let x := s.hearth s.ev.hearth
  .next (if x.token && x.tokenUsed + 256 ≤ s.cycle then releaseToken s s.ev.hearth else s)

/-- TOKEN_HOLD_EXPIRY (R233): held for 65,536 cycles while another hearth waits, at a start boundary. -/
def execTokenHoldExpiry (s : State) : Host.Outcome State Fault Refusal :=
  let h := s.ev.hearth
  let x := s.hearth h
  .next (if x.token && x.tokenSince + 65536 ≤ s.cycle && x.nextStart ≤ s.cycle && otherWaits s h then releaseToken s h else s)

end Sys2Proof.Machine
end

