-- ==== Sys2Proof/Machine/Optics.lean ====
section
/-! DEFINITION. Optical links: grants and leases (R262, R264, R266, R268-R272), streams of flits and their replay (R273,
R275, R276), requests and responses of peers (R274, R277), and a peer that is lost and found (R278, R279). -/

namespace Sys2Proof.Machine

/-- Inserts a transmitter in transmitter order. -/
def insertTx (t : Nat × TxState × Nat) : List (Nat × TxState × Nat) → List (Nat × TxState × Nat)
  | [] => [t]
  | u :: r => if t.1 < u.1 then t :: u :: r else u :: insertTx t r

/-- A transmitter joins a lease, off until it has warmed. -/
def addTx (s : State) (l peer tx : Nat) : State :=
  s.modLease l peer fun x => { x with txs := insertTx (tx, .warmWait, s.ptp) x.txs }

/-- Takes a transmitter from one lease into another. -/
def moveTx (s : State) (from_ fromPeer l peer tx : Nat) : State :=
  addTx (s.modLease from_ fromPeer (·.dropTx tx)) l peer tx

/-- One transmitter more for a lease: a free one, else one of another holder (R269, R270). -/
def takeTx (s : State) (l peer die : Nat) (ok : Nat × TxState × Nat → Bool) : Option State :=
  match freeTx s die peer with
  | some tx => some (addTx s l peer tx)
  | none =>
    (largestHolder s (otherLeases s l peer die) fun t => ok t && slotFree s (txPort t.1) peer).map fun h =>
      moveTx s h.1 h.2.1 l peer h.2.2

/-- Grows a lease by up to `n` transmitters. -/
def growBy : Nat → State → Nat → Nat → Nat → (Nat × TxState × Nat → Bool) → State
  | 0, s, _, _, _, _ => s
  | n + 1, s, l, peer, die, ok =>
    match takeTx s l peer die ok with
    | some s => growBy n s l peer die ok
    | none => s

/-- A lease gives `n` transmitters up (R266). -/
def shrinkBy : Nat → Lease → Lease
  | 0, x => x
  | n + 1, x => match firstGiven x.txs with
    | some t => shrinkBy n (x.dropTx t.1)
    | none => x

/-- Transmitters in use for 100 µs count as excess (R269). -/
def isExcess (s : State) (t : Nat × TxState × Nat) : Bool := decide (t.2.2 + 100000 ≤ s.ptp)

/-- The slots of a port that its receivers stand on (R260): 16 at most, one routed to each linked peer, then a second to each,
and so on. (DEDUCED, log 60) -/
def litSlots (s : State) (port : Nat) : List Nat :=
  let routed := s.cfg.routes.filter fun e => e.1 / 64 == port && natMem s.linked e.2
  let rank := fun e : Nat × Nat => (routed.filter fun d => d.2 == e.2 && decide (d.1 < e.1)).length
  (((List.range routed.length).flatMap fun k => routed.filter fun e => rank e == k).map fun e => e.1 % 64).take 16

/-- The receivers of every port are set, and the base leases placed. -/
def relight (s : State) : State :=
  placeBases { s with receivers := (List.range 16).map fun p => (p, litSlots s p) }

/-- The packets queued for a lease that is no more go by the base lease. -/
def requeue (s : State) (l peer die : Nat) : State :=
  let old := ((tget (s.stream die peer).queues l).getD ([], 0)).1
  let s := s.modStream die peer fun y => { y with queues := tdel y.queues l }
  old.foldl (fun s p => enqueue s (s.sendDie l peer) l peer p) s

/-- A lease without a transmitter does not exist; what it has queued goes by the base lease. -/
def dropEmpty (s : State) (l peer : Nat) : State :=
  match s.lease? l peer with
  | none => s
  | some x =>
    if x.txs.isEmpty then
      requeue (s.modLaunch l fun y => { y with leases := tdel y.leases peer }) l peer x.die
    else s

/-! ### The links role (R266, R268) -/

/-- A new lease's queue has sent nothing yet (R275). (DEDUCED, log 60) -/
def newQueue (s : State) (l peer die : Nat) : State :=
  s.modStream die peer fun y => match tget y.queues l with
    | some q => { y with queues := tset y.queues l (q.1, 0) }
    | none => y

/-- The push of a `lease` and the state after it: what is parked wakes before the lease grows (R266, R272). -/
def doLease (s : State) (c l peer n : Nat) : Nat × State :=
  if n = 0 || !natMem s.linked peer then (0, if n = 0 then endLease s l peer else s)
  else
    let die := match s.lease? l peer with
      | some x => x.die
      | none => dieOf c
    let s := match s.lease? l peer with
      | some x =>
        if n < x.count then placeBases (s.modLease l peer (shrinkBy (x.count - n)))
        else growBy (n - x.count) (wakeLease s l peer) l peer die (isExcess s)
      | none =>
        let x : Lease := { die := die, txs := [], created := s.ptp, lastFlit := s.ptp }
        let s := s.modLaunch l fun y => { y with leases := tset y.leases peer x }
        growBy n (newQueue s l peer die) l peer die (isExcess s)
    let s := { (dropEmpty s l peer).poke ⟨.warmingStart, { die := die }⟩ with freeCtr := s.freeCtr + 1 }
    (match s.lease? l peer with
      | some x => x.count
      | none => 0, s)

/-- The value of a `LINK.*` register of a launch. -/
def linkReg (s : State) (l n : Nat) : Nat :=
  let sel := match s.launch? l with
    | some x => x.linkSel
    | none => 0
  let q := s.linkSet l sel
  let x := (s.lease? l sel).getD { die := 0, txs := [], created := 0 }
  let warming := (x.txs.filter fun t => t.2.1.rank == 1).length
  match n with
  | 0x090 => sel
  | 0x091 => q.park * 2 ^ 16 + q.wake
  | 0x092 => q.floor
  | 0x093 => x.active
  | _ => warming * 2 ^ 8 + x.resting

/-- Writes a `LINK.*` register. -/
def setLinkReg (s : State) (l n v : Nat) : State :=
  s.modLaunch l fun x =>
    let q := (tget x.linkSets x.linkSel).getD {}
    match n with
    | 0x090 => { x with linkSel := bitsOf v 5 0 }
    | 0x091 => { x with linkSets := tset x.linkSets x.linkSel { q with park := bitsOf v 31 16, wake := bitsOf v 15 0 } }
    | 0x092 => { x with linkSets := tset x.linkSets x.linkSel { q with floor := bitsOf v 7 0 } }
    | _ => x

/-- The links role's answer to a stalled task; `leases` and `regs` say which of the two are answered. -/
def answerLinks (s : State) (leases regs : Bool) : State :=
  let c := s.ev.core
  let t := s.ev.slot
  let l := (s.slotAt c t).launch
  let push := fun (s : State) (d : Dst) (v : Nat) (next : Word) =>
    resume (s.modSlotAt c t fun sl => sl.write d (Reg.of (word v))) c t next
  match (s.slotAt c t).stall with
  | .links _ (.lease peer n d) next =>
    if leases then
      let q := doLease s c l peer n
      push q.2 d q.1 next
    else s
  | .links _ (.read r d) next => if regs then push s d (linkReg s l r) next else s
  | .links _ (.write r v) next => if regs then resume (setLinkReg s l r v.toNat) c t next else s
  | _ => s

/-- LINKS_ROLE_ANSWER (R266): to a `lease`, or to an access of a `LINK.*` register. -/
def execLinksRoleAnswer (s : State) : Host.Outcome State Fault Refusal := .next (answerLinks s true true)

/-- LINK_REGISTER_ACCESS (R268): the access is performed at the links role. -/
def execLinkRegisterAccess (s : State) : Host.Outcome State Fault Refusal := .next (answerLinks s false true)

/-! ### Warming, parking and starvation (R270-R272) -/

/-- The lowest-numbered transmitter of a die that waits to warm (R272). -/
def warmNext (s : State) (die : Nat) : Option Nat :=
  let l := (allLeases s).flatMap fun e =>
    if e.2.2.die == die then e.2.2.txs.filterMap fun t => if t.2.1 == .warmWait then some t.1 else none else []
  match l with
  | [] => none
  | t :: r => some (r.foldl min t)

def Lease.setTx (x : Lease) (tx : Nat) (st : TxState) : Lease :=
  { x with txs := x.txs.map fun t => if t.1 == tx then (t.1, st, t.2.2) else t }

def Lease.holds (x : Lease) (tx : Nat) : Bool := x.txs.any fun t => t.1 == tx

/-- The lease that holds a transmitter, or that is ending and keeps it, is changed. -/
def modHolder (s : State) (tx : Nat) (f : Lease → Lease) : State :=
  let g := fun x : Lease => if x.holds tx then f x else x
  { s with
    launches := tmap (fun _ y => { y with leases := tmap (fun _ x => g x) y.leases }) s.launches
    endingLeases := s.endingLeases.map fun e => (e.1, e.2.1, g e.2.2) }

/-- WARMING_START (R272): at most one transmitter of a die every 100 ns. -/
def execWarmingStart (s : State) : Host.Outcome State Fault Refusal :=
  let d := s.ev.die
  .next (match warmNext s d with
    | none => s
    | some tx =>
      if s.ptp < s.warmAt.getD d 0 then s
      else { modHolder s tx (·.setTx tx (.warming (s.ptp + Config.lwake))) with warmAt := s.warmAt.set d (s.ptp + 100) })

/-- The lease that holds a transmitter, or that is ending and keeps it. -/
def leaseOf (s : State) (tx : Nat) : Option (Nat × Nat × Lease) := (allLeases s).find? fun e => e.2.2.holds tx

/-- TRANSMITTER_JOIN (R272): `CAP.LWAKE` after its warming started. -/
def execTransmitterJoin (s : State) : Host.Outcome State Fault Refusal :=
  let tx := 17 * s.ev.port + s.ev.id
  .next (match leaseOf s tx with
    | none => s
    | some (_, p, x) =>
      match x.txs.find? (·.1 == tx) with
      | some (_, .warming u, _) =>
        if s.ptp < u then s
        else (modHolder s tx fun x => { x.setTx tx .active with lastFlit := s.ptp }).poke
          ⟨.streamFlitSend, { die := x.die, peer := p }⟩
      | _ => s)

/-- The latency tolerance that applies (R282): the smaller of the ports', where one that is down has no limit. -/
def State.idleTolerance (s : State) : Nat :=
  let of := fun p : Nat => if s.portUp.getD p false then s.tolerance.getD p 0 else 0xFFFFFFFF
  min (of 0) (of 1)

/-- Parks the highest-numbered active transmitters until `floor` are active; one that warms goes on warming (R272).
(DEDUCED, log 60) -/
def parkDown : Nat → Nat → Lease → Lease
  | 0, _, x => x
  | n + 1, floor, x =>
    let on := x.txs.filter fun t => t.2.1 == .active
    if on.length ≤ floor then x
    else match on.getLast? with
      | some t => parkDown n floor (x.setTx t.1 .parked)
      | none => x

/-- PARK_DELAY_EXPIRY (R271): the queue has been empty for the park delay, and the host accepts the wake time (R283). -/
def execParkDelayExpiry (s : State) : Host.Outcome State Fault Refusal :=
  let l := s.ev.launch
  let p := s.ev.peer
  .next (match s.lease? l p with
    | none => s
    | some x =>
      let q := s.linkSet l p
      if q.park = 0 || s.idleTolerance < Config.lwake || (s.stream x.die p).depth l ≠ 0 ||
          s.ptp < x.lastFlit + 100 * q.park then s
      else s.modLease l p (parkDown x.count q.floor))

/-- STARVATION_TIMER (R270): 10 µs of unbroken starvation bring the lease up to its floor, from free transmitters and then
from the largest holders, whatever the age of theirs. The count starts again. -/
def execStarvationTimer (s : State) : Host.Outcome State Fault Refusal :=
  let l := s.ev.launch
  let p := s.ev.peer
  .next (match s.lease? l p with
    | none => s
    | some x =>
      match x.starving with
      | none => s
      | some t =>
        if s.ptp < t + 10000 then s
        else
          let on := (x.txs.filter fun t => t.2.1.rank != 0).length
          let s := growBy ((s.linkSet l p).floor - on) s l p x.die fun _ => true
          ({ s with freeCtr := s.freeCtr + 1 }.modLease l p fun x => { x with starving := some s.ptp }).poke
            ⟨.warmingStart, { die := x.die }⟩)

/-- A spare takes a transmitter's place (R279). -/
def Lease.swapTx (x : Lease) (tx spare : Nat) : Lease :=
  match x.txs.find? (·.1 == tx) with
  | some t => { x with txs := insertTx (spare, t.2) (x.dropTx tx).txs }
  | none => x

/-- Leases that are ending and have nothing queued, or no transmitter left, give theirs back (R264). What is queued goes by
the base lease. -/
def dropEnded (s : State) : State :=
  let gone := s.endingLeases.filter fun e => e.2.2.txs.isEmpty
  let sent := fun e : Nat × Nat × Lease => (s.stream e.2.2.die e.2.1).depth e.1 == 0
  let u := { s with endingLeases := s.endingLeases.filter fun e => !e.2.2.txs.isEmpty && !sent e }
  let u := (s.endingLeases.filter fun e => sent e && (s.lease? e.1 e.2.1).isNone).foldl (fun s e =>
    s.modStream e.2.2.die e.2.1 fun y => { y with queues := tdel y.queues e.1 }) u
  placeBases (gone.foldl (fun s e => requeue s e.1 e.2.1 e.2.2.die) u)

/-- A transmitter fails without a spare: the base lease takes another, a lease loses it (R279), and what one that is ending
has queued goes by the base lease. (DEDUCED, log 60) -/
def loseTx (s : State) (tx : Nat) : State :=
  let s := { s with baseTx := s.baseTx.filter fun p => p.2 != tx }
  match leaseOf s tx with
  | none => placeBases s
  | some (l, p, x) =>
    let s := modHolder s tx (·.dropTx tx)
    let s := dropEnded (dropEmpty s l p)
    placeBases (s.poke ⟨.warmingStart, { die := x.die }⟩)

/-- TRANSMITTER_FAILURE (R279, R287): the port's spare takes its place, in the lease that holds it or among the free ones;
with no spare its lease loses it. -/
def execTransmitterFailure (s : State) : Host.Outcome State Fault Refusal :=
  let tx := 17 * s.ev.port + s.ev.id
  let spare := 17 * s.ev.port + 16
  .next (if 16 ≤ s.ev.port || 17 ≤ s.ev.id || natMem s.failedTx tx then s
    else
      let s := { s with failedTx := natIns s.failedTx tx }
      if tx ≠ spare && !natMem s.failedTx spare && (tget s.spares s.ev.port).isNone then
        let s := { s with spares := tset s.spares s.ev.port s.ev.id
                          baseTx := tmap (fun _ t => if t == tx then spare else t) s.baseTx }
        (modHolder s tx (·.swapTx tx spare)).logRas
          { time := 0, seq := 0, kind := 14, die := s.ev.port / 4, unit := 13, index := s.ev.port
            detail := detail 2 0 0 0 }
      else loseTx s tx)

/-! ### Sending (R273, R275, R276) -/

/-- The 32-byte payloads of a packet's flits. -/
def packetFlits (p : Packet) : List Nat :=
  let b := leBytes p.header.toNat 8 ++ p.words.flatMap fun w => leBytes w.toNat 8
  (List.range p.flits).map fun i => leNat ((b.drop (32 * i)).take 32)

/-- A numbered flit: check, sequence and payload (R273). -/
def flitOf (seq payload : Nat) : Nat :=
  let check := crc16 (leBytes seq 2 ++ leBytes payload 32)
  payload * 2 ^ 32 + check * 2 ^ 16 + seq % 2 ^ 16

/-- Transmitters a queue's holder has: its lease's, that of a lease that is ending, or the base lease's. -/
def heldTx (s : State) (die peer key : Nat) : Nat :=
  if key = 256 then 1
  else
    let mine := (allLeases s).filter fun e => e.1 == key && e.2.1 == peer && e.2.2.die == die
    max 1 (mine.map fun e => e.2.2.count).sum

/-- The queue the stream takes its next packet from: the fewest flits sent for each transmitter held; then the lowest
launch id, the base lease last. -/
def nextQueue (s : State) (die peer : Nat) (x : Stream) : Option Nat :=
  let qs := x.queues.filter fun q => !q.2.1.isEmpty
  let less := fun a b : Nat × List Packet × Nat => decide (a.2.2 * heldTx s die peer b.1 < b.2.2 * heldTx s die peer a.1)
  match qs with
  | [] => none
  | q :: r => some (r.foldl (fun a b => if less b a then b else a) q).1

/-- Appends a whole packet when the stream has none under way. -/
def refillPending (s : State) (die peer : Nat) (x : Stream) : Stream :=
  if !x.pending.isEmpty then x
  else match nextQueue s die peer x with
    | none => x
    | some key =>
      match (tget x.queues key).getD ([], 0) with
      | (p :: r, n) =>
        { x with queues := tset x.queues key (r, n + p.flits)
                 pending := (packetFlits p).map fun f => (key, p.launch, f) }
      | _ => x

/-- One flit starts on a transmitter; a stream with 256 flits unacknowledged stalls. (DESIGN CHOICE, log 62) -/
def sendFlit (die peer : Nat) (s : State) (tx : Nat) : State :=
  let x := refillPending s die peer (s.stream die peer)
  match x.pending with
  | [] => s
  | (key, _, f) :: r =>
    if 256 ≤ x.unacked.length then s
    else
      let seq := x.nextSeq
      let flit := flitOf seq f
      let x := { x with
        pending := r, nextSeq := (seq + 1) % 2 ^ 16, unacked := x.unacked ++ [(seq, flit, s.ptp, 0)]
        ackedAt := if x.unacked.isEmpty then s.ptp else x.ackedAt }
      let s := (s.modStream die peer fun _ => x).notify (.flit die peer tx flit)
      if key = 256 then s else s.modLease key peer fun y => { y with lastFlit := s.ptp }

/-- STREAM_FLIT_SEND (R275): at a flit boundary the next flits of the stream start, one on each of its active transmitters,
in transmitter order. (DESIGN CHOICE, log 62) -/
def execStreamFlitSend (s : State) : Host.Outcome State Fault Refusal :=
  let d := s.ev.die
  let p := s.ev.peer
  .next (if boundary s < (s.stream d p).nextBoundary || !natMem s.linked p then s
    else
      let s := placeBases (s.modStream d p fun x => { x with nextBoundary := boundary s + 1 })
      dropEnded ((streamTxs s d p).foldl (sendFlit d p) s))

/-- The transmitter that carries a control flit or a replayed one: the base lease's where the stream has it, else the first
that sends. (DESIGN CHOICE, log 62) -/
def controlTx (s : State) (die peer : Nat) : Option Nat :=
  match if s.baseDie peer = die then tget s.baseTx peer else none with
  | some tx => some tx
  | none => match (streamTxs s die peer).head? with
    | some tx => some tx
    | none => tget s.baseTx peer

/-- Sends an unacknowledged flit again; the 16th replay loses the peer (R278). -/
def replayFlit (s : State) (die peer seq : Nat) : State :=
  match (s.stream die peer).unacked.find? (·.1 == seq) with
  | none => s
  | some (_, f, _, n) =>
    let s := s.modStream die peer fun x => { x with
      unacked := x.unacked.map fun u => if u.1 == seq then (u.1, u.2.1, s.ptp, u.2.2.2 + 1) else u }
    let s := match controlTx s die peer with
      | some tx => s.notify (.flit die peer tx f)
      | none => s
    if 16 ≤ n + 1 then s.poke ⟨.peerUnreachable, { peer := peer }⟩ else s

/-- A packet of the payloads of its flits. -/
def packetOf (l : List Nat) : Packet :=
  let b := l.flatMap fun f => leBytes f 32
  { header := word (leNat (b.take 8))
    words := (List.range (4 * l.length - 1)).map fun i => word (leNat ((b.drop (8 * (i + 1))).take 8)) }

/-- The flit's check holds (R273). -/
def flitChecks (flit : Nat) : Bool := flitOf (flit % 2 ^ 16) (flit / 2 ^ 32 % 2 ^ 256) == flit

/-- The packet of a link-control flit (R274, R276): kind 6; after the header the sending die of the stream it is about [1:0],
the sequence below which every flit has been received [31:16], and a replay request [47:32] where bit 48 is set; then the
time of an IEEE 1588 message, 0 for none. (DESIGN CHOICE, log 62) -/
def controlPacket (die ack : Nat) (replay : Option Nat) : Packet :=
  { header := packetHeader 6 1 false 0 0 0 0
    words := [word (die + ack * 2 ^ 16 + match replay with
      | some q => q * 2 ^ 32 + 2 ^ 48
      | none => 0)] }

/-- A link-control flit has sequence 0 and the check (R273). -/
def controlFlit (die ack : Nat) (replay : Option Nat) : Nat := flitOf 0 ((packetFlits (controlPacket die ack replay)).headD 0)

/-- The stream from a die has been acknowledged below a sequence, and a flit may be asked for again. -/
def takeAck (s : State) (die peer ack : Nat) (replay : Option Nat) : State :=
  let x := s.stream die peer
  let first := ((x.unacked.head?).map (·.1)).getD x.nextSeq
  let k := (ack + 2 ^ 16 - first) % 2 ^ 16
  let s := if x.unacked.length < k then s
    else s.modStream die peer fun x => { x with unacked := x.unacked.drop k, ackedAt := s.ptp }
  let s := match replay with
    | some q => replayFlit s die peer q
    | none => s
  s.poke ⟨.streamFlitSend, { die := die, peer := peer }⟩

/-- An IEEE 1588 message of the peer that is the time source: the time unit slews toward its time (R20, R276).
(DESIGN CHOICE, log 62) -/
def takeTime (s : State) (peer time : Nat) : State :=
  if s.cfg.timeFromPeer == some peer && time ≠ 0 then { s with slew := (17 * time : Int) - (s.ptp17 : Int) } else s

/-- What a link-control packet does (R276). -/
def takeControl (s : State) (peer : Nat) (p : Packet) : State :=
  let w := (p.words.getD 0 0).toNat
  takeTime (takeAck s (bitsOf w 1 0) peer (bitsOf w 31 16) (if w.testBit 48 then some (bitsOf w 47 32) else none)) peer
    (p.words.getD 1 0).toNat

/-- LINK_CONTROL_RECEIVED (R276): the flit `n` of a peer. One whose check fails, or that is no link-control flit, is
discarded. -/
def execLinkControlReceived (s : State) : Host.Outcome State Fault Refusal :=
  let x := packetOf [s.ev.n / 2 ^ 32]
  .next (if !natMem s.linked s.ev.peer || !flitChecks s.ev.n || s.ev.n % 2 ^ 16 ≠ 0 || x.kind ≠ 6 then s
    else takeControl s s.ev.peer x)

/-- REPLAY_TIMEOUT (R276): every unacknowledged flit older than 2 µs is sent again, the oldest first. -/
def execReplayTimeout (s : State) : Host.Outcome State Fault Refusal :=
  let d := s.ev.die
  let p := s.ev.peer
  .next ((((s.stream d p).unacked.filter fun u => decide (u.2.2.1 + 2000 < s.ptp)).map (·.1)).foldl
    (fun s q => replayFlit s d p q) s)

/-! ### Receiving (R276) -/

/-- A message from a peer goes to its core (R264, R35). (DEDUCED, log 47) -/
def inboundMessage (s : State) (peer : Nat) (p : Packet) : State :=
  let lo := p.words.getD 0 0
  let hi := p.words.getD 1 0
  let m : Msg := { lo := lo, hi := hi, words := (p.words.drop 2).take (bitsOf hi.toNat 3 0) }
  let id := s.nextId
  ({ s.fresh with transits := tset s.transits id { msg := m, sender := .peer peer 0 p.transaction, dest := m.core } }).poke
    ⟨.messageArrival, { id := id }⟩

/-- A packet is whole: it is handed to its die. One of no kind of R274 is discarded and logged. -/
def handPacket (s : State) (die peer : Nat) (p : Packet) : State :=
  if p.kind = 1 then inboundMessage s peer p
  else if p.kind = 6 then takeControl s peer p
  else match packetHandler p.kind with
    | some i =>
      (s.modStream die peer fun x => { x with rxPackets := x.rxPackets ++ [p] }).poke ⟨i, { die := die, peer := peer }⟩
    | none => s.logRas { time := 0, seq := 0, kind := 11, die := die, unit := 13, detail := detail p.header.toNat 0 0 0 }

/-- Hands over the flits held in sequence. -/
def handFlits : Nat → State → Nat → Nat → State
  | 0, s, _, _ => s
  | n + 1, s, die, peer =>
    let x := s.stream die peer
    match tget x.rxHeld x.rxNext with
    | none => s
    | some f =>
      let part := x.rxPart ++ [f.1]
      let whole := bitsOf (part.headD 0) 59 58 + 1 ≤ part.length
      let s := s.modStream die peer fun x => { x with
        rxHeld := tdel x.rxHeld x.rxNext, rxNext := (x.rxNext + 1) % 2 ^ 16, rxPart := if whole then [] else part }
      handFlits n (if whole then handPacket s die peer (packetOf part) else s) die peer

/-- Since when the gap of a stream counts (R276): the oldest flit held above the lowest missing one came then; none where
nothing is held. -/
def gapSince (x : Stream) : Option Nat :=
  match x.rxHeld with
  | [] => none
  | f :: r => some (r.foldl (fun t g => min t g.2.2) f.2.2)

/-- FLIT_RECEIVED (R276): a flit (`n`) of the stream from the peer's die `die`. -/
def execFlitReceived (s : State) : Host.Outcome State Fault Refusal :=
  let d := s.ev.die
  let p := s.ev.peer
  let seq := s.ev.n % 2 ^ 16
  let x := s.stream d p
  .next (if !natMem s.linked p || !flitChecks s.ev.n || 256 ≤ (seq + 2 ^ 16 - x.rxNext) % 2 ^ 16 then s
    else
      let s := s.modStream d p fun x => { x with
        rxHeld := tset x.rxHeld seq (s.ev.n / 2 ^ 32, s.ptp), rxAckTime := if x.rxNext = x.rxAcked then s.ptp else x.rxAckTime }
      let s := handFlits 256 s d p
      s.modStream d p fun y => { y with
        rxGap := if y.rxNext = x.rxNext && x.rxGap.isSome then x.rxGap else gapSince y })

/-- Sends an acknowledgement, with a replay request or without (R276). -/
def sendControl (s : State) (die peer : Nat) (replay : Option Nat) : State :=
  match controlTx s die peer with
  | none => s
  | some tx =>
    let x := s.stream die peer
    (s.modStream die peer fun x => { x with rxAcked := x.rxNext, rxAckTime := s.ptp }).notify
      (.control die peer tx (controlFlit die x.rxNext replay))

/-- REPLAY_REQUEST_TIMER (R276): a gap held for 16 ns. -/
def execReplayRequestTimer (s : State) : Host.Outcome State Fault Refusal :=
  let d := s.ev.die
  let p := s.ev.peer
  let x := s.stream d p
  .next (match x.rxGap with
    | some t =>
      if s.ptp < t + 16 || x.rxHeld.isEmpty then s
      else (sendControl s d p (some x.rxNext)).modStream d p fun x => { x with rxGap := some s.ptp }
    | none => s)

/-- ACK_TIMER (R276): at least every 256 ns while flits are unacknowledged. -/
def execAckTimer (s : State) : Host.Outcome State Fault Refusal :=
  let x := s.stream s.ev.die s.ev.peer
  .next (if x.rxNext ≠ x.rxAcked && x.rxAckTime + 256 ≤ s.ptp then sendControl s s.ev.die s.ev.peer none else s)

/-! ### Requests and responses of a peer (R274, R277) -/

/-- The hearth that a request to SRAM space concerns (R111). -/
def Packet.hearth? (p : Packet) : Option Nat :=
  let a := (p.words.getD 0 0).toNat
  if 2 ≤ p.kind && p.kind ≤ 4 && bitsOf a 63 56 == 0xFE then some (bitsOf a 49 40) else none

/-- Takes the oldest received packet of a kind; its hearth is woken first, and the packet waits until it is (R284). -/
def takePacket (s : State) (kind : Nat) (k : State → Packet → State) : State :=
  let d := s.ev.die
  let p := s.ev.peer
  match (s.stream d p).rxPackets.find? (·.kind == kind) with
  | none => s
  | some x =>
    let s := match x.hearth? with
      | some h => rouse s h
      | none => s
    if (x.hearth?.map fun h => awake s h) == some false then s
    else k (s.modStream d p fun y => { y with rxPackets := y.rxPackets.erase x }) x

/-- The peer may reach the bytes at a PA (R277). -/
def inWindows (s : State) (peer pa n : Nat) : Bool :=
  s.cfg.peerWindows.any fun w => w.1 == peer && decide (w.2.1 ≤ pa) && decide (pa + n ≤ w.2.1 + w.2.2)

/-- A peer's request: checked, performed and answered. In SRAM space R115 holds, with the launch id in place of the
ASID; a PA is reached at the line's home. -/
def serveRequest (s : State) (p : Packet) (op : PeerOp) : State :=
  let peer := s.ev.peer
  let a := (p.words.getD 0 0).toNat
  let n := 2 ^ p.size
  let answer := fun (s : State) (st : Nat) (v : Word) => respond s peer p.launch p.transaction st v
  if 8 < n then answer s 2 0
  else if 0xFE ≤ a / 2 ^ 56 then
    let h := bitsOf a 49 40
    let u := bitsOf a 39 36
    let off := bitsOf a 31 0
    if bitsOf a 63 56 ≠ 0xFE || !s.thisDevice (bitsOf a 55 50) || 8 < u || bitsOf a 35 32 ≠ 0 then answer s 2 0
    else match unitRefusal s h u off n fun l => l == p.launch with
      | some why => answer s why 0
      | none =>
        let q := peerPerform s peer p.launch (sramKey h u off) n op
        answer q.2.2 q.1 q.2.1
  else
    let pa := a % 2 ^ 46
    if !inWindows s peer pa n then answer s 1 0
    else if Config.hbmBytes < pa + n then answer s 2 0
    else atHome s (pa / 128) (.host (.peer peer p.launch p.transaction pa n op))

/-- PEER_READ (R277). -/
def execPeerRead (s : State) : Host.Outcome State Fault Refusal :=
  .next (takePacket s 2 fun s p => serveRequest s p .read)

/-- PEER_WRITE (R277). -/
def execPeerWrite (s : State) : Host.Outcome State Fault Refusal :=
  .next (takePacket s 3 fun s p => serveRequest s p (.write (p.words.getD 1 0) p.poison))

/-- PEER_ATOMIC (R277). -/
def execPeerAtomic (s : State) : Host.Outcome State Fault Refusal :=
  .next (takePacket s 4 fun s p =>
    serveRequest s p (.atomic (p.op % 8) (p.op.testBit 3) (p.words.getD 1 0) (p.words.getD 2 0)))

/-- Die a sender counts its message in flight on (R152). -/
def Sender.die : Sender → Nat
  | .task c _ => dieOf c
  | .spawn c _ => dieOf c
  | .migrate c _ => dieOf c
  | _ => 0

/-- A response to a message: the peer's acceptance, or a refusal that Tongs retries (R46). (DEDUCED, log 61) -/
def messageAnswered (s : State) (id status : Nat) : State :=
  match tget s.transits id with
  | none => s
  | some t =>
    if status = 5 then refusalAt s id t
    else
      let s := (s.dropTransit id).inflight t.msg.launch t.sender.die (-1)
      (senderAccepted s id t.sender).pokeLaunch t.msg.launch

/-- PEER_RESPONSE (R274): matched to its request. Accesses that waited behind the request go on (R131).
(DEDUCED, log 61) -/
def execPeerResponse (s : State) : Host.Outcome State Fault Refusal :=
  .next (takePacket s 5 fun s p => releaseBehind (
    let key := transKey s.ev.peer p.transaction
    match tget s.transactions key with
    | none => s
    | some (isMsg, id) =>
      let s := { s with transactions := tdel s.transactions key }
      if isMsg then messageAnswered s id p.op
      else match tget s.remotes id with
        | none => s
        | some r =>
          if p.op = 0 && !p.poison then answered s id r (p.words.getD 0 0).toNat
          else refused s id r (if p.op = 0 then 3 else p.op)))

/-! ### Losing a peer (R278) -/

/-- A stream toward the peer has failed: 16 replays of one flit, or 100 µs without an acknowledgement. -/
def streamLost (s : State) (x : Stream) : Bool :=
  (x.unacked.any fun u => decide (16 ≤ u.2.2.2)) || (!x.unacked.isEmpty && decide (x.ackedAt + 100000 ≤ s.ptp))

/-- What becomes of a request that is discarded: the message is given up, the access refused with reason 4.
(DEDUCED, log 61) -/
def endRequest (s : State) (t : Bool × Nat) : State :=
  if t.1 then
    match tget s.transits t.2 with
    | some x => (giveUp s t.2 x).pokeLaunch x.msg.launch
    | none => s
  else match tget s.remotes t.2 with
    | some r => refused s t.2 r 4
    | none => s

/-- Every stream of a peer starts again from nothing. (DEDUCED, log 61) -/
def resetStreams (s : State) (peer : Nat) : State :=
  [0, 1, 2, 3].foldl (fun s d => s.modStream d peer fun x => { nextTransaction := x.nextTransaction }) s

/-- DISCIPLINE_LOSS: the time unit runs free in holdover, which is recorded (R21, R292). (DEDUCED, log 75) -/
def loseDiscipline (s : State) : State :=
  if s.holdover then s
  else { s with holdover := true }.logRas { time := 0, seq := 0, kind := 10, detail := detail 1 0 0 0 }

/-- Kind 6 (R292): a peer is unreachable (0) or linked again (1), with the die and port of its base lease. -/
def peerRecord (s : State) (peer how port : Nat) : State :=
  s.logRas { time := 0, seq := 0, kind := 6, die := s.baseDie peer, unit := 13, index := port
             detail := detail (peer + 256 * how) 0 0 0 }

/-- Accesses toward a peer that wait behind others and have not left (R131): numbers. -/
def behindPeer (s : State) (peer : Nat) : List (Bool × Nat) :=
  s.remotes.filterMap fun p => if p.2.peer == some peer && p.2.stage == .behind then some (false, p.1) else none

/-- PEER_UNREACHABLE (R278): every lease toward the peer ends, what is queued or unacknowledged is discarded and its requests
end; its slots are trained again in a second. A peer that was the time source is lost as one (R21).
(DEDUCED, log 61) -/
def execPeerUnreachable (s : State) : Host.Outcome State Fault Refusal :=
  let p := s.ev.peer
  let port := ((tget s.baseTx p).map txPort).getD 0
  .next (if !natMem s.linked p || !([0, 1, 2, 3].any fun d => streamLost s (s.stream d p)) then s
    else
      let s := { s with linked := natDel s.linked p, baseTx := tdel s.baseTx p
                        retrainAt := tset s.retrainAt p (s.ptp + Config.retrainPeriod)
                        endingLeases := s.endingLeases.filter fun e => e.2.1 != p
                        launches := tmap (fun _ x => { x with leases := tdel x.leases p }) s.launches }
      let mine := s.transactions.filter fun t => t.1 / 2 ^ 16 == p
      let s := resetStreams { s with transactions := s.transactions.filter fun t => t.1 / 2 ^ 16 != p } p
      let waiting := s.transits.filter fun t => match t.2.leg with
        | .waiting _ => t.2.peer? s == some p
        | _ => false
      let s := (mine.map (·.2) ++ behindPeer s p ++ waiting.map fun t => (true, t.1)).foldl endRequest s
      let s := peerRecord (relight (releaseBehind s)) p 0 port
      if s.cfg.timeFromPeer == some p then loseDiscipline s else s)

/-- LINK_RETRAIN (R278): once a second the links role trains an unreachable peer's slots; where that succeeds, which a free
value says where `flag` does not, the peer is linked again, with a base lease. (DEDUCED, log 61) -/
def execLinkRetrain (s : State) : Host.Outcome State Fault Refusal :=
  let p := s.ev.peer
  .next (match tget s.retrainAt p with
    | none => s
    | some at_ =>
      if s.ptp < at_ then s
      else
        let ok := s.ev.flag || Config.freeBit s.freeCtr
        let s := { s with freeCtr := s.freeCtr + 1 }
        if !ok then { s with retrainAt := tset s.retrainAt p (s.ptp + Config.retrainPeriod) }
        else
          let s := resetStreams { s with linked := natIns s.linked p, retrainAt := tdel s.retrainAt p } p
          let s := relight s
          let s := peerRecord s p 1 (((tget s.baseTx p).map txPort).getD 0)
          if s.holdover && s.cfg.timeFromPeer == some p then s.poke ⟨.disciplineReturn, {}⟩ else s)

end Sys2Proof.Machine
end

