-- ==== Sys2Proof/Machine/Digest.lean ====
section
/-! DEFINITION. The SHAKE256 digest of 32 bytes that an attestation report gives of the firmware image and of the configuration
table (R293). The state of the sponge is one number of 1,600 bits, lane 0 lowest. -/

namespace Sys2Proof.Machine

/-- Goes on with a number once it has been worked out. -/
def withNat {α : Type} (n : Nat) (k : Nat → α) : α :=
  match n with
  | 0 => k 0
  | m + 1 => k (m + 1)

/-- A 64-bit lane of the state, and the state of 25 lanes. -/
def lane (a i : Nat) : Nat := a >>> (64 * i) % 2 ^ 64
def lanes (f : Nat → Nat) (n : Nat) : Nat := (List.range n).foldr (fun i r => f i + 2 ^ 64 * r) 0

def rotLane (x n : Nat) : Nat := ((x <<< n) ||| (x >>> (64 - n))) % 2 ^ 64

/-- Rotation of each lane, and the constant of each round. -/
def laneTurns : List Nat :=
  [0, 1, 62, 28, 27, 36, 44, 6, 55, 20, 3, 10, 43, 25, 39, 41, 45, 15, 21, 8, 18, 2, 61, 56, 14]
def roundConstants : List Nat :=
  [0x1, 0x8082, 0x800000000000808A, 0x8000000080008000, 0x808B, 0x80000001] ++
  [0x8000000080008081, 0x8000000000008009, 0x8A, 0x88, 0x80008009, 0x8000000A] ++
  [0x8000808B, 0x800000000000008B, 0x8000000000008089, 0x8000000000008003, 0x8000000000008002, 0x8000000000000080] ++
  [0x800A, 0x800000008000000A, 0x8000000080008081, 0x8000000000008080, 0x80000001, 0x8000000080008008]

/-- One round: the parities of the columns are mixed in, the lanes are turned and moved, each row is combined, and the
constant is added. -/
def spongeRound (a rc : Nat) : Nat :=
  withNat (lanes (fun x => lane a x ^^^ lane a (x + 5) ^^^ lane a (x + 10) ^^^ lane a (x + 15) ^^^ lane a (x + 20)) 5) fun c =>
  withNat (lanes (fun i => lane a i ^^^ lane c ((i + 4) % 5) ^^^ rotLane (lane c ((i + 1) % 5)) 1) 25) fun t =>
  withNat (lanes (fun j =>
    let i := (j % 5 + 3 * (j / 5)) % 5 + 5 * (j % 5)
    rotLane (lane t i) (laneTurns.getD i 0)) 25) fun b =>
  lanes (fun j =>
    let r := 5 * (j / 5)
    lane b j ^^^ ((2 ^ 64 - 1 ^^^ lane b (r + (j + 1) % 5)) &&& lane b (r + (j + 2) % 5)) ^^^ (if j = 0 then rc else 0)) 25

def spongeRounds : List Nat → Nat → Nat
  | [], a => a
  | rc :: r, a => withNat (spongeRound a rc) (spongeRounds r)

/-- Takes in blocks of 136 bytes; the last is filled with 0x1F, zeros and 0x80. -/
def absorb : Nat → List Byte → Nat → Nat
  | 0, _, a => a
  | n + 1, l, a =>
    if l.length < 136 then
      spongeRounds roundConstants (a ^^^ leNat l ^^^ 0x1F <<< (8 * l.length) ^^^ 0x80 <<< (8 * 135))
    else withNat (spongeRounds roundConstants (a ^^^ leNat (l.take 136))) (absorb n (l.drop 136))

/-- The first 32 bytes of SHAKE256 over some bytes. -/
def digest (l : List Byte) : List Byte := leBytes (absorb (l.length / 136 + 1) l 0) 32

end Sys2Proof.Machine
end

