-- ==== Sys2Proof/Machine/Service.lean ====
section
/-! DEFINITION. Power and idle states (R282-R284), heat and tokens (R23, R25), time (R20, R21), errors, spares and retirement
(R12, R285-R287), boot (R288, R289) and the management port (R289-R293). -/

namespace Sys2Proof.Machine

/-! ### Idle states (R282-R284) -/

/-- The hearth whose core or whose distributor sends a message. -/
def Sender.hearth? : Sender → Option Nat
  | .task c _ => some (c / 8)
  | .spawn c _ => some (c / 8)
  | .migrate c _ => some (c / 8)
  | _ => none

/-- Tongs of a hearth has work: a message it has not handed over, or an access that is outstanding. -/
def tongsBusy (s : State) (h : Nat) : Bool :=
  (s.transits.any fun p => Sender.hearth? p.2.sender == some h) || s.remotes.any fun p => p.2.core / 8 == h

/-- The hearth is idle (R283): no task, no queued message, and its lanes, Anvil and Tongs idle. -/
def hearthIdle (s : State) (h : Nat) : Bool :=
  !tongsBusy s h && ((List.range 8).all fun i =>
    let k := s.core (8 * h + i)
    !k.busy && k.hwq.isEmpty && k.ring.isEmpty && k.commands.isEmpty && k.lanes.isEmpty && k.bound.isEmpty &&
      k.transfers.isEmpty) && (s.hearth h).ops.isEmpty

/-- CLOCK_GATE (R283): exit in 20 ns. -/
def execClockGate (s : State) : Host.Outcome State Fault Refusal :=
  let h := s.ev.hearth
  .next (if hearthIdle s h && !(s.hearth h).clockGated && 20 ≤ s.idleTolerance then
      s.modHearth h fun x => { x with clockGated := true, idleSince := s.ptp }
    else s)

/-- A launch with a participating core on the hearth has a `SLACK` below 64 µs (R284). -/
def slackTight (s : State) (h : Nat) : Bool :=
  s.launches.any fun p => s.hearthIn p.1 h && match s.fire? p.1 with
    | some t => decide (t < s.ptp + 64000)
    | none => false

/-- POWER_GATE_TIMER (R283): clock-gated for 64 µs. A logical hearth holds no role of the firmware
column, which occupies spare sites (R13). -/
def execPowerGateTimer (s : State) : Host.Outcome State Fault Refusal :=
  let h := s.ev.hearth
  let x := s.hearth h
  .next (if x.clockGated && !x.powerGated && x.idleSince + 64000 ≤ s.ptp && 2000 ≤ s.idleTolerance && !slackTight s h then
      s.modHearth h fun x => { x with powerGated := true }
    else s)

/-- HBM_SELF_REFRESH (R283): no access to the stack for 10 µs. -/
def execHbmSelfRefresh (s : State) : Host.Outcome State Fault Refusal :=
  let i := s.ev.id
  .next (if i < 12 && s.hbmAccess.getD i 0 + 10000 ≤ s.ptp && 3000 ≤ s.idleTolerance then
      { s with selfRefresh := s.selfRefresh.set i true }
    else s)

/-- The die has nothing to do (R283). -/
def dieUnused (s : State) (d : Nat) : Bool :=
  !(s.launches.any fun p => (p.2.cores ++ p.2.gangCores).any fun c => dieOf c == d) &&
    !(s.firmwareSites.any fun f => f.1 == d) && !([0, 1].any fun p => s.portUp.getD p false && portDie p == d) &&
    [0, 1, 2].all fun i => s.selfRefresh.getD (3 * d + i) false

/-- DIE_POWER_PARK (R283): the dirty lines of the die's LLC are written back first. -/
def execDiePowerPark (s : State) : Host.Outcome State Fault Refusal :=
  let d := s.ev.die
  .next (if d < 4 && dieUnused s d && 40000 ≤ s.idleTolerance then
      { s with
        homes := tmap (fun line h => if homeHearth s line / 256 = d then { h with dir := { h.dir with dirty := false } } else h) s.homes
        powerParked := s.powerParked.set d true }
    else s)

/-- Every parked transmitter of every lease wakes (R283). -/
def wakeLeases (s : State) : State :=
  (s.launches.flatMap fun l => l.2.leases.map fun p => (l.1, p.1)).foldl (fun s p => wakeLease s p.1 p.2) s

/-- Units whose idle state takes longer to leave than the host accepts are woken (R284). -/
def wakeMisfits (s : State) : State :=
  let n := s.idleTolerance
  let s := { s with
    hearths := tmap (fun _ x => { x with clockGated := x.clockGated && decide (20 ≤ n), powerGated := x.powerGated && decide (2000 ≤ n) })
      s.hearths
    selfRefresh := s.selfRefresh.map (· && decide (3000 ≤ n))
    powerParked := s.powerParked.map (· && decide (40000 ≤ n)) }
  if n < Config.lwake then wakeLeases s else s

/-- LATENCY_TOLERANCE_WRITE (R282): 8 bytes wide, or ignored. -/
def execLatencyToleranceWrite (s : State) : Host.Outcome State Fault Refusal :=
  let p := s.ev.port
  .next (if s.ev.bytes.length ≠ 8 || 2 ≤ p || !portOpen s p then s
    else wakeMisfits { s with tolerance := s.tolerance.set p (leNat s.ev.bytes % 2 ^ 32) })

/-! ### Host ports and time (R20, R21, R282) -/

/-- A source disciplines the time: a peer, or a host port that is up (R20). -/
def hasSource (s : State) : Bool :=
  match s.cfg.timeFromPeer with
  | some p => natMem s.linked p
  | none => s.portUp.getD 0 false && s.cfg.port0 == some .pcie || s.portUp.getD 1 false

/-- DISCIPLINE_LOSS (R21): the time unit runs free in holdover. -/
def execDisciplineLoss (s : State) : Host.Outcome State Fault Refusal := .next (loseDiscipline s)

/-- DISCIPLINE_RETURN (R20, R21): the source is `int` seventeenths of a nanosecond ahead. The time unit slews to it, never
backwards; a holdover ends, which is recorded. (DEDUCED, log 75) -/
def execDisciplineReturn (s : State) : Host.Outcome State Fault Refusal :=
  .next (if !hasSource s then s
    else
      let t := { s with slew := s.ev.int, slewCycles := 0 }
      if s.holdover then { t with holdover := false }.logRas { time := 0, seq := 0, kind := 10 } else t)

/-- HOST_PORT_DOWN (R282): its tolerance counts as no limit, and the discipline moves to the other port if that can
serve. -/
def execHostPortDown (s : State) : Host.Outcome State Fault Refusal :=
  .next (if 2 ≤ s.ev.port then s
    else
      let s := { s with portUp := s.portUp.set s.ev.port false }
      if hasSource s then s else loseDiscipline s)

/-- HOST_PORT_UP (R282). -/
def execHostPortUp (s : State) : Host.Outcome State Fault Refusal :=
  .next (if 2 ≤ s.ev.port then s
    else
      let s := wakeMisfits { s with portUp := s.portUp.set s.ev.port true }
      if s.holdover && hasSource s then s.poke ⟨.disciplineReturn, {}⟩ else s)

/-! ### Heat and power (R23, R25) -/

/-- Kind 18 (R292): a die's token count is halved (1) or restored (0). -/
def throttleRecord (s : State) (d on : Nat) : State :=
  s.logRas { time := 0, seq := 0, kind := 18, die := d, detail := detail on 0 0 0 }

/-- THERMAL_READING (R25): a hearth reads `int` eighths of a degree. Above 105 °C the die's tokens are halved, until every
hearth reads below 100 °C; at 115 °C the die is parked. (DESIGN CHOICE, log 67) -/
def execThermalReading (s : State) : Host.Outcome State Fault Refusal :=
  let h := s.ev.hearth
  let d := h / 256
  .next (if Config.numHearths ≤ h then s
    else
      let s := s.modHearth h fun x => { x with temp := s.ev.int }
      let s := if 840 < s.ev.int && !s.halved.getD d false then
          throttleRecord (retoken { s with halved := s.halved.set d true } d) d 1
        else if s.halved.getD d false && s.hearths.all fun p => p.1 / 256 != d || decide (p.2.temp < 800) then
          throttleRecord (retoken { s with halved := s.halved.set d false } d) d 0
        else s
      if 920 ≤ s.ev.int then parkDie s d 0 else s)

/-- POWER_LIMIT_EXCEED (R23): above the limit the part lowers a die's token count to `n`; with `flag` set the module is
below it again and the firmware setting holds. -/
def execPowerLimitExceed (s : State) : Host.Outcome State Fault Refusal :=
  let d := s.ev.die
  .next (if 4 ≤ d then s
    else retoken { s with
      tokens := s.tokens.set d (if s.ev.flag then s.cfg.tokens else min s.ev.n (s.tokens.getD d 0)) } d)

/-! ### Errors (R285, R287) -/

/-- Kind 1 (R292): an error corrected in a structure (0 SRAM, 1 register file, 2 HBM, 3 directory, tag or TLB). -/
def correctedRecord (s : State) (h what unit index addr syndrome : Nat) : State :=
  let s := s.logRas { time := 0, seq := 0, kind := 1, die := h / 256, hearth := h, unit := unit, index := index, addr := addr
                      detail := detail (syndrome % 2 ^ 16 + 2 ^ 16 * what) 0 0 0 }
  let s := s.modHearth h fun x => { x with corrections := x.corrections + 1 }
  if s.cfg.correctionLimit ≠ 0 && s.cfg.correctionLimit ≤ (s.hearth h).corrections then s.poke ⟨.hearthRetire, { hearth := h }⟩
  else s

/-- A register entry that can no longer be read right becomes full-faulted: a named register of the frame (kind 0), or of the
one below it from number 32 on, an entry of the queue (1), of a vector register (2), of the composer (3), or of what a handler's
entry keeps: its queue (4) or n24-n31 (5). (PRESUMED, log 64) -/
def faultEntry (s : State) (c t kind i : Nat) : State :=
  let bad : Reg := ⟨0, .faulted true 0 0⟩
  s.modSlotAt c t fun sl =>
    match kind with
    | 0 =>
      if i < 32 then { sl with win := { sl.win with act := sl.win.act.set i bad } }
      else { sl with win := { sl.win with below := sl.win.below.map fun f => { f with regs := f.regs.set (i - 32) bad } } }
    | 1 => { sl with queue := sl.queue.set i bad }
    | 3 => { sl with composer := sl.composer.set i bad }
    | 4 => { sl with shadow := sl.shadow.map fun h => { h with queue := h.queue.set i bad } }
    | 5 => { sl with shadow := sl.shadow.map fun h => { h with args := h.args.set i bad } }
    | _ => { sl with vfaults := sl.vfaults.set i (some { poison := true, addr := 0, pc := 0 }) }

/-- A row of HBM: the stack and the 4 KiB block, as far as the manual gives its rows. (PRESUMED, log 64) -/
def hbmRow (pa : Nat) : Nat := pa / 4096

/-- Hearth and unit of a structure in a record (R292), as an event names it: by the key of a granule of a scratchpad or pool
(0), the
L1, the tags, the TLB or the object-table reads of a core (1), the LLC slice or the directory of a hearth (2), or a TLB of a
hearth (3). (PRESUMED, log 64) -/
def sramUnit (a : Args) : Nat × Nat :=
  match a.queue, keyUnit a.id with
  | 0, some (h, u, _) => (h, u)
  | 1, _ => (a.core / 8, a.core % 8)
  | 2, _ => (a.hearth, 9)
  | _, _ => (a.hearth, 255)

/-- An error of HBM that was corrected: a row with four of them is spared (R285). (PRESUMED, log 64) -/
def hbmCorrected (s : State) (pa syndrome : Nat) : State :=
  let row := hbmRow pa
  let k := (tget s.hbmCorrections row).getD 0 + 1
  let s := { s with hbmCorrections := tset s.hbmCorrections row k
                    sparedRows := if 4 ≤ k then natIns s.sparedRows row else s.sparedRows }
  s.logRas { time := 0, seq := 0, kind := 1, die := hbmDie pa, unit := 12, index := hbmStack pa, addr := pa
             detail := detail (syndrome % 2 ^ 16 + 2 ^ 16 * 2) 0 0 0 }

/-- SOFT_ERROR (R285) in structure `n`: 0 SRAM (the granule of key `id`), 1 a register file (entry `id` of kind `queue`),
2 HBM, 3 a directory, tag, TLB or object-table read for the address `id`, 4 an instruction cache line, 5 the carried check of a
granule, 6 a channel of HBM, which is spared. `flag`: it cannot be corrected; `port` is the syndrome of one that can.
(PRESUMED, log 64) -/
def execSoftError (s : State) : Host.Outcome State Fault Refusal :=
  let a := s.ev
  let q := sramUnit a
  .next (match a.n with
    | 0 =>
      if a.flag then originRecord (poisonGranule s a.id) 1 (q.1 / 256) q.1 q.2 0 a.id
      else correctedRecord s q.1 0 q.2 0 a.id a.port
    | 1 =>
      if a.flag then originRecord (faultEntry s a.core a.slot a.queue a.id) 1 (dieOf a.core) (a.core / 8) (a.core % 8) a.slot 0
      else correctedRecord s (a.core / 8) 1 (a.core % 8) a.slot 0 a.port
    | 2 =>
      if a.flag then originRecord (poisonGranule s a.id) 1 (hbmDie a.id) 0xFFFF 12 (hbmStack a.id) a.id
      else hbmCorrected s a.id a.port
    | 3 => if a.flag then fenceHearth s q.1 q.1 else correctedRecord s q.1 3 q.2 0 a.id a.port
    | 4 => s.modCore a.core fun k => { k with icache := natDel k.icache a.id }
    | 5 => { s with badCheck := natIns s.badCheck (a.id / 64) }
    | _ => { s with sparedChannels := natIns s.sparedChannels a.id })

/-- HBM_SCRUB (R285): firmware scrubs every row once every 24 hours. (PRESUMED, log 64) -/
def execHbmScrub (s : State) : Host.Outcome State Fault Refusal :=
  .next (if s.boot == .running && s.scrubAt ≤ s.ptp then
      { s with scrubs := s.scrubs + 1, scrubAt := s.scrubAt + Config.scrubPeriod }
    else s)

/-- DIE_LINK_LANE_FAILURE (R287): one of the 8 spare lanes of link `id` takes its place, and with the ninth the link runs
at half width. -/
def execDieLinkLaneFailure (s : State) : Host.Outcome State Fault Refusal :=
  let i := s.ev.id
  .next (if 6 ≤ i then s
    else
      let n := s.failedLanes.getD i 0 + 1
      let s := { s with failedLanes := s.failedLanes.set i n }
      if 9 < n then s
      else s.logRas { time := 0, seq := 0, kind := 14, unit := 14, index := i
                      detail := detail (if n = 9 then 1 else 0) 0 0 0 })

/-! ### Retirement (R12, R13, R286) -/

/-- Rows of a span, the row itself first and then the nearest, the lower of two that are equally near.
(DESIGN CHOICE, log 63) -/
def rowsNear (y : Nat) : List Nat :=
  let b := y / 4 * 4
  let rows := [b, b + 1, b + 2, b + 3]
  [0, 1, 2, 3].flatMap fun d => rows.filter fun r => r + d == y || (d != 0 && r == y + d)

/-- A spare site carries no hearth. (DESIGN CHOICE, log 63) -/
def spareUnused (s : State) (die row : Nat) : Bool := !s.usedSpares.contains (die, 16, row)

/-- The spare site a hearth takes (R12): its row's, else the nearest of its span. -/
def spareRow (s : State) (h : Nat) : Option Nat :=
  (rowsNear (h % 256 / 16)).find? fun r => spareUnused s (h / 256) r

/-- The spare site the firmware column moves to (R13): the free one of the lowest die and row.
(DESIGN CHOICE, log 63) -/
def firmwareSpare (s : State) (die row : Nat) : Option (Nat × Nat × Nat) :=
  ([0, 1, 2, 3].flatMap fun d => (List.range 16).map fun r => (d, 16, r)).find? fun x =>
    x != (die, 16, row) && !s.usedSpares.contains x && !s.firmwareSites.contains x

/-- Takes a spare site, once the firmware column has left it; none when no spare remains. -/
def takeSpare (s : State) (h : Nat) : Option (Nat × State) :=
  match spareRow s h with
  | none => none
  | some r =>
    let site := (h / 256, 16, r)
    let used := { s with usedSpares := s.usedSpares ++ [site] }
    if s.firmwareSites.contains site then
      (firmwareSpare s (h / 256) r).map fun n =>
        (r, { used with firmwareSites := s.firmwareSites.map fun x => if x == site then n else x })
    else some (r, used)

/-- Kind 5 (R292): retirement done or refused. -/
def retireRecord (s : State) (h refused row : Nat) : State :=
  s.logRas { time := 0, seq := 0, kind := 5, die := h / 256, hearth := h
             detail := detail (refused + (if refused = 0 then 2 ^ 8 * 16 + 2 ^ 16 * row else 0)) 0 0 0 }

/-- Retirement is refused: it is logged, dispatch goes on, and the hearth that cannot be retired is fenced (R12, R286).
(DESIGN CHOICE, log 63) -/
def retireRefused (s : State) (h : Nat) : State :=
  fenceHearth (retireRecord ({ s with retiring := natDel s.retiring h }.modHearth h fun x => { x with dispatchStopped := false })
    h 1 0) h h

/-- The cores of a hearth. -/
def coresOf (h : Nat) : List Nat := (List.range 8).map (8 * h + ·)

/-- Every resident context of the hearth may be saved (R219). -/
def hearthSettled (s : State) (h : Nat) : Bool :=
  (coresOf h).all fun c => match (s.core c).resident with
    | some l => maySave s c l
    | none => !(s.core c).busy

/-- Retirement's save of a core's context, the `i`-th of its hearth (R219-R221): once its Tongs commands are complete, or the drain
allowance is over, and when every chunk could be written twice (the event's flag says that one could not). -/
def retireCore (s : State) (c : Nat) : State :=
  let k := s.core c
  match k.resident with
  | none => s
  | some l =>
    let save := doSave (s.modHearth (c / 8) fun x => { x with moved := tset x.moved c l }) c l (s.chunkMap (c % 8))
    if s.ev.flag then s
    else if k.commands.isEmpty then save
    else match k.draining with
      | none => s.modCore c fun k => { k with draining := some s.cycle }
      | some t => if t + Config.drainAllowance ≤ s.cycle then save else s

/-- The contexts that retirement saved are restored at the spare (R286). -/
def restoreMoved (s : State) (h : Nat) : State :=
  let s' := s.modHearth h fun x => { x with moved := [] }
  (s.hearth h).moved.foldl (fun s p =>
    match (s.core p.1).resident, tget (s.core p.1).saved p.2 with
    | none, some y => restoreContext s p.1 p.2 y (s.chunkMap (p.1 % 8))
    | _, _ => s) s'

/-- The hearth's logical coordinate moves to a spare site (R12, R286): the dirty lines of its slice are written to HBM, its
directory goes on, the contexts are restored and dispatch resumes. -/
def moveHearth (s : State) (h row : Nat) : State :=
  let s := { s with
    retiring := natDel s.retiring h
    homes := tmap (fun line y => if homeHearth s line = h then { y with dir := { y.dir with dirty := false } } else y) s.homes }
  let s := s.modHearth h fun x => { x with
    retired := true, dispatchStopped := false, site := some (16, row), corrections := 0 }
  (restoreMoved (retireRecord s h 0 row) h).pokeAll ((coresOf h).flatMap fun c =>
    [⟨.contextRestore, { core := c }⟩, ⟨.messageDispatch, { core := c }⟩])

/-- HEARTH_RETIRE (R286): asked for by the host, or at the correction threshold. Dispatch stops; the hearth's contexts and
state are saved once its tasks have ended, and messages are then held for them (R202); the state moves to the spare site and the
contexts are restored there. Each of the three is an occurrence of the event. (DESIGN CHOICE, log 63) -/
def execHearthRetire (s : State) : Host.Outcome State Fault Refusal :=
  let h := s.ev.hearth
  let x := s.hearth h
  let worn := s.cfg.correctionLimit ≠ 0 && s.cfg.correctionLimit ≤ x.corrections
  .next (if s.boot != .running || Config.numHearths ≤ h || x.fenced || !(natMem s.retiring h || worn) then s
    else match takeSpare s h with
      | none => retireRefused s h
      | some (row, taken) =>
        if !x.dispatchStopped || !hearthSettled s h then
          { s with retiring := natIns s.retiring h }.modHearth h fun x => { x with dispatchStopped := true }
        else if (coresOf h).any fun c => (s.core c).resident.isSome then (coresOf h).foldl retireCore s
        else if s.ev.flag && x.holder.isSome then s
        else moveHearth (saveHolder taken h (s.chunkMap 8)) h row)

/-! ### Boot and power (R288, R289) -/

/-- What boot takes the configuration table to set (R9, R13, R18, R261, R285). `trained` are the peers whose training
succeeded. (DESIGN CHOICE, log 4; DESIGN CHOICE, log 63; DESIGN CHOICE, log 69) -/
def configure (s : State) (trained : List Nat) : State :=
  let cfg := s.nv.table
  relight { s with
    boot := .running, cfg := cfg, scrubAt := s.ptp + Config.scrubPeriod
    linked := (trained.filter fun p => decide (p < 63) && cfg.routes.any fun r => r.2 == p).foldl natIns []
    tokens := List.replicate 4 cfg.tokens, freeTokens := List.replicate 4 (List.range cfg.tokens)
    firmwareSites := (List.range (max 1 (min 16 cfg.firmwareSites))).map fun r => (0, 16, r)
    nv := { s.nv with fusedVersion := max s.nv.fusedVersion cfg.version } }

/-- An image holds a signature, of 2,820 bytes, and it verifies (R288). -/
def imageSigned (image : List Byte) : Bool := decide (2820 ≤ image.length) && signatureHolds image

/-- The firmware image and the configuration table verify (R288): their signatures do, and the keys they are signed with have the
hash held in fuses. (DEDUCED, log 65) -/
def imagesVerify (s : State) : Bool :=
  imageSigned s.nv.firmware && imageSigned s.nv.table.image && s.nv.firmwareKey == s.nv.keyHash && s.nv.tableKey == s.nv.keyHash

/-- RESET_BOOT (R288): the part resets, and ROM verifies the firmware image and the configuration table. A table older than
the version last fused, or that names no mode for a port, keeps the part in recovery. Firmware and the runtime then set the bases
of the queue table (`id`) and of the ASID table (`queue`), and the time unit takes its source's time (`n`); `bytes` are the
peers whose training succeeded. Every boot returns to the identity map of R10 with all spares free.
(DESIGN CHOICE, log 4; DEDUCED, log 5; DESIGN CHOICE, log 63; DEDUCED, log 66) -/
def execResetBoot (s : State) : Host.Outcome State Fault Refusal :=
  let a := s.ev
  let r := { State.reset with nv := s.nv, turns := s.turns, freeCtr := s.freeCtr }
  let t := s.nv.table
  .next (if imagesVerify s && t.port0.isSome && t.port1.isSome && s.nv.fusedVersion ≤ t.version then
      configure { r with queueBase := a.id, asidBase := a.queue, ptp17 := 17 * a.n } (a.bytes.map (·.toNat))
    else { r with boot := .recovery })

/-- POWER_LOSS (R289): what is not non-volatile is lost. (DEDUCED, log 66) -/
def execPowerLoss (s : State) : Host.Outcome State Fault Refusal :=
  .next { State.reset with nv := s.nv, turns := s.turns, freeCtr := s.freeCtr }

/-! ### The management port (R290, R291) -/

/-- A response waits to be read. -/
def State.answer (s : State) (status command : Nat) (data : List Byte) : State :=
  { s with responses := s.responses ++ [{ status := status, command := command, data := data }] }

/-- The 64 bytes of a RAS record (R292). -/
def rasBytes (r : Ras) : List Byte :=
  leBytes r.time 8 ++ leBytes r.seq 2 ++ leBytes r.kind 1 ++ leBytes r.die 1 ++ leBytes r.hearth 2 ++ leBytes r.unit 1 ++
    leBytes r.index 1 ++ leBytes r.addr 8 ++ leBytes (r.launch.getD 0) 1 ++
    leBytes (if r.launch.isSome then 1 else 0) 1 ++ leBytes (r.asid % 2 ^ 14) 2 ++ leBytes r.count 4 ++ r.detail.take 32

/-- READ_RAS (R291): the oldest unread record. With `flag` set the command byte is `n` instead: one that the table does not
list is unknown. (DEDUCED, log 65) -/
def execReadRas (s : State) : Host.Outcome State Fault Refusal :=
  let n := s.ev.n % 256
  .next (if s.ev.flag then (if 1 ≤ n && n ≤ 5 then s else s.answer 3 n [])
    else if !s.ev.bytes.isEmpty then s.answer 3 1 []
    else match s.ras with
      | [] => s.answer 1 1 []
      | r :: rest => { s with ras := rest }.answer 0 1 (rasBytes r))

/-- The highest reading of a die's hearths. (DESIGN CHOICE, log 67) -/
def hottest (s : State) (d : Nat) : Int :=
  (List.range 256).foldl (fun m i => max m (s.hearth (256 * d + i)).temp) (s.hearth (256 * d)).temp

/-- The highest reading as a signed 16-bit number. -/
def dieTemp (s : State) (d : Nat) : Nat := (hottest s d % 2 ^ 16).toNat

/-- READ_SENSORS (R291). The module power in watts (`n`) is measured. (DEDUCED, log 65; DESIGN CHOICE, log 67) -/
def execReadSensors (s : State) : Host.Outcome State Fault Refusal :=
  .next (if !s.ev.bytes.isEmpty then s.answer 3 2 []
    else
      let temps := [0, 1, 2, 3].flatMap fun d => leBytes (dieTemp s d) 2
      let flags := bitsNat ([0, 1, 2, 3].map fun d => s.heatParked.getD d false)
      s.answer 0 2 (temps ++ leBytes s.ev.n 2 ++ leBytes flags 2))

/-- `n` bytes of a list, zero beyond its end. -/
def fixedBytes (n : Nat) (l : List Byte) : List Byte := (List.range n).map fun i => l.getD i 0

/-- Bytes of the configuration table that its measurement covers, as far as the manual gives them. -/
def tableImage (t : CfgTable) : List Byte := t.image

/-- Bytes 0-127 of an attestation report (R293). (DESIGN CHOICE, log 16; DEDUCED, log 65) -/
def reportBody (s : State) (index : Nat) (nonce : List Byte) : List Byte :=
  let capver := Config.drainAllowance * 2 ^ 32 + Config.revision.toNat
  leBytes 1 2 ++ leBytes 0 2 ++ leBytes index 4 ++ leBytes capver 8 ++ fixedBytes 32 (digest s.nv.firmware) ++
    fixedBytes 32 (digest (tableImage s.cfg)) ++ leBytes s.cfg.version 8 ++ nonce ++ leBytes s.ptp 8

/-- ATTEST (R289): the index is committed before the signature is made. (DEDUCED, log 65) -/
def execAttest (s : State) : Host.Outcome State Fault Refusal :=
  let i := s.nv.attestIndex
  .next (if s.ev.bytes.length ≠ 32 then s.answer 3 3 []
    else if 65536 ≤ i then s.answer 2 3 []
    else
      let s := { s with nv := { s.nv with attestIndex := i + 1 } }
      let body := reportBody s i s.ev.bytes
      s.answer 0 3 (body ++ fixedBytes 2692 (Config.signature i body)))

/-- RETIRE (R291): firmware begins the steps of R286, or refuses and logs it; a hearth without a spare is fenced (R12). -/
def execRetire (s : State) : Host.Outcome State Fault Refusal :=
  let h := leNat s.ev.bytes
  .next (if s.ev.bytes.length ≠ 2 then s.answer 3 4 []
    else if s.boot != .running then s.answer 5 4 []
    else if Config.numHearths ≤ h then (retireRecord s 0xFFFF 1 0).answer 4 4 []
    else if (s.hearth h).fenced then (retireRecord s h 1 0).answer 4 4 []
    else if (takeSpare s h).isNone then (retireRefused s h).answer 4 4 []
    else
      ({ s with retiring := natIns s.retiring h }.modHearth h (fun x => { x with dispatchStopped := true })).answer 0 4 [] |>.poke
        ⟨.hearthRetire, { hearth := h }⟩)

/-- A whole image replaces the one in non-volatile storage (R288): the firmware, or with `isTable` the configuration table,
which firmware accepts from the fused version on. (DEDUCED, log 65) -/
def takeImage (s : State) (isTable : Bool) (image : List Byte) : State :=
  if !isTable then { s with nv := { s.nv with firmware := image, firmwareKey := keyHashOf image } }.answer 0 5 []
  else
    let t := tableOf image
    if t.version < s.nv.fusedVersion then s.answer 4 5 []
    else { s with nv := { s.nv with table := { t with image := image }, tableKey := keyHashOf image } }.answer 0 5 []

/-- RECOVERY_IMAGE (R291): image bytes in writes of up to 256; the first begins with the total length. `flag` says that it is a
configuration table. (DEDUCED, log 65) -/
def execRecoveryImage (s : State) : Host.Outcome State Fault Refusal :=
  let b := s.ev.bytes
  .next (if s.boot != .recovery then s.answer 5 5 []
    else if 256 < b.length || b.isEmpty || (s.recovery.isNone && b.length < 4) then s.answer 3 5 []
    else
      let (total, got) := match s.recovery with
        | none => (leNat (b.take 4), b.drop 4)
        | some (n, l) => (n, l ++ b)
      if total ≤ got.length then takeImage { s with recovery := none } s.ev.flag (got.take total)
      else { s with recovery := some (total, got) }.answer 0 5 [])

/-- The bytes of a response (R291): status, command, the length of its data and the data. -/
def responseBytes (r : MgmtResponse) : List Byte :=
  leBytes r.status 1 ++ leBytes r.command 1 ++ leBytes r.data.length 2 ++ r.data

/-- MGMT_RESPONSE_READ (R291): the next response, or status 3 with command byte 0. -/
def execMgmtResponseRead (s : State) : Host.Outcome State Fault Refusal :=
  .next (match s.responses with
    | [] => s.notify (.mgmt (responseBytes { status := 3, command := 0 }))
    | r :: rest => { s with responses := rest }.notify (.mgmt (responseBytes r)))

end Sys2Proof.Machine
end

