-- ==== Sys2Proof/Machine/Tongs.lean ====
section
/-! DEFINITION. Tongs (R235-R246): pushes and their checks, `xpop`, `xtry` and `xstat`, and the elements as the engine
performs them in index order. -/

namespace Sys2Proof.Machine

/-! ### Descriptors (R237) -/

def Command.dw (x : Command) (i : Nat) : Nat := (x.desc.getD i 0).toNat
def Command.index (x : Command) : Nat := x.dw 0
def Command.esize (x : Command) : Nat := bitsOf (x.dw 1) 35 33 + 1
def Command.wide (x : Command) : Bool := bitsOf (x.dw 1) 32 32 == 1
def Command.entryBytes (x : Command) : Nat := if x.wide then 8 else 4
def Command.count (x : Command) : Nat := bitsOf (x.dw 1) 23 0
def Command.packed (x : Command) : Nat := x.dw 4

/-- The stream register s1-s6 an `xcopy` with packed = 0 names, when it is bound as a copy stream that nothing runs into
(R239). -/
def copyStream (sl : Slot) (pstride : Nat) : Option Nat :=
  if pstride = 0 || 6 < pstride then none
  else match sl.binds.getD (pstride - 1) .unbound with
    | .copy _ none _ => some pstride
    | .copy _ (some _) true => some pstride
    | _ => none

/-- The first dword of a descriptor that breaks a rule of R237 or R239. -/
def badDword (kind : CmdKind) (sl : Slot) (d : List Word) : Option Nat :=
  let w := fun i => (d.getD i 0).toNat
  let width := if bitsOf (w 1) 32 32 = 1 then 8 else 4
  if (if kind == .copy then w 0 ≠ 0 else w 0 = 0 || w 0 % width ≠ 0) then some 0
  else if bitsOf (w 1) 63 36 ≠ 0 || bitsOf (w 1) 31 24 ≠ 0 then some 1
  else if kind != .copy && w 4 = 0 then some 4
  else if kind == .copy && w 4 = 0 && (copyStream sl (w 5)).isNone then some 5
  else if w 6 ≠ 0 then some 6
  else if w 7 ≠ 0 then some 7
  else none

/-! ### The push (R236, R240) -/

/-- Where the descriptor lies: the core's own scratchpad or its hearth's pool. -/
def descriptorKey (s : State) (va : Word) : Option Nat :=
  if bitsOf va.toNat 63 56 ≠ 0xFE then none
  else match locateSram s s.cur.1 s.slot.launch va.toNat 64 with
    | some (.sram h u off) => if isLocalUnit s.cur.1 h u then some (sramKey h u off) else none
    | _ => none

/-- The words of an earlier copy that a stream still holds (R239). -/
def Bind.buffered : Bind → List Word
  | .copy b _ _ => b
  | _ => []

/-- The command held by its core; a copy stream is fed by it. -/
def holdCommand (s : State) (kind : CmdKind) (tag : Nat) (d : List Word) : State :=
  let sl := s.slot
  let id := s.nextId
  let st := if kind == .copy && (d.getD 4 0) = 0 then some (d.getD 5 0).toNat else none
  let x : Command := { slot := s.cur.2, launch := sl.launch, asid := sl.asid, user := sl.priv == .user, kind := kind
                       tag := tag, desc := d, stream := st }
  -- a count of 0 completes at once (R238)
  let x := { x with complete := x.count == 0 }
  let s := s.modMyCore fun k => { k with commands := tset k.commands id x }
  let s := match st with
    | some i => s.modSlot fun sl => { sl with
        binds := padSet .unbound sl.binds (i - 1) (.copy (sl.binds.getD (i - 1) .unbound).buffered (some id) x.complete) }
    | none => s
  if x.complete then s.fresh else s.fresh.poke ⟨.tongsElementReply, { core := s.cur.1, id := id }⟩

/-- `xgather`, `xscatter` and `xcopy` (R236): the checks in their order, then the release of the task's earlier stores
(R133, R138). -/
def pushEffect (s : State) (kind : CmdKind) (a b : SrcM) : Effect :=
  memGate s <| ops2 s .z a b fun va tag s =>
    let h := s.slot.hypCur
    if 2 ^ 16 ≤ tag.toNat then .trap (.illegal tag)
    else if h ≠ 0 then .trap { cause := .hypUse, info := word h }
    else if va.toNat % 8 ≠ 0 then .trap { cause := .misalign, addr := va, info := kindInfo .load 0 }
    else match descriptorKey s va with
      | none => .trap { cause := .access, addr := va, info := kindInfo .load 0 }
      | some key =>
        if poisoned s.poison key 64 then .trap { cause := .poison, addr := va, info := kindInfo .load 0 }
        else
          let d := (List.range 8).map fun i => memWord s.mem (key + 8 * i)
          match badDword kind s.slot d with
          | some i => .trap (.illegal (word i))
          | none => releaseGate s <| if 16 ≤ s.myCore.commands.length then .wait else .done (holdCommand s kind tag.toNat d)

/-- XGATHER (R236). -/
def execXgather (a b : SrcM) (s : State) : Host.Outcome State Fault Refusal := finish s 4 (pushEffect s .gather a b)

/-- XSCATTER (R236). -/
def execXscatter (a b : SrcM) (s : State) : Host.Outcome State Fault Refusal := finish s 4 (pushEffect s .scatter a b)

/-- XCOPY (R236, R239). -/
def execXcopy (a b : SrcM) (s : State) : Host.Outcome State Fault Refusal := finish s 4 (pushEffect s .copy a b)

/-! ### Completions (R243-R245, R217) -/

def CmdKind.code : CmdKind → Nat
  | .gather => 0
  | .scatter => 1
  | .copy => 2

/-- The completion word (R243) of a command that did not fault. -/
def Command.completion (x : Command) : Word := word (2 ^ 63 + x.kind.code * 2 ^ 60 + x.done * 2 ^ 32 + x.tag)

/-- A command of the task of a slot. -/
def Command.mine (x : Command) (t : Nat) : Bool := x.slot == t && !x.orphaned

/-- The earliest-pushed command of a task with a tag. -/
def earliest (k : Core) (t tag : Nat) : Option (Nat × Command) := k.commands.find? fun p => p.2.mine t && p.2.tag == tag

/-- ENGINE (R217). -/
def engineTrap (x : Command) (code : Nat) (addr : Word) : Trap :=
  { cause := .engine, addr := addr, info := word (code * 2 ^ 56 + x.tag * 2 ^ 32 + x.done) }

/-- `xpop` and `xtry` (R244). `wait_` is `xpop`. -/
def popEffect (s : State) (d : Dst) (a : SrcM) (wait_ : Bool) : Effect :=
  ops1 s d a fun v s =>
    if 2 ^ 16 ≤ v.toNat then .trap (.illegal v)
    else match earliest s.myCore s.cur.2 v.toNat with
      | none => if wait_ then .trap { cause := .emptyRead, info := word (srcCode a.src) } else .done (pushTo s d 0)
      | some (id, x) =>
        if !x.complete then (if wait_ then .wait else .done (pushTo s d 0))
        else match x.fault with
          | some (code, addr) => .trap (engineTrap x code addr)
          | none =>
            let s := s.modMyCore fun k => { k with commands := tdel k.commands id }
            if wait_ then .done (oweTo s d (.value x.completion) false true) else .done (pushTo s d x.completion)

/-- XPOP (R244). -/
def execXpop (d : Dst) (a : SrcM) (s : State) : Host.Outcome State Fault Refusal := finish s 4 (popEffect s d a true)

/-- XTRY (R244). -/
def execXtry (d : Dst) (a : SrcM) (s : State) : Host.Outcome State Fault Refusal := finish s 4 (popEffect s d a false)

/-- The status word of R245. -/
def tongsStatus (k : Core) (t tag : Nat) : Word :=
  let mine := k.commands.filter fun p => p.2.mine t
  let tagged := mine.filter fun p => p.2.tag == tag
  word (k.commands.length * 2 ^ 24 + mine.length * 2 ^ 16 + (tagged.filter (·.2.complete)).length * 2 ^ 8 +
    (tagged.filter (!·.2.complete)).length)

/-- XSTAT (R245). -/
def execXstat (d : Dst) (a : SrcM) (s : State) : Host.Outcome State Fault Refusal :=
  finish s 4 (ops1 s d a fun v s =>
    if 2 ^ 16 ≤ v.toNat then .trap { cause := .illegal } else .done (pushTo s d (tongsStatus s.myCore s.cur.2 v.toNat)))

/-! ### Elements (R238, R241, R242) -/

/-- A part of an element: its address, its bytes from the element's first on, and where it lies. -/
structure Part where
  va : Word
  off : Nat
  size : Nat
  place : Place
  deriving DecidableEq, Repr

/-- The splits of an element at 128-byte boundaries: address, offset and size of each (R242). -/
def splits (va n : Nat) : List (Nat × Nat × Nat) :=
  let a := min n (128 - va % 128)
  if a < n then [(va, 0, a), ((va + a) % 2 ^ 64, a, n - a)] else [(va, 0, n)]

/-- Codes of R242. -/
def codeXlate : Nat := 0x05
def codeAccess : Nat := 0x06
def codePoison : Nat := 0x07
def codeFormat : Nat := 0x19

/-- Where one part lies for a command of a core, or the fault's code. A distant unit's own refusal is ACCESS too.
(DEDUCED, log 45) -/
def partPlace (s : State) (c : Nat) (x : Command) (k : AccKind) (va n : Nat) : Except Nat Place :=
  if 0xFF ≤ va / 2 ^ 56 then .error codeAccess
  else if va / 2 ^ 56 = 0xFE then
    match locateSram s c x.launch va n with
    | none => .error codeAccess
    | some (.window _ _ _ _ _) => .error codeFormat
    | some (.sram h u off) =>
      if !isLocalUnit c h u && (unitRefusal s h u off n fun l => s.asidOf l == x.asid).isSome then .error codeAccess
      else .ok (.sram h u off)
    | some p => .ok p
  else match locateMem s c x.asid x.user k va with
    | .error (.xlate _) => .error codeXlate
    | .error _ => .error codeAccess
    | .ok p => .ok p

/-- The place `n` bytes on at a peer. -/
def Place.shift (p : Place) (n : Nat) : Place :=
  match p with
  | .mem (.peer q pa) b => .mem (.peer q (pa + n)) b
  | p => p

/-- The peer of a part's place. -/
def Place.peer? : Place → Option Nat
  | .peerSram p => some p
  | .mem (.peer p _) _ => some p
  | _ => none

/-- At most 8 bytes in pieces of 8, 4, 2 and 1 bytes: offset and size of each (R274). -/
def pieces (n : Nat) : List (Nat × Nat) :=
  ([8, 4, 2, 1].foldl (fun (a : Nat × List (Nat × Nat)) k => if a.1 + k ≤ n then (a.1 + k, a.2 ++ [(a.1, k)]) else a) (0, [])).2

/-- A part in the accesses that make it: one here, and one for each packet at a peer, whose sizes are powers of two
(R274). (DEDUCED, log 45) -/
def Part.accesses (p : Part) : List Part :=
  if p.place.peer?.isNone then [p]
  else (pieces p.size).map fun q => { va := p.va + word q.1, off := p.off + q.1, size := q.2, place := p.place.shift q.1 }

/-- The parts of an access, each located before any is performed, or the first fault's code and address. -/
def elemParts (s : State) (c : Nat) (x : Command) (k : AccKind) : List (Nat × Nat × Nat) → Except (Nat × Word) (List Part)
  | [] => .ok []
  | (va, off, n) :: r =>
    match partPlace s c x k va n with
    | .error code => .error (code, word va)
    | .ok p =>
      match elemParts s c x k r with
      | .error e => .error e
      | .ok ps => .ok (Part.accesses { va := word va, off := off, size := n, place := p } ++ ps)

/-- The code of a status a peer gives (R242, R274): poison, or ACCESS. -/
def statusCode (status : Nat) : Nat := if status = 3 then codePoison else codeAccess

/-- The bytes of the parts of a read: memory here, and a peer's replies; or the first fault. `base` numbers the parts.
(DEDUCED, log 45) -/
def readParts (s : State) (x : Command) (base : Nat) : List Part → Except (Nat × Word) (List Byte)
  | [] => .ok []
  | p :: r =>
    let got : Except (Nat × Word) (List Byte) :=
      if p.place.peer?.isSome then
        match tget x.reply base with
        | some (b, 0) => .ok b
        | some (_, n) => .error (statusCode n, p.va)
        | none => .error (codeAccess, p.va)
      else if poisoned s.poison p.place.key p.size then .error (codePoison, p.va)
      else .ok (memBytes s.mem p.place.key p.size)
    match got, readParts s x (base + 1) r with
    | .error e, _ => .error e
    | _, .error e => .error e
    | .ok b, .ok bs => .ok (b ++ bs)

/-- The bytes of index entries up to the first that faults; its fault where it is the first. -/
def readAhead (s : State) (x : Command) (base : Nat) : List Part → Except (Nat × Word) (List Byte)
  | [] => .ok []
  | p :: r =>
    match readParts s x base [p] with
    | .error e => .error e
    | .ok b =>
      match readAhead s x (base + 1) r with
      | .error _ => .ok b
      | .ok bs => .ok (b ++ bs)

/-- Writes an element's parts; a peer's have been written when it replied. -/
def writeParts (s : State) (bytes : List Byte) : List Part → State
  | [] => s
  | p :: r =>
    let s := if p.place.peer?.isSome then s
      else writeMem s p.place.key p.size (leNat ((bytes.drop p.off).take p.size))
    writeParts s bytes r

/-- The peer parts not yet replied to. -/
def unanswered (x : Command) (base : Nat) (ps : List Part) : Bool :=
  ps.zipIdx.any fun p => p.1.place.peer?.isSome && (tget x.reply (base + p.2)).isNone

/-- A peer part that the peer refused. -/
def peerRefused (x : Command) (base : Nat) (ps : List Part) : Option (Nat × Word) :=
  let status := fun n : Nat => ((tget x.reply (base + n)).map (·.2)).getD 0
  (ps.zipIdx.find? fun p => p.1.place.peer?.isSome && status p.2 != 0).map fun p => (statusCode (status p.2), p.1.va)

/-- Asks the peers for the parts that lie there (R274): a write carries the element's bytes. -/
def askPeers (s : State) (c id : Nat) (x : Command) (base : Nat) (data : Option (List Byte)) (ps : List Part) : State :=
  ps.zipIdx.foldl (fun s p =>
    match p.1.place with
    | .peerSram q =>
      sendRemote s { core := c, slot := x.slot, kind := .tongs id (base + p.2), addr := p.1.va, key := peerKey p.1.va
                     peer := some q, size := p.1.size, signed := data.isSome, launch := x.launch, asid := x.asid
                     data := word (leNat (((data.getD []).drop p.1.off).take p.1.size)) }
    | .mem (.peer q pa) _ =>
      sendRemote s { core := c, slot := x.slot, kind := .tongs id (base + p.2), addr := word (q * 2 ^ 46 + pa)
                     key := (Target.peer q pa).key, peer := some q, size := p.1.size, signed := data.isSome
                     launch := x.launch, asid := x.asid
                     data := word (leNat (((data.getD []).drop p.1.off).take p.1.size)) }
    | _ => s) s

def State.setCommand (s : State) (c id : Nat) (x : Command) : State :=
  s.modCore c fun k => { k with commands := tset k.commands id x }

/-- A command is complete (R243): with its fault when it stopped at one. A task that has ended gets no completion
(R246). -/
def completeCommand (s : State) (c id : Nat) (x : Command) (fault : Option (Nat × Word)) : State :=
  let x := { x with complete := true, fault := fault, reply := [], asked := [], ahead := [] }
  let s := match x.stream with
    | some i => if x.orphaned || x.unbound then s else s.modSlotAt c x.slot fun sl =>
        match sl.binds.getD (i - 1) .unbound with
        | .copy b (some f) _ => if f == id then { sl with binds := padSet .unbound sl.binds (i - 1) (.copy b (some f) true) } else sl
        | _ => sl
    | none => s
  if x.orphaned then (s.modCore c fun k => { k with commands := tdel k.commands id }).pokeLaunch x.launch
  else s.setCommand c id x

/-- An element has been delivered; the last one completes the command. -/
def elementDone (s : State) (c id : Nat) (x : Command) : State :=
  let x := { x with done := x.done + 1, reply := [], asked := [], ahead := x.ahead.drop x.entryBytes }
  if x.count ≤ x.done then completeCommand s c id x none
  else (s.setCommand c id x).poke ⟨.tongsElementReply, { core := c, id := id }⟩

/-- Asks the peers for what has not been asked yet; nothing more happens until they reply. -/
def askOnce (s : State) (c id : Nat) (x : Command) (base : Nat) (data : Option (List Byte)) (ps : List Part) : State :=
  if natMem x.asked base then s
  else (askPeers s c id x base data ps).setCommand c id { x with asked := base :: x.asked }

/-- Address of the index entry of element `i` (R238). -/
def Command.entryAddr (x : Command) (i : Nat) : Nat := (x.index + i * x.entryBytes) % 2 ^ 64

/-- The parts of `n` index entries from element `i` on; none for a copy, whose indices are the elements' own numbers. -/
def indexParts (s : State) (c : Nat) (x : Command) (i n : Nat) : Except (Nat × Word) (List Part) :=
  if x.kind == .copy then .ok []
  else elemParts s c x .load ((List.range n).map fun j => (x.entryAddr (i + j), j * x.entryBytes, x.entryBytes))

/-- Index entries from element `i` to the end of its 64-byte block or of the list: what is fetched ahead (R240). -/
def Command.blockEntries (x : Command) (i : Nat) : Nat :=
  min (x.count - i) ((64 - x.entryAddr i % 64) / x.entryBytes)

/-- Element `i`'s index from the bytes of its entry, or `i` itself for a copy. -/
def Command.indexOf (x : Command) (i : Nat) (entry : List Byte) : Nat :=
  if x.kind == .copy then i else leNat (entry.take x.entryBytes)

/-- Far and near address of element `i` with index `j`. -/
def Command.far (x : Command) (j : Nat) : Nat := (x.dw 2 + j * x.dw 3) % 2 ^ 64
def Command.near (x : Command) (i : Nat) : Nat :=
  (x.packed + i * (if x.dw 5 = 0 then x.esize else x.dw 5)) % 2 ^ 64

/-- The bytes of element `i`'s near side and the address of its far side, when all of it lies in this part and none of it
faults. (DESIGN CHOICE, log 46) -/
def scatterSource (s : State) (c : Nat) (x : Command) (i : Nat) : Option (List Byte × Nat) :=
  let here := fun ps : List Part => ps.all fun p => p.place.peer?.isNone
  match indexParts s c x i 1 with
  | .error _ => none
  | .ok ps =>
    match readParts s x 8 ps, elemParts s c x .load (splits (x.near i) x.esize) with
    | .ok e, .ok near =>
      if here ps && here near then
        match readParts s x 0 near with
        | .ok b => some (b, x.far (x.indexOf i e))
        | .error _ => none
      else none
    | _, _ => none

/-- The far writes of elements from `i` on that a scatter may have performed by the time it stops at a fault (R242): each
part that can be written in this part is written or not, as a free bit says. (DESIGN CHOICE, log 46) -/
def scatterBeyond (s : State) (c : Nat) (x : Command) : Nat → Nat → State
  | 0, _ => s
  | n + 1, i =>
    let s := match scatterSource s c x i with
      | none => s
      | some (b, far) => (splits far x.esize).foldl (fun s p =>
          match partPlace s c x .store p.1 p.2.2 with
          | .error _ => s.nextFree
          | .ok q =>
            if Config.freeBit s.freeCtr && q.peer?.isNone then
              (writeMem s q.key p.2.2 (leNat ((b.drop p.2.1).take p.2.2))).nextFree
            else s.nextFree) s
    scatterBeyond s c x n (i + 1)

/-- A command stops at a fault of the element at hand (R242). (DESIGN CHOICE, log 46) -/
def failCommand (s : State) (c id : Nat) (x : Command) (e : Nat × Word) : State :=
  completeCommand (if x.kind == .scatter then scatterBeyond s c x (x.count - x.done) x.done else s) c id x (some e)

/-- An address in a decoding window of SRAM. -/
def windowed (va : Nat) : Bool := bitsOf va 63 56 == 0xFE && bitsOf va 35 32 != 0

/-- The stream's buffer has room for a word, or the word is discarded; and the words once it takes one (R239, R372). -/
def streamRoom (sl : Slot) (x : Command) (i : Nat) : Bool :=
  match sl.binds.getD (i - 1) .unbound with
  | .copy b _ _ => x.unbound || x.orphaned || decide (b.length < 8)
  | _ => true

def streamPut (s : State) (c id : Nat) (x : Command) (i : Nat) (v : Word) : State :=
  if x.unbound || x.orphaned then s
  else s.modSlotAt c x.slot fun sl =>
    match sl.binds.getD (i - 1) .unbound with
    | .copy b (some f) fin =>
      if f == id then { sl with binds := padSet .unbound sl.binds (i - 1) (.copy (b ++ [v]) (some f) fin) } else sl
    | _ => sl

/-- Goes on once the bridge holds what the parts need of host memory (R255), and their stacks of HBM are awake (R284). -/
def withParts (s : State) (store : Bool) (ps : List Part) (k : State → State) : State :=
  match hostLacks s store (ps.map (·.place)) with
  | some half => askHost s half (if store then .rdOwn else .rdShared)
  | none =>
    let s := ps.foldl (fun s p => touchKey s p.place.key) s
    if ps.all fun p => stackReady s p.place.key then k s else s

/-- The bytes that lie in this part come to the core's die, where their checks are verified (R129). -/
def bringParts (s : State) (c : Nat) (ps : List Part) : State :=
  ps.foldl (fun s p =>
    if p.place.peer?.isSome then s else crossDies s (keyDie s p.place.key) (dieOf c) p.place.key p.size) s

/-- The bytes of an element leave for the peers it is written at (R129). -/
def exitParts (s : State) (c : Nat) (x : Command) (src dst : List Part) : State :=
  (dst.filterMap (·.place.peer?)).eraseDups.foldl (fun s q =>
    src.foldl (fun s p => if p.place.peer?.isSome then s else exitPeer s x.launch q (dieOf c) p.place.key p.size) s) s

/-- Moves one element from its source parts to its destination parts or into the stream. (DEDUCED, log 45) -/
def moveElem (s : State) (c id : Nat) (x : Command) (src dst : List Part) : State :=
  withParts s false src fun s => withParts s true dst fun s =>
  let s := exitParts (bringParts s c src) c x src dst
  if unanswered x 0 src then askOnce s c id x 0 none src
  else match readParts s x 0 src with
    | .error e => failCommand s c id x e
    | .ok b =>
      match x.stream with
      | some i => elementDone (streamPut s c id x i (word (leNat b))) c id x
      | none =>
        if unanswered x 4 dst then askOnce s c id x 4 (some b) dst
        else match peerRefused x 4 dst with
          | some e => failCommand s c id x e
          | none => elementDone (writeParts s b dst) c id x

/-- Element `i` once its index is known: both sides are located, the far side first, and then it moves (R238).
(DEDUCED, log 45) -/
def placeElem (s : State) (c id : Nat) (x : Command) (i j : Nat) : State :=
  let scatter := x.kind == .scatter
  match elemParts s c x (if scatter then .store else .load) (splits (x.far j) x.esize) with
  | .error e => failCommand s c id x e
  | .ok far =>
    if x.stream.isSome then moveElem s c id x far []
    else match elemParts s c x (if scatter then .load else .store) (splits (x.near i) x.esize) with
      | .error e => failCommand s c id x e
      | .ok near => if scatter then moveElem s c id x near far else moveElem s c id x far near

/-- One element of a command, in index order. (DEDUCED, log 45) -/
def performElem (s : State) (c id : Nat) (x : Command) : State :=
  let i := x.done
  let fail := fun e => failCommand s c id x e
  if i = 0 && windowed (x.dw 2) then fail (codeFormat, word (x.dw 2))
  else if i = 0 && x.stream.isNone && windowed x.packed then fail (codeFormat, word x.packed)
  else if !x.ahead.isEmpty then placeElem s c id x i (x.indexOf i x.ahead)
  else match indexParts s c x i (x.blockEntries i) with
    | .error e => fail e
    | .ok ps =>
      withParts s false ps fun s =>
        let s := bringParts s c ps
        if unanswered x 8 ps then askOnce s c id x 8 none ps
        else match readAhead s x 8 ps with
          | .error e => fail e
          | .ok b => placeElem s c id { x with ahead := b } i (x.indexOf i b)

/-- A command's element requests that peers have not answered. -/
def RemoteKind.ofCommand (k : RemoteKind) (id : Nat) : Bool :=
  match k with
  | .tongs i _ => i == id
  | _ => false

/-- A command can take its next element up: it is not complete, its stream has room, and no peer owes it an answer. -/
def servable (s : State) (c id : Nat) (x : Command) : Bool :=
  let room := match x.stream with
    | some i => streamRoom ((s.core c).slot x.slot) x i
    | none => true
  !x.complete && room && !s.remotes.any fun p => p.2.core == c && p.2.kind.ofCommand id

/-- The command that a hearth's Tongs serves next (R240): its cores in turn from the one after the core served last, and of
a core its commands in turn from the one after the command served last. (DEDUCED, log 45) -/
def tongsTurn (s : State) (h : Nat) : Option (Nat × Nat) :=
  ([1, 2, 3, 4, 5, 6, 7, 8].map fun i => 8 * h + ((s.hearth h).tongsLast + i) % 8).findSome? fun c =>
    let able : Table Command := (s.core c).commands.filter fun p => servable s c p.1 p.2
    let last := (tget (s.hearth h).tongsServed (c % 8)).getD 0
    (match able.find? fun p : Nat × Command => decide (last < p.1) with
      | some p => some p
      | none => able.head?).map fun p : Nat × Command => (c, p.1)

/-- Element requests of a hearth that are in flight (R240). -/
def tongsInFlight (s : State) (h : Nat) : Nat :=
  (s.remotes.filter fun p => p.2.core / 8 == h && match p.2.kind with
    | .tongs _ _ => true
    | _ => false).length

/-- TONGS_ELEMENT_REPLY (R240, R241): when it is the command's turn, its next element in index order is read and written, or a
peer is asked for it. -/
def execTongsElementReply (s : State) : Host.Outcome State Fault Refusal :=
  let c := s.ev.core
  let id := s.ev.id
  let h := c / 8
  .next (match tget (s.core c).commands id with
    | none => s
    | some x =>
      if s.cycle < (s.hearth h).nextRequest || 256 ≤ tongsInFlight s h || tongsTurn s h ≠ some (c, id) then s
      else performElem (s.modHearth h fun y => { y with
        nextRequest := s.cycle + 1, tongsLast := c % 8, tongsServed := tset y.tongsServed (c % 8) id }) c id x)

end Sys2Proof.Machine
end

