-- ==== Sys2Proof/Machine/Dispatch.lean ====
section
/-! DEFINITION. Dispatch: one arm for each constructor of `Instr`, each one direct call of its meaning. -/

namespace Sys2Proof.Machine

def exec (i : Instr) (s : State) : Host.Outcome State Fault Refusal :=
  match i with
  | .add d a b => Sys2Proof.Machine.execAdd d a b s
  | .sub d a b => Sys2Proof.Machine.execSub d a b s
  | .and d a b => Sys2Proof.Machine.execAnd d a b s
  | .or d a b => Sys2Proof.Machine.execOr d a b s
  | .xor d a b => Sys2Proof.Machine.execXor d a b s
  | .shl d a b => Sys2Proof.Machine.execShl d a b s
  | .shr d a b => Sys2Proof.Machine.execShr d a b s
  | .sar d a b => Sys2Proof.Machine.execSar d a b s
  | .min d a b => Sys2Proof.Machine.execMin d a b s
  | .max d a b => Sys2Proof.Machine.execMax d a b s
  | .minu d a b => Sys2Proof.Machine.execMinu d a b s
  | .maxu d a b => Sys2Proof.Machine.execMaxu d a b s
  | .mul d a b => Sys2Proof.Machine.execMul d a b s
  | .mulh d a b => Sys2Proof.Machine.execMulh d a b s
  | .mulhu d a b => Sys2Proof.Machine.execMulhu d a b s
  | .div d a b => Sys2Proof.Machine.execDiv d a b s
  | .divu d a b => Sys2Proof.Machine.execDivu d a b s
  | .rem d a b => Sys2Proof.Machine.execRem d a b s
  | .remu d a b => Sys2Proof.Machine.execRemu d a b s
  | .clz d a => Sys2Proof.Machine.execClz d a s
  | .ctz d a => Sys2Proof.Machine.execCtz d a s
  | .popc d a => Sys2Proof.Machine.execPopc d a s
  | .mov d a => Sys2Proof.Machine.execMov d a s
  | .ext t d a => Sys2Proof.Machine.execExt t d a s
  | .sel d a b => Sys2Proof.Machine.execSel d a b s
  | .addi d a imm => Sys2Proof.Machine.execAddi d a imm s
  | .andi d a imm => Sys2Proof.Machine.execAndi d a imm s
  | .ori d a imm => Sys2Proof.Machine.execOri d a imm s
  | .xori d a imm => Sys2Proof.Machine.execXori d a imm s
  | .shli d a k => Sys2Proof.Machine.execShli d a k s
  | .shri d a k => Sys2Proof.Machine.execShri d a k s
  | .sari d a k => Sys2Proof.Machine.execSari d a k s
  | .cmp c d a b => Sys2Proof.Machine.execCmp c d a b s
  | .cmpi c d a imm => Sys2Proof.Machine.execCmpi c d a imm s
  | .li d imm => Sys2Proof.Machine.execLi d imm s
  | .lih d half v => Sys2Proof.Machine.execLih d half v s
  | .bfx d a pos len => Sys2Proof.Machine.execBfx d a pos len s
  | .bfi d a pos len => Sys2Proof.Machine.execBfi d a pos len s
  | .fadd p d a b => Sys2Proof.Machine.execFadd p d a b s
  | .fsub p d a b => Sys2Proof.Machine.execFsub p d a b s
  | .fmul p d a b => Sys2Proof.Machine.execFmul p d a b s
  | .fdiv p d a b => Sys2Proof.Machine.execFdiv p d a b s
  | .fmin p d a b => Sys2Proof.Machine.execFmin p d a b s
  | .fmax p d a b => Sys2Proof.Machine.execFmax p d a b s
  | .fsqrt p d a => Sys2Proof.Machine.execFsqrt p d a s
  | .fsgnj p d a b => Sys2Proof.Machine.execFsgnj p d a b s
  | .fsgnn p d a b => Sys2Proof.Machine.execFsgnn p d a b s
  | .fsgnx p d a b => Sys2Proof.Machine.execFsgnx p d a b s
  | .fclass p d a => Sys2Proof.Machine.execFclass p d a s
  | .fma p d a b => Sys2Proof.Machine.execFma p d a b s
  | .fms p d a b => Sys2Proof.Machine.execFms p d a b s
  | .fnma p d a b => Sys2Proof.Machine.execFnma p d a b s
  | .fnms p d a b => Sys2Proof.Machine.execFnms p d a b s
  | .fcmp c p d a b => Sys2Proof.Machine.execFcmp c p d a b s
  | .fcvt code sat r d a => Sys2Proof.Machine.execFcvt code sat r d a s
  | .frint p r d a => Sys2Proof.Machine.execFrint p r d a s
  | .gmul d a b => Sys2Proof.Machine.execGmul d a b s
  | .gdiv d a b => Sys2Proof.Machine.execGdiv d a b s
  | .gdamp d a b => Sys2Proof.Machine.execGdamp d a b s
  | .gmarg d a b => Sys2Proof.Machine.execGmarg d a b s
  | .gmargi d a b => Sys2Proof.Machine.execGmargi d a b s
  | .gmean d a => Sys2Proof.Machine.execGmean d a s
  | .b imm => Sys2Proof.Machine.execB imm s
  | .call imm => Sys2Proof.Machine.execCall imm s
  | .bz a imm => Sys2Proof.Machine.execBz a imm s
  | .bnz a imm => Sys2Proof.Machine.execBnz a imm s
  | .jr a => Sys2Proof.Machine.execJr a s
  | .callr a => Sys2Proof.Machine.execCallr a s
  | .ret => Sys2Proof.Machine.execRet s
  | .tend => Sys2Proof.Machine.execTend s
  | .nop => Sys2Proof.Machine.execNop s
  | .ld k d a imm => Sys2Proof.Machine.execLd k d a imm s
  | .st sz data a imm => Sys2Proof.Machine.execSt sz data a imm s
  | .lda k d a sc off => Sys2Proof.Machine.execLda k d a sc off s
  | .str sz data a sc off => Sys2Proof.Machine.execStr sz data a sc off s
  | .atomAdd sz ord d a b => Sys2Proof.Machine.execAtomAdd sz ord d a b s
  | .atomAnd sz ord d a b => Sys2Proof.Machine.execAtomAnd sz ord d a b s
  | .atomOr sz ord d a b => Sys2Proof.Machine.execAtomOr sz ord d a b s
  | .atomXor sz ord d a b => Sys2Proof.Machine.execAtomXor sz ord d a b s
  | .atomMin sz ord d a b => Sys2Proof.Machine.execAtomMin sz ord d a b s
  | .atomMax sz ord d a b => Sys2Proof.Machine.execAtomMax sz ord d a b s
  | .atomMinu sz ord d a b => Sys2Proof.Machine.execAtomMinu sz ord d a b s
  | .atomMaxu sz ord d a b => Sys2Proof.Machine.execAtomMaxu sz ord d a b s
  | .cas sz ord d a b => Sys2Proof.Machine.execCas sz ord d a b s
  | .swap sz ord d a b => Sys2Proof.Machine.execSwap sz ord d a b s
  | .fenceFull sc => Sys2Proof.Machine.execFenceFull sc s
  | .fenceAcquire sc => Sys2Proof.Machine.execFenceAcquire sc s
  | .fenceRelease sc => Sys2Proof.Machine.execFenceRelease sc s
  | .fencei => Sys2Proof.Machine.execFencei s
  | .cflushClean a => Sys2Proof.Machine.execCflushClean a s
  | .cflushInv a => Sys2Proof.Machine.execCflushInv a s
  | .cflushWbinv a => Sys2Proof.Machine.execCflushWbinv a s
  | .send cls a b keep => Sys2Proof.Machine.execSend cls a b keep s
  | .spawn cls a b => Sys2Proof.Machine.execSpawn cls a b s
  | .migrate cls a => Sys2Proof.Machine.execMigrate cls a s
  | .sbindOff st => Sys2Proof.Machine.execSbindOff st s
  | .sbindChan st a => Sys2Proof.Machine.execSbindChan st a s
  | .sbindCopy st => Sys2Proof.Machine.execSbindCopy st s
  | .cvgNote a => Sys2Proof.Machine.execCvgNote a s
  | .cvgMax d => Sys2Proof.Machine.execCvgMax d s
  | .cvgCount d => Sys2Proof.Machine.execCvgCount d s
  | .cvgQuiet d => Sys2Proof.Machine.execCvgQuiet d s
  | .cvgClear => Sys2Proof.Machine.execCvgClear s
  | .cut d => Sys2Proof.Machine.execCut d s
  | .cutstat d a => Sys2Proof.Machine.execCutstat d a s
  | .barrive bar => Sys2Proof.Machine.execBarrive bar s
  | .bwait bar => Sys2Proof.Machine.execBwait bar s
  | .bsync bar => Sys2Proof.Machine.execBsync bar s
  | .bjoin bar a => Sys2Proof.Machine.execBjoin bar a s
  | .bleave bar => Sys2Proof.Machine.execBleave bar s
  | .bstat bar => Sys2Proof.Machine.execBstat bar s
  | .hopen d a => Sys2Proof.Machine.execHopen d a s
  | .henter a => Sys2Proof.Machine.execHenter a s
  | .hresolveC d a => Sys2Proof.Machine.execHresolveC d a s
  | .hresolveR d a => Sys2Proof.Machine.execHresolveR d a s
  | .hresolveX d a => Sys2Proof.Machine.execHresolveX d a s
  | .hstat d a => Sys2Proof.Machine.execHstat d a s
  | .qend => Sys2Proof.Machine.execQend s
  | .vflag a => Sys2Proof.Machine.execVflag a s
  | .time d => Sys2Proof.Machine.execTime d s
  | .lease d a b => Sys2Proof.Machine.execLease d a b s
  | .lstat d a => Sys2Proof.Machine.execLstat d a s
  | .vclaim d a => Sys2Proof.Machine.execVclaim d a s
  | .vaddI vd va vb m => Sys2Proof.Machine.execVaddI vd va vb m s
  | .vsubI vd va vb m => Sys2Proof.Machine.execVsubI vd va vb m s
  | .vmulI vd va vb m => Sys2Proof.Machine.execVmulI vd va vb m s
  | .vminI vd va vb m => Sys2Proof.Machine.execVminI vd va vb m s
  | .vmaxI vd va vb m => Sys2Proof.Machine.execVmaxI vd va vb m s
  | .vminu vd va vb m => Sys2Proof.Machine.execVminu vd va vb m s
  | .vmaxu vd va vb m => Sys2Proof.Machine.execVmaxu vd va vb m s
  | .vand vd va vb m => Sys2Proof.Machine.execVand vd va vb m s
  | .vor vd va vb m => Sys2Proof.Machine.execVor vd va vb m s
  | .vxor vd va vb m => Sys2Proof.Machine.execVxor vd va vb m s
  | .vshl vd va vb m => Sys2Proof.Machine.execVshl vd va vb m s
  | .vshr vd va vb m => Sys2Proof.Machine.execVshr vd va vb m s
  | .vsar vd va vb m => Sys2Proof.Machine.execVsar vd va vb m s
  | .vmov vd va m => Sys2Proof.Machine.execVmov vd va m s
  | .vaddS vd va vb m => Sys2Proof.Machine.execVaddS vd va vb m s
  | .vsubS vd va vb m => Sys2Proof.Machine.execVsubS vd va vb m s
  | .vmulS vd va vb m => Sys2Proof.Machine.execVmulS vd va vb m s
  | .vdivS vd va vb m => Sys2Proof.Machine.execVdivS vd va vb m s
  | .vminS vd va vb m => Sys2Proof.Machine.execVminS vd va vb m s
  | .vmaxS vd va vb m => Sys2Proof.Machine.execVmaxS vd va vb m s
  | .vsqrtS vd va m => Sys2Proof.Machine.execVsqrtS vd va m s
  | .vaddD vd va vb m => Sys2Proof.Machine.execVaddD vd va vb m s
  | .vsubD vd va vb m => Sys2Proof.Machine.execVsubD vd va vb m s
  | .vmulD vd va vb m => Sys2Proof.Machine.execVmulD vd va vb m s
  | .vdivD vd va vb m => Sys2Proof.Machine.execVdivD vd va vb m s
  | .vminD vd va vb m => Sys2Proof.Machine.execVminD vd va vb m s
  | .vmaxD vd va vb m => Sys2Proof.Machine.execVmaxD vd va vb m s
  | .vsqrtD vd va m => Sys2Proof.Machine.execVsqrtD vd va m s
  | .vfma p vd va vb m => Sys2Proof.Machine.execVfma p vd va vb m s
  | .vfms p vd va vb m => Sys2Proof.Machine.execVfms p vd va vb m s
  | .vfnma p vd va vb m => Sys2Proof.Machine.execVfnma p vd va vb m s
  | .vfnms p vd va vb m => Sys2Proof.Machine.execVfnms p vd va vb m s
  | .vcmp t c vd va vb m => Sys2Proof.Machine.execVcmp t c vd va vb m s
  | .vsel vd va vb vm z => Sys2Proof.Machine.execVsel vd va vb vm z s
  | .vcvt code vd va vb m => Sys2Proof.Machine.execVcvt code vd va vb m s
  | .vred op va m => Sys2Proof.Machine.execVred op va m s
  | .vbcast p vd m a => Sys2Proof.Machine.execVbcast p vd m a s
  | .vext k va a => Sys2Proof.Machine.execVext k va a s
  | .viota vd m => Sys2Proof.Machine.execViota vd m s
  | .vpopc va vm me => Sys2Proof.Machine.execVpopc va vm me s
  | .vld sz strided vd m a => Sys2Proof.Machine.execVld sz strided vd m a s
  | .vst sz strided vd m a => Sys2Proof.Machine.execVst sz strided vd m a s
  | .vgather sz vd va m a => Sys2Proof.Machine.execVgather sz vd va m a s
  | .vscatter sz vd va m a => Sys2Proof.Machine.execVscatter sz vd va m a s
  | .vatom op vd va m a => Sys2Proof.Machine.execVatom op vd va m a s
  | .xgather a b => Sys2Proof.Machine.execXgather a b s
  | .xscatter a b => Sys2Proof.Machine.execXscatter a b s
  | .xcopy a b => Sys2Proof.Machine.execXcopy a b s
  | .xpop d a => Sys2Proof.Machine.execXpop d a s
  | .xtry d a => Sys2Proof.Machine.execXtry d a s
  | .xstat d a => Sys2Proof.Machine.execXstat d a s
  | .aring a b => Sys2Proof.Machine.execAring a b s
  | .aadv a b => Sys2Proof.Machine.execAadv a b s
  | .aadvStat d a => Sys2Proof.Machine.execAadvStat d a s
  | .amm acc ra rb mode zp pop => Sys2Proof.Machine.execAmm acc ra rb mode zp pop s
  | .azero acc single => Sys2Proof.Machine.execAzero acc single s
  | .ald acc a fmt => Sys2Proof.Machine.execAld acc a fmt s
  | .ast acc a fmt r => Sys2Proof.Machine.execAst acc a fmt r s
  | .await => Sys2Proof.Machine.execAwait s
  | .sysr d reg => Sys2Proof.Machine.execSysr d reg s
  | .sysw reg a => Sys2Proof.Machine.execSysw reg a s
  | .trap code => Sys2Proof.Machine.execTrap code s
  | .tret => Sys2Proof.Machine.execTret s
  | .tlbiPage a b => Sys2Proof.Machine.execTlbiPage a b s
  | .tlbiAsid b => Sys2Proof.Machine.execTlbiAsid b s
  | .tlbiAll => Sys2Proof.Machine.execTlbiAll s
  | .brk code => Sys2Proof.Machine.execBrk code s
  | .add16 x y => Sys2Proof.Machine.execAdd16 x y s
  | .sub16 x y => Sys2Proof.Machine.execSub16 x y s
  | .and16 x y => Sys2Proof.Machine.execAnd16 x y s
  | .or16 x y => Sys2Proof.Machine.execOr16 x y s
  | .xor16 x y => Sys2Proof.Machine.execXor16 x y s
  | .shl16 x y => Sys2Proof.Machine.execShl16 x y s
  | .shr16 x y => Sys2Proof.Machine.execShr16 x y s
  | .mov16 x y => Sys2Proof.Machine.execMov16 x y s
  | .addi16 x imm => Sys2Proof.Machine.execAddi16 x imm s
  | .li16 imm => Sys2Proof.Machine.execLi16 imm s
  | .cmpEq16 x y => Sys2Proof.Machine.execCmpEq16 x y s
  | .cmpLt16 x y => Sys2Proof.Machine.execCmpLt16 x y s
  | .ldD16 x off => Sys2Proof.Machine.execLdD16 x off s
  | .stD16 x y => Sys2Proof.Machine.execStD16 x y s
  | .faddD16 x y => Sys2Proof.Machine.execFaddD16 x y s
  | .fsubD16 x y => Sys2Proof.Machine.execFsubD16 x y s
  | .fmulD16 x y => Sys2Proof.Machine.execFmulD16 x y s
  | .gmul16 x y => Sys2Proof.Machine.execGmul16 x y s
  | .bz16 x imm => Sys2Proof.Machine.execBz16 x imm s
  | .bnz16 x imm => Sys2Proof.Machine.execBnz16 x imm s
  | .b16 imm => Sys2Proof.Machine.execB16 imm s
  | .ret16 => Sys2Proof.Machine.execRet16 s
  | .tend16 => Sys2Proof.Machine.execTend16 s
  | .frame k => Sys2Proof.Machine.execFrame k s
  | .nop16 => Sys2Proof.Machine.execNop16 s
  | .trapCauseRead => Sys2Proof.Machine.execTrapCauseRead s
  | .jrnlRelease => Sys2Proof.Machine.execJrnlRelease s
  | .lsplitWrite => Sys2Proof.Machine.execLsplitWrite s
  | .linkRegisterAccess => Sys2Proof.Machine.execLinkRegisterAccess s
  | .fpStatRead => Sys2Proof.Machine.execFpStatRead s
  | .submissionWrite => Sys2Proof.Machine.execSubmissionWrite s
  | .packetNop => Sys2Proof.Machine.execPacketNop s
  | .packetDispatch => Sys2Proof.Machine.execPacketDispatch s
  | .packetStop => Sys2Proof.Machine.execPacketStop s
  | .packetIndirect => Sys2Proof.Machine.execPacketIndirect s
  | .packetStatus => Sys2Proof.Machine.execPacketStatus s
  | .queueDisable => Sys2Proof.Machine.execQueueDisable s
  | .queueEnable => Sys2Proof.Machine.execQueueEnable s
  | .schedulerFirmwareRestart => Sys2Proof.Machine.execSchedulerFirmwareRestart s
  | .launchPlace => Sys2Proof.Machine.execLaunchPlace s
  | .gangCommit => Sys2Proof.Machine.execGangCommit s
  | .launchQuiescent => Sys2Proof.Machine.execLaunchQuiescent s
  | .launchEndQuenched => Sys2Proof.Machine.execLaunchEndQuenched s
  | .completionRecordWrite => Sys2Proof.Machine.execCompletionRecordWrite s
  | .rangeHandout => Sys2Proof.Machine.execRangeHandout s
  | .rangeTaskStart => Sys2Proof.Machine.execRangeTaskStart s
  | .rangeSteal => Sys2Proof.Machine.execRangeSteal s
  | .messageArrival => Sys2Proof.Machine.execMessageArrival s
  | .refusalReceived => Sys2Proof.Machine.execRefusalReceived s
  | .retryTimer => Sys2Proof.Machine.execRetryTimer s
  | .acceptanceReceived => Sys2Proof.Machine.execAcceptanceReceived s
  | .messageDispatch => Sys2Proof.Machine.execMessageDispatch s
  | .priorityAging => Sys2Proof.Machine.execPriorityAging s
  | .watchdogExpiry => Sys2Proof.Machine.execWatchdogExpiry s
  | .valueLands => Sys2Proof.Machine.execValueLands s
  | .postedStoreAck => Sys2Proof.Machine.execPostedStoreAck s
  | .postedStoreRefused => Sys2Proof.Machine.execPostedStoreRefused s
  | .asyncTrapTaken => Sys2Proof.Machine.execAsyncTrapTaken s
  | .endedTaskTrapContext => Sys2Proof.Machine.execEndedTaskTrapContext s
  | .sliceExpiry => Sys2Proof.Machine.execSliceExpiry s
  | .sliceIdleEnd => Sys2Proof.Machine.execSliceIdleEnd s
  | .contextSave => Sys2Proof.Machine.execContextSave s
  | .tongsDrainExpiry => Sys2Proof.Machine.execTongsDrainExpiry s
  | .contextRestore => Sys2Proof.Machine.execContextRestore s
  | .beatDelivery => Sys2Proof.Machine.execBeatDelivery s
  | .taskDiversion => Sys2Proof.Machine.execTaskDiversion s
  | .quenchBudgetExpiry => Sys2Proof.Machine.execQuenchBudgetExpiry s
  | .deadlineFire => Sys2Proof.Machine.execDeadlineFire s
  | .convergenceSample => Sys2Proof.Machine.execConvergenceSample s
  | .sweepEnd => Sys2Proof.Machine.execSweepEnd s
  | .cutCopyPoint => Sys2Proof.Machine.execCutCopyPoint s
  | .cutComplete => Sys2Proof.Machine.execCutComplete s
  | .anvilPortAccept => Sys2Proof.Machine.execAnvilPortAccept s
  | .ammStart => Sys2Proof.Machine.execAmmStart s
  | .ammRetire => Sys2Proof.Machine.execAmmRetire s
  | .subarrayGate => Sys2Proof.Machine.execSubarrayGate s
  | .subarrayWake => Sys2Proof.Machine.execSubarrayWake s
  | .tokenArrival => Sys2Proof.Machine.execTokenArrival s
  | .tokenIdleRelease => Sys2Proof.Machine.execTokenIdleRelease s
  | .tokenHoldExpiry => Sys2Proof.Machine.execTokenHoldExpiry s
  | .vectorBind => Sys2Proof.Machine.execVectorBind s
  | .vectorComplete => Sys2Proof.Machine.execVectorComplete s
  | .tongsElementReply => Sys2Proof.Machine.execTongsElementReply s
  | .gets => Sys2Proof.Machine.execGets s
  | .getx => Sys2Proof.Machine.execGetx s
  | .upg => Sys2Proof.Machine.execUpg s
  | .putm => Sys2Proof.Machine.execPutm s
  | .puto => Sys2Proof.Machine.execPuto s
  | .pute => Sys2Proof.Machine.execPute s
  | .puts => Sys2Proof.Machine.execPuts s
  | .invalidation => Sys2Proof.Machine.execInvalidation s
  | .invAck => Sys2Proof.Machine.execInvAck s
  | .fwdGets => Sys2Proof.Machine.execFwdGets s
  | .fwdGetx => Sys2Proof.Machine.execFwdGetx s
  | .forwardResponse => Sys2Proof.Machine.execForwardResponse s
  | .memoryDataReturn => Sys2Proof.Machine.execMemoryDataReturn s
  | .grantReceived => Sys2Proof.Machine.execGrantReceived s
  | .putAnswer => Sys2Proof.Machine.execPutAnswer s
  | .invalidationTimeout => Sys2Proof.Machine.execInvalidationTimeout s
  | .snpInv => Sys2Proof.Machine.execSnpInv s
  | .snpData => Sys2Proof.Machine.execSnpData s
  | .snpCur => Sys2Proof.Machine.execSnpCur s
  | .hostLineFill => Sys2Proof.Machine.execHostLineFill s
  | .hostWrite => Sys2Proof.Machine.execHostWrite s
  | .hostRead => Sys2Proof.Machine.execHostRead s
  | .flitReceived => Sys2Proof.Machine.execFlitReceived s
  | .linkControlReceived => Sys2Proof.Machine.execLinkControlReceived s
  | .replayRequestTimer => Sys2Proof.Machine.execReplayRequestTimer s
  | .ackTimer => Sys2Proof.Machine.execAckTimer s
  | .replayTimeout => Sys2Proof.Machine.execReplayTimeout s
  | .streamFlitSend => Sys2Proof.Machine.execStreamFlitSend s
  | .peerRead => Sys2Proof.Machine.execPeerRead s
  | .peerWrite => Sys2Proof.Machine.execPeerWrite s
  | .peerAtomic => Sys2Proof.Machine.execPeerAtomic s
  | .peerResponse => Sys2Proof.Machine.execPeerResponse s
  | .peerUnreachable => Sys2Proof.Machine.execPeerUnreachable s
  | .linkRetrain => Sys2Proof.Machine.execLinkRetrain s
  | .starvationTimer => Sys2Proof.Machine.execStarvationTimer s
  | .parkDelayExpiry => Sys2Proof.Machine.execParkDelayExpiry s
  | .warmingStart => Sys2Proof.Machine.execWarmingStart s
  | .transmitterJoin => Sys2Proof.Machine.execTransmitterJoin s
  | .transmitterFailure => Sys2Proof.Machine.execTransmitterFailure s
  | .dieLinkLaneFailure => Sys2Proof.Machine.execDieLinkLaneFailure s
  | .clockGate => Sys2Proof.Machine.execClockGate s
  | .powerGateTimer => Sys2Proof.Machine.execPowerGateTimer s
  | .hbmSelfRefresh => Sys2Proof.Machine.execHbmSelfRefresh s
  | .diePowerPark => Sys2Proof.Machine.execDiePowerPark s
  | .latencyToleranceWrite => Sys2Proof.Machine.execLatencyToleranceWrite s
  | .thermalReading => Sys2Proof.Machine.execThermalReading s
  | .powerLimitExceed => Sys2Proof.Machine.execPowerLimitExceed s
  | .disciplineLoss => Sys2Proof.Machine.execDisciplineLoss s
  | .disciplineReturn => Sys2Proof.Machine.execDisciplineReturn s
  | .softError => Sys2Proof.Machine.execSoftError s
  | .hbmScrub => Sys2Proof.Machine.execHbmScrub s
  | .hearthRetire => Sys2Proof.Machine.execHearthRetire s
  | .resetBoot => Sys2Proof.Machine.execResetBoot s
  | .readRas => Sys2Proof.Machine.execReadRas s
  | .readSensors => Sys2Proof.Machine.execReadSensors s
  | .attest => Sys2Proof.Machine.execAttest s
  | .retire => Sys2Proof.Machine.execRetire s
  | .recoveryImage => Sys2Proof.Machine.execRecoveryImage s
  | .mgmtResponseRead => Sys2Proof.Machine.execMgmtResponseRead s
  | .barrierReleaseDelivery => Sys2Proof.Machine.execBarrierReleaseDelivery s
  | .remoteAccessAtTarget => Sys2Proof.Machine.execRemoteAccessAtTarget s
  | .atomicOldValueReturn => Sys2Proof.Machine.execAtomicOldValueReturn s
  | .linksRoleAnswer => Sys2Proof.Machine.execLinksRoleAnswer s
  | .tlbiComplete => Sys2Proof.Machine.execTlbiComplete s
  | .anvilOperationRetire => Sys2Proof.Machine.execAnvilOperationRetire s
  | .vectorTransferComplete => Sys2Proof.Machine.execVectorTransferComplete s
  | .hostPortDown => Sys2Proof.Machine.execHostPortDown s
  | .hostPortUp => Sys2Proof.Machine.execHostPortUp s
  | .powerLoss => Sys2Proof.Machine.execPowerLoss s

end Sys2Proof.Machine
end

