-- ==== Sys2Proof/Machine/Step.lean ====
section
/-! DEFINITION. The step: an event whose cycle has come, the schedule's turn when one is given, an event the part has
caused, or a core's turn. -/

namespace Sys2Proof.Machine

/-- An event happens: its meaning reads what it concerns from the state.
(DESIGN CHOICE, log 6; DESIGN CHOICE, log 7) -/
def happen (s : State) (e : Event) : Host.Outcome State Fault Refusal :=
  if e.kind.isEvent then exec e.kind { s with ev := e.args } else .next s

/-- A slot has its turn. -/
def turn (s : State) : Host.Outcome State Fault Refusal :=
  match issue s with
  | .idle => .next s
  | .act s' => .next s'
  | .event e => happen s e
  | .run i s' => exec i s'

/-- A core issues from its next slot, once in a cycle (R28); a slot that waits is passed over. `rest` is the schedule after
the turn. (DESIGN CHOICE, log 6) -/
def coreTurn (s : State) (c : Nat) (rest : List Turn) : Host.Outcome State Fault Refusal :=
  match nextSlot s c with
  | none => .next { s with turns := rest }
  | some t => s.afterTry c t (turn ({ s with turns := rest }.takeTurn c t))

/-- The cycle ends: the events that close it come first. -/
def endCycle (s : State) (rest : List Turn) : Host.Outcome State Fault Refusal :=
  match s.closing with
  | e :: r => happen { s with closing := r } e
  | [] => .next (elapse { s with turns := rest })

/-- One step of the part: an event whose cycle has come, else the schedule's turn, else an event the part has caused, else the
next core of the cycle; when all have issued the cycle ends. (DESIGN CHOICE, log 6) -/
def step (s : State) : Host.Outcome State Fault Refusal :=
  match s.timers, s.turns, s.agenda with
  | e :: rest, _, _ => happen { s with timers := rest } e
  | [], ⟨n + 1, a⟩ :: rest, _ => endCycle s (⟨n, a⟩ :: rest)
  | [], ⟨0, .event e⟩ :: rest, _ => happen { s with turns := rest } e
  | [], ⟨0, .issue c⟩ :: rest, _ =>
    if s.issued c then endCycle s s.turns else coreTurn s c rest
  | [], [], e :: rest => happen { s with agenda := rest } e
  | [], [], [] =>
    match nextCore s with
    | some c => coreTurn s c []
    | none => endCycle s []

/-- The state in which the slot at hand holds a task of a running launch whose next instruction has the given bits: what
booting, a launch and a dispatch do before a program's first instruction runs (R288, R197, R27). The pc's page is in the
core's TLB. (DEDUCED, log 5) -/
def State.withFetchWord (s : State) (nbits w : Nat) : State :=
  let a := 0x10000
  let page : TlbEntry := { asid := s.slot.asid, vpn := 1, level := 3, pte := word (a + 0xBF) }
  let sl := s.slot
  let sl := { sl with
    held := true, launch := 0, pc := word a, entry := false, owed := [], stall := .none, shadow := none, stopped := false
    pendWatchdog := false, pendPosted := [], pendRefused := [], wrapup := false, migrating := none, migrateEnd := none
    inBwait := none
    start := .message }
  let l : Launch := { lr := List.replicate 32 0, queue := 0, state := .running, cores := [s.cur.1] }
  let s := s.setSlot sl
  let s := s.modMyCore fun k => { k with tlb := page :: k.tlb, lastSlot := s.cur.2 + 3, issuedAt := 0, passed := (0, []) }
  let bytes := tableBytes nbits w
  { s with
    boot := .running, turns := [], timers := [], closing := [], agenda := []
    launches := tset s.launches 0 l
    mem := memPutBytes s.mem a bytes
    poison := s.poison.filter fun g => g ≠ a / 64 }

end Sys2Proof.Machine
end

