-- ==== Sys2Proof/Safety.lean ====
section
/-! DEFINITION. The terms in which claims about the part are stated: operands that can be read, what a completed
instruction leaves, the results the manual gives the register instructions, and the invariant of memory. -/

namespace Sys2Proof.Machine

/-! ### Operands and completion -/

/-- The sources of an instruction show these values and its destination can be written: nothing is empty or
faulted, no stream is unbound or ended, no register lies outside the frame, and the composer has room (R210). -/
def operandsGive (s : State) (d : Dst) (xs : List SrcM) (vs : List Word) : Bool :=
  ((s.slot.reads xs).1.map Prod.snd == vs.map Peek.val) && (xs.all fun x => (srcGap s.slot x).isNone) &&
    (dstGap s.slot d).isNone && (d != .s7 || decide (s.slot.composer.length < 8))

/-- The state in which the words that stream sources gave have been taken (R37, R68). -/
def consumed (s : State) (xs : List SrcM) : State := s.setSlot (s.slot.reads xs).2

/-- The task goes on past an instruction of `len` bytes. -/
def advance (s : State) (len : Nat) : State :=
  s.modSlot fun sl => { sl with pc := sl.pc + word len, entry := false, stall := .none }

/-- The task goes on at `pc`. -/
def jumpTo (s : State) (pc : Word) : State := s.modSlot fun sl => { sl with pc := pc, entry := false, stall := .none }

/-- Everything but the slot that issues is as it was: memory, every other slot, core, hearth and launch. -/
def onlySlot (s t : State) : Prop := t = s.setSlot t.slot

/-- No byte of memory differs. -/
def sameMemory (s t : State) : Prop := ∀ a, memGet t.mem a = memGet s.mem a

/-- No byte of memory outside `n` bytes from a key on differs. -/
def sameMemoryBut (s t : State) (key n : Nat) : Prop := ∀ a, a < key ∨ key + n ≤ a → memGet t.mem a = memGet s.mem a

/-- The slot has all it had before but for what every register instruction may write: the pc, the queue, the active
frame, and the streams and the composer. -/
def sameButRegs (a b : Slot) : Prop :=
  { b with pc := a.pc, entry := a.entry, stall := a.stall, queue := a.queue, win := { b.win with act := a.win.act }
           payload := a.payload, binds := a.binds, composer := a.composer } = a

/-- Named register `r` of the active frame. -/
def Slot.named (sl : Slot) (r : Nat) : Reg := sl.win.act.getD r Reg.fresh

/-- The slot at hand issues an instruction when it has its turn: the part runs, the task neither waits for an event nor
has been stopped, its launch's failure does not end it, and where it stands at a boundary no end of a wrap-up budget, diversion
or asynchronous trap comes first (R177, R181, R211, R213, R223). -/
def State.issues (s : State) : Bool :=
  s.boot == .running && s.slot.ready && !s.slot.stopped && !s.aborts s.slot &&
    !(s.slot.atBoundary && (s.slot.wrapup && s.slot.quenchLeft == 0 ||
      s.quenched s.slot.launch && !s.slot.wrapup && s.slot.start != .trapContext || s.slot.pending))

/-! ### Register instructions -/

/-- A register instruction: its bytes, destination and sources, and its result by the source values. -/
structure RegOp where
  len : Nat
  dst : Dst
  srcs : List SrcM
  val : List Word → Word

/-- A mask of `len` bits from `pos` on, as R325 forms it. -/
def ones (pos len : Nat) : Nat := (2 ^ len - 1) * 2 ^ pos

def op2 (len : Nat) (d : Dst) (a b : SrcM) (f : Word → Word → Word) : Option RegOp :=
  some ⟨len, d, [a, b], fun vs => f (vs.getD 0 0) (vs.getD 1 0)⟩

def op1 (len : Nat) (d : Dst) (a : SrcM) (f : Word → Word) : Option RegOp := some ⟨len, d, [a], fun vs => f (vs.getD 0 0)⟩

/-- The width and sign of a form of `ext` (R335). -/
def extForm : ExtKind → Nat × Bool
  | .sb => (8, true)
  | .ub => (8, false)
  | .sh => (16, true)
  | .uh => (16, false)
  | .sw => (32, true)
  | .uw => (32, false)

/-- The low `n` bits, sign- or zero-extended. -/
def extended (n : Nat) (signed : Bool) (x : Word) : Word :=
  if signed then (x.setWidth n).signExtend 64 else (x.setWidth n).setWidth 64

/-- How many of the low `n` bits of `x` are set (R332). -/
def setBits (x : Word) (n : Nat) : Nat := ((List.range n).filter fun i => x.getLsbD i).length

/-- The register instructions on integers with the results the manual gives them (R313, R316, R325, R332, R333, R335,
R363, R366, R367, R368, R373, R376, R300). -/
def regOp : Instr → Option RegOp
  | .add d a b => op2 4 d a b fun x y => x + y
  | .sub d a b => op2 4 d a b fun x y => x - y
  | .and d a b => op2 4 d a b fun x y => x &&& y
  | .or d a b => op2 4 d a b fun x y => x ||| y
  | .xor d a b => op2 4 d a b fun x y => x ^^^ y
  | .shl d a b => op2 4 d a b fun x y => word (x.toNat * 2 ^ (y.toNat % 64))
  | .shr d a b => op2 4 d a b fun x y => word (x.toNat / 2 ^ (y.toNat % 64))
  | .sar d a b => op2 4 d a b fun x y => BitVec.ofInt 64 (x.toInt / 2 ^ (y.toNat % 64))
  | .min d a b => op2 4 d a b fun x y => if x.toInt ≤ y.toInt then x else y
  | .max d a b => op2 4 d a b fun x y => if y.toInt ≤ x.toInt then x else y
  | .minu d a b => op2 4 d a b fun x y => if x.toNat ≤ y.toNat then x else y
  | .maxu d a b => op2 4 d a b fun x y => if y.toNat ≤ x.toNat then x else y
  | .mul d a b => op2 4 d a b fun x y => word (x.toNat * y.toNat)
  | .mulh d a b => op2 4 d a b fun x y => BitVec.ofInt 64 (x.toInt * y.toInt / 2 ^ 64)
  | .mulhu d a b => op2 4 d a b fun x y => word (x.toNat * y.toNat / 2 ^ 64)
  | .clz d a => op1 4 d a fun x => word (if x = 0 then 64 else 63 - Nat.log2 x.toNat)
  | .ctz d a => op1 4 d a fun x => word (((List.range 64).takeWhile fun i => !x.getLsbD i).length)
  | .popc d a => op1 4 d a fun x => word (setBits x 64)
  | .mov d a => op1 4 d a fun x => x
  | .ext k d a => op1 4 d a (extended (extForm k).1 (extForm k).2)
  | .sel d a b => some ⟨4, d, [⟨.q 0, false⟩, a, b], fun vs => if vs.getD 0 0 = 0 then vs.getD 2 0 else vs.getD 1 0⟩
  | .addi d a imm => op1 4 d a fun x => x + imm.signExtend 64
  | .andi d a imm => op1 4 d a fun x => x &&& imm.signExtend 64
  | .ori d a imm => op1 4 d a fun x => x ||| imm.signExtend 64
  | .xori d a imm => op1 4 d a fun x => x ^^^ imm.signExtend 64
  | .shli d a k => op1 4 d a fun x => word (x.toNat * 2 ^ k.toNat)
  | .shri d a k => op1 4 d a fun x => word (x.toNat / 2 ^ k.toNat)
  | .sari d a k => op1 4 d a fun x => BitVec.ofInt 64 (x.toInt / 2 ^ k.toNat)
  | .cmp c d a b => op2 4 d a b fun x y => boolWord (condHolds c x y)
  | .cmpi c d a imm => op1 4 d a fun x => boolWord (condHolds c x (imm.signExtend 64))
  | .li d imm => some ⟨4, d, [], fun _ => imm.signExtend 64⟩
  | .lih d h v => op1 4 (.n d) ⟨.n d, false⟩ fun x =>
      (x &&& ~~~word (0xFFFF * 2 ^ (16 * h.val))) ||| word (v.toNat * 2 ^ (16 * h.val))
  | .bfx d a pos len => op1 4 d ⟨a, false⟩ fun x => word (bitsOf x.toNat (pos.toNat + len.toNat) pos.toNat)
  | .bfi d a pos len => op2 4 (.n d) ⟨a, false⟩ ⟨.n d, false⟩ fun x old =>
      (old &&& ~~~word (ones pos.toNat (len.toNat + 1))) ||| ((x <<< pos.toNat) &&& word (ones pos.toNat (len.toNat + 1)))
  | .add16 u v => op2 2 .queue ⟨src5 u, false⟩ ⟨src5 v, false⟩ fun x y => x + y
  | .sub16 u v => op2 2 .queue ⟨src5 u, false⟩ ⟨src5 v, false⟩ fun x y => x - y
  | .and16 u v => op2 2 .queue ⟨src5 u, false⟩ ⟨src5 v, false⟩ fun x y => x &&& y
  | .or16 u v => op2 2 .queue ⟨src5 u, false⟩ ⟨src5 v, false⟩ fun x y => x ||| y
  | .xor16 u v => op2 2 .queue ⟨src5 u, false⟩ ⟨src5 v, false⟩ fun x y => x ^^^ y
  | .shl16 u v => op2 2 .queue ⟨src5 u, false⟩ ⟨src5 v, false⟩ fun x y => word (x.toNat * 2 ^ (y.toNat % 64))
  | .shr16 u v => op2 2 .queue ⟨src5 u, false⟩ ⟨src5 v, false⟩ fun x y => word (x.toNat / 2 ^ (y.toNat % 64))
  | .cmpEq16 u v => op2 2 .queue ⟨src5 u, false⟩ ⟨src5 v, false⟩ fun x y => boolWord (condHolds .eq x y)
  | .cmpLt16 u v => op2 2 .queue ⟨src5 u, false⟩ ⟨src5 v, false⟩ fun x y => boolWord (condHolds .lt x y)
  | .mov16 u v => op1 2 (.n ⟨v.val, by omega⟩) ⟨src5 u, false⟩ fun x => x
  | .addi16 u imm => op1 2 .queue ⟨src5 u, false⟩ fun x => x + imm.signExtend 64
  | .li16 imm => some ⟨2, .queue, [], fun _ => imm.signExtend 64⟩
  | _ => none

/-! ### Floating point and Gaussian pairs -/

/-- A scalar floating-point instruction: its bytes, destination and sources, and its result with the flags it raises, by
the slot it runs in and the source values. -/
structure FpOp where
  len : Nat
  dst : Dst
  srcs : List SrcM
  val : Slot → List Word → Nat × Nat

/-- An FP instruction of two sources in a precision (R336). -/
def fp2 (len : Nat) (p : Prec) (d : Dst) (a b : SrcM) (f : FpEnv → Nat → Nat → Nat × Nat) : Option FpOp :=
  some ⟨len, d, [a, b], fun sl vs => f sl.fpEnv (p.bits (vs.getD 0 0)) (p.bits (vs.getD 1 0))⟩

def fp1 (len : Nat) (p : Prec) (d : Dst) (a : SrcM) (f : FpEnv → Nat → Nat × Nat) : Option FpOp :=
  some ⟨len, d, [a], fun sl vs => f sl.fpEnv (p.bits (vs.getD 0 0))⟩

/-- A fused multiply-add, whose third source is D (R343): the product and the addend with their signs, rounded once. -/
def fp3 (p : Prec) (d : Fin 32) (a b : SrcM) (negProduct negAddend : Bool) : Option FpOp :=
  some ⟨4, .n d, [a, b, ⟨.n d, false⟩], fun sl vs =>
    p.fmt.fma sl.fpEnv negProduct negAddend (p.bits (vs.getD 0 0)) (p.bits (vs.getD 1 0)) (p.bits (vs.getD 2 0))⟩

/-- The scalar floating-point and Gaussian instructions (R337-R340, R343, R344, R346-R353, R300). -/
def fpOp : Instr → Option FpOp
  | .fadd p d a b => fp2 4 p d a b p.fmt.add
  | .fsub p d a b => fp2 4 p d a b p.fmt.sub
  | .fmul p d a b => fp2 4 p d a b p.fmt.mul
  | .fdiv p d a b => fp2 4 p d a b p.fmt.div
  | .fmin p d a b => fp2 4 p d a b fun _ x y => p.fmt.pick false x y
  | .fmax p d a b => fp2 4 p d a b fun _ x y => p.fmt.pick true x y
  | .fsqrt p d a => fp1 4 p d a p.fmt.sqrt
  | .fsgnj p d a b => fp2 4 p d a b fun _ x y => (withSign p x (p.fmt.sign y), 0)
  | .fsgnn p d a b => fp2 4 p d a b fun _ x y => (withSign p x (!p.fmt.sign y), 0)
  | .fsgnx p d a b => fp2 4 p d a b fun _ x y => (withSign p x (p.fmt.sign x != p.fmt.sign y), 0)
  | .fclass p d a => fp1 4 p d a fun _ x => (p.fmt.classify x, 0)
  | .fma p d a b => fp3 p d a b false false
  | .fms p d a b => fp3 p d a b false true
  | .fnma p d a b => fp3 p d a b true false
  | .fnms p d a b => fp3 p d a b true true
  | .fcmp c p d a b => fp2 4 p d a b fun _ x y => (if (p.fmt.cmp c x y).1 then 1 else 0, (p.fmt.cmp c x y).2)
  | .fcvt code sat r d a => some ⟨4, d, [a], fun sl vs =>
      convert code.toNat sat (sl.fmtMode.getLsbD 0) (sl.fpEnv.with r) (vs.getD 0 0).toNat⟩
  | .frint p r d a => fp1 4 p d a fun env x => p.fmt.rint (env.with r) x
  | .gmul d a b => fp2 4 .d d a b gsum
  | .gdiv d a b => fp2 4 .d d a b gdiff
  | .gdamp d a b => some ⟨4, d, [a, b], fun sl vs =>
      gdampOf sl.fpEnv (sl.gbeta.toNat % 2 ^ 32) (vs.getD 0 0).toNat (vs.getD 1 0).toNat⟩
  | .gmarg d a b => fp2 4 .d d a b (gmargOf false)
  | .gmargi d a b => fp2 4 .d d a b (gmargOf true)
  | .gmean d a => fp1 4 .d d a gmeanOf
  | .faddD16 u v => fp2 2 .d .queue ⟨src5 u, false⟩ ⟨src5 v, false⟩ fp64.add
  | .fsubD16 u v => fp2 2 .d .queue ⟨src5 u, false⟩ ⟨src5 v, false⟩ fp64.sub
  | .fmulD16 u v => fp2 2 .d .queue ⟨src5 u, false⟩ ⟨src5 v, false⟩ fp64.mul
  | .gmul16 u v => fp2 2 .d .queue ⟨src5 u, false⟩ ⟨src5 v, false⟩ gsum
  | _ => none

/-! ### Frames, traps and memory -/

/-- A call or a trap entry finds room for its frame at once: no frame lies below the active one, or a record is free for
it and nothing is owed to it (R67). -/
def Slot.roomy (sl : Slot) : Bool :=
  match sl.win.below with
  | none => true
  | some f => decide (sl.spillUsed < sl.spillCount) && !owedIn f.regs

/-- The call needs a spill and every record is in use (R67). -/
def Slot.spillFull (sl : Slot) : Bool := sl.win.below.isSome && decide (sl.spillCount ≤ sl.spillUsed)

/-- A trap is taken at once (R67, R181, R212): its frame finds room, or no frame is opened. -/
def Slot.trapsAtOnce (sl : Slot) : Bool := sl.forcedOut || sl.shadow.isSome || sl.roomy || sl.spillFull

/-- What a call or a trap entry writes to memory: the record of the frame it spills, and nothing without a spill. -/
def spilled (s t : State) : Prop :=
  match s.slot.win.below with
  | none => sameMemory s t ∧ t.slot.spillUsed = s.slot.spillUsed
  | some f =>
    let a := s.slot.recordKey s.cur.1 s.slot.spillUsed
    t.slot.spillUsed = s.slot.spillUsed + 1 ∧ memBytes t.mem a (spillRecord f).length = spillRecord f ∧
      sameMemoryBut s t a (spillRecord f).length

/-- A memory instruction goes on: no `lda` before it is owed its value and the task is no orphan (R361, R169). -/
def State.memReady (s : State) : Bool := !s.slot.owed.any (·.lda) && !s.orphan

/-- A release goes on: no posted store of the task is unacknowledged or refused, no load of it and no reading of the time is
owed, its vector transfers
are complete, and none of its stores waits for its line (R119, R134, R172, R250). -/
def State.released (s : State) : Bool :=
  !s.myCore.journal.any (·.mine s.cur.2) && !(s.slot.owed.any fun o => o.kind == .remote || o.kind == .time) &&
    !s.myCore.transferring s.cur.2 && !linePending s s.cur.1 s.cur.2

/-- A value is owed to a destination: the entry pushed and the destination are empty and await it (R62). A destination z
takes and pushes nothing, and is owed nothing but the wait of an `lda`. -/
def owesTo (s t : State) (d : Dst) (kind : OwedKind) (lda : Bool) : Prop :=
  t.slot.owed = s.slot.owed ++ (if d = .z ∧ lda = false then [] else [{ id := s.nextId, kind := kind, lda := lda }]) ∧
    t.slot.queue = (if d = .z then s.slot.queue else ⟨0, .empty (some s.nextId)⟩ :: s.slot.queue.take 15) ∧
    (∀ j, d = .n j → t.slot.named j.val = ⟨0, .empty (some s.nextId)⟩) ∧
    ∀ r, (∀ j, d = .n j → r ≠ j.val) → t.slot.named r = s.slot.named r

/-- Every slot but the one at hand is as it was. -/
def otherSlots (s t : State) : Prop := ∀ c k, (c, k) ≠ s.cur → t.slotAt c k = s.slotAt c k

/-- The issuing core reads `n` bytes of a place at once (R114, R122, R250): its own scratchpad, its own hearth's pool, a cached
line at hand, and memory that is not cached and that this part holds. -/
def State.near (s : State) (n : Nat) : Place → Bool
  | .sram h u _ => isLocalUnit s.cur.1 h u
  | .window none h u _ _ => isLocalUnit s.cur.1 h u
  | .mem (.peer _ _) _ => false
  | .mem t cacheable => loadReady s t cacheable n
  | _ => false

/-- The place belongs to a cached page. -/
def Place.cached : Place → Bool
  | .mem _ true => true
  | _ => false

/-- A store of `n` bytes to the place is performed before the next instruction issues (R116, R250): own SRAM, and a cached line
that may be written. -/
def State.direct (s : State) (n : Nat) : Place → Bool
  | .sram h u _ => isLocalUnit s.cur.1 h u
  | .mem (.peer _ _) _ => false
  | .mem t cacheable => cacheable && cacheReady s t n true
  | _ => false

/-- An atomic of `n` bytes is performed at once (R318, R250): no posted store of the core is on its way to the bytes, a cached line
may be written, and HBM that is not cached is awake. -/
def State.atomReady (s : State) (n : Nat) : Place → Bool
  | .sram h u _ => isLocalUnit s.cur.1 h u
  | .mem (.peer _ _) _ => false
  | .mem t cacheable => !journalOverlap s.myCore t.key n && Sys2Proof.Machine.atomReady s t cacheable n
  | _ => false

/-- An atomic of a place goes to its holder, or waits for its line or the bytes of host memory. -/
def State.atomSent (s : State) (n : Nat) : Place → Bool
  | .sram h u _ => !isLocalUnit s.cur.1 h u
  | .window _ _ _ _ _ => false
  | .mem (.peer _ _) _ => true
  | .mem t cacheable => !journalOverlap s.myCore t.key n && !Sys2Proof.Machine.atomReady s t cacheable n
  | .peerSram _ => true

/-- The place is one of a decoding window. -/
def Place.windowed : Place → Bool
  | .window _ _ _ _ _ => true
  | _ => false

/-- The window that a distant element is decoded by, with the reading of the top code (R102). -/
def State.windowOf (s : State) : Place → Option (Word × Bool)
  | .window _ _ _ w _ => some (word (s.myCore.fmtWindow w), s.slot.fmtMode.getLsbD 0)
  | _ => none

/-- Every granule of `n` bytes from a key on bears the check of its bytes (R129). -/
def State.checksHold (s : State) (key n : Nat) : Bool :=
  s.badCheck.all fun g => !(decide (64 * g < key + n) && decide (key < 64 * g + 64))

/-- Bytes that are not cached come from another die, and a check of them does not hold there (R129). -/
def State.badCross (s : State) (n : Nat) : Place → Bool
  | .mem t false => keyDie s t.key != dieOf s.cur.1 && !s.checksHold t.key n
  | _ => false

/-- An access of the task at hand to a place takes poisoned data (R129, R167). -/
def State.badAt (s : State) (p : Place) (n : Nat) : Bool :=
  (if p.cached && s.slot.hypCur != 0 then poisonedUnder s s.slot.hypCur p.key n else poisoned s.poison p.key n) ||
    s.badCross n p

/-- The peer that holds a place, if one does. -/
def Place.peer : Place → Option Nat
  | .peerSram p => some p
  | .window (some p) _ _ _ _ => some p
  | .mem (.peer p _) _ => some p
  | _ => none

/-- The address is one of SRAM space, and one of a decoding window (R111). -/
def sramVa (va : Word) : Bool := bitsOf va.toNat 63 56 == 0xFE
def windowVa (va : Word) : Bool := sramVa va && bitsOf va.toNat 35 32 != 0

/-- A load: its form, bytes, sign, destination, base, displacement, whether it is an acquire, and its length. -/
structure LoadOp where
  kind : LoadKind
  bytes : Nat
  signed : Bool
  dst : Dst
  base : SrcM
  off : Int
  lda : Bool
  len : Nat

/-- The size and sign of a load (R359). -/
def loadWidth : LoadKind → Nat × Bool
  | .ub => (1, false)
  | .uh => (2, false)
  | .uw => (4, false)
  | .d => (8, false)
  | .sb => (1, true)
  | .sh => (2, true)
  | .sw => (4, true)

def loadOp : Instr → Option LoadOp
  | .ld k d a imm => some ⟨k, (loadWidth k).1, (loadWidth k).2, d, a, imm.toInt, false, 4⟩
  | .lda k d a _ off => some ⟨k, (loadWidth k).1, (loadWidth k).2, d, a, off.toNat, true, 4⟩
  | .ldD16 u off => some ⟨.d, 8, false, .queue, srcM5 u, off.toNat, false, 2⟩
  | _ => none

/-- The address of a load of which the base shows `b` (R359). -/
def LoadOp.va (f : LoadOp) (b : Word) : Word := b + BitVec.ofInt 64 (f.off * f.bytes)

/-- A store: bytes as a power of two, data, base, displacement, whether it is a release, and its length. -/
structure StoreOp where
  log : Nat
  data : Src
  base : SrcM
  off : Int
  release : Bool
  len : Nat

def storeLog : Size → Nat
  | .b => 0
  | .h => 1
  | .w => 2
  | .d => 3

def storeOp : Instr → Option StoreOp
  | .st z v a imm => some ⟨storeLog z, v, a, imm.toInt, false, 4⟩
  | .str z v a _ off => some ⟨storeLog z, v, a, off.toNat, true, 4⟩
  | .stD16 u v => some ⟨3, src5 u, srcM5 v, 0, false, 2⟩
  | _ => none

def StoreOp.bytes (f : StoreOp) : Nat := 2 ^ f.log

/-- The operands of a store: base and data. -/
def StoreOp.srcs (f : StoreOp) : List SrcM := [f.base, ⟨f.data, false⟩]

/-- The address of a store of which the base shows `b` (R378). -/
def StoreOp.va (f : StoreOp) (b : Word) : Word := b + BitVec.ofInt 64 (f.off * f.bytes)

/-- An atomic: bytes, order, destination, operands, and the value it leaves by the old one, the operand and the compare
value; none where it writes nothing (R318, R330). -/
structure AtomicOp where
  bytes : Nat
  order : Order
  dst : Dst
  srcs : List SrcM
  result : Nat → Nat → Nat → Option Nat

/-- The signed value of a number of `n` bytes. -/
def signedOf (n x : Nat) : Int := (BitVec.ofNat (8 * n) x).toInt

def atomBytes : ASize → Nat
  | .w => 4
  | .d => 8

def atom2 (z : ASize) (o : Order) (d : Dst) (a b : Src) (f : Nat → Nat → Nat → Nat) : Option AtomicOp :=
  some ⟨atomBytes z, o, d, [⟨a, false⟩, ⟨b, false⟩], fun old x _ => some (f (atomBytes z) old x)⟩

def atomOp : Instr → Option AtomicOp
  | .atomAdd z o d a b => atom2 z o d a b fun n old x => (old + x) % 2 ^ (8 * n)
  | .atomAnd z o d a b => atom2 z o d a b fun _ old x => old &&& x
  | .atomOr z o d a b => atom2 z o d a b fun _ old x => old ||| x
  | .atomXor z o d a b => atom2 z o d a b fun _ old x => old ^^^ x
  | .atomMin z o d a b => atom2 z o d a b fun n old x => if signedOf n old ≤ signedOf n x then old else x
  | .atomMax z o d a b => atom2 z o d a b fun n old x => if signedOf n old ≤ signedOf n x then x else old
  | .atomMinu z o d a b => atom2 z o d a b fun _ old x => if old ≤ x then old else x
  | .atomMaxu z o d a b => atom2 z o d a b fun _ old x => if old ≤ x then x else old
  | .swap z o d a b => atom2 z o d a b fun _ _ x => x
  | .cas z o d a b => some ⟨atomBytes z, o, .n d, [⟨a, false⟩, ⟨b, false⟩, ⟨.n d, false⟩],
      fun old x cmp => if old = cmp then some x else none⟩
  | _ => none

/-! ### Messages, graph and system instructions -/

/-- A memory instruction or a message goes on in a task that is no orphan, with its release done (R169, R361, R119). -/
def State.mayRelease (s : State) : Bool := s.memReady && s.released

/-- Everything but the slot at hand, its core's record and the device's messages is as it was, and the slot but for its
pc and streams. -/
def onlyPc (s t : State) (len : Nat) : Prop := sameButRegs s.slot t.slot ∧ t.slot.pc = s.slot.pc + word len ∧
  t.slot.queue = s.slot.queue ∧ t.slot.win = s.slot.win ∧ otherSlots s t ∧ sameMemory s t

/-- The fields of a message that a task sends under R35 and R374: its destination without the class, its class, and what
the part fills in. -/
def msgFrom (s : State) (m : Msg) (dest : Nat) (cls prio : Nat) (ws : List Word) (srcDev : Nat) : Prop :=
  m.dest.toNat = dest / 2 ^ 8 * 2 ^ 8 ∧ m.cls = cls ∧ m.prio = prio ∧ m.words = ws ∧ m.len = ws.length ∧
    m.launch = s.slot.launch ∧ m.tag = s.slot.hypCur ∧ m.srcCore = s.cur.1 ∧ m.srcDev = srcDev ∧
    m.top = s.slot.fmtMode.getLsbD 0 ∧ m.checked = true

/-- What a message takes as its sender's numbers (R35): each fits its field. -/
def State.numbersFit (s : State) : Bool :=
  decide (s.cur.1 < 2 ^ 13) && decide (s.slot.launch < 2 ^ 8) && decide (s.slot.hypCur < 2 ^ 12) &&
    decide (s.cfg.deviceId < 2 ^ 6)

/-- The composer's words are all full (R360). -/
def Slot.composed (sl : Slot) : Bool := sl.composer.all fun r => r.st == .full

/-- Registers of R73 that any task may read, with where the value comes from. -/
def sysValues (s : State) : List (Nat × Word) :=
  [(0x000, word s.cur.1), (0x001, word s.cur.2), (0x002, word s.slot.launch), (0x003, word s.slot.rank),
    (0x004, word s.cfg.deviceId), (0x010, s.slot.fpCtrl), (0x012, s.slot.fmtMode), (0x013, s.slot.gbeta),
    (0x020, word s.slot.vl), (0x021, s.slot.vstride), (0x022, word s.myCore.vshare), (0x030, s.myCore.cvgMax),
    (0x031, s.myCore.cvgCount), (0x033, s.myCore.cvgThresh), (0x034, s.myCore.cvgWindow), (0x040, word s.slot.hypCur),
    (0x060, word s.myCore.arrLimit), (0x061, word s.myCore.ovfBase), (0x062, word s.myCore.ovfSize),
    (0x064, word s.myCore.deadCount), (0x068, word s.myCore.spawnLimit), (0x070, s.slot.msgSrc), (0x071, s.slot.msgHdr),
    (0x072, s.slot.msgSlot), (0x080, word s.myCore.lsplit), (0x0B0, word (s.hearth (s.cur.1 / 8)).held.gate), (0x0C0, 0),
    (0x111, word s.myCore.journalSel), (0x130, word s.slot.wdog)] ++
  (List.range 15).map fun i => (0xC1 + i, word (s.myCore.fmtWin.getD i 0).toNat)

/-- Further registers of R73 that any task may read: convergence, wrap-up, deadline, arrivals, spills, the part's constants, the
token and the journal. -/
def sysMore (s : State) : List (Nat × Word) :=
  let j := s.myCore.journal.getD s.myCore.journalSel {}
  [(0x032, word (s.myCore.cvgQuiet.toNat % 2 ^ 63)), (0x050, if s.slot.wrapup then s.slot.quenchPc else 0),
    (0x051, if s.slot.wrapup then word s.slot.quenchCause else 0), (0x052, if s.slot.wrapup then word s.slot.quenchLeft else 0),
    (0x058, s.lr s.slot.launch 16),
    (0x059, match s.launch? s.slot.launch with
      | some x => if x.lr.getD 16 0 = 0 then word (2 ^ 63 - 1)
          else word ((x.lr.getD 16 0).toNat - (x.lr.getD 17 0).toNat) - word s.ptp
      | none => word (2 ^ 63 - 1)),
    (0x063, word (s.myCore.ringHead * 2 ^ 32 + s.myCore.ring.length * 2 ^ 16 + s.myCore.hwq.length)),
    (0x069, word (s.slot.spillUsed * 2 ^ 48 + s.slot.spillCount * 2 ^ 32 + s.slot.spillBase)),
    (0x0A0, word Config.awake), (0x0A1, word Config.lwake), (0x0A2, word Config.subReplay),
    (0x0A3, word (Config.drainAllowance * 2 ^ 32) + BitVec.setWidth 64 Config.revision),
    (0x0B1, if (s.hearth s.myHearth).token then 1 else 0), (0x110, journalHead s.myCore), (0x112, j.addr), (0x113, j.data),
    (0x114, word (j.launch * 2 ^ 16 + j.slot * 2 ^ 12 + (if j.used then 2 ^ 11 else 0) + (if j.refused then 2 ^ 10 else 0) +
      j.size * 2 ^ 8 + j.reason))]

/-- Registers of R73 that only kernel code may read. -/
def kernelValues (s : State) : List (Nat × Word) :=
  [(0x100, s.slot.bank1.cause), (0x101, s.slot.bank1.epc), (0x102, s.slot.bank1.addr), (0x103, s.slot.bank1.info),
    (0x104, s.slot.trapVec), (0x105, s.slot.trapStack), (0x108, s.slot.bank2.cause), (0x109, s.slot.bank2.epc),
    (0x10A, s.slot.bank2.addr), (0x10B, s.slot.bank2.info), (0x121, word s.slot.asid)]

/-- The bits a writable register of R73 keeps, by number; user code may write those of the first list. -/
def userWrites : List (Nat × Word) :=
  [(0x010, 0xFF), (0x011, 0xFF1F), (0x012, 1), (0x013, 0xFFFFFFFF), (0x021, ~~~0), (0x033, 0xFFFFFFFF),
    (0x034, 0xFFFFFFFF), (0x060, 0x3F), (0x061, 0x1FFFF), (0x062, 0xFFFF), (0x068, 0x7F), (0x111, 0x3F)] ++
  (List.range 15).map fun i => (0xC1 + i, ~~~0)

def kernelWrites : List (Nat × Word) :=
  [(0x022, 0xF), (0x0B0, 0xFFFFFFFF), (0x100, 0xFFF), (0x101, ~~~0), (0x102, ~~~0), (0x103, ~~~0), (0x104, ~~~0),
    (0x105, ~~~0), (0x108, 0xFFF), (0x109, ~~~0), (0x10A, ~~~0), (0x10B, ~~~0), (0x121, 0x3FFF)]

/-! ### Vectors -/

/-- A vector instruction on registers: the register written, those it reads beside its mask and kept elements, its mask,
whether its operands and its result are FP64 pairs, and the value and flags of element `i` in a slot (R69, R385). -/
structure VecOp where
  vd : Fin 16
  reads : List (Fin 16)
  mask : VMask
  pairIn : Bool
  pairOut : Bool
  val : Slot → Nat → Nat × Nat

/-- An operation on 32-bit integers of two registers. -/
def vInt2 (vd va vb : Fin 16) (m : VMask) (f : Nat → Nat → Nat) : Option VecOp :=
  some ⟨vd, [va, vb], m, false, false, fun sl i => (f (sl.velem va i) (sl.velem vb i), 0)⟩

/-- An operation on FP elements of two registers, in the slot's rounding (R71). -/
def vFp2 (p : Prec) (vd va vb : Fin 16) (m : VMask) (f : FpEnv → Nat → Nat → Nat × Nat) : Option VecOp :=
  some ⟨vd, [va, vb], m, p == .d, p == .d, fun sl i => f sl.fpEnv (sl.vget (p == .d) va i) (sl.vget (p == .d) vb i)⟩

def vFp1 (p : Prec) (vd va : Fin 16) (m : VMask) (f : FpEnv → Nat → Nat × Nat) : Option VecOp :=
  some ⟨vd, [va], m, p == .d, p == .d, fun sl i => f sl.fpEnv (sl.vget (p == .d) va i)⟩

/-- A fused multiply-add with the old VD as addend (R395). -/
def vFma (p : Prec) (vd va vb : Fin 16) (m : VMask) (negProduct negAddend : Bool) : Option VecOp :=
  some ⟨vd, [va, vb, vd], m, p == .d, p == .d, fun sl i => p.fmt.fma sl.fpEnv negProduct negAddend
    (sl.vget (p == .d) va i) (sl.vget (p == .d) vb i) (sl.vget (p == .d) vd i)⟩

/-- The signed value of a 32-bit element. -/
def signed32 (x : Nat) : Int := (BitVec.ofNat 32 x).toInt

/-- A relation of integers; `un` holds of none (R392). -/
def relHolds (c : VCond) (x y : Int) : Bool :=
  match c with
  | .eq => x == y
  | .ne => x != y
  | .lt => decide (x < y)
  | .le => decide (x ≤ y)
  | .un => false

/-- The vector instructions on registers alone (R387, R388, R390, R392-R395, R398, R399, R401, R402). -/
def vecOp : Instr → Option VecOp
  | .vaddI d a b m => vInt2 d a b m fun x y => (x + y) % 2 ^ 32
  | .vsubI d a b m => vInt2 d a b m fun x y => (x + (2 ^ 32 - y)) % 2 ^ 32
  | .vmulI d a b m => vInt2 d a b m fun x y => x * y % 2 ^ 32
  | .vminI d a b m => vInt2 d a b m fun x y => if signed32 x ≤ signed32 y then x else y
  | .vmaxI d a b m => vInt2 d a b m fun x y => if signed32 x ≤ signed32 y then y else x
  | .vminu d a b m => vInt2 d a b m fun x y => if x ≤ y then x else y
  | .vmaxu d a b m => vInt2 d a b m fun x y => if x ≤ y then y else x
  | .vand d a b m => vInt2 d a b m fun x y => x &&& y
  | .vor d a b m => vInt2 d a b m fun x y => x ||| y
  | .vxor d a b m => vInt2 d a b m fun x y => x ^^^ y
  | .vshl d a b m => vInt2 d a b m fun x y => x * 2 ^ (y % 32) % 2 ^ 32
  | .vshr d a b m => vInt2 d a b m fun x y => x / 2 ^ (y % 32)
  | .vsar d a b m => vInt2 d a b m fun x y => (BitVec.ofInt 32 (signed32 x / 2 ^ (y % 32))).toNat
  | .vmov d a m => some ⟨d, [a], m, false, false, fun sl i => (sl.velem a i, 0)⟩
  | .viota d m => some ⟨d, [], m, false, false, fun sl i =>
      (((List.range i).filter fun j => !m.me || sl.velem m.vm j % 2 == 1).length, 0)⟩
  | .vsel d a b vm _ => some ⟨d, [a, b, vm], ⟨vm, false, false⟩, false, false, fun sl i =>
      (if sl.velem vm i % 2 = 1 then sl.velem a i else sl.velem b i, 0)⟩
  | .vcmp .i c d a b m => vInt2 d a b m fun x y => if relHolds c (signed32 x) (signed32 y) then 1 else 0
  | .vcmp .u c d a b m => vInt2 d a b m fun x y => if relHolds c x y then 1 else 0
  | .vcmp .s c d a b m => some ⟨d, [a, b], m, false, false, fun sl i =>
      let r := fp32.rel c (sl.velem a i) (sl.velem b i)
      (if r.1 then 1 else 0, r.2)⟩
  | .vcmp .d c d a b m => some ⟨d, [a, b], m, true, false, fun sl i =>
      let r := fp64.rel c (sl.vpair a i) (sl.vpair b i)
      (if r.1 then 1 else 0, r.2)⟩
  | .vaddS d a b m => vFp2 .s d a b m fp32.add
  | .vsubS d a b m => vFp2 .s d a b m fp32.sub
  | .vmulS d a b m => vFp2 .s d a b m fp32.mul
  | .vdivS d a b m => vFp2 .s d a b m fp32.div
  | .vminS d a b m => vFp2 .s d a b m fun _ x y => fp32.pick false x y
  | .vmaxS d a b m => vFp2 .s d a b m fun _ x y => fp32.pick true x y
  | .vsqrtS d a m => vFp1 .s d a m fp32.sqrt
  | .vaddD d a b m => vFp2 .d d a b m fp64.add
  | .vsubD d a b m => vFp2 .d d a b m fp64.sub
  | .vmulD d a b m => vFp2 .d d a b m fp64.mul
  | .vdivD d a b m => vFp2 .d d a b m fp64.div
  | .vminD d a b m => vFp2 .d d a b m fun _ x y => fp64.pick false x y
  | .vmaxD d a b m => vFp2 .d d a b m fun _ x y => fp64.pick true x y
  | .vsqrtD d a m => vFp1 .d d a m fp64.sqrt
  | .vfma p d a b m => vFma p d a b m false false
  | .vfms p d a b m => vFma p d a b m false true
  | .vfnma p d a b m => vFma p d a b m true false
  | .vfnms p d a b m => vFma p d a b m true true
  | .vcvt code d a b m => some ⟨d,
      [a] ++ (if narrowTarget code.toNat then [b] else []) ++ (if takesZero code.toNat then [d] else []), m, false, false,
      fun sl i => vecConvert code.toNat (sl.fmtMode.getLsbD 0) sl.fpEnv (sl.velem a i) (sl.velem b i) (sl.velem d i)⟩
  | _ => none

/-- Element `i` takes part under a mask (R69). -/
def Slot.takes (sl : Slot) (m : VMask) (i : Nat) : Bool := !m.me || sl.velem m.vm i % 2 == 1

/-- The elements a vector instruction works on (R385). -/
def VecOp.count (f : VecOp) (sl : Slot) : Nat := if f.pairIn then sl.vl / 2 else sl.vl

/-- The flags a vector instruction raises: those of its active elements. -/
def VecOp.flags (f : VecOp) (sl : Slot) : Nat :=
  (List.range (f.count sl)).foldl (fun a i => a ||| if sl.takes f.mask i then (f.val sl i).2 else 0) 0

/-- Register `r` after a write of `val` to its elements below `n` under a mask (R69): inactive elements are kept or zeroed,
and elements at or beyond `n` kept. -/
def vecWritten (a b : Slot) (r : Fin 16) (m : VMask) (pair : Bool) (n : Nat) (val : Nat → Nat) : Prop :=
  ∀ j, j < 64 → ∀ i, i = (if pair then j / 2 else j) →
    b.velem r j = (if n ≤ i then a.velem r j
      else if a.takes m i then (if pair && j % 2 == 1 then val i / 2 ^ 32 else val i) % 2 ^ 32
      else if m.z then 0 else a.velem r j)

/-- What a vector instruction leaves in its slot but for vector registers, their faults and `FP.STAT`; and memory, every
other slot and the scalar registers. -/
def vecFrame (s t : State) : Prop :=
  sameButRegs s.slot { t.slot with vregs := s.slot.vregs, vfaults := s.slot.vfaults, fpStat := s.slot.fpStat } ∧
    t.slot.pc = s.slot.pc + 4 ∧ t.slot.queue = s.slot.queue ∧ t.slot.win = s.slot.win ∧ otherSlots s t ∧ sameMemory s t

/-- A vector instruction takes effect at once: no register it reads holds a fault, lanes are granted, the lane queue has a
place for it, and no value that it reads is still to come (R385, R386, R205, R234). -/
def State.vecReady (s : State) (reads : List (Fin 16)) (m : VMask) (vd : Option (Fin 16)) : Bool :=
  (vecFault s.slot (reads ++ maskReads m vd)).isNone && s.slot.vl != 0 && !laneFull s &&
    !vecAwaits s (reads ++ maskReads m vd)

/-- An instruction has entered the lane queue of the task's core with the flags given: at its end, or in the place that was
kept for it (R205, R234). -/
def entersLanes (s t : State) (flags : Nat) (transfer : Option (Nat × Bool)) : Prop :=
  ∃ op, t.myCore.lanes = (if s.hasLane then s.myCore.lanes.map fun o => if o.standsFor s.cur.2 s.slot.pc then op else o
      else s.myCore.lanes ++ [op]) ∧ op.unformed = none ∧ op.slot = s.cur.2 ∧ op.groups = s.slot.vl / 8 ∧ op.flags = flags ∧
    op.transfer = transfer

/-- The node of the reduction tree of R106 over `2 ^ k` inputs from input `i * 2 ^ k` on. -/
def treeNode (op : Nat → Nat → Nat) (leaf : Nat → Nat) : Nat → Nat → Nat
  | 0, i => leaf i
  | k + 1, i => op (treeNode op leaf k (2 * i)) (treeNode op leaf k (2 * i + 1))

/-- The FP reductions: precision, identity and operation (R106). -/
def redFp : VRedOp → Option (Prec × Nat × (FpEnv → Nat → Nat → Nat × Nat))
  | .addS => some (.s, 0x80000000, fp32.add)
  | .addD => some (.d, 0x8000000000000000, fp64.add)
  | .minS => some (.s, 0x7F800000, fun _ => fp32.pick false)
  | .maxS => some (.s, 0xFF800000, fun _ => fp32.pick true)
  | _ => none

/-- An element of a vector access as the part meets it: its index and its address. -/
def vecElems (sl : Slot) (n : Nat) (m : VMask) (addr : Nat → Word) : List (Nat × Word) :=
  ((List.range n).filter (sl.takes m)).map fun i => (i, addr i)

/-- Every element lies, aligned, in the task's own scratchpad or its hearth's pool. -/
def State.ownElems (s : State) (k : AccKind) (n : Nat) (l : List (Nat × Word)) : Bool :=
  l.all fun p => sramVa p.2 && decide (p.2.toNat % n = 0) && match locate s k n p.2 p.1 with
    | .ok (.sram h u _) => isLocalUnit s.cur.1 h u
    | _ => false

/-- The key of an address of this device's SRAM. -/
def ownKey (va : Word) : Nat := sramKey (bitsOf va.toNat 49 40) (bitsOf va.toNat 39 36) (bitsOf va.toNat 31 0)

/-! ### The Anvil -/

/-- The port takes an operation of the slot at hand in this cycle: none of its core waits before it, none of another core
waits, and no other has been taken (R207). -/
def State.portOpen (s : State) : Bool :=
  s.myCore.waitingPort.headD s.cur.2 == s.cur.2 && decide ((s.hearth s.myHearth).nextAccept ≤ s.cycle) &&
    !portOthers s

/-- The port has taken an operation of the slot at hand, which issues nothing until it retires, `n` cycles on or later
(R207, R231). -/
def accepted (s t : State) (n : Nat) : Prop :=
  t.slot.stall = .anvil (s.slot.pc + 4) ∧ t.slot.atPort = false ∧ t.slot.pc = s.slot.pc ∧
    (t.hearth s.myHearth).nextAccept = s.cycle + 1 ∧ otherSlots s t ∧
    ∃ o, (t.hearth s.myHearth).ops = (s.hearth s.myHearth).ops ++ [o] ∧ o.core = s.cur.1 ∧ o.slot = s.cur.2 ∧
      s.cycle + n ≤ o.retireAt

/-- The tiles of an operation can be written at once: the core owns them, no operation of it that writes them is under way,
and their sub-array is awake (R229, R232, R314). -/
def State.tilesReady (s : State) (acc fmt : Nat) : Bool :=
  ((fmtTiles acc fmt).all fun t => ownsTile s s.slot.launch s.cur.1 t) &&
    !((s.hearth s.myHearth).ops.any fun o => o.core == s.cur.1 && o.writes.any (natMem (fmtTiles acc fmt))) &&
    !subGated s s.myHearth acc

/-- No posted store of the core, and no access of the task that waits for its line, is on its way to `n` bytes from a key on
(R119, R131). -/
def State.settledAt (s : State) (key n : Nat) : Bool :=
  !journalOverlap s.myCore key n && !lineWaits s s.cur.1 s.cur.2 key n

/-- The accumulator tiles of the hearth at hand. -/
def State.tiles (s : State) : List (List (BitVec 32)) := (s.hearth s.myHearth).held.acc

/-- Tile `t` holds the elements `v`. -/
def tileHolds (s : State) (t : Nat) (v : Nat → Nat) : Prop := ∀ n, n < 256 → tileElem s.tiles t n = v n % 2 ^ 32

/-- Every tile but those named is as it was. -/
def otherTiles (s t : State) (l : List Nat) : Prop := ∀ i, natMem l i = false → t.tiles.getD i [] = s.tiles.getD i []

/-- The granules of `bytes` bytes at an address lie one after the other in a unit at hand from `off` on. -/
def State.ownTile (s : State) (k : AccKind) (va : Word) (granules h u off : Nat) : Bool :=
  isLocalUnit s.cur.1 h u && (List.range granules).all fun i =>
    match locate s k 64 (va + word (64 * i)) 0 with
    | .ok p => p == .sram h u (off + 64 * i)
    | .error _ => false

/-! ### Events -/

/-- Everything but the record of a core is as it was; events may have become due. -/
def onlyCore (s t : State) (c : Nat) : Prop :=
  { t with cores := s.cores, agenda := s.agenda } = s ∧ ∀ x, x ≠ c → t.core x = s.core x

/-- Everything but a slot of a core is as it was; events may have become due. -/
def onlySlotAt (s t : State) (c k : Nat) : Prop := onlyCore s t c ∧ t.core c = (s.core c).setSlot k (t.slotAt c k)

/-- Everything but a launch is as it was; events may have become due. -/
def onlyLaunch (s t : State) (l : Nat) : Prop :=
  { t with launches := s.launches, agenda := s.agenda } = s ∧ ∀ x, x ≠ l → t.launch? x = s.launch? x

/-- Everything but a hearth is as it was; events may have become due. -/
def onlyHearth (s t : State) (h : Nat) : Prop :=
  { t with hearths := s.hearths, agenda := s.agenda } = s ∧ ∀ x, x ≠ h → t.hearth x = s.hearth x

/-- Of the cores one is changed, and it only in what it holds of the message that arrived last (R45). -/
def State.arrived (s t : State) (c id : Nat) (m : Transit) : Prop :=
  t.core c = { s.core c with lastArrival := (s.cycle + 1, sourceKey m, id) } ∧ ∀ x, x ≠ c → t.core x = s.core x

/-- A register once the value a producer owed has landed in it (R62). -/
def filled (id : Nat) (v r : Reg) : Reg := if r.st = .empty (some id) then v else r

/-- The access a distant load of a slot waits for, by its producer. -/
def State.awaited (s : State) (c k id : Nat) : Option Remote :=
  (s.remotes.find? fun p => p.2.core == c && p.2.slot == k && p.2.kind == .load && p.2.producer == id).map Prod.snd

/-- What an owed value lands as (R62, R115, R172, R267); readings of the time unit land in their order. -/
inductive LandsAs (s : State) (c k : Nat) : Owed → Reg → Prop where
  | value (id : Nat) (w : Word) (lda holds : Bool) : LandsAs s c k ⟨id, .value w, lda, holds⟩ (Reg.of w)
  | refused (id : Nat) (p : Bool) (a pc : Word) (lda holds : Bool) :
    LandsAs s c k ⟨id, .refused p a pc, lda, holds⟩ ⟨0, .faulted p a pc⟩
  | time (id : Nat) (lda holds : Bool) (h : ∀ x ∈ (s.slotAt c k).owed, x.kind = .time → id ≤ x.id) :
    LandsAs s c k ⟨id, .time, lda, holds⟩ (Reg.of (word s.ptp))
  | lstat (id peer : Nat) (lda holds : Bool) :
    LandsAs s c k ⟨id, .lstat peer, lda, holds⟩ (Reg.of (lstatWord s (s.slotAt c k).launch peer))
  | answered (id : Nat) (lda holds : Bool) (r : Remote) (w : Word) (h : s.awaited c k id = some r)
    (a : r.stage = .answered w) :
    LandsAs s c k ⟨id, .remote, lda, holds⟩ (Reg.of (extended (8 * r.size) r.signed w))
  | denied (id : Nat) (lda holds : Bool) (r : Remote) (why : Nat) (h : s.awaited c k id = some r)
    (a : r.stage = .refused why) : LandsAs s c k ⟨id, .remote, lda, holds⟩ ⟨0, .faulted (why == 3) r.addr r.pc⟩

/-- The entry of a TLB goes with an invalidation (R382): a page's, an ASID's that is not global, or any. -/
def removes (op : TlbiOp) (e : TlbEntry) : Prop :=
  match op with
  | .page va a => va.toNat / 2 ^ 56 < 0xFE ∧ e.covers a va.toNat = true
  | .asid a => e.asid = a ∧ bitsOf e.pte.toNat 6 6 = 0
  | .all => True

/-- A load of the core waits behind a journal entry (R119). -/
def State.behindJournal (s : State) (c : Nat) : Bool :=
  [0, 1, 2, 3].any fun k => match (s.slotAt c k).stall with
    | .overlap _ _ _ _ _ => true
    | _ => false

/-- A remote access that its core keeps until the answer is used: every kind but an element of a vector load or of a Tongs
command, and an access that waits for its line. -/
def RemoteKind.kept : RemoteKind → Bool
  | .vload _ _ => false
  | .tongs _ _ => false
  | .line _ => false
  | _ => true

/-- No remote access waits behind another (R131). -/
def State.noneBehind (s : State) : Bool := s.remotes.all fun p => p.2.stage != .behind

/-- The hearth that a packet concerns has been woken (R284). -/
def State.woken (s : State) (q : Packet) : State :=
  match q.hearth? with
  | some h => rouse s h
  | none => s

/-- Every linked peer has the transmitter of its base lease (R263). -/
def State.basesPlaced (s : State) : Bool := s.linked.all fun q => (tget s.baseTx q).isSome

/-- A hearth is in no idle state and has left the last one it was in (R284). -/
def State.up (s : State) (h : Nat) : Bool := exitNs s h == 0 && !s.powerParked.getD (h / 256) false && awake s h

/-- The hearth of a key of SRAM is up. -/
def State.roused (s : State) (key : Nat) : Bool :=
  match keyUnit key with
  | none => true
  | some (h, _, _) => s.up h

/-- Everything but the remote accesses is as it was, and for a key of memory but when its stack was last used and what it
wakes (R283, R284);
events may have become due. -/
def State.butFor (s t : State) (key : Nat) : Prop :=
  { t with remotes := s.remotes, agenda := s.agenda, hbmAccess := s.hbmAccess, selfRefresh := s.selfRefresh
           powerParked := s.powerParked, hbmWake := s.hbmWake, dieWake := s.dieWake } = s ∧
    ((keyUnit key).isSome = true → t.hbmAccess = s.hbmAccess ∧ t.selfRefresh = s.selfRefresh ∧ t.powerParked = s.powerParked ∧
      t.hbmWake = s.hbmWake ∧ t.dieWake = s.dieWake)

/-- No task's wrap-up budget ends with the stall of this slot (R181). -/
def Slot.goesOn (sl : Slot) : Bool := !(sl.wrapup && sl.quenchLeft == 0 && sl.shadow.isNone)

/-! ### Coherence -/

/-- The home of a line is in no transient state and has no request waiting (R251). -/
def State.homeFree (s : State) (line : Nat) : Bool := (s.home line).trans == .none && (s.home line).waiting.isEmpty

/-- A core's request reaches the home in this cycle (R250, R284): the home's hearth is awake, and no request of a higher core
came before it. -/
def State.reaches (s : State) (line c : Nat) : Bool :=
  awake (rouse s (homeHearth s line)) (homeHearth s line) &&
    !((s.home line).arrived.1 == s.cycle + 1 && decide (c < (s.home line).arrived.2))

/-- A request of the host or a peer is served as it reaches the home: its hearth is awake, and so is the stack of a line that the
LLC does not hold (R284). -/
def State.takesHost (s : State) (line : Nat) : Bool :=
  let u := rouse s (homeHearth s line)
  let u := if (s.home line).dir.inLlc then u else touchKey u (128 * line)
  awake u (homeHearth s line) && ((s.home line).dir.inLlc || stackReady u (128 * line))

/-- No version leaves the set that a line comes into (R168). -/
def State.setQuiet (s : State) (line : Nat) : Bool :=
  (s.setVersions line).all (·.pinned)

/-- No access of a core waits for a line. -/
def State.unasked (s : State) (c line : Nat) : Bool :=
  !(s.remotes.any fun p => p.2.core == c && p.2.tag.isSome && p.2.stage == .sent && p.2.key / 128 == line)

/-- No access waits for a half of host memory. -/
def State.halfUnasked (s : State) (half : Nat) : Bool :=
  !(s.remotes.any fun p => p.2.stage == .sent && p.2.peer.isNone && p.2.key / 64 == hostKey (64 * half) / 64)

/-- No copy of a line is recorded but those of a core (R249). -/
def State.aloneAt (s : State) (line c : Nat) : Bool := ((s.home line).dir.targets (some c)).isEmpty

/-- The home has granted a state of a line to a core and is free again; memory is as it was. -/
def granted (s t : State) (line c : Nat) (g : Moesi) : Prop :=
  tget (t.home line).grants c = some g ∧ (t.home line).trans = .none ∧ (t.home line).waiting = [] ∧ sameMemory s t

end Sys2Proof.Machine
end

