-- ==== Sys2Proof/Certificates/Slice0/Obligations.lean ====
section
/-! DEFINITION. The statements for the provers. -/

open Sys2Proof Sys2Proof.Machine

/-! ### Encoding and the step -/

/-- Words worked out in the manual (R313, R363, R376, R325, R305, R300) decode to the instructions they stand for. -/
def Obligations.DecodeSpecWords : Prop :=
  decodeParcels [0x0040, 0x804C] = (2, .ok (.add (.n 3) ⟨.q 0, false⟩ ⟨.q 1, false⟩)) ∧
  decodeParcels [0x3501, 0x8055] = (2, .ok (.sub (.n 5) ⟨.n 3, false⟩ ⟨.n 4, false⟩)) ∧
  decodeParcels [0x0001, 0x826C] = (2, .ok (.addi (.n 11) ⟨.q 0, false⟩ 1)) ∧
  decodeParcels [0x241F] = (1, .ok (.addi16 0 0x1F)) ∧
  decodeParcels [0x0014, 0x8648] = (2, .ok (.shli (.n 2) ⟨.q 0, false⟩ 20)) ∧
  decodeParcels [0x00C9, 0x8D48] = (2, .ok (.bfx (.n 2) (.q 0) 3 9)) ∧
  decodeParcels [0x6207, 0x8E51] = (2, .ok (.bfi 4 (.n 6) 8 7)) ∧
  decodeParcels [0xCDEF, 0x8B50] = (2, .ok (.li (.n 4) 52719)) ∧
  decodeParcels [0x89AB, 0x8C51] = (2, .ok (.lih 4 1 0x89AB)) ∧
  decodeParcels [0x37F8, 0x8A01] = (2, .ok (.cmpi .eq .queue ⟨.n 3, false⟩ 0xFF)) ∧
  decodeParcels [0x32B3] = (1, .ok (.cmpLt16 0x15 0x13))

/-- Decoding what the encoder writes gives the instruction back, at every value of every operand. -/
def Obligations.DecodeEncode : Prop :=
  ∀ i : Instr, WellFormed i = true → i.isEvent = false → decodeParcels (encode i) = ((encode i).length, .ok i)

/-- A slot that issues runs the instruction that the bytes at its pc decode to, on the state in which they have been
fetched. Without an event whose cycle has come, a step is the turn of the next slot, in round robin, of the core that the
schedule names, or, with no schedule and no event to handle, of the next core of the cycle; a slot whose instruction only waits
is passed over: its core has not issued, and the schedule's turn is still to come (R28).
What it says on a point the manual leaves open is the model's choice: log entry 6. -/
def Obligations.StepRunsDecoded : Prop :=
  ∀ (s : State) (ps : List Nat) (n : Nat) (i : Instr),
    s.issues = true → fetchParcels s = .ok ps → sleepingFetch s = none → (s.slot.entry = true → isFrameParcel ps = true) →
    decodeParcels ps = (n, .ok i) →
    turn s = exec i (fetched s) ∧
    (∀ u c k rest, u.timers = [] →
      ((u.turns = [] ∧ u.agenda = [] ∧ nextCore u = some c ∧ rest = []) ∨
        (u.turns = ⟨0, .issue c⟩ :: rest ∧ u.issued c = false)) →
      nextSlot u c = some k → { u with turns := rest }.takeTurn c k = s →
      ∀ v, exec i (fetched s) = .next v →
        ((u.slotAt c k).stall ≠ .held → (v.slotAt c k).waiting = false → step u = .next v) ∧
        ((u.slotAt c k).stall = .held ∨ (v.slotAt c k).waiting = true →
          ∃ w, step u = .next w ∧ w.turns = u.turns ∧ (w.core c).lastSlot = (u.core c).lastSlot ∧
            (w.core c).issuedAt = (u.core c).issuedAt ∧ w.slotAt c k = v.slotAt c k ∧ w.mem = v.mem))

/-- An event whose cycle has come happens before anything else; then the event of a schedule's turn, or with no schedule
the first of the events to be handled, happens in the step. A schedule's turn that lets cycles pass, and a part in which
nothing is to be done in this cycle, let one cycle pass, once the events that close the cycle have happened.
What it says on a point the manual leaves open is the model's choice: log entries 6, 7. -/
def Obligations.StepTakesEvent : Prop :=
  ∀ (s : State),
    (∀ rest e, e.kind.isEvent = true → s.timers = e :: rest →
      step s = exec e.kind { s with timers := rest, ev := e.args } :) ∧
    (s.timers = [] →
      (∀ rest e, e.kind.isEvent = true → s.turns = ⟨0, .event e⟩ :: rest →
        step s = exec e.kind { s with turns := rest, ev := e.args }) ∧
      (∀ n a c rest e cl, (s.turns = ⟨n + 1, a⟩ :: rest ∨ (s.turns = ⟨0, .issue c⟩ :: rest ∧ s.issued c = true) ∨
          (s.turns = [] ∧ s.agenda = [] ∧ nextCore s = none)) →
        e.kind.isEvent = true → s.closing = e :: cl → step s = exec e.kind { s with closing := cl, ev := e.args }) ∧
      (s.closing = [] →
        (∀ n a rest, s.turns = ⟨n + 1, a⟩ :: rest → step s = .next (elapse { s with turns := ⟨n, a⟩ :: rest })) ∧
        (∀ c rest, s.turns = ⟨0, .issue c⟩ :: rest → s.issued c = true → step s = .next (elapse s))) ∧
      (s.turns = [] →
        (∀ rest e, e.kind.isEvent = true → s.agenda = e :: rest →
          step s = exec e.kind { s with agenda := rest, ev := e.args }) ∧
        (s.agenda = [] → nextCore s = none → s.closing = [] → step s = .next (elapse s))) :)

/-- A slot that issues takes the trap of the fetch (R210); ILLEGAL for bits that decode to nothing, with the layout of
R301 in TRAP.INFO; or FRAME at an entry whose first parcel is not a `frame` (R40, R345), behind the PRIV of an instruction that
user code may not execute; nothing is executed. Nor is it where the bytes lie in host memory that the bridge has yet to ask for
(R255), or in a stack of HBM that has to wake first (R284): the slot waits.
What it says on a point the manual leaves open is the model's choice: log entries 19, 70. -/
def Obligations.StepTakesFetchTrap : Prop :=
  ∀ s : State, s.issues = true →
    (∀ t, fetchParcels s = .error (.trap t) → turn s = .next (takeTrap (crossFetch s) t) :) ∧
    (∀ half, fetchParcels s = .error (.lacks half) → turn s = .next (fetchWaits (askHost s half .rdShared)) :) ∧
    (∀ ps k, fetchParcels s = .ok ps → sleepingFetch s = some k → turn s = .next (fetchWaits (touchKey s k)) :) ∧
    (∀ ps n r, fetchParcels s = .ok ps → sleepingFetch s = none → decodeParcels ps = (n, .error r) →
      turn s = .next (takeTrap (fetched s) { cause := .illegal, info := rejectInfo s ps r }) :) ∧
    (∀ ps n i, fetchParcels s = .ok ps → sleepingFetch s = none → s.slot.entry = true → isFrameParcel ps = false →
      decodeParcels ps = (n, .ok i) →
      (i = .tret ∨ i = .tlbiAll ∨ (∃ r, i = .tlbiAsid r) ∨ (∃ r x, i = .tlbiPage r x) →
        turn s = .next (takeTrap (fetched s) { cause := if s.slot.priv = .user then .priv else .frame })) ∧
      (∀ d r, i = .sysr d r →
        turn s = .next (takeTrap (fetched s) ((sysrDenied s.slot.priv r.toNat).getD { cause := .frame }))) ∧
      (∀ r x, i = .sysw r x →
        turn s = .next (takeTrap (fetched s) ((syswDenied s.slot.priv r.toNat).getD { cause := .frame }))) ∧
      (i ≠ .tret → i ≠ .tlbiAll → (∀ r, i ≠ .tlbiAsid r) → (∀ r x, i ≠ .tlbiPage r x) → (∀ d r, i ≠ .sysr d r) →
        (∀ r x, i ≠ .sysw r x) → turn s = .next (takeTrap (fetched s) { cause := .frame })) :)

/-! ### Scalar instructions -/

/-- A register instruction on integers completes whenever its operands can be read: its result, as the manual gives it for
that instruction, is written to its destination and pushed, and the task goes on at the next instruction. -/
def Obligations.RegisterResult : Prop :=
  ∀ (i : Instr) (f : RegOp) (s : State) (vs : List Word),
    regOp i = some f → WellFormed i = true → operandsGive s f.dst f.srcs vs = true →
    exec i s = .next (advance (pushTo (consumed s f.srcs) f.dst (f.val vs)) f.len)

/-- What a register instruction on integers leaves as it was: every byte of memory, every other slot, core, hearth and
launch, every flag and special register of its own slot, every named register but its destination, and the composer and
the queue unless the destination writes them.
What a scalar floating-point instruction leaves when it completes: memory, all but its slot, and in its slot all but
the pc, its destination, the queue, the streams read, the composer and `FP.STAT`; the mode and control registers stay. -/
def Obligations.ScalarFrame : Prop :=
  (∀ (i : Instr) (f : RegOp) (s t : State) (vs : List Word),
    regOp i = some f → WellFormed i = true → operandsGive s f.dst f.srcs vs = true → exec i s = .next t →
    sameMemory s t ∧ onlySlot s t ∧ sameButRegs s.slot t.slot ∧
    (∀ r, (∀ j, f.dst = .n j → r ≠ j.val) → t.slot.named r = s.slot.named r) ∧
    (f.dst ≠ .s7 → t.slot.composer = s.slot.composer) ∧ (f.dst = .z → t.slot.queue = s.slot.queue) ∧
    t.slot.pc = s.slot.pc + word f.len :) ∧
  (∀ (i : Instr) (f : FpOp) (s t : State) (vs : List Word),
    fpOp i = some f → operandsGive s f.dst f.srcs vs = true → s.slot.traps (f.val s.slot vs).2 = false →
    exec i s = .next t →
    sameMemory s t ∧ onlySlot s t ∧
    sameButRegs s.slot { t.slot with fpStat := s.slot.fpStat } ∧ t.slot.fpStat = s.slot.fpStat ||| word (f.val s.slot vs).2 ∧
    (∀ r, (∀ j, f.dst = .n j → r ≠ j.val) → t.slot.named r = s.slot.named r :) ∧
    (f.dst ≠ .s7 → t.slot.composer = s.slot.composer :) ∧
    (f.dst = .z → t.slot.queue = s.slot.queue :) :)

/-- Writing a full value to a destination (R58, R61): `z` takes nothing and pushes nothing; every other destination pushes
the value as q0, the older entries moving up and q15 being lost, and a named register or the composer takes it as well. -/
def Obligations.WriteDestination : Prop :=
  ∀ (s : State) (v : Word),
    (pushTo s .z v).slot = s.slot ∧
    (∀ d, d ≠ .z → (pushTo s d v).slot.queue = ⟨v, .full⟩ :: s.slot.queue.take 15) ∧
    (∀ j : Fin 32, (pushTo s (.n j) v).slot.named j.val = ⟨v, .full⟩ ∧
      ∀ r, r ≠ j.val → (pushTo s (.n j) v).slot.named r = s.slot.named r) ∧
    ((pushTo s .queue v).slot.win = s.slot.win) ∧
    (pushTo s .s7 v).slot.composer = s.slot.composer ++ [⟨v, .full⟩] ∧
    (∀ d, d ≠ .s7 → (pushTo s d v).slot.composer = s.slot.composer) ∧
    (∀ d, onlySlot s (pushTo s d v) ∧ (pushTo s d v).slot.pc = s.slot.pc)

/-- `frame` declares its size as the first parcel of an entry and does nothing in line (R345). -/
def Obligations.FrameResult : Prop :=
  ∀ (s : State) (k : BitVec 5),
    (s.slot.entry = false → exec (.frame k) s = .next (advance s 2) :) ∧
    (s.slot.entry = true → 8 ≤ k.toNat + 1 → exec (.frame k) s =
      .next (advance (s.modSlot fun sl => { sl with win := { sl.win with k := k.toNat + 1 } }) 2) :) ∧
    (s.slot.entry = true → k.toNat + 1 < 8 → exec (.frame k) s =
      .next (takeTrap s { cause := .frame, info := word (k.toNat + 1) }) :)

/-- `nop` and its 16-bit form change nothing but the pc (R369). -/
def Obligations.NopOnlyAdvances : Prop :=
  ∀ s : State, exec .nop s = .next (advance s 4) ∧ exec .nop16 s = .next (advance s 2)

/-- An operand that cannot be read (R63, R115): a source that is empty and awaits nothing, or is empty and read in trap
mode, traps EMPTY_READ with its code; one that awaits a producer and blocks makes the instruction wait, to be tried again with
nothing else changed; a full-faulted one traps ACCESS or POISON, deferred, with the address and pc of the load that faulted it.
Said of `mov`, whose one source is the operand, for every register of the queue and of the frame. -/
def Obligations.OperandTraps : Prop :=
  ∀ (s : State) (a : SrcM) (d : Dst),
    ((∃ i, a.src = .q i) ∨ ∃ i, a.src = .n i) → srcGap s.slot a = none → dstGap s.slot d = none →
    (∀ p, (s.slot.read a.src).1 = .empty p → (p = false ∨ a.trap = true) →
      exec (.mov d a) s = .next (takeTrap s { cause := .emptyRead, info := word (srcCode a.src) })) ∧
    ((s.slot.read a.src).1 = .empty true → a.trap = false →
      exec (.mov d a) s = .next (s.modSlot Slot.waits)) ∧
    (∀ poison addr pc, (s.slot.read a.src).1 = .faulted poison addr pc →
      exec (.mov d a) s = .next (takeTrap s
        { cause := if poison then .poison else .access, addr := addr, info := pc, deferred := true }))

/-- A division by a divisor other than 0 issues as a long-latency producer (R334, R62): its entry and destination are empty
and await the quotient or remainder, which is owed to the task; by 0 it traps DIVZERO at issue with nothing pushed. -/
def Obligations.Division : Prop :=
  ∀ (s : State) (d : Dst) (a b : SrcM) (x y : Word) (i : Instr) (v : Word),
    operandsGive s d [a, b] [x, y] = true →
    ((i = .div d a b ∧ v = BitVec.ofInt 64 (x.toInt.tdiv y.toInt)) ∨
      (i = .rem d a b ∧ v = BitVec.ofInt 64 (x.toInt.tmod y.toInt)) ∨
      (i = .divu d a b ∧ v = word (x.toNat / y.toNat)) ∨ (i = .remu d a b ∧ v = word (x.toNat % y.toNat))) →
    (y ≠ 0 → ∃ t, exec i s = .next t ∧ t.slot.pc = s.slot.pc + 4 ∧ sameMemory s t ∧
      (d ≠ .z → t.slot.owed = s.slot.owed ++ [{ id := s.nextId, kind := .value v }] ∧
        t.slot.queue = ⟨0, .empty (some s.nextId)⟩ :: s.slot.queue.take 15 ∧
        ∀ j, d = .n j → t.slot.named j.val = ⟨0, .empty (some s.nextId)⟩) ∧
      (d = .z → t.slot.owed = s.slot.owed ∧ t.slot.queue = s.slot.queue) ∧
      (∀ r, (∀ j, d = .n j → r ≠ j.val) → t.slot.named r = s.slot.named r)) ∧
    (y = 0 → exec i s = .next (takeTrap s { cause := .divzero }))

/-- A scalar floating-point or Gaussian instruction none of whose raised flags has its trap enabled completes: the result is
written and pushed, and the flags are ORed into `FP.STAT` (R90, R336).
A scalar floating-point instruction that raises a flag whose trap is enabled traps FP precisely (R90): the flags are in
`FP.STAT` and in TRAP.INFO, and nothing was written or pushed. -/
def Obligations.FloatResult : Prop :=
  (∀ (i : Instr) (f : FpOp) (s : State) (vs : List Word),
    fpOp i = some f → operandsGive s f.dst f.srcs vs = true → s.slot.traps (f.val s.slot vs).2 = false →
    exec i s = .next (advance ((pushTo (consumed s f.srcs) f.dst (word (f.val s.slot vs).1)).modSlot
      fun sl => { sl with fpStat := sl.fpStat ||| word (f.val s.slot vs).2 }) f.len) :) ∧
  (∀ (i : Instr) (f : FpOp) (s : State) (vs : List Word),
    fpOp i = some f → operandsGive s f.dst f.srcs vs = true → s.slot.traps (f.val s.slot vs).2 = true →
    s.slot.trapsAtOnce = true →
    exec i s = .next (takeTrap (s.modSlot fun sl => { sl with fpStat := sl.fpStat ||| word (f.val s.slot vs).2 })
      { cause := .fp, info := word (f.val s.slot vs).2 }) :)

/-! ### Control flow -/

/-- Branches go to the pc plus twice their signed displacement, `bz` and `bnz` by a test of all 64 bits and to the next
instruction otherwise (R305, R320, R327); `jr` goes to its operand, and traps MISALIGN where that is odd (R328). Nothing
but the pc and the streams read changes. -/
def Obligations.Branches : Prop :=
  ∀ s : State,
    (∀ imm, exec (.b imm) s = .next (jumpTo s (s.slot.pc + BitVec.ofInt 64 (2 * imm.toInt))) :) ∧
    (∀ imm, exec (.b16 imm) s = .next (jumpTo s (s.slot.pc + BitVec.ofInt 64 (2 * imm.toInt))) :) ∧
    (∀ a v imm, operandsGive s .z [a] [v] = true →
      exec (.bz a imm) s = .next (jumpTo (consumed s [a])
        (if v = 0 then s.slot.pc + BitVec.ofInt 64 (2 * imm.toInt) else s.slot.pc + 4)) ∧
      exec (.bnz a imm) s = .next (jumpTo (consumed s [a])
        (if v = 0 then s.slot.pc + 4 else s.slot.pc + BitVec.ofInt 64 (2 * imm.toInt))) :) ∧
    (∀ x imm v, operandsGive s .z [srcM5 x] [v] = true →
      exec (.bz16 x imm) s = .next (jumpTo (consumed s [srcM5 x])
        (if v = 0 then s.slot.pc + BitVec.ofInt 64 (2 * imm.toInt) else s.slot.pc + 2)) ∧
      exec (.bnz16 x imm) s = .next (jumpTo (consumed s [srcM5 x])
        (if v = 0 then s.slot.pc + 2 else s.slot.pc + BitVec.ofInt 64 (2 * imm.toInt))) :) ∧
    (∀ a v, operandsGive s .z [a] [v] = true →
      (v.toNat % 2 = 0 → exec (.jr a) s = .next (jumpTo (consumed s [a]) v)) ∧
      (v.toNat % 2 = 1 → exec (.jr a) s = .next (takeTrap s { cause := .misalign, addr := v, info := 0x200 })) :)

/-- A call of an even target whose first parcel is `frame k2`, within the link depth and with room for the frame (R328,
R65-R67): the caller's n24-n31 are the callee's n0-n7, its other registers are empty, the caller's frame lies below it with
the link record pushed, and the task goes on past the `frame`. The queue stays; a spilled frame's record is all that is
written to memory.
The traps of a call, each leaving it without effect (R328): MISALIGN for an odd target, the fetch fault of the target,
FRAME where no `frame` stands there or it declares fewer than 8 registers, ILLEGAL for its non-zero bits 9:5, and
STACK_OVF at the link depth of 64 or where a spill finds no record. A target in a half of host memory that has to come first
makes the call wait for it (R255).
What it says on a point the manual leaves open is the model's choice: log entries 19, 28. -/
def Obligations.CallResult : Prop :=
  (∀ (s : State) (i : Instr) (xs : List SrcM) (t : Word) (k2 : Nat),
    Memory.wf s.mem = true →
    ((∃ imm, i = .call imm ∧ xs = [] ∧ t = s.slot.pc + BitVec.ofInt 64 (2 * imm.toInt)) ∨
      (∃ a, i = .callr a ∧ xs = [a] ∧ operandsGive s .z [a] [t] = true)) →
    t.toNat % 2 = 0 → missingHalf s t = none → parcelAt (consumed s xs) t = .ok (0x6000 + (k2 - 1)) → 8 ≤ k2 → k2 ≤ 32 →
      s.slot.depth < 64 →
    s.slot.roomy = true →
    ∃ u, exec i s = .next u ∧ u.slot.pc = t + 2 ∧ u.slot.queue = s.slot.queue ∧
      u.slot.win = { act := s.slot.win.act.drop 24 ++ List.replicate 24 Reg.fresh
                     below := some { regs := s.slot.win.act.take 24, ret := s.slot.win.ret }
                     ret := some (s.slot.pc + 4), k := k2, links := s.slot.win.k :: s.slot.win.links } ∧
      spilled s u :) ∧
  (∀ (s : State) (imm : BitVec 24) (t : Word), t = s.slot.pc + BitVec.ofInt 64 (2 * imm.toInt) →
    (t.toNat % 2 = 1 → exec (.call imm) s = .next (takeTrap s { cause := .misalign, addr := t, info := 0x200 }) :) ∧
    (t.toNat % 2 = 0 →
      (∀ f, parcelAt s t = .error f → f.cause ≠ .posted → exec (.call imm) s = .next (takeTrap s f)) ∧
      (∀ half, missingHalf s t = some half →
        exec (.call imm) s = .next ((askHost s half .rdShared).modSlot Slot.waits)) ∧
      (∀ p, missingHalf s t = none → parcelAt s t = .ok p →
        (p / 2 ^ 10 ≠ 0x18 → exec (.call imm) s = .next (takeTrap s { cause := .frame })) ∧
        (p / 2 ^ 10 = 0x18 → p / 32 % 32 ≠ 0 → exec (.call imm) s = .next (takeTrap s { cause := .illegal })) ∧
        (p / 2 ^ 10 = 0x18 → p / 32 % 32 = 0 → p % 32 + 1 < 8 →
          exec (.call imm) s = .next (takeTrap s { cause := .frame, info := word (p % 32 + 1) })) ∧
        (p / 2 ^ 10 = 0x18 → p / 32 % 32 = 0 → 8 ≤ p % 32 + 1 → (64 ≤ s.slot.depth ∨ s.slot.spillFull = true) →
          exec (.call imm) s = .next (takeTrap s { cause := .stackOvf, info := s.slot.winSpill }))) :) :)

/-- A return (R329, R66, R67): the link record is popped, the callee's n0-n7 become n24-n31, and n0-n23 come from the frame
below or from the newest spill record; FRAME at link depth 0. Memory and the queue stay.
What it says on a point the manual leaves open is the model's choice: log entry 17. -/
def Obligations.ReturnResult : Prop :=
  ∀ (s : State) (i : Instr), i = .ret ∨ i = .ret16 →
    (∀ k links r, s.slot.win.links = k :: links → s.slot.win.ret = some r → r.toNat % 2 = 0 →
      ∃ u, exec i s = .next u ∧ u.slot.pc = r ∧ u.slot.queue = s.slot.queue ∧ sameMemory s u ∧ onlySlot s u ∧
        u.slot.win.k = k ∧ u.slot.win.links = links ∧ u.slot.win.below = none ∧
        (∀ f, s.slot.win.below = some f → u.slot.win.act = f.regs.take 24 ++ s.slot.win.act.take 8 ∧
          u.slot.win.ret = f.ret ∧ u.slot.spillUsed = s.slot.spillUsed) ∧
        (s.slot.win.below = none → ∀ f, f = recordFrame s (s.slot.recordKey s.cur.1 (s.slot.spillUsed - 1)) →
          u.slot.win.act = f.regs.take 24 ++ s.slot.win.act.take 8 ∧ u.slot.win.ret = f.ret ∧
          u.slot.spillUsed = s.slot.spillUsed - 1) :) ∧
    (s.slot.win.links = [] → exec i s = .next (takeTrap s { cause := .frame }) :)

/-- The end of a task (R381, R30, R182): the slot is free, the task's flags, those of its lane operations included, are ORed
into the launch's, its posted stores stay in the journal, and memory and every other slot are as they were. `qend` does the
same in a wrap-up task and traps ILLEGAL in any other.
`qend` outside a wrap-up task traps ILLEGAL precisely (R182), in a task that is no orphan.
A task whose hypothesis is refuted is aborted at its end, by `qend` too wherever it stands (R182), or at a memory access, and
counted as an orphan (R169).
What it says on a point the manual leaves open is the model's choice: log entries 23, 24. -/
def Obligations.TaskEnd : Prop :=
  (∀ (s : State) (i : Instr), s.orphan = false → i = .tend ∨ i = .tend16 ∨ (i = .qend ∧ s.slot.wrapup = true) →
    (∃ u, exec i s = .next u ∧ u.slot = s.slot.freed ∧ u.slot.held = false ∧ sameMemory s u ∧
      (∀ c k, (c, k) ≠ s.cur → u.slotAt c k = s.slotAt c k) ∧
      (∀ x, s.launch? s.slot.launch = some x → ∃ y, u.launch? s.slot.launch = some y ∧
        y.status = x.status ∧ y.flags ||| (s.slot.fpStat.toNat % 32) = y.flags ∧ y.flags ||| x.flags = y.flags ∧
        ∀ o ∈ s.myCore.lanes, o.slot = s.cur.2 → y.flags ||| o.flags = y.flags) ∧
      ∀ n, ((u.myCore.journal.getD n {}).used, (u.myCore.journal.getD n {}).addr, (u.myCore.journal.getD n {}).data) =
        ((s.myCore.journal.getD n {}).used, (s.myCore.journal.getD n {}).addr, (s.myCore.journal.getD n {}).data)) :) ∧
  (∀ s : State, s.slot.wrapup = false → s.orphan = false → exec .qend s = .next (takeTrap s { cause := .illegal }) :) ∧
  (∀ (s : State) (i : Instr), s.orphan = true → s.slot.owed.any (·.lda) = false →
    (i = .tend ∨ i = .tend16 ∨ i = .qend ∨ (∃ k d a imm, i = .ld k d a imm) ∨
      (∃ k d a sc off, i = .lda k d a sc off) ∨ (∃ z v a imm, i = .st z v a imm) ∨ ∃ z v a sc off, i = .str z v a sc off) →
    ∃ u, exec i s = .next u ∧ u.slot = s.slot.freed ∧ sameMemory s u ∧
      ∀ x, s.launch? s.slot.launch = some x → ∃ y, u.launch? s.slot.launch = some y ∧ y.orphans = x.orphans + 1 :)

/-! ### Traps -/

/-- Taking a trap in a task that is in no handler, where its frame finds room (R212): bank 1 takes the cause, the pc, the
address and the info, the queue, n24-n31, the privilege, `FP.CTRL` and `HYP.CUR` are saved, and the handler runs at
`TRAP.VEC` in kernel mode with a queue of zeros, a fresh frame, `FP.CTRL` 0 and `HYP.CUR` 0. The vector grant, `FP.STAT`,
`FMT.MODE` and the watchdog stay. What the task stood at is kept for the return: the pc, an entry parcel not executed (R345)
and the wait of a `bwait` (R322).
`trap` and `brk` take SOFTWARE and BRK with their code in `TRAP.INFO`; the pc saved is that of the next instruction
(R383, R326).
What it says on a point the manual leaves open is the model's choice: log entries 20, 74. -/
def Obligations.TrapEntry : Prop :=
  (∀ (s : State) (tr : Trap), Memory.wf s.mem = true → s.slot.forcedOut = false → s.slot.shadow = none →
    s.slot.roomy = true →
    ∀ u, u = takeTrap s tr → spilled s u ∧
      u.slot.bank1 = { cause := word (tr.cause.code + (if tr.async then 0x100 else 0) + (if tr.deferred then 0x800 else 0))
                       epc := s.slot.pc, addr := tr.addr, info := tr.info } ∧
      u.slot.pc = s.slot.trapVec ∧ u.slot.entry = true ∧ u.slot.priv = .kernel ∧ u.slot.fpCtrl = 0 ∧ u.slot.hypCur = 0 ∧
      u.slot.queue = List.replicate 16 (Reg.of 0) ∧ u.slot.win.act = List.replicate 32 Reg.fresh ∧
      u.slot.win.links = [] ∧ u.slot.win.ret = none ∧
      u.slot.win.below = some { regs := s.slot.win.act.take 24, ret := s.slot.win.ret } ∧
      (∃ sh, u.slot.shadow = some sh ∧ sh.queue = s.slot.queue ∧ sh.args = s.slot.win.act.drop 24 ∧
        sh.priv = s.slot.priv ∧ sh.fpCtrl = s.slot.fpCtrl ∧ sh.hypCur = s.slot.hypCur ∧ sh.causeRead = false ∧
        sh.pc = s.slot.pc ∧ sh.entry = s.slot.entry ∧ sh.inBwait = s.slot.inBwait) ∧
      u.slot.bank2 = s.slot.bank2 ∧ u.slot.vregs = s.slot.vregs ∧ u.slot.vl = s.slot.vl ∧
      u.slot.fpStat = s.slot.fpStat ∧ u.slot.fmtMode = s.slot.fmtMode ∧ u.slot.wdog = s.slot.wdog ∧
      ∀ c k, (c, k) ≠ s.cur → u.slotAt c k = s.slotAt c k :) ∧
  (∀ (s : State) (code : BitVec 24), s.slot.forcedOut = false → s.slot.shadow = none → s.slot.roomy = true →
    (∃ u, exec (.trap code) s = .next u ∧ u.slot.pc = s.slot.trapVec ∧ u.slot.priv = .kernel ∧
      u.slot.bank1 = { cause := 0x14, epc := s.slot.pc + 4, addr := 0, info := word code.toNat } ∧
      u.slot.shadow.isSome = true :) ∧
    (∃ u, exec (.brk code) s = .next u ∧ u.slot.pc = s.slot.trapVec ∧ u.slot.priv = .kernel ∧
      u.slot.bank1 = { cause := 0x15, epc := s.slot.pc + 4, addr := 0, info := word code.toNat } ∧
      u.slot.shadow.isSome = true :) :)

/-- A trap in a handler: before `TRAP.CAUSE` was read, or where the entry finds no record for its spill, it is a double trap,
which stops the slot with bank 2 written and fails the launch with status 4 (R213); after it, a nested one, which aborts the
task and logs bank 2 with nested = 1 (R212).
What it says on a point the manual leaves open is the model's choice: log entry 20. -/
def Obligations.TrapInHandler : Prop :=
  ∀ (s : State) (tr : Trap), s.slot.forcedOut = false →
    ((∃ sh, s.slot.shadow = some sh ∧ sh.causeRead = false) →
      ∀ u, u = takeTrap s tr → u.slot.stopped = true ∧ u.slot.bank1 = s.slot.bank1 ∧
        u.slot.bank2 = { cause := word (tr.cause.code + (if tr.async then 0x100 else 0) + (if tr.deferred then 0x800 else 0))
                         epc := s.slot.pc, addr := tr.addr, info := tr.info } ∧
        sameMemory s u ∧
        ∀ x, s.launch? s.slot.launch = some x → ∃ y, u.launch? s.slot.launch = some y ∧
          y.status = (if x.status = 0 then 4 else x.status) :) ∧
    ((∃ sh, s.slot.shadow = some sh ∧ sh.causeRead = true) →
      ∀ u, u = takeTrap s tr → u.slot.held = false ∧ sameMemory s u ∧
        u.ras.length = s.ras.length + 1 ∧ (u.ras.getLast?.map (·.kind)) = some 8 :) ∧
    (s.slot.shadow = none → s.slot.spillFull = true →
      ∀ u, u = takeTrap s tr → u.slot.stopped = true ∧ u.slot.bank2.cause = 0x11 ∧ u.slot.bank2.info = s.slot.winSpill ∧
        u.slot.bank1.cause = causeWord tr false false :)

/-- `tret` (R384): in user mode PRIV; in a kernel trap context for an ended task, where `TRAP.CAUSE` [9] is set or the
watchdog has run out, or the message of the `migrate` it stood at has been accepted (R49), the end of the task; MISALIGN for an odd `TRAP.EPC`; otherwise the queue, n24-n31, `FP.CTRL`, `HYP.CUR`
and the call depth saved come back, the task is in user mode and goes on at `TRAP.EPC`, with memory as it was; back at
the pc of the trap an entry parcel is still the first (R345) and a `bwait` goes on (R322).
What it says on a point the manual leaves open is the model's choice: log entry 17. -/
def Obligations.TrapReturn : Prop :=
  ∀ s : State,
    (s.slot.priv = .user → exec .tret s = .next (takeTrap s { cause := .priv }) :) ∧
    (∀ sh, s.slot.priv ≠ .user → s.slot.shadow = some sh →
      (s.slot.start = .trapContext ∨ s.slot.bank1.cause.getLsbD 9 = true ∨ s.slot.wdog = 0 ∨
          s.slot.migrateEnd = some none → ∃ u, exec .tret s = .next u ∧ u.slot = s.slot.freed) ∧
      (s.slot.start ≠ .trapContext → s.slot.bank1.cause.getLsbD 9 = false → s.slot.wdog ≠ 0 →
        s.slot.migrateEnd ≠ some none → (s.quenched s.slot.launch = true → s.slot.wrapup = true) →
        (s.slot.bank1.epc.toNat % 2 = 1 → exec .tret s =
          .next (takeTrap s { cause := .misalign, addr := s.slot.bank1.epc, info := 0x200 })) ∧
        (s.slot.bank1.epc.toNat % 2 = 0 → ∃ u, exec .tret s = .next u ∧ u.slot.pc = s.slot.bank1.epc ∧
          u.slot.queue = sh.queue ∧ u.slot.priv = .user ∧ u.slot.fpCtrl = sh.fpCtrl ∧ u.slot.hypCur = sh.hypCur ∧
          u.slot.shadow = none ∧ u.slot.win.k = sh.k ∧ u.slot.win.links = sh.links ∧ u.slot.win.ret = sh.ret ∧
          sameMemory s u ∧ onlySlot s u ∧ u.slot.entry = (sh.entry && s.slot.bank1.epc == sh.pc) ∧
          (∀ b, sh.inBwait = some b → u.slot.inBwait = if s.slot.bank1.epc = sh.pc then some b else none) ∧
          (∀ f, s.slot.win.below = some f → s.slot.spillUsed = sh.mark →
            u.slot.win.act = f.regs.take 24 ++ sh.args))) :)

/-! ### Memory -/

/-- A load of a place at hand (R359, R361, R62, R114): memory is as it was, and the value owed to the destination is the
bytes at the place, little-endian, sign- or zero-extended; committed data, but the task's view of the version chain for a
cached page under a hypothesis (R167). A load through a window of such a unit owes the element it decodes to (R102).
What it says on a point the manual leaves open is the model's choice: log entries 9, 11, 72. -/
def Obligations.LoadResult : Prop :=
  ∀ (i : Instr) (f : LoadOp) (s : State) (b : Word) (p : Place),
    loadOp i = some f → s.memReady = true → operandsGive s f.dst [f.base] [b] = true →
    locate (consumed s [f.base]) .load f.bytes (f.va b) 0 = .ok p → s.near f.bytes p = true →
    ∀ rg, rg = loadRange s f.bytes (f.va b) p → journalOverlap s.myCore rg.1 rg.2 = false →
    ((f.va b).toNat % f.bytes = 0 → p.windowed = false → s.badAt p f.bytes = false →
      ∃ t, exec i s = .next t ∧ t.slot.pc = s.slot.pc + word f.len ∧ sameMemory s t ∧ otherSlots s t ∧
        owesTo s t f.dst (.value (extended (8 * f.bytes) f.signed (word
          (if p.cached = true ∧ s.slot.hypCur ≠ 0 then natUnder s s.slot.hypCur p.key f.bytes
            else memNat s.mem p.key f.bytes)))) f.lda ∧
        sameButRegs s.slot { t.slot with owed := s.slot.owed } :) ∧
    (∀ h u w o, p = .window none h u w o →
      windowFault s s.cur.1 none h u w o f.bytes (f.va b) 0 = none → ∀ fw, fw = s.myCore.fmtWindow w →
      poisoned s.poison (sramKey h u 0 + elemRecord fw (o / 4))
        (recordBytes (winFormat fw) (winGroup fw) (winBx fw)) = false →
      ∃ t, exec i s = .next t ∧ t.slot.pc = s.slot.pc + word f.len ∧ sameMemory s t ∧ otherSlots s t ∧
        owesTo s t f.dst (.value (extended 32 f.signed
          (word (windowElem s.mem (sramKey h u 0) fw (o / 4) (s.slot.fmtMode.getLsbD 0))))) f.lda ∧
        sameButRegs s.slot { t.slot with owed := s.slot.owed } :)

/-- A load of a place that is not at hand is sent to its holder, or waits for its line, and its value is owed until the
answer (R114, R115, R250); an access to a peer may leave only behind the answer to an earlier one (R131).
What stops a load (R359, R210, R102, R112, R129, R119): MISALIGN, then the fault of its location or window, then POISON
of own SRAM, each precise; poisoned memory leaves the destination owed a full-faulted value. Behind a posted store of the core
that is on its way to the same bytes the load has issued, its destination is empty, and the task issues nothing further.
What it says on a point the manual leaves open is the model's choice: log entries 9, 11. -/
def Obligations.LoadElse : Prop :=
  (∀ (i : Instr) (f : LoadOp) (s : State) (b : Word) (p : Place),
    loadOp i = some f → s.memReady = true → operandsGive s f.dst [f.base] [b] = true →
    locate (consumed s [f.base]) .load f.bytes (f.va b) 0 = .ok p →
    (if p.windowed then (f.va b).toNat % 4 else (f.va b).toNat % f.bytes) = 0 → s.near f.bytes p = false →
    (∀ q h u w o, p = .window q h u w o → windowFault s s.cur.1 q h u w o f.bytes (f.va b) 0 = none) →
    ∀ rg, rg = loadRange s f.bytes (f.va b) p → journalOverlap s.myCore rg.1 rg.2 = false →
    ∃ t, exec i s = .next t ∧ t.slot.pc = s.slot.pc + word f.len ∧ sameMemory s t ∧ otherSlots s t ∧
      owesTo s t f.dst .remote f.lda ∧ sameButRegs s.slot { t.slot with owed := s.slot.owed } ∧
      ∃ id r, tget t.remotes id = some r ∧ r.kind = .load ∧ r.core = s.cur.1 ∧ r.slot = s.cur.2 ∧ r.size = f.bytes ∧
        r.signed = f.signed ∧ r.peer = p.peer ∧ r.producer = s.nextId ∧ r.window = s.windowOf p ∧
        r.tag = (if p.cached = true ∧ p.peer = none then some s.slot.hypCur else none) ∧
        (r.stage = .sent ∨ r.stage = .behind ∧ p.peer ≠ none) :) ∧
  (∀ (i : Instr) (f : LoadOp) (s : State) (b : Word),
    loadOp i = some f → s.memReady = true → operandsGive s f.dst [f.base] [b] = true →
    ((f.va b).toNat % f.bytes ≠ 0 → windowVa (f.va b) = false →
      exec i s = .next (takeTrap s { cause := .misalign, addr := f.va b, info := 0 }) :) ∧
    (∀ t, (if windowVa (f.va b) then (f.va b).toNat % 4 else (f.va b).toNat % f.bytes) = 0 →
      locate (consumed s [f.base]) .load f.bytes (f.va b) 0 = .error t → exec i s = .next (takeTrap s t) :) ∧
    (windowVa (f.va b) = true → (f.va b).toNat % 4 ≠ 0 →
      exec i s = .next (takeTrap s { cause := .misalign, addr := f.va b, info := 0 }) :) ∧
    (∀ q h u w o t, (f.va b).toNat % 4 = 0 →
      locate (consumed s [f.base]) .load f.bytes (f.va b) 0 = .ok (.window q h u w o) →
      windowFault s s.cur.1 q h u w o f.bytes (f.va b) 0 = some t → exec i s = .next (takeTrap s t) :) ∧
    (∀ p rg, (f.va b).toNat % f.bytes = 0 → locate (consumed s [f.base]) .load f.bytes (f.va b) 0 = .ok p →
      p.windowed = false → rg = loadRange s f.bytes (f.va b) p →
      (journalOverlap s.myCore rg.1 rg.2 = true →
        ∃ t, exec i s = .next t ∧ t.slot.stall = .overlap s.nextId f.kind (f.va b) p (s.slot.pc + word f.len) ∧
          t.slot.pc = s.slot.pc ∧ sameMemory s t ∧
          t.slot.owed = s.slot.owed ++ [{ id := s.nextId, kind := .remote, lda := f.lda, holds := true }]) ∧
      (journalOverlap s.myCore rg.1 rg.2 = false → s.near f.bytes p = true → s.badAt p f.bytes = true →
        (sramVa (f.va b) = true → exec i s = .next (takeTrap s { cause := .poison, addr := f.va b, info := 0 })) ∧
        (sramVa (f.va b) = false → ∃ t, exec i s = .next t ∧ sameMemory s t ∧
          owesTo s t f.dst (.refused true (f.va b) s.slot.pc) f.lda)) :) :)

/-- A store to own SRAM or to a cached line that may be written (R378, R379, R116, R250): the bytes at the place read back
as the low bytes of the data, every other byte is as it was, and nothing else of the task changes. Under a hypothesis the bytes
go to the version of the task's tag, which reads them back, and committed memory stays (R167). A `str` waits for its release
first.
What it says on a point the manual leaves open is the model's choice: log entry 9. -/
def Obligations.StoreResult : Prop :=
  ∀ (i : Instr) (f : StoreOp) (s : State) (b v : Word) (p : Place),
    storeOp i = some f → Memory.wf s.mem = true → s.memReady = true → (f.release = true → s.released = true) →
    operandsGive s .z f.srcs [b, v] = true → (f.va b).toNat % f.bytes = 0 →
    locate (consumed s f.srcs) .store f.bytes (f.va b) 0 = .ok p → s.direct f.bytes p = true →
    (s.slot.hypCur = 0 →
      ∃ t, exec i s = .next t ∧ t.slot.pc = s.slot.pc + word f.len ∧
        memNat t.mem p.key f.bytes = v.toNat % 2 ^ (8 * f.bytes) ∧ sameMemoryBut s t p.key f.bytes ∧ otherSlots s t ∧
        sameButRegs s.slot t.slot ∧ t.slot.queue = s.slot.queue ∧ t.slot.win = s.slot.win ∧
        t.slot.composer = s.slot.composer ∧ (∀ g, natMem t.poison g = true → natMem s.poison g = true) :) ∧
    (s.slot.hypCur ≠ 0 → p.cached = true → (s.tag s.slot.hypCur).state = .live →
      s.hypFull s.slot.launch s.slot.hypCur (p.key / 128) = false →
      ∃ t, exec i s = .next t ∧ t.slot.pc = s.slot.pc + word f.len ∧ sameMemory s t ∧ otherSlots s t ∧
        natUnder t s.slot.hypCur p.key f.bytes = v.toNat % 2 ^ (8 * f.bytes) ∧
        (∀ line h, (line, h) ≠ (p.key / 128, s.slot.hypCur) →
          (t.version? line h).map (·.bytes) = (s.version? line h).map (·.bytes)) ∧
        sameButRegs s.slot t.slot ∧ t.slot.queue = s.slot.queue ∧ t.slot.win = s.slot.win :)

/-- A store to any other place (R116, R117, R250). One to a cached line that may not be written yet changes no byte and
waits for its line. Any other is posted: it takes the first free journal entry from the next index on (the model's choice, log
71), is sent to the holder, and changes no byte here; with no entry free it waits.
What stops a store, in its order (R378, R166, R102, R168, R119): HYP_USE in SRAM space, MISALIGN, the fault of its
location, FORMAT for a window, HYP_USE for memory that is not cached, HYP_FULL, and the POSTED of a release: a `str` of a task one of whose
posted stores has been refused traps POSTED with that store's address, entry and reason, and the cause is pending no longer.
What it says on a point the manual leaves open is the model's choice: log entries 9, 71. -/
def Obligations.StoreElse : Prop :=
  (∀ (i : Instr) (f : StoreOp) (s : State) (b v : Word) (p : Place),
    storeOp i = some f → s.memReady = true → (f.release = true → s.released = true) →
    operandsGive s .z f.srcs [b, v] = true → (f.va b).toNat % f.bytes = 0 →
    locate (consumed s f.srcs) .store f.bytes (f.va b) 0 = .ok p → s.direct f.bytes p = false → p.windowed = false →
    (∀ x, p = .mem x true → p.peer = none →
      (s.slot.hypCur ≠ 0 → s.hypFull s.slot.launch s.slot.hypCur (p.key / 128) = false) →
      ∃ t, exec i s = .next t ∧ t.slot.pc = s.slot.pc + word f.len ∧ sameMemory s t ∧ otherSlots s t ∧
        sameButRegs s.slot t.slot ∧ ∃ r, tget t.remotes s.nextId = some r ∧ r.kind = .line none ∧ r.core = s.cur.1 ∧
          r.slot = s.cur.2 ∧ r.key = p.key ∧ r.size = f.bytes ∧ r.data = word v.toNat ∧ r.tag = some s.slot.hypCur :) ∧
    (s.slot.hypCur = 0 → (p.cached = false ∨ p.peer ≠ none) →
      (∀ e, freeEntry s.myCore.journal s.myCore.journalNext = some e →
        ∃ t, exec i s = .next t ∧ t.slot.pc = s.slot.pc + word f.len ∧ sameMemory s t ∧ otherSlots s t ∧
          sameButRegs s.slot t.slot ∧ t.slot.queue = s.slot.queue ∧ t.slot.win = s.slot.win ∧
          t.myCore.journalNext = (e + 1) % 64 ∧
          (∃ j, t.myCore.journal.getD e {} = j ∧ j.used = true ∧ j.refused = false ∧ j.size = f.log ∧ j.slot = s.cur.2 ∧
            j.addr = f.va b ∧ j.data = word (v.toNat % 2 ^ (8 * f.bytes))) ∧
          (∀ n, n ≠ e → t.myCore.journal.getD n {} = s.myCore.journal.getD n {}) ∧
          tget t.remotes s.nextId ≠ none ∧ ∀ r, tget t.remotes s.nextId = some r →
            r.kind = .store e ∧ r.size = f.bytes ∧ r.data = word (v.toNat % 2 ^ (8 * f.bytes)) ∧ r.peer = p.peer) ∧
      (freeEntry s.myCore.journal s.myCore.journalNext = none →
        exec i s = .next (s.modSlot Slot.waits)) :) :) ∧
  (∀ (i : Instr) (f : StoreOp) (s : State) (b v : Word),
    storeOp i = some f → s.memReady = true → operandsGive s .z f.srcs [b, v] = true →
    ∀ h, h = s.slot.hypCur →
    (sramVa (f.va b) = true → h ≠ 0 →
      exec i s = .next (takeTrap s { cause := .hypUse, addr := f.va b, info := word h }) :) ∧
    ((sramVa (f.va b) = true → h = 0) →
      (windowVa (f.va b) = false → (f.va b).toNat % f.bytes ≠ 0 →
        exec i s = .next (takeTrap s { cause := .misalign, addr := f.va b, info := 0x100 })) ∧
      (windowVa (f.va b) = true → (f.va b).toNat % 4 ≠ 0 →
        exec i s = .next (takeTrap s { cause := .misalign, addr := f.va b, info := 0x100 })) ∧
      ((if windowVa (f.va b) then (f.va b).toNat % 4 else (f.va b).toNat % f.bytes) = 0 →
        (∀ t, locate (consumed s f.srcs) .store f.bytes (f.va b) 0 = .error t → exec i s = .next (takeTrap s t)) ∧
        (∀ p, locate (consumed s f.srcs) .store f.bytes (f.va b) 0 = .ok p →
          (∀ q hh u w o, p = .window q hh u w o →
            exec i s = .next (takeTrap s { cause := .format, addr := f.va b, info := word w })) ∧
          (sramVa (f.va b) = false → p.cached = false ∨ p.peer.isSome = true → h ≠ 0 →
            exec i s = .next (takeTrap s { cause := .hypUse, addr := f.va b, info := word h })) ∧
          (sramVa (f.va b) = false → p.cached = true → p.peer = none → h ≠ 0 →
            s.hypFull s.slot.launch h (p.key / 128) = true →
            exec i s = .next (takeTrap s { cause := .hypFull, addr := f.va b, info := word h })) ∧
          (∀ n j info, f.release = true → p.windowed = false →
            (h ≠ 0 → p.cached = true ∧ p.peer = none ∧ s.hypFull s.slot.launch h (p.key / 128) = false) →
            s.myCore.journal.findIdx? (fun j => j.mine s.cur.2 && j.refused) = some n → s.myCore.journal.getD n {} = j →
            info = word (n + 256 * j.reason) → s.slot.forcedOut = false →
            exec i s = .next (takeTrap (s.modSlot fun sl => { sl with pendPosted := sl.pendPosted.erase (j.addr, info) })
              { cause := .posted, addr := j.addr, info := info })))) :) :)

/-- An atomic performed at once (R318, R330): the old value is pushed and written zero-extended, the place holds what the
operation gives, or what it held where it writes nothing, and every other byte is as it was.
What it says on a point the manual leaves open is the model's choice: log entry 10. -/
def Obligations.AtomicResult : Prop :=
  ∀ (i : Instr) (f : AtomicOp) (s : State) (va : Word) (vs : List Word) (p : Place) (old : Nat),
    atomOp i = some f → Memory.wf s.mem = true → s.slot.owed.any (·.lda) = false → s.slot.hypCur = 0 →
    operandsGive s f.dst f.srcs (va :: vs) = true → va.toNat % f.bytes = 0 → f.order ≠ .sc →
    (f.order = .release → s.released = true) → locate (consumed s f.srcs) .atomic f.bytes va 0 = .ok p →
    s.atomReady f.bytes p = true → s.badAt p f.bytes = false → old = memNat s.mem p.key f.bytes →
    ∃ t, exec i s = .next t ∧ t.slot.pc = s.slot.pc + 4 ∧
      memNat t.mem p.key f.bytes = (f.result old ((vs.getD 0 0).toNat % 2 ^ (8 * f.bytes))
        ((vs.getD 1 0).toNat % 2 ^ (8 * f.bytes))).getD old ∧
      sameMemoryBut s t p.key f.bytes ∧ otherSlots s t ∧ sameButRegs s.slot t.slot ∧
      (f.dst ≠ .z → t.slot.queue = ⟨word old, .full⟩ :: s.slot.queue.take 15) ∧
      (f.dst = .z → t.slot.queue = s.slot.queue) ∧ (∀ j, f.dst = .n j → t.slot.named j.val = ⟨word old, .full⟩) ∧
      ∀ r, (∀ j, f.dst = .n j → r ≠ j.val) → t.slot.named r = s.slot.named r

/-- An atomic that is not performed at once, and its traps (R318, R133, R137): an sc one is announced and stalls for its
delivery; one whose holder is distant is sent, and one whose line may not be written yet waits for it (R250), as does one of host memory
that the bridge does not hold (R255), and stalls for the old value; one to memory that a posted store is on its way to is held; HYP_USE, MISALIGN, the fault of its location,
FORMAT for a window, ACCESS for sc outside this part, and POISON, in that order, trap with nothing written, and before a
release is waited for; a check that fails on the way from another die poisons the granule first (R129). -/
def Obligations.AtomicElse : Prop :=
  ∀ (i : Instr) (f : AtomicOp) (s : State) (va : Word) (vs : List Word),
    atomOp i = some f → s.slot.owed.any (·.lda) = false → operandsGive s f.dst f.srcs (va :: vs) = true →
    (s.slot.hypCur ≠ 0 →
      exec i s = .next (takeTrap s { cause := .hypUse, addr := va, info := word s.slot.hypCur }) :) ∧
    (s.slot.hypCur = 0 → va.toNat % f.bytes ≠ 0 →
      exec i s = .next (takeTrap s { cause := .misalign, addr := va, info := 0x300 }) :) ∧
    (s.slot.hypCur = 0 → va.toNat % f.bytes = 0 →
      (∀ t, locate (consumed s f.srcs) .atomic f.bytes va 0 = .error t → exec i s = .next (takeTrap s t)) ∧
      (∀ p, locate (consumed s f.srcs) .atomic f.bytes va 0 = .ok p →
        (∀ q h u w o, p = .window q h u w o →
          exec i s = .next (takeTrap s { cause := .format, addr := va, info := word w })) ∧
        (f.order = .sc → p.system = true →
          exec i s = .next (takeTrap s { cause := .access, addr := va, info := 0x300 })) ∧
        (f.order = .sc → p.system = false → p.windowed = false → s.released = true →
          ∃ t, exec i s = .next t ∧ sameMemory s t ∧ t.slot.stall = .beat (s.slot.pc + 4) ∧ t.slot.pc = s.slot.pc ∧
            ∃ a, t.beats = s.beats ++ [a] ∧ a.core = s.cur.1 ∧ a.slot = s.cur.2 ∧ a.launch = s.slot.launch ∧
              s.cycle / 8 ≤ a.window) ∧
        (f.order ≠ .sc → (f.order = .release → s.released = true) → s.atomSent f.bytes p = true →
          ∃ t, exec i s = .next t ∧ sameMemory s t ∧ t.slot.stall = .atomic s.nextId f.dst (s.slot.pc + 4) ∧
            t.slot.queue = s.slot.queue ∧ ∃ r, tget t.remotes s.nextId = some r ∧ r.size = f.bytes ∧ r.peer = p.peer) ∧
        (f.order ≠ .sc → (f.order = .release → s.released = true) → p.peer = none → sramVa va = false →
          journalOverlap s.myCore p.key f.bytes = true → exec i s = .next (s.modSlot fun sl => { sl with stall := .held })) ∧
        (f.order ≠ .sc → s.atomReady f.bytes p = true →
          poisoned s.poison p.key f.bytes = true →
          exec i s = .next (takeTrap s { cause := .poison, addr := va, info := 0x300 })) ∧
        (f.order ≠ .sc → s.atomReady f.bytes p = true → poisoned s.poison p.key f.bytes = false →
          s.badCross f.bytes p = true → s.slot.trapsAtOnce = true →
          ∃ u, exec i s = .next (takeTrap u { cause := .poison, addr := va, info := 0x300 }) ∧ u.slot = s.slot ∧
            u.mem = s.mem ∧ poisoned u.poison p.key f.bytes = true)) :)

/-- Fences (R341, R342, R119, R134): a full or a release fence completes once every posted store and distant load of the task has
been performed and stalls before that, an acquire one waits for its loads, scalar and vector; a refused posted store traps
POSTED at a full or a release fence, with its entry and reason, and the cause pending for it is taken. `fencei` waits for the
stores and discards the core's instruction lines. Nothing else changes. `nop` and its 16-bit form complete in every state and
change only the pc (R369).
What it says on a point the manual leaves open is the model's choice: log entries 9, 21. -/
def Obligations.Fences : Prop :=
  ∀ (s : State), exec .nop s = .next (advance s 4) ∧ exec .nop16 s = .next (advance s 2) ∧
  (s.slot.owed.any (·.lda) = false →
    (∀ i, (∃ sc, i = .fenceFull sc ∨ i = .fenceRelease sc) →
      (s.released = true → exec i s = .next (advance s 4)) ∧
      (s.myCore.journal.any (fun j => j.mine s.cur.2 && j.refused) = false → s.released = false →
        exec i s = .next (s.modSlot fun sl => { sl with stall := .held })) ∧
      (∀ n j, s.myCore.journal.findIdx? (fun j => j.mine s.cur.2 && j.refused) = some n → s.myCore.journal.getD n {} = j →
        s.slot.forcedOut = false →
        exec i s = .next (takeTrap (s.modSlot fun sl =>
            { sl with pendPosted := sl.pendPosted.erase (j.addr, word (n + 256 * j.reason)) })
          { cause := .posted, addr := j.addr, info := word (n + 256 * j.reason) }))) ∧
    (∀ sc q, q = (s.slot.owed.any (·.kind == .remote) || s.myCore.vloading s.cur.2) →
      (q = false → exec (.fenceAcquire sc) s = .next (advance s 4)) ∧
      (q = true →
        exec (.fenceAcquire sc) s = .next (s.modSlot fun sl => { sl with stall := .held }))) ∧
    (s.released = true →
      ∃ t, exec .fencei s = .next t ∧ t.slot = (advance s 4).slot ∧ t.myCore.icache = [] ∧ t.myCore.icHalves = [] ∧
        sameMemory s t ∧ otherSlots s t))

/-- `cflush` (R331): on a cached page of this part or of the host, `.clean` leaves every L1 copy of the line clean, `.inv`
drops the copy of the issuing core and no other, and `.wbinv` leaves no copy anywhere; other memory is left alone, and a fault
of its location traps. It waits for the task's stores that wait for their lines, for a request of the line that its home serves,
and, with data to write back, for a stack that sleeps (R284). No byte of memory and no byte of a version changes.
What it says on a point the manual leaves open is the model's choice: log entry 12. -/
def Obligations.CacheFlush : Prop :=
  ∀ (s : State) (a : SrcM) (va : Word) (i : Instr), s.slot.owed.any (·.lda) = false →
    operandsGive s .z [a] [va] = true → i = .cflushClean a ∨ i = .cflushInv a ∨ i = .cflushWbinv a →
    (∀ t, locate (consumed s [a]) .load 1 va 0 = .error t → exec i s = .next (takeTrap s t) :) ∧
    (∀ p, locate (consumed s [a]) .load 1 va 0 = .ok p →
      (p.cached = true → linePending s s.cur.1 s.cur.2 = true ∨ lineBusy s (p.key / 128) = true →
        exec i s = .next (s.modSlot fun sl => { sl with stall := .held })) ∧
      (∀ w, w = (p.cached && i != .cflushInv a && lineDirty s (p.key / 128) &&
          !stackReady (touchKey (consumed s [a]) p.key) p.key) →
       (p.cached = true → linePending s s.cur.1 s.cur.2 = false ∧ lineBusy s (p.key / 128) = false) →
       (w = true → exec i s = .next ((touchKey s p.key).modSlot fun sl => { sl with stall := .held })) ∧
       (w = false → ∃ t, exec i s = .next t ∧ t.slot.pc = s.slot.pc + 4 ∧ sameMemory s t ∧
        t.versions.map (fun v => { v with spilled := false, pinned := false }) =
          s.versions.map (fun v => { v with spilled := false, pinned := false }) ∧ otherSlots s t ∧
        sameButRegs s.slot t.slot ∧ t.slot.queue = s.slot.queue ∧
        (p.cached = false → t = advance (consumed s [a]) 4) ∧
        (∀ x c k, p = .mem x true → tget s.cores c = some k →
          (∀ n, i = .cflushClean a → tget k.l1 (x.key / 128) = some n →
            (tget (t.core c).l1 (x.key / 128)).map (fun y => y.st) = some (cleanState n.st)) ∧
          (i = .cflushInv a → tget (t.core c).l1 (x.key / 128) = if c = s.cur.1 then none else tget k.l1 (x.key / 128)) ∧
          (i = .cflushWbinv a → tget (t.core c).l1 (x.key / 128) = none)))) :)

/-! ### Messages and streams -/

/-- `send` hands Tongs a message with the composer's words, and empties the composer unless it keeps it; `spawn` one with the
word of its operand, counted against the core's limit; `migrate` one with n0-n7 and the next pc, for which the task keeps
its slot and its stream words (R374, R377, R364, R35, R152). The message is counted in flight and is on its way, or is queued toward its peer.
What it says on a point the manual leaves open is the model's choice: log entry 33. -/
def Obligations.SendResult : Prop :=
  ∀ (s : State) (cls : BitVec 8) (a b : Src) (keep : Bool) (t x : Word) (dest : Nat) (peer : Option Nat),
    s.mayRelease = true → s.numbersFit = true → resolveTarget s s.slot.launch t = some (dest, peer) → dest < 2 ^ 64 →
    ∀ dev, dev = (if peer.isSome then s.cfg.deviceId else 63) →
    (operandsGive s .z [⟨a, false⟩, ⟨b, false⟩] [t, x] = true → s.slot.composed = true → s.slot.composer.length ≤ 8 →
      ∀ prio, prio = (if b = .z then (s.classOf s.slot.launch cls.toNat).prio else x.toNat) → prio < 16 →
      ∃ u m, exec (.send cls a b keep) s = .next u ∧ onlyPc s u 4 ∧
        u.slot.composer = (if keep then s.slot.composer else []) ∧ tget u.transits s.nextId = some m ∧
        m.sender = .task s.cur.1 s.cur.2 ∧ msgFrom s m.msg dest cls.toNat prio (s.slot.composer.map (·.val)) dev ∧
        (peer = none → m.leg = .flying ∧ m.dest = m.msg.core) ∧
        ∀ l, s.launch? s.slot.launch = some l → ∃ l', u.launch? s.slot.launch = some l' ∧
          l'.inflight = l.inflight.set (s.cur.1 / 2048) (l.inflight.getD (s.cur.1 / 2048) 0 + 1) :) ∧
    (operandsGive s .z [⟨a, false⟩, ⟨b, false⟩] [t, x] = true → s.slot.reservedWord = false →
      s.myCore.spawns < s.myCore.spawnLimit →
      (s.classOf s.slot.launch cls.toNat).prio < 16 →
      ∃ u m, exec (.spawn cls a b) s = .next u ∧ u.slot.spawning = false ∧
        onlyPc (s.modSlot fun sl => { sl with spawning := false }) u 4 ∧ u.slot.composer = s.slot.composer ∧
        u.myCore.spawns = s.myCore.spawns + 1 ∧ tget u.transits s.nextId = some m ∧ m.sender = .spawn s.cur.1 s.cur.2 ∧
        msgFrom s m.msg dest cls.toNat (s.classOf s.slot.launch cls.toNat).prio [x] dev :) ∧
    (operandsGive s .z [⟨a, false⟩] [t] = true → s.slot.migrating = none → s.slot.depth = 0 → s.slot.composed = true →
      (s.classOf s.slot.launch cls.toNat).prio < 16 → 8 ≤ s.slot.win.act.length →
      ((s.slot.win.act.take 8).all fun r => r.st == .full) = true →
      ∃ u m, exec (.migrate cls a) s = .next u ∧ u.slot.pc = s.slot.pc ∧ u.slot.migrating = some s.nextId ∧
        u.slot.held = s.slot.held ∧ u.slot.binds = s.slot.binds ∧ u.slot.payload = s.slot.payload ∧ otherSlots s u ∧
          sameMemory s u ∧ tget u.transits s.nextId = some m ∧
        m.sender = .migrate s.cur.1 s.cur.2 ∧ msgFrom s m.msg dest cls.toNat (s.classOf s.slot.launch cls.toNat).prio
          ((s.slot.win.act.take 8).map (·.val) ++ [s.slot.pc + 4]) dev :)

/-- What stops a message (R374, R377, R364, R32, R360): a priority above 15 traps ILLEGAL with it; a target that names
nothing traps ACCESS with it; a full-faulted word of the composer traps, deferred, and a reserved one makes `send` and `spawn` wait;
a `spawn` at the limit waits; a `migrate` from a called frame traps FRAME. Nothing is sent. -/
def Obligations.SendStops : Prop :=
  ∀ (s : State) (cls : BitVec 8) (a b : Src) (keep : Bool) (t x : Word), s.memReady = true →
    (operandsGive s .z [⟨a, false⟩, ⟨b, false⟩] [t, x] = true →
      (b ≠ .z → 16 ≤ x.toNat → exec (.send cls a b keep) s = .next (takeTrap s { cause := .illegal, info := x })) ∧
      (b ≠ .z → x.toNat < 16 → resolveTarget s s.slot.launch t = none →
        exec (.send cls a b keep) s = .next (takeTrap s { cause := .access, addr := t })) ∧
      (resolveTarget s s.slot.launch t = none →
        exec (.spawn cls a b) s = .next (takeTrap s { cause := .access, addr := t })) ∧
      (resolveTarget s s.slot.launch t ≠ none → s.slot.reservedWord = true →
        exec (.spawn cls a b) s = .next (s.modSlot Slot.waits)) ∧
      (resolveTarget s s.slot.launch t ≠ none → s.slot.reservedWord = false → s.myCore.spawnLimit ≤ s.myCore.spawns →
        exec (.spawn cls a b) s = .next (s.modSlot fun sl => { sl.waits with spawning := true })) ∧
      (b ≠ .z → x.toNat < 16 → resolveTarget s s.slot.launch t ≠ none →
        (∀ p, (⟨0, .empty p⟩ : Reg) ∈ s.slot.composer →
          exec (.send cls a b keep) s = .next (s.modSlot Slot.waits)) ∧
        (∀ p ad pc, s.slot.composer = [⟨0, .faulted p ad pc⟩] → exec (.send cls a b keep) s = .next (takeTrap s
          { cause := if p then .poison else .access, addr := ad, info := pc, deferred := true }))) :) ∧
    (s.slot.migrating = none → s.slot.depth ≠ 0 → exec (.migrate cls a) s = .next (takeTrap s { cause := .frame }) :)

/-- `sbind` (R370-R372): `.chan` and `.copy` bind an unbound stream register, `.off` unbinds it; a class that is 255 or
more, that is a continuation's, or whose channel another slot holds traps ILLEGAL with it. Nothing is pushed.
What it says on a point the manual leaves open is the model's choice: log entry 30. -/
def Obligations.StreamBinds : Prop :=
  ∀ (s : State) (st : Fin 6),
    (∃ t, exec (.sbindOff st) s = .next t ∧ t.slot.binds.getD st.val .unbound = .unbound ∧
      t.slot.pc = s.slot.pc + 4 ∧ t.slot.queue = s.slot.queue ∧ t.slot.win = s.slot.win ∧ sameMemory s t ∧ otherSlots s t ∧
      ∀ n, n ≠ st.val → t.slot.binds.getD n .unbound = s.slot.binds.getD n .unbound :) ∧
    (s.slot.binds.getD st.val .unbound = .unbound →
      (∃ t, exec (.sbindCopy st) s = .next t ∧ t.slot.binds.getD st.val .unbound = .copy [] none false ∧
        t.slot.pc = s.slot.pc + 4 ∧ t.slot.queue = s.slot.queue ∧ t.slot.win = s.slot.win ∧ sameMemory s t ∧ otherSlots s t) ∧
      ∀ a v, operandsGive s .z [a] [v] = true → ∀ taken, taken = (s.myCore.slots.any fun p =>
          p.2.held && p.1 != s.cur.2 && p.2.binds.any fun b => match b with | .chan x _ => x == v.toNat | _ => false) →
        (255 ≤ v.toNat ∨ (s.classOf s.slot.launch v.toNat).cont = true ∨ taken = true →
          exec (.sbindChan st a) s = .next (takeTrap s { cause := .illegal, info := v })) ∧
        (v.toNat < 255 → (s.classOf s.slot.launch v.toNat).cont = false → taken = false →
          ∃ t, exec (.sbindChan st a) s = .next t ∧ t.slot.binds.getD st.val .unbound = .chan v.toNat [] ∧
            t.slot.pc = s.slot.pc + 4 ∧ t.slot.queue = s.slot.queue ∧ t.slot.win = s.slot.win ∧ sameMemory s t ∧
            otherSlots s t) :)

/-! ### Convergence, Beat and barriers -/

/-- `cvg` (R150, R151): a note raises `CVG.MAX` to the magnitude noted where that is greater, and one above `CVG.THRESH`
counts and ends the quiet time; the reads push their register, and `cvg.quiet` the converged bit with it; `cvg.clear` zeroes
the maximum and the count. `cutstat` gives a cut's state and the number of the last (R157). -/
def Obligations.Convergence : Prop :=
  ∀ (s : State),
    (∀ a v m, operandsGive s .z [a] [v] = true → m = min (v.toNat % 2 ^ 31) 0x7F800000 →
      ∃ t, exec (.cvgNote a) s = .next t ∧ onlyPc s t 4 ∧
        t.myCore.cvgMax = (if s.myCore.cvgMax.toNat < m then word m else s.myCore.cvgMax) ∧
        t.myCore.cvgCount = (if s.myCore.cvgThresh.toNat < m then s.myCore.cvgCount + 1 else s.myCore.cvgCount) ∧
        t.myCore.cvgQuiet = (if s.myCore.cvgThresh.toNat < m then 0 else s.myCore.cvgQuiet) ∧
        t.myCore.cvgThresh = s.myCore.cvgThresh ∧ t.myCore.cvgWindow = s.myCore.cvgWindow :) ∧
    (∀ d, operandsGive s d [] [] = true →
      exec (.cvgMax d) s = .next (advance (pushTo (consumed s []) d s.myCore.cvgMax) 4) ∧
      exec (.cvgCount d) s = .next (advance (pushTo (consumed s []) d s.myCore.cvgCount) 4) ∧
      exec (.cvgQuiet d) s = .next (advance (pushTo (consumed s []) d
        (word ((if s.converged s.slot.launch then 2 ^ 63 else 0) + s.myCore.cvgQuiet.toNat % 2 ^ 63))) 4) :) ∧
    (∃ t, exec .cvgClear s = .next t ∧ onlyPc s t 4 ∧ t.myCore.cvgMax = 0 ∧ t.myCore.cvgCount = 0 ∧
      t.myCore.cvgQuiet = s.myCore.cvgQuiet :) ∧
    (∀ d a v x, operandsGive s d [a] [v] = true → s.launch? s.slot.launch = some x → x.cut.number < 2 ^ 31 →
      ∃ code, exec (.cutstat d a) s = .next (advance (pushTo (consumed s [a]) d (word (code * 2 ^ 32 + x.cut.number))) 4) ∧
        (v.toNat % 2 ^ 32 = 0 → code = 0) ∧
        (x.cut.number < v.toNat % 2 ^ 32 → v.toNat % 2 ^ 32 < 2 ^ 31 → code = 0) ∧
        (v.toNat % 2 ^ 32 = x.cut.number → x.cut.number ≠ 0 →
          code = if x.cut.inProgress then 1 else if x.cut.abandoned then 4 else 2) ∧
        (0 < v.toNat % 2 ^ 32 → v.toNat % 2 ^ 32 < x.cut.number → code = 3) :)

/-- `cut`, `hopen` and `hresolve` announce themselves on the Beat network and stall for the delivery, with nothing pushed
and nothing else changed (R154, R161, R355, R356, R16): the announcement bears the task and its operands, in a window not
before the current one. `cut` traps ACCESS in a launch without a cut region; a tag of 4,096 or more traps ILLEGAL with it, and for `hresolve` the root or
a tag the launch does not hold ILLEGAL with INFO 0.
`henter` (R354, R164): the root, or a tag the launch holds, becomes `HYP.CUR`, a confirmed tag as its target; any other
operand traps ILLEGAL with it, and nothing is pushed.
What it says on a point the manual leaves open is the model's choice: log entries 19, 32, 57. -/
def Obligations.BeatAnnouncements : Prop :=
  (∀ (s : State) (d : Dst), s.slot.owed.any (·.lda) = false →
    (∀ (i : Instr) (k : BeatKind) (a : SrcM) (h : Word),
      ((i = .cut d ∧ k = .cut d ∧ operandsGive s d [] [] = true ∧ s.lr s.slot.launch 27 ≠ 0) ∨
        (i = .hopen d a ∧ k = .hopen h.toNat d ∧ operandsGive s d [a] [h] = true ∧ h.toNat < 4096) ∨
        (operandsGive s d [a] [h] = true ∧ 0 < h.toNat ∧ h.toNat < 4096 ∧ s.heldTag s.slot.launch h.toNat = true ∧
          ((i = .hresolveR d a ∧ k = .hresolve 3 h.toNat d) ∨ (s.released = true ∧
            ((i = .hresolveC d a ∧ k = .hresolve 2 h.toNat d) ∨ (i = .hresolveX d a ∧ k = .hresolve 4 h.toNat d)))))) →
      ∃ t w, exec i s = .next t ∧ t.slot.stall = .beat (s.slot.pc + 4) ∧ t.slot.pc = s.slot.pc ∧
        t.beats = s.beats ++ [⟨w, s.cur.1, s.cur.2, s.slot.launch, k⟩] ∧ s.cycle / 8 ≤ w ∧
        t.slot.queue = s.slot.queue ∧ t.slot.win = s.slot.win ∧ t.slot.owed = s.slot.owed ∧
        sameButRegs s.slot t.slot ∧ sameMemory s t ∧ otherSlots s t :) ∧
    (operandsGive s d [] [] = true → s.lr s.slot.launch 27 = 0 →
      exec (.cut d) s = .next (takeTrap s { cause := .access }) :) ∧
    (∀ a h, operandsGive s d [a] [h] = true → 4096 ≤ h.toNat →
      ∀ i, i = .hopen d a ∨ i = .hresolveC d a ∨ i = .hresolveR d a ∨ i = .hresolveX d a →
        exec i s = .next (takeTrap s { cause := .illegal, info := h }) :) ∧
    (∀ a h, operandsGive s d [a] [h] = true → h.toNat < 4096 → h = 0 ∨ s.heldTag s.slot.launch h.toNat = false →
      ∀ i, i = .hresolveC d a ∨ i = .hresolveR d a ∨ i = .hresolveX d a →
        exec i s = .next (takeTrap s { cause := .illegal }) :) :) ∧
  (∀ (s : State) (a : SrcM) (h : Word), operandsGive s .z [a] [h] = true →
    (h.toNat < 4096 → (h = 0 ∨ s.heldTag s.slot.launch h.toNat = true) →
      exec (.henter a) s = .next (advance ((consumed s [a]).modSlot fun sl => { sl with hypCur := s.follow h.toNat }) 4) :) ∧
    (s.follow 0 = 0 :) ∧
    ((s.tag h.toNat).state ≠ .confirmed → s.follow h.toNat = h.toNat :) ∧
    (4096 ≤ h.toNat ∨ (h ≠ 0 ∧ s.heldTag s.slot.launch h.toNat = false) →
      exec (.henter a) s = .next (takeTrap s { cause := .illegal, info := h }) :) :)

/-- Barriers (R321-R323): `bjoin` declares a barrier or adds the task to it; `barrive` counts the task's arrival, the N-th of
a generation releasing it; `bwait` goes on once the generation arrived in is released and gives its lanes back until then;
`bsync` arrives and waits; `bleave` takes the task out; `bstat` pushes membership, pending mark, level, N, arrivals and
generation. Where the number names no barrier that the task is a member of, `barrive`, `bwait`,
`bsync` and `bleave` trap ILLEGAL, and so does `bwait` with no arrival pending. A `bjoin` waits for the next cycle where a higher
core's came first in this one (R324).
What it says on a point the manual leaves open is the model's choice: log entries 19, 29, 73. -/
def Obligations.Barriers : Prop :=
  ∀ (s : State) (bar : BitVec 7) (x : Launch), s.launch? s.slot.launch = some x →
    (∀ a v size, operandsGive s .z [⟨a, false⟩] [v] = true → x.levelSize (bitsOf v.toNat 18 16) = some size →
      v.toNat < 2 ^ 19 → 0 < bitsOf v.toNat 15 0 →
      bitsOf v.toNat 15 0 ≤ 4 * min size (x.cores.length - s.slot.rank / size * size) →
      (x.joinsLater bar.toNat s.cycle s.cur.1 = true → exec (.bjoin bar a) s = .next (s.modSlot Slot.waits)) ∧
      (x.joinsLater bar.toNat s.cycle s.cur.1 = false →
      (∀ key b, x.barrier? s.slot.rank bar.toNat = some (key, b) → b.member? s.cur.1 s.cur.2 = none →
        b.n = bitsOf v.toNat 15 0 → b.level = bitsOf v.toNat 18 16 →
        ∃ t y, exec (.bjoin bar a) s = .next t ∧ onlyPc s t 4 ∧ t.launch? s.slot.launch = some y ∧
          tget y.barriers key = some { b with members := b.members ++ [(s.cur.1, s.cur.2, none)], lastJoin := (s.cycle + 1, s.cur.1) }) ∧
      (x.barrier? s.slot.rank bar.toNat = none →
        x.barrierOverlaps bar.toNat (s.slot.rank / size * size) (s.slot.rank / size * size + size) = false →
        ∃ t y, exec (.bjoin bar a) s = .next t ∧ onlyPc s t 4 ∧ t.launch? s.slot.launch = some y ∧
          tget y.barriers (barrierKey bar.toNat (bitsOf v.toNat 18 16) (s.slot.rank / size)) =
            some { n := bitsOf v.toNat 15 0, level := bitsOf v.toNat 18 16, scope := x.levelScope (bitsOf v.toNat 18 16)
                   members := [(s.cur.1, s.cur.2, none)], lastJoin := (s.cycle + 1, s.cur.1) })) :) ∧
    (∀ key b, s.barrier? bar.toNat = some (key, b) →
      (b.member? s.cur.1 s.cur.2 = some none → s.slot.owed.any (·.lda) = false → s.released = true →
        ∃ t y b', exec (.barrive bar) s = .next t ∧ onlyPc s t 4 ∧ t.launch? s.slot.launch = some y ∧
          tget y.barriers key = some b' ∧ b'.member? s.cur.1 s.cur.2 = some (some b.gen) ∧
          (b.arrivals + 1 = b.n → b'.gen = b.gen + 1 ∧ b'.arrivals = 0) ∧
          (b.arrivals + 1 ≠ b.n → b'.gen = b.gen ∧ b'.arrivals = b.arrivals + 1)) ∧
      (b.member? s.cur.1 s.cur.2 = some none → s.slot.owed.any (·.lda) = false → s.released = true →
        s.slot.inBwait = none → b.arrivals + 1 ≠ b.n → b.released ≤ b.gen →
        ∃ t y b', exec (.bsync bar) s = .next t ∧ t.slot.pc = s.slot.pc ∧ t.slot.vl = 0 ∧
          t.slot.inBwait = some bar.toNat ∧ t.launch? s.slot.launch = some y ∧ tget y.barriers key = some b' ∧
          b'.arrivals = b.arrivals + 1 ∧ b'.gen = b.gen) ∧
      (∀ g, b.member? s.cur.1 s.cur.2 = some (some g) →
        (g < b.released → ∃ t y b', exec (.bwait bar) s = .next t ∧ t.slot.pc = s.slot.pc + 4 ∧ t.slot.inBwait = none ∧
          (s.slot.vasked = 0 → t.slot.vl = 0) ∧ t.launch? s.slot.launch = some y ∧ tget y.barriers key = some b' ∧
          b'.member? s.cur.1 s.cur.2 = some none ∧ b'.gen = b.gen ∧ b'.arrivals = b.arrivals) ∧
        (b.released ≤ g → exec (.bwait bar) s =
          .next (s.modSlot fun sl => { sl.waits with vl := 0, inBwait := some bar.toNat })) ∧
        exec (.barrive bar) s = .next (takeTrap s { cause := .illegal })) ∧
      ((b.member? s.cur.1 s.cur.2).isSome = true →
        ∃ t y, exec (.bleave bar) s = .next t ∧ onlyPc (s.modSlot (·.leftBwait bar.toNat)) t 4 ∧ t.launch? s.slot.launch = some y ∧
          tget y.barriers key = leaveBarrier s.cur.1 s.cur.2 b) ∧
      (b.member? s.cur.1 s.cur.2 = none →
        ∀ i, i = .barrive bar ∨ i = .bwait bar ∨ i = .bsync bar ∨ i = .bleave bar →
          exec i s = .next (takeTrap s { cause := .illegal })) ∧
      (b.member? s.cur.1 s.cur.2 = some none → exec (.bwait bar) s = .next (takeTrap s { cause := .illegal })) ∧
      exec (.bstat bar) s = .next (advance (pushTo s .queue (word ((if (b.member? s.cur.1 s.cur.2).isSome then 2 ^ 63 else 0) +
        (if ((b.member? s.cur.1 s.cur.2).getD none).isSome then 2 ^ 62 else 0) + b.level * 2 ^ 59 + b.n * 2 ^ 32 +
        b.arrivals * 2 ^ 16 + b.gen % 2 ^ 16))) 4) :) ∧
    (s.barrier? bar.toNat = none → exec (.bstat bar) s = .next (advance (pushTo s .queue 0) 4) ∧
      ∀ i, i = .barrive bar ∨ i = .bwait bar ∨ i = .bsync bar ∨ i = .bleave bar →
        exec i s = .next (takeTrap s { cause := .illegal }) :)

/-- Instructions whose value comes from a unit away from the core: `hstat` is owed the word of its tag, and `time` and `lstat`
their value (R358, R165, R172, R267, R62); `lease` and `tlbi` stall until the unit has answered (R266, R382, R125). `tlbi`
traps PRIV in user mode; an ASID of more than 14 bits, a tag above 4,095 or a peer above 63 traps ILLEGAL with it; a `lease`
in a launch without the lease flag, of the device itself or of a peer that is not linked traps LEASE with both operands.
What it says on a point the manual leaves open is the model's choice: log entry 36. -/
def Obligations.UnitRequests : Prop :=
  ∀ (s : State) (d : Dst),
    (∀ i a v k, operandsGive s d [a] [v] = true →
      ((i = .hstat d a ∧ v.toNat < 4096 ∧ k = .value (if v = 0 then 1 else if (s.tag v.toNat).launch ≠ s.slot.launch then 0
          else match (s.tag v.toNat).state with
            | .free => 0
            | .live => word ((s.tag v.toNat).depth * 2 ^ 16 + (s.tag v.toNat).parent * 2 ^ 4 + 1)
            | .confirmed => 2
            | .sweeping => 3
            | .swept => 4)) ∨
        (i = .lstat d a ∧ v.toNat < 64 ∧ k = .lstat v.toNat)) →
      ∃ t, exec i s = .next t ∧ t.slot.pc = s.slot.pc + 4 ∧ owesTo s t d k false ∧ sameMemory s t ∧ otherSlots s t ∧
        sameButRegs s.slot { t.slot with owed := s.slot.owed } :) ∧
    (operandsGive s d [] [] = true → ∃ t, exec (.time d) s = .next t ∧ t.slot.pc = s.slot.pc + 4 ∧
      owesTo s t d .time false ∧ sameMemory s t ∧ otherSlots s t :) ∧
    (∀ a v, operandsGive s d [a] [v] = true →
      (4096 ≤ v.toNat → exec (.hstat d a) s = .next (takeTrap s { cause := .illegal, info := v })) ∧
      (64 ≤ v.toNat → exec (.lstat d a) s = .next (takeTrap s { cause := .illegal, info := v })) :) ∧
    (∀ a b p n, operandsGive s d [a, b] [p, n] = true →
      (64 ≤ p.toNat → exec (.lease d a b) s = .next (takeTrap s { cause := .illegal, info := p })) ∧
      (p.toNat < 64 → 64 < n.toNat → exec (.lease d a b) s = .next (takeTrap s { cause := .illegal, info := n })) ∧
      (p.toNat < 64 → n.toNat ≤ 64 →
        (bitsOf (s.lr s.slot.launch 0).toNat 2 2 = 0 ∨ s.thisDevice p.toNat = true ∨ natMem s.linked p.toNat = false →
          exec (.lease d a b) s = .next (takeTrap s { cause := .lease, addr := p, info := n })) ∧
        (bitsOf (s.lr s.slot.launch 0).toNat 2 2 = 1 → s.thisDevice p.toNat = false → natMem s.linked p.toNat = true →
          ∃ t, exec (.lease d a b) s = .next t ∧ t.slot.stall = .links (s.cycle + 4096) (.lease p.toNat n.toNat d) (s.slot.pc + 4) ∧
            t.slot.pc = s.slot.pc ∧ t.slot.queue = s.slot.queue ∧ sameMemory s t ∧ otherSlots s t ∧
            t.agenda = s.agenda ++ [⟨.linksRoleAnswer, { core := s.cur.1, slot := s.cur.2 }⟩])) :) ∧
    (s.slot.priv = .user → ∀ a b, exec (.tlbiPage a b) s = .next (takeTrap s { cause := .priv }) ∧
      exec (.tlbiAsid b) s = .next (takeTrap s { cause := .priv }) ∧ exec .tlbiAll s = .next (takeTrap s { cause := .priv }) :) ∧
    (s.slot.priv ≠ .user → ∀ a b va v, 2 ^ 14 ≤ v.toNat →
      (operandsGive s .z [b] [v] = true → exec (.tlbiAsid b) s = .next (takeTrap s { cause := .illegal, info := v })) ∧
      (operandsGive s .z [a, b] [va, v] = true →
        exec (.tlbiPage a b) s = .next (takeTrap s { cause := .illegal, info := v })) :) ∧
    (s.slot.priv ≠ .user → ∀ i op,
      ((i = .tlbiAll ∧ op = .all) ∨
        (∃ b v, i = .tlbiAsid b ∧ operandsGive s .z [b] [v] = true ∧ v.toNat < 2 ^ 14 ∧ op = .asid v.toNat) ∨
        (∃ a b va v, i = .tlbiPage a b ∧ operandsGive s .z [a, b] [va, v] = true ∧ v.toNat < 2 ^ 14 ∧
          op = .page va v.toNat)) →
      ∃ t, exec i s = .next t ∧ t.slot.stall = .tlbi op (s.slot.pc + 4) ∧ t.slot.pc = s.slot.pc ∧
        t.slot.queue = s.slot.queue ∧ sameMemory s t ∧ otherSlots s t ∧
        t.agenda = s.agenda ++ [⟨.tlbiComplete, { core := s.cur.1, slot := s.cur.2 }⟩] :)

/-! ### Lanes, flags and system registers -/

/-- `vclaim` (R391, R206, R70): 0 gives the lanes back; a claim of at most 64 is granted 8, 16, 32 or 64 elements, no more
than asked for rounded up to lane groups; the grant is pushed, written and becomes `VL`. The task's first claim zeroes its
vector registers, a later one keeps them. More than 64 traps ILLEGAL with it. -/
def Obligations.VclaimResult : Prop :=
  ∀ (s : State) (d : Dst) (a : SrcM) (n : Word), operandsGive s d [a] [n] = true →
    (64 < n.toNat → exec (.vclaim d a) s = .next (takeTrap s { cause := .illegal, info := n }) :) ∧
    (n.toNat ≤ 64 → ∃ t g, exec (.vclaim d a) s = .next t ∧ t.slot.vl = g ∧ t.slot.pc = s.slot.pc + 4 ∧
      (n = 0 → g = 0) ∧ (n ≠ 0 → (g = 8 ∨ g = 16 ∨ g = 32 ∨ g = 64) ∧ g < n.toNat + 8) ∧
      (d ≠ .z → t.slot.queue = ⟨word g, .full⟩ :: s.slot.queue.take 15) ∧ (d = .z → t.slot.queue = s.slot.queue) ∧
      (∀ j, d = .n j → t.slot.named j.val = ⟨word g, .full⟩) ∧ sameMemory s t ∧ otherSlots s t ∧
      (s.slot.vclaimed = true → t.slot.vregs = s.slot.vregs ∧ t.slot.vfaults = s.slot.vfaults) ∧
      (s.slot.vclaimed = false → t.slot.vregs = List.replicate 16 (List.replicate 64 0)) :)

/-- `vflag` (R184): it ORs the flag's bit into the launch's flag word, eight bytes in one step, and changes no other byte;
an index past the flags traps ILLEGAL with it, a hypothesis HYP_USE, then the fault of its location, ACCESS at a peer, and
POISON, before its release is waited for. A flag that is distant, or whose line or half of host memory is not at hand, is ORed
there, and the task stalls till then.
What it says on a point the manual leaves open is the model's choice: log entry 31. -/
def Obligations.VflagResult : Prop :=
  ∀ (s : State) (a : SrcM) (v : Word), Memory.wf s.mem = true → s.slot.owed.any (·.lda) = false →
    operandsGive s .z [a] [v] = true → ∀ count, count = bitsOf (s.lr s.slot.launch 21).toNat 15 0 →
    ∀ va, va = s.lr s.slot.launch 20 + word (8 * (v.toNat / 64)) →
    (count ≤ v.toNat → exec (.vflag a) s = .next (takeTrap s { cause := .illegal, info := v }) :) ∧
    (v.toNat < count → s.slot.hypCur ≠ 0 →
      exec (.vflag a) s = .next (takeTrap s { cause := .hypUse, info := word s.slot.hypCur }) :) ∧
    (v.toNat < count → s.slot.hypCur = 0 →
      (∀ t, locate (consumed s [a]) .atomic 8 va 0 = .error t → exec (.vflag a) s = .next (takeTrap s t)) ∧
      ∀ p, locate (consumed s [a]) .atomic 8 va 0 = .ok p → p.windowed = false →
        (p.peer ≠ none → exec (.vflag a) s = .next (takeTrap s { cause := .access, addr := va, info := 0x300 })) ∧
        (s.atomReady 8 p = true → poisoned s.poison p.key 8 = true →
          exec (.vflag a) s = .next (takeTrap s { cause := .poison, addr := va, info := 0x300 })) ∧
        (s.atomSent 8 p = true → p.peer = none → s.released = true → ∃ t, exec (.vflag a) s = .next t ∧ sameMemory s t ∧
          t.slot.stall = .atomic s.nextId .z (s.slot.pc + 4) ∧ t.slot.queue = s.slot.queue ∧
          ∃ r, tget t.remotes s.nextId = some r ∧ r.size = 8 ∧ r.addr = va ∧ r.core = s.cur.1 ∧ r.slot = s.cur.2) ∧
        (s.atomReady 8 p = true → s.badAt p 8 = false → s.released = true →
          ∃ t, exec (.vflag a) s = .next t ∧ onlyPc { s with mem := t.mem } t 4 ∧ sameMemoryBut s t p.key 8 ∧
            memNat t.mem p.key 8 = memNat s.mem p.key 8 ||| 2 ^ (v.toNat % 64)) :)

/-- `sysr` (R73, R380): the registers a user may read push their value in every mode, kernel registers only outside user
mode, where a user's read traps PRIV with the number; an unlisted number traps ILLEGAL with the layout of R301. A kernel read
of `TRAP.CAUSE` marks the handler; `FP.STAT` is held for the vector instructions under way (R94), and a register of the links
role asks it and stalls for its answer (R268).
What it says on a point the manual leaves open is the model's choice: log entries 16, 35, 71. -/
def Obligations.SysRead : Prop :=
  ∀ (s : State) (d : Dst) (reg : BitVec 12), operandsGive s d [] [] = true →
    (∀ v, (reg.toNat, v) ∈ sysValues s ++ sysMore s →
      exec (.sysr d reg) s = .next (advance (pushTo (consumed s []) d v) 4) :) ∧
    (∀ v, (reg.toNat, v) ∈ kernelValues s →
      (s.slot.priv = .user → exec (.sysr d reg) s = .next (takeTrap s { cause := .priv, info := word reg.toNat })) ∧
      (s.slot.priv ≠ .user → reg ≠ 0x100 → exec (.sysr d reg) s = .next (advance (pushTo (consumed s []) d v) 4)) :) ∧
    (s.slot.priv ≠ .user → reg = 0x100 → ∃ t, exec (.sysr d reg) s = .next t ∧
      (∀ sh, s.slot.shadow = some sh → t.slot.shadow = some { sh with causeRead := true }) ∧
      (d ≠ .z → t.slot.queue = ⟨s.slot.bank1.cause, .full⟩ :: s.slot.queue.take 15) :) ∧
    (reg = 0x011 → ((s.myCore.laneOps s.cur.2).isEmpty = true →
        exec (.sysr d reg) s = .next (advance (pushTo (consumed s []) d s.slot.fpStat) 4)) ∧
      ((s.myCore.laneOps s.cur.2).isEmpty = false →
        exec (.sysr d reg) s = .next (s.modSlot fun sl => { sl with stall := .held })) :) ∧
    (0x090 ≤ reg.toNat → reg.toNat ≤ 0x094 → ∃ t, exec (.sysr d reg) s = .next t ∧
      t.slot.stall = .links (s.cycle + 4096) (.read reg.toNat d) (s.slot.pc + 4) ∧ t.slot.pc = s.slot.pc ∧
      t.slot.queue = s.slot.queue ∧ sameMemory s t ∧ otherSlots s t ∧
      t.agenda = s.agenda ++ [⟨.linksRoleAnswer, { core := s.cur.1, slot := s.cur.2 }⟩] :) ∧
    (regAccess reg.toNat = none → exec (.sysr d reg) s = .next (takeTrap s
      { cause := .illegal, info := word (2 ^ 35 + 2 * 2 ^ 32 + ((encode (.sysr d reg)).getD 0 0 +
        2 ^ 16 * (encode (.sysr d reg)).getD 1 0)) }) :)

/-- `sysw` (R73, R380, R4): a value the register takes is written, its reserved bits ignored, and reads back; every other
register keeps its value, but that one of `ARR.LIMIT` may move arrivals and one of `JRNL.SEL` selects an entry; nothing is
pushed. `WIN.SPILL` takes its base and count from kernel code, and one of the links role is asked for (R268). A value it forbids traps ILLEGAL with the number and leaves it; a user's write of
a kernel register, and any write of a read-only one, traps PRIV with the number.
What it says on a point the manual leaves open is the model's choice: log entry 35. -/
def Obligations.SysWrite : Prop :=
  ∀ (s : State) (reg : BitVec 12) (a : Src) (v : Word), operandsGive s .z [⟨a, false⟩] [v] = true →
    (∀ m, ((reg.toNat, m) ∈ userWrites ∨ ((reg.toNat, m) ∈ kernelWrites ∧ s.slot.priv ≠ .user)) →
      (regAccepts s reg.toNat v = true →
        ∃ t, exec (.sysw reg a) s = .next t ∧ regValue t reg.toNat = v &&& m ∧ t.slot.pc = s.slot.pc + 4 ∧
          t.slot.queue = s.slot.queue ∧ t.slot.win = s.slot.win ∧ t.slot.vregs = s.slot.vregs ∧ sameMemory s t ∧
          otherSlots s t ∧ ∀ p ∈ sysValues s ++ kernelValues s ++ (if reg = 0x060 ∨ reg = 0x111 then [] else sysMore s),
            p.1 ≠ reg.toNat → regValue t p.1 = p.2) ∧
      (regAccepts s reg.toNat v = false →
        exec (.sysw reg a) s = .next (takeTrap s { cause := .illegal, info := word reg.toNat })) :) ∧
    (reg = 0x069 → s.slot.priv ≠ .user → ∀ x, x = v.toNat →
      (bitsOf x 2 0 = 0 → ∃ t, exec (.sysw reg a) s = .next t ∧ t.slot.spillBase = bitsOf x 16 0 ∧
        t.slot.spillCount = bitsOf x 39 32 ∧ t.slot.spillUsed = s.slot.spillUsed ∧ t.slot.pc = s.slot.pc + 4 ∧
        t.slot.queue = s.slot.queue ∧ t.slot.win = s.slot.win ∧ sameMemory s t ∧ otherSlots s t) ∧
      (bitsOf x 2 0 ≠ 0 → exec (.sysw reg a) s = .next (takeTrap s { cause := .illegal, info := 0x069 })) :) ∧
    (0x090 ≤ reg.toNat → reg.toNat ≤ 0x092 →
      (regAccepts s reg.toNat v = true → ∃ t, exec (.sysw reg a) s = .next t ∧
        t.slot.stall = .links (s.cycle + 4096) (.write reg.toNat v) (s.slot.pc + 4) ∧ t.slot.pc = s.slot.pc ∧
        t.slot.queue = s.slot.queue ∧ sameMemory s t ∧ otherSlots s t) ∧
      (regAccepts s reg.toNat v = false →
        exec (.sysw reg a) s = .next (takeTrap s { cause := .illegal, info := word reg.toNat })) :) ∧
    (s.slot.priv = .user → (reg = 0x069 ∨ reg = 0x080 ∨ ∃ m, (reg.toNat, m) ∈ kernelWrites) →
      exec (.sysw reg a) s = .next (takeTrap s { cause := .priv, info := word reg.toNat }) :) ∧
    (∀ n, n ∈ [0x000, 0x001, 0x002, 0x003, 0x004, 0x020, 0x030, 0x031, 0x032, 0x040, 0x050, 0x051, 0x052, 0x058, 0x059, 0x063,
        0x064, 0x070, 0x071, 0x072, 0x093, 0x094, 0x0A0, 0x0A1, 0x0A2, 0x0A3, 0x0B1, 0x0C0, 0x110, 0x112, 0x113, 0x114, 0x130] →
      reg.toNat = n →
      exec (.sysw reg a) s = .next (takeTrap s { cause := .priv, info := word n }) :)

/-! ### Vectors -/

/-- A vector instruction on registers that meets no enabled FP trap (R385, R69, R71, R94): the elements below the vector
length take the values the manual gives for the operation, under the mask; no other register, no scalar register and no byte
of memory changes; it enters the lane queue, and its flags reach `FP.STAT` at once where a trap is enabled and with its
completion otherwise.
What it says on a point the manual leaves open is the model's choice: log entries 37, 40. -/
def Obligations.VectorResult : Prop :=
  ∀ (i : Instr) (f : VecOp) (s : State), vecOp i = some f → s.vecReady f.reads f.mask (some f.vd) = true →
    (∀ n, n < f.count s.slot → s.slot.takes f.mask n = true → s.slot.traps (f.val s.slot n).2 = false) →
    ∃ t, exec i s = .next t ∧ vecFrame s t ∧
      vecWritten s.slot t.slot f.vd f.mask f.pairOut (f.count s.slot) (fun n => (f.val s.slot n).1) ∧
      (∀ r, r ≠ f.vd → t.slot.vreg r = s.slot.vreg r) ∧ t.slot.vl = s.slot.vl ∧
      (s.slot.fpTraps = true → t.slot.fpStat = s.slot.fpStat ||| word (f.flags s.slot) ∧ entersLanes s t 0 none) ∧
      (s.slot.fpTraps = false → t.slot.fpStat = s.slot.fpStat ∧ entersLanes s t (f.flags s.slot) none)

/-- What stops a vector instruction on registers (R386, R210, R94, R205, R234): a fault held by a register it reads traps
ACCESS or POISON, deferred, with the load's address and pc; no lanes, VCLAIM; a full lane queue makes it wait, and so does a
register to which a distant load is still to bring an element, with a place in the queue kept for it; and an element that raises an
enabled FP trap traps FP with nothing written, the flags in TRAP.INFO and the lowest such element in `FP.STAT` 15:8.
What it says on a point the manual leaves open is the model's choice: log entry 38. -/
def Obligations.VectorStops : Prop :=
  ∀ (i : Instr) (f : VecOp) (s : State) (m : VMask), vecOp i = some f → m = f.mask →
    (∀ r x, (f.reads ++ maskReads m (some f.vd)).head? = some r → s.slot.vfaults.getD r.val none = some x →
      exec i s = .next (takeTrap s { cause := if x.poison then .poison else .access, addr := x.addr, info := x.pc
                                     deferred := true }) :) ∧
    ((∀ r ∈ f.reads ++ maskReads m (some f.vd), s.slot.vfaults.getD r.val none = none) →
      (s.slot.vl = 0 → exec i s = .next (takeTrap s { cause := .vclaim })) ∧
      (s.slot.vl ≠ 0 → laneFull s = true → exec i s = .next (s.modSlot Slot.waits)) ∧
      (s.slot.vl ≠ 0 → laneFull s = false → vecAwaits s (f.reads ++ maskReads m (some f.vd)) = true →
        exec i s = .next ((keepLane s).modSlot Slot.waits)) ∧
      (∀ n, s.vecReady f.reads m (some f.vd) = true → s.slot.trapsAtOnce = true → n < f.count s.slot →
        s.slot.takes f.mask n = true →
        s.slot.traps (f.val s.slot n).2 = true →
        (∀ j, j < n → s.slot.takes f.mask j = true → s.slot.traps (f.val s.slot j).2 = false) →
        ∃ u, exec i s = .next (takeTrap u { cause := .fp, info := word (f.flags s.slot) }) ∧ onlySlot s u ∧
          u.slot = { s.slot with fpStat := u.slot.fpStat } ∧ bitsOf u.slot.fpStat.toNat 15 8 = n % 256 ∧
          bitsOf u.slot.fpStat.toNat 7 0 = (bitsOf s.slot.fpStat.toNat 7 0 ||| f.flags s.slot) % 256) :)

/-- Vector instructions with a scalar end (R390, R400, R106): `vbcast` writes its operand to the active elements; `vext`
pushes an element, sign- or zero-extended, and traps ILLEGAL with an index past the vector length; `vpopc` pushes how many
active elements have bit 0 set; integer `vred` pushes the sum, minimum, maximum, OR or AND of the active elements.
FP reductions (R106, R400): with `2 ^ k` elements below the vector length, inactive ones replaced by the identity, and no
FP trap enabled, the root of the pairwise tree is pushed; nothing but the queue, the pc, `FP.STAT` and the lane queue
changes.
What it says on a point the manual leaves open is the model's choice: log entries 37, 38. -/
def Obligations.VectorScalar : Prop :=
  (∀ (s : State),
    (∀ p d m a v, operandsGive s .z [a] [v] = true → s.vecReady [] m (some d) = true →
      ∃ t, exec (.vbcast p d m a) s = .next t ∧ vecFrame s t ∧ vecWritten s.slot t.slot d m (p == .d)
        (if p = .d then s.slot.vl / 2 else s.slot.vl) (fun _ => v.toNat) ∧ entersLanes s t 0 none :) ∧
    (∀ k r a n, operandsGive s .z [a] [n] = true → s.vecReady [r] ⟨0, false, false⟩ none = true →
      (n.toNat < (if k = .d then s.slot.vl / 2 else s.slot.vl) →
        ∃ t, exec (.vext k r a) s = .next t ∧ t.slot.pc = s.slot.pc + 4 ∧ t.slot.vregs = s.slot.vregs ∧
          t.slot.queue = ⟨match k with
            | .w => word (s.slot.velem r n.toNat)
            | .sw => extended 32 true (word (s.slot.velem r n.toNat))
            | .d => word (s.slot.vpair r n.toNat), .full⟩ :: s.slot.queue.take 15 ∧ sameMemory s t ∧ entersLanes s t 0 none) ∧
      ((if k = .d then s.slot.vl / 2 else s.slot.vl) ≤ n.toNat →
        exec (.vext k r a) s = .next (takeTrap s { cause := .illegal, info := n })) :) ∧
    (∀ r vm me m, m = (⟨vm, me, false⟩ : VMask) → s.vecReady [r] m none = true →
      ∃ t, exec (.vpopc r vm me) s = .next t ∧ t.slot.pc = s.slot.pc + 4 ∧ t.slot.vregs = s.slot.vregs ∧
        t.slot.queue = ⟨word ((List.range s.slot.vl).filter fun i => s.slot.takes m i && s.slot.velem r i % 2 == 1).length,
          .full⟩ :: s.slot.queue.take 15 ∧ sameMemory s t ∧ entersLanes s t 0 none :) ∧
    (∀ op r m xs, s.vecReady [r] m none = true → s.slot.vl ≤ 64 →
      xs = ((List.range s.slot.vl).filter (s.slot.takes m)).map (s.slot.velem r) →
      ∀ v : Word, ((op = .addI ∧ v = BitVec.ofInt 64 (xs.map signed32).sum) ∨
        (op = .minI ∧ v = BitVec.ofInt 64 ((xs.map signed32).foldr min 0x7FFFFFFF)) ∨
        (op = .maxI ∧ v = BitVec.ofInt 64 ((xs.map signed32).foldr max (-0x80000000))) ∨
        (op = .or ∧ v = word (xs.foldr (· ||| ·) 0)) ∨ (op = .and ∧ v = word (xs.foldr (· &&& ·) 0xFFFFFFFF))) →
      ∃ t, exec (.vred op r m) s = .next t ∧ t.slot.pc = s.slot.pc + 4 ∧ t.slot.vregs = s.slot.vregs ∧
        t.slot.queue = ⟨v, .full⟩ :: s.slot.queue.take 15 ∧ sameMemory s t ∧ entersLanes s t 0 none :) :) ∧
  (∀ (s : State) (op : VRedOp) (p : Prec) (ident : Nat) (f : FpEnv → Nat → Nat → Nat × Nat) (r : Fin 16) (m : VMask) (k : Nat),
    redFp op = some (p, ident, f) → s.vecReady [r] m none = true → s.slot.fpTraps = false → k ≤ 6 →
    (if p = .d then s.slot.vl / 2 else s.slot.vl) = 2 ^ k →
    ∃ t, exec (.vred op r m) s = .next t ∧ t.slot.pc = s.slot.pc + 4 ∧ t.slot.vregs = s.slot.vregs ∧
      t.slot.queue = ⟨word (treeNode (fun x y => (f s.slot.fpEnv x y).1)
        (fun i => if s.slot.takes m i then (if p = .d then s.slot.vpair r i else s.slot.velem r i) else ident) k 0), .full⟩ ::
          s.slot.queue.take 15 ∧
      sameMemory s t ∧ otherSlots s t ∧ entersLanes s t 0 none :)

/-- Vector loads (R396, R397, R386) whose active elements lie in SRAM at hand and unpoisoned, with no store of the core on
its way to them: each active element takes the bytes at its address, zero-extended, under the mask, memory is as it was, and
the transfer enters the lane queue. An element that fails a check traps with nothing loaded.
What it says on a point the manual leaves open is the model's choice: log entries 37, 40. -/
def Obligations.VectorLoad : Prop :=
  ∀ (s : State) (i : Instr) (z : Size) (d : Fin 16) (m : VMask) (a : SrcM) (b : Word) (reads : List (Fin 16))
    (addr : Nat → Word), s.slot.owed.any (·.lda) = false → operandsGive s .z [a] [b] = true →
    ((i = .vld z false d m a ∧ s.orphan = false ∧ reads = [] ∧ addr = fun n => b + word (n * 2 ^ storeLog z)) ∨
      (i = .vld z true d m a ∧ s.orphan = false ∧ reads = [] ∧ addr = fun n => b + word n * s.slot.vstride) ∨
      ∃ va, i = .vgather z d va m a ∧ reads = [va] ∧ addr = fun n => b + word (s.slot.velem va n)) →
    s.vecReady reads m (some d) = true →
    ∀ n l, n = 2 ^ storeLog z → l = vecElems s.slot (if z = .d then s.slot.vl / 2 else s.slot.vl) m addr →
    (s.ownElems .load n l = true → (l.all fun p => !poisoned s.poison (ownKey p.2) n && !journalOverlap s.myCore (ownKey p.2) n)
        = true →
      ∃ t, exec i s = .next t ∧ vecFrame s t ∧ vecWritten s.slot t.slot d m (z == .d)
          (if z = .d then s.slot.vl / 2 else s.slot.vl) (fun e => memNat s.mem (ownKey (addr e)) n) ∧
        entersLanes s t 0 (some (d.val, false))) ∧
    (∀ e rest t, l = (e, addr e) :: rest → loadElemPlace (consumed s [a]) n e (addr e) = .error t →
      exec i s = .next (takeTrap s t))

/-- Vector stores and `vatom` (R396, R397, R389, R386) whose active elements, those it has not
performed before a wait, lie in SRAM at hand: where no other active
element overlaps an element's bytes they hold its data, or for `vatom` the operation's result, and every byte outside all
elements is as it was; the transfer enters the lane queue and nothing else of the task changes.
What it says on a point the manual leaves open is the model's choice: log entries 39, 71. -/
def Obligations.VectorStore : Prop :=
  ∀ (s : State) (i : Instr) (n : Nat) (d : Fin 16) (m : VMask) (a : SrcM) (b : Word) (reads : List (Fin 16)) (pair : Bool)
    (kind : AccKind) (addr : Nat → Word) (data : Nat → Nat → Nat),
    Memory.wf s.mem = true → s.slot.owed.any (·.lda) = false → operandsGive s .z [a] [b] = true → s.slot.hypCur = 0 →
    ((∃ z, n = 2 ^ storeLog z ∧ pair = (z == .d) ∧ kind = .store ∧
        (data = fun e _ => (if z = .d then s.slot.vpair d e else s.slot.velem d e) % 2 ^ (8 * n)) ∧
        ((i = .vst z false d m a ∧ s.orphan = false ∧ reads = [] ∧ addr = fun e => b + word (e * n)) ∨
          (i = .vst z true d m a ∧ s.orphan = false ∧ reads = [] ∧ addr = fun e => b + word e * s.slot.vstride) ∨
          ∃ va, i = .vscatter z d va m a ∧ reads = [va] ∧ addr = fun e => b + word (s.slot.velem va e))) ∨
      (n = 4 ∧ pair = false ∧ kind = .atomic ∧ ∃ va op g, i = .vatom op d va m a ∧ reads = [va] ∧
        (addr = fun e => b + word (s.slot.velem va e)) ∧ (data = fun e old => g old (s.slot.velem d e)) ∧
        ((op = .add ∧ g = fun x y => (x + y) % 2 ^ 32) ∨ (op = .and ∧ g = fun x y => x &&& y) ∨
          (op = .or ∧ g = fun x y => x ||| y) ∨ (op = .xor ∧ g = fun x y => x ^^^ y) ∨
          (op = .min ∧ g = fun x y => if signed32 x ≤ signed32 y then x else y) ∨
          (op = .max ∧ g = fun x y => if signed32 x ≤ signed32 y then y else x) ∨
          (op = .minu ∧ g = fun x y => if x ≤ y then x else y) ∨ (op = .maxu ∧ g = fun x y => if x ≤ y then y else x)))) →
    s.vecReady (d :: reads) m none = true →
    ∀ l, l = (vecElems s.slot (if pair then s.slot.vl / 2 else s.slot.vl) m addr).drop s.slot.vdone → s.ownElems kind n l = true →
    (kind = .atomic → (l.all fun p => !poisoned s.poison (ownKey p.2) n) = true) →
    ∃ t, exec i s = .next t ∧ t.slot.pc = s.slot.pc + 4 ∧ sameButRegs s.slot { t.slot with vdone := s.slot.vdone } ∧
      t.slot.vdone = 0 ∧ t.slot.queue = s.slot.queue ∧
      t.slot.win = s.slot.win ∧ otherSlots s t ∧ entersLanes s t 0 (some (d.val, true)) ∧
      (∀ k, (∀ p ∈ l, k < ownKey p.2 ∨ ownKey p.2 + n ≤ k) → memGet t.mem k = memGet s.mem k) ∧
      ∀ e, (e, addr e) ∈ l → (∀ p ∈ l, p.1 ≠ e → ownKey p.2 + n ≤ ownKey (addr e) ∨ ownKey (addr e) + n ≤ ownKey p.2) →
        memNat t.mem (ownKey (addr e)) n = data e (memNat s.mem (ownKey (addr e)) n)

/-! ### Tongs and the Anvil -/

/-- `xgather`, `xscatter` and `xcopy` (R236-R240): the checks in their order, ILLEGAL for the tag, HYP_USE, MISALIGN, ACCESS,
POISON and ILLEGAL with the first dword that breaks a rule; once its release is done a core that holds 16 commands makes the
push wait, and else it holds the command, complete at once for a count of 0. `xpop`, `xtry` and `xstat` (R243-R245, R217): of
the earliest command with the tag, a completed one is popped and its word given, a faulted one traps ENGINE, and one still
running makes `xpop` wait and gives `xtry` 0; with no such command `xpop` traps EMPTY_READ and `xtry` gives 0.
What it says on a point the manual leaves open is the model's choice: log entry 45. -/
def Obligations.TongsCommands : Prop :=
  ∀ (s : State) (a b : SrcM),
    (∀ i kind va tag, s.slot.owed.any (·.lda) = false → operandsGive s .z [a, b] [va, tag] = true →
      ((i = .xgather a b ∧ kind = .gather) ∨ (i = .xscatter a b ∧ kind = .scatter) ∨ (i = .xcopy a b ∧ kind = .copy)) →
      (2 ^ 16 ≤ tag.toNat → exec i s = .next (takeTrap s { cause := .illegal, info := tag })) ∧
      (tag.toNat < 2 ^ 16 → s.slot.hypCur ≠ 0 →
        exec i s = .next (takeTrap s { cause := .hypUse, info := word s.slot.hypCur })) ∧
      (tag.toNat < 2 ^ 16 → s.slot.hypCur = 0 →
        (va.toNat % 8 ≠ 0 → exec i s = .next (takeTrap s { cause := .misalign, addr := va, info := 0 })) ∧
        (va.toNat % 8 = 0 → descriptorKey (consumed s [a, b]) va = none →
          exec i s = .next (takeTrap s { cause := .access, addr := va, info := 0 })) ∧
        (∀ key, va.toNat % 8 = 0 → descriptorKey (consumed s [a, b]) va = some key →
          (poisoned s.poison key 64 = true →
            exec i s = .next (takeTrap s { cause := .poison, addr := va, info := 0 })) ∧
          (∀ d, poisoned s.poison key 64 = false → d = ((List.range 8).map fun n => memWord s.mem (key + 8 * n)) →
            (∀ n, badDword kind (consumed s [a, b]).slot d = some n →
              exec i s = .next (takeTrap s { cause := .illegal, info := word n })) ∧
            (badDword kind (consumed s [a, b]).slot d = none → s.released = true → 16 ≤ s.myCore.commands.length →
              exec i s = .next (s.modSlot Slot.waits)) ∧
            (badDword kind (consumed s [a, b]).slot d = none → s.released = true → s.myCore.commands.length < 16 →
              ∃ t x, exec i s = .next t ∧ onlyPc s t 4 ∧ tget t.myCore.commands s.nextId = some x ∧ x.kind = kind ∧
                x.tag = tag.toNat ∧ x.desc = d ∧ x.slot = s.cur.2 ∧ x.launch = s.slot.launch ∧ x.done = 0 ∧
                x.fault = none ∧ (x.complete = true ↔ bitsOf (d.getD 1 0).toNat 23 0 = 0))))) :) ∧
    (∀ d tag, operandsGive s d [a] [tag] = true →
      (2 ^ 16 ≤ tag.toNat → exec (.xstat d a) s = .next (takeTrap s { cause := .illegal }) ∧
        ∀ i, i = .xpop d a ∨ i = .xtry d a → exec i s = .next (takeTrap s { cause := .illegal, info := tag })) ∧
      (tag.toNat < 2 ^ 16 →
        (∀ mine, mine = (s.myCore.commands.filter fun p => p.2.slot == s.cur.2 && !p.2.orphaned) →
          exec (.xstat d a) s = .next (advance (pushTo (consumed s [a]) d (word (s.myCore.commands.length * 2 ^ 24 +
            mine.length * 2 ^ 16 + (mine.filter fun p => p.2.tag == tag.toNat && p.2.complete).length * 2 ^ 8 +
            (mine.filter fun p => p.2.tag == tag.toNat && !p.2.complete).length))) 4)) ∧
        (earliest s.myCore s.cur.2 tag.toNat = none →
          exec (.xpop d a) s = .next (takeTrap s { cause := .emptyRead, info := word (srcCode a.src) }) ∧
          exec (.xtry d a) s = .next (advance (pushTo (consumed s [a]) d 0) 4)) ∧
        (∀ id x, earliest s.myCore s.cur.2 tag.toNat = some (id, x) →
          (x.complete = false → exec (.xpop d a) s = .next (s.modSlot Slot.waits) ∧
            exec (.xtry d a) s = .next (advance (pushTo (consumed s [a]) d 0) 4)) ∧
          (∀ code ad i, x.complete = true → x.fault = some (code, ad) → i = .xpop d a ∨ i = .xtry d a →
            exec i s = .next (takeTrap s { cause := .engine, addr := ad
                                           info := word (code * 2 ^ 56 + x.tag * 2 ^ 32 + x.done) })) ∧
          (∀ w, x.complete = true → x.fault = none →
            w = word (2 ^ 63 + (match x.kind with | .gather => 0 | .scatter => 1 | .copy => 2) * 2 ^ 60 + x.done * 2 ^ 32 + x.tag) →
            (∃ t, exec (.xpop d a) s = .next t ∧ t.slot.pc = s.slot.pc + 4 ∧ sameMemory s t ∧ otherSlots s t ∧
              t.slot.owed = s.slot.owed ++ [{ id := s.nextId, kind := .value w, holds := true }] ∧
              tget t.myCore.commands id = none) ∧
            ∃ t, exec (.xtry d a) s = .next t ∧ t.slot.pc = s.slot.pc + 4 ∧ sameMemory s t ∧ otherSlots s t ∧
              (d ≠ .z → t.slot.queue = ⟨w, .full⟩ :: s.slot.queue.take 15) ∧ tget t.myCore.commands id = none))) :)

/-- `aring` defines or undefines a ring from its descriptor, which the unit that holds it may refuse, `aadv` fills slots of it once
its checks and then its release are done, and `aadv.stat` gives its free and unread slots and its head, each taken by the port
(R226, R312, R317, R207); a ring number above 15 traps ILLEGAL with it, a ring that is not defined or a count that does not fit
RING with its number. A taken or earlier operation makes them wait at the port. `await` goes on once no vector or Anvil operation of the task is under way, and waits before that
(R319).
What it says on a point the manual leaves open is the model's choice: log entries 41, 44. -/
def Obligations.AnvilRings : Prop :=
  ∀ (s : State),
    (∀ a b r n, s.slot.owed.any (·.lda) = false → operandsGive s .z [a, b] [r, n] = true →
      (16 ≤ r.toNat → exec (.aadv a b) s = .next (takeTrap s { cause := .illegal, info := r }) ∧
        exec (.aring a b) s = .next (takeTrap s { cause := .illegal, info := r })) ∧
      (r.toNat < 16 → s.portOpen = true →
        (s.ring? s.myHearth r.toNat = none → exec (.aadv a b) s = .next (takeTrap s { cause := .ring, info := r })) ∧
        (∀ x, s.ring? s.myHearth r.toNat = some x →
          (n = 0 ∨ x.free < n.toNat → exec (.aadv a b) s = .next (takeTrap s { cause := .ring, info := r })) ∧
          (n ≠ 0 → n.toNat ≤ x.free → s.released = false → s.myCore.journal.any (fun j => j.mine s.cur.2 && j.refused) = false →
            ∃ t, exec (.aadv a b) s = .next t ∧ t.slot = { s.slot.waits with atPort := true } ∧ sameMemory s t ∧
              natMem t.myCore.port s.cur.2 = true) ∧
          (n ≠ 0 → n.toNat ≤ x.free → s.released = true → ∃ t, exec (.aadv a b) s = .next t ∧ accepted s t 1 ∧ sameMemory s t ∧
            t.slot.queue = s.slot.queue ∧
            t.ring? s.myHearth r.toNat = some { x with tail := (x.tail + n.toNat) % 2 ^ 32 } ∧
            ∀ j, j ≠ r.toNat → t.ring? s.myHearth j = s.ring? s.myHearth j))) ∧
      (r.toNat < 16 → s.portOpen = false → ∃ t, exec (.aadv a b) s = .next t ∧
        t.slot = { s.slot.waits with atPort := true } ∧ sameMemory s t ∧ natMem t.myCore.port s.cur.2 = true) :) ∧
    (∀ d a r x, s.slot.owed.any (·.lda) = false → operandsGive s d [a] [r] = true → r.toNat < 16 → s.portOpen = true →
      s.ring? s.myHearth r.toNat = some x →
      ∃ t, exec (.aadvStat d a) s = .next t ∧ accepted s t 1 ∧ sameMemory s t ∧
        (d ≠ .z → t.slot.queue = ⟨word ((x.slots - (x.tail + 2 ^ 32 - x.head) % 2 ^ 32) * 2 ^ 48 +
          (x.tail + 2 ^ 32 - x.read) % 2 ^ 32 * 2 ^ 32 + x.head), .full⟩ :: s.slot.queue.take 15) ∧
        ∀ j, t.ring? s.myHearth j = s.ring? s.myHearth j :) ∧
    (∀ a b r va p, s.slot.owed.any (·.lda) = false → operandsGive s .z [a, b] [r, va] = true → r.toNat < 16 →
      (va.toNat % 32 ≠ 0 → exec (.aring a b) s = .next (takeTrap s { cause := .misalign, addr := va, info := 0 })) ∧
      (va.toNat % 32 = 0 → locate s .load 32 va 0 = .ok p → p.windowed = false → unitAnswer s 32 p = .refuses →
        exec (.aring a b) s = .next (takeTrap s { cause := .access, addr := va, info := 0 })) ∧
      (va.toNat % 32 = 0 → s.portOpen = true → locate s .load 32 va 0 = .ok p → p.windowed = false →
        p.peer = none → unitAnswer s 32 p = .serves → stackReady (touchKey s p.key) p.key = true →
          hostLacks s false [p] = none → s.settledAt p.key 32 = true →
        poisoned s.poison p.key 32 = false → s.checksHold p.key 32 = true → (s.slot.hypCur = 0 ∨ p.cached = false) →
        (s.hearth s.myHearth).held.rings.length = 16 →
        ((s.hearth s.myHearth).ops.any fun o => natMem o.rings r.toNat) = false →
        ∀ d, d = ((List.range 4).map fun n => memWord s.mem (p.key + 8 * n)) →
        (∀ t, checkRing s r.toNat d = .error t → exec (.aring a b) s = .next (takeTrap s t)) ∧
        (∀ x, checkRing s r.toNat d = .ok x → ∃ t, exec (.aring a b) s = .next t ∧ accepted s t 1 ∧ sameMemory s t ∧
          t.slot.queue = s.slot.queue ∧ t.ring? s.myHearth r.toNat = x ∧
          ∀ j, j ≠ r.toNat → t.ring? s.myHearth j = s.ring? s.myHearth j)) :) ∧
    (((s.myCore.laneOps s.cur.2).isEmpty = true ∧
        ((s.hearth s.myHearth).ops.any fun o => o.core == s.cur.1 && o.slot == s.cur.2 && !o.ended) = false →
        exec .await s = .next (advance s 4)) ∧
      ((s.myCore.laneOps s.cur.2).isEmpty = false ∨
        ((s.hearth s.myHearth).ops.any fun o => o.core == s.cur.1 && o.slot == s.cur.2 && !o.ended) = true →
        exec .await s = .next (s.modSlot Slot.waits)) :)

/-- The Anvil's tiles (R314, R315, R228-R230): `azero` zeroes a tile, or the pair of an FP64 tile; `ald` fills it from SRAM at
hand, row by row, FP16 and BF16 elements widened; `ast` stores it there, rounded to the format, and changes no other byte; `amm`
updates it from the slots its rings read next, and pops the rings named; a ring that is not defined at its start traps RING. Each is taken by the port and leaves every other tile;
a tile the core does not own traps TILE with its number, and an enabled FP exception of `ast` or `amm` traps FP with nothing
written.
What it says on a point the manual leaves open is the model's choice: log entries 41, 42, 43. -/
def Obligations.AnvilTiles : Prop :=
  ∀ (s : State), s.slot.owed.any (·.lda) = false → s.portOpen = true → s.tiles.length = 16 →
    (∀ (acc : Fin 16) (single : Bool) fmt, fmt = (if single then 1 else 0) →
      (s.tilesReady acc.val fmt = true → ∃ t, exec (.azero acc single) s = .next t ∧ accepted s t 1 ∧ sameMemory s t ∧
        (∀ i, natMem (fmtTiles acc.val fmt) i = true → i < 16 → tileHolds t i fun _ => 0) ∧
        otherTiles s t (fmtTiles acc.val fmt)) ∧
      (ownsTile s s.slot.launch s.cur.1 acc.val = false →
        exec (.azero acc single) s = .next (takeTrap s { cause := .tile, info := word acc.val })) :) ∧
    (∀ (acc : Fin 16) a va (fmt : Fin 4) h u off key, operandsGive s .z [a] [va] = true → va.toNat % 64 = 0 →
      s.ownTile .load va (4 * fmtBytes fmt.val) h u off = true → key = sramKey h u off →
      (∀ n, n < 4 * fmtBytes fmt.val → poisoned s.poison (key + 64 * n) 64 = false ∧ s.settledAt (key + 64 * n) 64 = true) →
      s.tilesReady acc.val fmt.val = true →
      (fmt.val = 0 → acc.val % 2 = 0) →
      ∃ t, exec (.ald acc a fmt) s = .next t ∧ accepted s t 1 ∧ sameMemory s t ∧
        tileHolds t acc.val (fun n => (widen fmt.val (memNat s.mem (key + fmtBytes fmt.val * n) (fmtBytes fmt.val))).1) ∧
        (fmt.val = 0 → tileHolds t (acc.val + 1) fun n => memNat s.mem (key + 8 * n) 8 / 2 ^ 32) ∧
        otherTiles s t (fmtTiles acc.val fmt.val) :) ∧
    (∀ (acc : Fin 16) a va (fmt : Fin 4) r h u off key el, Memory.wf s.mem = true → operandsGive s .z [a] [va] = true →
      s.slot.hypCur = 0 → va.toNat % 64 = 0 → s.ownTile .store va (4 * fmtBytes fmt.val) h u off = true →
      key = sramKey h u off → (∀ n, n < 4 * fmtBytes fmt.val → s.settledAt (key + 64 * n) 64 = true) →
      s.tilesReady acc.val fmt.val = true → s.slot.trapsAtOnce = true →
      el = (fun n => narrowTo fmt.val (s.slot.fpEnv.with r)
        (if fmt.val = 0 then pairElem s.tiles acc.val n else tileElem s.tiles acc.val n)) →
      ((∀ n, n < 256 → s.slot.traps (el n).2 = false) →
        ∃ t, exec (.ast acc a fmt r) s = .next t ∧ accepted s t 1 ∧ sameMemoryBut s t key (256 * fmtBytes fmt.val) ∧
          (∀ n, n < 256 → memNat t.mem (key + fmtBytes fmt.val * n) (fmtBytes fmt.val) =
            (el n).1 % 2 ^ (8 * fmtBytes fmt.val)) ∧ otherTiles s t []) ∧
      (∀ n, n < 256 → s.slot.traps (el n).2 = true → ∃ t u, exec (.ast acc a fmt r) s = .next (takeTrap u t) ∧
        t.cause = .fp ∧ sameMemory s u) :) ∧
    (∀ (acc ra rb : Fin 16) (mode : BitVec 4) zp pop, ammWaits s acc.val mode.toNat ra.val rb.val s.slot.fpTraps = none →
      s.ring? s.myHearth ra.val = none → exec (.amm acc ra rb mode zp pop) s =
        .next (takeTrap s { cause := .ring, info := word ra.val }) :) ∧
    (∀ (acc ra rb : Fin 16) (mode : BitVec 4) zp pop x y el, s.ring? s.myHearth ra.val = some x →
      s.ring? s.myHearth rb.val = some y → x.mode = mode.toNat → y.mode = mode.toNat →
      (4 ≤ mode.toNat → x.group = y.group) → ownsTile s s.slot.launch s.cur.1 acc.val = true →
      (mode = 0 → ownsTile s s.slot.launch s.cur.1 (acc.val + 1) = true) →
      ammWaits s acc.val mode.toNat ra.val rb.val s.slot.fpTraps = none → s.slot.trapsAtOnce = true →
      el = ammElems s.mem s.tiles s.slot.fpEnv (s.slot.fmtMode.getLsbD 0) zp acc.val x y →
      ((∀ e ∈ el, s.slot.traps e.2 = false) → ra ≠ rb →
        ∃ t, exec (.amm acc ra rb mode zp pop) s = .next t ∧ accepted s t Config.ammLatency ∧ sameMemory s t ∧
          tileHolds t acc.val (fun n => (el.getD n (0, 0)).1) ∧
          (mode = 0 → acc.val % 2 = 0 → tileHolds t (acc.val + 1) fun n => (el.getD n (0, 0)).1 / 2 ^ 32) ∧
          otherTiles s t (if mode = 0 then [acc.val, acc.val + 1] else [acc.val]) ∧
          t.ring? s.myHearth ra.val = some (if pop.getLsbD 0 then { x with read := (x.read + 1) % 2 ^ 32 } else x) ∧
          t.ring? s.myHearth rb.val = some (if pop.getLsbD 1 then { y with read := (y.read + 1) % 2 ^ 32 } else y)) ∧
      (∀ e ∈ el, s.slot.traps e.2 = true → ∃ t u, exec (.amm acc ra rb mode zp pop) s = .next (takeTrap u t) ∧
        t.cause = .fp ∧ sameMemory s u ∧ u.tiles = s.tiles ∧ u.ring? s.myHearth ra.val = some x) :)

/-! ### Events -/

/-- Events that stand for accesses to system registers. A read of `TRAP.CAUSE` in kernel mode marks the handler (R212);
`JRNL.SEL` with release frees the selected entry if it is refused (R118); a write of `LSPLIT` between tasks moves the border
and the bytes that change sides read 0, and with a task in a slot, or above 8, it changes nothing (R113); a held read of
`FP.STAT` gives it once no vector instruction of the task is under way (R94).
An invalidation completes once no access that used a translation is under way: the task goes on, and every core and hearth
has lost the entries the operation removes and kept the others (R125, R382).
What it says on a point the manual leaves open is the model's choice: log entries 15, 34. -/
def Obligations.RegisterEvents : Prop :=
  (∀ (s : State) (c k : Nat), s.ev.core = c → s.ev.slot = k →
    (∀ h, (s.slotAt c k).held = true → (s.slotAt c k).priv ≠ .user → (s.slotAt c k).shadow = some h →
      ∃ t, exec .trapCauseRead s = .next t ∧ onlySlotAt s t c k ∧
        t.slotAt c k = { s.slotAt c k with shadow := some { h with causeRead := true } } :) ∧
    (∀ i j, (s.core c).journalSel = i → (s.core c).journal.getD i {} = j →
      ∃ t, exec .jrnlRelease s = .next t ∧ onlyCore s t c ∧
        { t.core c with journal := (s.core c).journal } = s.core c ∧
        (t.core c).journal.getD i {} = (if j.used && j.refused then {} else j) ∧
        ∀ n, n ≠ i → (t.core c).journal.getD n {} = (s.core c).journal.getD n {} :) ∧
    (∀ old, (s.core c).lsplit = old → s.ev.n ≤ 8 → (s.core c).busy = false → Memory.wf s.mem = true →
      ∃ t, exec .lsplitWrite s = .next t ∧ (t.core c).lsplit = s.ev.n ∧ ∀ a, memGet t.mem a =
        (if scratchKey c (min (splitBytes old) (splitBytes s.ev.n)) ≤ a ∧
            a < scratchKey c (max (splitBytes old) (splitBytes s.ev.n)) then 0 else memGet s.mem a) :) ∧
    (8 < s.ev.n ∨ (s.core c).busy = true → exec .lsplitWrite s = .next s :) ∧
    (∀ d u, u = { s with cur := (c, k) } → u.slot.held = true → u.slot.stall = .held →
      nextInstr u = some (.sysr d 0x011) → u.myCore.laneOps k = [] → operandsGive u d [] [] = true →
      exec .fpStatRead s = .next { advance (pushTo u d u.slot.fpStat) 4 with cur := s.cur } :) :) ∧
  (∀ (s : State) (c k : Nat) (op : TlbiOp) (next : Word), s.ev.core = c → s.ev.slot = k →
    (s.slotAt c k).stall = .tlbi op next →
    (s.translating = true → exec .tlbiComplete s = .next s) ∧
    (s.translating = false → (s.slotAt c k).goesOn = true →
      ∃ t, exec .tlbiComplete s = .next t ∧ (t.slotAt c k).pc = next ∧ (t.slotAt c k).stall = .none ∧ sameMemory s t ∧
        (∀ x e, e ∈ (t.core x).tlb ↔ e ∈ (s.core x).tlb ∧ ¬removes op e) ∧
        ∀ h e, e ∈ (t.hearth h).tlb ↔ e ∈ (s.hearth h).tlb ∧ ¬removes op e) :)

/-- A remote access at its holder (R115, R116): a unit that does not hold state of the launch, or a fenced hearth, refuses it for
protection, one whose SRAM ends before it as a bad address, and a read of a poisoned granule is refused for poison; else it
is performed there, through its window or under its tag (R102, R250), and its answer is kept for the core, put into the vector
register, or given to the Tongs command. One whose memory sleeps wakes it and stays (R284), one of host memory asks the host first
(R255), and a cached one whose line is not at hand stays.
The old value of a distant atomic ends its stall and is written to its destination, and its refusal is a precise trap there
(R318, R115).
An owed value lands in every entry and register that awaits its producer and in no other (R62), as the value, as the die's
time, or full-faulted where the access was refused (R115).
A posted store's acknowledgement frees its journal entry (R116), and a load that waited behind it alone leaves: its value is
formed (R119). Its refusal keeps the entry, marked with the reason, and raises POSTED with the address, the entry and the reason
in the storing task, or for it on its core once it has ended (R118, R211).
The watchdog's expiry marks a task that is neither in kernel mode nor in wrap-up (R29, R212, R181). A pending cause is taken
at the boundary, in the order WATCHDOG, POSTED, SEND_REFUSED, one at a time, and a cause of a task that has ended takes the
core's next free slot as a kernel trap context at the vector of its launch (R211, R214); a task that a quench will divert takes none (R223).
What it says on a point the manual leaves open is the model's choice: log entries 11, 12, 20, 27. -/
def Obligations.AccessEvents : Prop :=
  (∀ (s : State) (id : Nat) (r : Remote), s.ev.id = id → tget s.remotes id = some r → r.stage = .sent → r.peer = none →
    r.parts = [] → accessBefore s id r = false → s.checksHold r.key r.size = true →
    (∀ q, r.tag = none → hostNeed s r = some q →
      exec .remoteAccessAtTarget s = .next (askHost s ((r.key - hostKey 0) / 64) q) :) ∧
    (r.tag = none → keyUnit r.key = none → hostNeed s r = none → stackReady (touchKey s r.key) r.key = false →
      exec .remoteAccessAtTarget s = .next (touchKey s r.key) :) ∧
    (r.window = none → r.tag = none → hostNeed s r = none → s.roused r.key = true →
      (keyUnit r.key = none → stackReady (touchKey s r.key) r.key = true) →
      (∀ h u off why, keyUnit r.key = some (h, u, off) → r.kind.kept = true →
        (why = 1 ∧ ((s.hearth h).fenced = true ∨ unitHolds s h u (fun l => s.asidOf l == r.asid) = false)) ∨
          (why = 2 ∧ (s.hearth h).fenced = false ∧ unitHolds s h u (fun l => s.asidOf l == r.asid) = true ∧
            trueLimit s h u < off + r.size) →
        ∃ t, exec .remoteAccessAtTarget s = .next t ∧ s.butFor t r.key ∧
          t.remotes = tset s.remotes id { r with stage := .refused why }) ∧
      ((∀ h u off, keyUnit r.key = some (h, u, off) → (s.hearth h).fenced = false ∧
          unitHolds s h u (fun l => s.asidOf l == r.asid) = true ∧ off + r.size ≤ trueLimit s h u) →
        (r.kind = .load → poisoned s.poison r.key r.size = true →
          ∃ t, exec .remoteAccessAtTarget s = .next t ∧ s.butFor t r.key ∧
            t.remotes = tset s.remotes id { r with stage := .refused 3 }) ∧
        (r.kind = .load → poisoned s.poison r.key r.size = false →
          ∃ t, exec .remoteAccessAtTarget s = .next t ∧ s.butFor t r.key ∧
            t.remotes = tset s.remotes id { r with stage := .answered (word (memNat s.mem r.key r.size)) }) ∧
        (∀ e, r.kind = .store e → Memory.wf s.mem = true →
          ∃ t, exec .remoteAccessAtTarget s = .next t ∧ memNat t.mem r.key r.size = r.data.toNat % 2 ^ (8 * r.size) ∧
            sameMemoryBut s t r.key r.size ∧ t.cores = s.cores ∧
            t.remotes = tset s.remotes id { r with stage := .answered 0 }) ∧
        (∀ op cas ord x y, r.kind = .atomic op cas ord x y → Memory.wf s.mem = true →
          poisoned s.poison r.key r.size = false →
          ∃ t, exec .remoteAccessAtTarget s = .next t ∧ sameMemoryBut s t r.key r.size ∧ t.cores = s.cores ∧
            (∀ v, atomResult op cas r.size (memNat s.mem r.key r.size) x.toNat y.toNat = some v →
              memNat t.mem r.key r.size = v % 2 ^ (8 * r.size)) ∧
            (atomResult op cas r.size (memNat s.mem r.key r.size) x.toNat y.toNat = none → t.mem = s.mem) ∧
            t.remotes = tset s.remotes id { r with stage := .answered (word (memNat s.mem r.key r.size)) }) ∧
        (∀ reg e sl, r.kind = .vload reg e → r.ended = false → s.slotAt r.core r.slot = sl → r.size = 4 →
          poisoned s.poison r.key 4 = false → sl.vfaults.getD reg none = none → e < (sl.vregs.getD reg []).length →
          ∃ t, exec .remoteAccessAtTarget s = .next t ∧ sameMemory s t ∧ t.remotes = tdel s.remotes id ∧
            ((t.slotAt r.core r.slot).vregs.getD reg []) =
              (sl.vregs.getD reg []).set e (BitVec.ofNat 32 (memNat s.mem r.key 4))) ∧
        (∀ cmd part x, r.kind = .tongs cmd part → tget (s.core r.core).commands cmd = some x →
          poisoned s.poison r.key r.size = false →
          ∃ t, exec .remoteAccessAtTarget s = .next t ∧ sameMemory s t ∧ t.remotes = tdel s.remotes id ∧
            tget (t.core r.core).commands cmd =
              some { x with reply := tset x.reply part (leBytes (memNat s.mem r.key r.size) r.size, 0) })) :) ∧
    (∀ w ext h u off, r.kind = .load → r.window = some (w, ext) → r.tag = none → keyUnit r.key = some (h, u, off) →
      s.roused r.key = true → (s.hearth h).fenced = false → unitHolds s h u (fun l => s.asidOf l == r.asid) = true →
      ∀ first n, first = elemRecord w.toNat (off / 4) → n = recordBytes (winFormat w.toNat) (winGroup w.toNat) (winBx w.toNat) →
      first + n ≤ trueLimit s h u →
      (poisoned s.poison (sramKey h u first) n = true →
        ∃ t, exec .remoteAccessAtTarget s = .next t ∧ s.butFor t r.key ∧
          t.remotes = tset s.remotes id { r with stage := .refused 3 }) ∧
      (poisoned s.poison (sramKey h u first) n = false →
        ∃ t, exec .remoteAccessAtTarget s = .next t ∧ s.butFor t r.key ∧ t.remotes = tset s.remotes id
          { r with stage := .answered (word (windowElem s.mem (sramKey h u 0) w.toNat (off / 4) ext)) }) :) ∧
    (∀ h, r.tag = some h → r.window = none → keyUnit r.key = none →
      (remoteReady s r = false → ∃ t, exec .remoteAccessAtTarget s = .next t ∧ t.remotes = s.remotes ∧ sameMemory s t) ∧
      (remoteReady s r = true → r.kind = .load → poisonedUnder s h r.key r.size = false →
        ∃ t, exec .remoteAccessAtTarget s = .next t ∧ sameMemory s t ∧
          t.remotes = tset s.remotes id { r with stage := .answered (word (natUnder s h r.key r.size)) }) ∧
      (remoteReady s r = true → r.kind = .line none → s.follow h = 0 → Memory.wf s.mem = true →
        ∃ t, exec .remoteAccessAtTarget s = .next t ∧ memNat t.mem r.key r.size = r.data.toNat % 2 ^ (8 * r.size) ∧
          sameMemoryBut s t r.key r.size ∧ t.remotes = tdel s.remotes id) :) :) ∧
  (∀ (s : State) (c k id : Nat) (d : Dst) (next : Word) (r : Remote), s.ev.core = c → s.ev.slot = k →
    (s.slotAt c k).stall = .atomic id d next → tget s.remotes id = some r →
    (∀ old v, r.stage = .answered old → (s.slotAt c k).goesOn = true → v = word (old.toNat % 2 ^ (8 * r.size)) →
      ∃ t, exec .atomicOldValueReturn s = .next t ∧ { t with cores := s.cores, remotes := s.remotes } = s ∧
        t.remotes = tdel s.remotes id ∧
        t.slotAt c k = { (s.slotAt c k).write d (Reg.of v) with pc := next, entry := false, stall := .none }) ∧
    (∀ why, r.stage = .refused why → (s.slotAt c k).shadow = none → (s.slotAt c k).roomy = true →
      exec .atomicOldValueReturn s = .next (takeTrapAt { s with remotes := tdel s.remotes id } c k
        { cause := if why = 3 then .poison else .access, addr := r.addr, info := kindInfo .atomic 0 })) :) ∧
  (∀ (s : State) (c k id : Nat) (o : Owed) (v : Reg), s.ev.core = c → s.ev.slot = k → s.ev.id = id →
    (s.slotAt c k).owed.find? (fun x => x.id == id) = some o → LandsAs s c k o v →
    ∃ t, exec .valueLands s = .next t ∧ { t with cores := s.cores, remotes := s.remotes } = s ∧
      t.core c = (s.core c).setSlot k (t.slotAt c k) ∧ (t.slotAt c k).queue = (s.slotAt c k).queue.map (filled id v) ∧
      (t.slotAt c k).win.act = (s.slotAt c k).win.act.map (filled id v) ∧
      (t.slotAt c k).composer = (s.slotAt c k).composer.map (filled id v) ∧
      (t.slotAt c k).owed = (s.slotAt c k).owed.filter (fun x => x.id != id) ∧
      (t.slotAt c k).pc = (s.slotAt c k).pc ∧ (t.slotAt c k).stall = (s.slotAt c k).stall :) ∧
  (∀ (s : State) (c e id : Nat) (r : Remote) (j : JEntry), s.ev.core = c → s.ev.id = e →
    entryRemote s c e = some (id, r) → (s.core c).journal.getD e {} = j →
    (∀ w, r.stage = .answered w → s.behindJournal c = false →
      ∃ t, exec .postedStoreAck s = .next t ∧ t.remotes = tdel s.remotes id ∧ sameMemory s t ∧
        (t.core c).journal.getD e {} = {} ∧ (∀ n, n ≠ e → (t.core c).journal.getD n {} = (s.core c).journal.getD n {}) ∧
        ∀ x, x ≠ c → t.core x = s.core x :) ∧
    (∀ w k pid f va h u off next key n, r.stage = .answered w → k < 4 →
      (s.slotAt c k).stall = .overlap pid f va (.sram h u off) next → (s.setSlotAt c k {}).behindJournal c = false →
      (s.slotAt c k).goesOn = true → isLocalUnit c h u = true → key = sramKey h u off → n = (loadWidth f).1 →
      poisoned s.poison key n = false →
      journalOverlap { s.core c with journal := padSet {} (s.core c).journal e {} } key n = false →
      ∃ t, exec .postedStoreAck s = .next t ∧ sameMemory s t ∧ (t.slotAt c k).pc = next ∧ (t.slotAt c k).stall = .none ∧
        (t.slotAt c k).owed = (s.slotAt c k).owed.map fun x : Owed => if x.id = pid then
          { x with kind := .value (extended (8 * n) (loadWidth f).2 (word (memNat s.mem key n))), holds := false } else x :) ∧
    (∀ why, r.stage = .refused why → s.behindJournal c = false →
      ∃ t, exec .postedStoreRefused s = .next t ∧ t.remotes = tdel s.remotes id ∧ sameMemory s t ∧
        (t.core c).journal.getD e {} = { j with refused := true, reason := why } ∧
        (∀ n, n ≠ e → (t.core c).journal.getD n {} = (s.core c).journal.getD n {}) ∧ (∀ x, x ≠ c → t.core x = s.core x) ∧
        (j.ended = false → (t.slotAt c j.slot).pendPosted =
          (s.slotAt c j.slot).pendPosted ++ [(j.addr, word (e + 256 * why))]) ∧
        (j.ended = true → (t.core c).endedTraps =
          (s.core c).endedTraps ++ [(0x0B, j.addr, word (e + 256 * why), j.launch)]) :) :) ∧
  (∀ (s : State) (c k : Nat) (sl : Slot), s.ev.core = c → s.ev.slot = k → s.slotAt c k = sl →
    (sl.held = true → sl.stopped = false → sl.wdog = 0 →
      (sl.wrapup = false → sl.shadow = none →
        exec .watchdogExpiry s = .next (s.setSlotAt c k { sl with pendWatchdog := true })) ∧
      (sl.wrapup = true ∨ sl.shadow.isSome = true → exec .watchdogExpiry s = .next s) :) ∧
    (sl.held = true → sl.stopped = false → sl.stall = .none → sl.shadow = none → sl.roomy = true →
      s.quenched sl.launch = false ∨ sl.wrapup = true → ∀ tr sl',
      (sl.pendWatchdog = true ∧ tr = { cause := .watchdog, info := word sl.cls, async := true } ∧
          sl' = { sl with pendWatchdog := false }) ∨
        (sl.pendWatchdog = false ∧ ∃ a i rest, sl.pendPosted = (a, i) :: rest ∧
          tr = { cause := .posted, addr := a, info := i, async := true } ∧ sl' = { sl with pendPosted := rest }) ∨
        (sl.pendWatchdog = false ∧ sl.pendPosted = [] ∧ ∃ a i rest, sl.pendRefused = (a, i) :: rest ∧
          tr = { cause := .sendRefused, addr := a, info := i, async := true } ∧ sl' = { sl with pendRefused := rest }) →
      exec .asyncTrapTaken s = .next (takeTrapAt (s.setSlotAt c k sl') c k tr) :) ∧
    (∀ code addr info l rest n, (s.core c).endedTraps = (code, addr, info, l) :: rest → freeSlot (s.core c) = some n →
      s.up (c / 8) = true → ((s.core c).resident = some l → (s.slotAt c n).launch = l) →
      ∀ v, v = (match if (s.core c).resident = some l then none else tget (s.core c).saved l with
        | some x => (x.traps.getD n (0, 0)).1
        | none => (s.slotAt c n).trapVec) →
      ∃ t, exec .endedTaskTrapContext s = .next t ∧ onlyCore s t c ∧ (t.core c).endedTraps = rest ∧
        (t.slotAt c n).held = true ∧ (t.slotAt c n).priv = .kernel ∧ (t.slotAt c n).launch = l ∧
        (t.slotAt c n).pc = v ∧ (t.slotAt c n).entry = true ∧
        (t.slotAt c n).bank1 = { cause := word (code + 0x300), epc := 0, addr := addr, info := info } ∧
        ∀ x, x ≠ n → t.slotAt c x = s.slotAt c x :) :)

/-- A message at its core (R36, R45, R202): it enters the hardware queue when the ring is empty and the limit leaves room, else
the tail of the ring, else it is refused; one whose header check fails, whose length is no message's, or whose launch has no
state there is discarded, counted and logged, and one of a launch that has been quenched or has ended is discarded and counted.
A message that comes behind a later source's of its cycle, or to a hearth that idles, waits (R45, R284). Priority rises by one
for each 2^16 cycles of waiting (R47).
At the sender (R36, R46, R48, R49): a first refusal is retried 16 cycles later, the gap of each later one doubling to 512, and
the first refusal 4,096 cycles or more after the first gives the message up, discarded, counted and raised as SEND_REFUSED; an
acceptance ends the transit, frees the place of a spawn and ends a task that migrates, or marks one in a handler for its `tret`; a
`migrate` that is given up learns it in its slot (R49). A refused message of a quenched launch is
discarded and counted only (R176).
A dispatch (R47, R27, R41, R42, R169, R371): the message leaves the queue and its task starts in the lowest free slot at the
class entry, with the destination and the object's address in n0 and n1, the payload in s0 and the state of R27; a dead letter
is counted and starts class 255; a message of a refuted tag is dropped and counted; with no free slot, or an exclusive object
busy, it stays. A wrap-up task owed takes the next free slot first (R179).
What it says on a point the manual leaves open is the model's choice: log entries 22, 47, 48, 76. -/
def Obligations.MessageEvents : Prop :=
  (∀ (s : State) (id : Nat), s.ev.id = id →
    (∀ (c : Nat) (tr : Transit) (m : Msg) (x : Launch), tget s.transits id = some tr → tr.arriving s.cycle = true →
        (∀ a b n, tr.sender ≠ .peer a b n) → tr.dest = c → tr.msg = m → s.launch? m.launch = some x →
      tooLate s c id tr = false → s.up (c / 8) = true →
      ((m.checked = false ∨ 10 ≤ m.len ∨ hasState s c m.launch = false ∨ (s.hearth (c / 8)).fenced = true) →
        ∃ t y r, exec .messageArrival s = .next t ∧ sameMemory s t ∧ s.arrived t c id tr ∧
          t.transits = tset s.transits id { tr with leg := .accepted } ∧ t.launch? m.launch = some y ∧
          y.discarded = x.discarded + 1 ∧ t.ras = s.ras ++ [r] ∧ r.kind = 11 ∧ r.launch = some m.launch) ∧
      (m.checked = true → m.len < 10 → hasState s c m.launch = true → (s.hearth (c / 8)).fenced = false →
        ((x.quenched = true ∨ x.status ≠ 0) →
          ∃ t y, exec .messageArrival s = .next t ∧ sameMemory s t ∧ s.arrived t c id tr ∧
            t.transits = tset s.transits id { tr with leg := .accepted } ∧ t.launch? m.launch = some y ∧
            y.discarded = x.discarded + 1 ∧ t.ras = s.ras) ∧
        (x.quenched = false → x.status = 0 → ∀ k, k = { s.core c with lastArrival := (s.cycle + 1, sourceKey tr, id) } →
          k.resident = some m.launch →
          (k.ring = [] → k.hwq.length < k.arrLimit →
            ∃ t, exec .messageArrival s = .next t ∧ sameMemory s t ∧ t.launches = s.launches ∧
              t.transits = tset s.transits id { tr with leg := .accepted, arrival := some s.nextId } ∧
              (t.hearth (c / 8)).clockGated = false ∧
              t.core c = { k with hwq := k.hwq ++ [{ msg := m, arrival := s.nextId, since := s.cycle }] } ∧
              ∀ i, i ≠ c → t.core i = s.core i) ∧
          (k.arrLimit ≤ k.hwq.length → k.ring.length < k.ovfSize → Memory.wf s.mem = true → ∀ a,
            a = scratchKey c (k.ovfBase + 96 * ((k.ringHead + k.ring.length) % k.ovfSize)) →
            ∃ t, exec .messageArrival s = .next t ∧ t.launches = s.launches ∧
              t.transits = tset s.transits id { tr with leg := .accepted, arrival := some s.nextId } ∧
              memBytes t.mem a 96 = ringBytes m ∧ sameMemoryBut s t a 96 ∧
              t.core c = { k with ring := k.ring ++ [(s.nextId, s.cycle, 0)] }) ∧
          (k.arrLimit ≤ k.hwq.length → k.ovfSize ≤ k.ring.length →
            ∃ t, exec .messageArrival s = .next t ∧ sameMemory s t ∧ t.launches = s.launches ∧ t.core c = k ∧
              t.transits = tset s.transits id { tr with leg := .refused }))) :) ∧
    (∀ tr, tget s.transits id = some tr → tr.arriving s.cycle = true →
      (tooLate s tr.dest id tr = true →
        exec .messageArrival s = .next { s with transits := tset s.transits id { tr with leg := .next (s.cycle + 1) } }) ∧
      (tooLate s tr.dest id tr = false → exitNs s (tr.dest / 8) ≠ 0 →
        ∃ t, exec .messageArrival s = .next t ∧ t.cores = s.cores ∧ sameMemory s t ∧ t.launches = s.launches ∧
          (t.hearth (tr.dest / 8)).clockGated = false ∧ (t.hearth (tr.dest / 8)).powerGated = false ∧
          (t.hearth (tr.dest / 8)).wakeAt = s.ptp + exitNs s (tr.dest / 8) ∧
          t.transits = tset s.transits id { tr with leg := .next (s.cycle + 1) }) :) ∧
    (∀ q, (s.core s.ev.core).hwq = [q] → q.arrival = id → q.since + 2 ^ 16 * (q.aged + 1) ≤ s.cycle →
      ∃ t, exec .priorityAging s = .next t ∧ onlyCore s t s.ev.core ∧
        (t.core s.ev.core).hwq = [{ q with aged := q.aged + 1 }] :) :) ∧
  (∀ (s : State) (id : Nat) (tr : Transit) (m : Msg) (x : Launch), s.ev.id = id → tget s.transits id = some tr →
    tr.msg = m → s.launch? m.launch = some x →
    (tr.leg = .refused → (x.quenched = true ∨ x.status ≠ 0) → ∀ a b, tr.sender = .task a b →
      ∃ t y, exec .refusalReceived s = .next t ∧ t.cores = s.cores ∧ sameMemory s t ∧
        t.transits = tdel s.transits id ∧ t.launch? m.launch = some y ∧ y.discarded = x.discarded + 1 :) ∧
    (tr.leg = .refused → x.quenched = false → x.status = 0 →
      (∀ first, first = tr.firstRefusal.getD s.cycle → s.cycle < first + 4096 →
        exec .refusalReceived s = .next { s with transits := tset s.transits id { tr with
          firstRefusal := some first, refusals := tr.refusals + 1
          leg := .waiting (s.cycle + min 512 (2 ^ (tr.refusals + 4))) } }) ∧
      (∀ first a b, tr.firstRefusal = some first → first + 4096 ≤ s.cycle → tr.sender = .task a b →
        ∃ t y, exec .refusalReceived s = .next t ∧ sameMemory s t ∧ t.transits = tdel s.transits id ∧
          t.launch? m.launch = some y ∧ y.discarded = x.discarded + 1 ∧
          (tr.orphaned = false → (t.slotAt a b).pendRefused = (s.slotAt a b).pendRefused ++ [(m.dest, m.hi)]) ∧
          (tr.orphaned = true → (t.core a).endedTraps = (s.core a).endedTraps ++ [(0x12, m.dest, m.hi, m.launch)])) ∧
      (∀ first a b, tr.firstRefusal = some first → first + 4096 ≤ s.cycle → tr.sender = .migrate a b →
        (s.slotAt a b).migrating = some id → ∃ t, exec .refusalReceived s = .next t ∧ sameMemory s t ∧
          t.transits = tdel s.transits id ∧
          t.slotAt a b = { s.slotAt a b with migrateEnd := some (some (m.dest, m.hi)) }) :) ∧
    (∀ due, tr.leg = .waiting due →
      (s.cycle < due → exec .retryTimer s = .next s) ∧
      (due ≤ s.cycle → s.thisDevice (bitsOf m.lo.toNat 63 58) = true →
        ∃ t, exec .retryTimer s = .next t ∧ { t with transits := s.transits, agenda := s.agenda } = s ∧
          t.transits = tset s.transits id { tr with leg := .flying } ∧
          t.agenda = s.agenda ++ [⟨.messageArrival, { id := id }⟩]) :) ∧
    (tr.leg = .accepted →
      ((∃ a b, tr.sender = .task a b) → exec .acceptanceReceived s = .next { s with transits := tdel s.transits id }) ∧
      (∀ a b, tr.sender = .spawn a b → ∃ t, exec .acceptanceReceived s = .next t ∧ t.transits = tdel s.transits id ∧
        onlyCore { s with transits := tdel s.transits id } t a ∧ t.core a = { s.core a with spawns := (s.core a).spawns - 1 }) ∧
      (∀ a b, tr.sender = .migrate a b → (s.slotAt a b).migrating = some id →
        ((s.slotAt a b).shadow = none →
          ∃ t, exec .acceptanceReceived s = .next t ∧ sameMemory s t ∧ t.slotAt a b = (s.slotAt a b).freed) ∧
        ((s.slotAt a b).shadow.isSome = true →
          ∃ t, exec .acceptanceReceived s = .next t ∧ sameMemory s t ∧
            t.slotAt a b = { ((s.slotAt a b).read (s.slotAt a b).migrateSrc).2 with migrateEnd := some none })) :) :) ∧
  (∀ (s : State) (c l : Nat) (k : Core) (x : Launch), s.ev.core = c → s.core c = k → s.launch? l = some x →
    s.up (c / 8) = true →
    (∀ q m n, mayDispatch s c = true → k.hwq = [q] → k.ring = [] → q.msg = m → m.launch = l → freeSlot k = some n →
      boundChan k m.cls = none → s.refuted (s.follow m.tag) = false →
      (∀ e obj, isDead s c m false = false → m.len ≠ 9 → m.top = s.topBit l → e = s.classOf l m.cls →
        e.excl = false ∨ m.slot = 0xFFFF →
        obj = (if m.slot = 0xFFFF then 0 else word (scratchKey c (objectEntry s c l m.slot).2.2)) →
        ∃ t sl, exec .messageDispatch s = .next t ∧ sameMemory s t ∧ (t.core c).hwq = [] ∧ t.slotAt c n = sl ∧
          (∀ i, i ≠ n → t.slotAt c i = s.slotAt c i) ∧ sl.held = true ∧ sl.launch = l ∧ sl.cls = m.cls ∧
          sl.pc = e.entry ∧ sl.entry = true ∧ sl.priv = .user ∧ sl.payload = m.words ∧ sl.wdog = e.cycles ∧
          sl.queue = List.replicate 16 (Reg.of 0) ∧ sl.vl = 0 ∧ sl.fpStat = 0 ∧ sl.vstride = 0 ∧ sl.shadow = none ∧
          sl.fpCtrl = word (bitsOf (x.lr.getD 28 0).toNat 7 0) ∧ sl.gbeta = word (bitsOf (x.lr.getD 28 0).toNat 63 32) ∧
          sl.fmtMode = word (bitsOf (x.lr.getD 0 0).toNat 4 4) ∧
          sl.hypCur = (if e.inherit then s.follow m.tag else 0) ∧ sl.msgHdr = m.hi ∧
          sl.msgSrc = word (m.srcDev * 2 ^ 13 + m.srcCore) ∧ sl.named 0 = Reg.of m.dest ∧ sl.named 1 = Reg.of obj ∧
          (∀ i, 2 ≤ i → i < 8 → sl.named i = Reg.of 0) ∧ ∀ i, 8 ≤ i → i < 32 → sl.named i = Reg.fresh) ∧
      (isDead s c m false = true →
        ∃ t y, exec .messageDispatch s = .next t ∧ sameMemory s t ∧ (t.core c).hwq = [] ∧
          (t.core c).deadCount = k.deadCount + 1 ∧ t.launch? l = some y ∧ y.dead = x.dead + 1 ∧
          ((s.classOf l 255).present = true → (t.slotAt c n).held = true ∧ (t.slotAt c n).cls = 255 ∧
            (t.slotAt c n).pc = (s.classOf l 255).entry ∧ (t.slotAt c n).payload = m.words) ∧
          ((s.classOf l 255).present = false → t.slotAt c n = s.slotAt c n ∧ y.discarded = x.discarded + 1)) :) ∧
    (∀ q n, mayDispatch s c = true → k.hwq = [q] → k.ring = [] → q.msg.launch = l → freeSlot k = some n →
      boundChan k q.msg.cls = none → s.refuted (s.follow q.msg.tag) = true → exclusiveRuns s c l q.msg.slot = false →
      ∃ t y, exec .messageDispatch s = .next t ∧ sameMemory s t ∧ (t.core c).hwq = [] ∧ t.launch? l = some y ∧
        y.orphans = x.orphans + 1 ∧ ∀ i, t.slotAt c i = s.slotAt c i :) ∧
    (∀ q, mayDispatch s c = true → k.hwq = [q] → boundChan k q.msg.cls = none →
      freeSlot k = none ∨ (isDead s c q.msg false = false ∧ (s.classOf q.msg.launch q.msg.cls).excl = true ∧
        q.msg.slot ≠ 0xFFFF ∧ exclusiveRuns s c q.msg.launch q.msg.slot = true) →
      exec .messageDispatch s = .next s :) ∧
    (∀ n, k.wrapupOwed = true → k.resident = some l → gangReady s l = true → freeSlot k = some n →
      ∃ t sl, exec .messageDispatch s = .next t ∧ onlyCore s t c ∧ (t.core c).wrapupOwed = false ∧ t.slotAt c n = sl ∧
        (∀ i, i ≠ n → t.slotAt c i = s.slotAt c i) ∧ sl.held = true ∧ sl.wrapup = true ∧ sl.launch = l ∧
        sl.pc = (s.classOf l (s.qclass l)).entry ∧ sl.entry = true ∧ sl.quenchCause = x.quench.getD 0 ∧
        sl.quenchLeft = s.qbudget l ∧ sl.wdog = s.qbudget l ∧ sl.named 0 = Reg.of (word (coreHandle c)) ∧
        ∀ i, 1 ≤ i → i < 8 → sl.named i = Reg.of 0 :) :)

/-- Host queues (R189-R195): a submission write raises the latched index and never lowers it; a queue that runs executes the
packets below it in order, each moving the consumer past itself; a malformed packet stops the queue with its code, which the
descriptor, a RAS record and a notice give, and leaves the consumer; disabling and enabling, and a restart of scheduler
firmware, do what R190 and R193 say. What a packet needs that lies in host memory and is not held is asked for first (R255). After
each, the part looks at what the queue has next.
A launch record that is submitted (R51, R192, R197): one that breaks a rule ends REJECTED, its completion record written and
nothing started; one that passes takes the next free launch id in cyclic order, or the fixed id it asks for, and waits in its
class queue; with no id free it waits for one.
Launches (R51, R175, R183, R197, R200, R201): the first queued launch that has a placement starts on its cores, or reserves
them for a gang, which starts once all have room; a read or a write of the start that faults rejects it; a quiescent launch
has its end fixed as COMPLETE and a quenched one whose wrap-up is done as QUENCHED, its live tags refuted on the Beat network,
and after the delivery its record is written and its cores forget it. A deadline quenches with cause 1 and a launch not yet
placed never starts.
Ranges (R56, R200): a core that has a free slot and no tile takes from the low end of its die's range, a quarter of an equal
share and at least one; a tile starts a task with its coordinates in n0 to n3 and its index in n4; a die that has run dry takes
the upper half of the largest range that is left, and the slice of a lower class on a core that now has tiles to take ends (R203).
What it says on a point the manual leaves open is the model's choice: log entries 52, 53, 54, 55, 73. -/
def Obligations.LaunchEvents : Prop :=
  (∀ (s : State) (q : Nat) (x : Queue), s.ev.queue = q → s.queue q = x → Memory.wf s.mem = true →
    (s.ev.bytes.length = 8 → q < 4096 → exec .submissionWrite s = .next (lookNext
      { s with queues := tset s.queues q { x with latched := max x.latched (leNat s.ev.bytes) } } q) :) ∧
    (s.ev.bytes.length ≠ 8 → exec .submissionWrite s = .next s :) ∧
    (q < 4096 → s.ev.n % 2 = 0 → s.ev.n < 2 ^ 64 → ∃ t, exec .queueDisable s = .next t ∧ (t.queue q).enabled = false ∧
      (t.queue q).latched = x.latched ∧ queueDword t q 0 = s.ev.n ∧ sameMemoryBut s t (s.queueKeyOf q) 8 ∧
      ∀ i, i ≠ q → t.queue i = s.queue i :) ∧
    (q < 4096 → s.ev.n % 2 = 1 → s.ev.n < 2 ^ 64 → x.enabled = false → ∃ t, exec .queueEnable s = .next (lookNext t q) ∧
      t.queue q = { x with enabled := true, stopped := false, indirect := none, shadow := List.replicate 32 0 } ∧
      queueDword t q 0 = s.ev.n ∧ queueDword t q 3 = 0 ∧
      queueDword t q 2 = min (queueConsumer s q) x.latched % 2 ^ 64 ∧
      sameMemoryBut s t (s.queueKeyOf q) 32 :) ∧
    (s.ev.flag = true → s.restarting = false →
      exec .schedulerFirmwareRestart s = .next { s with restarting := true, restartBy := s.ptp + 1000000 } :) ∧
    (s.ev.flag = false → exec .schedulerFirmwareRestart s =
      .next ((tkeys s.queues).foldl lookNext { s with restarting := false }) :) ∧
    (∀ k i, queueRuns s q = true → nextPacket s q = .error (.away k) →
      i = .packetNop ∨ i = .packetDispatch ∨ i = .packetStop ∨ i = .packetIndirect ∨ i = .packetStatus →
      exec i s = .next (summon s k) :) ∧
    (∀ k p, queueRuns s q = true → nextPacket s q = .ok p → p.type = 1 → packetAway s q p = some k →
      exec .packetDispatch s = .next (summon s k) :) ∧
    (∀ code i, queueRuns s q = true → nextPacket s q = .error (.malformed code) → code < 256 →
      i = .packetNop ∨ i = .packetDispatch ∨ i = .packetStop ∨ i = .packetIndirect ∨ i = .packetStatus →
      ∃ t r, exec i s = .next t ∧ (t.queue q).stopped = true ∧ queueDword t q 3 = code * 2 ^ 56 ∧
        sameMemoryBut s t (s.queueKeyOf q + 24) 8 ∧ t.ras = s.ras ++ [r] ∧ r.kind = 15 ∧
        t.notices = s.notices ++ [.rasInterrupt, .queueStop q code] ∧ t.launches = s.launches :) ∧
    (∀ p, queueRuns s q = true → nextPacket s q = .ok p → x.indirect = none →
      let past := fun (t : State) (n : Nat) => queueDword t q 2 = (queueConsumer s q + n) % 2 ^ 64 ∧
        sameMemoryBut s t (s.queueKeyOf q + 16) 8 ∧ t.launches = s.launches
      (p.type = 0 → ∃ t, exec .packetNop s = .next (lookNext t q) ∧ past t (1 + p.body.length) ∧ t.queues = s.queues) ∧
      (p.type = 1 → packetAway s q p = none → ∃ t, past t (1 + p.body.length) ∧ (t.queue q).shadow = p.fields x.shadow ∧
        exec .packetDispatch s =
          .next (lookNext (submitLaunch t q (queueAsid s q) (queueCeiling s q) (p.fields x.shadow)) q)) ∧
      (p.type = 2 → ∀ l, s.launches.find? (fun y => y.2.queue == q && y.2.lr.getD 29 0 == p.body.getD 0 0) = some l →
        ∃ t, past t 2 ∧ t.queues = s.queues ∧ exec .packetStop s = .next (lookNext (quenchLaunch t l.1 3) q)) ∧
      (p.type = 3 → exec .packetIndirect s = .next (lookNext (s.modQueue q fun y =>
        { y with indirect := some (p.body.getD 0 0, 8 * (p.body.getD 1 0).toNat, 0) }) q)) ∧
      (p.type = 4 → ∀ l, s.launches.find? (fun y => y.2.lr.getD 29 0 == p.body.getD 0 0) = some l →
        peerPage (pastPacket s q 3) (queueAsid s q) (p.body.getD 1 0).toNat = none →
        ∃ t, past t 3 ∧ t.queues = s.queues ∧ exec .packetStatus s = .next (lookNext
          ((partWrite t (queueAsid s q) (p.body.getD 1 0).toNat
            (leBytes (launchCode l.2 + (if l.2.converged then 16 else 0) + 256 * l.1) 8 ++
              leBytes (l.2.lastSample % 2 ^ 64) 8)).getD t) q)) :) :) ∧
  (∀ (s : State) (q asid ceiling : Nat) (lr : List Word) (t : State), t = submitLaunch s q asid ceiling lr →
    (recordOk { s with accepted := s.accepted + 1 } asid ceiling lr = false →
      t = writeRecord { s with accepted := s.accepted + 1 } asid none (lr.getD 29 0) [5, 0, 0, 0, 0, s.ptp, 0, 0] :) ∧
    (recordOk { s with accepted := s.accepted + 1 } asid ceiling lr = true →
      (∀ id, fixId lr = none → nextLaunchId s 256 (s.lastId + 1) = some id →
        ∃ x, t.launch? id = some x ∧ x.lr = lr ∧ x.queue = q ∧ x.state = .queued ∧ t.lastId = id ∧ sameMemory s t) ∧
      (∀ id, fixId lr = some id → s.launch? id = none →
        ∃ x, t.launch? id = some x ∧ x.lr = lr ∧ x.queue = q ∧ x.state = .queued ∧ t.lastId = s.lastId ∧ sameMemory s t) ∧
      (∀ id x, fixId lr = some id → s.launch? id = some x →
        t = writeRecord { s with accepted := s.accepted + 1 } asid none (lr.getD 29 0) [5, 0, 0, 0, 0, s.ptp, 0, 0]) ∧
      (fixId lr = none → nextLaunchId s 256 (s.lastId + 1) = none →
        ∃ x, x.lr = lr ∧ x.queue = q ∧ sameMemory s t ∧ t = releaseGangs
          { s with accepted := s.accepted + 1, backlog := s.backlog ++ [x] } (bitsOf (lr.getD 1 0).toNat 2 0)) :) :) ∧
  (∀ (s : State) (l : Nat) (x : Launch), s.launch? l = some x →
    (∀ rest cores, s.boot = .running → queuedLaunches s = (l, x) :: rest → heldBack s l x = false → placement s x = some cores →
      (bitsOf (x.lr.getD 0 0).toNat 0 0 = 0 → startFaults (unreserve s cores) x.lr = true →
        exec .launchPlace s = .next ((endLaunch (unreserve s cores) l 5).poke ⟨.launchPlace, {}⟩)) ∧
      (bitsOf (x.lr.getD 0 0).toNat 0 0 = 0 → startFaults (unreserve s cores) x.lr = false →
        ∃ t y, exec .launchPlace s = .next t ∧ t.launch? l = some y ∧ y.state = .running ∧ y.cores = cores ∧ y.lr = x.lr ∧
          ∀ c, c ∈ cores → l ∈ (t.core c).assigned) ∧
      (bitsOf (x.lr.getD 0 0).toNat 0 0 = 1 →
        ∃ t y, exec .launchPlace s = .next t ∧ t.launch? l = some y ∧ y.state = .reserving ∧ y.gangCores = cores ∧
          sameMemory s t ∧ ∀ c, c ∈ cores → (t.core c).reserved = some l) :) ∧
    (s.ev.launch = l →
      (x.state = .reserving → (∀ c, c ∈ x.gangCores → (s.core c).assigned.length < Config.maxAssigned ∧
          (s.hearth (c / 8)).fenced = false ∧ s.heatParked.getD (dieOf c) false = false) →
        startFaults (unreserve s x.gangCores) x.lr = false →
        ∃ t y, exec .gangCommit s = .next t ∧ t.launch? l = some y ∧ y.state = .running ∧ y.cores = x.gangCores ∧
          ∀ c, c ∈ x.gangCores → l ∈ (t.core c).assigned) ∧
      (∀ status i, x.endFixed = false → x.status = 0 →
        (i = .launchQuiescent ∧ status = 1 ∧ x.state = .running ∧ bitsOf (x.lr.getD 0 0).toNat 5 5 = 0 ∧ x.late = false ∧
            x.quenched = false ∧ quiescent s l x = true) ∨
          (i = .launchEndQuenched ∧ status = 2 ∧ x.quenched = true ∧ wrapupDone s l x = true ∧
            x.cut.inProgress = false ∧ storesDone s l = true) →
        ∃ t y a, exec i s = .next t ∧ { t with launches := s.launches, beats := s.beats, agenda := s.agenda } = s ∧
          t.launch? l = some y ∧ y.endFixed = true ∧ y.status = status ∧
          y.refutedAt = some (Config.beatDelivery (s.cycle / 8)) ∧ t.beats = s.beats ++ [a] ∧
          a.kind = .refuteAll l ∧ a.window = s.cycle / 8) ∧
      (∀ at_, x.refutedAt = some at_ → x.status ≠ 0 → at_ < s.cycle →
        (s.beats.any fun a => a.kind == .refuteAll l) = false → anyTask s l = false → storesDone s l = true →
          x.cut.inProgress = false → s.backlog = [] →
        ∃ t, exec .completionRecordWrite s = .next t ∧
          sameMemory (writeRecord s (s.asidOf l) (some l) (x.lr.getD 29 0)
            [x.status, x.flags % 32, x.dead, x.discarded, x.orphans, s.ptp, 0, 0]) t ∧
          (∀ c, l ∉ (t.core c).assigned ∧ (t.core c).resident ≠ some l) ∧ t.launch? l = none ∧
          .launchEnd l x.status ∈ t.notices) ∧
      (l < 256 → x.lr.getD 16 0 ≠ 0 → fireTime x.lr ≤ s.ptp →
        (x.state = .running → x.endFixed = false → x.status = 0 → x.quench = none →
          ∃ t y a, exec .deadlineFire s = .next t ∧ onlyLaunch { s with beats := s.beats ++ [a] } t l ∧
            a.kind = .quench l 1 ∧ a.window = s.cycle / 8 ∧ t.launch? l = some y ∧ y = { x with quench := some 1 }) ∧
        (x.state = .queued → exec .deadlineFire s =
          .next (endLaunch (clearFlags { s with launches := tset s.launches l { x with quench := some 1 } } l) l 2))) :) :) ∧
  (∀ (s : State) (c d l : Nat) (x : Launch), s.ev.core = c → s.launch? l = some x → s.up (c / 8) = true →
    (∀ lo hi n, mayDispatch s c = true → (s.core c).resident = some l → (s.core c).tiles = [] →
      (freeSlot (s.core c)).isSome = true → x.ranges.getD (dieOf c) (0, 0) = (lo, hi) → lo < hi → dieOf c < 4 →
      n = max 1 (ceilDiv (hi - lo) (4 * (x.cores.filter fun i => dieOf i == dieOf c).length)) →
      ∃ t y, exec .rangeHandout s = .next t ∧ sameMemory s t ∧ (t.core c).tiles = (List.range n).map (lo + ·) ∧
        t.launch? l = some y ∧ y.ranges = x.ranges.set (dieOf c) (lo + n, hi) ∧ otherSlots s t :) ∧
    (∀ i rest n, mayDispatch s c = true → (s.core c).resident = some l → (s.core c).tiles = i :: rest →
      freeSlot (s.core c) = some n →
      ∃ t sl, exec .rangeTaskStart s = .next t ∧ onlyCore s t c ∧ (t.core c).tiles = rest ∧ t.slotAt c n = sl ∧
        (∀ j, j ≠ n → t.slotAt c j = s.slotAt c j) ∧ sl.held = true ∧ sl.start = .range ∧ sl.launch = l ∧
        sl.pc = (s.classOf l (bitsOf (x.lr.getD 8 0).toNat 7 0)).entry ∧ sl.entry = true ∧ sl.payload = [] ∧
        sl.hypCur = 0 ∧ (∀ j, j < 4 → sl.named j = Reg.of (word ((tileCoords x.tileCounts i).getD j 0))) ∧
        sl.named 4 = Reg.of (word i) ∧ ∀ j, 5 ≤ j → j < 8 → sl.named j = Reg.of 0 :) ∧
    (∀ v lo hi, s.ev.launch = l → s.ev.die = d → d < 4 → (x.cores.filter fun i => dieOf i == d) ≠ [] →
      (x.ranges.getD d (0, 0)).2 ≤ (x.ranges.getD d (0, 0)).1 →
      (largestRange x.ranges).1 = v → x.ranges.getD v (0, 0) = (lo, hi) → 2 ≤ hi - lo → x.quenched = false → x.status = 0 →
      ∃ t y, exec .rangeSteal s = .next t ∧ { t with launches := s.launches, cores := s.cores, agenda := s.agenda } = s ∧
        (∀ j, j ≠ l → t.launch? j = s.launch? j) ∧
        t.launch? l = some y ∧ y.ranges = (x.ranges.set v (lo, hi - (hi - lo) / 2)).set d (hi - (hi - lo) / 2, hi) ∧
        ∀ j, { t.core j with sliceEnded := (s.core j).sliceEnded } = s.core j ∧
          (j ∈ x.cores → dieOf j = d → j ∈ sliceCores s j → ∀ r, (s.core j).resident = some r → s.prioOf r < s.prioOf l → r ≠ l →
            (t.core j).sliceEnded = true) :) :)

/-- Contexts on a core (R201, R203, R204, R219-R222): a slice that has run out, or 256 idle cycles, end the slice, a gang's on all its
cores; the save waits until no task holds a slot, drains Tongs for at most the allowance, writes both copies of each chunk and
takes the context away with the scratchpad, after which the scratchpad reads 0; a gang's contexts are saved together, once each
may be; a core whose hearth no other launch waits for goes on, and so does one whose save could not be written twice; a restore
brings the launch chosen by R203 back with the registers and the scratchpad that the copies in the memory give; where both copies of a granule fail, RESTORE is raised with the granule's address, and the launch, or for a holder's
state every launch of its ASID on the hearth, ends FAULTED.
Beat deliveries (R16): in the delivery cycle of a window the announcements in it are applied in the order of their cores, those
of one core as it made them; one announcement does what R137, R162, R164, R154 and R176 say, and its word is written once, that
of an `hopen` one cycle after the delivery and that of a resolution eight (R355, R356). A launch that is quiescent at Q ends by
that (R175).
Diversion (R177, R178) keeps a task's registers and starts it at the wrap-up class with the budget and the cause of the Quench; a
wrap-up task whose budget has run out at a boundary ends (R181). A convergence sample is taken once, in each cycle that is a
multiple of 256: the launch has
converged when nothing is in flight and every core is quiet, and that may quench it with cause 2 (R152, R153). A swept tag loses
its versions and the lines of its L1s, and is free once nothing names it (R160). A cut copies a core's region at its copy point and ends by writing its
number (R155, R156). A released generation is delivered to a barrier's members (R17).
What it says on a point the manual leaves open is the model's choice: log entries 1, 32, 49, 50, 56, 57, 58. -/
def Obligations.ContextEvents : Prop :=
  (∀ (s : State) (c l : Nat) (k : Core), s.ev.core = c → s.core c = k →
    (∀ i, k.resident = some l → k.sliceEnded = false →
      (i = .sliceExpiry ∧ k.sliceLeft = 0) ∨ (i = .sliceIdleEnd ∧ 256 ≤ k.idle) →
      (bitsOf (s.lr l 0).toNat 0 0 = 0 →
        ∃ t, exec i s = .next t ∧ onlyCore s t c ∧ t.core c = { k with sliceEnded := true } ∧
          t.agenda = s.agenda ++ [⟨.contextSave, { core := c }⟩]) ∧
      (∀ x, s.launch? l = some x → bitsOf (x.lr.getD 0 0).toNat 0 0 = 1 →
        ∃ t, exec i s = .next t ∧ { t with cores := s.cores, agenda := s.agenda } = s ∧
          ∀ j, { t.core j with sliceEnded := (s.core j).sliceEnded } = s.core j ∧
            (j ∈ x.cores → (s.core j).resident = some l → (t.core j).sliceEnded = true)) :) ∧
    (k.resident = some l → k.sliceEnded = true → maySave s c l = true → bitsOf (s.lr l 0).toNat 0 0 = 0 →
      let alone := k.assigned.all (· == l) && !hearthWanted s (c / 8) (s.asidOf l)
      (alone = true →
        ∃ t, exec .contextSave s = .next t ∧ onlyCore s t c ∧ (t.core c).resident = some l ∧
          (t.core c).sliceEnded = false ∧ (t.core c).slots = k.slots) ∧
      (alone = false → s.ev.flag = false → k.commands = [] → Memory.wf s.mem = true →
        ∃ t x, exec .contextSave s = .next t ∧ (t.core c).resident = none ∧ (t.core c).slots = [] ∧
          tget (t.core c).saved l = some x ∧ x.asid = k.residentAsid ∧ x.seq = k.saveSeq + 1 ∧ x.hwq = k.hwq ∧
          x.ring = k.ring ∧ x.tiles = k.tiles ∧ x.fmtWin = k.fmtWin ∧
          x.cvg = (k.cvgMax, k.cvgCount, k.cvgQuiet, k.cvgThresh, k.cvgWindow) ∧ x.chunkMap = s.chunkMap 0 ∧
          (∀ o, o < splitBytes k.lsplit → (tget x.scratch o).getD 0 = memGet s.mem (scratchKey c o)) ∧
          (∀ o, o < Config.coreSram → memGet t.mem (scratchKey c o) = 0) ∧
          (∀ a, a < scratchKey c 0 ∨ scratchKey c Config.coreSram ≤ a →
            memGet t.mem a = memGet (writeContext s c l x).mem a ∧
            ((∀ j n, j < saveChunks x.length →
                n = (copyPlaces (x.chunkMap.getD j 0)).1 ∨ n = (copyPlaces (x.chunkMap.getD j 0)).2 →
                a < saveKey s (dieOf c) (areaOf s c l) j n ∨ saveKey s (dieOf c) (areaOf s c l) j n + blockBytes ≤ a) →
              memGet t.mem a = memGet s.mem a))) ∧
      (alone = false → s.ev.flag = true → k.commands = [] →
        ∃ t, exec .contextSave s = .next t ∧ onlyCore s t c ∧ (t.core c).resident = some l ∧
          (t.core c).sliceEnded = false ∧ (t.core c).slots = k.slots) ∧
      (alone = false → k.commands ≠ [] → k.draining = none →
        ∃ t, exec .contextSave s = .next t ∧ onlyCore s t c ∧ t.core c = { k with draining := some s.cycle }) :) ∧
    (∀ y, s.launch? l = some y → bitsOf (y.lr.getD 0 0).toNat 0 0 = 1 → k.resident = some l → k.sliceEnded = true →
      maySave s c l = true → k.commands = [] → goesOn s c l = false →
      ((∃ j, j ∈ y.cores ∧ savable s j l = false) → exec .contextSave s = .next s) ∧
      ((∀ j, j ∈ y.cores → savable s j l = true) → s.ev.flag = false → ∃ t, exec .contextSave s = .next t ∧
        ∀ j, j ∈ y.cores → (t.core j).resident = none ∧ (tget (t.core j).saved l).isSome = true) :) ∧
    (∀ since, k.resident = some l → k.sliceEnded = true → k.draining = some since →
      since + Config.drainAllowance ≤ s.cycle → bitsOf (s.lr l 0).toNat 0 0 = 0 → maySave s c l = true →
      s.ev.flag = false → ∃ t x, exec .tongsDrainExpiry s = .next t ∧ (t.core c).resident = none ∧
        tget (t.core c).saved l = some x ∧ x.tongs = k.commands.map (·.2) :) ∧
    (∀ x s', k.resident = none → k.endedTraps = [] → k.busy = false → (s.hearth (c / 8)).dispatchStopped = false →
      (s.hearth (c / 8)).fenced = false → nextContext s c = some (l, x) →
      s' = (if (s.hearth (c / 8)).holder = some x.asid then s else saveHolder s (c / 8) (s.chunkMap 0)) →
      (s.ev.flag = true → bitsOf (s.lr l 0).toNat 0 0 = 0 → (s.hearth (c / 8)).holder ≠ some x.asid →
        exec .contextRestore s = .next s) ∧
      (bitsOf (s.lr l 0).toNat 0 0 = 1 → exec .contextRestore s = .next (gangTurn s l)) ∧
      (s.ev.flag = false → bitsOf (s.lr l 0).toNat 0 0 = 0 → holderFree s (c / 8) x.asid = true →
        yields s c l x.asid = false →
        let held := if (s.hearth (c / 8)).holder = some x.asid then none
          else heldFailureAt s' (c / 8) x.asid ((tget (s'.hearth (c / 8)).savedHeld x.asid).getD {})
        (held = none → contextFailure s' c l x = none → Memory.wf s.mem = true →
          Memory.wf (readContext s' c l x).scratch = true → ∃ t y, y = readContext s' c l x ∧
            exec .contextRestore s = .next t ∧ (t.core c).resident = some l ∧ (t.core c).residentAsid = x.asid ∧
            (t.hearth (c / 8)).holder = some x.asid ∧ (t.core c).fmtWin = y.fmtWin ∧ (t.core c).lsplit = y.lsplit ∧
            ((t.core c).cvgMax, (t.core c).cvgCount, (t.core c).cvgQuiet, (t.core c).cvgThresh, (t.core c).cvgWindow) = y.cvg ∧
            ∀ o, o < Config.coreSram → memGet t.mem (scratchKey c o) = (tget y.scratch o).getD 0) ∧
        (∀ y a, held = none → contextFailure s' c l x = some a → s.launch? l = some y → y.status = 0 →
          ∃ t z, exec .contextRestore s = .next t ∧ (t.core c).resident = none ∧
            (t.core c).endedTraps = [(0x1C, word a, word l, l)] ∧ t.launch? l = some z ∧ z.status = 3) ∧
        (∀ a, held = some a →
          ∃ t, exec .contextRestore s = .next t ∧ (t.core c).resident = none ∧
            (t.core c).endedTraps = [(0x1C, word a, word l, l)] ∧
            ∀ j y, s.launch? j = some y → y.status = 0 → s.asidOf j = x.asid → s.hearthIn j (c / 8) = true →
              ∃ z, t.launch? j = some z ∧ z.status = 3)) :) :) ∧
  (∀ (s : State) (w : Nat), s.ev.n = w →
    (s.cycle < Config.beatDelivery w ∨ (∃ a, a ∈ s.beats ∧ a.window < w) → exec .beatDelivery s = .next s :) ∧
    (Config.beatDelivery w ≤ s.cycle → (∀ a, a ∈ s.beats → w ≤ a.window) →
      ∃ l : List Announcement, exec .beatDelivery s = .next (l.foldl (fun t a => deliver (rouseLaunch t a.launch) a)
          { s with beats := s.beats.filter (·.window != w) }) ∧
        l.Perm (s.beats.filter (·.window == w)) ∧ l.Pairwise (fun a b => a.core ≤ b.core) ∧
        ∀ c, l.filter (·.core == c) = (s.beats.filter (·.window == w)).filter (·.core == c) :) ∧
    (∀ a next sl, beatNext s a = some next → s.slotAt a.core a.slot = sl → sl.goesOn = true →
      let gives := fun (t : State) (d : Dst) (v : Word) =>
        t.slotAt a.core a.slot = { sl.write d (Reg.of v) with pc := next, entry := false, stall := .none }
      let later := fun (t : State) (n : Nat) (d : Dst) (v : Word) =>
        t.slotAt a.core a.slot = { sl with stall := .landing (s.cycle + n) d v next }
      (∀ key va n op cas x y d, a.kind = .atomic key va n op cas x y d → scRefusal s sl.asid key n = none →
        Memory.wf s.mem = true → ∀ t, t = deliver s a →
        gives t d (word (memNat s.mem key n)) ∧ sameMemoryBut s t key n ∧
          (∀ v, atomResult op cas n (memNat s.mem key n) x.toNat y.toNat = some v → memNat t.mem key n = v % 2 ^ (8 * n)) ∧
          (atomResult op cas n (memNat s.mem key n) x.toNat y.toNat = none → t.mem = s.mem)) ∧
      (∀ key va n op cas x y d why, a.kind = .atomic key va n op cas x y d → scRefusal s sl.asid key n = some why →
        sl.shadow.isSome = true ∨ sl.roomy = true ∨ sl.spillFull = true →
        deliver s a = takeTrapAt s a.core a.slot { cause := why, addr := va, info := kindInfo .atomic 0 }) ∧
      (∀ p d, a.kind = .hopen p d → ∀ t, t = deliver s a →
        (p ≠ 0 → s.liveTag a.launch p = false → later t 1 d (word (4 * 2 ^ 16)) ∧ t.hyp = s.hyp) ∧
        (p = 0 ∨ s.liveTag a.launch p = true → ∀ depth, depth = (if p = 0 then 0 else (s.tag p).depth) + 1 →
          (15 < depth → later t 1 d (word (3 * 2 ^ 16)) ∧ t.hyp = s.hyp) ∧
          (depth ≤ 15 → bitsOf (s.lr a.launch 22).toNat 11 0 ≤ s.tagsHeld a.launch →
            later t 1 d (word (2 ^ 16)) ∧ t.hyp = s.hyp) ∧
          (depth ≤ 15 → s.tagsHeld a.launch < bitsOf (s.lr a.launch 22).toNat 11 0 →
            (lowestFree s 4095 1 = none → later t 1 d (word (2 * 2 ^ 16)) ∧ t.hyp = s.hyp) ∧
            ∀ h, lowestFree s 4095 1 = some h → later t 1 d (word (depth * 2 ^ 12 + h)) ∧
              t.hyp = tset s.hyp h { launch := a.launch, parent := p, depth := depth, state := .live }))) ∧
      (∀ f h d, a.kind = .hresolve f h d → sl.spawning = false → sl.migrating = none → s.liveTag a.launch h = false →
        later (deliver s a) 8 d 0 ∧ (deliver s a).hyp = s.hyp) ∧
      (∀ f h d, a.kind = .hresolve f h d → sl.spawning = false → sl.migrating = none → s.liveTag a.launch h = true →
        (∃ cur sh, (deliver s a).slotAt a.core a.slot =
          { sl with stall := .landing (s.cycle + 8) d 1 next, hypCur := cur, shadow := sh }) ∧
        (f = 3 → ((deliver s a).tag h).state = .sweeping) ∧ (f = 2 → ((deliver s a).tag h).state = .confirmed)) ∧
      (∀ d x, a.kind = .cut d → s.launch? a.launch = some x →
        (x.cut.inProgress = true → gives (deliver s a) d (word (2 ^ 63 + x.cut.number)) ∧
          (deliver s a).launches = s.launches) ∧
        (x.cut.inProgress = false → gives (deliver s a) d (word (x.cut.number % (2 ^ 32 - 1) + 1)) ∧
          ∃ y, (deliver s a).launch? a.launch = some y ∧ y.cut.number = x.cut.number % (2 ^ 32 - 1) + 1 ∧
            y.cut.inProgress = true)) :) ∧
    (∀ a l cause x, a.kind = .quench l cause → s.launch? l = some x → x.endFixed = false → x.status = 0 →
      x.quenched = false → (endsQuiescent s l x = true → deliver s a = fixEnd s l 1) ∧
      (endsQuiescent s l x = false → ∃ y, (deliver s a).launch? l = some y ∧ y.quenched = true ∧ y.quench = some cause ∧
        y.ranges = [(0, 0), (0, 0), (0, 0), (0, 0)] ∧
        ∀ c, c ∈ x.cores → (s.core c).resident = some l →
          ((deliver s a).core c).hwq = [] ∧ ((deliver s a).core c).ring = [] ∧ ((deliver s a).core c).tiles = []) :) :) ∧
  (∀ (s : State) (c k l : Nat) (x : Launch), s.ev.core = c → s.ev.slot = k → s.ev.launch = l → s.launch? l = some x →
    (∀ sl, s.slotAt c k = sl → sl.held = true → sl.stopped = false → sl.wrapup = false → sl.stall = .none →
      sl.shadow = none → sl.start ≠ .trapContext → sl.launch = l → x.quenched = true →
      ∃ t u, exec .taskDiversion s = .next t ∧ onlySlotAt s t c k ∧ t.slotAt c k = u ∧ u.wrapup = true ∧
        u.pc = (s.classOf l (s.qclass l)).entry ∧ u.quenchPc = sl.pc ∧ u.quenchCause = x.quench.getD 0 ∧
        u.quenchLeft = s.qbudget l ∧ u.wdog = s.qbudget l ∧ u.msgSrc = 0 ∧ u.msgHdr = 0 ∧ u.msgSlot = 0 ∧
        u.inBwait = none ∧ u.queue = sl.queue ∧ u.win = sl.win ∧ u.vregs = sl.vregs ∧ u.payload = sl.payload ∧
        u.binds = sl.binds ∧ u.fpStat = sl.fpStat ∧ u.hypCur = sl.hypCur ∧ (sl.inBwait = none → u.vl = sl.vl) :) ∧
    ((s.slotAt c k).held = true → (s.slotAt c k).wrapup = true → (s.slotAt c k).quenchLeft = 0 →
      (s.slotAt c k).shadow = none → (s.slotAt c k).stall = .none →
      ∃ t, exec .quenchBudgetExpiry s = .next t ∧ sameMemory s t ∧ t.slotAt c k = (s.slotAt c k).freed :) ∧
    (x.state = .running → x.quench = none →
      (s.cycle % 256 ≠ 0 ∨ s.cycle / 256 ≤ x.sampled → exec .convergenceSample s = .next s) ∧
      (s.cycle % 256 = 0 → x.sampled < s.cycle / 256 → ∃ t y, exec .convergenceSample s = .next t ∧ sameMemory s t ∧
        t.launch? l = some y ∧
        (y.converged = true ↔ x.inflight.sum = 0 ∧ ∀ i, i ∈ x.cores → coreQuiet s l i = true) ∧
        y.lastSample = x.inflight.sum.toNat ∧
        (y.converged = true → x.endFixed = false → x.status = 0 → bitsOf (x.lr.getD 0 0).toNat 1 1 = 1 →
          y.quench = some 2) ∧
        (y.converged = false ∨ bitsOf (x.lr.getD 0 0).toNat 1 1 = 0 → y.quench = none)) :) ∧
    (∀ h, s.ev.id = h → (s.tag h).state = .confirmed ∨ (s.tag h).state = .sweeping →
      ∃ t, exec .sweepEnd s = .next t ∧ sameMemory s t ∧
        t.versions.map (fun v => { v with spilled := false, pinned := false }) =
          (s.versions.filter (fun v => v.tag != h)).map (fun v => { v with spilled := false, pinned := false }) ∧
        (∀ j q, q ∈ (t.core j).l1 → q.2.tag ≠ h) ∧
        (t.tag h).sweepDone = true ∧
        (t.tag h).state = (if tagInTask s h || tagInMessage s h || tagIsTarget s h ||
          s.remotes.any (fun p => p.2.tag == some h) then (s.tag h).state else .swept) ∧
        ∀ i, i ≠ h → t.tag i = s.tag i :) ∧
    (∀ p, x.cut.inProgress = true → natMem x.cut.waiting c = true → atCopyPoint s l c = true →
      s.up (c / 8) = true → publishPoison s l c = some p → exec .cutCopyPoint s = .next (abandonCut s l (.poison, p) (some c)) :) ∧
    (∀ va b u, x.cut.inProgress = true → natMem x.cut.waiting c = true → atCopyPoint s l c = true →
      s.up (c / 8) = true → publishPoison s l c = none → b = publishBytes s l c →
      va = (x.lr.getD 27 0).toNat + (0x40 + s.rankOf l c * cutStride s l) →
      writeFault s (s.asidOf l) va b.length = none → partWrite s (s.asidOf l) va b = some u →
      ∃ t y, exec .cutCopyPoint s = .next t ∧ sameMemory u t ∧ (t.core c).cutWait = false ∧ t.launch? l = some y ∧
        y.cut = { x.cut with waiting := x.cut.waiting.filter (· != c) } :) ∧
    (∀ b u, x.cut.inProgress = true → x.cut.waiting = [] → cutEnding s l = false → s.hostFolds = [] → b = leBytes x.cut.number 8 →
      writeFault s (s.asidOf l) (x.lr.getD 27 0).toNat 8 = none →
      partWrite s (s.asidOf l) (x.lr.getD 27 0).toNat b = some u →
      ∃ t a, exec .cutComplete s = .next t ∧ sameMemory u t ∧ t.beats = s.beats ++ [a] ∧ a.kind = .cutDone l false :) ∧
    (∀ a ab, a.kind = .cutDone l ab → ∃ y, (deliver s a).launch? l = some y ∧
      y.cut = { x.cut with inProgress := false, abandoned := ab } :) ∧
    (∀ b, tget x.barriers s.ev.id = some b → s.ev.n ≤ b.gen → ∃ t y, exec .barrierReleaseDelivery s = .next t ∧
      { t with launches := s.launches, hearths := s.hearths, powerParked := s.powerParked, dieWake := s.dieWake } = s ∧
      (∀ i, i ≠ l → t.launch? i = s.launch? i) ∧ t.launch? l = some y ∧ tget y.barriers s.ev.id = some { b with
        released := max b.released s.ev.n, due := if b.gen ≤ max b.released s.ev.n then none else b.due } :) :)

/-- The lane arbiter (R205, R234): at most once a cycle it binds, of the cores whose lane queue is not empty, the head of the one
with the lowest pass, the lowest-numbered on a tie, if enough groups are free, and charges its pass, and goes on so with the
others; if they are not, nothing is bound. A head whose registers a transfer still uses waits and keeps its place. A bound instruction leaves after its cycles: its flags go to `FP.STAT` (R94), and a transfer goes on until its elements
have arrived.
The Anvil (R207, R228, R231-R233): the port serves the cores in turn, from the one after the core it served last, and takes the
operation at the head of a core's waiting ones if it can start, at most one in a cycle; an operation retires in program order
once its time has come and the bytes of an `ast` are stored, the heads of the rings it popped move on and its task goes on. A
sub-array gates after `A.GATE` idle cycles and is awake again when its wake ends. A hearth that waits takes a token that visits
it, lets it go, to the next hearth of the ring in the next cycle or off the ring where the die's count of tokens is exceeded,
after 256 cycles without an FP32 or FP64 start, and after 65,536 cycles while another hearth waits.
A Tongs command moves one element at a time, in index order, when its hearth's round-robin over cores, and its core's over
commands, comes to it, one element in a cycle (R238, R240-R242): a copy whose parts lie in this part reads the
source and writes the destination, or appends to its stream, and the last element completes it; the first fault of a location
completes it at that element with the fault's code and address, and nothing is written.
What it says on a point the manual leaves open is the model's choice: log entries 41, 44, 45, 46, 50, 59. -/
def Obligations.EngineEvents : Prop :=
  (∀ (s : State) (h c : Nat), s.ev.hearth = h → s.ev.core = c →
    (s.cycle < (s.hearth h).nextBind → exec .vectorBind s = .next s :) ∧
    ((s.hearth h).nextBind ≤ s.cycle → ∀ p op rest, (c, p) ∈ passes s h → (∀ q, q ∈ passes s h → p ≤ q.2) →
      (∀ q, q ∈ passes s h → q.1 < c → p < q.2) → (s.core c).lanes = op :: rest →
      (∀ j, j < 8 → ∀ o ∈ (s.core (8 * h + j)).lanes, o.unformed = none) →
      (headBusy (s.core c) op = false → op.groups ≤ 8 - boundGroups s h → ∃ t,
        exec .vectorBind s = .next t ∧ (t.hearth h).nextBind = s.cycle + 1 ∧ sameMemory s t ∧ t.core c = { s.core c with
          lanes := rest, bound := (s.core c).bound ++ [{ op := op, until_ := s.cycle + op.cycles }]
          pass := (s.core c).pass + op.groups * (1024 / (s.core c).vshare) } ∧
        ∀ e, t.core e = s.core e ∨ ∃ o r, (s.core e).lanes = o :: r ∧ t.core e = { s.core e with
          lanes := r, bound := (s.core e).bound ++ [{ op := o, until_ := s.cycle + o.cycles }]
          pass := (s.core e).pass + o.groups * (1024 / (s.core e).vshare) }) ∧
      (headBusy (s.core c) op = false → 8 - boundGroups s h < op.groups → ∃ t, exec .vectorBind s = .next t ∧
        t.cores = s.cores ∧ (t.hearth h).nextBind = s.cycle + 1) ∧
      (headBusy (s.core c) op = true → passes s h = [(c, p)] → ∃ t, exec .vectorBind s = .next t ∧ t.cores = s.cores ∧
        (t.hearth h).nextBind = s.cycle + 1) :) ∧
    (∀ b, (s.core c).bound = [b] →
      (s.cycle < b.until_ → ∃ t, exec .vectorComplete s = .next t ∧ onlyCore s t c ∧ t.core c = s.core c) ∧
      (b.until_ ≤ s.cycle → ∃ t, exec .vectorComplete s = .next t ∧ onlyCore s t c ∧ (t.core c).bound = [] ∧
        (t.slotAt c b.op.slot).fpStat = (s.slotAt c b.op.slot).fpStat ||| word b.op.flags ∧
        (b.op.transfer = none → (t.core c).transfers = (s.core c).transfers) ∧
        (b.op.transfer.isSome = true → (t.core c).transfers = (s.core c).transfers ++ [{ b.op with flags := 0 }])) :) ∧
    (∀ o, (s.core c).transfers = [o] → o.slot = s.ev.slot →
      let pending := fun (r : Nat) (st : Bool) =>
        if st then elemsUnperformed s c o.slot o.upto else elemsOutstanding s c o.slot r
      (∀ r st, o.transfer = some (r, st) → pending r st = true →
        ∃ t, exec .vectorTransferComplete s = .next t ∧ onlyCore s t c ∧ (t.core c).transfers = [o]) ∧
      (∀ r st, o.transfer = some (r, st) → pending r st = false →
        ∃ t, exec .vectorTransferComplete s = .next t ∧ onlyCore s t c ∧ (t.core c).transfers = []) :) :) ∧
  (∀ (s : State) (h c k : Nat), s.ev.core = c → s.ev.slot = k → c / 8 = h →
    (∀ j rest i u, j < 8 → c = 8 * h + ((s.hearth h).portLast + 1 + j) % 8 →
      (∀ e, e < j → (s.core (8 * h + ((s.hearth h).portLast + 1 + e) % 8)).waitingPort = []) →
      (s.core c).waitingPort = k :: rest → issue { s with cur := (c, k) } = .run i u → s.ev.hearth = h →
      (s.cycle < (s.hearth h).nextAccept → exec .anvilPortAccept s = .next s) ∧
      ((s.hearth h).nextAccept ≤ s.cycle →
        (∃ t, finish u 4 (portRetry i u) = .next t ∧ ((t.slotAt c k).atPort = false →
          exec .anvilPortAccept s = .next { t with cur := s.cur } ∧
          ((∃ acc ra rb mode zp pop, i = .amm acc ra rb mode zp pop) → exec .ammStart s = .next { t with cur := s.cur }))) ∧
        (∀ acc single fmt, i = .azero acc single → fmt = (if single then 1 else 0) → u.tilesReady acc.val fmt = true →
          u.slot.owed.any (·.lda) = false → u.tiles.length = 16 →
          ∃ t, exec .anvilPortAccept s = .next { t with cur := s.cur } ∧ accepted u t 1 ∧ sameMemory u t ∧
            ∀ n, natMem (fmtTiles acc.val fmt) n = true → n < 16 → tileHolds t n fun _ => 0) ∧
        (∀ acc ra rb mode zp pop x y el, i = .amm acc ra rb mode zp pop → u.ring? h ra.val = some x →
          u.ring? h rb.val = some y → x.mode = mode.toNat → y.mode = mode.toNat → (4 ≤ mode.toNat → x.group = y.group) →
          ownsTile u u.slot.launch c acc.val = true → (mode = 0 → ownsTile u u.slot.launch c (acc.val + 1) = true) →
          ammWaits u acc.val mode.toNat ra.val rb.val u.slot.fpTraps = none → u.slot.owed.any (·.lda) = false →
          u.tiles.length = 16 →
          el = ammElems u.mem u.tiles u.slot.fpEnv (u.slot.fmtMode.getLsbD 0) zp acc.val x y →
          (∀ e ∈ el, u.slot.traps e.2 = false) → ra ≠ rb →
          ∃ t, exec .ammStart s = .next { t with cur := s.cur } ∧ accepted u t Config.ammLatency ∧ sameMemory u t ∧
            tileHolds t acc.val (fun n => (el.getD n (0, 0)).1) ∧
            t.ring? h ra.val = some (if pop.getLsbD 0 then { x with read := (x.read + 1) % 2 ^ 32 } else x))) :) ∧
    (∀ o e, (s.hearth h).ops.find? (fun o => o.core == c) = some o → o.slot = k →
      e = (if o.isAmm then Instr.ammRetire else .anvilOperationRetire) →
      (s.cycle < o.retireAt → exec e s = .next s) ∧
      (storing s o = true → ∃ t, exec e s = .next t ∧ sameMemory s t ∧ t.slotAt c k = s.slotAt c k ∧
        (t.hearth h).ops.length = (s.hearth h).ops.length) ∧
      (o.retireAt ≤ s.cycle → storing s o = false → (s.slotAt c k).goesOn = true →
        ∃ t, exec e s = .next t ∧ sameMemory s t ∧ (t.hearth h).ops = (s.hearth h).ops.erase o ∧
        (∀ r x, o.pops = [r] → s.ring? h r = some x → t.ring? h r = some { x with head := (x.head + 1) % 2 ^ 32 }) ∧
        (∀ next, o.ended = false → (s.slotAt c k).stall = .anvil next →
          t.slotAt c k = { s.slotAt c k with pc := next, entry := false, stall := .none })) :) ∧
    (∀ i b g, s.ev.id = i → i < 4 → g = s.ev.hearth → (s.hearth g).subs.getD i {} = b →
      (b.gated = false → (s.hearth g).held.gate ≠ 0 → b.lastStart + (s.hearth g).held.gate ≤ s.cycle →
        ∃ t, exec .subarrayGate s = .next t ∧ onlyHearth s t g ∧ (t.hearth g).subs.getD i {} = { b with gated := true }) ∧
      (b.gated = true ∨ (s.hearth g).held.gate = 0 ∨ s.cycle < b.lastStart + (s.hearth g).held.gate →
        exec .subarrayGate s = .next s) ∧
      (∀ at_, b.waking = some at_ → at_ ≤ s.cycle → ∃ t, exec .subarrayWake s = .next t ∧ onlyHearth s t g ∧
        ((t.hearth g).subs.getD i {}).gated = false ∧ ((t.hearth g).subs.getD i {}).waking = none) :) ∧
    (∀ g x, g = s.ev.hearth → s.hearth g = x →
      let leaves := fun (t : State) =>
        if tokenLimit s (g / 256) - tokensHeld (s.modHearth g fun x => { x with token := false }) (g / 256) ≤
            (s.freeTokens.getD (g / 256) []).length then
          t.hearth g = { x with token := false } ∧ t.freeTokens = s.freeTokens
        else t.hearth g = { x with token := false, tokenLeft := s.cycle + 1 } ∧
          t.freeTokens = s.freeTokens.set (g / 256) (tokenPhase s g :: s.freeTokens.getD (g / 256) [])
      (∀ p, tokenAt s g = some p → tokenWaits s g = true → x.token = false →
        ∃ t, exec .tokenArrival s = .next t ∧ { t with hearths := s.hearths, freeTokens := s.freeTokens
                                                       agenda := s.agenda } = s ∧
          t.hearth g = { x with token := true, tokenSince := s.cycle, tokenUsed := s.cycle } ∧
          t.freeTokens.getD (g / 256) [] = (s.freeTokens.getD (g / 256) []).erase p) ∧
      (tokenAt s g = none ∨ tokenWaits s g = false → exec .tokenArrival s = .next s) ∧
      (x.token = true → (x.tokenUsed + 256 ≤ s.cycle → ∃ t, exec .tokenIdleRelease s = .next t ∧ leaves t) ∧
        (s.cycle < x.tokenUsed + 256 → exec .tokenIdleRelease s = .next s) ∧
        (x.tokenSince + 65536 ≤ s.cycle → x.nextStart ≤ s.cycle → otherWaits s g = true →
          ∃ t, exec .tokenHoldExpiry s = .next t ∧ leaves t) ∧
        (s.cycle < x.tokenSince + 65536 ∨ s.cycle < x.nextStart ∨ otherWaits s g = false →
          exec .tokenHoldExpiry s = .next s)) :) :) ∧
  (∀ (s : State) (c id : Nat) (x : Command), s.ev.core = c → s.ev.id = id → tget (s.core c).commands id = some x →
    (s.cycle < (s.hearth (c / 8)).nextRequest ∨ 256 ≤ tongsInFlight s (c / 8) ∨ tongsTurn s (c / 8) ≠ some (c, id) →
      exec .tongsElementReply s = .next s :) ∧
    ((s.hearth (c / 8)).nextRequest ≤ s.cycle → tongsInFlight s (c / 8) < 256 → tongsTurn s (c / 8) = some (c, id) →
    x.complete = false → x.kind = .copy → windowed (x.dw 2) = false → (x.stream = none → windowed x.packed = false) →
    x.fault = none →
    (∀ e, x.stream = none → elemParts s c x .load (splits (x.far x.done) x.esize) = .error e → x.orphaned = false →
      ∃ t y, exec .tongsElementReply s = .next t ∧
        { t with cores := s.cores, hearths := s.hearths, agenda := s.agenda } = s ∧ (∀ i, i ≠ c → t.core i = s.core i) ∧
        (t.hearth (c / 8)).nextRequest = s.cycle + 1 ∧ (t.hearth (c / 8)).tongsLast = c % 8 ∧
        tget (t.hearth (c / 8)).tongsServed (c % 8) = some id ∧ tget (t.core c).commands id = some y ∧
        y.complete = true ∧ y.fault = some e ∧ y.done = x.done) ∧
    (∀ far near b, elemParts s c x .load (splits (x.far x.done) x.esize) = .ok far →
      (∀ p, p ∈ far ++ near → p.place.peer? = none ∧ stackReady s p.place.key = true) → (∀ p, p ∈ far →
        poisoned s.poison p.place.key p.size = false ∧
        poisoned s.badCheck p.place.key p.size = false) →
      hostLacks s false (far.map (·.place)) = none → hostLacks s true (near.map (·.place)) = none →
      b = far.flatMap (fun p => memBytes s.mem p.place.key p.size) → x.orphaned = false →
      (x.stream = none → elemParts s c x .store (splits (x.near x.done) x.esize) = .ok near →
        ∃ t y, exec .tongsElementReply s = .next t ∧ sameMemory (writeParts s b near) t ∧
          tget (t.core c).commands id = some y ∧ y.done = x.done + 1 ∧ y.fault = none ∧
          (y.complete = true ↔ x.count ≤ x.done + 1) ∧ ∀ k, t.slotAt c k = s.slotAt c k) ∧
      (∀ i buf fin, x.stream = some i → x.unbound = false → 1 ≤ i → near = [] →
        (s.slotAt c x.slot).binds.getD (i - 1) .unbound = .copy buf (some id) fin → buf.length < 8 →
        x.done + 1 < x.count →
        ∃ t, exec .tongsElementReply s = .next t ∧ sameMemory s t ∧
          (t.slotAt c x.slot).binds.getD (i - 1) .unbound = .copy (buf ++ [word (leNat b)]) (some id) fin)) :) :)

/-- Requests at a free home (R249-R251, R253): GetS and GetX are granted at once where the LLC has the line and no other copy is in
the way, E to a lone reader, else S, and M to a writer; else the line is fetched, its owner forwarded to, or its other holders
invalidated first. An upgrade by a holder is granted M once the others are gone; one by a core that has lost its copy
becomes a GetX. A line of host memory waits for the host's data of each half that an
access missed (R255), and one of HBM for its stack (R284). A grant gives the core its copy, under the tag of the access, and ends
its request, or is void where the core's hearth is fenced (R259); of the requests of one cycle those of lower cores come first.
Copies (R249, R250, R252-R254, R259): an invalidation drops the copy and is acknowledged, the last acknowledgement grants an
upgrade; a forwarded owner keeps the line as O, or as S if it was clean, for a reader and gives it up for a writer, and its
response lets the home grant. An eviction moves the line to the write-back buffer until the home has answered its Put, which is
good of the recorded owner and stale of any other. A holder that has not acknowledged in 8,192 cycles is fenced with its hearth;
where the home slice cannot be reached, its die is parked.
The host (R255-R257): a write to HBM that no core has a copy of reads back and is answered, and one whose check does not match
poisons the granule; a read gives the bytes and their poison; a snoop of host memory in CXL mode leaves the bridge I, S or as it
was, and gives back dirty data, and the data of a valid half that SnpCur asks for; a fill answers what the bridge has asked for
and brings the host's bytes to it, owned or shared, and bytes that confirmations have folded into the half stand over them. The posted writes of a port in PCIe mode keep their order. A port that is down takes none of them.
What it says on a point the manual leaves open is the model's choice: log entries 12, 13, 14, 76, 77. -/
def Obligations.CoherenceEvents : Prop :=
  (∀ (s : State) (line c : Nat) (d : Dir), s.ev.core = c → s.ev.id = line → (s.home line).dir = d →
    (s.homeFree line = true → tget (s.home line).grants c = none → s.reaches line c = true →
      (tget (s.core c).cohReqs line = some .getS →
        (d.owner = none → d.inLlc = true → ∃ t, exec .gets s = .next t ∧ t.cores = s.cores ∧
          granted s t line c (if s.aloneAt line c then .e else .s)) ∧
        (d.owner = none → d.inLlc = false → ∃ t, exec .gets s = .next t ∧ sameMemory s t ∧ t.cores = s.cores ∧
          (t.home line).trans = .memRd c .getS ∧ ⟨.memoryDataReturn, { id := line }⟩ ∈ t.agenda) ∧
        (∀ o, d.owner = some o → o ≠ c → ∃ t, exec .gets s = .next t ∧ sameMemory s t ∧ t.cores = s.cores ∧
          (t.home line).trans = .fwd c .getS o false ∧
          ⟨.fwdGets, { core := o, id := line }⟩ ∈ t.agenda)) ∧
      (tget (s.core c).cohReqs line = some .getX → ∀ l, l = (d.targets (some c)).filter (fun x => some x != d.owner) →
        (l ≠ [] → ∃ t, exec .getx s = .next t ∧ sameMemory s t ∧ t.cores = s.cores ∧
          (t.home line).trans = .invFan c .getX l s.cycle ∧
          ∀ x, x ∈ l → ⟨.invalidation, { core := x, id := line }⟩ ∈ t.agenda) ∧
        (l = [] → d.owner = none → d.inLlc = true → ∃ t, exec .getx s = .next t ∧ granted s t line c .m) ∧
        (∀ o, l = [] → d.owner = some o → o ≠ c → ∃ t, exec .getx s = .next t ∧ sameMemory s t ∧
          (t.home line).trans = .fwd c .getX o false)) ∧
      (tget (s.core c).cohReqs line = some .upg →
        (d.holds c = true → s.aloneAt line c = true → ∃ t, exec .upg s = .next t ∧ t.cores = s.cores ∧
          granted s t line c .m) ∧
        (d.holds c = true → s.aloneAt line c = false → ∃ t, exec .upg s = .next t ∧ sameMemory s t ∧ t.cores = s.cores ∧
          (t.home line).trans = .invFan c .upg (d.targets (some c)) s.cycle) ∧
        (d.holds c = false → ∃ t, exec .upg s = .next t ∧ sameMemory s t ∧
          tget (t.core c).cohReqs line = some .getX)) :) ∧
    (tget (s.core c).cohReqs line = some .getX → exec .upg s = exec .getx s :) ∧
    (s.homeFree line = true → tget (s.home line).grants c = none → s.reaches line c = false →
      tget (s.core c).cohReqs line = some .getS → ∃ t, exec .gets s = .next t ∧ sameMemory s t ∧ t.cores = s.cores ∧
        (t.home line).late = natIns (s.home line).late c ∧ (t.home line).trans = .none ∧ (t.home line).waiting = [] :) ∧
    (∀ req, (s.home line).trans = .memRd c req → stackReady (touchKey s (128 * line)) (128 * line) = false →
      ∃ t, exec .memoryDataReturn s = .next t ∧ t.homes = s.homes ∧ t.cores = s.cores ∧ sameMemory s t :) ∧
    (∀ req half q, (s.home line).trans = .memRd c req → (half, q) ∈ halvesMissed s c line →
      ∃ t, exec .memoryDataReturn s = .next t ∧ t.homes = s.homes ∧ sameMemory s t ∧
        (tget t.hostReqs half).isSome = true :) ∧
    (∀ req, (s.home line).trans = .memRd c req → (s.home line).waiting = [] → s.ev.flag = false →
      stackReady (touchKey s (128 * line)) (128 * line) = true → halvesMissed s c line = [] → s.setQuiet line = true →
      ∃ t, exec .memoryDataReturn s = .next t ∧ (t.home line).dir.inLlc = true ∧
        granted s t line c (if req = .getS then (if s.aloneAt line c then .e else .s) else .m) :) ∧
    (∀ g, tget (s.home line).grants c = some g → s.unasked c line = true → (s.hearth (c / 8)).fenced = false →
      (s.core c).l1.length < 64 * (s.core c).lsplit → ∃ t x, exec .grantReceived s = .next t ∧ sameMemory s t ∧
      tget (t.home line).grants c = none ∧ tget (t.core c).cohReqs line = none ∧ tget (t.core c).l1 line = some x ∧
      x.st = g ∧ x.tag = ((tget (s.core c).cohWants line).getD (0, false)).1 ∧
      x.halves = validHalves s line ∧ ∀ i, i ≠ c → t.core i = s.core i :) ∧
    (∀ g, tget (s.home line).grants c = some g → (s.hearth (c / 8)).fenced = true →
      ∃ t, exec .grantReceived s = .next t ∧ t.cores = s.cores ∧ t.mem = s.mem ∧ tget (t.home line).grants c = none :) :) ∧
  (∀ (s : State) (line c : Nat), s.ev.core = c → s.ev.id = line →
    (∀ x req w since, (s.home line).trans = .invFan x req w since → natMem w c = true →
      tget (s.home line).grants c = none →
      (s.ev.flag = true → exec .invalidation s = .next (s.poke ⟨.invalidation, { core := c, id := line }⟩)) ∧
      (s.ev.flag = false → ∃ t, exec .invalidation s = .next t ∧ sameMemory s t ∧ t.homes = s.homes ∧
        tget (t.core c).l1 line = none ∧
        (tget (s.core c).cohReqs line = some .upg → tget (t.core c).cohReqs line = some .getX) ∧
        t.agenda = s.agenda ++ [⟨.invAck, { core := c, id := line }⟩]) ∧
      (tget (s.core c).l1 line = none →
        (natDel w c ≠ [] → ∃ t, exec .invAck s = .next t ∧ t.cores = s.cores ∧ sameMemory s t ∧
          (t.home line).trans = .invFan x req (natDel w c) since) ∧
        (natDel w c = [] → req = .upg → (s.home line).waiting = [] → ∃ t, exec .invAck s = .next t ∧
          granted s t line x .m)) ∧
      (since + 8192 ≤ s.cycle → s.ev.flag = false → ∃ t, exec .invalidationTimeout s = .next t ∧ sameMemory s t ∧
        t.cores = s.cores ∧ (t.home line).trans = .fence (.core x req) w since c) ∧
      (since + 8192 ≤ s.cycle → s.ev.flag = true →
        exec .invalidationTimeout s = .next (parkDie s (homeHearth s line / 256) 1)) ∧
      (s.cycle < since + 8192 → exec .invalidationTimeout s = .next s) :) ∧
    (∀ r w since out, (s.home line).trans = .fence r w since out → natMem w c = true → since + 8192 ≤ s.cycle →
      s.ev.flag = false → (out ≠ c → exec .invalidationTimeout s = .next s) ∧
      (out = c → (s.hearth (c / 8)).fenced = false →
        ∃ t, exec .invalidationTimeout s = .next t ∧ (t.hearth (c / 8)).fenced = true ∧ ∃ r, r ∈ t.ras ∧ r.kind = 3 ∧
          r.hearth = c / 8) :) ∧
    (∀ x req y, (s.home line).trans = .fwd x req c false → tget (s.home line).grants c = none →
      tget (s.core c).l1 line = some y →
      (req = .getS → ∃ t, exec .fwdGets s = .next t ∧ sameMemory s t ∧ (t.home line).trans = .fwd x req c true ∧
        tget (t.core c).l1 line = some { y with st := if y.st = .e then .s else .o }) ∧
      (req = .getX → ∃ t, exec .fwdGetx s = .next t ∧ sameMemory s t ∧ (t.home line).trans = .fwd x req c true ∧
        tget (t.core c).l1 line = none) :) ∧
    (∀ x o y, (s.home line).trans = .fwd x .getS o true → (s.home line).waiting = [] → (s.home line).wbHold = none →
      tget (s.core o).l1 line = some y → y.st = .o → o ≠ x → ∃ t, exec .forwardResponse s = .next t ∧ t.cores = s.cores ∧
        granted s t line x .s ∧ (t.home line).dir.owner = some o ∧ (t.home line).dir.st = .o :) ∧
    (∀ x o, (s.home line).trans = .fwd x .getX o true → (s.home line).waiting = [] → (s.home line).wbHold = none →
      tget (s.core o).l1 line = none → ∃ t, exec .forwardResponse s = .next t ∧ t.cores = s.cores ∧
        granted s t line x .m ∧ (t.home line).dir.owner = some x :) ∧
    (∀ i req st, (i = .putm ∧ req = CohReq.putM ∧ st = Moesi.m) ∨ (i = .puto ∧ req = .putO ∧ st = .o) ∨
        (i = .pute ∧ req = .putE ∧ st = .e) ∨ (i = .puts ∧ req = .putS ∧ st = .s) →
      (∀ x, tget (s.core c).l1 line = some x → x.st = st → tget (s.core c).writeback line = none →
        tget (s.core c).cohReqs line = none → ∃ t, exec i s = .next t ∧ sameMemory s t ∧ t.homes = s.homes ∧
          tget (t.core c).l1 line = none ∧ tget (t.core c).writeback line = some st) ∧
      (tget (s.core c).l1 line = none → tget (s.core c).writeback line = some st → s.homeFree line = true →
        (s.home line).wbHold = none → tget (s.home line).answers c = none → s.reaches line c = true →
        ∃ t, exec i s = .next t ∧ sameMemory s t ∧ t.cores = s.cores ∧
          tget (t.home line).answers c = some (!(req == .putM || req == .putO) || (s.home line).dir.owner == some c) ∧
          ((s.home line).dir.owner = some c → (t.home line).dir.owner = none) ∧
          ((req = .putM ∨ req = .putO) → (s.home line).dir.owner = some c →
            (t.home line).dir.inLlc = true ∧ (t.home line).dir.dirty = true) ∧
          ((req = .putM ∨ req = .putO) → (s.home line).dir.owner ≠ some c → (t.home line).dir = (s.home line).dir)) :) ∧
    (∀ good, tget (s.home line).answers c = some good → s.unasked c line = true → ∃ t, exec .putAnswer s = .next t ∧
      sameMemory s t ∧
      tget (t.home line).answers c = none ∧ tget (t.core c).writeback line = none :) :) ∧
  (∀ (s : State) (p : Nat), s.ev.port = p → s.boot = .running →
    (∀ key bytes, s.portUp.getD p false = true → s.ev.id = key → s.ev.bytes = bytes → bytes ≠ [] →
      key % 128 + bytes.length ≤ 128 → key + bytes.length ≤ Config.hbmBytes → Memory.wf s.mem = true →
      s.homeFree (key / 128) = true → s.takesHost (key / 128) = true → (s.home (key / 128)).dir.targets none = [] →
      (postedPort s p = true → tget s.hostWrites p = none ∧ hostAtHome s (.write p key bytes s.ev.flag) = false) →
      ∃ t, exec .hostWrite s = .next t ∧ memBytes t.mem key bytes.length = bytes ∧ sameMemoryBut s t key bytes.length ∧
        t.cores = s.cores ∧ .hostWritten p ∈ t.notices ∧
        (s.ev.flag = true → natMem t.poison (key / 64) = true) ∧
        (s.ev.flag = false → ∀ g, g / 2 = key / 128 → natMem t.poison g = natMem (unpoison s.poison key bytes.length) g) :) ∧
    (∀ key bytes op r, s.portUp.getD p false = true → s.ev.id = key → s.ev.bytes = bytes → bytes ≠ [] →
      key % 128 + bytes.length ≤ 128 → key + bytes.length ≤ Config.hbmBytes → postedPort s p = true →
      tget s.hostWrites p = some (op :: r) → hostAtHome s op = true →
      ∃ t, exec .hostWrite s = .next t ∧ sameMemory s t ∧
        tget t.hostWrites p = some (op :: r ++ [.write p key bytes s.ev.flag]) :) ∧
    (∀ key n, s.portUp.getD p false = true → s.ev.id = key → s.ev.n = n → 0 < n → key % 128 + n ≤ 128 →
      key + n ≤ Config.hbmBytes → s.homeFree (key / 128) = true → s.takesHost (key / 128) = true →
      (s.home (key / 128)).dir.owner = none →
      ∃ t, exec .hostRead s = .next t ∧ sameMemory s t ∧ t.cores = s.cores ∧
        .hostData p (memBytes s.mem key n) (poisoned (verify s key n (portDie p) 15 p).poison key n) ∈ t.notices :) ∧
    (∀ half i kind line, s.portUp.getD p false = true → (if p = 0 then s.cfg.port0 else s.cfg.port1) = some .cxl →
      s.ev.id = half → line = hostKey (64 * half) / 128 → s.homeFree line = true →
      s.takesHost line = true → (s.home line).dir.targets none = [] →
      (i = .snpInv ∧ kind = 0) ∨ (i = .snpData ∧ kind = 1) ∨ (i = .snpCur ∧ kind = 2) →
      ∃ t data new, exec i s = .next t ∧ sameMemory s t ∧ t.cores = s.cores ∧ t.bridgeSt half = new ∧
        new = (if kind = 0 then .i else if kind = 1 then (if s.bridgeSt half = .i then .i else .s) else s.bridgeSt half) ∧
        data = (if s.bridgeSt half = .m ∨ (kind = 2 ∧ s.bridgeSt half ≠ .i) then memBytes s.mem (hostKey (64 * half)) 64 else []) ∧
        .snooped p half new data (!data.isEmpty &&
          natMem (verify s (hostKey (64 * half)) 64 (portDie p) 15 p).poison (hostKey (64 * half) / 64)) ∈ t.notices :) ∧
    (∀ half, s.ev.id = half →
      (tget s.hostReqs half = none → exec .hostLineFill s = .next s) ∧
      (∀ q key, tget s.hostReqs half = some q → s.bridgeSt half = .i → key = hostKey (64 * half) →
        s.ev.bytes.length = 64 → Memory.wf s.mem = true → s.halfUnasked half = true → tget s.hostFolds half = none →
        ∃ t, exec .hostLineFill s = .next t ∧ memBytes t.mem key 64 = s.ev.bytes ∧ sameMemoryBut s t key 64 ∧
          tget t.hostReqs half = none ∧
          t.bridgeSt half = (if q = .rdCurr then .i else if q = .rdOwn ∨ s.ev.flag = true then .e else .s)) ∧
      (∀ f key, tget s.hostReqs half = some .rdOwn → s.bridgeSt half = .i → key = hostKey (64 * half) →
        s.ev.bytes.length = 64 → s.halfUnasked half = true → tget s.hostFolds half = some f →
        ∃ t, exec .hostLineFill s = .next t ∧ t.bridgeSt half = .m ∧ tget t.hostFolds half = none ∧
          t.mem = memRestore (writeMem s key 64 (leNat s.ev.bytes)).mem (f.map fun b => (key + b.1, b.2))) :) ∧
    (∀ i, s.portUp.getD p false = false →
      (i = .hostWrite ∧ s.ev.bytes ≠ []) ∨ i = .hostRead ∨ i = .snpInv ∨ i = .snpData ∨ i = .snpCur → exec i s = .next s :) :)

/-- The links role (R264, R266, R268) answers a stalled `lease` with the count the lease then has (none for 0 or an unlinked peer); a
lease that shrinks gives up parked, then warming, then active transmitters, highest first; one that grows wakes its parked ones and
takes the lowest free ones. It serves the link registers.
Transmitters (R271, R272, R279): the lowest waiting one of a die warms, at most one every 100 ns, and joins `CAP.LWAKE` later. A lease
idle for its park delay parks those above its floor, while the host accepts the wake time; one starved for 10 µs gains one. A failed
one is replaced by its port's spare, or lost.
Streams (R273, R275, R276): at a boundary each sending transmitter takes the next flit, numbered, with its check, and holds it; 256 of
them stall the stream. A received flit whose check fails is discarded; flits are handed over in sequence. Link-control flits
acknowledge, ask for a flit again (or 2 µs do), or carry a time; a gap is asked for after 16 ns, and 256 ns acknowledge at the latest.
Packets (R258, R274, R277): SRAM space passes R115, a PA needs a window of the peer (status 1); what passes is performed and
answered, poison with status 3. An idle hearth is woken first (R284). A response ends its request; status 5 tries a message again.
A peer is lost (R278) when a flit was replayed 16 times or 100 µs bring no acknowledgement: its leases end, its packets are gone, a
waiting load is refused with reason 4 and logged, a time unit it disciplined runs free (R21). Once a second it is trained; it is
linked again where that succeeds.
What it says on a point the manual leaves open is the model's choice: log entries 47, 60, 61, 62. -/
def Obligations.LinkEvents : Prop :=
  (∀ (s : State) (c k l : Nat) (next : Word) (sl : Slot), s.ev.core = c → s.ev.slot = k → s.slotAt c k = sl → sl.launch = l →
    sl.goesOn = true →
    let gives := fun (t : State) (d : Dst) (v : Nat) =>
      t.slotAt c k = { sl.write d (Reg.of (word v)) with pc := next, entry := false, stall := .none }
    (∀ p n d due, sl.stall = .links due (.lease p n d) next →
      exec .linkRegisterAccess s = .next s ∧ ∃ t, exec .linksRoleAnswer s = .next t ∧ sameMemory s t ∧
        (n = 0 → gives t d 0 ∧ t.lease? l p = none) ∧
        (n ≠ 0 → natMem s.linked p = false → gives t d 0 ∧ t.launches = s.launches) ∧
        (n ≠ 0 → natMem s.linked p = true →
          gives t d (match t.lease? l p with | some y => y.count | none => 0) ∧
          (∀ x, s.lease? l p = some x → n < x.count → (x.txs.map Prod.fst).Nodup →
            s.basesPlaced = true →
            ∃ y, t.lease? l p = some y ∧ y.die = x.die ∧ y.count = n ∧ (∀ u, u ∈ y.txs → u ∈ x.txs) ∧
              ∀ u v, u ∈ x.txs → u ∉ y.txs → v ∈ y.txs →
                u.2.1.rank < v.2.1.rank ∨ (u.2.1.rank = v.2.1.rank ∧ v.1 < u.1)) ∧
          (∀ x, s.lease? l p = some x → x.count ≤ n → x.count ≠ 0 →
            ∃ y, t.lease? l p = some y ∧ y.die = x.die ∧ (x.isWarming = false → y.hasParked = false) ∧ x.count ≤ y.count ∧
              y.count ≤ max x.count n ∧
              ∀ tx, n = x.count + 1 → freeTx s x.die p = some tx →
                y.count = n ∧ (tx, .warmWait, s.ptp) ∈ y.txs) ∧
          (∀ y, s.lease? l p = none → t.lease? l p = some y → y.die = dieOf c ∧ y.count ≤ n)) :) ∧
    (∀ i r d x due, i = .linkRegisterAccess ∨ i = .linksRoleAnswer → sl.stall = .links due (.read r d) next →
      s.launch? l = some x →
      ∃ t v, exec i s = .next t ∧ onlySlotAt s t c k ∧ gives t d v ∧
        (r = 0x090 → v = x.linkSel) ∧
        (r = 0x091 → v = (s.linkSet l x.linkSel).park * 2 ^ 16 + (s.linkSet l x.linkSel).wake) ∧
        (r = 0x092 → v = (s.linkSet l x.linkSel).floor) ∧
        ∀ y, s.lease? l x.linkSel = some y →
          (r = 0x093 → v = (y.txs.filter fun u => u.2.1.rank == 2).length) ∧
          (r = 0x094 → v = (y.txs.filter fun u => u.2.1.rank == 1).length * 2 ^ 8 +
            (y.txs.filter fun u => u.2.1.rank != 2).length) :) ∧
    (∀ i r w x due, i = .linkRegisterAccess ∨ i = .linksRoleAnswer → sl.stall = .links due (.write r w) next →
      s.launch? l = some x →
      ∃ t y, exec i s = .next t ∧ sameMemory s t ∧ t.slotAt c k = { sl with pc := next, entry := false, stall := .none } ∧
        t.launch? l = some y ∧ (∀ j, j ≠ l → t.launch? j = s.launch? j) ∧
          { y with linkSel := x.linkSel, linkSets := x.linkSets } = x ∧
        (r = 0x090 → y.linkSel = w.toNat % 2 ^ 6 ∧ y.linkSets = x.linkSets) ∧
        (r = 0x091 → y.linkSel = x.linkSel ∧ ∀ q, t.linkSet l q = (if q = x.linkSel then
          { s.linkSet l q with park := bitsOf w.toNat 31 16, wake := bitsOf w.toNat 15 0 } else s.linkSet l q)) ∧
        (r = 0x092 → y.linkSel = x.linkSel ∧ ∀ q, t.linkSet l q = (if q = x.linkSel then
          { s.linkSet l q with floor := bitsOf w.toNat 7 0 } else s.linkSet l q)) :) :) ∧
  (∀ (s : State) (l p tx : Nat) (x : Lease), s.lease? l p = some x →
    (∀ d, s.ev.die = d → d < s.warmAt.length → warmNext s d = some tx →
      (∀ e u, e ∈ allLeases s → e.2.2.die = d → u ∈ e.2.2.txs → u.2.1 = .warmWait → tx ≤ u.1) ∧
      (s.ptp < s.warmAt.getD d 0 → exec .warmingStart s = .next s) ∧
      (s.warmAt.getD d 0 ≤ s.ptp → ∃ t, exec .warmingStart s = .next t ∧ sameMemory s t ∧ t.cores = s.cores ∧
        t.lease? l p = some (if x.holds tx then x.setTx tx (.warming (s.ptp + 2400)) else x) ∧ t.warmAt.getD d 0 = s.ptp + 100) :) ∧
    (warmNext s s.ev.die = none → exec .warmingStart s = .next s :) ∧
    (∀ u t0, 17 * s.ev.port + s.ev.id = tx → leaseOf s tx = some (l, p, x) →
      x.txs.find? (·.1 == tx) = some (tx, .warming u, t0) →
      (s.ptp < u → exec .transmitterJoin s = .next s) ∧
      (u ≤ s.ptp → ∃ t, exec .transmitterJoin s = .next t ∧ sameMemory s t ∧ t.cores = s.cores ∧
        t.lease? l p = some { x.setTx tx .active with lastFlit := s.ptp }) :) ∧
    (∀ q, s.ev.launch = l → s.ev.peer = p → s.linkSet l p = q → x.txs.Pairwise (fun a b => a.1 < b.1) →
      (q.park = 0 ∨ s.idleTolerance < 2400 ∨ (s.stream x.die p).depth l ≠ 0 ∨ s.ptp < x.lastFlit + 100 * q.park →
        exec .parkDelayExpiry s = .next s) ∧
      (q.park ≠ 0 → 2400 ≤ s.idleTolerance → (s.stream x.die p).depth l = 0 → x.lastFlit + 100 * q.park ≤ s.ptp →
        ∃ t y, exec .parkDelayExpiry s = .next t ∧ onlyLaunch s t l ∧ t.lease? l p = some y ∧
          y.txs.length = x.txs.length ∧
          ∀ i u, x.txs[i]? = some u → y.txs[i]? = some (u.1,
            if u.2.1 = .active ∧ q.floor ≤ ((x.txs.take i).filter fun v => v.2.1 == .active).length then .parked else u.2.1,
            u.2.2)) :) ∧
    (∀ t0 on, s.ev.launch = l → s.ev.peer = p → x.starving = some t0 →
      on = (x.txs.filter fun u => u.2.1.rank != 0).length →
      (s.ptp < t0 + 10000 → exec .starvationTimer s = .next s) ∧
      (t0 + 10000 ≤ s.ptp → ∃ t y, exec .starvationTimer s = .next t ∧ sameMemory s t ∧ t.lease? l p = some y ∧
        y.starving = some s.ptp ∧ x.count ≤ y.count ∧ y.count ≤ x.count + ((s.linkSet l p).floor - on) ∧
        (on + 1 = (s.linkSet l p).floor →
          (∀ n, freeTx s x.die p = some n → y.count = x.count + 1 ∧ (n, .warmWait, s.ptp) ∈ y.txs) ∧
          (∀ l' p' n z, freeTx s x.die p = none → s.lease? l' p' = some z → (l', p') ≠ (l, p) →
            largestHolder s (otherLeases s l p x.die) (fun u => slotFree s (txPort u.1) p) = some (l', p', n) →
            y.count = x.count + 1 ∧ (n, .warmWait, s.ptp) ∈ y.txs ∧ t.lease? l' p' = some (z.dropTx n)))) :) ∧
    (x.starving = none → s.ev.launch = l → s.ev.peer = p → exec .starvationTimer s = .next s :) ∧
    (∀ port n, s.ev.port = port → s.ev.id = n → 17 * port + n = tx → port < 16 → n < 17 →
      (natMem s.failedTx tx = true → exec .transmitterFailure s = .next s) ∧
      (natMem s.failedTx tx = false →
        ∃ t, exec .transmitterFailure s = .next t ∧ sameMemory s t ∧ t.cores = s.cores ∧ natMem t.failedTx tx = true ∧
          (n ≠ 16 → natMem s.failedTx (17 * port + 16) = false → tget s.spares port = none →
            t.lease? l p = some (if x.holds tx then x.swapTx tx (17 * port + 16) else x) ∧ tget t.spares port = some n ∧
            ∃ r, t.ras = s.ras ++ [r] ∧ r.kind = 14 ∧ r.unit = 13 ∧ r.index = port ∧ r.detail.getD 0 0 = 2) ∧
          ((n = 16 ∨ natMem s.failedTx (17 * port + 16) = true ∨ tget s.spares port ≠ none) →
            leaseOf s tx = some (l, p, x) → s.baseTx.find? (fun b => b.2 == tx) = none →
            s.basesPlaced = true →
            (∀ e, e ∈ s.endingLeases → e.2.2.txs ≠ [] ∧ e.2.2.holds tx = false) →
              t.lease? l p = (if (x.dropTx tx).txs = [] then none else some (x.dropTx tx)))) :) :) ∧
  (∀ (s : State) (d p : Nat) (x : Stream), s.ev.die = d → s.ev.peer = p → s.stream d p = x →
    (boundary s < x.nextBoundary ∨ natMem s.linked p = false → exec .streamFlitSend s = .next s :) ∧
    (∀ u : State, u = placeBases (s.modStream d p fun y => { y with nextBoundary := boundary s + 1 }) →
      x.nextBoundary ≤ boundary s → natMem s.linked p = true →
      exec .streamFlitSend s = .next (dropEnded ((streamTxs u d p).foldl (sendFlit d p) u)) :) ∧
    (∀ tx : Nat, 256 ≤ x.unacked.length → sendFlit d p s tx = s :) ∧
    (∀ (key la f tx : Nat) (r : List (Nat × Nat × Nat)) (t : State), x.pending = (key, la, f) :: r →
      x.unacked.length < 256 → f < 2 ^ 256 → x.nextSeq < 2 ^ 16 → t = sendFlit d p s tx →
        ∃ flit : Nat, flit % 2 ^ 16 = x.nextSeq ∧ flit / 2 ^ 32 = f ∧
        flit / 2 ^ 16 % 2 ^ 16 = crc16 (leBytes x.nextSeq 2 ++ leBytes f 32) % 2 ^ 16 ∧
        t.notices = s.notices ++ [.flit d p tx flit] ∧ sameMemory s t ∧ t.cores = s.cores ∧
        (t.stream d p).pending = r ∧ (t.stream d p).nextSeq = (x.nextSeq + 1) % 2 ^ 16 ∧
        (t.stream d p).unacked = x.unacked ++ [(x.nextSeq, flit, s.ptp, 0)] :) ∧
    (∀ (key : Nat) (a : List Packet) (n : Nat), nextQueue s d p x = some key → x.queues.Pairwise (fun q r => q.1 < r.1) →
      (∀ q, q ∈ x.queues → 0 < heldTx s d p q.1) → tget x.queues key = some (a, n) →
      a ≠ [] ∧ ∀ q, q ∈ x.queues → q.2.1 ≠ [] → n * heldTx s d p q.1 ≤ q.2.2 * heldTx s d p key ∧
        (n * heldTx s d p q.1 = q.2.2 * heldTx s d p key → key ≤ q.1) :) ∧
    (∀ (f pl : Nat), s.ev.n = f → f / 2 ^ 32 = pl → pl < 2 ^ 256 → x.rxNext < 2 ^ 16 → natMem s.linked p = true →
      (flitChecks f = false ∨ 256 ≤ (f % 2 ^ 16 + 2 ^ 16 - x.rxNext) % 2 ^ 16 →
        exec .flitReceived s = .next s) ∧
      (∀ kind : Nat, flitChecks f = true → f % 2 ^ 16 = x.rxNext → x.rxHeld = [] → x.rxPart = [] → bitsOf pl 59 58 = 0 →
        bitsOf pl 63 60 = kind →
        ∃ (t : State) (y : Stream), exec .flitReceived s = .next t ∧ sameMemory s t ∧ t.cores = s.cores ∧ t.stream d p = y ∧
          y.rxNext = (x.rxNext + 1) % 2 ^ 16 ∧ y.rxHeld = [] ∧ y.rxPart = [] ∧ y.rxGap = none ∧
          (2 ≤ kind → kind ≤ 5 → ∃ q : Packet, y.rxPackets = x.rxPackets ++ [q] ∧ q.header.toNat = pl % 2 ^ 64 ∧
            ∀ i : Nat, i < 3 → (q.words.getD i 0).toNat = pl / 2 ^ (64 * (i + 1)) % 2 ^ 64) ∧
          (kind = 1 → y.rxPackets = x.rxPackets ∧ ∃ m : Transit, tget t.transits s.nextId = some m ∧
            m.msg.lo.toNat = pl / 2 ^ 64 % 2 ^ 64 ∧ m.msg.hi.toNat = pl / 2 ^ 128 % 2 ^ 64) ∧
          (kind = 0 ∨ 7 ≤ kind → y.rxPackets = x.rxPackets ∧ ∃ r : Ras, t.ras = s.ras ++ [r] ∧ r.kind = 11)) ∧
      (flitChecks f = true → (f % 2 ^ 16 + 2 ^ 16 - x.rxNext) % 2 ^ 16 < 256 → f % 2 ^ 16 ≠ x.rxNext →
        tget x.rxHeld x.rxNext = none →
        ∃ (t : State) (y : Stream), exec .flitReceived s = .next t ∧ sameMemory s t ∧ t.cores = s.cores ∧ t.stream d p = y ∧
          y.rxNext = x.rxNext ∧ y.rxPackets = x.rxPackets ∧ tget y.rxHeld (f % 2 ^ 16) = some (pl, s.ptp) ∧
          (x.rxGap.isSome = true → y.rxGap = x.rxGap) ∧ (x.rxGap = none → x.rxHeld = [] → y.rxGap = some s.ptp)) :) ∧
    (∀ f pl w : Nat, s.ev.n = f → f / 2 ^ 32 = pl → pl < 2 ^ 256 → w = pl / 2 ^ 64 % 2 ^ 64 →
      (natMem s.linked p = false ∨ flitChecks f = false ∨ f % 2 ^ 16 ≠ 0 ∨ bitsOf pl 63 60 ≠ 6 →
        exec .linkControlReceived s = .next s) ∧
      (∀ k first tx : Nat, natMem s.linked p = true → flitChecks f = true → f % 2 ^ 16 = 0 → bitsOf pl 63 60 = 6 →
        bitsOf w 1 0 = d → controlTx s d p = some tx → first = ((x.unacked.head?).map (·.1)).getD x.nextSeq →
        k = (bitsOf w 31 16 + 2 ^ 16 - first) % 2 ^ 16 → k ≤ x.unacked.length →
        ∃ (t : State) (y : Stream), exec .linkControlReceived s = .next t ∧ sameMemory s t ∧ t.cores = s.cores ∧
          t.stream d p = y ∧ y.ackedAt = s.ptp ∧
          (w.testBit 48 = false → y.unacked = x.unacked.drop k ∧ t.notices = s.notices) ∧
          (∀ (q f t0 n : Nat), w.testBit 48 = true → q = bitsOf w 47 32 →
            (x.unacked.drop k).find? (·.1 == q) = some (q, f, t0, n) → t.notices = s.notices ++ [.flit d p tx f] ∧
            y.unacked = (x.unacked.drop k).map fun u => if u.1 = q then (u.1, u.2.1, s.ptp, u.2.2.2 + 1) else u) ∧
          t.slew = (if s.cfg.timeFromPeer = some p ∧ pl / 2 ^ 128 % 2 ^ 64 ≠ 0 then
            17 * (pl / 2 ^ 128 % 2 ^ 64 : Nat) - (s.ptp17 : Int) else s.slew)) :) ∧
    (∀ tx : Nat, controlTx s d p = some tx →
      ((x.unacked.map Prod.fst).Nodup →
        ∃ t : State, exec .replayTimeout s = .next t ∧ sameMemory s t ∧ t.cores = s.cores ∧
          t.notices = s.notices ++
            (x.unacked.filter fun u => decide (u.2.2.1 + 2000 < s.ptp)).map (fun u => .flit d p tx u.2.1) ∧
          (t.stream d p).unacked = x.unacked.map fun u =>
            if u.2.2.1 + 2000 < s.ptp then (u.1, u.2.1, s.ptp, u.2.2.2 + 1) else u) ∧
      (∀ t0 : Nat, x.rxGap = some t0 → t0 + 16 ≤ s.ptp → x.rxHeld ≠ [] → ∃ t : State, exec .replayRequestTimer s = .next t ∧
        sameMemory s t ∧ t.cores = s.cores ∧
        t.notices = s.notices ++ [.control d p tx (controlFlit d x.rxNext (some x.rxNext))] ∧
        (t.stream d p).rxGap = some s.ptp ∧ (t.stream d p).rxAcked = x.rxNext) ∧
      (x.rxNext ≠ x.rxAcked → x.rxAckTime + 256 ≤ s.ptp → ∃ t : State, exec .ackTimer s = .next t ∧ sameMemory s t ∧
        t.cores = s.cores ∧ t.notices = s.notices ++ [.control d p tx (controlFlit d x.rxNext none)] ∧
        (t.stream d p).rxAcked = x.rxNext ∧ (t.stream d p).rxAckTime = s.ptp) :) ∧
    (x.rxGap = none → exec .replayRequestTimer s = .next s :) ∧
    (∀ t0 : Nat, x.rxGap = some t0 → s.ptp < t0 + 16 ∨ x.rxHeld = [] → exec .replayRequestTimer s = .next s :) ∧
    (x.rxNext = x.rxAcked ∨ s.ptp < x.rxAckTime + 256 → exec .ackTimer s = .next s :) :) ∧
  (∀ (s : State) (p : Nat) (q : Packet) (u : State), s.ev.peer = p →
    (∀ i kd, i = .peerRead ∧ kd = 2 ∨ i = .peerWrite ∧ kd = 3 ∨ i = .peerAtomic ∧ kd = 4 ∨ i = .peerResponse ∧ kd = 5 →
      (s.stream s.ev.die p).rxPackets.find? (·.kind == kd) = none → exec i s = .next s :) ∧
    (∀ i kd h, i = .peerRead ∧ kd = 2 ∨ i = .peerWrite ∧ kd = 3 ∨ i = .peerAtomic ∧ kd = 4 →
      (s.stream s.ev.die p).rxPackets.find? (·.kind == kd) = some q → q.hearth? = some h → awake (rouse s h) h = false →
      exec i s = .next (rouse s h) :) ∧
    (∀ l tr st v die key old, l < 2 ^ 8 → tr < 2 ^ 16 → st < 2 ^ 8 → die = s.sendDie l p → key = s.queueKey l p →
      old = ((tget (s.stream die p).queues key).getD ([], 0)).1 →
      ∃ k, ((tget ((respond s p l tr st v).stream die p).queues key).getD ([], 0)).1 = old ++ [k] ∧ k.kind = 5 ∧
        k.flits = 1 ∧ k.transaction = tr ∧ k.launch = l ∧ k.op = st ∧ k.words = [v] ∧
        (k.poison = true ↔ st = 3) :) ∧
    ((∀ h, q.hearth? = some h → awake (rouse s h) h = true) →
      u = (s.woken q).modStream s.ev.die p (fun y => { y with rxPackets := y.rxPackets.erase q }) →
      (∀ i kd a n, i = .peerRead ∧ kd = 2 ∨ i = .peerWrite ∧ kd = 3 ∨ i = .peerAtomic ∧ kd = 4 →
        (s.stream s.ev.die p).rxPackets.find? (·.kind == kd) = some q → a = (q.words.getD 0 0).toNat → n = 2 ^ q.size →
        let answers := fun (st : Nat) (v : Word) => exec i s = .next (respond u p q.launch q.transaction st v)
        let queued := fun (t : State) (st : Nat) (v : Word) => ∃ k,
          ((tget (t.stream (s.sendDie q.launch p) p).queues (s.queueKey q.launch p)).getD ([], 0)).1 =
            ((tget (s.stream (s.sendDie q.launch p) p).queues (s.queueKey q.launch p)).getD ([], 0)).1 ++ [k] ∧
          k.kind = 5 ∧ k.transaction = q.transaction ∧ k.op = st ∧ k.words = [v]
        (3 < q.size → answers 2 0) ∧
        (q.size ≤ 3 →
          (∀ h unit off, a / 2 ^ 56 = 0xFE → s.thisDevice (bitsOf a 55 50) = true → bitsOf a 49 40 = h →
            bitsOf a 39 36 = unit → unit ≤ 8 → bitsOf a 35 32 = 0 → bitsOf a 31 0 = off →
            let m := sramKey h unit off
            (∀ why, unitRefusal s h unit off n (fun x => x == q.launch) = some why → answers why 0) ∧
            (unitRefusal s h unit off n (fun x => x == q.launch) = none → s.checksHold m n = true →
              (kd = 2 → answers (if poisoned s.poison m n then 3 else 0) (word (memNat s.mem m n))) ∧
              (kd = 3 → Memory.wf s.mem = true → ∃ t, exec i s = .next (respond t p q.launch q.transaction 0 0) ∧
                memNat t.mem m n = (q.words.getD 1 0).toNat % 2 ^ (8 * n) ∧ sameMemoryBut s t m n ∧
                (q.poison = true → natMem t.poison (m / 64) = true)) ∧
              (kd = 4 → poisoned s.poison m n = true → answers 3 0) ∧
              (kd = 4 → poisoned s.poison m n = false → Memory.wf s.mem = true →
                ∃ t, exec i s = .next (respond t p q.launch q.transaction 0 (word (memNat s.mem m n))) ∧
                  sameMemoryBut s t m n ∧ ∀ x y, x = (q.words.getD 1 0).toNat % 2 ^ (8 * n) →
                    y = (q.words.getD 2 0).toNat % 2 ^ (8 * n) →
                    ∀ w, atomResult (q.op % 8) (q.op.testBit 3) n (memNat s.mem m n) x y = some w →
                      memNat t.mem m n = w % 2 ^ (8 * n)))) ∧
          (0xFE ≤ a / 2 ^ 56 → a / 2 ^ 56 = 0xFF ∨ s.thisDevice (bitsOf a 55 50) = false ∨ 8 < bitsOf a 39 36 ∨
            bitsOf a 35 32 ≠ 0 → answers 2 0) ∧
          (∀ m, a / 2 ^ 56 < 0xFE → a % 2 ^ 46 = m →
            (inWindows s p m n = false → answers 1 0) ∧
            (inWindows s p m n = true → Config.hbmBytes < m + n → answers 2 0) ∧
            (inWindows s p m n = true → m + n ≤ Config.hbmBytes → kd = 2 → s.homeFree (m / 128) = true →
              s.takesHost (m / 128) = true →
              (s.home (m / 128)).dir.owner = none → s.checksHold m n = true →
              ∃ t, exec i s = .next t ∧ queued t (if poisoned s.poison m n then 3 else 0) (word (memNat s.mem m n)) ∧
                sameMemory s t ∧ t.cores = s.cores) ∧
            (inWindows s p m n = true → m + n ≤ Config.hbmBytes → kd = 3 → s.homeFree (m / 128) = true →
              s.takesHost (m / 128) = true →
              (s.home (m / 128)).dir.targets none = [] → Memory.wf s.mem = true →
              ∃ t, exec i s = .next t ∧ queued t 0 0 ∧ t.cores = s.cores ∧
                memNat t.mem m n = (q.words.getD 1 0).toNat % 2 ^ (8 * n) ∧ sameMemoryBut s t m n)))) ∧
      (∀ key, (s.stream s.ev.die p).rxPackets.find? (·.kind == 5) = some q → s.noneBehind = true → key = transKey p q.transaction →
        (tget s.transactions key = none → exec .peerResponse s = .next u) ∧
        (∀ id r, tget s.transactions key = some (false, id) → tget s.remotes id = some r → r.kind.kept = true → r.parts = [] →
          ∃ t, exec .peerResponse s = .next t ∧ sameMemory s t ∧ t.cores = s.cores ∧ tget t.transactions key = none ∧
            tget t.remotes id = some { r with stage :=
              if q.op = 0 ∧ q.poison = false then .answered (q.words.getD 0 0) else .refused (if q.op = 0 then 3 else q.op) }) ∧
        (∀ id r w ext part, tget s.transactions key = some (false, id) → tget s.remotes id = some r → r.kind = .load →
          r.parts = [part] → r.window = some (w, ext) → q.op = 0 → q.poison = false →
          ∃ t, exec .peerResponse s = .next t ∧ sameMemory s t ∧ t.cores = s.cores ∧
            tget t.remotes id = some { r with parts := [], stage := .answered (word (windowValue w.toNat
              (bitsOf r.addr.toNat 31 0 / 4) ext (r.got ++ [(q.words.getD 0 0).toNat]))) }) ∧
        (∀ id m, tget s.transactions key = some (true, id) → tget s.transits id = some m →
          (∀ c k, q.op ≠ 5 → m.sender = .task c k → ∃ t, exec .peerResponse s = .next t ∧ sameMemory s t ∧
            t.cores = s.cores ∧ tget t.transits id = none ∧ tget t.transactions key = none) ∧
          (q.op = 5 → s.deaf m.msg.launch = false → m.firstRefusal = none → ∃ t, exec .peerResponse s = .next t ∧
            sameMemory s t ∧ t.cores = s.cores ∧ tget t.transits id = some { m with firstRefusal := some s.cycle
                                                                                    refusals := m.refusals + 1
                                                                                    leg := .waiting (s.cycle + retryGap (m.refusals + 1)) }))) :) :) ∧
  (∀ (s : State) (p : Nat), s.ev.peer = p →
    (natMem s.linked p = false ∨ (∀ d, d < 4 → streamLost s (s.stream d p) = false) → exec .peerUnreachable s = .next s :) ∧
    (∀ d, natMem s.linked p = true → p < 64 → d < 4 →
      (∃ x, x ∈ (s.stream d p).unacked ∧ 16 ≤ x.2.2.2) ∨
        ((s.stream d p).unacked ≠ [] ∧ (s.stream d p).ackedAt + 100000 ≤ s.ptp) →
      ∀ key id r, s.transactions.filter (fun t => t.1 / 2 ^ 16 == p) = [(key, false, id)] →
        tget s.remotes id = some r → r.kind.kept = true → (∀ t, t ∈ s.transits → ∀ n, t.2.leg ≠ .waiting n) →
        s.noneBehind = true →
        ∃ t, exec .peerUnreachable s = .next t ∧ sameMemory s t ∧ t.cores = s.cores ∧ natMem t.linked p = false ∧
          (∀ l, t.lease? l p = none) ∧ tget t.baseTx p = none ∧
          (∀ e, e < 4 → t.stream e p = { nextTransaction := (s.stream e p).nextTransaction }) ∧
          tget t.remotes id = some { r with stage := .refused 4 } ∧ tget t.retrainAt p = some (s.ptp + 10 ^ 9) ∧
          (s.cfg.timeFromPeer = some p → t.holdover = true) ∧
          (s.cfg.timeFromPeer ≠ some p → ∃ x, t.ras = s.ras ++ [x] ∧ x.kind = 6 ∧
            x.detail.getD 0 0 = BitVec.ofNat 8 p ∧ x.detail.getD 1 0 = 0) :) ∧
    (tget s.retrainAt p = none ∨ (∃ at_, tget s.retrainAt p = some at_ ∧ s.ptp < at_) → exec .linkRetrain s = .next s :) ∧
    (∀ at_, tget s.retrainAt p = some at_ → at_ ≤ s.ptp → s.ev.flag = false →
      ∃ t, exec .linkRetrain s = .next t ∧
        (Config.freeBit s.freeCtr = false → t.linked = s.linked ∧ tget t.retrainAt p = some (s.ptp + 10 ^ 9)) :) ∧
    (∀ at_, tget s.retrainAt p = some at_ → at_ ≤ s.ptp → s.ev.flag = true → p < 64 → s.basesPlaced = true →
      tget s.baseTx p = none →
      ∃ t, exec .linkRetrain s = .next t ∧ sameMemory s t ∧ t.cores = s.cores ∧ natMem t.linked p = true ∧
        (∀ tx, freeTx { s with freeCtr := s.freeCtr + 1 } (s.baseDie p) p = some tx → tget t.baseTx p = some tx) ∧
        (∀ e, e < 4 → (t.stream e p).unacked = [] ∧ (t.stream e p).rxNext = 0) ∧
        ∃ x, t.ras = s.ras ++ [x] ∧ x.kind = 6 ∧ x.detail.getD 0 0 = BitVec.ofNat 8 p ∧ x.detail.getD 1 0 = 1 :) :)

/-- Idle states (R282, R283, R284). A hearth with nothing to do, its Tongs idle too, is clock-gated, and power-gated 64 µs later
unless a launch with a rank there has a `SLACK` below 64 µs; a stack of HBM untouched for 10 µs refreshes itself; a die without
launch, firmware or port in use parks once its dirty lines are home: each only while the host accepts the exit latency. An 8-byte
write of the tolerance takes effect, and wakes each unit whose state takes longer to leave. A port that is down has no limit.
Heat, power, ports and time (R20, R21, R23, R25, R282). Above 105 °C at a hearth its die's tokens are halved, until every
hearth of the die reads below 100 °C; at 115 °C the die is parked, its launches fail, and the host is told. Above the power
limit a die has fewer tokens, never more than firmware set. Without its source the time unit runs on in holdover, which a
record says, leaves it when the source is back, and slews to it by at most a seventeenth of a nanosecond in a cycle, never
backwards.
Errors (R285, R287). One that can be corrected is counted and recorded with its syndrome; one that cannot poisons the granule in
SRAM and HBM with a record of origin, makes a register, a queue entry or a vector register full-faulted, and fences the hearth in
a directory, tag or TLB; a record names the core, the unit at hand or the hearth's LLC that erred; a row of HBM with 4 corrections is spared, and so is a channel; an instruction cache refetches the line.
A die-to-die link replaces 8 failed lanes and runs at half width with the ninth. Firmware scrubs HBM once in 24 hours.
What it says on a point the manual leaves open is the model's choice: log entries 64, 67, 75, 76. -/
def Obligations.PowerEvents : Prop :=
  (∀ (s : State),
    (∀ h, s.ev.hearth = h →
      (∀ i k, i < 8 → (s.slotAt (8 * h + i) k).held = true → exec .clockGate s = .next s) ∧
      (∀ i, i < 8 → (s.core (8 * h + i)).hwq ≠ [] ∨ (s.core (8 * h + i)).ring ≠ [] ∨ (s.core (8 * h + i)).commands ≠ [] ∨
        (s.core (8 * h + i)).lanes ≠ [] → exec .clockGate s = .next s) ∧
      (s.idleTolerance < 20 ∨ (s.hearth h).ops ≠ [] ∨ tongsBusy s h = true → exec .clockGate s = .next s) ∧
      (hearthIdle s h = true → (s.hearth h).clockGated = false → 20 ≤ s.idleTolerance → ∃ t, exec .clockGate s = .next t ∧
        onlyHearth s t h ∧ t.hearth h = { s.hearth h with clockGated := true, idleSince := s.ptp }) ∧
      ((s.hearth h).clockGated = false ∨ s.ptp < (s.hearth h).idleSince + 64000 ∨ s.idleTolerance < 2000 →
        exec .powerGateTimer s = .next s) ∧
      (∀ l f, (l, f) ∈ s.launches → s.hearthIn l h = true → (∀ x, s.launch? l = some x → x.lr.getD 16 0 ≠ 0) →
        (∀ n, s.fire? l = some n → n < s.ptp + 64000) → exec .powerGateTimer s = .next s) ∧
      ((s.hearth h).clockGated = true → (s.hearth h).powerGated = false → (s.hearth h).idleSince + 64000 ≤ s.ptp →
        2000 ≤ s.idleTolerance → (∀ l f n, (l, f) ∈ s.launches → s.hearthIn l h = true → s.fire? l = some n →
          s.ptp + 64000 ≤ n) →
        ∃ t, exec .powerGateTimer s = .next t ∧ onlyHearth s t h ∧ t.hearth h = { s.hearth h with powerGated := true }) :) ∧
    (∀ i, s.ev.id = i →
      (i < 12 → s.hbmAccess.getD i 0 + 10000 ≤ s.ptp → 3000 ≤ s.idleTolerance →
        exec .hbmSelfRefresh s = .next { s with selfRefresh := s.selfRefresh.set i true }) ∧
      (s.ptp < s.hbmAccess.getD i 0 + 10000 ∨ s.idleTolerance < 3000 → exec .hbmSelfRefresh s = .next s) :) ∧
    (∀ d, s.ev.die = d →
      (dieUnused s d = true → d < 4 → 40000 ≤ s.idleTolerance → ∃ t, exec .diePowerPark s = .next t ∧
        { t with homes := s.homes, powerParked := s.powerParked } = s ∧ t.powerParked = s.powerParked.set d true ∧
        ∀ line, t.home line = (if homeHearth s line / 256 = d then
          { s.home line with dir := { (s.home line).dir with dirty := false } } else s.home line)) ∧
      (s.idleTolerance < 40000 ∨ (∃ r, (d, r) ∈ s.firmwareSites) ∨
          (∃ l x c, (l, x) ∈ s.launches ∧ c ∈ x.cores ++ x.gangCores ∧ dieOf c = d) ∨
          (∃ i, i < 3 ∧ s.selfRefresh.getD (3 * d + i) false = false) →
        exec .diePowerPark s = .next s) :) ∧
    (∀ p, s.ev.port = p →
      (s.ev.bytes.length ≠ 8 ∨ portOpen s p = false → exec .latencyToleranceWrite s = .next s) ∧
      (s.ev.bytes.length = 8 → p < 2 → p < s.tolerance.length → portOpen s p = true →
        ∃ t n, exec .latencyToleranceWrite s = .next t ∧ sameMemory s t ∧ t.cores = s.cores ∧ n = t.idleTolerance ∧
          t.tolerance.getD p 0 = leNat s.ev.bytes % 2 ^ 32 ∧
          (∀ h, (t.hearth h).clockGated = ((s.hearth h).clockGated && decide (20 ≤ n)) ∧
            (t.hearth h).powerGated = ((s.hearth h).powerGated && decide (2000 ≤ n))) ∧
          (∀ i, t.selfRefresh.getD i false = (s.selfRefresh.getD i false && decide (3000 ≤ n))) ∧
          (∀ d, t.powerParked.getD d false = (s.powerParked.getD d false && decide (40000 ≤ n))) ∧
          (n < 2400 → ∀ l q x, t.lease? l q = some x → x.hasParked = false ∨ x.isWarming = true)) :) ∧
    (∀ a b, a = (if s.portUp.getD 0 false then s.tolerance.getD 0 0 else 0xFFFFFFFF) →
      b = (if s.portUp.getD 1 false then s.tolerance.getD 1 0 else 0xFFFFFFFF) → s.idleTolerance = min a b :) :) ∧
  (∀ (s : State),
    (∀ h d, s.ev.hearth = h → h < 1024 → h / 256 = d → d < s.halved.length → d < s.freeTokens.length →
      d < s.heatParked.length → s.hearths.Pairwise (fun a b => a.1 < b.1) → ∃ t, exec .thermalReading s = .next t ∧
        (t.hearth h).temp = s.ev.int ∧ sameMemory s t ∧
        (840 < s.ev.int → s.halved.getD d false = false →
          t.halved.getD d false = true ∧ (t.freeTokens.getD d []).length = s.tokens.getD d 0 / 2 - tokensHeld s d ∧
            ∃ r, r ∈ t.ras ∧ r.kind = 18 ∧ r.die = d ∧ r.detail.getD 0 0 = 1) ∧
        (s.halved.getD d false = true → s.ev.int < 800 → (∀ g, g ≠ h → g / 256 = d → (s.hearth g).temp < 800) →
          t.halved.getD d false = false ∧
            (t.freeTokens.getD d []).length = s.tokens.getD d 0 - tokensHeld s d ∧
            ∃ r, r ∈ t.ras ∧ r.kind = 18 ∧ r.die = d ∧ r.detail.getD 0 0 = 0) ∧
        (s.halved.getD d false = true → 800 ≤ s.ev.int → t.halved = s.halved) ∧
        (s.ev.int < 920 → t.heatParked = s.heatParked ∧ t.launches = s.launches) ∧
        (920 ≤ s.ev.int → s.heatParked.getD d false = false → t.heatParked.getD d false = true ∧
          .dieParked d ∈ t.notices ∧ (∃ r, r ∈ t.ras ∧ r.kind = 4 ∧ r.die = d ∧ r.detail.getD 0 0 = 0) ∧
          ∀ l x c, s.launch? l = some x → c ∈ x.cores → dieOf c = d → x.status = 0 →
            ∃ y, t.launch? l = some y ∧ y.status = 3) :) ∧
    (∀ d n, s.ev.die = d → d < 4 → d < s.tokens.length → s.ev.n = n → ∃ t, exec .powerLimitExceed s = .next t ∧
      { t with tokens := s.tokens, freeTokens := s.freeTokens } = s ∧
      t.tokens.getD d 0 = (if s.ev.flag then s.cfg.tokens else min n (s.tokens.getD d 0)) ∧
      ∀ e, e ≠ d → t.tokens.getD e 0 = s.tokens.getD e 0 ∧ t.freeTokens.getD e [] = s.freeTokens.getD e [] :) ∧
    (s.holdover = true → exec .disciplineLoss s = .next s :) ∧
    (hasSource s = false → exec .disciplineReturn s = .next s :) ∧
    (hasSource s = true → s.holdover = false →
      exec .disciplineReturn s = .next { s with slew := s.ev.int, slewCycles := 0 } :) ∧
    (s.ptp17 + 19 ≤ (tickTime s).ptp17 ∧ (tickTime s).ptp17 ≤ s.ptp17 + 21 ∧
      (s.holdover = true ∨ s.slew = 0 → (tickTime s).ptp17 = s.ptp17 + 20) :) ∧
    (s.holdover = false → ∃ t r, exec .disciplineLoss s = .next t ∧ t.holdover = true ∧ t.ras = s.ras ++ [r] ∧ r.kind = 10 ∧
      r.detail.getD 0 0 = 1 ∧ t.ptp17 = s.ptp17 :) ∧
    (hasSource s = true → s.holdover = true → ∃ t r, exec .disciplineReturn s = .next t ∧ t.holdover = false ∧
      t.slew = s.ev.int ∧ t.ras = s.ras ++ [r] ∧
      r.kind = 10 ∧ r.detail.getD 0 0 = 0 ∧ t.ptp17 = s.ptp17 :) ∧
    (∀ p, s.ev.port = p → p < 2 → p < s.portUp.length →
      (∃ t, exec .hostPortDown s = .next t ∧ t.portUp.getD p true = false ∧ sameMemory s t ∧ t.cores = s.cores ∧
        (hasSource { s with portUp := s.portUp.set p false } = false → t.holdover = true) ∧
        (hasSource { s with portUp := s.portUp.set p false } = true → t.holdover = s.holdover)) ∧
      ∃ t, exec .hostPortUp s = .next t ∧ t.portUp.getD p false = true ∧ sameMemory s t ∧ t.cores = s.cores ∧
        (s.holdover = true → hasSource { s with portUp := s.portUp.set p true } = true → ⟨.disciplineReturn, {}⟩ ∈ t.agenda) :) ∧
    (∀ b, b = s.portUp → hasSource s = (match s.cfg.timeFromPeer with
      | some p => natMem s.linked p
      | none => (b.getD 0 false && s.cfg.port0 == some .pcie) || b.getD 1 false) :) :) ∧
  (∀ (s : State) (id : Nat), s.ev.id = id →
    (s.ev.queue = 1 → sramUnit s.ev = (s.ev.core / 8, s.ev.core % 8) :) ∧
    (s.ev.queue = 2 → sramUnit s.ev = (s.ev.hearth, 9) :) ∧
    (∀ h unit off, s.ev.queue = 0 → keyUnit id = some (h, unit, off) → sramUnit s.ev = (h, unit) :) ∧
    (s.ev.n = 0 ∨ s.ev.n = 2 → s.ev.flag = true → ∃ t r, exec .softError s = .next t ∧ sameMemory s t ∧ t.cores = s.cores ∧
      natMem t.poison (id / 64) = true ∧ (∀ g, g ≠ id / 64 → natMem t.poison g = natMem s.poison g) ∧
      t.ras = s.ras ++ [r] ∧ r.kind = 2 ∧ r.addr = id ∧ r.detail.getD 0 0 = 1 ∧
      (s.ev.n = 0 → (r.hearth, r.unit) = sramUnit s.ev) :) ∧
    (s.ev.n = 0 ∨ s.ev.n = 3 → s.ev.flag = false → ∀ h unit, sramUnit s.ev = (h, unit) →
      ∃ t r, exec .softError s = .next t ∧ onlyHearth { s with ras := t.ras, rasSeq := t.rasSeq, notices := t.notices } t h ∧
        (t.hearth h).corrections = (s.hearth h).corrections + 1 ∧ t.ras = s.ras ++ [r] ∧ r.kind = 1 ∧ r.hearth = h ∧ r.unit = unit ∧
        r.detail.getD 2 0 = (if s.ev.n = 0 then 0 else 3) ∧ leNat (r.detail.take 2) = s.ev.port % 2 ^ 16 ∧
        (s.cfg.correctionLimit ≠ 0 → s.cfg.correctionLimit ≤ (s.hearth h).corrections + 1 →
          ⟨.hearthRetire, { hearth := h }⟩ ∈ t.agenda) :) ∧
    (s.ev.n = 1 → ∀ c k, s.ev.core = c → s.ev.slot = k →
      (s.ev.flag = false → ∃ t r, exec .softError s = .next t ∧ t.cores = s.cores ∧ t.ras = s.ras ++ [r] ∧ r.kind = 1 ∧
        r.detail.getD 2 0 = 1 ∧ (t.hearth (c / 8)).corrections = (s.hearth (c / 8)).corrections + 1) ∧
      (s.ev.flag = true → ∃ t r, exec .softError s = .next t ∧ sameMemory s t ∧ t.ras = s.ras ++ [r] ∧ r.kind = 2 ∧
        (s.ev.queue = 0 → id < 32 → id < (s.slotAt c k).win.act.length → (t.slotAt c k).named id = ⟨0, .faulted true 0 0⟩ ∧
          ∀ i, i ≠ id → (t.slotAt c k).named i = (s.slotAt c k).named i) ∧
        (s.ev.queue = 1 → (t.slotAt c k).queue = (s.slotAt c k).queue.set id ⟨0, .faulted true 0 0⟩) ∧
        (s.ev.queue = 2 → (t.slotAt c k).vfaults = (s.slotAt c k).vfaults.set id (some { poison := true, addr := 0, pc := 0 })) ∧
        (s.ev.queue = 3 → (t.slotAt c k).composer = (s.slotAt c k).composer.set id ⟨0, .faulted true 0 0⟩)) :) ∧
    (s.ev.n = 2 → s.ev.flag = false → ∃ t r, exec .softError s = .next t ∧ sameMemory s t ∧ t.cores = s.cores ∧
      t.ras = s.ras ++ [r] ∧ r.kind = 1 ∧ r.unit = 12 ∧ r.addr = id ∧ r.detail.getD 2 0 = 2 ∧
      (3 ≤ (tget s.hbmCorrections (hbmRow id)).getD 0 → natMem t.sparedRows (hbmRow id) = true) ∧
      ((tget s.hbmCorrections (hbmRow id)).getD 0 < 3 → t.sparedRows = s.sparedRows) :) ∧
    (s.ev.n = 3 → s.ev.flag = true → ∀ h unit, sramUnit s.ev = (h, unit) → (s.hearth h).fenced = false →
      ∃ t, exec .softError s = .next t ∧ (t.hearth h).fenced = true ∧ ∃ r, r ∈ t.ras ∧ r.kind = 3 ∧ r.hearth = h :) ∧
    (s.ev.n = 4 → ∃ t, exec .softError s = .next t ∧ onlyCore s t s.ev.core ∧
      natMem (t.core s.ev.core).icache id = false :) ∧
    (s.ev.n = 5 → exec .softError s = .next { s with badCheck := natIns s.badCheck (id / 64) } :) ∧
    (6 ≤ s.ev.n → exec .softError s = .next { s with sparedChannels := natIns s.sparedChannels id } :) ∧
    (s.boot ≠ .running ∨ s.ptp < s.scrubAt → exec .hbmScrub s = .next s :) ∧
    (s.boot = .running → s.scrubAt ≤ s.ptp →
      exec .hbmScrub s = .next { s with scrubs := s.scrubs + 1, scrubAt := s.scrubAt + 86400 * 10 ^ 9 } :) ∧
    (∀ n, id < 6 → n = s.failedLanes.getD id 0 + 1 → ∃ t, exec .dieLinkLaneFailure s = .next t ∧
      { t with failedLanes := s.failedLanes, ras := s.ras, rasSeq := s.rasSeq, notices := s.notices } = s ∧
      t.failedLanes = s.failedLanes.set id n ∧
      (9 < n → t.ras = s.ras) ∧
      (n ≤ 9 → ∃ r, t.ras = s.ras ++ [r] ∧ r.kind = 14 ∧ r.unit = 14 ∧ r.index = id ∧
        r.detail.getD 0 0 = (if n = 9 then 1 else 0)) :) :)

/-- Retirement (R12, R286, R291). A hearth asked for by the host, or worn, first stops dispatch; once its tasks have ended its
contexts are saved, those of which some chunk cannot be written twice staying where they are; then it moves to the spare site of its row, or to one of its span, with its dirty lines home, the contexts are
restored and dispatch resumes. Without a spare a record says that it is refused, and the hearth is fenced. The command is refused
for a number that is no hearth and where no spare remains.
Boot, power loss and the management port (R288, R289, R291, R292, R293). When firmware and configuration table bear keys with the
hash in fuses, both signatures hold for what is stored and the table is no older than the version fused, the part runs by the table; otherwise it
stays in recovery. Only what is non-volatile outlives a reset or a power loss. The port gives the oldest unread record, the
sensors, and a report, whose index is committed first and is refused with status 2 once all 65,536 are used; it takes an image only
in recovery; an unknown command has status 3; its responses are read in order, each with its status, command and length.
What it says on a point the manual leaves open is the model's choice: log entries 1, 50, 63, 64, 65, 66, 69. -/
def Obligations.ServiceEvents : Prop :=
  (∀ (s : State) (h : Nat) (worn : Bool), s.ev.hearth = h →
    worn = (decide (s.cfg.correctionLimit ≠ 0) && decide (s.cfg.correctionLimit ≤ (s.hearth h).corrections)) →
    (s.boot ≠ .running ∨ 1024 ≤ h ∨ (s.hearth h).fenced = true ∨ (natMem s.retiring h = false ∧ worn = false) →
      exec .hearthRetire s = .next s :) ∧
    (s.boot = .running → h < 1024 → (s.hearth h).fenced = false → natMem s.retiring h = true ∨ worn = true →
      (takeSpare s h = none → ∃ t, exec .hearthRetire s = .next t ∧ natMem t.retiring h = false ∧
        (∃ r, r ∈ t.ras ∧ r.kind = 5 ∧ r.hearth = h ∧ r.detail.getD 0 0 = 1) ∧ (t.hearth h).fenced = true) ∧
      (∀ row u, takeSpare s h = some (row, u) →
        ((s.hearth h).dispatchStopped = false ∨ hearthSettled s h = false → ∃ t, exec .hearthRetire s = .next t ∧
          natMem t.retiring h = true ∧
          (t.hearth h).dispatchStopped = true ∧ t.cores = s.cores ∧ t.usedSpares = s.usedSpares) ∧
        ((s.hearth h).dispatchStopped = true → hearthSettled s h = true →
          (∃ c, c / 8 = h ∧ (s.core c).resident ≠ none) → exec .hearthRetire s = .next ((coresOf h).foldl retireCore s)) ∧
        ((s.hearth h).dispatchStopped = true → hearthSettled s h = true → (∀ c, c / 8 = h → (s.core c).resident = none) →
          (s.ev.flag = false ∨ (s.hearth h).holder = none →
            exec .hearthRetire s = .next (moveHearth (saveHolder u h (s.chunkMap 8)) h row)) ∧
          (s.ev.flag = true → (s.hearth h).holder ≠ none → exec .hearthRetire s = .next s)) ∧
        ((s.hearth h).dispatchStopped = true → hearthSettled s h = true → (∀ c, c / 8 = h → (s.core c).resident = none) →
          (s.hearth h).holder = none → (s.hearth h).moved = [] → row < 256 → ∃ t r, exec .hearthRetire s = .next t ∧
            sameMemory s t ∧ t.cores = s.cores ∧
          natMem t.retiring h = false ∧ (t.hearth h).retired = true ∧ (t.hearth h).dispatchStopped = false ∧
          (t.hearth h).site = some (16, row) ∧ t.usedSpares = s.usedSpares ++ [(h / 256, 16, row)] ∧
          (h / 256, 16, row) ∉ t.firmwareSites ∧
          (∀ line, homeHearth s line = h → (t.home line).dir.dirty = false) ∧
          (∀ line, homeHearth s line ≠ h → t.home line = s.home line) ∧
          t.ras = s.ras ++ [r] ∧ r.kind = 5 ∧ r.hearth = h ∧
          r.detail.getD 0 0 = 0 ∧ r.detail.getD 1 0 = 16 ∧ r.detail.getD 2 0 = BitVec.ofNat 8 row)) :) ∧
    (∀ row u, takeSpare s h = some (row, u) → (h / 256, 16, row) ∉ s.usedSpares ∧ row / 4 = h % 256 / 16 / 4 ∧
      ((h / 256, 16, h % 256 / 16) ∉ s.usedSpares → row = h % 256 / 16) :) ∧
    (s.ev.bytes.length ≠ 2 → exec .retire s = .next { s with responses := s.responses ++ [⟨3, 4, []⟩] } :) ∧
    (s.ev.bytes.length = 2 → s.boot ≠ .running →
      exec .retire s = .next { s with responses := s.responses ++ [⟨5, 4, []⟩] } :) ∧
    (s.ev.bytes.length = 2 → s.boot = .running → ∀ n, n = leNat s.ev.bytes →
      (n < 1024 → (s.hearth n).fenced = false → takeSpare s n = none → ∃ t, exec .retire s = .next t ∧
        t.responses = s.responses ++ [⟨4, 4, []⟩] ∧ natMem t.retiring n = false ∧ (t.hearth n).fenced = true ∧
        ∃ r, r ∈ t.ras ∧ r.kind = 5 ∧ r.hearth = n ∧ r.detail.getD 0 0 = 1) ∧
      (1024 ≤ n ∨ (s.hearth n).fenced = true → ∃ t r, exec .retire s = .next t ∧ t.responses = s.responses ++ [⟨4, 4, []⟩] ∧
        t.retiring = s.retiring ∧ t.ras = s.ras ++ [r] ∧ r.kind = 5 ∧ r.detail.getD 0 0 = 1) ∧
      (n < 1024 → takeSpare s n ≠ none → (s.hearth n).fenced = false → ∃ t, exec .retire s = .next t ∧
        t.responses = s.responses ++ [⟨0, 4, []⟩] ∧ natMem t.retiring n = true ∧ (t.hearth n).dispatchStopped = true ∧
        ⟨.hearthRetire, { hearth := n }⟩ ∈ t.agenda ∧ t.cores = s.cores) :) :) ∧
  (∀ (s : State) (b : List Byte), s.ev.bytes = b →
    let answers := fun (st cmd : Nat) (data : List Byte) => { s with responses := s.responses ++ [(⟨st, cmd, data⟩ : MgmtResponse)] }
    (∃ t, exec .powerLoss s = .next t ∧ t.nv = s.nv ∧
      { t with nv := State.reset.nv, turns := State.reset.turns, freeCtr := State.reset.freeCtr } = State.reset :) ∧
    (s.nv.firmware.length < 2820 ∨ s.nv.table.image.length < 2820 ∨ s.nv.firmwareKey ≠ s.nv.keyHash ∨
      s.nv.tableKey ≠ s.nv.keyHash ∨ s.nv.table.port0 = none ∨ s.nv.table.port1 = none ∨
      s.nv.table.version < s.nv.fusedVersion →
      ∃ t, exec .resetBoot s = .next t ∧ t.boot = .recovery ∧ t.nv = s.nv ∧ t.mem = [] ∧ t.cores = [] :) ∧
    (2820 ≤ s.nv.firmware.length → 2820 ≤ s.nv.table.image.length → s.nv.firmwareKey = s.nv.keyHash →
      s.nv.tableKey = s.nv.keyHash → s.nv.table.port0 ≠ none → s.nv.table.port1 ≠ none →
      s.nv.fusedVersion ≤ s.nv.table.version →
      ∃ t, exec .resetBoot s = .next t ∧ (t.boot = .running ∨ t.boot = .recovery) ∧
        (t.boot = .running ↔ signatureHolds s.nv.firmware = true ∧ signatureHolds s.nv.table.image = true) ∧
        (t.boot = .recovery → t.nv = s.nv ∧ t.mem = [] ∧ t.cores = []) ∧ (t.boot = .running → t.cfg = s.nv.table ∧
          t.mem = [] ∧ t.cores = [] ∧
        t.nv = { s.nv with fusedVersion := s.nv.table.version } ∧ t.ptp = s.ev.n ∧ t.queueBase = s.ev.id ∧
        t.tokens = List.replicate 4 s.nv.table.tokens ∧
        ∀ p, natMem t.linked p = ((b.any fun x => x.toNat == p) && decide (p < 63) && s.nv.table.routes.any (fun r => r.2 == p))) :) ∧
    (s.ev.flag = true → exec .readRas s =
      .next (if 1 ≤ s.ev.n % 256 ∧ s.ev.n % 256 ≤ 5 then s else answers 3 (s.ev.n % 256) []) :) ∧
    (b ≠ [] → (s.ev.flag = false → exec .readRas s = .next (answers 3 1 [])) ∧ exec .readSensors s = .next (answers 3 2 []) :) ∧
    (b = [] → s.ev.flag = false → s.ras = [] → exec .readRas s = .next (answers 1 1 []) :) ∧
    (∀ r rest, b = [] → s.ev.flag = false → s.ras = r :: rest →
      ∃ data, exec .readRas s = .next { answers 0 1 data with ras := rest } ∧
      (r.detail.length = 32 → data.length = 64) ∧ leNat (data.take 8) = r.time % 2 ^ 64 ∧
      leNat ((data.drop 8).take 2) = r.seq % 2 ^ 16 ∧ leNat ((data.drop 10).take 1) = r.kind % 2 ^ 8 ∧
      leNat ((data.drop 11).take 1) = r.die % 2 ^ 8 ∧ leNat ((data.drop 12).take 2) = r.hearth % 2 ^ 16 ∧
      leNat ((data.drop 14).take 1) = r.unit % 2 ^ 8 ∧ leNat ((data.drop 15).take 1) = r.index % 2 ^ 8 ∧
      leNat ((data.drop 16).take 8) = r.addr % 2 ^ 64 ∧ leNat ((data.drop 24).take 1) = r.launch.getD 0 % 2 ^ 8 ∧
      leNat ((data.drop 25).take 1) = (if r.launch.isSome then 1 else 0) ∧
      leNat ((data.drop 26).take 2) = r.asid % 2 ^ 14 ∧ leNat ((data.drop 28).take 4) = r.count % 2 ^ 32 ∧
      data.drop 32 = r.detail.take 32 :) ∧
    (b = [] → ∃ data, exec .readSensors s = .next (answers 0 2 data) ∧ data.length = 12 ∧
      (∀ d, d < 4 → ∃ m : Int, leNat ((data.drop (2 * d)).take 2) = (m % 2 ^ 16).toNat ∧
        (∀ h, h / 256 = d → (s.hearth h).temp ≤ m) ∧ ∃ h, h / 256 = d ∧ (s.hearth h).temp = m) ∧
      leNat ((data.drop 8).take 2) = s.ev.n % 2 ^ 16 ∧
      ∀ d, d < 4 → (leNat ((data.drop 10).take 2)).testBit d = s.heatParked.getD d false :) ∧
    (b.length ≠ 32 → exec .attest s = .next (answers 3 3 []) :) ∧
    (b.length = 32 → 65536 ≤ s.nv.attestIndex → exec .attest s = .next (answers 2 3 []) :) ∧
    (∀ i, b.length = 32 → s.nv.attestIndex = i → i < 65536 → ∃ data,
      exec .attest s = .next { answers 0 3 data with nv := { s.nv with attestIndex := i + 1 } } ∧ data.length = 2820 ∧
      leNat (data.take 2) = 1 ∧ leNat ((data.drop 2).take 2) = 0 ∧ leNat ((data.drop 4).take 4) = i ∧
      (data.drop 16).take 32 = fixedBytes 32 (digest s.nv.firmware) ∧
      (data.drop 48).take 32 = fixedBytes 32 (digest s.cfg.image) ∧
      leNat ((data.drop 80).take 8) = s.cfg.version % 2 ^ 64 ∧ (data.drop 88).take 32 = b ∧
      leNat ((data.drop 120).take 8) = s.ptp % 2 ^ 64 :) ∧
    (s.boot ≠ .recovery → exec .recoveryImage s = .next (answers 5 5 []) :) ∧
    (s.boot = .recovery → b = [] ∨ 256 < b.length ∨ (s.recovery = none ∧ b.length < 4) →
      exec .recoveryImage s = .next (answers 3 5 []) :) ∧
    (∀ n got image, s.boot = .recovery → b ≠ [] → b.length ≤ 256 →
      (s.recovery = none ∧ 4 ≤ b.length ∧ leNat (b.take 4) = n ∧ got = b.drop 4) ∨
        (∃ l, s.recovery = some (n, l) ∧ got = l ++ b) → image = got.take n →
      (got.length < n → exec .recoveryImage s = .next { answers 0 5 [] with recovery := some (n, got) }) ∧
      (n ≤ got.length → s.ev.flag = false → exec .recoveryImage s = .next { answers 0 5 [] with
        recovery := none, nv := { s.nv with firmware := image, firmwareKey := keyHashOf image } }) ∧
      (n ≤ got.length → s.ev.flag = true → exec .recoveryImage s = .next (
        if (tableOf image).version < s.nv.fusedVersion then { answers 4 5 [] with recovery := none }
        else { answers 0 5 [] with
          recovery := none, nv := { s.nv with table := { tableOf image with image := image }, tableKey := keyHashOf image } })) :) ∧
    (s.responses = [] → exec .mgmtResponseRead s = .next (s.notify (.mgmt [3, 0, 0, 0])) :) ∧
    (∀ st cmd data rest, s.responses = ⟨st, cmd, data⟩ :: rest →
      exec .mgmtResponseRead s = .next { s with responses := rest, notices := s.notices ++
        [.mgmt (leBytes st 1 ++ leBytes cmd 1 ++ leBytes data.length 2 ++ data)] } :) :)

/-! ### The whole part -/

/-- The die and the stack of an HBM address (R127), and the home of a line (R128): the hearth of the owning die, or for a host line of
the die of the port that carries it, whose number is the XOR of five bytes of the address. -/
def Obligations.MemoryMap : Prop :=
  ∀ (s : State) (pa : Nat),
    (∀ d, d < 4 → d * 0x3000000000 ≤ pa → pa < (d + 1) * 0x3000000000 →
      hbmDie pa = d ∧ hbmStack pa = 3 * d + (pa - d * 0x3000000000) / 4096 % 3) ∧
    (∀ h, h = (pa / 2 ^ 7 % 2 ^ 8) ^^^ (pa / 2 ^ 15 % 2 ^ 8) ^^^ (pa / 2 ^ 23 % 2 ^ 8) ^^^ (pa / 2 ^ 31 % 2 ^ 8) ^^^
        (pa / 2 ^ 39 % 2 ^ 8) →
      (pa < 0xC000000000 → homeHearth s (pa / 128) = hbmDie pa * 256 + h) ∧
      (pa < 2 ^ 52 → homeHearth s (hostKey pa / 128) = (if s.cfg.port0 = some .cxl then 0 else 2) * 256 + h)) ∧
    hbmDie 0x12345089AB = 0 ∧ hbmStack 0x12345089AB = 2 ∧ homeHearth s (0x12345089AB / 128) = 0xFE

/-- The part right after reset, where the manual gives a value: no hearth runs before boot (R288), each port's tolerance is 0
(R282), each core's `VSHARE` is 8 (R205), and no record has been made (R292); and its memory has its canonical form, with no
byte listed.
What it says on a point the manual leaves open is the model's choice: log entries 1, 2. -/
def Obligations.ResetState : Prop :=
  State.reset.boot = .reset ∧ (∀ p, p < 2 → State.reset.tolerance.getD p 1 = 0) ∧
    (∀ c, (State.reset.core c).vshare = 8 ∧ (State.reset.core c).resident = none) ∧
    (∀ c k, (State.reset.slotAt c k).held = false) ∧ State.reset.rasSeq = 0 ∧ State.reset.ras = [] ∧
    Memory.wf State.reset.mem = true ∧ (∀ a, memGet State.reset.mem a = 0) ∧ State.reset.launches = [] ∧
    ∃ t, step State.reset = .next t ∧ t.cores = [] ∧ t.mem = []

/-- Memory keeps its canonical form in every step: from any state whose memory lists strictly rising keys and no zero byte, a step
that gives a next state gives one whose memory does so too.
What it says on a point the manual leaves open is the model's choice: log entry 1. -/
def Obligations.MemoryInvariant : Prop :=
  ∀ s t : State, Memory.wf s.mem = true → step s = .next t → Memory.wf t.mem = true
end

