-- ==== Sys2Proof/Laws/Memory.lean ====
section
/-! SUPPORT. Memory: reading after a write, and that every memory operation keeps the canonical form. -/

namespace Sys2Proof.Machine

theorem memOk_mono {lo lo' : Nat} {m : List Host.Cell} (h : memOk lo m = true) (hl : lo' ≤ lo) : memOk lo' m = true := by
  cases m with
  | nil => rfl
  | cons c r =>
    obtain ⟨k, b⟩ := c
    simp only [memOk, Bool.and_eq_true, decide_eq_true_eq] at h ⊢
    exact ⟨⟨by omega, h.1.2⟩, h.2⟩

/-- Nothing is listed below the bound of a canonical list. -/
theorem memGet_below {lo a : Nat} {m : List Host.Cell} (h : memOk lo m = true) (ha : a < lo) : memGet m a = unlisted := by
  cases m with
  | nil => rfl
  | cons c r =>
    obtain ⟨k, b⟩ := c
    simp only [memOk, Bool.and_eq_true, decide_eq_true_eq] at h
    simp [memGet, show ¬k = a by omega, show a < k by omega]

theorem memPut_ok {lo a : Nat} {m : List Host.Cell} (b : Byte) (h : memOk lo m = true) (ha : lo ≤ a) :
    memOk lo (memPut m a b) = true := by
  induction m generalizing lo with
  | nil => by_cases hb : b = unlisted <;> simp [memPut, memOk, hb, ha]
  | cons c r ih =>
    obtain ⟨k, v⟩ := c
    simp only [memOk, Bool.and_eq_true, decide_eq_true_eq] at h
    obtain ⟨⟨h1, h2⟩, h3⟩ := h
    by_cases hk : a < k
    · by_cases hb : b = unlisted <;> simp [memPut, memOk, hk, hb, ha, h1, h2, h3, show a + 1 ≤ k by omega]
    · by_cases he : k = a
      · subst he
        by_cases hb : b = unlisted
        · simp [memPut, hb, memOk_mono h3 (Nat.le_succ_of_le h1)]
        · simp [memPut, memOk, hb, h1, h3]
      · simp [memPut, memOk, hk, he, h1, h2, ih h3 (by omega)]

/-- Writing a byte keeps the canonical form. -/
theorem memPut_wf {m : List Host.Cell} (a : Nat) (b : Byte) (h : Memory.wf m = true) : Memory.wf (memPut m a b) = true :=
  memPut_ok b h (Nat.zero_le a)

theorem memGet_memPut_ok {lo a : Nat} {m : List Host.Cell} (b : Byte) (h : memOk lo m = true) :
    memGet (memPut m a b) a = b := by
  induction m generalizing lo with
  | nil => by_cases hb : b = unlisted <;> simp [memPut, memGet, hb]
  | cons c r ih =>
    obtain ⟨k, v⟩ := c
    simp only [memOk, Bool.and_eq_true, decide_eq_true_eq] at h
    obtain ⟨⟨h1, h2⟩, h3⟩ := h
    by_cases hk : a < k
    · by_cases hb : b = unlisted <;> simp [memPut, memGet, hk, hb, show ¬k = a by omega]
    · by_cases he : k = a
      · subst he
        by_cases hb : b = unlisted
        · simpa [memPut, hb] using memGet_below h3 (Nat.lt_succ_self k)
        · simp [memPut, memGet, hb]
      · simp [memPut, memGet, hk, he, ih h3]

/-- A byte written reads back. -/
theorem memGet_memPut {m : List Host.Cell} (a : Nat) (b : Byte) (h : Memory.wf m = true) :
    memGet (memPut m a b) a = b := memGet_memPut_ok b h

theorem memGet_memPut_ne_ok {lo a c : Nat} {m : List Host.Cell} (b : Byte) (h : memOk lo m = true) (hc : c ≠ a) :
    memGet (memPut m a b) c = memGet m c := by
  induction m generalizing lo with
  | nil =>
    by_cases hb : b = unlisted
    · simp [memPut, hb]
    · by_cases hlt : c < a <;> simp [memPut, memGet, hb, Ne.symm hc, hlt]
  | cons p r ih =>
    obtain ⟨k, v⟩ := p
    simp only [memOk, Bool.and_eq_true, decide_eq_true_eq] at h
    obtain ⟨⟨h1, h2⟩, h3⟩ := h
    by_cases hk : a < k
    · by_cases hb : b = unlisted
      · simp [memPut, hk, hb]
      · by_cases hlt : c < a
        · simp [memPut, memGet, hk, hb, Ne.symm hc, hlt, show ¬k = c by omega, show c < k by omega]
        · simp [memPut, memGet, hk, hb, Ne.symm hc, hlt]
    · by_cases he : k = a
      · subst he
        by_cases hb : b = unlisted
        · by_cases hlt : c < k
          · simpa [memPut, memGet, hb, Ne.symm hc, hlt] using memGet_below h3 (Nat.lt_succ_of_lt hlt)
          · simp [memPut, memGet, hb, Ne.symm hc, hlt]
        · by_cases hlt : c < k <;> simp [memPut, memGet, hb, Ne.symm hc, hlt]
      · by_cases hkc : k = c
        · subst hkc; simp [memPut, memGet, hk, he]
        · simp [memPut, memGet, hk, he, hkc, ih h3]

/-- The other bytes read as they did. -/
theorem memGet_memPut_ne {m : List Host.Cell} {a c : Nat} (b : Byte) (h : Memory.wf m = true) (hc : c ≠ a) :
    memGet (memPut m a b) c = memGet m c := memGet_memPut_ne_ok b h hc

theorem memPutNat_wf {m : List Host.Cell} (a v n : Nat) (h : Memory.wf m = true) :
    Memory.wf (memPutNat m a v n) = true := by
  induction n generalizing m a v with
  | zero => exact h
  | succ n ih => exact ih _ _ (memPut_wf _ _ h)

theorem memGet_memPutNat_out {m : List Host.Cell} {a c : Nat} (v n : Nat) (h : Memory.wf m = true)
    (hc : c < a ∨ a + n ≤ c) : memGet (memPutNat m a v n) c = memGet m c := by
  induction n generalizing m a v with
  | zero => rfl
  | succ n ih =>
    rw [memPutNat, ih _ (memPut_wf _ _ h) (by omega), memGet_memPut_ne _ h (by omega)]

/-- The bytes written read back as the number's low bytes. -/
theorem memNat_memPutNat {m : List Host.Cell} (a v n : Nat) (h : Memory.wf m = true) :
    memNat (memPutNat m a v n) a n = v % 2 ^ (8 * n) := by
  induction n generalizing m a v with
  | zero => simp [memNat, Nat.mod_one]
  | succ n ih =>
    rw [memPutNat, memNat, ih _ _ (memPut_wf _ _ h), memGet_memPutNat_out _ _ (memPut_wf _ _ h) (by omega),
      memGet_memPut _ _ h]
    have e : 2 ^ (8 * (n + 1)) = 2 ^ (8 * n) * 256 := by rw [show 8 * (n + 1) = 8 * n + 8 by ring, pow_add]; norm_num
    rw [e, Nat.mul_comm (2 ^ (8 * n)) 256, Nat.mod_mul]
    simp [BitVec.toNat_ofNat]

theorem memPutBytes_wf {m : List Host.Cell} (a : Nat) (bs : List Byte) (h : Memory.wf m = true) :
    Memory.wf (memPutBytes m a bs) = true := by
  induction bs generalizing m a with
  | nil => exact h
  | cons b r ih => exact ih _ (memPut_wf _ _ h)

theorem memGet_memPutBytes_out {m : List Host.Cell} {a c : Nat} (bs : List Byte) (h : Memory.wf m = true)
    (hc : c < a ∨ a + bs.length ≤ c) : memGet (memPutBytes m a bs) c = memGet m c := by
  induction bs generalizing m a with
  | nil => rfl
  | cons b r ih =>
    simp only [List.length_cons] at hc
    rw [memPutBytes, ih (memPut_wf _ _ h) (by omega), memGet_memPut_ne _ h (by omega)]

theorem memFilter_ok {lo : Nat} {m : List Host.Cell} (p : Host.Cell → Bool) (h : memOk lo m = true) :
    memOk lo (m.filter p) = true := by
  induction m generalizing lo with
  | nil => rfl
  | cons c r ih =>
    obtain ⟨k, b⟩ := c
    simp only [memOk, Bool.and_eq_true, decide_eq_true_eq] at h
    by_cases hp : p (k, b) = true
    · simp [hp, memOk, h.1.1, h.1.2, ih h.2]
    · simpa [List.filter_cons, hp] using ih (memOk_mono h.2 (Nat.le_succ_of_le h.1.1))

theorem memClear_wf {m : List Host.Cell} (lo hi : Nat) (h : Memory.wf m = true) : Memory.wf (memClear m lo hi) = true :=
  memFilter_ok _ h

theorem memRestore_wf {m : List Host.Cell} (l : List (Nat × Byte)) (h : Memory.wf m = true) :
    Memory.wf (memRestore m l) = true := by
  induction l generalizing m with
  | nil => exact h
  | cons p r ih => exact ih (memPut_wf _ _ h)

/-- The part after reset has memory in canonical form. -/
theorem reset_wf : Memory.wf State.reset.mem = true := rfl

end Sys2Proof.Machine
end

