-- ==== Sys2Proof/Laws/Table.lean ====
section
/-! SUPPORT. Reading a table or a padded list after a write. -/

namespace Sys2Proof.Machine

@[simp] theorem tget_tset {α : Type} (t : Table α) (n : Nat) (a : α) : tget (tset t n a) n = some a := by
  induction t with
  | nil => simp [tset, tget]
  | cons p r ih =>
    obtain ⟨k, v⟩ := p
    by_cases h1 : n < k
    · simp [tset, tget, h1]
    · by_cases h2 : k = n
      · simp [tset, tget, h2]
      · simp [tset, tget, h1, h2, ih]

theorem tget_tset_ne {α : Type} (t : Table α) {n m : Nat} (a : α) (h : m ≠ n) : tget (tset t n a) m = tget t m := by
  induction t with
  | nil => simp [tset, tget, Ne.symm h]
  | cons p r ih =>
    obtain ⟨k, v⟩ := p
    by_cases h1 : n < k
    · simp [tset, tget, h1, Ne.symm h]
    · by_cases h2 : k = n
      · subst h2; simp [tset, tget, Ne.symm h]
      · by_cases h3 : k = m
        · subst h3; simp [tset, tget, h1, h2]
        · simp [tset, tget, h1, h2, h3, ih]

@[simp] theorem tset_tset {α : Type} (t : Table α) (n : Nat) (a b : α) : tset (tset t n a) n b = tset t n b := by
  induction t with
  | nil => simp [tset]
  | cons p r ih =>
    obtain ⟨k, v⟩ := p
    by_cases h1 : n < k
    · simp [tset, h1]
    · by_cases h2 : k = n
      · simp [tset, h2]
      · simp [tset, h1, h2, ih]

theorem tget_tmap {α : Type} (f : Nat → α → α) (t : Table α) (n : Nat) : tget (tmap f t) n = (tget t n).map (f n) := by
  induction t with
  | nil => rfl
  | cons p r ih =>
    obtain ⟨k, v⟩ := p
    by_cases h : k = n
    · subst h; simp [tmap, tget]
    · simp only [tmap, List.map_cons, tget, h, if_false]
      exact ih

@[simp] theorem tget_tdel {α : Type} (t : Table α) (n : Nat) : tget (tdel t n) n = none := by
  induction t with
  | nil => rfl
  | cons p r ih =>
    obtain ⟨k, v⟩ := p
    by_cases h : k = n
    · simpa [tdel, h] using ih
    · simpa [tdel, h, tget] using ih

theorem tget_tdel_ne {α : Type} (t : Table α) {n m : Nat} (h : m ≠ n) : tget (tdel t n) m = tget t m := by
  induction t with
  | nil => rfl
  | cons p r ih =>
    obtain ⟨k, v⟩ := p
    by_cases h2 : k = n
    · subst h2; simpa [tdel, tget, Ne.symm h] using ih
    · simp only [tdel, List.filter_cons, bne_iff_ne, ne_eq, h2, not_false_eq_true, if_true, tget] at ih ⊢
      rw [ih]

/-- An entry of a padded list reads back. -/
@[simp] theorem padSet_getD {α : Type} (d : α) (l : List α) (i : Nat) (a e : α) : (padSet d l i a).getD i e = a := by
  induction i generalizing l with
  | zero => cases l <;> simp [padSet]
  | succ n ih => cases l <;> simp [padSet] <;> simpa using ih _

/-- The other entries read as they did, when the list is read with its padding. -/
theorem padSet_getD_ne {α : Type} (d : α) (l : List α) {i j : Nat} (a : α) (h : j ≠ i) :
    (padSet d l i a).getD j d = l.getD j d := by
  induction i generalizing l j with
  | zero =>
    cases j with
    | zero => exact absurd rfl h
    | succ j => cases l <;> simp [padSet]
  | succ n ih =>
    cases j with
    | zero => cases l <;> simp [padSet]
    | succ j =>
      cases l with
      | nil => simpa [padSet] using ih [] (j := j) (by omega)
      | cons x r => simpa [padSet] using ih r (j := j) (by omega)

end Sys2Proof.Machine
end

