-- ==== Sys2Proof/Laws/State.lean ====
section
/-! SUPPORT. One lemma for each field of the state under each named update of it: the fields that an update leaves, and
what is read back of the one it writes. -/

namespace Sys2Proof.Machine

variable (s : State)

/-! ### `State.setCore` -/

@[simp] theorem State.setCore_mem (c : Nat) (k : Core) : (s.setCore c k).mem = s.mem := rfl
@[simp] theorem State.setCore_poison (c : Nat) (k : Core) : (s.setCore c k).poison = s.poison := rfl
@[simp] theorem State.setCore_badCheck (c : Nat) (k : Core) : (s.setCore c k).badCheck = s.badCheck := rfl
@[simp] theorem State.setCore_walkCache (c : Nat) (k : Core) : (s.setCore c k).walkCache = s.walkCache := rfl
@[simp] theorem State.setCore_hearths (c : Nat) (k : Core) : (s.setCore c k).hearths = s.hearths := rfl
@[simp] theorem State.setCore_launches (c : Nat) (k : Core) : (s.setCore c k).launches = s.launches := rfl
@[simp] theorem State.setCore_backlog (c : Nat) (k : Core) : (s.setCore c k).backlog = s.backlog := rfl
@[simp] theorem State.setCore_lastId (c : Nat) (k : Core) : (s.setCore c k).lastId = s.lastId := rfl
@[simp] theorem State.setCore_accepted (c : Nat) (k : Core) : (s.setCore c k).accepted = s.accepted := rfl
@[simp] theorem State.setCore_cur (c : Nat) (k : Core) : (s.setCore c k).cur = s.cur := rfl
@[simp] theorem State.setCore_cycle (c : Nat) (k : Core) : (s.setCore c k).cycle = s.cycle := rfl
@[simp] theorem State.setCore_ptp17 (c : Nat) (k : Core) : (s.setCore c k).ptp17 = s.ptp17 := rfl
@[simp] theorem State.setCore_holdover (c : Nat) (k : Core) : (s.setCore c k).holdover = s.holdover := rfl
@[simp] theorem State.setCore_slew (c : Nat) (k : Core) : (s.setCore c k).slew = s.slew := rfl
@[simp] theorem State.setCore_slewCycles (c : Nat) (k : Core) : (s.setCore c k).slewCycles = s.slewCycles := rfl
@[simp] theorem State.setCore_hyp (c : Nat) (k : Core) : (s.setCore c k).hyp = s.hyp := rfl
@[simp] theorem State.setCore_versions (c : Nat) (k : Core) : (s.setCore c k).versions = s.versions := rfl
@[simp] theorem State.setCore_beats (c : Nat) (k : Core) : (s.setCore c k).beats = s.beats := rfl
@[simp] theorem State.setCore_transits (c : Nat) (k : Core) : (s.setCore c k).transits = s.transits := rfl
@[simp] theorem State.setCore_remotes (c : Nat) (k : Core) : (s.setCore c k).remotes = s.remotes := rfl
@[simp] theorem State.setCore_nextId (c : Nat) (k : Core) : (s.setCore c k).nextId = s.nextId := rfl
@[simp] theorem State.setCore_homes (c : Nat) (k : Core) : (s.setCore c k).homes = s.homes := rfl
@[simp] theorem State.setCore_bridge (c : Nat) (k : Core) : (s.setCore c k).bridge = s.bridge := rfl
@[simp] theorem State.setCore_hostReqs (c : Nat) (k : Core) : (s.setCore c k).hostReqs = s.hostReqs := rfl
@[simp] theorem State.setCore_hostFolds (c : Nat) (k : Core) : (s.setCore c k).hostFolds = s.hostFolds := rfl
@[simp] theorem State.setCore_hostWrites (c : Nat) (k : Core) : (s.setCore c k).hostWrites = s.hostWrites := rfl
@[simp] theorem State.setCore_queueBase (c : Nat) (k : Core) : (s.setCore c k).queueBase = s.queueBase := rfl
@[simp] theorem State.setCore_asidBase (c : Nat) (k : Core) : (s.setCore c k).asidBase = s.asidBase := rfl
@[simp] theorem State.setCore_queues (c : Nat) (k : Core) : (s.setCore c k).queues = s.queues := rfl
@[simp] theorem State.setCore_restarting (c : Nat) (k : Core) : (s.setCore c k).restarting = s.restarting := rfl
@[simp] theorem State.setCore_restartBy (c : Nat) (k : Core) : (s.setCore c k).restartBy = s.restartBy := rfl
@[simp] theorem State.setCore_streams (c : Nat) (k : Core) : (s.setCore c k).streams = s.streams := rfl
@[simp] theorem State.setCore_linked (c : Nat) (k : Core) : (s.setCore c k).linked = s.linked := rfl
@[simp] theorem State.setCore_receivers (c : Nat) (k : Core) : (s.setCore c k).receivers = s.receivers := rfl
@[simp] theorem State.setCore_retrainAt (c : Nat) (k : Core) : (s.setCore c k).retrainAt = s.retrainAt := rfl
@[simp] theorem State.setCore_baseTx (c : Nat) (k : Core) : (s.setCore c k).baseTx = s.baseTx := rfl
@[simp] theorem State.setCore_endingLeases (c : Nat) (k : Core) : (s.setCore c k).endingLeases = s.endingLeases := rfl
@[simp] theorem State.setCore_failedTx (c : Nat) (k : Core) : (s.setCore c k).failedTx = s.failedTx := rfl
@[simp] theorem State.setCore_spares (c : Nat) (k : Core) : (s.setCore c k).spares = s.spares := rfl
@[simp] theorem State.setCore_warmAt (c : Nat) (k : Core) : (s.setCore c k).warmAt = s.warmAt := rfl
@[simp] theorem State.setCore_transactions (c : Nat) (k : Core) : (s.setCore c k).transactions = s.transactions := rfl
@[simp] theorem State.setCore_tokens (c : Nat) (k : Core) : (s.setCore c k).tokens = s.tokens := rfl
@[simp] theorem State.setCore_freeTokens (c : Nat) (k : Core) : (s.setCore c k).freeTokens = s.freeTokens := rfl
@[simp] theorem State.setCore_halved (c : Nat) (k : Core) : (s.setCore c k).halved = s.halved := rfl
@[simp] theorem State.setCore_heatParked (c : Nat) (k : Core) : (s.setCore c k).heatParked = s.heatParked := rfl
@[simp] theorem State.setCore_powerParked (c : Nat) (k : Core) : (s.setCore c k).powerParked = s.powerParked := rfl
@[simp] theorem State.setCore_selfRefresh (c : Nat) (k : Core) : (s.setCore c k).selfRefresh = s.selfRefresh := rfl
@[simp] theorem State.setCore_hbmAccess (c : Nat) (k : Core) : (s.setCore c k).hbmAccess = s.hbmAccess := rfl
@[simp] theorem State.setCore_hbmWake (c : Nat) (k : Core) : (s.setCore c k).hbmWake = s.hbmWake := rfl
@[simp] theorem State.setCore_dieWake (c : Nat) (k : Core) : (s.setCore c k).dieWake = s.dieWake := rfl
@[simp] theorem State.setCore_hbmCorrections (c : Nat) (k : Core) : (s.setCore c k).hbmCorrections = s.hbmCorrections := rfl
@[simp] theorem State.setCore_sparedRows (c : Nat) (k : Core) : (s.setCore c k).sparedRows = s.sparedRows := rfl
@[simp] theorem State.setCore_sparedChannels (c : Nat) (k : Core) : (s.setCore c k).sparedChannels = s.sparedChannels := rfl
@[simp] theorem State.setCore_failedLanes (c : Nat) (k : Core) : (s.setCore c k).failedLanes = s.failedLanes := rfl
@[simp] theorem State.setCore_tolerance (c : Nat) (k : Core) : (s.setCore c k).tolerance = s.tolerance := rfl
@[simp] theorem State.setCore_portUp (c : Nat) (k : Core) : (s.setCore c k).portUp = s.portUp := rfl
@[simp] theorem State.setCore_ras (c : Nat) (k : Core) : (s.setCore c k).ras = s.ras := rfl
@[simp] theorem State.setCore_rasSeq (c : Nat) (k : Core) : (s.setCore c k).rasSeq = s.rasSeq := rfl
@[simp] theorem State.setCore_boot (c : Nat) (k : Core) : (s.setCore c k).boot = s.boot := rfl
@[simp] theorem State.setCore_nv (c : Nat) (k : Core) : (s.setCore c k).nv = s.nv := rfl
@[simp] theorem State.setCore_cfg (c : Nat) (k : Core) : (s.setCore c k).cfg = s.cfg := rfl
@[simp] theorem State.setCore_recovery (c : Nat) (k : Core) : (s.setCore c k).recovery = s.recovery := rfl
@[simp] theorem State.setCore_responses (c : Nat) (k : Core) : (s.setCore c k).responses = s.responses := rfl
@[simp] theorem State.setCore_notices (c : Nat) (k : Core) : (s.setCore c k).notices = s.notices := rfl
@[simp] theorem State.setCore_usedSpares (c : Nat) (k : Core) : (s.setCore c k).usedSpares = s.usedSpares := rfl
@[simp] theorem State.setCore_firmwareSites (c : Nat) (k : Core) : (s.setCore c k).firmwareSites = s.firmwareSites := rfl
@[simp] theorem State.setCore_retiring (c : Nat) (k : Core) : (s.setCore c k).retiring = s.retiring := rfl
@[simp] theorem State.setCore_scrubs (c : Nat) (k : Core) : (s.setCore c k).scrubs = s.scrubs := rfl
@[simp] theorem State.setCore_scrubAt (c : Nat) (k : Core) : (s.setCore c k).scrubAt = s.scrubAt := rfl
@[simp] theorem State.setCore_turns (c : Nat) (k : Core) : (s.setCore c k).turns = s.turns := rfl
@[simp] theorem State.setCore_timers (c : Nat) (k : Core) : (s.setCore c k).timers = s.timers := rfl
@[simp] theorem State.setCore_closing (c : Nat) (k : Core) : (s.setCore c k).closing = s.closing := rfl
@[simp] theorem State.setCore_agenda (c : Nat) (k : Core) : (s.setCore c k).agenda = s.agenda := rfl
@[simp] theorem State.setCore_ev (c : Nat) (k : Core) : (s.setCore c k).ev = s.ev := rfl
@[simp] theorem State.setCore_freeCtr (c : Nat) (k : Core) : (s.setCore c k).freeCtr = s.freeCtr := rfl

/-! ### `State.modCore` -/

@[simp] theorem State.modCore_mem (c : Nat) (f : Core → Core) : (s.modCore c f).mem = s.mem := rfl
@[simp] theorem State.modCore_poison (c : Nat) (f : Core → Core) : (s.modCore c f).poison = s.poison := rfl
@[simp] theorem State.modCore_badCheck (c : Nat) (f : Core → Core) : (s.modCore c f).badCheck = s.badCheck := rfl
@[simp] theorem State.modCore_walkCache (c : Nat) (f : Core → Core) : (s.modCore c f).walkCache = s.walkCache := rfl
@[simp] theorem State.modCore_hearths (c : Nat) (f : Core → Core) : (s.modCore c f).hearths = s.hearths := rfl
@[simp] theorem State.modCore_launches (c : Nat) (f : Core → Core) : (s.modCore c f).launches = s.launches := rfl
@[simp] theorem State.modCore_backlog (c : Nat) (f : Core → Core) : (s.modCore c f).backlog = s.backlog := rfl
@[simp] theorem State.modCore_lastId (c : Nat) (f : Core → Core) : (s.modCore c f).lastId = s.lastId := rfl
@[simp] theorem State.modCore_accepted (c : Nat) (f : Core → Core) : (s.modCore c f).accepted = s.accepted := rfl
@[simp] theorem State.modCore_cur (c : Nat) (f : Core → Core) : (s.modCore c f).cur = s.cur := rfl
@[simp] theorem State.modCore_cycle (c : Nat) (f : Core → Core) : (s.modCore c f).cycle = s.cycle := rfl
@[simp] theorem State.modCore_ptp17 (c : Nat) (f : Core → Core) : (s.modCore c f).ptp17 = s.ptp17 := rfl
@[simp] theorem State.modCore_holdover (c : Nat) (f : Core → Core) : (s.modCore c f).holdover = s.holdover := rfl
@[simp] theorem State.modCore_slew (c : Nat) (f : Core → Core) : (s.modCore c f).slew = s.slew := rfl
@[simp] theorem State.modCore_slewCycles (c : Nat) (f : Core → Core) : (s.modCore c f).slewCycles = s.slewCycles := rfl
@[simp] theorem State.modCore_hyp (c : Nat) (f : Core → Core) : (s.modCore c f).hyp = s.hyp := rfl
@[simp] theorem State.modCore_versions (c : Nat) (f : Core → Core) : (s.modCore c f).versions = s.versions := rfl
@[simp] theorem State.modCore_beats (c : Nat) (f : Core → Core) : (s.modCore c f).beats = s.beats := rfl
@[simp] theorem State.modCore_transits (c : Nat) (f : Core → Core) : (s.modCore c f).transits = s.transits := rfl
@[simp] theorem State.modCore_remotes (c : Nat) (f : Core → Core) : (s.modCore c f).remotes = s.remotes := rfl
@[simp] theorem State.modCore_nextId (c : Nat) (f : Core → Core) : (s.modCore c f).nextId = s.nextId := rfl
@[simp] theorem State.modCore_homes (c : Nat) (f : Core → Core) : (s.modCore c f).homes = s.homes := rfl
@[simp] theorem State.modCore_bridge (c : Nat) (f : Core → Core) : (s.modCore c f).bridge = s.bridge := rfl
@[simp] theorem State.modCore_hostReqs (c : Nat) (f : Core → Core) : (s.modCore c f).hostReqs = s.hostReqs := rfl
@[simp] theorem State.modCore_hostFolds (c : Nat) (f : Core → Core) : (s.modCore c f).hostFolds = s.hostFolds := rfl
@[simp] theorem State.modCore_hostWrites (c : Nat) (f : Core → Core) : (s.modCore c f).hostWrites = s.hostWrites := rfl
@[simp] theorem State.modCore_queueBase (c : Nat) (f : Core → Core) : (s.modCore c f).queueBase = s.queueBase := rfl
@[simp] theorem State.modCore_asidBase (c : Nat) (f : Core → Core) : (s.modCore c f).asidBase = s.asidBase := rfl
@[simp] theorem State.modCore_queues (c : Nat) (f : Core → Core) : (s.modCore c f).queues = s.queues := rfl
@[simp] theorem State.modCore_restarting (c : Nat) (f : Core → Core) : (s.modCore c f).restarting = s.restarting := rfl
@[simp] theorem State.modCore_restartBy (c : Nat) (f : Core → Core) : (s.modCore c f).restartBy = s.restartBy := rfl
@[simp] theorem State.modCore_streams (c : Nat) (f : Core → Core) : (s.modCore c f).streams = s.streams := rfl
@[simp] theorem State.modCore_linked (c : Nat) (f : Core → Core) : (s.modCore c f).linked = s.linked := rfl
@[simp] theorem State.modCore_receivers (c : Nat) (f : Core → Core) : (s.modCore c f).receivers = s.receivers := rfl
@[simp] theorem State.modCore_retrainAt (c : Nat) (f : Core → Core) : (s.modCore c f).retrainAt = s.retrainAt := rfl
@[simp] theorem State.modCore_baseTx (c : Nat) (f : Core → Core) : (s.modCore c f).baseTx = s.baseTx := rfl
@[simp] theorem State.modCore_endingLeases (c : Nat) (f : Core → Core) : (s.modCore c f).endingLeases = s.endingLeases := rfl
@[simp] theorem State.modCore_failedTx (c : Nat) (f : Core → Core) : (s.modCore c f).failedTx = s.failedTx := rfl
@[simp] theorem State.modCore_spares (c : Nat) (f : Core → Core) : (s.modCore c f).spares = s.spares := rfl
@[simp] theorem State.modCore_warmAt (c : Nat) (f : Core → Core) : (s.modCore c f).warmAt = s.warmAt := rfl
@[simp] theorem State.modCore_transactions (c : Nat) (f : Core → Core) : (s.modCore c f).transactions = s.transactions := rfl
@[simp] theorem State.modCore_tokens (c : Nat) (f : Core → Core) : (s.modCore c f).tokens = s.tokens := rfl
@[simp] theorem State.modCore_freeTokens (c : Nat) (f : Core → Core) : (s.modCore c f).freeTokens = s.freeTokens := rfl
@[simp] theorem State.modCore_halved (c : Nat) (f : Core → Core) : (s.modCore c f).halved = s.halved := rfl
@[simp] theorem State.modCore_heatParked (c : Nat) (f : Core → Core) : (s.modCore c f).heatParked = s.heatParked := rfl
@[simp] theorem State.modCore_powerParked (c : Nat) (f : Core → Core) : (s.modCore c f).powerParked = s.powerParked := rfl
@[simp] theorem State.modCore_selfRefresh (c : Nat) (f : Core → Core) : (s.modCore c f).selfRefresh = s.selfRefresh := rfl
@[simp] theorem State.modCore_hbmAccess (c : Nat) (f : Core → Core) : (s.modCore c f).hbmAccess = s.hbmAccess := rfl
@[simp] theorem State.modCore_hbmWake (c : Nat) (f : Core → Core) : (s.modCore c f).hbmWake = s.hbmWake := rfl
@[simp] theorem State.modCore_dieWake (c : Nat) (f : Core → Core) : (s.modCore c f).dieWake = s.dieWake := rfl
@[simp] theorem State.modCore_hbmCorrections (c : Nat) (f : Core → Core) : (s.modCore c f).hbmCorrections = s.hbmCorrections := rfl
@[simp] theorem State.modCore_sparedRows (c : Nat) (f : Core → Core) : (s.modCore c f).sparedRows = s.sparedRows := rfl
@[simp] theorem State.modCore_sparedChannels (c : Nat) (f : Core → Core) : (s.modCore c f).sparedChannels = s.sparedChannels := rfl
@[simp] theorem State.modCore_failedLanes (c : Nat) (f : Core → Core) : (s.modCore c f).failedLanes = s.failedLanes := rfl
@[simp] theorem State.modCore_tolerance (c : Nat) (f : Core → Core) : (s.modCore c f).tolerance = s.tolerance := rfl
@[simp] theorem State.modCore_portUp (c : Nat) (f : Core → Core) : (s.modCore c f).portUp = s.portUp := rfl
@[simp] theorem State.modCore_ras (c : Nat) (f : Core → Core) : (s.modCore c f).ras = s.ras := rfl
@[simp] theorem State.modCore_rasSeq (c : Nat) (f : Core → Core) : (s.modCore c f).rasSeq = s.rasSeq := rfl
@[simp] theorem State.modCore_boot (c : Nat) (f : Core → Core) : (s.modCore c f).boot = s.boot := rfl
@[simp] theorem State.modCore_nv (c : Nat) (f : Core → Core) : (s.modCore c f).nv = s.nv := rfl
@[simp] theorem State.modCore_cfg (c : Nat) (f : Core → Core) : (s.modCore c f).cfg = s.cfg := rfl
@[simp] theorem State.modCore_recovery (c : Nat) (f : Core → Core) : (s.modCore c f).recovery = s.recovery := rfl
@[simp] theorem State.modCore_responses (c : Nat) (f : Core → Core) : (s.modCore c f).responses = s.responses := rfl
@[simp] theorem State.modCore_notices (c : Nat) (f : Core → Core) : (s.modCore c f).notices = s.notices := rfl
@[simp] theorem State.modCore_usedSpares (c : Nat) (f : Core → Core) : (s.modCore c f).usedSpares = s.usedSpares := rfl
@[simp] theorem State.modCore_firmwareSites (c : Nat) (f : Core → Core) : (s.modCore c f).firmwareSites = s.firmwareSites := rfl
@[simp] theorem State.modCore_retiring (c : Nat) (f : Core → Core) : (s.modCore c f).retiring = s.retiring := rfl
@[simp] theorem State.modCore_scrubs (c : Nat) (f : Core → Core) : (s.modCore c f).scrubs = s.scrubs := rfl
@[simp] theorem State.modCore_scrubAt (c : Nat) (f : Core → Core) : (s.modCore c f).scrubAt = s.scrubAt := rfl
@[simp] theorem State.modCore_turns (c : Nat) (f : Core → Core) : (s.modCore c f).turns = s.turns := rfl
@[simp] theorem State.modCore_timers (c : Nat) (f : Core → Core) : (s.modCore c f).timers = s.timers := rfl
@[simp] theorem State.modCore_closing (c : Nat) (f : Core → Core) : (s.modCore c f).closing = s.closing := rfl
@[simp] theorem State.modCore_agenda (c : Nat) (f : Core → Core) : (s.modCore c f).agenda = s.agenda := rfl
@[simp] theorem State.modCore_ev (c : Nat) (f : Core → Core) : (s.modCore c f).ev = s.ev := rfl
@[simp] theorem State.modCore_freeCtr (c : Nat) (f : Core → Core) : (s.modCore c f).freeCtr = s.freeCtr := rfl

/-! ### `State.setSlotAt` -/

@[simp] theorem State.setSlotAt_mem (c t : Nat) (x : Slot) : (s.setSlotAt c t x).mem = s.mem := rfl
@[simp] theorem State.setSlotAt_poison (c t : Nat) (x : Slot) : (s.setSlotAt c t x).poison = s.poison := rfl
@[simp] theorem State.setSlotAt_badCheck (c t : Nat) (x : Slot) : (s.setSlotAt c t x).badCheck = s.badCheck := rfl
@[simp] theorem State.setSlotAt_walkCache (c t : Nat) (x : Slot) : (s.setSlotAt c t x).walkCache = s.walkCache := rfl
@[simp] theorem State.setSlotAt_hearths (c t : Nat) (x : Slot) : (s.setSlotAt c t x).hearths = s.hearths := rfl
@[simp] theorem State.setSlotAt_launches (c t : Nat) (x : Slot) : (s.setSlotAt c t x).launches = s.launches := rfl
@[simp] theorem State.setSlotAt_backlog (c t : Nat) (x : Slot) : (s.setSlotAt c t x).backlog = s.backlog := rfl
@[simp] theorem State.setSlotAt_lastId (c t : Nat) (x : Slot) : (s.setSlotAt c t x).lastId = s.lastId := rfl
@[simp] theorem State.setSlotAt_accepted (c t : Nat) (x : Slot) : (s.setSlotAt c t x).accepted = s.accepted := rfl
@[simp] theorem State.setSlotAt_cur (c t : Nat) (x : Slot) : (s.setSlotAt c t x).cur = s.cur := rfl
@[simp] theorem State.setSlotAt_cycle (c t : Nat) (x : Slot) : (s.setSlotAt c t x).cycle = s.cycle := rfl
@[simp] theorem State.setSlotAt_ptp17 (c t : Nat) (x : Slot) : (s.setSlotAt c t x).ptp17 = s.ptp17 := rfl
@[simp] theorem State.setSlotAt_holdover (c t : Nat) (x : Slot) : (s.setSlotAt c t x).holdover = s.holdover := rfl
@[simp] theorem State.setSlotAt_slew (c t : Nat) (x : Slot) : (s.setSlotAt c t x).slew = s.slew := rfl
@[simp] theorem State.setSlotAt_slewCycles (c t : Nat) (x : Slot) : (s.setSlotAt c t x).slewCycles = s.slewCycles := rfl
@[simp] theorem State.setSlotAt_hyp (c t : Nat) (x : Slot) : (s.setSlotAt c t x).hyp = s.hyp := rfl
@[simp] theorem State.setSlotAt_versions (c t : Nat) (x : Slot) : (s.setSlotAt c t x).versions = s.versions := rfl
@[simp] theorem State.setSlotAt_beats (c t : Nat) (x : Slot) : (s.setSlotAt c t x).beats = s.beats := rfl
@[simp] theorem State.setSlotAt_transits (c t : Nat) (x : Slot) : (s.setSlotAt c t x).transits = s.transits := rfl
@[simp] theorem State.setSlotAt_remotes (c t : Nat) (x : Slot) : (s.setSlotAt c t x).remotes = s.remotes := rfl
@[simp] theorem State.setSlotAt_nextId (c t : Nat) (x : Slot) : (s.setSlotAt c t x).nextId = s.nextId := rfl
@[simp] theorem State.setSlotAt_homes (c t : Nat) (x : Slot) : (s.setSlotAt c t x).homes = s.homes := rfl
@[simp] theorem State.setSlotAt_bridge (c t : Nat) (x : Slot) : (s.setSlotAt c t x).bridge = s.bridge := rfl
@[simp] theorem State.setSlotAt_hostReqs (c t : Nat) (x : Slot) : (s.setSlotAt c t x).hostReqs = s.hostReqs := rfl
@[simp] theorem State.setSlotAt_hostFolds (c t : Nat) (x : Slot) : (s.setSlotAt c t x).hostFolds = s.hostFolds := rfl
@[simp] theorem State.setSlotAt_hostWrites (c t : Nat) (x : Slot) : (s.setSlotAt c t x).hostWrites = s.hostWrites := rfl
@[simp] theorem State.setSlotAt_queueBase (c t : Nat) (x : Slot) : (s.setSlotAt c t x).queueBase = s.queueBase := rfl
@[simp] theorem State.setSlotAt_asidBase (c t : Nat) (x : Slot) : (s.setSlotAt c t x).asidBase = s.asidBase := rfl
@[simp] theorem State.setSlotAt_queues (c t : Nat) (x : Slot) : (s.setSlotAt c t x).queues = s.queues := rfl
@[simp] theorem State.setSlotAt_restarting (c t : Nat) (x : Slot) : (s.setSlotAt c t x).restarting = s.restarting := rfl
@[simp] theorem State.setSlotAt_restartBy (c t : Nat) (x : Slot) : (s.setSlotAt c t x).restartBy = s.restartBy := rfl
@[simp] theorem State.setSlotAt_streams (c t : Nat) (x : Slot) : (s.setSlotAt c t x).streams = s.streams := rfl
@[simp] theorem State.setSlotAt_linked (c t : Nat) (x : Slot) : (s.setSlotAt c t x).linked = s.linked := rfl
@[simp] theorem State.setSlotAt_receivers (c t : Nat) (x : Slot) : (s.setSlotAt c t x).receivers = s.receivers := rfl
@[simp] theorem State.setSlotAt_retrainAt (c t : Nat) (x : Slot) : (s.setSlotAt c t x).retrainAt = s.retrainAt := rfl
@[simp] theorem State.setSlotAt_baseTx (c t : Nat) (x : Slot) : (s.setSlotAt c t x).baseTx = s.baseTx := rfl
@[simp] theorem State.setSlotAt_endingLeases (c t : Nat) (x : Slot) : (s.setSlotAt c t x).endingLeases = s.endingLeases := rfl
@[simp] theorem State.setSlotAt_failedTx (c t : Nat) (x : Slot) : (s.setSlotAt c t x).failedTx = s.failedTx := rfl
@[simp] theorem State.setSlotAt_spares (c t : Nat) (x : Slot) : (s.setSlotAt c t x).spares = s.spares := rfl
@[simp] theorem State.setSlotAt_warmAt (c t : Nat) (x : Slot) : (s.setSlotAt c t x).warmAt = s.warmAt := rfl
@[simp] theorem State.setSlotAt_transactions (c t : Nat) (x : Slot) : (s.setSlotAt c t x).transactions = s.transactions := rfl
@[simp] theorem State.setSlotAt_tokens (c t : Nat) (x : Slot) : (s.setSlotAt c t x).tokens = s.tokens := rfl
@[simp] theorem State.setSlotAt_freeTokens (c t : Nat) (x : Slot) : (s.setSlotAt c t x).freeTokens = s.freeTokens := rfl
@[simp] theorem State.setSlotAt_halved (c t : Nat) (x : Slot) : (s.setSlotAt c t x).halved = s.halved := rfl
@[simp] theorem State.setSlotAt_heatParked (c t : Nat) (x : Slot) : (s.setSlotAt c t x).heatParked = s.heatParked := rfl
@[simp] theorem State.setSlotAt_powerParked (c t : Nat) (x : Slot) : (s.setSlotAt c t x).powerParked = s.powerParked := rfl
@[simp] theorem State.setSlotAt_selfRefresh (c t : Nat) (x : Slot) : (s.setSlotAt c t x).selfRefresh = s.selfRefresh := rfl
@[simp] theorem State.setSlotAt_hbmAccess (c t : Nat) (x : Slot) : (s.setSlotAt c t x).hbmAccess = s.hbmAccess := rfl
@[simp] theorem State.setSlotAt_hbmWake (c t : Nat) (x : Slot) : (s.setSlotAt c t x).hbmWake = s.hbmWake := rfl
@[simp] theorem State.setSlotAt_dieWake (c t : Nat) (x : Slot) : (s.setSlotAt c t x).dieWake = s.dieWake := rfl
@[simp] theorem State.setSlotAt_hbmCorrections (c t : Nat) (x : Slot) : (s.setSlotAt c t x).hbmCorrections = s.hbmCorrections := rfl
@[simp] theorem State.setSlotAt_sparedRows (c t : Nat) (x : Slot) : (s.setSlotAt c t x).sparedRows = s.sparedRows := rfl
@[simp] theorem State.setSlotAt_sparedChannels (c t : Nat) (x : Slot) : (s.setSlotAt c t x).sparedChannels = s.sparedChannels := rfl
@[simp] theorem State.setSlotAt_failedLanes (c t : Nat) (x : Slot) : (s.setSlotAt c t x).failedLanes = s.failedLanes := rfl
@[simp] theorem State.setSlotAt_tolerance (c t : Nat) (x : Slot) : (s.setSlotAt c t x).tolerance = s.tolerance := rfl
@[simp] theorem State.setSlotAt_portUp (c t : Nat) (x : Slot) : (s.setSlotAt c t x).portUp = s.portUp := rfl
@[simp] theorem State.setSlotAt_ras (c t : Nat) (x : Slot) : (s.setSlotAt c t x).ras = s.ras := rfl
@[simp] theorem State.setSlotAt_rasSeq (c t : Nat) (x : Slot) : (s.setSlotAt c t x).rasSeq = s.rasSeq := rfl
@[simp] theorem State.setSlotAt_boot (c t : Nat) (x : Slot) : (s.setSlotAt c t x).boot = s.boot := rfl
@[simp] theorem State.setSlotAt_nv (c t : Nat) (x : Slot) : (s.setSlotAt c t x).nv = s.nv := rfl
@[simp] theorem State.setSlotAt_cfg (c t : Nat) (x : Slot) : (s.setSlotAt c t x).cfg = s.cfg := rfl
@[simp] theorem State.setSlotAt_recovery (c t : Nat) (x : Slot) : (s.setSlotAt c t x).recovery = s.recovery := rfl
@[simp] theorem State.setSlotAt_responses (c t : Nat) (x : Slot) : (s.setSlotAt c t x).responses = s.responses := rfl
@[simp] theorem State.setSlotAt_notices (c t : Nat) (x : Slot) : (s.setSlotAt c t x).notices = s.notices := rfl
@[simp] theorem State.setSlotAt_usedSpares (c t : Nat) (x : Slot) : (s.setSlotAt c t x).usedSpares = s.usedSpares := rfl
@[simp] theorem State.setSlotAt_firmwareSites (c t : Nat) (x : Slot) : (s.setSlotAt c t x).firmwareSites = s.firmwareSites := rfl
@[simp] theorem State.setSlotAt_retiring (c t : Nat) (x : Slot) : (s.setSlotAt c t x).retiring = s.retiring := rfl
@[simp] theorem State.setSlotAt_scrubs (c t : Nat) (x : Slot) : (s.setSlotAt c t x).scrubs = s.scrubs := rfl
@[simp] theorem State.setSlotAt_scrubAt (c t : Nat) (x : Slot) : (s.setSlotAt c t x).scrubAt = s.scrubAt := rfl
@[simp] theorem State.setSlotAt_turns (c t : Nat) (x : Slot) : (s.setSlotAt c t x).turns = s.turns := rfl
@[simp] theorem State.setSlotAt_timers (c t : Nat) (x : Slot) : (s.setSlotAt c t x).timers = s.timers := rfl
@[simp] theorem State.setSlotAt_closing (c t : Nat) (x : Slot) : (s.setSlotAt c t x).closing = s.closing := rfl
@[simp] theorem State.setSlotAt_agenda (c t : Nat) (x : Slot) : (s.setSlotAt c t x).agenda = s.agenda := rfl
@[simp] theorem State.setSlotAt_ev (c t : Nat) (x : Slot) : (s.setSlotAt c t x).ev = s.ev := rfl
@[simp] theorem State.setSlotAt_freeCtr (c t : Nat) (x : Slot) : (s.setSlotAt c t x).freeCtr = s.freeCtr := rfl

/-! ### `State.modSlotAt` -/

@[simp] theorem State.modSlotAt_mem (c t : Nat) (f : Slot → Slot) : (s.modSlotAt c t f).mem = s.mem := rfl
@[simp] theorem State.modSlotAt_poison (c t : Nat) (f : Slot → Slot) : (s.modSlotAt c t f).poison = s.poison := rfl
@[simp] theorem State.modSlotAt_badCheck (c t : Nat) (f : Slot → Slot) : (s.modSlotAt c t f).badCheck = s.badCheck := rfl
@[simp] theorem State.modSlotAt_walkCache (c t : Nat) (f : Slot → Slot) : (s.modSlotAt c t f).walkCache = s.walkCache := rfl
@[simp] theorem State.modSlotAt_hearths (c t : Nat) (f : Slot → Slot) : (s.modSlotAt c t f).hearths = s.hearths := rfl
@[simp] theorem State.modSlotAt_launches (c t : Nat) (f : Slot → Slot) : (s.modSlotAt c t f).launches = s.launches := rfl
@[simp] theorem State.modSlotAt_backlog (c t : Nat) (f : Slot → Slot) : (s.modSlotAt c t f).backlog = s.backlog := rfl
@[simp] theorem State.modSlotAt_lastId (c t : Nat) (f : Slot → Slot) : (s.modSlotAt c t f).lastId = s.lastId := rfl
@[simp] theorem State.modSlotAt_accepted (c t : Nat) (f : Slot → Slot) : (s.modSlotAt c t f).accepted = s.accepted := rfl
@[simp] theorem State.modSlotAt_cur (c t : Nat) (f : Slot → Slot) : (s.modSlotAt c t f).cur = s.cur := rfl
@[simp] theorem State.modSlotAt_cycle (c t : Nat) (f : Slot → Slot) : (s.modSlotAt c t f).cycle = s.cycle := rfl
@[simp] theorem State.modSlotAt_ptp17 (c t : Nat) (f : Slot → Slot) : (s.modSlotAt c t f).ptp17 = s.ptp17 := rfl
@[simp] theorem State.modSlotAt_holdover (c t : Nat) (f : Slot → Slot) : (s.modSlotAt c t f).holdover = s.holdover := rfl
@[simp] theorem State.modSlotAt_slew (c t : Nat) (f : Slot → Slot) : (s.modSlotAt c t f).slew = s.slew := rfl
@[simp] theorem State.modSlotAt_slewCycles (c t : Nat) (f : Slot → Slot) : (s.modSlotAt c t f).slewCycles = s.slewCycles := rfl
@[simp] theorem State.modSlotAt_hyp (c t : Nat) (f : Slot → Slot) : (s.modSlotAt c t f).hyp = s.hyp := rfl
@[simp] theorem State.modSlotAt_versions (c t : Nat) (f : Slot → Slot) : (s.modSlotAt c t f).versions = s.versions := rfl
@[simp] theorem State.modSlotAt_beats (c t : Nat) (f : Slot → Slot) : (s.modSlotAt c t f).beats = s.beats := rfl
@[simp] theorem State.modSlotAt_transits (c t : Nat) (f : Slot → Slot) : (s.modSlotAt c t f).transits = s.transits := rfl
@[simp] theorem State.modSlotAt_remotes (c t : Nat) (f : Slot → Slot) : (s.modSlotAt c t f).remotes = s.remotes := rfl
@[simp] theorem State.modSlotAt_nextId (c t : Nat) (f : Slot → Slot) : (s.modSlotAt c t f).nextId = s.nextId := rfl
@[simp] theorem State.modSlotAt_homes (c t : Nat) (f : Slot → Slot) : (s.modSlotAt c t f).homes = s.homes := rfl
@[simp] theorem State.modSlotAt_bridge (c t : Nat) (f : Slot → Slot) : (s.modSlotAt c t f).bridge = s.bridge := rfl
@[simp] theorem State.modSlotAt_hostReqs (c t : Nat) (f : Slot → Slot) : (s.modSlotAt c t f).hostReqs = s.hostReqs := rfl
@[simp] theorem State.modSlotAt_hostFolds (c t : Nat) (f : Slot → Slot) : (s.modSlotAt c t f).hostFolds = s.hostFolds := rfl
@[simp] theorem State.modSlotAt_hostWrites (c t : Nat) (f : Slot → Slot) : (s.modSlotAt c t f).hostWrites = s.hostWrites := rfl
@[simp] theorem State.modSlotAt_queueBase (c t : Nat) (f : Slot → Slot) : (s.modSlotAt c t f).queueBase = s.queueBase := rfl
@[simp] theorem State.modSlotAt_asidBase (c t : Nat) (f : Slot → Slot) : (s.modSlotAt c t f).asidBase = s.asidBase := rfl
@[simp] theorem State.modSlotAt_queues (c t : Nat) (f : Slot → Slot) : (s.modSlotAt c t f).queues = s.queues := rfl
@[simp] theorem State.modSlotAt_restarting (c t : Nat) (f : Slot → Slot) : (s.modSlotAt c t f).restarting = s.restarting := rfl
@[simp] theorem State.modSlotAt_restartBy (c t : Nat) (f : Slot → Slot) : (s.modSlotAt c t f).restartBy = s.restartBy := rfl
@[simp] theorem State.modSlotAt_streams (c t : Nat) (f : Slot → Slot) : (s.modSlotAt c t f).streams = s.streams := rfl
@[simp] theorem State.modSlotAt_linked (c t : Nat) (f : Slot → Slot) : (s.modSlotAt c t f).linked = s.linked := rfl
@[simp] theorem State.modSlotAt_receivers (c t : Nat) (f : Slot → Slot) : (s.modSlotAt c t f).receivers = s.receivers := rfl
@[simp] theorem State.modSlotAt_retrainAt (c t : Nat) (f : Slot → Slot) : (s.modSlotAt c t f).retrainAt = s.retrainAt := rfl
@[simp] theorem State.modSlotAt_baseTx (c t : Nat) (f : Slot → Slot) : (s.modSlotAt c t f).baseTx = s.baseTx := rfl
@[simp] theorem State.modSlotAt_endingLeases (c t : Nat) (f : Slot → Slot) : (s.modSlotAt c t f).endingLeases = s.endingLeases := rfl
@[simp] theorem State.modSlotAt_failedTx (c t : Nat) (f : Slot → Slot) : (s.modSlotAt c t f).failedTx = s.failedTx := rfl
@[simp] theorem State.modSlotAt_spares (c t : Nat) (f : Slot → Slot) : (s.modSlotAt c t f).spares = s.spares := rfl
@[simp] theorem State.modSlotAt_warmAt (c t : Nat) (f : Slot → Slot) : (s.modSlotAt c t f).warmAt = s.warmAt := rfl
@[simp] theorem State.modSlotAt_transactions (c t : Nat) (f : Slot → Slot) : (s.modSlotAt c t f).transactions = s.transactions := rfl
@[simp] theorem State.modSlotAt_tokens (c t : Nat) (f : Slot → Slot) : (s.modSlotAt c t f).tokens = s.tokens := rfl
@[simp] theorem State.modSlotAt_freeTokens (c t : Nat) (f : Slot → Slot) : (s.modSlotAt c t f).freeTokens = s.freeTokens := rfl
@[simp] theorem State.modSlotAt_halved (c t : Nat) (f : Slot → Slot) : (s.modSlotAt c t f).halved = s.halved := rfl
@[simp] theorem State.modSlotAt_heatParked (c t : Nat) (f : Slot → Slot) : (s.modSlotAt c t f).heatParked = s.heatParked := rfl
@[simp] theorem State.modSlotAt_powerParked (c t : Nat) (f : Slot → Slot) : (s.modSlotAt c t f).powerParked = s.powerParked := rfl
@[simp] theorem State.modSlotAt_selfRefresh (c t : Nat) (f : Slot → Slot) : (s.modSlotAt c t f).selfRefresh = s.selfRefresh := rfl
@[simp] theorem State.modSlotAt_hbmAccess (c t : Nat) (f : Slot → Slot) : (s.modSlotAt c t f).hbmAccess = s.hbmAccess := rfl
@[simp] theorem State.modSlotAt_hbmWake (c t : Nat) (f : Slot → Slot) : (s.modSlotAt c t f).hbmWake = s.hbmWake := rfl
@[simp] theorem State.modSlotAt_dieWake (c t : Nat) (f : Slot → Slot) : (s.modSlotAt c t f).dieWake = s.dieWake := rfl
@[simp] theorem State.modSlotAt_hbmCorrections (c t : Nat) (f : Slot → Slot) : (s.modSlotAt c t f).hbmCorrections = s.hbmCorrections := rfl
@[simp] theorem State.modSlotAt_sparedRows (c t : Nat) (f : Slot → Slot) : (s.modSlotAt c t f).sparedRows = s.sparedRows := rfl
@[simp] theorem State.modSlotAt_sparedChannels (c t : Nat) (f : Slot → Slot) : (s.modSlotAt c t f).sparedChannels = s.sparedChannels := rfl
@[simp] theorem State.modSlotAt_failedLanes (c t : Nat) (f : Slot → Slot) : (s.modSlotAt c t f).failedLanes = s.failedLanes := rfl
@[simp] theorem State.modSlotAt_tolerance (c t : Nat) (f : Slot → Slot) : (s.modSlotAt c t f).tolerance = s.tolerance := rfl
@[simp] theorem State.modSlotAt_portUp (c t : Nat) (f : Slot → Slot) : (s.modSlotAt c t f).portUp = s.portUp := rfl
@[simp] theorem State.modSlotAt_ras (c t : Nat) (f : Slot → Slot) : (s.modSlotAt c t f).ras = s.ras := rfl
@[simp] theorem State.modSlotAt_rasSeq (c t : Nat) (f : Slot → Slot) : (s.modSlotAt c t f).rasSeq = s.rasSeq := rfl
@[simp] theorem State.modSlotAt_boot (c t : Nat) (f : Slot → Slot) : (s.modSlotAt c t f).boot = s.boot := rfl
@[simp] theorem State.modSlotAt_nv (c t : Nat) (f : Slot → Slot) : (s.modSlotAt c t f).nv = s.nv := rfl
@[simp] theorem State.modSlotAt_cfg (c t : Nat) (f : Slot → Slot) : (s.modSlotAt c t f).cfg = s.cfg := rfl
@[simp] theorem State.modSlotAt_recovery (c t : Nat) (f : Slot → Slot) : (s.modSlotAt c t f).recovery = s.recovery := rfl
@[simp] theorem State.modSlotAt_responses (c t : Nat) (f : Slot → Slot) : (s.modSlotAt c t f).responses = s.responses := rfl
@[simp] theorem State.modSlotAt_notices (c t : Nat) (f : Slot → Slot) : (s.modSlotAt c t f).notices = s.notices := rfl
@[simp] theorem State.modSlotAt_usedSpares (c t : Nat) (f : Slot → Slot) : (s.modSlotAt c t f).usedSpares = s.usedSpares := rfl
@[simp] theorem State.modSlotAt_firmwareSites (c t : Nat) (f : Slot → Slot) : (s.modSlotAt c t f).firmwareSites = s.firmwareSites := rfl
@[simp] theorem State.modSlotAt_retiring (c t : Nat) (f : Slot → Slot) : (s.modSlotAt c t f).retiring = s.retiring := rfl
@[simp] theorem State.modSlotAt_scrubs (c t : Nat) (f : Slot → Slot) : (s.modSlotAt c t f).scrubs = s.scrubs := rfl
@[simp] theorem State.modSlotAt_scrubAt (c t : Nat) (f : Slot → Slot) : (s.modSlotAt c t f).scrubAt = s.scrubAt := rfl
@[simp] theorem State.modSlotAt_turns (c t : Nat) (f : Slot → Slot) : (s.modSlotAt c t f).turns = s.turns := rfl
@[simp] theorem State.modSlotAt_timers (c t : Nat) (f : Slot → Slot) : (s.modSlotAt c t f).timers = s.timers := rfl
@[simp] theorem State.modSlotAt_closing (c t : Nat) (f : Slot → Slot) : (s.modSlotAt c t f).closing = s.closing := rfl
@[simp] theorem State.modSlotAt_agenda (c t : Nat) (f : Slot → Slot) : (s.modSlotAt c t f).agenda = s.agenda := rfl
@[simp] theorem State.modSlotAt_ev (c t : Nat) (f : Slot → Slot) : (s.modSlotAt c t f).ev = s.ev := rfl
@[simp] theorem State.modSlotAt_freeCtr (c t : Nat) (f : Slot → Slot) : (s.modSlotAt c t f).freeCtr = s.freeCtr := rfl

/-! ### `State.setSlot` -/

@[simp] theorem State.setSlot_mem (x : Slot) : (s.setSlot x).mem = s.mem := rfl
@[simp] theorem State.setSlot_poison (x : Slot) : (s.setSlot x).poison = s.poison := rfl
@[simp] theorem State.setSlot_badCheck (x : Slot) : (s.setSlot x).badCheck = s.badCheck := rfl
@[simp] theorem State.setSlot_walkCache (x : Slot) : (s.setSlot x).walkCache = s.walkCache := rfl
@[simp] theorem State.setSlot_hearths (x : Slot) : (s.setSlot x).hearths = s.hearths := rfl
@[simp] theorem State.setSlot_launches (x : Slot) : (s.setSlot x).launches = s.launches := rfl
@[simp] theorem State.setSlot_backlog (x : Slot) : (s.setSlot x).backlog = s.backlog := rfl
@[simp] theorem State.setSlot_lastId (x : Slot) : (s.setSlot x).lastId = s.lastId := rfl
@[simp] theorem State.setSlot_accepted (x : Slot) : (s.setSlot x).accepted = s.accepted := rfl
@[simp] theorem State.setSlot_cur (x : Slot) : (s.setSlot x).cur = s.cur := rfl
@[simp] theorem State.setSlot_cycle (x : Slot) : (s.setSlot x).cycle = s.cycle := rfl
@[simp] theorem State.setSlot_ptp17 (x : Slot) : (s.setSlot x).ptp17 = s.ptp17 := rfl
@[simp] theorem State.setSlot_holdover (x : Slot) : (s.setSlot x).holdover = s.holdover := rfl
@[simp] theorem State.setSlot_slew (x : Slot) : (s.setSlot x).slew = s.slew := rfl
@[simp] theorem State.setSlot_slewCycles (x : Slot) : (s.setSlot x).slewCycles = s.slewCycles := rfl
@[simp] theorem State.setSlot_hyp (x : Slot) : (s.setSlot x).hyp = s.hyp := rfl
@[simp] theorem State.setSlot_versions (x : Slot) : (s.setSlot x).versions = s.versions := rfl
@[simp] theorem State.setSlot_beats (x : Slot) : (s.setSlot x).beats = s.beats := rfl
@[simp] theorem State.setSlot_transits (x : Slot) : (s.setSlot x).transits = s.transits := rfl
@[simp] theorem State.setSlot_remotes (x : Slot) : (s.setSlot x).remotes = s.remotes := rfl
@[simp] theorem State.setSlot_nextId (x : Slot) : (s.setSlot x).nextId = s.nextId := rfl
@[simp] theorem State.setSlot_homes (x : Slot) : (s.setSlot x).homes = s.homes := rfl
@[simp] theorem State.setSlot_bridge (x : Slot) : (s.setSlot x).bridge = s.bridge := rfl
@[simp] theorem State.setSlot_hostReqs (x : Slot) : (s.setSlot x).hostReqs = s.hostReqs := rfl
@[simp] theorem State.setSlot_hostFolds (x : Slot) : (s.setSlot x).hostFolds = s.hostFolds := rfl
@[simp] theorem State.setSlot_hostWrites (x : Slot) : (s.setSlot x).hostWrites = s.hostWrites := rfl
@[simp] theorem State.setSlot_queueBase (x : Slot) : (s.setSlot x).queueBase = s.queueBase := rfl
@[simp] theorem State.setSlot_asidBase (x : Slot) : (s.setSlot x).asidBase = s.asidBase := rfl
@[simp] theorem State.setSlot_queues (x : Slot) : (s.setSlot x).queues = s.queues := rfl
@[simp] theorem State.setSlot_restarting (x : Slot) : (s.setSlot x).restarting = s.restarting := rfl
@[simp] theorem State.setSlot_restartBy (x : Slot) : (s.setSlot x).restartBy = s.restartBy := rfl
@[simp] theorem State.setSlot_streams (x : Slot) : (s.setSlot x).streams = s.streams := rfl
@[simp] theorem State.setSlot_linked (x : Slot) : (s.setSlot x).linked = s.linked := rfl
@[simp] theorem State.setSlot_receivers (x : Slot) : (s.setSlot x).receivers = s.receivers := rfl
@[simp] theorem State.setSlot_retrainAt (x : Slot) : (s.setSlot x).retrainAt = s.retrainAt := rfl
@[simp] theorem State.setSlot_baseTx (x : Slot) : (s.setSlot x).baseTx = s.baseTx := rfl
@[simp] theorem State.setSlot_endingLeases (x : Slot) : (s.setSlot x).endingLeases = s.endingLeases := rfl
@[simp] theorem State.setSlot_failedTx (x : Slot) : (s.setSlot x).failedTx = s.failedTx := rfl
@[simp] theorem State.setSlot_spares (x : Slot) : (s.setSlot x).spares = s.spares := rfl
@[simp] theorem State.setSlot_warmAt (x : Slot) : (s.setSlot x).warmAt = s.warmAt := rfl
@[simp] theorem State.setSlot_transactions (x : Slot) : (s.setSlot x).transactions = s.transactions := rfl
@[simp] theorem State.setSlot_tokens (x : Slot) : (s.setSlot x).tokens = s.tokens := rfl
@[simp] theorem State.setSlot_freeTokens (x : Slot) : (s.setSlot x).freeTokens = s.freeTokens := rfl
@[simp] theorem State.setSlot_halved (x : Slot) : (s.setSlot x).halved = s.halved := rfl
@[simp] theorem State.setSlot_heatParked (x : Slot) : (s.setSlot x).heatParked = s.heatParked := rfl
@[simp] theorem State.setSlot_powerParked (x : Slot) : (s.setSlot x).powerParked = s.powerParked := rfl
@[simp] theorem State.setSlot_selfRefresh (x : Slot) : (s.setSlot x).selfRefresh = s.selfRefresh := rfl
@[simp] theorem State.setSlot_hbmAccess (x : Slot) : (s.setSlot x).hbmAccess = s.hbmAccess := rfl
@[simp] theorem State.setSlot_hbmWake (x : Slot) : (s.setSlot x).hbmWake = s.hbmWake := rfl
@[simp] theorem State.setSlot_dieWake (x : Slot) : (s.setSlot x).dieWake = s.dieWake := rfl
@[simp] theorem State.setSlot_hbmCorrections (x : Slot) : (s.setSlot x).hbmCorrections = s.hbmCorrections := rfl
@[simp] theorem State.setSlot_sparedRows (x : Slot) : (s.setSlot x).sparedRows = s.sparedRows := rfl
@[simp] theorem State.setSlot_sparedChannels (x : Slot) : (s.setSlot x).sparedChannels = s.sparedChannels := rfl
@[simp] theorem State.setSlot_failedLanes (x : Slot) : (s.setSlot x).failedLanes = s.failedLanes := rfl
@[simp] theorem State.setSlot_tolerance (x : Slot) : (s.setSlot x).tolerance = s.tolerance := rfl
@[simp] theorem State.setSlot_portUp (x : Slot) : (s.setSlot x).portUp = s.portUp := rfl
@[simp] theorem State.setSlot_ras (x : Slot) : (s.setSlot x).ras = s.ras := rfl
@[simp] theorem State.setSlot_rasSeq (x : Slot) : (s.setSlot x).rasSeq = s.rasSeq := rfl
@[simp] theorem State.setSlot_boot (x : Slot) : (s.setSlot x).boot = s.boot := rfl
@[simp] theorem State.setSlot_nv (x : Slot) : (s.setSlot x).nv = s.nv := rfl
@[simp] theorem State.setSlot_cfg (x : Slot) : (s.setSlot x).cfg = s.cfg := rfl
@[simp] theorem State.setSlot_recovery (x : Slot) : (s.setSlot x).recovery = s.recovery := rfl
@[simp] theorem State.setSlot_responses (x : Slot) : (s.setSlot x).responses = s.responses := rfl
@[simp] theorem State.setSlot_notices (x : Slot) : (s.setSlot x).notices = s.notices := rfl
@[simp] theorem State.setSlot_usedSpares (x : Slot) : (s.setSlot x).usedSpares = s.usedSpares := rfl
@[simp] theorem State.setSlot_firmwareSites (x : Slot) : (s.setSlot x).firmwareSites = s.firmwareSites := rfl
@[simp] theorem State.setSlot_retiring (x : Slot) : (s.setSlot x).retiring = s.retiring := rfl
@[simp] theorem State.setSlot_scrubs (x : Slot) : (s.setSlot x).scrubs = s.scrubs := rfl
@[simp] theorem State.setSlot_scrubAt (x : Slot) : (s.setSlot x).scrubAt = s.scrubAt := rfl
@[simp] theorem State.setSlot_turns (x : Slot) : (s.setSlot x).turns = s.turns := rfl
@[simp] theorem State.setSlot_timers (x : Slot) : (s.setSlot x).timers = s.timers := rfl
@[simp] theorem State.setSlot_closing (x : Slot) : (s.setSlot x).closing = s.closing := rfl
@[simp] theorem State.setSlot_agenda (x : Slot) : (s.setSlot x).agenda = s.agenda := rfl
@[simp] theorem State.setSlot_ev (x : Slot) : (s.setSlot x).ev = s.ev := rfl
@[simp] theorem State.setSlot_freeCtr (x : Slot) : (s.setSlot x).freeCtr = s.freeCtr := rfl

/-! ### `State.modSlot` -/

@[simp] theorem State.modSlot_mem (f : Slot → Slot) : (s.modSlot f).mem = s.mem := rfl
@[simp] theorem State.modSlot_poison (f : Slot → Slot) : (s.modSlot f).poison = s.poison := rfl
@[simp] theorem State.modSlot_badCheck (f : Slot → Slot) : (s.modSlot f).badCheck = s.badCheck := rfl
@[simp] theorem State.modSlot_walkCache (f : Slot → Slot) : (s.modSlot f).walkCache = s.walkCache := rfl
@[simp] theorem State.modSlot_hearths (f : Slot → Slot) : (s.modSlot f).hearths = s.hearths := rfl
@[simp] theorem State.modSlot_launches (f : Slot → Slot) : (s.modSlot f).launches = s.launches := rfl
@[simp] theorem State.modSlot_backlog (f : Slot → Slot) : (s.modSlot f).backlog = s.backlog := rfl
@[simp] theorem State.modSlot_lastId (f : Slot → Slot) : (s.modSlot f).lastId = s.lastId := rfl
@[simp] theorem State.modSlot_accepted (f : Slot → Slot) : (s.modSlot f).accepted = s.accepted := rfl
@[simp] theorem State.modSlot_cur (f : Slot → Slot) : (s.modSlot f).cur = s.cur := rfl
@[simp] theorem State.modSlot_cycle (f : Slot → Slot) : (s.modSlot f).cycle = s.cycle := rfl
@[simp] theorem State.modSlot_ptp17 (f : Slot → Slot) : (s.modSlot f).ptp17 = s.ptp17 := rfl
@[simp] theorem State.modSlot_holdover (f : Slot → Slot) : (s.modSlot f).holdover = s.holdover := rfl
@[simp] theorem State.modSlot_slew (f : Slot → Slot) : (s.modSlot f).slew = s.slew := rfl
@[simp] theorem State.modSlot_slewCycles (f : Slot → Slot) : (s.modSlot f).slewCycles = s.slewCycles := rfl
@[simp] theorem State.modSlot_hyp (f : Slot → Slot) : (s.modSlot f).hyp = s.hyp := rfl
@[simp] theorem State.modSlot_versions (f : Slot → Slot) : (s.modSlot f).versions = s.versions := rfl
@[simp] theorem State.modSlot_beats (f : Slot → Slot) : (s.modSlot f).beats = s.beats := rfl
@[simp] theorem State.modSlot_transits (f : Slot → Slot) : (s.modSlot f).transits = s.transits := rfl
@[simp] theorem State.modSlot_remotes (f : Slot → Slot) : (s.modSlot f).remotes = s.remotes := rfl
@[simp] theorem State.modSlot_nextId (f : Slot → Slot) : (s.modSlot f).nextId = s.nextId := rfl
@[simp] theorem State.modSlot_homes (f : Slot → Slot) : (s.modSlot f).homes = s.homes := rfl
@[simp] theorem State.modSlot_bridge (f : Slot → Slot) : (s.modSlot f).bridge = s.bridge := rfl
@[simp] theorem State.modSlot_hostReqs (f : Slot → Slot) : (s.modSlot f).hostReqs = s.hostReqs := rfl
@[simp] theorem State.modSlot_hostFolds (f : Slot → Slot) : (s.modSlot f).hostFolds = s.hostFolds := rfl
@[simp] theorem State.modSlot_hostWrites (f : Slot → Slot) : (s.modSlot f).hostWrites = s.hostWrites := rfl
@[simp] theorem State.modSlot_queueBase (f : Slot → Slot) : (s.modSlot f).queueBase = s.queueBase := rfl
@[simp] theorem State.modSlot_asidBase (f : Slot → Slot) : (s.modSlot f).asidBase = s.asidBase := rfl
@[simp] theorem State.modSlot_queues (f : Slot → Slot) : (s.modSlot f).queues = s.queues := rfl
@[simp] theorem State.modSlot_restarting (f : Slot → Slot) : (s.modSlot f).restarting = s.restarting := rfl
@[simp] theorem State.modSlot_restartBy (f : Slot → Slot) : (s.modSlot f).restartBy = s.restartBy := rfl
@[simp] theorem State.modSlot_streams (f : Slot → Slot) : (s.modSlot f).streams = s.streams := rfl
@[simp] theorem State.modSlot_linked (f : Slot → Slot) : (s.modSlot f).linked = s.linked := rfl
@[simp] theorem State.modSlot_receivers (f : Slot → Slot) : (s.modSlot f).receivers = s.receivers := rfl
@[simp] theorem State.modSlot_retrainAt (f : Slot → Slot) : (s.modSlot f).retrainAt = s.retrainAt := rfl
@[simp] theorem State.modSlot_baseTx (f : Slot → Slot) : (s.modSlot f).baseTx = s.baseTx := rfl
@[simp] theorem State.modSlot_endingLeases (f : Slot → Slot) : (s.modSlot f).endingLeases = s.endingLeases := rfl
@[simp] theorem State.modSlot_failedTx (f : Slot → Slot) : (s.modSlot f).failedTx = s.failedTx := rfl
@[simp] theorem State.modSlot_spares (f : Slot → Slot) : (s.modSlot f).spares = s.spares := rfl
@[simp] theorem State.modSlot_warmAt (f : Slot → Slot) : (s.modSlot f).warmAt = s.warmAt := rfl
@[simp] theorem State.modSlot_transactions (f : Slot → Slot) : (s.modSlot f).transactions = s.transactions := rfl
@[simp] theorem State.modSlot_tokens (f : Slot → Slot) : (s.modSlot f).tokens = s.tokens := rfl
@[simp] theorem State.modSlot_freeTokens (f : Slot → Slot) : (s.modSlot f).freeTokens = s.freeTokens := rfl
@[simp] theorem State.modSlot_halved (f : Slot → Slot) : (s.modSlot f).halved = s.halved := rfl
@[simp] theorem State.modSlot_heatParked (f : Slot → Slot) : (s.modSlot f).heatParked = s.heatParked := rfl
@[simp] theorem State.modSlot_powerParked (f : Slot → Slot) : (s.modSlot f).powerParked = s.powerParked := rfl
@[simp] theorem State.modSlot_selfRefresh (f : Slot → Slot) : (s.modSlot f).selfRefresh = s.selfRefresh := rfl
@[simp] theorem State.modSlot_hbmAccess (f : Slot → Slot) : (s.modSlot f).hbmAccess = s.hbmAccess := rfl
@[simp] theorem State.modSlot_hbmWake (f : Slot → Slot) : (s.modSlot f).hbmWake = s.hbmWake := rfl
@[simp] theorem State.modSlot_dieWake (f : Slot → Slot) : (s.modSlot f).dieWake = s.dieWake := rfl
@[simp] theorem State.modSlot_hbmCorrections (f : Slot → Slot) : (s.modSlot f).hbmCorrections = s.hbmCorrections := rfl
@[simp] theorem State.modSlot_sparedRows (f : Slot → Slot) : (s.modSlot f).sparedRows = s.sparedRows := rfl
@[simp] theorem State.modSlot_sparedChannels (f : Slot → Slot) : (s.modSlot f).sparedChannels = s.sparedChannels := rfl
@[simp] theorem State.modSlot_failedLanes (f : Slot → Slot) : (s.modSlot f).failedLanes = s.failedLanes := rfl
@[simp] theorem State.modSlot_tolerance (f : Slot → Slot) : (s.modSlot f).tolerance = s.tolerance := rfl
@[simp] theorem State.modSlot_portUp (f : Slot → Slot) : (s.modSlot f).portUp = s.portUp := rfl
@[simp] theorem State.modSlot_ras (f : Slot → Slot) : (s.modSlot f).ras = s.ras := rfl
@[simp] theorem State.modSlot_rasSeq (f : Slot → Slot) : (s.modSlot f).rasSeq = s.rasSeq := rfl
@[simp] theorem State.modSlot_boot (f : Slot → Slot) : (s.modSlot f).boot = s.boot := rfl
@[simp] theorem State.modSlot_nv (f : Slot → Slot) : (s.modSlot f).nv = s.nv := rfl
@[simp] theorem State.modSlot_cfg (f : Slot → Slot) : (s.modSlot f).cfg = s.cfg := rfl
@[simp] theorem State.modSlot_recovery (f : Slot → Slot) : (s.modSlot f).recovery = s.recovery := rfl
@[simp] theorem State.modSlot_responses (f : Slot → Slot) : (s.modSlot f).responses = s.responses := rfl
@[simp] theorem State.modSlot_notices (f : Slot → Slot) : (s.modSlot f).notices = s.notices := rfl
@[simp] theorem State.modSlot_usedSpares (f : Slot → Slot) : (s.modSlot f).usedSpares = s.usedSpares := rfl
@[simp] theorem State.modSlot_firmwareSites (f : Slot → Slot) : (s.modSlot f).firmwareSites = s.firmwareSites := rfl
@[simp] theorem State.modSlot_retiring (f : Slot → Slot) : (s.modSlot f).retiring = s.retiring := rfl
@[simp] theorem State.modSlot_scrubs (f : Slot → Slot) : (s.modSlot f).scrubs = s.scrubs := rfl
@[simp] theorem State.modSlot_scrubAt (f : Slot → Slot) : (s.modSlot f).scrubAt = s.scrubAt := rfl
@[simp] theorem State.modSlot_turns (f : Slot → Slot) : (s.modSlot f).turns = s.turns := rfl
@[simp] theorem State.modSlot_timers (f : Slot → Slot) : (s.modSlot f).timers = s.timers := rfl
@[simp] theorem State.modSlot_closing (f : Slot → Slot) : (s.modSlot f).closing = s.closing := rfl
@[simp] theorem State.modSlot_agenda (f : Slot → Slot) : (s.modSlot f).agenda = s.agenda := rfl
@[simp] theorem State.modSlot_ev (f : Slot → Slot) : (s.modSlot f).ev = s.ev := rfl
@[simp] theorem State.modSlot_freeCtr (f : Slot → Slot) : (s.modSlot f).freeCtr = s.freeCtr := rfl

/-! ### `State.modMyCore` -/

@[simp] theorem State.modMyCore_mem (f : Core → Core) : (s.modMyCore f).mem = s.mem := rfl
@[simp] theorem State.modMyCore_poison (f : Core → Core) : (s.modMyCore f).poison = s.poison := rfl
@[simp] theorem State.modMyCore_badCheck (f : Core → Core) : (s.modMyCore f).badCheck = s.badCheck := rfl
@[simp] theorem State.modMyCore_walkCache (f : Core → Core) : (s.modMyCore f).walkCache = s.walkCache := rfl
@[simp] theorem State.modMyCore_hearths (f : Core → Core) : (s.modMyCore f).hearths = s.hearths := rfl
@[simp] theorem State.modMyCore_launches (f : Core → Core) : (s.modMyCore f).launches = s.launches := rfl
@[simp] theorem State.modMyCore_backlog (f : Core → Core) : (s.modMyCore f).backlog = s.backlog := rfl
@[simp] theorem State.modMyCore_lastId (f : Core → Core) : (s.modMyCore f).lastId = s.lastId := rfl
@[simp] theorem State.modMyCore_accepted (f : Core → Core) : (s.modMyCore f).accepted = s.accepted := rfl
@[simp] theorem State.modMyCore_cur (f : Core → Core) : (s.modMyCore f).cur = s.cur := rfl
@[simp] theorem State.modMyCore_cycle (f : Core → Core) : (s.modMyCore f).cycle = s.cycle := rfl
@[simp] theorem State.modMyCore_ptp17 (f : Core → Core) : (s.modMyCore f).ptp17 = s.ptp17 := rfl
@[simp] theorem State.modMyCore_holdover (f : Core → Core) : (s.modMyCore f).holdover = s.holdover := rfl
@[simp] theorem State.modMyCore_slew (f : Core → Core) : (s.modMyCore f).slew = s.slew := rfl
@[simp] theorem State.modMyCore_slewCycles (f : Core → Core) : (s.modMyCore f).slewCycles = s.slewCycles := rfl
@[simp] theorem State.modMyCore_hyp (f : Core → Core) : (s.modMyCore f).hyp = s.hyp := rfl
@[simp] theorem State.modMyCore_versions (f : Core → Core) : (s.modMyCore f).versions = s.versions := rfl
@[simp] theorem State.modMyCore_beats (f : Core → Core) : (s.modMyCore f).beats = s.beats := rfl
@[simp] theorem State.modMyCore_transits (f : Core → Core) : (s.modMyCore f).transits = s.transits := rfl
@[simp] theorem State.modMyCore_remotes (f : Core → Core) : (s.modMyCore f).remotes = s.remotes := rfl
@[simp] theorem State.modMyCore_nextId (f : Core → Core) : (s.modMyCore f).nextId = s.nextId := rfl
@[simp] theorem State.modMyCore_homes (f : Core → Core) : (s.modMyCore f).homes = s.homes := rfl
@[simp] theorem State.modMyCore_bridge (f : Core → Core) : (s.modMyCore f).bridge = s.bridge := rfl
@[simp] theorem State.modMyCore_hostReqs (f : Core → Core) : (s.modMyCore f).hostReqs = s.hostReqs := rfl
@[simp] theorem State.modMyCore_hostFolds (f : Core → Core) : (s.modMyCore f).hostFolds = s.hostFolds := rfl
@[simp] theorem State.modMyCore_hostWrites (f : Core → Core) : (s.modMyCore f).hostWrites = s.hostWrites := rfl
@[simp] theorem State.modMyCore_queueBase (f : Core → Core) : (s.modMyCore f).queueBase = s.queueBase := rfl
@[simp] theorem State.modMyCore_asidBase (f : Core → Core) : (s.modMyCore f).asidBase = s.asidBase := rfl
@[simp] theorem State.modMyCore_queues (f : Core → Core) : (s.modMyCore f).queues = s.queues := rfl
@[simp] theorem State.modMyCore_restarting (f : Core → Core) : (s.modMyCore f).restarting = s.restarting := rfl
@[simp] theorem State.modMyCore_restartBy (f : Core → Core) : (s.modMyCore f).restartBy = s.restartBy := rfl
@[simp] theorem State.modMyCore_streams (f : Core → Core) : (s.modMyCore f).streams = s.streams := rfl
@[simp] theorem State.modMyCore_linked (f : Core → Core) : (s.modMyCore f).linked = s.linked := rfl
@[simp] theorem State.modMyCore_receivers (f : Core → Core) : (s.modMyCore f).receivers = s.receivers := rfl
@[simp] theorem State.modMyCore_retrainAt (f : Core → Core) : (s.modMyCore f).retrainAt = s.retrainAt := rfl
@[simp] theorem State.modMyCore_baseTx (f : Core → Core) : (s.modMyCore f).baseTx = s.baseTx := rfl
@[simp] theorem State.modMyCore_endingLeases (f : Core → Core) : (s.modMyCore f).endingLeases = s.endingLeases := rfl
@[simp] theorem State.modMyCore_failedTx (f : Core → Core) : (s.modMyCore f).failedTx = s.failedTx := rfl
@[simp] theorem State.modMyCore_spares (f : Core → Core) : (s.modMyCore f).spares = s.spares := rfl
@[simp] theorem State.modMyCore_warmAt (f : Core → Core) : (s.modMyCore f).warmAt = s.warmAt := rfl
@[simp] theorem State.modMyCore_transactions (f : Core → Core) : (s.modMyCore f).transactions = s.transactions := rfl
@[simp] theorem State.modMyCore_tokens (f : Core → Core) : (s.modMyCore f).tokens = s.tokens := rfl
@[simp] theorem State.modMyCore_freeTokens (f : Core → Core) : (s.modMyCore f).freeTokens = s.freeTokens := rfl
@[simp] theorem State.modMyCore_halved (f : Core → Core) : (s.modMyCore f).halved = s.halved := rfl
@[simp] theorem State.modMyCore_heatParked (f : Core → Core) : (s.modMyCore f).heatParked = s.heatParked := rfl
@[simp] theorem State.modMyCore_powerParked (f : Core → Core) : (s.modMyCore f).powerParked = s.powerParked := rfl
@[simp] theorem State.modMyCore_selfRefresh (f : Core → Core) : (s.modMyCore f).selfRefresh = s.selfRefresh := rfl
@[simp] theorem State.modMyCore_hbmAccess (f : Core → Core) : (s.modMyCore f).hbmAccess = s.hbmAccess := rfl
@[simp] theorem State.modMyCore_hbmWake (f : Core → Core) : (s.modMyCore f).hbmWake = s.hbmWake := rfl
@[simp] theorem State.modMyCore_dieWake (f : Core → Core) : (s.modMyCore f).dieWake = s.dieWake := rfl
@[simp] theorem State.modMyCore_hbmCorrections (f : Core → Core) : (s.modMyCore f).hbmCorrections = s.hbmCorrections := rfl
@[simp] theorem State.modMyCore_sparedRows (f : Core → Core) : (s.modMyCore f).sparedRows = s.sparedRows := rfl
@[simp] theorem State.modMyCore_sparedChannels (f : Core → Core) : (s.modMyCore f).sparedChannels = s.sparedChannels := rfl
@[simp] theorem State.modMyCore_failedLanes (f : Core → Core) : (s.modMyCore f).failedLanes = s.failedLanes := rfl
@[simp] theorem State.modMyCore_tolerance (f : Core → Core) : (s.modMyCore f).tolerance = s.tolerance := rfl
@[simp] theorem State.modMyCore_portUp (f : Core → Core) : (s.modMyCore f).portUp = s.portUp := rfl
@[simp] theorem State.modMyCore_ras (f : Core → Core) : (s.modMyCore f).ras = s.ras := rfl
@[simp] theorem State.modMyCore_rasSeq (f : Core → Core) : (s.modMyCore f).rasSeq = s.rasSeq := rfl
@[simp] theorem State.modMyCore_boot (f : Core → Core) : (s.modMyCore f).boot = s.boot := rfl
@[simp] theorem State.modMyCore_nv (f : Core → Core) : (s.modMyCore f).nv = s.nv := rfl
@[simp] theorem State.modMyCore_cfg (f : Core → Core) : (s.modMyCore f).cfg = s.cfg := rfl
@[simp] theorem State.modMyCore_recovery (f : Core → Core) : (s.modMyCore f).recovery = s.recovery := rfl
@[simp] theorem State.modMyCore_responses (f : Core → Core) : (s.modMyCore f).responses = s.responses := rfl
@[simp] theorem State.modMyCore_notices (f : Core → Core) : (s.modMyCore f).notices = s.notices := rfl
@[simp] theorem State.modMyCore_usedSpares (f : Core → Core) : (s.modMyCore f).usedSpares = s.usedSpares := rfl
@[simp] theorem State.modMyCore_firmwareSites (f : Core → Core) : (s.modMyCore f).firmwareSites = s.firmwareSites := rfl
@[simp] theorem State.modMyCore_retiring (f : Core → Core) : (s.modMyCore f).retiring = s.retiring := rfl
@[simp] theorem State.modMyCore_scrubs (f : Core → Core) : (s.modMyCore f).scrubs = s.scrubs := rfl
@[simp] theorem State.modMyCore_scrubAt (f : Core → Core) : (s.modMyCore f).scrubAt = s.scrubAt := rfl
@[simp] theorem State.modMyCore_turns (f : Core → Core) : (s.modMyCore f).turns = s.turns := rfl
@[simp] theorem State.modMyCore_timers (f : Core → Core) : (s.modMyCore f).timers = s.timers := rfl
@[simp] theorem State.modMyCore_closing (f : Core → Core) : (s.modMyCore f).closing = s.closing := rfl
@[simp] theorem State.modMyCore_agenda (f : Core → Core) : (s.modMyCore f).agenda = s.agenda := rfl
@[simp] theorem State.modMyCore_ev (f : Core → Core) : (s.modMyCore f).ev = s.ev := rfl
@[simp] theorem State.modMyCore_freeCtr (f : Core → Core) : (s.modMyCore f).freeCtr = s.freeCtr := rfl

/-! ### `State.modHearth` -/

@[simp] theorem State.modHearth_mem (h : Nat) (f : Hearth → Hearth) : (s.modHearth h f).mem = s.mem := rfl
@[simp] theorem State.modHearth_poison (h : Nat) (f : Hearth → Hearth) : (s.modHearth h f).poison = s.poison := rfl
@[simp] theorem State.modHearth_badCheck (h : Nat) (f : Hearth → Hearth) : (s.modHearth h f).badCheck = s.badCheck := rfl
@[simp] theorem State.modHearth_walkCache (h : Nat) (f : Hearth → Hearth) : (s.modHearth h f).walkCache = s.walkCache := rfl
@[simp] theorem State.modHearth_cores (h : Nat) (f : Hearth → Hearth) : (s.modHearth h f).cores = s.cores := rfl
@[simp] theorem State.modHearth_launches (h : Nat) (f : Hearth → Hearth) : (s.modHearth h f).launches = s.launches := rfl
@[simp] theorem State.modHearth_backlog (h : Nat) (f : Hearth → Hearth) : (s.modHearth h f).backlog = s.backlog := rfl
@[simp] theorem State.modHearth_lastId (h : Nat) (f : Hearth → Hearth) : (s.modHearth h f).lastId = s.lastId := rfl
@[simp] theorem State.modHearth_accepted (h : Nat) (f : Hearth → Hearth) : (s.modHearth h f).accepted = s.accepted := rfl
@[simp] theorem State.modHearth_cur (h : Nat) (f : Hearth → Hearth) : (s.modHearth h f).cur = s.cur := rfl
@[simp] theorem State.modHearth_cycle (h : Nat) (f : Hearth → Hearth) : (s.modHearth h f).cycle = s.cycle := rfl
@[simp] theorem State.modHearth_ptp17 (h : Nat) (f : Hearth → Hearth) : (s.modHearth h f).ptp17 = s.ptp17 := rfl
@[simp] theorem State.modHearth_holdover (h : Nat) (f : Hearth → Hearth) : (s.modHearth h f).holdover = s.holdover := rfl
@[simp] theorem State.modHearth_slew (h : Nat) (f : Hearth → Hearth) : (s.modHearth h f).slew = s.slew := rfl
@[simp] theorem State.modHearth_slewCycles (h : Nat) (f : Hearth → Hearth) : (s.modHearth h f).slewCycles = s.slewCycles := rfl
@[simp] theorem State.modHearth_hyp (h : Nat) (f : Hearth → Hearth) : (s.modHearth h f).hyp = s.hyp := rfl
@[simp] theorem State.modHearth_versions (h : Nat) (f : Hearth → Hearth) : (s.modHearth h f).versions = s.versions := rfl
@[simp] theorem State.modHearth_beats (h : Nat) (f : Hearth → Hearth) : (s.modHearth h f).beats = s.beats := rfl
@[simp] theorem State.modHearth_transits (h : Nat) (f : Hearth → Hearth) : (s.modHearth h f).transits = s.transits := rfl
@[simp] theorem State.modHearth_remotes (h : Nat) (f : Hearth → Hearth) : (s.modHearth h f).remotes = s.remotes := rfl
@[simp] theorem State.modHearth_nextId (h : Nat) (f : Hearth → Hearth) : (s.modHearth h f).nextId = s.nextId := rfl
@[simp] theorem State.modHearth_homes (h : Nat) (f : Hearth → Hearth) : (s.modHearth h f).homes = s.homes := rfl
@[simp] theorem State.modHearth_bridge (h : Nat) (f : Hearth → Hearth) : (s.modHearth h f).bridge = s.bridge := rfl
@[simp] theorem State.modHearth_hostReqs (h : Nat) (f : Hearth → Hearth) : (s.modHearth h f).hostReqs = s.hostReqs := rfl
@[simp] theorem State.modHearth_hostFolds (h : Nat) (f : Hearth → Hearth) : (s.modHearth h f).hostFolds = s.hostFolds := rfl
@[simp] theorem State.modHearth_hostWrites (h : Nat) (f : Hearth → Hearth) : (s.modHearth h f).hostWrites = s.hostWrites := rfl
@[simp] theorem State.modHearth_queueBase (h : Nat) (f : Hearth → Hearth) : (s.modHearth h f).queueBase = s.queueBase := rfl
@[simp] theorem State.modHearth_asidBase (h : Nat) (f : Hearth → Hearth) : (s.modHearth h f).asidBase = s.asidBase := rfl
@[simp] theorem State.modHearth_queues (h : Nat) (f : Hearth → Hearth) : (s.modHearth h f).queues = s.queues := rfl
@[simp] theorem State.modHearth_restarting (h : Nat) (f : Hearth → Hearth) : (s.modHearth h f).restarting = s.restarting := rfl
@[simp] theorem State.modHearth_restartBy (h : Nat) (f : Hearth → Hearth) : (s.modHearth h f).restartBy = s.restartBy := rfl
@[simp] theorem State.modHearth_streams (h : Nat) (f : Hearth → Hearth) : (s.modHearth h f).streams = s.streams := rfl
@[simp] theorem State.modHearth_linked (h : Nat) (f : Hearth → Hearth) : (s.modHearth h f).linked = s.linked := rfl
@[simp] theorem State.modHearth_receivers (h : Nat) (f : Hearth → Hearth) : (s.modHearth h f).receivers = s.receivers := rfl
@[simp] theorem State.modHearth_retrainAt (h : Nat) (f : Hearth → Hearth) : (s.modHearth h f).retrainAt = s.retrainAt := rfl
@[simp] theorem State.modHearth_baseTx (h : Nat) (f : Hearth → Hearth) : (s.modHearth h f).baseTx = s.baseTx := rfl
@[simp] theorem State.modHearth_endingLeases (h : Nat) (f : Hearth → Hearth) : (s.modHearth h f).endingLeases = s.endingLeases := rfl
@[simp] theorem State.modHearth_failedTx (h : Nat) (f : Hearth → Hearth) : (s.modHearth h f).failedTx = s.failedTx := rfl
@[simp] theorem State.modHearth_spares (h : Nat) (f : Hearth → Hearth) : (s.modHearth h f).spares = s.spares := rfl
@[simp] theorem State.modHearth_warmAt (h : Nat) (f : Hearth → Hearth) : (s.modHearth h f).warmAt = s.warmAt := rfl
@[simp] theorem State.modHearth_transactions (h : Nat) (f : Hearth → Hearth) : (s.modHearth h f).transactions = s.transactions := rfl
@[simp] theorem State.modHearth_tokens (h : Nat) (f : Hearth → Hearth) : (s.modHearth h f).tokens = s.tokens := rfl
@[simp] theorem State.modHearth_freeTokens (h : Nat) (f : Hearth → Hearth) : (s.modHearth h f).freeTokens = s.freeTokens := rfl
@[simp] theorem State.modHearth_halved (h : Nat) (f : Hearth → Hearth) : (s.modHearth h f).halved = s.halved := rfl
@[simp] theorem State.modHearth_heatParked (h : Nat) (f : Hearth → Hearth) : (s.modHearth h f).heatParked = s.heatParked := rfl
@[simp] theorem State.modHearth_powerParked (h : Nat) (f : Hearth → Hearth) : (s.modHearth h f).powerParked = s.powerParked := rfl
@[simp] theorem State.modHearth_selfRefresh (h : Nat) (f : Hearth → Hearth) : (s.modHearth h f).selfRefresh = s.selfRefresh := rfl
@[simp] theorem State.modHearth_hbmAccess (h : Nat) (f : Hearth → Hearth) : (s.modHearth h f).hbmAccess = s.hbmAccess := rfl
@[simp] theorem State.modHearth_hbmWake (h : Nat) (f : Hearth → Hearth) : (s.modHearth h f).hbmWake = s.hbmWake := rfl
@[simp] theorem State.modHearth_dieWake (h : Nat) (f : Hearth → Hearth) : (s.modHearth h f).dieWake = s.dieWake := rfl
@[simp] theorem State.modHearth_hbmCorrections (h : Nat) (f : Hearth → Hearth) : (s.modHearth h f).hbmCorrections = s.hbmCorrections := rfl
@[simp] theorem State.modHearth_sparedRows (h : Nat) (f : Hearth → Hearth) : (s.modHearth h f).sparedRows = s.sparedRows := rfl
@[simp] theorem State.modHearth_sparedChannels (h : Nat) (f : Hearth → Hearth) : (s.modHearth h f).sparedChannels = s.sparedChannels := rfl
@[simp] theorem State.modHearth_failedLanes (h : Nat) (f : Hearth → Hearth) : (s.modHearth h f).failedLanes = s.failedLanes := rfl
@[simp] theorem State.modHearth_tolerance (h : Nat) (f : Hearth → Hearth) : (s.modHearth h f).tolerance = s.tolerance := rfl
@[simp] theorem State.modHearth_portUp (h : Nat) (f : Hearth → Hearth) : (s.modHearth h f).portUp = s.portUp := rfl
@[simp] theorem State.modHearth_ras (h : Nat) (f : Hearth → Hearth) : (s.modHearth h f).ras = s.ras := rfl
@[simp] theorem State.modHearth_rasSeq (h : Nat) (f : Hearth → Hearth) : (s.modHearth h f).rasSeq = s.rasSeq := rfl
@[simp] theorem State.modHearth_boot (h : Nat) (f : Hearth → Hearth) : (s.modHearth h f).boot = s.boot := rfl
@[simp] theorem State.modHearth_nv (h : Nat) (f : Hearth → Hearth) : (s.modHearth h f).nv = s.nv := rfl
@[simp] theorem State.modHearth_cfg (h : Nat) (f : Hearth → Hearth) : (s.modHearth h f).cfg = s.cfg := rfl
@[simp] theorem State.modHearth_recovery (h : Nat) (f : Hearth → Hearth) : (s.modHearth h f).recovery = s.recovery := rfl
@[simp] theorem State.modHearth_responses (h : Nat) (f : Hearth → Hearth) : (s.modHearth h f).responses = s.responses := rfl
@[simp] theorem State.modHearth_notices (h : Nat) (f : Hearth → Hearth) : (s.modHearth h f).notices = s.notices := rfl
@[simp] theorem State.modHearth_usedSpares (h : Nat) (f : Hearth → Hearth) : (s.modHearth h f).usedSpares = s.usedSpares := rfl
@[simp] theorem State.modHearth_firmwareSites (h : Nat) (f : Hearth → Hearth) : (s.modHearth h f).firmwareSites = s.firmwareSites := rfl
@[simp] theorem State.modHearth_retiring (h : Nat) (f : Hearth → Hearth) : (s.modHearth h f).retiring = s.retiring := rfl
@[simp] theorem State.modHearth_scrubs (h : Nat) (f : Hearth → Hearth) : (s.modHearth h f).scrubs = s.scrubs := rfl
@[simp] theorem State.modHearth_scrubAt (h : Nat) (f : Hearth → Hearth) : (s.modHearth h f).scrubAt = s.scrubAt := rfl
@[simp] theorem State.modHearth_turns (h : Nat) (f : Hearth → Hearth) : (s.modHearth h f).turns = s.turns := rfl
@[simp] theorem State.modHearth_timers (h : Nat) (f : Hearth → Hearth) : (s.modHearth h f).timers = s.timers := rfl
@[simp] theorem State.modHearth_closing (h : Nat) (f : Hearth → Hearth) : (s.modHearth h f).closing = s.closing := rfl
@[simp] theorem State.modHearth_agenda (h : Nat) (f : Hearth → Hearth) : (s.modHearth h f).agenda = s.agenda := rfl
@[simp] theorem State.modHearth_ev (h : Nat) (f : Hearth → Hearth) : (s.modHearth h f).ev = s.ev := rfl
@[simp] theorem State.modHearth_freeCtr (h : Nat) (f : Hearth → Hearth) : (s.modHearth h f).freeCtr = s.freeCtr := rfl

/-! ### `State.poke` -/

@[simp] theorem State.poke_mem (e : Event) : (s.poke e).mem = s.mem := rfl
@[simp] theorem State.poke_poison (e : Event) : (s.poke e).poison = s.poison := rfl
@[simp] theorem State.poke_badCheck (e : Event) : (s.poke e).badCheck = s.badCheck := rfl
@[simp] theorem State.poke_walkCache (e : Event) : (s.poke e).walkCache = s.walkCache := rfl
@[simp] theorem State.poke_cores (e : Event) : (s.poke e).cores = s.cores := rfl
@[simp] theorem State.poke_hearths (e : Event) : (s.poke e).hearths = s.hearths := rfl
@[simp] theorem State.poke_launches (e : Event) : (s.poke e).launches = s.launches := rfl
@[simp] theorem State.poke_backlog (e : Event) : (s.poke e).backlog = s.backlog := rfl
@[simp] theorem State.poke_lastId (e : Event) : (s.poke e).lastId = s.lastId := rfl
@[simp] theorem State.poke_accepted (e : Event) : (s.poke e).accepted = s.accepted := rfl
@[simp] theorem State.poke_cur (e : Event) : (s.poke e).cur = s.cur := rfl
@[simp] theorem State.poke_cycle (e : Event) : (s.poke e).cycle = s.cycle := rfl
@[simp] theorem State.poke_ptp17 (e : Event) : (s.poke e).ptp17 = s.ptp17 := rfl
@[simp] theorem State.poke_holdover (e : Event) : (s.poke e).holdover = s.holdover := rfl
@[simp] theorem State.poke_slew (e : Event) : (s.poke e).slew = s.slew := rfl
@[simp] theorem State.poke_slewCycles (e : Event) : (s.poke e).slewCycles = s.slewCycles := rfl
@[simp] theorem State.poke_hyp (e : Event) : (s.poke e).hyp = s.hyp := rfl
@[simp] theorem State.poke_versions (e : Event) : (s.poke e).versions = s.versions := rfl
@[simp] theorem State.poke_beats (e : Event) : (s.poke e).beats = s.beats := rfl
@[simp] theorem State.poke_transits (e : Event) : (s.poke e).transits = s.transits := rfl
@[simp] theorem State.poke_remotes (e : Event) : (s.poke e).remotes = s.remotes := rfl
@[simp] theorem State.poke_nextId (e : Event) : (s.poke e).nextId = s.nextId := rfl
@[simp] theorem State.poke_homes (e : Event) : (s.poke e).homes = s.homes := rfl
@[simp] theorem State.poke_bridge (e : Event) : (s.poke e).bridge = s.bridge := rfl
@[simp] theorem State.poke_hostReqs (e : Event) : (s.poke e).hostReqs = s.hostReqs := rfl
@[simp] theorem State.poke_hostFolds (e : Event) : (s.poke e).hostFolds = s.hostFolds := rfl
@[simp] theorem State.poke_hostWrites (e : Event) : (s.poke e).hostWrites = s.hostWrites := rfl
@[simp] theorem State.poke_queueBase (e : Event) : (s.poke e).queueBase = s.queueBase := rfl
@[simp] theorem State.poke_asidBase (e : Event) : (s.poke e).asidBase = s.asidBase := rfl
@[simp] theorem State.poke_queues (e : Event) : (s.poke e).queues = s.queues := rfl
@[simp] theorem State.poke_restarting (e : Event) : (s.poke e).restarting = s.restarting := rfl
@[simp] theorem State.poke_restartBy (e : Event) : (s.poke e).restartBy = s.restartBy := rfl
@[simp] theorem State.poke_streams (e : Event) : (s.poke e).streams = s.streams := rfl
@[simp] theorem State.poke_linked (e : Event) : (s.poke e).linked = s.linked := rfl
@[simp] theorem State.poke_receivers (e : Event) : (s.poke e).receivers = s.receivers := rfl
@[simp] theorem State.poke_retrainAt (e : Event) : (s.poke e).retrainAt = s.retrainAt := rfl
@[simp] theorem State.poke_baseTx (e : Event) : (s.poke e).baseTx = s.baseTx := rfl
@[simp] theorem State.poke_endingLeases (e : Event) : (s.poke e).endingLeases = s.endingLeases := rfl
@[simp] theorem State.poke_failedTx (e : Event) : (s.poke e).failedTx = s.failedTx := rfl
@[simp] theorem State.poke_spares (e : Event) : (s.poke e).spares = s.spares := rfl
@[simp] theorem State.poke_warmAt (e : Event) : (s.poke e).warmAt = s.warmAt := rfl
@[simp] theorem State.poke_transactions (e : Event) : (s.poke e).transactions = s.transactions := rfl
@[simp] theorem State.poke_tokens (e : Event) : (s.poke e).tokens = s.tokens := rfl
@[simp] theorem State.poke_freeTokens (e : Event) : (s.poke e).freeTokens = s.freeTokens := rfl
@[simp] theorem State.poke_halved (e : Event) : (s.poke e).halved = s.halved := rfl
@[simp] theorem State.poke_heatParked (e : Event) : (s.poke e).heatParked = s.heatParked := rfl
@[simp] theorem State.poke_powerParked (e : Event) : (s.poke e).powerParked = s.powerParked := rfl
@[simp] theorem State.poke_selfRefresh (e : Event) : (s.poke e).selfRefresh = s.selfRefresh := rfl
@[simp] theorem State.poke_hbmAccess (e : Event) : (s.poke e).hbmAccess = s.hbmAccess := rfl
@[simp] theorem State.poke_hbmWake (e : Event) : (s.poke e).hbmWake = s.hbmWake := rfl
@[simp] theorem State.poke_dieWake (e : Event) : (s.poke e).dieWake = s.dieWake := rfl
@[simp] theorem State.poke_hbmCorrections (e : Event) : (s.poke e).hbmCorrections = s.hbmCorrections := rfl
@[simp] theorem State.poke_sparedRows (e : Event) : (s.poke e).sparedRows = s.sparedRows := rfl
@[simp] theorem State.poke_sparedChannels (e : Event) : (s.poke e).sparedChannels = s.sparedChannels := rfl
@[simp] theorem State.poke_failedLanes (e : Event) : (s.poke e).failedLanes = s.failedLanes := rfl
@[simp] theorem State.poke_tolerance (e : Event) : (s.poke e).tolerance = s.tolerance := rfl
@[simp] theorem State.poke_portUp (e : Event) : (s.poke e).portUp = s.portUp := rfl
@[simp] theorem State.poke_ras (e : Event) : (s.poke e).ras = s.ras := rfl
@[simp] theorem State.poke_rasSeq (e : Event) : (s.poke e).rasSeq = s.rasSeq := rfl
@[simp] theorem State.poke_boot (e : Event) : (s.poke e).boot = s.boot := rfl
@[simp] theorem State.poke_nv (e : Event) : (s.poke e).nv = s.nv := rfl
@[simp] theorem State.poke_cfg (e : Event) : (s.poke e).cfg = s.cfg := rfl
@[simp] theorem State.poke_recovery (e : Event) : (s.poke e).recovery = s.recovery := rfl
@[simp] theorem State.poke_responses (e : Event) : (s.poke e).responses = s.responses := rfl
@[simp] theorem State.poke_notices (e : Event) : (s.poke e).notices = s.notices := rfl
@[simp] theorem State.poke_usedSpares (e : Event) : (s.poke e).usedSpares = s.usedSpares := rfl
@[simp] theorem State.poke_firmwareSites (e : Event) : (s.poke e).firmwareSites = s.firmwareSites := rfl
@[simp] theorem State.poke_retiring (e : Event) : (s.poke e).retiring = s.retiring := rfl
@[simp] theorem State.poke_scrubs (e : Event) : (s.poke e).scrubs = s.scrubs := rfl
@[simp] theorem State.poke_scrubAt (e : Event) : (s.poke e).scrubAt = s.scrubAt := rfl
@[simp] theorem State.poke_turns (e : Event) : (s.poke e).turns = s.turns := rfl
@[simp] theorem State.poke_timers (e : Event) : (s.poke e).timers = s.timers := rfl
@[simp] theorem State.poke_closing (e : Event) : (s.poke e).closing = s.closing := rfl
@[simp] theorem State.poke_ev (e : Event) : (s.poke e).ev = s.ev := rfl
@[simp] theorem State.poke_freeCtr (e : Event) : (s.poke e).freeCtr = s.freeCtr := rfl

/-! ### `State.pokeAll` -/

@[simp] theorem State.pokeAll_mem (es : List Event) : (s.pokeAll es).mem = s.mem := rfl
@[simp] theorem State.pokeAll_poison (es : List Event) : (s.pokeAll es).poison = s.poison := rfl
@[simp] theorem State.pokeAll_badCheck (es : List Event) : (s.pokeAll es).badCheck = s.badCheck := rfl
@[simp] theorem State.pokeAll_walkCache (es : List Event) : (s.pokeAll es).walkCache = s.walkCache := rfl
@[simp] theorem State.pokeAll_cores (es : List Event) : (s.pokeAll es).cores = s.cores := rfl
@[simp] theorem State.pokeAll_hearths (es : List Event) : (s.pokeAll es).hearths = s.hearths := rfl
@[simp] theorem State.pokeAll_launches (es : List Event) : (s.pokeAll es).launches = s.launches := rfl
@[simp] theorem State.pokeAll_backlog (es : List Event) : (s.pokeAll es).backlog = s.backlog := rfl
@[simp] theorem State.pokeAll_lastId (es : List Event) : (s.pokeAll es).lastId = s.lastId := rfl
@[simp] theorem State.pokeAll_accepted (es : List Event) : (s.pokeAll es).accepted = s.accepted := rfl
@[simp] theorem State.pokeAll_cur (es : List Event) : (s.pokeAll es).cur = s.cur := rfl
@[simp] theorem State.pokeAll_cycle (es : List Event) : (s.pokeAll es).cycle = s.cycle := rfl
@[simp] theorem State.pokeAll_ptp17 (es : List Event) : (s.pokeAll es).ptp17 = s.ptp17 := rfl
@[simp] theorem State.pokeAll_holdover (es : List Event) : (s.pokeAll es).holdover = s.holdover := rfl
@[simp] theorem State.pokeAll_slew (es : List Event) : (s.pokeAll es).slew = s.slew := rfl
@[simp] theorem State.pokeAll_slewCycles (es : List Event) : (s.pokeAll es).slewCycles = s.slewCycles := rfl
@[simp] theorem State.pokeAll_hyp (es : List Event) : (s.pokeAll es).hyp = s.hyp := rfl
@[simp] theorem State.pokeAll_versions (es : List Event) : (s.pokeAll es).versions = s.versions := rfl
@[simp] theorem State.pokeAll_beats (es : List Event) : (s.pokeAll es).beats = s.beats := rfl
@[simp] theorem State.pokeAll_transits (es : List Event) : (s.pokeAll es).transits = s.transits := rfl
@[simp] theorem State.pokeAll_remotes (es : List Event) : (s.pokeAll es).remotes = s.remotes := rfl
@[simp] theorem State.pokeAll_nextId (es : List Event) : (s.pokeAll es).nextId = s.nextId := rfl
@[simp] theorem State.pokeAll_homes (es : List Event) : (s.pokeAll es).homes = s.homes := rfl
@[simp] theorem State.pokeAll_bridge (es : List Event) : (s.pokeAll es).bridge = s.bridge := rfl
@[simp] theorem State.pokeAll_hostReqs (es : List Event) : (s.pokeAll es).hostReqs = s.hostReqs := rfl
@[simp] theorem State.pokeAll_hostFolds (es : List Event) : (s.pokeAll es).hostFolds = s.hostFolds := rfl
@[simp] theorem State.pokeAll_hostWrites (es : List Event) : (s.pokeAll es).hostWrites = s.hostWrites := rfl
@[simp] theorem State.pokeAll_queueBase (es : List Event) : (s.pokeAll es).queueBase = s.queueBase := rfl
@[simp] theorem State.pokeAll_asidBase (es : List Event) : (s.pokeAll es).asidBase = s.asidBase := rfl
@[simp] theorem State.pokeAll_queues (es : List Event) : (s.pokeAll es).queues = s.queues := rfl
@[simp] theorem State.pokeAll_restarting (es : List Event) : (s.pokeAll es).restarting = s.restarting := rfl
@[simp] theorem State.pokeAll_restartBy (es : List Event) : (s.pokeAll es).restartBy = s.restartBy := rfl
@[simp] theorem State.pokeAll_streams (es : List Event) : (s.pokeAll es).streams = s.streams := rfl
@[simp] theorem State.pokeAll_linked (es : List Event) : (s.pokeAll es).linked = s.linked := rfl
@[simp] theorem State.pokeAll_receivers (es : List Event) : (s.pokeAll es).receivers = s.receivers := rfl
@[simp] theorem State.pokeAll_retrainAt (es : List Event) : (s.pokeAll es).retrainAt = s.retrainAt := rfl
@[simp] theorem State.pokeAll_baseTx (es : List Event) : (s.pokeAll es).baseTx = s.baseTx := rfl
@[simp] theorem State.pokeAll_endingLeases (es : List Event) : (s.pokeAll es).endingLeases = s.endingLeases := rfl
@[simp] theorem State.pokeAll_failedTx (es : List Event) : (s.pokeAll es).failedTx = s.failedTx := rfl
@[simp] theorem State.pokeAll_spares (es : List Event) : (s.pokeAll es).spares = s.spares := rfl
@[simp] theorem State.pokeAll_warmAt (es : List Event) : (s.pokeAll es).warmAt = s.warmAt := rfl
@[simp] theorem State.pokeAll_transactions (es : List Event) : (s.pokeAll es).transactions = s.transactions := rfl
@[simp] theorem State.pokeAll_tokens (es : List Event) : (s.pokeAll es).tokens = s.tokens := rfl
@[simp] theorem State.pokeAll_freeTokens (es : List Event) : (s.pokeAll es).freeTokens = s.freeTokens := rfl
@[simp] theorem State.pokeAll_halved (es : List Event) : (s.pokeAll es).halved = s.halved := rfl
@[simp] theorem State.pokeAll_heatParked (es : List Event) : (s.pokeAll es).heatParked = s.heatParked := rfl
@[simp] theorem State.pokeAll_powerParked (es : List Event) : (s.pokeAll es).powerParked = s.powerParked := rfl
@[simp] theorem State.pokeAll_selfRefresh (es : List Event) : (s.pokeAll es).selfRefresh = s.selfRefresh := rfl
@[simp] theorem State.pokeAll_hbmAccess (es : List Event) : (s.pokeAll es).hbmAccess = s.hbmAccess := rfl
@[simp] theorem State.pokeAll_hbmWake (es : List Event) : (s.pokeAll es).hbmWake = s.hbmWake := rfl
@[simp] theorem State.pokeAll_dieWake (es : List Event) : (s.pokeAll es).dieWake = s.dieWake := rfl
@[simp] theorem State.pokeAll_hbmCorrections (es : List Event) : (s.pokeAll es).hbmCorrections = s.hbmCorrections := rfl
@[simp] theorem State.pokeAll_sparedRows (es : List Event) : (s.pokeAll es).sparedRows = s.sparedRows := rfl
@[simp] theorem State.pokeAll_sparedChannels (es : List Event) : (s.pokeAll es).sparedChannels = s.sparedChannels := rfl
@[simp] theorem State.pokeAll_failedLanes (es : List Event) : (s.pokeAll es).failedLanes = s.failedLanes := rfl
@[simp] theorem State.pokeAll_tolerance (es : List Event) : (s.pokeAll es).tolerance = s.tolerance := rfl
@[simp] theorem State.pokeAll_portUp (es : List Event) : (s.pokeAll es).portUp = s.portUp := rfl
@[simp] theorem State.pokeAll_ras (es : List Event) : (s.pokeAll es).ras = s.ras := rfl
@[simp] theorem State.pokeAll_rasSeq (es : List Event) : (s.pokeAll es).rasSeq = s.rasSeq := rfl
@[simp] theorem State.pokeAll_boot (es : List Event) : (s.pokeAll es).boot = s.boot := rfl
@[simp] theorem State.pokeAll_nv (es : List Event) : (s.pokeAll es).nv = s.nv := rfl
@[simp] theorem State.pokeAll_cfg (es : List Event) : (s.pokeAll es).cfg = s.cfg := rfl
@[simp] theorem State.pokeAll_recovery (es : List Event) : (s.pokeAll es).recovery = s.recovery := rfl
@[simp] theorem State.pokeAll_responses (es : List Event) : (s.pokeAll es).responses = s.responses := rfl
@[simp] theorem State.pokeAll_notices (es : List Event) : (s.pokeAll es).notices = s.notices := rfl
@[simp] theorem State.pokeAll_usedSpares (es : List Event) : (s.pokeAll es).usedSpares = s.usedSpares := rfl
@[simp] theorem State.pokeAll_firmwareSites (es : List Event) : (s.pokeAll es).firmwareSites = s.firmwareSites := rfl
@[simp] theorem State.pokeAll_retiring (es : List Event) : (s.pokeAll es).retiring = s.retiring := rfl
@[simp] theorem State.pokeAll_scrubs (es : List Event) : (s.pokeAll es).scrubs = s.scrubs := rfl
@[simp] theorem State.pokeAll_scrubAt (es : List Event) : (s.pokeAll es).scrubAt = s.scrubAt := rfl
@[simp] theorem State.pokeAll_turns (es : List Event) : (s.pokeAll es).turns = s.turns := rfl
@[simp] theorem State.pokeAll_timers (es : List Event) : (s.pokeAll es).timers = s.timers := rfl
@[simp] theorem State.pokeAll_closing (es : List Event) : (s.pokeAll es).closing = s.closing := rfl
@[simp] theorem State.pokeAll_ev (es : List Event) : (s.pokeAll es).ev = s.ev := rfl
@[simp] theorem State.pokeAll_freeCtr (es : List Event) : (s.pokeAll es).freeCtr = s.freeCtr := rfl

/-! ### `State.fresh` -/

@[simp] theorem State.fresh_mem : (s.fresh).mem = s.mem := rfl
@[simp] theorem State.fresh_poison : (s.fresh).poison = s.poison := rfl
@[simp] theorem State.fresh_badCheck : (s.fresh).badCheck = s.badCheck := rfl
@[simp] theorem State.fresh_walkCache : (s.fresh).walkCache = s.walkCache := rfl
@[simp] theorem State.fresh_cores : (s.fresh).cores = s.cores := rfl
@[simp] theorem State.fresh_hearths : (s.fresh).hearths = s.hearths := rfl
@[simp] theorem State.fresh_launches : (s.fresh).launches = s.launches := rfl
@[simp] theorem State.fresh_backlog : (s.fresh).backlog = s.backlog := rfl
@[simp] theorem State.fresh_lastId : (s.fresh).lastId = s.lastId := rfl
@[simp] theorem State.fresh_accepted : (s.fresh).accepted = s.accepted := rfl
@[simp] theorem State.fresh_cur : (s.fresh).cur = s.cur := rfl
@[simp] theorem State.fresh_cycle : (s.fresh).cycle = s.cycle := rfl
@[simp] theorem State.fresh_ptp17 : (s.fresh).ptp17 = s.ptp17 := rfl
@[simp] theorem State.fresh_holdover : (s.fresh).holdover = s.holdover := rfl
@[simp] theorem State.fresh_slew : (s.fresh).slew = s.slew := rfl
@[simp] theorem State.fresh_slewCycles : (s.fresh).slewCycles = s.slewCycles := rfl
@[simp] theorem State.fresh_hyp : (s.fresh).hyp = s.hyp := rfl
@[simp] theorem State.fresh_versions : (s.fresh).versions = s.versions := rfl
@[simp] theorem State.fresh_beats : (s.fresh).beats = s.beats := rfl
@[simp] theorem State.fresh_transits : (s.fresh).transits = s.transits := rfl
@[simp] theorem State.fresh_remotes : (s.fresh).remotes = s.remotes := rfl
@[simp] theorem State.fresh_homes : (s.fresh).homes = s.homes := rfl
@[simp] theorem State.fresh_bridge : (s.fresh).bridge = s.bridge := rfl
@[simp] theorem State.fresh_hostReqs : (s.fresh).hostReqs = s.hostReqs := rfl
@[simp] theorem State.fresh_hostFolds : (s.fresh).hostFolds = s.hostFolds := rfl
@[simp] theorem State.fresh_hostWrites : (s.fresh).hostWrites = s.hostWrites := rfl
@[simp] theorem State.fresh_queueBase : (s.fresh).queueBase = s.queueBase := rfl
@[simp] theorem State.fresh_asidBase : (s.fresh).asidBase = s.asidBase := rfl
@[simp] theorem State.fresh_queues : (s.fresh).queues = s.queues := rfl
@[simp] theorem State.fresh_restarting : (s.fresh).restarting = s.restarting := rfl
@[simp] theorem State.fresh_restartBy : (s.fresh).restartBy = s.restartBy := rfl
@[simp] theorem State.fresh_streams : (s.fresh).streams = s.streams := rfl
@[simp] theorem State.fresh_linked : (s.fresh).linked = s.linked := rfl
@[simp] theorem State.fresh_receivers : (s.fresh).receivers = s.receivers := rfl
@[simp] theorem State.fresh_retrainAt : (s.fresh).retrainAt = s.retrainAt := rfl
@[simp] theorem State.fresh_baseTx : (s.fresh).baseTx = s.baseTx := rfl
@[simp] theorem State.fresh_endingLeases : (s.fresh).endingLeases = s.endingLeases := rfl
@[simp] theorem State.fresh_failedTx : (s.fresh).failedTx = s.failedTx := rfl
@[simp] theorem State.fresh_spares : (s.fresh).spares = s.spares := rfl
@[simp] theorem State.fresh_warmAt : (s.fresh).warmAt = s.warmAt := rfl
@[simp] theorem State.fresh_transactions : (s.fresh).transactions = s.transactions := rfl
@[simp] theorem State.fresh_tokens : (s.fresh).tokens = s.tokens := rfl
@[simp] theorem State.fresh_freeTokens : (s.fresh).freeTokens = s.freeTokens := rfl
@[simp] theorem State.fresh_halved : (s.fresh).halved = s.halved := rfl
@[simp] theorem State.fresh_heatParked : (s.fresh).heatParked = s.heatParked := rfl
@[simp] theorem State.fresh_powerParked : (s.fresh).powerParked = s.powerParked := rfl
@[simp] theorem State.fresh_selfRefresh : (s.fresh).selfRefresh = s.selfRefresh := rfl
@[simp] theorem State.fresh_hbmAccess : (s.fresh).hbmAccess = s.hbmAccess := rfl
@[simp] theorem State.fresh_hbmWake : (s.fresh).hbmWake = s.hbmWake := rfl
@[simp] theorem State.fresh_dieWake : (s.fresh).dieWake = s.dieWake := rfl
@[simp] theorem State.fresh_hbmCorrections : (s.fresh).hbmCorrections = s.hbmCorrections := rfl
@[simp] theorem State.fresh_sparedRows : (s.fresh).sparedRows = s.sparedRows := rfl
@[simp] theorem State.fresh_sparedChannels : (s.fresh).sparedChannels = s.sparedChannels := rfl
@[simp] theorem State.fresh_failedLanes : (s.fresh).failedLanes = s.failedLanes := rfl
@[simp] theorem State.fresh_tolerance : (s.fresh).tolerance = s.tolerance := rfl
@[simp] theorem State.fresh_portUp : (s.fresh).portUp = s.portUp := rfl
@[simp] theorem State.fresh_ras : (s.fresh).ras = s.ras := rfl
@[simp] theorem State.fresh_rasSeq : (s.fresh).rasSeq = s.rasSeq := rfl
@[simp] theorem State.fresh_boot : (s.fresh).boot = s.boot := rfl
@[simp] theorem State.fresh_nv : (s.fresh).nv = s.nv := rfl
@[simp] theorem State.fresh_cfg : (s.fresh).cfg = s.cfg := rfl
@[simp] theorem State.fresh_recovery : (s.fresh).recovery = s.recovery := rfl
@[simp] theorem State.fresh_responses : (s.fresh).responses = s.responses := rfl
@[simp] theorem State.fresh_notices : (s.fresh).notices = s.notices := rfl
@[simp] theorem State.fresh_usedSpares : (s.fresh).usedSpares = s.usedSpares := rfl
@[simp] theorem State.fresh_firmwareSites : (s.fresh).firmwareSites = s.firmwareSites := rfl
@[simp] theorem State.fresh_retiring : (s.fresh).retiring = s.retiring := rfl
@[simp] theorem State.fresh_scrubs : (s.fresh).scrubs = s.scrubs := rfl
@[simp] theorem State.fresh_scrubAt : (s.fresh).scrubAt = s.scrubAt := rfl
@[simp] theorem State.fresh_turns : (s.fresh).turns = s.turns := rfl
@[simp] theorem State.fresh_timers : (s.fresh).timers = s.timers := rfl
@[simp] theorem State.fresh_closing : (s.fresh).closing = s.closing := rfl
@[simp] theorem State.fresh_agenda : (s.fresh).agenda = s.agenda := rfl
@[simp] theorem State.fresh_ev : (s.fresh).ev = s.ev := rfl
@[simp] theorem State.fresh_freeCtr : (s.fresh).freeCtr = s.freeCtr := rfl

/-! ### `State.nextFree` -/

@[simp] theorem State.nextFree_mem : (s.nextFree).mem = s.mem := rfl
@[simp] theorem State.nextFree_poison : (s.nextFree).poison = s.poison := rfl
@[simp] theorem State.nextFree_badCheck : (s.nextFree).badCheck = s.badCheck := rfl
@[simp] theorem State.nextFree_walkCache : (s.nextFree).walkCache = s.walkCache := rfl
@[simp] theorem State.nextFree_cores : (s.nextFree).cores = s.cores := rfl
@[simp] theorem State.nextFree_hearths : (s.nextFree).hearths = s.hearths := rfl
@[simp] theorem State.nextFree_launches : (s.nextFree).launches = s.launches := rfl
@[simp] theorem State.nextFree_backlog : (s.nextFree).backlog = s.backlog := rfl
@[simp] theorem State.nextFree_lastId : (s.nextFree).lastId = s.lastId := rfl
@[simp] theorem State.nextFree_accepted : (s.nextFree).accepted = s.accepted := rfl
@[simp] theorem State.nextFree_cur : (s.nextFree).cur = s.cur := rfl
@[simp] theorem State.nextFree_cycle : (s.nextFree).cycle = s.cycle := rfl
@[simp] theorem State.nextFree_ptp17 : (s.nextFree).ptp17 = s.ptp17 := rfl
@[simp] theorem State.nextFree_holdover : (s.nextFree).holdover = s.holdover := rfl
@[simp] theorem State.nextFree_slew : (s.nextFree).slew = s.slew := rfl
@[simp] theorem State.nextFree_slewCycles : (s.nextFree).slewCycles = s.slewCycles := rfl
@[simp] theorem State.nextFree_hyp : (s.nextFree).hyp = s.hyp := rfl
@[simp] theorem State.nextFree_versions : (s.nextFree).versions = s.versions := rfl
@[simp] theorem State.nextFree_beats : (s.nextFree).beats = s.beats := rfl
@[simp] theorem State.nextFree_transits : (s.nextFree).transits = s.transits := rfl
@[simp] theorem State.nextFree_remotes : (s.nextFree).remotes = s.remotes := rfl
@[simp] theorem State.nextFree_nextId : (s.nextFree).nextId = s.nextId := rfl
@[simp] theorem State.nextFree_homes : (s.nextFree).homes = s.homes := rfl
@[simp] theorem State.nextFree_bridge : (s.nextFree).bridge = s.bridge := rfl
@[simp] theorem State.nextFree_hostReqs : (s.nextFree).hostReqs = s.hostReqs := rfl
@[simp] theorem State.nextFree_hostFolds : (s.nextFree).hostFolds = s.hostFolds := rfl
@[simp] theorem State.nextFree_hostWrites : (s.nextFree).hostWrites = s.hostWrites := rfl
@[simp] theorem State.nextFree_queueBase : (s.nextFree).queueBase = s.queueBase := rfl
@[simp] theorem State.nextFree_asidBase : (s.nextFree).asidBase = s.asidBase := rfl
@[simp] theorem State.nextFree_queues : (s.nextFree).queues = s.queues := rfl
@[simp] theorem State.nextFree_restarting : (s.nextFree).restarting = s.restarting := rfl
@[simp] theorem State.nextFree_restartBy : (s.nextFree).restartBy = s.restartBy := rfl
@[simp] theorem State.nextFree_streams : (s.nextFree).streams = s.streams := rfl
@[simp] theorem State.nextFree_linked : (s.nextFree).linked = s.linked := rfl
@[simp] theorem State.nextFree_receivers : (s.nextFree).receivers = s.receivers := rfl
@[simp] theorem State.nextFree_retrainAt : (s.nextFree).retrainAt = s.retrainAt := rfl
@[simp] theorem State.nextFree_baseTx : (s.nextFree).baseTx = s.baseTx := rfl
@[simp] theorem State.nextFree_endingLeases : (s.nextFree).endingLeases = s.endingLeases := rfl
@[simp] theorem State.nextFree_failedTx : (s.nextFree).failedTx = s.failedTx := rfl
@[simp] theorem State.nextFree_spares : (s.nextFree).spares = s.spares := rfl
@[simp] theorem State.nextFree_warmAt : (s.nextFree).warmAt = s.warmAt := rfl
@[simp] theorem State.nextFree_transactions : (s.nextFree).transactions = s.transactions := rfl
@[simp] theorem State.nextFree_tokens : (s.nextFree).tokens = s.tokens := rfl
@[simp] theorem State.nextFree_freeTokens : (s.nextFree).freeTokens = s.freeTokens := rfl
@[simp] theorem State.nextFree_halved : (s.nextFree).halved = s.halved := rfl
@[simp] theorem State.nextFree_heatParked : (s.nextFree).heatParked = s.heatParked := rfl
@[simp] theorem State.nextFree_powerParked : (s.nextFree).powerParked = s.powerParked := rfl
@[simp] theorem State.nextFree_selfRefresh : (s.nextFree).selfRefresh = s.selfRefresh := rfl
@[simp] theorem State.nextFree_hbmAccess : (s.nextFree).hbmAccess = s.hbmAccess := rfl
@[simp] theorem State.nextFree_hbmWake : (s.nextFree).hbmWake = s.hbmWake := rfl
@[simp] theorem State.nextFree_dieWake : (s.nextFree).dieWake = s.dieWake := rfl
@[simp] theorem State.nextFree_hbmCorrections : (s.nextFree).hbmCorrections = s.hbmCorrections := rfl
@[simp] theorem State.nextFree_sparedRows : (s.nextFree).sparedRows = s.sparedRows := rfl
@[simp] theorem State.nextFree_sparedChannels : (s.nextFree).sparedChannels = s.sparedChannels := rfl
@[simp] theorem State.nextFree_failedLanes : (s.nextFree).failedLanes = s.failedLanes := rfl
@[simp] theorem State.nextFree_tolerance : (s.nextFree).tolerance = s.tolerance := rfl
@[simp] theorem State.nextFree_portUp : (s.nextFree).portUp = s.portUp := rfl
@[simp] theorem State.nextFree_ras : (s.nextFree).ras = s.ras := rfl
@[simp] theorem State.nextFree_rasSeq : (s.nextFree).rasSeq = s.rasSeq := rfl
@[simp] theorem State.nextFree_boot : (s.nextFree).boot = s.boot := rfl
@[simp] theorem State.nextFree_nv : (s.nextFree).nv = s.nv := rfl
@[simp] theorem State.nextFree_cfg : (s.nextFree).cfg = s.cfg := rfl
@[simp] theorem State.nextFree_recovery : (s.nextFree).recovery = s.recovery := rfl
@[simp] theorem State.nextFree_responses : (s.nextFree).responses = s.responses := rfl
@[simp] theorem State.nextFree_notices : (s.nextFree).notices = s.notices := rfl
@[simp] theorem State.nextFree_usedSpares : (s.nextFree).usedSpares = s.usedSpares := rfl
@[simp] theorem State.nextFree_firmwareSites : (s.nextFree).firmwareSites = s.firmwareSites := rfl
@[simp] theorem State.nextFree_retiring : (s.nextFree).retiring = s.retiring := rfl
@[simp] theorem State.nextFree_scrubs : (s.nextFree).scrubs = s.scrubs := rfl
@[simp] theorem State.nextFree_scrubAt : (s.nextFree).scrubAt = s.scrubAt := rfl
@[simp] theorem State.nextFree_turns : (s.nextFree).turns = s.turns := rfl
@[simp] theorem State.nextFree_timers : (s.nextFree).timers = s.timers := rfl
@[simp] theorem State.nextFree_closing : (s.nextFree).closing = s.closing := rfl
@[simp] theorem State.nextFree_agenda : (s.nextFree).agenda = s.agenda := rfl
@[simp] theorem State.nextFree_ev : (s.nextFree).ev = s.ev := rfl

/-! ### `State.notify` -/

@[simp] theorem State.notify_mem (n : Notice) : (s.notify n).mem = s.mem := rfl
@[simp] theorem State.notify_poison (n : Notice) : (s.notify n).poison = s.poison := rfl
@[simp] theorem State.notify_badCheck (n : Notice) : (s.notify n).badCheck = s.badCheck := rfl
@[simp] theorem State.notify_walkCache (n : Notice) : (s.notify n).walkCache = s.walkCache := rfl
@[simp] theorem State.notify_cores (n : Notice) : (s.notify n).cores = s.cores := rfl
@[simp] theorem State.notify_hearths (n : Notice) : (s.notify n).hearths = s.hearths := rfl
@[simp] theorem State.notify_launches (n : Notice) : (s.notify n).launches = s.launches := rfl
@[simp] theorem State.notify_backlog (n : Notice) : (s.notify n).backlog = s.backlog := rfl
@[simp] theorem State.notify_lastId (n : Notice) : (s.notify n).lastId = s.lastId := rfl
@[simp] theorem State.notify_accepted (n : Notice) : (s.notify n).accepted = s.accepted := rfl
@[simp] theorem State.notify_cur (n : Notice) : (s.notify n).cur = s.cur := rfl
@[simp] theorem State.notify_cycle (n : Notice) : (s.notify n).cycle = s.cycle := rfl
@[simp] theorem State.notify_ptp17 (n : Notice) : (s.notify n).ptp17 = s.ptp17 := rfl
@[simp] theorem State.notify_holdover (n : Notice) : (s.notify n).holdover = s.holdover := rfl
@[simp] theorem State.notify_slew (n : Notice) : (s.notify n).slew = s.slew := rfl
@[simp] theorem State.notify_slewCycles (n : Notice) : (s.notify n).slewCycles = s.slewCycles := rfl
@[simp] theorem State.notify_hyp (n : Notice) : (s.notify n).hyp = s.hyp := rfl
@[simp] theorem State.notify_versions (n : Notice) : (s.notify n).versions = s.versions := rfl
@[simp] theorem State.notify_beats (n : Notice) : (s.notify n).beats = s.beats := rfl
@[simp] theorem State.notify_transits (n : Notice) : (s.notify n).transits = s.transits := rfl
@[simp] theorem State.notify_remotes (n : Notice) : (s.notify n).remotes = s.remotes := rfl
@[simp] theorem State.notify_nextId (n : Notice) : (s.notify n).nextId = s.nextId := rfl
@[simp] theorem State.notify_homes (n : Notice) : (s.notify n).homes = s.homes := rfl
@[simp] theorem State.notify_bridge (n : Notice) : (s.notify n).bridge = s.bridge := rfl
@[simp] theorem State.notify_hostReqs (n : Notice) : (s.notify n).hostReqs = s.hostReqs := rfl
@[simp] theorem State.notify_hostFolds (n : Notice) : (s.notify n).hostFolds = s.hostFolds := rfl
@[simp] theorem State.notify_hostWrites (n : Notice) : (s.notify n).hostWrites = s.hostWrites := rfl
@[simp] theorem State.notify_queueBase (n : Notice) : (s.notify n).queueBase = s.queueBase := rfl
@[simp] theorem State.notify_asidBase (n : Notice) : (s.notify n).asidBase = s.asidBase := rfl
@[simp] theorem State.notify_queues (n : Notice) : (s.notify n).queues = s.queues := rfl
@[simp] theorem State.notify_restarting (n : Notice) : (s.notify n).restarting = s.restarting := rfl
@[simp] theorem State.notify_restartBy (n : Notice) : (s.notify n).restartBy = s.restartBy := rfl
@[simp] theorem State.notify_streams (n : Notice) : (s.notify n).streams = s.streams := rfl
@[simp] theorem State.notify_linked (n : Notice) : (s.notify n).linked = s.linked := rfl
@[simp] theorem State.notify_receivers (n : Notice) : (s.notify n).receivers = s.receivers := rfl
@[simp] theorem State.notify_retrainAt (n : Notice) : (s.notify n).retrainAt = s.retrainAt := rfl
@[simp] theorem State.notify_baseTx (n : Notice) : (s.notify n).baseTx = s.baseTx := rfl
@[simp] theorem State.notify_endingLeases (n : Notice) : (s.notify n).endingLeases = s.endingLeases := rfl
@[simp] theorem State.notify_failedTx (n : Notice) : (s.notify n).failedTx = s.failedTx := rfl
@[simp] theorem State.notify_spares (n : Notice) : (s.notify n).spares = s.spares := rfl
@[simp] theorem State.notify_warmAt (n : Notice) : (s.notify n).warmAt = s.warmAt := rfl
@[simp] theorem State.notify_transactions (n : Notice) : (s.notify n).transactions = s.transactions := rfl
@[simp] theorem State.notify_tokens (n : Notice) : (s.notify n).tokens = s.tokens := rfl
@[simp] theorem State.notify_freeTokens (n : Notice) : (s.notify n).freeTokens = s.freeTokens := rfl
@[simp] theorem State.notify_halved (n : Notice) : (s.notify n).halved = s.halved := rfl
@[simp] theorem State.notify_heatParked (n : Notice) : (s.notify n).heatParked = s.heatParked := rfl
@[simp] theorem State.notify_powerParked (n : Notice) : (s.notify n).powerParked = s.powerParked := rfl
@[simp] theorem State.notify_selfRefresh (n : Notice) : (s.notify n).selfRefresh = s.selfRefresh := rfl
@[simp] theorem State.notify_hbmAccess (n : Notice) : (s.notify n).hbmAccess = s.hbmAccess := rfl
@[simp] theorem State.notify_hbmWake (n : Notice) : (s.notify n).hbmWake = s.hbmWake := rfl
@[simp] theorem State.notify_dieWake (n : Notice) : (s.notify n).dieWake = s.dieWake := rfl
@[simp] theorem State.notify_hbmCorrections (n : Notice) : (s.notify n).hbmCorrections = s.hbmCorrections := rfl
@[simp] theorem State.notify_sparedRows (n : Notice) : (s.notify n).sparedRows = s.sparedRows := rfl
@[simp] theorem State.notify_sparedChannels (n : Notice) : (s.notify n).sparedChannels = s.sparedChannels := rfl
@[simp] theorem State.notify_failedLanes (n : Notice) : (s.notify n).failedLanes = s.failedLanes := rfl
@[simp] theorem State.notify_tolerance (n : Notice) : (s.notify n).tolerance = s.tolerance := rfl
@[simp] theorem State.notify_portUp (n : Notice) : (s.notify n).portUp = s.portUp := rfl
@[simp] theorem State.notify_ras (n : Notice) : (s.notify n).ras = s.ras := rfl
@[simp] theorem State.notify_rasSeq (n : Notice) : (s.notify n).rasSeq = s.rasSeq := rfl
@[simp] theorem State.notify_boot (n : Notice) : (s.notify n).boot = s.boot := rfl
@[simp] theorem State.notify_nv (n : Notice) : (s.notify n).nv = s.nv := rfl
@[simp] theorem State.notify_cfg (n : Notice) : (s.notify n).cfg = s.cfg := rfl
@[simp] theorem State.notify_recovery (n : Notice) : (s.notify n).recovery = s.recovery := rfl
@[simp] theorem State.notify_responses (n : Notice) : (s.notify n).responses = s.responses := rfl
@[simp] theorem State.notify_usedSpares (n : Notice) : (s.notify n).usedSpares = s.usedSpares := rfl
@[simp] theorem State.notify_firmwareSites (n : Notice) : (s.notify n).firmwareSites = s.firmwareSites := rfl
@[simp] theorem State.notify_retiring (n : Notice) : (s.notify n).retiring = s.retiring := rfl
@[simp] theorem State.notify_scrubs (n : Notice) : (s.notify n).scrubs = s.scrubs := rfl
@[simp] theorem State.notify_scrubAt (n : Notice) : (s.notify n).scrubAt = s.scrubAt := rfl
@[simp] theorem State.notify_turns (n : Notice) : (s.notify n).turns = s.turns := rfl
@[simp] theorem State.notify_timers (n : Notice) : (s.notify n).timers = s.timers := rfl
@[simp] theorem State.notify_closing (n : Notice) : (s.notify n).closing = s.closing := rfl
@[simp] theorem State.notify_agenda (n : Notice) : (s.notify n).agenda = s.agenda := rfl
@[simp] theorem State.notify_ev (n : Notice) : (s.notify n).ev = s.ev := rfl
@[simp] theorem State.notify_freeCtr (n : Notice) : (s.notify n).freeCtr = s.freeCtr := rfl

/-! ### `State.modLaunch` -/

@[simp] theorem State.modLaunch_mem (l : Nat) (f : Launch → Launch) : (s.modLaunch l f).mem = s.mem := by
  unfold State.modLaunch; split <;> rfl
@[simp] theorem State.modLaunch_poison (l : Nat) (f : Launch → Launch) : (s.modLaunch l f).poison = s.poison := by
  unfold State.modLaunch; split <;> rfl
@[simp] theorem State.modLaunch_badCheck (l : Nat) (f : Launch → Launch) : (s.modLaunch l f).badCheck = s.badCheck := by
  unfold State.modLaunch; split <;> rfl
@[simp] theorem State.modLaunch_walkCache (l : Nat) (f : Launch → Launch) : (s.modLaunch l f).walkCache = s.walkCache := by
  unfold State.modLaunch; split <;> rfl
@[simp] theorem State.modLaunch_cores (l : Nat) (f : Launch → Launch) : (s.modLaunch l f).cores = s.cores := by
  unfold State.modLaunch; split <;> rfl
@[simp] theorem State.modLaunch_hearths (l : Nat) (f : Launch → Launch) : (s.modLaunch l f).hearths = s.hearths := by
  unfold State.modLaunch; split <;> rfl
@[simp] theorem State.modLaunch_backlog (l : Nat) (f : Launch → Launch) : (s.modLaunch l f).backlog = s.backlog := by
  unfold State.modLaunch; split <;> rfl
@[simp] theorem State.modLaunch_lastId (l : Nat) (f : Launch → Launch) : (s.modLaunch l f).lastId = s.lastId := by
  unfold State.modLaunch; split <;> rfl
@[simp] theorem State.modLaunch_accepted (l : Nat) (f : Launch → Launch) : (s.modLaunch l f).accepted = s.accepted := by
  unfold State.modLaunch; split <;> rfl
@[simp] theorem State.modLaunch_cur (l : Nat) (f : Launch → Launch) : (s.modLaunch l f).cur = s.cur := by
  unfold State.modLaunch; split <;> rfl
@[simp] theorem State.modLaunch_cycle (l : Nat) (f : Launch → Launch) : (s.modLaunch l f).cycle = s.cycle := by
  unfold State.modLaunch; split <;> rfl
@[simp] theorem State.modLaunch_ptp17 (l : Nat) (f : Launch → Launch) : (s.modLaunch l f).ptp17 = s.ptp17 := by
  unfold State.modLaunch; split <;> rfl
@[simp] theorem State.modLaunch_holdover (l : Nat) (f : Launch → Launch) : (s.modLaunch l f).holdover = s.holdover := by
  unfold State.modLaunch; split <;> rfl
@[simp] theorem State.modLaunch_slew (l : Nat) (f : Launch → Launch) : (s.modLaunch l f).slew = s.slew := by
  unfold State.modLaunch; split <;> rfl
@[simp] theorem State.modLaunch_slewCycles (l : Nat) (f : Launch → Launch) : (s.modLaunch l f).slewCycles = s.slewCycles := by
  unfold State.modLaunch; split <;> rfl
@[simp] theorem State.modLaunch_hyp (l : Nat) (f : Launch → Launch) : (s.modLaunch l f).hyp = s.hyp := by
  unfold State.modLaunch; split <;> rfl
@[simp] theorem State.modLaunch_versions (l : Nat) (f : Launch → Launch) : (s.modLaunch l f).versions = s.versions := by
  unfold State.modLaunch; split <;> rfl
@[simp] theorem State.modLaunch_beats (l : Nat) (f : Launch → Launch) : (s.modLaunch l f).beats = s.beats := by
  unfold State.modLaunch; split <;> rfl
@[simp] theorem State.modLaunch_transits (l : Nat) (f : Launch → Launch) : (s.modLaunch l f).transits = s.transits := by
  unfold State.modLaunch; split <;> rfl
@[simp] theorem State.modLaunch_remotes (l : Nat) (f : Launch → Launch) : (s.modLaunch l f).remotes = s.remotes := by
  unfold State.modLaunch; split <;> rfl
@[simp] theorem State.modLaunch_nextId (l : Nat) (f : Launch → Launch) : (s.modLaunch l f).nextId = s.nextId := by
  unfold State.modLaunch; split <;> rfl
@[simp] theorem State.modLaunch_homes (l : Nat) (f : Launch → Launch) : (s.modLaunch l f).homes = s.homes := by
  unfold State.modLaunch; split <;> rfl
@[simp] theorem State.modLaunch_bridge (l : Nat) (f : Launch → Launch) : (s.modLaunch l f).bridge = s.bridge := by
  unfold State.modLaunch; split <;> rfl
@[simp] theorem State.modLaunch_hostReqs (l : Nat) (f : Launch → Launch) : (s.modLaunch l f).hostReqs = s.hostReqs := by
  unfold State.modLaunch; split <;> rfl
@[simp] theorem State.modLaunch_hostFolds (l : Nat) (f : Launch → Launch) : (s.modLaunch l f).hostFolds = s.hostFolds := by
  unfold State.modLaunch; split <;> rfl
@[simp] theorem State.modLaunch_hostWrites (l : Nat) (f : Launch → Launch) : (s.modLaunch l f).hostWrites = s.hostWrites := by
  unfold State.modLaunch; split <;> rfl
@[simp] theorem State.modLaunch_queueBase (l : Nat) (f : Launch → Launch) : (s.modLaunch l f).queueBase = s.queueBase := by
  unfold State.modLaunch; split <;> rfl
@[simp] theorem State.modLaunch_asidBase (l : Nat) (f : Launch → Launch) : (s.modLaunch l f).asidBase = s.asidBase := by
  unfold State.modLaunch; split <;> rfl
@[simp] theorem State.modLaunch_queues (l : Nat) (f : Launch → Launch) : (s.modLaunch l f).queues = s.queues := by
  unfold State.modLaunch; split <;> rfl
@[simp] theorem State.modLaunch_restarting (l : Nat) (f : Launch → Launch) : (s.modLaunch l f).restarting = s.restarting := by
  unfold State.modLaunch; split <;> rfl
@[simp] theorem State.modLaunch_restartBy (l : Nat) (f : Launch → Launch) : (s.modLaunch l f).restartBy = s.restartBy := by
  unfold State.modLaunch; split <;> rfl
@[simp] theorem State.modLaunch_streams (l : Nat) (f : Launch → Launch) : (s.modLaunch l f).streams = s.streams := by
  unfold State.modLaunch; split <;> rfl
@[simp] theorem State.modLaunch_linked (l : Nat) (f : Launch → Launch) : (s.modLaunch l f).linked = s.linked := by
  unfold State.modLaunch; split <;> rfl
@[simp] theorem State.modLaunch_receivers (l : Nat) (f : Launch → Launch) : (s.modLaunch l f).receivers = s.receivers := by
  unfold State.modLaunch; split <;> rfl
@[simp] theorem State.modLaunch_retrainAt (l : Nat) (f : Launch → Launch) : (s.modLaunch l f).retrainAt = s.retrainAt := by
  unfold State.modLaunch; split <;> rfl
@[simp] theorem State.modLaunch_baseTx (l : Nat) (f : Launch → Launch) : (s.modLaunch l f).baseTx = s.baseTx := by
  unfold State.modLaunch; split <;> rfl
@[simp] theorem State.modLaunch_endingLeases (l : Nat) (f : Launch → Launch) : (s.modLaunch l f).endingLeases = s.endingLeases := by
  unfold State.modLaunch; split <;> rfl
@[simp] theorem State.modLaunch_failedTx (l : Nat) (f : Launch → Launch) : (s.modLaunch l f).failedTx = s.failedTx := by
  unfold State.modLaunch; split <;> rfl
@[simp] theorem State.modLaunch_spares (l : Nat) (f : Launch → Launch) : (s.modLaunch l f).spares = s.spares := by
  unfold State.modLaunch; split <;> rfl
@[simp] theorem State.modLaunch_warmAt (l : Nat) (f : Launch → Launch) : (s.modLaunch l f).warmAt = s.warmAt := by
  unfold State.modLaunch; split <;> rfl
@[simp] theorem State.modLaunch_transactions (l : Nat) (f : Launch → Launch) : (s.modLaunch l f).transactions = s.transactions := by
  unfold State.modLaunch; split <;> rfl
@[simp] theorem State.modLaunch_tokens (l : Nat) (f : Launch → Launch) : (s.modLaunch l f).tokens = s.tokens := by
  unfold State.modLaunch; split <;> rfl
@[simp] theorem State.modLaunch_freeTokens (l : Nat) (f : Launch → Launch) : (s.modLaunch l f).freeTokens = s.freeTokens := by
  unfold State.modLaunch; split <;> rfl
@[simp] theorem State.modLaunch_halved (l : Nat) (f : Launch → Launch) : (s.modLaunch l f).halved = s.halved := by
  unfold State.modLaunch; split <;> rfl
@[simp] theorem State.modLaunch_heatParked (l : Nat) (f : Launch → Launch) : (s.modLaunch l f).heatParked = s.heatParked := by
  unfold State.modLaunch; split <;> rfl
@[simp] theorem State.modLaunch_powerParked (l : Nat) (f : Launch → Launch) : (s.modLaunch l f).powerParked = s.powerParked := by
  unfold State.modLaunch; split <;> rfl
@[simp] theorem State.modLaunch_selfRefresh (l : Nat) (f : Launch → Launch) : (s.modLaunch l f).selfRefresh = s.selfRefresh := by
  unfold State.modLaunch; split <;> rfl
@[simp] theorem State.modLaunch_hbmAccess (l : Nat) (f : Launch → Launch) : (s.modLaunch l f).hbmAccess = s.hbmAccess := by
  unfold State.modLaunch; split <;> rfl
@[simp] theorem State.modLaunch_hbmWake (l : Nat) (f : Launch → Launch) : (s.modLaunch l f).hbmWake = s.hbmWake := by
  unfold State.modLaunch; split <;> rfl
@[simp] theorem State.modLaunch_dieWake (l : Nat) (f : Launch → Launch) : (s.modLaunch l f).dieWake = s.dieWake := by
  unfold State.modLaunch; split <;> rfl
@[simp] theorem State.modLaunch_hbmCorrections (l : Nat) (f : Launch → Launch) : (s.modLaunch l f).hbmCorrections = s.hbmCorrections := by
  unfold State.modLaunch; split <;> rfl
@[simp] theorem State.modLaunch_sparedRows (l : Nat) (f : Launch → Launch) : (s.modLaunch l f).sparedRows = s.sparedRows := by
  unfold State.modLaunch; split <;> rfl
@[simp] theorem State.modLaunch_sparedChannels (l : Nat) (f : Launch → Launch) : (s.modLaunch l f).sparedChannels = s.sparedChannels := by
  unfold State.modLaunch; split <;> rfl
@[simp] theorem State.modLaunch_failedLanes (l : Nat) (f : Launch → Launch) : (s.modLaunch l f).failedLanes = s.failedLanes := by
  unfold State.modLaunch; split <;> rfl
@[simp] theorem State.modLaunch_tolerance (l : Nat) (f : Launch → Launch) : (s.modLaunch l f).tolerance = s.tolerance := by
  unfold State.modLaunch; split <;> rfl
@[simp] theorem State.modLaunch_portUp (l : Nat) (f : Launch → Launch) : (s.modLaunch l f).portUp = s.portUp := by
  unfold State.modLaunch; split <;> rfl
@[simp] theorem State.modLaunch_ras (l : Nat) (f : Launch → Launch) : (s.modLaunch l f).ras = s.ras := by
  unfold State.modLaunch; split <;> rfl
@[simp] theorem State.modLaunch_rasSeq (l : Nat) (f : Launch → Launch) : (s.modLaunch l f).rasSeq = s.rasSeq := by
  unfold State.modLaunch; split <;> rfl
@[simp] theorem State.modLaunch_boot (l : Nat) (f : Launch → Launch) : (s.modLaunch l f).boot = s.boot := by
  unfold State.modLaunch; split <;> rfl
@[simp] theorem State.modLaunch_nv (l : Nat) (f : Launch → Launch) : (s.modLaunch l f).nv = s.nv := by
  unfold State.modLaunch; split <;> rfl
@[simp] theorem State.modLaunch_cfg (l : Nat) (f : Launch → Launch) : (s.modLaunch l f).cfg = s.cfg := by
  unfold State.modLaunch; split <;> rfl
@[simp] theorem State.modLaunch_recovery (l : Nat) (f : Launch → Launch) : (s.modLaunch l f).recovery = s.recovery := by
  unfold State.modLaunch; split <;> rfl
@[simp] theorem State.modLaunch_responses (l : Nat) (f : Launch → Launch) : (s.modLaunch l f).responses = s.responses := by
  unfold State.modLaunch; split <;> rfl
@[simp] theorem State.modLaunch_notices (l : Nat) (f : Launch → Launch) : (s.modLaunch l f).notices = s.notices := by
  unfold State.modLaunch; split <;> rfl
@[simp] theorem State.modLaunch_usedSpares (l : Nat) (f : Launch → Launch) : (s.modLaunch l f).usedSpares = s.usedSpares := by
  unfold State.modLaunch; split <;> rfl
@[simp] theorem State.modLaunch_firmwareSites (l : Nat) (f : Launch → Launch) : (s.modLaunch l f).firmwareSites = s.firmwareSites := by
  unfold State.modLaunch; split <;> rfl
@[simp] theorem State.modLaunch_retiring (l : Nat) (f : Launch → Launch) : (s.modLaunch l f).retiring = s.retiring := by
  unfold State.modLaunch; split <;> rfl
@[simp] theorem State.modLaunch_scrubs (l : Nat) (f : Launch → Launch) : (s.modLaunch l f).scrubs = s.scrubs := by
  unfold State.modLaunch; split <;> rfl
@[simp] theorem State.modLaunch_scrubAt (l : Nat) (f : Launch → Launch) : (s.modLaunch l f).scrubAt = s.scrubAt := by
  unfold State.modLaunch; split <;> rfl
@[simp] theorem State.modLaunch_turns (l : Nat) (f : Launch → Launch) : (s.modLaunch l f).turns = s.turns := by
  unfold State.modLaunch; split <;> rfl
@[simp] theorem State.modLaunch_timers (l : Nat) (f : Launch → Launch) : (s.modLaunch l f).timers = s.timers := by
  unfold State.modLaunch; split <;> rfl
@[simp] theorem State.modLaunch_closing (l : Nat) (f : Launch → Launch) : (s.modLaunch l f).closing = s.closing := by
  unfold State.modLaunch; split <;> rfl
@[simp] theorem State.modLaunch_agenda (l : Nat) (f : Launch → Launch) : (s.modLaunch l f).agenda = s.agenda := by
  unfold State.modLaunch; split <;> rfl
@[simp] theorem State.modLaunch_ev (l : Nat) (f : Launch → Launch) : (s.modLaunch l f).ev = s.ev := by
  unfold State.modLaunch; split <;> rfl
@[simp] theorem State.modLaunch_freeCtr (l : Nat) (f : Launch → Launch) : (s.modLaunch l f).freeCtr = s.freeCtr := by
  unfold State.modLaunch; split <;> rfl

/-! ### What is read back -/

@[simp] theorem State.core_setCore (c : Nat) (k : Core) : (s.setCore c k).core c = k := by simp [State.core, State.setCore]

theorem State.core_setCore_ne {c d : Nat} (k : Core) (h : d ≠ c) : (s.setCore c k).core d = s.core d := by
  simp [State.core, State.setCore, tget_tset_ne _ _ h]

@[simp] theorem State.core_modCore (c : Nat) (f : Core → Core) : (s.modCore c f).core c = f (s.core c) := by
  simp [State.modCore]

theorem State.core_modCore_ne {c d : Nat} (f : Core → Core) (h : d ≠ c) : (s.modCore c f).core d = s.core d :=
  s.core_setCore_ne _ h

@[simp] theorem Core.slot_setSlot (k : Core) (t : Nat) (x : Slot) : (k.setSlot t x).slot t = x := by
  simp [Core.slot, Core.setSlot]

theorem Core.slot_setSlot_ne (k : Core) {t u : Nat} (x : Slot) (h : u ≠ t) : (k.setSlot t x).slot u = k.slot u := by
  simp [Core.slot, Core.setSlot, tget_tset_ne _ _ h]

@[simp] theorem Core.setSlot_setSlot (k : Core) (t : Nat) (x y : Slot) : (k.setSlot t x).setSlot t y = k.setSlot t y := by
  simp [Core.setSlot]

@[simp] theorem State.setCore_setCore (c : Nat) (k k' : Core) : (s.setCore c k).setCore c k' = s.setCore c k' := by
  simp [State.setCore]

@[simp] theorem State.slotAt_setSlotAt (c t : Nat) (x : Slot) : (s.setSlotAt c t x).slotAt c t = x := by
  simp [State.slotAt, State.setSlotAt]

theorem State.slotAt_setSlotAt_ne {c t c' t' : Nat} (x : Slot) (h : c' ≠ c ∨ t' ≠ t) :
    (s.setSlotAt c t x).slotAt c' t' = s.slotAt c' t' := by
  by_cases hc : c' = c
  · subst hc
    simp only [State.slotAt, State.setSlotAt, State.core_setCore]
    exact Core.slot_setSlot_ne _ _ (h.resolve_left (fun k => k rfl))
  · simp [State.slotAt, State.setSlotAt, State.core_setCore_ne _ _ hc]

@[simp] theorem State.setSlotAt_setSlotAt (c t : Nat) (x y : Slot) :
    (s.setSlotAt c t x).setSlotAt c t y = s.setSlotAt c t y := by simp [State.setSlotAt]

@[simp] theorem State.slotAt_modSlotAt (c t : Nat) (f : Slot → Slot) :
    (s.modSlotAt c t f).slotAt c t = f (s.slotAt c t) := by simp [State.modSlotAt]

@[simp] theorem State.slot_setSlot (x : Slot) : (s.setSlot x).slot = x := by
  simp [State.slot, State.setSlot]

@[simp] theorem State.slot_modSlot (f : Slot → Slot) : (s.modSlot f).slot = f s.slot := by simp [State.modSlot]

@[simp] theorem State.setSlot_setSlot (x y : Slot) : (s.setSlot x).setSlot y = s.setSlot y := by simp [State.setSlot]

theorem State.modSlot_eq (f : Slot → Slot) : s.modSlot f = s.setSlot (f s.slot) := rfl

theorem State.setSlot_eq (x : Slot) : s.setSlot x = s.setSlotAt s.cur.1 s.cur.2 x := rfl

theorem State.slot_eq : s.slot = s.slotAt s.cur.1 s.cur.2 := rfl

@[simp] theorem State.myCore_setSlot (x : Slot) : (s.setSlot x).myCore = s.myCore.setSlot s.cur.2 x := by
  simp [State.myCore, State.setSlot, State.setSlotAt]

@[simp] theorem State.myCore_modMyCore (f : Core → Core) : (s.modMyCore f).myCore = f s.myCore := by
  simp [State.myCore, State.modMyCore]

@[simp] theorem State.hearth_modHearth (h : Nat) (f : Hearth → Hearth) : (s.modHearth h f).hearth h = f (s.hearth h) := by
  simp only [State.hearth, State.modHearth, tget_tset, Option.getD_some]

theorem State.hearth_modHearth_ne {h i : Nat} (f : Hearth → Hearth) (n : i ≠ h) :
    (s.modHearth h f).hearth i = s.hearth i := by
  simp only [State.hearth, State.modHearth, tget_tset_ne _ _ n]

theorem State.launch?_modLaunch (l : Nat) (f : Launch → Launch) : (s.modLaunch l f).launch? l = (s.launch? l).map f := by
  unfold State.modLaunch
  split <;> rename_i h
  · simp only [State.launch?, tget_tset] at h ⊢; simp [h]
  · simp [h]

theorem State.launch?_modLaunch_ne {l m : Nat} (f : Launch → Launch) (h : m ≠ l) :
    (s.modLaunch l f).launch? m = s.launch? m := by
  unfold State.modLaunch
  split
  · simp [State.launch?, tget_tset_ne _ _ h]
  · rfl

end Sys2Proof.Machine
end

