-- ==== Sys2Proof/Laws/Operands.lean ====
section
/-! SUPPORT. What the operand protocol and the finish of an instruction come to, once for every instruction. -/

namespace Sys2Proof.Machine

theorem Slot.reads_srcs (sl : Slot) (xs : List SrcM) : (sl.reads xs).1.map Prod.fst = xs := by
  induction xs generalizing sl with
  | nil => rfl
  | cons x r ih => simp [Slot.reads, ih]

/-- A source that shows a value raises no trap and waits for nothing. -/
theorem groupThree_val (x : SrcM) (v : Word) : groupThree (x, .val v) = none := rfl

/-- Every peek of a list whose peeks are values is a value. -/
theorem peeks_are_values {ps : List (SrcM × Peek)} {vs : List Word} (h : ps.map Prod.snd = vs.map Peek.val)
    {p : SrcM × Peek} (hp : p ∈ ps) : ∃ v, p.2 = .val v := by
  have : p.2 ∈ vs.map Peek.val := h ▸ List.mem_map_of_mem hp
  obtain ⟨v, -, hv⟩ := List.mem_map.mp this
  exact ⟨v, hv.symm⟩

theorem peeks_words {ps : List (SrcM × Peek)} {vs : List Word} (h : ps.map Prod.snd = vs.map Peek.val) :
    ps.map (fun p => p.2.word) = vs := by
  have e : ps.map (fun p => p.2.word) = (ps.map Prod.snd).map Peek.word := by simp
  rw [e, h, List.map_map]
  exact List.map_id _

/-- The operands pass every group of R210 and the instruction goes on with their values. -/
theorem withOps_gives {s : State} {d : Dst} {xs : List SrcM} {vs : List Word} (h : operandsGive s d xs vs = true)
    (k : List Word → State → Effect) : withOps s d xs k = k vs (consumed s xs) := by
  simp only [operandsGive, Bool.and_eq_true, beq_iff_eq, List.all_eq_true, Option.isNone_iff_eq_none] at h
  obtain ⟨⟨⟨hv, hx⟩, hd⟩, hr⟩ := h
  have val := fun {p} hp => peeks_are_values hv (p := p) hp
  have hf : ∀ p ∈ (s.slot.reads xs).1, p.1 ∈ xs := fun p hp => by
    have := List.mem_map_of_mem (f := Prod.fst) hp
    rwa [Slot.reads_srcs] at this
  have g2 : groupTwo s.slot d (s.slot.reads xs).1 = none := by
    unfold groupTwo
    have a : (s.slot.reads xs).1.find? (·.2 == .unbound) = none := by
      simp only [List.find?_eq_none]
      intro p hp; obtain ⟨v, e⟩ := val hp; simp [e]
    have b : (s.slot.reads xs).1.findSome? (fun p => srcGap s.slot p.1) = none := by
      simp only [List.findSome?_eq_none_iff]
      exact fun p hp => hx _ (hf p hp)
    rw [a, b, hd]
  have g3 : (s.slot.reads xs).1.findSome? groupThree = none := by
    simp only [List.findSome?_eq_none_iff]
    rintro ⟨x, p⟩ hp; obtain ⟨v, e⟩ := val hp
    simp only at e; subst e; rfl
  have g4 : groupFour s s.slot d (s.slot.reads xs).1 = none := by
    unfold groupFour
    have a : (s.slot.reads xs).1.any (·.2 == .overrun) = false := by
      simp only [List.any_eq_false]
      intro p hp; obtain ⟨v, e⟩ := val hp; simp [e]
    have b : ∀ f : SrcM × Peek → Option (Src × Word), (∀ x v, f (x, .val v) = none) →
        (s.slot.reads xs).1.findSome? f = none := by
      intro f hn
      simp only [List.findSome?_eq_none_iff]
      rintro ⟨x, p⟩ hp; obtain ⟨v, e⟩ := val hp
      simp only at e; subst e; exact hn x v
    rw [a, b _ fun _ _ => rfl]
    by_cases h7 : d = .s7
    · subst h7; simpa using hr
    · simp [h7]
  simp only [withOps, g2, g3, g4, peeks_words hv]
  rfl

theorem ops0_gives {s : State} {d : Dst} (h : operandsGive s d [] [] = true) (k : State → Effect) :
    ops0 s d k = k (consumed s []) := withOps_gives h _

theorem ops1_gives {s : State} {d : Dst} {a : SrcM} {x : Word} (h : operandsGive s d [a] [x] = true)
    (k : Word → State → Effect) : ops1 s d a k = k x (consumed s [a]) := withOps_gives h _

theorem ops2_gives {s : State} {d : Dst} {a b : SrcM} {x y : Word} (h : operandsGive s d [a, b] [x, y] = true)
    (k : Word → Word → State → Effect) : ops2 s d a b k = k x y (consumed s [a, b]) := withOps_gives h _

/-- As many values as sources. -/
theorem operandsGive_length {s : State} {d : Dst} {xs : List SrcM} {vs : List Word}
    (h : operandsGive s d xs vs = true) : vs.length = xs.length := by
  simp only [operandsGive, Bool.and_eq_true, beq_iff_eq] at h
  have := congrArg List.length h.1.1.1
  have r := congrArg List.length (Slot.reads_srcs s.slot xs)
  simp at this r
  omega

/-! ### The finish of an instruction -/

theorem finish_done (s t : State) (len : Nat) : finish s len (.done t) = .next (advance t len) := rfl

theorem finish_jump (s t : State) (len : Nat) (pc : Word) : finish s len (.jump t pc) = .next (jumpTo t pc) := rfl

theorem finish_stay (s t : State) (len : Nat) : finish s len (.stay t) = .next t := rfl

/-- A trap in a state of its own is taken there, unless it must wait for a spill. -/
theorem finish_trapIn (s t : State) (len : Nat) (tr : Trap) (h : trapWaits t s.cur.1 s.cur.2 = false) :
    finish s len (.trapIn t tr) = .next (takeTrap t tr) := by simp [finish, h]

/-- A trap that is not POSTED takes nothing that is pending. -/
theorem finish_trap (s : State) (len : Nat) (tr : Trap) (h : tr.cause ≠ .posted) :
    finish s len (.trap tr) = .next (takeTrap s tr) := by
  have : (tr.cause == Cause.posted) = false := by simpa using h
  simp [finish, State.takePosted, this]

/-- Every instruction that finishes has a next state: none stops the machine. -/
theorem finish_next (s : State) (len : Nat) (e : Effect) : ∃ t, finish s len e = .next t := by
  cases e <;> first | exact ⟨_, rfl⟩ | (simp only [finish]; split <;> exact ⟨_, rfl⟩)

/-! ### The slot after an instruction -/

@[simp] theorem slot_consumed (s : State) (xs : List SrcM) : (consumed s xs).slot = (s.slot.reads xs).2 := by
  simp [consumed]

@[simp] theorem slot_advance (s : State) (len : Nat) :
    (advance s len).slot = { s.slot with pc := s.slot.pc + word len, entry := false, stall := .none } := by
  simp [advance]

@[simp] theorem slot_jumpTo (s : State) (pc : Word) :
    (jumpTo s pc).slot = { s.slot with pc := pc, entry := false, stall := .none } := by simp [jumpTo]

@[simp] theorem slot_pushTo (s : State) (d : Dst) (v : Word) : (pushTo s d v).slot = s.slot.write d (Reg.of v) := by
  simp [pushTo]

@[simp] theorem consumed_mem (s : State) (xs : List SrcM) : (consumed s xs).mem = s.mem := rfl
@[simp] theorem consumed_cur (s : State) (xs : List SrcM) : (consumed s xs).cur = s.cur := rfl
@[simp] theorem advance_mem (s : State) (len : Nat) : (advance s len).mem = s.mem := rfl
@[simp] theorem advance_cur (s : State) (len : Nat) : (advance s len).cur = s.cur := rfl
@[simp] theorem jumpTo_mem (s : State) (pc : Word) : (jumpTo s pc).mem = s.mem := rfl
@[simp] theorem pushTo_mem (s : State) (d : Dst) (v : Word) : (pushTo s d v).mem = s.mem := rfl
@[simp] theorem pushTo_cur (s : State) (d : Dst) (v : Word) : (pushTo s d v).cur = s.cur := rfl

/-- Reading a source changes nothing but the streams. -/
theorem Slot.read_eq (sl : Slot) (x : Src) :
    ∃ p b, (sl.read x).2 = { sl with payload := p, binds := b } := by
  cases x with
  | q i => exact ⟨sl.payload, sl.binds, rfl⟩
  | n i => exact ⟨sl.payload, sl.binds, rfl⟩
  | z => exact ⟨sl.payload, sl.binds, rfl⟩
  | s i =>
    by_cases h : i.val = 0
    · simp only [Slot.read, h, if_true]
      split
      · exact ⟨sl.payload, sl.binds, rfl⟩
      · exact ⟨_, sl.binds, rfl⟩
    · exact ⟨sl.payload, _, by simp [Slot.read, h]; rfl⟩

theorem Slot.reads_eq (sl : Slot) (xs : List SrcM) :
    ∃ p b, (sl.reads xs).2 = { sl with payload := p, binds := b } := by
  induction xs generalizing sl with
  | nil => exact ⟨sl.payload, sl.binds, rfl⟩
  | cons x r ih =>
    obtain ⟨p, b, e⟩ := sl.read_eq x.src
    obtain ⟨p', b', e'⟩ := ih (sl.read x.src).2
    exact ⟨p', b', by simp only [Slot.reads, e']; rw [e]⟩

end Sys2Proof.Machine
end

