-- ==== Sys2Proof/Laws/Ops.lean ====
section
/-! SUPPORT. What the shared operations can do, once each: writes and atomics on memory, the end of a task, room for a
frame, and the entry to a trap and the return from it. -/

namespace Sys2Proof.Machine

/-! ### Writes and atomics -/

theorem writeMem_mem (s : State) (key n v : Nat) : (writeMem s key n v).mem = memPutNat s.mem key v n := rfl

/-- A write changes memory, its poison and its checks, and nothing else. -/
theorem writeMem_frame (s : State) (key n v : Nat) :
    writeMem s key n v = { s with mem := (writeMem s key n v).mem, poison := (writeMem s key n v).poison
                                  badCheck := (writeMem s key n v).badCheck } := rfl

theorem writeMem_wf {s : State} (key n v : Nat) (h : Memory.wf s.mem = true) : Memory.wf (writeMem s key n v).mem = true :=
  memPutNat_wf key v n h

/-- The bytes outside the ones written read as before. -/
theorem writeMem_out {s : State} {key n a : Nat} (v : Nat) (h : Memory.wf s.mem = true) (ha : a < key ∨ key + n ≤ a) :
    memGet (writeMem s key n v).mem a = memGet s.mem a := memGet_memPutNat_out v n h ha

/-- The bytes written read back as the value. -/
theorem writeMem_back {s : State} (key n v : Nat) (h : Memory.wf s.mem = true) :
    memNat (writeMem s key n v).mem key n = v % 2 ^ (8 * n) := memNat_memPutNat key v n h

/-- An atomic answers the value before it, and either leaves the state as it was, where a comparison fails, or writes
the result. -/
theorem performAtomic_cases (s : State) (op : Nat) (cas : Bool) (key n b cmp : Nat) :
    (performAtomic s op cas key n b cmp).1 = memNat s.mem key n ∧
      ((cas = true ∧ memNat s.mem key n ≠ cmp ∧ (performAtomic s op cas key n b cmp).2 = s) ∨
        (performAtomic s op cas key n b cmp).2 =
          writeMem s key n (if cas then b else atomValue op n (memNat s.mem key n) b)) := by
  unfold performAtomic atomResult
  cases cas with
  | false => simp
  | true => by_cases h : memNat s.mem key n = cmp <;> simp [h]

theorem performAtomic_wf {s : State} (op : Nat) (cas : Bool) (key n b cmp : Nat) (h : Memory.wf s.mem = true) :
    Memory.wf (performAtomic s op cas key n b cmp).2.mem = true := by
  obtain ⟨-, ⟨-, -, e⟩ | e⟩ := performAtomic_cases s op cas key n b cmp
  · rwa [e]
  · rw [e]; exact writeMem_wf _ _ _ h

/-! ### Notes and announcements -/

@[simp] theorem State.logRas_mem (s : State) (r : Ras) : (s.logRas r).mem = s.mem := rfl

@[simp] theorem State.announce_mem (s : State) (c t l : Nat) (k : BeatKind) : (s.announce c t l k).mem = s.mem := rfl

@[simp] theorem State.announceFw_mem (s : State) (l : Nat) (k : BeatKind) : (s.announceFw l k).mem = s.mem := rfl

@[simp] theorem State.pokeLaunch_mem (s : State) (l : Nat) : (s.pokeLaunch l).mem = s.mem := rfl

/-- A fold that keeps memory at every element keeps it. -/
theorem foldl_mem {α : Type} (f : State → α → State) (h : ∀ s a, (f s a).mem = s.mem) (l : List α) (s : State) :
    (l.foldl f s).mem = s.mem := by
  induction l generalizing s with
  | nil => rfl
  | cons a r ih => simp only [List.foldl_cons, ih, h]

/-- A fold that keeps the canonical form at every element keeps it. -/
theorem foldl_wf {α : Type} (f : State → α → State)
    (h : ∀ s a, Memory.wf s.mem = true → Memory.wf (f s a).mem = true) (l : List α) (s : State)
    (hs : Memory.wf s.mem = true) : Memory.wf (l.foldl f s).mem = true := by
  induction l generalizing s with
  | nil => exact hs
  | cons a r ih => exact ih _ (h s a hs)

@[simp] theorem State.countDiscard_mem (s : State) (l n : Nat) : (s.countDiscard l n).mem = s.mem := by
  simp [State.countDiscard]

@[simp] theorem State.inflight_mem (s : State) (l d : Nat) (n : Int) : (s.inflight l d n).mem = s.mem := by
  simp [State.inflight]

@[simp] theorem State.discardQueued_mem (s : State) (l c : Nat) : (s.discardQueued l c).mem = s.mem := by
  simp only [State.discardQueued]
  split
  · simp
  · split <;> simp

/-- A launch that fails writes nothing at once. -/
@[simp] theorem State.failLaunch_mem (s : State) (l status : Nat) : (s.failLaunch l status).mem = s.mem := by
  unfold State.failLaunch
  split
  · rfl
  · split
    · rfl
    · simp only [State.poke_mem, State.modLaunch_mem]
      exact foldl_mem _ (fun s c => State.discardQueued_mem s l c) _ _

/-! ### The end of a task -/

/-- The end of a task writes no memory (R30). -/
@[simp] theorem endTask_mem (s : State) (c t : Nat) : (endTask s c t).mem = s.mem := by
  unfold endTask
  simp only [State.pokeLaunch_mem, State.pokeAll_mem]
  split <;> simp only [State.poke_mem, State.modLaunch_mem, State.modHearth_mem, State.setCore_mem]

@[simp] theorem abortOrphan_mem (s : State) (c t : Nat) : (abortOrphan s c t).mem = s.mem := by
  simp [abortOrphan]

/-! ### Room for a frame -/

theorem spill_mem (s : State) (c t : Nat) (f : Frame) :
    (spill s c t f).mem = memPutBytes s.mem ((s.slotAt c t).recordKey c (s.slotAt c t).spillUsed) (spillRecord f) := rfl

theorem spill_wf {s : State} (c t : Nat) (f : Frame) (h : Memory.wf s.mem = true) :
    Memory.wf (spill s c t f).mem = true := memPutBytes_wf _ _ h

/-- Room is there without a spill, or there is none, or the spill waits, or the frame below is spilled. -/
theorem makeRoom_cases (s : State) (c t : Nat) :
    ((s.slotAt c t).win.below = none ∧ makeRoom s c t = .ok s) ∨
    ∃ f, (s.slotAt c t).win.below = some f ∧
      (((s.slotAt c t).spillCount ≤ (s.slotAt c t).spillUsed ∧ makeRoom s c t = .full) ∨
        ((s.slotAt c t).spillUsed < (s.slotAt c t).spillCount ∧ owedIn f.regs = true ∧ makeRoom s c t = .waits) ∨
        ((s.slotAt c t).spillUsed < (s.slotAt c t).spillCount ∧ owedIn f.regs = false ∧
          makeRoom s c t = .ok ((spill s c t f).modSlotAt c t fun sl => { sl with win := { sl.win with below := none } }))) := by
  unfold makeRoom
  cases h : (s.slotAt c t).win.below with
  | none => exact .inl ⟨rfl, by simp only [h]⟩
  | some f =>
    refine .inr ⟨f, rfl, ?_⟩
    simp only [h]
    by_cases hn : (s.slotAt c t).spillCount ≤ (s.slotAt c t).spillUsed
    · exact .inl ⟨hn, by rw [if_pos hn]⟩
    · by_cases ho : owedIn f.regs = true
      · exact .inr (.inl ⟨by omega, ho, by rw [if_neg hn, if_pos ho]⟩)
      · exact .inr (.inr ⟨by omega, by simpa using ho, by rw [if_neg hn, if_neg ho]⟩)

theorem makeRoom_wf {s u : State} {c t : Nat} (h : Memory.wf s.mem = true) (e : makeRoom s c t = .ok u) :
    Memory.wf u.mem = true := by
  obtain ⟨-, a⟩ | ⟨f, -, ⟨-, a⟩ | ⟨-, -, a⟩ | ⟨-, -, a⟩⟩ := makeRoom_cases s c t <;> rw [a] at e <;>
    first
    | cases e; done
    | (injection e with e; subst e; first | exact h | simpa using spill_wf c t f h)

/-! ### Traps -/

@[simp] theorem enterTrap_mem (s : State) (c t : Nat) (cause epc addr info : Word) :
    (enterTrap s c t cause epc addr info).mem = s.mem := by simp [enterTrap]

@[simp] theorem doubleTrap_mem (s : State) (c t : Nat) (tr : Trap) : (doubleTrap s c t tr).mem = s.mem := by
  simp [doubleTrap]

@[simp] theorem nestedTrap_mem (s : State) (c t : Nat) (tr : Trap) : (nestedTrap s c t tr).mem = s.mem := by
  simp [nestedTrap]

/-- Everything that taking a trap can do: a wrap-up task at the end of its budget ends; in a handler whose cause has been
read the trap is nested, in one whose cause has not it is a double trap; and otherwise the handler is entered once there
is room for its frame, the instruction waits for the spill, or the stack is full. -/
theorem takeTrapAt_cases (s : State) (c t : Nat) (tr : Trap) :
    ((s.slotAt c t).forcedOut = true ∧ takeTrapAt s c t tr = endTask s c t) ∨
    (s.slotAt c t).forcedOut = false ∧
      ((∃ sh, (s.slotAt c t).shadow = some sh ∧
          takeTrapAt s c t tr = if sh.causeRead then nestedTrap s c t tr else doubleTrap s c t tr) ∨
        (s.slotAt c t).shadow = none ∧
          ((∃ u, makeRoom s c t = .ok u ∧
              takeTrapAt s c t tr = enterTrap u c t (causeWord tr false false) (s.slotAt c t).pc tr.addr tr.info) ∨
            (makeRoom s c t = .waits ∧ takeTrapAt s c t tr = s.modSlotAt c t fun sl => { sl with waiting := true }) ∨
            (makeRoom s c t = .full ∧ ∃ u : State, u.mem = s.mem ∧
              takeTrapAt s c t tr = doubleTrap u c t { cause := .stackOvf, info := (s.slotAt c t).winSpill }))) := by
  unfold takeTrapAt
  by_cases hf : (s.slotAt c t).forcedOut = true
  · exact .inl ⟨hf, by simp only [hf, if_true]⟩
  · refine .inr ⟨by simpa using hf, ?_⟩
    simp only [hf]
    cases hs : (s.slotAt c t).shadow with
    | some sh => exact .inl ⟨sh, rfl, by simp only; rfl⟩
    | none =>
      refine .inr ⟨rfl, ?_⟩
      cases hm : makeRoom s c t with
      | ok u => exact .inl ⟨u, rfl, by simp only; rfl⟩
      | waits => exact .inr (.inl ⟨rfl, by simp only; rfl⟩)
      | full => exact .inr (.inr ⟨rfl, _, State.setSlotAt_mem s c t _, by simp only; rfl⟩)

/-- Taking a trap keeps memory's canonical form; it writes at most one spill record. -/
theorem takeTrapAt_wf {s : State} (c t : Nat) (tr : Trap) (h : Memory.wf s.mem = true) :
    Memory.wf (takeTrapAt s c t tr).mem = true := by
  obtain ⟨-, e⟩ | ⟨-, ⟨sh, -, e⟩ | ⟨-, ⟨u, m, e⟩ | ⟨-, e⟩ | ⟨-, u, m, e⟩⟩⟩ := takeTrapAt_cases s c t tr <;> rw [e]
  · simpa using h
  · split <;> simpa using h
  · simpa using makeRoom_wf h m
  · simpa using h
  · simpa [m] using h

theorem takeTrap_wf {s : State} (tr : Trap) (h : Memory.wf s.mem = true) : Memory.wf (takeTrap s tr).mem = true :=
  takeTrapAt_wf _ _ _ h

@[simp] theorem trapContext_mem (s : State) (c t code : Nat) (addr info : Word) (l : Nat) :
    (trapContext s c t code addr info l).mem = s.mem := by simp [trapContext]

@[simp] theorem restoreShadow_mem (s : State) (c t : Nat) (sh : Shadow) : (restoreShadow s c t sh).mem = s.mem := by
  simp [restoreShadow]

@[simp] theorem divertAt_mem (s : State) (c t : Nat) (qpc : Word) : (divertAt s c t qpc).mem = s.mem := by
  simp [divertAt]

@[simp] theorem State.takePosted_mem (s : State) (tr : Trap) : (s.takePosted tr).mem = s.mem := by
  unfold State.takePosted; split <;> simp

@[simp] theorem enterLanes_mem (s : State) (op : LaneOp) : (enterLanes s op).mem = s.mem := by simp [enterLanes]

@[simp] theorem keepLane_mem (s : State) : (keepLane s).mem = s.mem := by
  unfold keepLane; split <;> simp

@[simp] theorem reclaim_mem (s : State) (c t : Nat) : (reclaim s c t).mem = s.mem := by
  simp [reclaim]

@[simp] theorem returnTo_mem (s : State) (c t : Nat) (sh : Shadow) (e : Word) : (returnTo s c t sh e).mem = s.mem := by
  simp only [returnTo]; split
  · simp
  · split <;> simp

@[simp] theorem divertReturn_mem (s : State) (c t : Nat) (sh : Shadow) (e : Word) :
    (divertReturn s c t sh e).mem = s.mem := by
  simp only [divertReturn, divertAt_mem]; split <;> simp

/-! ### The finish of an instruction -/

/-- The state that an effect goes on from: its own, or the instruction's where it has none. -/
def Effect.goesOn (s : State) : Effect → State
  | .done t | .jump t _ | .stay t | .trapIn t _ => t
  | .wait | .hold | .behind | .trap _ => s

/-- An instruction keeps memory's canonical form where its effect does. -/
theorem finish_wf {s t : State} {len : Nat} {e : Effect} (hs : Memory.wf s.mem = true) (h : Memory.wf (e.goesOn s).mem = true)
    (hn : finish s len e = .next t) : Memory.wf t.mem = true := by
  cases e
  case trapIn u tr =>
    simp only [finish] at hn
    split at hn <;> injection hn with hn <;> subst hn
    · simpa using hs
    · exact takeTrap_wf _ h
  all_goals
    simp only [finish, Host.Outcome.next.injEq] at hn
    subst hn
    simp only [Effect.goesOn] at h
  case trap tr => exact takeTrap_wf _ (by simpa using h)
  all_goals simpa using h

@[simp] theorem State.abortRecord_mem (s : State) (c t : Nat) : (s.abortRecord c t).mem = s.mem := by
  simp only [State.abortRecord]; split <;> simp

/-- The return from a trap writes no memory. -/
theorem tretEffect_mem (s : State) : ((tretEffect s).goesOn s).mem = s.mem := by
  simp only [tretEffect]
  repeat' split
  all_goals simp [Effect.goesOn]

end Sys2Proof.Machine
end

