-- ==== Sys2Proof/Laws/PerInstr.lean ====
section
/-! SUPPORT. Facts of each instruction as syntax: the events of the part, and no others, have no encoding. -/

/-- The events of the part have no words, and every instruction has some. -/
def Sys2Proof.Laws.Events.Statement (i : Instr) : Prop :=
  i.isEvent = (encode i).isEmpty

theorem Sys2Proof.Laws.Events.add (d : Dst) (a b : SrcM) :
    Laws.Events.Statement (.add d a b) := rfl
theorem Sys2Proof.Laws.Events.sub (d : Dst) (a b : SrcM) :
    Laws.Events.Statement (.sub d a b) := rfl
theorem Sys2Proof.Laws.Events.and (d : Dst) (a b : SrcM) :
    Laws.Events.Statement (.and d a b) := rfl
theorem Sys2Proof.Laws.Events.or (d : Dst) (a b : SrcM) :
    Laws.Events.Statement (.or d a b) := rfl
theorem Sys2Proof.Laws.Events.xor (d : Dst) (a b : SrcM) :
    Laws.Events.Statement (.xor d a b) := rfl
theorem Sys2Proof.Laws.Events.shl (d : Dst) (a b : SrcM) :
    Laws.Events.Statement (.shl d a b) := rfl
theorem Sys2Proof.Laws.Events.shr (d : Dst) (a b : SrcM) :
    Laws.Events.Statement (.shr d a b) := rfl
theorem Sys2Proof.Laws.Events.sar (d : Dst) (a b : SrcM) :
    Laws.Events.Statement (.sar d a b) := rfl
theorem Sys2Proof.Laws.Events.min (d : Dst) (a b : SrcM) :
    Laws.Events.Statement (.min d a b) := rfl
theorem Sys2Proof.Laws.Events.max (d : Dst) (a b : SrcM) :
    Laws.Events.Statement (.max d a b) := rfl
theorem Sys2Proof.Laws.Events.minu (d : Dst) (a b : SrcM) :
    Laws.Events.Statement (.minu d a b) := rfl
theorem Sys2Proof.Laws.Events.maxu (d : Dst) (a b : SrcM) :
    Laws.Events.Statement (.maxu d a b) := rfl
theorem Sys2Proof.Laws.Events.mul (d : Dst) (a b : SrcM) :
    Laws.Events.Statement (.mul d a b) := rfl
theorem Sys2Proof.Laws.Events.mulh (d : Dst) (a b : SrcM) :
    Laws.Events.Statement (.mulh d a b) := rfl
theorem Sys2Proof.Laws.Events.mulhu (d : Dst) (a b : SrcM) :
    Laws.Events.Statement (.mulhu d a b) := rfl
theorem Sys2Proof.Laws.Events.div (d : Dst) (a b : SrcM) :
    Laws.Events.Statement (.div d a b) := rfl
theorem Sys2Proof.Laws.Events.divu (d : Dst) (a b : SrcM) :
    Laws.Events.Statement (.divu d a b) := rfl
theorem Sys2Proof.Laws.Events.rem (d : Dst) (a b : SrcM) :
    Laws.Events.Statement (.rem d a b) := rfl
theorem Sys2Proof.Laws.Events.remu (d : Dst) (a b : SrcM) :
    Laws.Events.Statement (.remu d a b) := rfl
theorem Sys2Proof.Laws.Events.clz (d : Dst) (a : SrcM) :
    Laws.Events.Statement (.clz d a) := rfl
theorem Sys2Proof.Laws.Events.ctz (d : Dst) (a : SrcM) :
    Laws.Events.Statement (.ctz d a) := rfl
theorem Sys2Proof.Laws.Events.popc (d : Dst) (a : SrcM) :
    Laws.Events.Statement (.popc d a) := rfl
theorem Sys2Proof.Laws.Events.mov (d : Dst) (a : SrcM) :
    Laws.Events.Statement (.mov d a) := rfl
theorem Sys2Proof.Laws.Events.ext (t : ExtKind) (d : Dst) (a : SrcM) :
    Laws.Events.Statement (.ext t d a) := rfl
theorem Sys2Proof.Laws.Events.sel (d : Dst) (a b : SrcM) :
    Laws.Events.Statement (.sel d a b) := rfl
theorem Sys2Proof.Laws.Events.addi (d : Dst) (a : SrcM) (imm : BitVec 11) :
    Laws.Events.Statement (.addi d a imm) := rfl
theorem Sys2Proof.Laws.Events.andi (d : Dst) (a : SrcM) (imm : BitVec 11) :
    Laws.Events.Statement (.andi d a imm) := rfl
theorem Sys2Proof.Laws.Events.ori (d : Dst) (a : SrcM) (imm : BitVec 11) :
    Laws.Events.Statement (.ori d a imm) := rfl
theorem Sys2Proof.Laws.Events.xori (d : Dst) (a : SrcM) (imm : BitVec 11) :
    Laws.Events.Statement (.xori d a imm) := rfl
theorem Sys2Proof.Laws.Events.shli (d : Dst) (a : SrcM) (k : BitVec 6) :
    Laws.Events.Statement (.shli d a k) := rfl
theorem Sys2Proof.Laws.Events.shri (d : Dst) (a : SrcM) (k : BitVec 6) :
    Laws.Events.Statement (.shri d a k) := rfl
theorem Sys2Proof.Laws.Events.sari (d : Dst) (a : SrcM) (k : BitVec 6) :
    Laws.Events.Statement (.sari d a k) := rfl
theorem Sys2Proof.Laws.Events.cmp (c : Cond) (d : Dst) (a b : SrcM) :
    Laws.Events.Statement (.cmp c d a b) := rfl
theorem Sys2Proof.Laws.Events.cmpi (c : Cond) (d : Dst) (a : SrcM) (imm : BitVec 8) :
    Laws.Events.Statement (.cmpi c d a imm) := rfl
theorem Sys2Proof.Laws.Events.li (d : Dst) (imm : BitVec 18) :
    Laws.Events.Statement (.li d imm) := rfl
theorem Sys2Proof.Laws.Events.lih (d : Fin 32) (half : Fin 4) (v : BitVec 16) :
    Laws.Events.Statement (.lih d half v) := rfl
theorem Sys2Proof.Laws.Events.bfx (d : Dst) (a : Src) (pos len : BitVec 6) :
    Laws.Events.Statement (.bfx d a pos len) := rfl
theorem Sys2Proof.Laws.Events.bfi (d : Fin 32) (a : Src) (pos len : BitVec 6) :
    Laws.Events.Statement (.bfi d a pos len) := rfl
theorem Sys2Proof.Laws.Events.fadd (p : Prec) (d : Dst) (a b : SrcM) :
    Laws.Events.Statement (.fadd p d a b) := rfl
theorem Sys2Proof.Laws.Events.fsub (p : Prec) (d : Dst) (a b : SrcM) :
    Laws.Events.Statement (.fsub p d a b) := rfl
theorem Sys2Proof.Laws.Events.fmul (p : Prec) (d : Dst) (a b : SrcM) :
    Laws.Events.Statement (.fmul p d a b) := rfl
theorem Sys2Proof.Laws.Events.fdiv (p : Prec) (d : Dst) (a b : SrcM) :
    Laws.Events.Statement (.fdiv p d a b) := rfl
theorem Sys2Proof.Laws.Events.fmin (p : Prec) (d : Dst) (a b : SrcM) :
    Laws.Events.Statement (.fmin p d a b) := rfl
theorem Sys2Proof.Laws.Events.fmax (p : Prec) (d : Dst) (a b : SrcM) :
    Laws.Events.Statement (.fmax p d a b) := rfl
theorem Sys2Proof.Laws.Events.fsqrt (p : Prec) (d : Dst) (a : SrcM) :
    Laws.Events.Statement (.fsqrt p d a) := rfl
theorem Sys2Proof.Laws.Events.fsgnj (p : Prec) (d : Dst) (a b : SrcM) :
    Laws.Events.Statement (.fsgnj p d a b) := rfl
theorem Sys2Proof.Laws.Events.fsgnn (p : Prec) (d : Dst) (a b : SrcM) :
    Laws.Events.Statement (.fsgnn p d a b) := rfl
theorem Sys2Proof.Laws.Events.fsgnx (p : Prec) (d : Dst) (a b : SrcM) :
    Laws.Events.Statement (.fsgnx p d a b) := rfl
theorem Sys2Proof.Laws.Events.fclass (p : Prec) (d : Dst) (a : SrcM) :
    Laws.Events.Statement (.fclass p d a) := rfl
theorem Sys2Proof.Laws.Events.fma (p : Prec) (d : Fin 32) (a b : SrcM) :
    Laws.Events.Statement (.fma p d a b) := rfl
theorem Sys2Proof.Laws.Events.fms (p : Prec) (d : Fin 32) (a b : SrcM) :
    Laws.Events.Statement (.fms p d a b) := rfl
theorem Sys2Proof.Laws.Events.fnma (p : Prec) (d : Fin 32) (a b : SrcM) :
    Laws.Events.Statement (.fnma p d a b) := rfl
theorem Sys2Proof.Laws.Events.fnms (p : Prec) (d : Fin 32) (a b : SrcM) :
    Laws.Events.Statement (.fnms p d a b) := rfl
theorem Sys2Proof.Laws.Events.fcmp (c : FCond) (p : Prec) (d : Dst) (a b : SrcM) :
    Laws.Events.Statement (.fcmp c p d a b) := rfl
theorem Sys2Proof.Laws.Events.fcvt (code : BitVec 6) (sat : Bool) (r : RndField) (d : Dst) (a : SrcM) :
    Laws.Events.Statement (.fcvt code sat r d a) := rfl
theorem Sys2Proof.Laws.Events.frint (p : Prec) (r : RndField) (d : Dst) (a : SrcM) :
    Laws.Events.Statement (.frint p r d a) := rfl
theorem Sys2Proof.Laws.Events.gmul (d : Dst) (a b : SrcM) :
    Laws.Events.Statement (.gmul d a b) := rfl
theorem Sys2Proof.Laws.Events.gdiv (d : Dst) (a b : SrcM) :
    Laws.Events.Statement (.gdiv d a b) := rfl
theorem Sys2Proof.Laws.Events.gdamp (d : Dst) (a b : SrcM) :
    Laws.Events.Statement (.gdamp d a b) := rfl
theorem Sys2Proof.Laws.Events.gmarg (d : Dst) (a b : SrcM) :
    Laws.Events.Statement (.gmarg d a b) := rfl
theorem Sys2Proof.Laws.Events.gmargi (d : Dst) (a b : SrcM) :
    Laws.Events.Statement (.gmargi d a b) := rfl
theorem Sys2Proof.Laws.Events.gmean (d : Dst) (a : SrcM) :
    Laws.Events.Statement (.gmean d a) := rfl
theorem Sys2Proof.Laws.Events.b (imm : BitVec 24) :
    Laws.Events.Statement (.b imm) := rfl
theorem Sys2Proof.Laws.Events.call (imm : BitVec 24) :
    Laws.Events.Statement (.call imm) := rfl
theorem Sys2Proof.Laws.Events.bz (a : SrcM) (imm : BitVec 17) :
    Laws.Events.Statement (.bz a imm) := rfl
theorem Sys2Proof.Laws.Events.bnz (a : SrcM) (imm : BitVec 17) :
    Laws.Events.Statement (.bnz a imm) := rfl
theorem Sys2Proof.Laws.Events.jr (a : SrcM) :
    Laws.Events.Statement (.jr a) := rfl
theorem Sys2Proof.Laws.Events.callr (a : SrcM) :
    Laws.Events.Statement (.callr a) := rfl
theorem Sys2Proof.Laws.Events.ret :
    Laws.Events.Statement .ret := rfl
theorem Sys2Proof.Laws.Events.tend :
    Laws.Events.Statement .tend := rfl
theorem Sys2Proof.Laws.Events.nop :
    Laws.Events.Statement .nop := rfl
theorem Sys2Proof.Laws.Events.ld (k : LoadKind) (d : Dst) (a : SrcM) (imm : BitVec 8) :
    Laws.Events.Statement (.ld k d a imm) := rfl
theorem Sys2Proof.Laws.Events.st (sz : Size) (data : Src) (a : SrcM) (imm : BitVec 8) :
    Laws.Events.Statement (.st sz data a imm) := rfl
theorem Sys2Proof.Laws.Events.lda (k : LoadKind) (d : Dst) (a : SrcM) (sc : Scope) (off : BitVec 5) :
    Laws.Events.Statement (.lda k d a sc off) := rfl
theorem Sys2Proof.Laws.Events.str (sz : Size) (data : Src) (a : SrcM) (sc : Scope) (off : BitVec 5) :
    Laws.Events.Statement (.str sz data a sc off) := rfl
theorem Sys2Proof.Laws.Events.atomAdd (sz : ASize) (ord : Order) (d : Dst) (a b : Src) :
    Laws.Events.Statement (.atomAdd sz ord d a b) := rfl
theorem Sys2Proof.Laws.Events.atomAnd (sz : ASize) (ord : Order) (d : Dst) (a b : Src) :
    Laws.Events.Statement (.atomAnd sz ord d a b) := rfl
theorem Sys2Proof.Laws.Events.atomOr (sz : ASize) (ord : Order) (d : Dst) (a b : Src) :
    Laws.Events.Statement (.atomOr sz ord d a b) := rfl
theorem Sys2Proof.Laws.Events.atomXor (sz : ASize) (ord : Order) (d : Dst) (a b : Src) :
    Laws.Events.Statement (.atomXor sz ord d a b) := rfl
theorem Sys2Proof.Laws.Events.atomMin (sz : ASize) (ord : Order) (d : Dst) (a b : Src) :
    Laws.Events.Statement (.atomMin sz ord d a b) := rfl
theorem Sys2Proof.Laws.Events.atomMax (sz : ASize) (ord : Order) (d : Dst) (a b : Src) :
    Laws.Events.Statement (.atomMax sz ord d a b) := rfl
theorem Sys2Proof.Laws.Events.atomMinu (sz : ASize) (ord : Order) (d : Dst) (a b : Src) :
    Laws.Events.Statement (.atomMinu sz ord d a b) := rfl
theorem Sys2Proof.Laws.Events.atomMaxu (sz : ASize) (ord : Order) (d : Dst) (a b : Src) :
    Laws.Events.Statement (.atomMaxu sz ord d a b) := rfl
theorem Sys2Proof.Laws.Events.cas (sz : ASize) (ord : Order) (d : Fin 32) (a b : Src) :
    Laws.Events.Statement (.cas sz ord d a b) := rfl
theorem Sys2Proof.Laws.Events.swap (sz : ASize) (ord : Order) (d : Dst) (a b : Src) :
    Laws.Events.Statement (.swap sz ord d a b) := rfl
theorem Sys2Proof.Laws.Events.fenceFull (sc : Scope) :
    Laws.Events.Statement (.fenceFull sc) := rfl
theorem Sys2Proof.Laws.Events.fenceAcquire (sc : Scope) :
    Laws.Events.Statement (.fenceAcquire sc) := rfl
theorem Sys2Proof.Laws.Events.fenceRelease (sc : Scope) :
    Laws.Events.Statement (.fenceRelease sc) := rfl
theorem Sys2Proof.Laws.Events.fencei :
    Laws.Events.Statement .fencei := rfl
theorem Sys2Proof.Laws.Events.cflushClean (a : SrcM) :
    Laws.Events.Statement (.cflushClean a) := rfl
theorem Sys2Proof.Laws.Events.cflushInv (a : SrcM) :
    Laws.Events.Statement (.cflushInv a) := rfl
theorem Sys2Proof.Laws.Events.cflushWbinv (a : SrcM) :
    Laws.Events.Statement (.cflushWbinv a) := rfl
theorem Sys2Proof.Laws.Events.send (cls : BitVec 8) (a b : Src) (keep : Bool) :
    Laws.Events.Statement (.send cls a b keep) := rfl
theorem Sys2Proof.Laws.Events.spawn (cls : BitVec 8) (a b : Src) :
    Laws.Events.Statement (.spawn cls a b) := rfl
theorem Sys2Proof.Laws.Events.migrate (cls : BitVec 8) (a : Src) :
    Laws.Events.Statement (.migrate cls a) := rfl
theorem Sys2Proof.Laws.Events.sbindOff (st : Fin 6) :
    Laws.Events.Statement (.sbindOff st) := rfl
theorem Sys2Proof.Laws.Events.sbindChan (st : Fin 6) (a : SrcM) :
    Laws.Events.Statement (.sbindChan st a) := rfl
theorem Sys2Proof.Laws.Events.sbindCopy (st : Fin 6) :
    Laws.Events.Statement (.sbindCopy st) := rfl
theorem Sys2Proof.Laws.Events.cvgNote (a : SrcM) :
    Laws.Events.Statement (.cvgNote a) := rfl
theorem Sys2Proof.Laws.Events.cvgMax (d : Dst) :
    Laws.Events.Statement (.cvgMax d) := rfl
theorem Sys2Proof.Laws.Events.cvgCount (d : Dst) :
    Laws.Events.Statement (.cvgCount d) := rfl
theorem Sys2Proof.Laws.Events.cvgQuiet (d : Dst) :
    Laws.Events.Statement (.cvgQuiet d) := rfl
theorem Sys2Proof.Laws.Events.cvgClear :
    Laws.Events.Statement .cvgClear := rfl
theorem Sys2Proof.Laws.Events.cut (d : Dst) :
    Laws.Events.Statement (.cut d) := rfl
theorem Sys2Proof.Laws.Events.cutstat (d : Dst) (a : SrcM) :
    Laws.Events.Statement (.cutstat d a) := rfl
theorem Sys2Proof.Laws.Events.barrive (bar : BitVec 7) :
    Laws.Events.Statement (.barrive bar) := rfl
theorem Sys2Proof.Laws.Events.bwait (bar : BitVec 7) :
    Laws.Events.Statement (.bwait bar) := rfl
theorem Sys2Proof.Laws.Events.bsync (bar : BitVec 7) :
    Laws.Events.Statement (.bsync bar) := rfl
theorem Sys2Proof.Laws.Events.bjoin (bar : BitVec 7) (a : Src) :
    Laws.Events.Statement (.bjoin bar a) := rfl
theorem Sys2Proof.Laws.Events.bleave (bar : BitVec 7) :
    Laws.Events.Statement (.bleave bar) := rfl
theorem Sys2Proof.Laws.Events.bstat (bar : BitVec 7) :
    Laws.Events.Statement (.bstat bar) := rfl
theorem Sys2Proof.Laws.Events.hopen (d : Dst) (a : SrcM) :
    Laws.Events.Statement (.hopen d a) := rfl
theorem Sys2Proof.Laws.Events.henter (a : SrcM) :
    Laws.Events.Statement (.henter a) := rfl
theorem Sys2Proof.Laws.Events.hresolveC (d : Dst) (a : SrcM) :
    Laws.Events.Statement (.hresolveC d a) := rfl
theorem Sys2Proof.Laws.Events.hresolveR (d : Dst) (a : SrcM) :
    Laws.Events.Statement (.hresolveR d a) := rfl
theorem Sys2Proof.Laws.Events.hresolveX (d : Dst) (a : SrcM) :
    Laws.Events.Statement (.hresolveX d a) := rfl
theorem Sys2Proof.Laws.Events.hstat (d : Dst) (a : SrcM) :
    Laws.Events.Statement (.hstat d a) := rfl
theorem Sys2Proof.Laws.Events.qend :
    Laws.Events.Statement .qend := rfl
theorem Sys2Proof.Laws.Events.vflag (a : SrcM) :
    Laws.Events.Statement (.vflag a) := rfl
theorem Sys2Proof.Laws.Events.time (d : Dst) :
    Laws.Events.Statement (.time d) := rfl
theorem Sys2Proof.Laws.Events.lease (d : Dst) (a b : SrcM) :
    Laws.Events.Statement (.lease d a b) := rfl
theorem Sys2Proof.Laws.Events.lstat (d : Dst) (a : SrcM) :
    Laws.Events.Statement (.lstat d a) := rfl
theorem Sys2Proof.Laws.Events.vclaim (d : Dst) (a : SrcM) :
    Laws.Events.Statement (.vclaim d a) := rfl
theorem Sys2Proof.Laws.Events.vaddI (vd va vb : Fin 16) (m : VMask) :
    Laws.Events.Statement (.vaddI vd va vb m) := rfl
theorem Sys2Proof.Laws.Events.vsubI (vd va vb : Fin 16) (m : VMask) :
    Laws.Events.Statement (.vsubI vd va vb m) := rfl
theorem Sys2Proof.Laws.Events.vmulI (vd va vb : Fin 16) (m : VMask) :
    Laws.Events.Statement (.vmulI vd va vb m) := rfl
theorem Sys2Proof.Laws.Events.vminI (vd va vb : Fin 16) (m : VMask) :
    Laws.Events.Statement (.vminI vd va vb m) := rfl
theorem Sys2Proof.Laws.Events.vmaxI (vd va vb : Fin 16) (m : VMask) :
    Laws.Events.Statement (.vmaxI vd va vb m) := rfl
theorem Sys2Proof.Laws.Events.vminu (vd va vb : Fin 16) (m : VMask) :
    Laws.Events.Statement (.vminu vd va vb m) := rfl
theorem Sys2Proof.Laws.Events.vmaxu (vd va vb : Fin 16) (m : VMask) :
    Laws.Events.Statement (.vmaxu vd va vb m) := rfl
theorem Sys2Proof.Laws.Events.vand (vd va vb : Fin 16) (m : VMask) :
    Laws.Events.Statement (.vand vd va vb m) := rfl
theorem Sys2Proof.Laws.Events.vor (vd va vb : Fin 16) (m : VMask) :
    Laws.Events.Statement (.vor vd va vb m) := rfl
theorem Sys2Proof.Laws.Events.vxor (vd va vb : Fin 16) (m : VMask) :
    Laws.Events.Statement (.vxor vd va vb m) := rfl
theorem Sys2Proof.Laws.Events.vshl (vd va vb : Fin 16) (m : VMask) :
    Laws.Events.Statement (.vshl vd va vb m) := rfl
theorem Sys2Proof.Laws.Events.vshr (vd va vb : Fin 16) (m : VMask) :
    Laws.Events.Statement (.vshr vd va vb m) := rfl
theorem Sys2Proof.Laws.Events.vsar (vd va vb : Fin 16) (m : VMask) :
    Laws.Events.Statement (.vsar vd va vb m) := rfl
theorem Sys2Proof.Laws.Events.vmov (vd va : Fin 16) (m : VMask) :
    Laws.Events.Statement (.vmov vd va m) := rfl
theorem Sys2Proof.Laws.Events.vaddS (vd va vb : Fin 16) (m : VMask) :
    Laws.Events.Statement (.vaddS vd va vb m) := rfl
theorem Sys2Proof.Laws.Events.vsubS (vd va vb : Fin 16) (m : VMask) :
    Laws.Events.Statement (.vsubS vd va vb m) := rfl
theorem Sys2Proof.Laws.Events.vmulS (vd va vb : Fin 16) (m : VMask) :
    Laws.Events.Statement (.vmulS vd va vb m) := rfl
theorem Sys2Proof.Laws.Events.vdivS (vd va vb : Fin 16) (m : VMask) :
    Laws.Events.Statement (.vdivS vd va vb m) := rfl
theorem Sys2Proof.Laws.Events.vminS (vd va vb : Fin 16) (m : VMask) :
    Laws.Events.Statement (.vminS vd va vb m) := rfl
theorem Sys2Proof.Laws.Events.vmaxS (vd va vb : Fin 16) (m : VMask) :
    Laws.Events.Statement (.vmaxS vd va vb m) := rfl
theorem Sys2Proof.Laws.Events.vsqrtS (vd va : Fin 16) (m : VMask) :
    Laws.Events.Statement (.vsqrtS vd va m) := rfl
theorem Sys2Proof.Laws.Events.vaddD (vd va vb : Fin 16) (m : VMask) :
    Laws.Events.Statement (.vaddD vd va vb m) := rfl
theorem Sys2Proof.Laws.Events.vsubD (vd va vb : Fin 16) (m : VMask) :
    Laws.Events.Statement (.vsubD vd va vb m) := rfl
theorem Sys2Proof.Laws.Events.vmulD (vd va vb : Fin 16) (m : VMask) :
    Laws.Events.Statement (.vmulD vd va vb m) := rfl
theorem Sys2Proof.Laws.Events.vdivD (vd va vb : Fin 16) (m : VMask) :
    Laws.Events.Statement (.vdivD vd va vb m) := rfl
theorem Sys2Proof.Laws.Events.vminD (vd va vb : Fin 16) (m : VMask) :
    Laws.Events.Statement (.vminD vd va vb m) := rfl
theorem Sys2Proof.Laws.Events.vmaxD (vd va vb : Fin 16) (m : VMask) :
    Laws.Events.Statement (.vmaxD vd va vb m) := rfl
theorem Sys2Proof.Laws.Events.vsqrtD (vd va : Fin 16) (m : VMask) :
    Laws.Events.Statement (.vsqrtD vd va m) := rfl
theorem Sys2Proof.Laws.Events.vfma (p : Prec) (vd va vb : Fin 16) (m : VMask) :
    Laws.Events.Statement (.vfma p vd va vb m) := rfl
theorem Sys2Proof.Laws.Events.vfms (p : Prec) (vd va vb : Fin 16) (m : VMask) :
    Laws.Events.Statement (.vfms p vd va vb m) := rfl
theorem Sys2Proof.Laws.Events.vfnma (p : Prec) (vd va vb : Fin 16) (m : VMask) :
    Laws.Events.Statement (.vfnma p vd va vb m) := rfl
theorem Sys2Proof.Laws.Events.vfnms (p : Prec) (vd va vb : Fin 16) (m : VMask) :
    Laws.Events.Statement (.vfnms p vd va vb m) := rfl
theorem Sys2Proof.Laws.Events.vcmp (t : VCmpType) (c : VCond) (vd va vb : Fin 16) (m : VMask) :
    Laws.Events.Statement (.vcmp t c vd va vb m) := rfl
theorem Sys2Proof.Laws.Events.vsel (vd va vb vm : Fin 16) (z : Bool) :
    Laws.Events.Statement (.vsel vd va vb vm z) := rfl
theorem Sys2Proof.Laws.Events.vcvt (code : BitVec 6) (vd va vb : Fin 16) (m : VMask) :
    Laws.Events.Statement (.vcvt code vd va vb m) := rfl
theorem Sys2Proof.Laws.Events.vred (op : VRedOp) (va : Fin 16) (m : VMask) :
    Laws.Events.Statement (.vred op va m) := rfl
theorem Sys2Proof.Laws.Events.vbcast (p : Prec) (vd : Fin 16) (m : VMask) (a : SrcM) :
    Laws.Events.Statement (.vbcast p vd m a) := rfl
theorem Sys2Proof.Laws.Events.vext (k : VExtKind) (va : Fin 16) (a : SrcM) :
    Laws.Events.Statement (.vext k va a) := rfl
theorem Sys2Proof.Laws.Events.viota (vd : Fin 16) (m : VMask) :
    Laws.Events.Statement (.viota vd m) := rfl
theorem Sys2Proof.Laws.Events.vpopc (va vm : Fin 16) (me : Bool) :
    Laws.Events.Statement (.vpopc va vm me) := rfl
theorem Sys2Proof.Laws.Events.vld (sz : Size) (strided : Bool) (vd : Fin 16) (m : VMask) (a : SrcM) :
    Laws.Events.Statement (.vld sz strided vd m a) := rfl
theorem Sys2Proof.Laws.Events.vst (sz : Size) (strided : Bool) (vd : Fin 16) (m : VMask) (a : SrcM) :
    Laws.Events.Statement (.vst sz strided vd m a) := rfl
theorem Sys2Proof.Laws.Events.vgather (sz : Size) (vd va : Fin 16) (m : VMask) (a : SrcM) :
    Laws.Events.Statement (.vgather sz vd va m a) := rfl
theorem Sys2Proof.Laws.Events.vscatter (sz : Size) (vd va : Fin 16) (m : VMask) (a : SrcM) :
    Laws.Events.Statement (.vscatter sz vd va m a) := rfl
theorem Sys2Proof.Laws.Events.vatom (op : AtomOp) (vd va : Fin 16) (m : VMask) (a : SrcM) :
    Laws.Events.Statement (.vatom op vd va m a) := rfl
theorem Sys2Proof.Laws.Events.xgather (a b : SrcM) :
    Laws.Events.Statement (.xgather a b) := rfl
theorem Sys2Proof.Laws.Events.xscatter (a b : SrcM) :
    Laws.Events.Statement (.xscatter a b) := rfl
theorem Sys2Proof.Laws.Events.xcopy (a b : SrcM) :
    Laws.Events.Statement (.xcopy a b) := rfl
theorem Sys2Proof.Laws.Events.xpop (d : Dst) (a : SrcM) :
    Laws.Events.Statement (.xpop d a) := rfl
theorem Sys2Proof.Laws.Events.xtry (d : Dst) (a : SrcM) :
    Laws.Events.Statement (.xtry d a) := rfl
theorem Sys2Proof.Laws.Events.xstat (d : Dst) (a : SrcM) :
    Laws.Events.Statement (.xstat d a) := rfl
theorem Sys2Proof.Laws.Events.aring (a b : SrcM) :
    Laws.Events.Statement (.aring a b) := rfl
theorem Sys2Proof.Laws.Events.aadv (a b : SrcM) :
    Laws.Events.Statement (.aadv a b) := rfl
theorem Sys2Proof.Laws.Events.aadvStat (d : Dst) (a : SrcM) :
    Laws.Events.Statement (.aadvStat d a) := rfl
theorem Sys2Proof.Laws.Events.amm (acc ra rb : Fin 16) (mode : BitVec 4) (zp : Bool) (pop : BitVec 2) :
    Laws.Events.Statement (.amm acc ra rb mode zp pop) := rfl
theorem Sys2Proof.Laws.Events.azero (acc : Fin 16) (single : Bool) :
    Laws.Events.Statement (.azero acc single) := rfl
theorem Sys2Proof.Laws.Events.ald (acc : Fin 16) (a : SrcM) (fmt : Fin 4) :
    Laws.Events.Statement (.ald acc a fmt) := rfl
theorem Sys2Proof.Laws.Events.ast (acc : Fin 16) (a : SrcM) (fmt : Fin 4) (r : RndField) :
    Laws.Events.Statement (.ast acc a fmt r) := rfl
theorem Sys2Proof.Laws.Events.await :
    Laws.Events.Statement .await := rfl
theorem Sys2Proof.Laws.Events.sysr (d : Dst) (reg : BitVec 12) :
    Laws.Events.Statement (.sysr d reg) := rfl
theorem Sys2Proof.Laws.Events.sysw (reg : BitVec 12) (a : Src) :
    Laws.Events.Statement (.sysw reg a) := rfl
theorem Sys2Proof.Laws.Events.trap (code : BitVec 24) :
    Laws.Events.Statement (.trap code) := rfl
theorem Sys2Proof.Laws.Events.tret :
    Laws.Events.Statement .tret := rfl
theorem Sys2Proof.Laws.Events.tlbiPage (a b : SrcM) :
    Laws.Events.Statement (.tlbiPage a b) := rfl
theorem Sys2Proof.Laws.Events.tlbiAsid (b : SrcM) :
    Laws.Events.Statement (.tlbiAsid b) := rfl
theorem Sys2Proof.Laws.Events.tlbiAll :
    Laws.Events.Statement .tlbiAll := rfl
theorem Sys2Proof.Laws.Events.brk (code : BitVec 24) :
    Laws.Events.Statement (.brk code) := rfl
theorem Sys2Proof.Laws.Events.add16 (x y : BitVec 5) :
    Laws.Events.Statement (.add16 x y) := rfl
theorem Sys2Proof.Laws.Events.sub16 (x y : BitVec 5) :
    Laws.Events.Statement (.sub16 x y) := rfl
theorem Sys2Proof.Laws.Events.and16 (x y : BitVec 5) :
    Laws.Events.Statement (.and16 x y) := rfl
theorem Sys2Proof.Laws.Events.or16 (x y : BitVec 5) :
    Laws.Events.Statement (.or16 x y) := rfl
theorem Sys2Proof.Laws.Events.xor16 (x y : BitVec 5) :
    Laws.Events.Statement (.xor16 x y) := rfl
theorem Sys2Proof.Laws.Events.shl16 (x y : BitVec 5) :
    Laws.Events.Statement (.shl16 x y) := rfl
theorem Sys2Proof.Laws.Events.shr16 (x y : BitVec 5) :
    Laws.Events.Statement (.shr16 x y) := rfl
theorem Sys2Proof.Laws.Events.mov16 (x : BitVec 5) (y : Fin 16) :
    Laws.Events.Statement (.mov16 x y) := rfl
theorem Sys2Proof.Laws.Events.addi16 (x imm : BitVec 5) :
    Laws.Events.Statement (.addi16 x imm) := rfl
theorem Sys2Proof.Laws.Events.li16 (imm : BitVec 10) :
    Laws.Events.Statement (.li16 imm) := rfl
theorem Sys2Proof.Laws.Events.cmpEq16 (x y : BitVec 5) :
    Laws.Events.Statement (.cmpEq16 x y) := rfl
theorem Sys2Proof.Laws.Events.cmpLt16 (x y : BitVec 5) :
    Laws.Events.Statement (.cmpLt16 x y) := rfl
theorem Sys2Proof.Laws.Events.ldD16 (x : BitVec 5) (off : BitVec 5) :
    Laws.Events.Statement (.ldD16 x off) := rfl
theorem Sys2Proof.Laws.Events.stD16 (x y : BitVec 5) :
    Laws.Events.Statement (.stD16 x y) := rfl
theorem Sys2Proof.Laws.Events.faddD16 (x y : BitVec 5) :
    Laws.Events.Statement (.faddD16 x y) := rfl
theorem Sys2Proof.Laws.Events.fsubD16 (x y : BitVec 5) :
    Laws.Events.Statement (.fsubD16 x y) := rfl
theorem Sys2Proof.Laws.Events.fmulD16 (x y : BitVec 5) :
    Laws.Events.Statement (.fmulD16 x y) := rfl
theorem Sys2Proof.Laws.Events.gmul16 (x y : BitVec 5) :
    Laws.Events.Statement (.gmul16 x y) := rfl
theorem Sys2Proof.Laws.Events.bz16 (x imm : BitVec 5) :
    Laws.Events.Statement (.bz16 x imm) := rfl
theorem Sys2Proof.Laws.Events.bnz16 (x imm : BitVec 5) :
    Laws.Events.Statement (.bnz16 x imm) := rfl
theorem Sys2Proof.Laws.Events.b16 (imm : BitVec 10) :
    Laws.Events.Statement (.b16 imm) := rfl
theorem Sys2Proof.Laws.Events.ret16 :
    Laws.Events.Statement .ret16 := rfl
theorem Sys2Proof.Laws.Events.tend16 :
    Laws.Events.Statement .tend16 := rfl
theorem Sys2Proof.Laws.Events.frame (k : BitVec 5) :
    Laws.Events.Statement (.frame k) := rfl
theorem Sys2Proof.Laws.Events.nop16 :
    Laws.Events.Statement .nop16 := rfl
theorem Sys2Proof.Laws.Events.trapCauseRead :
    Laws.Events.Statement .trapCauseRead := rfl
theorem Sys2Proof.Laws.Events.jrnlRelease :
    Laws.Events.Statement .jrnlRelease := rfl
theorem Sys2Proof.Laws.Events.lsplitWrite :
    Laws.Events.Statement .lsplitWrite := rfl
theorem Sys2Proof.Laws.Events.linkRegisterAccess :
    Laws.Events.Statement .linkRegisterAccess := rfl
theorem Sys2Proof.Laws.Events.fpStatRead :
    Laws.Events.Statement .fpStatRead := rfl
theorem Sys2Proof.Laws.Events.submissionWrite :
    Laws.Events.Statement .submissionWrite := rfl
theorem Sys2Proof.Laws.Events.packetNop :
    Laws.Events.Statement .packetNop := rfl
theorem Sys2Proof.Laws.Events.packetDispatch :
    Laws.Events.Statement .packetDispatch := rfl
theorem Sys2Proof.Laws.Events.packetStop :
    Laws.Events.Statement .packetStop := rfl
theorem Sys2Proof.Laws.Events.packetIndirect :
    Laws.Events.Statement .packetIndirect := rfl
theorem Sys2Proof.Laws.Events.packetStatus :
    Laws.Events.Statement .packetStatus := rfl
theorem Sys2Proof.Laws.Events.queueDisable :
    Laws.Events.Statement .queueDisable := rfl
theorem Sys2Proof.Laws.Events.queueEnable :
    Laws.Events.Statement .queueEnable := rfl
theorem Sys2Proof.Laws.Events.schedulerFirmwareRestart :
    Laws.Events.Statement .schedulerFirmwareRestart := rfl
theorem Sys2Proof.Laws.Events.launchPlace :
    Laws.Events.Statement .launchPlace := rfl
theorem Sys2Proof.Laws.Events.gangCommit :
    Laws.Events.Statement .gangCommit := rfl
theorem Sys2Proof.Laws.Events.launchQuiescent :
    Laws.Events.Statement .launchQuiescent := rfl
theorem Sys2Proof.Laws.Events.launchEndQuenched :
    Laws.Events.Statement .launchEndQuenched := rfl
theorem Sys2Proof.Laws.Events.completionRecordWrite :
    Laws.Events.Statement .completionRecordWrite := rfl
theorem Sys2Proof.Laws.Events.rangeHandout :
    Laws.Events.Statement .rangeHandout := rfl
theorem Sys2Proof.Laws.Events.rangeTaskStart :
    Laws.Events.Statement .rangeTaskStart := rfl
theorem Sys2Proof.Laws.Events.rangeSteal :
    Laws.Events.Statement .rangeSteal := rfl
theorem Sys2Proof.Laws.Events.messageArrival :
    Laws.Events.Statement .messageArrival := rfl
theorem Sys2Proof.Laws.Events.refusalReceived :
    Laws.Events.Statement .refusalReceived := rfl
theorem Sys2Proof.Laws.Events.retryTimer :
    Laws.Events.Statement .retryTimer := rfl
theorem Sys2Proof.Laws.Events.acceptanceReceived :
    Laws.Events.Statement .acceptanceReceived := rfl
theorem Sys2Proof.Laws.Events.messageDispatch :
    Laws.Events.Statement .messageDispatch := rfl
theorem Sys2Proof.Laws.Events.priorityAging :
    Laws.Events.Statement .priorityAging := rfl
theorem Sys2Proof.Laws.Events.watchdogExpiry :
    Laws.Events.Statement .watchdogExpiry := rfl
theorem Sys2Proof.Laws.Events.valueLands :
    Laws.Events.Statement .valueLands := rfl
theorem Sys2Proof.Laws.Events.postedStoreAck :
    Laws.Events.Statement .postedStoreAck := rfl
theorem Sys2Proof.Laws.Events.postedStoreRefused :
    Laws.Events.Statement .postedStoreRefused := rfl
theorem Sys2Proof.Laws.Events.asyncTrapTaken :
    Laws.Events.Statement .asyncTrapTaken := rfl
theorem Sys2Proof.Laws.Events.endedTaskTrapContext :
    Laws.Events.Statement .endedTaskTrapContext := rfl
theorem Sys2Proof.Laws.Events.sliceExpiry :
    Laws.Events.Statement .sliceExpiry := rfl
theorem Sys2Proof.Laws.Events.sliceIdleEnd :
    Laws.Events.Statement .sliceIdleEnd := rfl
theorem Sys2Proof.Laws.Events.contextSave :
    Laws.Events.Statement .contextSave := rfl
theorem Sys2Proof.Laws.Events.tongsDrainExpiry :
    Laws.Events.Statement .tongsDrainExpiry := rfl
theorem Sys2Proof.Laws.Events.contextRestore :
    Laws.Events.Statement .contextRestore := rfl
theorem Sys2Proof.Laws.Events.beatDelivery :
    Laws.Events.Statement .beatDelivery := rfl
theorem Sys2Proof.Laws.Events.taskDiversion :
    Laws.Events.Statement .taskDiversion := rfl
theorem Sys2Proof.Laws.Events.quenchBudgetExpiry :
    Laws.Events.Statement .quenchBudgetExpiry := rfl
theorem Sys2Proof.Laws.Events.deadlineFire :
    Laws.Events.Statement .deadlineFire := rfl
theorem Sys2Proof.Laws.Events.convergenceSample :
    Laws.Events.Statement .convergenceSample := rfl
theorem Sys2Proof.Laws.Events.sweepEnd :
    Laws.Events.Statement .sweepEnd := rfl
theorem Sys2Proof.Laws.Events.cutCopyPoint :
    Laws.Events.Statement .cutCopyPoint := rfl
theorem Sys2Proof.Laws.Events.cutComplete :
    Laws.Events.Statement .cutComplete := rfl
theorem Sys2Proof.Laws.Events.anvilPortAccept :
    Laws.Events.Statement .anvilPortAccept := rfl
theorem Sys2Proof.Laws.Events.ammStart :
    Laws.Events.Statement .ammStart := rfl
theorem Sys2Proof.Laws.Events.ammRetire :
    Laws.Events.Statement .ammRetire := rfl
theorem Sys2Proof.Laws.Events.subarrayGate :
    Laws.Events.Statement .subarrayGate := rfl
theorem Sys2Proof.Laws.Events.subarrayWake :
    Laws.Events.Statement .subarrayWake := rfl
theorem Sys2Proof.Laws.Events.tokenArrival :
    Laws.Events.Statement .tokenArrival := rfl
theorem Sys2Proof.Laws.Events.tokenIdleRelease :
    Laws.Events.Statement .tokenIdleRelease := rfl
theorem Sys2Proof.Laws.Events.tokenHoldExpiry :
    Laws.Events.Statement .tokenHoldExpiry := rfl
theorem Sys2Proof.Laws.Events.vectorBind :
    Laws.Events.Statement .vectorBind := rfl
theorem Sys2Proof.Laws.Events.vectorComplete :
    Laws.Events.Statement .vectorComplete := rfl
theorem Sys2Proof.Laws.Events.tongsElementReply :
    Laws.Events.Statement .tongsElementReply := rfl
theorem Sys2Proof.Laws.Events.gets :
    Laws.Events.Statement .gets := rfl
theorem Sys2Proof.Laws.Events.getx :
    Laws.Events.Statement .getx := rfl
theorem Sys2Proof.Laws.Events.upg :
    Laws.Events.Statement .upg := rfl
theorem Sys2Proof.Laws.Events.putm :
    Laws.Events.Statement .putm := rfl
theorem Sys2Proof.Laws.Events.puto :
    Laws.Events.Statement .puto := rfl
theorem Sys2Proof.Laws.Events.pute :
    Laws.Events.Statement .pute := rfl
theorem Sys2Proof.Laws.Events.puts :
    Laws.Events.Statement .puts := rfl
theorem Sys2Proof.Laws.Events.invalidation :
    Laws.Events.Statement .invalidation := rfl
theorem Sys2Proof.Laws.Events.invAck :
    Laws.Events.Statement .invAck := rfl
theorem Sys2Proof.Laws.Events.fwdGets :
    Laws.Events.Statement .fwdGets := rfl
theorem Sys2Proof.Laws.Events.fwdGetx :
    Laws.Events.Statement .fwdGetx := rfl
theorem Sys2Proof.Laws.Events.forwardResponse :
    Laws.Events.Statement .forwardResponse := rfl
theorem Sys2Proof.Laws.Events.memoryDataReturn :
    Laws.Events.Statement .memoryDataReturn := rfl
theorem Sys2Proof.Laws.Events.grantReceived :
    Laws.Events.Statement .grantReceived := rfl
theorem Sys2Proof.Laws.Events.putAnswer :
    Laws.Events.Statement .putAnswer := rfl
theorem Sys2Proof.Laws.Events.invalidationTimeout :
    Laws.Events.Statement .invalidationTimeout := rfl
theorem Sys2Proof.Laws.Events.snpInv :
    Laws.Events.Statement .snpInv := rfl
theorem Sys2Proof.Laws.Events.snpData :
    Laws.Events.Statement .snpData := rfl
theorem Sys2Proof.Laws.Events.snpCur :
    Laws.Events.Statement .snpCur := rfl
theorem Sys2Proof.Laws.Events.hostLineFill :
    Laws.Events.Statement .hostLineFill := rfl
theorem Sys2Proof.Laws.Events.hostWrite :
    Laws.Events.Statement .hostWrite := rfl
theorem Sys2Proof.Laws.Events.hostRead :
    Laws.Events.Statement .hostRead := rfl
theorem Sys2Proof.Laws.Events.flitReceived :
    Laws.Events.Statement .flitReceived := rfl
theorem Sys2Proof.Laws.Events.linkControlReceived :
    Laws.Events.Statement .linkControlReceived := rfl
theorem Sys2Proof.Laws.Events.replayRequestTimer :
    Laws.Events.Statement .replayRequestTimer := rfl
theorem Sys2Proof.Laws.Events.ackTimer :
    Laws.Events.Statement .ackTimer := rfl
theorem Sys2Proof.Laws.Events.replayTimeout :
    Laws.Events.Statement .replayTimeout := rfl
theorem Sys2Proof.Laws.Events.streamFlitSend :
    Laws.Events.Statement .streamFlitSend := rfl
theorem Sys2Proof.Laws.Events.peerRead :
    Laws.Events.Statement .peerRead := rfl
theorem Sys2Proof.Laws.Events.peerWrite :
    Laws.Events.Statement .peerWrite := rfl
theorem Sys2Proof.Laws.Events.peerAtomic :
    Laws.Events.Statement .peerAtomic := rfl
theorem Sys2Proof.Laws.Events.peerResponse :
    Laws.Events.Statement .peerResponse := rfl
theorem Sys2Proof.Laws.Events.peerUnreachable :
    Laws.Events.Statement .peerUnreachable := rfl
theorem Sys2Proof.Laws.Events.linkRetrain :
    Laws.Events.Statement .linkRetrain := rfl
theorem Sys2Proof.Laws.Events.starvationTimer :
    Laws.Events.Statement .starvationTimer := rfl
theorem Sys2Proof.Laws.Events.parkDelayExpiry :
    Laws.Events.Statement .parkDelayExpiry := rfl
theorem Sys2Proof.Laws.Events.warmingStart :
    Laws.Events.Statement .warmingStart := rfl
theorem Sys2Proof.Laws.Events.transmitterJoin :
    Laws.Events.Statement .transmitterJoin := rfl
theorem Sys2Proof.Laws.Events.transmitterFailure :
    Laws.Events.Statement .transmitterFailure := rfl
theorem Sys2Proof.Laws.Events.dieLinkLaneFailure :
    Laws.Events.Statement .dieLinkLaneFailure := rfl
theorem Sys2Proof.Laws.Events.clockGate :
    Laws.Events.Statement .clockGate := rfl
theorem Sys2Proof.Laws.Events.powerGateTimer :
    Laws.Events.Statement .powerGateTimer := rfl
theorem Sys2Proof.Laws.Events.hbmSelfRefresh :
    Laws.Events.Statement .hbmSelfRefresh := rfl
theorem Sys2Proof.Laws.Events.diePowerPark :
    Laws.Events.Statement .diePowerPark := rfl
theorem Sys2Proof.Laws.Events.latencyToleranceWrite :
    Laws.Events.Statement .latencyToleranceWrite := rfl
theorem Sys2Proof.Laws.Events.thermalReading :
    Laws.Events.Statement .thermalReading := rfl
theorem Sys2Proof.Laws.Events.powerLimitExceed :
    Laws.Events.Statement .powerLimitExceed := rfl
theorem Sys2Proof.Laws.Events.disciplineLoss :
    Laws.Events.Statement .disciplineLoss := rfl
theorem Sys2Proof.Laws.Events.disciplineReturn :
    Laws.Events.Statement .disciplineReturn := rfl
theorem Sys2Proof.Laws.Events.softError :
    Laws.Events.Statement .softError := rfl
theorem Sys2Proof.Laws.Events.hbmScrub :
    Laws.Events.Statement .hbmScrub := rfl
theorem Sys2Proof.Laws.Events.hearthRetire :
    Laws.Events.Statement .hearthRetire := rfl
theorem Sys2Proof.Laws.Events.resetBoot :
    Laws.Events.Statement .resetBoot := rfl
theorem Sys2Proof.Laws.Events.readRas :
    Laws.Events.Statement .readRas := rfl
theorem Sys2Proof.Laws.Events.readSensors :
    Laws.Events.Statement .readSensors := rfl
theorem Sys2Proof.Laws.Events.attest :
    Laws.Events.Statement .attest := rfl
theorem Sys2Proof.Laws.Events.retire :
    Laws.Events.Statement .retire := rfl
theorem Sys2Proof.Laws.Events.recoveryImage :
    Laws.Events.Statement .recoveryImage := rfl
theorem Sys2Proof.Laws.Events.mgmtResponseRead :
    Laws.Events.Statement .mgmtResponseRead := rfl
theorem Sys2Proof.Laws.Events.barrierReleaseDelivery :
    Laws.Events.Statement .barrierReleaseDelivery := rfl
theorem Sys2Proof.Laws.Events.remoteAccessAtTarget :
    Laws.Events.Statement .remoteAccessAtTarget := rfl
theorem Sys2Proof.Laws.Events.atomicOldValueReturn :
    Laws.Events.Statement .atomicOldValueReturn := rfl
theorem Sys2Proof.Laws.Events.linksRoleAnswer :
    Laws.Events.Statement .linksRoleAnswer := rfl
theorem Sys2Proof.Laws.Events.tlbiComplete :
    Laws.Events.Statement .tlbiComplete := rfl
theorem Sys2Proof.Laws.Events.anvilOperationRetire :
    Laws.Events.Statement .anvilOperationRetire := rfl
theorem Sys2Proof.Laws.Events.vectorTransferComplete :
    Laws.Events.Statement .vectorTransferComplete := rfl
theorem Sys2Proof.Laws.Events.hostPortDown :
    Laws.Events.Statement .hostPortDown := rfl
theorem Sys2Proof.Laws.Events.hostPortUp :
    Laws.Events.Statement .hostPortUp := rfl
theorem Sys2Proof.Laws.Events.powerLoss :
    Laws.Events.Statement .powerLoss := rfl
end

