-- ==== Sys2Proof/Laws/Step.lean ====
section
/-! SUPPORT. What a step can do, once: the ways a slot's turn goes, and that a step does to memory only what the meaning
of an instruction or an event, or the entry to a trap, does to it. -/

namespace Sys2Proof.Machine

/-- The passing of time in the counters writes no memory. -/
@[simp] theorem tickTime_mem (s : State) : (tickTime s).mem = s.mem := by
  simp only [tickTime]
  split
  · rfl
  · split
    · rfl
    · split <;> rfl

@[simp] theorem tick_mem (s : State) : (tick s).mem = s.mem := by simp [tick]

@[simp] theorem resume_mem (s : State) (c t : Nat) (next : Word) : (resume s c t next).mem = s.mem := by
  simp only [resume]; split <;> simp

@[simp] theorem landWord_mem (s : State) (p : Nat × Nat) : (landWord s p).mem = s.mem := by
  simp only [landWord]
  split
  · split <;> simp
  · rfl

@[simp] theorem landWords_mem (s : State) : (landWords s).mem = s.mem := foldl_mem landWord landWord_mem _ _

/-- A cycle that passes writes no memory: words are pushed, and events become due. -/
@[simp] theorem elapse_mem (s : State) : (elapse s).mem = s.mem := by simp [elapse]

@[simp] theorem askHost_mem (s : State) (half : Nat) (q : CacheReq) : (askHost s half q).mem = s.mem := by
  unfold askHost; split <;> simp

@[simp] theorem unparkDie_mem (s : State) (d : Nat) : (unparkDie s d).mem = s.mem := by
  unfold unparkDie; split <;> rfl

/-- An access wakes what it needs, and the waking writes no memory. -/
@[simp] theorem touchKey_mem (s : State) (key : Nat) : (touchKey s key).mem = s.mem := by
  unfold touchKey; split <;> simp

@[simp] theorem touchWalk_mem (s : State) (die asid va : Nat) : (touchWalk s die asid va).mem = s.mem :=
  foldl_mem touchKey touchKey_mem _ _

/-- The verification of checks poisons and logs, and writes no memory. -/
@[simp] theorem verify_mem (s : State) (key n die unit index : Nat) : (verify s key n die unit index).mem = s.mem :=
  foldl_mem _ (fun _ _ => by simp [originRecord]) _ _

@[simp] theorem crossDies_mem (s : State) (a b key n : Nat) : (crossDies s a b key n).mem = s.mem := by
  unfold crossDies; split <;> simp

/-- What the part writes of itself keeps the canonical form: a byte, and bytes. -/
theorem partPut_wf {s : State} (key : Nat) (b : Byte) (h : Memory.wf s.mem = true) :
    Memory.wf (partPut s key b).mem = true := by
  have hf : ∀ (u : State) (half : Nat) (l : List (Nat × Byte)), (foldHalf u half l).mem = u.mem := by
    intro u half l; unfold foldHalf; repeat' split
    all_goals simp
  simp only [partPut]
  split <;> simpa [hf] using memPut_wf key b h

theorem partWrite_wf {s t : State} {asid va : Nat} {bs : List Byte} (h : Memory.wf s.mem = true)
    (ht : partWrite s asid va bs = some t) : Memory.wf t.mem = true := by
  induction bs generalizing va t with
  | nil => cases ht; exact h
  | cons b r ih =>
    unfold partWrite at ht
    split at ht
    · cases ht
    · obtain ⟨u, hu, rfl⟩ := Option.map_eq_some_iff.mp ht
      exact partPut_wf _ _ (ih hu)

@[simp] theorem takeTurn_mem (s : State) (c t : Nat) : (s.takeTurn c t).mem = s.mem := by simp [State.takeTurn]

/-- A translation fills TLBs, and writes no memory. -/
@[simp] theorem fillTlb_mem (s : State) (c asid va : Nat) : (fillTlb s c asid va).mem = s.mem := by
  unfold fillTlb
  split
  · rfl
  · split
    · simp only []; split <;> simp [cacheWalk]
    · rfl

@[simp] theorem tlbFor_mem (s : State) (va : Word) : (s.tlbFor va).mem = s.mem := by simp [State.tlbFor]

@[simp] theorem crossFetch_mem (s : State) : (crossFetch s).mem = s.mem := by
  unfold crossFetch
  split
  · rfl
  · refine foldl_mem _ (fun u va => ?_) _ _
    split
    · rfl
    · split <;> simp

/-- A fetch fills the TLBs and the instruction cache, and writes no memory. -/
@[simp] theorem fetched_mem (s : State) : (fetched s).mem = s.mem := by
  simp only [fetched]
  repeat' split
  all_goals simp

@[simp] theorem fetchWaits_mem (s : State) : (fetchWaits s).mem = s.mem := by simp [fetchWaits]

/-- An instruction is run only in the state that its fetch leaves, and it is the one its parcels decode to. -/
theorem fetchIssue_run {s u : State} {i : Instr} (h : fetchIssue s = .run i u) :
    u = fetched s ∧ ∃ ps, fetchParcels s = .ok ps ∧ sleepingFetch s = none ∧ (decodeParcels ps).2 = .ok i ∧
      (s.slot.entry = true → isFrameParcel ps = true) := by
  unfold fetchIssue at h
  split at h
  · cases h
  · cases h
  · rename_i ps hp
    split at h
    · cases h
    · rename_i hz
      split at h
      · cases h
      · rename_i j hd
        split at h
        · cases h
        · rename_i he
          injection h with hi hu
          subst hi; subst hu
          exact ⟨rfl, ps, hp, hz, hd, fun e => by simpa [e] using he⟩

/-- What is taken instead of an instruction at a boundary is the end of a task, a wait for memory, or a trap. -/
theorem issue_act {s u : State} (h : issue s = .act u) :
    u = endTask s s.cur.1 s.cur.2 ∨ (∃ v, v.mem = s.mem ∧ u = fetchWaits v) ∨ ∃ v tr, v.mem = s.mem ∧ u = takeTrap v tr := by
  simp only [issue] at h
  split at h
  · cases h
  · split at h
    · injection h with h; exact .inl h.symm
    · repeat (split at h; · cases h)
      unfold fetchIssue at h
      split at h
      · injection h with h; exact .inr (.inr ⟨_, _, crossFetch_mem s, h.symm⟩)
      · injection h with h; exact .inr (.inl ⟨_, askHost_mem s _ _, h.symm⟩)
      · split at h
        · injection h with h; exact .inr (.inl ⟨_, touchKey_mem s _, h.symm⟩)
        · split at h
          · injection h with h; exact .inr (.inr ⟨_, _, fetched_mem s, h.symm⟩)
          · split at h
            · injection h with h; exact .inr (.inr ⟨_, _, fetched_mem s, h.symm⟩)
            · cases h

/-- An instruction is run only where nothing else is taken first. -/
theorem issue_run {s u : State} {i : Instr} (h : issue s = .run i u) : fetchIssue s = .run i u := by
  simp only [issue] at h
  repeat (split at h; · cases h)
  exact h

theorem issue_act_wf {s u : State} (hs : Memory.wf s.mem = true) (h : issue s = .act u) : Memory.wf u.mem = true := by
  obtain rfl | ⟨v, m, rfl⟩ | ⟨v, tr, m, rfl⟩ := issue_act h
  · simpa using hs
  · simpa [m] using hs
  · exact takeTrap_wf tr (by rwa [m])

/-- The core's turn is passed on where the slot only waits, and that writes no memory. -/
@[simp] theorem passOver_mem (s v : State) (c t : Nat) : (s.passOver v c t).mem = v.mem := by simp [State.passOver]

/-- Every meaning keeps memory's canonical form. -/
def MeaningsKeepMemory : Prop :=
  ∀ (i : Instr) (u v : State), Memory.wf u.mem = true → exec i u = .next v → Memory.wf v.mem = true

theorem happen_wf (he : MeaningsKeepMemory) {u v : State} {e : Event} (hu : Memory.wf u.mem = true)
    (hv : happen u e = .next v) : Memory.wf v.mem = true := by
  unfold happen at hv
  split at hv
  · exact he _ { u with ev := e.args } _ hu hv
  · injection hv with hv; subst hv; exact hu

theorem turn_wf (he : MeaningsKeepMemory) {u v : State} (hu : Memory.wf u.mem = true) (hv : turn u = .next v) :
    Memory.wf v.mem = true := by
  unfold turn at hv
  split at hv
  · injection hv with hv; subst hv; exact hu
  · rename_i w hw
    injection hv with hv; subst hv; exact issue_act_wf hu hw
  · exact happen_wf he hu hv
  · rename_i i w hw
    obtain ⟨rfl, -⟩ := fetchIssue_run (issue_run hw)
    exact he _ _ _ (by simpa using hu) hv

theorem coreTurn_wf (he : MeaningsKeepMemory) {u v : State} {c : Nat} {rest : List Turn} (hu : Memory.wf u.mem = true)
    (hv : coreTurn u c rest = .next v) : Memory.wf v.mem = true := by
  unfold coreTurn at hv
  split at hv
  · injection hv with hv; subst hv; exact hu
  · unfold State.afterTry at hv
    split at hv
    · rename_i w hw
      have hw := turn_wf he (by simpa using hu) hw
      injection hv with hv; subst hv
      split
      · simpa using hw
      · exact hw
    · rename_i o ho
      exact absurd hv (ho v)

theorem endCycle_wf (he : MeaningsKeepMemory) {u v : State} {rest : List Turn} (hu : Memory.wf u.mem = true)
    (hv : endCycle u rest = .next v) : Memory.wf v.mem = true := by
  unfold endCycle at hv
  split at hv
  · exact happen_wf he (by simpa using hu) hv
  · injection hv with hv; subst hv; simpa using hu

/-- A step keeps memory's canonical form where every meaning does. -/
theorem step_wf (he : MeaningsKeepMemory) {s t : State} (hs : Memory.wf s.mem = true) (h : step s = .next t) :
    Memory.wf t.mem = true := by
  unfold step at h
  split at h
  · exact happen_wf he (by simpa using hs) h
  · exact endCycle_wf he hs h
  · exact happen_wf he (by simpa using hs) h
  · split at h
    · exact endCycle_wf he hs h
    · exact coreTurn_wf he hs h
  · exact happen_wf he (by simpa using hs) h
  · split at h
    · exact coreTurn_wf he hs h
    · exact endCycle_wf he hs h

end Sys2Proof.Machine
end

