-- ==== Sys2Proof/Tests/Slice0.lean ====
section
/-! SUPPORT. Tests of the model: the words of every instruction from the manual's encoding tables, ill-formed terms that
the checks refuse, single steps, and a witness for the hypotheses of every statement. -/

namespace Sys2Proof.Machine

set_option Elab.async false

/-! ### Decoding: a word of every instruction, written out from R299, R300 and the encoding tables of chapter 19 -/

/-- The word decodes to the instruction. -/
def Tests.reads (p : Nat × Instr) : Bool :=
  match decodeParcels [p.1 % 2 ^ 16, p.1 / 2 ^ 16] with
  | (2, .ok i) => i == p.2
  | _ => false

/-- The parcel decodes to the instruction. -/
def Tests.readsShort (p : Nat × Instr) : Bool :=
  match decodeParcels [p.1] with
  | (1, .ok i) => i == p.2
  | _ => false

set_option maxRecDepth 20000 in
theorem test_decode_integer_1 : ([
    (0x805D3160, .add (.n 7) ⟨.n 3, true⟩ ⟨.q 5, false⟩), (0x805D3161, .sub (.n 7) ⟨.n 3, true⟩ ⟨.q 5, false⟩),
    (0x805D3162, .and (.n 7) ⟨.n 3, true⟩ ⟨.q 5, false⟩), (0x805D3163, .or (.n 7) ⟨.n 3, true⟩ ⟨.q 5, false⟩),
    (0x805D3164, .xor (.n 7) ⟨.n 3, true⟩ ⟨.q 5, false⟩), (0x805D3165, .shl (.n 7) ⟨.n 3, true⟩ ⟨.q 5, false⟩),
    (0x805D3166, .shr (.n 7) ⟨.n 3, true⟩ ⟨.q 5, false⟩), (0x805D3167, .sar (.n 7) ⟨.n 3, true⟩ ⟨.q 5, false⟩),
    (0x805D3168, .min (.n 7) ⟨.n 3, true⟩ ⟨.q 5, false⟩), (0x805D3169, .max (.n 7) ⟨.n 3, true⟩ ⟨.q 5, false⟩),
    (0x805D316A, .minu (.n 7) ⟨.n 3, true⟩ ⟨.q 5, false⟩), (0x805D316B, .maxu (.n 7) ⟨.n 3, true⟩ ⟨.q 5, false⟩),
    (0x805D316C, .mul (.n 7) ⟨.n 3, true⟩ ⟨.q 5, false⟩), (0x805D316D, .mulh (.n 7) ⟨.n 3, true⟩ ⟨.q 5, false⟩),
    (0x805D316E, .mulhu (.n 7) ⟨.n 3, true⟩ ⟨.q 5, false⟩), (0x815D3160, .div (.n 7) ⟨.n 3, true⟩ ⟨.q 5, false⟩),
    (0x815D3161, .divu (.n 7) ⟨.n 3, true⟩ ⟨.q 5, false⟩), (0x815D3162, .rem (.n 7) ⟨.n 3, true⟩ ⟨.q 5, false⟩),
    (0x815D3163, .remu (.n 7) ⟨.n 3, true⟩ ⟨.q 5, false⟩), (0x815D3E24, .clz (.n 7) ⟨.n 3, true⟩),
    (0x815D3E25, .ctz (.n 7) ⟨.n 3, true⟩), (0x815D3E26, .popc (.n 7) ⟨.n 3, true⟩),
    (0x815D3E27, .mov (.n 7) ⟨.n 3, true⟩), (0x814C0E0C, .ext .sw (.n 3) ⟨.q 0, false⟩),
    (0x815D316E, .sel (.n 7) ⟨.n 3, true⟩ ⟨.q 5, false⟩), (0x825D3FFB, .addi (.n 7) ⟨.n 3, true⟩ 0x7FB),
    (0x835D3FFB, .andi (.n 7) ⟨.n 3, true⟩ 0x7FB), (0x845D3FFB, .ori (.n 7) ⟨.n 3, true⟩ 0x7FB)] : List (Nat × Instr)).all Tests.reads = true := by decide

set_option maxRecDepth 20000 in
theorem test_decode_integer_2 : ([
    (0x855D3FFB, .xori (.n 7) ⟨.n 3, true⟩ 0x7FB), (0x865D3829, .shli (.n 7) ⟨.n 3, true⟩ 41),
    (0x875D3829, .shri (.n 7) ⟨.n 3, true⟩ 41), (0x885D3829, .sari (.n 7) ⟨.n 3, true⟩ 41),
    (0x895D3163, .cmp .ltu (.n 7) ⟨.n 3, true⟩ ⟨.q 5, false⟩), (0x8A5D3FF1, .cmpi .ne (.n 7) ⟨.n 3, true⟩ 0xFE),
    (0x8B5FFFFE, .li (.n 7) 0x3FFFE), (0x8C5EBEEF, .lih 7 2 0xBEEF), (0x8D5D3254, .bfx (.n 7) (.n 3) 9 20),
    (0x8E5D3254, .bfi 7 (.n 3) 9 20)] : List (Nat × Instr)).all Tests.reads = true := by decide

set_option maxRecDepth 20000 in
theorem test_decode_floating_point : ([
    (0x915D3160, .fadd .s (.n 7) ⟨.n 3, true⟩ ⟨.q 5, false⟩),
    (0x915D3161, .fsub .s (.n 7) ⟨.n 3, true⟩ ⟨.q 5, false⟩),
    (0x915D3162, .fmul .s (.n 7) ⟨.n 3, true⟩ ⟨.q 5, false⟩),
    (0x915D3163, .fdiv .s (.n 7) ⟨.n 3, true⟩ ⟨.q 5, false⟩),
    (0x915D3164, .fmin .s (.n 7) ⟨.n 3, true⟩ ⟨.q 5, false⟩),
    (0x915D3165, .fmax .s (.n 7) ⟨.n 3, true⟩ ⟨.q 5, false⟩), (0x915D3E26, .fsqrt .s (.n 7) ⟨.n 3, true⟩),
    (0x915D3167, .fsgnj .s (.n 7) ⟨.n 3, true⟩ ⟨.q 5, false⟩),
    (0x915D3168, .fsgnn .s (.n 7) ⟨.n 3, true⟩ ⟨.q 5, false⟩),
    (0x915D3169, .fsgnx .s (.n 7) ⟨.n 3, true⟩ ⟨.q 5, false⟩), (0x915D3E2A, .fclass .s (.n 7) ⟨.n 3, true⟩),
    (0x935D3160, .fma .s 7 ⟨.n 3, true⟩ ⟨.q 5, false⟩), (0x935D3161, .fms .s 7 ⟨.n 3, true⟩ ⟨.q 5, false⟩),
    (0x935D3162, .fnma .s 7 ⟨.n 3, true⟩ ⟨.q 5, false⟩), (0x935D3163, .fnms .s 7 ⟨.n 3, true⟩ ⟨.q 5, false⟩),
    (0x94015589, .fcmp .lt .s .queue ⟨.n 5, false⟩ ⟨.n 6, false⟩),
    (0x95553908, .fcvt 0x24 true (.mode .rne) (.n 5) ⟨.n 3, false⟩),
    (0x96553E03, .frint .d (.mode .rdn) (.n 5) ⟨.n 3, false⟩)] : List (Nat × Instr)).all Tests.reads = true := by decide

set_option maxRecDepth 20000 in
theorem test_decode_gaussian : ([
    (0x985D3160, .gmul (.n 7) ⟨.n 3, true⟩ ⟨.q 5, false⟩), (0x985D3161, .gdiv (.n 7) ⟨.n 3, true⟩ ⟨.q 5, false⟩),
    (0x985D3162, .gdamp (.n 7) ⟨.n 3, true⟩ ⟨.q 5, false⟩), (0x985D3163, .gmarg (.n 7) ⟨.n 3, true⟩ ⟨.q 5, false⟩),
    (0x985D3164, .gmargi (.n 7) ⟨.n 3, true⟩ ⟨.q 5, false⟩), (0x985D3E25, .gmean (.n 7) ⟨.n 3, true⟩)] : List (Nat × Instr)).all Tests.reads = true := by decide

set_option maxRecDepth 20000 in
theorem test_decode_control_and_memory_1 : ([
    (0xA0FFFFF6, .b 0xFFFFF6), (0xA1FFFFF6, .call 0xFFFFF6), (0xA24FFFFA, .bz ⟨.n 3, true⟩ 0x1FFFA),
    (0xA34FFFFA, .bnz ⟨.n 3, true⟩ 0x1FFFA), (0xA4013E20, .jr ⟨.n 3, true⟩), (0xA4013E21, .callr ⟨.n 3, true⟩),
    (0xA4038E02, .ret), (0xA4038E03, .tend), (0xA4038E04, .nop), (0xA55D3BFE, .ld .sh (.n 7) ⟨.n 3, true⟩ 0xFE),
    (0xA65D3CFE, .st .w (.n 7) ⟨.n 3, true⟩ 0xFE), (0xA75D3C69, .lda .uw (.n 7) ⟨.n 3, true⟩ .die 9),
    (0xA85D38A9, .str .b (.n 7) ⟨.n 3, true⟩ .system 9), (0xA95D3170, .atomAdd .d .release (.n 7) (.n 3) (.q 5)),
    (0xA95D3171, .atomAnd .d .release (.n 7) (.n 3) (.q 5)), (0xA95D3172, .atomOr .d .release (.n 7) (.n 3) (.q 5)),
    (0xA95D3173, .atomXor .d .release (.n 7) (.n 3) (.q 5)), (0xA95D3174, .atomMin .d .release (.n 7) (.n 3) (.q 5)),
    (0xA95D3175, .atomMax .d .release (.n 7) (.n 3) (.q 5)),
    (0xA95D3176, .atomMinu .d .release (.n 7) (.n 3) (.q 5)),
    (0xA95D3177, .atomMaxu .d .release (.n 7) (.n 3) (.q 5)), (0xAA5D3158, .cas .w .sc 7 (.n 3) (.q 5)),
    (0xAA5D3171, .swap .d .release (.n 7) (.n 3) (.q 5)), (0xAB800000, .fenceFull .device),
    (0xAB880000, .fenceAcquire .device), (0xAB900000, .fenceRelease .device), (0xAB040000, .fencei),
    (0xAC013800, .cflushClean ⟨.n 3, true⟩)] : List (Nat × Instr)).all Tests.reads = true := by decide

set_option maxRecDepth 20000 in
theorem test_decode_control_and_memory_2 : ([
    (0xAC013801, .cflushInv ⟨.n 3, true⟩), (0xAC013802, .cflushWbinv ⟨.n 3, true⟩)] : List (Nat × Instr)).all Tests.reads = true := by decide

set_option maxRecDepth 20000 in
theorem test_decode_messages_and_graphs_1 : ([
    (0xB0214C51, .send 0x21 (.n 3) (.q 5) true), (0xB1214C50, .spawn 0x21 (.n 3) (.q 5)),
    (0xB2214F80, .migrate 0x21 (.n 3)), (0xB3CF8000, .sbindOff 2), (0xB3CD3801, .sbindChan 2 ⟨.n 3, true⟩),
    (0xB3CF8002, .sbindCopy 2), (0xB4013E20, .cvgNote ⟨.n 3, true⟩), (0xB45F8E01, .cvgMax (.n 7)),
    (0xB45F8E02, .cvgCount (.n 7)), (0xB45F8E03, .cvgQuiet (.n 7)), (0xB4038E04, .cvgClear),
    (0xB55F8E00, .cut (.n 7)), (0xB55D3E21, .cutstat (.n 7) ⟨.n 3, true⟩), (0xB683C000, .barrive 0x41),
    (0xB683C001, .bwait 0x41), (0xB683C002, .bsync 0x41), (0xB6829803, .bjoin 0x41 (.n 3)),
    (0xB683C004, .bleave 0x41), (0xB683C005, .bstat 0x41), (0xB75D3E20, .hopen (.n 7) ⟨.n 3, true⟩),
    (0xB7013E21, .henter ⟨.n 3, true⟩), (0xB75D3E22, .hresolveC (.n 7) ⟨.n 3, true⟩),
    (0xB75D3E23, .hresolveR (.n 7) ⟨.n 3, true⟩), (0xB75D3E24, .hresolveX (.n 7) ⟨.n 3, true⟩),
    (0xB75D3E25, .hstat (.n 7) ⟨.n 3, true⟩), (0xB8038E00, .qend), (0xB8013E21, .vflag ⟨.n 3, true⟩),
    (0xB85F8E02, .time (.n 7))] : List (Nat × Instr)).all Tests.reads = true := by decide

set_option maxRecDepth 20000 in
theorem test_decode_messages_and_graphs_2 : ([
    (0xB95D3160, .lease (.n 7) ⟨.n 3, true⟩ ⟨.q 5, false⟩), (0xB95D3E21, .lstat (.n 7) ⟨.n 3, true⟩),
    (0xBA5D3E20, .vclaim (.n 7) ⟨.n 3, true⟩)] : List (Nat × Instr)).all Tests.reads = true := by decide

set_option maxRecDepth 20000 in
theorem test_decode_vector_arithmetic_1 : ([
    (0xC02846C0, .vaddI 2 8 4 ⟨6, true, true⟩), (0xC02846C1, .vsubI 2 8 4 ⟨6, true, true⟩),
    (0xC02846C2, .vmulI 2 8 4 ⟨6, true, true⟩), (0xC02846C3, .vminI 2 8 4 ⟨6, true, true⟩),
    (0xC02846C4, .vmaxI 2 8 4 ⟨6, true, true⟩), (0xC02846C5, .vminu 2 8 4 ⟨6, true, true⟩),
    (0xC02846C6, .vmaxu 2 8 4 ⟨6, true, true⟩), (0xC02846C7, .vand 2 8 4 ⟨6, true, true⟩),
    (0xC02846C8, .vor 2 8 4 ⟨6, true, true⟩), (0xC02846C9, .vxor 2 8 4 ⟨6, true, true⟩),
    (0xC02846CA, .vshl 2 8 4 ⟨6, true, true⟩), (0xC02846CB, .vshr 2 8 4 ⟨6, true, true⟩),
    (0xC02846CC, .vsar 2 8 4 ⟨6, true, true⟩), (0xC02806CD, .vmov 2 8 ⟨6, true, true⟩),
    (0xC12846C0, .vaddS 2 8 4 ⟨6, true, true⟩), (0xC12846C1, .vsubS 2 8 4 ⟨6, true, true⟩),
    (0xC12846C2, .vmulS 2 8 4 ⟨6, true, true⟩), (0xC12846C3, .vdivS 2 8 4 ⟨6, true, true⟩),
    (0xC12846C4, .vminS 2 8 4 ⟨6, true, true⟩), (0xC12846C5, .vmaxS 2 8 4 ⟨6, true, true⟩),
    (0xC12806C6, .vsqrtS 2 8 ⟨6, true, true⟩), (0xC22846C0, .vaddD 2 8 4 ⟨6, true, true⟩),
    (0xC22846C1, .vsubD 2 8 4 ⟨6, true, true⟩), (0xC22846C2, .vmulD 2 8 4 ⟨6, true, true⟩),
    (0xC22846C3, .vdivD 2 8 4 ⟨6, true, true⟩), (0xC22846C4, .vminD 2 8 4 ⟨6, true, true⟩),
    (0xC22846C5, .vmaxD 2 8 4 ⟨6, true, true⟩), (0xC22806C6, .vsqrtD 2 8 ⟨6, true, true⟩)] : List (Nat × Instr)).all Tests.reads = true := by decide

set_option maxRecDepth 20000 in
theorem test_decode_vector_arithmetic_2 : ([
    (0xC32846C4, .vfma .d 2 8 4 ⟨6, true, true⟩), (0xC32846C5, .vfms .d 2 8 4 ⟨6, true, true⟩),
    (0xC32846C6, .vfnma .d 2 8 4 ⟨6, true, true⟩), (0xC32846C7, .vfnms .d 2 8 4 ⟨6, true, true⟩),
    (0xC4012022, .vcmp .s .lt 0 1 2 ⟨0, false, false⟩), (0xC5312080, .vsel 3 1 2 0 false),
    (0xC642602A, .vcvt 0x2A 4 2 6 ⟨0, false, false⟩), (0xC7010084, .vred .maxI 1 ⟨0, true, false⟩)] : List (Nat × Instr)).all Tests.reads = true := by decide

set_option maxRecDepth 20000 in
theorem test_decode_vector_memory_and_tongs : ([
    (0xC8410150, .vbcast .d 4 ⟨0, false, false⟩ ⟨.n 5, false⟩), (0xC8220151, .vext .d 2 ⟨.n 5, false⟩),
    (0xC8300B82, .viota 3 ⟨0, true, false⟩), (0xC8010383, .vpopc 1 0 false),
    (0xC9200137, .vld .d true 2 ⟨0, false, false⟩ ⟨.n 3, false⟩),
    (0xCA1001A2, .vst .w false 1 ⟨0, false, false⟩ ⟨.n 10, false⟩),
    (0xCB3101C2, .vgather .w 3 1 ⟨0, false, false⟩ ⟨.n 12, false⟩),
    (0xCC3101C2, .vscatter .w 3 1 ⟨0, false, false⟩ ⟨.n 12, false⟩),
    (0xCD2101C2, .vatom .or 2 1 ⟨0, false, false⟩ ⟨.n 12, false⟩)] : List (Nat × Instr)).all Tests.reads = true := by decide

set_option maxRecDepth 20000 in
theorem test_decode_anvil : ([
    (0xE0013160, .xgather ⟨.n 3, true⟩ ⟨.q 5, false⟩), (0xE0013161, .xscatter ⟨.n 3, true⟩ ⟨.q 5, false⟩),
    (0xE0013162, .xcopy ⟨.n 3, true⟩ ⟨.q 5, false⟩), (0xE15D3E20, .xpop (.n 7) ⟨.n 3, true⟩),
    (0xE15D3E21, .xtry (.n 7) ⟨.n 3, true⟩), (0xE15D3E22, .xstat (.n 7) ⟨.n 3, true⟩),
    (0xE2013160, .aring ⟨.n 3, true⟩ ⟨.q 5, false⟩), (0xE3013160, .aadv ⟨.n 3, true⟩ ⟨.q 5, false⟩),
    (0xE35D3E21, .aadvStat (.n 7) ⟨.n 3, true⟩), (0xE4423AA0, .amm 4 2 3 10 true 1), (0xE54E0080, .azero 4 true),
    (0xE5054800, .ald 0 ⟨.n 5, false⟩ 0), (0xE5255170, .ast 2 ⟨.n 5, false⟩ 2 .dyn), (0xE6000000, .await)] : List (Nat × Instr)).all Tests.reads = true := by decide

set_option maxRecDepth 20000 in
theorem test_decode_system : ([
    (0xF05C04C0, .sysr (.n 7) 0x013), (0xF15C04C0, .sysw 0x013 (.n 7)), (0xF2ABCDEF, .trap 0xABCDEF),
    (0xF3000000, .tret), (0xF4013160, .tlbiPage ⟨.n 3, true⟩ ⟨.q 5, false⟩), (0xF4038151, .tlbiAsid ⟨.q 5, true⟩),
    (0xF4038E02, .tlbiAll), (0xF5ABCDEF, .brk 0xABCDEF)] : List (Nat × Instr)).all Tests.reads = true := by decide

set_option maxRecDepth 20000 in
theorem test_decode_short_forms : ([
    (0x0665, .add16 19 5), (0x0A65, .sub16 19 5), (0x0E65, .and16 19 5), (0x1265, .or16 19 5), (0x1665, .xor16 19 5),
    (0x1A65, .shl16 19 5), (0x1E65, .shr16 19 5), (0x2275, .mov16 19 5), (0x267D, .addi16 19 0x1D),
    (0x2BF6, .li16 0x3F6), (0x2E65, .cmpEq16 19 5), (0x3265, .cmpLt16 19 5), (0x3665, .ldD16 19 5),
    (0x3A65, .stD16 19 5), (0x3E65, .faddD16 19 5), (0x4265, .fsubD16 19 5), (0x4665, .fmulD16 19 5),
    (0x4A65, .gmul16 19 5), (0x4E7D, .bz16 19 0x1D), (0x527D, .bnz16 19 0x1D), (0x57F6, .b16 0x3F6),
    (0x5800, .ret16), (0x5C00, .tend16), (0x6009, .frame 9), (0x6400, .nop16)] : List (Nat × Instr)).all Tests.readsShort = true := by decide

/-! ### States for tests: core 0, slot 0 runs a task of launch 0, with every register of its frame full -/

/-- A task about to issue `w` at 0x10000. -/
def Tests.at (w : Nat) : State :=
  (State.reset.withFetchWord 32 w).modSlot fun sl =>
    { sl with win := { sl.win with act := List.replicate 32 (Reg.of 0) } }

/-- A task about to issue `nop`. -/
def Tests.st : State := Tests.at 0xA4038E04

/-- A task about to issue an instruction. -/
def Tests.run (i : Instr) : State := Tests.at ((encode i).foldr (fun p a => p + 2 ^ 16 * a) 0)

/-- Named register `r` holds `v`. -/
def Tests.reg (r : Nat) (v : Word) (s : State) : State :=
  s.modSlot fun sl => { sl with win := { sl.win with act := sl.win.act.set r (Reg.of v) } }

/-- Named register `r` is in a state of its own. -/
def Tests.fill (r : Nat) (f : Fill) (s : State) : State :=
  s.modSlot fun sl => { sl with win := { sl.win with act := sl.win.act.set r ⟨0, f⟩ } }

/-- An addition, and a task about to issue it whose first operand's value is still to come. -/
def Tests.add : Instr := .add (.n 3) ⟨.n 1, false⟩ ⟨.n 2, false⟩

def Tests.stuck : State := Tests.fill 1 (.empty (some 5)) (Tests.run Tests.add)

/-- The state after an outcome. -/
def Tests.after : Host.Outcome State Fault Refusal → State
  | .next t => t
  | _ => State.reset

def Tests.isNext : Host.Outcome State Fault Refusal → Bool
  | .next _ => true
  | _ => false

theorem Tests.ran (o : Host.Outcome State Fault Refusal) (h : Tests.isNext o = true) : o = .next (Tests.after o) := by
  cases o with
  | next t => rfl
  | fault _ => cases h
  | refused _ => cases h

/-- The place and the trap that a check of an address gives. -/
def Tests.place : Except Trap Place → Place
  | .ok p => p
  | .error _ => .peerSram 0

def Tests.trap {α : Type} : Except Trap α → Trap
  | .ok _ => { cause := .illegal }
  | .error t => t

/-- The trap that a fetch meets. -/
def Tests.fetchTrap {α : Type} : Except FetchStop α → Trap
  | .error (.trap t) => t
  | _ => { cause := .illegal }

/-- Source operand n`k`. -/
abbrev Tests.n (k : Fin 32) : SrcM := ⟨.n k, false⟩

/-- n1 = 7, n2 = 3, n3 = 0. -/
def Tests.nums : State := Tests.reg 1 7 (Tests.reg 2 3 Tests.st)

/-- n0 holds an address; n1 = 7. -/
def Tests.mem (va : Word) : State := Tests.reg 0 va (Tests.reg 1 7 Tests.st)

/-- Addresses: cached memory, the core's own scratchpad, the next core's scratchpad, a window of the own scratchpad, and
one that no page covers. -/
abbrev Tests.hbm : Word := 0x10100
abbrev Tests.own : Word := 0xFE00000000000100
abbrev Tests.next : Word := 0xFE00001000000100
abbrev Tests.win : Word := 0xFE00000100000100
abbrev Tests.hole : Word := 0x20000

/-- Bytes in memory. -/
def Tests.put (a : Nat) (l : List Byte) (s : State) : State := { s with mem := memPutBytes s.mem a l }

/-- The page of the pc lies at the start of host memory. -/
def Tests.hostPage (s : State) : State :=
  { s.modMyCore fun k => { k with tlb := [⟨0, 1, 3, 0x1BF⟩] } with cfg := { port0 := some .cxl } }

/-- The slot, the core and the launch of the task, changed. -/
abbrev Tests.sl (s : State) (f : Slot → Slot) : State := s.modSlot f
abbrev Tests.co (s : State) (f : Core → Core) : State := s.modMyCore f
def Tests.la (s : State) (f : Launch → Launch) : State :=
  { s with launches := tset s.launches 0 (f ((tget s.launches 0).getD { lr := [], queue := 0 })) }

/-- What trap entry saved of a task in a handler. -/
def Tests.shadow : Shadow :=
  { queue := List.replicate 16 (Reg.of 1), args := List.replicate 8 (Reg.of 2), priv := .user, fpCtrl := 0, hypCur := 0
    ret := none, k := 32, links := [], mark := 0 }

/-- A kernel handler, come to by a trap, whose cause has been read or not. -/
def Tests.handler (read : Bool) : State :=
  Tests.st.modSlot fun sl =>
    { sl with priv := .kernel, shadow := some { Tests.shadow with causeRead := read }, wdog := 9
              win := { sl.win with below := some ⟨List.replicate 24 (Reg.of 3), none⟩ } }

/-- The frame below is resident, and the spill area has room for `n` records in the core's scratchpad. -/
def Tests.deep (n : Nat) (s : State) : State :=
  s.modSlot fun sl =>
    { sl with win := { sl.win with below := some ⟨List.replicate 24 (Reg.of 3), none⟩, links := [32] }
              spillCount := n, spillBase := 0x4000 }

/-- The core has an L1, which holds the line of the address that `Tests.hbm` names in the given state. -/
def Tests.line (x : Moesi) (s : State) : State :=
  s.modMyCore fun k => { k with lsplit := 1, l1 := [(0x10100 / 128, { st := x })] }

/-- A remote access of the task to `key` with number 5. -/
def Tests.remote (k : RemoteKind) (key size : Nat) (st : RemoteStage) : Remote :=
  { core := 0, slot := 0, kind := k, addr := 0x10100, key := key, size := size, data := 9, launch := 0, asid := 0, stage := st }

/-- A journal entry of the task. -/
def Tests.entry : JEntry := { used := true, size := 3, key := 0x10100, addr := 0x10100 }

/-- The task has a posted store under way. -/
def Tests.posted (j : JEntry) (s : State) : State := s.modMyCore fun k => { k with journal := k.journal.set 0 j }

/-- A launch of two ranks, with its barriers. -/
def Tests.ranks (b : Table Barrier) (s : State) : State :=
  Tests.la s fun l => { l with cores := [0, 1], lr := l.lr.set 10 2, barriers := b }

/-- A live tag 3 of the launch. -/
def Tests.hyp (st : TagState) (s : State) : State := { s with hyp := [(3, ⟨0, 0, 1, st, 0, false, 0⟩)] }

/-- Field `i` of the launch record is `v`. -/
def Tests.lr (i : Nat) (v : Word) (s : State) : State := Tests.la s fun l => { l with lr := l.lr.set i v }

/-- The task runs kernel code. -/
def Tests.kern (s : State) : State := s.modSlot fun sl => { sl with priv := .kernel }

/-- A task with 8 lanes: v3 holds offsets of 8 bytes, and element i of every other vr is r + i. -/
def Tests.vec : State :=
  (Tests.mem Tests.own).modSlot fun sl =>
    { sl with
      vl := 8, vasked := 8, vclaimed := true
      vregs := (List.range 16).map fun r => (List.range 64).map fun i => BitVec.ofNat 32 (if r = 3 then 8 * i else r + i) }

/-- Every element takes part. -/
abbrev Tests.all : VMask := ⟨0, false, false⟩

/-- Words in the core's scratchpad, from the address that `Tests.own` names on. -/
def Tests.words (l : List Nat) (s : State) : State :=
  { s with mem := memPutBytes s.mem (sramKey 0 0 0x100) (l.map fun x => leBytes x 8).flatten }

/-- A good descriptor of a gather of two elements. -/
def Tests.desc : List Nat := [0xFE00000000000200, 0x600000002, 0xFE00000000000400, 8, 0xFE00000000000800, 8, 0, 0]

/-- A command of the task. -/
def Tests.cmd : Command := { slot := 0, launch := 0, asid := 0, user := true, kind := .gather, tag := 7, desc := [] }

/-- The core holds a command. -/
def Tests.holding (x : Command) (s : State) : State := s.modMyCore fun k => { k with commands := [(5, x)] }

/-- An operand ring in the hearth's pool. -/
def Tests.ringOf (mode : Nat) : Ring := { base := sramKey 0 8 0, slots := 4, mode := mode, head := 0, tail := 1, read := 0 }

/-- The hearth's rings 1 and 2 are in use, and the core owns tiles 0 and 1. -/
def Tests.anvil (mode : Nat) (s : State) : State :=
  (Tests.la s fun l => { l with lr := l.lr.set 15 (3 * 2 ^ 48) }).modHearth 0 fun h =>
    { h with held := { h.held with rings := (h.held.rings.set 1 (some (Tests.ringOf mode))).set 2 (some (Tests.ringOf mode)) } }

/-- With no trap enabled no flags trap. -/
theorem Tests.untrapped (sl : Slot) (h : sl.fpCtrl = 0) (fl : Nat) : sl.traps fl = false := by simp [Slot.traps, h]

/-- An event of slot 0 of core 0 with further data. -/
def Tests.evt (e : Args) (s : State) : State := { s with ev := e }

/-- A stall of the task. -/
def Tests.stall (x : Stall) (s : State) : State := s.modSlot fun sl => { sl with stall := x }

def Tests.access (r : Remote) (s : State) : State := { s with remotes := [(5, r)], ev := { s.ev with id := 5 } }

/-- A message of class 2 to core 0, and it on its way. -/
def Tests.msg : Msg := mkMsg (coreHandle 0) 2 (headerHi 0 63 0 false 0 0 1) [7]

def Tests.transit (t : Transit) (s : State) : State := { s with transits := [(5, t)], ev := { s.ev with id := 5 } }

/-- Launch 0 is resident on core 0. -/
def Tests.home (s : State) : State := s.modMyCore fun k => { k with resident := some 0, assigned := [0] }

/-- ASID 0 maps the low addresses to themselves, and the class table at 0x60000 holds classes 2 and 255. -/
def Tests.tables (cls : Nat) (s : State) : State :=
  let put := fun (m : List Host.Cell) (p : Nat × Nat) => memPutBytes m p.1 (leBytes p.2 8)
  { Tests.lr 3 0x60000 s with
    asidBase := 0x40000
    mem := [(0x40000, 0x48001), (0x48000, 0x50001), (0x50000, 0xBF), (0x60020, 0x10200), (0x60028, cls)].foldl put s.mem }

/-- Core 0 holds the message, and has a free slot. -/
def Tests.inbox (m : Msg) (s : State) : State :=
  (Tests.home s).modMyCore fun k => { k with hwq := [{ msg := m, arrival := 5, since := 0 }], slots := [] }

/-- Launch 0. -/
def Tests.l0 (s : State) : Launch := (s.launch? 0).getD { lr := [], queue := 0 }

/-- Dwords in memory, each at its address. -/
def Tests.dwords (l : List (Nat × Nat)) (s : State) : State :=
  { s with mem := l.foldl (fun m p => memPutBytes m p.1 (leBytes p.2 8)) s.mem }

/-- A launch record that passes every check, under ASID 0. -/
def Tests.record : List Word :=
  [0, 0, 0, 0x60000, 0x100, 0, 0, 0, 0, 0, 1, 0, 32, 0, 0x100, 0, 0, 0, 0, 0, 0, 0, 0, 0, 0, 0, 0, 0, 0, 0x80000, 0, 0]

/-- A part that runs: queue 1 has a ring of 64 dwords at 0x71000 with the given ones in it, and ASID 0 has its kernel
descriptor. -/
def Tests.queue (ring : List Nat) (x : Queue) (s : State) : State :=
  { Tests.dwords ([(0x70040, 0x719), (0x70048, 0x71000), (0x40008, 0x62001), (0x62000, 0x10000), (0x62008, 0x90000),
      (0x62010, 1024)] ++ (ring.zipIdx.map fun p => (0x71000 + 8 * p.2, p.1))) (Tests.tables 0x100000064 s) with
    boot := .running, queueBase := 0x70000, queues := [(1, x)], ev := { queue := 1 } }

/-- A queue that runs to index `n`. -/
abbrev Tests.q (n : Nat) : Queue := { enabled := true, latched := n, shadow := Tests.record }

/-- A context that was saved, with one message queued. -/
def Tests.saved : Saved :=
  { asid := 0, seq := 1, chunkMap := [], scratch := [(0x100, 7)], poison := [], hwq := [{ msg := Tests.msg, arrival := 5, since := 0 }]
    lsplit := 0, arrLimit := 32, ovfBase := 0, ovfSize := 0, ringHead := 0, ring := [], deadCount := 0, spawnLimit := 16
    tiles := [], cvg := (1, 2, 3, 4, 5), fmtWin := List.replicate 15 1, spill := [], traps := [], tongs := [] }

/-- `n` tags from `i` on, all live, of another launch. -/
def Tests.tags : Nat → Nat → Table Tag
  | 0, _ => []
  | n + 1, i => (i, ⟨1, 0, 1, .live, 0, false, 0⟩) :: Tests.tags n (i + 1)

theorem Tests.tags_live (n i j : Nat) (h : i ≤ j) (k : j < i + n) :
    tget (Tests.tags n i) j = some ⟨1, 0, 1, .live, 0, false, 0⟩ := by
  induction n generalizing i with
  | zero => omega
  | succ n ih =>
    by_cases e : i = j
    · simp [Tests.tags, tget, e]
    · simp only [Tests.tags, tget, e, if_false]
      exact ih (i + 1) (by omega) (by omega)

theorem Tests.none_free (s : State) (n i : Nat) (h : ∀ j, i ≤ j → j < i + n → (s.tag j).state = .live) :
    lowestFree s n i = none := by
  induction n generalizing i with
  | zero => rfl
  | succ n ih =>
    simp only [lowestFree, h i (by omega) (by omega)]
    exact ih (i + 1) fun j a b => h j (by omega) (by omega)

theorem Tests.full (s : State) (e : s.hyp = Tests.tags 4096 0) : lowestFree s 4095 1 = none :=
  Tests.none_free s 4095 1 fun j a b => by simp only [State.tag, e, Tests.tags_live 4096 0 j (by omega) (by omega), Option.getD]

/-- An issue turn that runs an instruction. -/
def Tests.isRun (i : Instr) : Issue → Bool
  | .run j _ => i == j
  | _ => false

theorem Tests.runs {i : Instr} {s : State} (o : Issue) (h : Tests.isRun i o = true) :
    o = .run i (match o with | .run _ u => u | _ => s) := by
  cases o with
  | run j u => simp [Tests.isRun] at h; simp [h]
  | _ => cases h

theorem Tests.ofAll {α : Type} (p : α → Bool) (o : Option α) (h : o.all p = true) : ∀ a, o = some a → p a = true := by
  rintro a rfl
  exact h

theorem Tests.only {α : Type} {o : Option α} {a x : α} (e : o = some a) (h : o = some x) : x = a :=
  Option.some.inj (h.symm.trans e)

/-- No launch is resident on any core that the state lists, and the state of a core it does not list is the reset one. -/
theorem Tests.noResident {s : State} (h : (s.cores.all fun p => p.2.resident.isNone) = true) (c : Nat) :
    (s.core c).resident = none := by
  have aux : ∀ l : Table Core, (l.all fun p => p.2.resident.isNone) = true → ((tget l c).getD {}).resident = none := by
    intro l
    induction l with
    | nil => intro _; rfl
    | cons p l ih =>
      intro e
      simp only [List.all_cons, Bool.and_eq_true, Option.isNone_iff_eq_none] at e
      by_cases k : p.1 = c
      · simp [tget, k, e.1]
      · simpa [tget, k] using ih e.2
  exact aux s.cores h

/-! ### Ill-formed terms, one for each check -/

theorem test_ill_formed : ([
    .bfx (.n 0) (.n 0) 60 4, .bfi 0 (.n 0) 1 63, .fcvt 0x0A false .dyn (.n 0) (Tests.n 0),
    .fcvt 0x06 true .dyn (.n 0) (Tests.n 0), .barrive 96, .bwait 96, .bsync 127, .bleave 96, .bstat 100,
    .bjoin 96 (.n 0), .vcmp .i .un 0 1 2 Tests.all, .vcmp .u .un 0 1 2 Tests.all, .vcvt 0x05 1 2 0 Tests.all,
    .vcvt 0x16 1 2 3 Tests.all, .amm 0 1 2 13 false 0, .amm 0 1 2 11 true 0, .amm 1 1 2 0 false 0,
    .azero 3 false, .ald 5 (Tests.n 0) 0, .ast 7 (Tests.n 0) 0 .dyn] : List Instr).all (fun i => !WellFormed i) = true := by
  decide

theorem test_well_formed : ([
    .bfx (.n 0) (.n 0) 60 3, .bfi 0 (.n 0) 1 62, .fcvt 0x24 true .dyn (.n 0) (Tests.n 0), .barrive 95,
    .vcmp .s .un 0 1 2 Tests.all, .vcvt 0x24 1 2 3 Tests.all, .amm 1 1 2 12 true 0, .amm 2 1 2 0 false 0,
    .azero 3 true, .ald 5 (Tests.n 0) 1] : List Instr).all WellFormed = true := by decide

/-! ### Single steps, most of them the manual's worked examples -/

/-- The value that the instruction pushes, from n1 and n2. -/
def Tests.pushed (i : Instr) (a b : Word) (f : State → State := id) : Word :=
  ((Tests.after (exec i (f (Tests.reg 1 a (Tests.reg 2 b Tests.st))))).slot.queue.getD 0 (Reg.of 0)).val

/-- The flags that it raises. -/
def Tests.raised (i : Instr) (a b : Word) : Word :=
  (Tests.after (exec i (Tests.reg 1 a (Tests.reg 2 b Tests.st)))).slot.fpStat

/-- What the task is owed by it. -/
def Tests.owed (i : Instr) (a b : Word) : Option OwedKind :=
  ((Tests.after (exec i (Tests.reg 1 a (Tests.reg 2 b Tests.st)))).slot.owed.head?).map (·.kind)

abbrev Tests.bin (f : Dst → SrcM → SrcM → Instr) : Instr := f (.n 3) (Tests.n 1) (Tests.n 2)
abbrev Tests.un (f : Dst → SrcM → Instr) : Instr := f (.n 3) (Tests.n 1)

/-- R86: sums wrap. -/
theorem test_add_wraps : Tests.pushed (Tests.bin .add) 0xFFFFFFFFFFFFFFFF 2 = 1 := by decide +kernel
/-- The divisions of chapter 21. -/
theorem test_div : Tests.owed (Tests.bin .div) (-7) 2 = some (.value (-3)) := by decide +kernel
theorem test_rem : Tests.owed (Tests.bin .rem) (-7) 2 = some (.value (-1)) := by decide +kernel
theorem test_divu : Tests.owed (Tests.bin .divu) 0xFFFFFFFFFFFFFFF9 2 = some (.value 0x7FFFFFFFFFFFFFFC) := by decide +kernel
theorem test_remu : Tests.owed (Tests.bin .remu) 0xFFFFFFFFFFFFFFF9 2 = some (.value 1) := by decide +kernel
/-- R335. -/
theorem test_ext_sb : Tests.pushed (Tests.un (.ext .sb)) 0x80 0 = 0xFFFFFFFFFFFFFF80 := by decide +kernel
theorem test_ext_uh : Tests.pushed (Tests.un (.ext .uh)) 0x12345 0 = 0x2345 := by decide +kernel
/-- The multiplies of chapter 22. -/
theorem test_mul : Tests.pushed (Tests.bin .mul) 0xFFFFFFFFFFFFFFFF 2 = 0xFFFFFFFFFFFFFFFE := by decide +kernel
theorem test_mulh : Tests.pushed (Tests.bin .mulh) 0xFFFFFFFFFFFFFFFF 2 = 0xFFFFFFFFFFFFFFFF := by decide +kernel
theorem test_mulhu : Tests.pushed (Tests.bin .mulhu) 0xFFFFFFFFFFFFFFFF 2 = 1 := by decide +kernel
/-- The shifts of chapter 23. -/
theorem test_shl : Tests.pushed (Tests.bin .shl) 5 65 = 10 := by decide +kernel
theorem test_sari : Tests.pushed (.sari (.n 3) (Tests.n 1) 63) 0x8000000000000000 0 = 0xFFFFFFFFFFFFFFFF := by
  decide +kernel
/-- The constants of chapter 22: `li` and `lih`. -/
theorem test_li : Tests.pushed (.li (.n 4) 52719) 0 0 = 0xCDEF := by decide +kernel
theorem test_lih : ((Tests.after (exec (.lih 1 1 0x89AB) (Tests.reg 1 0xCDEF Tests.st))).slot.win.act.getD 1 (Reg.of 0)).val
    = 0x89ABCDEF := by decide +kernel
/-- The floating-point examples of chapter 21. -/
theorem test_fdiv_rne : (Tests.pushed (Tests.bin (.fdiv .s)) 0x3F800000 0x40400000,
    Tests.raised (Tests.bin (.fdiv .s)) 0x3F800000 0x40400000) = (0x3EAAAAAB, 1) := by decide +kernel
theorem test_fdiv_rtz : Tests.pushed (Tests.bin (.fdiv .s)) 0x3F800000 0x40400000
    (fun s => s.modSlot fun sl => { sl with fpCtrl := 1 }) = 0x3EAAAAAA := by decide +kernel
theorem test_fclass_s : Tests.pushed (Tests.un (.fclass .s)) 1 0 = 0x80 := by decide +kernel
theorem test_fclass_d : Tests.pushed (Tests.un (.fclass .d)) 0x7FF4000000000000 0 = 1 := by decide +kernel
theorem test_frint_d : [Rounding.rne, .rdn, .rna, .rtz, .rup].map (fun r =>
      Tests.pushed (Tests.un (.frint .d (.mode r))) 0xC004000000000000 0) =
    [0xC000000000000000, 0xC008000000000000, 0xC008000000000000, 0xC000000000000000, 0xC000000000000000] := by
  decide +kernel
theorem test_frint_s : (Tests.pushed (Tests.un (.frint .s (.mode .rup))) 0xBE800000 0,
    Tests.raised (Tests.un (.frint .s (.mode .rup))) 0xBE800000 0) = (0x80000000, 1) := by decide +kernel
theorem test_fsqrt_s : (Tests.pushed (Tests.un (.fsqrt .s)) 0x40000000 0,
    Tests.raised (Tests.un (.fsqrt .s)) 0x40000000 0) = (0x3FB504F3, 1) := by decide +kernel
theorem test_fsqrt_d : Tests.pushed (Tests.un (.fsqrt .d)) 0x4010000000000000 0 = 0x4000000000000000 := by decide +kernel
/-- The quotient of messages of chapter 22. -/
theorem test_gdiv : Tests.pushed (Tests.bin .gdiv) 0x409000003FC00000 0x3FC000003F000000 = 0x404000003F800000 := by
  decide +kernel
/-- The conversion of chapter 24: 10.0 by 0.25 with zero point 128, inexact. -/
theorem test_vcvt :
    let t := Tests.after (exec (.vcvt 0x2A 1 2 3 Tests.all) (Tests.vec.modSlot fun sl =>
      { sl with vregs := ((sl.vregs.set 1 (List.replicate 64 128)).set 2 (List.replicate 64 0x41200000)).set 3
                  (List.replicate 64 0x3E800000) }))
    (t.slot.velem 1 7, (t.myCore.lanes.map (·.flags))) = (130, [1]) := by decide +kernel

/-- The handle of chapter 2: device 63, hearth 37, core 5, slot 12, generation 3, and its header word in class 7. -/
theorem test_handle : (handle 63 37 5 12 3, (mkMsg (handle 63 37 5 12 3) 7 0 []).lo) =
    (0xFC25A00180600000, 0xFC25A00180600007) := by decide +kernel

/-- The rank target of chapter 8: class 1 to the core of rank 1. -/
theorem test_rank : (mkMsg (coreHandle 1) 1 0 []).lo = 0xFC003FFFE0000001 := by decide +kernel

/-- The example of R206: two claimant cores with weights 3 and 1 and one task on each; a claim of 40 on the first. -/
theorem test_vclaim :
    let s := (Tests.reg 1 40 Tests.st).modCore 1 fun k => { k with vshare := 1, slots := [(0, { held := true, vclaimed := true })] }
    (Tests.after (exec (.vclaim (.n 4) (Tests.n 1)) (s.modMyCore fun k => { k with vshare := 3 }))).slot.vl = 32 := by
  decide +kernel

/-! ### The hypotheses of every statement are met -/

/-- Hypotheses of `Obligations.DecodeEncode` are met. -/
theorem witness_DecodeEncode :
    (∃ (i : Instr), WellFormed i = true ∧ i.isEvent = false) :=
  ⟨.add (.n 3) (Tests.n 1) (Tests.n 2), by decide +kernel⟩

/-- Hypotheses of `Obligations.StepRunsDecoded` are met. -/
theorem witness_StepRunsDecoded :
    (∃ (s : State), ∃ (ps : List Nat), ∃ (n : Nat), ∃ (i : Instr), ∃ (u : State), ∃ (c : Nat), ∃ (k : Nat), ∃ rest, ∃ (v : State), ((u.turns = [] ∧ u.agenda = [] ∧ nextCore u = some c ∧ rest = []) ∨ (u.turns = ⟨0, .issue c⟩ :: rest ∧ u.issued c = false)) ∧ exec i (fetched s) = .next v ∧ s.issues = true ∧ fetchParcels s = .ok ps ∧ sleepingFetch s = none ∧ (s.slot.entry = true → isFrameParcel ps = true) ∧ decodeParcels ps = (n, .ok i) ∧ u.timers = [] ∧ nextSlot u c = some k ∧ { u with turns := rest }.takeTurn c k = s ∧ (u.slotAt c k).stall ≠ .held ∧ (v.slotAt c k).waiting = false) :=
  ⟨(Tests.st).takeTurn 0 0, [0x8E04, 0xA403], 2, .nop, Tests.st, 0, 0, [], Tests.after (exec (.nop) (fetched ((Tests.st).takeTurn 0 0 : State))), (.inl (by decide +kernel)), (Tests.ran _ (by decide +kernel)), by decide +kernel⟩

/-- Hypotheses of `Obligations.StepRunsDecoded` are met. -/
theorem witness_StepRunsDecoded_2 :
    (∃ (s : State), ∃ (ps : List Nat), ∃ (n : Nat), ∃ (i : Instr), ∃ (u : State), ∃ (c : Nat), ∃ (k : Nat), ∃ rest, ∃ (v : State), ((u.turns = [] ∧ u.agenda = [] ∧ nextCore u = some c ∧ rest = []) ∨ (u.turns = ⟨0, .issue c⟩ :: rest ∧ u.issued c = false)) ∧ exec i (fetched s) = .next v ∧ s.issues = true ∧ fetchParcels s = .ok ps ∧ sleepingFetch s = none ∧ (s.slot.entry = true → isFrameParcel ps = true) ∧ decodeParcels ps = (n, .ok i) ∧ u.timers = [] ∧ nextSlot u c = some k ∧ { u with turns := rest }.takeTurn c k = s ∧ (u.slotAt c k).stall ≠ .held ∧ (v.slotAt c k).waiting = false) :=
  ⟨(Tests.st).takeTurn 0 0, [0x8E04, 0xA403], 2, .nop, { Tests.st with turns := [⟨0, .issue 0⟩] }, 0, 0, [], Tests.after (exec (.nop) (fetched ((Tests.st).takeTurn 0 0 : State))), (.inr (by decide +kernel)), (Tests.ran _ (by decide +kernel)), by decide +kernel⟩

/-- Hypotheses of `Obligations.StepRunsDecoded` are met. -/
theorem witness_StepRunsDecoded_3 :
    (∃ (s : State), ∃ (ps : List Nat), ∃ (n : Nat), ∃ (i : Instr), ∃ (u : State), ∃ (c : Nat), ∃ (k : Nat), ∃ rest, ∃ (v : State), ((u.turns = [] ∧ u.agenda = [] ∧ nextCore u = some c ∧ rest = []) ∨ (u.turns = ⟨0, .issue c⟩ :: rest ∧ u.issued c = false)) ∧ exec i (fetched s) = .next v ∧ ((u.slotAt c k).stall = .held ∨ (v.slotAt c k).waiting = true) ∧ s.issues = true ∧ fetchParcels s = .ok ps ∧ sleepingFetch s = none ∧ (s.slot.entry = true → isFrameParcel ps = true) ∧ decodeParcels ps = (n, .ok i) ∧ u.timers = [] ∧ nextSlot u c = some k ∧ { u with turns := rest }.takeTurn c k = s) :=
  ⟨(Tests.stall .held Tests.st).takeTurn 0 0, [0x8E04, 0xA403], 2, .nop, Tests.stall .held Tests.st, 0, 0, [], Tests.after (exec (.nop) (fetched ((Tests.stall .held Tests.st).takeTurn 0 0 : State))), (.inl (by decide +kernel)), (Tests.ran _ (by decide +kernel)), (.inl (by decide +kernel)), by decide +kernel⟩

/-- Hypotheses of `Obligations.StepRunsDecoded` are met. -/
theorem witness_StepRunsDecoded_4 :
    (∃ (s : State), ∃ (ps : List Nat), ∃ (n : Nat), ∃ (i : Instr), ∃ (u : State), ∃ (c : Nat), ∃ (k : Nat), ∃ rest, ∃ (v : State), ((u.turns = [] ∧ u.agenda = [] ∧ nextCore u = some c ∧ rest = []) ∨ (u.turns = ⟨0, .issue c⟩ :: rest ∧ u.issued c = false)) ∧ exec i (fetched s) = .next v ∧ ((u.slotAt c k).stall = .held ∨ (v.slotAt c k).waiting = true) ∧ s.issues = true ∧ fetchParcels s = .ok ps ∧ sleepingFetch s = none ∧ (s.slot.entry = true → isFrameParcel ps = true) ∧ decodeParcels ps = (n, .ok i) ∧ u.timers = [] ∧ nextSlot u c = some k ∧ { u with turns := rest }.takeTurn c k = s) :=
  ⟨Tests.stuck.takeTurn 0 0, encode Tests.add, 2, Tests.add, { Tests.stuck with turns := [⟨0, .issue 0⟩] }, 0, 0, [], Tests.after (exec (Tests.add) (fetched (Tests.stuck.takeTurn 0 0 : State))), (.inr (by decide +kernel)), (Tests.ran _ (by decide +kernel)), (.inr (by decide +kernel)), by decide +kernel⟩

/-- Hypotheses of `Obligations.StepTakesEvent` are met. -/
theorem witness_StepTakesEvent :
    (∃ (s : State), ∃ rest, ∃ e, e.kind.isEvent = true ∧ s.timers = e :: rest) ∧
    (∃ (s : State), ∃ rest, ∃ e, s.timers = [] ∧ e.kind.isEvent = true ∧ s.turns = ⟨0, .event e⟩ :: rest) ∧
    (∃ (s : State), ∃ n, ∃ a, ∃ c, ∃ rest, ∃ e, ∃ cl, (s.turns = ⟨n + 1, a⟩ :: rest ∨ (s.turns = ⟨0, .issue c⟩ :: rest ∧ s.issued c = true) ∨ (s.turns = [] ∧ s.agenda = [] ∧ nextCore s = none)) ∧ s.timers = [] ∧ e.kind.isEvent = true ∧ s.closing = e :: cl) ∧
    (∃ (s : State), ∃ n, ∃ a, ∃ c, ∃ rest, ∃ e, ∃ cl, (s.turns = ⟨n + 1, a⟩ :: rest ∨ (s.turns = ⟨0, .issue c⟩ :: rest ∧ s.issued c = true) ∨ (s.turns = [] ∧ s.agenda = [] ∧ nextCore s = none)) ∧ s.timers = [] ∧ e.kind.isEvent = true ∧ s.closing = e :: cl) ∧
    (∃ (s : State), ∃ n, ∃ a, ∃ rest, s.timers = [] ∧ s.closing = [] ∧ s.turns = ⟨n + 1, a⟩ :: rest) ∧
    (∃ (s : State), ∃ c, ∃ rest, s.timers = [] ∧ s.closing = [] ∧ s.turns = ⟨0, .issue c⟩ :: rest ∧ s.issued c = true) ∧
    (∃ (s : State), ∃ rest, ∃ e, s.timers = [] ∧ s.turns = [] ∧ e.kind.isEvent = true ∧ s.agenda = e :: rest) ∧
    (∃ (s : State), s.timers = [] ∧ s.turns = [] ∧ s.agenda = [] ∧ nextCore s = none ∧ s.closing = []) :=
  ⟨⟨{ Tests.st with timers := [⟨.hostPortDown, {}⟩] }, [], ⟨.hostPortDown, {}⟩, by decide +kernel⟩,
    ⟨{ Tests.st with turns := [⟨0, .event ⟨.hostPortDown, {}⟩⟩] }, [], ⟨.hostPortDown, {}⟩, by decide +kernel⟩,
    ⟨{ Tests.st with turns := [⟨3, .issue 0⟩], closing := [⟨.hostPortDown, {}⟩] }, 2, .issue 0, 0, [], ⟨.hostPortDown, {}⟩, [], (.inl (by decide +kernel)), by decide +kernel⟩,
    ⟨{ Tests.co Tests.st fun k => { k with issuedAt := 1 } with closing := [⟨.hostPortDown, {}⟩] }, 2, .issue 0, 0, [], ⟨.hostPortDown, {}⟩, [], (.inr (.inr (by decide +kernel))), by decide +kernel⟩,
    ⟨{ Tests.st with turns := [⟨3, .issue 0⟩] }, 2, .issue 0, [], by decide +kernel⟩,
    ⟨Tests.co { Tests.st with turns := [⟨0, .issue 0⟩] } fun k => { k with issuedAt := 1 }, 0, [], by decide +kernel⟩,
    ⟨{ Tests.st with agenda := [⟨.hostPortDown, {}⟩] }, [], ⟨.hostPortDown, {}⟩, by decide +kernel⟩,
    ⟨Tests.co Tests.st fun k => { k with issuedAt := 1 }, by decide +kernel⟩⟩

/-- Hypotheses of `Obligations.StepTakesFetchTrap` are met. -/
theorem witness_StepTakesFetchTrap :
    (∃ (s : State), ∃ t, s.issues = true ∧ fetchParcels s = .error (.trap t)) ∧
    (∃ (s : State), ∃ half, s.issues = true ∧ fetchParcels s = .error (.lacks half)) ∧
    (∃ (s : State), ∃ ps, ∃ k, s.issues = true ∧ fetchParcels s = .ok ps ∧ sleepingFetch s = some k) ∧
    (∃ (s : State), ∃ ps, ∃ n, ∃ (i : Instr), (i = .tret ∨ i = .tlbiAll ∨ (∃ r, i = .tlbiAsid r) ∨ (∃ r x, i = .tlbiPage r x)) ∧ s.issues = true ∧ fetchParcels s = .ok ps ∧ sleepingFetch s = none ∧ s.slot.entry = true ∧ isFrameParcel ps = false ∧ decodeParcels ps = (n, .ok i)) ∧
    (∃ (s : State), ∃ ps, ∃ n, ∃ (i : Instr), (i = .tret ∨ i = .tlbiAll ∨ (∃ r, i = .tlbiAsid r) ∨ (∃ r x, i = .tlbiPage r x)) ∧ s.issues = true ∧ fetchParcels s = .ok ps ∧ sleepingFetch s = none ∧ s.slot.entry = true ∧ isFrameParcel ps = false ∧ decodeParcels ps = (n, .ok i)) ∧
    (∃ (s : State), ∃ ps, ∃ n, ∃ (i : Instr), ∃ d, ∃ r, s.issues = true ∧ fetchParcels s = .ok ps ∧ sleepingFetch s = none ∧ s.slot.entry = true ∧ isFrameParcel ps = false ∧ decodeParcels ps = (n, .ok i) ∧ i = .sysr d r) ∧
    (∃ (s : State), ∃ ps, ∃ n, ∃ (i : Instr), ∃ d, ∃ r, s.issues = true ∧ fetchParcels s = .ok ps ∧ sleepingFetch s = none ∧ s.slot.entry = true ∧ isFrameParcel ps = false ∧ decodeParcels ps = (n, .ok i) ∧ i = .sysr d r) ∧
    (∃ (s : State), ∃ ps, ∃ n, ∃ (i : Instr), ∃ r, ∃ (x : Src), s.issues = true ∧ fetchParcels s = .ok ps ∧ sleepingFetch s = none ∧ s.slot.entry = true ∧ isFrameParcel ps = false ∧ decodeParcels ps = (n, .ok i) ∧ i = .sysw r x) ∧
    (∃ (s : State), ∃ ps, ∃ n, ∃ (i : Instr), (∀ r, i ≠ .tlbiAsid r) ∧ (∀ r x, i ≠ .tlbiPage r x) ∧ (∀ d r, i ≠ .sysr d r) ∧ (∀ r x, i ≠ .sysw r x) ∧ s.issues = true ∧ fetchParcels s = .ok ps ∧ sleepingFetch s = none ∧ s.slot.entry = true ∧ isFrameParcel ps = false ∧ decodeParcels ps = (n, .ok i) ∧ i ≠ .tret ∧ i ≠ .tlbiAll) ∧
    (∃ (s : State), ∃ ps, ∃ n, ∃ r, s.issues = true ∧ fetchParcels s = .ok ps ∧ sleepingFetch s = none ∧ decodeParcels ps = (n, .error r)) :=
  ⟨⟨Tests.st.modSlot fun sl => { sl with pc := Tests.hole }, Tests.fetchTrap (fetchParcels (Tests.st.modSlot fun sl => { sl with pc := Tests.hole } : State)), by decide +kernel⟩,
    ⟨Tests.hostPage Tests.st, 0, by decide +kernel⟩,
    ⟨{ Tests.st with selfRefresh := List.replicate 12 true }, [0x8E04, 0xA403], 0x10000, by decide +kernel⟩,
    ⟨Tests.sl (Tests.run (.tret)) fun sl => { sl with entry := true }, encode (.tret), 2, .tret, (.inl rfl), by decide +kernel⟩,
    ⟨Tests.sl (Tests.run (.tlbiAll)) fun sl => { sl with entry := true, priv := .kernel }, encode (.tlbiAll), 2, .tlbiAll, (.inr (.inl rfl)), by decide +kernel⟩,
    ⟨Tests.sl (Tests.run (.sysr (.n 3) 0x060)) fun sl => { sl with entry := true }, encode (.sysr (.n 3) 0x060), 2, .sysr (.n 3) 0x060, .n 3, 0x060, by decide +kernel⟩,
    ⟨Tests.sl (Tests.run (.sysr (.n 3) 0x011)) fun sl => { sl with entry := true }, encode (.sysr (.n 3) 0x011), 2, .sysr (.n 3) 0x011, .n 3, 0x011, by decide +kernel⟩,
    ⟨Tests.sl (Tests.run (.sysw 0x060 (.n 1))) fun sl => { sl with entry := true }, encode (.sysw 0x060 (.n 1)), 2, .sysw 0x060 (.n 1), 0x060, .n 1, by decide +kernel⟩,
    ⟨Tests.sl (Tests.run (Tests.add)) fun sl => { sl with entry := true }, encode Tests.add, 2, Tests.add, (by intro r h; cases h), (by intro r x h; cases h), (by intro d r h; cases h), (by intro r x h; cases h), by decide +kernel⟩,
    ⟨Tests.at 0xFFFFFFFF, [0xFFFF, 0xFFFF], 2, .opcode, by decide +kernel⟩⟩

/-- Hypotheses of `Obligations.RegisterResult` are met. -/
theorem witness_RegisterResult :
    (∃ (i : Instr), ∃ (f : RegOp), ∃ (s : State), ∃ (vs : List Word), regOp i = some f ∧ WellFormed i = true ∧ operandsGive s f.dst f.srcs vs = true) ∧
    (∃ (i : Instr), ∃ (f : RegOp), ∃ (s : State), ∃ (vs : List Word), regOp i = some f ∧ WellFormed i = true ∧ operandsGive s f.dst f.srcs vs = true) :=
  ⟨⟨.add (.n 3) (Tests.n 1) (Tests.n 2), (regOp (.add (.n 3) (Tests.n 1) (Tests.n 2))).get (by decide), Tests.nums, [7, 3], (rfl), by decide +kernel⟩,
    ⟨.bfi 3 (.n 1) 4 7, (regOp (.bfi 3 (.n 1) 4 7)).get (by decide), Tests.nums, [7, 0], (rfl), by decide +kernel⟩⟩

/-- Hypotheses of `Obligations.ScalarFrame`, its part RegisterFrame are met. -/
theorem witness_ScalarFrame_RegisterFrame :
    (∃ (i : Instr), ∃ (f : RegOp), ∃ (s : State), ∃ (t : State), ∃ (vs : List Word), ∃ r, regOp i = some f ∧ exec i s = .next t ∧ (∀ j, f.dst = .n j → r ≠ j.val) ∧ WellFormed i = true ∧ operandsGive s f.dst f.srcs vs = true ∧ f.dst ≠ .s7) ∧
    (∃ (i : Instr), ∃ (f : RegOp), ∃ (s : State), ∃ (t : State), ∃ (vs : List Word), regOp i = some f ∧ exec i s = .next t ∧ WellFormed i = true ∧ operandsGive s f.dst f.srcs vs = true ∧ f.dst = .z) :=
  ⟨⟨.add (.n 3) (Tests.n 1) (Tests.n 2), (regOp (.add (.n 3) (Tests.n 1) (Tests.n 2))).get (by decide), Tests.nums, Tests.after (exec (.add (.n 3) (Tests.n 1) (Tests.n 2)) (Tests.nums : State)), [7, 3], 4, (rfl), (Tests.ran _ (by decide +kernel)), (by rintro _ ⟨⟩; decide), by decide +kernel⟩,
    ⟨.add .z (Tests.n 1) (Tests.n 2), (regOp (.add .z (Tests.n 1) (Tests.n 2))).get (by decide), Tests.nums, Tests.after (exec (.add .z (Tests.n 1) (Tests.n 2)) (Tests.nums : State)), [7, 3], (rfl), (Tests.ran _ (by decide +kernel)), by decide +kernel⟩⟩

/-- Hypotheses of `Obligations.ScalarFrame`, its part FloatFrame are met. -/
theorem witness_ScalarFrame_FloatFrame :
    (∃ (i : Instr), ∃ (f : FpOp), ∃ (s : State), ∃ (t : State), ∃ (vs : List Word), ∃ r, fpOp i = some f ∧ exec i s = .next t ∧ (∀ j, f.dst = .n j → r ≠ j.val) ∧ operandsGive s f.dst f.srcs vs = true ∧ s.slot.traps (f.val s.slot vs).2 = false ∧ f.dst ≠ .s7) ∧
    (∃ (i : Instr), ∃ (f : FpOp), ∃ (s : State), ∃ (t : State), ∃ (vs : List Word), fpOp i = some f ∧ exec i s = .next t ∧ operandsGive s f.dst f.srcs vs = true ∧ s.slot.traps (f.val s.slot vs).2 = false ∧ f.dst = .z) :=
  ⟨⟨.fadd .d (.n 3) (Tests.n 1) (Tests.n 2), (fpOp (.fadd .d (.n 3) (Tests.n 1) (Tests.n 2))).get (by decide), (Tests.reg 1 0x3FF0000000000000 Tests.st), Tests.after (exec (.fadd .d (.n 3) (Tests.n 1) (Tests.n 2)) ((Tests.reg 1 0x3FF0000000000000 Tests.st) : State)), [0x3FF0000000000000, 0], 4, (rfl), (Tests.ran _ (by decide +kernel)), (by rintro _ ⟨⟩; decide), by decide +kernel⟩,
    ⟨.fadd .d .z (Tests.n 1) (Tests.n 2), (fpOp (.fadd .d .z (Tests.n 1) (Tests.n 2))).get (by decide), (Tests.reg 1 0x3FF0000000000000 Tests.st), Tests.after (exec (.fadd .d .z (Tests.n 1) (Tests.n 2)) ((Tests.reg 1 0x3FF0000000000000 Tests.st) : State)), [0x3FF0000000000000, 0], (rfl), (Tests.ran _ (by decide +kernel)), by decide +kernel⟩⟩

/-- Hypotheses of `Obligations.WriteDestination` are met. -/
theorem witness_WriteDestination :
    (∃ (d : Dst), d ≠ .z ∧ d ≠ .s7) ∧
    (∃ (j : Fin 32), ∃ r, r ≠ j.val) :=
  ⟨⟨.n 3, by decide +kernel⟩,
    ⟨3, 4, by decide +kernel⟩⟩

/-- Hypotheses of `Obligations.FrameResult` are met. -/
theorem witness_FrameResult :
    (∃ (s : State), s.slot.entry = false) ∧
    (∃ (s : State), ∃ (k : BitVec 5), s.slot.entry = true ∧ 8 ≤ k.toNat + 1) ∧
    (∃ (s : State), ∃ (k : BitVec 5), s.slot.entry = true ∧ k.toNat + 1 < 8) :=
  ⟨⟨Tests.st, by decide +kernel⟩,
    ⟨Tests.st.modSlot fun sl => { sl with entry := true }, 7, by decide +kernel⟩,
    ⟨Tests.st.modSlot fun sl => { sl with entry := true }, 6, by decide +kernel⟩⟩

/-- Hypotheses of `Obligations.OperandTraps` are met. -/
theorem witness_OperandTraps :
    (∃ (s : State), ∃ (a : SrcM), ∃ (d : Dst), ∃ p, ((∃ i, a.src = .q i) ∨ ∃ i, a.src = .n i) ∧ srcGap s.slot a = none ∧ dstGap s.slot d = none ∧ (s.slot.read a.src).1 = .empty p ∧ (p = false ∨ a.trap = true)) ∧
    (∃ (s : State), ∃ (a : SrcM), ∃ (d : Dst), ((∃ i, a.src = .q i) ∨ ∃ i, a.src = .n i) ∧ srcGap s.slot a = none ∧ dstGap s.slot d = none ∧ (s.slot.read a.src).1 = .empty true ∧ a.trap = false) ∧
    (∃ (s : State), ∃ (a : SrcM), ∃ (d : Dst), ∃ poison, ∃ addr, ∃ pc, ((∃ i, a.src = .q i) ∨ ∃ i, a.src = .n i) ∧ srcGap s.slot a = none ∧ dstGap s.slot d = none ∧ (s.slot.read a.src).1 = .faulted poison addr pc) :=
  ⟨⟨Tests.fill 1 (.empty none) Tests.st, Tests.n 1, .n 3, false, (.inr ⟨1, rfl⟩), by decide +kernel⟩,
    ⟨Tests.fill 1 (.empty (some 5)) Tests.st, Tests.n 1, .n 3, (.inr ⟨1, rfl⟩), by decide +kernel⟩,
    ⟨Tests.fill 1 (.faulted true 8 4) Tests.st, Tests.n 1, .n 3, true, 8, 4, (.inr ⟨1, rfl⟩), by decide +kernel⟩⟩

/-- Hypotheses of `Obligations.Division` are met. -/
theorem witness_Division :
    (∃ (s : State), ∃ (d : Dst), ∃ (a : SrcM), ∃ (b : SrcM), ∃ (x : Word), ∃ (y : Word), ∃ (i : Instr), ∃ (v : Word), operandsGive s d [a, b] [x, y] = true ∧ ((i = .div d a b ∧ v = BitVec.ofInt 64 (x.toInt.tdiv y.toInt)) ∨ (i = .rem d a b ∧ v = BitVec.ofInt 64 (x.toInt.tmod y.toInt)) ∨ (i = .divu d a b ∧ v = word (x.toNat / y.toNat)) ∨ (i = .remu d a b ∧ v = word (x.toNat % y.toNat))) ∧ y ≠ 0) ∧
    (∃ (s : State), ∃ (d : Dst), ∃ (a : SrcM), ∃ (b : SrcM), ∃ (x : Word), ∃ (y : Word), ∃ (i : Instr), ∃ (v : Word), operandsGive s d [a, b] [x, y] = true ∧ ((i = .div d a b ∧ v = BitVec.ofInt 64 (x.toInt.tdiv y.toInt)) ∨ (i = .rem d a b ∧ v = BitVec.ofInt 64 (x.toInt.tmod y.toInt)) ∨ (i = .divu d a b ∧ v = word (x.toNat / y.toNat)) ∨ (i = .remu d a b ∧ v = word (x.toNat % y.toNat))) ∧ y = 0) :=
  ⟨⟨Tests.nums, .n 3, Tests.n 1, Tests.n 2, 7, 3, .divu (.n 3) (Tests.n 1) (Tests.n 2), 2, by decide +kernel⟩,
    ⟨Tests.nums, .n 3, Tests.n 1, Tests.n 3, 7, 0, .div (.n 3) (Tests.n 1) (Tests.n 3), 0, by decide +kernel⟩⟩

/-- Hypotheses of `Obligations.FloatResult`, its part FloatResult are met. -/
theorem witness_FloatResult_FloatResult :
    (∃ (i : Instr), ∃ (f : FpOp), ∃ (s : State), ∃ (vs : List Word), fpOp i = some f ∧ operandsGive s f.dst f.srcs vs = true ∧ s.slot.traps (f.val s.slot vs).2 = false) :=
  ⟨.fadd .d (.n 3) (Tests.n 1) (Tests.n 2), (fpOp (.fadd .d (.n 3) (Tests.n 1) (Tests.n 2))).get (by decide), (Tests.reg 1 0x3FF0000000000000 Tests.st), [0x3FF0000000000000, 0], (rfl), by decide +kernel⟩

/-- Hypotheses of `Obligations.FloatResult`, its part FloatTrap are met. -/
theorem witness_FloatResult_FloatTrap :
    (∃ (i : Instr), ∃ (f : FpOp), ∃ (s : State), ∃ (vs : List Word), fpOp i = some f ∧ operandsGive s f.dst f.srcs vs = true ∧ s.slot.traps (f.val s.slot vs).2 = true ∧ s.slot.trapsAtOnce = true) :=
  ⟨.fdiv .d (.n 3) (Tests.n 1) (Tests.n 2), (fpOp (.fdiv .d (.n 3) (Tests.n 1) (Tests.n 2))).get (by decide), (Tests.reg 1 0x3FF0000000000000 (Tests.st.modSlot fun sl => { sl with fpCtrl := 0xF8 })), [0x3FF0000000000000, 0], (rfl), by decide +kernel⟩

/-- Hypotheses of `Obligations.Branches` are met. -/
theorem witness_Branches :
    (∃ (s : State), ∃ a, ∃ v, operandsGive s .z [a] [v] = true) ∧
    (∃ (s : State), ∃ x, ∃ v, operandsGive s .z [srcM5 x] [v] = true) ∧
    (∃ (s : State), ∃ a, ∃ v, operandsGive s .z [a] [v] = true ∧ v.toNat % 2 = 0) ∧
    (∃ (s : State), ∃ a, ∃ v, operandsGive s .z [a] [v] = true ∧ v.toNat % 2 = 1) :=
  ⟨⟨Tests.nums, Tests.n 1, 7, by decide +kernel⟩,
    ⟨Tests.nums, 17, 7, by decide +kernel⟩,
    ⟨Tests.reg 1 0x10100 Tests.st, Tests.n 1, 0x10100, by decide +kernel⟩,
    ⟨Tests.nums, Tests.n 1, 7, by decide +kernel⟩⟩

/-- Hypotheses of `Obligations.CallResult`, its part CallResult are met. -/
theorem witness_CallResult_CallResult :
    (∃ (s : State), ∃ (i : Instr), ∃ (xs : List SrcM), ∃ (t : Word), ∃ (k2 : Nat), ((∃ imm, i = .call imm ∧ xs = [] ∧ t = s.slot.pc + BitVec.ofInt 64 (2 * imm.toInt)) ∨ (∃ a, i = .callr a ∧ xs = [a] ∧ operandsGive s .z [a] [t] = true)) ∧ Memory.wf s.mem = true ∧ t.toNat % 2 = 0 ∧ missingHalf s t = none ∧ parcelAt (consumed s xs) t = .ok (0x6000 + (k2 - 1)) ∧ 8 ≤ k2 ∧ k2 ≤ 32 ∧ s.slot.depth < 64 ∧ s.slot.roomy = true) ∧
    (∃ (s : State), ∃ (i : Instr), ∃ (xs : List SrcM), ∃ (t : Word), ∃ (k2 : Nat), ((∃ imm, i = .call imm ∧ xs = [] ∧ t = s.slot.pc + BitVec.ofInt 64 (2 * imm.toInt)) ∨ (∃ a, i = .callr a ∧ xs = [a] ∧ operandsGive s .z [a] [t] = true)) ∧ Memory.wf s.mem = true ∧ t.toNat % 2 = 0 ∧ missingHalf s t = none ∧ parcelAt (consumed s xs) t = .ok (0x6000 + (k2 - 1)) ∧ 8 ≤ k2 ∧ k2 ≤ 32 ∧ s.slot.depth < 64 ∧ s.slot.roomy = true) :=
  ⟨⟨(Tests.put 0x10020 [0x1F, 0x60] Tests.st), .call 16, [], 0x10020, 32, (.inl ⟨16, by decide +kernel⟩), by decide +kernel⟩,
    ⟨(Tests.deep 2 (Tests.reg 1 0x10020 (Tests.put 0x10020 [0x1F, 0x60] Tests.st))), .callr (Tests.n 1), [Tests.n 1], 0x10020, 32, (.inr ⟨Tests.n 1, by decide +kernel⟩), by decide +kernel⟩⟩

/-- Hypotheses of `Obligations.CallResult`, its part CallTraps are met. -/
theorem witness_CallResult_CallTraps :
    (∃ (s : State), ∃ (imm : BitVec 24), ∃ (t : Word), t = s.slot.pc + BitVec.ofInt 64 (2 * imm.toInt) ∧ t.toNat % 2 = 1) ∧
    (∃ (s : State), ∃ (imm : BitVec 24), ∃ (t : Word), ∃ (f : Trap), t = s.slot.pc + BitVec.ofInt 64 (2 * imm.toInt) ∧ t.toNat % 2 = 0 ∧ parcelAt s t = .error f ∧ f.cause ≠ .posted) ∧
    (∃ (s : State), ∃ (imm : BitVec 24), ∃ (t : Word), ∃ half, t = s.slot.pc + BitVec.ofInt 64 (2 * imm.toInt) ∧ t.toNat % 2 = 0 ∧ missingHalf s t = some half) ∧
    (∃ (s : State), ∃ (imm : BitVec 24), ∃ (t : Word), ∃ p, t = s.slot.pc + BitVec.ofInt 64 (2 * imm.toInt) ∧ t.toNat % 2 = 0 ∧ missingHalf s t = none ∧ parcelAt s t = .ok p ∧ p / 2 ^ 10 ≠ 0x18) ∧
    (∃ (s : State), ∃ (imm : BitVec 24), ∃ (t : Word), ∃ p, t = s.slot.pc + BitVec.ofInt 64 (2 * imm.toInt) ∧ t.toNat % 2 = 0 ∧ missingHalf s t = none ∧ parcelAt s t = .ok p ∧ p / 2 ^ 10 = 0x18 ∧ p / 32 % 32 ≠ 0) ∧
    (∃ (s : State), ∃ (imm : BitVec 24), ∃ (t : Word), ∃ p, t = s.slot.pc + BitVec.ofInt 64 (2 * imm.toInt) ∧ t.toNat % 2 = 0 ∧ missingHalf s t = none ∧ parcelAt s t = .ok p ∧ p / 2 ^ 10 = 0x18 ∧ p / 32 % 32 = 0 ∧ p % 32 + 1 < 8) ∧
    (∃ (s : State), ∃ (imm : BitVec 24), ∃ (t : Word), ∃ p, t = s.slot.pc + BitVec.ofInt 64 (2 * imm.toInt) ∧ t.toNat % 2 = 0 ∧ missingHalf s t = none ∧ parcelAt s t = .ok p ∧ p / 2 ^ 10 = 0x18 ∧ p / 32 % 32 = 0 ∧ 8 ≤ p % 32 + 1 ∧ (64 ≤ s.slot.depth ∨ s.slot.spillFull = true)) ∧
    (∃ (s : State), ∃ (imm : BitVec 24), ∃ (t : Word), ∃ p, t = s.slot.pc + BitVec.ofInt 64 (2 * imm.toInt) ∧ t.toNat % 2 = 0 ∧ missingHalf s t = none ∧ parcelAt s t = .ok p ∧ p / 2 ^ 10 = 0x18 ∧ p / 32 % 32 = 0 ∧ 8 ≤ p % 32 + 1 ∧ (64 ≤ s.slot.depth ∨ s.slot.spillFull = true)) :=
  ⟨⟨Tests.sl Tests.st fun sl => { sl with pc := 0x10001 }, 16, 0x10021, by decide +kernel⟩,
    ⟨Tests.st, 0x8000, 0x20000, Tests.trap (parcelAt (Tests.st : State) (0x20000)), by decide +kernel⟩,
    ⟨Tests.hostPage Tests.st, 16, 0x10020, 0, by decide +kernel⟩,
    ⟨(Tests.put 0x10020 [] Tests.st), 16, 0x10020, 0, by decide +kernel⟩,
    ⟨(Tests.put 0x10020 [0x20, 0x60] Tests.st), 16, 0x10020, 0x6020, by decide +kernel⟩,
    ⟨(Tests.put 0x10020 [0x06, 0x60] Tests.st), 16, 0x10020, 0x6006, by decide +kernel⟩,
    ⟨Tests.deep 0 (Tests.put 0x10020 [0x1F, 0x60] Tests.st), 16, 0x10020, 0x601F, by decide +kernel⟩,
    ⟨Tests.sl (Tests.put 0x10020 [0x1F, 0x60] Tests.st) fun sl => { sl with win := { sl.win with links := List.replicate 64 8 } }, 16, 0x10020, 0x601F, by decide +kernel⟩⟩

/-- Hypotheses of `Obligations.ReturnResult` are met. -/
theorem witness_ReturnResult :
    (∃ (s : State), ∃ (i : Instr), ∃ (k : Nat), ∃ (links : List Nat), ∃ (r : Word), (i = .ret ∨ i = .ret16) ∧ s.slot.win.links = k :: links ∧ s.slot.win.ret = some r ∧ r.toNat % 2 = 0) ∧
    (∃ (s : State), ∃ (i : Instr), ∃ (k : Nat), ∃ (links : List Nat), ∃ (r : Word), (i = .ret ∨ i = .ret16) ∧ s.slot.win.links = k :: links ∧ s.slot.win.ret = some r ∧ r.toNat % 2 = 0) ∧
    (∃ (s : State), ∃ (i : Instr), (i = .ret ∨ i = .ret16) ∧ s.slot.win.links = []) :=
  ⟨⟨(Tests.sl Tests.st fun sl => { sl with win := { sl.win with links := [8], ret := some 0x10040, below := some ⟨List.replicate 24 (Reg.of 3), none⟩ } }), .ret, 8, [], 0x10040, (.inl rfl), by decide +kernel⟩,
    ⟨(Tests.sl Tests.st fun sl => { sl with win := { sl.win with links := [8], ret := some 0x10040 }, spillUsed := 1, spillCount := 2, spillBase := 0x4000 }), .ret, 8, [], 0x10040, (.inl rfl), by decide +kernel⟩,
    ⟨Tests.st, .ret16, (.inr rfl), by decide +kernel⟩⟩

/-- Hypotheses of `Obligations.TaskEnd`, its part TaskEnd are met. -/
theorem witness_TaskEnd_TaskEnd :
    (∃ (s : State), ∃ (i : Instr), s.orphan = false ∧ (i = .tend ∨ i = .tend16 ∨ (i = .qend ∧ s.slot.wrapup = true))) ∧
    (∃ (s : State), ∃ (i : Instr), s.orphan = false ∧ (i = .tend ∨ i = .tend16 ∨ (i = .qend ∧ s.slot.wrapup = true))) :=
  ⟨⟨Tests.sl (Tests.posted Tests.entry Tests.st) fun sl => { sl with fpStat := 5 }, .tend, by decide +kernel⟩,
    ⟨Tests.sl Tests.st fun sl => { sl with wrapup := true, quenchLeft := 5 }, .qend, by decide +kernel⟩⟩

/-- Hypotheses of `Obligations.TaskEnd`, its part QendTraps are met. -/
theorem witness_TaskEnd_QendTraps :
    (∃ (s : State), s.slot.wrapup = false ∧ s.orphan = false) :=
  ⟨Tests.st, by decide +kernel⟩

/-- Hypotheses of `Obligations.TaskEnd`, its part OrphanAborts are met. -/
theorem witness_TaskEnd_OrphanAborts :
    (∃ (s : State), ∃ (i : Instr), (i = .tend ∨ i = .tend16 ∨ i = .qend ∨ (∃ k d a imm, i = .ld k d a imm) ∨ (∃ k d a sc off, i = .lda k d a sc off) ∨ (∃ z v a imm, i = .st z v a imm) ∨ ∃ z v a sc off, i = .str z v a sc off) ∧ s.orphan = true ∧ s.slot.owed.any (·.lda) = false) ∧
    (∃ (s : State), ∃ (i : Instr), (i = .tend ∨ i = .tend16 ∨ i = .qend ∨ (∃ k d a imm, i = .ld k d a imm) ∨ (∃ k d a sc off, i = .lda k d a sc off) ∨ (∃ z v a imm, i = .st z v a imm) ∨ ∃ z v a sc off, i = .str z v a sc off) ∧ s.orphan = true ∧ s.slot.owed.any (·.lda) = false) :=
  ⟨⟨{ (Tests.sl (Tests.mem Tests.hbm) fun sl => { sl with hypCur := 3 }) with hyp := [(3, ⟨0, 0, 1, .sweeping, 0, false, 0⟩)] }, .tend, (.inl rfl), by decide +kernel⟩,
    ⟨{ (Tests.sl (Tests.mem Tests.hbm) fun sl => { sl with hypCur := 3 }) with hyp := [(3, ⟨0, 0, 1, .sweeping, 0, false, 0⟩)] }, .ld .d (.n 3) (Tests.n 0) 0, (.inr (.inr (.inr (.inl ⟨_, _, _, _, rfl⟩)))), by decide +kernel⟩⟩

/-- Hypotheses of `Obligations.TrapEntry`, its part TrapEntry are met. -/
theorem witness_TrapEntry_TrapEntry :
    (∃ (s : State), ∃ (tr : Trap), ∃ (u : State), u = takeTrap s tr ∧ Memory.wf s.mem = true ∧ s.slot.forcedOut = false ∧ s.slot.shadow = none ∧ s.slot.roomy = true) ∧
    (∃ (s : State), ∃ (tr : Trap), ∃ (u : State), u = takeTrap s tr ∧ Memory.wf s.mem = true ∧ s.slot.forcedOut = false ∧ s.slot.shadow = none ∧ s.slot.roomy = true) ∧
    (∃ (s : State), ∃ (tr : Trap), ∃ (u : State), ∃ c, ∃ (k : Nat), u = takeTrap s tr ∧ Memory.wf s.mem = true ∧ s.slot.forcedOut = false ∧ s.slot.shadow = none ∧ s.slot.roomy = true ∧ (c, k) ≠ s.cur) :=
  ⟨⟨Tests.st, { cause := .divzero }, takeTrap (Tests.st : State) ({ cause := .divzero }), (rfl), by decide +kernel⟩,
    ⟨Tests.deep 2 Tests.st, { cause := .divzero }, takeTrap (Tests.deep 2 Tests.st : State) ({ cause := .divzero }), (rfl), by decide +kernel⟩,
    ⟨Tests.deep 2 Tests.st, { cause := .divzero }, takeTrap (Tests.deep 2 Tests.st : State) ({ cause := .divzero }), 0, 1, (rfl), by decide +kernel⟩⟩

/-- Hypotheses of `Obligations.TrapEntry`, its part SoftwareTraps are met. -/
theorem witness_TrapEntry_SoftwareTraps :
    (∃ (s : State), s.slot.forcedOut = false ∧ s.slot.shadow = none ∧ s.slot.roomy = true) :=
  ⟨Tests.st, by decide +kernel⟩

/-- Hypotheses of `Obligations.TrapInHandler` are met. -/
theorem witness_TrapInHandler :
    (∃ (s : State), ∃ (tr : Trap), ∃ (u : State), ∃ (x : Launch), (∃ sh, s.slot.shadow = some sh ∧ sh.causeRead = false) ∧ u = takeTrap s tr ∧ s.slot.forcedOut = false ∧ s.launch? s.slot.launch = some x) ∧
    (∃ (s : State), ∃ (tr : Trap), ∃ (u : State), (∃ sh, s.slot.shadow = some sh ∧ sh.causeRead = true) ∧ u = takeTrap s tr ∧ s.slot.forcedOut = false) ∧
    (∃ (s : State), ∃ (tr : Trap), ∃ (u : State), u = takeTrap s tr ∧ s.slot.forcedOut = false ∧ s.slot.shadow = none ∧ s.slot.spillFull = true) :=
  ⟨⟨Tests.handler false, { cause := .divzero }, takeTrap (Tests.handler false : State) ({ cause := .divzero }), Tests.l0 (Tests.handler false : State), (⟨_, rfl, rfl⟩), (rfl), by decide +kernel⟩,
    ⟨Tests.handler true, { cause := .divzero }, takeTrap (Tests.handler true : State) ({ cause := .divzero }), (⟨_, rfl, rfl⟩), (rfl), by decide +kernel⟩,
    ⟨Tests.deep 0 Tests.st, { cause := .divzero }, takeTrap (Tests.deep 0 Tests.st : State) ({ cause := .divzero }), (rfl), by decide +kernel⟩⟩

/-- Hypotheses of `Obligations.TrapReturn` are met. -/
theorem witness_TrapReturn :
    (∃ (s : State), s.slot.priv = .user) ∧
    (∃ (s : State), ∃ (sh : Shadow), s.slot.priv ≠ .user ∧ s.slot.shadow = some sh ∧ (s.slot.start = .trapContext ∨ s.slot.bank1.cause.getLsbD 9 = true ∨ s.slot.wdog = 0 ∨ s.slot.migrateEnd = some none)) ∧
    (∃ (s : State), ∃ (sh : Shadow), s.slot.priv ≠ .user ∧ s.slot.shadow = some sh ∧ (s.slot.start = .trapContext ∨ s.slot.bank1.cause.getLsbD 9 = true ∨ s.slot.wdog = 0 ∨ s.slot.migrateEnd = some none)) ∧
    (∃ (s : State), ∃ (sh : Shadow), s.slot.priv ≠ .user ∧ s.slot.shadow = some sh ∧ s.slot.start ≠ .trapContext ∧ s.slot.bank1.cause.getLsbD 9 = false ∧ s.slot.wdog ≠ 0 ∧ s.slot.migrateEnd ≠ some none ∧ (s.quenched s.slot.launch = true → s.slot.wrapup = true) ∧ s.slot.bank1.epc.toNat % 2 = 1) ∧
    (∃ (s : State), ∃ (sh : Shadow), s.slot.priv ≠ .user ∧ s.slot.shadow = some sh ∧ s.slot.start ≠ .trapContext ∧ s.slot.bank1.cause.getLsbD 9 = false ∧ s.slot.wdog ≠ 0 ∧ s.slot.migrateEnd ≠ some none ∧ (s.quenched s.slot.launch = true → s.slot.wrapup = true) ∧ s.slot.bank1.epc.toNat % 2 = 0) :=
  ⟨⟨Tests.st, by decide +kernel⟩,
    ⟨Tests.sl (Tests.handler true) fun sl => { sl with wdog := 0 }, { Tests.shadow with causeRead := true }, by decide +kernel⟩,
    ⟨Tests.sl (Tests.handler true) fun sl => { sl with bank1 := { cause := 0x200 } }, { Tests.shadow with causeRead := true }, by decide +kernel⟩,
    ⟨Tests.sl (Tests.handler true) fun sl => { sl with bank1 := { epc := 1 } }, { Tests.shadow with causeRead := true }, by decide +kernel⟩,
    ⟨Tests.handler true, { Tests.shadow with causeRead := true }, by decide +kernel⟩⟩

/-- Hypotheses of `Obligations.LoadResult` are met. -/
theorem witness_LoadResult :
    (∃ (i : Instr), ∃ (f : LoadOp), ∃ (s : State), ∃ (b : Word), ∃ (p : Place), ∃ rg, loadOp i = some f ∧ s.memReady = true ∧ operandsGive s f.dst [f.base] [b] = true ∧ locate (consumed s [f.base]) .load f.bytes (f.va b) 0 = .ok p ∧ s.near f.bytes p = true ∧ rg = loadRange s f.bytes (f.va b) p ∧ journalOverlap s.myCore rg.1 rg.2 = false ∧ (f.va b).toNat % f.bytes = 0 ∧ p.windowed = false ∧ s.badAt p f.bytes = false) ∧
    (∃ (i : Instr), ∃ (f : LoadOp), ∃ (s : State), ∃ (b : Word), ∃ (p : Place), ∃ rg, loadOp i = some f ∧ s.memReady = true ∧ operandsGive s f.dst [f.base] [b] = true ∧ locate (consumed s [f.base]) .load f.bytes (f.va b) 0 = .ok p ∧ s.near f.bytes p = true ∧ rg = loadRange s f.bytes (f.va b) p ∧ journalOverlap s.myCore rg.1 rg.2 = false ∧ (f.va b).toNat % f.bytes = 0 ∧ p.windowed = false ∧ s.badAt p f.bytes = false) ∧
    (∃ (i : Instr), ∃ (f : LoadOp), ∃ (s : State), ∃ (b : Word), ∃ (p : Place), ∃ rg, loadOp i = some f ∧ s.memReady = true ∧ operandsGive s f.dst [f.base] [b] = true ∧ locate (consumed s [f.base]) .load f.bytes (f.va b) 0 = .ok p ∧ s.near f.bytes p = true ∧ rg = loadRange s f.bytes (f.va b) p ∧ journalOverlap s.myCore rg.1 rg.2 = false ∧ (f.va b).toNat % f.bytes = 0 ∧ p.windowed = false ∧ s.badAt p f.bytes = false) ∧
    (∃ (i : Instr), ∃ (f : LoadOp), ∃ (s : State), ∃ (b : Word), ∃ (p : Place), ∃ rg, loadOp i = some f ∧ s.memReady = true ∧ operandsGive s f.dst [f.base] [b] = true ∧ locate (consumed s [f.base]) .load f.bytes (f.va b) 0 = .ok p ∧ s.near f.bytes p = true ∧ rg = loadRange s f.bytes (f.va b) p ∧ journalOverlap s.myCore rg.1 rg.2 = false ∧ (f.va b).toNat % f.bytes = 0 ∧ p.windowed = false ∧ s.badAt p f.bytes = false) ∧
    (∃ (i : Instr), ∃ (f : LoadOp), ∃ (s : State), ∃ (b : Word), ∃ (p : Place), ∃ rg, ∃ (h : Nat), ∃ (u : Nat), ∃ (w : Nat), ∃ (o : Nat), ∃ (fw : Nat), loadOp i = some f ∧ s.memReady = true ∧ operandsGive s f.dst [f.base] [b] = true ∧ locate (consumed s [f.base]) .load f.bytes (f.va b) 0 = .ok p ∧ s.near f.bytes p = true ∧ rg = loadRange s f.bytes (f.va b) p ∧ journalOverlap s.myCore rg.1 rg.2 = false ∧ p = .window none h u w o ∧ windowFault s s.cur.1 none h u w o f.bytes (f.va b) 0 = none ∧ fw = s.myCore.fmtWindow w ∧ poisoned s.poison (sramKey h u 0 + elemRecord fw (o / 4)) (recordBytes (winFormat fw) (winGroup fw) (winBx fw)) = false) :=
  ⟨⟨.ld .d (.n 3) (Tests.n 0) 0, (loadOp (.ld .d (.n 3) (Tests.n 0) 0)).get rfl, Tests.line .m (Tests.mem Tests.hbm), Tests.hbm, Tests.place (locate (consumed (Tests.line .m (Tests.mem Tests.hbm) : State) [Tests.n 0]) .load 8 (Tests.hbm) 0), loadRange (Tests.line .m (Tests.mem Tests.hbm) : State) (((loadOp (.ld .d (.n 3) (Tests.n 0) 0)).get rfl)).bytes ((((loadOp (.ld .d (.n 3) (Tests.n 0) 0)).get rfl)).va (Tests.hbm)) (Tests.place (locate (consumed (Tests.line .m (Tests.mem Tests.hbm) : State) [Tests.n 0]) .load 8 (Tests.hbm) 0)), (rfl), by decide +kernel⟩,
    ⟨.ld .d (.n 3) (Tests.n 0) 0, (loadOp (.ld .d (.n 3) (Tests.n 0) 0)).get rfl, Tests.mem Tests.own, Tests.own, Tests.place (locate (consumed (Tests.mem Tests.own : State) [Tests.n 0]) .load 8 (Tests.own) 0), loadRange (Tests.mem Tests.own : State) (((loadOp (.ld .d (.n 3) (Tests.n 0) 0)).get rfl)).bytes ((((loadOp (.ld .d (.n 3) (Tests.n 0) 0)).get rfl)).va (Tests.own)) (Tests.place (locate (consumed (Tests.mem Tests.own : State) [Tests.n 0]) .load 8 (Tests.own) 0)), (rfl), by decide +kernel⟩,
    ⟨.lda .d (.n 3) (Tests.n 0) .core 1, (loadOp (.lda .d (.n 3) (Tests.n 0) .core 1)).get rfl, Tests.line .s (Tests.mem Tests.hbm), Tests.hbm, Tests.place (locate (consumed (Tests.line .s (Tests.mem Tests.hbm) : State) [Tests.n 0]) .load 8 (Tests.hbm + 8) 0), loadRange (Tests.line .s (Tests.mem Tests.hbm) : State) (((loadOp (.lda .d (.n 3) (Tests.n 0) .core 1)).get rfl)).bytes ((((loadOp (.lda .d (.n 3) (Tests.n 0) .core 1)).get rfl)).va (Tests.hbm)) (Tests.place (locate (consumed (Tests.line .s (Tests.mem Tests.hbm) : State) [Tests.n 0]) .load 8 (Tests.hbm + 8) 0)), (rfl), by decide +kernel⟩,
    ⟨.ld .d (.n 3) (Tests.n 0) 0, (loadOp (.ld .d (.n 3) (Tests.n 0) 0)).get rfl, Tests.line .s (Tests.mem Tests.hbm), Tests.hbm, Tests.place (locate (consumed (Tests.line .s (Tests.mem Tests.hbm) : State) [Tests.n 0]) .load 8 (Tests.hbm) 0), loadRange (Tests.line .s (Tests.mem Tests.hbm) : State) (((loadOp (.ld .d (.n 3) (Tests.n 0) 0)).get rfl)).bytes ((((loadOp (.ld .d (.n 3) (Tests.n 0) 0)).get rfl)).va (Tests.hbm)) (Tests.place (locate (consumed (Tests.line .s (Tests.mem Tests.hbm) : State) [Tests.n 0]) .load 8 (Tests.hbm) 0)), (rfl), by decide +kernel⟩,
    ⟨.ld .uw (.n 3) (Tests.n 0) 0, (loadOp (.ld .uw (.n 3) (Tests.n 0) 0)).get rfl, (Tests.co (Tests.mem 0xFE00000100000004) fun k => { k with fmtWin := k.fmtWin.set 0 0x200000001A }), 0xFE00000100000004, .window none 0 0 1 4, loadRange ((Tests.co (Tests.mem 0xFE00000100000004) fun k => { k with fmtWin := k.fmtWin.set 0 0x200000001A }) : State) (((loadOp (.ld .uw (.n 3) (Tests.n 0) 0)).get rfl)).bytes ((((loadOp (.ld .uw (.n 3) (Tests.n 0) 0)).get rfl)).va (0xFE00000100000004)) (.window none 0 0 1 4), 0, 0, 1, 4, 0x200000001A, (rfl), by decide +kernel⟩⟩

/-- Hypotheses of `Obligations.LoadElse`, its part LoadDistant are met. -/
theorem witness_LoadElse_LoadDistant :
    (∃ (i : Instr), ∃ (f : LoadOp), ∃ (s : State), ∃ (b : Word), ∃ (p : Place), ∃ rg, loadOp i = some f ∧ (∀ q h u w o, p = .window q h u w o → windowFault s s.cur.1 q h u w o f.bytes (f.va b) 0 = none) ∧ s.memReady = true ∧ operandsGive s f.dst [f.base] [b] = true ∧ locate (consumed s [f.base]) .load f.bytes (f.va b) 0 = .ok p ∧ (if p.windowed then (f.va b).toNat % 4 else (f.va b).toNat % f.bytes) = 0 ∧ s.near f.bytes p = false ∧ rg = loadRange s f.bytes (f.va b) p ∧ journalOverlap s.myCore rg.1 rg.2 = false) ∧
    (∃ (i : Instr), ∃ (f : LoadOp), ∃ (s : State), ∃ (b : Word), ∃ (p : Place), ∃ rg, loadOp i = some f ∧ (∀ q h u w o, p = .window q h u w o → windowFault s s.cur.1 q h u w o f.bytes (f.va b) 0 = none) ∧ s.memReady = true ∧ operandsGive s f.dst [f.base] [b] = true ∧ locate (consumed s [f.base]) .load f.bytes (f.va b) 0 = .ok p ∧ (if p.windowed then (f.va b).toNat % 4 else (f.va b).toNat % f.bytes) = 0 ∧ s.near f.bytes p = false ∧ rg = loadRange s f.bytes (f.va b) p ∧ journalOverlap s.myCore rg.1 rg.2 = false) ∧
    (∃ (i : Instr), ∃ (f : LoadOp), ∃ (s : State), ∃ (b : Word), ∃ (p : Place), ∃ rg, loadOp i = some f ∧ (∀ q h u w o, p = .window q h u w o → windowFault s s.cur.1 q h u w o f.bytes (f.va b) 0 = none) ∧ s.memReady = true ∧ operandsGive s f.dst [f.base] [b] = true ∧ locate (consumed s [f.base]) .load f.bytes (f.va b) 0 = .ok p ∧ (if p.windowed then (f.va b).toNat % 4 else (f.va b).toNat % f.bytes) = 0 ∧ s.near f.bytes p = false ∧ rg = loadRange s f.bytes (f.va b) p ∧ journalOverlap s.myCore rg.1 rg.2 = false) :=
  ⟨⟨.ld .d (.n 3) (Tests.n 0) 0, (loadOp (.ld .d (.n 3) (Tests.n 0) 0)).get rfl, (Tests.la (Tests.mem Tests.next) fun l => { l with cores := [0, 1] }), Tests.next, .sram 0 1 0x100, loadRange ((Tests.la (Tests.mem Tests.next) fun l => { l with cores := [0, 1] }) : State) (((loadOp (.ld .d (.n 3) (Tests.n 0) 0)).get rfl)).bytes ((((loadOp (.ld .d (.n 3) (Tests.n 0) 0)).get rfl)).va (Tests.next)) (.sram 0 1 0x100), (rfl), (fun _ _ _ _ _ h => nomatch h), by decide +kernel⟩,
    ⟨.ld .d (.n 3) (Tests.n 0) 0, (loadOp (.ld .d (.n 3) (Tests.n 0) 0)).get rfl, Tests.line .i (Tests.mem Tests.hbm), Tests.hbm, .mem (.hbm 0x10100) true, loadRange (Tests.line .i (Tests.mem Tests.hbm) : State) (((loadOp (.ld .d (.n 3) (Tests.n 0) 0)).get rfl)).bytes ((((loadOp (.ld .d (.n 3) (Tests.n 0) 0)).get rfl)).va (Tests.hbm)) (.mem (.hbm 0x10100) true), (rfl), (fun _ _ _ _ _ h => nomatch h), by decide +kernel⟩,
    ⟨.ld .uw (.n 3) (Tests.n 0) 0, (loadOp (.ld .uw (.n 3) (Tests.n 0) 0)).get rfl, (Tests.co (Tests.la (Tests.mem 0xFE00001100000004) fun l => { l with cores := [0, 1] }) fun k => { k with fmtWin := k.fmtWin.set 0 0x200000001A }), 0xFE00001100000004, .window none 0 1 1 4, loadRange ((Tests.co (Tests.la (Tests.mem 0xFE00001100000004) fun l => { l with cores := [0, 1] }) fun k => { k with fmtWin := k.fmtWin.set 0 0x200000001A }) : State) (((loadOp (.ld .uw (.n 3) (Tests.n 0) 0)).get rfl)).bytes ((((loadOp (.ld .uw (.n 3) (Tests.n 0) 0)).get rfl)).va (0xFE00001100000004)) (.window none 0 1 1 4), (rfl), (by intro _ _ _ _ _ h; cases h; decide +kernel), by decide +kernel⟩⟩

/-- Hypotheses of `Obligations.LoadElse`, its part LoadTraps are met. -/
theorem witness_LoadElse_LoadTraps :
    (∃ (i : Instr), ∃ (f : LoadOp), ∃ (s : State), ∃ (b : Word), loadOp i = some f ∧ s.memReady = true ∧ operandsGive s f.dst [f.base] [b] = true ∧ (f.va b).toNat % f.bytes ≠ 0 ∧ windowVa (f.va b) = false) ∧
    (∃ (i : Instr), ∃ (f : LoadOp), ∃ (s : State), ∃ (b : Word), ∃ (t : Trap), loadOp i = some f ∧ s.memReady = true ∧ operandsGive s f.dst [f.base] [b] = true ∧ (if windowVa (f.va b) then (f.va b).toNat % 4 else (f.va b).toNat % f.bytes) = 0 ∧ locate (consumed s [f.base]) .load f.bytes (f.va b) 0 = .error t) ∧
    (∃ (i : Instr), ∃ (f : LoadOp), ∃ (s : State), ∃ (b : Word), loadOp i = some f ∧ s.memReady = true ∧ operandsGive s f.dst [f.base] [b] = true ∧ windowVa (f.va b) = true ∧ (f.va b).toNat % 4 ≠ 0) ∧
    (∃ (i : Instr), ∃ (f : LoadOp), ∃ (s : State), ∃ (b : Word), ∃ (q : Option Nat), ∃ (h : Nat), ∃ (u : Nat), ∃ (w : Nat), ∃ (o : Nat), ∃ (t : Trap), loadOp i = some f ∧ s.memReady = true ∧ operandsGive s f.dst [f.base] [b] = true ∧ (f.va b).toNat % 4 = 0 ∧ locate (consumed s [f.base]) .load f.bytes (f.va b) 0 = .ok (.window q h u w o) ∧ windowFault s s.cur.1 q h u w o f.bytes (f.va b) 0 = some t) ∧
    (∃ (i : Instr), ∃ (f : LoadOp), ∃ (s : State), ∃ (b : Word), ∃ (p : Place), ∃ rg, loadOp i = some f ∧ s.memReady = true ∧ operandsGive s f.dst [f.base] [b] = true ∧ (f.va b).toNat % f.bytes = 0 ∧ locate (consumed s [f.base]) .load f.bytes (f.va b) 0 = .ok p ∧ p.windowed = false ∧ rg = loadRange s f.bytes (f.va b) p ∧ journalOverlap s.myCore rg.1 rg.2 = true) ∧
    (∃ (i : Instr), ∃ (f : LoadOp), ∃ (s : State), ∃ (b : Word), ∃ (p : Place), ∃ rg, loadOp i = some f ∧ s.memReady = true ∧ operandsGive s f.dst [f.base] [b] = true ∧ (f.va b).toNat % f.bytes = 0 ∧ locate (consumed s [f.base]) .load f.bytes (f.va b) 0 = .ok p ∧ p.windowed = false ∧ rg = loadRange s f.bytes (f.va b) p ∧ journalOverlap s.myCore rg.1 rg.2 = false ∧ s.near f.bytes p = true ∧ s.badAt p f.bytes = true ∧ sramVa (f.va b) = false) ∧
    (∃ (i : Instr), ∃ (f : LoadOp), ∃ (s : State), ∃ (b : Word), ∃ (p : Place), ∃ rg, loadOp i = some f ∧ s.memReady = true ∧ operandsGive s f.dst [f.base] [b] = true ∧ (f.va b).toNat % f.bytes = 0 ∧ locate (consumed s [f.base]) .load f.bytes (f.va b) 0 = .ok p ∧ p.windowed = false ∧ rg = loadRange s f.bytes (f.va b) p ∧ journalOverlap s.myCore rg.1 rg.2 = false ∧ s.near f.bytes p = true ∧ s.badAt p f.bytes = true ∧ sramVa (f.va b) = true) :=
  ⟨⟨.ld .d (.n 3) (Tests.n 0) 0, (loadOp (.ld .d (.n 3) (Tests.n 0) 0)).get rfl, Tests.mem 0x10101, 0x10101, (rfl), by decide +kernel⟩,
    ⟨.ld .d (.n 3) (Tests.n 0) 0, (loadOp (.ld .d (.n 3) (Tests.n 0) 0)).get rfl, Tests.mem Tests.hole, Tests.hole, Tests.trap (locate (consumed (Tests.mem Tests.hole : State) [Tests.n 0]) .load 8 (Tests.hole) 0), (rfl), by decide +kernel⟩,
    ⟨.ld .uw (.n 3) (Tests.n 0) 0, (loadOp (.ld .uw (.n 3) (Tests.n 0) 0)).get rfl, Tests.mem (Tests.win + 2), Tests.win + 2, (rfl), by decide +kernel⟩,
    ⟨.ld .uw (.n 3) (Tests.n 0) 0, (loadOp (.ld .uw (.n 3) (Tests.n 0) 0)).get rfl, Tests.mem Tests.win, Tests.win, none, 0, 0, 1, 0x100, { cause := .format, addr := Tests.win, info := 1 }, (rfl), by decide +kernel⟩,
    ⟨.ld .d (.n 3) (Tests.n 0) 0, (loadOp (.ld .d (.n 3) (Tests.n 0) 0)).get rfl, Tests.posted Tests.entry (Tests.mem Tests.hbm), Tests.hbm, .mem (.hbm 0x10100) true, loadRange (Tests.posted Tests.entry (Tests.mem Tests.hbm) : State) (((loadOp (.ld .d (.n 3) (Tests.n 0) 0)).get rfl)).bytes ((((loadOp (.ld .d (.n 3) (Tests.n 0) 0)).get rfl)).va (Tests.hbm)) (.mem (.hbm 0x10100) true), (rfl), by decide +kernel⟩,
    ⟨.ld .d (.n 3) (Tests.n 0) 0, (loadOp (.ld .d (.n 3) (Tests.n 0) 0)).get rfl, { Tests.line .s (Tests.mem Tests.hbm) with poison := [0x404] }, Tests.hbm, .mem (.hbm 0x10100) true, loadRange ({ Tests.line .s (Tests.mem Tests.hbm) with poison := [0x404] } : State) (((loadOp (.ld .d (.n 3) (Tests.n 0) 0)).get rfl)).bytes ((((loadOp (.ld .d (.n 3) (Tests.n 0) 0)).get rfl)).va (Tests.hbm)) (.mem (.hbm 0x10100) true), (rfl), by decide +kernel⟩,
    ⟨.ld .d (.n 3) (Tests.n 0) 0, (loadOp (.ld .d (.n 3) (Tests.n 0) 0)).get rfl, { Tests.mem Tests.own with poison := [sramKey 0 0 0x100 / 64] }, Tests.own, .sram 0 0 0x100, loadRange ({ Tests.mem Tests.own with poison := [sramKey 0 0 0x100 / 64] } : State) (((loadOp (.ld .d (.n 3) (Tests.n 0) 0)).get rfl)).bytes ((((loadOp (.ld .d (.n 3) (Tests.n 0) 0)).get rfl)).va (Tests.own)) (.sram 0 0 0x100), (rfl), by decide +kernel⟩⟩

/-- Hypotheses of `Obligations.StoreResult` are met. -/
theorem witness_StoreResult :
    (∃ (i : Instr), ∃ (f : StoreOp), ∃ (s : State), ∃ (b : Word), ∃ (v : Word), ∃ (p : Place), storeOp i = some f ∧ Memory.wf s.mem = true ∧ s.memReady = true ∧ (f.release = true → s.released = true) ∧ operandsGive s .z f.srcs [b, v] = true ∧ (f.va b).toNat % f.bytes = 0 ∧ locate (consumed s f.srcs) .store f.bytes (f.va b) 0 = .ok p ∧ s.direct f.bytes p = true ∧ s.slot.hypCur = 0) ∧
    (∃ (i : Instr), ∃ (f : StoreOp), ∃ (s : State), ∃ (b : Word), ∃ (v : Word), ∃ (p : Place), storeOp i = some f ∧ Memory.wf s.mem = true ∧ s.memReady = true ∧ (f.release = true → s.released = true) ∧ operandsGive s .z f.srcs [b, v] = true ∧ (f.va b).toNat % f.bytes = 0 ∧ locate (consumed s f.srcs) .store f.bytes (f.va b) 0 = .ok p ∧ s.direct f.bytes p = true ∧ s.slot.hypCur = 0) ∧
    (∃ (i : Instr), ∃ (f : StoreOp), ∃ (s : State), ∃ (b : Word), ∃ (v : Word), ∃ (p : Place), storeOp i = some f ∧ Memory.wf s.mem = true ∧ s.memReady = true ∧ (f.release = true → s.released = true) ∧ operandsGive s .z f.srcs [b, v] = true ∧ (f.va b).toNat % f.bytes = 0 ∧ locate (consumed s f.srcs) .store f.bytes (f.va b) 0 = .ok p ∧ s.direct f.bytes p = true ∧ s.slot.hypCur ≠ 0 ∧ p.cached = true ∧ (s.tag s.slot.hypCur).state = .live ∧ s.hypFull s.slot.launch s.slot.hypCur (p.key / 128) = false) :=
  ⟨⟨.st .d (.n 1) (Tests.n 0) 0, (storeOp (.st .d (.n 1) (Tests.n 0) 0)).get rfl, Tests.line .m (Tests.mem Tests.hbm), Tests.hbm, 7, .mem (.hbm 0x10100) true, (rfl), by decide +kernel⟩,
    ⟨.st .d (.n 1) (Tests.n 0) 0, (storeOp (.st .d (.n 1) (Tests.n 0) 0)).get rfl, Tests.mem Tests.own, Tests.own, 7, .sram 0 0 0x100, (rfl), by decide +kernel⟩,
    ⟨.st .d (.n 1) (Tests.n 0) 0, (storeOp (.st .d (.n 1) (Tests.n 0) 0)).get rfl, (Tests.la { (Tests.sl (Tests.co (Tests.mem Tests.hbm) fun k => { k with lsplit := 1, l1 := [(0x10100 / 128, { st := .m, tag := 3 })] }) fun sl => { sl with hypCur := 3 }) with hyp := [(3, ⟨0, 0, 1, .live, 0, false, 0⟩)] } fun l => { l with lr := l.lr.set 23 2 }), Tests.hbm, 7, .mem (.hbm 0x10100) true, (rfl), by decide +kernel⟩⟩

/-- Hypotheses of `Obligations.StoreElse`, its part StorePosted are met. -/
theorem witness_StoreElse_StorePosted :
    (∃ (i : Instr), ∃ (f : StoreOp), ∃ (s : State), ∃ (b : Word), ∃ (v : Word), ∃ (p : Place), ∃ (x : Target), storeOp i = some f ∧ s.memReady = true ∧ (f.release = true → s.released = true) ∧ operandsGive s .z f.srcs [b, v] = true ∧ (f.va b).toNat % f.bytes = 0 ∧ locate (consumed s f.srcs) .store f.bytes (f.va b) 0 = .ok p ∧ s.direct f.bytes p = false ∧ p.windowed = false ∧ p = .mem x true ∧ p.peer = none ∧ (s.slot.hypCur ≠ 0 → s.hypFull s.slot.launch s.slot.hypCur (p.key / 128) = false)) ∧
    (∃ (i : Instr), ∃ (f : StoreOp), ∃ (s : State), ∃ (b : Word), ∃ (v : Word), ∃ (p : Place), ∃ (e : Nat), storeOp i = some f ∧ s.memReady = true ∧ (f.release = true → s.released = true) ∧ operandsGive s .z f.srcs [b, v] = true ∧ (f.va b).toNat % f.bytes = 0 ∧ locate (consumed s f.srcs) .store f.bytes (f.va b) 0 = .ok p ∧ s.direct f.bytes p = false ∧ p.windowed = false ∧ s.slot.hypCur = 0 ∧ (p.cached = false ∨ p.peer ≠ none) ∧ freeEntry s.myCore.journal s.myCore.journalNext = some e) ∧
    (∃ (i : Instr), ∃ (f : StoreOp), ∃ (s : State), ∃ (b : Word), ∃ (v : Word), ∃ (p : Place), storeOp i = some f ∧ s.memReady = true ∧ (f.release = true → s.released = true) ∧ operandsGive s .z f.srcs [b, v] = true ∧ (f.va b).toNat % f.bytes = 0 ∧ locate (consumed s f.srcs) .store f.bytes (f.va b) 0 = .ok p ∧ s.direct f.bytes p = false ∧ p.windowed = false ∧ s.slot.hypCur = 0 ∧ (p.cached = false ∨ p.peer ≠ none) ∧ freeEntry s.myCore.journal s.myCore.journalNext = none) :=
  ⟨⟨.st .d (.n 1) (Tests.n 0) 0, (storeOp (.st .d (.n 1) (Tests.n 0) 0)).get rfl, Tests.line .s (Tests.mem Tests.hbm), Tests.hbm, 7, .mem (.hbm 0x10100) true, .hbm 0x10100, (rfl), by decide +kernel⟩,
    ⟨.st .d (.n 1) (Tests.n 0) 0, (storeOp (.st .d (.n 1) (Tests.n 0) 0)).get rfl, (Tests.la (Tests.mem Tests.next) fun l => { l with cores := [0, 1] }), Tests.next, 7, .sram 0 1 0x100, 0, (rfl), by decide +kernel⟩,
    ⟨.st .d (.n 1) (Tests.n 0) 0, (storeOp (.st .d (.n 1) (Tests.n 0) 0)).get rfl, Tests.co (Tests.la (Tests.mem Tests.next) fun l => { l with cores := [0, 1] }) fun k => { k with journal := List.replicate 64 { Tests.entry with key := 0 } }, Tests.next, 7, .sram 0 1 0x100, (rfl), by decide +kernel⟩⟩

/-- Hypotheses of `Obligations.StoreElse`, its part StoreTraps are met. -/
theorem witness_StoreElse_StoreTraps :
    (∃ (i : Instr), ∃ (f : StoreOp), ∃ (s : State), ∃ (b : Word), ∃ (v : Word), ∃ (h : Nat), storeOp i = some f ∧ s.memReady = true ∧ operandsGive s .z f.srcs [b, v] = true ∧ h = s.slot.hypCur ∧ sramVa (f.va b) = true ∧ h ≠ 0) ∧
    (∃ (i : Instr), ∃ (f : StoreOp), ∃ (s : State), ∃ (b : Word), ∃ (v : Word), ∃ (h : Nat), storeOp i = some f ∧ s.memReady = true ∧ operandsGive s .z f.srcs [b, v] = true ∧ h = s.slot.hypCur ∧ (sramVa (f.va b) = true → h = 0) ∧ windowVa (f.va b) = false ∧ (f.va b).toNat % f.bytes ≠ 0) ∧
    (∃ (i : Instr), ∃ (f : StoreOp), ∃ (s : State), ∃ (b : Word), ∃ (v : Word), ∃ (h : Nat), storeOp i = some f ∧ s.memReady = true ∧ operandsGive s .z f.srcs [b, v] = true ∧ h = s.slot.hypCur ∧ (sramVa (f.va b) = true → h = 0) ∧ windowVa (f.va b) = true ∧ (f.va b).toNat % 4 ≠ 0) ∧
    (∃ (i : Instr), ∃ (f : StoreOp), ∃ (s : State), ∃ (b : Word), ∃ (v : Word), ∃ (h : Nat), ∃ (t : Trap), storeOp i = some f ∧ s.memReady = true ∧ operandsGive s .z f.srcs [b, v] = true ∧ h = s.slot.hypCur ∧ (sramVa (f.va b) = true → h = 0) ∧ (if windowVa (f.va b) then (f.va b).toNat % 4 else (f.va b).toNat % f.bytes) = 0 ∧ locate (consumed s f.srcs) .store f.bytes (f.va b) 0 = .error t) ∧
    (∃ (i : Instr), ∃ (f : StoreOp), ∃ (s : State), ∃ (b : Word), ∃ (v : Word), ∃ (h : Nat), ∃ (p : Place), ∃ (q : Option Nat), ∃ (hh : Nat), ∃ (u : Nat), ∃ (w : Nat), ∃ (o : Nat), storeOp i = some f ∧ s.memReady = true ∧ operandsGive s .z f.srcs [b, v] = true ∧ h = s.slot.hypCur ∧ (sramVa (f.va b) = true → h = 0) ∧ (if windowVa (f.va b) then (f.va b).toNat % 4 else (f.va b).toNat % f.bytes) = 0 ∧ locate (consumed s f.srcs) .store f.bytes (f.va b) 0 = .ok p ∧ p = .window q hh u w o) ∧
    (∃ (i : Instr), ∃ (f : StoreOp), ∃ (s : State), ∃ (b : Word), ∃ (v : Word), ∃ (h : Nat), ∃ (p : Place), storeOp i = some f ∧ s.memReady = true ∧ operandsGive s .z f.srcs [b, v] = true ∧ h = s.slot.hypCur ∧ (sramVa (f.va b) = true → h = 0) ∧ (if windowVa (f.va b) then (f.va b).toNat % 4 else (f.va b).toNat % f.bytes) = 0 ∧ locate (consumed s f.srcs) .store f.bytes (f.va b) 0 = .ok p ∧ sramVa (f.va b) = false ∧ (p.cached = false ∨ p.peer.isSome = true) ∧ h ≠ 0) ∧
    (∃ (i : Instr), ∃ (f : StoreOp), ∃ (s : State), ∃ (b : Word), ∃ (v : Word), ∃ (h : Nat), ∃ (p : Place), storeOp i = some f ∧ s.memReady = true ∧ operandsGive s .z f.srcs [b, v] = true ∧ h = s.slot.hypCur ∧ (sramVa (f.va b) = true → h = 0) ∧ (if windowVa (f.va b) then (f.va b).toNat % 4 else (f.va b).toNat % f.bytes) = 0 ∧ locate (consumed s f.srcs) .store f.bytes (f.va b) 0 = .ok p ∧ sramVa (f.va b) = false ∧ p.cached = true ∧ p.peer = none ∧ h ≠ 0 ∧ s.hypFull s.slot.launch h (p.key / 128) = true) ∧
    (∃ (i : Instr), ∃ (f : StoreOp), ∃ (s : State), ∃ (b : Word), ∃ (v : Word), ∃ (h : Nat), ∃ (p : Place), ∃ (n : Nat), ∃ (j : JEntry), ∃ (info : Word), storeOp i = some f ∧ s.memReady = true ∧ operandsGive s .z f.srcs [b, v] = true ∧ h = s.slot.hypCur ∧ (sramVa (f.va b) = true → h = 0) ∧ (if windowVa (f.va b) then (f.va b).toNat % 4 else (f.va b).toNat % f.bytes) = 0 ∧ locate (consumed s f.srcs) .store f.bytes (f.va b) 0 = .ok p ∧ f.release = true ∧ p.windowed = false ∧ (h ≠ 0 → p.cached = true ∧ p.peer = none ∧ s.hypFull s.slot.launch h (p.key / 128) = false) ∧ s.myCore.journal.findIdx? (fun j => j.mine s.cur.2 && j.refused) = some n ∧ s.myCore.journal.getD n {} = j ∧ info = word (n + 256 * j.reason) ∧ s.slot.forcedOut = false) :=
  ⟨⟨.st .d (.n 1) (Tests.n 0) 0, (storeOp (.st .d (.n 1) (Tests.n 0) 0)).get rfl, { (Tests.sl (Tests.mem Tests.own) fun sl => { sl with hypCur := 3 }) with hyp := [(3, ⟨0, 0, 1, .live, 0, false, 0⟩)] }, Tests.own, 7, 3, (rfl), by decide +kernel⟩,
    ⟨.st .d (.n 1) (Tests.n 0) 0, (storeOp (.st .d (.n 1) (Tests.n 0) 0)).get rfl, Tests.mem 0x10101, 0x10101, 7, 0, (rfl), by decide +kernel⟩,
    ⟨.st .d (.n 1) (Tests.n 0) 0, (storeOp (.st .d (.n 1) (Tests.n 0) 0)).get rfl, Tests.mem (Tests.win + 2), Tests.win + 2, 7, 0, (rfl), by decide +kernel⟩,
    ⟨.st .d (.n 1) (Tests.n 0) 0, (storeOp (.st .d (.n 1) (Tests.n 0) 0)).get rfl, Tests.mem Tests.hole, Tests.hole, 7, 0, Tests.trap (locate (consumed (Tests.mem Tests.hole : State) [Tests.n 0, Tests.n 1]) .store 8 (Tests.hole) 0), (rfl), by decide +kernel⟩,
    ⟨.st .d (.n 1) (Tests.n 0) 0, (storeOp (.st .d (.n 1) (Tests.n 0) 0)).get rfl, Tests.mem Tests.win, Tests.win, 7, 0, .window none 0 0 1 0x100, none, 0, 0, 1, 0x100, (rfl), by decide +kernel⟩,
    ⟨.st .d (.n 1) (Tests.n 0) 0, (storeOp (.st .d (.n 1) (Tests.n 0) 0)).get rfl, (Tests.co { (Tests.sl (Tests.mem Tests.hbm) fun sl => { sl with hypCur := 3 }) with hyp := [(3, ⟨0, 0, 1, .live, 0, false, 0⟩)] } fun k => { k with tlb := [⟨0, 1, 3, 0x1003F⟩] }), Tests.hbm, 7, 3, .mem (.hbm 0x10100) false, (rfl), by decide +kernel⟩,
    ⟨.st .d (.n 1) (Tests.n 0) 0, (storeOp (.st .d (.n 1) (Tests.n 0) 0)).get rfl, { (Tests.sl (Tests.mem Tests.hbm) fun sl => { sl with hypCur := 3 }) with hyp := [(3, ⟨0, 0, 1, .live, 0, false, 0⟩)] }, Tests.hbm, 7, 3, .mem (.hbm 0x10100) true, (rfl), by decide +kernel⟩,
    ⟨.str .d (.n 1) (Tests.n 0) .core 0, (storeOp (.str .d (.n 1) (Tests.n 0) .core 0)).get rfl, Tests.posted { Tests.entry with refused := true, reason := 1 } (Tests.mem Tests.hbm), Tests.hbm, 7, 0, .mem (.hbm 0x10100) true, 0, { Tests.entry with refused := true, reason := 1 }, 256, (rfl), by decide +kernel⟩⟩

/-- Hypotheses of `Obligations.AtomicResult` are met. -/
theorem witness_AtomicResult :
    (∃ (i : Instr), ∃ (f : AtomicOp), ∃ (s : State), ∃ (va : Word), ∃ (vs : List Word), ∃ (p : Place), ∃ (old : Nat), atomOp i = some f ∧ Memory.wf s.mem = true ∧ s.slot.owed.any (·.lda) = false ∧ s.slot.hypCur = 0 ∧ operandsGive s f.dst f.srcs (va :: vs) = true ∧ va.toNat % f.bytes = 0 ∧ f.order ≠ .sc ∧ (f.order = .release → s.released = true) ∧ locate (consumed s f.srcs) .atomic f.bytes va 0 = .ok p ∧ s.atomReady f.bytes p = true ∧ s.badAt p f.bytes = false ∧ old = memNat s.mem p.key f.bytes) ∧
    (∃ (i : Instr), ∃ (f : AtomicOp), ∃ (s : State), ∃ (va : Word), ∃ (vs : List Word), ∃ (p : Place), ∃ (old : Nat), atomOp i = some f ∧ Memory.wf s.mem = true ∧ s.slot.owed.any (·.lda) = false ∧ s.slot.hypCur = 0 ∧ operandsGive s f.dst f.srcs (va :: vs) = true ∧ va.toNat % f.bytes = 0 ∧ f.order ≠ .sc ∧ (f.order = .release → s.released = true) ∧ locate (consumed s f.srcs) .atomic f.bytes va 0 = .ok p ∧ s.atomReady f.bytes p = true ∧ s.badAt p f.bytes = false ∧ old = memNat s.mem p.key f.bytes) ∧
    (∃ (i : Instr), ∃ (f : AtomicOp), ∃ (s : State), ∃ (va : Word), ∃ (vs : List Word), ∃ (p : Place), ∃ (old : Nat), atomOp i = some f ∧ Memory.wf s.mem = true ∧ s.slot.owed.any (·.lda) = false ∧ s.slot.hypCur = 0 ∧ operandsGive s f.dst f.srcs (va :: vs) = true ∧ va.toNat % f.bytes = 0 ∧ f.order ≠ .sc ∧ (f.order = .release → s.released = true) ∧ locate (consumed s f.srcs) .atomic f.bytes va 0 = .ok p ∧ s.atomReady f.bytes p = true ∧ s.badAt p f.bytes = false ∧ old = memNat s.mem p.key f.bytes) :=
  ⟨⟨.atomAdd .d .relaxed (.n 3) (.n 0) (.n 1), (atomOp (.atomAdd .d .relaxed (.n 3) (.n 0) (.n 1))).get rfl, Tests.put 0x10100 [5] (Tests.line .m (Tests.mem Tests.hbm)), Tests.hbm, [7], .mem (.hbm 0x10100) true, 5, (rfl), by decide +kernel⟩,
    ⟨.atomAdd .d .relaxed (.n 3) (.n 0) (.n 1), (atomOp (.atomAdd .d .relaxed (.n 3) (.n 0) (.n 1))).get rfl, Tests.put 0x10100 [5] (Tests.line .m (Tests.mem Tests.own)), Tests.own, [7], .sram 0 0 0x100, 0, (rfl), by decide +kernel⟩,
    ⟨.cas .d .relaxed 3 (.n 0) (.n 1), (atomOp (.cas .d .relaxed 3 (.n 0) (.n 1))).get rfl, Tests.put 0x10100 [5] (Tests.line .m (Tests.mem Tests.hbm)), Tests.hbm, [7, 0], .mem (.hbm 0x10100) true, 5, (rfl), by decide +kernel⟩⟩

/-- Hypotheses of `Obligations.AtomicElse` are met. -/
theorem witness_AtomicElse :
    (∃ (i : Instr), ∃ (f : AtomicOp), ∃ (s : State), ∃ (va : Word), ∃ (vs : List Word), atomOp i = some f ∧ s.slot.owed.any (·.lda) = false ∧ operandsGive s f.dst f.srcs (va :: vs) = true ∧ s.slot.hypCur ≠ 0) ∧
    (∃ (i : Instr), ∃ (f : AtomicOp), ∃ (s : State), ∃ (va : Word), ∃ (vs : List Word), atomOp i = some f ∧ s.slot.owed.any (·.lda) = false ∧ operandsGive s f.dst f.srcs (va :: vs) = true ∧ s.slot.hypCur = 0 ∧ va.toNat % f.bytes ≠ 0) ∧
    (∃ (i : Instr), ∃ (f : AtomicOp), ∃ (s : State), ∃ (va : Word), ∃ (vs : List Word), ∃ (t : Trap), atomOp i = some f ∧ s.slot.owed.any (·.lda) = false ∧ operandsGive s f.dst f.srcs (va :: vs) = true ∧ s.slot.hypCur = 0 ∧ va.toNat % f.bytes = 0 ∧ locate (consumed s f.srcs) .atomic f.bytes va 0 = .error t) ∧
    (∃ (i : Instr), ∃ (f : AtomicOp), ∃ (s : State), ∃ (va : Word), ∃ (vs : List Word), ∃ (p : Place), ∃ (q : Option Nat), ∃ (h : Nat), ∃ (u : Nat), ∃ (w : Nat), ∃ (o : Nat), atomOp i = some f ∧ s.slot.owed.any (·.lda) = false ∧ operandsGive s f.dst f.srcs (va :: vs) = true ∧ s.slot.hypCur = 0 ∧ va.toNat % f.bytes = 0 ∧ locate (consumed s f.srcs) .atomic f.bytes va 0 = .ok p ∧ p = .window q h u w o) ∧
    (∃ (i : Instr), ∃ (f : AtomicOp), ∃ (s : State), ∃ (va : Word), ∃ (vs : List Word), ∃ (p : Place), atomOp i = some f ∧ s.slot.owed.any (·.lda) = false ∧ operandsGive s f.dst f.srcs (va :: vs) = true ∧ s.slot.hypCur = 0 ∧ va.toNat % f.bytes = 0 ∧ locate (consumed s f.srcs) .atomic f.bytes va 0 = .ok p ∧ f.order = .sc ∧ p.system = true) ∧
    (∃ (i : Instr), ∃ (f : AtomicOp), ∃ (s : State), ∃ (va : Word), ∃ (vs : List Word), ∃ (p : Place), atomOp i = some f ∧ s.slot.owed.any (·.lda) = false ∧ operandsGive s f.dst f.srcs (va :: vs) = true ∧ s.slot.hypCur = 0 ∧ va.toNat % f.bytes = 0 ∧ locate (consumed s f.srcs) .atomic f.bytes va 0 = .ok p ∧ f.order = .sc ∧ p.system = false ∧ p.windowed = false ∧ s.released = true) ∧
    (∃ (i : Instr), ∃ (f : AtomicOp), ∃ (s : State), ∃ (va : Word), ∃ (vs : List Word), ∃ (p : Place), atomOp i = some f ∧ s.slot.owed.any (·.lda) = false ∧ operandsGive s f.dst f.srcs (va :: vs) = true ∧ s.slot.hypCur = 0 ∧ va.toNat % f.bytes = 0 ∧ locate (consumed s f.srcs) .atomic f.bytes va 0 = .ok p ∧ f.order ≠ .sc ∧ (f.order = .release → s.released = true) ∧ s.atomSent f.bytes p = true) ∧
    (∃ (i : Instr), ∃ (f : AtomicOp), ∃ (s : State), ∃ (va : Word), ∃ (vs : List Word), ∃ (p : Place), atomOp i = some f ∧ s.slot.owed.any (·.lda) = false ∧ operandsGive s f.dst f.srcs (va :: vs) = true ∧ s.slot.hypCur = 0 ∧ va.toNat % f.bytes = 0 ∧ locate (consumed s f.srcs) .atomic f.bytes va 0 = .ok p ∧ f.order ≠ .sc ∧ (f.order = .release → s.released = true) ∧ s.atomSent f.bytes p = true) ∧
    (∃ (i : Instr), ∃ (f : AtomicOp), ∃ (s : State), ∃ (va : Word), ∃ (vs : List Word), ∃ (p : Place), atomOp i = some f ∧ s.slot.owed.any (·.lda) = false ∧ operandsGive s f.dst f.srcs (va :: vs) = true ∧ s.slot.hypCur = 0 ∧ va.toNat % f.bytes = 0 ∧ locate (consumed s f.srcs) .atomic f.bytes va 0 = .ok p ∧ f.order ≠ .sc ∧ (f.order = .release → s.released = true) ∧ p.peer = none ∧ sramVa va = false ∧ journalOverlap s.myCore p.key f.bytes = true) ∧
    (∃ (i : Instr), ∃ (f : AtomicOp), ∃ (s : State), ∃ (va : Word), ∃ (vs : List Word), ∃ (p : Place), atomOp i = some f ∧ s.slot.owed.any (·.lda) = false ∧ operandsGive s f.dst f.srcs (va :: vs) = true ∧ s.slot.hypCur = 0 ∧ va.toNat % f.bytes = 0 ∧ locate (consumed s f.srcs) .atomic f.bytes va 0 = .ok p ∧ f.order ≠ .sc ∧ s.atomReady f.bytes p = true ∧ poisoned s.poison p.key f.bytes = true) ∧
    (∃ (i : Instr), ∃ (f : AtomicOp), ∃ (s : State), ∃ (va : Word), ∃ (vs : List Word), ∃ (p : Place), atomOp i = some f ∧ s.slot.owed.any (·.lda) = false ∧ operandsGive s f.dst f.srcs (va :: vs) = true ∧ s.slot.hypCur = 0 ∧ va.toNat % f.bytes = 0 ∧ locate (consumed s f.srcs) .atomic f.bytes va 0 = .ok p ∧ f.order ≠ .sc ∧ s.atomReady f.bytes p = true ∧ poisoned s.poison p.key f.bytes = false ∧ s.badCross f.bytes p = true ∧ s.slot.trapsAtOnce = true) :=
  ⟨⟨.atomAdd .d .relaxed (.n 3) (.n 0) (.n 1), (atomOp (.atomAdd .d .relaxed (.n 3) (.n 0) (.n 1))).get rfl, { (Tests.sl (Tests.mem Tests.hbm) fun sl => { sl with hypCur := 3 }) with hyp := [(3, ⟨0, 0, 1, .live, 0, false, 0⟩)] }, Tests.hbm, [7], (rfl), by decide +kernel⟩,
    ⟨.atomAdd .d .relaxed (.n 3) (.n 0) (.n 1), (atomOp (.atomAdd .d .relaxed (.n 3) (.n 0) (.n 1))).get rfl, Tests.mem 0x10101, 0x10101, [7], (rfl), by decide +kernel⟩,
    ⟨.atomAdd .d .relaxed (.n 3) (.n 0) (.n 1), (atomOp (.atomAdd .d .relaxed (.n 3) (.n 0) (.n 1))).get rfl, Tests.mem Tests.hole, Tests.hole, [7], Tests.trap (locate (consumed (Tests.mem Tests.hole : State) [Tests.n 0, Tests.n 1]) .atomic 8 (Tests.hole) 0), (rfl), by decide +kernel⟩,
    ⟨.atomAdd .d .relaxed (.n 3) (.n 0) (.n 1), (atomOp (.atomAdd .d .relaxed (.n 3) (.n 0) (.n 1))).get rfl, Tests.mem Tests.win, Tests.win, [7], .window none 0 0 1 0x100, none, 0, 0, 1, 0x100, (rfl), by decide +kernel⟩,
    ⟨.atomAdd .d .sc (.n 3) (.n 0) (.n 1), (atomOp (.atomAdd .d .sc (.n 3) (.n 0) (.n 1))).get rfl, (Tests.co { Tests.mem Tests.hbm with linked := [5] } fun k => { k with tlb := [⟨0, 1, 3, 0x5 * 2 ^ 46 + 0x1023F⟩] }), Tests.hbm, [7], Tests.place (locate (consumed ((Tests.co { Tests.mem Tests.hbm with linked := [5] } fun k => { k with tlb := [⟨0, 1, 3, 0x5 * 2 ^ 46 + 0x1023F⟩] }) : State) [Tests.n 0, Tests.n 1]) .atomic 8 (Tests.hbm) 0), (rfl), by decide +kernel⟩,
    ⟨.atomAdd .d .sc (.n 3) (.n 0) (.n 1), (atomOp (.atomAdd .d .sc (.n 3) (.n 0) (.n 1))).get rfl, Tests.mem Tests.hbm, Tests.hbm, [7], .mem (.hbm 0x10100) true, (rfl), by decide +kernel⟩,
    ⟨.atomAdd .d .relaxed (.n 3) (.n 0) (.n 1), (atomOp (.atomAdd .d .relaxed (.n 3) (.n 0) (.n 1))).get rfl, (Tests.la (Tests.mem Tests.next) fun l => { l with cores := [0, 1] }), Tests.next, [7], .sram 0 1 0x100, (rfl), by decide +kernel⟩,
    ⟨.atomAdd .d .relaxed (.n 3) (.n 0) (.n 1), (atomOp (.atomAdd .d .relaxed (.n 3) (.n 0) (.n 1))).get rfl, Tests.line .s (Tests.mem Tests.hbm), Tests.hbm, [7], .mem (.hbm 0x10100) true, (rfl), by decide +kernel⟩,
    ⟨.atomAdd .d .relaxed (.n 3) (.n 0) (.n 1), (atomOp (.atomAdd .d .relaxed (.n 3) (.n 0) (.n 1))).get rfl, Tests.posted Tests.entry (Tests.mem Tests.hbm), Tests.hbm, [7], .mem (.hbm 0x10100) true, (rfl), by decide +kernel⟩,
    ⟨.atomAdd .d .relaxed (.n 3) (.n 0) (.n 1), (atomOp (.atomAdd .d .relaxed (.n 3) (.n 0) (.n 1))).get rfl, { Tests.line .m (Tests.mem Tests.hbm) with poison := [0x404] }, Tests.hbm, [7], .mem (.hbm 0x10100) true, (rfl), by decide +kernel⟩,
    ⟨.atomAdd .d .relaxed (.n 3) (.n 0) (.n 1), (atomOp (.atomAdd .d .relaxed (.n 3) (.n 0) (.n 1))).get rfl, { Tests.co (Tests.mem Tests.hbm) fun k => { k with tlb := [⟨0, 1, 3, 0x300001003F⟩] } with badCheck := [0x3000010100 / 64] }, Tests.hbm, [7], .mem (.hbm 0x3000010100) false, (rfl), by decide +kernel⟩⟩

/-- Hypotheses of `Obligations.Fences` are met. -/
theorem witness_Fences :
    (∃ (s : State), ∃ (i : Instr), (∃ sc, i = .fenceFull sc ∨ i = .fenceRelease sc) ∧ s.slot.owed.any (·.lda) = false ∧ s.released = true) ∧
    (∃ (s : State), ∃ (i : Instr), (∃ sc, i = .fenceFull sc ∨ i = .fenceRelease sc) ∧ s.slot.owed.any (·.lda) = false ∧ s.myCore.journal.any (fun j => j.mine s.cur.2 && j.refused) = false ∧ s.released = false) ∧
    (∃ (s : State), ∃ (i : Instr), ∃ (n : Nat), ∃ (j : JEntry), (∃ sc, i = .fenceFull sc ∨ i = .fenceRelease sc) ∧ s.slot.owed.any (·.lda) = false ∧ s.myCore.journal.findIdx? (fun j => j.mine s.cur.2 && j.refused) = some n ∧ s.myCore.journal.getD n {} = j ∧ s.slot.forcedOut = false) ∧
    (∃ (s : State), ∃ (q : Bool), s.slot.owed.any (·.lda) = false ∧ q = (s.slot.owed.any (·.kind == .remote) || s.myCore.vloading s.cur.2) ∧ q = false) ∧
    (∃ (s : State), ∃ (q : Bool), s.slot.owed.any (·.lda) = false ∧ q = (s.slot.owed.any (·.kind == .remote) || s.myCore.vloading s.cur.2) ∧ q = true) ∧
    (∃ (s : State), s.slot.owed.any (·.lda) = false ∧ s.released = true) :=
  ⟨⟨Tests.st, .fenceFull .core, (⟨.core, .inl rfl⟩), by decide +kernel⟩,
    ⟨Tests.posted Tests.entry Tests.st, .fenceRelease .core, (⟨.core, .inr rfl⟩), by decide +kernel⟩,
    ⟨Tests.posted { Tests.entry with refused := true, reason := 1 } Tests.st, .fenceFull .core, 0, { Tests.entry with refused := true, reason := 1 }, (⟨.core, .inl rfl⟩), by decide +kernel⟩,
    ⟨Tests.st, (((Tests.st : State)).slot.owed.any (·.kind == .remote) || ((Tests.st : State)).myCore.vloading ((Tests.st : State)).cur.2), by decide +kernel⟩,
    ⟨Tests.sl Tests.st fun sl => { sl with owed := [⟨1, .remote, false, false⟩] }, (((Tests.sl Tests.st fun sl => { sl with owed := [⟨1, .remote, false, false⟩] } : State)).slot.owed.any (·.kind == .remote) || ((Tests.sl Tests.st fun sl => { sl with owed := [⟨1, .remote, false, false⟩] } : State)).myCore.vloading ((Tests.sl Tests.st fun sl => { sl with owed := [⟨1, .remote, false, false⟩] } : State)).cur.2), by decide +kernel⟩,
    ⟨Tests.st, by decide +kernel⟩⟩

/-- Hypotheses of `Obligations.CacheFlush` are met. -/
theorem witness_CacheFlush :
    (∃ (s : State), ∃ (a : SrcM), ∃ (va : Word), ∃ (i : Instr), ∃ (t : Trap), (i = .cflushClean a ∨ i = .cflushInv a ∨ i = .cflushWbinv a) ∧ s.slot.owed.any (·.lda) = false ∧ operandsGive s .z [a] [va] = true ∧ locate (consumed s [a]) .load 1 va 0 = .error t) ∧
    (∃ (s : State), ∃ (a : SrcM), ∃ (va : Word), ∃ (i : Instr), ∃ (p : Place), ∃ (w : Bool), (i = .cflushClean a ∨ i = .cflushInv a ∨ i = .cflushWbinv a) ∧ s.slot.owed.any (·.lda) = false ∧ operandsGive s .z [a] [va] = true ∧ locate (consumed s [a]) .load 1 va 0 = .ok p ∧ w = (p.cached && i != .cflushInv a && lineDirty s (p.key / 128) && !stackReady (touchKey (consumed s [a]) p.key) p.key) ∧ (p.cached = true → linePending s s.cur.1 s.cur.2 = false ∧ lineBusy s (p.key / 128) = false) ∧ w = false) ∧
    (∃ (s : State), ∃ (a : SrcM), ∃ (va : Word), ∃ (i : Instr), ∃ (p : Place), ∃ (w : Bool), (i = .cflushClean a ∨ i = .cflushInv a ∨ i = .cflushWbinv a) ∧ s.slot.owed.any (·.lda) = false ∧ operandsGive s .z [a] [va] = true ∧ locate (consumed s [a]) .load 1 va 0 = .ok p ∧ w = (p.cached && i != .cflushInv a && lineDirty s (p.key / 128) && !stackReady (touchKey (consumed s [a]) p.key) p.key) ∧ (p.cached = true → linePending s s.cur.1 s.cur.2 = false ∧ lineBusy s (p.key / 128) = false) ∧ w = false) ∧
    (∃ (s : State), ∃ (a : SrcM), ∃ (va : Word), ∃ (i : Instr), ∃ (p : Place), ∃ (w : Bool), (i = .cflushClean a ∨ i = .cflushInv a ∨ i = .cflushWbinv a) ∧ s.slot.owed.any (·.lda) = false ∧ operandsGive s .z [a] [va] = true ∧ locate (consumed s [a]) .load 1 va 0 = .ok p ∧ w = (p.cached && i != .cflushInv a && lineDirty s (p.key / 128) && !stackReady (touchKey (consumed s [a]) p.key) p.key) ∧ (p.cached = true → linePending s s.cur.1 s.cur.2 = false ∧ lineBusy s (p.key / 128) = false) ∧ w = false) ∧
    (∃ (s : State), ∃ (a : SrcM), ∃ (va : Word), ∃ (i : Instr), ∃ (p : Place), ∃ (w : Bool), (i = .cflushClean a ∨ i = .cflushInv a ∨ i = .cflushWbinv a) ∧ s.slot.owed.any (·.lda) = false ∧ operandsGive s .z [a] [va] = true ∧ locate (consumed s [a]) .load 1 va 0 = .ok p ∧ w = (p.cached && i != .cflushInv a && lineDirty s (p.key / 128) && !stackReady (touchKey (consumed s [a]) p.key) p.key) ∧ (p.cached = true → linePending s s.cur.1 s.cur.2 = false ∧ lineBusy s (p.key / 128) = false) ∧ w = true) ∧
    (∃ (s : State), ∃ (a : SrcM), ∃ (va : Word), ∃ (i : Instr), ∃ (p : Place), (i = .cflushClean a ∨ i = .cflushInv a ∨ i = .cflushWbinv a) ∧ s.slot.owed.any (·.lda) = false ∧ operandsGive s .z [a] [va] = true ∧ locate (consumed s [a]) .load 1 va 0 = .ok p ∧ p.cached = true ∧ (linePending s s.cur.1 s.cur.2 = true ∨ lineBusy s (p.key / 128) = true)) ∧
    (∃ (s : State), ∃ (a : SrcM), ∃ (va : Word), ∃ (i : Instr), ∃ (p : Place), (i = .cflushClean a ∨ i = .cflushInv a ∨ i = .cflushWbinv a) ∧ s.slot.owed.any (·.lda) = false ∧ operandsGive s .z [a] [va] = true ∧ locate (consumed s [a]) .load 1 va 0 = .ok p ∧ p.cached = true ∧ (linePending s s.cur.1 s.cur.2 = true ∨ lineBusy s (p.key / 128) = true)) :=
  ⟨⟨Tests.mem Tests.hole, Tests.n 0, Tests.hole, .cflushInv (Tests.n 0), Tests.trap (locate (consumed (Tests.mem Tests.hole : State) [Tests.n 0]) .load 1 (Tests.hole) 0), (.inr (.inl rfl)), by decide +kernel⟩,
    ⟨Tests.mem Tests.hbm, Tests.n 0, Tests.hbm, .cflushInv (Tests.n 0), .mem (.hbm 0x10100) true, false, (.inr (.inl rfl)), by decide +kernel⟩,
    ⟨Tests.line .m (Tests.mem Tests.hbm), Tests.n 0, Tests.hbm, .cflushClean (Tests.n 0), .mem (.hbm 0x10100) true, false, (.inl rfl), by decide +kernel⟩,
    ⟨Tests.mem Tests.own, Tests.n 0, Tests.own, .cflushWbinv (Tests.n 0), .sram 0 0 0x100, false, (.inr (.inr rfl)), by decide +kernel⟩,
    ⟨{ Tests.line .m (Tests.mem Tests.hbm) with selfRefresh := List.replicate 12 true }, Tests.n 0, Tests.hbm, .cflushClean (Tests.n 0), .mem (.hbm 0x10100) true, true, (.inl rfl), by decide +kernel⟩,
    ⟨({ Tests.mem Tests.hbm with homes := [] } : State).modHome 0x202 fun h => { h with trans := .memRd 3 .getS }, Tests.n 0, Tests.hbm, .cflushInv (Tests.n 0), .mem (.hbm 0x10100) true, (.inr (.inl rfl)), by decide +kernel⟩,
    ⟨{ Tests.line .s (Tests.mem Tests.hbm) with remotes := [(5, { Tests.remote (.line none) 0x10100 8 .sent with tag := some 0 })] }, Tests.n 0, Tests.hbm, .cflushInv (Tests.n 0), .mem (.hbm 0x10100) true, (.inr (.inl rfl)), by decide +kernel⟩⟩

/-- Hypotheses of `Obligations.SendResult` are met. -/
theorem witness_SendResult :
    (∃ (s : State), ∃ (cls : BitVec 8), ∃ (a : Src), ∃ (b : Src), ∃ (t : Word), ∃ (x : Word), ∃ (dest : Nat), ∃ (peer : Option Nat), ∃ (dev : Nat), ∃ (prio : Nat), s.mayRelease = true ∧ s.numbersFit = true ∧ resolveTarget s s.slot.launch t = some (dest, peer) ∧ dest < 2 ^ 64 ∧ dev = (if peer.isSome then s.cfg.deviceId else 63) ∧ operandsGive s .z [⟨a, false⟩, ⟨b, false⟩] [t, x] = true ∧ s.slot.composed = true ∧ s.slot.composer.length ≤ 8 ∧ prio = (if b = .z then (s.classOf s.slot.launch cls.toNat).prio else x.toNat) ∧ prio < 16) ∧
    (∃ (s : State), ∃ (cls : BitVec 8), ∃ (a : Src), ∃ (b : Src), ∃ (t : Word), ∃ (x : Word), ∃ (dest : Nat), ∃ (peer : Option Nat), ∃ (dev : Nat), ∃ (prio : Nat), s.mayRelease = true ∧ s.numbersFit = true ∧ resolveTarget s s.slot.launch t = some (dest, peer) ∧ dest < 2 ^ 64 ∧ dev = (if peer.isSome then s.cfg.deviceId else 63) ∧ operandsGive s .z [⟨a, false⟩, ⟨b, false⟩] [t, x] = true ∧ s.slot.composed = true ∧ s.slot.composer.length ≤ 8 ∧ prio = (if b = .z then (s.classOf s.slot.launch cls.toNat).prio else x.toNat) ∧ prio < 16) ∧
    (∃ (s : State), ∃ (cls : BitVec 8), ∃ (a : Src), ∃ (b : Src), ∃ (t : Word), ∃ (x : Word), ∃ (dest : Nat), ∃ (peer : Option Nat), ∃ (dev : Nat), ∃ (prio : Nat), s.mayRelease = true ∧ s.numbersFit = true ∧ resolveTarget s s.slot.launch t = some (dest, peer) ∧ dest < 2 ^ 64 ∧ dev = (if peer.isSome then s.cfg.deviceId else 63) ∧ operandsGive s .z [⟨a, false⟩, ⟨b, false⟩] [t, x] = true ∧ s.slot.composed = true ∧ s.slot.composer.length ≤ 8 ∧ prio = (if b = .z then (s.classOf s.slot.launch cls.toNat).prio else x.toNat) ∧ prio < 16) ∧
    (∃ (s : State), ∃ (cls : BitVec 8), ∃ (a : Src), ∃ (b : Src), ∃ (t : Word), ∃ (x : Word), ∃ (dest : Nat), ∃ (peer : Option Nat), ∃ (dev : Nat), s.mayRelease = true ∧ s.numbersFit = true ∧ resolveTarget s s.slot.launch t = some (dest, peer) ∧ dest < 2 ^ 64 ∧ dev = (if peer.isSome then s.cfg.deviceId else 63) ∧ operandsGive s .z [⟨a, false⟩, ⟨b, false⟩] [t, x] = true ∧ s.slot.reservedWord = false ∧ s.myCore.spawns < s.myCore.spawnLimit ∧ (s.classOf s.slot.launch cls.toNat).prio < 16) ∧
    (∃ (s : State), ∃ (cls : BitVec 8), ∃ (a : Src), ∃ (t : Word), ∃ (dest : Nat), ∃ (peer : Option Nat), ∃ (dev : Nat), s.mayRelease = true ∧ s.numbersFit = true ∧ resolveTarget s s.slot.launch t = some (dest, peer) ∧ dest < 2 ^ 64 ∧ dev = (if peer.isSome then s.cfg.deviceId else 63) ∧ operandsGive s .z [⟨a, false⟩] [t] = true ∧ s.slot.migrating = none ∧ s.slot.depth = 0 ∧ s.slot.composed = true ∧ (s.classOf s.slot.launch cls.toNat).prio < 16 ∧ 8 ≤ s.slot.win.act.length ∧ ((s.slot.win.act.take 8).all fun r => r.st == .full) = true) :=
  ⟨⟨Tests.reg 1 5 Tests.st, 2, .n 0, .z, 0, 0, 63 * 2 ^ 58, none, 63, 0, by decide +kernel⟩,
    ⟨Tests.sl (Tests.reg 1 5 Tests.st) fun sl => { sl with composer := [Reg.of 8, Reg.of 9] }, 2, .n 0, .n 1, 0, 5, 63 * 2 ^ 58, none, 63, 5, by decide +kernel⟩,
    ⟨Tests.reg 0 0x1400000000000000 { Tests.st with linked := [5] }, 2, .n 0, .z, 0x1400000000000000, 0, 0x1400000000000000, some 5, 0, 0, by decide +kernel⟩,
    ⟨Tests.reg 1 5 Tests.st, 2, .n 0, .n 1, 0, 5, 63 * 2 ^ 58, none, 63, by decide +kernel⟩,
    ⟨Tests.reg 1 5 Tests.st, 2, .n 0, 0, 63 * 2 ^ 58, none, 63, by decide +kernel⟩⟩

/-- Hypotheses of `Obligations.SendStops` are met. -/
theorem witness_SendStops :
    (∃ (s : State), ∃ (a : Src), ∃ (b : Src), ∃ (t : Word), ∃ (x : Word), s.memReady = true ∧ operandsGive s .z [⟨a, false⟩, ⟨b, false⟩] [t, x] = true ∧ b ≠ .z ∧ 16 ≤ x.toNat) ∧
    (∃ (s : State), ∃ (a : Src), ∃ (b : Src), ∃ (t : Word), ∃ (x : Word), s.memReady = true ∧ operandsGive s .z [⟨a, false⟩, ⟨b, false⟩] [t, x] = true ∧ b ≠ .z ∧ x.toNat < 16 ∧ resolveTarget s s.slot.launch t = none) ∧
    (∃ (s : State), ∃ (a : Src), ∃ (b : Src), ∃ (t : Word), ∃ (x : Word), s.memReady = true ∧ operandsGive s .z [⟨a, false⟩, ⟨b, false⟩] [t, x] = true ∧ resolveTarget s s.slot.launch t ≠ none ∧ s.slot.reservedWord = true) ∧
    (∃ (s : State), ∃ (a : Src), ∃ (b : Src), ∃ (t : Word), ∃ (x : Word), s.memReady = true ∧ operandsGive s .z [⟨a, false⟩, ⟨b, false⟩] [t, x] = true ∧ resolveTarget s s.slot.launch t ≠ none ∧ s.slot.reservedWord = false ∧ s.myCore.spawnLimit ≤ s.myCore.spawns) ∧
    (∃ (s : State), ∃ (a : Src), ∃ (b : Src), ∃ (t : Word), ∃ (x : Word), ∃ p, s.memReady = true ∧ operandsGive s .z [⟨a, false⟩, ⟨b, false⟩] [t, x] = true ∧ b ≠ .z ∧ x.toNat < 16 ∧ resolveTarget s s.slot.launch t ≠ none ∧ (⟨0, .empty p⟩ : Reg) ∈ s.slot.composer) ∧
    (∃ (s : State), ∃ (a : Src), ∃ (b : Src), ∃ (t : Word), ∃ (x : Word), ∃ p, ∃ ad, ∃ pc, s.memReady = true ∧ operandsGive s .z [⟨a, false⟩, ⟨b, false⟩] [t, x] = true ∧ b ≠ .z ∧ x.toNat < 16 ∧ resolveTarget s s.slot.launch t ≠ none ∧ s.slot.composer = [⟨0, .faulted p ad pc⟩]) ∧
    (∃ (s : State), s.memReady = true ∧ s.slot.migrating = none ∧ s.slot.depth ≠ 0) :=
  ⟨⟨Tests.reg 1 16 Tests.st, .n 0, .n 1, 0, 16, by decide +kernel⟩,
    ⟨Tests.reg 0 1 (Tests.reg 1 5 Tests.st), .n 0, .n 1, 1, 5, by decide +kernel⟩,
    ⟨Tests.sl (Tests.reg 1 5 Tests.st) fun sl => { sl with composer := [Reg.of 3, ⟨0, .empty (some 1)⟩] }, .n 0, .n 1, 0, 5, by decide +kernel⟩,
    ⟨Tests.co (Tests.reg 1 5 Tests.st) fun k => { k with spawns := 16 }, .n 0, .n 1, 0, 5, by decide +kernel⟩,
    ⟨Tests.sl (Tests.reg 1 5 Tests.st) fun sl => { sl with composer := [Reg.of 3, ⟨0, .empty (some 1)⟩] }, .n 0, .n 1, 0, 5, some 1, by decide +kernel⟩,
    ⟨Tests.sl (Tests.reg 1 5 Tests.st) fun sl => { sl with composer := [⟨0, .faulted true 8 4⟩] }, .n 0, .n 1, 0, 5, true, 8, 4, by decide +kernel⟩,
    ⟨Tests.deep 1 (Tests.reg 1 5 Tests.st), by decide +kernel⟩⟩

/-- Hypotheses of `Obligations.StreamBinds` are met. -/
theorem witness_StreamBinds :
    (∃ (s : State), ∃ (st : Fin 6), s.slot.binds.getD st.val .unbound = .unbound) ∧
    (∃ (s : State), ∃ (st : Fin 6), ∃ a, ∃ v, ∃ (taken : Bool), s.slot.binds.getD st.val .unbound = .unbound ∧ operandsGive s .z [a] [v] = true ∧ taken = (s.myCore.slots.any fun p => p.2.held && p.1 != s.cur.2 && p.2.binds.any fun b => match b with | .chan x _ => x == v.toNat | _ => false) ∧ (255 ≤ v.toNat ∨ (s.classOf s.slot.launch v.toNat).cont = true ∨ taken = true)) ∧
    (∃ (s : State), ∃ (st : Fin 6), ∃ a, ∃ v, ∃ (taken : Bool), s.slot.binds.getD st.val .unbound = .unbound ∧ operandsGive s .z [a] [v] = true ∧ taken = (s.myCore.slots.any fun p => p.2.held && p.1 != s.cur.2 && p.2.binds.any fun b => match b with | .chan x _ => x == v.toNat | _ => false) ∧ (255 ≤ v.toNat ∨ (s.classOf s.slot.launch v.toNat).cont = true ∨ taken = true)) ∧
    (∃ (s : State), ∃ (st : Fin 6), ∃ a, ∃ v, ∃ (taken : Bool), s.slot.binds.getD st.val .unbound = .unbound ∧ operandsGive s .z [a] [v] = true ∧ taken = (s.myCore.slots.any fun p => p.2.held && p.1 != s.cur.2 && p.2.binds.any fun b => match b with | .chan x _ => x == v.toNat | _ => false) ∧ v.toNat < 255 ∧ (s.classOf s.slot.launch v.toNat).cont = false ∧ taken = false) :=
  ⟨⟨Tests.st, 2, by decide +kernel⟩,
    ⟨Tests.reg 1 255 Tests.st, 2, Tests.n 1, 255, false, by decide +kernel⟩,
    ⟨(Tests.nums).setSlotAt 0 1 { held := true, binds := [.chan 7 []] }, 2, Tests.n 1, 7, true, by decide +kernel⟩,
    ⟨Tests.nums, 2, Tests.n 1, 7, false, by decide +kernel⟩⟩

/-- Hypotheses of `Obligations.Convergence` are met. -/
theorem witness_Convergence :
    (∃ (s : State), ∃ a, ∃ v, ∃ (m : Nat), operandsGive s .z [a] [v] = true ∧ m = min (v.toNat % 2 ^ 31) 0x7F800000) ∧
    (∃ (s : State), ∃ (d : Dst), operandsGive s d [] [] = true) ∧
    (∃ (s : State), ∃ d, ∃ a, ∃ v, ∃ x, operandsGive s d [a] [v] = true ∧ s.launch? s.slot.launch = some x ∧ x.cut.number < 2 ^ 31) ∧
    (∃ (s : State), ∃ d, ∃ a, ∃ v, ∃ x, operandsGive s d [a] [v] = true ∧ s.launch? s.slot.launch = some x ∧ x.cut.number < 2 ^ 31) ∧
    (∃ (s : State), ∃ d, ∃ a, ∃ v, ∃ x, operandsGive s d [a] [v] = true ∧ s.launch? s.slot.launch = some x ∧ x.cut.number < 2 ^ 31) ∧
    (∃ (s : State), ∃ d, ∃ a, ∃ v, ∃ x, operandsGive s d [a] [v] = true ∧ s.launch? s.slot.launch = some x ∧ x.cut.number < 2 ^ 31) :=
  ⟨⟨Tests.nums, Tests.n 1, 7, 7, by decide +kernel⟩,
    ⟨Tests.nums, .n 3, by decide +kernel⟩,
    ⟨Tests.la Tests.nums fun l => { l with cut := { number := 7, inProgress := true } }, .n 3, Tests.n 1, 7, Tests.l0 (Tests.la Tests.nums fun l => { l with cut := { number := 7, inProgress := true } } : State), by decide +kernel⟩,
    ⟨Tests.la Tests.nums fun l => { l with cut := { number := 9, inProgress := true } }, .n 3, Tests.n 1, 7, Tests.l0 (Tests.la Tests.nums fun l => { l with cut := { number := 9, inProgress := true } } : State), by decide +kernel⟩,
    ⟨Tests.la Tests.nums fun l => { l with cut := { number := 3, inProgress := true } }, .n 3, Tests.n 1, 7, Tests.l0 (Tests.la Tests.nums fun l => { l with cut := { number := 3, inProgress := true } } : State), by decide +kernel⟩,
    ⟨Tests.la Tests.nums fun l => { l with cut := { number := 7, inProgress := false } }, .n 3, Tests.n 1, 7, Tests.l0 (Tests.la Tests.nums fun l => { l with cut := { number := 7, inProgress := false } } : State), by decide +kernel⟩⟩

/-- Hypotheses of `Obligations.BeatAnnouncements`, its part BeatAnnouncements are met. -/
theorem witness_BeatAnnouncements_BeatAnnouncements :
    (∃ (s : State), ∃ (d : Dst), ∃ (i : Instr), ∃ (k : BeatKind), ∃ (a : SrcM), ∃ (h : Word), ((i = .cut d ∧ k = .cut d ∧ operandsGive s d [] [] = true ∧ s.lr s.slot.launch 27 ≠ 0) ∨ (i = .hopen d a ∧ k = .hopen h.toNat d ∧ operandsGive s d [a] [h] = true ∧ h.toNat < 4096) ∨ (operandsGive s d [a] [h] = true ∧ 0 < h.toNat ∧ h.toNat < 4096 ∧ s.heldTag s.slot.launch h.toNat = true ∧ ((i = .hresolveR d a ∧ k = .hresolve 3 h.toNat d) ∨ (s.released = true ∧ ((i = .hresolveC d a ∧ k = .hresolve 2 h.toNat d) ∨ (i = .hresolveX d a ∧ k = .hresolve 4 h.toNat d)))))) ∧ s.slot.owed.any (·.lda) = false) ∧
    (∃ (s : State), ∃ (d : Dst), ∃ (i : Instr), ∃ (k : BeatKind), ∃ (a : SrcM), ∃ (h : Word), ((i = .cut d ∧ k = .cut d ∧ operandsGive s d [] [] = true ∧ s.lr s.slot.launch 27 ≠ 0) ∨ (i = .hopen d a ∧ k = .hopen h.toNat d ∧ operandsGive s d [a] [h] = true ∧ h.toNat < 4096) ∨ (operandsGive s d [a] [h] = true ∧ 0 < h.toNat ∧ h.toNat < 4096 ∧ s.heldTag s.slot.launch h.toNat = true ∧ ((i = .hresolveR d a ∧ k = .hresolve 3 h.toNat d) ∨ (s.released = true ∧ ((i = .hresolveC d a ∧ k = .hresolve 2 h.toNat d) ∨ (i = .hresolveX d a ∧ k = .hresolve 4 h.toNat d)))))) ∧ s.slot.owed.any (·.lda) = false) ∧
    (∃ (s : State), ∃ (d : Dst), ∃ (i : Instr), ∃ (k : BeatKind), ∃ (a : SrcM), ∃ (h : Word), ((i = .cut d ∧ k = .cut d ∧ operandsGive s d [] [] = true ∧ s.lr s.slot.launch 27 ≠ 0) ∨ (i = .hopen d a ∧ k = .hopen h.toNat d ∧ operandsGive s d [a] [h] = true ∧ h.toNat < 4096) ∨ (operandsGive s d [a] [h] = true ∧ 0 < h.toNat ∧ h.toNat < 4096 ∧ s.heldTag s.slot.launch h.toNat = true ∧ ((i = .hresolveR d a ∧ k = .hresolve 3 h.toNat d) ∨ (s.released = true ∧ ((i = .hresolveC d a ∧ k = .hresolve 2 h.toNat d) ∨ (i = .hresolveX d a ∧ k = .hresolve 4 h.toNat d)))))) ∧ s.slot.owed.any (·.lda) = false) ∧
    (∃ (s : State), ∃ (d : Dst), ∃ (i : Instr), ∃ (k : BeatKind), ∃ (a : SrcM), ∃ (h : Word), ((i = .cut d ∧ k = .cut d ∧ operandsGive s d [] [] = true ∧ s.lr s.slot.launch 27 ≠ 0) ∨ (i = .hopen d a ∧ k = .hopen h.toNat d ∧ operandsGive s d [a] [h] = true ∧ h.toNat < 4096) ∨ (operandsGive s d [a] [h] = true ∧ 0 < h.toNat ∧ h.toNat < 4096 ∧ s.heldTag s.slot.launch h.toNat = true ∧ ((i = .hresolveR d a ∧ k = .hresolve 3 h.toNat d) ∨ (s.released = true ∧ ((i = .hresolveC d a ∧ k = .hresolve 2 h.toNat d) ∨ (i = .hresolveX d a ∧ k = .hresolve 4 h.toNat d)))))) ∧ s.slot.owed.any (·.lda) = false) ∧
    (∃ (s : State), ∃ (d : Dst), ∃ (i : Instr), ∃ (k : BeatKind), ∃ (a : SrcM), ∃ (h : Word), ((i = .cut d ∧ k = .cut d ∧ operandsGive s d [] [] = true ∧ s.lr s.slot.launch 27 ≠ 0) ∨ (i = .hopen d a ∧ k = .hopen h.toNat d ∧ operandsGive s d [a] [h] = true ∧ h.toNat < 4096) ∨ (operandsGive s d [a] [h] = true ∧ 0 < h.toNat ∧ h.toNat < 4096 ∧ s.heldTag s.slot.launch h.toNat = true ∧ ((i = .hresolveR d a ∧ k = .hresolve 3 h.toNat d) ∨ (s.released = true ∧ ((i = .hresolveC d a ∧ k = .hresolve 2 h.toNat d) ∨ (i = .hresolveX d a ∧ k = .hresolve 4 h.toNat d)))))) ∧ s.slot.owed.any (·.lda) = false) ∧
    (∃ (s : State), ∃ (d : Dst), s.slot.owed.any (·.lda) = false ∧ operandsGive s d [] [] = true ∧ s.lr s.slot.launch 27 = 0) ∧
    (∃ (s : State), ∃ (d : Dst), ∃ (a : SrcM), ∃ (h : Word), ∃ (i : Instr), (i = .hopen d a ∨ i = .hresolveC d a ∨ i = .hresolveR d a ∨ i = .hresolveX d a) ∧ s.slot.owed.any (·.lda) = false ∧ operandsGive s d [a] [h] = true ∧ 4096 ≤ h.toNat) ∧
    (∃ (s : State), ∃ (d : Dst), ∃ (a : SrcM), ∃ (h : Word), ∃ (i : Instr), (i = .hopen d a ∨ i = .hresolveC d a ∨ i = .hresolveR d a ∨ i = .hresolveX d a) ∧ s.slot.owed.any (·.lda) = false ∧ operandsGive s d [a] [h] = true ∧ 4096 ≤ h.toNat) ∧
    (∃ (s : State), ∃ (d : Dst), ∃ (a : SrcM), ∃ (h : Word), ∃ (i : Instr), (i = .hopen d a ∨ i = .hresolveC d a ∨ i = .hresolveR d a ∨ i = .hresolveX d a) ∧ s.slot.owed.any (·.lda) = false ∧ operandsGive s d [a] [h] = true ∧ 4096 ≤ h.toNat) ∧
    (∃ (s : State), ∃ (d : Dst), ∃ (a : SrcM), ∃ (h : Word), ∃ (i : Instr), (i = .hopen d a ∨ i = .hresolveC d a ∨ i = .hresolveR d a ∨ i = .hresolveX d a) ∧ s.slot.owed.any (·.lda) = false ∧ operandsGive s d [a] [h] = true ∧ 4096 ≤ h.toNat) ∧
    (∃ (s : State), ∃ (d : Dst), ∃ (a : SrcM), ∃ (h : Word), ∃ (i : Instr), (i = .hresolveC d a ∨ i = .hresolveR d a ∨ i = .hresolveX d a) ∧ s.slot.owed.any (·.lda) = false ∧ operandsGive s d [a] [h] = true ∧ h.toNat < 4096 ∧ (h = 0 ∨ s.heldTag s.slot.launch h.toNat = false)) ∧
    (∃ (s : State), ∃ (d : Dst), ∃ (a : SrcM), ∃ (h : Word), ∃ (i : Instr), (i = .hresolveC d a ∨ i = .hresolveR d a ∨ i = .hresolveX d a) ∧ s.slot.owed.any (·.lda) = false ∧ operandsGive s d [a] [h] = true ∧ h.toNat < 4096 ∧ (h = 0 ∨ s.heldTag s.slot.launch h.toNat = false)) ∧
    (∃ (s : State), ∃ (d : Dst), ∃ (a : SrcM), ∃ (h : Word), ∃ (i : Instr), (i = .hresolveC d a ∨ i = .hresolveR d a ∨ i = .hresolveX d a) ∧ s.slot.owed.any (·.lda) = false ∧ operandsGive s d [a] [h] = true ∧ h.toNat < 4096 ∧ (h = 0 ∨ s.heldTag s.slot.launch h.toNat = false)) ∧
    (∃ (s : State), ∃ (d : Dst), ∃ (a : SrcM), ∃ (h : Word), ∃ (i : Instr), (i = .hresolveC d a ∨ i = .hresolveR d a ∨ i = .hresolveX d a) ∧ s.slot.owed.any (·.lda) = false ∧ operandsGive s d [a] [h] = true ∧ h.toNat < 4096 ∧ (h = 0 ∨ s.heldTag s.slot.launch h.toNat = false)) :=
  ⟨⟨Tests.lr 27 64 Tests.st, .n 3, .cut (.n 3), .cut (.n 3), Tests.n 1, 3, (.inl (by decide +kernel)), by decide +kernel⟩,
    ⟨(Tests.hyp .live (Tests.reg 1 3 Tests.st)), .n 3, .hopen (.n 3) (Tests.n 1), .hopen 3 (.n 3), Tests.n 1, 3, (.inr (.inl (by decide +kernel))), by decide +kernel⟩,
    ⟨(Tests.hyp .live (Tests.reg 1 3 Tests.st)), .n 3, .hresolveR (.n 3) (Tests.n 1), .hresolve 3 3 (.n 3), Tests.n 1, 3, (.inr (.inr ⟨by decide +kernel, by decide +kernel, by decide +kernel, by decide +kernel, .inl (by decide +kernel)⟩)), by decide +kernel⟩,
    ⟨(Tests.hyp .live (Tests.reg 1 3 Tests.st)), .n 3, .hresolveC (.n 3) (Tests.n 1), .hresolve 2 3 (.n 3), Tests.n 1, 3, (.inr (.inr ⟨by decide +kernel, by decide +kernel, by decide +kernel, by decide +kernel, .inr ⟨by decide +kernel, .inl (by decide +kernel)⟩⟩)), by decide +kernel⟩,
    ⟨(Tests.hyp .live (Tests.reg 1 3 Tests.st)), .n 3, .hresolveX (.n 3) (Tests.n 1), .hresolve 4 3 (.n 3), Tests.n 1, 3, (.inr (.inr ⟨by decide +kernel, by decide +kernel, by decide +kernel, by decide +kernel, .inr ⟨by decide +kernel, .inr (by decide +kernel)⟩⟩)), by decide +kernel⟩,
    ⟨Tests.st, .n 3, by decide +kernel⟩,
    ⟨Tests.reg 1 4096 Tests.st, .n 3, Tests.n 1, 4096, .hopen (.n 3) (Tests.n 1), (.inl rfl), by decide +kernel⟩,
    ⟨Tests.reg 1 4096 Tests.st, .n 3, Tests.n 1, 4096, .hresolveX (.n 3) (Tests.n 1), (.inr (.inr (.inr rfl))), by decide +kernel⟩,
    ⟨Tests.reg 1 4096 Tests.st, .n 3, Tests.n 1, 4096, .hresolveC (.n 3) (Tests.n 1), (.inr (.inl rfl)), by decide +kernel⟩,
    ⟨Tests.reg 1 4096 Tests.st, .n 3, Tests.n 1, 4096, .hresolveR (.n 3) (Tests.n 1), (.inr (.inr (.inl rfl))), by decide +kernel⟩,
    ⟨Tests.reg 1 0 Tests.st, .n 3, Tests.n 1, 0, .hresolveC (.n 3) (Tests.n 1), (.inl rfl), by decide +kernel⟩,
    ⟨Tests.reg 1 3 Tests.st, .n 3, Tests.n 1, 3, .hresolveC (.n 3) (Tests.n 1), (.inl rfl), by decide +kernel⟩,
    ⟨Tests.reg 1 0 Tests.st, .n 3, Tests.n 1, 0, .hresolveR (.n 3) (Tests.n 1), (.inr (.inl rfl)), by decide +kernel⟩,
    ⟨Tests.reg 1 3 Tests.st, .n 3, Tests.n 1, 3, .hresolveR (.n 3) (Tests.n 1), (.inr (.inl rfl)), by decide +kernel⟩⟩

/-- Hypotheses of `Obligations.BeatAnnouncements`, its part BeatAnnouncements are met. -/
theorem witness_BeatAnnouncements_BeatAnnouncements_2 :
    (∃ (s : State), ∃ (d : Dst), ∃ (a : SrcM), ∃ (h : Word), ∃ (i : Instr), (i = .hresolveC d a ∨ i = .hresolveR d a ∨ i = .hresolveX d a) ∧ s.slot.owed.any (·.lda) = false ∧ operandsGive s d [a] [h] = true ∧ h.toNat < 4096 ∧ (h = 0 ∨ s.heldTag s.slot.launch h.toNat = false)) ∧
    (∃ (s : State), ∃ (d : Dst), ∃ (a : SrcM), ∃ (h : Word), ∃ (i : Instr), (i = .hresolveC d a ∨ i = .hresolveR d a ∨ i = .hresolveX d a) ∧ s.slot.owed.any (·.lda) = false ∧ operandsGive s d [a] [h] = true ∧ h.toNat < 4096 ∧ (h = 0 ∨ s.heldTag s.slot.launch h.toNat = false)) :=
  ⟨⟨Tests.reg 1 0 Tests.st, .n 3, Tests.n 1, 0, .hresolveX (.n 3) (Tests.n 1), (.inr (.inr rfl)), by decide +kernel⟩,
    ⟨Tests.reg 1 3 Tests.st, .n 3, Tests.n 1, 3, .hresolveX (.n 3) (Tests.n 1), (.inr (.inr rfl)), by decide +kernel⟩⟩

/-- Hypotheses of `Obligations.BeatAnnouncements`, its part HypothesisEnter are met. -/
theorem witness_BeatAnnouncements_HypothesisEnter :
    (∃ (s : State), ∃ (a : SrcM), ∃ (h : Word), operandsGive s .z [a] [h] = true ∧ h.toNat < 4096 ∧ (h = 0 ∨ s.heldTag s.slot.launch h.toNat = true) ∧ (s.tag h.toNat).state ≠ .confirmed) ∧
    (∃ (s : State), ∃ (a : SrcM), ∃ (h : Word), operandsGive s .z [a] [h] = true ∧ h.toNat < 4096 ∧ (h = 0 ∨ s.heldTag s.slot.launch h.toNat = true)) ∧
    (∃ (s : State), ∃ (a : SrcM), ∃ (h : Word), operandsGive s .z [a] [h] = true ∧ (4096 ≤ h.toNat ∨ (h ≠ 0 ∧ s.heldTag s.slot.launch h.toNat = false))) ∧
    (∃ (s : State), ∃ (a : SrcM), ∃ (h : Word), operandsGive s .z [a] [h] = true ∧ (4096 ≤ h.toNat ∨ (h ≠ 0 ∧ s.heldTag s.slot.launch h.toNat = false))) :=
  ⟨⟨(Tests.hyp .live (Tests.reg 1 3 Tests.st)), Tests.n 1, 3, by decide +kernel⟩,
    ⟨(Tests.hyp .confirmed (Tests.reg 1 3 Tests.st)), Tests.n 1, 3, by decide +kernel⟩,
    ⟨Tests.reg 1 3 Tests.st, Tests.n 1, 3, by decide +kernel⟩,
    ⟨Tests.reg 1 4096 Tests.st, Tests.n 1, 4096, by decide +kernel⟩⟩

/-- Hypotheses of `Obligations.Barriers` are met. -/
theorem witness_Barriers :
    (∃ (s : State), ∃ (bar : BitVec 7), ∃ (x : Launch), ∃ (a : Src), ∃ (v : Word), ∃ (size : Nat), s.launch? s.slot.launch = some x ∧ operandsGive s .z [⟨a, false⟩] [v] = true ∧ x.levelSize (bitsOf v.toNat 18 16) = some size ∧ v.toNat < 2 ^ 19 ∧ 0 < bitsOf v.toNat 15 0 ∧ bitsOf v.toNat 15 0 ≤ 4 * min size (x.cores.length - s.slot.rank / size * size) ∧ x.joinsLater bar.toNat s.cycle s.cur.1 = false ∧ x.barrier? s.slot.rank bar.toNat = none ∧ x.barrierOverlaps bar.toNat (s.slot.rank / size * size) (s.slot.rank / size * size + size) = false) ∧
    (∃ (s : State), ∃ (bar : BitVec 7), ∃ (x : Launch), ∃ (a : Src), ∃ (v : Word), ∃ (size : Nat), ∃ (key : Nat), ∃ (b : Barrier), s.launch? s.slot.launch = some x ∧ operandsGive s .z [⟨a, false⟩] [v] = true ∧ x.levelSize (bitsOf v.toNat 18 16) = some size ∧ v.toNat < 2 ^ 19 ∧ 0 < bitsOf v.toNat 15 0 ∧ bitsOf v.toNat 15 0 ≤ 4 * min size (x.cores.length - s.slot.rank / size * size) ∧ x.joinsLater bar.toNat s.cycle s.cur.1 = false ∧ x.barrier? s.slot.rank bar.toNat = some (key, b) ∧ b.member? s.cur.1 s.cur.2 = none ∧ b.n = bitsOf v.toNat 15 0 ∧ b.level = bitsOf v.toNat 18 16) ∧
    (∃ (s : State), ∃ (bar : BitVec 7), ∃ (x : Launch), ∃ (a : Src), ∃ (v : Word), ∃ (size : Nat), s.launch? s.slot.launch = some x ∧ operandsGive s .z [⟨a, false⟩] [v] = true ∧ x.levelSize (bitsOf v.toNat 18 16) = some size ∧ v.toNat < 2 ^ 19 ∧ 0 < bitsOf v.toNat 15 0 ∧ bitsOf v.toNat 15 0 ≤ 4 * min size (x.cores.length - s.slot.rank / size * size) ∧ x.joinsLater bar.toNat s.cycle s.cur.1 = true) ∧
    (∃ (s : State), ∃ (bar : BitVec 7), ∃ (x : Launch), ∃ (key : Nat), ∃ (b : Barrier), s.launch? s.slot.launch = some x ∧ s.barrier? bar.toNat = some (key, b) ∧ b.member? s.cur.1 s.cur.2 = some none ∧ s.slot.owed.any (·.lda) = false ∧ s.released = true ∧ s.slot.inBwait = none ∧ b.arrivals + 1 ≠ b.n ∧ b.released ≤ b.gen ∧ (b.member? s.cur.1 s.cur.2).isSome = true) ∧
    (∃ (s : State), ∃ (bar : BitVec 7), ∃ (x : Launch), ∃ (key : Nat), ∃ (b : Barrier), s.launch? s.slot.launch = some x ∧ s.barrier? bar.toNat = some (key, b) ∧ b.member? s.cur.1 s.cur.2 = some none ∧ s.slot.owed.any (·.lda) = false ∧ s.released = true) ∧
    (∃ (s : State), ∃ (bar : BitVec 7), ∃ (x : Launch), ∃ (key : Nat), ∃ (b : Barrier), ∃ (g : Nat), s.launch? s.slot.launch = some x ∧ s.barrier? bar.toNat = some (key, b) ∧ b.member? s.cur.1 s.cur.2 = some (some g) ∧ g < b.released) ∧
    (∃ (s : State), ∃ (bar : BitVec 7), ∃ (x : Launch), ∃ (key : Nat), ∃ (b : Barrier), ∃ (g : Nat), s.launch? s.slot.launch = some x ∧ s.barrier? bar.toNat = some (key, b) ∧ b.member? s.cur.1 s.cur.2 = some (some g) ∧ b.released ≤ g) ∧
    (∃ (s : State), ∃ (bar : BitVec 7), ∃ (x : Launch), ∃ (key : Nat), ∃ (b : Barrier), s.launch? s.slot.launch = some x ∧ s.barrier? bar.toNat = some (key, b) ∧ b.member? s.cur.1 s.cur.2 = some none) ∧
    (∃ (s : State), ∃ (bar : BitVec 7), ∃ (x : Launch), ∃ (key : Nat), ∃ (b : Barrier), ∃ (i : Instr), (i = .barrive bar ∨ i = .bwait bar ∨ i = .bsync bar ∨ i = .bleave bar) ∧ s.launch? s.slot.launch = some x ∧ s.barrier? bar.toNat = some (key, b) ∧ b.member? s.cur.1 s.cur.2 = none) ∧
    (∃ (s : State), ∃ (bar : BitVec 7), ∃ (x : Launch), ∃ (i : Instr), (i = .barrive bar ∨ i = .bwait bar ∨ i = .bsync bar ∨ i = .bleave bar) ∧ s.launch? s.slot.launch = some x ∧ s.barrier? bar.toNat = none) ∧
    (∃ (s : State), ∃ (bar : BitVec 7), ∃ (x : Launch), ∃ (key : Nat), ∃ (b : Barrier), ∃ (i : Instr), (i = .barrive bar ∨ i = .bwait bar ∨ i = .bsync bar ∨ i = .bleave bar) ∧ s.launch? s.slot.launch = some x ∧ s.barrier? bar.toNat = some (key, b) ∧ b.member? s.cur.1 s.cur.2 = none) ∧
    (∃ (s : State), ∃ (bar : BitVec 7), ∃ (x : Launch), ∃ (i : Instr), (i = .barrive bar ∨ i = .bwait bar ∨ i = .bsync bar ∨ i = .bleave bar) ∧ s.launch? s.slot.launch = some x ∧ s.barrier? bar.toNat = none) ∧
    (∃ (s : State), ∃ (bar : BitVec 7), ∃ (x : Launch), ∃ (key : Nat), ∃ (b : Barrier), ∃ (i : Instr), (i = .barrive bar ∨ i = .bwait bar ∨ i = .bsync bar ∨ i = .bleave bar) ∧ s.launch? s.slot.launch = some x ∧ s.barrier? bar.toNat = some (key, b) ∧ b.member? s.cur.1 s.cur.2 = none) ∧
    (∃ (s : State), ∃ (bar : BitVec 7), ∃ (x : Launch), ∃ (i : Instr), (i = .barrive bar ∨ i = .bwait bar ∨ i = .bsync bar ∨ i = .bleave bar) ∧ s.launch? s.slot.launch = some x ∧ s.barrier? bar.toNat = none) :=
  ⟨⟨Tests.ranks [] (Tests.reg 1 2 Tests.st), 3, Tests.l0 (Tests.ranks [] (Tests.reg 1 2 Tests.st) : State), .n 1, 2, 2, by decide +kernel⟩,
    ⟨Tests.ranks [(0x30000, { n := 2, level := 0, members := [(1, 0, none)] })] (Tests.reg 1 2 Tests.st), 3, Tests.l0 (Tests.ranks [(0x30000, { n := 2, level := 0, members := [(1, 0, none)] })] (Tests.reg 1 2 Tests.st) : State), .n 1, 2, 2, 0x30000, { n := 2, level := 0, members := [(1, 0, none)] }, by decide +kernel⟩,
    ⟨{ Tests.ranks [(0x30000, { n := 2, level := 0, lastJoin := (2, 5), members := [(1, 0, none)] })] (Tests.reg 1 2 Tests.st) with cycle := 1 }, 3, Tests.l0 ({ Tests.ranks [(0x30000, { n := 2, level := 0, lastJoin := (2, 5), members := [(1, 0, none)] })] (Tests.reg 1 2 Tests.st) with cycle := 1 } : State), .n 1, 2, 2, by decide +kernel⟩,
    ⟨Tests.ranks [(0x30000, { n := 2, level := 0, members := [(0, 0, none)] })] Tests.st, 3, Tests.l0 (Tests.ranks [(0x30000, { n := 2, level := 0, members := [(0, 0, none)] })] Tests.st : State), 0x30000, { n := 2, level := 0, members := [(0, 0, none)] }, by decide +kernel⟩,
    ⟨Tests.ranks [(0x30000, { n := 2, level := 0, members := [(0, 0, none)], arrivals := 1 })] Tests.st, 3, Tests.l0 (Tests.ranks [(0x30000, { n := 2, level := 0, members := [(0, 0, none)], arrivals := 1 })] Tests.st : State), 0x30000, { n := 2, level := 0, members := [(0, 0, none)], arrivals := 1 }, by decide +kernel⟩,
    ⟨Tests.ranks [(0x30000, { n := 2, level := 0, members := [(0, 0, some 4)], gen := 5, released := 5 })] Tests.st, 3, Tests.l0 (Tests.ranks [(0x30000, { n := 2, level := 0, members := [(0, 0, some 4)], gen := 5, released := 5 })] Tests.st : State), 0x30000, { n := 2, level := 0, members := [(0, 0, some 4)], gen := 5, released := 5 }, 4, by decide +kernel⟩,
    ⟨Tests.ranks [(0x30000, { n := 2, level := 0, members := [(0, 0, some 5)], gen := 5, released := 5 })] Tests.st, 3, Tests.l0 (Tests.ranks [(0x30000, { n := 2, level := 0, members := [(0, 0, some 5)], gen := 5, released := 5 })] Tests.st : State), 0x30000, { n := 2, level := 0, members := [(0, 0, some 5)], gen := 5, released := 5 }, 5, by decide +kernel⟩,
    ⟨Tests.ranks [(0x30000, { n := 2, level := 0, members := [(0, 0, none)] })] Tests.st, 3, Tests.l0 (Tests.ranks [(0x30000, { n := 2, level := 0, members := [(0, 0, none)] })] Tests.st : State), 0x30000, { n := 2, level := 0, members := [(0, 0, none)] }, by decide +kernel⟩,
    ⟨Tests.ranks [(0x30000, { n := 2, level := 0, members := [(1, 0, none)] })] Tests.st, 3, Tests.l0 (Tests.ranks [(0x30000, { n := 2, level := 0, members := [(1, 0, none)] })] Tests.st : State), 0x30000, { n := 2, level := 0, members := [(1, 0, none)] }, .barrive 3, (.inl rfl), by decide +kernel⟩,
    ⟨Tests.st, 3, Tests.l0 (Tests.st : State), .barrive 3, (.inl rfl), by decide +kernel⟩,
    ⟨Tests.ranks [(0x30000, { n := 2, level := 0, members := [(1, 0, none)] })] Tests.st, 3, Tests.l0 (Tests.ranks [(0x30000, { n := 2, level := 0, members := [(1, 0, none)] })] Tests.st : State), 0x30000, { n := 2, level := 0, members := [(1, 0, none)] }, .bwait 3, (.inr (.inl rfl)), by decide +kernel⟩,
    ⟨Tests.st, 3, Tests.l0 (Tests.st : State), .bwait 3, (.inr (.inl rfl)), by decide +kernel⟩,
    ⟨Tests.ranks [(0x30000, { n := 2, level := 0, members := [(1, 0, none)] })] Tests.st, 3, Tests.l0 (Tests.ranks [(0x30000, { n := 2, level := 0, members := [(1, 0, none)] })] Tests.st : State), 0x30000, { n := 2, level := 0, members := [(1, 0, none)] }, .bsync 3, (.inr (.inr (.inl rfl))), by decide +kernel⟩,
    ⟨Tests.st, 3, Tests.l0 (Tests.st : State), .bsync 3, (.inr (.inr (.inl rfl))), by decide +kernel⟩⟩

/-- Hypotheses of `Obligations.Barriers` are met. -/
theorem witness_Barriers_2 :
    (∃ (s : State), ∃ (bar : BitVec 7), ∃ (x : Launch), ∃ (key : Nat), ∃ (b : Barrier), ∃ (i : Instr), (i = .barrive bar ∨ i = .bwait bar ∨ i = .bsync bar ∨ i = .bleave bar) ∧ s.launch? s.slot.launch = some x ∧ s.barrier? bar.toNat = some (key, b) ∧ b.member? s.cur.1 s.cur.2 = none) ∧
    (∃ (s : State), ∃ (bar : BitVec 7), ∃ (x : Launch), ∃ (i : Instr), (i = .barrive bar ∨ i = .bwait bar ∨ i = .bsync bar ∨ i = .bleave bar) ∧ s.launch? s.slot.launch = some x ∧ s.barrier? bar.toNat = none) :=
  ⟨⟨Tests.ranks [(0x30000, { n := 2, level := 0, members := [(1, 0, none)] })] Tests.st, 3, Tests.l0 (Tests.ranks [(0x30000, { n := 2, level := 0, members := [(1, 0, none)] })] Tests.st : State), 0x30000, { n := 2, level := 0, members := [(1, 0, none)] }, .bleave 3, (.inr (.inr (.inr rfl))), by decide +kernel⟩,
    ⟨Tests.st, 3, Tests.l0 (Tests.st : State), .bleave 3, (.inr (.inr (.inr rfl))), by decide +kernel⟩⟩

/-- Hypotheses of `Obligations.UnitRequests` are met. -/
theorem witness_UnitRequests :
    (∃ (s : State), ∃ (d : Dst), ∃ (i : Instr), ∃ (a : SrcM), ∃ (v : Word), ∃ (k : OwedKind), ((i = .hstat d a ∧ v.toNat < 4096 ∧ k = .value (if v = 0 then 1 else if (s.tag v.toNat).launch ≠ s.slot.launch then 0 else match (s.tag v.toNat).state with | .free => 0 | .live => word ((s.tag v.toNat).depth * 2 ^ 16 + (s.tag v.toNat).parent * 2 ^ 4 + 1) | .confirmed => 2 | .sweeping => 3 | .swept => 4)) ∨ (i = .lstat d a ∧ v.toNat < 64 ∧ k = .lstat v.toNat)) ∧ operandsGive s d [a] [v] = true) ∧
    (∃ (s : State), ∃ (d : Dst), ∃ (i : Instr), ∃ (a : SrcM), ∃ (v : Word), ∃ (k : OwedKind), ((i = .hstat d a ∧ v.toNat < 4096 ∧ k = .value (if v = 0 then 1 else if (s.tag v.toNat).launch ≠ s.slot.launch then 0 else match (s.tag v.toNat).state with | .free => 0 | .live => word ((s.tag v.toNat).depth * 2 ^ 16 + (s.tag v.toNat).parent * 2 ^ 4 + 1) | .confirmed => 2 | .sweeping => 3 | .swept => 4)) ∨ (i = .lstat d a ∧ v.toNat < 64 ∧ k = .lstat v.toNat)) ∧ operandsGive s d [a] [v] = true) ∧
    (∃ (s : State), ∃ (d : Dst), operandsGive s d [] [] = true) ∧
    (∃ (s : State), ∃ (d : Dst), ∃ (a : SrcM), ∃ (v : Word), operandsGive s d [a] [v] = true ∧ 4096 ≤ v.toNat ∧ 64 ≤ v.toNat) ∧
    (∃ (s : State), ∃ (d : Dst), ∃ (a : SrcM), ∃ (b : SrcM), ∃ (p : Word), ∃ (n : Word), operandsGive s d [a, b] [p, n] = true ∧ 64 ≤ p.toNat) ∧
    (∃ (s : State), ∃ (d : Dst), ∃ (a : SrcM), ∃ (b : SrcM), ∃ (p : Word), ∃ (n : Word), operandsGive s d [a, b] [p, n] = true ∧ p.toNat < 64 ∧ 64 < n.toNat) ∧
    (∃ (s : State), ∃ (d : Dst), ∃ (a : SrcM), ∃ (b : SrcM), ∃ (p : Word), ∃ (n : Word), operandsGive s d [a, b] [p, n] = true ∧ p.toNat < 64 ∧ n.toNat ≤ 64 ∧ (bitsOf (s.lr s.slot.launch 0).toNat 2 2 = 0 ∨ s.thisDevice p.toNat = true ∨ natMem s.linked p.toNat = false)) ∧
    (∃ (s : State), ∃ (d : Dst), ∃ (a : SrcM), ∃ (b : SrcM), ∃ (p : Word), ∃ (n : Word), operandsGive s d [a, b] [p, n] = true ∧ p.toNat < 64 ∧ n.toNat ≤ 64 ∧ (bitsOf (s.lr s.slot.launch 0).toNat 2 2 = 0 ∨ s.thisDevice p.toNat = true ∨ natMem s.linked p.toNat = false)) ∧
    (∃ (s : State), ∃ a, ∃ b, ∃ (va : Word), ∃ (v : Word), s.slot.priv ≠ .user ∧ 2 ^ 14 ≤ v.toNat ∧ operandsGive s .z [b] [v] = true ∧ operandsGive s .z [a, b] [va, v] = true) ∧
    (∃ (s : State), ∃ (d : Dst), ∃ (a : SrcM), ∃ (b : SrcM), ∃ (p : Word), ∃ (n : Word), operandsGive s d [a, b] [p, n] = true ∧ p.toNat < 64 ∧ n.toNat ≤ 64 ∧ bitsOf (s.lr s.slot.launch 0).toNat 2 2 = 1 ∧ s.thisDevice p.toNat = false ∧ natMem s.linked p.toNat = true) ∧
    (∃ (s : State), s.slot.priv = .user) ∧
    (∃ (s : State), ∃ (i : Instr), ∃ (op : TlbiOp), ((i = .tlbiAll ∧ op = .all) ∨ (∃ b v, i = .tlbiAsid b ∧ operandsGive s .z [b] [v] = true ∧ v.toNat < 2 ^ 14 ∧ op = .asid v.toNat) ∨ (∃ a b va v, i = .tlbiPage a b ∧ operandsGive s .z [a, b] [va, v] = true ∧ v.toNat < 2 ^ 14 ∧ op = .page va v.toNat)) ∧ s.slot.priv ≠ .user) ∧
    (∃ (s : State), ∃ (i : Instr), ∃ (op : TlbiOp), ((i = .tlbiAll ∧ op = .all) ∨ (∃ b v, i = .tlbiAsid b ∧ operandsGive s .z [b] [v] = true ∧ v.toNat < 2 ^ 14 ∧ op = .asid v.toNat) ∨ (∃ a b va v, i = .tlbiPage a b ∧ operandsGive s .z [a, b] [va, v] = true ∧ v.toNat < 2 ^ 14 ∧ op = .page va v.toNat)) ∧ s.slot.priv ≠ .user) ∧
    (∃ (s : State), ∃ (i : Instr), ∃ (op : TlbiOp), ((i = .tlbiAll ∧ op = .all) ∨ (∃ b v, i = .tlbiAsid b ∧ operandsGive s .z [b] [v] = true ∧ v.toNat < 2 ^ 14 ∧ op = .asid v.toNat) ∨ (∃ a b va v, i = .tlbiPage a b ∧ operandsGive s .z [a, b] [va, v] = true ∧ v.toNat < 2 ^ 14 ∧ op = .page va v.toNat)) ∧ s.slot.priv ≠ .user) :=
  ⟨⟨Tests.nums, .n 3, .hstat (.n 3) (Tests.n 1), Tests.n 1, 7, .value 0, (.inl (by decide +kernel)), by decide +kernel⟩,
    ⟨Tests.nums, .n 3, .lstat (.n 3) (Tests.n 1), Tests.n 1, 7, .lstat 7, (.inr (by decide +kernel)), by decide +kernel⟩,
    ⟨Tests.nums, .n 3, by decide +kernel⟩,
    ⟨Tests.reg 1 4096 Tests.st, .n 3, Tests.n 1, 4096, by decide +kernel⟩,
    ⟨Tests.reg 1 64 (Tests.reg 2 3 Tests.st), .n 3, Tests.n 1, Tests.n 2, 64, 3, by decide +kernel⟩,
    ⟨Tests.reg 1 7 (Tests.reg 2 65 Tests.st), .n 3, Tests.n 1, Tests.n 2, 7, 65, by decide +kernel⟩,
    ⟨Tests.nums, .n 3, Tests.n 1, Tests.n 2, 7, 3, by decide +kernel⟩,
    ⟨{ Tests.nums with linked := [7] }, .n 3, Tests.n 1, Tests.n 2, 7, 3, by decide +kernel⟩,
    ⟨Tests.kern (Tests.reg 1 0x4000 Tests.st), Tests.n 2, Tests.n 1, 0, 0x4000, by decide +kernel⟩,
    ⟨Tests.lr 0 4 { Tests.nums with linked := [7] }, .n 3, Tests.n 1, Tests.n 2, 7, 3, by decide +kernel⟩,
    ⟨Tests.st, by decide +kernel⟩,
    ⟨Tests.kern Tests.nums, .tlbiAll, .all, (.inl ⟨rfl, rfl⟩), by decide +kernel⟩,
    ⟨Tests.kern Tests.nums, .tlbiAsid (Tests.n 1), .asid 7, (.inr (.inl ⟨Tests.n 1, 7, by decide +kernel⟩)), by decide +kernel⟩,
    ⟨Tests.kern Tests.nums, .tlbiPage (Tests.n 2) (Tests.n 1), .page 3 7, (.inr (.inr ⟨Tests.n 2, Tests.n 1, 3, 7, by decide +kernel⟩)), by decide +kernel⟩⟩

/-- Hypotheses of `Obligations.VclaimResult` are met. -/
theorem witness_VclaimResult :
    (∃ (s : State), ∃ (d : Dst), ∃ (a : SrcM), ∃ (n : Word), operandsGive s d [a] [n] = true ∧ 64 < n.toNat) ∧
    (∃ (s : State), ∃ (d : Dst), ∃ (a : SrcM), ∃ (n : Word), operandsGive s d [a] [n] = true ∧ n.toNat ≤ 64) ∧
    (∃ (s : State), ∃ (d : Dst), ∃ (a : SrcM), ∃ (n : Word), operandsGive s d [a] [n] = true ∧ n.toNat ≤ 64) ∧
    (∃ (s : State), ∃ (d : Dst), ∃ (a : SrcM), ∃ (n : Word), operandsGive s d [a] [n] = true ∧ n.toNat ≤ 64) :=
  ⟨⟨Tests.reg 1 65 Tests.st, .n 3, Tests.n 1, 65, by decide +kernel⟩,
    ⟨Tests.reg 1 0 Tests.st, .n 3, Tests.n 1, 0, by decide +kernel⟩,
    ⟨Tests.reg 1 7 Tests.st, .n 3, Tests.n 1, 7, by decide +kernel⟩,
    ⟨Tests.reg 1 64 Tests.st, .n 3, Tests.n 1, 64, by decide +kernel⟩⟩

/-- Hypotheses of `Obligations.VflagResult` are met. -/
theorem witness_VflagResult :
    (∃ (s : State), ∃ (a : SrcM), ∃ (v : Word), ∃ (count : Nat), ∃ (va : Word), Memory.wf s.mem = true ∧ s.slot.owed.any (·.lda) = false ∧ operandsGive s .z [a] [v] = true ∧ count = bitsOf (s.lr s.slot.launch 21).toNat 15 0 ∧ va = s.lr s.slot.launch 20 + word (8 * (v.toNat / 64)) ∧ count ≤ v.toNat) ∧
    (∃ (s : State), ∃ (a : SrcM), ∃ (v : Word), ∃ (count : Nat), ∃ (va : Word), Memory.wf s.mem = true ∧ s.slot.owed.any (·.lda) = false ∧ operandsGive s .z [a] [v] = true ∧ count = bitsOf (s.lr s.slot.launch 21).toNat 15 0 ∧ va = s.lr s.slot.launch 20 + word (8 * (v.toNat / 64)) ∧ v.toNat < count ∧ s.slot.hypCur ≠ 0) ∧
    (∃ (s : State), ∃ (a : SrcM), ∃ (v : Word), ∃ (count : Nat), ∃ (va : Word), ∃ (t : Trap), Memory.wf s.mem = true ∧ s.slot.owed.any (·.lda) = false ∧ operandsGive s .z [a] [v] = true ∧ count = bitsOf (s.lr s.slot.launch 21).toNat 15 0 ∧ va = s.lr s.slot.launch 20 + word (8 * (v.toNat / 64)) ∧ v.toNat < count ∧ s.slot.hypCur = 0 ∧ locate (consumed s [a]) .atomic 8 va 0 = .error t) ∧
    (∃ (s : State), ∃ (a : SrcM), ∃ (v : Word), ∃ (count : Nat), ∃ (va : Word), ∃ (p : Place), Memory.wf s.mem = true ∧ s.slot.owed.any (·.lda) = false ∧ operandsGive s .z [a] [v] = true ∧ count = bitsOf (s.lr s.slot.launch 21).toNat 15 0 ∧ va = s.lr s.slot.launch 20 + word (8 * (v.toNat / 64)) ∧ v.toNat < count ∧ s.slot.hypCur = 0 ∧ locate (consumed s [a]) .atomic 8 va 0 = .ok p ∧ p.windowed = false ∧ p.peer ≠ none) ∧
    (∃ (s : State), ∃ (a : SrcM), ∃ (v : Word), ∃ (count : Nat), ∃ (va : Word), ∃ (p : Place), Memory.wf s.mem = true ∧ s.slot.owed.any (·.lda) = false ∧ operandsGive s .z [a] [v] = true ∧ count = bitsOf (s.lr s.slot.launch 21).toNat 15 0 ∧ va = s.lr s.slot.launch 20 + word (8 * (v.toNat / 64)) ∧ v.toNat < count ∧ s.slot.hypCur = 0 ∧ locate (consumed s [a]) .atomic 8 va 0 = .ok p ∧ p.windowed = false ∧ s.atomReady 8 p = true ∧ poisoned s.poison p.key 8 = true) ∧
    (∃ (s : State), ∃ (a : SrcM), ∃ (v : Word), ∃ (count : Nat), ∃ (va : Word), ∃ (p : Place), Memory.wf s.mem = true ∧ s.slot.owed.any (·.lda) = false ∧ operandsGive s .z [a] [v] = true ∧ count = bitsOf (s.lr s.slot.launch 21).toNat 15 0 ∧ va = s.lr s.slot.launch 20 + word (8 * (v.toNat / 64)) ∧ v.toNat < count ∧ s.slot.hypCur = 0 ∧ locate (consumed s [a]) .atomic 8 va 0 = .ok p ∧ p.windowed = false ∧ s.atomSent 8 p = true ∧ p.peer = none ∧ s.released = true) ∧
    (∃ (s : State), ∃ (a : SrcM), ∃ (v : Word), ∃ (count : Nat), ∃ (va : Word), ∃ (p : Place), Memory.wf s.mem = true ∧ s.slot.owed.any (·.lda) = false ∧ operandsGive s .z [a] [v] = true ∧ count = bitsOf (s.lr s.slot.launch 21).toNat 15 0 ∧ va = s.lr s.slot.launch 20 + word (8 * (v.toNat / 64)) ∧ v.toNat < count ∧ s.slot.hypCur = 0 ∧ locate (consumed s [a]) .atomic 8 va 0 = .ok p ∧ p.windowed = false ∧ s.atomReady 8 p = true ∧ s.badAt p 8 = false ∧ s.released = true) :=
  ⟨⟨Tests.lr 20 0x10100 (Tests.lr 21 7 Tests.nums), Tests.n 1, 7, 7, 0x10100, by decide +kernel⟩,
    ⟨Tests.sl (Tests.lr 20 0x10100 (Tests.lr 21 8 Tests.nums)) fun sl => { sl with hypCur := 3 }, Tests.n 1, 7, 8, 0x10100, by decide +kernel⟩,
    ⟨(Tests.lr 20 0x20000 (Tests.lr 21 8 Tests.nums)), Tests.n 1, 7, 8, 0x20000, Tests.trap (locate (consumed ((Tests.lr 20 0x20000 (Tests.lr 21 8 Tests.nums)) : State) [Tests.n 1]) .atomic 8 0x20000 0), by decide +kernel⟩,
    ⟨Tests.co { (Tests.lr 20 0x10100 (Tests.lr 21 8 Tests.nums)) with linked := [5] } fun k => { k with tlb := [⟨0, 1, 3, 0x5 * 2 ^ 46 + 0x1023F⟩] }, Tests.n 1, 7, 8, 0x10100, Tests.place (locate (consumed (Tests.co { (Tests.lr 20 0x10100 (Tests.lr 21 8 Tests.nums)) with linked := [5] } fun k => { k with tlb := [⟨0, 1, 3, 0x5 * 2 ^ 46 + 0x1023F⟩] } : State) [Tests.n 1]) .atomic 8 0x10100 0), by decide +kernel⟩,
    ⟨{ Tests.line .m (Tests.lr 20 0x10100 (Tests.lr 21 8 Tests.nums)) with poison := [0x404] }, Tests.n 1, 7, 8, 0x10100, .mem (.hbm 0x10100) true, by decide +kernel⟩,
    ⟨Tests.line .s (Tests.lr 20 0x10100 (Tests.lr 21 8 Tests.nums)), Tests.n 1, 7, 8, 0x10100, .mem (.hbm 0x10100) true, by decide +kernel⟩,
    ⟨Tests.line .m (Tests.lr 20 0x10100 (Tests.lr 21 8 Tests.nums)), Tests.n 1, 7, 8, 0x10100, .mem (.hbm 0x10100) true, by decide +kernel⟩⟩

/-- Hypotheses of `Obligations.SysRead` are met. -/
theorem witness_SysRead :
    (∃ (s : State), ∃ (d : Dst), ∃ (reg : BitVec 12), ∃ (v : Word), operandsGive s d [] [] = true ∧ (reg.toNat, v) ∈ sysValues s ++ sysMore s) ∧
    (∃ (s : State), ∃ (d : Dst), ∃ (reg : BitVec 12), ∃ (v : Word), operandsGive s d [] [] = true ∧ (reg.toNat, v) ∈ sysValues s ++ sysMore s) ∧
    (∃ (s : State), ∃ (d : Dst), ∃ (reg : BitVec 12), ∃ (v : Word), operandsGive s d [] [] = true ∧ (reg.toNat, v) ∈ kernelValues s ∧ s.slot.priv = .user) ∧
    (∃ (s : State), ∃ (d : Dst), ∃ (reg : BitVec 12), ∃ (v : Word), operandsGive s d [] [] = true ∧ (reg.toNat, v) ∈ kernelValues s ∧ s.slot.priv ≠ .user ∧ reg ≠ 0x100) ∧
    (∃ (s : State), ∃ (d : Dst), ∃ (reg : BitVec 12), operandsGive s d [] [] = true ∧ s.slot.priv ≠ .user ∧ reg = 0x100) ∧
    (∃ (s : State), ∃ (d : Dst), ∃ (reg : BitVec 12), ∃ (v : Word), operandsGive s d [] [] = true ∧ (reg.toNat, v) ∈ sysValues s ++ sysMore s) ∧
    (∃ (s : State), ∃ (d : Dst), ∃ (reg : BitVec 12), operandsGive s d [] [] = true ∧ reg = 0x011 ∧ (s.myCore.laneOps s.cur.2).isEmpty = true) ∧
    (∃ (s : State), ∃ (d : Dst), ∃ (reg : BitVec 12), operandsGive s d [] [] = true ∧ reg = 0x011 ∧ (s.myCore.laneOps s.cur.2).isEmpty = false) ∧
    (∃ (s : State), ∃ (d : Dst), ∃ (reg : BitVec 12), operandsGive s d [] [] = true ∧ 0x090 ≤ reg.toNat ∧ reg.toNat ≤ 0x094) ∧
    (∃ (s : State), ∃ (d : Dst), ∃ (reg : BitVec 12), operandsGive s d [] [] = true ∧ 0x090 ≤ reg.toNat ∧ reg.toNat ≤ 0x094) ∧
    (∃ (s : State), ∃ (d : Dst), ∃ (reg : BitVec 12), operandsGive s d [] [] = true ∧ regAccess reg.toNat = none) :=
  ⟨⟨Tests.st, .n 3, 0x060, 32, by decide +kernel⟩,
    ⟨Tests.co Tests.st fun k => { k with fmtWin := k.fmtWin.set 14 9 }, .n 3, 0x0CF, 9, by decide +kernel⟩,
    ⟨Tests.st, .n 3, 0x101, 0, by decide +kernel⟩,
    ⟨Tests.kern Tests.st, .n 3, 0x104, 0, by decide +kernel⟩,
    ⟨Tests.handler false, .n 3, 0x100, by decide +kernel⟩,
    ⟨Tests.co Tests.st fun k => { k with cvgQuiet := 9 }, .n 3, 0x032, 9, by decide +kernel⟩,
    ⟨Tests.sl Tests.st fun sl => { sl with fpStat := 5 }, .n 3, 0x011, by decide +kernel⟩,
    ⟨Tests.co Tests.st fun k => { k with lanes := [{ slot := 0, groups := 1, cycles := 4 }] }, .n 3, 0x011, by decide +kernel⟩,
    ⟨Tests.st, .n 3, 0x090, by decide +kernel⟩,
    ⟨Tests.st, .n 3, 0x094, by decide +kernel⟩,
    ⟨Tests.st, .n 3, 0x7FF, by decide +kernel⟩⟩

/-- Hypotheses of `Obligations.SysWrite` are met. -/
theorem witness_SysWrite :
    (∃ (s : State), ∃ (reg : BitVec 12), ∃ (a : Src), ∃ (v : Word), ∃ (m : Word), operandsGive s .z [⟨a, false⟩] [v] = true ∧ ((reg.toNat, m) ∈ userWrites ∨ ((reg.toNat, m) ∈ kernelWrites ∧ s.slot.priv ≠ .user)) ∧ regAccepts s reg.toNat v = true) ∧
    (∃ (s : State), ∃ (reg : BitVec 12), ∃ (a : Src), ∃ (v : Word), ∃ (m : Word), operandsGive s .z [⟨a, false⟩] [v] = true ∧ ((reg.toNat, m) ∈ userWrites ∨ ((reg.toNat, m) ∈ kernelWrites ∧ s.slot.priv ≠ .user)) ∧ regAccepts s reg.toNat v = true) ∧
    (∃ (s : State), ∃ (reg : BitVec 12), ∃ (a : Src), ∃ (v : Word), ∃ (m : Word), operandsGive s .z [⟨a, false⟩] [v] = true ∧ ((reg.toNat, m) ∈ userWrites ∨ ((reg.toNat, m) ∈ kernelWrites ∧ s.slot.priv ≠ .user)) ∧ regAccepts s reg.toNat v = true) ∧
    (∃ (s : State), ∃ (reg : BitVec 12), ∃ (a : Src), ∃ (v : Word), ∃ (m : Word), operandsGive s .z [⟨a, false⟩] [v] = true ∧ ((reg.toNat, m) ∈ userWrites ∨ ((reg.toNat, m) ∈ kernelWrites ∧ s.slot.priv ≠ .user)) ∧ regAccepts s reg.toNat v = true) ∧
    (∃ (s : State), ∃ (reg : BitVec 12), ∃ (a : Src), ∃ (v : Word), ∃ (m : Word), operandsGive s .z [⟨a, false⟩] [v] = true ∧ ((reg.toNat, m) ∈ userWrites ∨ ((reg.toNat, m) ∈ kernelWrites ∧ s.slot.priv ≠ .user)) ∧ regAccepts s reg.toNat v = true) ∧
    (∃ (s : State), ∃ (reg : BitVec 12), ∃ (a : Src), ∃ (v : Word), ∃ (m : Word), operandsGive s .z [⟨a, false⟩] [v] = true ∧ ((reg.toNat, m) ∈ userWrites ∨ ((reg.toNat, m) ∈ kernelWrites ∧ s.slot.priv ≠ .user)) ∧ regAccepts s reg.toNat v = false) ∧
    (∃ (s : State), ∃ (reg : BitVec 12), ∃ (a : Src), ∃ (v : Word), ∃ x, operandsGive s .z [⟨a, false⟩] [v] = true ∧ reg = 0x069 ∧ s.slot.priv ≠ .user ∧ x = v.toNat ∧ bitsOf x 2 0 = 0) ∧
    (∃ (s : State), ∃ (reg : BitVec 12), ∃ (a : Src), ∃ (v : Word), ∃ x, operandsGive s .z [⟨a, false⟩] [v] = true ∧ reg = 0x069 ∧ s.slot.priv ≠ .user ∧ x = v.toNat ∧ bitsOf x 2 0 ≠ 0) ∧
    (∃ (s : State), ∃ (reg : BitVec 12), ∃ (a : Src), ∃ (v : Word), operandsGive s .z [⟨a, false⟩] [v] = true ∧ 0x090 ≤ reg.toNat ∧ reg.toNat ≤ 0x092 ∧ regAccepts s reg.toNat v = true) ∧
    (∃ (s : State), ∃ (reg : BitVec 12), ∃ (a : Src), ∃ (v : Word), operandsGive s .z [⟨a, false⟩] [v] = true ∧ 0x090 ≤ reg.toNat ∧ reg.toNat ≤ 0x092 ∧ regAccepts s reg.toNat v = true) ∧
    (∃ (s : State), ∃ (reg : BitVec 12), ∃ (a : Src), ∃ (v : Word), operandsGive s .z [⟨a, false⟩] [v] = true ∧ 0x090 ≤ reg.toNat ∧ reg.toNat ≤ 0x092 ∧ regAccepts s reg.toNat v = true) ∧
    (∃ (s : State), ∃ (reg : BitVec 12), ∃ (a : Src), ∃ (v : Word), operandsGive s .z [⟨a, false⟩] [v] = true ∧ 0x090 ≤ reg.toNat ∧ reg.toNat ≤ 0x092 ∧ regAccepts s reg.toNat v = false) ∧
    (∃ (s : State), ∃ (reg : BitVec 12), ∃ (a : Src), ∃ (v : Word), (reg = 0x069 ∨ reg = 0x080 ∨ ∃ m, (reg.toNat, m) ∈ kernelWrites) ∧ operandsGive s .z [⟨a, false⟩] [v] = true ∧ s.slot.priv = .user) ∧
    (∃ (s : State), ∃ (reg : BitVec 12), ∃ (a : Src), ∃ (v : Word), (reg = 0x069 ∨ reg = 0x080 ∨ ∃ m, (reg.toNat, m) ∈ kernelWrites) ∧ operandsGive s .z [⟨a, false⟩] [v] = true ∧ s.slot.priv = .user) :=
  ⟨⟨Tests.nums, 0x060, .n 1, 7, 0x3F, by decide +kernel⟩,
    ⟨Tests.kern Tests.nums, 0x022, .n 1, 7, 0xF, by decide +kernel⟩,
    ⟨Tests.kern (Tests.reg 1 0x40 Tests.st), 0x105, .n 1, 0x40, ~~~0, by decide +kernel⟩,
    ⟨Tests.reg 1 32 Tests.st, 16, .n 1, 32, 255, by decide +kernel⟩,
    ⟨Tests.reg 1 137438953498 Tests.st, 207, .n 1, 137438953498, ~~~0, by decide +kernel⟩,
    ⟨Tests.reg 1 0 Tests.st, 0x060, .n 1, 0, 0x3F, by decide +kernel⟩,
    ⟨Tests.kern (Tests.reg 1 0x0002000000001000 Tests.st), 0x069, .n 1, 0x0002000000001000, 0x0002000000001000, by decide +kernel⟩,
    ⟨Tests.kern Tests.nums, 0x069, .n 1, 7, 7, by decide +kernel⟩,
    ⟨{ Tests.nums with linked := [7] }, 0x090, .n 1, 7, by decide +kernel⟩,
    ⟨{ Tests.nums with linked := [7] }, 0x091, .n 1, 7, by decide +kernel⟩,
    ⟨{ Tests.nums with linked := [7] }, 0x092, .n 1, 7, by decide +kernel⟩,
    ⟨Tests.reg 1 70 Tests.st, 0x090, .n 1, 70, by decide +kernel⟩,
    ⟨Tests.nums, 0x121, .n 1, 7, (.inr (.inr ⟨0x3FFF, by decide +kernel⟩)), by decide +kernel⟩,
    ⟨Tests.nums, 0x069, .n 1, 7, (.inl rfl), by decide +kernel⟩⟩

/-- Hypotheses of `Obligations.SysWrite` are met. -/
theorem witness_SysWrite_2 :
    (∃ (s : State), ∃ (reg : BitVec 12), ∃ (a : Src), ∃ (v : Word), (reg = 0x069 ∨ reg = 0x080 ∨ ∃ m, (reg.toNat, m) ∈ kernelWrites) ∧ operandsGive s .z [⟨a, false⟩] [v] = true ∧ s.slot.priv = .user) ∧
    (∃ (s : State), ∃ (reg : BitVec 12), ∃ (a : Src), ∃ (v : Word), ∃ (n : Nat), operandsGive s .z [⟨a, false⟩] [v] = true ∧ n ∈ [0x000, 0x001, 0x002, 0x003, 0x004, 0x020, 0x030, 0x031, 0x032, 0x040, 0x050, 0x051, 0x052, 0x058, 0x059, 0x063, 0x064, 0x070, 0x071, 0x072, 0x093, 0x094, 0x0A0, 0x0A1, 0x0A2, 0x0A3, 0x0B1, 0x0C0, 0x110, 0x112, 0x113, 0x114, 0x130] ∧ reg.toNat = n) :=
  ⟨⟨Tests.nums, 0x080, .n 1, 7, (.inr (.inl rfl)), by decide +kernel⟩,
    ⟨Tests.nums, 0x130, .n 1, 7, 0x130, by decide +kernel⟩⟩

/-- Hypotheses of `Obligations.VectorResult` are met. -/
theorem witness_VectorResult :
    (∃ (i : Instr), ∃ (f : VecOp), ∃ (s : State), vecOp i = some f ∧ (∀ n, n < f.count s.slot → s.slot.takes f.mask n = true → s.slot.traps (f.val s.slot n).2 = false) ∧ s.vecReady f.reads f.mask (some f.vd) = true) ∧
    (∃ (i : Instr), ∃ (f : VecOp), ∃ (s : State), vecOp i = some f ∧ (∀ n, n < f.count s.slot → s.slot.takes f.mask n = true → s.slot.traps (f.val s.slot n).2 = false) ∧ s.vecReady f.reads f.mask (some f.vd) = true) :=
  ⟨⟨.vaddI 5 1 2 Tests.all, (vecOp (.vaddI 5 1 2 Tests.all)).get rfl, Tests.vec, (rfl), (by decide +kernel), by decide +kernel⟩,
    ⟨.vfma .d 4 1 2 ⟨6, true, true⟩, (vecOp (.vfma .d 4 1 2 ⟨6, true, true⟩)).get rfl, Tests.vec, (rfl), (by decide +kernel), by decide +kernel⟩⟩

/-- Hypotheses of `Obligations.VectorStops` are met. -/
theorem witness_VectorStops :
    (∃ (i : Instr), ∃ (f : VecOp), ∃ (s : State), ∃ (m : VMask), ∃ r, ∃ x, vecOp i = some f ∧ m = f.mask ∧ (f.reads ++ maskReads m (some f.vd)).head? = some r ∧ s.slot.vfaults.getD r.val none = some x) ∧
    (∃ (i : Instr), ∃ (f : VecOp), ∃ (s : State), ∃ (m : VMask), vecOp i = some f ∧ (∀ r ∈ f.reads ++ maskReads m (some f.vd), s.slot.vfaults.getD r.val none = none) ∧ m = f.mask ∧ s.slot.vl = 0) ∧
    (∃ (i : Instr), ∃ (f : VecOp), ∃ (s : State), ∃ (m : VMask), vecOp i = some f ∧ m = f.mask ∧ (∀ r ∈ f.reads ++ maskReads m (some f.vd), s.slot.vfaults.getD r.val none = none) ∧ s.slot.vl ≠ 0 ∧ laneFull s = true) ∧
    (∃ (i : Instr), ∃ (f : VecOp), ∃ (s : State), ∃ (m : VMask), ∃ (n : Nat), vecOp i = some f ∧ m = f.mask ∧ (∀ r ∈ f.reads ++ maskReads m (some f.vd), s.slot.vfaults.getD r.val none = none) ∧ s.vecReady f.reads m (some f.vd) = true ∧ s.slot.trapsAtOnce = true ∧ n < f.count s.slot ∧ s.slot.takes f.mask n = true ∧ s.slot.traps (f.val s.slot n).2 = true ∧ (∀ j, j < n → s.slot.takes f.mask j = true → s.slot.traps (f.val s.slot j).2 = false)) ∧
    (∃ (i : Instr), ∃ (f : VecOp), ∃ (s : State), ∃ (m : VMask), vecOp i = some f ∧ m = f.mask ∧ (∀ r ∈ f.reads ++ maskReads m (some f.vd), s.slot.vfaults.getD r.val none = none) ∧ s.slot.vl ≠ 0 ∧ laneFull s = false ∧ vecAwaits s (f.reads ++ maskReads m (some f.vd)) = true) :=
  ⟨⟨.vaddI 5 1 2 Tests.all, (vecOp (.vaddI 5 1 2 Tests.all)).get rfl, Tests.sl Tests.vec fun sl => { sl with vfaults := sl.vfaults.set 1 (some ⟨true, 8, 4⟩) }, Tests.all, 1, ⟨true, 8, 4⟩, (rfl), by decide +kernel⟩,
    ⟨.vaddI 5 1 2 Tests.all, (vecOp (.vaddI 5 1 2 Tests.all)).get rfl, Tests.sl Tests.vec fun sl => { sl with vl := 0 }, Tests.all, (rfl), (by decide +kernel), by decide +kernel⟩,
    ⟨.vaddI 5 1 2 Tests.all, (vecOp (.vaddI 5 1 2 Tests.all)).get rfl, Tests.co Tests.vec fun k => { k with lanes := List.replicate 16 { slot := 0, groups := 1, cycles := 1 } }, Tests.all, (rfl), by decide +kernel⟩,
    ⟨.vdivS 5 1 2 Tests.all, (vecOp (.vdivS 5 1 2 Tests.all)).get rfl, Tests.sl Tests.vec fun sl => { sl with fpCtrl := 0xF8, vregs := [] }, Tests.all, 0, (rfl), by decide +kernel⟩,
    ⟨.vaddI 5 1 2 Tests.all, (vecOp (.vaddI 5 1 2 Tests.all)).get rfl, Tests.access (Tests.remote (.vload 1 2) 0x10100 4 .sent) Tests.vec, Tests.all, (rfl), by decide +kernel⟩⟩

/-- Hypotheses of `Obligations.VectorScalar`, its part VectorScalar are met. -/
theorem witness_VectorScalar_VectorScalar :
    (∃ (s : State), ∃ (d : Fin 16), ∃ m, ∃ (a : SrcM), ∃ (v : Word), operandsGive s .z [a] [v] = true ∧ s.vecReady [] m (some d) = true) ∧
    (∃ (s : State), ∃ (d : Fin 16), ∃ m, ∃ (a : SrcM), ∃ (v : Word), operandsGive s .z [a] [v] = true ∧ s.vecReady [] m (some d) = true) ∧
    (∃ (s : State), ∃ (k : VExtKind), ∃ (r : Fin 16), ∃ (a : SrcM), ∃ (n : Word), operandsGive s .z [a] [n] = true ∧ s.vecReady [r] ⟨0, false, false⟩ none = true ∧ n.toNat < (if k = .d then s.slot.vl / 2 else s.slot.vl)) ∧
    (∃ (s : State), ∃ (k : VExtKind), ∃ (r : Fin 16), ∃ (a : SrcM), ∃ (n : Word), operandsGive s .z [a] [n] = true ∧ s.vecReady [r] ⟨0, false, false⟩ none = true ∧ (if k = .d then s.slot.vl / 2 else s.slot.vl) ≤ n.toNat) ∧
    (∃ (s : State), ∃ (r : Fin 16), ∃ (vm : Fin 16), ∃ (me : Bool), ∃ (m : VMask), m = (⟨vm, me, false⟩ : VMask) ∧ s.vecReady [r] m none = true) ∧
    (∃ (s : State), ∃ (op : VRedOp), ∃ (r : Fin 16), ∃ (m : VMask), ∃ (xs : List Nat), ∃ (v : Word), ((op = .addI ∧ v = BitVec.ofInt 64 (xs.map signed32).sum) ∨ (op = .minI ∧ v = BitVec.ofInt 64 ((xs.map signed32).foldr min 0x7FFFFFFF)) ∨ (op = .maxI ∧ v = BitVec.ofInt 64 ((xs.map signed32).foldr max (-0x80000000))) ∨ (op = .or ∧ v = word (xs.foldr (· ||| ·) 0)) ∨ (op = .and ∧ v = word (xs.foldr (· &&& ·) 0xFFFFFFFF))) ∧ s.vecReady [r] m none = true ∧ s.slot.vl ≤ 64 ∧ xs = ((List.range s.slot.vl).filter (s.slot.takes m)).map (s.slot.velem r)) ∧
    (∃ (s : State), ∃ (op : VRedOp), ∃ (r : Fin 16), ∃ (m : VMask), ∃ (xs : List Nat), ∃ (v : Word), ((op = .addI ∧ v = BitVec.ofInt 64 (xs.map signed32).sum) ∨ (op = .minI ∧ v = BitVec.ofInt 64 ((xs.map signed32).foldr min 0x7FFFFFFF)) ∨ (op = .maxI ∧ v = BitVec.ofInt 64 ((xs.map signed32).foldr max (-0x80000000))) ∨ (op = .or ∧ v = word (xs.foldr (· ||| ·) 0)) ∨ (op = .and ∧ v = word (xs.foldr (· &&& ·) 0xFFFFFFFF))) ∧ s.vecReady [r] m none = true ∧ s.slot.vl ≤ 64 ∧ xs = ((List.range s.slot.vl).filter (s.slot.takes m)).map (s.slot.velem r)) ∧
    (∃ (s : State), ∃ (op : VRedOp), ∃ (r : Fin 16), ∃ (m : VMask), ∃ (xs : List Nat), ∃ (v : Word), ((op = .addI ∧ v = BitVec.ofInt 64 (xs.map signed32).sum) ∨ (op = .minI ∧ v = BitVec.ofInt 64 ((xs.map signed32).foldr min 0x7FFFFFFF)) ∨ (op = .maxI ∧ v = BitVec.ofInt 64 ((xs.map signed32).foldr max (-0x80000000))) ∨ (op = .or ∧ v = word (xs.foldr (· ||| ·) 0)) ∨ (op = .and ∧ v = word (xs.foldr (· &&& ·) 0xFFFFFFFF))) ∧ s.vecReady [r] m none = true ∧ s.slot.vl ≤ 64 ∧ xs = ((List.range s.slot.vl).filter (s.slot.takes m)).map (s.slot.velem r)) ∧
    (∃ (s : State), ∃ (op : VRedOp), ∃ (r : Fin 16), ∃ (m : VMask), ∃ (xs : List Nat), ∃ (v : Word), ((op = .addI ∧ v = BitVec.ofInt 64 (xs.map signed32).sum) ∨ (op = .minI ∧ v = BitVec.ofInt 64 ((xs.map signed32).foldr min 0x7FFFFFFF)) ∨ (op = .maxI ∧ v = BitVec.ofInt 64 ((xs.map signed32).foldr max (-0x80000000))) ∨ (op = .or ∧ v = word (xs.foldr (· ||| ·) 0)) ∨ (op = .and ∧ v = word (xs.foldr (· &&& ·) 0xFFFFFFFF))) ∧ s.vecReady [r] m none = true ∧ s.slot.vl ≤ 64 ∧ xs = ((List.range s.slot.vl).filter (s.slot.takes m)).map (s.slot.velem r)) ∧
    (∃ (s : State), ∃ (op : VRedOp), ∃ (r : Fin 16), ∃ (m : VMask), ∃ (xs : List Nat), ∃ (v : Word), ((op = .addI ∧ v = BitVec.ofInt 64 (xs.map signed32).sum) ∨ (op = .minI ∧ v = BitVec.ofInt 64 ((xs.map signed32).foldr min 0x7FFFFFFF)) ∨ (op = .maxI ∧ v = BitVec.ofInt 64 ((xs.map signed32).foldr max (-0x80000000))) ∨ (op = .or ∧ v = word (xs.foldr (· ||| ·) 0)) ∨ (op = .and ∧ v = word (xs.foldr (· &&& ·) 0xFFFFFFFF))) ∧ s.vecReady [r] m none = true ∧ s.slot.vl ≤ 64 ∧ xs = ((List.range s.slot.vl).filter (s.slot.takes m)).map (s.slot.velem r)) :=
  ⟨⟨Tests.vec, 5, Tests.all, Tests.n 1, 7, by decide +kernel⟩,
    ⟨Tests.vec, 5, Tests.all, Tests.n 1, 7, by decide +kernel⟩,
    ⟨Tests.vec, .sw, 2, Tests.n 1, 7, by decide +kernel⟩,
    ⟨Tests.vec, .d, 2, Tests.n 1, 7, by decide +kernel⟩,
    ⟨Tests.vec, 2, 6, true, ⟨6, true, false⟩, by decide +kernel⟩,
    ⟨Tests.vec, .addI, 2, Tests.all, [2, 3, 4, 5, 6, 7, 8, 9], 44, (.inl ⟨rfl, by decide +kernel⟩), by decide +kernel⟩,
    ⟨Tests.vec, .minI, 2, Tests.all, [2, 3, 4, 5, 6, 7, 8, 9], 2, (.inr (.inl ⟨rfl, by decide +kernel⟩)), by decide +kernel⟩,
    ⟨Tests.vec, .maxI, 2, Tests.all, [2, 3, 4, 5, 6, 7, 8, 9], 9, (.inr (.inr (.inl ⟨rfl, by decide +kernel⟩))), by decide +kernel⟩,
    ⟨Tests.vec, .or, 2, Tests.all, [2, 3, 4, 5, 6, 7, 8, 9], 15, (.inr (.inr (.inr (.inl ⟨rfl, by decide +kernel⟩)))), by decide +kernel⟩,
    ⟨Tests.vec, .and, 2, Tests.all, [2, 3, 4, 5, 6, 7, 8, 9], 0, (.inr (.inr (.inr (.inr ⟨rfl, by decide +kernel⟩)))), by decide +kernel⟩⟩

/-- Hypotheses of `Obligations.VectorScalar`, its part VectorReduce are met. -/
theorem witness_VectorScalar_VectorReduce :
    (∃ (s : State), ∃ (op : VRedOp), ∃ (p : Prec), ∃ (ident : Nat), ∃ (f : FpEnv → Nat → Nat → Nat × Nat), ∃ (r : Fin 16), ∃ (m : VMask), ∃ (k : Nat), redFp op = some (p, ident, f) ∧ s.vecReady [r] m none = true ∧ s.slot.fpTraps = false ∧ k ≤ 6 ∧ (if p = .d then s.slot.vl / 2 else s.slot.vl) = 2 ^ k) ∧
    (∃ (s : State), ∃ (op : VRedOp), ∃ (p : Prec), ∃ (ident : Nat), ∃ (f : FpEnv → Nat → Nat → Nat × Nat), ∃ (r : Fin 16), ∃ (m : VMask), ∃ (k : Nat), redFp op = some (p, ident, f) ∧ s.vecReady [r] m none = true ∧ s.slot.fpTraps = false ∧ k ≤ 6 ∧ (if p = .d then s.slot.vl / 2 else s.slot.vl) = 2 ^ k) ∧
    (∃ (s : State), ∃ (op : VRedOp), ∃ (p : Prec), ∃ (ident : Nat), ∃ (f : FpEnv → Nat → Nat → Nat × Nat), ∃ (r : Fin 16), ∃ (m : VMask), ∃ (k : Nat), redFp op = some (p, ident, f) ∧ s.vecReady [r] m none = true ∧ s.slot.fpTraps = false ∧ k ≤ 6 ∧ (if p = .d then s.slot.vl / 2 else s.slot.vl) = 2 ^ k) :=
  ⟨⟨Tests.vec, .addS, .s, 0x80000000, fp32.add, 2, Tests.all, 3, (rfl), by decide +kernel⟩,
    ⟨Tests.vec, .addD, .d, 0x8000000000000000, fp64.add, 2, Tests.all, 2, (rfl), by decide +kernel⟩,
    ⟨Tests.vec, .maxS, .s, 0xFF800000, fun _ => fp32.pick true, 2, ⟨6, true, false⟩, 3, (rfl), by decide +kernel⟩⟩

/-- Hypotheses of `Obligations.VectorLoad` are met. -/
theorem witness_VectorLoad :
    (∃ (s : State), ∃ (i : Instr), ∃ (z : Size), ∃ (d : Fin 16), ∃ (m : VMask), ∃ (a : SrcM), ∃ (b : Word), ∃ (reads : List (Fin 16)), ∃ (addr : Nat → Word), ∃ (n : Nat), ∃ (l : List (Nat × Word)), ((i = .vld z false d m a ∧ s.orphan = false ∧ reads = [] ∧ addr = fun n => b + word (n * 2 ^ storeLog z)) ∨ (i = .vld z true d m a ∧ s.orphan = false ∧ reads = [] ∧ addr = fun n => b + word n * s.slot.vstride) ∨ ∃ va, i = .vgather z d va m a ∧ reads = [va] ∧ addr = fun n => b + word (s.slot.velem va n)) ∧ s.slot.owed.any (·.lda) = false ∧ operandsGive s .z [a] [b] = true ∧ s.vecReady reads m (some d) = true ∧ n = 2 ^ storeLog z ∧ l = vecElems s.slot (if z = .d then s.slot.vl / 2 else s.slot.vl) m addr ∧ s.ownElems .load n l = true ∧ (l.all fun p => !poisoned s.poison (ownKey p.2) n && !journalOverlap s.myCore (ownKey p.2) n) = true) ∧
    (∃ (s : State), ∃ (i : Instr), ∃ (z : Size), ∃ (d : Fin 16), ∃ (m : VMask), ∃ (a : SrcM), ∃ (b : Word), ∃ (reads : List (Fin 16)), ∃ (addr : Nat → Word), ∃ (n : Nat), ∃ (l : List (Nat × Word)), ((i = .vld z false d m a ∧ s.orphan = false ∧ reads = [] ∧ addr = fun n => b + word (n * 2 ^ storeLog z)) ∨ (i = .vld z true d m a ∧ s.orphan = false ∧ reads = [] ∧ addr = fun n => b + word n * s.slot.vstride) ∨ ∃ va, i = .vgather z d va m a ∧ reads = [va] ∧ addr = fun n => b + word (s.slot.velem va n)) ∧ s.slot.owed.any (·.lda) = false ∧ operandsGive s .z [a] [b] = true ∧ s.vecReady reads m (some d) = true ∧ n = 2 ^ storeLog z ∧ l = vecElems s.slot (if z = .d then s.slot.vl / 2 else s.slot.vl) m addr ∧ s.ownElems .load n l = true ∧ (l.all fun p => !poisoned s.poison (ownKey p.2) n && !journalOverlap s.myCore (ownKey p.2) n) = true) ∧
    (∃ (s : State), ∃ (i : Instr), ∃ (z : Size), ∃ (d : Fin 16), ∃ (m : VMask), ∃ (a : SrcM), ∃ (b : Word), ∃ (reads : List (Fin 16)), ∃ (addr : Nat → Word), ∃ (n : Nat), ∃ (l : List (Nat × Word)), ((i = .vld z false d m a ∧ s.orphan = false ∧ reads = [] ∧ addr = fun n => b + word (n * 2 ^ storeLog z)) ∨ (i = .vld z true d m a ∧ s.orphan = false ∧ reads = [] ∧ addr = fun n => b + word n * s.slot.vstride) ∨ ∃ va, i = .vgather z d va m a ∧ reads = [va] ∧ addr = fun n => b + word (s.slot.velem va n)) ∧ s.slot.owed.any (·.lda) = false ∧ operandsGive s .z [a] [b] = true ∧ s.vecReady reads m (some d) = true ∧ n = 2 ^ storeLog z ∧ l = vecElems s.slot (if z = .d then s.slot.vl / 2 else s.slot.vl) m addr ∧ s.ownElems .load n l = true ∧ (l.all fun p => !poisoned s.poison (ownKey p.2) n && !journalOverlap s.myCore (ownKey p.2) n) = true) ∧
    (∃ (s : State), ∃ (i : Instr), ∃ (z : Size), ∃ (d : Fin 16), ∃ (m : VMask), ∃ (a : SrcM), ∃ (b : Word), ∃ (reads : List (Fin 16)), ∃ (addr : Nat → Word), ∃ (n : Nat), ∃ (l : List (Nat × Word)), ∃ (e : Nat), ∃ (rest : List (Nat × Word)), ∃ (t : Trap), ((i = .vld z false d m a ∧ s.orphan = false ∧ reads = [] ∧ addr = fun n => b + word (n * 2 ^ storeLog z)) ∨ (i = .vld z true d m a ∧ s.orphan = false ∧ reads = [] ∧ addr = fun n => b + word n * s.slot.vstride) ∨ ∃ va, i = .vgather z d va m a ∧ reads = [va] ∧ addr = fun n => b + word (s.slot.velem va n)) ∧ s.slot.owed.any (·.lda) = false ∧ operandsGive s .z [a] [b] = true ∧ s.vecReady reads m (some d) = true ∧ n = 2 ^ storeLog z ∧ l = vecElems s.slot (if z = .d then s.slot.vl / 2 else s.slot.vl) m addr ∧ l = (e, addr e) :: rest ∧ loadElemPlace (consumed s [a]) n e (addr e) = .error t) :=
  ⟨⟨Tests.vec, .vld .d false 5 Tests.all (Tests.n 0), .d, 5, Tests.all, Tests.n 0, Tests.own, [], fun n => Tests.own + word (n * 8), 8, vecElems ((Tests.vec : State)).slot 4 Tests.all (fun n => Tests.own + word (n * 8)), (.inl ⟨rfl, by decide +kernel, rfl, rfl⟩), by decide +kernel⟩,
    ⟨Tests.sl Tests.vec fun sl => { sl with vstride := 16 }, .vld .d true 5 Tests.all (Tests.n 0), .d, 5, Tests.all, Tests.n 0, Tests.own, [], fun n => Tests.own + word n * 16, 8, vecElems ((Tests.sl Tests.vec fun sl => { sl with vstride := 16 } : State)).slot 4 Tests.all (fun n => Tests.own + word n * 16), (.inr (.inl ⟨rfl, by decide +kernel, rfl, rfl⟩)), by decide +kernel⟩,
    ⟨Tests.vec, .vgather .d 5 3 Tests.all (Tests.n 0), .d, 5, Tests.all, Tests.n 0, Tests.own, [3], fun n => Tests.own + word (Tests.vec.slot.velem 3 n), 8, vecElems ((Tests.vec : State)).slot 4 Tests.all (fun n => Tests.own + word (Tests.vec.slot.velem 3 n)), (.inr (.inr ⟨3, rfl, rfl, rfl⟩)), by decide +kernel⟩,
    ⟨Tests.reg 0 Tests.hole Tests.vec, .vld .d false 5 Tests.all (Tests.n 0), .d, 5, Tests.all, Tests.n 0, Tests.hole, [], fun n => Tests.hole + word (n * 8), 8, vecElems ((Tests.reg 0 Tests.hole Tests.vec : State)).slot 4 Tests.all (fun n => Tests.hole + word (n * 8)), 0, ((vecElems ((Tests.reg 0 Tests.hole Tests.vec : State)).slot 4 Tests.all (fun n => Tests.hole + word (n * 8)))).tail, Tests.trap (loadElemPlace (consumed (Tests.reg 0 Tests.hole Tests.vec : State) [Tests.n 0]) 8 0 Tests.hole), (.inl ⟨rfl, by decide +kernel, rfl, rfl⟩), by decide +kernel⟩⟩

/-- Hypotheses of `Obligations.VectorStore` are met. -/
theorem witness_VectorStore :
    (∃ (s : State), ∃ (i : Instr), ∃ (n : Nat), ∃ (d : Fin 16), ∃ (m : VMask), ∃ (a : SrcM), ∃ (b : Word), ∃ (reads : List (Fin 16)), ∃ (pair : Bool), ∃ (kind : AccKind), ∃ (addr : Nat → Word), ∃ (data : Nat → Nat → Nat), ∃ (l : List (Nat × Word)), ((∃ z, n = 2 ^ storeLog z ∧ pair = (z == .d) ∧ kind = .store ∧ (data = fun e _ => (if z = .d then s.slot.vpair d e else s.slot.velem d e) % 2 ^ (8 * n)) ∧ ((i = .vst z false d m a ∧ s.orphan = false ∧ reads = [] ∧ addr = fun e => b + word (e * n)) ∨ (i = .vst z true d m a ∧ s.orphan = false ∧ reads = [] ∧ addr = fun e => b + word e * s.slot.vstride) ∨ ∃ va, i = .vscatter z d va m a ∧ reads = [va] ∧ addr = fun e => b + word (s.slot.velem va e))) ∨ (n = 4 ∧ pair = false ∧ kind = .atomic ∧ ∃ va op g, i = .vatom op d va m a ∧ reads = [va] ∧ (addr = fun e => b + word (s.slot.velem va e)) ∧ (data = fun e old => g old (s.slot.velem d e)) ∧ ((op = .add ∧ g = fun x y => (x + y) % 2 ^ 32) ∨ (op = .and ∧ g = fun x y => x &&& y) ∨ (op = .or ∧ g = fun x y => x ||| y) ∨ (op = .xor ∧ g = fun x y => x ^^^ y) ∨ (op = .min ∧ g = fun x y => if signed32 x ≤ signed32 y then x else y) ∨ (op = .max ∧ g = fun x y => if signed32 x ≤ signed32 y then y else x) ∨ (op = .minu ∧ g = fun x y => if x ≤ y then x else y) ∨ (op = .maxu ∧ g = fun x y => if x ≤ y then y else x)))) ∧ Memory.wf s.mem = true ∧ s.slot.owed.any (·.lda) = false ∧ operandsGive s .z [a] [b] = true ∧ s.slot.hypCur = 0 ∧ s.vecReady (d :: reads) m none = true ∧ l = (vecElems s.slot (if pair then s.slot.vl / 2 else s.slot.vl) m addr).drop s.slot.vdone ∧ s.ownElems kind n l = true ∧ (kind = .atomic → (l.all fun p => !poisoned s.poison (ownKey p.2) n) = true)) ∧
    (∃ (s : State), ∃ (i : Instr), ∃ (n : Nat), ∃ (d : Fin 16), ∃ (m : VMask), ∃ (a : SrcM), ∃ (b : Word), ∃ (reads : List (Fin 16)), ∃ (pair : Bool), ∃ (kind : AccKind), ∃ (addr : Nat → Word), ∃ (data : Nat → Nat → Nat), ∃ (l : List (Nat × Word)), ((∃ z, n = 2 ^ storeLog z ∧ pair = (z == .d) ∧ kind = .store ∧ (data = fun e _ => (if z = .d then s.slot.vpair d e else s.slot.velem d e) % 2 ^ (8 * n)) ∧ ((i = .vst z false d m a ∧ s.orphan = false ∧ reads = [] ∧ addr = fun e => b + word (e * n)) ∨ (i = .vst z true d m a ∧ s.orphan = false ∧ reads = [] ∧ addr = fun e => b + word e * s.slot.vstride) ∨ ∃ va, i = .vscatter z d va m a ∧ reads = [va] ∧ addr = fun e => b + word (s.slot.velem va e))) ∨ (n = 4 ∧ pair = false ∧ kind = .atomic ∧ ∃ va op g, i = .vatom op d va m a ∧ reads = [va] ∧ (addr = fun e => b + word (s.slot.velem va e)) ∧ (data = fun e old => g old (s.slot.velem d e)) ∧ ((op = .add ∧ g = fun x y => (x + y) % 2 ^ 32) ∨ (op = .and ∧ g = fun x y => x &&& y) ∨ (op = .or ∧ g = fun x y => x ||| y) ∨ (op = .xor ∧ g = fun x y => x ^^^ y) ∨ (op = .min ∧ g = fun x y => if signed32 x ≤ signed32 y then x else y) ∨ (op = .max ∧ g = fun x y => if signed32 x ≤ signed32 y then y else x) ∨ (op = .minu ∧ g = fun x y => if x ≤ y then x else y) ∨ (op = .maxu ∧ g = fun x y => if x ≤ y then y else x)))) ∧ Memory.wf s.mem = true ∧ s.slot.owed.any (·.lda) = false ∧ operandsGive s .z [a] [b] = true ∧ s.slot.hypCur = 0 ∧ s.vecReady (d :: reads) m none = true ∧ l = (vecElems s.slot (if pair then s.slot.vl / 2 else s.slot.vl) m addr).drop s.slot.vdone ∧ s.ownElems kind n l = true ∧ (kind = .atomic → (l.all fun p => !poisoned s.poison (ownKey p.2) n) = true)) ∧
    (∃ (s : State), ∃ (i : Instr), ∃ (n : Nat), ∃ (d : Fin 16), ∃ (m : VMask), ∃ (a : SrcM), ∃ (b : Word), ∃ (reads : List (Fin 16)), ∃ (pair : Bool), ∃ (kind : AccKind), ∃ (addr : Nat → Word), ∃ (data : Nat → Nat → Nat), ∃ (l : List (Nat × Word)), ((∃ z, n = 2 ^ storeLog z ∧ pair = (z == .d) ∧ kind = .store ∧ (data = fun e _ => (if z = .d then s.slot.vpair d e else s.slot.velem d e) % 2 ^ (8 * n)) ∧ ((i = .vst z false d m a ∧ s.orphan = false ∧ reads = [] ∧ addr = fun e => b + word (e * n)) ∨ (i = .vst z true d m a ∧ s.orphan = false ∧ reads = [] ∧ addr = fun e => b + word e * s.slot.vstride) ∨ ∃ va, i = .vscatter z d va m a ∧ reads = [va] ∧ addr = fun e => b + word (s.slot.velem va e))) ∨ (n = 4 ∧ pair = false ∧ kind = .atomic ∧ ∃ va op g, i = .vatom op d va m a ∧ reads = [va] ∧ (addr = fun e => b + word (s.slot.velem va e)) ∧ (data = fun e old => g old (s.slot.velem d e)) ∧ ((op = .add ∧ g = fun x y => (x + y) % 2 ^ 32) ∨ (op = .and ∧ g = fun x y => x &&& y) ∨ (op = .or ∧ g = fun x y => x ||| y) ∨ (op = .xor ∧ g = fun x y => x ^^^ y) ∨ (op = .min ∧ g = fun x y => if signed32 x ≤ signed32 y then x else y) ∨ (op = .max ∧ g = fun x y => if signed32 x ≤ signed32 y then y else x) ∨ (op = .minu ∧ g = fun x y => if x ≤ y then x else y) ∨ (op = .maxu ∧ g = fun x y => if x ≤ y then y else x)))) ∧ Memory.wf s.mem = true ∧ s.slot.owed.any (·.lda) = false ∧ operandsGive s .z [a] [b] = true ∧ s.slot.hypCur = 0 ∧ s.vecReady (d :: reads) m none = true ∧ l = (vecElems s.slot (if pair then s.slot.vl / 2 else s.slot.vl) m addr).drop s.slot.vdone ∧ s.ownElems kind n l = true ∧ (kind = .atomic → (l.all fun p => !poisoned s.poison (ownKey p.2) n) = true)) :=
  ⟨⟨Tests.vec, .vst .d false 1 Tests.all (Tests.n 0), 8, 1, Tests.all, Tests.n 0, Tests.own, [], true, .store, fun n => Tests.own + word (n * 8), fun e _ => Tests.vec.slot.vpair 1 e % 2 ^ 64, vecElems ((Tests.vec : State)).slot 4 Tests.all (fun n => Tests.own + word (n * 8)), (.inl ⟨.d, rfl, rfl, rfl, rfl, .inl ⟨rfl, by decide +kernel, rfl, rfl⟩⟩), by decide +kernel⟩,
    ⟨Tests.vec, .vscatter .d 1 3 Tests.all (Tests.n 0), 8, 1, Tests.all, Tests.n 0, Tests.own, [3], true, .store, fun n => Tests.own + word (Tests.vec.slot.velem 3 n), fun e _ => Tests.vec.slot.vpair 1 e % 2 ^ 64, vecElems ((Tests.vec : State)).slot 4 Tests.all (fun n => Tests.own + word (Tests.vec.slot.velem 3 n)), (.inl ⟨.d, rfl, rfl, rfl, rfl, .inr (.inr ⟨3, rfl, rfl, rfl⟩)⟩), by decide +kernel⟩,
    ⟨Tests.vec, .vatom .max 1 3 Tests.all (Tests.n 0), 4, 1, Tests.all, Tests.n 0, Tests.own, [3], false, .atomic, fun n => Tests.own + word (Tests.vec.slot.velem 3 n), fun e old => (fun x y => if signed32 x ≤ signed32 y then y else x) old (Tests.vec.slot.velem 1 e), vecElems ((Tests.vec : State)).slot 8 Tests.all (fun n => Tests.own + word (Tests.vec.slot.velem 3 n)), (.inr ⟨rfl, rfl, rfl, 3, .max, _, rfl, rfl, rfl, rfl, .inr (.inr (.inr (.inr (.inr (.inl ⟨rfl, rfl⟩)))))⟩), by decide +kernel⟩⟩

/-- Hypotheses of `Obligations.TongsCommands` are met. -/
theorem witness_TongsCommands :
    (∃ (s : State), ∃ (a : SrcM), ∃ (b : SrcM), ∃ (i : Instr), ∃ (kind : CmdKind), ∃ (va : Word), ∃ (tag : Word), ((i = .xgather a b ∧ kind = .gather) ∨ (i = .xscatter a b ∧ kind = .scatter) ∨ (i = .xcopy a b ∧ kind = .copy)) ∧ s.slot.owed.any (·.lda) = false ∧ operandsGive s .z [a, b] [va, tag] = true ∧ 2 ^ 16 ≤ tag.toNat) ∧
    (∃ (s : State), ∃ (a : SrcM), ∃ (b : SrcM), ∃ (i : Instr), ∃ (kind : CmdKind), ∃ (va : Word), ∃ (tag : Word), ((i = .xgather a b ∧ kind = .gather) ∨ (i = .xscatter a b ∧ kind = .scatter) ∨ (i = .xcopy a b ∧ kind = .copy)) ∧ s.slot.owed.any (·.lda) = false ∧ operandsGive s .z [a, b] [va, tag] = true ∧ tag.toNat < 2 ^ 16 ∧ s.slot.hypCur ≠ 0) ∧
    (∃ (s : State), ∃ (a : SrcM), ∃ (b : SrcM), ∃ (i : Instr), ∃ (kind : CmdKind), ∃ (va : Word), ∃ (tag : Word), ((i = .xgather a b ∧ kind = .gather) ∨ (i = .xscatter a b ∧ kind = .scatter) ∨ (i = .xcopy a b ∧ kind = .copy)) ∧ s.slot.owed.any (·.lda) = false ∧ operandsGive s .z [a, b] [va, tag] = true ∧ tag.toNat < 2 ^ 16 ∧ s.slot.hypCur = 0 ∧ va.toNat % 8 ≠ 0) ∧
    (∃ (s : State), ∃ (a : SrcM), ∃ (b : SrcM), ∃ (i : Instr), ∃ (kind : CmdKind), ∃ (va : Word), ∃ (tag : Word), ((i = .xgather a b ∧ kind = .gather) ∨ (i = .xscatter a b ∧ kind = .scatter) ∨ (i = .xcopy a b ∧ kind = .copy)) ∧ s.slot.owed.any (·.lda) = false ∧ operandsGive s .z [a, b] [va, tag] = true ∧ tag.toNat < 2 ^ 16 ∧ s.slot.hypCur = 0 ∧ va.toNat % 8 = 0 ∧ descriptorKey (consumed s [a, b]) va = none) ∧
    (∃ (s : State), ∃ (a : SrcM), ∃ (b : SrcM), ∃ (i : Instr), ∃ (kind : CmdKind), ∃ (va : Word), ∃ (tag : Word), ∃ (key : Nat), ((i = .xgather a b ∧ kind = .gather) ∨ (i = .xscatter a b ∧ kind = .scatter) ∨ (i = .xcopy a b ∧ kind = .copy)) ∧ s.slot.owed.any (·.lda) = false ∧ operandsGive s .z [a, b] [va, tag] = true ∧ tag.toNat < 2 ^ 16 ∧ s.slot.hypCur = 0 ∧ va.toNat % 8 = 0 ∧ descriptorKey (consumed s [a, b]) va = some key ∧ poisoned s.poison key 64 = true) ∧
    (∃ (s : State), ∃ (a : SrcM), ∃ (b : SrcM), ∃ (i : Instr), ∃ (kind : CmdKind), ∃ (va : Word), ∃ (tag : Word), ∃ (key : Nat), ∃ (d : List Word), ∃ (n : Nat), ((i = .xgather a b ∧ kind = .gather) ∨ (i = .xscatter a b ∧ kind = .scatter) ∨ (i = .xcopy a b ∧ kind = .copy)) ∧ s.slot.owed.any (·.lda) = false ∧ operandsGive s .z [a, b] [va, tag] = true ∧ tag.toNat < 2 ^ 16 ∧ s.slot.hypCur = 0 ∧ va.toNat % 8 = 0 ∧ descriptorKey (consumed s [a, b]) va = some key ∧ poisoned s.poison key 64 = false ∧ d = ((List.range 8).map fun n => memWord s.mem (key + 8 * n)) ∧ badDword kind (consumed s [a, b]).slot d = some n) ∧
    (∃ (s : State), ∃ (a : SrcM), ∃ (b : SrcM), ∃ (i : Instr), ∃ (kind : CmdKind), ∃ (va : Word), ∃ (tag : Word), ∃ (key : Nat), ∃ (d : List Word), ((i = .xgather a b ∧ kind = .gather) ∨ (i = .xscatter a b ∧ kind = .scatter) ∨ (i = .xcopy a b ∧ kind = .copy)) ∧ s.slot.owed.any (·.lda) = false ∧ operandsGive s .z [a, b] [va, tag] = true ∧ tag.toNat < 2 ^ 16 ∧ s.slot.hypCur = 0 ∧ va.toNat % 8 = 0 ∧ descriptorKey (consumed s [a, b]) va = some key ∧ poisoned s.poison key 64 = false ∧ d = ((List.range 8).map fun n => memWord s.mem (key + 8 * n)) ∧ badDword kind (consumed s [a, b]).slot d = none ∧ s.released = true ∧ 16 ≤ s.myCore.commands.length) ∧
    (∃ (s : State), ∃ (a : SrcM), ∃ (b : SrcM), ∃ (i : Instr), ∃ (kind : CmdKind), ∃ (va : Word), ∃ (tag : Word), ∃ (key : Nat), ∃ (d : List Word), ((i = .xgather a b ∧ kind = .gather) ∨ (i = .xscatter a b ∧ kind = .scatter) ∨ (i = .xcopy a b ∧ kind = .copy)) ∧ s.slot.owed.any (·.lda) = false ∧ operandsGive s .z [a, b] [va, tag] = true ∧ tag.toNat < 2 ^ 16 ∧ s.slot.hypCur = 0 ∧ va.toNat % 8 = 0 ∧ descriptorKey (consumed s [a, b]) va = some key ∧ poisoned s.poison key 64 = false ∧ d = ((List.range 8).map fun n => memWord s.mem (key + 8 * n)) ∧ badDword kind (consumed s [a, b]).slot d = none ∧ s.released = true ∧ s.myCore.commands.length < 16) ∧
    (∃ (s : State), ∃ (a : SrcM), ∃ (b : SrcM), ∃ (i : Instr), ∃ (kind : CmdKind), ∃ (va : Word), ∃ (tag : Word), ∃ (key : Nat), ∃ (d : List Word), ((i = .xgather a b ∧ kind = .gather) ∨ (i = .xscatter a b ∧ kind = .scatter) ∨ (i = .xcopy a b ∧ kind = .copy)) ∧ s.slot.owed.any (·.lda) = false ∧ operandsGive s .z [a, b] [va, tag] = true ∧ tag.toNat < 2 ^ 16 ∧ s.slot.hypCur = 0 ∧ va.toNat % 8 = 0 ∧ descriptorKey (consumed s [a, b]) va = some key ∧ poisoned s.poison key 64 = false ∧ d = ((List.range 8).map fun n => memWord s.mem (key + 8 * n)) ∧ badDword kind (consumed s [a, b]).slot d = none ∧ s.released = true ∧ s.myCore.commands.length < 16) ∧
    (∃ (s : State), ∃ (a : SrcM), ∃ (b : SrcM), ∃ (i : Instr), ∃ (kind : CmdKind), ∃ (va : Word), ∃ (tag : Word), ∃ (key : Nat), ∃ (d : List Word), ((i = .xgather a b ∧ kind = .gather) ∨ (i = .xscatter a b ∧ kind = .scatter) ∨ (i = .xcopy a b ∧ kind = .copy)) ∧ s.slot.owed.any (·.lda) = false ∧ operandsGive s .z [a, b] [va, tag] = true ∧ tag.toNat < 2 ^ 16 ∧ s.slot.hypCur = 0 ∧ va.toNat % 8 = 0 ∧ descriptorKey (consumed s [a, b]) va = some key ∧ poisoned s.poison key 64 = false ∧ d = ((List.range 8).map fun n => memWord s.mem (key + 8 * n)) ∧ badDword kind (consumed s [a, b]).slot d = none ∧ s.released = true ∧ s.myCore.commands.length < 16) ∧
    (∃ (s : State), ∃ (a : SrcM), ∃ (d : Dst), ∃ (tag : Word), ∃ (i : Instr), (i = .xpop d a ∨ i = .xtry d a) ∧ operandsGive s d [a] [tag] = true ∧ 2 ^ 16 ≤ tag.toNat) ∧
    (∃ (s : State), ∃ (a : SrcM), ∃ (d : Dst), ∃ (tag : Word), ∃ (i : Instr), (i = .xpop d a ∨ i = .xtry d a) ∧ operandsGive s d [a] [tag] = true ∧ 2 ^ 16 ≤ tag.toNat) ∧
    (∃ (s : State), ∃ (a : SrcM), ∃ (d : Dst), ∃ (tag : Word), operandsGive s d [a] [tag] = true ∧ 2 ^ 16 ≤ tag.toNat) ∧
    (∃ (s : State), ∃ (a : SrcM), ∃ (d : Dst), ∃ (tag : Word), ∃ (mine : List (Nat × Command)), operandsGive s d [a] [tag] = true ∧ tag.toNat < 2 ^ 16 ∧ mine = (s.myCore.commands.filter fun p => p.2.slot == s.cur.2 && !p.2.orphaned)) :=
  ⟨⟨Tests.reg 1 0x10000 (Tests.mem Tests.own), Tests.n 0, Tests.n 1, .xgather (Tests.n 0) (Tests.n 1), .gather, Tests.own, 0x10000, (.inl ⟨rfl, rfl⟩), by decide +kernel⟩,
    ⟨Tests.sl (Tests.mem Tests.own) fun sl => { sl with hypCur := 3 }, Tests.n 0, Tests.n 1, .xgather (Tests.n 0) (Tests.n 1), .gather, Tests.own, 7, (.inl ⟨rfl, rfl⟩), by decide +kernel⟩,
    ⟨Tests.mem 0xFE00000000000104, Tests.n 0, Tests.n 1, .xgather (Tests.n 0) (Tests.n 1), .gather, 0xFE00000000000104, 7, (.inl ⟨rfl, rfl⟩), by decide +kernel⟩,
    ⟨Tests.mem Tests.hbm, Tests.n 0, Tests.n 1, .xgather (Tests.n 0) (Tests.n 1), .gather, Tests.hbm, 7, (.inl ⟨rfl, rfl⟩), by decide +kernel⟩,
    ⟨{ Tests.mem Tests.own with poison := [sramKey 0 0 0x100 / 64] }, Tests.n 0, Tests.n 1, .xgather (Tests.n 0) (Tests.n 1), .gather, Tests.own, 7, sramKey 0 0 0x100, (.inl ⟨rfl, rfl⟩), by decide +kernel⟩,
    ⟨Tests.mem Tests.own, Tests.n 0, Tests.n 1, .xgather (Tests.n 0) (Tests.n 1), .gather, Tests.own, 7, sramKey 0 0 0x100, (List.range 8).map fun n => memWord ((Tests.mem Tests.own : State)).mem (sramKey 0 0 0x100 + 8 * n), 0, (.inl ⟨rfl, rfl⟩), by decide +kernel⟩,
    ⟨Tests.co (Tests.words Tests.desc (Tests.mem Tests.own)) fun k => { k with commands := (List.range 16).map fun i => (i, Tests.cmd) }, Tests.n 0, Tests.n 1, .xgather (Tests.n 0) (Tests.n 1), .gather, Tests.own, 7, sramKey 0 0 0x100, (List.range 8).map fun n => memWord ((Tests.co (Tests.words Tests.desc (Tests.mem Tests.own)) fun k => { k with commands := (List.range 16).map fun i => (i, Tests.cmd) } : State)).mem (sramKey 0 0 0x100 + 8 * n), (.inl ⟨rfl, rfl⟩), by decide +kernel⟩,
    ⟨(Tests.words Tests.desc (Tests.mem Tests.own)), Tests.n 0, Tests.n 1, .xgather (Tests.n 0) (Tests.n 1), .gather, Tests.own, 7, sramKey 0 0 0x100, (List.range 8).map fun n => memWord (((Tests.words Tests.desc (Tests.mem Tests.own)) : State)).mem (sramKey 0 0 0x100 + 8 * n), (.inl ⟨rfl, rfl⟩), by decide +kernel⟩,
    ⟨(Tests.words Tests.desc (Tests.mem Tests.own)), Tests.n 0, Tests.n 1, .xscatter (Tests.n 0) (Tests.n 1), .scatter, Tests.own, 7, sramKey 0 0 0x100, (List.range 8).map fun n => memWord (((Tests.words Tests.desc (Tests.mem Tests.own)) : State)).mem (sramKey 0 0 0x100 + 8 * n), (.inr (.inl ⟨rfl, rfl⟩)), by decide +kernel⟩,
    ⟨(Tests.words [0, 0x600000002, 0xFE00000000000400, 8, 0xFE00000000000800, 8, 0, 0] (Tests.mem Tests.own)), Tests.n 0, Tests.n 1, .xcopy (Tests.n 0) (Tests.n 1), .copy, Tests.own, 7, sramKey 0 0 0x100, (List.range 8).map fun n => memWord (((Tests.words [0, 0x600000002, 0xFE00000000000400, 8, 0xFE00000000000800, 8, 0, 0] (Tests.mem Tests.own)) : State)).mem (sramKey 0 0 0x100 + 8 * n), (.inr (.inr ⟨rfl, rfl⟩)), by decide +kernel⟩,
    ⟨Tests.reg 1 0x10000 Tests.st, Tests.n 1, .n 3, 0x10000, .xpop (.n 3) (Tests.n 1), (.inl rfl), by decide +kernel⟩,
    ⟨Tests.reg 1 0x10000 Tests.st, Tests.n 1, .n 3, 0x10000, .xtry (.n 3) (Tests.n 1), (.inr rfl), by decide +kernel⟩,
    ⟨Tests.reg 1 0x10000 Tests.st, Tests.n 1, .n 3, 0x10000, by decide +kernel⟩,
    ⟨Tests.holding Tests.cmd Tests.nums, Tests.n 1, .n 3, 7, [(5, Tests.cmd)], by decide +kernel⟩⟩

/-- Hypotheses of `Obligations.TongsCommands` are met. -/
theorem witness_TongsCommands_2 :
    (∃ (s : State), ∃ (a : SrcM), ∃ (d : Dst), ∃ (tag : Word), operandsGive s d [a] [tag] = true ∧ tag.toNat < 2 ^ 16 ∧ earliest s.myCore s.cur.2 tag.toNat = none) ∧
    (∃ (s : State), ∃ (a : SrcM), ∃ (d : Dst), ∃ (tag : Word), ∃ (id : Nat), ∃ (x : Command), operandsGive s d [a] [tag] = true ∧ tag.toNat < 2 ^ 16 ∧ earliest s.myCore s.cur.2 tag.toNat = some (id, x) ∧ x.complete = false) ∧
    (∃ (s : State), ∃ (a : SrcM), ∃ (d : Dst), ∃ (tag : Word), ∃ (id : Nat), ∃ (x : Command), ∃ (code : Nat), ∃ (ad : Word), ∃ (i : Instr), (i = .xpop d a ∨ i = .xtry d a) ∧ operandsGive s d [a] [tag] = true ∧ tag.toNat < 2 ^ 16 ∧ earliest s.myCore s.cur.2 tag.toNat = some (id, x) ∧ x.complete = true ∧ x.fault = some (code, ad)) ∧
    (∃ (s : State), ∃ (a : SrcM), ∃ (d : Dst), ∃ (tag : Word), ∃ (id : Nat), ∃ (x : Command), ∃ (code : Nat), ∃ (ad : Word), ∃ (i : Instr), (i = .xpop d a ∨ i = .xtry d a) ∧ operandsGive s d [a] [tag] = true ∧ tag.toNat < 2 ^ 16 ∧ earliest s.myCore s.cur.2 tag.toNat = some (id, x) ∧ x.complete = true ∧ x.fault = some (code, ad)) ∧
    (∃ (s : State), ∃ (a : SrcM), ∃ (d : Dst), ∃ (tag : Word), ∃ (id : Nat), ∃ (x : Command), ∃ (w : Word), operandsGive s d [a] [tag] = true ∧ tag.toNat < 2 ^ 16 ∧ earliest s.myCore s.cur.2 tag.toNat = some (id, x) ∧ x.complete = true ∧ x.fault = none ∧ w = word (2 ^ 63 + (match x.kind with | .gather => 0 | .scatter => 1 | .copy => 2) * 2 ^ 60 + x.done * 2 ^ 32 + x.tag)) :=
  ⟨⟨Tests.nums, Tests.n 1, .n 3, 7, by decide +kernel⟩,
    ⟨Tests.holding Tests.cmd Tests.nums, Tests.n 1, .n 3, 7, 5, Tests.cmd, by decide +kernel⟩,
    ⟨Tests.holding { Tests.cmd with complete := true, fault := some (6, 8) } Tests.nums, Tests.n 1, .n 3, 7, 5, { Tests.cmd with complete := true, fault := some (6, 8) }, 6, 8, .xpop (.n 3) (Tests.n 1), (.inl rfl), by decide +kernel⟩,
    ⟨Tests.holding { Tests.cmd with complete := true, fault := some (6, 8) } Tests.nums, Tests.n 1, .n 3, 7, 5, { Tests.cmd with complete := true, fault := some (6, 8) }, 6, 8, .xtry (.n 3) (Tests.n 1), (.inr rfl), by decide +kernel⟩,
    ⟨Tests.holding { Tests.cmd with complete := true, done := 2 } Tests.nums, Tests.n 1, .n 3, 7, 5, { Tests.cmd with complete := true, done := 2 }, 0x8000000200000007, by decide +kernel⟩⟩

/-- Hypotheses of `Obligations.AnvilRings` are met. -/
theorem witness_AnvilRings :
    (∃ (s : State), ∃ (a : SrcM), ∃ (b : SrcM), ∃ (r : Word), ∃ (n : Word), s.slot.owed.any (·.lda) = false ∧ operandsGive s .z [a, b] [r, n] = true ∧ 16 ≤ r.toNat) ∧
    (∃ (s : State), ∃ (a : SrcM), ∃ (b : SrcM), ∃ (r : Word), ∃ (n : Word), s.slot.owed.any (·.lda) = false ∧ operandsGive s .z [a, b] [r, n] = true ∧ r.toNat < 16 ∧ s.portOpen = true ∧ s.ring? s.myHearth r.toNat = none) ∧
    (∃ (s : State), ∃ (a : SrcM), ∃ (b : SrcM), ∃ (r : Word), ∃ (n : Word), ∃ (x : Ring), s.slot.owed.any (·.lda) = false ∧ operandsGive s .z [a, b] [r, n] = true ∧ r.toNat < 16 ∧ s.portOpen = true ∧ s.ring? s.myHearth r.toNat = some x ∧ (n = 0 ∨ x.free < n.toNat)) ∧
    (∃ (s : State), ∃ (a : SrcM), ∃ (b : SrcM), ∃ (r : Word), ∃ (n : Word), ∃ (x : Ring), s.slot.owed.any (·.lda) = false ∧ operandsGive s .z [a, b] [r, n] = true ∧ r.toNat < 16 ∧ s.portOpen = true ∧ s.ring? s.myHearth r.toNat = some x ∧ (n = 0 ∨ x.free < n.toNat)) ∧
    (∃ (s : State), ∃ (a : SrcM), ∃ (b : SrcM), ∃ (r : Word), ∃ (n : Word), ∃ (x : Ring), s.slot.owed.any (·.lda) = false ∧ operandsGive s .z [a, b] [r, n] = true ∧ r.toNat < 16 ∧ s.portOpen = true ∧ s.ring? s.myHearth r.toNat = some x ∧ n ≠ 0 ∧ n.toNat ≤ x.free ∧ s.released = true) ∧
    (∃ (s : State), ∃ (a : SrcM), ∃ (b : SrcM), ∃ (r : Word), ∃ (n : Word), ∃ (x : Ring), s.slot.owed.any (·.lda) = false ∧ operandsGive s .z [a, b] [r, n] = true ∧ r.toNat < 16 ∧ s.portOpen = true ∧ s.ring? s.myHearth r.toNat = some x ∧ n ≠ 0 ∧ n.toNat ≤ x.free ∧ s.released = false ∧ s.myCore.journal.any (fun j => j.mine s.cur.2 && j.refused) = false) ∧
    (∃ (s : State), ∃ (a : SrcM), ∃ (b : SrcM), ∃ (r : Word), ∃ (n : Word), s.slot.owed.any (·.lda) = false ∧ operandsGive s .z [a, b] [r, n] = true ∧ r.toNat < 16 ∧ s.portOpen = false) ∧
    (∃ (s : State), ∃ (d : Dst), ∃ (a : SrcM), ∃ (r : Word), ∃ (x : Ring), s.slot.owed.any (·.lda) = false ∧ operandsGive s d [a] [r] = true ∧ r.toNat < 16 ∧ s.portOpen = true ∧ s.ring? s.myHearth r.toNat = some x) ∧
    (∃ (s : State), ∃ (a : SrcM), ∃ (b : SrcM), ∃ (r : Word), ∃ (va : Word), s.slot.owed.any (·.lda) = false ∧ operandsGive s .z [a, b] [r, va] = true ∧ r.toNat < 16 ∧ va.toNat % 32 ≠ 0) ∧
    (∃ (s : State), ∃ (a : SrcM), ∃ (b : SrcM), ∃ (r : Word), ∃ (va : Word), ∃ (p : Place), s.slot.owed.any (·.lda) = false ∧ operandsGive s .z [a, b] [r, va] = true ∧ r.toNat < 16 ∧ va.toNat % 32 = 0 ∧ locate s .load 32 va 0 = .ok p ∧ p.windowed = false ∧ unitAnswer s 32 p = .refuses) ∧
    (∃ (s : State), ∃ (a : SrcM), ∃ (b : SrcM), ∃ (r : Word), ∃ (va : Word), ∃ (p : Place), ∃ (d : List Word), ∃ (t : Trap), s.slot.owed.any (·.lda) = false ∧ operandsGive s .z [a, b] [r, va] = true ∧ r.toNat < 16 ∧ va.toNat % 32 = 0 ∧ s.portOpen = true ∧ locate s .load 32 va 0 = .ok p ∧ p.windowed = false ∧ p.peer = none ∧ unitAnswer s 32 p = .serves ∧ stackReady (touchKey s p.key) p.key = true ∧ hostLacks s false [p] = none ∧ s.settledAt p.key 32 = true ∧ poisoned s.poison p.key 32 = false ∧ s.checksHold p.key 32 = true ∧ (s.slot.hypCur = 0 ∨ p.cached = false) ∧ (s.hearth s.myHearth).held.rings.length = 16 ∧ ((s.hearth s.myHearth).ops.any fun o => natMem o.rings r.toNat) = false ∧ d = ((List.range 4).map fun n => memWord s.mem (p.key + 8 * n)) ∧ checkRing s r.toNat d = .error t) ∧
    (∃ (s : State), ∃ (a : SrcM), ∃ (b : SrcM), ∃ (r : Word), ∃ (va : Word), ∃ (p : Place), ∃ (d : List Word), ∃ (x : Option Ring), s.slot.owed.any (·.lda) = false ∧ operandsGive s .z [a, b] [r, va] = true ∧ r.toNat < 16 ∧ va.toNat % 32 = 0 ∧ s.portOpen = true ∧ locate s .load 32 va 0 = .ok p ∧ p.windowed = false ∧ p.peer = none ∧ unitAnswer s 32 p = .serves ∧ stackReady (touchKey s p.key) p.key = true ∧ hostLacks s false [p] = none ∧ s.settledAt p.key 32 = true ∧ poisoned s.poison p.key 32 = false ∧ s.checksHold p.key 32 = true ∧ (s.slot.hypCur = 0 ∨ p.cached = false) ∧ (s.hearth s.myHearth).held.rings.length = 16 ∧ ((s.hearth s.myHearth).ops.any fun o => natMem o.rings r.toNat) = false ∧ d = ((List.range 4).map fun n => memWord s.mem (p.key + 8 * n)) ∧ checkRing s r.toNat d = .ok x) ∧
    (∃ (s : State), ∃ (a : SrcM), ∃ (b : SrcM), ∃ (r : Word), ∃ (va : Word), ∃ (p : Place), ∃ (d : List Word), ∃ (x : Option Ring), s.slot.owed.any (·.lda) = false ∧ operandsGive s .z [a, b] [r, va] = true ∧ r.toNat < 16 ∧ va.toNat % 32 = 0 ∧ s.portOpen = true ∧ locate s .load 32 va 0 = .ok p ∧ p.windowed = false ∧ p.peer = none ∧ unitAnswer s 32 p = .serves ∧ stackReady (touchKey s p.key) p.key = true ∧ hostLacks s false [p] = none ∧ s.settledAt p.key 32 = true ∧ poisoned s.poison p.key 32 = false ∧ s.checksHold p.key 32 = true ∧ (s.slot.hypCur = 0 ∨ p.cached = false) ∧ (s.hearth s.myHearth).held.rings.length = 16 ∧ ((s.hearth s.myHearth).ops.any fun o => natMem o.rings r.toNat) = false ∧ d = ((List.range 4).map fun n => memWord s.mem (p.key + 8 * n)) ∧ checkRing s r.toNat d = .ok x) :=
  ⟨⟨Tests.anvil 2 (Tests.reg 2 16 (Tests.reg 1 3 Tests.st)), Tests.n 2, Tests.n 1, 16, 3, by decide +kernel⟩,
    ⟨Tests.anvil 2 (Tests.reg 2 0 (Tests.reg 1 3 Tests.st)), Tests.n 2, Tests.n 1, 0, 3, by decide +kernel⟩,
    ⟨Tests.anvil 2 (Tests.reg 2 1 (Tests.reg 1 4 Tests.st)), Tests.n 2, Tests.n 1, 1, 4, Tests.ringOf 2, by decide +kernel⟩,
    ⟨Tests.anvil 2 (Tests.reg 2 1 (Tests.reg 1 0 Tests.st)), Tests.n 2, Tests.n 1, 1, 0, Tests.ringOf 2, by decide +kernel⟩,
    ⟨Tests.anvil 2 (Tests.reg 2 1 (Tests.reg 1 3 Tests.st)), Tests.n 2, Tests.n 1, 1, 3, Tests.ringOf 2, by decide +kernel⟩,
    ⟨Tests.posted Tests.entry (Tests.anvil 2 (Tests.reg 2 1 (Tests.reg 1 3 Tests.st))), Tests.n 2, Tests.n 1, 1, 3, Tests.ringOf 2, by decide +kernel⟩,
    ⟨(Tests.anvil 2 (Tests.reg 2 1 (Tests.reg 1 3 Tests.st))).modHearth 0 fun h => { h with nextAccept := 9 }, Tests.n 2, Tests.n 1, 1, 3, by decide +kernel⟩,
    ⟨Tests.anvil 2 (Tests.reg 2 1 (Tests.reg 1 3 Tests.st)), .n 3, Tests.n 2, 1, Tests.ringOf 2, by decide +kernel⟩,
    ⟨Tests.anvil 2 (Tests.reg 2 1 (Tests.reg 1 8 Tests.st)), Tests.n 2, Tests.n 1, 1, 8, by decide +kernel⟩,
    ⟨Tests.la (Tests.anvil 2 (Tests.reg 2 1 (Tests.reg 1 Tests.next Tests.st))) fun l => { l with cores := [0, 1] }, Tests.n 2, Tests.n 1, 1, Tests.next, .sram 0 1 0x100, by decide +kernel⟩,
    ⟨Tests.words [0, 13, 0, 0] (Tests.anvil 2 (Tests.reg 2 1 (Tests.reg 1 Tests.own Tests.st))), Tests.n 2, Tests.n 1, 1, Tests.own, .sram 0 0 0x100, (List.range 4).map fun n => memWord ((Tests.words [0, 13, 0, 0] (Tests.anvil 2 (Tests.reg 2 1 (Tests.reg 1 Tests.own Tests.st))) : State)).mem (sramKey 0 0 0x100 + 8 * n), Tests.trap (checkRing (Tests.words [0, 13, 0, 0] (Tests.anvil 2 (Tests.reg 2 1 (Tests.reg 1 Tests.own Tests.st))) : State) 1 ((List.range 4).map fun n => memWord ((Tests.words [0, 13, 0, 0] (Tests.anvil 2 (Tests.reg 2 1 (Tests.reg 1 Tests.own Tests.st))) : State)).mem (sramKey 0 0 0x100 + 8 * n))), by decide +kernel⟩,
    ⟨Tests.words [0xFE00008000000000, 0x200000002, 0, 1] (Tests.anvil 2 (Tests.reg 2 1 (Tests.reg 1 Tests.own Tests.st))), Tests.n 2, Tests.n 1, 1, Tests.own, .sram 0 0 0x100, (List.range 4).map fun n => memWord ((Tests.words [0xFE00008000000000, 0x200000002, 0, 1] (Tests.anvil 2 (Tests.reg 2 1 (Tests.reg 1 Tests.own Tests.st))) : State)).mem (sramKey 0 0 0x100 + 8 * n), some { base := sramKey 0 8 0, slots := 2, mode := 2, group := 16, head := 0, tail := 1, read := 0 }, by decide +kernel⟩,
    ⟨Tests.words [0xFE00008000000000, 2, 0, 0] (Tests.anvil 2 (Tests.reg 2 1 (Tests.reg 1 Tests.own Tests.st))), Tests.n 2, Tests.n 1, 1, Tests.own, .sram 0 0 0x100, (List.range 4).map fun n => memWord ((Tests.words [0xFE00008000000000, 2, 0, 0] (Tests.anvil 2 (Tests.reg 2 1 (Tests.reg 1 Tests.own Tests.st))) : State)).mem (sramKey 0 0 0x100 + 8 * n), none, by decide +kernel⟩⟩

/-- Hypotheses of `Obligations.AnvilTiles` are met. -/
theorem witness_AnvilTiles :
    (∃ (s : State), ∃ (acc : Fin 16), ∃ (single : Bool), ∃ (fmt : Nat), s.slot.owed.any (·.lda) = false ∧ s.portOpen = true ∧ s.tiles.length = 16 ∧ fmt = (if single then 1 else 0) ∧ s.tilesReady acc.val fmt = true) ∧
    (∃ (s : State), ∃ (acc : Fin 16), ∃ (single : Bool), ∃ (fmt : Nat), s.slot.owed.any (·.lda) = false ∧ s.portOpen = true ∧ s.tiles.length = 16 ∧ fmt = (if single then 1 else 0) ∧ s.tilesReady acc.val fmt = true) ∧
    (∃ (s : State), ∃ (acc : Fin 16), ∃ (single : Bool), ∃ (fmt : Nat), s.slot.owed.any (·.lda) = false ∧ s.portOpen = true ∧ s.tiles.length = 16 ∧ fmt = (if single then 1 else 0) ∧ ownsTile s s.slot.launch s.cur.1 acc.val = false) ∧
    (∃ (s : State), ∃ (acc : Fin 16), ∃ (a : SrcM), ∃ (va : Word), ∃ (fmt : Fin 4), ∃ (h : Nat), ∃ (u : Nat), ∃ (off : Nat), ∃ (key : Nat), s.slot.owed.any (·.lda) = false ∧ s.portOpen = true ∧ s.tiles.length = 16 ∧ operandsGive s .z [a] [va] = true ∧ va.toNat % 64 = 0 ∧ s.ownTile .load va (4 * fmtBytes fmt.val) h u off = true ∧ key = sramKey h u off ∧ (∀ n, n < 4 * fmtBytes fmt.val → poisoned s.poison (key + 64 * n) 64 = false ∧ s.settledAt (key + 64 * n) 64 = true) ∧ s.tilesReady acc.val fmt.val = true ∧ (fmt.val = 0 → acc.val % 2 = 0)) ∧
    (∃ (s : State), ∃ (acc : Fin 16), ∃ (a : SrcM), ∃ (va : Word), ∃ (fmt : Fin 4), ∃ (h : Nat), ∃ (u : Nat), ∃ (off : Nat), ∃ (key : Nat), s.slot.owed.any (·.lda) = false ∧ s.portOpen = true ∧ s.tiles.length = 16 ∧ operandsGive s .z [a] [va] = true ∧ va.toNat % 64 = 0 ∧ s.ownTile .load va (4 * fmtBytes fmt.val) h u off = true ∧ key = sramKey h u off ∧ (∀ n, n < 4 * fmtBytes fmt.val → poisoned s.poison (key + 64 * n) 64 = false ∧ s.settledAt (key + 64 * n) 64 = true) ∧ s.tilesReady acc.val fmt.val = true ∧ (fmt.val = 0 → acc.val % 2 = 0)) ∧
    (∃ (s : State), ∃ (acc : Fin 16), ∃ (a : SrcM), ∃ (va : Word), ∃ (fmt : Fin 4), ∃ (r : RndField), ∃ (h : Nat), ∃ (u : Nat), ∃ (off : Nat), ∃ (key : Nat), ∃ (el : Nat → Nat × Nat), el = (fun n => narrowTo fmt.val (s.slot.fpEnv.with r) (if fmt.val = 0 then pairElem s.tiles acc.val n else tileElem s.tiles acc.val n)) ∧ (∀ n, n < 256 → s.slot.traps (el n).2 = false) ∧ s.slot.owed.any (·.lda) = false ∧ s.portOpen = true ∧ s.tiles.length = 16 ∧ Memory.wf s.mem = true ∧ operandsGive s .z [a] [va] = true ∧ s.slot.hypCur = 0 ∧ va.toNat % 64 = 0 ∧ s.ownTile .store va (4 * fmtBytes fmt.val) h u off = true ∧ key = sramKey h u off ∧ (∀ n, n < 4 * fmtBytes fmt.val → s.settledAt (key + 64 * n) 64 = true) ∧ s.tilesReady acc.val fmt.val = true ∧ s.slot.trapsAtOnce = true) ∧
    (∃ (s : State), ∃ (acc : Fin 16), ∃ (a : SrcM), ∃ (va : Word), ∃ (fmt : Fin 4), ∃ (r : RndField), ∃ (h : Nat), ∃ (u : Nat), ∃ (off : Nat), ∃ (key : Nat), ∃ (el : Nat → Nat × Nat), ∃ (n : Nat), el = (fun n => narrowTo fmt.val (s.slot.fpEnv.with r) (if fmt.val = 0 then pairElem s.tiles acc.val n else tileElem s.tiles acc.val n)) ∧ s.slot.owed.any (·.lda) = false ∧ s.portOpen = true ∧ s.tiles.length = 16 ∧ Memory.wf s.mem = true ∧ operandsGive s .z [a] [va] = true ∧ s.slot.hypCur = 0 ∧ va.toNat % 64 = 0 ∧ s.ownTile .store va (4 * fmtBytes fmt.val) h u off = true ∧ key = sramKey h u off ∧ (∀ n, n < 4 * fmtBytes fmt.val → s.settledAt (key + 64 * n) 64 = true) ∧ s.tilesReady acc.val fmt.val = true ∧ s.slot.trapsAtOnce = true ∧ n < 256 ∧ s.slot.traps (el n).2 = true) ∧
    (∃ (s : State), ∃ (acc : Fin 16), ∃ (ra : Fin 16), ∃ (rb : Fin 16), ∃ (mode : BitVec 4), s.slot.owed.any (·.lda) = false ∧ s.portOpen = true ∧ s.tiles.length = 16 ∧ ammWaits s acc.val mode.toNat ra.val rb.val s.slot.fpTraps = none ∧ s.ring? s.myHearth ra.val = none) ∧
    (∃ (s : State), ∃ (acc : Fin 16), ∃ (ra : Fin 16), ∃ (rb : Fin 16), ∃ (mode : BitVec 4), ∃ (zp : Bool), ∃ (x : Ring), ∃ (y : Ring), ∃ (el : List (Nat × Nat)), (∀ e ∈ el, s.slot.traps e.2 = false) ∧ s.slot.owed.any (·.lda) = false ∧ s.portOpen = true ∧ s.tiles.length = 16 ∧ s.ring? s.myHearth ra.val = some x ∧ s.ring? s.myHearth rb.val = some y ∧ x.mode = mode.toNat ∧ y.mode = mode.toNat ∧ (4 ≤ mode.toNat → x.group = y.group) ∧ ownsTile s s.slot.launch s.cur.1 acc.val = true ∧ (mode = 0 → ownsTile s s.slot.launch s.cur.1 (acc.val + 1) = true) ∧ ammWaits s acc.val mode.toNat ra.val rb.val s.slot.fpTraps = none ∧ s.slot.trapsAtOnce = true ∧ el = ammElems s.mem s.tiles s.slot.fpEnv (s.slot.fmtMode.getLsbD 0) zp acc.val x y ∧ ra ≠ rb) ∧
    (∃ (s : State), ∃ (acc : Fin 16), ∃ (ra : Fin 16), ∃ (rb : Fin 16), ∃ (mode : BitVec 4), ∃ (zp : Bool), ∃ (x : Ring), ∃ (y : Ring), ∃ (el : List (Nat × Nat)), ∃ (e : Nat × Nat), s.slot.owed.any (·.lda) = false ∧ s.portOpen = true ∧ s.tiles.length = 16 ∧ s.ring? s.myHearth ra.val = some x ∧ s.ring? s.myHearth rb.val = some y ∧ x.mode = mode.toNat ∧ y.mode = mode.toNat ∧ (4 ≤ mode.toNat → x.group = y.group) ∧ ownsTile s s.slot.launch s.cur.1 acc.val = true ∧ (mode = 0 → ownsTile s s.slot.launch s.cur.1 (acc.val + 1) = true) ∧ ammWaits s acc.val mode.toNat ra.val rb.val s.slot.fpTraps = none ∧ s.slot.trapsAtOnce = true ∧ el = ammElems s.mem s.tiles s.slot.fpEnv (s.slot.fmtMode.getLsbD 0) zp acc.val x y ∧ e ∈ el ∧ s.slot.traps e.2 = true) :=
  ⟨⟨(Tests.anvil 2 (Tests.mem Tests.own)), 0, false, 0, by decide +kernel⟩,
    ⟨(Tests.anvil 2 (Tests.mem Tests.own)), 1, true, 1, by decide +kernel⟩,
    ⟨(Tests.anvil 2 (Tests.mem Tests.own)), 2, false, 0, by decide +kernel⟩,
    ⟨(Tests.anvil 2 (Tests.mem Tests.own)), 0, Tests.n 0, Tests.own, 0, 0, 0, 0x100, sramKey 0 0 0x100, by decide +kernel⟩,
    ⟨(Tests.anvil 2 (Tests.mem Tests.own)), 0, Tests.n 0, Tests.own, 1, 0, 0, 0x100, sramKey 0 0 0x100, by decide +kernel⟩,
    ⟨(Tests.anvil 2 (Tests.mem Tests.own)), 0, Tests.n 0, Tests.own, 1, .dyn, 0, 0, 0x100, sramKey 0 0 0x100, fun n => narrowTo 1 ((((Tests.anvil 2 (Tests.mem Tests.own)) : State)).slot.fpEnv.with (.dyn)) (tileElem (((Tests.anvil 2 (Tests.mem Tests.own)) : State)).tiles 0 n), (rfl), (fun n _ => Tests.untrapped _ (by decide +kernel) _), by decide +kernel⟩,
    ⟨Tests.sl ((Tests.anvil 2 (Tests.mem Tests.own)).modHearth 0 fun h => { h with held := { h.held with acc := h.held.acc.set 0 (List.replicate 256 0x7F7FFFFF) } }) fun sl => { sl with fpCtrl := 0xF8 }, 0, Tests.n 0, Tests.own, 2, .dyn, 0, 0, 0x100, sramKey 0 0 0x100, fun n => narrowTo 2 (((Tests.sl ((Tests.anvil 2 (Tests.mem Tests.own)).modHearth 0 fun h => { h with held := { h.held with acc := h.held.acc.set 0 (List.replicate 256 0x7F7FFFFF) } }) fun sl => { sl with fpCtrl := 0xF8 } : State)).slot.fpEnv.with (.dyn)) (tileElem ((Tests.sl ((Tests.anvil 2 (Tests.mem Tests.own)).modHearth 0 fun h => { h with held := { h.held with acc := h.held.acc.set 0 (List.replicate 256 0x7F7FFFFF) } }) fun sl => { sl with fpCtrl := 0xF8 } : State)).tiles 0 n), 0, (rfl), by decide +kernel⟩,
    ⟨(Tests.anvil 2 (Tests.mem Tests.own)), 0, 5, 2, 2, by decide +kernel⟩,
    ⟨(Tests.anvil 2 (Tests.mem Tests.own)), 0, 1, 2, 2, false, Tests.ringOf 2, Tests.ringOf 2, ammElems (((Tests.anvil 2 (Tests.mem Tests.own)) : State)).mem (((Tests.anvil 2 (Tests.mem Tests.own)) : State)).tiles (((Tests.anvil 2 (Tests.mem Tests.own)) : State)).slot.fpEnv false false 0 (Tests.ringOf 2) (Tests.ringOf 2), (fun e _ => Tests.untrapped _ (by decide +kernel) _), by decide +kernel⟩,
    ⟨Tests.put (sramKey 0 8 0) [0x00, 0x7C] (Tests.sl ((Tests.anvil 2 (Tests.mem Tests.own)).modHearth 0 fun h => { h with held := { h.held with acc := h.held.acc.set 0 (List.replicate 256 0x7F7FFFFF) } }) fun sl => { sl with fpCtrl := 0xF8 }), 0, 1, 2, 2, false, Tests.ringOf 2, Tests.ringOf 2, ammElems ((Tests.put (sramKey 0 8 0) [0x00, 0x7C] (Tests.sl ((Tests.anvil 2 (Tests.mem Tests.own)).modHearth 0 fun h => { h with held := { h.held with acc := h.held.acc.set 0 (List.replicate 256 0x7F7FFFFF) } }) fun sl => { sl with fpCtrl := 0xF8 }) : State)).mem ((Tests.put (sramKey 0 8 0) [0x00, 0x7C] (Tests.sl ((Tests.anvil 2 (Tests.mem Tests.own)).modHearth 0 fun h => { h with held := { h.held with acc := h.held.acc.set 0 (List.replicate 256 0x7F7FFFFF) } }) fun sl => { sl with fpCtrl := 0xF8 }) : State)).tiles ((Tests.put (sramKey 0 8 0) [0x00, 0x7C] (Tests.sl ((Tests.anvil 2 (Tests.mem Tests.own)).modHearth 0 fun h => { h with held := { h.held with acc := h.held.acc.set 0 (List.replicate 256 0x7F7FFFFF) } }) fun sl => { sl with fpCtrl := 0xF8 }) : State)).slot.fpEnv false false 0 (Tests.ringOf 2) (Tests.ringOf 2), (((ammElems ((Tests.put (sramKey 0 8 0) [0x00, 0x7C] (Tests.sl ((Tests.anvil 2 (Tests.mem Tests.own)).modHearth 0 fun h => { h with held := { h.held with acc := h.held.acc.set 0 (List.replicate 256 0x7F7FFFFF) } }) fun sl => { sl with fpCtrl := 0xF8 }) : State)).mem ((Tests.put (sramKey 0 8 0) [0x00, 0x7C] (Tests.sl ((Tests.anvil 2 (Tests.mem Tests.own)).modHearth 0 fun h => { h with held := { h.held with acc := h.held.acc.set 0 (List.replicate 256 0x7F7FFFFF) } }) fun sl => { sl with fpCtrl := 0xF8 }) : State)).tiles ((Tests.put (sramKey 0 8 0) [0x00, 0x7C] (Tests.sl ((Tests.anvil 2 (Tests.mem Tests.own)).modHearth 0 fun h => { h with held := { h.held with acc := h.held.acc.set 0 (List.replicate 256 0x7F7FFFFF) } }) fun sl => { sl with fpCtrl := 0xF8 }) : State)).slot.fpEnv false false 0 (Tests.ringOf 2) (Tests.ringOf 2)))[1]?).getD (0, 0), by decide +kernel⟩⟩

/-- Hypotheses of `Obligations.RegisterEvents`, its part EventRegisters are met. -/
theorem witness_RegisterEvents_EventRegisters :
    (∃ (s : State), ∃ (c : Nat), ∃ (k : Nat), ∃ (h : Shadow), s.ev.core = c ∧ s.ev.slot = k ∧ (s.slotAt c k).held = true ∧ (s.slotAt c k).priv ≠ .user ∧ (s.slotAt c k).shadow = some h) ∧
    (∃ (s : State), ∃ (c : Nat), ∃ (k : Nat), ∃ (i : Nat), ∃ (j : JEntry), s.ev.core = c ∧ s.ev.slot = k ∧ (s.core c).journalSel = i ∧ (s.core c).journal.getD i {} = j) ∧
    (∃ (s : State), ∃ (c : Nat), ∃ (k : Nat), ∃ (old : Nat), s.ev.core = c ∧ s.ev.slot = k ∧ (s.core c).lsplit = old ∧ s.ev.n ≤ 8 ∧ (s.core c).busy = false ∧ Memory.wf s.mem = true) ∧
    (∃ (s : State), ∃ (c : Nat), ∃ (k : Nat), s.ev.core = c ∧ s.ev.slot = k ∧ (8 < s.ev.n ∨ (s.core c).busy = true)) ∧
    (∃ (s : State), ∃ (c : Nat), ∃ (k : Nat), ∃ (d : Dst), ∃ (u : State), s.ev.core = c ∧ s.ev.slot = k ∧ u = { s with cur := (c, k) } ∧ u.slot.held = true ∧ u.slot.stall = .held ∧ nextInstr u = some (.sysr d 0x011) ∧ u.myCore.laneOps k = [] ∧ operandsGive u d [] [] = true) :=
  ⟨⟨Tests.handler false, 0, 0, Tests.shadow, by decide +kernel⟩,
    ⟨Tests.posted { Tests.entry with refused := true } Tests.st, 0, 0, 0, { Tests.entry with refused := true }, by decide +kernel⟩,
    ⟨Tests.evt { n := 8 } (Tests.co Tests.st fun k => { k with slots := [] }), 0, 0, 0, by decide +kernel⟩,
    ⟨Tests.evt { n := 9 } Tests.st, 0, 0, by decide +kernel⟩,
    ⟨Tests.stall .held (Tests.at (((encode (.sysr .queue 0x011)).getD 0 0) + 2 ^ 16 * ((encode (.sysr .queue 0x011)).getD 1 0))), 0, 0, .queue, (Tests.stall .held (Tests.at (((encode (.sysr .queue 0x011)).getD 0 0) + 2 ^ 16 * ((encode (.sysr .queue 0x011)).getD 1 0))) : State), by decide +kernel⟩⟩

/-- Hypotheses of `Obligations.RegisterEvents`, its part EventTlbi are met. -/
theorem witness_RegisterEvents_EventTlbi :
    (∃ (s : State), ∃ (c : Nat), ∃ (k : Nat), ∃ (op : TlbiOp), ∃ (next : Word), s.ev.core = c ∧ s.ev.slot = k ∧ (s.slotAt c k).stall = .tlbi op next ∧ s.translating = true) ∧
    (∃ (s : State), ∃ (c : Nat), ∃ (k : Nat), ∃ (op : TlbiOp), ∃ (next : Word), s.ev.core = c ∧ s.ev.slot = k ∧ (s.slotAt c k).stall = .tlbi op next ∧ s.translating = false ∧ (s.slotAt c k).goesOn = true) :=
  ⟨⟨Tests.access (Tests.remote .load 0x10100 8 .sent) (Tests.stall (.tlbi .all 0x10004) Tests.st), 0, 0, .all, 0x10004, by decide +kernel⟩,
    ⟨Tests.stall (.tlbi .all 0x10004) Tests.st, 0, 0, .all, 0x10004, by decide +kernel⟩⟩

/-- Hypotheses of `Obligations.AccessEvents`, its part EventRemote are met. -/
theorem witness_AccessEvents_EventRemote :
    (∃ (s : State), ∃ (id : Nat), ∃ (r : Remote), ∃ (q : CacheReq), s.ev.id = id ∧ tget s.remotes id = some r ∧ r.stage = .sent ∧ r.peer = none ∧ r.parts = [] ∧ accessBefore s id r = false ∧ s.checksHold r.key r.size = true ∧ r.tag = none ∧ hostNeed s r = some q) ∧
    (∃ (s : State), ∃ (id : Nat), ∃ (r : Remote), s.ev.id = id ∧ tget s.remotes id = some r ∧ r.stage = .sent ∧ r.peer = none ∧ r.parts = [] ∧ accessBefore s id r = false ∧ s.checksHold r.key r.size = true ∧ r.tag = none ∧ keyUnit r.key = none ∧ hostNeed s r = none ∧ stackReady (touchKey s r.key) r.key = false) ∧
    (∃ (s : State), ∃ (id : Nat), ∃ (r : Remote), ∃ (h : Nat), ∃ (u : Nat), ∃ (off : Nat), ∃ (why : Nat), ((why = 1 ∧ ((s.hearth h).fenced = true ∨ unitHolds s h u (fun l => s.asidOf l == r.asid) = false)) ∨ (why = 2 ∧ (s.hearth h).fenced = false ∧ unitHolds s h u (fun l => s.asidOf l == r.asid) = true ∧ trueLimit s h u < off + r.size)) ∧ s.ev.id = id ∧ tget s.remotes id = some r ∧ r.stage = .sent ∧ r.peer = none ∧ r.parts = [] ∧ accessBefore s id r = false ∧ s.checksHold r.key r.size = true ∧ r.window = none ∧ r.tag = none ∧ hostNeed s r = none ∧ s.roused r.key = true ∧ (keyUnit r.key = none → stackReady (touchKey s r.key) r.key = true) ∧ keyUnit r.key = some (h, u, off) ∧ r.kind.kept = true) ∧
    (∃ (s : State), ∃ (id : Nat), ∃ (r : Remote), ∃ (h : Nat), ∃ (u : Nat), ∃ (off : Nat), ∃ (why : Nat), ((why = 1 ∧ ((s.hearth h).fenced = true ∨ unitHolds s h u (fun l => s.asidOf l == r.asid) = false)) ∨ (why = 2 ∧ (s.hearth h).fenced = false ∧ unitHolds s h u (fun l => s.asidOf l == r.asid) = true ∧ trueLimit s h u < off + r.size)) ∧ s.ev.id = id ∧ tget s.remotes id = some r ∧ r.stage = .sent ∧ r.peer = none ∧ r.parts = [] ∧ accessBefore s id r = false ∧ s.checksHold r.key r.size = true ∧ r.window = none ∧ r.tag = none ∧ hostNeed s r = none ∧ s.roused r.key = true ∧ (keyUnit r.key = none → stackReady (touchKey s r.key) r.key = true) ∧ keyUnit r.key = some (h, u, off) ∧ r.kind.kept = true) ∧
    (∃ (s : State), ∃ (id : Nat), ∃ (r : Remote), (∀ h u off, keyUnit r.key = some (h, u, off) → (s.hearth h).fenced = false ∧ unitHolds s h u (fun l => s.asidOf l == r.asid) = true ∧ off + r.size ≤ trueLimit s h u) ∧ s.ev.id = id ∧ tget s.remotes id = some r ∧ r.stage = .sent ∧ r.peer = none ∧ r.parts = [] ∧ accessBefore s id r = false ∧ s.checksHold r.key r.size = true ∧ r.window = none ∧ r.tag = none ∧ hostNeed s r = none ∧ s.roused r.key = true ∧ (keyUnit r.key = none → stackReady (touchKey s r.key) r.key = true) ∧ r.kind = .load ∧ poisoned s.poison r.key r.size = true) ∧
    (∃ (s : State), ∃ (id : Nat), ∃ (r : Remote), (∀ h u off, keyUnit r.key = some (h, u, off) → (s.hearth h).fenced = false ∧ unitHolds s h u (fun l => s.asidOf l == r.asid) = true ∧ off + r.size ≤ trueLimit s h u) ∧ s.ev.id = id ∧ tget s.remotes id = some r ∧ r.stage = .sent ∧ r.peer = none ∧ r.parts = [] ∧ accessBefore s id r = false ∧ s.checksHold r.key r.size = true ∧ r.window = none ∧ r.tag = none ∧ hostNeed s r = none ∧ s.roused r.key = true ∧ (keyUnit r.key = none → stackReady (touchKey s r.key) r.key = true) ∧ r.kind = .load ∧ poisoned s.poison r.key r.size = false) ∧
    (∃ (s : State), ∃ (id : Nat), ∃ (r : Remote), ∃ (e : Nat), (∀ h u off, keyUnit r.key = some (h, u, off) → (s.hearth h).fenced = false ∧ unitHolds s h u (fun l => s.asidOf l == r.asid) = true ∧ off + r.size ≤ trueLimit s h u) ∧ s.ev.id = id ∧ tget s.remotes id = some r ∧ r.stage = .sent ∧ r.peer = none ∧ r.parts = [] ∧ accessBefore s id r = false ∧ s.checksHold r.key r.size = true ∧ r.window = none ∧ r.tag = none ∧ hostNeed s r = none ∧ s.roused r.key = true ∧ (keyUnit r.key = none → stackReady (touchKey s r.key) r.key = true) ∧ r.kind = .store e ∧ Memory.wf s.mem = true) ∧
    (∃ (s : State), ∃ (id : Nat), ∃ (r : Remote), ∃ (op : Nat), ∃ (cas : Bool), ∃ (ord : Nat), ∃ (x : Word), ∃ (y : Word), (∀ h u off, keyUnit r.key = some (h, u, off) → (s.hearth h).fenced = false ∧ unitHolds s h u (fun l => s.asidOf l == r.asid) = true ∧ off + r.size ≤ trueLimit s h u) ∧ s.ev.id = id ∧ tget s.remotes id = some r ∧ r.stage = .sent ∧ r.peer = none ∧ r.parts = [] ∧ accessBefore s id r = false ∧ s.checksHold r.key r.size = true ∧ r.window = none ∧ r.tag = none ∧ hostNeed s r = none ∧ s.roused r.key = true ∧ (keyUnit r.key = none → stackReady (touchKey s r.key) r.key = true) ∧ r.kind = .atomic op cas ord x y ∧ Memory.wf s.mem = true ∧ poisoned s.poison r.key r.size = false) ∧
    (∃ (s : State), ∃ (id : Nat), ∃ (r : Remote), ∃ (reg : Nat), ∃ (e : Nat), ∃ (sl : Slot), (∀ h u off, keyUnit r.key = some (h, u, off) → (s.hearth h).fenced = false ∧ unitHolds s h u (fun l => s.asidOf l == r.asid) = true ∧ off + r.size ≤ trueLimit s h u) ∧ s.ev.id = id ∧ tget s.remotes id = some r ∧ r.stage = .sent ∧ r.peer = none ∧ r.parts = [] ∧ accessBefore s id r = false ∧ s.checksHold r.key r.size = true ∧ r.window = none ∧ r.tag = none ∧ hostNeed s r = none ∧ s.roused r.key = true ∧ (keyUnit r.key = none → stackReady (touchKey s r.key) r.key = true) ∧ r.kind = .vload reg e ∧ r.ended = false ∧ s.slotAt r.core r.slot = sl ∧ r.size = 4 ∧ poisoned s.poison r.key 4 = false ∧ sl.vfaults.getD reg none = none ∧ e < (sl.vregs.getD reg []).length) ∧
    (∃ (s : State), ∃ (id : Nat), ∃ (r : Remote), ∃ (cmd : Nat), ∃ (part : Nat), ∃ (x : Command), (∀ h u off, keyUnit r.key = some (h, u, off) → (s.hearth h).fenced = false ∧ unitHolds s h u (fun l => s.asidOf l == r.asid) = true ∧ off + r.size ≤ trueLimit s h u) ∧ s.ev.id = id ∧ tget s.remotes id = some r ∧ r.stage = .sent ∧ r.peer = none ∧ r.parts = [] ∧ accessBefore s id r = false ∧ s.checksHold r.key r.size = true ∧ r.window = none ∧ r.tag = none ∧ hostNeed s r = none ∧ s.roused r.key = true ∧ (keyUnit r.key = none → stackReady (touchKey s r.key) r.key = true) ∧ r.kind = .tongs cmd part ∧ tget (s.core r.core).commands cmd = some x ∧ poisoned s.poison r.key r.size = false) ∧
    (∃ (s : State), ∃ (id : Nat), ∃ (r : Remote), ∃ (w : Word), ∃ (ext : Bool), ∃ (h : Nat), ∃ (u : Nat), ∃ (off : Nat), ∃ first, ∃ n, s.ev.id = id ∧ tget s.remotes id = some r ∧ r.stage = .sent ∧ r.peer = none ∧ r.parts = [] ∧ accessBefore s id r = false ∧ s.checksHold r.key r.size = true ∧ r.kind = .load ∧ r.window = some (w, ext) ∧ r.tag = none ∧ keyUnit r.key = some (h, u, off) ∧ s.roused r.key = true ∧ (s.hearth h).fenced = false ∧ unitHolds s h u (fun l => s.asidOf l == r.asid) = true ∧ first = elemRecord w.toNat (off / 4) ∧ n = recordBytes (winFormat w.toNat) (winGroup w.toNat) (winBx w.toNat) ∧ first + n ≤ trueLimit s h u ∧ poisoned s.poison (sramKey h u first) n = true) ∧
    (∃ (s : State), ∃ (id : Nat), ∃ (r : Remote), ∃ (w : Word), ∃ (ext : Bool), ∃ (h : Nat), ∃ (u : Nat), ∃ (off : Nat), ∃ first, ∃ n, s.ev.id = id ∧ tget s.remotes id = some r ∧ r.stage = .sent ∧ r.peer = none ∧ r.parts = [] ∧ accessBefore s id r = false ∧ s.checksHold r.key r.size = true ∧ r.kind = .load ∧ r.window = some (w, ext) ∧ r.tag = none ∧ keyUnit r.key = some (h, u, off) ∧ s.roused r.key = true ∧ (s.hearth h).fenced = false ∧ unitHolds s h u (fun l => s.asidOf l == r.asid) = true ∧ first = elemRecord w.toNat (off / 4) ∧ n = recordBytes (winFormat w.toNat) (winGroup w.toNat) (winBx w.toNat) ∧ first + n ≤ trueLimit s h u ∧ poisoned s.poison (sramKey h u first) n = false) ∧
    (∃ (s : State), ∃ (id : Nat), ∃ (r : Remote), ∃ (h : Nat), s.ev.id = id ∧ tget s.remotes id = some r ∧ r.stage = .sent ∧ r.peer = none ∧ r.parts = [] ∧ accessBefore s id r = false ∧ s.checksHold r.key r.size = true ∧ r.tag = some h ∧ r.window = none ∧ keyUnit r.key = none ∧ remoteReady s r = false) ∧
    (∃ (s : State), ∃ (id : Nat), ∃ (r : Remote), ∃ (h : Nat), s.ev.id = id ∧ tget s.remotes id = some r ∧ r.stage = .sent ∧ r.peer = none ∧ r.parts = [] ∧ accessBefore s id r = false ∧ s.checksHold r.key r.size = true ∧ r.tag = some h ∧ r.window = none ∧ keyUnit r.key = none ∧ remoteReady s r = false) :=
  ⟨⟨Tests.access { (Tests.remote .load (hostKey 0x40) 8 .sent) with size := 8 } (Tests.home Tests.st), 5, { (Tests.remote .load (hostKey 0x40) 8 .sent) with size := 8 }, .rdCurr, by decide +kernel⟩,
    ⟨Tests.access (Tests.remote .load 0x10100 8 .sent) ({ Tests.home Tests.st with selfRefresh := List.replicate 12 true }), 5, (Tests.remote .load 0x10100 8 .sent), by decide +kernel⟩,
    ⟨Tests.access (Tests.remote .load (sramKey 0 1 0x100) 8 .sent) (Tests.home Tests.st), 5, (Tests.remote .load (sramKey 0 1 0x100) 8 .sent), 0, 1, 0x100, 1, (.inl ⟨rfl, .inr (by decide +kernel)⟩), by decide +kernel⟩,
    ⟨Tests.access (Tests.remote .load (sramKey 0 0 0x18000) 8 .sent) (Tests.home Tests.st), 5, (Tests.remote .load (sramKey 0 0 0x18000) 8 .sent), 0, 0, 0x18000, 2, (.inr (by decide +kernel)), by decide +kernel⟩,
    ⟨{ Tests.access (Tests.remote .load 0x10100 8 .sent) (Tests.home Tests.st) with poison := [0x404] }, 5, (Tests.remote .load 0x10100 8 .sent), (by intro h u off x; exact absurd x (by simp [keyUnit, Tests.remote])), by decide +kernel⟩,
    ⟨Tests.access (Tests.remote .load 0x10100 8 .sent) (Tests.home Tests.st), 5, (Tests.remote .load 0x10100 8 .sent), (by intro h u off x; exact absurd x (by simp [keyUnit, Tests.remote])), by decide +kernel⟩,
    ⟨Tests.access (Tests.remote (.store 0) 0x10100 8 .sent) (Tests.home Tests.st), 5, (Tests.remote (.store 0) 0x10100 8 .sent), 0, (by intro h u off x; exact absurd x (by simp [keyUnit, Tests.remote])), by decide +kernel⟩,
    ⟨Tests.access (Tests.remote (.atomic 0 false 0 1 0) 0x10100 8 .sent) (Tests.home Tests.st), 5, (Tests.remote (.atomic 0 false 0 1 0) 0x10100 8 .sent), 0, false, 0, 1, 0, (by intro h u off x; exact absurd x (by simp [keyUnit, Tests.remote])), by decide +kernel⟩,
    ⟨Tests.access (Tests.remote (.vload 1 2) 0x10100 4 .sent) (Tests.home Tests.st), 5, (Tests.remote (.vload 1 2) 0x10100 4 .sent), 1, 2, ((Tests.access (Tests.remote (.vload 1 2) 0x10100 4 .sent) (Tests.home Tests.st) : State)).slotAt 0 0, (by intro h u off x; exact absurd x (by simp [keyUnit, Tests.remote])), by decide +kernel⟩,
    ⟨Tests.access (Tests.remote (.tongs 5 0) 0x10100 8 .sent) (Tests.holding Tests.cmd Tests.st), 5, (Tests.remote (.tongs 5 0) 0x10100 8 .sent), 5, 0, Tests.cmd, (by intro h u off x; exact absurd x (by simp [keyUnit, Tests.remote])), by decide +kernel⟩,
    ⟨{ Tests.access { (Tests.remote .load (sramKey 0 0 4) 4 .sent) with window := some (0x200000001A, false) } (Tests.home Tests.st) with poison := [sramKey 0 0 0 / 64] }, 5, { (Tests.remote .load (sramKey 0 0 4) 4 .sent) with window := some (0x200000001A, false) }, 0x200000001A, false, 0, 0, 4, elemRecord 0x200000001A 1, recordBytes (winFormat 0x200000001A) (winGroup 0x200000001A) (winBx 0x200000001A), by decide +kernel⟩,
    ⟨Tests.access { (Tests.remote .load (sramKey 0 0 4) 4 .sent) with window := some (0x200000001A, false) } (Tests.home Tests.st), 5, { (Tests.remote .load (sramKey 0 0 4) 4 .sent) with window := some (0x200000001A, false) }, 0x200000001A, false, 0, 0, 4, elemRecord 0x200000001A 1, recordBytes (winFormat 0x200000001A) (winGroup 0x200000001A) (winBx 0x200000001A), by decide +kernel⟩,
    ⟨Tests.access { (Tests.remote .load 0x10100 8 .sent) with tag := some 0 } (Tests.line .i Tests.st), 5, { (Tests.remote .load 0x10100 8 .sent) with tag := some 0 }, 0, by decide +kernel⟩,
    ⟨Tests.access { (Tests.remote (.line none) 0x10100 8 .sent) with tag := some 0 } (Tests.line .s Tests.st), 5, { (Tests.remote (.line none) 0x10100 8 .sent) with tag := some 0 }, 0, by decide +kernel⟩⟩

/-- Hypotheses of `Obligations.AccessEvents`, its part EventRemote are met. -/
theorem witness_AccessEvents_EventRemote_2 :
    (∃ (s : State), ∃ (id : Nat), ∃ (r : Remote), ∃ (h : Nat), s.ev.id = id ∧ tget s.remotes id = some r ∧ r.stage = .sent ∧ r.peer = none ∧ r.parts = [] ∧ accessBefore s id r = false ∧ s.checksHold r.key r.size = true ∧ r.tag = some h ∧ r.window = none ∧ keyUnit r.key = none ∧ remoteReady s r = true ∧ r.kind = .load ∧ poisonedUnder s h r.key r.size = false) ∧
    (∃ (s : State), ∃ (id : Nat), ∃ (r : Remote), ∃ (h : Nat), s.ev.id = id ∧ tget s.remotes id = some r ∧ r.stage = .sent ∧ r.peer = none ∧ r.parts = [] ∧ accessBefore s id r = false ∧ s.checksHold r.key r.size = true ∧ r.tag = some h ∧ r.window = none ∧ keyUnit r.key = none ∧ remoteReady s r = true ∧ r.kind = .line none ∧ s.follow h = 0 ∧ Memory.wf s.mem = true) ∧
    (∃ (s : State), ∃ (id : Nat), ∃ (r : Remote), ∃ (h : Nat), s.ev.id = id ∧ tget s.remotes id = some r ∧ r.stage = .sent ∧ r.peer = none ∧ r.parts = [] ∧ accessBefore s id r = false ∧ s.checksHold r.key r.size = true ∧ r.tag = some h ∧ r.window = none ∧ keyUnit r.key = none ∧ remoteReady s r = true ∧ r.kind = .line none ∧ s.follow h = 0 ∧ Memory.wf s.mem = true) :=
  ⟨⟨Tests.access { (Tests.remote .load 0x10100 8 .sent) with tag := some 0 } (Tests.line .s Tests.st), 5, { (Tests.remote .load 0x10100 8 .sent) with tag := some 0 }, 0, by decide +kernel⟩,
    ⟨Tests.access { (Tests.remote (.line none) 0x10100 8 .sent) with tag := some 0 } (Tests.line .m Tests.st), 5, { (Tests.remote (.line none) 0x10100 8 .sent) with tag := some 0 }, 0, by decide +kernel⟩,
    ⟨Tests.access { (Tests.remote (.line none) 0x10100 8 .sent) with tag := some 0 } (Tests.line .e Tests.st), 5, { (Tests.remote (.line none) 0x10100 8 .sent) with tag := some 0 }, 0, by decide +kernel⟩⟩

/-- Hypotheses of `Obligations.AccessEvents`, its part EventAnswer are met. -/
theorem witness_AccessEvents_EventAnswer :
    (∃ (s : State), ∃ (c : Nat), ∃ (k : Nat), ∃ (id : Nat), ∃ (d : Dst), ∃ (next : Word), ∃ (r : Remote), ∃ (old : Word), ∃ (v : Word), s.ev.core = c ∧ s.ev.slot = k ∧ (s.slotAt c k).stall = .atomic id d next ∧ tget s.remotes id = some r ∧ r.stage = .answered old ∧ (s.slotAt c k).goesOn = true ∧ v = word (old.toNat % 2 ^ (8 * r.size))) ∧
    (∃ (s : State), ∃ (c : Nat), ∃ (k : Nat), ∃ (id : Nat), ∃ (d : Dst), ∃ (next : Word), ∃ (r : Remote), ∃ (why : Nat), s.ev.core = c ∧ s.ev.slot = k ∧ (s.slotAt c k).stall = .atomic id d next ∧ tget s.remotes id = some r ∧ r.stage = .refused why ∧ (s.slotAt c k).shadow = none ∧ (s.slotAt c k).roomy = true) :=
  ⟨⟨Tests.access (Tests.remote (.atomic 0 false 0 1 0) 0x10100 8 (.answered 7)) (Tests.stall (.atomic 5 (.n 3) 0x10004) Tests.st), 0, 0, 5, .n 3, 0x10004, (Tests.remote (.atomic 0 false 0 1 0) 0x10100 8 (.answered 7)), 7, 7, by decide +kernel⟩,
    ⟨Tests.access (Tests.remote (.atomic 0 false 0 1 0) 0x10100 8 (.refused 3)) (Tests.stall (.atomic 5 (.n 3) 0x10004) Tests.st), 0, 0, 5, .n 3, 0x10004, (Tests.remote (.atomic 0 false 0 1 0) 0x10100 8 (.refused 3)), 3, by decide +kernel⟩⟩

/-- Hypotheses of `Obligations.AccessEvents`, its part EventLands are met. -/
theorem witness_AccessEvents_EventLands :
    (∃ (s : State), ∃ (c : Nat), ∃ (k : Nat), ∃ (id : Nat), ∃ (o : Owed), ∃ (v : Reg), LandsAs s c k o v ∧ s.ev.core = c ∧ s.ev.slot = k ∧ s.ev.id = id ∧ (s.slotAt c k).owed.find? (fun x => x.id == id) = some o) ∧
    (∃ (s : State), ∃ (c : Nat), ∃ (k : Nat), ∃ (id : Nat), ∃ (o : Owed), ∃ (v : Reg), LandsAs s c k o v ∧ s.ev.core = c ∧ s.ev.slot = k ∧ s.ev.id = id ∧ (s.slotAt c k).owed.find? (fun x => x.id == id) = some o) ∧
    (∃ (s : State), ∃ (c : Nat), ∃ (k : Nat), ∃ (id : Nat), ∃ (o : Owed), ∃ (v : Reg), LandsAs s c k o v ∧ s.ev.core = c ∧ s.ev.slot = k ∧ s.ev.id = id ∧ (s.slotAt c k).owed.find? (fun x => x.id == id) = some o) ∧
    (∃ (s : State), ∃ (c : Nat), ∃ (k : Nat), ∃ (id : Nat), ∃ (o : Owed), ∃ (v : Reg), LandsAs s c k o v ∧ s.ev.core = c ∧ s.ev.slot = k ∧ s.ev.id = id ∧ (s.slotAt c k).owed.find? (fun x => x.id == id) = some o) ∧
    (∃ (s : State), ∃ (c : Nat), ∃ (k : Nat), ∃ (id : Nat), ∃ (o : Owed), ∃ (v : Reg), LandsAs s c k o v ∧ s.ev.core = c ∧ s.ev.slot = k ∧ s.ev.id = id ∧ (s.slotAt c k).owed.find? (fun x => x.id == id) = some o) :=
  ⟨⟨Tests.evt { id := 5 } (Tests.fill 3 (.empty (some 5)) (Tests.sl Tests.st fun sl => { sl with owed := [⟨5, .value 9, false, false⟩] })), 0, 0, 5, ⟨5, .value 9, false, false⟩, Reg.of 9, (.value _ _ _ _), by decide +kernel⟩,
    ⟨Tests.evt { id := 5 } (Tests.fill 3 (.empty (some 5)) (Tests.sl Tests.st fun sl => { sl with owed := [⟨5, .time, false, false⟩] })), 0, 0, 5, ⟨5, .time, false, false⟩, Reg.of 0, (.time _ _ _ (by decide +kernel)), by decide +kernel⟩,
    ⟨Tests.evt { id := 5 } (Tests.fill 3 (.empty (some 5)) (Tests.sl Tests.st fun sl => { sl with owed := [⟨5, .refused true 8 4, false, false⟩] })), 0, 0, 5, ⟨5, .refused true 8 4, false, false⟩, ⟨0, .faulted true 8 4⟩, (.refused _ _ _ _ _ _), by decide +kernel⟩,
    ⟨{ Tests.evt { id := 5 } (Tests.fill 3 (.empty (some 5)) (Tests.sl Tests.st fun sl => { sl with owed := [⟨5, .remote, false, false⟩] })) with remotes := [(5, { (Tests.remote .load 0x10100 8 (.answered 7)) with producer := 5 })] }, 0, 0, 5, ⟨5, .remote, false, false⟩, Reg.of 7, (.answered _ _ _ { (Tests.remote .load 0x10100 8 (.answered 7)) with producer := 5 } _ (by decide +kernel) rfl), by decide +kernel⟩,
    ⟨{ Tests.evt { id := 5 } (Tests.fill 3 (.empty (some 5)) (Tests.sl Tests.st fun sl => { sl with owed := [⟨5, .remote, false, false⟩] })) with remotes := [(5, { (Tests.remote .load 0x10100 8 (.refused 3)) with producer := 5 })] }, 0, 0, 5, ⟨5, .remote, false, false⟩, ⟨0, .faulted true 0x10100 0⟩, (.denied _ _ _ { (Tests.remote .load 0x10100 8 (.refused 3)) with producer := 5 } _ (by decide +kernel) rfl), by decide +kernel⟩⟩

/-- Hypotheses of `Obligations.AccessEvents`, its part EventPosted are met. -/
theorem witness_AccessEvents_EventPosted :
    (∃ (s : State), ∃ (c : Nat), ∃ (e : Nat), ∃ (id : Nat), ∃ (r : Remote), ∃ (j : JEntry), ∃ (w : Word), s.ev.core = c ∧ s.ev.id = e ∧ entryRemote s c e = some (id, r) ∧ (s.core c).journal.getD e {} = j ∧ r.stage = .answered w ∧ s.behindJournal c = false) ∧
    (∃ (s : State), ∃ (c : Nat), ∃ (e : Nat), ∃ (id : Nat), ∃ (r : Remote), ∃ (j : JEntry), ∃ (why : Nat), s.ev.core = c ∧ s.ev.id = e ∧ entryRemote s c e = some (id, r) ∧ (s.core c).journal.getD e {} = j ∧ r.stage = .refused why ∧ s.behindJournal c = false) ∧
    (∃ (s : State), ∃ (c : Nat), ∃ (e : Nat), ∃ (id : Nat), ∃ (r : Remote), ∃ (j : JEntry), ∃ (w : Word), ∃ (k : Nat), ∃ (pid : Nat), ∃ (f : LoadKind), ∃ (va : Word), ∃ (h : Nat), ∃ (u : Nat), ∃ (off : Nat), ∃ (next : Word), ∃ key, ∃ n, s.ev.core = c ∧ s.ev.id = e ∧ entryRemote s c e = some (id, r) ∧ (s.core c).journal.getD e {} = j ∧ r.stage = .answered w ∧ k < 4 ∧ (s.slotAt c k).stall = .overlap pid f va (.sram h u off) next ∧ (s.setSlotAt c k {}).behindJournal c = false ∧ (s.slotAt c k).goesOn = true ∧ isLocalUnit c h u = true ∧ key = sramKey h u off ∧ n = (loadWidth f).1 ∧ poisoned s.poison key n = false ∧ journalOverlap { s.core c with journal := padSet {} (s.core c).journal e {} } key n = false) ∧
    (∃ (s : State), ∃ (c : Nat), ∃ (e : Nat), ∃ (id : Nat), ∃ (r : Remote), ∃ (j : JEntry), ∃ (why : Nat), s.ev.core = c ∧ s.ev.id = e ∧ entryRemote s c e = some (id, r) ∧ (s.core c).journal.getD e {} = j ∧ r.stage = .refused why ∧ s.behindJournal c = false) :=
  ⟨⟨{ Tests.access (Tests.remote (.store 0) 0x10100 8 (.answered 0)) (Tests.posted Tests.entry Tests.st) with ev := { id := 0 } }, 0, 0, 5, (Tests.remote (.store 0) 0x10100 8 (.answered 0)), Tests.entry, 0, by decide +kernel⟩,
    ⟨{ Tests.access (Tests.remote (.store 0) 0x10100 8 (.refused 1)) (Tests.posted Tests.entry Tests.st) with ev := { id := 0 } }, 0, 0, 5, (Tests.remote (.store 0) 0x10100 8 (.refused 1)), Tests.entry, 1, by decide +kernel⟩,
    ⟨Tests.stall (.overlap 9 .d Tests.own (.sram 0 0 0x100) 0x10004) (Tests.sl ({ Tests.access (Tests.remote (.store 0) 0x10100 8 (.answered 0)) (Tests.posted Tests.entry Tests.st) with ev := { id := 0 } }) fun sl => { sl with owed := [⟨9, .remote, false, true⟩] }), 0, 0, 5, (Tests.remote (.store 0) 0x10100 8 (.answered 0)), Tests.entry, 0, 0, 9, .d, Tests.own, 0, 0, 0x100, 0x10004, sramKey 0 0 0x100, 8, by decide +kernel⟩,
    ⟨{ Tests.access (Tests.remote (.store 0) 0x10100 8 (.refused 1)) (Tests.posted { Tests.entry with ended := true } Tests.st) with ev := { id := 0 } }, 0, 0, 5, (Tests.remote (.store 0) 0x10100 8 (.refused 1)), { Tests.entry with ended := true }, 1, by decide +kernel⟩⟩

/-- Hypotheses of `Obligations.AccessEvents`, its part EventAsync are met. -/
theorem witness_AccessEvents_EventAsync :
    (∃ (s : State), ∃ (c : Nat), ∃ (k : Nat), ∃ (sl : Slot), s.ev.core = c ∧ s.ev.slot = k ∧ s.slotAt c k = sl ∧ sl.held = true ∧ sl.stopped = false ∧ sl.wdog = 0 ∧ sl.wrapup = false ∧ sl.shadow = none) ∧
    (∃ (s : State), ∃ (c : Nat), ∃ (k : Nat), ∃ (sl : Slot), s.ev.core = c ∧ s.ev.slot = k ∧ s.slotAt c k = sl ∧ sl.held = true ∧ sl.stopped = false ∧ sl.wdog = 0 ∧ (sl.wrapup = true ∨ sl.shadow.isSome = true)) ∧
    (∃ (s : State), ∃ (c : Nat), ∃ (k : Nat), ∃ (sl : Slot), ∃ (tr : Trap), ∃ (sl' : Slot), ((sl.pendWatchdog = true ∧ tr = { cause := .watchdog, info := word sl.cls, async := true } ∧ sl' = { sl with pendWatchdog := false }) ∨ (sl.pendWatchdog = false ∧ ∃ a i rest, sl.pendPosted = (a, i) :: rest ∧ tr = { cause := .posted, addr := a, info := i, async := true } ∧ sl' = { sl with pendPosted := rest }) ∨ (sl.pendWatchdog = false ∧ sl.pendPosted = [] ∧ ∃ a i rest, sl.pendRefused = (a, i) :: rest ∧ tr = { cause := .sendRefused, addr := a, info := i, async := true } ∧ sl' = { sl with pendRefused := rest })) ∧ s.ev.core = c ∧ s.ev.slot = k ∧ s.slotAt c k = sl ∧ sl.held = true ∧ sl.stopped = false ∧ sl.stall = .none ∧ sl.shadow = none ∧ sl.roomy = true ∧ (s.quenched sl.launch = false ∨ sl.wrapup = true)) ∧
    (∃ (s : State), ∃ (c : Nat), ∃ (k : Nat), ∃ (sl : Slot), ∃ (tr : Trap), ∃ (sl' : Slot), ((sl.pendWatchdog = true ∧ tr = { cause := .watchdog, info := word sl.cls, async := true } ∧ sl' = { sl with pendWatchdog := false }) ∨ (sl.pendWatchdog = false ∧ ∃ a i rest, sl.pendPosted = (a, i) :: rest ∧ tr = { cause := .posted, addr := a, info := i, async := true } ∧ sl' = { sl with pendPosted := rest }) ∨ (sl.pendWatchdog = false ∧ sl.pendPosted = [] ∧ ∃ a i rest, sl.pendRefused = (a, i) :: rest ∧ tr = { cause := .sendRefused, addr := a, info := i, async := true } ∧ sl' = { sl with pendRefused := rest })) ∧ s.ev.core = c ∧ s.ev.slot = k ∧ s.slotAt c k = sl ∧ sl.held = true ∧ sl.stopped = false ∧ sl.stall = .none ∧ sl.shadow = none ∧ sl.roomy = true ∧ (s.quenched sl.launch = false ∨ sl.wrapup = true)) ∧
    (∃ (s : State), ∃ (c : Nat), ∃ (k : Nat), ∃ (sl : Slot), ∃ (tr : Trap), ∃ (sl' : Slot), ((sl.pendWatchdog = true ∧ tr = { cause := .watchdog, info := word sl.cls, async := true } ∧ sl' = { sl with pendWatchdog := false }) ∨ (sl.pendWatchdog = false ∧ ∃ a i rest, sl.pendPosted = (a, i) :: rest ∧ tr = { cause := .posted, addr := a, info := i, async := true } ∧ sl' = { sl with pendPosted := rest }) ∨ (sl.pendWatchdog = false ∧ sl.pendPosted = [] ∧ ∃ a i rest, sl.pendRefused = (a, i) :: rest ∧ tr = { cause := .sendRefused, addr := a, info := i, async := true } ∧ sl' = { sl with pendRefused := rest })) ∧ s.ev.core = c ∧ s.ev.slot = k ∧ s.slotAt c k = sl ∧ sl.held = true ∧ sl.stopped = false ∧ sl.stall = .none ∧ sl.shadow = none ∧ sl.roomy = true ∧ (s.quenched sl.launch = false ∨ sl.wrapup = true)) ∧
    (∃ (s : State), ∃ (c : Nat), ∃ (k : Nat), ∃ (sl : Slot), ∃ (code : Nat), ∃ (addr : Word), ∃ (info : Word), ∃ (l : Nat), ∃ (rest : List (Nat × Word × Word × Nat)), ∃ (n : Nat), ∃ (v : Word), s.ev.core = c ∧ s.ev.slot = k ∧ s.slotAt c k = sl ∧ (s.core c).endedTraps = (code, addr, info, l) :: rest ∧ freeSlot (s.core c) = some n ∧ s.up (c / 8) = true ∧ ((s.core c).resident = some l → (s.slotAt c n).launch = l) ∧ v = (match if (s.core c).resident = some l then none else tget (s.core c).saved l with | some x => (x.traps.getD n (0, 0)).1 | none => (s.slotAt c n).trapVec)) ∧
    (∃ (s : State), ∃ (c : Nat), ∃ (k : Nat), ∃ (sl : Slot), ∃ (code : Nat), ∃ (addr : Word), ∃ (info : Word), ∃ (l : Nat), ∃ (rest : List (Nat × Word × Word × Nat)), ∃ (n : Nat), ∃ (v : Word), s.ev.core = c ∧ s.ev.slot = k ∧ s.slotAt c k = sl ∧ (s.core c).endedTraps = (code, addr, info, l) :: rest ∧ freeSlot (s.core c) = some n ∧ s.up (c / 8) = true ∧ ((s.core c).resident = some l → (s.slotAt c n).launch = l) ∧ v = (match if (s.core c).resident = some l then none else tget (s.core c).saved l with | some x => (x.traps.getD n (0, 0)).1 | none => (s.slotAt c n).trapVec)) :=
  ⟨⟨Tests.st, 0, 0, (Tests.st).slotAt 0 0, by decide +kernel⟩,
    ⟨Tests.sl Tests.st fun sl => { sl with wrapup := true }, 0, 0, ((Tests.sl Tests.st fun sl => { sl with wrapup := true } : State)).slotAt 0 0, by decide +kernel⟩,
    ⟨Tests.sl Tests.st fun sl => { sl with pendWatchdog := true }, 0, 0, ((Tests.sl Tests.st fun sl => { sl with pendWatchdog := true } : State)).slotAt 0 0, { cause := .watchdog, info := 0, async := true }, { ((Tests.sl Tests.st fun sl => { sl with pendWatchdog := true } : State)).slotAt 0 0 with pendWatchdog := false }, (.inl (by decide +kernel)), by decide +kernel⟩,
    ⟨Tests.sl Tests.st fun sl => { sl with pendPosted := [(8, 1)] }, 0, 0, ((Tests.sl Tests.st fun sl => { sl with pendPosted := [(8, 1)] } : State)).slotAt 0 0, { cause := .posted, addr := 8, info := 1, async := true }, { ((Tests.sl Tests.st fun sl => { sl with pendPosted := [(8, 1)] } : State)).slotAt 0 0 with pendPosted := [] }, (.inr (.inl ⟨by decide +kernel, 8, 1, [], by decide +kernel⟩)), by decide +kernel⟩,
    ⟨Tests.sl Tests.st fun sl => { sl with pendRefused := [(8, 1)] }, 0, 0, ((Tests.sl Tests.st fun sl => { sl with pendRefused := [(8, 1)] } : State)).slotAt 0 0, { cause := .sendRefused, addr := 8, info := 1, async := true }, { ((Tests.sl Tests.st fun sl => { sl with pendRefused := [(8, 1)] } : State)).slotAt 0 0 with pendRefused := [] }, (.inr (.inr ⟨by decide +kernel, by decide +kernel, 8, 1, [], by decide +kernel⟩)), by decide +kernel⟩,
    ⟨Tests.co Tests.st fun k => { k with endedTraps := [(0x12, 8, 1, 0)] }, 0, 0, ((Tests.co Tests.st fun k => { k with endedTraps := [(0x12, 8, 1, 0)] } : State)).slotAt 0 0, 0x12, 8, 1, 0, [], 1, 0, by decide +kernel⟩,
    ⟨Tests.co (Tests.home Tests.st) fun k => { k with endedTraps := [(0x12, 8, 1, 0)] }, 0, 0, ((Tests.co (Tests.home Tests.st) fun k => { k with endedTraps := [(0x12, 8, 1, 0)] } : State)).slotAt 0 0, 0x12, 8, 1, 0, [], 1, (((Tests.co (Tests.home Tests.st) fun k => { k with endedTraps := [(0x12, 8, 1, 0)] } : State)).slotAt 0 1).trapVec, by decide +kernel⟩⟩

/-- Hypotheses of `Obligations.MessageEvents`, its part EventMessages are met. -/
theorem witness_MessageEvents_EventMessages :
    (∃ (s : State), ∃ (id : Nat), ∃ (c : Nat), ∃ (tr : Transit), ∃ (m : Msg), ∃ (x : Launch), (∀ a b n, tr.sender ≠ .peer a b n) ∧ s.ev.id = id ∧ tget s.transits id = some tr ∧ tr.arriving s.cycle = true ∧ tr.dest = c ∧ tr.msg = m ∧ s.launch? m.launch = some x ∧ tooLate s c id tr = false ∧ s.up (c / 8) = true ∧ (m.checked = false ∨ 10 ≤ m.len ∨ hasState s c m.launch = false ∨ (s.hearth (c / 8)).fenced = true)) ∧
    (∃ (s : State), ∃ (id : Nat), ∃ (c : Nat), ∃ (tr : Transit), ∃ (m : Msg), ∃ (x : Launch), (∀ a b n, tr.sender ≠ .peer a b n) ∧ s.ev.id = id ∧ tget s.transits id = some tr ∧ tr.arriving s.cycle = true ∧ tr.dest = c ∧ tr.msg = m ∧ s.launch? m.launch = some x ∧ tooLate s c id tr = false ∧ s.up (c / 8) = true ∧ (m.checked = false ∨ 10 ≤ m.len ∨ hasState s c m.launch = false ∨ (s.hearth (c / 8)).fenced = true)) ∧
    (∃ (s : State), ∃ (id : Nat), ∃ (c : Nat), ∃ (tr : Transit), ∃ (m : Msg), ∃ (x : Launch), (∀ a b n, tr.sender ≠ .peer a b n) ∧ s.ev.id = id ∧ tget s.transits id = some tr ∧ tr.arriving s.cycle = true ∧ tr.dest = c ∧ tr.msg = m ∧ s.launch? m.launch = some x ∧ tooLate s c id tr = false ∧ s.up (c / 8) = true ∧ m.checked = true ∧ m.len < 10 ∧ hasState s c m.launch = true ∧ (s.hearth (c / 8)).fenced = false ∧ (x.quenched = true ∨ x.status ≠ 0)) ∧
    (∃ (s : State), ∃ (id : Nat), ∃ (c : Nat), ∃ (tr : Transit), ∃ (m : Msg), ∃ (x : Launch), ∃ (k : Core), (∀ a b n, tr.sender ≠ .peer a b n) ∧ s.ev.id = id ∧ tget s.transits id = some tr ∧ tr.arriving s.cycle = true ∧ tr.dest = c ∧ tr.msg = m ∧ s.launch? m.launch = some x ∧ tooLate s c id tr = false ∧ s.up (c / 8) = true ∧ m.checked = true ∧ m.len < 10 ∧ hasState s c m.launch = true ∧ (s.hearth (c / 8)).fenced = false ∧ x.quenched = false ∧ x.status = 0 ∧ k = { s.core c with lastArrival := (s.cycle + 1, sourceKey tr, id) } ∧ k.resident = some m.launch ∧ k.ring = [] ∧ k.hwq.length < k.arrLimit) ∧
    (∃ (s : State), ∃ (id : Nat), ∃ (c : Nat), ∃ (tr : Transit), ∃ (m : Msg), ∃ (x : Launch), ∃ (k : Core), ∃ (a : Nat), (∀ a b n, tr.sender ≠ .peer a b n) ∧ s.ev.id = id ∧ tget s.transits id = some tr ∧ tr.arriving s.cycle = true ∧ tr.dest = c ∧ tr.msg = m ∧ s.launch? m.launch = some x ∧ tooLate s c id tr = false ∧ s.up (c / 8) = true ∧ m.checked = true ∧ m.len < 10 ∧ hasState s c m.launch = true ∧ (s.hearth (c / 8)).fenced = false ∧ x.quenched = false ∧ x.status = 0 ∧ k = { s.core c with lastArrival := (s.cycle + 1, sourceKey tr, id) } ∧ k.resident = some m.launch ∧ k.arrLimit ≤ k.hwq.length ∧ k.ring.length < k.ovfSize ∧ Memory.wf s.mem = true ∧ a = scratchKey c (k.ovfBase + 96 * ((k.ringHead + k.ring.length) % k.ovfSize))) ∧
    (∃ (s : State), ∃ (id : Nat), ∃ (c : Nat), ∃ (tr : Transit), ∃ (m : Msg), ∃ (x : Launch), ∃ (k : Core), (∀ a b n, tr.sender ≠ .peer a b n) ∧ s.ev.id = id ∧ tget s.transits id = some tr ∧ tr.arriving s.cycle = true ∧ tr.dest = c ∧ tr.msg = m ∧ s.launch? m.launch = some x ∧ tooLate s c id tr = false ∧ s.up (c / 8) = true ∧ m.checked = true ∧ m.len < 10 ∧ hasState s c m.launch = true ∧ (s.hearth (c / 8)).fenced = false ∧ x.quenched = false ∧ x.status = 0 ∧ k = { s.core c with lastArrival := (s.cycle + 1, sourceKey tr, id) } ∧ k.resident = some m.launch ∧ k.arrLimit ≤ k.hwq.length ∧ k.ovfSize ≤ k.ring.length) ∧
    (∃ (s : State), ∃ (id : Nat), ∃ (q : Queued), s.ev.id = id ∧ (s.core s.ev.core).hwq = [q] ∧ q.arrival = id ∧ q.since + 2 ^ 16 * (q.aged + 1) ≤ s.cycle) ∧
    (∃ (s : State), ∃ (id : Nat), ∃ (tr : Transit), s.ev.id = id ∧ tget s.transits id = some tr ∧ tr.arriving s.cycle = true ∧ tooLate s tr.dest id tr = true) ∧
    (∃ (s : State), ∃ (id : Nat), ∃ (tr : Transit), s.ev.id = id ∧ tget s.transits id = some tr ∧ tr.arriving s.cycle = true ∧ tooLate s tr.dest id tr = false ∧ exitNs s (tr.dest / 8) ≠ 0) :=
  ⟨⟨Tests.transit ({ msg := Tests.msg, sender := .task 0 1, dest := 0, leg := .flying } : Transit) (Tests.st), 5, 0, ({ msg := Tests.msg, sender := .task 0 1, dest := 0, leg := .flying } : Transit), Tests.msg, Tests.l0 (Tests.transit ({ msg := Tests.msg, sender := .task 0 1, dest := 0, leg := .flying } : Transit) (Tests.st) : State), (fun a b n h => by cases h), by decide +kernel⟩,
    ⟨Tests.transit ({ msg := { Tests.msg with words := [8] }, sender := .task 0 1, dest := 0, leg := .flying } : Transit) (Tests.home Tests.st), 5, 0, ({ msg := { Tests.msg with words := [8] }, sender := .task 0 1, dest := 0, leg := .flying } : Transit), { Tests.msg with words := [8] }, Tests.l0 (Tests.transit ({ msg := { Tests.msg with words := [8] }, sender := .task 0 1, dest := 0, leg := .flying } : Transit) (Tests.home Tests.st) : State), (fun a b n h => by cases h), by decide +kernel⟩,
    ⟨Tests.transit ({ msg := Tests.msg, sender := .task 0 1, dest := 0, leg := .flying } : Transit) (Tests.la (Tests.home Tests.st) fun l => { l with quenched := true }), 5, 0, ({ msg := Tests.msg, sender := .task 0 1, dest := 0, leg := .flying } : Transit), Tests.msg, Tests.l0 (Tests.transit ({ msg := Tests.msg, sender := .task 0 1, dest := 0, leg := .flying } : Transit) (Tests.la (Tests.home Tests.st) fun l => { l with quenched := true }) : State), (fun a b n h => by cases h), by decide +kernel⟩,
    ⟨Tests.transit ({ msg := Tests.msg, sender := .task 0 1, dest := 0, leg := .flying } : Transit) (Tests.home Tests.st), 5, 0, ({ msg := Tests.msg, sender := .task 0 1, dest := 0, leg := .flying } : Transit), Tests.msg, Tests.l0 (Tests.transit ({ msg := Tests.msg, sender := .task 0 1, dest := 0, leg := .flying } : Transit) (Tests.home Tests.st) : State), { ((Tests.transit ({ msg := Tests.msg, sender := .task 0 1, dest := 0, leg := .flying } : Transit) (Tests.home Tests.st) : State)).core 0 with lastArrival := (((Tests.transit ({ msg := Tests.msg, sender := .task 0 1, dest := 0, leg := .flying } : Transit) (Tests.home Tests.st) : State)).cycle + 1, sourceKey (({ msg := Tests.msg, sender := .task 0 1, dest := 0, leg := .flying } : Transit)), 5) }, (fun a b n h => by cases h), by decide +kernel⟩,
    ⟨Tests.transit ({ msg := Tests.msg, sender := .task 0 1, dest := 0, leg := .flying } : Transit) (Tests.co (Tests.home Tests.st) fun k => { k with arrLimit := 1, hwq := [{ msg := Tests.msg, arrival := 3, since := 0 }], ovfSize := 2, ovfBase := 0x1000 }), 5, 0, ({ msg := Tests.msg, sender := .task 0 1, dest := 0, leg := .flying } : Transit), Tests.msg, Tests.l0 (Tests.transit ({ msg := Tests.msg, sender := .task 0 1, dest := 0, leg := .flying } : Transit) (Tests.co (Tests.home Tests.st) fun k => { k with arrLimit := 1, hwq := [{ msg := Tests.msg, arrival := 3, since := 0 }], ovfSize := 2, ovfBase := 0x1000 }) : State), { ((Tests.transit ({ msg := Tests.msg, sender := .task 0 1, dest := 0, leg := .flying } : Transit) (Tests.co (Tests.home Tests.st) fun k => { k with arrLimit := 1, hwq := [{ msg := Tests.msg, arrival := 3, since := 0 }], ovfSize := 2, ovfBase := 0x1000 }) : State)).core 0 with lastArrival := (((Tests.transit ({ msg := Tests.msg, sender := .task 0 1, dest := 0, leg := .flying } : Transit) (Tests.co (Tests.home Tests.st) fun k => { k with arrLimit := 1, hwq := [{ msg := Tests.msg, arrival := 3, since := 0 }], ovfSize := 2, ovfBase := 0x1000 }) : State)).cycle + 1, sourceKey (({ msg := Tests.msg, sender := .task 0 1, dest := 0, leg := .flying } : Transit)), 5) }, scratchKey 0 0x1000, (fun a b n h => by cases h), by decide +kernel⟩,
    ⟨Tests.transit ({ msg := Tests.msg, sender := .task 0 1, dest := 0, leg := .flying } : Transit) (Tests.co (Tests.home Tests.st) fun k => { k with arrLimit := 1, hwq := [{ msg := Tests.msg, arrival := 3, since := 0 }], ovfSize := 0, ovfBase := 0x1000 }), 5, 0, ({ msg := Tests.msg, sender := .task 0 1, dest := 0, leg := .flying } : Transit), Tests.msg, Tests.l0 (Tests.transit ({ msg := Tests.msg, sender := .task 0 1, dest := 0, leg := .flying } : Transit) (Tests.co (Tests.home Tests.st) fun k => { k with arrLimit := 1, hwq := [{ msg := Tests.msg, arrival := 3, since := 0 }], ovfSize := 0, ovfBase := 0x1000 }) : State), { ((Tests.transit ({ msg := Tests.msg, sender := .task 0 1, dest := 0, leg := .flying } : Transit) (Tests.co (Tests.home Tests.st) fun k => { k with arrLimit := 1, hwq := [{ msg := Tests.msg, arrival := 3, since := 0 }], ovfSize := 0, ovfBase := 0x1000 }) : State)).core 0 with lastArrival := (((Tests.transit ({ msg := Tests.msg, sender := .task 0 1, dest := 0, leg := .flying } : Transit) (Tests.co (Tests.home Tests.st) fun k => { k with arrLimit := 1, hwq := [{ msg := Tests.msg, arrival := 3, since := 0 }], ovfSize := 0, ovfBase := 0x1000 }) : State)).cycle + 1, sourceKey (({ msg := Tests.msg, sender := .task 0 1, dest := 0, leg := .flying } : Transit)), 5) }, (fun a b n h => by cases h), by decide +kernel⟩,
    ⟨{ Tests.evt { id := 5 } (Tests.inbox Tests.msg Tests.st) with cycle := 2 ^ 16 }, 5, { msg := Tests.msg, arrival := 5, since := 0 }, by decide +kernel⟩,
    ⟨Tests.transit ({ msg := Tests.msg, sender := .task 0 1, dest := 0, leg := .flying } : Transit) (Tests.co (Tests.home Tests.st) fun k => { k with lastArrival := (1, 9999, 4) }), 5, ({ msg := Tests.msg, sender := .task 0 1, dest := 0, leg := .flying } : Transit), by decide +kernel⟩,
    ⟨Tests.transit ({ msg := Tests.msg, sender := .task 0 1, dest := 0, leg := .flying } : Transit) ((Tests.home Tests.st).modHearth 0 fun h => { h with powerGated := true }), 5, ({ msg := Tests.msg, sender := .task 0 1, dest := 0, leg := .flying } : Transit), by decide +kernel⟩⟩

/-- Hypotheses of `Obligations.MessageEvents`, its part EventSender are met. -/
theorem witness_MessageEvents_EventSender :
    (∃ (s : State), ∃ (id : Nat), ∃ (tr : Transit), ∃ (m : Msg), ∃ (x : Launch), ∃ (a : Nat), ∃ (b : Nat), s.ev.id = id ∧ tget s.transits id = some tr ∧ tr.msg = m ∧ s.launch? m.launch = some x ∧ tr.leg = .refused ∧ (x.quenched = true ∨ x.status ≠ 0) ∧ tr.sender = .task a b) ∧
    (∃ (s : State), ∃ (id : Nat), ∃ (tr : Transit), ∃ (m : Msg), ∃ (x : Launch), ∃ (first : Nat), s.ev.id = id ∧ tget s.transits id = some tr ∧ tr.msg = m ∧ s.launch? m.launch = some x ∧ tr.leg = .refused ∧ x.quenched = false ∧ x.status = 0 ∧ first = tr.firstRefusal.getD s.cycle ∧ s.cycle < first + 4096) ∧
    (∃ (s : State), ∃ (id : Nat), ∃ (tr : Transit), ∃ (m : Msg), ∃ (x : Launch), ∃ (first : Nat), ∃ (a : Nat), ∃ (b : Nat), s.ev.id = id ∧ tget s.transits id = some tr ∧ tr.msg = m ∧ s.launch? m.launch = some x ∧ tr.leg = .refused ∧ x.quenched = false ∧ x.status = 0 ∧ tr.firstRefusal = some first ∧ first + 4096 ≤ s.cycle ∧ tr.sender = .task a b) ∧
    (∃ (s : State), ∃ (id : Nat), ∃ (tr : Transit), ∃ (m : Msg), ∃ (x : Launch), ∃ (first : Nat), ∃ (a : Nat), ∃ (b : Nat), s.ev.id = id ∧ tget s.transits id = some tr ∧ tr.msg = m ∧ s.launch? m.launch = some x ∧ tr.leg = .refused ∧ x.quenched = false ∧ x.status = 0 ∧ tr.firstRefusal = some first ∧ first + 4096 ≤ s.cycle ∧ tr.sender = .task a b) ∧
    (∃ (s : State), ∃ (id : Nat), ∃ (tr : Transit), ∃ (m : Msg), ∃ (x : Launch), ∃ (due : Nat), s.ev.id = id ∧ tget s.transits id = some tr ∧ tr.msg = m ∧ s.launch? m.launch = some x ∧ tr.leg = .waiting due ∧ s.cycle < due) ∧
    (∃ (s : State), ∃ (id : Nat), ∃ (tr : Transit), ∃ (m : Msg), ∃ (x : Launch), ∃ (due : Nat), s.ev.id = id ∧ tget s.transits id = some tr ∧ tr.msg = m ∧ s.launch? m.launch = some x ∧ tr.leg = .waiting due ∧ due ≤ s.cycle ∧ s.thisDevice (bitsOf m.lo.toNat 63 58) = true) ∧
    (∃ (s : State), ∃ (id : Nat), ∃ (tr : Transit), ∃ (m : Msg), ∃ (x : Launch), (∃ a b, tr.sender = .task a b) ∧ s.ev.id = id ∧ tget s.transits id = some tr ∧ tr.msg = m ∧ s.launch? m.launch = some x ∧ tr.leg = .accepted) ∧
    (∃ (s : State), ∃ (id : Nat), ∃ (tr : Transit), ∃ (m : Msg), ∃ (x : Launch), ∃ (a : Nat), ∃ (b : Nat), s.ev.id = id ∧ tget s.transits id = some tr ∧ tr.msg = m ∧ s.launch? m.launch = some x ∧ tr.leg = .accepted ∧ tr.sender = .spawn a b) ∧
    (∃ (s : State), ∃ (id : Nat), ∃ (tr : Transit), ∃ (m : Msg), ∃ (x : Launch), ∃ (first : Nat), ∃ (a : Nat), ∃ (b : Nat), s.ev.id = id ∧ tget s.transits id = some tr ∧ tr.msg = m ∧ s.launch? m.launch = some x ∧ tr.leg = .refused ∧ x.quenched = false ∧ x.status = 0 ∧ tr.firstRefusal = some first ∧ first + 4096 ≤ s.cycle ∧ tr.sender = .migrate a b ∧ (s.slotAt a b).migrating = some id) ∧
    (∃ (s : State), ∃ (id : Nat), ∃ (tr : Transit), ∃ (m : Msg), ∃ (x : Launch), ∃ (a : Nat), ∃ (b : Nat), s.ev.id = id ∧ tget s.transits id = some tr ∧ tr.msg = m ∧ s.launch? m.launch = some x ∧ tr.leg = .accepted ∧ tr.sender = .migrate a b ∧ (s.slotAt a b).migrating = some id ∧ (s.slotAt a b).shadow = none) ∧
    (∃ (s : State), ∃ (id : Nat), ∃ (tr : Transit), ∃ (m : Msg), ∃ (x : Launch), ∃ (a : Nat), ∃ (b : Nat), s.ev.id = id ∧ tget s.transits id = some tr ∧ tr.msg = m ∧ s.launch? m.launch = some x ∧ tr.leg = .accepted ∧ tr.sender = .migrate a b ∧ (s.slotAt a b).migrating = some id ∧ (s.slotAt a b).shadow.isSome = true) :=
  ⟨⟨Tests.transit ({ msg := Tests.msg, sender := .task 0 1, dest := 0, leg := .refused } : Transit) (Tests.la (Tests.home Tests.st) fun l => { l with quenched := true }), 5, ({ msg := Tests.msg, sender := .task 0 1, dest := 0, leg := .refused } : Transit), Tests.msg, Tests.l0 (Tests.transit ({ msg := Tests.msg, sender := .task 0 1, dest := 0, leg := .refused } : Transit) (Tests.la (Tests.home Tests.st) fun l => { l with quenched := true }) : State), 0, 1, by decide +kernel⟩,
    ⟨Tests.transit ({ msg := Tests.msg, sender := .task 0 1, dest := 0, leg := .refused } : Transit) (Tests.home Tests.st), 5, ({ msg := Tests.msg, sender := .task 0 1, dest := 0, leg := .refused } : Transit), Tests.msg, Tests.l0 (Tests.transit ({ msg := Tests.msg, sender := .task 0 1, dest := 0, leg := .refused } : Transit) (Tests.home Tests.st) : State), 0, by decide +kernel⟩,
    ⟨{ Tests.transit ({ msg := Tests.msg, sender := .task 0 1, dest := 0, leg := .refused, firstRefusal := some 0, orphaned := true } : Transit) (Tests.home Tests.st) with cycle := 4096 }, 5, ({ msg := Tests.msg, sender := .task 0 1, dest := 0, leg := .refused, firstRefusal := some 0, orphaned := true } : Transit), Tests.msg, Tests.l0 ({ Tests.transit ({ msg := Tests.msg, sender := .task 0 1, dest := 0, leg := .refused, firstRefusal := some 0, orphaned := true } : Transit) (Tests.home Tests.st) with cycle := 4096 } : State), 0, 0, 1, by decide +kernel⟩,
    ⟨{ Tests.transit ({ msg := Tests.msg, sender := .task 0 1, dest := 0, leg := .refused, firstRefusal := some 0, orphaned := false } : Transit) (Tests.home Tests.st) with cycle := 4096 }, 5, ({ msg := Tests.msg, sender := .task 0 1, dest := 0, leg := .refused, firstRefusal := some 0, orphaned := false } : Transit), Tests.msg, Tests.l0 ({ Tests.transit ({ msg := Tests.msg, sender := .task 0 1, dest := 0, leg := .refused, firstRefusal := some 0, orphaned := false } : Transit) (Tests.home Tests.st) with cycle := 4096 } : State), 0, 0, 1, by decide +kernel⟩,
    ⟨Tests.transit ({ msg := Tests.msg, sender := .task 0 1, dest := 0, leg := .waiting 9 } : Transit) (Tests.home Tests.st), 5, ({ msg := Tests.msg, sender := .task 0 1, dest := 0, leg := .waiting 9 } : Transit), Tests.msg, Tests.l0 (Tests.transit ({ msg := Tests.msg, sender := .task 0 1, dest := 0, leg := .waiting 9 } : Transit) (Tests.home Tests.st) : State), 9, by decide +kernel⟩,
    ⟨Tests.transit ({ msg := Tests.msg, sender := .task 0 1, dest := 0, leg := .waiting 0 } : Transit) (Tests.home Tests.st), 5, ({ msg := Tests.msg, sender := .task 0 1, dest := 0, leg := .waiting 0 } : Transit), Tests.msg, Tests.l0 (Tests.transit ({ msg := Tests.msg, sender := .task 0 1, dest := 0, leg := .waiting 0 } : Transit) (Tests.home Tests.st) : State), 0, by decide +kernel⟩,
    ⟨Tests.transit ({ msg := Tests.msg, sender := .task 0 1, dest := 0, leg := .accepted } : Transit) (Tests.home Tests.st), 5, ({ msg := Tests.msg, sender := .task 0 1, dest := 0, leg := .accepted } : Transit), Tests.msg, Tests.l0 (Tests.transit ({ msg := Tests.msg, sender := .task 0 1, dest := 0, leg := .accepted } : Transit) (Tests.home Tests.st) : State), (⟨0, 1, rfl⟩), by decide +kernel⟩,
    ⟨Tests.transit ({ msg := Tests.msg, sender := .spawn 0 1, dest := 0, leg := .accepted } : Transit) (Tests.co Tests.st fun k => { k with spawns := 3 }), 5, ({ msg := Tests.msg, sender := .spawn 0 1, dest := 0, leg := .accepted } : Transit), Tests.msg, Tests.l0 (Tests.transit ({ msg := Tests.msg, sender := .spawn 0 1, dest := 0, leg := .accepted } : Transit) (Tests.co Tests.st fun k => { k with spawns := 3 }) : State), 0, 1, by decide +kernel⟩,
    ⟨{ Tests.transit ({ msg := Tests.msg, sender := .migrate 0 0, dest := 0, leg := .refused, firstRefusal := some 0 } : Transit) (Tests.sl (Tests.home Tests.st) fun sl => { sl with migrating := some 5 }) with cycle := 4096 }, 5, ({ msg := Tests.msg, sender := .migrate 0 0, dest := 0, leg := .refused, firstRefusal := some 0 } : Transit), Tests.msg, Tests.l0 ({ Tests.transit ({ msg := Tests.msg, sender := .migrate 0 0, dest := 0, leg := .refused, firstRefusal := some 0 } : Transit) (Tests.sl (Tests.home Tests.st) fun sl => { sl with migrating := some 5 }) with cycle := 4096 } : State), 0, 0, 0, by decide +kernel⟩,
    ⟨Tests.transit ({ msg := Tests.msg, sender := .migrate 0 0, dest := 0, leg := .accepted } : Transit) (Tests.sl (Tests.home Tests.st) fun sl => { sl with migrating := some 5 }), 5, ({ msg := Tests.msg, sender := .migrate 0 0, dest := 0, leg := .accepted } : Transit), Tests.msg, Tests.l0 (Tests.transit ({ msg := Tests.msg, sender := .migrate 0 0, dest := 0, leg := .accepted } : Transit) (Tests.sl (Tests.home Tests.st) fun sl => { sl with migrating := some 5 }) : State), 0, 0, by decide +kernel⟩,
    ⟨Tests.transit ({ msg := Tests.msg, sender := .migrate 0 0, dest := 0, leg := .accepted } : Transit) (Tests.sl (Tests.home Tests.st) fun sl => { sl with migrating := some 5, shadow := some Tests.shadow }), 5, ({ msg := Tests.msg, sender := .migrate 0 0, dest := 0, leg := .accepted } : Transit), Tests.msg, Tests.l0 (Tests.transit ({ msg := Tests.msg, sender := .migrate 0 0, dest := 0, leg := .accepted } : Transit) (Tests.sl (Tests.home Tests.st) fun sl => { sl with migrating := some 5, shadow := some Tests.shadow }) : State), 0, 0, by decide +kernel⟩⟩

/-- Hypotheses of `Obligations.MessageEvents`, its part EventDispatch are met. -/
theorem witness_MessageEvents_EventDispatch :
    (∃ (s : State), ∃ (c : Nat), ∃ (l : Nat), ∃ (k : Core), ∃ (x : Launch), ∃ (q : Queued), ∃ (m : Msg), ∃ (n : Nat), ∃ (e : ClassEntry), ∃ (obj : Word), s.ev.core = c ∧ s.core c = k ∧ s.launch? l = some x ∧ s.up (c / 8) = true ∧ mayDispatch s c = true ∧ k.hwq = [q] ∧ k.ring = [] ∧ q.msg = m ∧ m.launch = l ∧ freeSlot k = some n ∧ boundChan k m.cls = none ∧ s.refuted (s.follow m.tag) = false ∧ isDead s c m false = false ∧ m.len ≠ 9 ∧ m.top = s.topBit l ∧ e = s.classOf l m.cls ∧ (e.excl = false ∨ m.slot = 0xFFFF) ∧ obj = (if m.slot = 0xFFFF then 0 else word (scratchKey c (objectEntry s c l m.slot).2.2))) ∧
    (∃ (s : State), ∃ (c : Nat), ∃ (l : Nat), ∃ (k : Core), ∃ (x : Launch), ∃ (q : Queued), ∃ (m : Msg), ∃ (n : Nat), s.ev.core = c ∧ s.core c = k ∧ s.launch? l = some x ∧ s.up (c / 8) = true ∧ mayDispatch s c = true ∧ k.hwq = [q] ∧ k.ring = [] ∧ q.msg = m ∧ m.launch = l ∧ freeSlot k = some n ∧ boundChan k m.cls = none ∧ s.refuted (s.follow m.tag) = false ∧ isDead s c m false = true) ∧
    (∃ (s : State), ∃ (c : Nat), ∃ (l : Nat), ∃ (k : Core), ∃ (x : Launch), ∃ (q : Queued), ∃ (n : Nat), s.ev.core = c ∧ s.core c = k ∧ s.launch? l = some x ∧ s.up (c / 8) = true ∧ mayDispatch s c = true ∧ k.hwq = [q] ∧ k.ring = [] ∧ q.msg.launch = l ∧ freeSlot k = some n ∧ boundChan k q.msg.cls = none ∧ s.refuted (s.follow q.msg.tag) = true ∧ exclusiveRuns s c l q.msg.slot = false) ∧
    (∃ (s : State), ∃ (c : Nat), ∃ (l : Nat), ∃ (k : Core), ∃ (x : Launch), ∃ (q : Queued), s.ev.core = c ∧ s.core c = k ∧ s.launch? l = some x ∧ s.up (c / 8) = true ∧ mayDispatch s c = true ∧ k.hwq = [q] ∧ boundChan k q.msg.cls = none ∧ (freeSlot k = none ∨ (isDead s c q.msg false = false ∧ (s.classOf q.msg.launch q.msg.cls).excl = true ∧ q.msg.slot ≠ 0xFFFF ∧ exclusiveRuns s c q.msg.launch q.msg.slot = true))) ∧
    (∃ (s : State), ∃ (c : Nat), ∃ (l : Nat), ∃ (k : Core), ∃ (x : Launch), ∃ (n : Nat), s.ev.core = c ∧ s.core c = k ∧ s.launch? l = some x ∧ s.up (c / 8) = true ∧ k.wrapupOwed = true ∧ k.resident = some l ∧ gangReady s l = true ∧ freeSlot k = some n) :=
  ⟨⟨Tests.inbox Tests.msg (Tests.tables 0x100000064 Tests.st), 0, 0, ((Tests.inbox Tests.msg (Tests.tables 0x100000064 Tests.st) : State)).core 0, Tests.l0 (Tests.inbox Tests.msg (Tests.tables 0x100000064 Tests.st) : State), { msg := Tests.msg, arrival := 5, since := 0 }, Tests.msg, 0, ((Tests.inbox Tests.msg (Tests.tables 0x100000064 Tests.st) : State)).classOf 0 2, 0, by decide +kernel⟩,
    ⟨Tests.inbox Tests.msg Tests.st, 0, 0, ((Tests.inbox Tests.msg Tests.st : State)).core 0, Tests.l0 (Tests.inbox Tests.msg Tests.st : State), { msg := Tests.msg, arrival := 5, since := 0 }, Tests.msg, 0, by decide +kernel⟩,
    ⟨Tests.hyp .sweeping (Tests.inbox (mkMsg (coreHandle 0) 2 (headerHi 0 63 0 false 3 0 1) [7]) Tests.st), 0, 0, ((Tests.hyp .sweeping (Tests.inbox (mkMsg (coreHandle 0) 2 (headerHi 0 63 0 false 3 0 1) [7]) Tests.st) : State)).core 0, Tests.l0 (Tests.hyp .sweeping (Tests.inbox (mkMsg (coreHandle 0) 2 (headerHi 0 63 0 false 3 0 1) [7]) Tests.st) : State), { msg := mkMsg (coreHandle 0) 2 (headerHi 0 63 0 false 3 0 1) [7], arrival := 5, since := 0 }, 0, by decide +kernel⟩,
    ⟨Tests.co (Tests.inbox Tests.msg Tests.st) fun k => { k with slots := [0, 1, 2, 3].map fun i => (i, { held := true }) }, 0, 0, ((Tests.co (Tests.inbox Tests.msg Tests.st) fun k => { k with slots := [0, 1, 2, 3].map fun i => (i, { held := true }) } : State)).core 0, Tests.l0 (Tests.co (Tests.inbox Tests.msg Tests.st) fun k => { k with slots := [0, 1, 2, 3].map fun i => (i, { held := true }) } : State), { msg := Tests.msg, arrival := 5, since := 0 }, by decide +kernel⟩,
    ⟨Tests.co (Tests.home Tests.st) fun k => { k with wrapupOwed := true, slots := [] }, 0, 0, ((Tests.co (Tests.home Tests.st) fun k => { k with wrapupOwed := true, slots := [] } : State)).core 0, Tests.l0 (Tests.co (Tests.home Tests.st) fun k => { k with wrapupOwed := true, slots := [] } : State), 0, by decide +kernel⟩⟩

/-- Hypotheses of `Obligations.LaunchEvents`, its part EventQueues are met. -/
theorem witness_LaunchEvents_EventQueues :
    (∃ (s : State), ∃ (q : Nat), ∃ (x : Queue), s.ev.queue = q ∧ s.queue q = x ∧ Memory.wf s.mem = true ∧ s.ev.bytes.length = 8 ∧ q < 4096) ∧
    (∃ (s : State), ∃ (q : Nat), ∃ (x : Queue), s.ev.queue = q ∧ s.queue q = x ∧ Memory.wf s.mem = true ∧ s.ev.bytes.length ≠ 8) ∧
    (∃ (s : State), ∃ (q : Nat), ∃ (x : Queue), s.ev.queue = q ∧ s.queue q = x ∧ Memory.wf s.mem = true ∧ q < 4096 ∧ s.ev.n % 2 = 0 ∧ s.ev.n < 2 ^ 64) ∧
    (∃ (s : State), ∃ (q : Nat), ∃ (x : Queue), s.ev.queue = q ∧ s.queue q = x ∧ Memory.wf s.mem = true ∧ q < 4096 ∧ s.ev.n % 2 = 1 ∧ s.ev.n < 2 ^ 64 ∧ x.enabled = false) ∧
    (∃ (s : State), ∃ (q : Nat), ∃ (x : Queue), s.ev.queue = q ∧ s.queue q = x ∧ Memory.wf s.mem = true ∧ s.ev.flag = true ∧ s.restarting = false) ∧
    (∃ (s : State), ∃ (q : Nat), ∃ (x : Queue), s.ev.queue = q ∧ s.queue q = x ∧ Memory.wf s.mem = true ∧ s.ev.flag = false) ∧
    (∃ (s : State), ∃ (q : Nat), ∃ (x : Queue), ∃ (code : Nat), ∃ (i : Instr), (i = .packetNop ∨ i = .packetDispatch ∨ i = .packetStop ∨ i = .packetIndirect ∨ i = .packetStatus) ∧ s.ev.queue = q ∧ s.queue q = x ∧ Memory.wf s.mem = true ∧ queueRuns s q = true ∧ nextPacket s q = .error (.malformed code) ∧ code < 256) ∧
    (∃ (s : State), ∃ (q : Nat), ∃ (x : Queue), ∃ (code : Nat), ∃ (i : Instr), (i = .packetNop ∨ i = .packetDispatch ∨ i = .packetStop ∨ i = .packetIndirect ∨ i = .packetStatus) ∧ s.ev.queue = q ∧ s.queue q = x ∧ Memory.wf s.mem = true ∧ queueRuns s q = true ∧ nextPacket s q = .error (.malformed code) ∧ code < 256) ∧
    (∃ (s : State), ∃ (q : Nat), ∃ (x : Queue), ∃ (code : Nat), ∃ (i : Instr), (i = .packetNop ∨ i = .packetDispatch ∨ i = .packetStop ∨ i = .packetIndirect ∨ i = .packetStatus) ∧ s.ev.queue = q ∧ s.queue q = x ∧ Memory.wf s.mem = true ∧ queueRuns s q = true ∧ nextPacket s q = .error (.malformed code) ∧ code < 256) ∧
    (∃ (s : State), ∃ (q : Nat), ∃ (x : Queue), ∃ (code : Nat), ∃ (i : Instr), (i = .packetNop ∨ i = .packetDispatch ∨ i = .packetStop ∨ i = .packetIndirect ∨ i = .packetStatus) ∧ s.ev.queue = q ∧ s.queue q = x ∧ Memory.wf s.mem = true ∧ queueRuns s q = true ∧ nextPacket s q = .error (.malformed code) ∧ code < 256) ∧
    (∃ (s : State), ∃ (q : Nat), ∃ (x : Queue), ∃ (code : Nat), ∃ (i : Instr), (i = .packetNop ∨ i = .packetDispatch ∨ i = .packetStop ∨ i = .packetIndirect ∨ i = .packetStatus) ∧ s.ev.queue = q ∧ s.queue q = x ∧ Memory.wf s.mem = true ∧ queueRuns s q = true ∧ nextPacket s q = .error (.malformed code) ∧ code < 256) ∧
    (∃ (s : State), ∃ (q : Nat), ∃ (x : Queue), ∃ (code : Nat), ∃ (i : Instr), (i = .packetNop ∨ i = .packetDispatch ∨ i = .packetStop ∨ i = .packetIndirect ∨ i = .packetStatus) ∧ s.ev.queue = q ∧ s.queue q = x ∧ Memory.wf s.mem = true ∧ queueRuns s q = true ∧ nextPacket s q = .error (.malformed code) ∧ code < 256) ∧
    (∃ (s : State), ∃ (q : Nat), ∃ (x : Queue), ∃ (code : Nat), ∃ (i : Instr), (i = .packetNop ∨ i = .packetDispatch ∨ i = .packetStop ∨ i = .packetIndirect ∨ i = .packetStatus) ∧ s.ev.queue = q ∧ s.queue q = x ∧ Memory.wf s.mem = true ∧ queueRuns s q = true ∧ nextPacket s q = .error (.malformed code) ∧ code < 256) ∧
    (∃ (s : State), ∃ (q : Nat), ∃ (x : Queue), ∃ (code : Nat), ∃ (i : Instr), (i = .packetNop ∨ i = .packetDispatch ∨ i = .packetStop ∨ i = .packetIndirect ∨ i = .packetStatus) ∧ s.ev.queue = q ∧ s.queue q = x ∧ Memory.wf s.mem = true ∧ queueRuns s q = true ∧ nextPacket s q = .error (.malformed code) ∧ code < 256) :=
  ⟨⟨{ Tests.queue [0x100] ({ Tests.q 0 with latched := 0 }) Tests.st with ev := { queue := 1, bytes := leBytes 1 8 } }, 1, (({ Tests.queue [0x100] ({ Tests.q 0 with latched := 0 }) Tests.st with ev := { queue := 1, bytes := leBytes 1 8 } } : State)).queue 1, by decide +kernel⟩,
    ⟨{ Tests.queue [0x100] (Tests.q 1) Tests.st with ev := { queue := 1, bytes := [1, 2] } }, 1, (({ Tests.queue [0x100] (Tests.q 1) Tests.st with ev := { queue := 1, bytes := [1, 2] } } : State)).queue 1, by decide +kernel⟩,
    ⟨{ Tests.queue [0x100] (Tests.q 1) Tests.st with ev := { queue := 1, n := 0x718 } }, 1, (({ Tests.queue [0x100] (Tests.q 1) Tests.st with ev := { queue := 1, n := 0x718 } } : State)).queue 1, by decide +kernel⟩,
    ⟨{ Tests.queue [0x100] ({ latched := 1 }) Tests.st with ev := { queue := 1, n := 0x719 } }, 1, (({ Tests.queue [0x100] ({ latched := 1 }) Tests.st with ev := { queue := 1, n := 0x719 } } : State)).queue 1, by decide +kernel⟩,
    ⟨{ Tests.queue [0x100] (Tests.q 1) Tests.st with ev := { queue := 1, flag := true } }, 1, (({ Tests.queue [0x100] (Tests.q 1) Tests.st with ev := { queue := 1, flag := true } } : State)).queue 1, by decide +kernel⟩,
    ⟨{ Tests.queue [0x100] (Tests.q 1) Tests.st with ev := { queue := 1, flag := false } }, 1, (({ Tests.queue [0x100] (Tests.q 1) Tests.st with ev := { queue := 1, flag := false } } : State)).queue 1, by decide +kernel⟩,
    ⟨Tests.queue [0x105] (Tests.q 3) Tests.st, 1, ((Tests.queue [0x105] (Tests.q 3) Tests.st : State)).queue 1, 1, .packetNop, (.inl rfl), by decide +kernel⟩,
    ⟨Tests.queue [0x105] (Tests.q 3) Tests.st, 1, ((Tests.queue [0x105] (Tests.q 3) Tests.st : State)).queue 1, 1, .packetIndirect, (.inr (.inr (.inr (.inl rfl)))), by decide +kernel⟩,
    ⟨Tests.queue [0x2200] (Tests.q 3) Tests.st, 1, ((Tests.queue [0x2200] (Tests.q 3) Tests.st : State)).queue 1, 2, .packetNop, (.inl rfl), by decide +kernel⟩,
    ⟨Tests.queue [0x2200] (Tests.q 3) Tests.st, 1, ((Tests.queue [0x2200] (Tests.q 3) Tests.st : State)).queue 1, 2, .packetIndirect, (.inr (.inr (.inr (.inl rfl)))), by decide +kernel⟩,
    ⟨Tests.queue [0x10100] (Tests.q 3) Tests.st, 1, ((Tests.queue [0x10100] (Tests.q 3) Tests.st : State)).queue 1, 3, .packetNop, (.inl rfl), by decide +kernel⟩,
    ⟨Tests.queue [0x10100] (Tests.q 3) Tests.st, 1, ((Tests.queue [0x10100] (Tests.q 3) Tests.st : State)).queue 1, 3, .packetIndirect, (.inr (.inr (.inr (.inl rfl)))), by decide +kernel⟩,
    ⟨Tests.queue [0x303, 0x80, 0] (Tests.q 3) Tests.st, 1, ((Tests.queue [0x303, 0x80, 0] (Tests.q 3) Tests.st : State)).queue 1, 3, .packetNop, (.inl rfl), by decide +kernel⟩,
    ⟨Tests.queue [0x303, 0x80, 0] (Tests.q 3) Tests.st, 1, ((Tests.queue [0x303, 0x80, 0] (Tests.q 3) Tests.st : State)).queue 1, 3, .packetIndirect, (.inr (.inr (.inr (.inl rfl)))), by decide +kernel⟩⟩

/-- Hypotheses of `Obligations.LaunchEvents`, its part EventQueues are met. -/
theorem witness_LaunchEvents_EventQueues_2 :
    (∃ (s : State), ∃ (q : Nat), ∃ (x : Queue), ∃ (k : Nat), ∃ (i : Instr), (i = .packetNop ∨ i = .packetDispatch ∨ i = .packetStop ∨ i = .packetIndirect ∨ i = .packetStatus) ∧ s.ev.queue = q ∧ s.queue q = x ∧ Memory.wf s.mem = true ∧ queueRuns s q = true ∧ nextPacket s q = .error (.away k)) ∧
    (∃ (s : State), ∃ (q : Nat), ∃ (x : Queue), ∃ (k : Nat), ∃ (i : Instr), (i = .packetNop ∨ i = .packetDispatch ∨ i = .packetStop ∨ i = .packetIndirect ∨ i = .packetStatus) ∧ s.ev.queue = q ∧ s.queue q = x ∧ Memory.wf s.mem = true ∧ queueRuns s q = true ∧ nextPacket s q = .error (.away k)) ∧
    (∃ (s : State), ∃ (q : Nat), ∃ (x : Queue), ∃ (p : QPacket), s.ev.queue = q ∧ s.queue q = x ∧ Memory.wf s.mem = true ∧ queueRuns s q = true ∧ nextPacket s q = .ok p ∧ x.indirect = none ∧ p.type = 0) ∧
    (∃ (s : State), ∃ (q : Nat), ∃ (x : Queue), ∃ (p : QPacket), s.ev.queue = q ∧ s.queue q = x ∧ Memory.wf s.mem = true ∧ queueRuns s q = true ∧ nextPacket s q = .ok p ∧ x.indirect = none ∧ p.type = 0) ∧
    (∃ (s : State), ∃ (q : Nat), ∃ (x : Queue), ∃ (p : QPacket), s.ev.queue = q ∧ s.queue q = x ∧ Memory.wf s.mem = true ∧ queueRuns s q = true ∧ nextPacket s q = .ok p ∧ x.indirect = none ∧ p.type = 1 ∧ packetAway s q p = none) ∧
    (∃ (s : State), ∃ (q : Nat), ∃ (x : Queue), ∃ (p : QPacket), s.ev.queue = q ∧ s.queue q = x ∧ Memory.wf s.mem = true ∧ queueRuns s q = true ∧ nextPacket s q = .ok p ∧ x.indirect = none ∧ p.type = 1 ∧ packetAway s q p = none) ∧
    (∃ (s : State), ∃ (q : Nat), ∃ (x : Queue), ∃ (p : QPacket), s.ev.queue = q ∧ s.queue q = x ∧ Memory.wf s.mem = true ∧ queueRuns s q = true ∧ nextPacket s q = .ok p ∧ x.indirect = none ∧ p.type = 1 ∧ packetAway s q p = none) ∧
    (∃ (s : State), ∃ (q : Nat), ∃ (x : Queue), ∃ (p : QPacket), ∃ l, s.ev.queue = q ∧ s.queue q = x ∧ Memory.wf s.mem = true ∧ queueRuns s q = true ∧ nextPacket s q = .ok p ∧ x.indirect = none ∧ p.type = 2 ∧ s.launches.find? (fun y => y.2.queue == q && y.2.lr.getD 29 0 == p.body.getD 0 0) = some l) ∧
    (∃ (s : State), ∃ (q : Nat), ∃ (x : Queue), ∃ (p : QPacket), ∃ l, s.ev.queue = q ∧ s.queue q = x ∧ Memory.wf s.mem = true ∧ queueRuns s q = true ∧ nextPacket s q = .ok p ∧ x.indirect = none ∧ p.type = 2 ∧ s.launches.find? (fun y => y.2.queue == q && y.2.lr.getD 29 0 == p.body.getD 0 0) = some l) ∧
    (∃ (s : State), ∃ (q : Nat), ∃ (x : Queue), ∃ (p : QPacket), s.ev.queue = q ∧ s.queue q = x ∧ Memory.wf s.mem = true ∧ queueRuns s q = true ∧ nextPacket s q = .ok p ∧ x.indirect = none ∧ p.type = 3) ∧
    (∃ (s : State), ∃ (q : Nat), ∃ (x : Queue), ∃ (p : QPacket), ∃ l, s.ev.queue = q ∧ s.queue q = x ∧ Memory.wf s.mem = true ∧ queueRuns s q = true ∧ nextPacket s q = .ok p ∧ x.indirect = none ∧ p.type = 4 ∧ s.launches.find? (fun y => y.2.lr.getD 29 0 == p.body.getD 0 0) = some l ∧ peerPage (pastPacket s q 3) (queueAsid s q) (p.body.getD 1 0).toNat = none) ∧
    (∃ (s : State), ∃ (q : Nat), ∃ (x : Queue), ∃ (p : QPacket), ∃ l, s.ev.queue = q ∧ s.queue q = x ∧ Memory.wf s.mem = true ∧ queueRuns s q = true ∧ nextPacket s q = .ok p ∧ x.indirect = none ∧ p.type = 4 ∧ s.launches.find? (fun y => y.2.lr.getD 29 0 == p.body.getD 0 0) = some l ∧ peerPage (pastPacket s q 3) (queueAsid s q) (p.body.getD 1 0).toNat = none) ∧
    (∃ (s : State), ∃ (q : Nat), ∃ (x : Queue), ∃ (k : Nat), ∃ (p : QPacket), s.ev.queue = q ∧ s.queue q = x ∧ Memory.wf s.mem = true ∧ queueRuns s q = true ∧ nextPacket s q = .ok p ∧ p.type = 1 ∧ packetAway s q p = some k) :=
  ⟨⟨{ Tests.queue [0x100] (Tests.q 3) Tests.st with selfRefresh := [false, false, true] }, 1, (({ Tests.queue [0x100] (Tests.q 3) Tests.st with selfRefresh := [false, false, true] } : State)).queue 1, 0x71000, .packetNop, (.inl rfl), by decide +kernel⟩,
    ⟨{ Tests.queue [0x100] (Tests.q 3) Tests.st with selfRefresh := [false, false, true] }, 1, (({ Tests.queue [0x100] (Tests.q 3) Tests.st with selfRefresh := [false, false, true] } : State)).queue 1, 0x71000, .packetIndirect, (.inr (.inr (.inr (.inl rfl)))), by decide +kernel⟩,
    ⟨Tests.queue [0x100] (Tests.q 1) Tests.st, 1, ((Tests.queue [0x100] (Tests.q 1) Tests.st : State)).queue 1, match nextPacket (Tests.queue [0x100] (Tests.q 1) Tests.st : State) 1 with | .ok p => p | .error _ => ⟨0, 0, []⟩, by decide +kernel⟩,
    ⟨Tests.queue [0x300, 5, 6] (Tests.q 3) Tests.st, 1, ((Tests.queue [0x300, 5, 6] (Tests.q 3) Tests.st : State)).queue 1, match nextPacket (Tests.queue [0x300, 5, 6] (Tests.q 3) Tests.st : State) 1 with | .ok p => p | .error _ => ⟨0, 0, []⟩, by decide +kernel⟩,
    ⟨Tests.queue [0x2000000000000201, 0x80000] (Tests.q 2) Tests.st, 1, ((Tests.queue [0x2000000000000201, 0x80000] (Tests.q 2) Tests.st : State)).queue 1, match nextPacket (Tests.queue [0x2000000000000201, 0x80000] (Tests.q 2) Tests.st : State) 1 with | .ok p => p | .error _ => ⟨0, 0, []⟩, by decide +kernel⟩,
    ⟨Tests.queue [0x2000000100000301, 0, 0x80000] (Tests.q 3) Tests.st, 1, ((Tests.queue [0x2000000100000301, 0, 0x80000] (Tests.q 3) Tests.st : State)).queue 1, match nextPacket (Tests.queue [0x2000000100000301, 0, 0x80000] (Tests.q 3) Tests.st : State) 1 with | .ok p => p | .error _ => ⟨0, 0, []⟩, by decide +kernel⟩,
    ⟨Tests.queue [0x4000000100000301, 0, 7] (Tests.q 3) Tests.st, 1, ((Tests.queue [0x4000000100000301, 0, 7] (Tests.q 3) Tests.st : State)).queue 1, match nextPacket (Tests.queue [0x4000000100000301, 0, 7] (Tests.q 3) Tests.st : State) 1 with | .ok p => p | .error _ => ⟨0, 0, []⟩, by decide +kernel⟩,
    ⟨Tests.la (Tests.queue [0x202, 0x80000] (Tests.q 2) Tests.st) fun l => { l with queue := 1, state := .running, lr := l.lr.set 29 0x80000 }, 1, ((Tests.la (Tests.queue [0x202, 0x80000] (Tests.q 2) Tests.st) fun l => { l with queue := 1, state := .running, lr := l.lr.set 29 0x80000 } : State)).queue 1, match nextPacket (Tests.la (Tests.queue [0x202, 0x80000] (Tests.q 2) Tests.st) fun l => { l with queue := 1, state := .running, lr := l.lr.set 29 0x80000 } : State) 1 with | .ok p => p | .error _ => ⟨0, 0, []⟩, (0, Tests.l0 (Tests.la (Tests.queue [0x202, 0x80000] (Tests.q 2) Tests.st) fun l => { l with queue := 1, state := .running, lr := l.lr.set 29 0x80000 } : State)), by decide +kernel⟩,
    ⟨Tests.la (Tests.queue [0x202, 0x80000] (Tests.q 2) Tests.st) fun l => { l with queue := 1, state := .queued, lr := l.lr.set 29 0x80000 }, 1, ((Tests.la (Tests.queue [0x202, 0x80000] (Tests.q 2) Tests.st) fun l => { l with queue := 1, state := .queued, lr := l.lr.set 29 0x80000 } : State)).queue 1, match nextPacket (Tests.la (Tests.queue [0x202, 0x80000] (Tests.q 2) Tests.st) fun l => { l with queue := 1, state := .queued, lr := l.lr.set 29 0x80000 } : State) 1 with | .ok p => p | .error _ => ⟨0, 0, []⟩, (0, Tests.l0 (Tests.la (Tests.queue [0x202, 0x80000] (Tests.q 2) Tests.st) fun l => { l with queue := 1, state := .queued, lr := l.lr.set 29 0x80000 } : State)), by decide +kernel⟩,
    ⟨Tests.queue [0x303, 0x100, 2] (Tests.q 3) Tests.st, 1, ((Tests.queue [0x303, 0x100, 2] (Tests.q 3) Tests.st : State)).queue 1, match nextPacket (Tests.queue [0x303, 0x100, 2] (Tests.q 3) Tests.st : State) 1 with | .ok p => p | .error _ => ⟨0, 0, []⟩, by decide +kernel⟩,
    ⟨Tests.la (Tests.queue [0x304, 0x80000, 0x81000] (Tests.q 3) Tests.st) fun l => { l with queue := 1, lr := l.lr.set 29 0x80000 }, 1, ((Tests.la (Tests.queue [0x304, 0x80000, 0x81000] (Tests.q 3) Tests.st) fun l => { l with queue := 1, lr := l.lr.set 29 0x80000 } : State)).queue 1, match nextPacket (Tests.la (Tests.queue [0x304, 0x80000, 0x81000] (Tests.q 3) Tests.st) fun l => { l with queue := 1, lr := l.lr.set 29 0x80000 } : State) 1 with | .ok p => p | .error _ => ⟨0, 0, []⟩, (0, Tests.l0 (Tests.la (Tests.queue [0x304, 0x80000, 0x81000] (Tests.q 3) Tests.st) fun l => { l with queue := 1, lr := l.lr.set 29 0x80000 } : State)), by decide +kernel⟩,
    ⟨Tests.la (Tests.queue [0x304, 0x80000, 0x81000] (Tests.q 3) Tests.st) fun l => { l with lastSample := 9, converged := true, queue := 1, lr := l.lr.set 29 0x80000 }, 1, ((Tests.la (Tests.queue [0x304, 0x80000, 0x81000] (Tests.q 3) Tests.st) fun l => { l with lastSample := 9, converged := true, queue := 1, lr := l.lr.set 29 0x80000 } : State)).queue 1, match nextPacket (Tests.la (Tests.queue [0x304, 0x80000, 0x81000] (Tests.q 3) Tests.st) fun l => { l with lastSample := 9, converged := true, queue := 1, lr := l.lr.set 29 0x80000 } : State) 1 with | .ok p => p | .error _ => ⟨0, 0, []⟩, (0, Tests.l0 (Tests.la (Tests.queue [0x304, 0x80000, 0x81000] (Tests.q 3) Tests.st) fun l => { l with lastSample := 9, converged := true, queue := 1, lr := l.lr.set 29 0x80000 } : State)), by decide +kernel⟩,
    ⟨{ Tests.queue [0x2000000000000201, 0x80000] (Tests.q 2) Tests.st with selfRefresh := [true] }, 1, (({ Tests.queue [0x2000000000000201, 0x80000] (Tests.q 2) Tests.st with selfRefresh := [true] } : State)).queue 1, 0x60000, match nextPacket ({ Tests.queue [0x2000000000000201, 0x80000] (Tests.q 2) Tests.st with selfRefresh := [true] } : State) 1 with | .ok p => p | .error _ => ⟨0, 0, []⟩, by decide +kernel⟩⟩

/-- Hypotheses of `Obligations.LaunchEvents`, its part EventAccept are met. -/
theorem witness_LaunchEvents_EventAccept :
    (∃ (s : State), ∃ (q : Nat), ∃ (asid : Nat), ∃ (ceiling : Nat), ∃ (lr : List Word), ∃ (t : State), t = submitLaunch s q asid ceiling lr ∧ recordOk { s with accepted := s.accepted + 1 } asid ceiling lr = false) ∧
    (∃ (s : State), ∃ (q : Nat), ∃ (asid : Nat), ∃ (ceiling : Nat), ∃ (lr : List Word), ∃ (t : State), t = submitLaunch s q asid ceiling lr ∧ recordOk { s with accepted := s.accepted + 1 } asid ceiling lr = false) ∧
    (∃ (s : State), ∃ (q : Nat), ∃ (asid : Nat), ∃ (ceiling : Nat), ∃ (lr : List Word), ∃ (t : State), ∃ id, t = submitLaunch s q asid ceiling lr ∧ recordOk { s with accepted := s.accepted + 1 } asid ceiling lr = true ∧ fixId lr = none ∧ nextLaunchId s 256 (s.lastId + 1) = some id) ∧
    (∃ (s : State), ∃ (q : Nat), ∃ (asid : Nat), ∃ (ceiling : Nat), ∃ (lr : List Word), ∃ (t : State), ∃ id, t = submitLaunch s q asid ceiling lr ∧ recordOk { s with accepted := s.accepted + 1 } asid ceiling lr = true ∧ fixId lr = some id ∧ s.launch? id = none) ∧
    (∃ (s : State), ∃ (q : Nat), ∃ (asid : Nat), ∃ (ceiling : Nat), ∃ (lr : List Word), ∃ (t : State), ∃ id, ∃ x, t = submitLaunch s q asid ceiling lr ∧ recordOk { s with accepted := s.accepted + 1 } asid ceiling lr = true ∧ fixId lr = some id ∧ s.launch? id = some x) ∧
    (∃ (s : State), ∃ (q : Nat), ∃ (asid : Nat), ∃ (ceiling : Nat), ∃ (lr : List Word), ∃ (t : State), t = submitLaunch s q asid ceiling lr ∧ recordOk { s with accepted := s.accepted + 1 } asid ceiling lr = true ∧ fixId lr = none ∧ nextLaunchId s 256 (s.lastId + 1) = none) :=
  ⟨⟨Tests.queue [] (Tests.q 0) Tests.st, 1, 0, 2, Tests.record.set 1 3, submitLaunch (Tests.queue [] (Tests.q 0) Tests.st : State) (1) (0) (2) (Tests.record.set 1 3), (rfl), by decide +kernel⟩,
    ⟨Tests.queue [] (Tests.q 0) Tests.st, 1, 1, 7, Tests.record, submitLaunch (Tests.queue [] (Tests.q 0) Tests.st : State) (1) (1) (7) (Tests.record), (rfl), by decide +kernel⟩,
    ⟨Tests.queue [] (Tests.q 0) Tests.st, 1, 0, 7, Tests.record, submitLaunch (Tests.queue [] (Tests.q 0) Tests.st : State) (1) (0) (7) (Tests.record), 1, (rfl), by decide +kernel⟩,
    ⟨Tests.queue [] (Tests.q 0) Tests.st, 1, 0, 7, Tests.record.set 0 0x540, submitLaunch (Tests.queue [] (Tests.q 0) Tests.st : State) (1) (0) (7) (Tests.record.set 0 0x540), 5, (rfl), by decide +kernel⟩,
    ⟨Tests.queue [] (Tests.q 0) Tests.st, 1, 0, 7, Tests.record.set 0 0x40, submitLaunch (Tests.queue [] (Tests.q 0) Tests.st : State) (1) (0) (7) (Tests.record.set 0 0x40), 0, Tests.l0 (Tests.queue [] (Tests.q 0) Tests.st : State), (rfl), by decide +kernel⟩,
    ⟨{ Tests.queue [] (Tests.q 0) Tests.st with launches := (List.range 256).map fun i => (i, Tests.l0 Tests.st) }, 1, 0, 7, Tests.record, submitLaunch ({ Tests.queue [] (Tests.q 0) Tests.st with launches := (List.range 256).map fun i => (i, Tests.l0 Tests.st) } : State) (1) (0) (7) (Tests.record), (rfl), by decide +kernel⟩⟩

/-- Hypotheses of `Obligations.LaunchEvents`, its part EventLaunches are met. -/
theorem witness_LaunchEvents_EventLaunches :
    (∃ (s : State), ∃ (l : Nat), ∃ (x : Launch), ∃ rest, ∃ cores, s.launch? l = some x ∧ s.boot = .running ∧ queuedLaunches s = (l, x) :: rest ∧ heldBack s l x = false ∧ placement s x = some cores ∧ bitsOf (x.lr.getD 0 0).toNat 0 0 = 0 ∧ startFaults (unreserve s cores) x.lr = true) ∧
    (∃ (s : State), ∃ (l : Nat), ∃ (x : Launch), ∃ rest, ∃ cores, s.launch? l = some x ∧ s.boot = .running ∧ queuedLaunches s = (l, x) :: rest ∧ heldBack s l x = false ∧ placement s x = some cores ∧ bitsOf (x.lr.getD 0 0).toNat 0 0 = 0 ∧ startFaults (unreserve s cores) x.lr = false) ∧
    (∃ (s : State), ∃ (l : Nat), ∃ (x : Launch), ∃ rest, ∃ cores, s.launch? l = some x ∧ s.boot = .running ∧ queuedLaunches s = (l, x) :: rest ∧ heldBack s l x = false ∧ placement s x = some cores ∧ bitsOf (x.lr.getD 0 0).toNat 0 0 = 1) ∧
    (∃ (s : State), ∃ (l : Nat), ∃ (x : Launch), s.launch? l = some x ∧ s.ev.launch = l ∧ x.state = .reserving ∧ (∀ c, c ∈ x.gangCores → (s.core c).assigned.length < Config.maxAssigned ∧ (s.hearth (c / 8)).fenced = false ∧ s.heatParked.getD (dieOf c) false = false) ∧ startFaults (unreserve s x.gangCores) x.lr = false) ∧
    (∃ (s : State), ∃ (l : Nat), ∃ (x : Launch), ∃ status, ∃ (i : Instr), s.launch? l = some x ∧ s.ev.launch = l ∧ x.endFixed = false ∧ x.status = 0 ∧ ((i = .launchQuiescent ∧ status = 1 ∧ x.state = .running ∧ bitsOf (x.lr.getD 0 0).toNat 5 5 = 0 ∧ x.late = false ∧ x.quenched = false ∧ quiescent s l x = true) ∨ (i = .launchEndQuenched ∧ status = 2 ∧ x.quenched = true ∧ wrapupDone s l x = true ∧ x.cut.inProgress = false ∧ storesDone s l = true))) ∧
    (∃ (s : State), ∃ (l : Nat), ∃ (x : Launch), ∃ status, ∃ (i : Instr), s.launch? l = some x ∧ s.ev.launch = l ∧ x.endFixed = false ∧ x.status = 0 ∧ ((i = .launchQuiescent ∧ status = 1 ∧ x.state = .running ∧ bitsOf (x.lr.getD 0 0).toNat 5 5 = 0 ∧ x.late = false ∧ x.quenched = false ∧ quiescent s l x = true) ∨ (i = .launchEndQuenched ∧ status = 2 ∧ x.quenched = true ∧ wrapupDone s l x = true ∧ x.cut.inProgress = false ∧ storesDone s l = true))) ∧
    (∃ (s : State), ∃ (l : Nat), ∃ (x : Launch), ∃ at_, s.launch? l = some x ∧ s.ev.launch = l ∧ x.refutedAt = some at_ ∧ x.status ≠ 0 ∧ at_ < s.cycle ∧ (s.beats.any fun a => a.kind == .refuteAll l) = false ∧ anyTask s l = false ∧ storesDone s l = true ∧ x.cut.inProgress = false ∧ s.backlog = []) ∧
    (∃ (s : State), ∃ (l : Nat), ∃ (x : Launch), s.launch? l = some x ∧ s.ev.launch = l ∧ l < 256 ∧ x.lr.getD 16 0 ≠ 0 ∧ fireTime x.lr ≤ s.ptp ∧ x.state = .running ∧ x.endFixed = false ∧ x.status = 0 ∧ x.quench = none) ∧
    (∃ (s : State), ∃ (l : Nat), ∃ (x : Launch), s.launch? l = some x ∧ s.ev.launch = l ∧ l < 256 ∧ x.lr.getD 16 0 ≠ 0 ∧ fireTime x.lr ≤ s.ptp ∧ x.state = .queued) :=
  ⟨⟨Tests.la (Tests.queue [] (Tests.q 0) Tests.st) fun l => { l with lr := (((((Tests.record.set 9 0x64).set 10 512)).set 0 0).set 20 0x7000000000000).set 21 64, state := .queued, cores := [] }, 0, Tests.l0 (Tests.la (Tests.queue [] (Tests.q 0) Tests.st) fun l => { l with lr := (((((Tests.record.set 9 0x64).set 10 512)).set 0 0).set 20 0x7000000000000).set 21 64, state := .queued, cores := [] } : State), (queuedLaunches (Tests.la (Tests.queue [] (Tests.q 0) Tests.st) fun l => { l with lr := (((((Tests.record.set 9 0x64).set 10 512)).set 0 0).set 20 0x7000000000000).set 21 64, state := .queued, cores := [] } : State)).tail, (placement (Tests.la (Tests.queue [] (Tests.q 0) Tests.st) fun l => { l with lr := (((((Tests.record.set 9 0x64).set 10 512)).set 0 0).set 20 0x7000000000000).set 21 64, state := .queued, cores := [] } : State) (Tests.l0 (Tests.la (Tests.queue [] (Tests.q 0) Tests.st) fun l => { l with lr := (((((Tests.record.set 9 0x64).set 10 512)).set 0 0).set 20 0x7000000000000).set 21 64, state := .queued, cores := [] } : State))).getD [], by decide +kernel⟩,
    ⟨Tests.la (Tests.queue [] (Tests.q 0) Tests.st) fun l => { l with lr := (((((Tests.record.set 9 0x64).set 10 512)).set 0 0).set 20 0x7000000000000).set 21 0, state := .queued, cores := [] }, 0, Tests.l0 (Tests.la (Tests.queue [] (Tests.q 0) Tests.st) fun l => { l with lr := (((((Tests.record.set 9 0x64).set 10 512)).set 0 0).set 20 0x7000000000000).set 21 0, state := .queued, cores := [] } : State), (queuedLaunches (Tests.la (Tests.queue [] (Tests.q 0) Tests.st) fun l => { l with lr := (((((Tests.record.set 9 0x64).set 10 512)).set 0 0).set 20 0x7000000000000).set 21 0, state := .queued, cores := [] } : State)).tail, (placement (Tests.la (Tests.queue [] (Tests.q 0) Tests.st) fun l => { l with lr := (((((Tests.record.set 9 0x64).set 10 512)).set 0 0).set 20 0x7000000000000).set 21 0, state := .queued, cores := [] } : State) (Tests.l0 (Tests.la (Tests.queue [] (Tests.q 0) Tests.st) fun l => { l with lr := (((((Tests.record.set 9 0x64).set 10 512)).set 0 0).set 20 0x7000000000000).set 21 0, state := .queued, cores := [] } : State))).getD [], by decide +kernel⟩,
    ⟨Tests.la (Tests.queue [] (Tests.q 0) Tests.st) fun l => { l with lr := (((((Tests.record.set 9 0x64).set 10 512)).set 0 1).set 20 0x7000000000000).set 21 0, state := .queued, cores := [] }, 0, Tests.l0 (Tests.la (Tests.queue [] (Tests.q 0) Tests.st) fun l => { l with lr := (((((Tests.record.set 9 0x64).set 10 512)).set 0 1).set 20 0x7000000000000).set 21 0, state := .queued, cores := [] } : State), (queuedLaunches (Tests.la (Tests.queue [] (Tests.q 0) Tests.st) fun l => { l with lr := (((((Tests.record.set 9 0x64).set 10 512)).set 0 1).set 20 0x7000000000000).set 21 0, state := .queued, cores := [] } : State)).tail, (placement (Tests.la (Tests.queue [] (Tests.q 0) Tests.st) fun l => { l with lr := (((((Tests.record.set 9 0x64).set 10 512)).set 0 1).set 20 0x7000000000000).set 21 0, state := .queued, cores := [] } : State) (Tests.l0 (Tests.la (Tests.queue [] (Tests.q 0) Tests.st) fun l => { l with lr := (((((Tests.record.set 9 0x64).set 10 512)).set 0 1).set 20 0x7000000000000).set 21 0, state := .queued, cores := [] } : State))).getD [], by decide +kernel⟩,
    ⟨Tests.la (Tests.queue [] (Tests.q 0) Tests.st) fun l => { l with lr := Tests.record, state := .reserving, cores := [], gangCores := [3] }, 0, Tests.l0 (Tests.la (Tests.queue [] (Tests.q 0) Tests.st) fun l => { l with lr := Tests.record, state := .reserving, cores := [], gangCores := [3] } : State), by decide +kernel⟩,
    ⟨Tests.co (Tests.la (Tests.queue [] (Tests.q 0) Tests.st) fun l => { l with lr := Tests.record, state := .running }) fun k => { k with slots := [] }, 0, Tests.l0 (Tests.co (Tests.la (Tests.queue [] (Tests.q 0) Tests.st) fun l => { l with lr := Tests.record, state := .running }) fun k => { k with slots := [] } : State), 1, .launchQuiescent, by decide +kernel⟩,
    ⟨Tests.co (Tests.la (Tests.queue [] (Tests.q 0) Tests.st) fun l => { l with lr := Tests.record, state := .running, quench := some 1, quenched := true }) fun k => { k with slots := [] }, 0, Tests.l0 (Tests.co (Tests.la (Tests.queue [] (Tests.q 0) Tests.st) fun l => { l with lr := Tests.record, state := .running, quench := some 1, quenched := true }) fun k => { k with slots := [] } : State), 2, .launchEndQuenched, by decide +kernel⟩,
    ⟨{ Tests.co (Tests.la (Tests.queue [] (Tests.q 0) Tests.st) fun l => { l with lr := Tests.record, state := .running, status := 1, refutedAt := some 5, cores := [0] }) fun k => { k with slots := [] } with cycle := 9 }, 0, Tests.l0 ({ Tests.co (Tests.la (Tests.queue [] (Tests.q 0) Tests.st) fun l => { l with lr := Tests.record, state := .running, status := 1, refutedAt := some 5, cores := [0] }) fun k => { k with slots := [] } with cycle := 9 } : State), 5, by decide +kernel⟩,
    ⟨{ Tests.la (Tests.queue [] (Tests.q 0) Tests.st) fun l => { l with lr := Tests.record.set 16 1, state := .running } with ptp17 := 100000 }, 0, Tests.l0 ({ Tests.la (Tests.queue [] (Tests.q 0) Tests.st) fun l => { l with lr := Tests.record.set 16 1, state := .running } with ptp17 := 100000 } : State), by decide +kernel⟩,
    ⟨{ Tests.la (Tests.queue [] (Tests.q 0) Tests.st) fun l => { l with lr := Tests.record.set 16 1, state := .queued } with ptp17 := 100000 }, 0, Tests.l0 ({ Tests.la (Tests.queue [] (Tests.q 0) Tests.st) fun l => { l with lr := Tests.record.set 16 1, state := .queued } with ptp17 := 100000 } : State), by decide +kernel⟩⟩

/-- Hypotheses of `Obligations.LaunchEvents`, its part EventRanges are met. -/
theorem witness_LaunchEvents_EventRanges :
    (∃ (s : State), ∃ (c : Nat), ∃ (l : Nat), ∃ (x : Launch), ∃ lo, ∃ hi, ∃ n, s.ev.core = c ∧ s.launch? l = some x ∧ s.up (c / 8) = true ∧ mayDispatch s c = true ∧ (s.core c).resident = some l ∧ (s.core c).tiles = [] ∧ (freeSlot (s.core c)).isSome = true ∧ x.ranges.getD (dieOf c) (0, 0) = (lo, hi) ∧ lo < hi ∧ dieOf c < 4 ∧ n = max 1 (ceilDiv (hi - lo) (4 * (x.cores.filter fun i => dieOf i == dieOf c).length))) ∧
    (∃ (s : State), ∃ (c : Nat), ∃ (l : Nat), ∃ (x : Launch), ∃ lo, ∃ hi, ∃ n, s.ev.core = c ∧ s.launch? l = some x ∧ s.up (c / 8) = true ∧ mayDispatch s c = true ∧ (s.core c).resident = some l ∧ (s.core c).tiles = [] ∧ (freeSlot (s.core c)).isSome = true ∧ x.ranges.getD (dieOf c) (0, 0) = (lo, hi) ∧ lo < hi ∧ dieOf c < 4 ∧ n = max 1 (ceilDiv (hi - lo) (4 * (x.cores.filter fun i => dieOf i == dieOf c).length))) ∧
    (∃ (s : State), ∃ (c : Nat), ∃ (l : Nat), ∃ (x : Launch), ∃ i, ∃ rest, ∃ n, s.ev.core = c ∧ s.launch? l = some x ∧ s.up (c / 8) = true ∧ mayDispatch s c = true ∧ (s.core c).resident = some l ∧ (s.core c).tiles = i :: rest ∧ freeSlot (s.core c) = some n) ∧
    (∃ (s : State), ∃ (c : Nat), ∃ (d : Nat), ∃ (l : Nat), ∃ (x : Launch), ∃ v, ∃ lo, ∃ hi, s.ev.core = c ∧ s.launch? l = some x ∧ s.up (c / 8) = true ∧ s.ev.launch = l ∧ s.ev.die = d ∧ d < 4 ∧ (x.cores.filter fun i => dieOf i == d) ≠ [] ∧ (x.ranges.getD d (0, 0)).2 ≤ (x.ranges.getD d (0, 0)).1 ∧ (largestRange x.ranges).1 = v ∧ x.ranges.getD v (0, 0) = (lo, hi) ∧ 2 ≤ hi - lo ∧ x.quenched = false ∧ x.status = 0) ∧
    (∃ (s : State), ∃ (c : Nat), ∃ (d : Nat), ∃ (l : Nat), ∃ (x : Launch), ∃ v, ∃ lo, ∃ hi, s.ev.core = c ∧ s.launch? l = some x ∧ s.up (c / 8) = true ∧ s.ev.launch = l ∧ s.ev.die = d ∧ d < 4 ∧ (x.cores.filter fun i => dieOf i == d) ≠ [] ∧ (x.ranges.getD d (0, 0)).2 ≤ (x.ranges.getD d (0, 0)).1 ∧ (largestRange x.ranges).1 = v ∧ x.ranges.getD v (0, 0) = (lo, hi) ∧ 2 ≤ hi - lo ∧ x.quenched = false ∧ x.status = 0) :=
  ⟨⟨Tests.co (Tests.home (Tests.la (Tests.queue [] (Tests.q 0) Tests.st) fun l => { l with lr := Tests.record, state := .running, ranges := [(0, 9), (0, 0), (0, 0), (0, 0)] })) fun k => { k with slots := [] }, 0, 0, Tests.l0 (Tests.co (Tests.home (Tests.la (Tests.queue [] (Tests.q 0) Tests.st) fun l => { l with lr := Tests.record, state := .running, ranges := [(0, 9), (0, 0), (0, 0), (0, 0)] })) fun k => { k with slots := [] } : State), 0, 9, max 1 (ceilDiv ((9) - (0)) (4 * ((Tests.l0 (Tests.co (Tests.home (Tests.la (Tests.queue [] (Tests.q 0) Tests.st) fun l => { l with lr := Tests.record, state := .running, ranges := [(0, 9), (0, 0), (0, 0), (0, 0)] })) fun k => { k with slots := [] } : State)).cores.filter fun i => dieOf i == dieOf (0)).length)), by decide +kernel⟩,
    ⟨Tests.co (Tests.home (Tests.la (Tests.queue [] (Tests.q 0) Tests.st) fun l => { l with lr := Tests.record, state := .running, ranges := [(3, 20), (0, 0), (0, 0), (0, 0)] })) fun k => { k with slots := [] }, 0, 0, Tests.l0 (Tests.co (Tests.home (Tests.la (Tests.queue [] (Tests.q 0) Tests.st) fun l => { l with lr := Tests.record, state := .running, ranges := [(3, 20), (0, 0), (0, 0), (0, 0)] })) fun k => { k with slots := [] } : State), 3, 20, max 1 (ceilDiv ((20) - (3)) (4 * ((Tests.l0 (Tests.co (Tests.home (Tests.la (Tests.queue [] (Tests.q 0) Tests.st) fun l => { l with lr := Tests.record, state := .running, ranges := [(3, 20), (0, 0), (0, 0), (0, 0)] })) fun k => { k with slots := [] } : State)).cores.filter fun i => dieOf i == dieOf (0)).length)), by decide +kernel⟩,
    ⟨Tests.co (Tests.home (Tests.la (Tests.queue [] (Tests.q 0) Tests.st) fun l => { l with lr := Tests.record, state := .running, tileCounts := [2, 3] })) fun k => { k with slots := [], tiles := [5, 6] }, 0, 0, Tests.l0 (Tests.co (Tests.home (Tests.la (Tests.queue [] (Tests.q 0) Tests.st) fun l => { l with lr := Tests.record, state := .running, tileCounts := [2, 3] })) fun k => { k with slots := [], tiles := [5, 6] } : State), 5, [6], 0, by decide +kernel⟩,
    ⟨{ Tests.co (Tests.home (Tests.la (Tests.queue [] (Tests.q 0) Tests.st) fun l => { l with lr := Tests.record, state := .running, ranges := [(0, 0), (3, 20), (5, 22), (0, 4)] })) fun k => { k with slots := [] } with ev := { launch := 0, die := 0 } }, 0, 0, 0, Tests.l0 ({ Tests.co (Tests.home (Tests.la (Tests.queue [] (Tests.q 0) Tests.st) fun l => { l with lr := Tests.record, state := .running, ranges := [(0, 0), (3, 20), (5, 22), (0, 4)] })) fun k => { k with slots := [] } with ev := { launch := 0, die := 0 } } : State), 1, 3, 20, by decide +kernel⟩,
    ⟨{ Tests.co (Tests.home (Tests.la (Tests.queue [] (Tests.q 0) Tests.st) fun l => { l with lr := Tests.record, state := .running, cores := [4096], ranges := [(1, 3), (3, 3), (5, 5), (0, 2)] })) fun k => { k with slots := [] } with ev := { launch := 0, die := 2 } }, 0, 2, 0, Tests.l0 ({ Tests.co (Tests.home (Tests.la (Tests.queue [] (Tests.q 0) Tests.st) fun l => { l with lr := Tests.record, state := .running, cores := [4096], ranges := [(1, 3), (3, 3), (5, 5), (0, 2)] })) fun k => { k with slots := [] } with ev := { launch := 0, die := 2 } } : State), 0, 1, 3, by decide +kernel⟩⟩

/-- Hypotheses of `Obligations.ContextEvents`, its part EventContexts are met. -/
theorem witness_ContextEvents_EventContexts :
    (∃ (s : State), ∃ (c : Nat), ∃ (l : Nat), ∃ (k : Core), ∃ (i : Instr), ((i = .sliceExpiry ∧ k.sliceLeft = 0) ∨ (i = .sliceIdleEnd ∧ 256 ≤ k.idle)) ∧ s.ev.core = c ∧ s.core c = k ∧ k.resident = some l ∧ k.sliceEnded = false ∧ bitsOf (s.lr l 0).toNat 0 0 = 0) ∧
    (∃ (s : State), ∃ (c : Nat), ∃ (l : Nat), ∃ (k : Core), ∃ (i : Instr), ((i = .sliceExpiry ∧ k.sliceLeft = 0) ∨ (i = .sliceIdleEnd ∧ 256 ≤ k.idle)) ∧ s.ev.core = c ∧ s.core c = k ∧ k.resident = some l ∧ k.sliceEnded = false ∧ bitsOf (s.lr l 0).toNat 0 0 = 0) ∧
    (∃ (s : State), ∃ (c : Nat), ∃ (l : Nat), ∃ (k : Core), ∃ (i : Instr), ∃ (x : Launch), ((i = .sliceExpiry ∧ k.sliceLeft = 0) ∨ (i = .sliceIdleEnd ∧ 256 ≤ k.idle)) ∧ s.ev.core = c ∧ s.core c = k ∧ k.resident = some l ∧ k.sliceEnded = false ∧ s.launch? l = some x ∧ bitsOf (x.lr.getD 0 0).toNat 0 0 = 1) ∧
    (∃ (s : State), ∃ (c : Nat), ∃ (l : Nat), ∃ (k : Core), ∃ (i : Instr), ∃ (x : Launch), ((i = .sliceExpiry ∧ k.sliceLeft = 0) ∨ (i = .sliceIdleEnd ∧ 256 ≤ k.idle)) ∧ s.ev.core = c ∧ s.core c = k ∧ k.resident = some l ∧ k.sliceEnded = false ∧ s.launch? l = some x ∧ bitsOf (x.lr.getD 0 0).toNat 0 0 = 1) ∧
    (∃ (s : State), ∃ (c : Nat), ∃ (l : Nat), ∃ (k : Core), s.ev.core = c ∧ s.core c = k ∧ k.resident = some l ∧ k.sliceEnded = true ∧ maySave s c l = true ∧ bitsOf (s.lr l 0).toNat 0 0 = 0 ∧ let alone := k.assigned.all (· == l) && !hearthWanted s (c / 8) (s.asidOf l); alone = true) ∧
    (∃ (s : State), ∃ (c : Nat), ∃ (l : Nat), ∃ (k : Core), s.ev.core = c ∧ s.core c = k ∧ k.resident = some l ∧ k.sliceEnded = true ∧ maySave s c l = true ∧ bitsOf (s.lr l 0).toNat 0 0 = 0 ∧ let alone := k.assigned.all (· == l) && !hearthWanted s (c / 8) (s.asidOf l); alone = false ∧ s.ev.flag = false ∧ k.commands = [] ∧ Memory.wf s.mem = true) ∧
    (∃ (s : State), ∃ (c : Nat), ∃ (l : Nat), ∃ (k : Core), s.ev.core = c ∧ s.core c = k ∧ k.resident = some l ∧ k.sliceEnded = true ∧ maySave s c l = true ∧ bitsOf (s.lr l 0).toNat 0 0 = 0 ∧ let alone := k.assigned.all (· == l) && !hearthWanted s (c / 8) (s.asidOf l); alone = false ∧ s.ev.flag = true ∧ k.commands = []) ∧
    (∃ (s : State), ∃ (c : Nat), ∃ (l : Nat), ∃ (k : Core), s.ev.core = c ∧ s.core c = k ∧ k.resident = some l ∧ k.sliceEnded = true ∧ maySave s c l = true ∧ bitsOf (s.lr l 0).toNat 0 0 = 0 ∧ let alone := k.assigned.all (· == l) && !hearthWanted s (c / 8) (s.asidOf l); alone = false ∧ k.commands ≠ [] ∧ k.draining = none) ∧
    (∃ (s : State), ∃ (c : Nat), ∃ (l : Nat), ∃ (k : Core), ∃ since, s.ev.core = c ∧ s.core c = k ∧ k.resident = some l ∧ k.sliceEnded = true ∧ k.draining = some since ∧ since + Config.drainAllowance ≤ s.cycle ∧ bitsOf (s.lr l 0).toNat 0 0 = 0 ∧ maySave s c l = true ∧ s.ev.flag = false) ∧
    (∃ (s : State), ∃ (c : Nat), ∃ (l : Nat), ∃ (k : Core), ∃ (y : Launch), (∃ j, j ∈ y.cores ∧ savable s j l = false) ∧ s.ev.core = c ∧ s.core c = k ∧ s.launch? l = some y ∧ bitsOf (y.lr.getD 0 0).toNat 0 0 = 1 ∧ k.resident = some l ∧ k.sliceEnded = true ∧ maySave s c l = true ∧ k.commands = [] ∧ goesOn s c l = false) ∧
    (∃ (s : State), ∃ (c : Nat), ∃ (l : Nat), ∃ (k : Core), ∃ (y : Launch), s.ev.core = c ∧ s.core c = k ∧ s.launch? l = some y ∧ bitsOf (y.lr.getD 0 0).toNat 0 0 = 1 ∧ k.resident = some l ∧ k.sliceEnded = true ∧ maySave s c l = true ∧ k.commands = [] ∧ goesOn s c l = false ∧ (∀ j, j ∈ y.cores → savable s j l = true) ∧ s.ev.flag = false) ∧
    (∃ (s : State), ∃ (c : Nat), ∃ (l : Nat), ∃ (k : Core), ∃ x, ∃ s', nextContext s c = some (l, x) ∧ s.ev.core = c ∧ s.core c = k ∧ k.resident = none ∧ k.endedTraps = [] ∧ k.busy = false ∧ (s.hearth (c / 8)).dispatchStopped = false ∧ (s.hearth (c / 8)).fenced = false ∧ s' = (if (s.hearth (c / 8)).holder = some x.asid then s else saveHolder s (c / 8) (s.chunkMap 0)) ∧ s.ev.flag = true ∧ bitsOf (s.lr l 0).toNat 0 0 = 0 ∧ (s.hearth (c / 8)).holder ≠ some x.asid) ∧
    (∃ (s : State), ∃ (c : Nat), ∃ (l : Nat), ∃ (k : Core), ∃ x, ∃ s', nextContext s c = some (l, x) ∧ s.ev.core = c ∧ s.core c = k ∧ k.resident = none ∧ k.endedTraps = [] ∧ k.busy = false ∧ (s.hearth (c / 8)).dispatchStopped = false ∧ (s.hearth (c / 8)).fenced = false ∧ s' = (if (s.hearth (c / 8)).holder = some x.asid then s else saveHolder s (c / 8) (s.chunkMap 0)) ∧ bitsOf (s.lr l 0).toNat 0 0 = 1) ∧
    (∃ (s : State), ∃ (c : Nat), ∃ (l : Nat), ∃ (k : Core), ∃ x, ∃ s', nextContext s c = some (l, x) ∧ s.ev.core = c ∧ s.core c = k ∧ k.resident = none ∧ k.endedTraps = [] ∧ k.busy = false ∧ (s.hearth (c / 8)).dispatchStopped = false ∧ (s.hearth (c / 8)).fenced = false ∧ s' = (if (s.hearth (c / 8)).holder = some x.asid then s else saveHolder s (c / 8) (s.chunkMap 0)) ∧ s.ev.flag = false ∧ bitsOf (s.lr l 0).toNat 0 0 = 0 ∧ holderFree s (c / 8) x.asid = true ∧ yields s c l x.asid = false ∧ let held := if (s.hearth (c / 8)).holder = some x.asid then none else heldFailureAt s' (c / 8) x.asid ((tget (s'.hearth (c / 8)).savedHeld x.asid).getD {}); held = none ∧ contextFailure s' c l x = none ∧ Memory.wf s.mem = true ∧ Memory.wf (readContext s' c l x).scratch = true) :=
  ⟨⟨Tests.co (Tests.home (Tests.st)) fun k => { k with sliceLeft := 0 }, 0, 0, ((Tests.co (Tests.home (Tests.st)) fun k => { k with sliceLeft := 0 } : State)).core 0, .sliceExpiry, (.inl (by decide +kernel)), by decide +kernel⟩,
    ⟨Tests.co (Tests.home (Tests.st)) fun k => { k with idle := 300 }, 0, 0, ((Tests.co (Tests.home (Tests.st)) fun k => { k with idle := 300 } : State)).core 0, .sliceIdleEnd, (.inr (by decide +kernel)), by decide +kernel⟩,
    ⟨Tests.co (Tests.home (Tests.lr 0 1 Tests.st)) fun k => { k with sliceLeft := 0 }, 0, 0, ((Tests.co (Tests.home (Tests.lr 0 1 Tests.st)) fun k => { k with sliceLeft := 0 } : State)).core 0, .sliceExpiry, Tests.l0 (Tests.co (Tests.home (Tests.lr 0 1 Tests.st)) fun k => { k with sliceLeft := 0 } : State), (.inl (by decide +kernel)), by decide +kernel⟩,
    ⟨Tests.co (Tests.home (Tests.lr 0 1 Tests.st)) fun k => { k with idle := 300 }, 0, 0, ((Tests.co (Tests.home (Tests.lr 0 1 Tests.st)) fun k => { k with idle := 300 } : State)).core 0, .sliceIdleEnd, Tests.l0 (Tests.co (Tests.home (Tests.lr 0 1 Tests.st)) fun k => { k with idle := 300 } : State), (.inr (by decide +kernel)), by decide +kernel⟩,
    ⟨Tests.co (Tests.home (Tests.st)) fun k => { k with slots := [], sliceEnded := true }, 0, 0, ((Tests.co (Tests.home (Tests.st)) fun k => { k with slots := [], sliceEnded := true } : State)).core 0, by decide +kernel⟩,
    ⟨Tests.co (Tests.home (Tests.words [5, 6] Tests.st)) fun k => { k with slots := [], sliceEnded := true, assigned := [0, 1], hwq := [{ msg := Tests.msg, arrival := 5, since := 0 }] }, 0, 0, ((Tests.co (Tests.home (Tests.words [5, 6] Tests.st)) fun k => { k with slots := [], sliceEnded := true, assigned := [0, 1], hwq := [{ msg := Tests.msg, arrival := 5, since := 0 }] } : State)).core 0, by decide +kernel⟩,
    ⟨Tests.evt { flag := true } (Tests.co (Tests.home (Tests.words [5, 6] Tests.st)) fun k => { k with slots := [], sliceEnded := true, assigned := [0, 1], hwq := [{ msg := Tests.msg, arrival := 5, since := 0 }] }), 0, 0, ((Tests.evt { flag := true } (Tests.co (Tests.home (Tests.words [5, 6] Tests.st)) fun k => { k with slots := [], sliceEnded := true, assigned := [0, 1], hwq := [{ msg := Tests.msg, arrival := 5, since := 0 }] }) : State)).core 0, by decide +kernel⟩,
    ⟨Tests.co (Tests.home (Tests.words [5, 6] Tests.st)) fun k => { k with slots := [], sliceEnded := true, assigned := [0, 1], hwq := [{ msg := Tests.msg, arrival := 5, since := 0 }], commands := [(5, Tests.cmd)] }, 0, 0, ((Tests.co (Tests.home (Tests.words [5, 6] Tests.st)) fun k => { k with slots := [], sliceEnded := true, assigned := [0, 1], hwq := [{ msg := Tests.msg, arrival := 5, since := 0 }], commands := [(5, Tests.cmd)] } : State)).core 0, by decide +kernel⟩,
    ⟨{ Tests.co (Tests.home (Tests.words [5, 6] Tests.st)) fun k => { k with slots := [], sliceEnded := true, assigned := [0, 1], hwq := [{ msg := Tests.msg, arrival := 5, since := 0 }], commands := [(5, Tests.cmd)], draining := some 3 } with cycle := 2 ^ 20 }, 0, 0, (({ Tests.co (Tests.home (Tests.words [5, 6] Tests.st)) fun k => { k with slots := [], sliceEnded := true, assigned := [0, 1], hwq := [{ msg := Tests.msg, arrival := 5, since := 0 }], commands := [(5, Tests.cmd)], draining := some 3 } with cycle := 2 ^ 20 } : State)).core 0, 3, by decide +kernel⟩,
    ⟨Tests.la (Tests.lr 0 1 (Tests.co (Tests.home (Tests.words [5, 6] Tests.st)) fun k => { k with slots := [], sliceEnded := true, assigned := [0, 1], hwq := [{ msg := Tests.msg, arrival := 5, since := 0 }] })) fun l => { l with cores := [0, 1] }, 0, 0, ((Tests.la (Tests.lr 0 1 (Tests.co (Tests.home (Tests.words [5, 6] Tests.st)) fun k => { k with slots := [], sliceEnded := true, assigned := [0, 1], hwq := [{ msg := Tests.msg, arrival := 5, since := 0 }] })) fun l => { l with cores := [0, 1] } : State)).core 0, Tests.l0 (Tests.la (Tests.lr 0 1 (Tests.co (Tests.home (Tests.words [5, 6] Tests.st)) fun k => { k with slots := [], sliceEnded := true, assigned := [0, 1], hwq := [{ msg := Tests.msg, arrival := 5, since := 0 }] })) fun l => { l with cores := [0, 1] } : State), (⟨1, by decide +kernel⟩), by decide +kernel⟩,
    ⟨Tests.la (Tests.lr 0 1 (Tests.co (Tests.home (Tests.words [5, 6] Tests.st)) fun k => { k with slots := [], sliceEnded := true, assigned := [0, 1], hwq := [{ msg := Tests.msg, arrival := 5, since := 0 }] })) fun l => { l with cores := [0] }, 0, 0, ((Tests.la (Tests.lr 0 1 (Tests.co (Tests.home (Tests.words [5, 6] Tests.st)) fun k => { k with slots := [], sliceEnded := true, assigned := [0, 1], hwq := [{ msg := Tests.msg, arrival := 5, since := 0 }] })) fun l => { l with cores := [0] } : State)).core 0, Tests.l0 (Tests.la (Tests.lr 0 1 (Tests.co (Tests.home (Tests.words [5, 6] Tests.st)) fun k => { k with slots := [], sliceEnded := true, assigned := [0, 1], hwq := [{ msg := Tests.msg, arrival := 5, since := 0 }] })) fun l => { l with cores := [0] } : State), by decide +kernel⟩,
    ⟨Tests.evt { flag := true } (Tests.co ({ Tests.lr 29 0x80000 (Tests.tables 0 Tests.st) with launches := (Tests.tables 0 Tests.st).launches }) fun k => { k with slots := [], assigned := [0], saved := [(0, Tests.saved)] }), 0, 0, ((Tests.evt { flag := true } (Tests.co ({ Tests.lr 29 0x80000 (Tests.tables 0 Tests.st) with launches := (Tests.tables 0 Tests.st).launches }) fun k => { k with slots := [], assigned := [0], saved := [(0, Tests.saved)] }) : State)).core 0, ((nextContext (Tests.evt { flag := true } (Tests.co ({ Tests.lr 29 0x80000 (Tests.tables 0 Tests.st) with launches := (Tests.tables 0 Tests.st).launches }) fun k => { k with slots := [], assigned := [0], saved := [(0, Tests.saved)] }) : State) (0)).map (·.2)).getD Tests.saved, if (((Tests.evt { flag := true } (Tests.co ({ Tests.lr 29 0x80000 (Tests.tables 0 Tests.st) with launches := (Tests.tables 0 Tests.st).launches }) fun k => { k with slots := [], assigned := [0], saved := [(0, Tests.saved)] }) : State)).hearth 0).holder = some 0 then (Tests.evt { flag := true } (Tests.co ({ Tests.lr 29 0x80000 (Tests.tables 0 Tests.st) with launches := (Tests.tables 0 Tests.st).launches }) fun k => { k with slots := [], assigned := [0], saved := [(0, Tests.saved)] }) : State) else saveHolder (Tests.evt { flag := true } (Tests.co ({ Tests.lr 29 0x80000 (Tests.tables 0 Tests.st) with launches := (Tests.tables 0 Tests.st).launches }) fun k => { k with slots := [], assigned := [0], saved := [(0, Tests.saved)] }) : State) 0 (((Tests.evt { flag := true } (Tests.co ({ Tests.lr 29 0x80000 (Tests.tables 0 Tests.st) with launches := (Tests.tables 0 Tests.st).launches }) fun k => { k with slots := [], assigned := [0], saved := [(0, Tests.saved)] }) : State)).chunkMap 0), (rfl), by decide +kernel⟩,
    ⟨Tests.lr 0 1 (Tests.co ({ Tests.lr 29 0x80000 (Tests.tables 0 Tests.st) with launches := (Tests.tables 0 Tests.st).launches }) fun k => { k with slots := [], assigned := [0], saved := [(0, Tests.saved)] }), 0, 0, ((Tests.lr 0 1 (Tests.co ({ Tests.lr 29 0x80000 (Tests.tables 0 Tests.st) with launches := (Tests.tables 0 Tests.st).launches }) fun k => { k with slots := [], assigned := [0], saved := [(0, Tests.saved)] }) : State)).core 0, ((nextContext (Tests.lr 0 1 (Tests.co ({ Tests.lr 29 0x80000 (Tests.tables 0 Tests.st) with launches := (Tests.tables 0 Tests.st).launches }) fun k => { k with slots := [], assigned := [0], saved := [(0, Tests.saved)] }) : State) (0)).map (·.2)).getD Tests.saved, if (((Tests.lr 0 1 (Tests.co ({ Tests.lr 29 0x80000 (Tests.tables 0 Tests.st) with launches := (Tests.tables 0 Tests.st).launches }) fun k => { k with slots := [], assigned := [0], saved := [(0, Tests.saved)] }) : State)).hearth 0).holder = some 0 then (Tests.lr 0 1 (Tests.co ({ Tests.lr 29 0x80000 (Tests.tables 0 Tests.st) with launches := (Tests.tables 0 Tests.st).launches }) fun k => { k with slots := [], assigned := [0], saved := [(0, Tests.saved)] }) : State) else saveHolder (Tests.lr 0 1 (Tests.co ({ Tests.lr 29 0x80000 (Tests.tables 0 Tests.st) with launches := (Tests.tables 0 Tests.st).launches }) fun k => { k with slots := [], assigned := [0], saved := [(0, Tests.saved)] }) : State) 0 (((Tests.lr 0 1 (Tests.co ({ Tests.lr 29 0x80000 (Tests.tables 0 Tests.st) with launches := (Tests.tables 0 Tests.st).launches }) fun k => { k with slots := [], assigned := [0], saved := [(0, Tests.saved)] }) : State)).chunkMap 0), (rfl), by decide +kernel⟩,
    ⟨(Tests.co ({ Tests.lr 29 0x80000 (Tests.tables 0 Tests.st) with launches := (Tests.tables 0 Tests.st).launches }) fun k => { k with slots := [], assigned := [0], saved := [(0, { Tests.saved with seq := 0 })] }).modHearth 0 fun h => { h with holder := some 0 }, 0, 0, (((Tests.co ({ Tests.lr 29 0x80000 (Tests.tables 0 Tests.st) with launches := (Tests.tables 0 Tests.st).launches }) fun k => { k with slots := [], assigned := [0], saved := [(0, { Tests.saved with seq := 0 })] }).modHearth 0 fun h => { h with holder := some 0 } : State)).core 0, ((nextContext ((Tests.co ({ Tests.lr 29 0x80000 (Tests.tables 0 Tests.st) with launches := (Tests.tables 0 Tests.st).launches }) fun k => { k with slots := [], assigned := [0], saved := [(0, { Tests.saved with seq := 0 })] }).modHearth 0 fun h => { h with holder := some 0 } : State) (0)).map (·.2)).getD Tests.saved, if ((((Tests.co ({ Tests.lr 29 0x80000 (Tests.tables 0 Tests.st) with launches := (Tests.tables 0 Tests.st).launches }) fun k => { k with slots := [], assigned := [0], saved := [(0, { Tests.saved with seq := 0 })] }).modHearth 0 fun h => { h with holder := some 0 } : State)).hearth 0).holder = some 0 then ((Tests.co ({ Tests.lr 29 0x80000 (Tests.tables 0 Tests.st) with launches := (Tests.tables 0 Tests.st).launches }) fun k => { k with slots := [], assigned := [0], saved := [(0, { Tests.saved with seq := 0 })] }).modHearth 0 fun h => { h with holder := some 0 } : State) else saveHolder ((Tests.co ({ Tests.lr 29 0x80000 (Tests.tables 0 Tests.st) with launches := (Tests.tables 0 Tests.st).launches }) fun k => { k with slots := [], assigned := [0], saved := [(0, { Tests.saved with seq := 0 })] }).modHearth 0 fun h => { h with holder := some 0 } : State) 0 ((((Tests.co ({ Tests.lr 29 0x80000 (Tests.tables 0 Tests.st) with launches := (Tests.tables 0 Tests.st).launches }) fun k => { k with slots := [], assigned := [0], saved := [(0, { Tests.saved with seq := 0 })] }).modHearth 0 fun h => { h with holder := some 0 } : State)).chunkMap 0), (rfl), by decide +kernel⟩⟩

/-- Hypotheses of `Obligations.ContextEvents`, its part EventContexts are met. -/
theorem witness_ContextEvents_EventContexts_2 :
    (∃ (s : State), ∃ (c : Nat), ∃ (l : Nat), ∃ (k : Core), ∃ x, ∃ s', ∃ (y : Launch), ∃ (a : Nat), nextContext s c = some (l, x) ∧ s.ev.core = c ∧ s.core c = k ∧ k.resident = none ∧ k.endedTraps = [] ∧ k.busy = false ∧ (s.hearth (c / 8)).dispatchStopped = false ∧ (s.hearth (c / 8)).fenced = false ∧ s' = (if (s.hearth (c / 8)).holder = some x.asid then s else saveHolder s (c / 8) (s.chunkMap 0)) ∧ s.ev.flag = false ∧ bitsOf (s.lr l 0).toNat 0 0 = 0 ∧ holderFree s (c / 8) x.asid = true ∧ yields s c l x.asid = false ∧ let held := if (s.hearth (c / 8)).holder = some x.asid then none else heldFailureAt s' (c / 8) x.asid ((tget (s'.hearth (c / 8)).savedHeld x.asid).getD {}); held = none ∧ contextFailure s' c l x = some a ∧ s.launch? l = some y ∧ y.status = 0) ∧
    (∃ (s : State), ∃ (c : Nat), ∃ (l : Nat), ∃ (k : Core), ∃ x, ∃ s', ∃ (a : Nat), nextContext s c = some (l, x) ∧ s.ev.core = c ∧ s.core c = k ∧ k.resident = none ∧ k.endedTraps = [] ∧ k.busy = false ∧ (s.hearth (c / 8)).dispatchStopped = false ∧ (s.hearth (c / 8)).fenced = false ∧ s' = (if (s.hearth (c / 8)).holder = some x.asid then s else saveHolder s (c / 8) (s.chunkMap 0)) ∧ s.ev.flag = false ∧ bitsOf (s.lr l 0).toNat 0 0 = 0 ∧ holderFree s (c / 8) x.asid = true ∧ yields s c l x.asid = false ∧ let held := if (s.hearth (c / 8)).holder = some x.asid then none else heldFailureAt s' (c / 8) x.asid ((tget (s'.hearth (c / 8)).savedHeld x.asid).getD {}); held = some a) :=
  ⟨⟨(Tests.co ({ Tests.lr 29 0x80000 (Tests.tables 0 Tests.st) with launches := (Tests.tables 0 Tests.st).launches }) fun k => { k with slots := [], assigned := [0], saved := [(0, Tests.saved)] }).modHearth 0 fun h => { h with holder := some 0 }, 0, 0, (((Tests.co ({ Tests.lr 29 0x80000 (Tests.tables 0 Tests.st) with launches := (Tests.tables 0 Tests.st).launches }) fun k => { k with slots := [], assigned := [0], saved := [(0, Tests.saved)] }).modHearth 0 fun h => { h with holder := some 0 } : State)).core 0, ((nextContext ((Tests.co ({ Tests.lr 29 0x80000 (Tests.tables 0 Tests.st) with launches := (Tests.tables 0 Tests.st).launches }) fun k => { k with slots := [], assigned := [0], saved := [(0, Tests.saved)] }).modHearth 0 fun h => { h with holder := some 0 } : State) (0)).map (·.2)).getD Tests.saved, if ((((Tests.co ({ Tests.lr 29 0x80000 (Tests.tables 0 Tests.st) with launches := (Tests.tables 0 Tests.st).launches }) fun k => { k with slots := [], assigned := [0], saved := [(0, Tests.saved)] }).modHearth 0 fun h => { h with holder := some 0 } : State)).hearth 0).holder = some 0 then ((Tests.co ({ Tests.lr 29 0x80000 (Tests.tables 0 Tests.st) with launches := (Tests.tables 0 Tests.st).launches }) fun k => { k with slots := [], assigned := [0], saved := [(0, Tests.saved)] }).modHearth 0 fun h => { h with holder := some 0 } : State) else saveHolder ((Tests.co ({ Tests.lr 29 0x80000 (Tests.tables 0 Tests.st) with launches := (Tests.tables 0 Tests.st).launches }) fun k => { k with slots := [], assigned := [0], saved := [(0, Tests.saved)] }).modHearth 0 fun h => { h with holder := some 0 } : State) 0 ((((Tests.co ({ Tests.lr 29 0x80000 (Tests.tables 0 Tests.st) with launches := (Tests.tables 0 Tests.st).launches }) fun k => { k with slots := [], assigned := [0], saved := [(0, Tests.saved)] }).modHearth 0 fun h => { h with holder := some 0 } : State)).chunkMap 0), Tests.l0 ((Tests.co ({ Tests.lr 29 0x80000 (Tests.tables 0 Tests.st) with launches := (Tests.tables 0 Tests.st).launches }) fun k => { k with slots := [], assigned := [0], saved := [(0, Tests.saved)] }).modHearth 0 fun h => { h with holder := some 0 } : State), (contextFailure ((Tests.co ({ Tests.lr 29 0x80000 (Tests.tables 0 Tests.st) with launches := (Tests.tables 0 Tests.st).launches }) fun k => { k with slots := [], assigned := [0], saved := [(0, Tests.saved)] }).modHearth 0 fun h => { h with holder := some 0 } : State) 0 0 (((nextContext ((Tests.co ({ Tests.lr 29 0x80000 (Tests.tables 0 Tests.st) with launches := (Tests.tables 0 Tests.st).launches }) fun k => { k with slots := [], assigned := [0], saved := [(0, Tests.saved)] }).modHearth 0 fun h => { h with holder := some 0 } : State) (0)).map (·.2)).getD Tests.saved)).getD 0, (rfl), by decide +kernel⟩,
    ⟨(Tests.co ({ Tests.lr 29 0x80000 (Tests.tables 0 Tests.st) with launches := (Tests.tables 0 Tests.st).launches }) fun k => { k with slots := [], assigned := [0], saved := [(0, Tests.saved)] }).modHearth 0 fun h => { h with savedHeld := [(0, { seq := 1 })] }, 0, 0, (((Tests.co ({ Tests.lr 29 0x80000 (Tests.tables 0 Tests.st) with launches := (Tests.tables 0 Tests.st).launches }) fun k => { k with slots := [], assigned := [0], saved := [(0, Tests.saved)] }).modHearth 0 fun h => { h with savedHeld := [(0, { seq := 1 })] } : State)).core 0, ((nextContext ((Tests.co ({ Tests.lr 29 0x80000 (Tests.tables 0 Tests.st) with launches := (Tests.tables 0 Tests.st).launches }) fun k => { k with slots := [], assigned := [0], saved := [(0, Tests.saved)] }).modHearth 0 fun h => { h with savedHeld := [(0, { seq := 1 })] } : State) (0)).map (·.2)).getD Tests.saved, if ((((Tests.co ({ Tests.lr 29 0x80000 (Tests.tables 0 Tests.st) with launches := (Tests.tables 0 Tests.st).launches }) fun k => { k with slots := [], assigned := [0], saved := [(0, Tests.saved)] }).modHearth 0 fun h => { h with savedHeld := [(0, { seq := 1 })] } : State)).hearth 0).holder = some 0 then ((Tests.co ({ Tests.lr 29 0x80000 (Tests.tables 0 Tests.st) with launches := (Tests.tables 0 Tests.st).launches }) fun k => { k with slots := [], assigned := [0], saved := [(0, Tests.saved)] }).modHearth 0 fun h => { h with savedHeld := [(0, { seq := 1 })] } : State) else saveHolder ((Tests.co ({ Tests.lr 29 0x80000 (Tests.tables 0 Tests.st) with launches := (Tests.tables 0 Tests.st).launches }) fun k => { k with slots := [], assigned := [0], saved := [(0, Tests.saved)] }).modHearth 0 fun h => { h with savedHeld := [(0, { seq := 1 })] } : State) 0 ((((Tests.co ({ Tests.lr 29 0x80000 (Tests.tables 0 Tests.st) with launches := (Tests.tables 0 Tests.st).launches }) fun k => { k with slots := [], assigned := [0], saved := [(0, Tests.saved)] }).modHearth 0 fun h => { h with savedHeld := [(0, { seq := 1 })] } : State)).chunkMap 0), (heldFailureAt (if ((((Tests.co ({ Tests.lr 29 0x80000 (Tests.tables 0 Tests.st) with launches := (Tests.tables 0 Tests.st).launches }) fun k => { k with slots := [], assigned := [0], saved := [(0, Tests.saved)] }).modHearth 0 fun h => { h with savedHeld := [(0, { seq := 1 })] } : State)).hearth 0).holder = some 0 then ((Tests.co ({ Tests.lr 29 0x80000 (Tests.tables 0 Tests.st) with launches := (Tests.tables 0 Tests.st).launches }) fun k => { k with slots := [], assigned := [0], saved := [(0, Tests.saved)] }).modHearth 0 fun h => { h with savedHeld := [(0, { seq := 1 })] } : State) else saveHolder ((Tests.co ({ Tests.lr 29 0x80000 (Tests.tables 0 Tests.st) with launches := (Tests.tables 0 Tests.st).launches }) fun k => { k with slots := [], assigned := [0], saved := [(0, Tests.saved)] }).modHearth 0 fun h => { h with savedHeld := [(0, { seq := 1 })] } : State) 0 ((((Tests.co ({ Tests.lr 29 0x80000 (Tests.tables 0 Tests.st) with launches := (Tests.tables 0 Tests.st).launches }) fun k => { k with slots := [], assigned := [0], saved := [(0, Tests.saved)] }).modHearth 0 fun h => { h with savedHeld := [(0, { seq := 1 })] } : State)).chunkMap 0)) 0 0 { seq := 1 }).getD 0, (rfl), by decide +kernel⟩⟩

/-- Hypotheses of `Obligations.ContextEvents`, its part EventBeats are met. -/
theorem witness_ContextEvents_EventBeats :
    (∃ (s : State), ∃ (w : Nat), (s.cycle < Config.beatDelivery w ∨ (∃ a, a ∈ s.beats ∧ a.window < w)) ∧ s.ev.n = w) ∧
    (∃ (s : State), ∃ (w : Nat), (s.cycle < Config.beatDelivery w ∨ (∃ a, a ∈ s.beats ∧ a.window < w)) ∧ s.ev.n = w) ∧
    (∃ (s : State), ∃ (w : Nat), s.ev.n = w ∧ Config.beatDelivery w ≤ s.cycle ∧ (∀ a, a ∈ s.beats → w ≤ a.window)) ∧
    (∃ (s : State), ∃ (w : Nat), ∃ (a : Announcement), ∃ (next : Word), ∃ (sl : Slot), ∃ (key : Nat), ∃ (va : Word), ∃ (n : Nat), ∃ (op : Nat), ∃ (cas : Bool), ∃ (x : Word), ∃ (y : Word), ∃ (d : Dst), ∃ (t : State), ∃ (v : Nat), t = deliver s a ∧ s.ev.n = w ∧ beatNext s a = some next ∧ s.slotAt a.core a.slot = sl ∧ sl.goesOn = true ∧ a.kind = .atomic key va n op cas x y d ∧ scRefusal s sl.asid key n = none ∧ Memory.wf s.mem = true ∧ atomResult op cas n (memNat s.mem key n) x.toNat y.toNat = some v) ∧
    (∃ (s : State), ∃ (w : Nat), ∃ (a : Announcement), ∃ (next : Word), ∃ (sl : Slot), ∃ (key : Nat), ∃ (va : Word), ∃ (n : Nat), ∃ (op : Nat), ∃ (cas : Bool), ∃ (x : Word), ∃ (y : Word), ∃ (d : Dst), ∃ (t : State), ∃ (v : Nat), t = deliver s a ∧ s.ev.n = w ∧ beatNext s a = some next ∧ s.slotAt a.core a.slot = sl ∧ sl.goesOn = true ∧ a.kind = .atomic key va n op cas x y d ∧ scRefusal s sl.asid key n = none ∧ Memory.wf s.mem = true ∧ atomResult op cas n (memNat s.mem key n) x.toNat y.toNat = some v) ∧
    (∃ (s : State), ∃ (w : Nat), ∃ (a : Announcement), ∃ (next : Word), ∃ (sl : Slot), ∃ (key : Nat), ∃ (va : Word), ∃ (n : Nat), ∃ (op : Nat), ∃ (cas : Bool), ∃ (x : Word), ∃ (y : Word), ∃ (d : Dst), ∃ (t : State), t = deliver s a ∧ s.ev.n = w ∧ beatNext s a = some next ∧ s.slotAt a.core a.slot = sl ∧ sl.goesOn = true ∧ a.kind = .atomic key va n op cas x y d ∧ scRefusal s sl.asid key n = none ∧ Memory.wf s.mem = true ∧ atomResult op cas n (memNat s.mem key n) x.toNat y.toNat = none) ∧
    (∃ (s : State), ∃ (w : Nat), ∃ (a : Announcement), ∃ (next : Word), ∃ (sl : Slot), ∃ (key : Nat), ∃ (va : Word), ∃ (n : Nat), ∃ (op : Nat), ∃ (cas : Bool), ∃ (x : Word), ∃ (y : Word), ∃ (d : Dst), ∃ (why : Cause), s.ev.n = w ∧ beatNext s a = some next ∧ s.slotAt a.core a.slot = sl ∧ sl.goesOn = true ∧ a.kind = .atomic key va n op cas x y d ∧ scRefusal s sl.asid key n = some why ∧ (sl.shadow.isSome = true ∨ sl.roomy = true ∨ sl.spillFull = true)) ∧
    (∃ (s : State), ∃ (w : Nat), ∃ (a : Announcement), ∃ (next : Word), ∃ (sl : Slot), ∃ (key : Nat), ∃ (va : Word), ∃ (n : Nat), ∃ (op : Nat), ∃ (cas : Bool), ∃ (x : Word), ∃ (y : Word), ∃ (d : Dst), ∃ (why : Cause), s.ev.n = w ∧ beatNext s a = some next ∧ s.slotAt a.core a.slot = sl ∧ sl.goesOn = true ∧ a.kind = .atomic key va n op cas x y d ∧ scRefusal s sl.asid key n = some why ∧ (sl.shadow.isSome = true ∨ sl.roomy = true ∨ sl.spillFull = true)) ∧
    (∃ (s : State), ∃ (w : Nat), ∃ (a : Announcement), ∃ (next : Word), ∃ (sl : Slot), ∃ (p : Nat), ∃ (d : Dst), ∃ (t : State), t = deliver s a ∧ s.ev.n = w ∧ beatNext s a = some next ∧ s.slotAt a.core a.slot = sl ∧ sl.goesOn = true ∧ a.kind = .hopen p d ∧ p ≠ 0 ∧ s.liveTag a.launch p = false) ∧
    (∃ (s : State), ∃ (w : Nat), ∃ (a : Announcement), ∃ (next : Word), ∃ (sl : Slot), ∃ (p : Nat), ∃ (d : Dst), ∃ (t : State), t = deliver s a ∧ s.ev.n = w ∧ beatNext s a = some next ∧ s.slotAt a.core a.slot = sl ∧ sl.goesOn = true ∧ a.kind = .hopen p d ∧ p ≠ 0 ∧ s.liveTag a.launch p = false) ∧
    (∃ (s : State), ∃ (w : Nat), ∃ (a : Announcement), ∃ (next : Word), ∃ (sl : Slot), ∃ (p : Nat), ∃ (d : Dst), ∃ (t : State), ∃ (depth : Nat), t = deliver s a ∧ (p = 0 ∨ s.liveTag a.launch p = true) ∧ s.ev.n = w ∧ beatNext s a = some next ∧ s.slotAt a.core a.slot = sl ∧ sl.goesOn = true ∧ a.kind = .hopen p d ∧ depth = (if p = 0 then 0 else (s.tag p).depth) + 1 ∧ 15 < depth) ∧
    (∃ (s : State), ∃ (w : Nat), ∃ (a : Announcement), ∃ (next : Word), ∃ (sl : Slot), ∃ (p : Nat), ∃ (d : Dst), ∃ (t : State), ∃ (depth : Nat), t = deliver s a ∧ (p = 0 ∨ s.liveTag a.launch p = true) ∧ s.ev.n = w ∧ beatNext s a = some next ∧ s.slotAt a.core a.slot = sl ∧ sl.goesOn = true ∧ a.kind = .hopen p d ∧ depth = (if p = 0 then 0 else (s.tag p).depth) + 1 ∧ depth ≤ 15 ∧ bitsOf (s.lr a.launch 22).toNat 11 0 ≤ s.tagsHeld a.launch) ∧
    (∃ (s : State), ∃ (w : Nat), ∃ (a : Announcement), ∃ (next : Word), ∃ (sl : Slot), ∃ (p : Nat), ∃ (d : Dst), ∃ (t : State), ∃ (depth : Nat), t = deliver s a ∧ (p = 0 ∨ s.liveTag a.launch p = true) ∧ s.ev.n = w ∧ beatNext s a = some next ∧ s.slotAt a.core a.slot = sl ∧ sl.goesOn = true ∧ a.kind = .hopen p d ∧ depth = (if p = 0 then 0 else (s.tag p).depth) + 1 ∧ depth ≤ 15 ∧ bitsOf (s.lr a.launch 22).toNat 11 0 ≤ s.tagsHeld a.launch) ∧
    (∃ (s : State), ∃ (w : Nat), ∃ (a : Announcement), ∃ (next : Word), ∃ (sl : Slot), ∃ (p : Nat), ∃ (d : Dst), ∃ (t : State), ∃ (depth : Nat), t = deliver s a ∧ (p = 0 ∨ s.liveTag a.launch p = true) ∧ lowestFree s 4095 1 = none ∧ s.ev.n = w ∧ beatNext s a = some next ∧ s.slotAt a.core a.slot = sl ∧ sl.goesOn = true ∧ a.kind = .hopen p d ∧ depth = (if p = 0 then 0 else (s.tag p).depth) + 1 ∧ depth ≤ 15 ∧ s.tagsHeld a.launch < bitsOf (s.lr a.launch 22).toNat 11 0) :=
  ⟨⟨{ Tests.hyp .live Tests.st with beats := [({ window := 0, core := 0, slot := 0, launch := 0, kind := .refuteAll 0 } : Announcement)], ev := { n := 0 }, cycle := 5 }, 0, (.inl (by decide +kernel)), by decide +kernel⟩,
    ⟨{ Tests.hyp .live Tests.st with beats := [({ window := 0, core := 0, slot := 0, launch := 0, kind := .refuteAll 0 } : Announcement)], ev := { n := 1 }, cycle := 1048576 }, 1, (.inr ⟨({ window := 0, core := 0, slot := 0, launch := 0, kind := .refuteAll 0 } : Announcement), by decide +kernel, by decide +kernel⟩), by decide +kernel⟩,
    ⟨{ Tests.hyp .live Tests.st with beats := [({ window := 0, core := 9, slot := 0, launch := 0, kind := .refuteAll 0 } : Announcement), ({ window := 0, core := 0, slot := 0, launch := 0, kind := .quench 0 1 } : Announcement), ({ window := 0, core := 3, slot := 0, launch := 0, kind := .cutDone 0 true } : Announcement), ({ window := 4, core := 0, slot := 0, launch := 0, kind := .quench 0 2 } : Announcement), ({ window := 0, core := 3, slot := 0, launch := 0, kind := .cutDone 0 false } : Announcement)], ev := { n := 0 }, cycle := 1048576 }, 0, by decide +kernel⟩,
    ⟨Tests.stall (.beat 0x10004) (Tests.put 0x10108 [5, 0, 0, 0, 0, 0, 0, 0] (Tests.st)), 0, ({ window := 0, core := 0, slot := 0, launch := 0, kind := .atomic 0x10108 0x10108 8 0 false 1 0 (.n 3) } : Announcement), 0x10004, ((Tests.stall (.beat 0x10004) (Tests.put 0x10108 [5, 0, 0, 0, 0, 0, 0, 0] (Tests.st)) : State)).slotAt 0 0, 0x10108, 0x10108, 8, 0, false, 1, 0, .n 3, deliver (Tests.stall (.beat 0x10004) (Tests.put 0x10108 [5, 0, 0, 0, 0, 0, 0, 0] (Tests.st)) : State) (({ window := 0, core := 0, slot := 0, launch := 0, kind := .atomic 0x10108 0x10108 8 0 false 1 0 (.n 3) } : Announcement)), 6, (rfl), by decide +kernel⟩,
    ⟨Tests.stall (.beat 0x10004) (Tests.put 0x10108 [5, 0, 0, 0, 0, 0, 0, 0] (Tests.st)), 0, ({ window := 0, core := 0, slot := 0, launch := 0, kind := .atomic 0x10108 0x10108 8 0 true 1 5 (.n 3) } : Announcement), 0x10004, ((Tests.stall (.beat 0x10004) (Tests.put 0x10108 [5, 0, 0, 0, 0, 0, 0, 0] (Tests.st)) : State)).slotAt 0 0, 0x10108, 0x10108, 8, 0, true, 1, 5, .n 3, deliver (Tests.stall (.beat 0x10004) (Tests.put 0x10108 [5, 0, 0, 0, 0, 0, 0, 0] (Tests.st)) : State) (({ window := 0, core := 0, slot := 0, launch := 0, kind := .atomic 0x10108 0x10108 8 0 true 1 5 (.n 3) } : Announcement)), 1, (rfl), by decide +kernel⟩,
    ⟨Tests.stall (.beat 0x10004) (Tests.put 0x10108 [5, 0, 0, 0, 0, 0, 0, 0] (Tests.st)), 0, ({ window := 0, core := 0, slot := 0, launch := 0, kind := .atomic 0x10108 0x10108 8 0 true 1 6 (.n 3) } : Announcement), 0x10004, ((Tests.stall (.beat 0x10004) (Tests.put 0x10108 [5, 0, 0, 0, 0, 0, 0, 0] (Tests.st)) : State)).slotAt 0 0, 0x10108, 0x10108, 8, 0, true, 1, 6, .n 3, deliver (Tests.stall (.beat 0x10004) (Tests.put 0x10108 [5, 0, 0, 0, 0, 0, 0, 0] (Tests.st)) : State) (({ window := 0, core := 0, slot := 0, launch := 0, kind := .atomic 0x10108 0x10108 8 0 true 1 6 (.n 3) } : Announcement)), (rfl), by decide +kernel⟩,
    ⟨Tests.stall (.beat 0x10004) ({ Tests.st with poison := [0x404] }), 0, ({ window := 0, core := 0, slot := 0, launch := 0, kind := .atomic (0x10108) 0x10108 8 0 false 1 0 (.n 3) } : Announcement), 0x10004, ((Tests.stall (.beat 0x10004) ({ Tests.st with poison := [0x404] }) : State)).slotAt 0 0, 0x10108, 0x10108, 8, 0, false, 1, 0, .n 3, .poison, by decide +kernel⟩,
    ⟨Tests.stall (.beat 0x10004) (Tests.st), 0, ({ window := 0, core := 0, slot := 0, launch := 0, kind := .atomic (sramKey 5 0 0) 0x10108 8 0 false 1 0 (.n 3) } : Announcement), 0x10004, ((Tests.stall (.beat 0x10004) (Tests.st) : State)).slotAt 0 0, sramKey 5 0 0, 0x10108, 8, 0, false, 1, 0, .n 3, .access, by decide +kernel⟩,
    ⟨Tests.stall (.beat 0x10004) (Tests.hyp .live Tests.st), 0, ({ window := 0, core := 0, slot := 0, launch := 0, kind := .hopen 4 (.n 3) } : Announcement), 0x10004, ((Tests.stall (.beat 0x10004) (Tests.hyp .live Tests.st) : State)).slotAt 0 0, 4, .n 3, deliver (Tests.stall (.beat 0x10004) (Tests.hyp .live Tests.st) : State) (({ window := 0, core := 0, slot := 0, launch := 0, kind := .hopen 4 (.n 3) } : Announcement)), (rfl), by decide +kernel⟩,
    ⟨Tests.stall (.beat 0x10004) (Tests.hyp .confirmed Tests.st), 0, ({ window := 0, core := 0, slot := 0, launch := 0, kind := .hopen 3 (.n 3) } : Announcement), 0x10004, ((Tests.stall (.beat 0x10004) (Tests.hyp .confirmed Tests.st) : State)).slotAt 0 0, 3, .n 3, deliver (Tests.stall (.beat 0x10004) (Tests.hyp .confirmed Tests.st) : State) (({ window := 0, core := 0, slot := 0, launch := 0, kind := .hopen 3 (.n 3) } : Announcement)), (rfl), by decide +kernel⟩,
    ⟨Tests.stall (.beat 0x10004) ({ Tests.st with hyp := [(3, ⟨0, 0, 15, .live, 0, false, 0⟩)] }), 0, ({ window := 0, core := 0, slot := 0, launch := 0, kind := .hopen 3 (.n 3) } : Announcement), 0x10004, ((Tests.stall (.beat 0x10004) ({ Tests.st with hyp := [(3, ⟨0, 0, 15, .live, 0, false, 0⟩)] }) : State)).slotAt 0 0, 3, .n 3, deliver (Tests.stall (.beat 0x10004) ({ Tests.st with hyp := [(3, ⟨0, 0, 15, .live, 0, false, 0⟩)] }) : State) (({ window := 0, core := 0, slot := 0, launch := 0, kind := .hopen 3 (.n 3) } : Announcement)), (if (3) = 0 then 0 else (((Tests.stall (.beat 0x10004) ({ Tests.st with hyp := [(3, ⟨0, 0, 15, .live, 0, false, 0⟩)] }) : State)).tag (3)).depth) + 1, (rfl), (.inr (by decide +kernel)), by decide +kernel⟩,
    ⟨Tests.stall (.beat 0x10004) (Tests.hyp .live Tests.st), 0, ({ window := 0, core := 0, slot := 0, launch := 0, kind := .hopen 3 (.n 3) } : Announcement), 0x10004, ((Tests.stall (.beat 0x10004) (Tests.hyp .live Tests.st) : State)).slotAt 0 0, 3, .n 3, deliver (Tests.stall (.beat 0x10004) (Tests.hyp .live Tests.st) : State) (({ window := 0, core := 0, slot := 0, launch := 0, kind := .hopen 3 (.n 3) } : Announcement)), (if (3) = 0 then 0 else (((Tests.stall (.beat 0x10004) (Tests.hyp .live Tests.st) : State)).tag (3)).depth) + 1, (rfl), (.inr (by decide +kernel)), by decide +kernel⟩,
    ⟨Tests.stall (.beat 0x10004) (Tests.hyp .live (Tests.lr 22 1 Tests.st)), 0, ({ window := 0, core := 0, slot := 0, launch := 0, kind := .hopen 0 (.n 3) } : Announcement), 0x10004, ((Tests.stall (.beat 0x10004) (Tests.hyp .live (Tests.lr 22 1 Tests.st)) : State)).slotAt 0 0, 0, .n 3, deliver (Tests.stall (.beat 0x10004) (Tests.hyp .live (Tests.lr 22 1 Tests.st)) : State) (({ window := 0, core := 0, slot := 0, launch := 0, kind := .hopen 0 (.n 3) } : Announcement)), (if (0) = 0 then 0 else (((Tests.stall (.beat 0x10004) (Tests.hyp .live (Tests.lr 22 1 Tests.st)) : State)).tag (0)).depth) + 1, (rfl), (.inl (by decide +kernel)), by decide +kernel⟩,
    ⟨Tests.stall (.beat 0x10004) ({ Tests.lr 22 5 Tests.st with hyp := Tests.tags 4096 0 }), 0, ({ window := 0, core := 0, slot := 0, launch := 0, kind := .hopen 0 (.n 3) } : Announcement), 0x10004, ((Tests.stall (.beat 0x10004) ({ Tests.lr 22 5 Tests.st with hyp := Tests.tags 4096 0 }) : State)).slotAt 0 0, 0, .n 3, deliver (Tests.stall (.beat 0x10004) ({ Tests.lr 22 5 Tests.st with hyp := Tests.tags 4096 0 }) : State) (({ window := 0, core := 0, slot := 0, launch := 0, kind := .hopen 0 (.n 3) } : Announcement)), (if (0) = 0 then 0 else (((Tests.stall (.beat 0x10004) ({ Tests.lr 22 5 Tests.st with hyp := Tests.tags 4096 0 }) : State)).tag (0)).depth) + 1, (rfl), (.inl (by decide +kernel)), (Tests.full _ rfl), by decide +kernel⟩⟩

/-- Hypotheses of `Obligations.ContextEvents`, its part EventBeats are met. -/
theorem witness_ContextEvents_EventBeats_2 :
    (∃ (s : State), ∃ (w : Nat), ∃ (a : Announcement), ∃ (next : Word), ∃ (sl : Slot), ∃ (p : Nat), ∃ (d : Dst), ∃ (t : State), ∃ (depth : Nat), ∃ (h : Nat), t = deliver s a ∧ (p = 0 ∨ s.liveTag a.launch p = true) ∧ s.ev.n = w ∧ beatNext s a = some next ∧ s.slotAt a.core a.slot = sl ∧ sl.goesOn = true ∧ a.kind = .hopen p d ∧ depth = (if p = 0 then 0 else (s.tag p).depth) + 1 ∧ depth ≤ 15 ∧ s.tagsHeld a.launch < bitsOf (s.lr a.launch 22).toNat 11 0 ∧ lowestFree s 4095 1 = some h) ∧
    (∃ (s : State), ∃ (w : Nat), ∃ (a : Announcement), ∃ (next : Word), ∃ (sl : Slot), ∃ (p : Nat), ∃ (d : Dst), ∃ (t : State), ∃ (depth : Nat), ∃ (h : Nat), t = deliver s a ∧ (p = 0 ∨ s.liveTag a.launch p = true) ∧ s.ev.n = w ∧ beatNext s a = some next ∧ s.slotAt a.core a.slot = sl ∧ sl.goesOn = true ∧ a.kind = .hopen p d ∧ depth = (if p = 0 then 0 else (s.tag p).depth) + 1 ∧ depth ≤ 15 ∧ s.tagsHeld a.launch < bitsOf (s.lr a.launch 22).toNat 11 0 ∧ lowestFree s 4095 1 = some h) ∧
    (∃ (s : State), ∃ (w : Nat), ∃ (a : Announcement), ∃ (next : Word), ∃ (sl : Slot), ∃ (f : Nat), ∃ (h : Nat), ∃ (d : Dst), s.ev.n = w ∧ beatNext s a = some next ∧ s.slotAt a.core a.slot = sl ∧ sl.goesOn = true ∧ a.kind = .hresolve f h d ∧ sl.spawning = false ∧ sl.migrating = none ∧ s.liveTag a.launch h = false) ∧
    (∃ (s : State), ∃ (w : Nat), ∃ (a : Announcement), ∃ (next : Word), ∃ (sl : Slot), ∃ (f : Nat), ∃ (h : Nat), ∃ (d : Dst), s.ev.n = w ∧ beatNext s a = some next ∧ s.slotAt a.core a.slot = sl ∧ sl.goesOn = true ∧ a.kind = .hresolve f h d ∧ sl.spawning = false ∧ sl.migrating = none ∧ s.liveTag a.launch h = true ∧ f = 3) ∧
    (∃ (s : State), ∃ (w : Nat), ∃ (a : Announcement), ∃ (next : Word), ∃ (sl : Slot), ∃ (f : Nat), ∃ (h : Nat), ∃ (d : Dst), s.ev.n = w ∧ beatNext s a = some next ∧ s.slotAt a.core a.slot = sl ∧ sl.goesOn = true ∧ a.kind = .hresolve f h d ∧ sl.spawning = false ∧ sl.migrating = none ∧ s.liveTag a.launch h = true ∧ f = 2) ∧
    (∃ (s : State), ∃ (w : Nat), ∃ (a : Announcement), ∃ (next : Word), ∃ (sl : Slot), ∃ (d : Dst), ∃ (x : Launch), s.ev.n = w ∧ beatNext s a = some next ∧ s.slotAt a.core a.slot = sl ∧ sl.goesOn = true ∧ a.kind = .cut d ∧ s.launch? a.launch = some x ∧ x.cut.inProgress = true) ∧
    (∃ (s : State), ∃ (w : Nat), ∃ (a : Announcement), ∃ (next : Word), ∃ (sl : Slot), ∃ (d : Dst), ∃ (x : Launch), s.ev.n = w ∧ beatNext s a = some next ∧ s.slotAt a.core a.slot = sl ∧ sl.goesOn = true ∧ a.kind = .cut d ∧ s.launch? a.launch = some x ∧ x.cut.inProgress = false) ∧
    (∃ (s : State), ∃ (w : Nat), ∃ (a : Announcement), ∃ (next : Word), ∃ (sl : Slot), ∃ (d : Dst), ∃ (x : Launch), s.ev.n = w ∧ beatNext s a = some next ∧ s.slotAt a.core a.slot = sl ∧ sl.goesOn = true ∧ a.kind = .cut d ∧ s.launch? a.launch = some x ∧ x.cut.inProgress = false) ∧
    (∃ (s : State), ∃ (w : Nat), ∃ (a : Announcement), ∃ l, ∃ (cause : Nat), ∃ (x : Launch), s.ev.n = w ∧ a.kind = .quench l cause ∧ s.launch? l = some x ∧ x.endFixed = false ∧ x.status = 0 ∧ x.quenched = false ∧ endsQuiescent s l x = true) ∧
    (∃ (s : State), ∃ (w : Nat), ∃ (a : Announcement), ∃ l, ∃ (cause : Nat), ∃ (x : Launch), s.ev.n = w ∧ a.kind = .quench l cause ∧ s.launch? l = some x ∧ x.endFixed = false ∧ x.status = 0 ∧ x.quenched = false ∧ endsQuiescent s l x = true) ∧
    (∃ (s : State), ∃ (w : Nat), ∃ (a : Announcement), ∃ l, ∃ (cause : Nat), ∃ (x : Launch), s.ev.n = w ∧ a.kind = .quench l cause ∧ s.launch? l = some x ∧ x.endFixed = false ∧ x.status = 0 ∧ x.quenched = false ∧ endsQuiescent s l x = false) :=
  ⟨⟨Tests.stall (.beat 0x10004) (Tests.hyp .live (Tests.lr 22 5 Tests.st)), 0, ({ window := 0, core := 0, slot := 0, launch := 0, kind := .hopen 3 (.n 3) } : Announcement), 0x10004, ((Tests.stall (.beat 0x10004) (Tests.hyp .live (Tests.lr 22 5 Tests.st)) : State)).slotAt 0 0, 3, .n 3, deliver (Tests.stall (.beat 0x10004) (Tests.hyp .live (Tests.lr 22 5 Tests.st)) : State) (({ window := 0, core := 0, slot := 0, launch := 0, kind := .hopen 3 (.n 3) } : Announcement)), (if (3) = 0 then 0 else (((Tests.stall (.beat 0x10004) (Tests.hyp .live (Tests.lr 22 5 Tests.st)) : State)).tag (3)).depth) + 1, 1, (rfl), (.inr (by decide +kernel)), by decide +kernel⟩,
    ⟨Tests.stall (.beat 0x10004) (Tests.hyp .live (Tests.lr 22 5 Tests.st)), 0, ({ window := 0, core := 0, slot := 0, launch := 0, kind := .hopen 0 (.n 3) } : Announcement), 0x10004, ((Tests.stall (.beat 0x10004) (Tests.hyp .live (Tests.lr 22 5 Tests.st)) : State)).slotAt 0 0, 0, .n 3, deliver (Tests.stall (.beat 0x10004) (Tests.hyp .live (Tests.lr 22 5 Tests.st)) : State) (({ window := 0, core := 0, slot := 0, launch := 0, kind := .hopen 0 (.n 3) } : Announcement)), (if (0) = 0 then 0 else (((Tests.stall (.beat 0x10004) (Tests.hyp .live (Tests.lr 22 5 Tests.st)) : State)).tag (0)).depth) + 1, 1, (rfl), (.inl (by decide +kernel)), by decide +kernel⟩,
    ⟨Tests.stall (.beat 0x10004) (Tests.hyp .live Tests.st), 0, ({ window := 0, core := 0, slot := 0, launch := 0, kind := .hresolve 3 4 (.n 3) } : Announcement), 0x10004, ((Tests.stall (.beat 0x10004) (Tests.hyp .live Tests.st) : State)).slotAt 0 0, 3, 4, .n 3, by decide +kernel⟩,
    ⟨Tests.stall (.beat 0x10004) (Tests.sl (Tests.hyp .live Tests.st) fun sl => { sl with hypCur := 3 }), 0, ({ window := 0, core := 0, slot := 0, launch := 0, kind := .hresolve 3 3 (.n 3) } : Announcement), 0x10004, ((Tests.stall (.beat 0x10004) (Tests.sl (Tests.hyp .live Tests.st) fun sl => { sl with hypCur := 3 }) : State)).slotAt 0 0, 3, 3, .n 3, by decide +kernel⟩,
    ⟨Tests.stall (.beat 0x10004) (Tests.sl (Tests.hyp .live Tests.st) fun sl => { sl with hypCur := 3 }), 0, ({ window := 0, core := 0, slot := 0, launch := 0, kind := .hresolve 2 3 (.n 3) } : Announcement), 0x10004, ((Tests.stall (.beat 0x10004) (Tests.sl (Tests.hyp .live Tests.st) fun sl => { sl with hypCur := 3 }) : State)).slotAt 0 0, 2, 3, .n 3, by decide +kernel⟩,
    ⟨Tests.stall (.beat 0x10004) (Tests.la (Tests.tables 0 Tests.st) fun l => { l with lr := l.lr.set 27 0x81000, cut := { number := 7, inProgress := true } }), 0, ({ window := 0, core := 0, slot := 0, launch := 0, kind := .cut (.n 3) } : Announcement), 0x10004, ((Tests.stall (.beat 0x10004) (Tests.la (Tests.tables 0 Tests.st) fun l => { l with lr := l.lr.set 27 0x81000, cut := { number := 7, inProgress := true } }) : State)).slotAt 0 0, .n 3, Tests.l0 (Tests.stall (.beat 0x10004) (Tests.la (Tests.tables 0 Tests.st) fun l => { l with lr := l.lr.set 27 0x81000, cut := { number := 7, inProgress := true } }) : State), by decide +kernel⟩,
    ⟨Tests.stall (.beat 0x10004) (Tests.la (Tests.tables 0 Tests.st) fun l => { l with lr := l.lr.set 27 0x81000, cut := { number := 7 } }), 0, ({ window := 0, core := 0, slot := 0, launch := 0, kind := .cut (.n 3) } : Announcement), 0x10004, ((Tests.stall (.beat 0x10004) (Tests.la (Tests.tables 0 Tests.st) fun l => { l with lr := l.lr.set 27 0x81000, cut := { number := 7 } }) : State)).slotAt 0 0, .n 3, Tests.l0 (Tests.stall (.beat 0x10004) (Tests.la (Tests.tables 0 Tests.st) fun l => { l with lr := l.lr.set 27 0x81000, cut := { number := 7 } }) : State), by decide +kernel⟩,
    ⟨Tests.stall (.beat 0x10004) (Tests.la (Tests.tables 0 Tests.st) fun l => { l with lr := l.lr.set 27 0x81000, cut := { number := 2 ^ 32 - 1 } }), 0, ({ window := 0, core := 0, slot := 0, launch := 0, kind := .cut (.n 3) } : Announcement), 0x10004, ((Tests.stall (.beat 0x10004) (Tests.la (Tests.tables 0 Tests.st) fun l => { l with lr := l.lr.set 27 0x81000, cut := { number := 2 ^ 32 - 1 } }) : State)).slotAt 0 0, .n 3, Tests.l0 (Tests.stall (.beat 0x10004) (Tests.la (Tests.tables 0 Tests.st) fun l => { l with lr := l.lr.set 27 0x81000, cut := { number := 2 ^ 32 - 1 } }) : State), by decide +kernel⟩,
    ⟨Tests.co (Tests.home Tests.st) fun k => { k with slots := [] }, 0, ({ window := 0, core := 0, slot := 0, launch := 0, kind := .quench 0 2 } : Announcement), 0, 2, Tests.l0 (Tests.co (Tests.home Tests.st) fun k => { k with slots := [] } : State), by decide +kernel⟩,
    ⟨Tests.inbox Tests.msg Tests.st, 0, ({ window := 0, core := 0, slot := 0, launch := 0, kind := .quench 0 2 } : Announcement), 0, 2, Tests.l0 (Tests.inbox Tests.msg Tests.st : State), by decide +kernel⟩,
    ⟨Tests.home Tests.st, 0, ({ window := 0, core := 0, slot := 0, launch := 0, kind := .quench 0 2 } : Announcement), 0, 2, Tests.l0 (Tests.home Tests.st : State), by decide +kernel⟩⟩

/-- Hypotheses of `Obligations.ContextEvents`, its part EventTasks are met. -/
theorem witness_ContextEvents_EventTasks :
    (∃ (s : State), ∃ (c : Nat), ∃ (k : Nat), ∃ (l : Nat), ∃ (x : Launch), ∃ (sl : Slot), s.ev.core = c ∧ s.ev.slot = k ∧ s.ev.launch = l ∧ s.launch? l = some x ∧ s.slotAt c k = sl ∧ sl.held = true ∧ sl.stopped = false ∧ sl.wrapup = false ∧ sl.stall = .none ∧ sl.shadow = none ∧ sl.start ≠ .trapContext ∧ sl.launch = l ∧ x.quenched = true) ∧
    (∃ (s : State), ∃ (c : Nat), ∃ (k : Nat), ∃ (l : Nat), ∃ (x : Launch), ∃ (sl : Slot), s.ev.core = c ∧ s.ev.slot = k ∧ s.ev.launch = l ∧ s.launch? l = some x ∧ s.slotAt c k = sl ∧ sl.held = true ∧ sl.stopped = false ∧ sl.wrapup = false ∧ sl.stall = .none ∧ sl.shadow = none ∧ sl.start ≠ .trapContext ∧ sl.launch = l ∧ x.quenched = true) ∧
    (∃ (s : State), ∃ (c : Nat), ∃ (k : Nat), ∃ (l : Nat), ∃ (x : Launch), s.ev.core = c ∧ s.ev.slot = k ∧ s.ev.launch = l ∧ s.launch? l = some x ∧ (s.slotAt c k).held = true ∧ (s.slotAt c k).wrapup = true ∧ (s.slotAt c k).quenchLeft = 0 ∧ (s.slotAt c k).shadow = none ∧ (s.slotAt c k).stall = .none) ∧
    (∃ (s : State), ∃ (c : Nat), ∃ (k : Nat), ∃ (l : Nat), ∃ (x : Launch), s.ev.core = c ∧ s.ev.slot = k ∧ s.ev.launch = l ∧ s.launch? l = some x ∧ x.state = .running ∧ x.quench = none ∧ (s.cycle % 256 ≠ 0 ∨ s.cycle / 256 ≤ x.sampled)) ∧
    (∃ (s : State), ∃ (c : Nat), ∃ (k : Nat), ∃ (l : Nat), ∃ (x : Launch), s.ev.core = c ∧ s.ev.slot = k ∧ s.ev.launch = l ∧ s.launch? l = some x ∧ x.state = .running ∧ x.quench = none ∧ s.cycle % 256 = 0 ∧ x.sampled < s.cycle / 256) ∧
    (∃ (s : State), ∃ (c : Nat), ∃ (k : Nat), ∃ (l : Nat), ∃ (x : Launch), s.ev.core = c ∧ s.ev.slot = k ∧ s.ev.launch = l ∧ s.launch? l = some x ∧ x.state = .running ∧ x.quench = none ∧ s.cycle % 256 = 0 ∧ x.sampled < s.cycle / 256) ∧
    (∃ (s : State), ∃ (c : Nat), ∃ (k : Nat), ∃ (l : Nat), ∃ (x : Launch), s.ev.core = c ∧ s.ev.slot = k ∧ s.ev.launch = l ∧ s.launch? l = some x ∧ x.state = .running ∧ x.quench = none ∧ s.cycle % 256 = 0 ∧ x.sampled < s.cycle / 256) ∧
    (∃ (s : State), ∃ (c : Nat), ∃ (k : Nat), ∃ (l : Nat), ∃ (x : Launch), s.ev.core = c ∧ s.ev.slot = k ∧ s.ev.launch = l ∧ s.launch? l = some x ∧ x.state = .running ∧ x.quench = none ∧ s.cycle % 256 = 0 ∧ x.sampled < s.cycle / 256) ∧
    (∃ (s : State), ∃ (c : Nat), ∃ (k : Nat), ∃ (l : Nat), ∃ (x : Launch), ∃ (h : Nat), ((s.tag h).state = .confirmed ∨ (s.tag h).state = .sweeping) ∧ s.ev.core = c ∧ s.ev.slot = k ∧ s.ev.launch = l ∧ s.launch? l = some x ∧ s.ev.id = h) ∧
    (∃ (s : State), ∃ (c : Nat), ∃ (k : Nat), ∃ (l : Nat), ∃ (x : Launch), ∃ (h : Nat), ((s.tag h).state = .confirmed ∨ (s.tag h).state = .sweeping) ∧ s.ev.core = c ∧ s.ev.slot = k ∧ s.ev.launch = l ∧ s.launch? l = some x ∧ s.ev.id = h) ∧
    (∃ (s : State), ∃ (c : Nat), ∃ (k : Nat), ∃ (l : Nat), ∃ (x : Launch), ∃ p, s.ev.core = c ∧ s.ev.slot = k ∧ s.ev.launch = l ∧ s.launch? l = some x ∧ x.cut.inProgress = true ∧ natMem x.cut.waiting c = true ∧ atCopyPoint s l c = true ∧ s.up (c / 8) = true ∧ publishPoison s l c = some p) ∧
    (∃ (s : State), ∃ (c : Nat), ∃ (k : Nat), ∃ (l : Nat), ∃ (x : Launch), ∃ (va : Nat), ∃ (b : List Byte), ∃ (u : State), s.ev.core = c ∧ s.ev.slot = k ∧ s.ev.launch = l ∧ s.launch? l = some x ∧ x.cut.inProgress = true ∧ natMem x.cut.waiting c = true ∧ atCopyPoint s l c = true ∧ s.up (c / 8) = true ∧ publishPoison s l c = none ∧ b = publishBytes s l c ∧ va = (x.lr.getD 27 0).toNat + (0x40 + s.rankOf l c * cutStride s l) ∧ writeFault s (s.asidOf l) va b.length = none ∧ partWrite s (s.asidOf l) va b = some u) ∧
    (∃ (s : State), ∃ (c : Nat), ∃ (k : Nat), ∃ (l : Nat), ∃ (x : Launch), ∃ (b : List Byte), ∃ (u : State), s.ev.core = c ∧ s.ev.slot = k ∧ s.ev.launch = l ∧ s.launch? l = some x ∧ x.cut.inProgress = true ∧ x.cut.waiting = [] ∧ cutEnding s l = false ∧ s.hostFolds = [] ∧ b = leBytes x.cut.number 8 ∧ writeFault s (s.asidOf l) (x.lr.getD 27 0).toNat 8 = none ∧ partWrite s (s.asidOf l) (x.lr.getD 27 0).toNat b = some u) ∧
    (∃ (s : State), ∃ (c : Nat), ∃ (k : Nat), ∃ (l : Nat), ∃ (x : Launch), ∃ (a : Announcement), ∃ ab, s.ev.core = c ∧ s.ev.slot = k ∧ s.ev.launch = l ∧ s.launch? l = some x ∧ a.kind = .cutDone l ab) :=
  ⟨⟨Tests.la (Tests.home (Tests.tables 0x100000064 (Tests.lr 18 2 Tests.st))) fun l => { l with quench := some 2, quenched := true, lr := l.lr.set 19 77 }, 0, 0, 0, Tests.l0 (Tests.la (Tests.home (Tests.tables 0x100000064 (Tests.lr 18 2 Tests.st))) fun l => { l with quench := some 2, quenched := true, lr := l.lr.set 19 77 } : State), ((Tests.la (Tests.home (Tests.tables 0x100000064 (Tests.lr 18 2 Tests.st))) fun l => { l with quench := some 2, quenched := true, lr := l.lr.set 19 77 } : State)).slotAt 0 0, by decide +kernel⟩,
    ⟨Tests.la (Tests.home (Tests.sl Tests.st fun sl => { sl with vl := 8, vasked := 16, inBwait := some 3, priv := .kernel })) fun l => { l with quench := some 2, quenched := true, lr := l.lr.set 19 77 }, 0, 0, 0, Tests.l0 (Tests.la (Tests.home (Tests.sl Tests.st fun sl => { sl with vl := 8, vasked := 16, inBwait := some 3, priv := .kernel })) fun l => { l with quench := some 2, quenched := true, lr := l.lr.set 19 77 } : State), ((Tests.la (Tests.home (Tests.sl Tests.st fun sl => { sl with vl := 8, vasked := 16, inBwait := some 3, priv := .kernel })) fun l => { l with quench := some 2, quenched := true, lr := l.lr.set 19 77 } : State)).slotAt 0 0, by decide +kernel⟩,
    ⟨Tests.home (Tests.sl Tests.st fun sl => { sl with wrapup := true }), 0, 0, 0, Tests.l0 (Tests.home (Tests.sl Tests.st fun sl => { sl with wrapup := true }) : State), by decide +kernel⟩,
    ⟨Tests.st, 0, 0, 0, Tests.l0 (Tests.st : State), by decide +kernel⟩,
    ⟨{ Tests.home Tests.st with cycle := 1024 }, 0, 0, 0, Tests.l0 ({ Tests.home Tests.st with cycle := 1024 } : State), by decide +kernel⟩,
    ⟨{ Tests.home (Tests.lr 0 2 Tests.st) with cycle := 1024 }, 0, 0, 0, Tests.l0 ({ Tests.home (Tests.lr 0 2 Tests.st) with cycle := 1024 } : State), by decide +kernel⟩,
    ⟨{ Tests.la (Tests.home Tests.st) fun l => { l with inflight := [3, -1, 0, 0] } with cycle := 1024 }, 0, 0, 0, Tests.l0 ({ Tests.la (Tests.home Tests.st) fun l => { l with inflight := [3, -1, 0, 0] } with cycle := 1024 } : State), by decide +kernel⟩,
    ⟨{ Tests.co (Tests.home (Tests.lr 0 2 Tests.st)) fun k => { k with cvgWindow := 9 } with cycle := 1024 }, 0, 0, 0, Tests.l0 ({ Tests.co (Tests.home (Tests.lr 0 2 Tests.st)) fun k => { k with cvgWindow := 9 } with cycle := 1024 } : State), by decide +kernel⟩,
    ⟨{ Tests.hyp .confirmed (Tests.st) with ev := { id := 3 }, versions := [⟨5, 3, [], 0, false, false⟩, ⟨5, 4, [], 1, false, false⟩] }, 0, 0, 0, Tests.l0 ({ Tests.hyp .confirmed (Tests.st) with ev := { id := 3 }, versions := [⟨5, 3, [], 0, false, false⟩, ⟨5, 4, [], 1, false, false⟩] } : State), 3, (.inl (by decide +kernel)), by decide +kernel⟩,
    ⟨{ Tests.hyp .sweeping (Tests.sl Tests.st fun sl => { sl with hypCur := 3 }) with ev := { id := 3 }, versions := [⟨5, 3, [], 0, false, false⟩, ⟨5, 4, [], 1, false, false⟩] }, 0, 0, 0, Tests.l0 ({ Tests.hyp .sweeping (Tests.sl Tests.st fun sl => { sl with hypCur := 3 }) with ev := { id := 3 }, versions := [⟨5, 3, [], 0, false, false⟩, ⟨5, 4, [], 1, false, false⟩] } : State), 3, (.inr (by decide +kernel)), by decide +kernel⟩,
    ⟨{ Tests.la (Tests.put (scratchKey 0 0x40) [1, 2, 3] (Tests.co (Tests.home (Tests.tables 0 Tests.st)) fun k => { k with slots := [] })) fun l => { l with lr := (l.lr.set 27 0x81000).set 26 (0x48 * 2 ^ 32 + 0x40), cut := { number := 7, inProgress := true, waiting := [0, 5] } } with poison := [scratchKey 0 0x40 / 64] }, 0, 0, 0, Tests.l0 ({ Tests.la (Tests.put (scratchKey 0 0x40) [1, 2, 3] (Tests.co (Tests.home (Tests.tables 0 Tests.st)) fun k => { k with slots := [] })) fun l => { l with lr := (l.lr.set 27 0x81000).set 26 (0x48 * 2 ^ 32 + 0x40), cut := { number := 7, inProgress := true, waiting := [0, 5] } } with poison := [scratchKey 0 0x40 / 64] } : State), (publishPoison ({ Tests.la (Tests.put (scratchKey 0 0x40) [1, 2, 3] (Tests.co (Tests.home (Tests.tables 0 Tests.st)) fun k => { k with slots := [] })) fun l => { l with lr := (l.lr.set 27 0x81000).set 26 (0x48 * 2 ^ 32 + 0x40), cut := { number := 7, inProgress := true, waiting := [0, 5] } } with poison := [scratchKey 0 0x40 / 64] } : State) 0 0).getD 0, by decide +kernel⟩,
    ⟨Tests.la (Tests.put (scratchKey 0 0x40) [1, 2, 3] (Tests.co (Tests.home (Tests.tables 0 Tests.st)) fun k => { k with slots := [] })) fun l => { l with lr := (l.lr.set 27 0x81000).set 26 (0x48 * 2 ^ 32 + 0x40), cut := { number := 7, inProgress := true, waiting := [0, 5] } }, 0, 0, 0, Tests.l0 (Tests.la (Tests.put (scratchKey 0 0x40) [1, 2, 3] (Tests.co (Tests.home (Tests.tables 0 Tests.st)) fun k => { k with slots := [] })) fun l => { l with lr := (l.lr.set 27 0x81000).set 26 (0x48 * 2 ^ 32 + 0x40), cut := { number := 7, inProgress := true, waiting := [0, 5] } } : State), 0x81040, publishBytes (Tests.la (Tests.put (scratchKey 0 0x40) [1, 2, 3] (Tests.co (Tests.home (Tests.tables 0 Tests.st)) fun k => { k with slots := [] })) fun l => { l with lr := (l.lr.set 27 0x81000).set 26 (0x48 * 2 ^ 32 + 0x40), cut := { number := 7, inProgress := true, waiting := [0, 5] } } : State) 0 0, (partWrite (Tests.la (Tests.put (scratchKey 0 0x40) [1, 2, 3] (Tests.co (Tests.home (Tests.tables 0 Tests.st)) fun k => { k with slots := [] })) fun l => { l with lr := (l.lr.set 27 0x81000).set 26 (0x48 * 2 ^ 32 + 0x40), cut := { number := 7, inProgress := true, waiting := [0, 5] } } : State) 0 (0x81040) (publishBytes (Tests.la (Tests.put (scratchKey 0 0x40) [1, 2, 3] (Tests.co (Tests.home (Tests.tables 0 Tests.st)) fun k => { k with slots := [] })) fun l => { l with lr := (l.lr.set 27 0x81000).set 26 (0x48 * 2 ^ 32 + 0x40), cut := { number := 7, inProgress := true, waiting := [0, 5] } } : State) 0 0)).getD (Tests.la (Tests.put (scratchKey 0 0x40) [1, 2, 3] (Tests.co (Tests.home (Tests.tables 0 Tests.st)) fun k => { k with slots := [] })) fun l => { l with lr := (l.lr.set 27 0x81000).set 26 (0x48 * 2 ^ 32 + 0x40), cut := { number := 7, inProgress := true, waiting := [0, 5] } } : State), by decide +kernel⟩,
    ⟨Tests.la (Tests.put (scratchKey 0 0x40) [1, 2, 3] (Tests.co (Tests.home (Tests.tables 0 Tests.st)) fun k => { k with slots := [] })) fun l => { l with lr := (l.lr.set 27 0x81000).set 26 (0x48 * 2 ^ 32 + 0x40), cut := { number := 7, inProgress := true, waiting := [] } }, 0, 0, 0, Tests.l0 (Tests.la (Tests.put (scratchKey 0 0x40) [1, 2, 3] (Tests.co (Tests.home (Tests.tables 0 Tests.st)) fun k => { k with slots := [] })) fun l => { l with lr := (l.lr.set 27 0x81000).set 26 (0x48 * 2 ^ 32 + 0x40), cut := { number := 7, inProgress := true, waiting := [] } } : State), leBytes 7 8, (partWrite (Tests.la (Tests.put (scratchKey 0 0x40) [1, 2, 3] (Tests.co (Tests.home (Tests.tables 0 Tests.st)) fun k => { k with slots := [] })) fun l => { l with lr := (l.lr.set 27 0x81000).set 26 (0x48 * 2 ^ 32 + 0x40), cut := { number := 7, inProgress := true, waiting := [] } } : State) 0 0x81000 (leBytes 7 8)).getD (Tests.la (Tests.put (scratchKey 0 0x40) [1, 2, 3] (Tests.co (Tests.home (Tests.tables 0 Tests.st)) fun k => { k with slots := [] })) fun l => { l with lr := (l.lr.set 27 0x81000).set 26 (0x48 * 2 ^ 32 + 0x40), cut := { number := 7, inProgress := true, waiting := [] } } : State), by decide +kernel⟩,
    ⟨Tests.la (Tests.put (scratchKey 0 0x40) [1, 2, 3] (Tests.co (Tests.home (Tests.tables 0 Tests.st)) fun k => { k with slots := [] })) fun l => { l with lr := (l.lr.set 27 0x81000).set 26 (0x48 * 2 ^ 32 + 0x40), cut := { number := 7, inProgress := true, waiting := [] } }, 0, 0, 0, Tests.l0 (Tests.la (Tests.put (scratchKey 0 0x40) [1, 2, 3] (Tests.co (Tests.home (Tests.tables 0 Tests.st)) fun k => { k with slots := [] })) fun l => { l with lr := (l.lr.set 27 0x81000).set 26 (0x48 * 2 ^ 32 + 0x40), cut := { number := 7, inProgress := true, waiting := [] } } : State), ({ window := 0, core := 0, slot := 0, launch := 0, kind := .cutDone 0 true } : Announcement), true, by decide +kernel⟩⟩

/-- Hypotheses of `Obligations.ContextEvents`, its part EventTasks are met. -/
theorem witness_ContextEvents_EventTasks_2 :
    (∃ (s : State), ∃ (c : Nat), ∃ (k : Nat), ∃ (l : Nat), ∃ (x : Launch), ∃ (b : Barrier), s.ev.core = c ∧ s.ev.slot = k ∧ s.ev.launch = l ∧ s.launch? l = some x ∧ tget x.barriers s.ev.id = some b ∧ s.ev.n ≤ b.gen) ∧
    (∃ (s : State), ∃ (c : Nat), ∃ (k : Nat), ∃ (l : Nat), ∃ (x : Launch), ∃ (b : Barrier), s.ev.core = c ∧ s.ev.slot = k ∧ s.ev.launch = l ∧ s.launch? l = some x ∧ tget x.barriers s.ev.id = some b ∧ s.ev.n ≤ b.gen) :=
  ⟨⟨Tests.evt { launch := 0, id := 0x30000, n := 5 } (Tests.ranks [(0x30000, { n := 2, level := 0, gen := 5, released := 3, members := [(0, 0, some 5)] })] Tests.st), 0, 0, 0, Tests.l0 (Tests.evt { launch := 0, id := 0x30000, n := 5 } (Tests.ranks [(0x30000, { n := 2, level := 0, gen := 5, released := 3, members := [(0, 0, some 5)] })] Tests.st) : State), { n := 2, level := 0, gen := 5, released := 3, members := [(0, 0, some 5)] }, by decide +kernel⟩,
    ⟨Tests.evt { launch := 0, id := 0x30000, n := 2 } (Tests.ranks [(0x30000, { n := 2, level := 0, gen := 5, released := 3, members := [(0, 0, some 5)] })] Tests.st), 0, 0, 0, Tests.l0 (Tests.evt { launch := 0, id := 0x30000, n := 2 } (Tests.ranks [(0x30000, { n := 2, level := 0, gen := 5, released := 3, members := [(0, 0, some 5)] })] Tests.st) : State), { n := 2, level := 0, gen := 5, released := 3, members := [(0, 0, some 5)] }, by decide +kernel⟩⟩

/-- Hypotheses of `Obligations.EngineEvents`, its part EventLanes are met. -/
theorem witness_EngineEvents_EventLanes :
    (∃ (s : State), ∃ (h : Nat), ∃ (c : Nat), s.ev.hearth = h ∧ s.ev.core = c ∧ s.cycle < (s.hearth h).nextBind) ∧
    (∃ (s : State), ∃ (h : Nat), ∃ (c : Nat), ∃ (p : Nat), ∃ (op : LaneOp), ∃ (rest : List LaneOp), s.ev.hearth = h ∧ s.ev.core = c ∧ (s.hearth h).nextBind ≤ s.cycle ∧ (c, p) ∈ passes s h ∧ (∀ q, q ∈ passes s h → p ≤ q.2) ∧ (∀ q, q ∈ passes s h → q.1 < c → p < q.2) ∧ (s.core c).lanes = op :: rest ∧ (∀ j, j < 8 → ∀ o ∈ (s.core (8 * h + j)).lanes, o.unformed = none) ∧ headBusy (s.core c) op = false ∧ op.groups ≤ 8 - boundGroups s h) ∧
    (∃ (s : State), ∃ (h : Nat), ∃ (c : Nat), ∃ (p : Nat), ∃ (op : LaneOp), ∃ (rest : List LaneOp), s.ev.hearth = h ∧ s.ev.core = c ∧ (s.hearth h).nextBind ≤ s.cycle ∧ (c, p) ∈ passes s h ∧ (∀ q, q ∈ passes s h → p ≤ q.2) ∧ (∀ q, q ∈ passes s h → q.1 < c → p < q.2) ∧ (s.core c).lanes = op :: rest ∧ (∀ j, j < 8 → ∀ o ∈ (s.core (8 * h + j)).lanes, o.unformed = none) ∧ headBusy (s.core c) op = false ∧ op.groups ≤ 8 - boundGroups s h) ∧
    (∃ (s : State), ∃ (h : Nat), ∃ (c : Nat), ∃ (p : Nat), ∃ (op : LaneOp), ∃ (rest : List LaneOp), s.ev.hearth = h ∧ s.ev.core = c ∧ (s.hearth h).nextBind ≤ s.cycle ∧ (c, p) ∈ passes s h ∧ (∀ q, q ∈ passes s h → p ≤ q.2) ∧ (∀ q, q ∈ passes s h → q.1 < c → p < q.2) ∧ (s.core c).lanes = op :: rest ∧ (∀ j, j < 8 → ∀ o ∈ (s.core (8 * h + j)).lanes, o.unformed = none) ∧ headBusy (s.core c) op = false ∧ 8 - boundGroups s h < op.groups) ∧
    (∃ (s : State), ∃ (h : Nat), ∃ (c : Nat), ∃ (b : Bound), s.ev.hearth = h ∧ s.ev.core = c ∧ (s.core c).bound = [b] ∧ s.cycle < b.until_) ∧
    (∃ (s : State), ∃ (h : Nat), ∃ (c : Nat), ∃ (b : Bound), s.ev.hearth = h ∧ s.ev.core = c ∧ (s.core c).bound = [b] ∧ b.until_ ≤ s.cycle) ∧
    (∃ (s : State), ∃ (h : Nat), ∃ (c : Nat), ∃ (b : Bound), s.ev.hearth = h ∧ s.ev.core = c ∧ (s.core c).bound = [b] ∧ b.until_ ≤ s.cycle) ∧
    (∃ (s : State), ∃ (h : Nat), ∃ (c : Nat), ∃ (b : Bound), s.ev.hearth = h ∧ s.ev.core = c ∧ (s.core c).bound = [b] ∧ b.until_ ≤ s.cycle) ∧
    (∃ (s : State), ∃ (h : Nat), ∃ (c : Nat), ∃ (o : LaneOp), ∃ (r : Nat), ∃ (st : Bool), s.ev.hearth = h ∧ s.ev.core = c ∧ (s.core c).transfers = [o] ∧ o.slot = s.ev.slot ∧ o.transfer = some (r, st) ∧ let pending := fun (r : Nat) (st : Bool) => if st then elemsUnperformed s c o.slot o.upto else elemsOutstanding s c o.slot r; pending r st = true) ∧
    (∃ (s : State), ∃ (h : Nat), ∃ (c : Nat), ∃ (o : LaneOp), ∃ (r : Nat), ∃ (st : Bool), s.ev.hearth = h ∧ s.ev.core = c ∧ (s.core c).transfers = [o] ∧ o.slot = s.ev.slot ∧ o.transfer = some (r, st) ∧ let pending := fun (r : Nat) (st : Bool) => if st then elemsUnperformed s c o.slot o.upto else elemsOutstanding s c o.slot r; pending r st = true) ∧
    (∃ (s : State), ∃ (h : Nat), ∃ (c : Nat), ∃ (p : Nat), ∃ (op : LaneOp), ∃ (rest : List LaneOp), s.ev.hearth = h ∧ s.ev.core = c ∧ (s.hearth h).nextBind ≤ s.cycle ∧ (c, p) ∈ passes s h ∧ (∀ q, q ∈ passes s h → p ≤ q.2) ∧ (∀ q, q ∈ passes s h → q.1 < c → p < q.2) ∧ (s.core c).lanes = op :: rest ∧ (∀ j, j < 8 → ∀ o ∈ (s.core (8 * h + j)).lanes, o.unformed = none) ∧ headBusy (s.core c) op = true ∧ passes s h = [(c, p)]) ∧
    (∃ (s : State), ∃ (h : Nat), ∃ (c : Nat), ∃ (o : LaneOp), ∃ (r : Nat), ∃ (st : Bool), s.ev.hearth = h ∧ s.ev.core = c ∧ (s.core c).transfers = [o] ∧ o.slot = s.ev.slot ∧ o.transfer = some (r, st) ∧ let pending := fun (r : Nat) (st : Bool) => if st then elemsUnperformed s c o.slot o.upto else elemsOutstanding s c o.slot r; pending r st = false) ∧
    (∃ (s : State), ∃ (h : Nat), ∃ (c : Nat), ∃ (o : LaneOp), ∃ (r : Nat), ∃ (st : Bool), s.ev.hearth = h ∧ s.ev.core = c ∧ (s.core c).transfers = [o] ∧ o.slot = s.ev.slot ∧ o.transfer = some (r, st) ∧ let pending := fun (r : Nat) (st : Bool) => if st then elemsUnperformed s c o.slot o.upto else elemsOutstanding s c o.slot r; pending r st = false) :=
  ⟨⟨(Tests.st).modHearth 0 fun h => { h with nextBind := 9 }, 0, 0, by decide +kernel⟩,
    ⟨Tests.co (Tests.st) fun k => { k with lanes := [({ slot := 0, groups := 2, cycles := 4 } : LaneOp)], pass := 7 }, 0, 0, 7, ({ slot := 0, groups := 2, cycles := 4 } : LaneOp), [], by decide +kernel⟩,
    ⟨Tests.co (Tests.st.setCore 1 { lanes := [({ slot := 0, groups := 2, cycles := 4 } : LaneOp)], pass := 7 }) fun k => { k with lanes := [({ slot := 0, groups := 2, cycles := 4 } : LaneOp)], pass := 7 }, 0, 0, 7, ({ slot := 0, groups := 2, cycles := 4 } : LaneOp), [], by decide +kernel⟩,
    ⟨Tests.co (Tests.st.setCore 1 { bound := [⟨{ slot := 0, groups := 7, cycles := 4 }, 9⟩], pass := 3 }) fun k => { k with lanes := [({ slot := 0, groups := 2, cycles := 4 } : LaneOp)], pass := 7 }, 0, 0, 7, ({ slot := 0, groups := 2, cycles := 4 } : LaneOp), [], by decide +kernel⟩,
    ⟨{ Tests.co Tests.st fun k => { k with bound := [⟨({ slot := 0, groups := 2, cycles := 4 } : LaneOp), 9⟩] } with cycle := 5 }, 0, 0, ⟨({ slot := 0, groups := 2, cycles := 4 } : LaneOp), 9⟩, by decide +kernel⟩,
    ⟨{ Tests.co Tests.st fun k => { k with bound := [⟨({ slot := 0, groups := 2, cycles := 4, flags := 5 } : LaneOp), 9⟩] } with cycle := 9 }, 0, 0, ⟨({ slot := 0, groups := 2, cycles := 4, flags := 5 } : LaneOp), 9⟩, by decide +kernel⟩,
    ⟨{ Tests.co Tests.st fun k => { k with bound := [⟨({ slot := 0, groups := 2, cycles := 4, flags := 5, transfer := some (3, false) } : LaneOp), 9⟩] } with cycle := 9 }, 0, 0, ⟨({ slot := 0, groups := 2, cycles := 4, flags := 5, transfer := some (3, false) } : LaneOp), 9⟩, by decide +kernel⟩,
    ⟨{ Tests.co Tests.st fun k => { k with bound := [⟨({ slot := 0, groups := 2, cycles := 4, transfer := some (3, true) } : LaneOp), 9⟩] } with cycle := 9 }, 0, 0, ⟨({ slot := 0, groups := 2, cycles := 4, transfer := some (3, true) } : LaneOp), 9⟩, by decide +kernel⟩,
    ⟨Tests.co (Tests.access (Tests.remote (.vload 3 1) 0x10100 4 .sent) Tests.st) fun k => { k with transfers := [({ slot := 0, groups := 2, cycles := 4, transfer := some (3, false) } : LaneOp)] }, 0, 0, ({ slot := 0, groups := 2, cycles := 4, transfer := some (3, false) } : LaneOp), 3, false, by decide +kernel⟩,
    ⟨Tests.co (Tests.access { (Tests.remote (.store 0) 0x10100 4 .sent) with vector := true } Tests.st) fun k => { k with transfers := [{ ({ slot := 0, groups := 2, cycles := 4, transfer := some (3, true) } : LaneOp) with upto := 9 }] }, 0, 0, { ({ slot := 0, groups := 2, cycles := 4, transfer := some (3, true) } : LaneOp) with upto := 9 }, 3, true, by decide +kernel⟩,
    ⟨Tests.co (Tests.st) fun k => { k with lanes := [{ ({ slot := 0, groups := 2, cycles := 4 } : LaneOp) with reads := [3] }], transfers := [({ slot := 0, groups := 2, cycles := 4, transfer := some (3, false) } : LaneOp)], pass := 7 }, 0, 0, 7, { ({ slot := 0, groups := 2, cycles := 4 } : LaneOp) with reads := [3] }, [], by decide +kernel⟩,
    ⟨Tests.co (Tests.st) fun k => { k with transfers := [({ slot := 0, groups := 2, cycles := 4, transfer := some (3, false) } : LaneOp)] }, 0, 0, ({ slot := 0, groups := 2, cycles := 4, transfer := some (3, false) } : LaneOp), 3, false, by decide +kernel⟩,
    ⟨Tests.co (Tests.st) fun k => { k with transfers := [({ slot := 0, groups := 2, cycles := 4, transfer := some (3, true) } : LaneOp)] }, 0, 0, ({ slot := 0, groups := 2, cycles := 4, transfer := some (3, true) } : LaneOp), 3, true, by decide +kernel⟩⟩

/-- Hypotheses of `Obligations.EngineEvents`, its part EventAnvil are met. -/
theorem witness_EngineEvents_EventAnvil :
    (∃ (s : State), ∃ (h : Nat), ∃ (c : Nat), ∃ (k : Nat), ∃ (j : Nat), ∃ (rest : List Nat), ∃ (i : Instr), ∃ (u : State), issue { s with cur := (c, k) } = .run i u ∧ s.ev.core = c ∧ s.ev.slot = k ∧ c / 8 = h ∧ j < 8 ∧ c = 8 * h + ((s.hearth h).portLast + 1 + j) % 8 ∧ (∀ e, e < j → (s.core (8 * h + ((s.hearth h).portLast + 1 + e) % 8)).waitingPort = []) ∧ (s.core c).waitingPort = k :: rest ∧ s.ev.hearth = h ∧ s.cycle < (s.hearth h).nextAccept) ∧
    (∃ (s : State), ∃ (h : Nat), ∃ (c : Nat), ∃ (k : Nat), ∃ (j : Nat), ∃ (rest : List Nat), ∃ (i : Instr), ∃ (u : State), issue { s with cur := (c, k) } = .run i u ∧ s.ev.core = c ∧ s.ev.slot = k ∧ c / 8 = h ∧ j < 8 ∧ c = 8 * h + ((s.hearth h).portLast + 1 + j) % 8 ∧ (∀ e, e < j → (s.core (8 * h + ((s.hearth h).portLast + 1 + e) % 8)).waitingPort = []) ∧ (s.core c).waitingPort = k :: rest ∧ s.ev.hearth = h ∧ (s.hearth h).nextAccept ≤ s.cycle) ∧
    (∃ (s : State), ∃ (h : Nat), ∃ (c : Nat), ∃ (k : Nat), ∃ (j : Nat), ∃ (rest : List Nat), ∃ (i : Instr), ∃ (u : State), issue { s with cur := (c, k) } = .run i u ∧ s.ev.core = c ∧ s.ev.slot = k ∧ c / 8 = h ∧ j < 8 ∧ c = 8 * h + ((s.hearth h).portLast + 1 + j) % 8 ∧ (∀ e, e < j → (s.core (8 * h + ((s.hearth h).portLast + 1 + e) % 8)).waitingPort = []) ∧ (s.core c).waitingPort = k :: rest ∧ s.ev.hearth = h ∧ (s.hearth h).nextAccept ≤ s.cycle) ∧
    (∃ (s : State), ∃ (h : Nat), ∃ (c : Nat), ∃ (k : Nat), ∃ (j : Nat), ∃ (rest : List Nat), ∃ (i : Instr), ∃ (u : State), issue { s with cur := (c, k) } = .run i u ∧ s.ev.core = c ∧ s.ev.slot = k ∧ c / 8 = h ∧ j < 8 ∧ c = 8 * h + ((s.hearth h).portLast + 1 + j) % 8 ∧ (∀ e, e < j → (s.core (8 * h + ((s.hearth h).portLast + 1 + e) % 8)).waitingPort = []) ∧ (s.core c).waitingPort = k :: rest ∧ s.ev.hearth = h ∧ (s.hearth h).nextAccept ≤ s.cycle) ∧
    (∃ (s : State), ∃ (h : Nat), ∃ (c : Nat), ∃ (k : Nat), ∃ (j : Nat), ∃ (rest : List Nat), ∃ (i : Instr), ∃ (u : State), issue { s with cur := (c, k) } = .run i u ∧ s.ev.core = c ∧ s.ev.slot = k ∧ c / 8 = h ∧ j < 8 ∧ c = 8 * h + ((s.hearth h).portLast + 1 + j) % 8 ∧ (∀ e, e < j → (s.core (8 * h + ((s.hearth h).portLast + 1 + e) % 8)).waitingPort = []) ∧ (s.core c).waitingPort = k :: rest ∧ s.ev.hearth = h ∧ (s.hearth h).nextAccept ≤ s.cycle) ∧
    (∃ (s : State), ∃ (h : Nat), ∃ (c : Nat), ∃ (k : Nat), ∃ (j : Nat), ∃ (rest : List Nat), ∃ (i : Instr), ∃ (u : State), issue { s with cur := (c, k) } = .run i u ∧ s.ev.core = c ∧ s.ev.slot = k ∧ c / 8 = h ∧ j < 8 ∧ c = 8 * h + ((s.hearth h).portLast + 1 + j) % 8 ∧ (∀ e, e < j → (s.core (8 * h + ((s.hearth h).portLast + 1 + e) % 8)).waitingPort = []) ∧ (s.core c).waitingPort = k :: rest ∧ s.ev.hearth = h ∧ (s.hearth h).nextAccept ≤ s.cycle) ∧
    (∃ (s : State), ∃ (h : Nat), ∃ (c : Nat), ∃ (k : Nat), ∃ (j : Nat), ∃ (rest : List Nat), ∃ (i : Instr), ∃ (u : State), issue { s with cur := (c, k) } = .run i u ∧ s.ev.core = c ∧ s.ev.slot = k ∧ c / 8 = h ∧ j < 8 ∧ c = 8 * h + ((s.hearth h).portLast + 1 + j) % 8 ∧ (∀ e, e < j → (s.core (8 * h + ((s.hearth h).portLast + 1 + e) % 8)).waitingPort = []) ∧ (s.core c).waitingPort = k :: rest ∧ s.ev.hearth = h ∧ (s.hearth h).nextAccept ≤ s.cycle) ∧
    (∃ (s : State), ∃ (h : Nat), ∃ (c : Nat), ∃ (k : Nat), ∃ (j : Nat), ∃ (rest : List Nat), ∃ (i : Instr), ∃ (u : State), ∃ (acc : Fin 16), ∃ (single : Bool), ∃ (fmt : Nat), issue { s with cur := (c, k) } = .run i u ∧ s.ev.core = c ∧ s.ev.slot = k ∧ c / 8 = h ∧ j < 8 ∧ c = 8 * h + ((s.hearth h).portLast + 1 + j) % 8 ∧ (∀ e, e < j → (s.core (8 * h + ((s.hearth h).portLast + 1 + e) % 8)).waitingPort = []) ∧ (s.core c).waitingPort = k :: rest ∧ s.ev.hearth = h ∧ (s.hearth h).nextAccept ≤ s.cycle ∧ i = .azero acc single ∧ fmt = (if single then 1 else 0) ∧ u.tilesReady acc.val fmt = true ∧ u.slot.owed.any (·.lda) = false ∧ u.tiles.length = 16) ∧
    (∃ (s : State), ∃ (h : Nat), ∃ (c : Nat), ∃ (k : Nat), ∃ (j : Nat), ∃ (rest : List Nat), ∃ (i : Instr), ∃ (u : State), ∃ (acc : Fin 16), ∃ (ra : Fin 16), ∃ (rb : Fin 16), ∃ (mode : BitVec 4), ∃ (zp : Bool), ∃ (pop : BitVec 2), ∃ (x : Ring), ∃ (y : Ring), ∃ (el : List (Nat × Nat)), issue { s with cur := (c, k) } = .run i u ∧ (∀ e ∈ el, u.slot.traps e.2 = false) ∧ s.ev.core = c ∧ s.ev.slot = k ∧ c / 8 = h ∧ j < 8 ∧ c = 8 * h + ((s.hearth h).portLast + 1 + j) % 8 ∧ (∀ e, e < j → (s.core (8 * h + ((s.hearth h).portLast + 1 + e) % 8)).waitingPort = []) ∧ (s.core c).waitingPort = k :: rest ∧ s.ev.hearth = h ∧ (s.hearth h).nextAccept ≤ s.cycle ∧ i = .amm acc ra rb mode zp pop ∧ u.ring? h ra.val = some x ∧ u.ring? h rb.val = some y ∧ x.mode = mode.toNat ∧ y.mode = mode.toNat ∧ (4 ≤ mode.toNat → x.group = y.group) ∧ ownsTile u u.slot.launch c acc.val = true ∧ (mode = 0 → ownsTile u u.slot.launch c (acc.val + 1) = true) ∧ ammWaits u acc.val mode.toNat ra.val rb.val u.slot.fpTraps = none ∧ u.slot.owed.any (·.lda) = false ∧ u.tiles.length = 16 ∧ el = ammElems u.mem u.tiles u.slot.fpEnv (u.slot.fmtMode.getLsbD 0) zp acc.val x y ∧ ra ≠ rb) ∧
    (∃ (s : State), ∃ (h : Nat), ∃ (c : Nat), ∃ (k : Nat), ∃ (o : AnvilOp), ∃ (e : Instr), s.ev.core = c ∧ s.ev.slot = k ∧ c / 8 = h ∧ (s.hearth h).ops.find? (fun o => o.core == c) = some o ∧ o.slot = k ∧ e = (if o.isAmm then Instr.ammRetire else .anvilOperationRetire) ∧ s.cycle < o.retireAt) ∧
    (∃ (s : State), ∃ (h : Nat), ∃ (c : Nat), ∃ (k : Nat), ∃ (o : AnvilOp), ∃ (e : Instr), s.ev.core = c ∧ s.ev.slot = k ∧ c / 8 = h ∧ (s.hearth h).ops.find? (fun o => o.core == c) = some o ∧ o.slot = k ∧ e = (if o.isAmm then Instr.ammRetire else .anvilOperationRetire) ∧ o.retireAt ≤ s.cycle ∧ storing s o = false ∧ (s.slotAt c k).goesOn = true) ∧
    (∃ (s : State), ∃ (h : Nat), ∃ (c : Nat), ∃ (k : Nat), ∃ (o : AnvilOp), ∃ (e : Instr), s.ev.core = c ∧ s.ev.slot = k ∧ c / 8 = h ∧ (s.hearth h).ops.find? (fun o => o.core == c) = some o ∧ o.slot = k ∧ e = (if o.isAmm then Instr.ammRetire else .anvilOperationRetire) ∧ s.cycle < o.retireAt) ∧
    (∃ (s : State), ∃ (h : Nat), ∃ (c : Nat), ∃ (k : Nat), ∃ (o : AnvilOp), ∃ (e : Instr), s.ev.core = c ∧ s.ev.slot = k ∧ c / 8 = h ∧ (s.hearth h).ops.find? (fun o => o.core == c) = some o ∧ o.slot = k ∧ e = (if o.isAmm then Instr.ammRetire else .anvilOperationRetire) ∧ o.retireAt ≤ s.cycle ∧ storing s o = false ∧ (s.slotAt c k).goesOn = true) ∧
    (∃ (s : State), ∃ (h : Nat), ∃ (c : Nat), ∃ (k : Nat), ∃ (o : AnvilOp), ∃ (e : Instr), s.ev.core = c ∧ s.ev.slot = k ∧ c / 8 = h ∧ (s.hearth h).ops.find? (fun o => o.core == c) = some o ∧ o.slot = k ∧ e = (if o.isAmm then Instr.ammRetire else .anvilOperationRetire) ∧ storing s o = true) :=
  ⟨⟨{ { Tests.co (Tests.sl (Tests.anvil 2 (Tests.reg 0 Tests.own (Tests.at (((encode (.amm 0 1 2 2 false 1)).getD 0 0) + 2 ^ 16 * ((encode (.amm 0 1 2 2 false 1)).getD 1 0))))) fun sl => { sl with atPort := true }) fun k => { k with port := [0] } with ev := {} } with cycle := 0, hearths := [(0, { (({ Tests.co (Tests.sl (Tests.anvil 2 (Tests.reg 0 Tests.own (Tests.at (((encode (.amm 0 1 2 2 false 1)).getD 0 0) + 2 ^ 16 * ((encode (.amm 0 1 2 2 false 1)).getD 1 0))))) fun sl => { sl with atPort := true }) fun k => { k with port := [0] } with ev := {} }).hearth 0) with nextAccept := 9 })] }, 0, 0, 0, 0, [], .amm 0 1 2 2 false 1, (match issue { ({ { Tests.co (Tests.sl (Tests.anvil 2 (Tests.reg 0 Tests.own (Tests.at (((encode (.amm 0 1 2 2 false 1)).getD 0 0) + 2 ^ 16 * ((encode (.amm 0 1 2 2 false 1)).getD 1 0))))) fun sl => { sl with atPort := true }) fun k => { k with port := [0] } with ev := {} } with cycle := 0, hearths := [(0, { (({ Tests.co (Tests.sl (Tests.anvil 2 (Tests.reg 0 Tests.own (Tests.at (((encode (.amm 0 1 2 2 false 1)).getD 0 0) + 2 ^ 16 * ((encode (.amm 0 1 2 2 false 1)).getD 1 0))))) fun sl => { sl with atPort := true }) fun k => { k with port := [0] } with ev := {} }).hearth 0) with nextAccept := 9 })] } : State) with cur := (0, 0) } with | .run _ u => u | _ => ({ { Tests.co (Tests.sl (Tests.anvil 2 (Tests.reg 0 Tests.own (Tests.at (((encode (.amm 0 1 2 2 false 1)).getD 0 0) + 2 ^ 16 * ((encode (.amm 0 1 2 2 false 1)).getD 1 0))))) fun sl => { sl with atPort := true }) fun k => { k with port := [0] } with ev := {} } with cycle := 0, hearths := [(0, { (({ Tests.co (Tests.sl (Tests.anvil 2 (Tests.reg 0 Tests.own (Tests.at (((encode (.amm 0 1 2 2 false 1)).getD 0 0) + 2 ^ 16 * ((encode (.amm 0 1 2 2 false 1)).getD 1 0))))) fun sl => { sl with atPort := true }) fun k => { k with port := [0] } with ev := {} }).hearth 0) with nextAccept := 9 })] } : State)), (Tests.runs (s := ({ { Tests.co (Tests.sl (Tests.anvil 2 (Tests.reg 0 Tests.own (Tests.at (((encode (.amm 0 1 2 2 false 1)).getD 0 0) + 2 ^ 16 * ((encode (.amm 0 1 2 2 false 1)).getD 1 0))))) fun sl => { sl with atPort := true }) fun k => { k with port := [0] } with ev := {} } with cycle := 0, hearths := [(0, { (({ Tests.co (Tests.sl (Tests.anvil 2 (Tests.reg 0 Tests.own (Tests.at (((encode (.amm 0 1 2 2 false 1)).getD 0 0) + 2 ^ 16 * ((encode (.amm 0 1 2 2 false 1)).getD 1 0))))) fun sl => { sl with atPort := true }) fun k => { k with port := [0] } with ev := {} }).hearth 0) with nextAccept := 9 })] } : State)) _ (by decide +kernel)), by decide +kernel⟩,
    ⟨{ Tests.co (Tests.sl (Tests.anvil 2 (Tests.reg 0 Tests.own (Tests.at (((encode (.amm 0 1 2 2 false 1)).getD 0 0) + 2 ^ 16 * ((encode (.amm 0 1 2 2 false 1)).getD 1 0))))) fun sl => { sl with atPort := true }) fun k => { k with port := [0] } with ev := {} }, 0, 0, 0, 0, [], .amm 0 1 2 2 false 1, (match issue { ({ Tests.co (Tests.sl (Tests.anvil 2 (Tests.reg 0 Tests.own (Tests.at (((encode (.amm 0 1 2 2 false 1)).getD 0 0) + 2 ^ 16 * ((encode (.amm 0 1 2 2 false 1)).getD 1 0))))) fun sl => { sl with atPort := true }) fun k => { k with port := [0] } with ev := {} } : State) with cur := (0, 0) } with | .run _ u => u | _ => ({ Tests.co (Tests.sl (Tests.anvil 2 (Tests.reg 0 Tests.own (Tests.at (((encode (.amm 0 1 2 2 false 1)).getD 0 0) + 2 ^ 16 * ((encode (.amm 0 1 2 2 false 1)).getD 1 0))))) fun sl => { sl with atPort := true }) fun k => { k with port := [0] } with ev := {} } : State)), (Tests.runs (s := ({ Tests.co (Tests.sl (Tests.anvil 2 (Tests.reg 0 Tests.own (Tests.at (((encode (.amm 0 1 2 2 false 1)).getD 0 0) + 2 ^ 16 * ((encode (.amm 0 1 2 2 false 1)).getD 1 0))))) fun sl => { sl with atPort := true }) fun k => { k with port := [0] } with ev := {} } : State)) _ (by decide +kernel)), by decide +kernel⟩,
    ⟨{ Tests.co (Tests.sl (Tests.anvil 2 (Tests.reg 0 Tests.own (Tests.at (((encode (.azero 0 false)).getD 0 0) + 2 ^ 16 * ((encode (.azero 0 false)).getD 1 0))))) fun sl => { sl with atPort := true }) fun k => { k with port := [0] } with ev := {} }, 0, 0, 0, 0, [], .azero 0 false, (match issue { ({ Tests.co (Tests.sl (Tests.anvil 2 (Tests.reg 0 Tests.own (Tests.at (((encode (.azero 0 false)).getD 0 0) + 2 ^ 16 * ((encode (.azero 0 false)).getD 1 0))))) fun sl => { sl with atPort := true }) fun k => { k with port := [0] } with ev := {} } : State) with cur := (0, 0) } with | .run _ u => u | _ => ({ Tests.co (Tests.sl (Tests.anvil 2 (Tests.reg 0 Tests.own (Tests.at (((encode (.azero 0 false)).getD 0 0) + 2 ^ 16 * ((encode (.azero 0 false)).getD 1 0))))) fun sl => { sl with atPort := true }) fun k => { k with port := [0] } with ev := {} } : State)), (Tests.runs (s := ({ Tests.co (Tests.sl (Tests.anvil 2 (Tests.reg 0 Tests.own (Tests.at (((encode (.azero 0 false)).getD 0 0) + 2 ^ 16 * ((encode (.azero 0 false)).getD 1 0))))) fun sl => { sl with atPort := true }) fun k => { k with port := [0] } with ev := {} } : State)) _ (by decide +kernel)), by decide +kernel⟩,
    ⟨{ Tests.co (Tests.sl (Tests.anvil 2 (Tests.reg 0 Tests.own (Tests.at (((encode (.ald 0 (Tests.n 0) 0)).getD 0 0) + 2 ^ 16 * ((encode (.ald 0 (Tests.n 0) 0)).getD 1 0))))) fun sl => { sl with atPort := true }) fun k => { k with port := [0] } with ev := {} }, 0, 0, 0, 0, [], .ald 0 (Tests.n 0) 0, (match issue { ({ Tests.co (Tests.sl (Tests.anvil 2 (Tests.reg 0 Tests.own (Tests.at (((encode (.ald 0 (Tests.n 0) 0)).getD 0 0) + 2 ^ 16 * ((encode (.ald 0 (Tests.n 0) 0)).getD 1 0))))) fun sl => { sl with atPort := true }) fun k => { k with port := [0] } with ev := {} } : State) with cur := (0, 0) } with | .run _ u => u | _ => ({ Tests.co (Tests.sl (Tests.anvil 2 (Tests.reg 0 Tests.own (Tests.at (((encode (.ald 0 (Tests.n 0) 0)).getD 0 0) + 2 ^ 16 * ((encode (.ald 0 (Tests.n 0) 0)).getD 1 0))))) fun sl => { sl with atPort := true }) fun k => { k with port := [0] } with ev := {} } : State)), (Tests.runs (s := ({ Tests.co (Tests.sl (Tests.anvil 2 (Tests.reg 0 Tests.own (Tests.at (((encode (.ald 0 (Tests.n 0) 0)).getD 0 0) + 2 ^ 16 * ((encode (.ald 0 (Tests.n 0) 0)).getD 1 0))))) fun sl => { sl with atPort := true }) fun k => { k with port := [0] } with ev := {} } : State)) _ (by decide +kernel)), by decide +kernel⟩,
    ⟨{ Tests.co (Tests.sl (Tests.anvil 2 (Tests.reg 0 Tests.own (Tests.at (((encode (.ast 0 (Tests.n 0) 0 .dyn)).getD 0 0) + 2 ^ 16 * ((encode (.ast 0 (Tests.n 0) 0 .dyn)).getD 1 0))))) fun sl => { sl with atPort := true }) fun k => { k with port := [0] } with ev := {} }, 0, 0, 0, 0, [], .ast 0 (Tests.n 0) 0 .dyn, (match issue { ({ Tests.co (Tests.sl (Tests.anvil 2 (Tests.reg 0 Tests.own (Tests.at (((encode (.ast 0 (Tests.n 0) 0 .dyn)).getD 0 0) + 2 ^ 16 * ((encode (.ast 0 (Tests.n 0) 0 .dyn)).getD 1 0))))) fun sl => { sl with atPort := true }) fun k => { k with port := [0] } with ev := {} } : State) with cur := (0, 0) } with | .run _ u => u | _ => ({ Tests.co (Tests.sl (Tests.anvil 2 (Tests.reg 0 Tests.own (Tests.at (((encode (.ast 0 (Tests.n 0) 0 .dyn)).getD 0 0) + 2 ^ 16 * ((encode (.ast 0 (Tests.n 0) 0 .dyn)).getD 1 0))))) fun sl => { sl with atPort := true }) fun k => { k with port := [0] } with ev := {} } : State)), (Tests.runs (s := ({ Tests.co (Tests.sl (Tests.anvil 2 (Tests.reg 0 Tests.own (Tests.at (((encode (.ast 0 (Tests.n 0) 0 .dyn)).getD 0 0) + 2 ^ 16 * ((encode (.ast 0 (Tests.n 0) 0 .dyn)).getD 1 0))))) fun sl => { sl with atPort := true }) fun k => { k with port := [0] } with ev := {} } : State)) _ (by decide +kernel)), by decide +kernel⟩,
    ⟨{ Tests.co (Tests.sl (Tests.anvil 2 (Tests.reg 0 Tests.own (Tests.at (((encode (.aadvStat (.n 3) (Tests.n 2))).getD 0 0) + 2 ^ 16 * ((encode (.aadvStat (.n 3) (Tests.n 2))).getD 1 0))))) fun sl => { sl with atPort := true }) fun k => { k with port := [0] } with ev := {} }, 0, 0, 0, 0, [], .aadvStat (.n 3) (Tests.n 2), (match issue { ({ Tests.co (Tests.sl (Tests.anvil 2 (Tests.reg 0 Tests.own (Tests.at (((encode (.aadvStat (.n 3) (Tests.n 2))).getD 0 0) + 2 ^ 16 * ((encode (.aadvStat (.n 3) (Tests.n 2))).getD 1 0))))) fun sl => { sl with atPort := true }) fun k => { k with port := [0] } with ev := {} } : State) with cur := (0, 0) } with | .run _ u => u | _ => ({ Tests.co (Tests.sl (Tests.anvil 2 (Tests.reg 0 Tests.own (Tests.at (((encode (.aadvStat (.n 3) (Tests.n 2))).getD 0 0) + 2 ^ 16 * ((encode (.aadvStat (.n 3) (Tests.n 2))).getD 1 0))))) fun sl => { sl with atPort := true }) fun k => { k with port := [0] } with ev := {} } : State)), (Tests.runs (s := ({ Tests.co (Tests.sl (Tests.anvil 2 (Tests.reg 0 Tests.own (Tests.at (((encode (.aadvStat (.n 3) (Tests.n 2))).getD 0 0) + 2 ^ 16 * ((encode (.aadvStat (.n 3) (Tests.n 2))).getD 1 0))))) fun sl => { sl with atPort := true }) fun k => { k with port := [0] } with ev := {} } : State)) _ (by decide +kernel)), by decide +kernel⟩,
    ⟨{ Tests.co (Tests.sl (Tests.anvil 2 (Tests.reg 0 Tests.own (Tests.at (((encode (.aadv (Tests.n 2) (Tests.n 2))).getD 0 0) + 2 ^ 16 * ((encode (.aadv (Tests.n 2) (Tests.n 2))).getD 1 0))))) fun sl => { sl with atPort := true }) fun k => { k with port := [0] } with ev := {} }, 0, 0, 0, 0, [], .aadv (Tests.n 2) (Tests.n 2), (match issue { ({ Tests.co (Tests.sl (Tests.anvil 2 (Tests.reg 0 Tests.own (Tests.at (((encode (.aadv (Tests.n 2) (Tests.n 2))).getD 0 0) + 2 ^ 16 * ((encode (.aadv (Tests.n 2) (Tests.n 2))).getD 1 0))))) fun sl => { sl with atPort := true }) fun k => { k with port := [0] } with ev := {} } : State) with cur := (0, 0) } with | .run _ u => u | _ => ({ Tests.co (Tests.sl (Tests.anvil 2 (Tests.reg 0 Tests.own (Tests.at (((encode (.aadv (Tests.n 2) (Tests.n 2))).getD 0 0) + 2 ^ 16 * ((encode (.aadv (Tests.n 2) (Tests.n 2))).getD 1 0))))) fun sl => { sl with atPort := true }) fun k => { k with port := [0] } with ev := {} } : State)), (Tests.runs (s := ({ Tests.co (Tests.sl (Tests.anvil 2 (Tests.reg 0 Tests.own (Tests.at (((encode (.aadv (Tests.n 2) (Tests.n 2))).getD 0 0) + 2 ^ 16 * ((encode (.aadv (Tests.n 2) (Tests.n 2))).getD 1 0))))) fun sl => { sl with atPort := true }) fun k => { k with port := [0] } with ev := {} } : State)) _ (by decide +kernel)), by decide +kernel⟩,
    ⟨{ Tests.co (Tests.sl (Tests.anvil 2 (Tests.reg 0 Tests.own (Tests.at (((encode (.azero 0 false)).getD 0 0) + 2 ^ 16 * ((encode (.azero 0 false)).getD 1 0))))) fun sl => { sl with atPort := true }) fun k => { k with port := [0] } with ev := {} }, 0, 0, 0, 0, [], .azero 0 false, (match issue { ({ Tests.co (Tests.sl (Tests.anvil 2 (Tests.reg 0 Tests.own (Tests.at (((encode (.azero 0 false)).getD 0 0) + 2 ^ 16 * ((encode (.azero 0 false)).getD 1 0))))) fun sl => { sl with atPort := true }) fun k => { k with port := [0] } with ev := {} } : State) with cur := (0, 0) } with | .run _ u => u | _ => ({ Tests.co (Tests.sl (Tests.anvil 2 (Tests.reg 0 Tests.own (Tests.at (((encode (.azero 0 false)).getD 0 0) + 2 ^ 16 * ((encode (.azero 0 false)).getD 1 0))))) fun sl => { sl with atPort := true }) fun k => { k with port := [0] } with ev := {} } : State)), 0, false, 0, (Tests.runs (s := ({ Tests.co (Tests.sl (Tests.anvil 2 (Tests.reg 0 Tests.own (Tests.at (((encode (.azero 0 false)).getD 0 0) + 2 ^ 16 * ((encode (.azero 0 false)).getD 1 0))))) fun sl => { sl with atPort := true }) fun k => { k with port := [0] } with ev := {} } : State)) _ (by decide +kernel)), by decide +kernel⟩,
    ⟨{ Tests.co (Tests.sl (Tests.anvil 2 (Tests.reg 0 Tests.own (Tests.at (((encode (.amm 0 1 2 2 false 1)).getD 0 0) + 2 ^ 16 * ((encode (.amm 0 1 2 2 false 1)).getD 1 0))))) fun sl => { sl with atPort := true }) fun k => { k with port := [0] } with ev := {} }, 0, 0, 0, 0, [], .amm 0 1 2 2 false 1, (match issue { ({ Tests.co (Tests.sl (Tests.anvil 2 (Tests.reg 0 Tests.own (Tests.at (((encode (.amm 0 1 2 2 false 1)).getD 0 0) + 2 ^ 16 * ((encode (.amm 0 1 2 2 false 1)).getD 1 0))))) fun sl => { sl with atPort := true }) fun k => { k with port := [0] } with ev := {} } : State) with cur := (0, 0) } with | .run _ u => u | _ => ({ Tests.co (Tests.sl (Tests.anvil 2 (Tests.reg 0 Tests.own (Tests.at (((encode (.amm 0 1 2 2 false 1)).getD 0 0) + 2 ^ 16 * ((encode (.amm 0 1 2 2 false 1)).getD 1 0))))) fun sl => { sl with atPort := true }) fun k => { k with port := [0] } with ev := {} } : State)), 0, 1, 2, 2, false, 1, Tests.ringOf 2, Tests.ringOf 2, ammElems (((match issue { ({ Tests.co (Tests.sl (Tests.anvil 2 (Tests.reg 0 Tests.own (Tests.at (((encode (.amm 0 1 2 2 false 1)).getD 0 0) + 2 ^ 16 * ((encode (.amm 0 1 2 2 false 1)).getD 1 0))))) fun sl => { sl with atPort := true }) fun k => { k with port := [0] } with ev := {} } : State) with cur := (0, 0) } with | .run _ u => u | _ => ({ Tests.co (Tests.sl (Tests.anvil 2 (Tests.reg 0 Tests.own (Tests.at (((encode (.amm 0 1 2 2 false 1)).getD 0 0) + 2 ^ 16 * ((encode (.amm 0 1 2 2 false 1)).getD 1 0))))) fun sl => { sl with atPort := true }) fun k => { k with port := [0] } with ev := {} } : State)))).mem (((match issue { ({ Tests.co (Tests.sl (Tests.anvil 2 (Tests.reg 0 Tests.own (Tests.at (((encode (.amm 0 1 2 2 false 1)).getD 0 0) + 2 ^ 16 * ((encode (.amm 0 1 2 2 false 1)).getD 1 0))))) fun sl => { sl with atPort := true }) fun k => { k with port := [0] } with ev := {} } : State) with cur := (0, 0) } with | .run _ u => u | _ => ({ Tests.co (Tests.sl (Tests.anvil 2 (Tests.reg 0 Tests.own (Tests.at (((encode (.amm 0 1 2 2 false 1)).getD 0 0) + 2 ^ 16 * ((encode (.amm 0 1 2 2 false 1)).getD 1 0))))) fun sl => { sl with atPort := true }) fun k => { k with port := [0] } with ev := {} } : State)))).tiles (((match issue { ({ Tests.co (Tests.sl (Tests.anvil 2 (Tests.reg 0 Tests.own (Tests.at (((encode (.amm 0 1 2 2 false 1)).getD 0 0) + 2 ^ 16 * ((encode (.amm 0 1 2 2 false 1)).getD 1 0))))) fun sl => { sl with atPort := true }) fun k => { k with port := [0] } with ev := {} } : State) with cur := (0, 0) } with | .run _ u => u | _ => ({ Tests.co (Tests.sl (Tests.anvil 2 (Tests.reg 0 Tests.own (Tests.at (((encode (.amm 0 1 2 2 false 1)).getD 0 0) + 2 ^ 16 * ((encode (.amm 0 1 2 2 false 1)).getD 1 0))))) fun sl => { sl with atPort := true }) fun k => { k with port := [0] } with ev := {} } : State)))).slot.fpEnv false false 0 (Tests.ringOf 2) (Tests.ringOf 2), (Tests.runs (s := ({ Tests.co (Tests.sl (Tests.anvil 2 (Tests.reg 0 Tests.own (Tests.at (((encode (.amm 0 1 2 2 false 1)).getD 0 0) + 2 ^ 16 * ((encode (.amm 0 1 2 2 false 1)).getD 1 0))))) fun sl => { sl with atPort := true }) fun k => { k with port := [0] } with ev := {} } : State)) _ (by decide +kernel)), (fun e _ => Tests.untrapped _ (by decide +kernel) _), by decide +kernel⟩,
    ⟨{ (Tests.stall (.anvil 0x10004) (Tests.anvil 2 (Tests.st))).modHearth 0 fun h => { h with ops := [({ core := 0, slot := 0, writes := [0], retireAt := 9, isAmm := true, pops := [1] } : AnvilOp)] } with cycle := 5 }, 0, 0, 0, ({ core := 0, slot := 0, writes := [0], retireAt := 9, isAmm := true, pops := [1] } : AnvilOp), if ((({ core := 0, slot := 0, writes := [0], retireAt := 9, isAmm := true, pops := [1] } : AnvilOp))).isAmm then Instr.ammRetire else .anvilOperationRetire, by decide +kernel⟩,
    ⟨{ (Tests.stall (.anvil 0x10004) (Tests.anvil 2 (Tests.st))).modHearth 0 fun h => { h with ops := [({ core := 0, slot := 0, writes := [0], retireAt := 9, isAmm := true, pops := [1] } : AnvilOp)] } with cycle := 9 }, 0, 0, 0, ({ core := 0, slot := 0, writes := [0], retireAt := 9, isAmm := true, pops := [1] } : AnvilOp), if ((({ core := 0, slot := 0, writes := [0], retireAt := 9, isAmm := true, pops := [1] } : AnvilOp))).isAmm then Instr.ammRetire else .anvilOperationRetire, by decide +kernel⟩,
    ⟨{ (Tests.stall (.anvil 0x10004) (Tests.anvil 2 (Tests.st))).modHearth 0 fun h => { h with ops := [({ core := 0, slot := 0, writes := [0], retireAt := 9, isAmm := false } : AnvilOp)] } with cycle := 5 }, 0, 0, 0, ({ core := 0, slot := 0, writes := [0], retireAt := 9, isAmm := false } : AnvilOp), if ((({ core := 0, slot := 0, writes := [0], retireAt := 9, isAmm := false } : AnvilOp))).isAmm then Instr.ammRetire else .anvilOperationRetire, by decide +kernel⟩,
    ⟨{ (Tests.stall (.anvil 0x10004) (Tests.anvil 2 (Tests.st))).modHearth 0 fun h => { h with ops := [({ core := 0, slot := 0, writes := [0], retireAt := 9, isAmm := false } : AnvilOp)] } with cycle := 9 }, 0, 0, 0, ({ core := 0, slot := 0, writes := [0], retireAt := 9, isAmm := false } : AnvilOp), if ((({ core := 0, slot := 0, writes := [0], retireAt := 9, isAmm := false } : AnvilOp))).isAmm then Instr.ammRetire else .anvilOperationRetire, by decide +kernel⟩,
    ⟨{ { (Tests.stall (.anvil 0x10004) (Tests.anvil 2 (Tests.st))).modHearth 0 fun h => { h with ops := [({ core := 0, slot := 0, retireAt := 0, isAmm := false, writes := [], id := 7 } : AnvilOp)] } with cycle := 9 } with remotes := [(5, { (Tests.remote (.store 0) 0x10100 8 .sent) with producer := 7 })] }, 0, 0, 0, ({ core := 0, slot := 0, retireAt := 0, isAmm := false, writes := [], id := 7 } : AnvilOp), if ((({ core := 0, slot := 0, retireAt := 0, isAmm := false, writes := [], id := 7 } : AnvilOp))).isAmm then Instr.ammRetire else .anvilOperationRetire, by decide +kernel⟩⟩

/-- Hypotheses of `Obligations.EngineEvents`, its part EventAnvil are met. -/
theorem witness_EngineEvents_EventAnvil_2 :
    (∃ (s : State), ∃ (h : Nat), ∃ (c : Nat), ∃ (k : Nat), ∃ (i : Nat), ∃ (b : SubArray), ∃ (g : Nat), s.ev.core = c ∧ s.ev.slot = k ∧ c / 8 = h ∧ s.ev.id = i ∧ i < 4 ∧ g = s.ev.hearth ∧ (s.hearth g).subs.getD i {} = b ∧ b.gated = false ∧ (s.hearth g).held.gate ≠ 0 ∧ b.lastStart + (s.hearth g).held.gate ≤ s.cycle) ∧
    (∃ (s : State), ∃ (h : Nat), ∃ (c : Nat), ∃ (k : Nat), ∃ (i : Nat), ∃ (b : SubArray), ∃ (g : Nat), (b.gated = true ∨ (s.hearth g).held.gate = 0 ∨ s.cycle < b.lastStart + (s.hearth g).held.gate) ∧ s.ev.core = c ∧ s.ev.slot = k ∧ c / 8 = h ∧ s.ev.id = i ∧ i < 4 ∧ g = s.ev.hearth ∧ (s.hearth g).subs.getD i {} = b) ∧
    (∃ (s : State), ∃ (h : Nat), ∃ (c : Nat), ∃ (k : Nat), ∃ (i : Nat), ∃ (b : SubArray), ∃ (g : Nat), (b.gated = true ∨ (s.hearth g).held.gate = 0 ∨ s.cycle < b.lastStart + (s.hearth g).held.gate) ∧ s.ev.core = c ∧ s.ev.slot = k ∧ c / 8 = h ∧ s.ev.id = i ∧ i < 4 ∧ g = s.ev.hearth ∧ (s.hearth g).subs.getD i {} = b) ∧
    (∃ (s : State), ∃ (h : Nat), ∃ (c : Nat), ∃ (k : Nat), ∃ (i : Nat), ∃ (b : SubArray), ∃ (g : Nat), (b.gated = true ∨ (s.hearth g).held.gate = 0 ∨ s.cycle < b.lastStart + (s.hearth g).held.gate) ∧ s.ev.core = c ∧ s.ev.slot = k ∧ c / 8 = h ∧ s.ev.id = i ∧ i < 4 ∧ g = s.ev.hearth ∧ (s.hearth g).subs.getD i {} = b) ∧
    (∃ (s : State), ∃ (h : Nat), ∃ (c : Nat), ∃ (k : Nat), ∃ (i : Nat), ∃ (b : SubArray), ∃ (g : Nat), ∃ (at_ : Nat), s.ev.core = c ∧ s.ev.slot = k ∧ c / 8 = h ∧ s.ev.id = i ∧ i < 4 ∧ g = s.ev.hearth ∧ (s.hearth g).subs.getD i {} = b ∧ b.waking = some at_ ∧ at_ ≤ s.cycle) ∧
    (∃ (s : State), ∃ (h : Nat), ∃ (c : Nat), ∃ (k : Nat), ∃ (g : Nat), ∃ (x : Hearth), ∃ (p : Nat), s.ev.core = c ∧ s.ev.slot = k ∧ c / 8 = h ∧ g = s.ev.hearth ∧ s.hearth g = x ∧ tokenAt s g = some p ∧ tokenWaits s g = true ∧ x.token = false) ∧
    (∃ (s : State), ∃ (h : Nat), ∃ (c : Nat), ∃ (k : Nat), ∃ (g : Nat), ∃ (x : Hearth), s.ev.core = c ∧ s.ev.slot = k ∧ c / 8 = h ∧ g = s.ev.hearth ∧ s.hearth g = x ∧ (tokenAt s g = none ∨ tokenWaits s g = false)) ∧
    (∃ (s : State), ∃ (h : Nat), ∃ (c : Nat), ∃ (k : Nat), ∃ (g : Nat), ∃ (x : Hearth), s.ev.core = c ∧ s.ev.slot = k ∧ c / 8 = h ∧ g = s.ev.hearth ∧ s.hearth g = x ∧ (tokenAt s g = none ∨ tokenWaits s g = false)) ∧
    (∃ (s : State), ∃ (h : Nat), ∃ (c : Nat), ∃ (k : Nat), ∃ (g : Nat), ∃ (x : Hearth), s.ev.core = c ∧ s.ev.slot = k ∧ c / 8 = h ∧ g = s.ev.hearth ∧ s.hearth g = x ∧ x.token = true ∧ x.tokenUsed + 256 ≤ s.cycle) ∧
    (∃ (s : State), ∃ (h : Nat), ∃ (c : Nat), ∃ (k : Nat), ∃ (g : Nat), ∃ (x : Hearth), s.ev.core = c ∧ s.ev.slot = k ∧ c / 8 = h ∧ g = s.ev.hearth ∧ s.hearth g = x ∧ x.token = true ∧ s.cycle < x.tokenUsed + 256) ∧
    (∃ (s : State), ∃ (h : Nat), ∃ (c : Nat), ∃ (k : Nat), ∃ (g : Nat), ∃ (x : Hearth), s.ev.core = c ∧ s.ev.slot = k ∧ c / 8 = h ∧ g = s.ev.hearth ∧ s.hearth g = x ∧ x.token = true ∧ x.tokenSince + 65536 ≤ s.cycle ∧ x.nextStart ≤ s.cycle ∧ otherWaits s g = true) ∧
    (∃ (s : State), ∃ (h : Nat), ∃ (c : Nat), ∃ (k : Nat), ∃ (g : Nat), ∃ (x : Hearth), s.ev.core = c ∧ s.ev.slot = k ∧ c / 8 = h ∧ g = s.ev.hearth ∧ s.hearth g = x ∧ x.token = true ∧ (s.cycle < x.tokenSince + 65536 ∨ s.cycle < x.nextStart ∨ otherWaits s g = false)) ∧
    (∃ (s : State), ∃ (h : Nat), ∃ (c : Nat), ∃ (k : Nat), ∃ (g : Nat), ∃ (x : Hearth), s.ev.core = c ∧ s.ev.slot = k ∧ c / 8 = h ∧ g = s.ev.hearth ∧ s.hearth g = x ∧ x.token = true ∧ (s.cycle < x.tokenSince + 65536 ∨ s.cycle < x.nextStart ∨ otherWaits s g = false)) :=
  ⟨⟨{ Tests.evt { hearth := 2, id := 1 } (Tests.st.modHearth 2 fun h => { h with subs := h.subs.set 1 { lastStart := 3 }, held := { h.held with gate := 4 } }) with cycle := 7 }, 0, 0, 0, 1, ((({ Tests.evt { hearth := 2, id := 1 } (Tests.st.modHearth 2 fun h => { h with subs := h.subs.set 1 { lastStart := 3 }, held := { h.held with gate := 4 } }) with cycle := 7 } : State)).hearth 2).subs.getD 1 {}, 2, by decide +kernel⟩,
    ⟨{ Tests.evt { hearth := 2, id := 1 } (Tests.st.modHearth 2 fun h => { h with subs := h.subs.set 1 { lastStart := 3, gated := true }, held := { h.held with gate := 4 } }) with cycle := 7 }, 0, 0, 0, 1, ((({ Tests.evt { hearth := 2, id := 1 } (Tests.st.modHearth 2 fun h => { h with subs := h.subs.set 1 { lastStart := 3, gated := true }, held := { h.held with gate := 4 } }) with cycle := 7 } : State)).hearth 2).subs.getD 1 {}, 2, (.inl (by decide +kernel)), by decide +kernel⟩,
    ⟨{ Tests.evt { hearth := 2, id := 1 } (Tests.st.modHearth 2 fun h => { h with subs := h.subs.set 1 { lastStart := 3 }, held := { h.held with gate := 0 } }) with cycle := 7 }, 0, 0, 0, 1, ((({ Tests.evt { hearth := 2, id := 1 } (Tests.st.modHearth 2 fun h => { h with subs := h.subs.set 1 { lastStart := 3 }, held := { h.held with gate := 0 } }) with cycle := 7 } : State)).hearth 2).subs.getD 1 {}, 2, (.inr (.inl (by decide +kernel))), by decide +kernel⟩,
    ⟨{ Tests.evt { hearth := 2, id := 1 } (Tests.st.modHearth 2 fun h => { h with subs := h.subs.set 1 { lastStart := 3 }, held := { h.held with gate := 4 } }) with cycle := 6 }, 0, 0, 0, 1, ((({ Tests.evt { hearth := 2, id := 1 } (Tests.st.modHearth 2 fun h => { h with subs := h.subs.set 1 { lastStart := 3 }, held := { h.held with gate := 4 } }) with cycle := 6 } : State)).hearth 2).subs.getD 1 {}, 2, (.inr (.inr (by decide +kernel))), by decide +kernel⟩,
    ⟨{ Tests.evt { hearth := 2, id := 1 } (Tests.st.modHearth 2 fun h => { h with subs := h.subs.set 1 { gated := true, waking := some 7 }, held := { h.held with gate := 4 } }) with cycle := 7 }, 0, 0, 0, 1, ((({ Tests.evt { hearth := 2, id := 1 } (Tests.st.modHearth 2 fun h => { h with subs := h.subs.set 1 { gated := true, waking := some 7 }, held := { h.held with gate := 4 } }) with cycle := 7 } : State)).hearth 2).subs.getD 1 {}, 2, 7, by decide +kernel⟩,
    ⟨{ Tests.evt { hearth := 2 } ((Tests.st.setCore 16 { slots := [(0, { held := true, atPort := true, wantsToken := true })] }).modHearth 2 fun h => { h with token := false }) with cycle := 25603, freeTokens := [[255, 7], [], [], []] }, 0, 0, 0, 2, (({ Tests.evt { hearth := 2 } ((Tests.st.setCore 16 { slots := [(0, { held := true, atPort := true, wantsToken := true })] }).modHearth 2 fun h => { h with token := false }) with cycle := 25603, freeTokens := [[255, 7], [], [], []] } : State)).hearth 2, 255, by decide +kernel⟩,
    ⟨{ Tests.evt { hearth := 2 } ((Tests.st.setCore 16 { slots := [(0, { held := true, atPort := true, wantsToken := true })] }).modHearth 2 fun h => { h with token := false }) with cycle := 25603, freeTokens := [[7], [], [], []] }, 0, 0, 0, 2, (({ Tests.evt { hearth := 2 } ((Tests.st.setCore 16 { slots := [(0, { held := true, atPort := true, wantsToken := true })] }).modHearth 2 fun h => { h with token := false }) with cycle := 25603, freeTokens := [[7], [], [], []] } : State)).hearth 2, by decide +kernel⟩,
    ⟨{ Tests.evt { hearth := 2 } ((Tests.st).modHearth 2 fun h => { h with token := false }) with cycle := 25603, freeTokens := [[255, 7], [], [], []] }, 0, 0, 0, 2, (({ Tests.evt { hearth := 2 } ((Tests.st).modHearth 2 fun h => { h with token := false }) with cycle := 25603, freeTokens := [[255, 7], [], [], []] } : State)).hearth 2, by decide +kernel⟩,
    ⟨{ Tests.evt { hearth := 2 } ((Tests.st.setCore 40 { slots := [(0, { held := true, atPort := true, wantsToken := true })] } |>.modHearth 5 fun h => h).modHearth 2 fun h => { h with token := true, tokenUsed := 99744 }) with cycle := 100000, freeTokens := [List.range 64, [], [], []] }, 0, 0, 0, 2, (({ Tests.evt { hearth := 2 } ((Tests.st.setCore 40 { slots := [(0, { held := true, atPort := true, wantsToken := true })] } |>.modHearth 5 fun h => h).modHearth 2 fun h => { h with token := true, tokenUsed := 99744 }) with cycle := 100000, freeTokens := [List.range 64, [], [], []] } : State)).hearth 2, by decide +kernel⟩,
    ⟨{ Tests.evt { hearth := 2 } ((Tests.st).modHearth 2 fun h => { h with token := true, tokenUsed := 99745 }) with cycle := 100000, freeTokens := [List.range 64, [], [], []] }, 0, 0, 0, 2, (({ Tests.evt { hearth := 2 } ((Tests.st).modHearth 2 fun h => { h with token := true, tokenUsed := 99745 }) with cycle := 100000, freeTokens := [List.range 64, [], [], []] } : State)).hearth 2, by decide +kernel⟩,
    ⟨{ Tests.evt { hearth := 2 } ((Tests.st.setCore 40 { slots := [(0, { held := true, atPort := true, wantsToken := true })] } |>.modHearth 5 fun h => h).modHearth 2 fun h => { h with token := true, tokenSince := 9 }) with cycle := 100000, freeTokens := [List.range 64, [], [], []] }, 0, 0, 0, 2, (({ Tests.evt { hearth := 2 } ((Tests.st.setCore 40 { slots := [(0, { held := true, atPort := true, wantsToken := true })] } |>.modHearth 5 fun h => h).modHearth 2 fun h => { h with token := true, tokenSince := 9 }) with cycle := 100000, freeTokens := [List.range 64, [], [], []] } : State)).hearth 2, by decide +kernel⟩,
    ⟨{ Tests.evt { hearth := 2 } ((Tests.st.setCore 40 { slots := [(0, { held := true, atPort := true, wantsToken := true })] } |>.modHearth 5 fun h => h).modHearth 2 fun h => { h with token := true, tokenSince := 90000 }) with cycle := 100000, freeTokens := [List.range 64, [], [], []] }, 0, 0, 0, 2, (({ Tests.evt { hearth := 2 } ((Tests.st.setCore 40 { slots := [(0, { held := true, atPort := true, wantsToken := true })] } |>.modHearth 5 fun h => h).modHearth 2 fun h => { h with token := true, tokenSince := 90000 }) with cycle := 100000, freeTokens := [List.range 64, [], [], []] } : State)).hearth 2, by decide +kernel⟩,
    ⟨{ Tests.evt { hearth := 2 } ((Tests.st).modHearth 2 fun h => { h with token := true, tokenSince := 9 }) with cycle := 100000, freeTokens := [List.range 64, [], [], []] }, 0, 0, 0, 2, (({ Tests.evt { hearth := 2 } ((Tests.st).modHearth 2 fun h => { h with token := true, tokenSince := 9 }) with cycle := 100000, freeTokens := [List.range 64, [], [], []] } : State)).hearth 2, by decide +kernel⟩⟩

/-- Hypotheses of `Obligations.EngineEvents`, its part EventTongs are met. -/
theorem witness_EngineEvents_EventTongs :
    (∃ (s : State), ∃ (c : Nat), ∃ (id : Nat), ∃ (x : Command), ∃ (e : Nat × Word), s.ev.core = c ∧ s.ev.id = id ∧ tget (s.core c).commands id = some x ∧ (s.hearth (c / 8)).nextRequest ≤ s.cycle ∧ tongsInFlight s (c / 8) < 256 ∧ tongsTurn s (c / 8) = some (c, id) ∧ x.complete = false ∧ x.kind = .copy ∧ windowed (x.dw 2) = false ∧ (x.stream = none → windowed x.packed = false) ∧ x.fault = none ∧ x.stream = none ∧ elemParts s c x .load (splits (x.far x.done) x.esize) = .error e ∧ x.orphaned = false) ∧
    (∃ (s : State), ∃ (c : Nat), ∃ (id : Nat), ∃ (x : Command), ∃ (e : Nat × Word), s.ev.core = c ∧ s.ev.id = id ∧ tget (s.core c).commands id = some x ∧ (s.hearth (c / 8)).nextRequest ≤ s.cycle ∧ tongsInFlight s (c / 8) < 256 ∧ tongsTurn s (c / 8) = some (c, id) ∧ x.complete = false ∧ x.kind = .copy ∧ windowed (x.dw 2) = false ∧ (x.stream = none → windowed x.packed = false) ∧ x.fault = none ∧ x.stream = none ∧ elemParts s c x .load (splits (x.far x.done) x.esize) = .error e ∧ x.orphaned = false) ∧
    (∃ (s : State), ∃ (c : Nat), ∃ (id : Nat), ∃ (x : Command), ∃ (e : Nat × Word), s.ev.core = c ∧ s.ev.id = id ∧ tget (s.core c).commands id = some x ∧ (s.hearth (c / 8)).nextRequest ≤ s.cycle ∧ tongsInFlight s (c / 8) < 256 ∧ tongsTurn s (c / 8) = some (c, id) ∧ x.complete = false ∧ x.kind = .copy ∧ windowed (x.dw 2) = false ∧ (x.stream = none → windowed x.packed = false) ∧ x.fault = none ∧ x.stream = none ∧ elemParts s c x .load (splits (x.far x.done) x.esize) = .error e ∧ x.orphaned = false) ∧
    (∃ (s : State), ∃ (c : Nat), ∃ (id : Nat), ∃ (x : Command), s.ev.core = c ∧ s.ev.id = id ∧ tget (s.core c).commands id = some x ∧ (s.cycle < (s.hearth (c / 8)).nextRequest ∨ 256 ≤ tongsInFlight s (c / 8) ∨ tongsTurn s (c / 8) ≠ some (c, id))) ∧
    (∃ (s : State), ∃ (c : Nat), ∃ (id : Nat), ∃ (x : Command), s.ev.core = c ∧ s.ev.id = id ∧ tget (s.core c).commands id = some x ∧ (s.cycle < (s.hearth (c / 8)).nextRequest ∨ 256 ≤ tongsInFlight s (c / 8) ∨ tongsTurn s (c / 8) ≠ some (c, id))) ∧
    (∃ (s : State), ∃ (c : Nat), ∃ (id : Nat), ∃ (x : Command), ∃ (far : List Part), ∃ (near : List Part), ∃ (b : List Byte), s.ev.core = c ∧ s.ev.id = id ∧ tget (s.core c).commands id = some x ∧ (s.hearth (c / 8)).nextRequest ≤ s.cycle ∧ tongsInFlight s (c / 8) < 256 ∧ tongsTurn s (c / 8) = some (c, id) ∧ x.complete = false ∧ x.kind = .copy ∧ windowed (x.dw 2) = false ∧ (x.stream = none → windowed x.packed = false) ∧ x.fault = none ∧ elemParts s c x .load (splits (x.far x.done) x.esize) = .ok far ∧ (∀ p, p ∈ far ++ near → p.place.peer? = none ∧ stackReady s p.place.key = true) ∧ (∀ p, p ∈ far → poisoned s.poison p.place.key p.size = false ∧ poisoned s.badCheck p.place.key p.size = false) ∧ hostLacks s false (far.map (·.place)) = none ∧ hostLacks s true (near.map (·.place)) = none ∧ b = far.flatMap (fun p => memBytes s.mem p.place.key p.size) ∧ x.orphaned = false ∧ x.stream = none ∧ elemParts s c x .store (splits (x.near x.done) x.esize) = .ok near) ∧
    (∃ (s : State), ∃ (c : Nat), ∃ (id : Nat), ∃ (x : Command), ∃ (far : List Part), ∃ (near : List Part), ∃ (b : List Byte), s.ev.core = c ∧ s.ev.id = id ∧ tget (s.core c).commands id = some x ∧ (s.hearth (c / 8)).nextRequest ≤ s.cycle ∧ tongsInFlight s (c / 8) < 256 ∧ tongsTurn s (c / 8) = some (c, id) ∧ x.complete = false ∧ x.kind = .copy ∧ windowed (x.dw 2) = false ∧ (x.stream = none → windowed x.packed = false) ∧ x.fault = none ∧ elemParts s c x .load (splits (x.far x.done) x.esize) = .ok far ∧ (∀ p, p ∈ far ++ near → p.place.peer? = none ∧ stackReady s p.place.key = true) ∧ (∀ p, p ∈ far → poisoned s.poison p.place.key p.size = false ∧ poisoned s.badCheck p.place.key p.size = false) ∧ hostLacks s false (far.map (·.place)) = none ∧ hostLacks s true (near.map (·.place)) = none ∧ b = far.flatMap (fun p => memBytes s.mem p.place.key p.size) ∧ x.orphaned = false ∧ x.stream = none ∧ elemParts s c x .store (splits (x.near x.done) x.esize) = .ok near) ∧
    (∃ (s : State), ∃ (c : Nat), ∃ (id : Nat), ∃ (x : Command), ∃ (far : List Part), ∃ (near : List Part), ∃ (b : List Byte), s.ev.core = c ∧ s.ev.id = id ∧ tget (s.core c).commands id = some x ∧ (s.hearth (c / 8)).nextRequest ≤ s.cycle ∧ tongsInFlight s (c / 8) < 256 ∧ tongsTurn s (c / 8) = some (c, id) ∧ x.complete = false ∧ x.kind = .copy ∧ windowed (x.dw 2) = false ∧ (x.stream = none → windowed x.packed = false) ∧ x.fault = none ∧ elemParts s c x .load (splits (x.far x.done) x.esize) = .ok far ∧ (∀ p, p ∈ far ++ near → p.place.peer? = none ∧ stackReady s p.place.key = true) ∧ (∀ p, p ∈ far → poisoned s.poison p.place.key p.size = false ∧ poisoned s.badCheck p.place.key p.size = false) ∧ hostLacks s false (far.map (·.place)) = none ∧ hostLacks s true (near.map (·.place)) = none ∧ b = far.flatMap (fun p => memBytes s.mem p.place.key p.size) ∧ x.orphaned = false ∧ x.stream = none ∧ elemParts s c x .store (splits (x.near x.done) x.esize) = .ok near) ∧
    (∃ (s : State), ∃ (c : Nat), ∃ (id : Nat), ∃ (x : Command), ∃ (far : List Part), ∃ (near : List Part), ∃ (b : List Byte), ∃ (i : Nat), ∃ (buf : List Word), ∃ (fin : Bool), s.ev.core = c ∧ s.ev.id = id ∧ tget (s.core c).commands id = some x ∧ (s.hearth (c / 8)).nextRequest ≤ s.cycle ∧ tongsInFlight s (c / 8) < 256 ∧ tongsTurn s (c / 8) = some (c, id) ∧ x.complete = false ∧ x.kind = .copy ∧ windowed (x.dw 2) = false ∧ (x.stream = none → windowed x.packed = false) ∧ x.fault = none ∧ elemParts s c x .load (splits (x.far x.done) x.esize) = .ok far ∧ (∀ p, p ∈ far ++ near → p.place.peer? = none ∧ stackReady s p.place.key = true) ∧ (∀ p, p ∈ far → poisoned s.poison p.place.key p.size = false ∧ poisoned s.badCheck p.place.key p.size = false) ∧ hostLacks s false (far.map (·.place)) = none ∧ hostLacks s true (near.map (·.place)) = none ∧ b = far.flatMap (fun p => memBytes s.mem p.place.key p.size) ∧ x.orphaned = false ∧ x.stream = some i ∧ x.unbound = false ∧ 1 ≤ i ∧ near = [] ∧ (s.slotAt c x.slot).binds.getD (i - 1) .unbound = .copy buf (some id) fin ∧ buf.length < 8 ∧ x.done + 1 < x.count) :=
  ⟨⟨Tests.evt { id := 5 } (Tests.holding ({ Tests.cmd with kind := .copy, desc := [0, 0x600000002, 0x20000, 8, 0x10300, 8, 0, 0] } : Command) (Tests.co (Tests.put 0x10100 [1, 2, 3, 4, 5, 6, 7, 8, 9] Tests.st) fun k => { k with tlb := [⟨0, 1, 3, 0x100BF⟩] })), 0, 5, ({ Tests.cmd with kind := .copy, desc := [0, 0x600000002, 0x20000, 8, 0x10300, 8, 0, 0] } : Command), match elemParts (Tests.evt { id := 5 } (Tests.holding ({ Tests.cmd with kind := .copy, desc := [0, 0x600000002, 0x20000, 8, 0x10300, 8, 0, 0] } : Command) (Tests.co (Tests.put 0x10100 [1, 2, 3, 4, 5, 6, 7, 8, 9] Tests.st) fun k => { k with tlb := [⟨0, 1, 3, 0x100BF⟩] })) : State) 0 (({ Tests.cmd with kind := .copy, desc := [0, 0x600000002, 0x20000, 8, 0x10300, 8, 0, 0] } : Command)) .load (splits (((({ Tests.cmd with kind := .copy, desc := [0, 0x600000002, 0x20000, 8, 0x10300, 8, 0, 0] } : Command))).far ((({ Tests.cmd with kind := .copy, desc := [0, 0x600000002, 0x20000, 8, 0x10300, 8, 0, 0] } : Command))).done) ((({ Tests.cmd with kind := .copy, desc := [0, 0x600000002, 0x20000, 8, 0x10300, 8, 0, 0] } : Command))).esize) with | .ok _ => (0, 0) | .error e => e, by decide +kernel⟩,
    ⟨Tests.evt { id := 5 } (Tests.holding ({ Tests.cmd with kind := .copy, desc := [0, 0x600000002, 0xFF00000000000000, 8, 0x10300, 8, 0, 0] } : Command) (Tests.co (Tests.put 0x10100 [1, 2, 3, 4, 5, 6, 7, 8, 9] Tests.st) fun k => { k with tlb := [⟨0, 1, 3, 0x100BF⟩] })), 0, 5, ({ Tests.cmd with kind := .copy, desc := [0, 0x600000002, 0xFF00000000000000, 8, 0x10300, 8, 0, 0] } : Command), match elemParts (Tests.evt { id := 5 } (Tests.holding ({ Tests.cmd with kind := .copy, desc := [0, 0x600000002, 0xFF00000000000000, 8, 0x10300, 8, 0, 0] } : Command) (Tests.co (Tests.put 0x10100 [1, 2, 3, 4, 5, 6, 7, 8, 9] Tests.st) fun k => { k with tlb := [⟨0, 1, 3, 0x100BF⟩] })) : State) 0 (({ Tests.cmd with kind := .copy, desc := [0, 0x600000002, 0xFF00000000000000, 8, 0x10300, 8, 0, 0] } : Command)) .load (splits (((({ Tests.cmd with kind := .copy, desc := [0, 0x600000002, 0xFF00000000000000, 8, 0x10300, 8, 0, 0] } : Command))).far ((({ Tests.cmd with kind := .copy, desc := [0, 0x600000002, 0xFF00000000000000, 8, 0x10300, 8, 0, 0] } : Command))).done) ((({ Tests.cmd with kind := .copy, desc := [0, 0x600000002, 0xFF00000000000000, 8, 0x10300, 8, 0, 0] } : Command))).esize) with | .ok _ => (0, 0) | .error e => e, by decide +kernel⟩,
    ⟨Tests.evt { id := 5 } (Tests.holding ({ Tests.cmd with kind := .copy, desc := [0, 0x600000002, 0x1FFFE, 8, 0x10300, 8, 0, 0] } : Command) (Tests.co (Tests.put 0x10100 [1, 2, 3, 4, 5, 6, 7, 8, 9] Tests.st) fun k => { k with tlb := [⟨0, 1, 3, 0x100BF⟩] })), 0, 5, ({ Tests.cmd with kind := .copy, desc := [0, 0x600000002, 0x1FFFE, 8, 0x10300, 8, 0, 0] } : Command), match elemParts (Tests.evt { id := 5 } (Tests.holding ({ Tests.cmd with kind := .copy, desc := [0, 0x600000002, 0x1FFFE, 8, 0x10300, 8, 0, 0] } : Command) (Tests.co (Tests.put 0x10100 [1, 2, 3, 4, 5, 6, 7, 8, 9] Tests.st) fun k => { k with tlb := [⟨0, 1, 3, 0x100BF⟩] })) : State) 0 (({ Tests.cmd with kind := .copy, desc := [0, 0x600000002, 0x1FFFE, 8, 0x10300, 8, 0, 0] } : Command)) .load (splits (((({ Tests.cmd with kind := .copy, desc := [0, 0x600000002, 0x1FFFE, 8, 0x10300, 8, 0, 0] } : Command))).far ((({ Tests.cmd with kind := .copy, desc := [0, 0x600000002, 0x1FFFE, 8, 0x10300, 8, 0, 0] } : Command))).done) ((({ Tests.cmd with kind := .copy, desc := [0, 0x600000002, 0x1FFFE, 8, 0x10300, 8, 0, 0] } : Command))).esize) with | .ok _ => (0, 0) | .error e => e, by decide +kernel⟩,
    ⟨(Tests.evt { id := 5 } (Tests.holding ({ Tests.cmd with kind := .copy, desc := [0, 0x600000002, 0x10104, 8, 0x10300, 8, 0, 0] } : Command) (Tests.co (Tests.put 0x10100 [1, 2, 3, 4, 5, 6, 7, 8, 9] Tests.st) fun k => { k with tlb := [⟨0, 1, 3, 0x100BF⟩] }))).modHearth 0 fun h => { h with nextRequest := 9 }, 0, 5, ({ Tests.cmd with kind := .copy, desc := [0, 0x600000002, 0x10104, 8, 0x10300, 8, 0, 0] } : Command), by decide +kernel⟩,
    ⟨{ Tests.evt { id := 5 } (Tests.holding ({ Tests.cmd with kind := .copy, desc := [0, 0x600000002, 0x10104, 8, 0x10300, 8, 0, 0] } : Command) (Tests.co (Tests.put 0x10100 [1, 2, 3, 4, 5, 6, 7, 8, 9] Tests.st) fun k => { k with tlb := [⟨0, 1, 3, 0x100BF⟩] })) with remotes := (List.range 256).map fun i => (i, Tests.remote (.tongs 1 1) 0 8 .sent) }, 0, 5, ({ Tests.cmd with kind := .copy, desc := [0, 0x600000002, 0x10104, 8, 0x10300, 8, 0, 0] } : Command), by decide +kernel⟩,
    ⟨Tests.evt { id := 5 } (Tests.holding ({ Tests.cmd with kind := .copy, desc := [0, 0x600000002, 0x10104, 8, 0x10300, 8, 0, 0] } : Command) (Tests.co (Tests.put 0x10100 [1, 2, 3, 4, 5, 6, 7, 8, 9] Tests.st) fun k => { k with tlb := [⟨0, 1, 3, 0x100BF⟩] })), 0, 5, ({ Tests.cmd with kind := .copy, desc := [0, 0x600000002, 0x10104, 8, 0x10300, 8, 0, 0] } : Command), match elemParts (Tests.evt { id := 5 } (Tests.holding ({ Tests.cmd with kind := .copy, desc := [0, 0x600000002, 0x10104, 8, 0x10300, 8, 0, 0] } : Command) (Tests.co (Tests.put 0x10100 [1, 2, 3, 4, 5, 6, 7, 8, 9] Tests.st) fun k => { k with tlb := [⟨0, 1, 3, 0x100BF⟩] })) : State) 0 (({ Tests.cmd with kind := .copy, desc := [0, 0x600000002, 0x10104, 8, 0x10300, 8, 0, 0] } : Command)) .load (splits (((({ Tests.cmd with kind := .copy, desc := [0, 0x600000002, 0x10104, 8, 0x10300, 8, 0, 0] } : Command))).far ((({ Tests.cmd with kind := .copy, desc := [0, 0x600000002, 0x10104, 8, 0x10300, 8, 0, 0] } : Command))).done) ((({ Tests.cmd with kind := .copy, desc := [0, 0x600000002, 0x10104, 8, 0x10300, 8, 0, 0] } : Command))).esize) with | .ok l => l | .error _ => [], match elemParts (Tests.evt { id := 5 } (Tests.holding ({ Tests.cmd with kind := .copy, desc := [0, 0x600000002, 0x10104, 8, 0x10300, 8, 0, 0] } : Command) (Tests.co (Tests.put 0x10100 [1, 2, 3, 4, 5, 6, 7, 8, 9] Tests.st) fun k => { k with tlb := [⟨0, 1, 3, 0x100BF⟩] })) : State) 0 (({ Tests.cmd with kind := .copy, desc := [0, 0x600000002, 0x10104, 8, 0x10300, 8, 0, 0] } : Command)) .store (splits (((({ Tests.cmd with kind := .copy, desc := [0, 0x600000002, 0x10104, 8, 0x10300, 8, 0, 0] } : Command))).near ((({ Tests.cmd with kind := .copy, desc := [0, 0x600000002, 0x10104, 8, 0x10300, 8, 0, 0] } : Command))).done) ((({ Tests.cmd with kind := .copy, desc := [0, 0x600000002, 0x10104, 8, 0x10300, 8, 0, 0] } : Command))).esize) with | .ok l => l | .error _ => [], ((match elemParts (Tests.evt { id := 5 } (Tests.holding ({ Tests.cmd with kind := .copy, desc := [0, 0x600000002, 0x10104, 8, 0x10300, 8, 0, 0] } : Command) (Tests.co (Tests.put 0x10100 [1, 2, 3, 4, 5, 6, 7, 8, 9] Tests.st) fun k => { k with tlb := [⟨0, 1, 3, 0x100BF⟩] })) : State) 0 (({ Tests.cmd with kind := .copy, desc := [0, 0x600000002, 0x10104, 8, 0x10300, 8, 0, 0] } : Command)) .load (splits (((({ Tests.cmd with kind := .copy, desc := [0, 0x600000002, 0x10104, 8, 0x10300, 8, 0, 0] } : Command))).far ((({ Tests.cmd with kind := .copy, desc := [0, 0x600000002, 0x10104, 8, 0x10300, 8, 0, 0] } : Command))).done) ((({ Tests.cmd with kind := .copy, desc := [0, 0x600000002, 0x10104, 8, 0x10300, 8, 0, 0] } : Command))).esize) with | .ok l => l | .error _ => [])).flatMap (fun (p : Part) => memBytes ((Tests.evt { id := 5 } (Tests.holding ({ Tests.cmd with kind := .copy, desc := [0, 0x600000002, 0x10104, 8, 0x10300, 8, 0, 0] } : Command) (Tests.co (Tests.put 0x10100 [1, 2, 3, 4, 5, 6, 7, 8, 9] Tests.st) fun k => { k with tlb := [⟨0, 1, 3, 0x100BF⟩] })) : State)).mem p.place.key p.size), by decide +kernel⟩,
    ⟨Tests.evt { id := 5 } (Tests.holding ({ Tests.cmd with kind := .copy, desc := [0, 0x600000002, 0x1017C, 8, 0x10300, 8, 0, 0] } : Command) (Tests.co (Tests.put 0x10100 [1, 2, 3, 4, 5, 6, 7, 8, 9] Tests.st) fun k => { k with tlb := [⟨0, 1, 3, 0x100BF⟩] })), 0, 5, ({ Tests.cmd with kind := .copy, desc := [0, 0x600000002, 0x1017C, 8, 0x10300, 8, 0, 0] } : Command), match elemParts (Tests.evt { id := 5 } (Tests.holding ({ Tests.cmd with kind := .copy, desc := [0, 0x600000002, 0x1017C, 8, 0x10300, 8, 0, 0] } : Command) (Tests.co (Tests.put 0x10100 [1, 2, 3, 4, 5, 6, 7, 8, 9] Tests.st) fun k => { k with tlb := [⟨0, 1, 3, 0x100BF⟩] })) : State) 0 (({ Tests.cmd with kind := .copy, desc := [0, 0x600000002, 0x1017C, 8, 0x10300, 8, 0, 0] } : Command)) .load (splits (((({ Tests.cmd with kind := .copy, desc := [0, 0x600000002, 0x1017C, 8, 0x10300, 8, 0, 0] } : Command))).far ((({ Tests.cmd with kind := .copy, desc := [0, 0x600000002, 0x1017C, 8, 0x10300, 8, 0, 0] } : Command))).done) ((({ Tests.cmd with kind := .copy, desc := [0, 0x600000002, 0x1017C, 8, 0x10300, 8, 0, 0] } : Command))).esize) with | .ok l => l | .error _ => [], match elemParts (Tests.evt { id := 5 } (Tests.holding ({ Tests.cmd with kind := .copy, desc := [0, 0x600000002, 0x1017C, 8, 0x10300, 8, 0, 0] } : Command) (Tests.co (Tests.put 0x10100 [1, 2, 3, 4, 5, 6, 7, 8, 9] Tests.st) fun k => { k with tlb := [⟨0, 1, 3, 0x100BF⟩] })) : State) 0 (({ Tests.cmd with kind := .copy, desc := [0, 0x600000002, 0x1017C, 8, 0x10300, 8, 0, 0] } : Command)) .store (splits (((({ Tests.cmd with kind := .copy, desc := [0, 0x600000002, 0x1017C, 8, 0x10300, 8, 0, 0] } : Command))).near ((({ Tests.cmd with kind := .copy, desc := [0, 0x600000002, 0x1017C, 8, 0x10300, 8, 0, 0] } : Command))).done) ((({ Tests.cmd with kind := .copy, desc := [0, 0x600000002, 0x1017C, 8, 0x10300, 8, 0, 0] } : Command))).esize) with | .ok l => l | .error _ => [], ((match elemParts (Tests.evt { id := 5 } (Tests.holding ({ Tests.cmd with kind := .copy, desc := [0, 0x600000002, 0x1017C, 8, 0x10300, 8, 0, 0] } : Command) (Tests.co (Tests.put 0x10100 [1, 2, 3, 4, 5, 6, 7, 8, 9] Tests.st) fun k => { k with tlb := [⟨0, 1, 3, 0x100BF⟩] })) : State) 0 (({ Tests.cmd with kind := .copy, desc := [0, 0x600000002, 0x1017C, 8, 0x10300, 8, 0, 0] } : Command)) .load (splits (((({ Tests.cmd with kind := .copy, desc := [0, 0x600000002, 0x1017C, 8, 0x10300, 8, 0, 0] } : Command))).far ((({ Tests.cmd with kind := .copy, desc := [0, 0x600000002, 0x1017C, 8, 0x10300, 8, 0, 0] } : Command))).done) ((({ Tests.cmd with kind := .copy, desc := [0, 0x600000002, 0x1017C, 8, 0x10300, 8, 0, 0] } : Command))).esize) with | .ok l => l | .error _ => [])).flatMap (fun (p : Part) => memBytes ((Tests.evt { id := 5 } (Tests.holding ({ Tests.cmd with kind := .copy, desc := [0, 0x600000002, 0x1017C, 8, 0x10300, 8, 0, 0] } : Command) (Tests.co (Tests.put 0x10100 [1, 2, 3, 4, 5, 6, 7, 8, 9] Tests.st) fun k => { k with tlb := [⟨0, 1, 3, 0x100BF⟩] })) : State)).mem p.place.key p.size), by decide +kernel⟩,
    ⟨Tests.evt { id := 5 } (Tests.holding ({ Tests.cmd with kind := .copy, desc := [0, 0x600000002, 0x10104, 8, 0x10300, 8, 0, 0], done := 1 } : Command) (Tests.co (Tests.put 0x10100 [1, 2, 3, 4, 5, 6, 7, 8, 9] Tests.st) fun k => { k with tlb := [⟨0, 1, 3, 0x100BF⟩] })), 0, 5, ({ Tests.cmd with kind := .copy, desc := [0, 0x600000002, 0x10104, 8, 0x10300, 8, 0, 0], done := 1 } : Command), match elemParts (Tests.evt { id := 5 } (Tests.holding ({ Tests.cmd with kind := .copy, desc := [0, 0x600000002, 0x10104, 8, 0x10300, 8, 0, 0], done := 1 } : Command) (Tests.co (Tests.put 0x10100 [1, 2, 3, 4, 5, 6, 7, 8, 9] Tests.st) fun k => { k with tlb := [⟨0, 1, 3, 0x100BF⟩] })) : State) 0 (({ Tests.cmd with kind := .copy, desc := [0, 0x600000002, 0x10104, 8, 0x10300, 8, 0, 0], done := 1 } : Command)) .load (splits (((({ Tests.cmd with kind := .copy, desc := [0, 0x600000002, 0x10104, 8, 0x10300, 8, 0, 0], done := 1 } : Command))).far ((({ Tests.cmd with kind := .copy, desc := [0, 0x600000002, 0x10104, 8, 0x10300, 8, 0, 0], done := 1 } : Command))).done) ((({ Tests.cmd with kind := .copy, desc := [0, 0x600000002, 0x10104, 8, 0x10300, 8, 0, 0], done := 1 } : Command))).esize) with | .ok l => l | .error _ => [], match elemParts (Tests.evt { id := 5 } (Tests.holding ({ Tests.cmd with kind := .copy, desc := [0, 0x600000002, 0x10104, 8, 0x10300, 8, 0, 0], done := 1 } : Command) (Tests.co (Tests.put 0x10100 [1, 2, 3, 4, 5, 6, 7, 8, 9] Tests.st) fun k => { k with tlb := [⟨0, 1, 3, 0x100BF⟩] })) : State) 0 (({ Tests.cmd with kind := .copy, desc := [0, 0x600000002, 0x10104, 8, 0x10300, 8, 0, 0], done := 1 } : Command)) .store (splits (((({ Tests.cmd with kind := .copy, desc := [0, 0x600000002, 0x10104, 8, 0x10300, 8, 0, 0], done := 1 } : Command))).near ((({ Tests.cmd with kind := .copy, desc := [0, 0x600000002, 0x10104, 8, 0x10300, 8, 0, 0], done := 1 } : Command))).done) ((({ Tests.cmd with kind := .copy, desc := [0, 0x600000002, 0x10104, 8, 0x10300, 8, 0, 0], done := 1 } : Command))).esize) with | .ok l => l | .error _ => [], ((match elemParts (Tests.evt { id := 5 } (Tests.holding ({ Tests.cmd with kind := .copy, desc := [0, 0x600000002, 0x10104, 8, 0x10300, 8, 0, 0], done := 1 } : Command) (Tests.co (Tests.put 0x10100 [1, 2, 3, 4, 5, 6, 7, 8, 9] Tests.st) fun k => { k with tlb := [⟨0, 1, 3, 0x100BF⟩] })) : State) 0 (({ Tests.cmd with kind := .copy, desc := [0, 0x600000002, 0x10104, 8, 0x10300, 8, 0, 0], done := 1 } : Command)) .load (splits (((({ Tests.cmd with kind := .copy, desc := [0, 0x600000002, 0x10104, 8, 0x10300, 8, 0, 0], done := 1 } : Command))).far ((({ Tests.cmd with kind := .copy, desc := [0, 0x600000002, 0x10104, 8, 0x10300, 8, 0, 0], done := 1 } : Command))).done) ((({ Tests.cmd with kind := .copy, desc := [0, 0x600000002, 0x10104, 8, 0x10300, 8, 0, 0], done := 1 } : Command))).esize) with | .ok l => l | .error _ => [])).flatMap (fun (p : Part) => memBytes ((Tests.evt { id := 5 } (Tests.holding ({ Tests.cmd with kind := .copy, desc := [0, 0x600000002, 0x10104, 8, 0x10300, 8, 0, 0], done := 1 } : Command) (Tests.co (Tests.put 0x10100 [1, 2, 3, 4, 5, 6, 7, 8, 9] Tests.st) fun k => { k with tlb := [⟨0, 1, 3, 0x100BF⟩] })) : State)).mem p.place.key p.size), by decide +kernel⟩,
    ⟨Tests.evt { id := 5 } (Tests.holding ({ Tests.cmd with kind := .copy, desc := [0, 0x600000002, 0x10104, 8, 0, 8, 0, 0], stream := some 2 } : Command) (Tests.co (Tests.sl (Tests.put 0x10100 [1, 2, 3, 4, 5, 6, 7, 8, 9] Tests.st) fun sl => { sl with binds := sl.binds.set 1 (.copy [7] (some 5) false) }) fun k => { k with tlb := [⟨0, 1, 3, 0x100BF⟩] })), 0, 5, ({ Tests.cmd with kind := .copy, desc := [0, 0x600000002, 0x10104, 8, 0, 8, 0, 0], stream := some 2 } : Command), match elemParts (Tests.evt { id := 5 } (Tests.holding ({ Tests.cmd with kind := .copy, desc := [0, 0x600000002, 0x10104, 8, 0, 8, 0, 0], stream := some 2 } : Command) (Tests.co (Tests.sl (Tests.put 0x10100 [1, 2, 3, 4, 5, 6, 7, 8, 9] Tests.st) fun sl => { sl with binds := sl.binds.set 1 (.copy [7] (some 5) false) }) fun k => { k with tlb := [⟨0, 1, 3, 0x100BF⟩] })) : State) 0 (({ Tests.cmd with kind := .copy, desc := [0, 0x600000002, 0x10104, 8, 0, 8, 0, 0], stream := some 2 } : Command)) .load (splits (((({ Tests.cmd with kind := .copy, desc := [0, 0x600000002, 0x10104, 8, 0, 8, 0, 0], stream := some 2 } : Command))).far ((({ Tests.cmd with kind := .copy, desc := [0, 0x600000002, 0x10104, 8, 0, 8, 0, 0], stream := some 2 } : Command))).done) ((({ Tests.cmd with kind := .copy, desc := [0, 0x600000002, 0x10104, 8, 0, 8, 0, 0], stream := some 2 } : Command))).esize) with | .ok l => l | .error _ => [], [], ((match elemParts (Tests.evt { id := 5 } (Tests.holding ({ Tests.cmd with kind := .copy, desc := [0, 0x600000002, 0x10104, 8, 0, 8, 0, 0], stream := some 2 } : Command) (Tests.co (Tests.sl (Tests.put 0x10100 [1, 2, 3, 4, 5, 6, 7, 8, 9] Tests.st) fun sl => { sl with binds := sl.binds.set 1 (.copy [7] (some 5) false) }) fun k => { k with tlb := [⟨0, 1, 3, 0x100BF⟩] })) : State) 0 (({ Tests.cmd with kind := .copy, desc := [0, 0x600000002, 0x10104, 8, 0, 8, 0, 0], stream := some 2 } : Command)) .load (splits (((({ Tests.cmd with kind := .copy, desc := [0, 0x600000002, 0x10104, 8, 0, 8, 0, 0], stream := some 2 } : Command))).far ((({ Tests.cmd with kind := .copy, desc := [0, 0x600000002, 0x10104, 8, 0, 8, 0, 0], stream := some 2 } : Command))).done) ((({ Tests.cmd with kind := .copy, desc := [0, 0x600000002, 0x10104, 8, 0, 8, 0, 0], stream := some 2 } : Command))).esize) with | .ok l => l | .error _ => [])).flatMap (fun (p : Part) => memBytes ((Tests.evt { id := 5 } (Tests.holding ({ Tests.cmd with kind := .copy, desc := [0, 0x600000002, 0x10104, 8, 0, 8, 0, 0], stream := some 2 } : Command) (Tests.co (Tests.sl (Tests.put 0x10100 [1, 2, 3, 4, 5, 6, 7, 8, 9] Tests.st) fun sl => { sl with binds := sl.binds.set 1 (.copy [7] (some 5) false) }) fun k => { k with tlb := [⟨0, 1, 3, 0x100BF⟩] })) : State)).mem p.place.key p.size), 2, [7], false, by decide +kernel⟩⟩

/-- Hypotheses of `Obligations.CoherenceEvents`, its part EventRequests are met. -/
theorem witness_CoherenceEvents_EventRequests :
    (∃ (s : State), ∃ (line : Nat), ∃ (c : Nat), ∃ (d : Dir), s.ev.core = c ∧ s.ev.id = line ∧ (s.home line).dir = d ∧ s.homeFree line = true ∧ tget (s.home line).grants c = none ∧ s.reaches line c = true ∧ tget (s.core c).cohReqs line = some .getS ∧ d.owner = none ∧ d.inLlc = true) ∧
    (∃ (s : State), ∃ (line : Nat), ∃ (c : Nat), ∃ (d : Dir), s.ev.core = c ∧ s.ev.id = line ∧ (s.home line).dir = d ∧ s.homeFree line = true ∧ tget (s.home line).grants c = none ∧ s.reaches line c = true ∧ tget (s.core c).cohReqs line = some .getS ∧ d.owner = none ∧ d.inLlc = true) ∧
    (∃ (s : State), ∃ (line : Nat), ∃ (c : Nat), ∃ (d : Dir), s.ev.core = c ∧ s.ev.id = line ∧ (s.home line).dir = d ∧ s.homeFree line = true ∧ tget (s.home line).grants c = none ∧ s.reaches line c = true ∧ tget (s.core c).cohReqs line = some .getS ∧ d.owner = none ∧ d.inLlc = false) ∧
    (∃ (s : State), ∃ (line : Nat), ∃ (c : Nat), ∃ (d : Dir), ∃ (o : Nat), s.ev.core = c ∧ s.ev.id = line ∧ (s.home line).dir = d ∧ s.homeFree line = true ∧ tget (s.home line).grants c = none ∧ s.reaches line c = true ∧ tget (s.core c).cohReqs line = some .getS ∧ d.owner = some o ∧ o ≠ c) ∧
    (∃ (s : State), ∃ (line : Nat), ∃ (c : Nat), ∃ (d : Dir), ∃ (l : List Nat), s.ev.core = c ∧ s.ev.id = line ∧ (s.home line).dir = d ∧ s.homeFree line = true ∧ tget (s.home line).grants c = none ∧ s.reaches line c = true ∧ tget (s.core c).cohReqs line = some .getX ∧ l = (d.targets (some c)).filter (fun x => some x != d.owner) ∧ l ≠ []) ∧
    (∃ (s : State), ∃ (line : Nat), ∃ (c : Nat), ∃ (d : Dir), ∃ (l : List Nat), s.ev.core = c ∧ s.ev.id = line ∧ (s.home line).dir = d ∧ s.homeFree line = true ∧ tget (s.home line).grants c = none ∧ s.reaches line c = true ∧ tget (s.core c).cohReqs line = some .getX ∧ l = (d.targets (some c)).filter (fun x => some x != d.owner) ∧ l ≠ []) ∧
    (∃ (s : State), ∃ (line : Nat), ∃ (c : Nat), ∃ (d : Dir), ∃ (l : List Nat), s.ev.core = c ∧ s.ev.id = line ∧ (s.home line).dir = d ∧ s.homeFree line = true ∧ tget (s.home line).grants c = none ∧ s.reaches line c = true ∧ tget (s.core c).cohReqs line = some .getX ∧ l = (d.targets (some c)).filter (fun x => some x != d.owner) ∧ l = [] ∧ d.owner = none ∧ d.inLlc = true) ∧
    (∃ (s : State), ∃ (line : Nat), ∃ (c : Nat), ∃ (d : Dir), ∃ (l : List Nat), ∃ (o : Nat), s.ev.core = c ∧ s.ev.id = line ∧ (s.home line).dir = d ∧ s.homeFree line = true ∧ tget (s.home line).grants c = none ∧ s.reaches line c = true ∧ tget (s.core c).cohReqs line = some .getX ∧ l = (d.targets (some c)).filter (fun x => some x != d.owner) ∧ l = [] ∧ d.owner = some o ∧ o ≠ c) ∧
    (∃ (s : State), ∃ (line : Nat), ∃ (c : Nat), ∃ (d : Dir), s.ev.core = c ∧ s.ev.id = line ∧ (s.home line).dir = d ∧ s.homeFree line = true ∧ tget (s.home line).grants c = none ∧ s.reaches line c = true ∧ tget (s.core c).cohReqs line = some .upg ∧ d.holds c = true ∧ s.aloneAt line c = true) ∧
    (∃ (s : State), ∃ (line : Nat), ∃ (c : Nat), ∃ (d : Dir), s.ev.core = c ∧ s.ev.id = line ∧ (s.home line).dir = d ∧ s.homeFree line = true ∧ tget (s.home line).grants c = none ∧ s.reaches line c = true ∧ tget (s.core c).cohReqs line = some .upg ∧ d.holds c = true ∧ s.aloneAt line c = false) ∧
    (∃ (s : State), ∃ (line : Nat), ∃ (c : Nat), ∃ (d : Dir), s.ev.core = c ∧ s.ev.id = line ∧ (s.home line).dir = d ∧ s.homeFree line = true ∧ tget (s.home line).grants c = none ∧ s.reaches line c = true ∧ tget (s.core c).cohReqs line = some .upg ∧ d.holds c = false) ∧
    (∃ (s : State), ∃ (line : Nat), ∃ (c : Nat), ∃ (d : Dir), s.ev.core = c ∧ s.ev.id = line ∧ (s.home line).dir = d ∧ tget (s.core c).cohReqs line = some .getX) ∧
    (∃ (s : State), ∃ (line : Nat), ∃ (c : Nat), ∃ (d : Dir), s.ev.core = c ∧ s.ev.id = line ∧ (s.home line).dir = d ∧ s.homeFree line = true ∧ tget (s.home line).grants c = none ∧ s.reaches line c = false ∧ tget (s.core c).cohReqs line = some .getS) ∧
    (∃ (s : State), ∃ (line : Nat), ∃ (c : Nat), ∃ (d : Dir), ∃ (req : CohReq), s.ev.core = c ∧ s.ev.id = line ∧ (s.home line).dir = d ∧ (s.home line).trans = .memRd c req ∧ stackReady (touchKey s (128 * line)) (128 * line) = false) :=
  ⟨⟨Tests.evt { core := 0, id := 5 } (Tests.co { (Tests.st) with homes := [(5, { dir := { inLlc := true } })] } fun k => { k with cohReqs := [(5, .getS)] }), 5, 0, (((Tests.evt { core := 0, id := 5 } (Tests.co { (Tests.st) with homes := [(5, { dir := { inLlc := true } })] } fun k => { k with cohReqs := [(5, .getS)] }) : State)).home 5).dir, by decide +kernel⟩,
    ⟨Tests.evt { core := 0, id := 5 } (Tests.co { (Tests.st) with homes := [(5, { dir := { inLlc := true, st := .s, holders := [3] } })] } fun k => { k with cohReqs := [(5, .getS)] }), 5, 0, (((Tests.evt { core := 0, id := 5 } (Tests.co { (Tests.st) with homes := [(5, { dir := { inLlc := true, st := .s, holders := [3] } })] } fun k => { k with cohReqs := [(5, .getS)] }) : State)).home 5).dir, by decide +kernel⟩,
    ⟨Tests.evt { core := 0, id := 5 } (Tests.co { (Tests.st) with homes := [(5, { dir := {} })] } fun k => { k with cohReqs := [(5, .getS)] }), 5, 0, (((Tests.evt { core := 0, id := 5 } (Tests.co { (Tests.st) with homes := [(5, { dir := {} })] } fun k => { k with cohReqs := [(5, .getS)] }) : State)).home 5).dir, by decide +kernel⟩,
    ⟨Tests.evt { core := 0, id := 5 } (Tests.co { (Tests.st) with homes := [(5, { dir := { owner := some 3, st := .e, holders := [3] } })] } fun k => { k with cohReqs := [(5, .getS)] }), 5, 0, (((Tests.evt { core := 0, id := 5 } (Tests.co { (Tests.st) with homes := [(5, { dir := { owner := some 3, st := .e, holders := [3] } })] } fun k => { k with cohReqs := [(5, .getS)] }) : State)).home 5).dir, 3, by decide +kernel⟩,
    ⟨Tests.evt { core := 0, id := 5 } (Tests.co { (Tests.st) with homes := [(5, { dir := { owner := some 3, st := .o, holders := [3, 4] } })] } fun k => { k with cohReqs := [(5, .getX)] }), 5, 0, (((Tests.evt { core := 0, id := 5 } (Tests.co { (Tests.st) with homes := [(5, { dir := { owner := some 3, st := .o, holders := [3, 4] } })] } fun k => { k with cohReqs := [(5, .getX)] }) : State)).home 5).dir, ((((((Tests.evt { core := 0, id := 5 } (Tests.co { (Tests.st) with homes := [(5, { dir := { owner := some 3, st := .o, holders := [3, 4] } })] } fun k => { k with cohReqs := [(5, .getX)] }) : State)).home 5).dir)).targets (some (0))).filter (fun x => some x != (((((Tests.evt { core := 0, id := 5 } (Tests.co { (Tests.st) with homes := [(5, { dir := { owner := some 3, st := .o, holders := [3, 4] } })] } fun k => { k with cohReqs := [(5, .getX)] }) : State)).home 5).dir)).owner), by decide +kernel⟩,
    ⟨Tests.evt { core := 0, id := 5 } (Tests.co { (Tests.st) with homes := [(5, { dir := { st := .s, spans := [0, 1] } })] } fun k => { k with cohReqs := [(5, .getX)] }), 5, 0, (((Tests.evt { core := 0, id := 5 } (Tests.co { (Tests.st) with homes := [(5, { dir := { st := .s, spans := [0, 1] } })] } fun k => { k with cohReqs := [(5, .getX)] }) : State)).home 5).dir, ((((((Tests.evt { core := 0, id := 5 } (Tests.co { (Tests.st) with homes := [(5, { dir := { st := .s, spans := [0, 1] } })] } fun k => { k with cohReqs := [(5, .getX)] }) : State)).home 5).dir)).targets (some (0))).filter (fun x => some x != (((((Tests.evt { core := 0, id := 5 } (Tests.co { (Tests.st) with homes := [(5, { dir := { st := .s, spans := [0, 1] } })] } fun k => { k with cohReqs := [(5, .getX)] }) : State)).home 5).dir)).owner), by decide +kernel⟩,
    ⟨Tests.evt { core := 0, id := 5 } (Tests.co { (Tests.st) with homes := [(5, { dir := { inLlc := true } })] } fun k => { k with cohReqs := [(5, .getX)] }), 5, 0, (((Tests.evt { core := 0, id := 5 } (Tests.co { (Tests.st) with homes := [(5, { dir := { inLlc := true } })] } fun k => { k with cohReqs := [(5, .getX)] }) : State)).home 5).dir, ((((((Tests.evt { core := 0, id := 5 } (Tests.co { (Tests.st) with homes := [(5, { dir := { inLlc := true } })] } fun k => { k with cohReqs := [(5, .getX)] }) : State)).home 5).dir)).targets (some (0))).filter (fun x => some x != (((((Tests.evt { core := 0, id := 5 } (Tests.co { (Tests.st) with homes := [(5, { dir := { inLlc := true } })] } fun k => { k with cohReqs := [(5, .getX)] }) : State)).home 5).dir)).owner), by decide +kernel⟩,
    ⟨Tests.evt { core := 0, id := 5 } (Tests.co { (Tests.st) with homes := [(5, { dir := { owner := some 3, st := .m, holders := [3] } })] } fun k => { k with cohReqs := [(5, .getX)] }), 5, 0, (((Tests.evt { core := 0, id := 5 } (Tests.co { (Tests.st) with homes := [(5, { dir := { owner := some 3, st := .m, holders := [3] } })] } fun k => { k with cohReqs := [(5, .getX)] }) : State)).home 5).dir, ((((((Tests.evt { core := 0, id := 5 } (Tests.co { (Tests.st) with homes := [(5, { dir := { owner := some 3, st := .m, holders := [3] } })] } fun k => { k with cohReqs := [(5, .getX)] }) : State)).home 5).dir)).targets (some (0))).filter (fun x => some x != (((((Tests.evt { core := 0, id := 5 } (Tests.co { (Tests.st) with homes := [(5, { dir := { owner := some 3, st := .m, holders := [3] } })] } fun k => { k with cohReqs := [(5, .getX)] }) : State)).home 5).dir)).owner), 3, by decide +kernel⟩,
    ⟨Tests.evt { core := 0, id := 5 } (Tests.co { (Tests.st) with homes := [(5, { dir := { owner := some 0, st := .o, holders := [0] } })] } fun k => { k with cohReqs := [(5, .upg)] }), 5, 0, (((Tests.evt { core := 0, id := 5 } (Tests.co { (Tests.st) with homes := [(5, { dir := { owner := some 0, st := .o, holders := [0] } })] } fun k => { k with cohReqs := [(5, .upg)] }) : State)).home 5).dir, by decide +kernel⟩,
    ⟨Tests.evt { core := 0, id := 5 } (Tests.co { (Tests.st) with homes := [(5, { dir := { st := .s, holders := [0, 7] } })] } fun k => { k with cohReqs := [(5, .upg)] }), 5, 0, (((Tests.evt { core := 0, id := 5 } (Tests.co { (Tests.st) with homes := [(5, { dir := { st := .s, holders := [0, 7] } })] } fun k => { k with cohReqs := [(5, .upg)] }) : State)).home 5).dir, by decide +kernel⟩,
    ⟨Tests.evt { core := 0, id := 5 } (Tests.co { (Tests.st) with homes := [(5, { dir := { st := .s, holders := [7] } })] } fun k => { k with cohReqs := [(5, .upg)] }), 5, 0, (((Tests.evt { core := 0, id := 5 } (Tests.co { (Tests.st) with homes := [(5, { dir := { st := .s, holders := [7] } })] } fun k => { k with cohReqs := [(5, .upg)] }) : State)).home 5).dir, by decide +kernel⟩,
    ⟨Tests.evt { core := 0, id := 5 } (Tests.co { (Tests.st) with homes := [(5, { dir := { inLlc := true } })] } fun k => { k with cohReqs := [(5, .getX)] }), 5, 0, (((Tests.evt { core := 0, id := 5 } (Tests.co { (Tests.st) with homes := [(5, { dir := { inLlc := true } })] } fun k => { k with cohReqs := [(5, .getX)] }) : State)).home 5).dir, by decide +kernel⟩,
    ⟨Tests.evt { core := 0, id := 5 } (Tests.co { (Tests.st) with homes := [(5, { arrived := (1, 3) })] } fun k => { k with cohReqs := [(5, .getS)] }), 5, 0, (((Tests.evt { core := 0, id := 5 } (Tests.co { (Tests.st) with homes := [(5, { arrived := (1, 3) })] } fun k => { k with cohReqs := [(5, .getS)] }) : State)).home 5).dir, by decide +kernel⟩,
    ⟨{ Tests.evt { core := 0, id := 5 } (Tests.co { (Tests.st) with homes := [(5, { trans := .memRd 0 .getS })] } fun k => { k with cohReqs := [(5, .getS)] }) with selfRefresh := List.replicate 12 true }, 5, 0, ((({ Tests.evt { core := 0, id := 5 } (Tests.co { (Tests.st) with homes := [(5, { trans := .memRd 0 .getS })] } fun k => { k with cohReqs := [(5, .getS)] }) with selfRefresh := List.replicate 12 true } : State)).home 5).dir, .getS, by decide +kernel⟩⟩

/-- Hypotheses of `Obligations.CoherenceEvents`, its part EventRequests are met. -/
theorem witness_CoherenceEvents_EventRequests_2 :
    (∃ (s : State), ∃ (line : Nat), ∃ (c : Nat), ∃ (d : Dir), ∃ (g : Moesi), s.ev.core = c ∧ s.ev.id = line ∧ (s.home line).dir = d ∧ tget (s.home line).grants c = some g ∧ (s.hearth (c / 8)).fenced = true) ∧
    (∃ (s : State), ∃ (line : Nat), ∃ (c : Nat), ∃ (d : Dir), ∃ (req : CohReq), ∃ (half : Nat), ∃ (q : CacheReq), s.ev.core = c ∧ s.ev.id = line ∧ (s.home line).dir = d ∧ (s.home line).trans = .memRd c req ∧ (half, q) ∈ halvesMissed s c line) ∧
    (∃ (s : State), ∃ (line : Nat), ∃ (c : Nat), ∃ (d : Dir), ∃ (req : CohReq), s.ev.core = c ∧ s.ev.id = line ∧ (s.home line).dir = d ∧ (s.home line).trans = .memRd c req ∧ (s.home line).waiting = [] ∧ s.ev.flag = false ∧ stackReady (touchKey s (128 * line)) (128 * line) = true ∧ halvesMissed s c line = [] ∧ s.setQuiet line = true) ∧
    (∃ (s : State), ∃ (line : Nat), ∃ (c : Nat), ∃ (d : Dir), ∃ (req : CohReq), s.ev.core = c ∧ s.ev.id = line ∧ (s.home line).dir = d ∧ (s.home line).trans = .memRd c req ∧ (s.home line).waiting = [] ∧ s.ev.flag = false ∧ stackReady (touchKey s (128 * line)) (128 * line) = true ∧ halvesMissed s c line = [] ∧ s.setQuiet line = true) ∧
    (∃ (s : State), ∃ (line : Nat), ∃ (c : Nat), ∃ (d : Dir), ∃ (g : Moesi), s.ev.core = c ∧ s.ev.id = line ∧ (s.home line).dir = d ∧ tget (s.home line).grants c = some g ∧ s.unasked c line = true ∧ (s.hearth (c / 8)).fenced = false ∧ (s.core c).l1.length < 64 * (s.core c).lsplit) :=
  ⟨⟨(Tests.evt { core := 0, id := 5 } (Tests.co { (Tests.co Tests.st fun k => { k with lsplit := 1 }) with homes := [(5, { grants := [(0, .e)] })] } fun k => { k with cohReqs := [(5, .getS)] })).modHearth 0 fun h => { h with fenced := true }, 5, 0, ((((Tests.evt { core := 0, id := 5 } (Tests.co { (Tests.co Tests.st fun k => { k with lsplit := 1 }) with homes := [(5, { grants := [(0, .e)] })] } fun k => { k with cohReqs := [(5, .getS)] })).modHearth 0 fun h => { h with fenced := true } : State)).home 5).dir, .e, by decide +kernel⟩,
    ⟨Tests.evt { core := 0, id := (hostKey 0 / 128) } (Tests.co { (Tests.access { (Tests.remote .load (hostKey 0) 8 .sent) with tag := some 0 } Tests.st) with homes := [((hostKey 0 / 128), { trans := .memRd 0 .getS })] } fun k => { k with cohReqs := [((hostKey 0 / 128), .getS)] }), hostKey 0 / 128, 0, (((Tests.evt { core := 0, id := (hostKey 0 / 128) } (Tests.co { (Tests.access { (Tests.remote .load (hostKey 0) 8 .sent) with tag := some 0 } Tests.st) with homes := [((hostKey 0 / 128), { trans := .memRd 0 .getS })] } fun k => { k with cohReqs := [((hostKey 0 / 128), .getS)] }) : State)).home (hostKey 0 / 128)).dir, .getS, ((halvesMissed (Tests.evt { core := 0, id := (hostKey 0 / 128) } (Tests.co { (Tests.access { (Tests.remote .load (hostKey 0) 8 .sent) with tag := some 0 } Tests.st) with homes := [((hostKey 0 / 128), { trans := .memRd 0 .getS })] } fun k => { k with cohReqs := [((hostKey 0 / 128), .getS)] }) : State) (0) (hostKey 0 / 128)).headD (0, .rdCurr)).1, ((halvesMissed (Tests.evt { core := 0, id := (hostKey 0 / 128) } (Tests.co { (Tests.access { (Tests.remote .load (hostKey 0) 8 .sent) with tag := some 0 } Tests.st) with homes := [((hostKey 0 / 128), { trans := .memRd 0 .getS })] } fun k => { k with cohReqs := [((hostKey 0 / 128), .getS)] }) : State) (0) (hostKey 0 / 128)).headD (0, .rdCurr)).2, by decide +kernel⟩,
    ⟨Tests.evt { core := 0, id := 5 } (Tests.co { (Tests.st) with homes := [(5, { trans := .memRd 0 .getS })] } fun k => { k with cohReqs := [(5, .getS)] }), 5, 0, (((Tests.evt { core := 0, id := 5 } (Tests.co { (Tests.st) with homes := [(5, { trans := .memRd 0 .getS })] } fun k => { k with cohReqs := [(5, .getS)] }) : State)).home 5).dir, .getS, by decide +kernel⟩,
    ⟨Tests.evt { core := 0, id := 5 } (Tests.co { (Tests.st) with homes := [(5, { trans := .memRd 0 .getX })] } fun k => { k with cohReqs := [(5, .getX)] }), 5, 0, (((Tests.evt { core := 0, id := 5 } (Tests.co { (Tests.st) with homes := [(5, { trans := .memRd 0 .getX })] } fun k => { k with cohReqs := [(5, .getX)] }) : State)).home 5).dir, .getX, by decide +kernel⟩,
    ⟨Tests.evt { core := 0, id := 5 } (Tests.co { (Tests.co Tests.st fun k => { k with lsplit := 1 }) with homes := [(5, { grants := [(0, .e)] })] } fun k => { k with cohReqs := [(5, .getS)] }), 5, 0, (((Tests.evt { core := 0, id := 5 } (Tests.co { (Tests.co Tests.st fun k => { k with lsplit := 1 }) with homes := [(5, { grants := [(0, .e)] })] } fun k => { k with cohReqs := [(5, .getS)] }) : State)).home 5).dir, .e, by decide +kernel⟩⟩

/-- Hypotheses of `Obligations.CoherenceEvents`, its part EventCopies are met. -/
theorem witness_CoherenceEvents_EventCopies :
    (∃ (s : State), ∃ (line : Nat), ∃ (c : Nat), ∃ (x : Nat), ∃ (req : CohReq), ∃ (w : List Nat), ∃ (since : Nat), s.ev.core = c ∧ s.ev.id = line ∧ (s.home line).trans = .invFan x req w since ∧ natMem w c = true ∧ tget (s.home line).grants c = none ∧ s.ev.flag = true) ∧
    (∃ (s : State), ∃ (line : Nat), ∃ (c : Nat), ∃ (x : Nat), ∃ (req : CohReq), ∃ (w : List Nat), ∃ (since : Nat), s.ev.core = c ∧ s.ev.id = line ∧ (s.home line).trans = .invFan x req w since ∧ natMem w c = true ∧ tget (s.home line).grants c = none ∧ s.ev.flag = false) ∧
    (∃ (s : State), ∃ (line : Nat), ∃ (c : Nat), ∃ (x : Nat), ∃ (req : CohReq), ∃ (w : List Nat), ∃ (since : Nat), s.ev.core = c ∧ s.ev.id = line ∧ (s.home line).trans = .invFan x req w since ∧ natMem w c = true ∧ tget (s.home line).grants c = none ∧ s.ev.flag = false) ∧
    (∃ (s : State), ∃ (line : Nat), ∃ (c : Nat), ∃ (x : Nat), ∃ (req : CohReq), ∃ (w : List Nat), ∃ (since : Nat), s.ev.core = c ∧ s.ev.id = line ∧ (s.home line).trans = .invFan x req w since ∧ natMem w c = true ∧ tget (s.home line).grants c = none ∧ tget (s.core c).l1 line = none ∧ natDel w c ≠ []) ∧
    (∃ (s : State), ∃ (line : Nat), ∃ (c : Nat), ∃ (x : Nat), ∃ (req : CohReq), ∃ (w : List Nat), ∃ (since : Nat), s.ev.core = c ∧ s.ev.id = line ∧ (s.home line).trans = .invFan x req w since ∧ natMem w c = true ∧ tget (s.home line).grants c = none ∧ tget (s.core c).l1 line = none ∧ natDel w c = [] ∧ req = .upg ∧ (s.home line).waiting = []) ∧
    (∃ (s : State), ∃ (line : Nat), ∃ (c : Nat), ∃ (x : Nat), ∃ (req : CohReq), ∃ (w : List Nat), ∃ (since : Nat), s.ev.core = c ∧ s.ev.id = line ∧ (s.home line).trans = .invFan x req w since ∧ natMem w c = true ∧ tget (s.home line).grants c = none ∧ since + 8192 ≤ s.cycle ∧ s.ev.flag = false) ∧
    (∃ (s : State), ∃ (line : Nat), ∃ (c : Nat), ∃ (x : Nat), ∃ (req : CohReq), ∃ (w : List Nat), ∃ (since : Nat), s.ev.core = c ∧ s.ev.id = line ∧ (s.home line).trans = .invFan x req w since ∧ natMem w c = true ∧ tget (s.home line).grants c = none ∧ since + 8192 ≤ s.cycle ∧ s.ev.flag = true) ∧
    (∃ (s : State), ∃ (line : Nat), ∃ (c : Nat), ∃ (x : Nat), ∃ (req : CohReq), ∃ (w : List Nat), ∃ (since : Nat), s.ev.core = c ∧ s.ev.id = line ∧ (s.home line).trans = .invFan x req w since ∧ natMem w c = true ∧ tget (s.home line).grants c = none ∧ s.cycle < since + 8192) ∧
    (∃ (s : State), ∃ (line : Nat), ∃ (c : Nat), ∃ (r : HomeReq), ∃ (w : List Nat), ∃ (since : Nat), ∃ (out : Nat), s.ev.core = c ∧ s.ev.id = line ∧ (s.home line).trans = .fence r w since out ∧ natMem w c = true ∧ since + 8192 ≤ s.cycle ∧ s.ev.flag = false ∧ out ≠ c) ∧
    (∃ (s : State), ∃ (line : Nat), ∃ (c : Nat), ∃ (r : HomeReq), ∃ (w : List Nat), ∃ (since : Nat), ∃ (out : Nat), s.ev.core = c ∧ s.ev.id = line ∧ (s.home line).trans = .fence r w since out ∧ natMem w c = true ∧ since + 8192 ≤ s.cycle ∧ s.ev.flag = false ∧ out = c ∧ (s.hearth (c / 8)).fenced = false) ∧
    (∃ (s : State), ∃ (line : Nat), ∃ (c : Nat), ∃ (x : Nat), ∃ (req : CohReq), ∃ (y : L1Line), s.ev.core = c ∧ s.ev.id = line ∧ (s.home line).trans = .fwd x req c false ∧ tget (s.home line).grants c = none ∧ tget (s.core c).l1 line = some y ∧ req = .getS) ∧
    (∃ (s : State), ∃ (line : Nat), ∃ (c : Nat), ∃ (x : Nat), ∃ (req : CohReq), ∃ (y : L1Line), s.ev.core = c ∧ s.ev.id = line ∧ (s.home line).trans = .fwd x req c false ∧ tget (s.home line).grants c = none ∧ tget (s.core c).l1 line = some y ∧ req = .getS) ∧
    (∃ (s : State), ∃ (line : Nat), ∃ (c : Nat), ∃ (x : Nat), ∃ (req : CohReq), ∃ (y : L1Line), s.ev.core = c ∧ s.ev.id = line ∧ (s.home line).trans = .fwd x req c false ∧ tget (s.home line).grants c = none ∧ tget (s.core c).l1 line = some y ∧ req = .getS) ∧
    (∃ (s : State), ∃ (line : Nat), ∃ (c : Nat), ∃ (x : Nat), ∃ (req : CohReq), ∃ (y : L1Line), s.ev.core = c ∧ s.ev.id = line ∧ (s.home line).trans = .fwd x req c false ∧ tget (s.home line).grants c = none ∧ tget (s.core c).l1 line = some y ∧ req = .getX) :=
  ⟨⟨Tests.evt { core := 0, id := 5, flag := true } (Tests.co { (Tests.co (Tests.st) fun k => { k with l1 := [(5, { st := .s })] }) with homes := [(5, { trans := .invFan 3 .getX [0] 9 })] } fun k => { k with cohReqs := [(5, .upg)] }), 5, 0, 3, .getX, [0], 9, by decide +kernel⟩,
    ⟨Tests.evt { core := 0, id := 5 } (Tests.co { (Tests.co (Tests.st) fun k => { k with l1 := [(5, { st := .s })] }) with homes := [(5, { trans := .invFan 3 .getX [0] 9 })] } fun k => { k with cohReqs := [(5, .upg)] }), 5, 0, 3, .getX, [0], 9, by decide +kernel⟩,
    ⟨Tests.evt { core := 0, id := 5 } (Tests.co { (Tests.co (Tests.st) fun k => { k with l1 := [(5, { st := .m })] }) with homes := [(5, { trans := .invFan 3 .getX [0] 9 })] } fun k => { k with cohReqs := [] }), 5, 0, 3, .getX, [0], 9, by decide +kernel⟩,
    ⟨Tests.evt { core := 0, id := 5 } (Tests.co { (Tests.st) with homes := [(5, { trans := .invFan 3 .getX [0, 7] 9 })] } fun k => { k with cohReqs := [] }), 5, 0, 3, .getX, [0, 7], 9, by decide +kernel⟩,
    ⟨Tests.evt { core := 0, id := 5 } (Tests.co { (Tests.st) with homes := [(5, { trans := .invFan 3 .upg [0] 9, dir := { st := .s, holders := [0, 3] } })] } fun k => { k with cohReqs := [] }), 5, 0, 3, .upg, [0], 9, by decide +kernel⟩,
    ⟨Tests.evt { core := 0, id := 5 } (Tests.co { (Tests.st) with cycle := 8201, homes := [(5, { trans := .invFan 3 .getX [0] 9 })] } fun k => { k with cohReqs := [] }), 5, 0, 3, .getX, [0], 9, by decide +kernel⟩,
    ⟨Tests.evt { core := 0, id := 5, flag := true } (Tests.co { (Tests.st) with cycle := 8201, homes := [(5, { trans := .invFan 3 .getX [0] 9 })] } fun k => { k with cohReqs := [] }), 5, 0, 3, .getX, [0], 9, by decide +kernel⟩,
    ⟨Tests.evt { core := 0, id := 5 } (Tests.co { (Tests.st) with cycle := 8200, homes := [(5, { trans := .invFan 3 .getX [0] 9 })] } fun k => { k with cohReqs := [] }), 5, 0, 3, .getX, [0], 9, by decide +kernel⟩,
    ⟨Tests.evt { core := 0, id := 5 } (Tests.co { (Tests.st) with cycle := 8201, homes := [(5, { trans := .fence (.core 3 .getX) [0] 9 7 })] } fun k => { k with cohReqs := [] }), 5, 0, .core 3 .getX, [0], 9, 7, by decide +kernel⟩,
    ⟨Tests.evt { core := 0, id := 5 } (Tests.co { (Tests.st) with cycle := 8201, homes := [(5, { trans := .fence (.core 3 .getX) [0] 9 0 })] } fun k => { k with cohReqs := [] }), 5, 0, .core 3 .getX, [0], 9, 0, by decide +kernel⟩,
    ⟨Tests.evt { core := 0, id := 5 } (Tests.co { (Tests.co (Tests.st) fun k => { k with l1 := [(5, { st := .m })] }) with homes := [(5, { trans := .fwd 3 .getS 0 false })] } fun k => { k with cohReqs := [] }), 5, 0, 3, .getS, { st := .m }, by decide +kernel⟩,
    ⟨Tests.evt { core := 0, id := 5 } (Tests.co { (Tests.co (Tests.st) fun k => { k with l1 := [(5, { st := .e })] }) with homes := [(5, { trans := .fwd 3 .getS 0 false })] } fun k => { k with cohReqs := [] }), 5, 0, 3, .getS, { st := .e }, by decide +kernel⟩,
    ⟨Tests.evt { core := 0, id := 5 } (Tests.co { (Tests.co (Tests.st) fun k => { k with l1 := [(5, { st := .o })] }) with homes := [(5, { trans := .fwd 3 .getS 0 false })] } fun k => { k with cohReqs := [] }), 5, 0, 3, .getS, { st := .o }, by decide +kernel⟩,
    ⟨Tests.evt { core := 0, id := 5 } (Tests.co { (Tests.co (Tests.st) fun k => { k with l1 := [(5, { st := .m })] }) with homes := [(5, { trans := .fwd 3 .getX 0 false })] } fun k => { k with cohReqs := [] }), 5, 0, 3, .getX, { st := .m }, by decide +kernel⟩⟩

/-- Hypotheses of `Obligations.CoherenceEvents`, its part EventCopies are met. -/
theorem witness_CoherenceEvents_EventCopies_2 :
    (∃ (s : State), ∃ (line : Nat), ∃ (c : Nat), ∃ (x : Nat), ∃ (o : Nat), ∃ (y : L1Line), s.ev.core = c ∧ s.ev.id = line ∧ (s.home line).trans = .fwd x .getS o true ∧ (s.home line).waiting = [] ∧ (s.home line).wbHold = none ∧ tget (s.core o).l1 line = some y ∧ y.st = .o ∧ o ≠ x) ∧
    (∃ (s : State), ∃ (line : Nat), ∃ (c : Nat), ∃ (x : Nat), ∃ (o : Nat), s.ev.core = c ∧ s.ev.id = line ∧ (s.home line).trans = .fwd x .getX o true ∧ (s.home line).waiting = [] ∧ (s.home line).wbHold = none ∧ tget (s.core o).l1 line = none) ∧
    (∃ (s : State), ∃ (line : Nat), ∃ (c : Nat), ∃ (i : Instr), ∃ (req : CohReq), ∃ (st : Moesi), ∃ (x : L1Line), ((i = .putm ∧ req = CohReq.putM ∧ st = Moesi.m) ∨ (i = .puto ∧ req = .putO ∧ st = .o) ∨ (i = .pute ∧ req = .putE ∧ st = .e) ∨ (i = .puts ∧ req = .putS ∧ st = .s)) ∧ s.ev.core = c ∧ s.ev.id = line ∧ tget (s.core c).l1 line = some x ∧ x.st = st ∧ tget (s.core c).writeback line = none ∧ tget (s.core c).cohReqs line = none) ∧
    (∃ (s : State), ∃ (line : Nat), ∃ (c : Nat), ∃ (i : Instr), ∃ (req : CohReq), ∃ (st : Moesi), ((i = .putm ∧ req = CohReq.putM ∧ st = Moesi.m) ∨ (i = .puto ∧ req = .putO ∧ st = .o) ∨ (i = .pute ∧ req = .putE ∧ st = .e) ∨ (i = .puts ∧ req = .putS ∧ st = .s)) ∧ s.ev.core = c ∧ s.ev.id = line ∧ tget (s.core c).l1 line = none ∧ tget (s.core c).writeback line = some st ∧ s.homeFree line = true ∧ (s.home line).wbHold = none ∧ tget (s.home line).answers c = none ∧ s.reaches line c = true) ∧
    (∃ (s : State), ∃ (line : Nat), ∃ (c : Nat), ∃ (i : Instr), ∃ (req : CohReq), ∃ (st : Moesi), ((i = .putm ∧ req = CohReq.putM ∧ st = Moesi.m) ∨ (i = .puto ∧ req = .putO ∧ st = .o) ∨ (i = .pute ∧ req = .putE ∧ st = .e) ∨ (i = .puts ∧ req = .putS ∧ st = .s)) ∧ s.ev.core = c ∧ s.ev.id = line ∧ tget (s.core c).l1 line = none ∧ tget (s.core c).writeback line = some st ∧ s.homeFree line = true ∧ (s.home line).wbHold = none ∧ tget (s.home line).answers c = none ∧ s.reaches line c = true) ∧
    (∃ (s : State), ∃ (line : Nat), ∃ (c : Nat), ∃ (i : Instr), ∃ (req : CohReq), ∃ (st : Moesi), ∃ (x : L1Line), ((i = .putm ∧ req = CohReq.putM ∧ st = Moesi.m) ∨ (i = .puto ∧ req = .putO ∧ st = .o) ∨ (i = .pute ∧ req = .putE ∧ st = .e) ∨ (i = .puts ∧ req = .putS ∧ st = .s)) ∧ s.ev.core = c ∧ s.ev.id = line ∧ tget (s.core c).l1 line = some x ∧ x.st = st ∧ tget (s.core c).writeback line = none ∧ tget (s.core c).cohReqs line = none) ∧
    (∃ (s : State), ∃ (line : Nat), ∃ (c : Nat), ∃ (i : Instr), ∃ (req : CohReq), ∃ (st : Moesi), ((i = .putm ∧ req = CohReq.putM ∧ st = Moesi.m) ∨ (i = .puto ∧ req = .putO ∧ st = .o) ∨ (i = .pute ∧ req = .putE ∧ st = .e) ∨ (i = .puts ∧ req = .putS ∧ st = .s)) ∧ s.ev.core = c ∧ s.ev.id = line ∧ tget (s.core c).l1 line = none ∧ tget (s.core c).writeback line = some st ∧ s.homeFree line = true ∧ (s.home line).wbHold = none ∧ tget (s.home line).answers c = none ∧ s.reaches line c = true) ∧
    (∃ (s : State), ∃ (line : Nat), ∃ (c : Nat), ∃ (i : Instr), ∃ (req : CohReq), ∃ (st : Moesi), ((i = .putm ∧ req = CohReq.putM ∧ st = Moesi.m) ∨ (i = .puto ∧ req = .putO ∧ st = .o) ∨ (i = .pute ∧ req = .putE ∧ st = .e) ∨ (i = .puts ∧ req = .putS ∧ st = .s)) ∧ s.ev.core = c ∧ s.ev.id = line ∧ tget (s.core c).l1 line = none ∧ tget (s.core c).writeback line = some st ∧ s.homeFree line = true ∧ (s.home line).wbHold = none ∧ tget (s.home line).answers c = none ∧ s.reaches line c = true) ∧
    (∃ (s : State), ∃ (line : Nat), ∃ (c : Nat), ∃ (i : Instr), ∃ (req : CohReq), ∃ (st : Moesi), ∃ (x : L1Line), ((i = .putm ∧ req = CohReq.putM ∧ st = Moesi.m) ∨ (i = .puto ∧ req = .putO ∧ st = .o) ∨ (i = .pute ∧ req = .putE ∧ st = .e) ∨ (i = .puts ∧ req = .putS ∧ st = .s)) ∧ s.ev.core = c ∧ s.ev.id = line ∧ tget (s.core c).l1 line = some x ∧ x.st = st ∧ tget (s.core c).writeback line = none ∧ tget (s.core c).cohReqs line = none) ∧
    (∃ (s : State), ∃ (line : Nat), ∃ (c : Nat), ∃ (i : Instr), ∃ (req : CohReq), ∃ (st : Moesi), ((i = .putm ∧ req = CohReq.putM ∧ st = Moesi.m) ∨ (i = .puto ∧ req = .putO ∧ st = .o) ∨ (i = .pute ∧ req = .putE ∧ st = .e) ∨ (i = .puts ∧ req = .putS ∧ st = .s)) ∧ s.ev.core = c ∧ s.ev.id = line ∧ tget (s.core c).l1 line = none ∧ tget (s.core c).writeback line = some st ∧ s.homeFree line = true ∧ (s.home line).wbHold = none ∧ tget (s.home line).answers c = none ∧ s.reaches line c = true) ∧
    (∃ (s : State), ∃ (line : Nat), ∃ (c : Nat), ∃ (i : Instr), ∃ (req : CohReq), ∃ (st : Moesi), ((i = .putm ∧ req = CohReq.putM ∧ st = Moesi.m) ∨ (i = .puto ∧ req = .putO ∧ st = .o) ∨ (i = .pute ∧ req = .putE ∧ st = .e) ∨ (i = .puts ∧ req = .putS ∧ st = .s)) ∧ s.ev.core = c ∧ s.ev.id = line ∧ tget (s.core c).l1 line = none ∧ tget (s.core c).writeback line = some st ∧ s.homeFree line = true ∧ (s.home line).wbHold = none ∧ tget (s.home line).answers c = none ∧ s.reaches line c = true) ∧
    (∃ (s : State), ∃ (line : Nat), ∃ (c : Nat), ∃ (i : Instr), ∃ (req : CohReq), ∃ (st : Moesi), ∃ (x : L1Line), ((i = .putm ∧ req = CohReq.putM ∧ st = Moesi.m) ∨ (i = .puto ∧ req = .putO ∧ st = .o) ∨ (i = .pute ∧ req = .putE ∧ st = .e) ∨ (i = .puts ∧ req = .putS ∧ st = .s)) ∧ s.ev.core = c ∧ s.ev.id = line ∧ tget (s.core c).l1 line = some x ∧ x.st = st ∧ tget (s.core c).writeback line = none ∧ tget (s.core c).cohReqs line = none) ∧
    (∃ (s : State), ∃ (line : Nat), ∃ (c : Nat), ∃ (i : Instr), ∃ (req : CohReq), ∃ (st : Moesi), ((i = .putm ∧ req = CohReq.putM ∧ st = Moesi.m) ∨ (i = .puto ∧ req = .putO ∧ st = .o) ∨ (i = .pute ∧ req = .putE ∧ st = .e) ∨ (i = .puts ∧ req = .putS ∧ st = .s)) ∧ s.ev.core = c ∧ s.ev.id = line ∧ tget (s.core c).l1 line = none ∧ tget (s.core c).writeback line = some st ∧ s.homeFree line = true ∧ (s.home line).wbHold = none ∧ tget (s.home line).answers c = none ∧ s.reaches line c = true) ∧
    (∃ (s : State), ∃ (line : Nat), ∃ (c : Nat), ∃ (i : Instr), ∃ (req : CohReq), ∃ (st : Moesi), ((i = .putm ∧ req = CohReq.putM ∧ st = Moesi.m) ∨ (i = .puto ∧ req = .putO ∧ st = .o) ∨ (i = .pute ∧ req = .putE ∧ st = .e) ∨ (i = .puts ∧ req = .putS ∧ st = .s)) ∧ s.ev.core = c ∧ s.ev.id = line ∧ tget (s.core c).l1 line = none ∧ tget (s.core c).writeback line = some st ∧ s.homeFree line = true ∧ (s.home line).wbHold = none ∧ tget (s.home line).answers c = none ∧ s.reaches line c = true) :=
  ⟨⟨Tests.evt { core := 0, id := 5 } (Tests.co { (Tests.co (Tests.st) fun k => { k with l1 := [(5, { st := .o })] }) with homes := [(5, { dir := { st := .m, owner := some 0, holders := [0] }, trans := .fwd 3 .getS 0 true })] } fun k => { k with cohReqs := [] }), 5, 0, 3, 0, { st := .o }, by decide +kernel⟩,
    ⟨Tests.evt { core := 0, id := 5 } (Tests.co { (Tests.st) with homes := [(5, { dir := { st := .m, owner := some 0, holders := [0] }, trans := .fwd 3 .getX 0 true })] } fun k => { k with cohReqs := [] }), 5, 0, 3, 0, by decide +kernel⟩,
    ⟨Tests.evt { core := 0, id := 5 } (Tests.co { (Tests.co (Tests.st) fun k => { k with l1 := [(5, { st := .m })] }) with homes := [(5, {  })] } fun k => { k with cohReqs := [] }), 5, 0, .putm, .putM, .m, { st := .m }, (.inl ⟨rfl, rfl, rfl⟩), by decide +kernel⟩,
    ⟨Tests.evt { core := 0, id := 5 } (Tests.co { (Tests.co Tests.st fun k => { k with writeback := [(5, .m)] }) with homes := [(5, { dir := { st := .m, owner := some 0, holders := [0] } })] } fun k => { k with cohReqs := [] }), 5, 0, .putm, .putM, .m, (.inl ⟨rfl, rfl, rfl⟩), by decide +kernel⟩,
    ⟨Tests.evt { core := 0, id := 5 } (Tests.co { (Tests.co Tests.st fun k => { k with writeback := [(5, .m)] }) with homes := [(5, { dir := { st := .m, owner := some 3, holders := [3] } })] } fun k => { k with cohReqs := [] }), 5, 0, .putm, .putM, .m, (.inl ⟨rfl, rfl, rfl⟩), by decide +kernel⟩,
    ⟨Tests.evt { core := 0, id := 5 } (Tests.co { (Tests.co (Tests.st) fun k => { k with l1 := [(5, { st := .o })] }) with homes := [(5, {  })] } fun k => { k with cohReqs := [] }), 5, 0, .puto, .putO, .o, { st := .o }, (.inr (.inl ⟨rfl, rfl, rfl⟩)), by decide +kernel⟩,
    ⟨Tests.evt { core := 0, id := 5 } (Tests.co { (Tests.co Tests.st fun k => { k with writeback := [(5, .o)] }) with homes := [(5, { dir := { st := .o, owner := some 0, holders := [0] } })] } fun k => { k with cohReqs := [] }), 5, 0, .puto, .putO, .o, (.inr (.inl ⟨rfl, rfl, rfl⟩)), by decide +kernel⟩,
    ⟨Tests.evt { core := 0, id := 5 } (Tests.co { (Tests.co Tests.st fun k => { k with writeback := [(5, .o)] }) with homes := [(5, { dir := { st := .o, owner := some 3, holders := [3] } })] } fun k => { k with cohReqs := [] }), 5, 0, .puto, .putO, .o, (.inr (.inl ⟨rfl, rfl, rfl⟩)), by decide +kernel⟩,
    ⟨Tests.evt { core := 0, id := 5 } (Tests.co { (Tests.co (Tests.st) fun k => { k with l1 := [(5, { st := .e })] }) with homes := [(5, {  })] } fun k => { k with cohReqs := [] }), 5, 0, .pute, .putE, .e, { st := .e }, (.inr (.inr (.inl ⟨rfl, rfl, rfl⟩))), by decide +kernel⟩,
    ⟨Tests.evt { core := 0, id := 5 } (Tests.co { (Tests.co Tests.st fun k => { k with writeback := [(5, .e)] }) with homes := [(5, { dir := { st := .e, owner := some 0, holders := [0] } })] } fun k => { k with cohReqs := [] }), 5, 0, .pute, .putE, .e, (.inr (.inr (.inl ⟨rfl, rfl, rfl⟩))), by decide +kernel⟩,
    ⟨Tests.evt { core := 0, id := 5 } (Tests.co { (Tests.co Tests.st fun k => { k with writeback := [(5, .e)] }) with homes := [(5, { dir := { st := .e, owner := some 3, holders := [3] } })] } fun k => { k with cohReqs := [] }), 5, 0, .pute, .putE, .e, (.inr (.inr (.inl ⟨rfl, rfl, rfl⟩))), by decide +kernel⟩,
    ⟨Tests.evt { core := 0, id := 5 } (Tests.co { (Tests.co (Tests.st) fun k => { k with l1 := [(5, { st := .s })] }) with homes := [(5, {  })] } fun k => { k with cohReqs := [] }), 5, 0, .puts, .putS, .s, { st := .s }, (.inr (.inr (.inr (⟨rfl, rfl, rfl⟩)))), by decide +kernel⟩,
    ⟨Tests.evt { core := 0, id := 5 } (Tests.co { (Tests.co Tests.st fun k => { k with writeback := [(5, .s)] }) with homes := [(5, { dir := { st := .s, holders := [0, 3] } })] } fun k => { k with cohReqs := [] }), 5, 0, .puts, .putS, .s, (.inr (.inr (.inr (⟨rfl, rfl, rfl⟩)))), by decide +kernel⟩,
    ⟨Tests.evt { core := 0, id := 5 } (Tests.co { (Tests.co Tests.st fun k => { k with writeback := [(5, .s)] }) with homes := [(5, { dir := { st := .s, holders := [0, 3] } })] } fun k => { k with cohReqs := [] }), 5, 0, .puts, .putS, .s, (.inr (.inr (.inr (⟨rfl, rfl, rfl⟩)))), by decide +kernel⟩⟩

/-- Hypotheses of `Obligations.CoherenceEvents`, its part EventCopies are met. -/
theorem witness_CoherenceEvents_EventCopies_3 :
    (∃ (s : State), ∃ (line : Nat), ∃ (c : Nat), ∃ (good : Bool), s.ev.core = c ∧ s.ev.id = line ∧ tget (s.home line).answers c = some good ∧ s.unasked c line = true) :=
  ⟨Tests.evt { core := 0, id := 5 } (Tests.co { (Tests.co Tests.st fun k => { k with writeback := [(5, .m)] }) with homes := [(5, { answers := [(0, true)] })] } fun k => { k with cohReqs := [] }), 5, 0, true, by decide +kernel⟩

/-- Hypotheses of `Obligations.CoherenceEvents`, its part EventHost are met. -/
theorem witness_CoherenceEvents_EventHost :
    (∃ (s : State), ∃ (p : Nat), ∃ (key : Nat), ∃ (bytes : List Byte), s.ev.port = p ∧ s.boot = .running ∧ s.portUp.getD p false = true ∧ s.ev.id = key ∧ s.ev.bytes = bytes ∧ bytes ≠ [] ∧ key % 128 + bytes.length ≤ 128 ∧ key + bytes.length ≤ Config.hbmBytes ∧ Memory.wf s.mem = true ∧ s.homeFree (key / 128) = true ∧ s.takesHost (key / 128) = true ∧ (s.home (key / 128)).dir.targets none = [] ∧ (postedPort s p = true → tget s.hostWrites p = none ∧ hostAtHome s (.write p key bytes s.ev.flag) = false)) ∧
    (∃ (s : State), ∃ (p : Nat), ∃ (key : Nat), ∃ (bytes : List Byte), s.ev.port = p ∧ s.boot = .running ∧ s.portUp.getD p false = true ∧ s.ev.id = key ∧ s.ev.bytes = bytes ∧ bytes ≠ [] ∧ key % 128 + bytes.length ≤ 128 ∧ key + bytes.length ≤ Config.hbmBytes ∧ Memory.wf s.mem = true ∧ s.homeFree (key / 128) = true ∧ s.takesHost (key / 128) = true ∧ (s.home (key / 128)).dir.targets none = [] ∧ (postedPort s p = true → tget s.hostWrites p = none ∧ hostAtHome s (.write p key bytes s.ev.flag) = false)) ∧
    (∃ (s : State), ∃ (p : Nat), ∃ (key : Nat), ∃ (bytes : List Byte), s.ev.port = p ∧ s.boot = .running ∧ s.portUp.getD p false = true ∧ s.ev.id = key ∧ s.ev.bytes = bytes ∧ bytes ≠ [] ∧ key % 128 + bytes.length ≤ 128 ∧ key + bytes.length ≤ Config.hbmBytes ∧ Memory.wf s.mem = true ∧ s.homeFree (key / 128) = true ∧ s.takesHost (key / 128) = true ∧ (s.home (key / 128)).dir.targets none = [] ∧ (postedPort s p = true → tget s.hostWrites p = none ∧ hostAtHome s (.write p key bytes s.ev.flag) = false)) ∧
    (∃ (s : State), ∃ (p : Nat), ∃ (key : Nat), ∃ (n : Nat), s.ev.port = p ∧ s.boot = .running ∧ s.portUp.getD p false = true ∧ s.ev.id = key ∧ s.ev.n = n ∧ 0 < n ∧ key % 128 + n ≤ 128 ∧ key + n ≤ Config.hbmBytes ∧ s.homeFree (key / 128) = true ∧ s.takesHost (key / 128) = true ∧ (s.home (key / 128)).dir.owner = none) ∧
    (∃ (s : State), ∃ (p : Nat), ∃ (key : Nat), ∃ (n : Nat), s.ev.port = p ∧ s.boot = .running ∧ s.portUp.getD p false = true ∧ s.ev.id = key ∧ s.ev.n = n ∧ 0 < n ∧ key % 128 + n ≤ 128 ∧ key + n ≤ Config.hbmBytes ∧ s.homeFree (key / 128) = true ∧ s.takesHost (key / 128) = true ∧ (s.home (key / 128)).dir.owner = none) ∧
    (∃ (s : State), ∃ (p : Nat), ∃ (key : Nat), ∃ (bytes : List Byte), ∃ (op : HostOp), ∃ (r : List HostOp), s.ev.port = p ∧ s.boot = .running ∧ s.portUp.getD p false = true ∧ s.ev.id = key ∧ s.ev.bytes = bytes ∧ bytes ≠ [] ∧ key % 128 + bytes.length ≤ 128 ∧ key + bytes.length ≤ Config.hbmBytes ∧ postedPort s p = true ∧ tget s.hostWrites p = some (op :: r) ∧ hostAtHome s op = true) ∧
    (∃ (s : State), ∃ (p : Nat), ∃ (half : Nat), ∃ (i : Instr), ∃ (kind : Nat), ∃ (line : Nat), ((i = .snpInv ∧ kind = 0) ∨ (i = .snpData ∧ kind = 1) ∨ (i = .snpCur ∧ kind = 2)) ∧ s.ev.port = p ∧ s.boot = .running ∧ s.portUp.getD p false = true ∧ (if p = 0 then s.cfg.port0 else s.cfg.port1) = some .cxl ∧ s.ev.id = half ∧ line = hostKey (64 * half) / 128 ∧ s.homeFree line = true ∧ s.takesHost line = true ∧ (s.home line).dir.targets none = []) ∧
    (∃ (s : State), ∃ (p : Nat), ∃ (half : Nat), ∃ (i : Instr), ∃ (kind : Nat), ∃ (line : Nat), ((i = .snpInv ∧ kind = 0) ∨ (i = .snpData ∧ kind = 1) ∨ (i = .snpCur ∧ kind = 2)) ∧ s.ev.port = p ∧ s.boot = .running ∧ s.portUp.getD p false = true ∧ (if p = 0 then s.cfg.port0 else s.cfg.port1) = some .cxl ∧ s.ev.id = half ∧ line = hostKey (64 * half) / 128 ∧ s.homeFree line = true ∧ s.takesHost line = true ∧ (s.home line).dir.targets none = []) ∧
    (∃ (s : State), ∃ (p : Nat), ∃ (half : Nat), ∃ (i : Instr), ∃ (kind : Nat), ∃ (line : Nat), ((i = .snpInv ∧ kind = 0) ∨ (i = .snpData ∧ kind = 1) ∨ (i = .snpCur ∧ kind = 2)) ∧ s.ev.port = p ∧ s.boot = .running ∧ s.portUp.getD p false = true ∧ (if p = 0 then s.cfg.port0 else s.cfg.port1) = some .cxl ∧ s.ev.id = half ∧ line = hostKey (64 * half) / 128 ∧ s.homeFree line = true ∧ s.takesHost line = true ∧ (s.home line).dir.targets none = []) ∧
    (∃ (s : State), ∃ (p : Nat), ∃ (half : Nat), ∃ (i : Instr), ∃ (kind : Nat), ∃ (line : Nat), ((i = .snpInv ∧ kind = 0) ∨ (i = .snpData ∧ kind = 1) ∨ (i = .snpCur ∧ kind = 2)) ∧ s.ev.port = p ∧ s.boot = .running ∧ s.portUp.getD p false = true ∧ (if p = 0 then s.cfg.port0 else s.cfg.port1) = some .cxl ∧ s.ev.id = half ∧ line = hostKey (64 * half) / 128 ∧ s.homeFree line = true ∧ s.takesHost line = true ∧ (s.home line).dir.targets none = []) ∧
    (∃ (s : State), ∃ (p : Nat), ∃ (half : Nat), ∃ (i : Instr), ∃ (kind : Nat), ∃ (line : Nat), ((i = .snpInv ∧ kind = 0) ∨ (i = .snpData ∧ kind = 1) ∨ (i = .snpCur ∧ kind = 2)) ∧ s.ev.port = p ∧ s.boot = .running ∧ s.portUp.getD p false = true ∧ (if p = 0 then s.cfg.port0 else s.cfg.port1) = some .cxl ∧ s.ev.id = half ∧ line = hostKey (64 * half) / 128 ∧ s.homeFree line = true ∧ s.takesHost line = true ∧ (s.home line).dir.targets none = []) ∧
    (∃ (s : State), ∃ (p : Nat), ∃ (half : Nat), ∃ (i : Instr), ∃ (kind : Nat), ∃ (line : Nat), ((i = .snpInv ∧ kind = 0) ∨ (i = .snpData ∧ kind = 1) ∨ (i = .snpCur ∧ kind = 2)) ∧ s.ev.port = p ∧ s.boot = .running ∧ s.portUp.getD p false = true ∧ (if p = 0 then s.cfg.port0 else s.cfg.port1) = some .cxl ∧ s.ev.id = half ∧ line = hostKey (64 * half) / 128 ∧ s.homeFree line = true ∧ s.takesHost line = true ∧ (s.home line).dir.targets none = []) ∧
    (∃ (s : State), ∃ (p : Nat), ∃ (half : Nat), ∃ (i : Instr), ∃ (kind : Nat), ∃ (line : Nat), ((i = .snpInv ∧ kind = 0) ∨ (i = .snpData ∧ kind = 1) ∨ (i = .snpCur ∧ kind = 2)) ∧ s.ev.port = p ∧ s.boot = .running ∧ s.portUp.getD p false = true ∧ (if p = 0 then s.cfg.port0 else s.cfg.port1) = some .cxl ∧ s.ev.id = half ∧ line = hostKey (64 * half) / 128 ∧ s.homeFree line = true ∧ s.takesHost line = true ∧ (s.home line).dir.targets none = []) ∧
    (∃ (s : State), ∃ (p : Nat), ∃ (half : Nat), ∃ (i : Instr), ∃ (kind : Nat), ∃ (line : Nat), ((i = .snpInv ∧ kind = 0) ∨ (i = .snpData ∧ kind = 1) ∨ (i = .snpCur ∧ kind = 2)) ∧ s.ev.port = p ∧ s.boot = .running ∧ s.portUp.getD p false = true ∧ (if p = 0 then s.cfg.port0 else s.cfg.port1) = some .cxl ∧ s.ev.id = half ∧ line = hostKey (64 * half) / 128 ∧ s.homeFree line = true ∧ s.takesHost line = true ∧ (s.home line).dir.targets none = []) :=
  ⟨⟨{ Tests.st with ev := { port := 0, id := 0x10210, bytes := [1, 2, 3, 4, 5, 6, 7, 8] }, poison := [0x408, 0x409] }, 0, 0x10210, [1, 2, 3, 4, 5, 6, 7, 8], by decide +kernel⟩,
    ⟨{ Tests.st with ev := { port := 0, id := 0x10210, flag := true, bytes := [1, 2, 3, 4, 5, 6, 7, 8] } }, 0, 0x10210, [1, 2, 3, 4, 5, 6, 7, 8], by decide +kernel⟩,
    ⟨{ Tests.st with ev := { port := 0, id := 0x10240, bytes := ((List.range 64).map fun i => BitVec.ofNat 8 (i + 1)) }, poison := [0x408, 0x409] }, 0, 0x10240, ((List.range 64).map fun i => BitVec.ofNat 8 (i + 1)), by decide +kernel⟩,
    ⟨{ Tests.put 0x10212 [5] Tests.st with ev := { port := 0, id := 0x10210, n := 8 }, poison := [0x408] }, 0, 0x10210, 8, by decide +kernel⟩,
    ⟨{ Tests.st with ev := { port := 0, id := 0x10200, n := 128 } }, 0, 0x10200, 128, by decide +kernel⟩,
    ⟨{ Tests.st with ev := { port := 0, id := 0x10210, bytes := [1, 2, 3, 4, 5, 6, 7, 8] }, cfg := { port0 := some .pcie }, hostWrites := [(0, [(.write 0 0x10200 [7] false)])], homes := [(0x10200 / 128, { trans := .hostSnp (.write 0 0x10200 [7] false) [3] 0 })] }, 0, 0x10210, [1, 2, 3, 4, 5, 6, 7, 8], .write 0 0x10200 [7] false, [], by decide +kernel⟩,
    ⟨{ Tests.put (hostKey 0x140) [7, 8] Tests.st with ev := { port := 0, id := 5 }, cfg := { port0 := some .cxl }, bridge := [(5, .m)], poison := [hostKey 0x140 / 64] }, 0, 5, .snpInv, 0, hostKey (64 * 5) / 128, (.inl ⟨rfl, rfl⟩), by decide +kernel⟩,
    ⟨{ Tests.put (hostKey 0x140) [7, 8] Tests.st with ev := { port := 0, id := 5 }, cfg := { port0 := some .cxl }, bridge := [(5, .s)], poison := [hostKey 0x140 / 64] }, 0, 5, .snpInv, 0, hostKey (64 * 5) / 128, (.inl ⟨rfl, rfl⟩), by decide +kernel⟩,
    ⟨{ Tests.put (hostKey 0x140) [7, 8] Tests.st with ev := { port := 0, id := 5 }, cfg := { port0 := some .cxl }, bridge := [(5, .i)], poison := [hostKey 0x140 / 64] }, 0, 5, .snpInv, 0, hostKey (64 * 5) / 128, (.inl ⟨rfl, rfl⟩), by decide +kernel⟩,
    ⟨{ Tests.put (hostKey 0x140) [7, 8] Tests.st with ev := { port := 0, id := 5 }, cfg := { port0 := some .cxl }, bridge := [(5, .m)], poison := [hostKey 0x140 / 64] }, 0, 5, .snpData, 1, hostKey (64 * 5) / 128, (.inr (.inl ⟨rfl, rfl⟩)), by decide +kernel⟩,
    ⟨{ Tests.put (hostKey 0x140) [7, 8] Tests.st with ev := { port := 0, id := 5 }, cfg := { port0 := some .cxl }, bridge := [(5, .s)], poison := [hostKey 0x140 / 64] }, 0, 5, .snpData, 1, hostKey (64 * 5) / 128, (.inr (.inl ⟨rfl, rfl⟩)), by decide +kernel⟩,
    ⟨{ Tests.put (hostKey 0x140) [7, 8] Tests.st with ev := { port := 0, id := 5 }, cfg := { port0 := some .cxl }, bridge := [(5, .i)], poison := [hostKey 0x140 / 64] }, 0, 5, .snpData, 1, hostKey (64 * 5) / 128, (.inr (.inl ⟨rfl, rfl⟩)), by decide +kernel⟩,
    ⟨{ Tests.put (hostKey 0x140) [7, 8] Tests.st with ev := { port := 0, id := 5 }, cfg := { port0 := some .cxl }, bridge := [(5, .m)], poison := [hostKey 0x140 / 64] }, 0, 5, .snpCur, 2, hostKey (64 * 5) / 128, (.inr (.inr (⟨rfl, rfl⟩))), by decide +kernel⟩,
    ⟨{ Tests.put (hostKey 0x140) [7, 8] Tests.st with ev := { port := 0, id := 5 }, cfg := { port0 := some .cxl }, bridge := [(5, .s)], poison := [hostKey 0x140 / 64] }, 0, 5, .snpCur, 2, hostKey (64 * 5) / 128, (.inr (.inr (⟨rfl, rfl⟩))), by decide +kernel⟩⟩

/-- Hypotheses of `Obligations.CoherenceEvents`, its part EventHost are met. -/
theorem witness_CoherenceEvents_EventHost_2 :
    (∃ (s : State), ∃ (p : Nat), ∃ (half : Nat), ∃ (i : Instr), ∃ (kind : Nat), ∃ (line : Nat), ((i = .snpInv ∧ kind = 0) ∨ (i = .snpData ∧ kind = 1) ∨ (i = .snpCur ∧ kind = 2)) ∧ s.ev.port = p ∧ s.boot = .running ∧ s.portUp.getD p false = true ∧ (if p = 0 then s.cfg.port0 else s.cfg.port1) = some .cxl ∧ s.ev.id = half ∧ line = hostKey (64 * half) / 128 ∧ s.homeFree line = true ∧ s.takesHost line = true ∧ (s.home line).dir.targets none = []) ∧
    (∃ (s : State), ∃ (p : Nat), ∃ (half : Nat), s.ev.port = p ∧ s.boot = .running ∧ s.ev.id = half ∧ tget s.hostReqs half = none) ∧
    (∃ (s : State), ∃ (p : Nat), ∃ (half : Nat), ∃ (q : CacheReq), ∃ (key : Nat), s.ev.port = p ∧ s.boot = .running ∧ s.ev.id = half ∧ tget s.hostReqs half = some q ∧ s.bridgeSt half = .i ∧ key = hostKey (64 * half) ∧ s.ev.bytes.length = 64 ∧ Memory.wf s.mem = true ∧ s.halfUnasked half = true ∧ tget s.hostFolds half = none) ∧
    (∃ (s : State), ∃ (p : Nat), ∃ (half : Nat), s.ev.port = p ∧ s.boot = .running ∧ s.ev.id = half ∧ tget s.hostReqs half = none) ∧
    (∃ (s : State), ∃ (p : Nat), ∃ (half : Nat), ∃ (q : CacheReq), ∃ (key : Nat), s.ev.port = p ∧ s.boot = .running ∧ s.ev.id = half ∧ tget s.hostReqs half = some q ∧ s.bridgeSt half = .i ∧ key = hostKey (64 * half) ∧ s.ev.bytes.length = 64 ∧ Memory.wf s.mem = true ∧ s.halfUnasked half = true ∧ tget s.hostFolds half = none) ∧
    (∃ (s : State), ∃ (p : Nat), ∃ (half : Nat), ∃ (q : CacheReq), ∃ (key : Nat), s.ev.port = p ∧ s.boot = .running ∧ s.ev.id = half ∧ tget s.hostReqs half = some q ∧ s.bridgeSt half = .i ∧ key = hostKey (64 * half) ∧ s.ev.bytes.length = 64 ∧ Memory.wf s.mem = true ∧ s.halfUnasked half = true ∧ tget s.hostFolds half = none) ∧
    (∃ (s : State), ∃ (p : Nat), ∃ (half : Nat), ∃ (f : List (Nat × Byte)), ∃ (key : Nat), s.ev.port = p ∧ s.boot = .running ∧ s.ev.id = half ∧ tget s.hostReqs half = some .rdOwn ∧ s.bridgeSt half = .i ∧ key = hostKey (64 * half) ∧ s.ev.bytes.length = 64 ∧ s.halfUnasked half = true ∧ tget s.hostFolds half = some f) ∧
    (∃ (s : State), ∃ (p : Nat), ∃ (i : Instr), ((i = .hostWrite ∧ s.ev.bytes ≠ []) ∨ i = .hostRead ∨ i = .snpInv ∨ i = .snpData ∨ i = .snpCur) ∧ s.ev.port = p ∧ s.boot = .running ∧ s.portUp.getD p false = false) ∧
    (∃ (s : State), ∃ (p : Nat), ∃ (i : Instr), ((i = .hostWrite ∧ s.ev.bytes ≠ []) ∨ i = .hostRead ∨ i = .snpInv ∨ i = .snpData ∨ i = .snpCur) ∧ s.ev.port = p ∧ s.boot = .running ∧ s.portUp.getD p false = false) ∧
    (∃ (s : State), ∃ (p : Nat), ∃ (i : Instr), ((i = .hostWrite ∧ s.ev.bytes ≠ []) ∨ i = .hostRead ∨ i = .snpInv ∨ i = .snpData ∨ i = .snpCur) ∧ s.ev.port = p ∧ s.boot = .running ∧ s.portUp.getD p false = false) ∧
    (∃ (s : State), ∃ (p : Nat), ∃ (i : Instr), ((i = .hostWrite ∧ s.ev.bytes ≠ []) ∨ i = .hostRead ∨ i = .snpInv ∨ i = .snpData ∨ i = .snpCur) ∧ s.ev.port = p ∧ s.boot = .running ∧ s.portUp.getD p false = false) ∧
    (∃ (s : State), ∃ (p : Nat), ∃ (i : Instr), ((i = .hostWrite ∧ s.ev.bytes ≠ []) ∨ i = .hostRead ∨ i = .snpInv ∨ i = .snpData ∨ i = .snpCur) ∧ s.ev.port = p ∧ s.boot = .running ∧ s.portUp.getD p false = false) :=
  ⟨⟨{ Tests.put (hostKey 0x140) [7, 8] Tests.st with ev := { port := 0, id := 5 }, cfg := { port0 := some .cxl }, bridge := [(5, .i)], poison := [hostKey 0x140 / 64] }, 0, 5, .snpCur, 2, hostKey (64 * 5) / 128, (.inr (.inr (⟨rfl, rfl⟩))), by decide +kernel⟩,
    ⟨{ Tests.st with ev := { port := 0, id := 5, flag := true, bytes := ((List.range 64).map fun i => BitVec.ofNat 8 (i + 1)) }, cfg := { port0 := some .cxl } }, 0, 5, by decide +kernel⟩,
    ⟨{ Tests.st with ev := { port := 0, id := 5, flag := true, bytes := ((List.range 64).map fun i => BitVec.ofNat 8 (i + 1)) }, cfg := { port0 := some .cxl }, hostReqs := [(5, .rdShared)] }, 0, 5, .rdShared, hostKey (64 * 5), by decide +kernel⟩,
    ⟨{ Tests.st with ev := { port := 0, id := 5, flag := false, bytes := ((List.range 64).map fun i => BitVec.ofNat 8 (i + 1)) }, cfg := { port0 := some .cxl } }, 0, 5, by decide +kernel⟩,
    ⟨{ Tests.st with ev := { port := 0, id := 5, flag := false, bytes := ((List.range 64).map fun i => BitVec.ofNat 8 (i + 1)) }, cfg := { port0 := some .cxl }, hostReqs := [(5, .rdShared)] }, 0, 5, .rdShared, hostKey (64 * 5), by decide +kernel⟩,
    ⟨{ Tests.st with ev := { port := 0, id := 5, bytes := ((List.range 64).map fun i => BitVec.ofNat 8 (i + 1)) }, cfg := { port0 := some .cxl }, hostReqs := [(5, .rdOwn)] }, 0, 5, .rdOwn, hostKey (64 * 5), by decide +kernel⟩,
    ⟨{ Tests.st with ev := { port := 0, id := 5, bytes := ((List.range 64).map fun i => BitVec.ofNat 8 (i + 1)) }, cfg := { port0 := some .cxl }, hostReqs := [(5, .rdOwn)], hostFolds := [(5, [(3, 9), (63, 8)])] }, 0, 5, [(3, 9), (63, 8)], hostKey (64 * 5), by decide +kernel⟩,
    ⟨{ Tests.st with ev := { port := 0, id := 5, n := 8, bytes := ((List.range 64).map fun i => BitVec.ofNat 8 (i + 1)) }, portUp := [false, true] }, 0, .hostWrite, (.inl ⟨rfl, by decide +kernel⟩), by decide +kernel⟩,
    ⟨{ Tests.st with ev := { port := 0, id := 5, n := 8, bytes := ((List.range 64).map fun i => BitVec.ofNat 8 (i + 1)) }, portUp := [false, true] }, 0, .hostRead, (.inr (.inl rfl)), by decide +kernel⟩,
    ⟨{ Tests.st with ev := { port := 0, id := 5, n := 8, bytes := ((List.range 64).map fun i => BitVec.ofNat 8 (i + 1)) }, portUp := [false, true] }, 0, .snpInv, (.inr (.inr (.inl rfl))), by decide +kernel⟩,
    ⟨{ Tests.st with ev := { port := 0, id := 5, n := 8, bytes := ((List.range 64).map fun i => BitVec.ofNat 8 (i + 1)) }, portUp := [false, true] }, 0, .snpData, (.inr (.inr (.inr (.inl rfl)))), by decide +kernel⟩,
    ⟨{ Tests.st with ev := { port := 0, id := 5, n := 8, bytes := ((List.range 64).map fun i => BitVec.ofNat 8 (i + 1)) }, portUp := [false, true] }, 0, .snpCur, (.inr (.inr (.inr (.inr (rfl))))), by decide +kernel⟩⟩

/-- Hypotheses of `Obligations.LinkEvents`, its part EventRole are met. -/
theorem witness_LinkEvents_EventRole :
    (∃ (s : State), ∃ (c : Nat), ∃ (k : Nat), ∃ (l : Nat), ∃ (next : Word), ∃ (sl : Slot), ∃ (p : Nat), ∃ (n : Nat), ∃ (d : Dst), ∃ (due : Nat), s.ev.core = c ∧ s.ev.slot = k ∧ s.slotAt c k = sl ∧ sl.launch = l ∧ sl.goesOn = true ∧ sl.stall = .links due (.lease p n d) next) ∧
    (∃ (s : State), ∃ (c : Nat), ∃ (k : Nat), ∃ (l : Nat), ∃ (next : Word), ∃ (sl : Slot), ∃ (p : Nat), ∃ (n : Nat), ∃ (d : Dst), ∃ (due : Nat), s.ev.core = c ∧ s.ev.slot = k ∧ s.slotAt c k = sl ∧ sl.launch = l ∧ sl.goesOn = true ∧ sl.stall = .links due (.lease p n d) next) ∧
    (∃ (s : State), ∃ (c : Nat), ∃ (k : Nat), ∃ (l : Nat), ∃ (next : Word), ∃ (sl : Slot), ∃ (p : Nat), ∃ (n : Nat), ∃ (d : Dst), ∃ (due : Nat), s.ev.core = c ∧ s.ev.slot = k ∧ s.slotAt c k = sl ∧ sl.launch = l ∧ sl.goesOn = true ∧ sl.stall = .links due (.lease p n d) next) ∧
    (∃ (s : State), ∃ (c : Nat), ∃ (k : Nat), ∃ (l : Nat), ∃ (next : Word), ∃ (sl : Slot), ∃ (p : Nat), ∃ (n : Nat), ∃ (d : Dst), ∃ (due : Nat), s.ev.core = c ∧ s.ev.slot = k ∧ s.slotAt c k = sl ∧ sl.launch = l ∧ sl.goesOn = true ∧ sl.stall = .links due (.lease p n d) next) ∧
    (∃ (s : State), ∃ (c : Nat), ∃ (k : Nat), ∃ (l : Nat), ∃ (next : Word), ∃ (sl : Slot), ∃ (p : Nat), ∃ (n : Nat), ∃ (d : Dst), ∃ (due : Nat), s.ev.core = c ∧ s.ev.slot = k ∧ s.slotAt c k = sl ∧ sl.launch = l ∧ sl.goesOn = true ∧ sl.stall = .links due (.lease p n d) next) ∧
    (∃ (s : State), ∃ (c : Nat), ∃ (k : Nat), ∃ (l : Nat), ∃ (next : Word), ∃ (sl : Slot), ∃ (p : Nat), ∃ (n : Nat), ∃ (d : Dst), ∃ (due : Nat), s.ev.core = c ∧ s.ev.slot = k ∧ s.slotAt c k = sl ∧ sl.launch = l ∧ sl.goesOn = true ∧ sl.stall = .links due (.lease p n d) next) ∧
    (∃ (s : State), ∃ (c : Nat), ∃ (k : Nat), ∃ (l : Nat), ∃ (next : Word), ∃ (sl : Slot), ∃ (p : Nat), ∃ (n : Nat), ∃ (d : Dst), ∃ (due : Nat), s.ev.core = c ∧ s.ev.slot = k ∧ s.slotAt c k = sl ∧ sl.launch = l ∧ sl.goesOn = true ∧ sl.stall = .links due (.lease p n d) next) ∧
    (∃ (s : State), ∃ (c : Nat), ∃ (k : Nat), ∃ (l : Nat), ∃ (next : Word), ∃ (sl : Slot), ∃ (i : Instr), ∃ (r : Nat), ∃ (d : Dst), ∃ (x : Launch), ∃ (due : Nat), (i = .linkRegisterAccess ∨ i = .linksRoleAnswer) ∧ s.ev.core = c ∧ s.ev.slot = k ∧ s.slotAt c k = sl ∧ sl.launch = l ∧ sl.goesOn = true ∧ sl.stall = .links due (.read r d) next ∧ s.launch? l = some x) ∧
    (∃ (s : State), ∃ (c : Nat), ∃ (k : Nat), ∃ (l : Nat), ∃ (next : Word), ∃ (sl : Slot), ∃ (i : Instr), ∃ (r : Nat), ∃ (w : Word), ∃ (x : Launch), ∃ (due : Nat), (i = .linkRegisterAccess ∨ i = .linksRoleAnswer) ∧ s.ev.core = c ∧ s.ev.slot = k ∧ s.slotAt c k = sl ∧ sl.launch = l ∧ sl.goesOn = true ∧ sl.stall = .links due (.write r w) next ∧ s.launch? l = some x) ∧
    (∃ (s : State), ∃ (c : Nat), ∃ (k : Nat), ∃ (l : Nat), ∃ (next : Word), ∃ (sl : Slot), ∃ (i : Instr), ∃ (r : Nat), ∃ (d : Dst), ∃ (x : Launch), ∃ (due : Nat), (i = .linkRegisterAccess ∨ i = .linksRoleAnswer) ∧ s.ev.core = c ∧ s.ev.slot = k ∧ s.slotAt c k = sl ∧ sl.launch = l ∧ sl.goesOn = true ∧ sl.stall = .links due (.read r d) next ∧ s.launch? l = some x) ∧
    (∃ (s : State), ∃ (c : Nat), ∃ (k : Nat), ∃ (l : Nat), ∃ (next : Word), ∃ (sl : Slot), ∃ (i : Instr), ∃ (r : Nat), ∃ (w : Word), ∃ (x : Launch), ∃ (due : Nat), (i = .linkRegisterAccess ∨ i = .linksRoleAnswer) ∧ s.ev.core = c ∧ s.ev.slot = k ∧ s.slotAt c k = sl ∧ sl.launch = l ∧ sl.goesOn = true ∧ sl.stall = .links due (.write r w) next ∧ s.launch? l = some x) ∧
    (∃ (s : State), ∃ (c : Nat), ∃ (k : Nat), ∃ (l : Nat), ∃ (next : Word), ∃ (sl : Slot), ∃ (i : Instr), ∃ (r : Nat), ∃ (d : Dst), ∃ (x : Launch), ∃ (due : Nat), (i = .linkRegisterAccess ∨ i = .linksRoleAnswer) ∧ s.ev.core = c ∧ s.ev.slot = k ∧ s.slotAt c k = sl ∧ sl.launch = l ∧ sl.goesOn = true ∧ sl.stall = .links due (.read r d) next ∧ s.launch? l = some x) ∧
    (∃ (s : State), ∃ (c : Nat), ∃ (k : Nat), ∃ (l : Nat), ∃ (next : Word), ∃ (sl : Slot), ∃ (i : Instr), ∃ (r : Nat), ∃ (w : Word), ∃ (x : Launch), ∃ (due : Nat), (i = .linkRegisterAccess ∨ i = .linksRoleAnswer) ∧ s.ev.core = c ∧ s.ev.slot = k ∧ s.slotAt c k = sl ∧ sl.launch = l ∧ sl.goesOn = true ∧ sl.stall = .links due (.write r w) next ∧ s.launch? l = some x) ∧
    (∃ (s : State), ∃ (c : Nat), ∃ (k : Nat), ∃ (l : Nat), ∃ (next : Word), ∃ (sl : Slot), ∃ (i : Instr), ∃ (r : Nat), ∃ (d : Dst), ∃ (x : Launch), ∃ (due : Nat), (i = .linkRegisterAccess ∨ i = .linksRoleAnswer) ∧ s.ev.core = c ∧ s.ev.slot = k ∧ s.slotAt c k = sl ∧ sl.launch = l ∧ sl.goesOn = true ∧ sl.stall = .links due (.read r d) next ∧ s.launch? l = some x) :=
  ⟨⟨{ Tests.stall (.links 4096 (.lease 5 0 (.n 3)) 0x10004) (Tests.la Tests.st fun l => { l with leases := [(5, { die := 0, created := 0, txs := [(0, .active, 0)] })] }) with cfg := { routes := (List.range 12).map fun i => (i, 5) }, linked := [5] }, 0, 0, 0, 0x10004, (({ Tests.stall (.links 4096 (.lease 5 0 (.n 3)) 0x10004) (Tests.la Tests.st fun l => { l with leases := [(5, { die := 0, created := 0, txs := [(0, .active, 0)] })] }) with cfg := { routes := (List.range 12).map fun i => (i, 5) }, linked := [5] } : State)).slotAt 0 0, 5, 0, .n 3, 4096, by decide +kernel⟩,
    ⟨{ Tests.stall (.links 4096 (.lease 5 3 (.n 3)) 0x10004) (Tests.st) with cfg := { routes := (List.range 12).map fun i => (i, 5) } }, 0, 0, 0, 0x10004, (({ Tests.stall (.links 4096 (.lease 5 3 (.n 3)) 0x10004) (Tests.st) with cfg := { routes := (List.range 12).map fun i => (i, 5) } } : State)).slotAt 0 0, 5, 3, .n 3, 4096, by decide +kernel⟩,
    ⟨{ Tests.stall (.links 4096 (.lease 5 3 (.n 3)) 0x10004) (Tests.st) with cfg := { routes := (List.range 12).map fun i => (i, 5) }, linked := [5] }, 0, 0, 0, 0x10004, (({ Tests.stall (.links 4096 (.lease 5 3 (.n 3)) 0x10004) (Tests.st) with cfg := { routes := (List.range 12).map fun i => (i, 5) }, linked := [5] } : State)).slotAt 0 0, 5, 3, .n 3, 4096, by decide +kernel⟩,
    ⟨{ Tests.stall (.links 4096 (.lease 5 3 (.n 3)) 0x10004) (Tests.st) with cfg := { routes := (List.range 12).map fun i => (i, 5) }, linked := [5], ev := { n := 2 } }, 0, 0, 0, 0x10004, (({ Tests.stall (.links 4096 (.lease 5 3 (.n 3)) 0x10004) (Tests.st) with cfg := { routes := (List.range 12).map fun i => (i, 5) }, linked := [5], ev := { n := 2 } } : State)).slotAt 0 0, 5, 3, .n 3, 4096, by decide +kernel⟩,
    ⟨{ Tests.stall (.links 4096 (.lease 5 2 (.n 3)) 0x10004) (Tests.la Tests.st fun l => { l with leases := [(5, { die := 0, created := 0, txs := [(0, .active, 0), (1, .parked, 0), (2, .active, 0), (3, .warming 9, 0)] })] }) with cfg := { routes := (List.range 12).map fun i => (i, 5) }, linked := [5] }, 0, 0, 0, 0x10004, (({ Tests.stall (.links 4096 (.lease 5 2 (.n 3)) 0x10004) (Tests.la Tests.st fun l => { l with leases := [(5, { die := 0, created := 0, txs := [(0, .active, 0), (1, .parked, 0), (2, .active, 0), (3, .warming 9, 0)] })] }) with cfg := { routes := (List.range 12).map fun i => (i, 5) }, linked := [5] } : State)).slotAt 0 0, 5, 2, .n 3, 4096, by decide +kernel⟩,
    ⟨{ Tests.stall (.links 4096 (.lease 5 3 (.n 3)) 0x10004) (Tests.la Tests.st fun l => { l with leases := [(5, { die := 0, created := 0, txs := [(0, .active, 0), (2, .parked, 0)] })] }) with cfg := { routes := (List.range 12).map fun i => (i, 5) }, linked := [5] }, 0, 0, 0, 0x10004, (({ Tests.stall (.links 4096 (.lease 5 3 (.n 3)) 0x10004) (Tests.la Tests.st fun l => { l with leases := [(5, { die := 0, created := 0, txs := [(0, .active, 0), (2, .parked, 0)] })] }) with cfg := { routes := (List.range 12).map fun i => (i, 5) }, linked := [5] } : State)).slotAt 0 0, 5, 3, .n 3, 4096, by decide +kernel⟩,
    ⟨{ Tests.stall (.links 4096 (.lease 5 4 (.n 3)) 0x10004) (Tests.la Tests.st fun l => { l with leases := [(5, { die := 0, created := 0, txs := [(0, .active, 0), (2, .parked, 0)] })] }) with cfg := { routes := (List.range 12).map fun i => (i, 5) }, linked := [5] }, 0, 0, 0, 0x10004, (({ Tests.stall (.links 4096 (.lease 5 4 (.n 3)) 0x10004) (Tests.la Tests.st fun l => { l with leases := [(5, { die := 0, created := 0, txs := [(0, .active, 0), (2, .parked, 0)] })] }) with cfg := { routes := (List.range 12).map fun i => (i, 5) }, linked := [5] } : State)).slotAt 0 0, 5, 4, .n 3, 4096, by decide +kernel⟩,
    ⟨{ Tests.stall (.links 4096 (.read 0x090 (.n 3)) 0x10004) (Tests.la (Tests.la Tests.st fun l => { l with leases := [(5, { die := 0, created := 0, txs := [(0, .active, 0), (1, .parked, 0), (3, .warming 9, 0)] })] }) fun l => { l with linkSel := 5, linkSets := [(5, ⟨3, 9, 2⟩)] }) with cfg := { routes := (List.range 12).map fun i => (i, 5) } }, 0, 0, 0, 0x10004, (({ Tests.stall (.links 4096 (.read 0x090 (.n 3)) 0x10004) (Tests.la (Tests.la Tests.st fun l => { l with leases := [(5, { die := 0, created := 0, txs := [(0, .active, 0), (1, .parked, 0), (3, .warming 9, 0)] })] }) fun l => { l with linkSel := 5, linkSets := [(5, ⟨3, 9, 2⟩)] }) with cfg := { routes := (List.range 12).map fun i => (i, 5) } } : State)).slotAt 0 0, .linkRegisterAccess, 0x090, .n 3, Tests.l0 ({ Tests.stall (.links 4096 (.read 0x090 (.n 3)) 0x10004) (Tests.la (Tests.la Tests.st fun l => { l with leases := [(5, { die := 0, created := 0, txs := [(0, .active, 0), (1, .parked, 0), (3, .warming 9, 0)] })] }) fun l => { l with linkSel := 5, linkSets := [(5, ⟨3, 9, 2⟩)] }) with cfg := { routes := (List.range 12).map fun i => (i, 5) } } : State), 4096, (.inl rfl), by decide +kernel⟩,
    ⟨{ Tests.stall (.links 4096 (.write 0x090 0x30207) 0x10004) (Tests.la Tests.st fun l => { l with linkSel := 5, linkSets := [(5, ⟨3, 9, 2⟩), (7, ⟨1, 1, 1⟩)] }) with cfg := { routes := (List.range 12).map fun i => (i, 5) } }, 0, 0, 0, 0x10004, (({ Tests.stall (.links 4096 (.write 0x090 0x30207) 0x10004) (Tests.la Tests.st fun l => { l with linkSel := 5, linkSets := [(5, ⟨3, 9, 2⟩), (7, ⟨1, 1, 1⟩)] }) with cfg := { routes := (List.range 12).map fun i => (i, 5) } } : State)).slotAt 0 0, .linkRegisterAccess, 0x090, 0x30207, Tests.l0 ({ Tests.stall (.links 4096 (.write 0x090 0x30207) 0x10004) (Tests.la Tests.st fun l => { l with linkSel := 5, linkSets := [(5, ⟨3, 9, 2⟩), (7, ⟨1, 1, 1⟩)] }) with cfg := { routes := (List.range 12).map fun i => (i, 5) } } : State), 4096, (.inl rfl), by decide +kernel⟩,
    ⟨{ Tests.stall (.links 4096 (.read 0x091 (.n 3)) 0x10004) (Tests.la (Tests.la Tests.st fun l => { l with leases := [(5, { die := 0, created := 0, txs := [(0, .active, 0), (1, .parked, 0), (3, .warming 9, 0)] })] }) fun l => { l with linkSel := 5, linkSets := [(5, ⟨3, 9, 2⟩)] }) with cfg := { routes := (List.range 12).map fun i => (i, 5) } }, 0, 0, 0, 0x10004, (({ Tests.stall (.links 4096 (.read 0x091 (.n 3)) 0x10004) (Tests.la (Tests.la Tests.st fun l => { l with leases := [(5, { die := 0, created := 0, txs := [(0, .active, 0), (1, .parked, 0), (3, .warming 9, 0)] })] }) fun l => { l with linkSel := 5, linkSets := [(5, ⟨3, 9, 2⟩)] }) with cfg := { routes := (List.range 12).map fun i => (i, 5) } } : State)).slotAt 0 0, .linkRegisterAccess, 0x091, .n 3, Tests.l0 ({ Tests.stall (.links 4096 (.read 0x091 (.n 3)) 0x10004) (Tests.la (Tests.la Tests.st fun l => { l with leases := [(5, { die := 0, created := 0, txs := [(0, .active, 0), (1, .parked, 0), (3, .warming 9, 0)] })] }) fun l => { l with linkSel := 5, linkSets := [(5, ⟨3, 9, 2⟩)] }) with cfg := { routes := (List.range 12).map fun i => (i, 5) } } : State), 4096, (.inl rfl), by decide +kernel⟩,
    ⟨{ Tests.stall (.links 4096 (.write 0x091 0x30207) 0x10004) (Tests.la Tests.st fun l => { l with linkSel := 5, linkSets := [(5, ⟨3, 9, 2⟩), (7, ⟨1, 1, 1⟩)] }) with cfg := { routes := (List.range 12).map fun i => (i, 5) } }, 0, 0, 0, 0x10004, (({ Tests.stall (.links 4096 (.write 0x091 0x30207) 0x10004) (Tests.la Tests.st fun l => { l with linkSel := 5, linkSets := [(5, ⟨3, 9, 2⟩), (7, ⟨1, 1, 1⟩)] }) with cfg := { routes := (List.range 12).map fun i => (i, 5) } } : State)).slotAt 0 0, .linkRegisterAccess, 0x091, 0x30207, Tests.l0 ({ Tests.stall (.links 4096 (.write 0x091 0x30207) 0x10004) (Tests.la Tests.st fun l => { l with linkSel := 5, linkSets := [(5, ⟨3, 9, 2⟩), (7, ⟨1, 1, 1⟩)] }) with cfg := { routes := (List.range 12).map fun i => (i, 5) } } : State), 4096, (.inl rfl), by decide +kernel⟩,
    ⟨{ Tests.stall (.links 4096 (.read 0x092 (.n 3)) 0x10004) (Tests.la (Tests.la Tests.st fun l => { l with leases := [(5, { die := 0, created := 0, txs := [(0, .active, 0), (1, .parked, 0), (3, .warming 9, 0)] })] }) fun l => { l with linkSel := 5, linkSets := [(5, ⟨3, 9, 2⟩)] }) with cfg := { routes := (List.range 12).map fun i => (i, 5) } }, 0, 0, 0, 0x10004, (({ Tests.stall (.links 4096 (.read 0x092 (.n 3)) 0x10004) (Tests.la (Tests.la Tests.st fun l => { l with leases := [(5, { die := 0, created := 0, txs := [(0, .active, 0), (1, .parked, 0), (3, .warming 9, 0)] })] }) fun l => { l with linkSel := 5, linkSets := [(5, ⟨3, 9, 2⟩)] }) with cfg := { routes := (List.range 12).map fun i => (i, 5) } } : State)).slotAt 0 0, .linkRegisterAccess, 0x092, .n 3, Tests.l0 ({ Tests.stall (.links 4096 (.read 0x092 (.n 3)) 0x10004) (Tests.la (Tests.la Tests.st fun l => { l with leases := [(5, { die := 0, created := 0, txs := [(0, .active, 0), (1, .parked, 0), (3, .warming 9, 0)] })] }) fun l => { l with linkSel := 5, linkSets := [(5, ⟨3, 9, 2⟩)] }) with cfg := { routes := (List.range 12).map fun i => (i, 5) } } : State), 4096, (.inl rfl), by decide +kernel⟩,
    ⟨{ Tests.stall (.links 4096 (.write 0x092 0x30207) 0x10004) (Tests.la Tests.st fun l => { l with linkSel := 5, linkSets := [(5, ⟨3, 9, 2⟩), (7, ⟨1, 1, 1⟩)] }) with cfg := { routes := (List.range 12).map fun i => (i, 5) } }, 0, 0, 0, 0x10004, (({ Tests.stall (.links 4096 (.write 0x092 0x30207) 0x10004) (Tests.la Tests.st fun l => { l with linkSel := 5, linkSets := [(5, ⟨3, 9, 2⟩), (7, ⟨1, 1, 1⟩)] }) with cfg := { routes := (List.range 12).map fun i => (i, 5) } } : State)).slotAt 0 0, .linkRegisterAccess, 0x092, 0x30207, Tests.l0 ({ Tests.stall (.links 4096 (.write 0x092 0x30207) 0x10004) (Tests.la Tests.st fun l => { l with linkSel := 5, linkSets := [(5, ⟨3, 9, 2⟩), (7, ⟨1, 1, 1⟩)] }) with cfg := { routes := (List.range 12).map fun i => (i, 5) } } : State), 4096, (.inl rfl), by decide +kernel⟩,
    ⟨{ Tests.stall (.links 4096 (.read 0x093 (.n 3)) 0x10004) (Tests.la (Tests.la Tests.st fun l => { l with leases := [(5, { die := 0, created := 0, txs := [(0, .active, 0), (1, .parked, 0), (3, .warming 9, 0)] })] }) fun l => { l with linkSel := 5, linkSets := [(5, ⟨3, 9, 2⟩)] }) with cfg := { routes := (List.range 12).map fun i => (i, 5) } }, 0, 0, 0, 0x10004, (({ Tests.stall (.links 4096 (.read 0x093 (.n 3)) 0x10004) (Tests.la (Tests.la Tests.st fun l => { l with leases := [(5, { die := 0, created := 0, txs := [(0, .active, 0), (1, .parked, 0), (3, .warming 9, 0)] })] }) fun l => { l with linkSel := 5, linkSets := [(5, ⟨3, 9, 2⟩)] }) with cfg := { routes := (List.range 12).map fun i => (i, 5) } } : State)).slotAt 0 0, .linkRegisterAccess, 0x093, .n 3, Tests.l0 ({ Tests.stall (.links 4096 (.read 0x093 (.n 3)) 0x10004) (Tests.la (Tests.la Tests.st fun l => { l with leases := [(5, { die := 0, created := 0, txs := [(0, .active, 0), (1, .parked, 0), (3, .warming 9, 0)] })] }) fun l => { l with linkSel := 5, linkSets := [(5, ⟨3, 9, 2⟩)] }) with cfg := { routes := (List.range 12).map fun i => (i, 5) } } : State), 4096, (.inl rfl), by decide +kernel⟩⟩

/-- Hypotheses of `Obligations.LinkEvents`, its part EventRole are met. -/
theorem witness_LinkEvents_EventRole_2 :
    (∃ (s : State), ∃ (c : Nat), ∃ (k : Nat), ∃ (l : Nat), ∃ (next : Word), ∃ (sl : Slot), ∃ (i : Instr), ∃ (r : Nat), ∃ (w : Word), ∃ (x : Launch), ∃ (due : Nat), (i = .linkRegisterAccess ∨ i = .linksRoleAnswer) ∧ s.ev.core = c ∧ s.ev.slot = k ∧ s.slotAt c k = sl ∧ sl.launch = l ∧ sl.goesOn = true ∧ sl.stall = .links due (.write r w) next ∧ s.launch? l = some x) ∧
    (∃ (s : State), ∃ (c : Nat), ∃ (k : Nat), ∃ (l : Nat), ∃ (next : Word), ∃ (sl : Slot), ∃ (i : Instr), ∃ (r : Nat), ∃ (d : Dst), ∃ (x : Launch), ∃ (due : Nat), (i = .linkRegisterAccess ∨ i = .linksRoleAnswer) ∧ s.ev.core = c ∧ s.ev.slot = k ∧ s.slotAt c k = sl ∧ sl.launch = l ∧ sl.goesOn = true ∧ sl.stall = .links due (.read r d) next ∧ s.launch? l = some x) ∧
    (∃ (s : State), ∃ (c : Nat), ∃ (k : Nat), ∃ (l : Nat), ∃ (next : Word), ∃ (sl : Slot), ∃ (i : Instr), ∃ (r : Nat), ∃ (w : Word), ∃ (x : Launch), ∃ (due : Nat), (i = .linkRegisterAccess ∨ i = .linksRoleAnswer) ∧ s.ev.core = c ∧ s.ev.slot = k ∧ s.slotAt c k = sl ∧ sl.launch = l ∧ sl.goesOn = true ∧ sl.stall = .links due (.write r w) next ∧ s.launch? l = some x) ∧
    (∃ (s : State), ∃ (c : Nat), ∃ (k : Nat), ∃ (l : Nat), ∃ (next : Word), ∃ (sl : Slot), ∃ (i : Instr), ∃ (r : Nat), ∃ (d : Dst), ∃ (x : Launch), ∃ (due : Nat), (i = .linkRegisterAccess ∨ i = .linksRoleAnswer) ∧ s.ev.core = c ∧ s.ev.slot = k ∧ s.slotAt c k = sl ∧ sl.launch = l ∧ sl.goesOn = true ∧ sl.stall = .links due (.read r d) next ∧ s.launch? l = some x) ∧
    (∃ (s : State), ∃ (c : Nat), ∃ (k : Nat), ∃ (l : Nat), ∃ (next : Word), ∃ (sl : Slot), ∃ (i : Instr), ∃ (r : Nat), ∃ (w : Word), ∃ (x : Launch), ∃ (due : Nat), (i = .linkRegisterAccess ∨ i = .linksRoleAnswer) ∧ s.ev.core = c ∧ s.ev.slot = k ∧ s.slotAt c k = sl ∧ sl.launch = l ∧ sl.goesOn = true ∧ sl.stall = .links due (.write r w) next ∧ s.launch? l = some x) ∧
    (∃ (s : State), ∃ (c : Nat), ∃ (k : Nat), ∃ (l : Nat), ∃ (next : Word), ∃ (sl : Slot), ∃ (i : Instr), ∃ (r : Nat), ∃ (d : Dst), ∃ (x : Launch), ∃ (due : Nat), (i = .linkRegisterAccess ∨ i = .linksRoleAnswer) ∧ s.ev.core = c ∧ s.ev.slot = k ∧ s.slotAt c k = sl ∧ sl.launch = l ∧ sl.goesOn = true ∧ sl.stall = .links due (.read r d) next ∧ s.launch? l = some x) ∧
    (∃ (s : State), ∃ (c : Nat), ∃ (k : Nat), ∃ (l : Nat), ∃ (next : Word), ∃ (sl : Slot), ∃ (i : Instr), ∃ (r : Nat), ∃ (w : Word), ∃ (x : Launch), ∃ (due : Nat), (i = .linkRegisterAccess ∨ i = .linksRoleAnswer) ∧ s.ev.core = c ∧ s.ev.slot = k ∧ s.slotAt c k = sl ∧ sl.launch = l ∧ sl.goesOn = true ∧ sl.stall = .links due (.write r w) next ∧ s.launch? l = some x) ∧
    (∃ (s : State), ∃ (c : Nat), ∃ (k : Nat), ∃ (l : Nat), ∃ (next : Word), ∃ (sl : Slot), ∃ (i : Instr), ∃ (r : Nat), ∃ (d : Dst), ∃ (x : Launch), ∃ (due : Nat), (i = .linkRegisterAccess ∨ i = .linksRoleAnswer) ∧ s.ev.core = c ∧ s.ev.slot = k ∧ s.slotAt c k = sl ∧ sl.launch = l ∧ sl.goesOn = true ∧ sl.stall = .links due (.read r d) next ∧ s.launch? l = some x) ∧
    (∃ (s : State), ∃ (c : Nat), ∃ (k : Nat), ∃ (l : Nat), ∃ (next : Word), ∃ (sl : Slot), ∃ (i : Instr), ∃ (r : Nat), ∃ (w : Word), ∃ (x : Launch), ∃ (due : Nat), (i = .linkRegisterAccess ∨ i = .linksRoleAnswer) ∧ s.ev.core = c ∧ s.ev.slot = k ∧ s.slotAt c k = sl ∧ sl.launch = l ∧ sl.goesOn = true ∧ sl.stall = .links due (.write r w) next ∧ s.launch? l = some x) ∧
    (∃ (s : State), ∃ (c : Nat), ∃ (k : Nat), ∃ (l : Nat), ∃ (next : Word), ∃ (sl : Slot), ∃ (i : Instr), ∃ (r : Nat), ∃ (d : Dst), ∃ (x : Launch), ∃ (due : Nat), (i = .linkRegisterAccess ∨ i = .linksRoleAnswer) ∧ s.ev.core = c ∧ s.ev.slot = k ∧ s.slotAt c k = sl ∧ sl.launch = l ∧ sl.goesOn = true ∧ sl.stall = .links due (.read r d) next ∧ s.launch? l = some x) ∧
    (∃ (s : State), ∃ (c : Nat), ∃ (k : Nat), ∃ (l : Nat), ∃ (next : Word), ∃ (sl : Slot), ∃ (i : Instr), ∃ (r : Nat), ∃ (w : Word), ∃ (x : Launch), ∃ (due : Nat), (i = .linkRegisterAccess ∨ i = .linksRoleAnswer) ∧ s.ev.core = c ∧ s.ev.slot = k ∧ s.slotAt c k = sl ∧ sl.launch = l ∧ sl.goesOn = true ∧ sl.stall = .links due (.write r w) next ∧ s.launch? l = some x) ∧
    (∃ (s : State), ∃ (c : Nat), ∃ (k : Nat), ∃ (l : Nat), ∃ (next : Word), ∃ (sl : Slot), ∃ (i : Instr), ∃ (r : Nat), ∃ (d : Dst), ∃ (x : Launch), ∃ (due : Nat), (i = .linkRegisterAccess ∨ i = .linksRoleAnswer) ∧ s.ev.core = c ∧ s.ev.slot = k ∧ s.slotAt c k = sl ∧ sl.launch = l ∧ sl.goesOn = true ∧ sl.stall = .links due (.read r d) next ∧ s.launch? l = some x) ∧
    (∃ (s : State), ∃ (c : Nat), ∃ (k : Nat), ∃ (l : Nat), ∃ (next : Word), ∃ (sl : Slot), ∃ (i : Instr), ∃ (r : Nat), ∃ (w : Word), ∃ (x : Launch), ∃ (due : Nat), (i = .linkRegisterAccess ∨ i = .linksRoleAnswer) ∧ s.ev.core = c ∧ s.ev.slot = k ∧ s.slotAt c k = sl ∧ sl.launch = l ∧ sl.goesOn = true ∧ sl.stall = .links due (.write r w) next ∧ s.launch? l = some x) :=
  ⟨⟨{ Tests.stall (.links 4096 (.write 0x093 0x30207) 0x10004) (Tests.la Tests.st fun l => { l with linkSel := 5, linkSets := [(5, ⟨3, 9, 2⟩), (7, ⟨1, 1, 1⟩)] }) with cfg := { routes := (List.range 12).map fun i => (i, 5) } }, 0, 0, 0, 0x10004, (({ Tests.stall (.links 4096 (.write 0x093 0x30207) 0x10004) (Tests.la Tests.st fun l => { l with linkSel := 5, linkSets := [(5, ⟨3, 9, 2⟩), (7, ⟨1, 1, 1⟩)] }) with cfg := { routes := (List.range 12).map fun i => (i, 5) } } : State)).slotAt 0 0, .linkRegisterAccess, 0x093, 0x30207, Tests.l0 ({ Tests.stall (.links 4096 (.write 0x093 0x30207) 0x10004) (Tests.la Tests.st fun l => { l with linkSel := 5, linkSets := [(5, ⟨3, 9, 2⟩), (7, ⟨1, 1, 1⟩)] }) with cfg := { routes := (List.range 12).map fun i => (i, 5) } } : State), 4096, (.inl rfl), by decide +kernel⟩,
    ⟨{ Tests.stall (.links 4096 (.read 0x094 (.n 3)) 0x10004) (Tests.la (Tests.la Tests.st fun l => { l with leases := [(5, { die := 0, created := 0, txs := [(0, .active, 0), (1, .parked, 0), (3, .warming 9, 0)] })] }) fun l => { l with linkSel := 5, linkSets := [(5, ⟨3, 9, 2⟩)] }) with cfg := { routes := (List.range 12).map fun i => (i, 5) } }, 0, 0, 0, 0x10004, (({ Tests.stall (.links 4096 (.read 0x094 (.n 3)) 0x10004) (Tests.la (Tests.la Tests.st fun l => { l with leases := [(5, { die := 0, created := 0, txs := [(0, .active, 0), (1, .parked, 0), (3, .warming 9, 0)] })] }) fun l => { l with linkSel := 5, linkSets := [(5, ⟨3, 9, 2⟩)] }) with cfg := { routes := (List.range 12).map fun i => (i, 5) } } : State)).slotAt 0 0, .linkRegisterAccess, 0x094, .n 3, Tests.l0 ({ Tests.stall (.links 4096 (.read 0x094 (.n 3)) 0x10004) (Tests.la (Tests.la Tests.st fun l => { l with leases := [(5, { die := 0, created := 0, txs := [(0, .active, 0), (1, .parked, 0), (3, .warming 9, 0)] })] }) fun l => { l with linkSel := 5, linkSets := [(5, ⟨3, 9, 2⟩)] }) with cfg := { routes := (List.range 12).map fun i => (i, 5) } } : State), 4096, (.inl rfl), by decide +kernel⟩,
    ⟨{ Tests.stall (.links 4096 (.write 0x094 0x30207) 0x10004) (Tests.la Tests.st fun l => { l with linkSel := 5, linkSets := [(5, ⟨3, 9, 2⟩), (7, ⟨1, 1, 1⟩)] }) with cfg := { routes := (List.range 12).map fun i => (i, 5) } }, 0, 0, 0, 0x10004, (({ Tests.stall (.links 4096 (.write 0x094 0x30207) 0x10004) (Tests.la Tests.st fun l => { l with linkSel := 5, linkSets := [(5, ⟨3, 9, 2⟩), (7, ⟨1, 1, 1⟩)] }) with cfg := { routes := (List.range 12).map fun i => (i, 5) } } : State)).slotAt 0 0, .linkRegisterAccess, 0x094, 0x30207, Tests.l0 ({ Tests.stall (.links 4096 (.write 0x094 0x30207) 0x10004) (Tests.la Tests.st fun l => { l with linkSel := 5, linkSets := [(5, ⟨3, 9, 2⟩), (7, ⟨1, 1, 1⟩)] }) with cfg := { routes := (List.range 12).map fun i => (i, 5) } } : State), 4096, (.inl rfl), by decide +kernel⟩,
    ⟨{ Tests.stall (.links 4096 (.read 0x090 (.n 3)) 0x10004) (Tests.la (Tests.la Tests.st fun l => { l with leases := [(5, { die := 0, created := 0, txs := [(0, .active, 0), (1, .parked, 0), (3, .warming 9, 0)] })] }) fun l => { l with linkSel := 5, linkSets := [(5, ⟨3, 9, 2⟩)] }) with cfg := { routes := (List.range 12).map fun i => (i, 5) } }, 0, 0, 0, 0x10004, (({ Tests.stall (.links 4096 (.read 0x090 (.n 3)) 0x10004) (Tests.la (Tests.la Tests.st fun l => { l with leases := [(5, { die := 0, created := 0, txs := [(0, .active, 0), (1, .parked, 0), (3, .warming 9, 0)] })] }) fun l => { l with linkSel := 5, linkSets := [(5, ⟨3, 9, 2⟩)] }) with cfg := { routes := (List.range 12).map fun i => (i, 5) } } : State)).slotAt 0 0, .linksRoleAnswer, 0x090, .n 3, Tests.l0 ({ Tests.stall (.links 4096 (.read 0x090 (.n 3)) 0x10004) (Tests.la (Tests.la Tests.st fun l => { l with leases := [(5, { die := 0, created := 0, txs := [(0, .active, 0), (1, .parked, 0), (3, .warming 9, 0)] })] }) fun l => { l with linkSel := 5, linkSets := [(5, ⟨3, 9, 2⟩)] }) with cfg := { routes := (List.range 12).map fun i => (i, 5) } } : State), 4096, (.inr rfl), by decide +kernel⟩,
    ⟨{ Tests.stall (.links 4096 (.write 0x090 0x30207) 0x10004) (Tests.la Tests.st fun l => { l with linkSel := 5, linkSets := [(5, ⟨3, 9, 2⟩), (7, ⟨1, 1, 1⟩)] }) with cfg := { routes := (List.range 12).map fun i => (i, 5) } }, 0, 0, 0, 0x10004, (({ Tests.stall (.links 4096 (.write 0x090 0x30207) 0x10004) (Tests.la Tests.st fun l => { l with linkSel := 5, linkSets := [(5, ⟨3, 9, 2⟩), (7, ⟨1, 1, 1⟩)] }) with cfg := { routes := (List.range 12).map fun i => (i, 5) } } : State)).slotAt 0 0, .linksRoleAnswer, 0x090, 0x30207, Tests.l0 ({ Tests.stall (.links 4096 (.write 0x090 0x30207) 0x10004) (Tests.la Tests.st fun l => { l with linkSel := 5, linkSets := [(5, ⟨3, 9, 2⟩), (7, ⟨1, 1, 1⟩)] }) with cfg := { routes := (List.range 12).map fun i => (i, 5) } } : State), 4096, (.inr rfl), by decide +kernel⟩,
    ⟨{ Tests.stall (.links 4096 (.read 0x091 (.n 3)) 0x10004) (Tests.la (Tests.la Tests.st fun l => { l with leases := [(5, { die := 0, created := 0, txs := [(0, .active, 0), (1, .parked, 0), (3, .warming 9, 0)] })] }) fun l => { l with linkSel := 5, linkSets := [(5, ⟨3, 9, 2⟩)] }) with cfg := { routes := (List.range 12).map fun i => (i, 5) } }, 0, 0, 0, 0x10004, (({ Tests.stall (.links 4096 (.read 0x091 (.n 3)) 0x10004) (Tests.la (Tests.la Tests.st fun l => { l with leases := [(5, { die := 0, created := 0, txs := [(0, .active, 0), (1, .parked, 0), (3, .warming 9, 0)] })] }) fun l => { l with linkSel := 5, linkSets := [(5, ⟨3, 9, 2⟩)] }) with cfg := { routes := (List.range 12).map fun i => (i, 5) } } : State)).slotAt 0 0, .linksRoleAnswer, 0x091, .n 3, Tests.l0 ({ Tests.stall (.links 4096 (.read 0x091 (.n 3)) 0x10004) (Tests.la (Tests.la Tests.st fun l => { l with leases := [(5, { die := 0, created := 0, txs := [(0, .active, 0), (1, .parked, 0), (3, .warming 9, 0)] })] }) fun l => { l with linkSel := 5, linkSets := [(5, ⟨3, 9, 2⟩)] }) with cfg := { routes := (List.range 12).map fun i => (i, 5) } } : State), 4096, (.inr rfl), by decide +kernel⟩,
    ⟨{ Tests.stall (.links 4096 (.write 0x091 0x30207) 0x10004) (Tests.la Tests.st fun l => { l with linkSel := 5, linkSets := [(5, ⟨3, 9, 2⟩), (7, ⟨1, 1, 1⟩)] }) with cfg := { routes := (List.range 12).map fun i => (i, 5) } }, 0, 0, 0, 0x10004, (({ Tests.stall (.links 4096 (.write 0x091 0x30207) 0x10004) (Tests.la Tests.st fun l => { l with linkSel := 5, linkSets := [(5, ⟨3, 9, 2⟩), (7, ⟨1, 1, 1⟩)] }) with cfg := { routes := (List.range 12).map fun i => (i, 5) } } : State)).slotAt 0 0, .linksRoleAnswer, 0x091, 0x30207, Tests.l0 ({ Tests.stall (.links 4096 (.write 0x091 0x30207) 0x10004) (Tests.la Tests.st fun l => { l with linkSel := 5, linkSets := [(5, ⟨3, 9, 2⟩), (7, ⟨1, 1, 1⟩)] }) with cfg := { routes := (List.range 12).map fun i => (i, 5) } } : State), 4096, (.inr rfl), by decide +kernel⟩,
    ⟨{ Tests.stall (.links 4096 (.read 0x092 (.n 3)) 0x10004) (Tests.la (Tests.la Tests.st fun l => { l with leases := [(5, { die := 0, created := 0, txs := [(0, .active, 0), (1, .parked, 0), (3, .warming 9, 0)] })] }) fun l => { l with linkSel := 5, linkSets := [(5, ⟨3, 9, 2⟩)] }) with cfg := { routes := (List.range 12).map fun i => (i, 5) } }, 0, 0, 0, 0x10004, (({ Tests.stall (.links 4096 (.read 0x092 (.n 3)) 0x10004) (Tests.la (Tests.la Tests.st fun l => { l with leases := [(5, { die := 0, created := 0, txs := [(0, .active, 0), (1, .parked, 0), (3, .warming 9, 0)] })] }) fun l => { l with linkSel := 5, linkSets := [(5, ⟨3, 9, 2⟩)] }) with cfg := { routes := (List.range 12).map fun i => (i, 5) } } : State)).slotAt 0 0, .linksRoleAnswer, 0x092, .n 3, Tests.l0 ({ Tests.stall (.links 4096 (.read 0x092 (.n 3)) 0x10004) (Tests.la (Tests.la Tests.st fun l => { l with leases := [(5, { die := 0, created := 0, txs := [(0, .active, 0), (1, .parked, 0), (3, .warming 9, 0)] })] }) fun l => { l with linkSel := 5, linkSets := [(5, ⟨3, 9, 2⟩)] }) with cfg := { routes := (List.range 12).map fun i => (i, 5) } } : State), 4096, (.inr rfl), by decide +kernel⟩,
    ⟨{ Tests.stall (.links 4096 (.write 0x092 0x30207) 0x10004) (Tests.la Tests.st fun l => { l with linkSel := 5, linkSets := [(5, ⟨3, 9, 2⟩), (7, ⟨1, 1, 1⟩)] }) with cfg := { routes := (List.range 12).map fun i => (i, 5) } }, 0, 0, 0, 0x10004, (({ Tests.stall (.links 4096 (.write 0x092 0x30207) 0x10004) (Tests.la Tests.st fun l => { l with linkSel := 5, linkSets := [(5, ⟨3, 9, 2⟩), (7, ⟨1, 1, 1⟩)] }) with cfg := { routes := (List.range 12).map fun i => (i, 5) } } : State)).slotAt 0 0, .linksRoleAnswer, 0x092, 0x30207, Tests.l0 ({ Tests.stall (.links 4096 (.write 0x092 0x30207) 0x10004) (Tests.la Tests.st fun l => { l with linkSel := 5, linkSets := [(5, ⟨3, 9, 2⟩), (7, ⟨1, 1, 1⟩)] }) with cfg := { routes := (List.range 12).map fun i => (i, 5) } } : State), 4096, (.inr rfl), by decide +kernel⟩,
    ⟨{ Tests.stall (.links 4096 (.read 0x093 (.n 3)) 0x10004) (Tests.la (Tests.la Tests.st fun l => { l with leases := [(5, { die := 0, created := 0, txs := [(0, .active, 0), (1, .parked, 0), (3, .warming 9, 0)] })] }) fun l => { l with linkSel := 5, linkSets := [(5, ⟨3, 9, 2⟩)] }) with cfg := { routes := (List.range 12).map fun i => (i, 5) } }, 0, 0, 0, 0x10004, (({ Tests.stall (.links 4096 (.read 0x093 (.n 3)) 0x10004) (Tests.la (Tests.la Tests.st fun l => { l with leases := [(5, { die := 0, created := 0, txs := [(0, .active, 0), (1, .parked, 0), (3, .warming 9, 0)] })] }) fun l => { l with linkSel := 5, linkSets := [(5, ⟨3, 9, 2⟩)] }) with cfg := { routes := (List.range 12).map fun i => (i, 5) } } : State)).slotAt 0 0, .linksRoleAnswer, 0x093, .n 3, Tests.l0 ({ Tests.stall (.links 4096 (.read 0x093 (.n 3)) 0x10004) (Tests.la (Tests.la Tests.st fun l => { l with leases := [(5, { die := 0, created := 0, txs := [(0, .active, 0), (1, .parked, 0), (3, .warming 9, 0)] })] }) fun l => { l with linkSel := 5, linkSets := [(5, ⟨3, 9, 2⟩)] }) with cfg := { routes := (List.range 12).map fun i => (i, 5) } } : State), 4096, (.inr rfl), by decide +kernel⟩,
    ⟨{ Tests.stall (.links 4096 (.write 0x093 0x30207) 0x10004) (Tests.la Tests.st fun l => { l with linkSel := 5, linkSets := [(5, ⟨3, 9, 2⟩), (7, ⟨1, 1, 1⟩)] }) with cfg := { routes := (List.range 12).map fun i => (i, 5) } }, 0, 0, 0, 0x10004, (({ Tests.stall (.links 4096 (.write 0x093 0x30207) 0x10004) (Tests.la Tests.st fun l => { l with linkSel := 5, linkSets := [(5, ⟨3, 9, 2⟩), (7, ⟨1, 1, 1⟩)] }) with cfg := { routes := (List.range 12).map fun i => (i, 5) } } : State)).slotAt 0 0, .linksRoleAnswer, 0x093, 0x30207, Tests.l0 ({ Tests.stall (.links 4096 (.write 0x093 0x30207) 0x10004) (Tests.la Tests.st fun l => { l with linkSel := 5, linkSets := [(5, ⟨3, 9, 2⟩), (7, ⟨1, 1, 1⟩)] }) with cfg := { routes := (List.range 12).map fun i => (i, 5) } } : State), 4096, (.inr rfl), by decide +kernel⟩,
    ⟨{ Tests.stall (.links 4096 (.read 0x094 (.n 3)) 0x10004) (Tests.la (Tests.la Tests.st fun l => { l with leases := [(5, { die := 0, created := 0, txs := [(0, .active, 0), (1, .parked, 0), (3, .warming 9, 0)] })] }) fun l => { l with linkSel := 5, linkSets := [(5, ⟨3, 9, 2⟩)] }) with cfg := { routes := (List.range 12).map fun i => (i, 5) } }, 0, 0, 0, 0x10004, (({ Tests.stall (.links 4096 (.read 0x094 (.n 3)) 0x10004) (Tests.la (Tests.la Tests.st fun l => { l with leases := [(5, { die := 0, created := 0, txs := [(0, .active, 0), (1, .parked, 0), (3, .warming 9, 0)] })] }) fun l => { l with linkSel := 5, linkSets := [(5, ⟨3, 9, 2⟩)] }) with cfg := { routes := (List.range 12).map fun i => (i, 5) } } : State)).slotAt 0 0, .linksRoleAnswer, 0x094, .n 3, Tests.l0 ({ Tests.stall (.links 4096 (.read 0x094 (.n 3)) 0x10004) (Tests.la (Tests.la Tests.st fun l => { l with leases := [(5, { die := 0, created := 0, txs := [(0, .active, 0), (1, .parked, 0), (3, .warming 9, 0)] })] }) fun l => { l with linkSel := 5, linkSets := [(5, ⟨3, 9, 2⟩)] }) with cfg := { routes := (List.range 12).map fun i => (i, 5) } } : State), 4096, (.inr rfl), by decide +kernel⟩,
    ⟨{ Tests.stall (.links 4096 (.write 0x094 0x30207) 0x10004) (Tests.la Tests.st fun l => { l with linkSel := 5, linkSets := [(5, ⟨3, 9, 2⟩), (7, ⟨1, 1, 1⟩)] }) with cfg := { routes := (List.range 12).map fun i => (i, 5) } }, 0, 0, 0, 0x10004, (({ Tests.stall (.links 4096 (.write 0x094 0x30207) 0x10004) (Tests.la Tests.st fun l => { l with linkSel := 5, linkSets := [(5, ⟨3, 9, 2⟩), (7, ⟨1, 1, 1⟩)] }) with cfg := { routes := (List.range 12).map fun i => (i, 5) } } : State)).slotAt 0 0, .linksRoleAnswer, 0x094, 0x30207, Tests.l0 ({ Tests.stall (.links 4096 (.write 0x094 0x30207) 0x10004) (Tests.la Tests.st fun l => { l with linkSel := 5, linkSets := [(5, ⟨3, 9, 2⟩), (7, ⟨1, 1, 1⟩)] }) with cfg := { routes := (List.range 12).map fun i => (i, 5) } } : State), 4096, (.inr rfl), by decide +kernel⟩⟩

/-- Hypotheses of `Obligations.LinkEvents`, its part EventOptics are met. -/
theorem witness_LinkEvents_EventOptics :
    (∃ (s : State), ∃ (l : Nat), ∃ (p : Nat), ∃ (tx : Nat), ∃ (x : Lease), ∃ (d : Nat), s.lease? l p = some x ∧ s.ev.die = d ∧ d < s.warmAt.length ∧ warmNext s d = some tx ∧ s.ptp < s.warmAt.getD d 0) ∧
    (∃ (s : State), ∃ (l : Nat), ∃ (p : Nat), ∃ (tx : Nat), ∃ (x : Lease), ∃ (d : Nat), ∃ (e : Nat × Nat × Lease), ∃ (u : Nat × TxState × Nat), s.lease? l p = some x ∧ s.ev.die = d ∧ d < s.warmAt.length ∧ warmNext s d = some tx ∧ e ∈ allLeases s ∧ e.2.2.die = d ∧ u ∈ e.2.2.txs ∧ u.2.1 = .warmWait) ∧
    (∃ (s : State), ∃ (l : Nat), ∃ (p : Nat), ∃ (tx : Nat), ∃ (x : Lease), ∃ (d : Nat), s.lease? l p = some x ∧ s.ev.die = d ∧ d < s.warmAt.length ∧ warmNext s d = some tx ∧ s.warmAt.getD d 0 ≤ s.ptp) ∧
    (∃ (s : State), ∃ (l : Nat), ∃ (p : Nat), ∃ (x : Lease), s.lease? l p = some x ∧ warmNext s s.ev.die = none) ∧
    (∃ (s : State), ∃ (l : Nat), ∃ (p : Nat), ∃ (tx : Nat), ∃ (x : Lease), ∃ (u : Nat), ∃ (t0 : Nat), s.lease? l p = some x ∧ 17 * s.ev.port + s.ev.id = tx ∧ leaseOf s tx = some (l, p, x) ∧ x.txs.find? (·.1 == tx) = some (tx, .warming u, t0) ∧ s.ptp < u) ∧
    (∃ (s : State), ∃ (l : Nat), ∃ (p : Nat), ∃ (tx : Nat), ∃ (x : Lease), ∃ (u : Nat), ∃ (t0 : Nat), s.lease? l p = some x ∧ 17 * s.ev.port + s.ev.id = tx ∧ leaseOf s tx = some (l, p, x) ∧ x.txs.find? (·.1 == tx) = some (tx, .warming u, t0) ∧ u ≤ s.ptp) ∧
    (∃ (s : State), ∃ (l : Nat), ∃ (p : Nat), ∃ (x : Lease), ∃ (q : LinkSet), (q.park = 0 ∨ s.idleTolerance < 2400 ∨ (s.stream x.die p).depth l ≠ 0 ∨ s.ptp < x.lastFlit + 100 * q.park) ∧ s.lease? l p = some x ∧ s.ev.launch = l ∧ s.ev.peer = p ∧ s.linkSet l p = q ∧ x.txs.Pairwise (fun a b => a.1 < b.1)) ∧
    (∃ (s : State), ∃ (l : Nat), ∃ (p : Nat), ∃ (x : Lease), ∃ (q : LinkSet), (q.park = 0 ∨ s.idleTolerance < 2400 ∨ (s.stream x.die p).depth l ≠ 0 ∨ s.ptp < x.lastFlit + 100 * q.park) ∧ s.lease? l p = some x ∧ s.ev.launch = l ∧ s.ev.peer = p ∧ s.linkSet l p = q ∧ x.txs.Pairwise (fun a b => a.1 < b.1)) ∧
    (∃ (s : State), ∃ (l : Nat), ∃ (p : Nat), ∃ (x : Lease), ∃ (q : LinkSet), s.lease? l p = some x ∧ s.ev.launch = l ∧ s.ev.peer = p ∧ s.linkSet l p = q ∧ x.txs.Pairwise (fun a b => a.1 < b.1) ∧ q.park ≠ 0 ∧ 2400 ≤ s.idleTolerance ∧ (s.stream x.die p).depth l = 0 ∧ x.lastFlit + 100 * q.park ≤ s.ptp) ∧
    (∃ (s : State), ∃ (l : Nat), ∃ (p : Nat), ∃ (x : Lease), ∃ (q : LinkSet), s.lease? l p = some x ∧ s.ev.launch = l ∧ s.ev.peer = p ∧ s.linkSet l p = q ∧ x.txs.Pairwise (fun a b => a.1 < b.1) ∧ q.park ≠ 0 ∧ 2400 ≤ s.idleTolerance ∧ (s.stream x.die p).depth l = 0 ∧ x.lastFlit + 100 * q.park ≤ s.ptp) ∧
    (∃ (s : State), ∃ (l : Nat), ∃ (p : Nat), ∃ (x : Lease), ∃ (t0 : Nat), ∃ (on : Nat), s.lease? l p = some x ∧ s.ev.launch = l ∧ s.ev.peer = p ∧ x.starving = some t0 ∧ on = (x.txs.filter fun u => u.2.1.rank != 0).length ∧ s.ptp < t0 + 10000) ∧
    (∃ (s : State), ∃ (l : Nat), ∃ (p : Nat), ∃ (x : Lease), ∃ (t0 : Nat), ∃ (on : Nat), s.lease? l p = some x ∧ s.ev.launch = l ∧ s.ev.peer = p ∧ x.starving = some t0 ∧ on = (x.txs.filter fun u => u.2.1.rank != 0).length ∧ t0 + 10000 ≤ s.ptp) ∧
    (∃ (s : State), ∃ (l : Nat), ∃ (p : Nat), ∃ (x : Lease), ∃ (t0 : Nat), ∃ (on : Nat), s.lease? l p = some x ∧ s.ev.launch = l ∧ s.ev.peer = p ∧ x.starving = some t0 ∧ on = (x.txs.filter fun u => u.2.1.rank != 0).length ∧ t0 + 10000 ≤ s.ptp) ∧
    (∃ (s : State), ∃ (l : Nat), ∃ (p : Nat), ∃ (x : Lease), ∃ (t0 : Nat), ∃ (on : Nat), s.lease? l p = some x ∧ s.ev.launch = l ∧ s.ev.peer = p ∧ x.starving = some t0 ∧ on = (x.txs.filter fun u => u.2.1.rank != 0).length ∧ t0 + 10000 ≤ s.ptp) :=
  ⟨⟨{ Tests.la (Tests.st) fun l => { l with leases := [(5, { die := 0, created := 0, txs := [(0, .active, 0), (1, .warmWait, 0), (3, .warmWait, 0)] })], linkSets := [(5, ⟨3, 9, 2⟩)] } with cfg := { routes := (List.range 12).map fun i => (i, 5) }, linked := [5], ev := { die := 0 }, warmAt := [9, 0, 0, 0] }, 0, 5, 1, ((({ Tests.la (Tests.st) fun l => { l with leases := [(5, { die := 0, created := 0, txs := [(0, .active, 0), (1, .warmWait, 0), (3, .warmWait, 0)] })], linkSets := [(5, ⟨3, 9, 2⟩)] } with cfg := { routes := (List.range 12).map fun i => (i, 5) }, linked := [5], ev := { die := 0 }, warmAt := [9, 0, 0, 0] } : State)).lease? 0 5).getD { die := 0, txs := [], created := 0 }, 0, by decide +kernel⟩,
    ⟨{ Tests.la (Tests.st) fun l => { l with leases := [(5, { die := 0, created := 0, txs := [(0, .active, 0), (1, .warmWait, 0), (3, .warmWait, 0)] })], linkSets := [(5, ⟨3, 9, 2⟩)] } with cfg := { routes := (List.range 12).map fun i => (i, 5) }, linked := [5], ev := { die := 0 }, warmAt := [9, 0, 0, 0] }, 0, 5, 1, ((({ Tests.la (Tests.st) fun l => { l with leases := [(5, { die := 0, created := 0, txs := [(0, .active, 0), (1, .warmWait, 0), (3, .warmWait, 0)] })], linkSets := [(5, ⟨3, 9, 2⟩)] } with cfg := { routes := (List.range 12).map fun i => (i, 5) }, linked := [5], ev := { die := 0 }, warmAt := [9, 0, 0, 0] } : State)).lease? 0 5).getD { die := 0, txs := [], created := 0 }, 0, (allLeases ({ Tests.la (Tests.st) fun l => { l with leases := [(5, { die := 0, created := 0, txs := [(0, .active, 0), (1, .warmWait, 0), (3, .warmWait, 0)] })], linkSets := [(5, ⟨3, 9, 2⟩)] } with cfg := { routes := (List.range 12).map fun i => (i, 5) }, linked := [5], ev := { die := 0 }, warmAt := [9, 0, 0, 0] } : State)).getD 0 (0, 0, (((({ Tests.la (Tests.st) fun l => { l with leases := [(5, { die := 0, created := 0, txs := [(0, .active, 0), (1, .warmWait, 0), (3, .warmWait, 0)] })], linkSets := [(5, ⟨3, 9, 2⟩)] } with cfg := { routes := (List.range 12).map fun i => (i, 5) }, linked := [5], ev := { die := 0 }, warmAt := [9, 0, 0, 0] } : State)).lease? 0 5).getD { die := 0, txs := [], created := 0 })), (3, .warmWait, 0), by decide +kernel⟩,
    ⟨{ Tests.la (Tests.st) fun l => { l with leases := [(5, { die := 0, created := 0, txs := [(0, .active, 0), (1, .warmWait, 0), (3, .warmWait, 0)] })], linkSets := [(5, ⟨3, 9, 2⟩)] } with cfg := { routes := (List.range 12).map fun i => (i, 5) }, linked := [5], ev := { die := 0 }, warmAt := [9, 0, 0, 0], ptp17 := 153 }, 0, 5, 1, ((({ Tests.la (Tests.st) fun l => { l with leases := [(5, { die := 0, created := 0, txs := [(0, .active, 0), (1, .warmWait, 0), (3, .warmWait, 0)] })], linkSets := [(5, ⟨3, 9, 2⟩)] } with cfg := { routes := (List.range 12).map fun i => (i, 5) }, linked := [5], ev := { die := 0 }, warmAt := [9, 0, 0, 0], ptp17 := 153 } : State)).lease? 0 5).getD { die := 0, txs := [], created := 0 }, 0, by decide +kernel⟩,
    ⟨{ Tests.la (Tests.st) fun l => { l with leases := [(5, { die := 0, created := 0, txs := [(0, .active, 0)] })], linkSets := [(5, ⟨3, 9, 2⟩)] } with cfg := { routes := (List.range 12).map fun i => (i, 5) }, linked := [5], ev := { launch := 0, peer := 5 } }, 0, 5, ((({ Tests.la (Tests.st) fun l => { l with leases := [(5, { die := 0, created := 0, txs := [(0, .active, 0)] })], linkSets := [(5, ⟨3, 9, 2⟩)] } with cfg := { routes := (List.range 12).map fun i => (i, 5) }, linked := [5], ev := { launch := 0, peer := 5 } } : State)).lease? 0 5).getD { die := 0, txs := [], created := 0 }, by decide +kernel⟩,
    ⟨{ Tests.la (Tests.st) fun l => { l with leases := [(5, { die := 0, created := 0, txs := [(0, .active, 0), (1, .warming 2400, 0)] })], linkSets := [(5, ⟨3, 9, 2⟩)] } with cfg := { routes := (List.range 12).map fun i => (i, 5) }, linked := [5], ev := { port := 0, id := 1 }, ptp17 := 40783 }, 0, 5, 1, ((({ Tests.la (Tests.st) fun l => { l with leases := [(5, { die := 0, created := 0, txs := [(0, .active, 0), (1, .warming 2400, 0)] })], linkSets := [(5, ⟨3, 9, 2⟩)] } with cfg := { routes := (List.range 12).map fun i => (i, 5) }, linked := [5], ev := { port := 0, id := 1 }, ptp17 := 40783 } : State)).lease? 0 5).getD { die := 0, txs := [], created := 0 }, 2400, 0, by decide +kernel⟩,
    ⟨{ Tests.la (Tests.st) fun l => { l with leases := [(5, { die := 0, created := 0, txs := [(0, .active, 0), (1, .warming 2400, 0)] })], linkSets := [(5, ⟨3, 9, 2⟩)] } with cfg := { routes := (List.range 12).map fun i => (i, 5) }, linked := [5], ev := { port := 0, id := 1 }, ptp17 := 40800 }, 0, 5, 1, ((({ Tests.la (Tests.st) fun l => { l with leases := [(5, { die := 0, created := 0, txs := [(0, .active, 0), (1, .warming 2400, 0)] })], linkSets := [(5, ⟨3, 9, 2⟩)] } with cfg := { routes := (List.range 12).map fun i => (i, 5) }, linked := [5], ev := { port := 0, id := 1 }, ptp17 := 40800 } : State)).lease? 0 5).getD { die := 0, txs := [], created := 0 }, 2400, 0, by decide +kernel⟩,
    ⟨{ Tests.la (Tests.st) fun l => { l with leases := [(5, { die := 0, created := 0, txs := [(0, .active, 0), (1, .parked, 0), (2, .active, 0), (3, .warming 9, 0), (4, .active, 5)] })], linkSets := [(5, ⟨3, 9, 2⟩)] } with cfg := { routes := (List.range 12).map fun i => (i, 5) }, linked := [5], ev := { launch := 0, peer := 5 }, tolerance := [2400, 3000], ptp17 := 5083 }, 0, 5, ((({ Tests.la (Tests.st) fun l => { l with leases := [(5, { die := 0, created := 0, txs := [(0, .active, 0), (1, .parked, 0), (2, .active, 0), (3, .warming 9, 0), (4, .active, 5)] })], linkSets := [(5, ⟨3, 9, 2⟩)] } with cfg := { routes := (List.range 12).map fun i => (i, 5) }, linked := [5], ev := { launch := 0, peer := 5 }, tolerance := [2400, 3000], ptp17 := 5083 } : State)).lease? 0 5).getD { die := 0, txs := [], created := 0 }, (({ Tests.la (Tests.st) fun l => { l with leases := [(5, { die := 0, created := 0, txs := [(0, .active, 0), (1, .parked, 0), (2, .active, 0), (3, .warming 9, 0), (4, .active, 5)] })], linkSets := [(5, ⟨3, 9, 2⟩)] } with cfg := { routes := (List.range 12).map fun i => (i, 5) }, linked := [5], ev := { launch := 0, peer := 5 }, tolerance := [2400, 3000], ptp17 := 5083 } : State)).linkSet 0 5, (.inr (.inr (.inr (by decide +kernel)))), by decide +kernel⟩,
    ⟨{ Tests.la (Tests.st) fun l => { l with leases := [(5, { die := 0, created := 0, txs := [(0, .active, 0), (1, .parked, 0), (2, .active, 0), (3, .warming 9, 0), (4, .active, 5)] })], linkSets := [(5, ⟨3, 9, 2⟩)] } with cfg := { routes := (List.range 12).map fun i => (i, 5) }, linked := [5], ev := { launch := 0, peer := 5 }, ptp17 := 5100 }, 0, 5, ((({ Tests.la (Tests.st) fun l => { l with leases := [(5, { die := 0, created := 0, txs := [(0, .active, 0), (1, .parked, 0), (2, .active, 0), (3, .warming 9, 0), (4, .active, 5)] })], linkSets := [(5, ⟨3, 9, 2⟩)] } with cfg := { routes := (List.range 12).map fun i => (i, 5) }, linked := [5], ev := { launch := 0, peer := 5 }, ptp17 := 5100 } : State)).lease? 0 5).getD { die := 0, txs := [], created := 0 }, (({ Tests.la (Tests.st) fun l => { l with leases := [(5, { die := 0, created := 0, txs := [(0, .active, 0), (1, .parked, 0), (2, .active, 0), (3, .warming 9, 0), (4, .active, 5)] })], linkSets := [(5, ⟨3, 9, 2⟩)] } with cfg := { routes := (List.range 12).map fun i => (i, 5) }, linked := [5], ev := { launch := 0, peer := 5 }, ptp17 := 5100 } : State)).linkSet 0 5, (.inr (.inl (by decide +kernel))), by decide +kernel⟩,
    ⟨{ Tests.la (Tests.st) fun l => { l with leases := [(5, { die := 0, created := 0, txs := [(0, .active, 0), (1, .parked, 0), (2, .active, 0), (3, .warming 9, 0), (4, .active, 5)] })], linkSets := [(5, ⟨3, 9, 2⟩)] } with cfg := { routes := (List.range 12).map fun i => (i, 5) }, linked := [5], ev := { launch := 0, peer := 5 }, tolerance := [2400, 3000], ptp17 := 5100 }, 0, 5, ((({ Tests.la (Tests.st) fun l => { l with leases := [(5, { die := 0, created := 0, txs := [(0, .active, 0), (1, .parked, 0), (2, .active, 0), (3, .warming 9, 0), (4, .active, 5)] })], linkSets := [(5, ⟨3, 9, 2⟩)] } with cfg := { routes := (List.range 12).map fun i => (i, 5) }, linked := [5], ev := { launch := 0, peer := 5 }, tolerance := [2400, 3000], ptp17 := 5100 } : State)).lease? 0 5).getD { die := 0, txs := [], created := 0 }, (({ Tests.la (Tests.st) fun l => { l with leases := [(5, { die := 0, created := 0, txs := [(0, .active, 0), (1, .parked, 0), (2, .active, 0), (3, .warming 9, 0), (4, .active, 5)] })], linkSets := [(5, ⟨3, 9, 2⟩)] } with cfg := { routes := (List.range 12).map fun i => (i, 5) }, linked := [5], ev := { launch := 0, peer := 5 }, tolerance := [2400, 3000], ptp17 := 5100 } : State)).linkSet 0 5, by decide +kernel⟩,
    ⟨{ Tests.la (Tests.st) fun l => { l with leases := [(5, { die := 0, created := 0, txs := [(0, .active, 0), (1, .parked, 0), (2, .active, 0), (3, .warming 9, 0), (4, .active, 5), (5, .active, 0), (6, .active, 0)] })], linkSets := [(5, ⟨3, 9, 2⟩)] } with cfg := { routes := (List.range 12).map fun i => (i, 5) }, linked := [5], ev := { launch := 0, peer := 5 }, tolerance := [2400, 3000], ptp17 := 5100 }, 0, 5, ((({ Tests.la (Tests.st) fun l => { l with leases := [(5, { die := 0, created := 0, txs := [(0, .active, 0), (1, .parked, 0), (2, .active, 0), (3, .warming 9, 0), (4, .active, 5), (5, .active, 0), (6, .active, 0)] })], linkSets := [(5, ⟨3, 9, 2⟩)] } with cfg := { routes := (List.range 12).map fun i => (i, 5) }, linked := [5], ev := { launch := 0, peer := 5 }, tolerance := [2400, 3000], ptp17 := 5100 } : State)).lease? 0 5).getD { die := 0, txs := [], created := 0 }, (({ Tests.la (Tests.st) fun l => { l with leases := [(5, { die := 0, created := 0, txs := [(0, .active, 0), (1, .parked, 0), (2, .active, 0), (3, .warming 9, 0), (4, .active, 5), (5, .active, 0), (6, .active, 0)] })], linkSets := [(5, ⟨3, 9, 2⟩)] } with cfg := { routes := (List.range 12).map fun i => (i, 5) }, linked := [5], ev := { launch := 0, peer := 5 }, tolerance := [2400, 3000], ptp17 := 5100 } : State)).linkSet 0 5, by decide +kernel⟩,
    ⟨{ Tests.la (Tests.st) fun l => { l with leases := [(5, { die := 0, created := 0, txs := [(0, .active, 0)], starving := some 9 })], linkSets := [(5, ⟨3, 9, 2⟩)] } with cfg := { routes := (List.range 12).map fun i => (i, 5) }, linked := [5], ev := { launch := 0, peer := 5 }, ptp17 := 170136 }, 0, 5, ((({ Tests.la (Tests.st) fun l => { l with leases := [(5, { die := 0, created := 0, txs := [(0, .active, 0)], starving := some 9 })], linkSets := [(5, ⟨3, 9, 2⟩)] } with cfg := { routes := (List.range 12).map fun i => (i, 5) }, linked := [5], ev := { launch := 0, peer := 5 }, ptp17 := 170136 } : State)).lease? 0 5).getD { die := 0, txs := [], created := 0 }, 9, (((((({ Tests.la (Tests.st) fun l => { l with leases := [(5, { die := 0, created := 0, txs := [(0, .active, 0)], starving := some 9 })], linkSets := [(5, ⟨3, 9, 2⟩)] } with cfg := { routes := (List.range 12).map fun i => (i, 5) }, linked := [5], ev := { launch := 0, peer := 5 }, ptp17 := 170136 } : State)).lease? 0 5).getD { die := 0, txs := [], created := 0 })).txs.filter fun u => u.2.1.rank != 0).length, by decide +kernel⟩,
    ⟨{ Tests.la (Tests.st) fun l => { l with leases := [(5, { die := 0, created := 0, txs := [(0, .active, 0)], starving := some 9 })], linkSets := [(5, ⟨3, 9, 2⟩)] } with cfg := { routes := (List.range 12).map fun i => (i, 5) }, linked := [5], ev := { launch := 0, peer := 5 }, ptp17 := 170153 }, 0, 5, ((({ Tests.la (Tests.st) fun l => { l with leases := [(5, { die := 0, created := 0, txs := [(0, .active, 0)], starving := some 9 })], linkSets := [(5, ⟨3, 9, 2⟩)] } with cfg := { routes := (List.range 12).map fun i => (i, 5) }, linked := [5], ev := { launch := 0, peer := 5 }, ptp17 := 170153 } : State)).lease? 0 5).getD { die := 0, txs := [], created := 0 }, 9, (((((({ Tests.la (Tests.st) fun l => { l with leases := [(5, { die := 0, created := 0, txs := [(0, .active, 0)], starving := some 9 })], linkSets := [(5, ⟨3, 9, 2⟩)] } with cfg := { routes := (List.range 12).map fun i => (i, 5) }, linked := [5], ev := { launch := 0, peer := 5 }, ptp17 := 170153 } : State)).lease? 0 5).getD { die := 0, txs := [], created := 0 })).txs.filter fun u => u.2.1.rank != 0).length, by decide +kernel⟩,
    ⟨{ Tests.la (Tests.st) fun l => { l with leases := [(5, { die := 0, created := 0, txs := [(0, .parked, 0)], starving := some 9 })], linkSets := [(5, ⟨3, 9, 2⟩)] } with cfg := { routes := (List.range 12).map fun i => (i, 5) }, linked := [5], ev := { launch := 0, peer := 5 }, ptp17 := 170153 }, 0, 5, ((({ Tests.la (Tests.st) fun l => { l with leases := [(5, { die := 0, created := 0, txs := [(0, .parked, 0)], starving := some 9 })], linkSets := [(5, ⟨3, 9, 2⟩)] } with cfg := { routes := (List.range 12).map fun i => (i, 5) }, linked := [5], ev := { launch := 0, peer := 5 }, ptp17 := 170153 } : State)).lease? 0 5).getD { die := 0, txs := [], created := 0 }, 9, (((((({ Tests.la (Tests.st) fun l => { l with leases := [(5, { die := 0, created := 0, txs := [(0, .parked, 0)], starving := some 9 })], linkSets := [(5, ⟨3, 9, 2⟩)] } with cfg := { routes := (List.range 12).map fun i => (i, 5) }, linked := [5], ev := { launch := 0, peer := 5 }, ptp17 := 170153 } : State)).lease? 0 5).getD { die := 0, txs := [], created := 0 })).txs.filter fun u => u.2.1.rank != 0).length, by decide +kernel⟩,
    ⟨{ Tests.la ({ Tests.st with launches := tset (Tests.st).launches 3 { Tests.l0 Tests.st with leases := [(5, { die := 0, created := 0, txs := [(1, .active, 0), (2, .active, 0), (4, .parked, 0)] })], linkSets := [(5, ⟨0, 0, 1⟩)] } }) fun l => { l with leases := [(5, { die := 0, created := 0, txs := [(0, .active, 0)], starving := some 9 })], linkSets := [(5, ⟨3, 9, 2⟩)] } with cfg := { routes := (List.range 4).map fun i => (i, 5) }, linked := [5], ev := { launch := 0, peer := 5 }, ptp17 := 170153 }, 0, 5, ((({ Tests.la ({ Tests.st with launches := tset (Tests.st).launches 3 { Tests.l0 Tests.st with leases := [(5, { die := 0, created := 0, txs := [(1, .active, 0), (2, .active, 0), (4, .parked, 0)] })], linkSets := [(5, ⟨0, 0, 1⟩)] } }) fun l => { l with leases := [(5, { die := 0, created := 0, txs := [(0, .active, 0)], starving := some 9 })], linkSets := [(5, ⟨3, 9, 2⟩)] } with cfg := { routes := (List.range 4).map fun i => (i, 5) }, linked := [5], ev := { launch := 0, peer := 5 }, ptp17 := 170153 } : State)).lease? 0 5).getD { die := 0, txs := [], created := 0 }, 9, (((((({ Tests.la ({ Tests.st with launches := tset (Tests.st).launches 3 { Tests.l0 Tests.st with leases := [(5, { die := 0, created := 0, txs := [(1, .active, 0), (2, .active, 0), (4, .parked, 0)] })], linkSets := [(5, ⟨0, 0, 1⟩)] } }) fun l => { l with leases := [(5, { die := 0, created := 0, txs := [(0, .active, 0)], starving := some 9 })], linkSets := [(5, ⟨3, 9, 2⟩)] } with cfg := { routes := (List.range 4).map fun i => (i, 5) }, linked := [5], ev := { launch := 0, peer := 5 }, ptp17 := 170153 } : State)).lease? 0 5).getD { die := 0, txs := [], created := 0 })).txs.filter fun u => u.2.1.rank != 0).length, by decide +kernel⟩⟩

/-- Hypotheses of `Obligations.LinkEvents`, its part EventOptics are met. -/
theorem witness_LinkEvents_EventOptics_2 :
    (∃ (s : State), ∃ (l : Nat), ∃ (p : Nat), ∃ (x : Lease), ∃ (t0 : Nat), ∃ (on : Nat), s.lease? l p = some x ∧ s.ev.launch = l ∧ s.ev.peer = p ∧ x.starving = some t0 ∧ on = (x.txs.filter fun u => u.2.1.rank != 0).length ∧ t0 + 10000 ≤ s.ptp) ∧
    (∃ (s : State), ∃ (l : Nat), ∃ (p : Nat), ∃ (x : Lease), ∃ (t0 : Nat), ∃ (on : Nat), s.lease? l p = some x ∧ s.ev.launch = l ∧ s.ev.peer = p ∧ x.starving = some t0 ∧ on = (x.txs.filter fun u => u.2.1.rank != 0).length ∧ t0 + 10000 ≤ s.ptp) ∧
    (∃ (s : State), ∃ (l : Nat), ∃ (p : Nat), ∃ (x : Lease), ∃ (t0 : Nat), ∃ (on : Nat), s.lease? l p = some x ∧ s.ev.launch = l ∧ s.ev.peer = p ∧ x.starving = some t0 ∧ on = (x.txs.filter fun u => u.2.1.rank != 0).length ∧ t0 + 10000 ≤ s.ptp) ∧
    (∃ (s : State), ∃ (l : Nat), ∃ (p : Nat), ∃ (x : Lease), s.lease? l p = some x ∧ x.starving = none ∧ s.ev.launch = l ∧ s.ev.peer = p) ∧
    (∃ (s : State), ∃ (l : Nat), ∃ (p : Nat), ∃ (tx : Nat), ∃ (x : Lease), ∃ (port : Nat), ∃ (n : Nat), s.lease? l p = some x ∧ s.ev.port = port ∧ s.ev.id = n ∧ 17 * port + n = tx ∧ port < 16 ∧ n < 17 ∧ natMem s.failedTx tx = true) ∧
    (∃ (s : State), ∃ (l : Nat), ∃ (p : Nat), ∃ (tx : Nat), ∃ (x : Lease), ∃ (port : Nat), ∃ (n : Nat), s.lease? l p = some x ∧ s.ev.port = port ∧ s.ev.id = n ∧ 17 * port + n = tx ∧ port < 16 ∧ n < 17 ∧ natMem s.failedTx tx = false) ∧
    (∃ (s : State), ∃ (l : Nat), ∃ (p : Nat), ∃ (tx : Nat), ∃ (x : Lease), ∃ (port : Nat), ∃ (n : Nat), s.lease? l p = some x ∧ s.ev.port = port ∧ s.ev.id = n ∧ 17 * port + n = tx ∧ port < 16 ∧ n < 17 ∧ natMem s.failedTx tx = false) ∧
    (∃ (s : State), ∃ (l : Nat), ∃ (p : Nat), ∃ (tx : Nat), ∃ (x : Lease), ∃ (port : Nat), ∃ (n : Nat), s.lease? l p = some x ∧ s.ev.port = port ∧ s.ev.id = n ∧ 17 * port + n = tx ∧ port < 16 ∧ n < 17 ∧ natMem s.failedTx tx = false) :=
  ⟨⟨{ Tests.la ({ Tests.st with launches := tset (Tests.st).launches 3 { Tests.l0 Tests.st with leases := [(5, { die := 0, created := 0, txs := [(1, .active, 0), (2, .active, 0), (17, .parked, 0)] })], linkSets := [(5, ⟨0, 0, 1⟩)] } }) fun l => { l with leases := [(5, { die := 0, created := 0, txs := [(0, .active, 0)], starving := some 9 })], linkSets := [(5, ⟨3, 9, 2⟩)] } with cfg := { routes := [(0, 5), (1, 5), (2, 7), (64, 5), (3, 5)] }, linked := [5], ev := { launch := 0, peer := 5 }, ptp17 := 170153 }, 0, 5, ((({ Tests.la ({ Tests.st with launches := tset (Tests.st).launches 3 { Tests.l0 Tests.st with leases := [(5, { die := 0, created := 0, txs := [(1, .active, 0), (2, .active, 0), (17, .parked, 0)] })], linkSets := [(5, ⟨0, 0, 1⟩)] } }) fun l => { l with leases := [(5, { die := 0, created := 0, txs := [(0, .active, 0)], starving := some 9 })], linkSets := [(5, ⟨3, 9, 2⟩)] } with cfg := { routes := [(0, 5), (1, 5), (2, 7), (64, 5), (3, 5)] }, linked := [5], ev := { launch := 0, peer := 5 }, ptp17 := 170153 } : State)).lease? 0 5).getD { die := 0, txs := [], created := 0 }, 9, (((((({ Tests.la ({ Tests.st with launches := tset (Tests.st).launches 3 { Tests.l0 Tests.st with leases := [(5, { die := 0, created := 0, txs := [(1, .active, 0), (2, .active, 0), (17, .parked, 0)] })], linkSets := [(5, ⟨0, 0, 1⟩)] } }) fun l => { l with leases := [(5, { die := 0, created := 0, txs := [(0, .active, 0)], starving := some 9 })], linkSets := [(5, ⟨3, 9, 2⟩)] } with cfg := { routes := [(0, 5), (1, 5), (2, 7), (64, 5), (3, 5)] }, linked := [5], ev := { launch := 0, peer := 5 }, ptp17 := 170153 } : State)).lease? 0 5).getD { die := 0, txs := [], created := 0 })).txs.filter fun u => u.2.1.rank != 0).length, by decide +kernel⟩,
    ⟨{ Tests.la ({ Tests.st with launches := tset (Tests.st).launches 3 { Tests.l0 Tests.st with leases := [(6, { die := 0, created := 0, txs := [(1, .active, 0), (2, .active, 0), (4, .parked, 0)] })], linkSets := [(6, ⟨0, 0, 1⟩)] } }) fun l => { l with leases := [(5, { die := 0, created := 0, txs := [(0, .active, 0)], starving := some 9 })], linkSets := [(5, ⟨3, 9, 2⟩)] } with cfg := { routes := (List.range 68).map fun i => (i, if i < 3 then 5 else 6) }, linked := [5], ev := { launch := 0, peer := 5 }, ptp17 := 170153 }, 0, 5, ((({ Tests.la ({ Tests.st with launches := tset (Tests.st).launches 3 { Tests.l0 Tests.st with leases := [(6, { die := 0, created := 0, txs := [(1, .active, 0), (2, .active, 0), (4, .parked, 0)] })], linkSets := [(6, ⟨0, 0, 1⟩)] } }) fun l => { l with leases := [(5, { die := 0, created := 0, txs := [(0, .active, 0)], starving := some 9 })], linkSets := [(5, ⟨3, 9, 2⟩)] } with cfg := { routes := (List.range 68).map fun i => (i, if i < 3 then 5 else 6) }, linked := [5], ev := { launch := 0, peer := 5 }, ptp17 := 170153 } : State)).lease? 0 5).getD { die := 0, txs := [], created := 0 }, 9, (((((({ Tests.la ({ Tests.st with launches := tset (Tests.st).launches 3 { Tests.l0 Tests.st with leases := [(6, { die := 0, created := 0, txs := [(1, .active, 0), (2, .active, 0), (4, .parked, 0)] })], linkSets := [(6, ⟨0, 0, 1⟩)] } }) fun l => { l with leases := [(5, { die := 0, created := 0, txs := [(0, .active, 0)], starving := some 9 })], linkSets := [(5, ⟨3, 9, 2⟩)] } with cfg := { routes := (List.range 68).map fun i => (i, if i < 3 then 5 else 6) }, linked := [5], ev := { launch := 0, peer := 5 }, ptp17 := 170153 } : State)).lease? 0 5).getD { die := 0, txs := [], created := 0 })).txs.filter fun u => u.2.1.rank != 0).length, by decide +kernel⟩,
    ⟨{ Tests.la ({ Tests.st with launches := tset (Tests.st).launches 3 { Tests.l0 Tests.st with leases := [(6, { die := 0, created := 0, txs := [0, 1, 2, 3, 4, 5, 6, 7, 8, 9, 10, 11, 12, 13, 14, 15].map fun i => (i + 1, .active, 0) })], linkSets := [(6, ⟨0, 0, 1⟩)] } }) fun l => { l with leases := [(5, { die := 0, created := 0, txs := [(0, .active, 0)], starving := some 9 })], linkSets := [(5, ⟨3, 9, 2⟩)] } with cfg := { routes := (List.range 64).map fun i => (i, if i < 3 then 5 else 6) }, linked := [5], ev := { launch := 0, peer := 5 }, ptp17 := 170153 }, 0, 5, ((({ Tests.la ({ Tests.st with launches := tset (Tests.st).launches 3 { Tests.l0 Tests.st with leases := [(6, { die := 0, created := 0, txs := [0, 1, 2, 3, 4, 5, 6, 7, 8, 9, 10, 11, 12, 13, 14, 15].map fun i => (i + 1, .active, 0) })], linkSets := [(6, ⟨0, 0, 1⟩)] } }) fun l => { l with leases := [(5, { die := 0, created := 0, txs := [(0, .active, 0)], starving := some 9 })], linkSets := [(5, ⟨3, 9, 2⟩)] } with cfg := { routes := (List.range 64).map fun i => (i, if i < 3 then 5 else 6) }, linked := [5], ev := { launch := 0, peer := 5 }, ptp17 := 170153 } : State)).lease? 0 5).getD { die := 0, txs := [], created := 0 }, 9, (((((({ Tests.la ({ Tests.st with launches := tset (Tests.st).launches 3 { Tests.l0 Tests.st with leases := [(6, { die := 0, created := 0, txs := [0, 1, 2, 3, 4, 5, 6, 7, 8, 9, 10, 11, 12, 13, 14, 15].map fun i => (i + 1, .active, 0) })], linkSets := [(6, ⟨0, 0, 1⟩)] } }) fun l => { l with leases := [(5, { die := 0, created := 0, txs := [(0, .active, 0)], starving := some 9 })], linkSets := [(5, ⟨3, 9, 2⟩)] } with cfg := { routes := (List.range 64).map fun i => (i, if i < 3 then 5 else 6) }, linked := [5], ev := { launch := 0, peer := 5 }, ptp17 := 170153 } : State)).lease? 0 5).getD { die := 0, txs := [], created := 0 })).txs.filter fun u => u.2.1.rank != 0).length, by decide +kernel⟩,
    ⟨{ Tests.la (Tests.st) fun l => { l with leases := [(5, { die := 0, created := 0, txs := [(0, .active, 0)] })], linkSets := [(5, ⟨3, 9, 2⟩)] } with cfg := { routes := (List.range 12).map fun i => (i, 5) }, linked := [5], ev := { launch := 0, peer := 5 } }, 0, 5, ((({ Tests.la (Tests.st) fun l => { l with leases := [(5, { die := 0, created := 0, txs := [(0, .active, 0)] })], linkSets := [(5, ⟨3, 9, 2⟩)] } with cfg := { routes := (List.range 12).map fun i => (i, 5) }, linked := [5], ev := { launch := 0, peer := 5 } } : State)).lease? 0 5).getD { die := 0, txs := [], created := 0 }, by decide +kernel⟩,
    ⟨{ Tests.la (Tests.st) fun l => { l with leases := [(5, { die := 0, created := 0, txs := [(0, .active, 0), (1, .warming 2400, 0)] })], linkSets := [(5, ⟨3, 9, 2⟩)] } with cfg := { routes := (List.range 12).map fun i => (i, 5) }, linked := [5], ev := { port := 0, id := 1 }, failedTx := [1] }, 0, 5, 1, ((({ Tests.la (Tests.st) fun l => { l with leases := [(5, { die := 0, created := 0, txs := [(0, .active, 0), (1, .warming 2400, 0)] })], linkSets := [(5, ⟨3, 9, 2⟩)] } with cfg := { routes := (List.range 12).map fun i => (i, 5) }, linked := [5], ev := { port := 0, id := 1 }, failedTx := [1] } : State)).lease? 0 5).getD { die := 0, txs := [], created := 0 }, 0, 1, by decide +kernel⟩,
    ⟨{ Tests.la (Tests.st) fun l => { l with leases := [(5, { die := 0, created := 0, txs := [(0, .active, 0), (1, .warming 2400, 0)] })], linkSets := [(5, ⟨3, 9, 2⟩)] } with cfg := { routes := (List.range 12).map fun i => (i, 5) }, linked := [5], ev := { port := 0, id := 1 } }, 0, 5, 1, ((({ Tests.la (Tests.st) fun l => { l with leases := [(5, { die := 0, created := 0, txs := [(0, .active, 0), (1, .warming 2400, 0)] })], linkSets := [(5, ⟨3, 9, 2⟩)] } with cfg := { routes := (List.range 12).map fun i => (i, 5) }, linked := [5], ev := { port := 0, id := 1 } } : State)).lease? 0 5).getD { die := 0, txs := [], created := 0 }, 0, 1, by decide +kernel⟩,
    ⟨{ Tests.la (Tests.st) fun l => { l with leases := [(5, { die := 0, created := 0, txs := [(0, .active, 0), (1, .warming 2400, 0)] })], linkSets := [(5, ⟨3, 9, 2⟩)] } with cfg := { routes := (List.range 12).map fun i => (i, 5) }, linked := [5], ev := { port := 0, id := 1 }, failedTx := [16] }, 0, 5, 1, ((({ Tests.la (Tests.st) fun l => { l with leases := [(5, { die := 0, created := 0, txs := [(0, .active, 0), (1, .warming 2400, 0)] })], linkSets := [(5, ⟨3, 9, 2⟩)] } with cfg := { routes := (List.range 12).map fun i => (i, 5) }, linked := [5], ev := { port := 0, id := 1 }, failedTx := [16] } : State)).lease? 0 5).getD { die := 0, txs := [], created := 0 }, 0, 1, by decide +kernel⟩,
    ⟨{ Tests.la (Tests.st) fun l => { l with leases := [(5, { die := 0, created := 0, txs := [(1, .active, 0)] })], linkSets := [(5, ⟨3, 9, 2⟩)] } with cfg := { routes := (List.range 12).map fun i => (i, 5) }, linked := [5], ev := { port := 0, id := 1 }, spares := [(0, 7)] }, 0, 5, 1, ((({ Tests.la (Tests.st) fun l => { l with leases := [(5, { die := 0, created := 0, txs := [(1, .active, 0)] })], linkSets := [(5, ⟨3, 9, 2⟩)] } with cfg := { routes := (List.range 12).map fun i => (i, 5) }, linked := [5], ev := { port := 0, id := 1 }, spares := [(0, 7)] } : State)).lease? 0 5).getD { die := 0, txs := [], created := 0 }, 0, 1, by decide +kernel⟩⟩

/-- Hypotheses of `Obligations.LinkEvents`, its part EventStream are met. -/
theorem witness_LinkEvents_EventStream :
    (∃ (s : State), ∃ (d : Nat), ∃ (p : Nat), ∃ (x : Stream), (boundary s < x.nextBoundary ∨ natMem s.linked p = false) ∧ s.ev.die = d ∧ s.ev.peer = p ∧ s.stream d p = x) ∧
    (∃ (s : State), ∃ (d : Nat), ∃ (p : Nat), ∃ (x : Stream), (boundary s < x.nextBoundary ∨ natMem s.linked p = false) ∧ s.ev.die = d ∧ s.ev.peer = p ∧ s.stream d p = x) ∧
    (∃ (s : State), ∃ (d : Nat), ∃ (p : Nat), ∃ (x : Stream), ∃ (u : State), u = placeBases (s.modStream d p fun y => { y with nextBoundary := boundary s + 1 }) ∧ s.ev.die = d ∧ s.ev.peer = p ∧ s.stream d p = x ∧ x.nextBoundary ≤ boundary s ∧ natMem s.linked p = true) ∧
    (∃ (s : State), ∃ (d : Nat), ∃ (p : Nat), ∃ (x : Stream), s.ev.die = d ∧ s.ev.peer = p ∧ s.stream d p = x ∧ 256 ≤ x.unacked.length) ∧
    (∃ (s : State), ∃ (d : Nat), ∃ (p : Nat), ∃ (x : Stream), ∃ (key : Nat), ∃ (la : Nat), ∃ (f : Nat), ∃ (tx : Nat), ∃ (r : List (Nat × Nat × Nat)), ∃ (t : State), t = sendFlit d p s tx ∧ s.ev.die = d ∧ s.ev.peer = p ∧ s.stream d p = x ∧ x.pending = (key, la, f) :: r ∧ x.unacked.length < 256 ∧ f < 2 ^ 256 ∧ x.nextSeq < 2 ^ 16) ∧
    (∃ (s : State), ∃ (d : Nat), ∃ (p : Nat), ∃ (x : Stream), ∃ (key : Nat), ∃ (a : List Packet), ∃ (n : Nat), ∃ (q : Nat × List Packet × Nat), s.ev.die = d ∧ s.ev.peer = p ∧ s.stream d p = x ∧ nextQueue s d p x = some key ∧ x.queues.Pairwise (fun q r => q.1 < r.1) ∧ (∀ q, q ∈ x.queues → 0 < heldTx s d p q.1) ∧ tget x.queues key = some (a, n) ∧ q ∈ x.queues ∧ q.2.1 ≠ [] ∧ n * heldTx s d p q.1 = q.2.2 * heldTx s d p key) ∧
    (∃ (s : State), ∃ (d : Nat), ∃ (p : Nat), ∃ (x : Stream), ∃ (key : Nat), ∃ (a : List Packet), ∃ (n : Nat), ∃ (q : Nat × List Packet × Nat), s.ev.die = d ∧ s.ev.peer = p ∧ s.stream d p = x ∧ nextQueue s d p x = some key ∧ x.queues.Pairwise (fun q r => q.1 < r.1) ∧ (∀ q, q ∈ x.queues → 0 < heldTx s d p q.1) ∧ tget x.queues key = some (a, n) ∧ q ∈ x.queues ∧ q.2.1 ≠ []) ∧
    (∃ (s : State), ∃ (d : Nat), ∃ (p : Nat), ∃ (x : Stream), ∃ (key : Nat), ∃ (a : List Packet), ∃ (n : Nat), ∃ (q : Nat × List Packet × Nat), s.ev.die = d ∧ s.ev.peer = p ∧ s.stream d p = x ∧ nextQueue s d p x = some key ∧ x.queues.Pairwise (fun q r => q.1 < r.1) ∧ (∀ q, q ∈ x.queues → 0 < heldTx s d p q.1) ∧ tget x.queues key = some (a, n) ∧ q ∈ x.queues ∧ q.2.1 ≠ []) ∧
    (∃ (s : State), ∃ (d : Nat), ∃ (p : Nat), ∃ (x : Stream), ∃ (f : Nat), ∃ (pl : Nat), s.ev.die = d ∧ s.ev.peer = p ∧ s.stream d p = x ∧ s.ev.n = f ∧ f / 2 ^ 32 = pl ∧ pl < 2 ^ 256 ∧ x.rxNext < 2 ^ 16 ∧ natMem s.linked p = true ∧ (flitChecks f = false ∨ 256 ≤ (f % 2 ^ 16 + 2 ^ 16 - x.rxNext) % 2 ^ 16)) ∧
    (∃ (s : State), ∃ (d : Nat), ∃ (p : Nat), ∃ (x : Stream), ∃ (f : Nat), ∃ (pl : Nat), s.ev.die = d ∧ s.ev.peer = p ∧ s.stream d p = x ∧ s.ev.n = f ∧ f / 2 ^ 32 = pl ∧ pl < 2 ^ 256 ∧ x.rxNext < 2 ^ 16 ∧ natMem s.linked p = true ∧ (flitChecks f = false ∨ 256 ≤ (f % 2 ^ 16 + 2 ^ 16 - x.rxNext) % 2 ^ 16)) ∧
    (∃ (s : State), ∃ (d : Nat), ∃ (p : Nat), ∃ (x : Stream), ∃ (f : Nat), ∃ (pl : Nat), ∃ (kind : Nat), s.ev.die = d ∧ s.ev.peer = p ∧ s.stream d p = x ∧ s.ev.n = f ∧ f / 2 ^ 32 = pl ∧ pl < 2 ^ 256 ∧ x.rxNext < 2 ^ 16 ∧ natMem s.linked p = true ∧ flitChecks f = true ∧ f % 2 ^ 16 = x.rxNext ∧ x.rxHeld = [] ∧ x.rxPart = [] ∧ bitsOf pl 59 58 = 0 ∧ bitsOf pl 63 60 = kind) ∧
    (∃ (s : State), ∃ (d : Nat), ∃ (p : Nat), ∃ (x : Stream), ∃ (f : Nat), ∃ (pl : Nat), ∃ (kind : Nat), s.ev.die = d ∧ s.ev.peer = p ∧ s.stream d p = x ∧ s.ev.n = f ∧ f / 2 ^ 32 = pl ∧ pl < 2 ^ 256 ∧ x.rxNext < 2 ^ 16 ∧ natMem s.linked p = true ∧ flitChecks f = true ∧ f % 2 ^ 16 = x.rxNext ∧ x.rxHeld = [] ∧ x.rxPart = [] ∧ bitsOf pl 59 58 = 0 ∧ bitsOf pl 63 60 = kind) ∧
    (∃ (s : State), ∃ (d : Nat), ∃ (p : Nat), ∃ (x : Stream), ∃ (f : Nat), ∃ (pl : Nat), ∃ (kind : Nat), s.ev.die = d ∧ s.ev.peer = p ∧ s.stream d p = x ∧ s.ev.n = f ∧ f / 2 ^ 32 = pl ∧ pl < 2 ^ 256 ∧ x.rxNext < 2 ^ 16 ∧ natMem s.linked p = true ∧ flitChecks f = true ∧ f % 2 ^ 16 = x.rxNext ∧ x.rxHeld = [] ∧ x.rxPart = [] ∧ bitsOf pl 59 58 = 0 ∧ bitsOf pl 63 60 = kind) ∧
    (∃ (s : State), ∃ (d : Nat), ∃ (p : Nat), ∃ (x : Stream), ∃ (f : Nat), ∃ (pl : Nat), ∃ (kind : Nat), s.ev.die = d ∧ s.ev.peer = p ∧ s.stream d p = x ∧ s.ev.n = f ∧ f / 2 ^ 32 = pl ∧ pl < 2 ^ 256 ∧ x.rxNext < 2 ^ 16 ∧ natMem s.linked p = true ∧ flitChecks f = true ∧ f % 2 ^ 16 = x.rxNext ∧ x.rxHeld = [] ∧ x.rxPart = [] ∧ bitsOf pl 59 58 = 0 ∧ bitsOf pl 63 60 = kind) :=
  ⟨⟨{ Tests.st with streams := [(streamKey 0 5, { nextBoundary := 1 })], ev := { die := 0, peer := 5 }, cfg := { routes := (List.range 12).map fun i => (i, 5) }, linked := [5] }, 0, 5, (({ Tests.st with streams := [(streamKey 0 5, { nextBoundary := 1 })], ev := { die := 0, peer := 5 }, cfg := { routes := (List.range 12).map fun i => (i, 5) }, linked := [5] } : State)).stream 0 5, (.inl (by decide +kernel)), by decide +kernel⟩,
    ⟨{ Tests.st with streams := [(streamKey 0 5, { nextBoundary := 0 })], ev := { die := 0, peer := 5 } }, 0, 5, (({ Tests.st with streams := [(streamKey 0 5, { nextBoundary := 0 })], ev := { die := 0, peer := 5 } } : State)).stream 0 5, (.inr (by decide +kernel)), by decide +kernel⟩,
    ⟨{ Tests.st with streams := [(streamKey 0 5, { nextBoundary := 0, pending := [(256, 0, 77)] })], ev := { die := 0, peer := 5 }, cfg := { routes := (List.range 12).map fun i => (i, 5) }, linked := [5], baseTx := [(5, 0)] }, 0, 5, (({ Tests.st with streams := [(streamKey 0 5, { nextBoundary := 0, pending := [(256, 0, 77)] })], ev := { die := 0, peer := 5 }, cfg := { routes := (List.range 12).map fun i => (i, 5) }, linked := [5], baseTx := [(5, 0)] } : State)).stream 0 5, placeBases ((({ Tests.st with streams := [(streamKey 0 5, { nextBoundary := 0, pending := [(256, 0, 77)] })], ev := { die := 0, peer := 5 }, cfg := { routes := (List.range 12).map fun i => (i, 5) }, linked := [5], baseTx := [(5, 0)] } : State)).modStream 0 5 fun y => { y with nextBoundary := boundary (({ Tests.st with streams := [(streamKey 0 5, { nextBoundary := 0, pending := [(256, 0, 77)] })], ev := { die := 0, peer := 5 }, cfg := { routes := (List.range 12).map fun i => (i, 5) }, linked := [5], baseTx := [(5, 0)] } : State)) + 1 }), (rfl), by decide +kernel⟩,
    ⟨{ Tests.st with streams := [(streamKey 0 5, { pending := [(256, 0, 77)], unacked := (List.range 256).map fun i => (i, 0, 0, 0) })], ev := { die := 0, peer := 5 }, cfg := { routes := (List.range 12).map fun i => (i, 5) }, linked := [5] }, 0, 5, (({ Tests.st with streams := [(streamKey 0 5, { pending := [(256, 0, 77)], unacked := (List.range 256).map fun i => (i, 0, 0, 0) })], ev := { die := 0, peer := 5 }, cfg := { routes := (List.range 12).map fun i => (i, 5) }, linked := [5] } : State)).stream 0 5, by decide +kernel⟩,
    ⟨{ Tests.st with streams := [(streamKey 0 5, { pending := [(256, 0, 77), (256, 0, 9)], nextSeq := 65535, unacked := [(65534, 0, 0, 0)] })], ev := { die := 0, peer := 5 }, cfg := { routes := (List.range 12).map fun i => (i, 5) }, linked := [5] }, 0, 5, (({ Tests.st with streams := [(streamKey 0 5, { pending := [(256, 0, 77), (256, 0, 9)], nextSeq := 65535, unacked := [(65534, 0, 0, 0)] })], ev := { die := 0, peer := 5 }, cfg := { routes := (List.range 12).map fun i => (i, 5) }, linked := [5] } : State)).stream 0 5, 256, 0, 77, 0, [(256, 0, 9)], sendFlit 0 5 ({ Tests.st with streams := [(streamKey 0 5, { pending := [(256, 0, 77), (256, 0, 9)], nextSeq := 65535, unacked := [(65534, 0, 0, 0)] })], ev := { die := 0, peer := 5 }, cfg := { routes := (List.range 12).map fun i => (i, 5) }, linked := [5] } : State) 0, (rfl), by decide +kernel⟩,
    ⟨{ Tests.la Tests.st fun l => { l with leases := [(5, { die := 0, created := 0, txs := [(0, .active, 0), (1, .parked, 0)] })] } with streams := [(streamKey 0 5, { queues := [(0, [({ header := packetHeader 2 1 false 3 5 0 0, words := [8] } : Packet)], 4), (256, [({ header := packetHeader 2 1 false 3 5 0 0, words := [8] } : Packet), ({ header := packetHeader 2 1 false 3 5 0 0, words := [8] } : Packet)], 2)] })], ev := { die := 0, peer := 5 }, cfg := { routes := (List.range 12).map fun i => (i, 5) }, linked := [5] }, 0, 5, (({ Tests.la Tests.st fun l => { l with leases := [(5, { die := 0, created := 0, txs := [(0, .active, 0), (1, .parked, 0)] })] } with streams := [(streamKey 0 5, { queues := [(0, [({ header := packetHeader 2 1 false 3 5 0 0, words := [8] } : Packet)], 4), (256, [({ header := packetHeader 2 1 false 3 5 0 0, words := [8] } : Packet), ({ header := packetHeader 2 1 false 3 5 0 0, words := [8] } : Packet)], 2)] })], ev := { die := 0, peer := 5 }, cfg := { routes := (List.range 12).map fun i => (i, 5) }, linked := [5] } : State)).stream 0 5, 0, [({ header := packetHeader 2 1 false 3 5 0 0, words := [8] } : Packet)], 4, (256, [({ header := packetHeader 2 1 false 3 5 0 0, words := [8] } : Packet), ({ header := packetHeader 2 1 false 3 5 0 0, words := [8] } : Packet)], 2), by decide +kernel⟩,
    ⟨{ Tests.la Tests.st fun l => { l with leases := [(5, { die := 0, created := 0, txs := [(0, .active, 0), (1, .parked, 0)] })] } with streams := [(streamKey 0 5, { queues := [(0, [({ header := packetHeader 2 1 false 3 5 0 0, words := [8] } : Packet)], 5), (256, [({ header := packetHeader 2 1 false 3 5 0 0, words := [8] } : Packet), ({ header := packetHeader 2 1 false 3 5 0 0, words := [8] } : Packet)], 2)] })], ev := { die := 0, peer := 5 }, cfg := { routes := (List.range 12).map fun i => (i, 5) }, linked := [5] }, 0, 5, (({ Tests.la Tests.st fun l => { l with leases := [(5, { die := 0, created := 0, txs := [(0, .active, 0), (1, .parked, 0)] })] } with streams := [(streamKey 0 5, { queues := [(0, [({ header := packetHeader 2 1 false 3 5 0 0, words := [8] } : Packet)], 5), (256, [({ header := packetHeader 2 1 false 3 5 0 0, words := [8] } : Packet), ({ header := packetHeader 2 1 false 3 5 0 0, words := [8] } : Packet)], 2)] })], ev := { die := 0, peer := 5 }, cfg := { routes := (List.range 12).map fun i => (i, 5) }, linked := [5] } : State)).stream 0 5, 256, [({ header := packetHeader 2 1 false 3 5 0 0, words := [8] } : Packet), ({ header := packetHeader 2 1 false 3 5 0 0, words := [8] } : Packet)], 2, (256, [({ header := packetHeader 2 1 false 3 5 0 0, words := [8] } : Packet), ({ header := packetHeader 2 1 false 3 5 0 0, words := [8] } : Packet)], 2), by decide +kernel⟩,
    ⟨{ Tests.la Tests.st fun l => { l with leases := [(5, { die := 0, created := 0, txs := [(0, .active, 0), (1, .parked, 0)] })] } with streams := [(streamKey 0 5, { queues := [(0, [({ header := packetHeader 2 1 false 3 5 0 0, words := [8] } : Packet)], 3), (256, [({ header := packetHeader 2 1 false 3 5 0 0, words := [8] } : Packet), ({ header := packetHeader 2 1 false 3 5 0 0, words := [8] } : Packet)], 2)] })], ev := { die := 0, peer := 5 }, cfg := { routes := (List.range 12).map fun i => (i, 5) }, linked := [5] }, 0, 5, (({ Tests.la Tests.st fun l => { l with leases := [(5, { die := 0, created := 0, txs := [(0, .active, 0), (1, .parked, 0)] })] } with streams := [(streamKey 0 5, { queues := [(0, [({ header := packetHeader 2 1 false 3 5 0 0, words := [8] } : Packet)], 3), (256, [({ header := packetHeader 2 1 false 3 5 0 0, words := [8] } : Packet), ({ header := packetHeader 2 1 false 3 5 0 0, words := [8] } : Packet)], 2)] })], ev := { die := 0, peer := 5 }, cfg := { routes := (List.range 12).map fun i => (i, 5) }, linked := [5] } : State)).stream 0 5, 0, [({ header := packetHeader 2 1 false 3 5 0 0, words := [8] } : Packet)], 3, (256, [({ header := packetHeader 2 1 false 3 5 0 0, words := [8] } : Packet), ({ header := packetHeader 2 1 false 3 5 0 0, words := [8] } : Packet)], 2), by decide +kernel⟩,
    ⟨{ Tests.st with streams := [(streamKey 0 5, { rxNext := 9 })], ev := { die := 0, peer := 5, n := (flitOf 9 (77)) + 2 ^ 16 }, cfg := { routes := (List.range 12).map fun i => (i, 5) }, linked := [5], receivers := [(0, [0])] }, 0, 5, (({ Tests.st with streams := [(streamKey 0 5, { rxNext := 9 })], ev := { die := 0, peer := 5, n := (flitOf 9 (77)) + 2 ^ 16 }, cfg := { routes := (List.range 12).map fun i => (i, 5) }, linked := [5], receivers := [(0, [0])] } : State)).stream 0 5, (flitOf 9 (77)) + 2 ^ 16, ((flitOf 9 (77)) + 2 ^ 16) / 2 ^ 32, by decide +kernel⟩,
    ⟨{ Tests.st with streams := [(streamKey 0 5, { rxNext := 10 })], ev := { die := 0, peer := 5, n := flitOf 9 (77) }, cfg := { routes := (List.range 12).map fun i => (i, 5) }, linked := [5], receivers := [(0, [0])] }, 0, 5, (({ Tests.st with streams := [(streamKey 0 5, { rxNext := 10 })], ev := { die := 0, peer := 5, n := flitOf 9 (77) }, cfg := { routes := (List.range 12).map fun i => (i, 5) }, linked := [5], receivers := [(0, [0])] } : State)).stream 0 5, flitOf 9 (77), (flitOf 9 (77)) / 2 ^ 32, by decide +kernel⟩,
    ⟨{ Tests.st with streams := [(streamKey 0 5, { rxNext := 65535 })], ev := { die := 0, peer := 5, n := flitOf 65535 ((0 * 2 ^ 60 + 0 * 2 ^ 58 + 3 * 2 ^ 54 + 5 * 2 ^ 32) + 2 ^ 64 * 0x1234 + 2 ^ 128 * 0x56 + 2 ^ 192 * 9) }, cfg := { routes := (List.range 12).map fun i => (i, 5) }, linked := [5], receivers := [(0, [0])] }, 0, 5, (({ Tests.st with streams := [(streamKey 0 5, { rxNext := 65535 })], ev := { die := 0, peer := 5, n := flitOf 65535 ((0 * 2 ^ 60 + 0 * 2 ^ 58 + 3 * 2 ^ 54 + 5 * 2 ^ 32) + 2 ^ 64 * 0x1234 + 2 ^ 128 * 0x56 + 2 ^ 192 * 9) }, cfg := { routes := (List.range 12).map fun i => (i, 5) }, linked := [5], receivers := [(0, [0])] } : State)).stream 0 5, flitOf 65535 ((0 * 2 ^ 60 + 0 * 2 ^ 58 + 3 * 2 ^ 54 + 5 * 2 ^ 32) + 2 ^ 64 * 0x1234 + 2 ^ 128 * 0x56 + 2 ^ 192 * 9), (flitOf 65535 ((0 * 2 ^ 60 + 0 * 2 ^ 58 + 3 * 2 ^ 54 + 5 * 2 ^ 32) + 2 ^ 64 * 0x1234 + 2 ^ 128 * 0x56 + 2 ^ 192 * 9)) / 2 ^ 32, 0, by decide +kernel⟩,
    ⟨{ Tests.st with streams := [(streamKey 0 5, { rxNext := 65535 })], ev := { die := 0, peer := 5, n := flitOf 65535 ((1 * 2 ^ 60 + 0 * 2 ^ 58 + 3 * 2 ^ 54 + 5 * 2 ^ 32) + 2 ^ 64 * 0x1234 + 2 ^ 128 * 0x56 + 2 ^ 192 * 9) }, cfg := { routes := (List.range 12).map fun i => (i, 5) }, linked := [5], receivers := [(0, [0])] }, 0, 5, (({ Tests.st with streams := [(streamKey 0 5, { rxNext := 65535 })], ev := { die := 0, peer := 5, n := flitOf 65535 ((1 * 2 ^ 60 + 0 * 2 ^ 58 + 3 * 2 ^ 54 + 5 * 2 ^ 32) + 2 ^ 64 * 0x1234 + 2 ^ 128 * 0x56 + 2 ^ 192 * 9) }, cfg := { routes := (List.range 12).map fun i => (i, 5) }, linked := [5], receivers := [(0, [0])] } : State)).stream 0 5, flitOf 65535 ((1 * 2 ^ 60 + 0 * 2 ^ 58 + 3 * 2 ^ 54 + 5 * 2 ^ 32) + 2 ^ 64 * 0x1234 + 2 ^ 128 * 0x56 + 2 ^ 192 * 9), (flitOf 65535 ((1 * 2 ^ 60 + 0 * 2 ^ 58 + 3 * 2 ^ 54 + 5 * 2 ^ 32) + 2 ^ 64 * 0x1234 + 2 ^ 128 * 0x56 + 2 ^ 192 * 9)) / 2 ^ 32, 1, by decide +kernel⟩,
    ⟨{ Tests.st with streams := [(streamKey 0 5, { rxNext := 65535 })], ev := { die := 0, peer := 5, n := flitOf 65535 ((2 * 2 ^ 60 + 0 * 2 ^ 58 + 3 * 2 ^ 54 + 5 * 2 ^ 32) + 2 ^ 64 * 0x1234 + 2 ^ 128 * 0x56 + 2 ^ 192 * 9) }, cfg := { routes := (List.range 12).map fun i => (i, 5) }, linked := [5], receivers := [(0, [0])] }, 0, 5, (({ Tests.st with streams := [(streamKey 0 5, { rxNext := 65535 })], ev := { die := 0, peer := 5, n := flitOf 65535 ((2 * 2 ^ 60 + 0 * 2 ^ 58 + 3 * 2 ^ 54 + 5 * 2 ^ 32) + 2 ^ 64 * 0x1234 + 2 ^ 128 * 0x56 + 2 ^ 192 * 9) }, cfg := { routes := (List.range 12).map fun i => (i, 5) }, linked := [5], receivers := [(0, [0])] } : State)).stream 0 5, flitOf 65535 ((2 * 2 ^ 60 + 0 * 2 ^ 58 + 3 * 2 ^ 54 + 5 * 2 ^ 32) + 2 ^ 64 * 0x1234 + 2 ^ 128 * 0x56 + 2 ^ 192 * 9), (flitOf 65535 ((2 * 2 ^ 60 + 0 * 2 ^ 58 + 3 * 2 ^ 54 + 5 * 2 ^ 32) + 2 ^ 64 * 0x1234 + 2 ^ 128 * 0x56 + 2 ^ 192 * 9)) / 2 ^ 32, 2, by decide +kernel⟩,
    ⟨{ Tests.st with streams := [(streamKey 0 5, { rxNext := 65535 })], ev := { die := 0, peer := 5, n := flitOf 65535 ((5 * 2 ^ 60 + 0 * 2 ^ 58 + 3 * 2 ^ 54 + 5 * 2 ^ 32) + 2 ^ 64 * 0x1234 + 2 ^ 128 * 0x56 + 2 ^ 192 * 9) }, cfg := { routes := (List.range 12).map fun i => (i, 5) }, linked := [5], receivers := [(0, [0])] }, 0, 5, (({ Tests.st with streams := [(streamKey 0 5, { rxNext := 65535 })], ev := { die := 0, peer := 5, n := flitOf 65535 ((5 * 2 ^ 60 + 0 * 2 ^ 58 + 3 * 2 ^ 54 + 5 * 2 ^ 32) + 2 ^ 64 * 0x1234 + 2 ^ 128 * 0x56 + 2 ^ 192 * 9) }, cfg := { routes := (List.range 12).map fun i => (i, 5) }, linked := [5], receivers := [(0, [0])] } : State)).stream 0 5, flitOf 65535 ((5 * 2 ^ 60 + 0 * 2 ^ 58 + 3 * 2 ^ 54 + 5 * 2 ^ 32) + 2 ^ 64 * 0x1234 + 2 ^ 128 * 0x56 + 2 ^ 192 * 9), (flitOf 65535 ((5 * 2 ^ 60 + 0 * 2 ^ 58 + 3 * 2 ^ 54 + 5 * 2 ^ 32) + 2 ^ 64 * 0x1234 + 2 ^ 128 * 0x56 + 2 ^ 192 * 9)) / 2 ^ 32, 5, by decide +kernel⟩⟩

/-- Hypotheses of `Obligations.LinkEvents`, its part EventStream are met. -/
theorem witness_LinkEvents_EventStream_2 :
    (∃ (s : State), ∃ (d : Nat), ∃ (p : Nat), ∃ (x : Stream), ∃ (f : Nat), ∃ (pl : Nat), ∃ (kind : Nat), s.ev.die = d ∧ s.ev.peer = p ∧ s.stream d p = x ∧ s.ev.n = f ∧ f / 2 ^ 32 = pl ∧ pl < 2 ^ 256 ∧ x.rxNext < 2 ^ 16 ∧ natMem s.linked p = true ∧ flitChecks f = true ∧ f % 2 ^ 16 = x.rxNext ∧ x.rxHeld = [] ∧ x.rxPart = [] ∧ bitsOf pl 59 58 = 0 ∧ bitsOf pl 63 60 = kind) ∧
    (∃ (s : State), ∃ (d : Nat), ∃ (p : Nat), ∃ (x : Stream), ∃ (f : Nat), ∃ (pl : Nat), ∃ (kind : Nat), s.ev.die = d ∧ s.ev.peer = p ∧ s.stream d p = x ∧ s.ev.n = f ∧ f / 2 ^ 32 = pl ∧ pl < 2 ^ 256 ∧ x.rxNext < 2 ^ 16 ∧ natMem s.linked p = true ∧ flitChecks f = true ∧ f % 2 ^ 16 = x.rxNext ∧ x.rxHeld = [] ∧ x.rxPart = [] ∧ bitsOf pl 59 58 = 0 ∧ bitsOf pl 63 60 = kind) ∧
    (∃ (s : State), ∃ (d : Nat), ∃ (p : Nat), ∃ (x : Stream), ∃ (f : Nat), ∃ (pl : Nat), s.ev.die = d ∧ s.ev.peer = p ∧ s.stream d p = x ∧ s.ev.n = f ∧ f / 2 ^ 32 = pl ∧ pl < 2 ^ 256 ∧ x.rxNext < 2 ^ 16 ∧ natMem s.linked p = true ∧ flitChecks f = true ∧ (f % 2 ^ 16 + 2 ^ 16 - x.rxNext) % 2 ^ 16 < 256 ∧ f % 2 ^ 16 ≠ x.rxNext ∧ tget x.rxHeld x.rxNext = none) ∧
    (∃ (s : State), ∃ (d : Nat), ∃ (p : Nat), ∃ (x : Stream), ∃ (f : Nat), ∃ (pl : Nat), ∃ (w : Nat), (natMem s.linked p = false ∨ flitChecks f = false ∨ f % 2 ^ 16 ≠ 0 ∨ bitsOf pl 63 60 ≠ 6) ∧ s.ev.die = d ∧ s.ev.peer = p ∧ s.stream d p = x ∧ s.ev.n = f ∧ f / 2 ^ 32 = pl ∧ pl < 2 ^ 256 ∧ w = pl / 2 ^ 64 % 2 ^ 64) ∧
    (∃ (s : State), ∃ (d : Nat), ∃ (p : Nat), ∃ (x : Stream), ∃ (f : Nat), ∃ (pl : Nat), ∃ (w : Nat), (natMem s.linked p = false ∨ flitChecks f = false ∨ f % 2 ^ 16 ≠ 0 ∨ bitsOf pl 63 60 ≠ 6) ∧ s.ev.die = d ∧ s.ev.peer = p ∧ s.stream d p = x ∧ s.ev.n = f ∧ f / 2 ^ 32 = pl ∧ pl < 2 ^ 256 ∧ w = pl / 2 ^ 64 % 2 ^ 64) ∧
    (∃ (s : State), ∃ (d : Nat), ∃ (p : Nat), ∃ (x : Stream), ∃ (f : Nat), ∃ (pl : Nat), ∃ (w : Nat), (natMem s.linked p = false ∨ flitChecks f = false ∨ f % 2 ^ 16 ≠ 0 ∨ bitsOf pl 63 60 ≠ 6) ∧ s.ev.die = d ∧ s.ev.peer = p ∧ s.stream d p = x ∧ s.ev.n = f ∧ f / 2 ^ 32 = pl ∧ pl < 2 ^ 256 ∧ w = pl / 2 ^ 64 % 2 ^ 64) ∧
    (∃ (s : State), ∃ (d : Nat), ∃ (p : Nat), ∃ (x : Stream), ∃ (f : Nat), ∃ (pl : Nat), ∃ (w : Nat), (natMem s.linked p = false ∨ flitChecks f = false ∨ f % 2 ^ 16 ≠ 0 ∨ bitsOf pl 63 60 ≠ 6) ∧ s.ev.die = d ∧ s.ev.peer = p ∧ s.stream d p = x ∧ s.ev.n = f ∧ f / 2 ^ 32 = pl ∧ pl < 2 ^ 256 ∧ w = pl / 2 ^ 64 % 2 ^ 64) ∧
    (∃ (s : State), ∃ (d : Nat), ∃ (p : Nat), ∃ (x : Stream), ∃ (f : Nat), ∃ (pl : Nat), ∃ (w : Nat), ∃ (k : Nat), ∃ (first : Nat), ∃ (tx : Nat), s.ev.die = d ∧ s.ev.peer = p ∧ s.stream d p = x ∧ s.ev.n = f ∧ f / 2 ^ 32 = pl ∧ pl < 2 ^ 256 ∧ w = pl / 2 ^ 64 % 2 ^ 64 ∧ natMem s.linked p = true ∧ flitChecks f = true ∧ f % 2 ^ 16 = 0 ∧ bitsOf pl 63 60 = 6 ∧ bitsOf w 1 0 = d ∧ controlTx s d p = some tx ∧ first = ((x.unacked.head?).map (·.1)).getD x.nextSeq ∧ k = (bitsOf w 31 16 + 2 ^ 16 - first) % 2 ^ 16 ∧ k ≤ x.unacked.length) ∧
    (∃ (s : State), ∃ (d : Nat), ∃ (p : Nat), ∃ (x : Stream), ∃ (f : Nat), ∃ (pl : Nat), ∃ (w : Nat), ∃ (k : Nat), ∃ (first : Nat), ∃ (tx : Nat), s.ev.die = d ∧ s.ev.peer = p ∧ s.stream d p = x ∧ s.ev.n = f ∧ f / 2 ^ 32 = pl ∧ pl < 2 ^ 256 ∧ w = pl / 2 ^ 64 % 2 ^ 64 ∧ natMem s.linked p = true ∧ flitChecks f = true ∧ f % 2 ^ 16 = 0 ∧ bitsOf pl 63 60 = 6 ∧ bitsOf w 1 0 = d ∧ controlTx s d p = some tx ∧ first = ((x.unacked.head?).map (·.1)).getD x.nextSeq ∧ k = (bitsOf w 31 16 + 2 ^ 16 - first) % 2 ^ 16 ∧ k ≤ x.unacked.length) ∧
    (∃ (s : State), ∃ (d : Nat), ∃ (p : Nat), ∃ (x : Stream), ∃ (f : Nat), ∃ (pl : Nat), ∃ (w : Nat), ∃ (k : Nat), ∃ (first : Nat), ∃ (tx : Nat), s.ev.die = d ∧ s.ev.peer = p ∧ s.stream d p = x ∧ s.ev.n = f ∧ f / 2 ^ 32 = pl ∧ pl < 2 ^ 256 ∧ w = pl / 2 ^ 64 % 2 ^ 64 ∧ natMem s.linked p = true ∧ flitChecks f = true ∧ f % 2 ^ 16 = 0 ∧ bitsOf pl 63 60 = 6 ∧ bitsOf w 1 0 = d ∧ controlTx s d p = some tx ∧ first = ((x.unacked.head?).map (·.1)).getD x.nextSeq ∧ k = (bitsOf w 31 16 + 2 ^ 16 - first) % 2 ^ 16 ∧ k ≤ x.unacked.length) ∧
    (∃ (s : State), ∃ (d : Nat), ∃ (p : Nat), ∃ (x : Stream), ∃ (f : Nat), ∃ (pl : Nat), ∃ (w : Nat), ∃ (k : Nat), ∃ (first : Nat), ∃ (tx : Nat), s.ev.die = d ∧ s.ev.peer = p ∧ s.stream d p = x ∧ s.ev.n = f ∧ f / 2 ^ 32 = pl ∧ pl < 2 ^ 256 ∧ w = pl / 2 ^ 64 % 2 ^ 64 ∧ natMem s.linked p = true ∧ flitChecks f = true ∧ f % 2 ^ 16 = 0 ∧ bitsOf pl 63 60 = 6 ∧ bitsOf w 1 0 = d ∧ controlTx s d p = some tx ∧ first = ((x.unacked.head?).map (·.1)).getD x.nextSeq ∧ k = (bitsOf w 31 16 + 2 ^ 16 - first) % 2 ^ 16 ∧ k ≤ x.unacked.length) ∧
    (∃ (s : State), ∃ (d : Nat), ∃ (p : Nat), ∃ (x : Stream), ∃ (tx : Nat), s.ev.die = d ∧ s.ev.peer = p ∧ s.stream d p = x ∧ controlTx s d p = some tx ∧ (x.unacked.map Prod.fst).Nodup) ∧
    (∃ (s : State), ∃ (d : Nat), ∃ (p : Nat), ∃ (x : Stream), ∃ (tx : Nat), ∃ (t0 : Nat), s.ev.die = d ∧ s.ev.peer = p ∧ s.stream d p = x ∧ controlTx s d p = some tx ∧ x.rxGap = some t0 ∧ t0 + 16 ≤ s.ptp ∧ x.rxHeld ≠ []) ∧
    (∃ (s : State), ∃ (d : Nat), ∃ (p : Nat), ∃ (x : Stream), ∃ (tx : Nat), s.ev.die = d ∧ s.ev.peer = p ∧ s.stream d p = x ∧ controlTx s d p = some tx ∧ x.rxNext ≠ x.rxAcked ∧ x.rxAckTime + 256 ≤ s.ptp) :=
  ⟨⟨{ Tests.st with streams := [(streamKey 0 5, { rxNext := 65535 })], ev := { die := 0, peer := 5, n := flitOf 65535 ((7 * 2 ^ 60 + 0 * 2 ^ 58 + 3 * 2 ^ 54 + 5 * 2 ^ 32) + 2 ^ 64 * 0x1234 + 2 ^ 128 * 0x56 + 2 ^ 192 * 9) }, cfg := { routes := (List.range 12).map fun i => (i, 5) }, linked := [5], receivers := [(0, [0])] }, 0, 5, (({ Tests.st with streams := [(streamKey 0 5, { rxNext := 65535 })], ev := { die := 0, peer := 5, n := flitOf 65535 ((7 * 2 ^ 60 + 0 * 2 ^ 58 + 3 * 2 ^ 54 + 5 * 2 ^ 32) + 2 ^ 64 * 0x1234 + 2 ^ 128 * 0x56 + 2 ^ 192 * 9) }, cfg := { routes := (List.range 12).map fun i => (i, 5) }, linked := [5], receivers := [(0, [0])] } : State)).stream 0 5, flitOf 65535 ((7 * 2 ^ 60 + 0 * 2 ^ 58 + 3 * 2 ^ 54 + 5 * 2 ^ 32) + 2 ^ 64 * 0x1234 + 2 ^ 128 * 0x56 + 2 ^ 192 * 9), (flitOf 65535 ((7 * 2 ^ 60 + 0 * 2 ^ 58 + 3 * 2 ^ 54 + 5 * 2 ^ 32) + 2 ^ 64 * 0x1234 + 2 ^ 128 * 0x56 + 2 ^ 192 * 9)) / 2 ^ 32, 7, by decide +kernel⟩,
    ⟨{ Tests.st with streams := [(streamKey 0 5, { rxNext := 65535 })], ev := { die := 0, peer := 5, n := flitOf 65535 ((15 * 2 ^ 60 + 0 * 2 ^ 58 + 3 * 2 ^ 54 + 5 * 2 ^ 32) + 2 ^ 64 * 0x1234 + 2 ^ 128 * 0x56 + 2 ^ 192 * 9) }, cfg := { routes := (List.range 12).map fun i => (i, 5) }, linked := [5], receivers := [(0, [0])] }, 0, 5, (({ Tests.st with streams := [(streamKey 0 5, { rxNext := 65535 })], ev := { die := 0, peer := 5, n := flitOf 65535 ((15 * 2 ^ 60 + 0 * 2 ^ 58 + 3 * 2 ^ 54 + 5 * 2 ^ 32) + 2 ^ 64 * 0x1234 + 2 ^ 128 * 0x56 + 2 ^ 192 * 9) }, cfg := { routes := (List.range 12).map fun i => (i, 5) }, linked := [5], receivers := [(0, [0])] } : State)).stream 0 5, flitOf 65535 ((15 * 2 ^ 60 + 0 * 2 ^ 58 + 3 * 2 ^ 54 + 5 * 2 ^ 32) + 2 ^ 64 * 0x1234 + 2 ^ 128 * 0x56 + 2 ^ 192 * 9), (flitOf 65535 ((15 * 2 ^ 60 + 0 * 2 ^ 58 + 3 * 2 ^ 54 + 5 * 2 ^ 32) + 2 ^ 64 * 0x1234 + 2 ^ 128 * 0x56 + 2 ^ 192 * 9)) / 2 ^ 32, 15, by decide +kernel⟩,
    ⟨{ Tests.st with streams := [(streamKey 0 5, { rxNext := 65535 })], ev := { die := 0, peer := 5, n := flitOf 3 (77) }, cfg := { routes := (List.range 12).map fun i => (i, 5) }, linked := [5], receivers := [(0, [0])] }, 0, 5, (({ Tests.st with streams := [(streamKey 0 5, { rxNext := 65535 })], ev := { die := 0, peer := 5, n := flitOf 3 (77) }, cfg := { routes := (List.range 12).map fun i => (i, 5) }, linked := [5], receivers := [(0, [0])] } : State)).stream 0 5, flitOf 3 (77), (flitOf 3 (77)) / 2 ^ 32, by decide +kernel⟩,
    ⟨{ Tests.st with streams := [(streamKey 0 5, { unacked := [(65535, 11, 3, 0), (0, 12, 4, 1), (1, 13, 5, 0)], nextSeq := 2 })], ev := { die := 0, peer := 5, n := controlFlit 0 0 (none) }, ptp17 := 850 }, 0, 5, (({ Tests.st with streams := [(streamKey 0 5, { unacked := [(65535, 11, 3, 0), (0, 12, 4, 1), (1, 13, 5, 0)], nextSeq := 2 })], ev := { die := 0, peer := 5, n := controlFlit 0 0 (none) }, ptp17 := 850 } : State)).stream 0 5, controlFlit 0 0 (none), (controlFlit 0 0 (none)) / 2 ^ 32, ((controlFlit 0 0 (none)) / 2 ^ 32) / 2 ^ 64 % 2 ^ 64, (.inl (by decide +kernel)), by decide +kernel⟩,
    ⟨{ Tests.st with streams := [(streamKey 0 5, { unacked := [(65535, 11, 3, 0), (0, 12, 4, 1), (1, 13, 5, 0)], nextSeq := 2 })], ev := { die := 0, peer := 5, n := controlFlit 0 0 (none) + 2 ^ 16 }, cfg := { routes := (List.range 12).map fun i => (i, 5) }, linked := [5], baseTx := [(5, 0)], ptp17 := 850 }, 0, 5, (({ Tests.st with streams := [(streamKey 0 5, { unacked := [(65535, 11, 3, 0), (0, 12, 4, 1), (1, 13, 5, 0)], nextSeq := 2 })], ev := { die := 0, peer := 5, n := controlFlit 0 0 (none) + 2 ^ 16 }, cfg := { routes := (List.range 12).map fun i => (i, 5) }, linked := [5], baseTx := [(5, 0)], ptp17 := 850 } : State)).stream 0 5, controlFlit 0 0 (none) + 2 ^ 16, (controlFlit 0 0 (none) + 2 ^ 16) / 2 ^ 32, ((controlFlit 0 0 (none) + 2 ^ 16) / 2 ^ 32) / 2 ^ 64 % 2 ^ 64, (.inr (.inl (by decide +kernel))), by decide +kernel⟩,
    ⟨{ Tests.st with streams := [(streamKey 0 5, { unacked := [(65535, 11, 3, 0), (0, 12, 4, 1), (1, 13, 5, 0)], nextSeq := 2 })], ev := { die := 0, peer := 5, n := flitOf 9 (77) }, cfg := { routes := (List.range 12).map fun i => (i, 5) }, linked := [5], baseTx := [(5, 0)], ptp17 := 850 }, 0, 5, (({ Tests.st with streams := [(streamKey 0 5, { unacked := [(65535, 11, 3, 0), (0, 12, 4, 1), (1, 13, 5, 0)], nextSeq := 2 })], ev := { die := 0, peer := 5, n := flitOf 9 (77) }, cfg := { routes := (List.range 12).map fun i => (i, 5) }, linked := [5], baseTx := [(5, 0)], ptp17 := 850 } : State)).stream 0 5, flitOf 9 (77), (flitOf 9 (77)) / 2 ^ 32, ((flitOf 9 (77)) / 2 ^ 32) / 2 ^ 64 % 2 ^ 64, (.inr (.inr (.inl (by decide +kernel)))), by decide +kernel⟩,
    ⟨{ Tests.st with streams := [(streamKey 0 5, { unacked := [(65535, 11, 3, 0), (0, 12, 4, 1), (1, 13, 5, 0)], nextSeq := 2 })], ev := { die := 0, peer := 5, n := flitOf 0 (77) }, cfg := { routes := (List.range 12).map fun i => (i, 5) }, linked := [5], baseTx := [(5, 0)], ptp17 := 850 }, 0, 5, (({ Tests.st with streams := [(streamKey 0 5, { unacked := [(65535, 11, 3, 0), (0, 12, 4, 1), (1, 13, 5, 0)], nextSeq := 2 })], ev := { die := 0, peer := 5, n := flitOf 0 (77) }, cfg := { routes := (List.range 12).map fun i => (i, 5) }, linked := [5], baseTx := [(5, 0)], ptp17 := 850 } : State)).stream 0 5, flitOf 0 (77), (flitOf 0 (77)) / 2 ^ 32, ((flitOf 0 (77)) / 2 ^ 32) / 2 ^ 64 % 2 ^ 64, (.inr (.inr (.inr (by decide +kernel)))), by decide +kernel⟩,
    ⟨{ Tests.st with streams := [(streamKey 0 5, { unacked := [(65535, 11, 3, 0), (0, 12, 4, 1), (1, 13, 5, 0)], nextSeq := 2 })], ev := { die := 0, peer := 5, n := controlFlit 0 0 (none) }, cfg := { routes := (List.range 12).map fun i => (i, 5) }, linked := [5], baseTx := [(5, 0)], ptp17 := 850 }, 0, 5, (({ Tests.st with streams := [(streamKey 0 5, { unacked := [(65535, 11, 3, 0), (0, 12, 4, 1), (1, 13, 5, 0)], nextSeq := 2 })], ev := { die := 0, peer := 5, n := controlFlit 0 0 (none) }, cfg := { routes := (List.range 12).map fun i => (i, 5) }, linked := [5], baseTx := [(5, 0)], ptp17 := 850 } : State)).stream 0 5, controlFlit 0 0 (none), (controlFlit 0 0 (none)) / 2 ^ 32, ((controlFlit 0 0 (none)) / 2 ^ 32) / 2 ^ 64 % 2 ^ 64, (bitsOf (((controlFlit 0 0 (none)) / 2 ^ 32) / 2 ^ 64 % 2 ^ 64) 31 16 + 2 ^ 16 - (65535)) % 2 ^ 16, 65535, 0, by decide +kernel⟩,
    ⟨{ Tests.st with streams := [(streamKey 0 5, { unacked := [(65535, 11, 3, 0), (0, 12, 4, 1), (1, 13, 5, 0)], nextSeq := 2 })], ev := { die := 0, peer := 5, n := controlFlit 0 0 (some 0) }, cfg := { routes := (List.range 12).map fun i => (i, 5) }, linked := [5], baseTx := [(5, 0)], ptp17 := 850 }, 0, 5, (({ Tests.st with streams := [(streamKey 0 5, { unacked := [(65535, 11, 3, 0), (0, 12, 4, 1), (1, 13, 5, 0)], nextSeq := 2 })], ev := { die := 0, peer := 5, n := controlFlit 0 0 (some 0) }, cfg := { routes := (List.range 12).map fun i => (i, 5) }, linked := [5], baseTx := [(5, 0)], ptp17 := 850 } : State)).stream 0 5, controlFlit 0 0 (some 0), (controlFlit 0 0 (some 0)) / 2 ^ 32, ((controlFlit 0 0 (some 0)) / 2 ^ 32) / 2 ^ 64 % 2 ^ 64, (bitsOf (((controlFlit 0 0 (some 0)) / 2 ^ 32) / 2 ^ 64 % 2 ^ 64) 31 16 + 2 ^ 16 - (65535)) % 2 ^ 16, 65535, 0, by decide +kernel⟩,
    ⟨{ Tests.st with streams := [(streamKey 0 5, { unacked := [(65535, 11, 3, 0), (0, 12, 4, 1), (1, 13, 5, 0)], nextSeq := 2 })], ev := { die := 0, peer := 5, n := flitOf 0 ((controlFlit 0 0 none) / 2 ^ 32 + 2 ^ 128 * 77) }, cfg := { routes := (List.range 12).map fun i => (i, 5) }, linked := [5], baseTx := [(5, 0)], ptp17 := 850 }, 0, 5, (({ Tests.st with streams := [(streamKey 0 5, { unacked := [(65535, 11, 3, 0), (0, 12, 4, 1), (1, 13, 5, 0)], nextSeq := 2 })], ev := { die := 0, peer := 5, n := flitOf 0 ((controlFlit 0 0 none) / 2 ^ 32 + 2 ^ 128 * 77) }, cfg := { routes := (List.range 12).map fun i => (i, 5) }, linked := [5], baseTx := [(5, 0)], ptp17 := 850 } : State)).stream 0 5, flitOf 0 ((controlFlit 0 0 none) / 2 ^ 32 + 2 ^ 128 * 77), (flitOf 0 ((controlFlit 0 0 none) / 2 ^ 32 + 2 ^ 128 * 77)) / 2 ^ 32, ((flitOf 0 ((controlFlit 0 0 none) / 2 ^ 32 + 2 ^ 128 * 77)) / 2 ^ 32) / 2 ^ 64 % 2 ^ 64, (bitsOf (((flitOf 0 ((controlFlit 0 0 none) / 2 ^ 32 + 2 ^ 128 * 77)) / 2 ^ 32) / 2 ^ 64 % 2 ^ 64) 31 16 + 2 ^ 16 - (65535)) % 2 ^ 16, 65535, 0, by decide +kernel⟩,
    ⟨{ Tests.st with streams := [(streamKey 0 5, { unacked := [(65535, 11, 3, 0), (0, 12, 4, 1), (1, 13, 5, 0)], nextSeq := 2 })], ev := { die := 0, peer := 5, n := flitOf 0 ((controlFlit 0 0 none) / 2 ^ 32 + 2 ^ 128 * 77) }, linked := [5], baseTx := [(5, 0)], ptp17 := 850, cfg := { routes := [(0, 5)], timeFromPeer := some 5 } }, 0, 5, (({ Tests.st with streams := [(streamKey 0 5, { unacked := [(65535, 11, 3, 0), (0, 12, 4, 1), (1, 13, 5, 0)], nextSeq := 2 })], ev := { die := 0, peer := 5, n := flitOf 0 ((controlFlit 0 0 none) / 2 ^ 32 + 2 ^ 128 * 77) }, linked := [5], baseTx := [(5, 0)], ptp17 := 850, cfg := { routes := [(0, 5)], timeFromPeer := some 5 } } : State)).stream 0 5, flitOf 0 ((controlFlit 0 0 none) / 2 ^ 32 + 2 ^ 128 * 77), (flitOf 0 ((controlFlit 0 0 none) / 2 ^ 32 + 2 ^ 128 * 77)) / 2 ^ 32, ((flitOf 0 ((controlFlit 0 0 none) / 2 ^ 32 + 2 ^ 128 * 77)) / 2 ^ 32) / 2 ^ 64 % 2 ^ 64, (bitsOf (((flitOf 0 ((controlFlit 0 0 none) / 2 ^ 32 + 2 ^ 128 * 77)) / 2 ^ 32) / 2 ^ 64 % 2 ^ 64) 31 16 + 2 ^ 16 - (65535)) % 2 ^ 16, 65535, 0, by decide +kernel⟩,
    ⟨{ Tests.st with streams := [(streamKey 0 5, { unacked := [(65535, 11, 3, 0), (0, 12, 4, 1), (1, 13, 5, 0)], nextSeq := 2 })], ev := { die := 0, peer := 5 }, cfg := { routes := (List.range 12).map fun i => (i, 5) }, linked := [5], baseTx := [(5, 0)], ptp17 := 34085 }, 0, 5, (({ Tests.st with streams := [(streamKey 0 5, { unacked := [(65535, 11, 3, 0), (0, 12, 4, 1), (1, 13, 5, 0)], nextSeq := 2 })], ev := { die := 0, peer := 5 }, cfg := { routes := (List.range 12).map fun i => (i, 5) }, linked := [5], baseTx := [(5, 0)], ptp17 := 34085 } : State)).stream 0 5, 0, by decide +kernel⟩,
    ⟨{ Tests.st with streams := [(streamKey 0 5, { rxGap := some 9, rxHeld := [(3, 77, 0)] })], ev := { die := 0, peer := 5 }, cfg := { routes := (List.range 12).map fun i => (i, 5) }, linked := [5], baseTx := [(5, 0)], ptp17 := 425 }, 0, 5, (({ Tests.st with streams := [(streamKey 0 5, { rxGap := some 9, rxHeld := [(3, 77, 0)] })], ev := { die := 0, peer := 5 }, cfg := { routes := (List.range 12).map fun i => (i, 5) }, linked := [5], baseTx := [(5, 0)], ptp17 := 425 } : State)).stream 0 5, 0, 9, by decide +kernel⟩,
    ⟨{ Tests.st with streams := [(streamKey 0 5, { rxNext := 4, rxAcked := 3, rxAckTime := 9 })], ev := { die := 0, peer := 5 }, cfg := { routes := (List.range 12).map fun i => (i, 5) }, linked := [5], baseTx := [(5, 0)], ptp17 := 4505 }, 0, 5, (({ Tests.st with streams := [(streamKey 0 5, { rxNext := 4, rxAcked := 3, rxAckTime := 9 })], ev := { die := 0, peer := 5 }, cfg := { routes := (List.range 12).map fun i => (i, 5) }, linked := [5], baseTx := [(5, 0)], ptp17 := 4505 } : State)).stream 0 5, 0, by decide +kernel⟩⟩

/-- Hypotheses of `Obligations.LinkEvents`, its part EventStream are met. -/
theorem witness_LinkEvents_EventStream_3 :
    (∃ (s : State), ∃ (d : Nat), ∃ (p : Nat), ∃ (x : Stream), s.ev.die = d ∧ s.ev.peer = p ∧ s.stream d p = x ∧ x.rxGap = none) ∧
    (∃ (s : State), ∃ (d : Nat), ∃ (p : Nat), ∃ (x : Stream), ∃ (t0 : Nat), (s.ptp < t0 + 16 ∨ x.rxHeld = []) ∧ s.ev.die = d ∧ s.ev.peer = p ∧ s.stream d p = x ∧ x.rxGap = some t0) ∧
    (∃ (s : State), ∃ (d : Nat), ∃ (p : Nat), ∃ (x : Stream), ∃ (t0 : Nat), (s.ptp < t0 + 16 ∨ x.rxHeld = []) ∧ s.ev.die = d ∧ s.ev.peer = p ∧ s.stream d p = x ∧ x.rxGap = some t0) ∧
    (∃ (s : State), ∃ (d : Nat), ∃ (p : Nat), ∃ (x : Stream), (x.rxNext = x.rxAcked ∨ s.ptp < x.rxAckTime + 256) ∧ s.ev.die = d ∧ s.ev.peer = p ∧ s.stream d p = x) ∧
    (∃ (s : State), ∃ (d : Nat), ∃ (p : Nat), ∃ (x : Stream), (x.rxNext = x.rxAcked ∨ s.ptp < x.rxAckTime + 256) ∧ s.ev.die = d ∧ s.ev.peer = p ∧ s.stream d p = x) :=
  ⟨⟨{ Tests.st with streams := [(streamKey 0 5, { rxGap := none })], ev := { die := 0, peer := 5 }, cfg := { routes := (List.range 12).map fun i => (i, 5) }, linked := [5] }, 0, 5, (({ Tests.st with streams := [(streamKey 0 5, { rxGap := none })], ev := { die := 0, peer := 5 }, cfg := { routes := (List.range 12).map fun i => (i, 5) }, linked := [5] } : State)).stream 0 5, by decide +kernel⟩,
    ⟨{ Tests.st with streams := [(streamKey 0 5, { rxGap := some 9, rxHeld := [(3, 77, 0)] })], ev := { die := 0, peer := 5 }, ptp17 := 408 }, 0, 5, (({ Tests.st with streams := [(streamKey 0 5, { rxGap := some 9, rxHeld := [(3, 77, 0)] })], ev := { die := 0, peer := 5 }, ptp17 := 408 } : State)).stream 0 5, 9, (.inl (by decide +kernel)), by decide +kernel⟩,
    ⟨{ Tests.st with streams := [(streamKey 0 5, { rxGap := some 9 })], ev := { die := 0, peer := 5 }, ptp17 := 425 }, 0, 5, (({ Tests.st with streams := [(streamKey 0 5, { rxGap := some 9 })], ev := { die := 0, peer := 5 }, ptp17 := 425 } : State)).stream 0 5, 9, (.inr (by decide +kernel)), by decide +kernel⟩,
    ⟨{ Tests.st with streams := [(streamKey 0 5, { rxNext := 3, rxAcked := 3 })], ev := { die := 0, peer := 5 }, ptp17 := 15300 }, 0, 5, (({ Tests.st with streams := [(streamKey 0 5, { rxNext := 3, rxAcked := 3 })], ev := { die := 0, peer := 5 }, ptp17 := 15300 } : State)).stream 0 5, (.inl (by decide +kernel)), by decide +kernel⟩,
    ⟨{ Tests.st with streams := [(streamKey 0 5, { rxNext := 4, rxAcked := 3, rxAckTime := 9 })], ev := { die := 0, peer := 5 }, ptp17 := 4488 }, 0, 5, (({ Tests.st with streams := [(streamKey 0 5, { rxNext := 4, rxAcked := 3, rxAckTime := 9 })], ev := { die := 0, peer := 5 }, ptp17 := 4488 } : State)).stream 0 5, (.inr (by decide +kernel)), by decide +kernel⟩⟩

/-- Hypotheses of `Obligations.LinkEvents`, its part EventPeers are met. -/
theorem witness_LinkEvents_EventPeers :
    (∃ (s : State), ∃ (p : Nat), ∃ (i : Instr), ∃ (kd : Nat), (i = .peerRead ∧ kd = 2 ∨ i = .peerWrite ∧ kd = 3 ∨ i = .peerAtomic ∧ kd = 4 ∨ i = .peerResponse ∧ kd = 5) ∧ s.ev.peer = p ∧ (s.stream s.ev.die p).rxPackets.find? (·.kind == kd) = none) ∧
    (∃ (s : State), ∃ (p : Nat), ∃ (l : Nat), ∃ (tr : Nat), ∃ (st : Nat), ∃ (die : Nat), ∃ (key : Nat), ∃ (old : List Packet), s.ev.peer = p ∧ l < 2 ^ 8 ∧ tr < 2 ^ 16 ∧ st < 2 ^ 8 ∧ die = s.sendDie l p ∧ key = s.queueKey l p ∧ old = ((tget (s.stream die p).queues key).getD ([], 0)).1) ∧
    (∃ (s : State), ∃ (p : Nat), ∃ (l : Nat), ∃ (tr : Nat), ∃ (st : Nat), ∃ (die : Nat), ∃ (key : Nat), ∃ (old : List Packet), s.ev.peer = p ∧ l < 2 ^ 8 ∧ tr < 2 ^ 16 ∧ st < 2 ^ 8 ∧ die = s.sendDie l p ∧ key = s.queueKey l p ∧ old = ((tget (s.stream die p).queues key).getD ([], 0)).1) ∧
    (∃ (s : State), ∃ (p : Nat), ∃ (q : Packet), ∃ (u : State), ∃ (i : Instr), ∃ (kd : Nat), ∃ (a : Nat), ∃ (n : Nat), (∀ h, q.hearth? = some h → awake (rouse s h) h = true) ∧ u = (s.woken q).modStream s.ev.die p (fun y => { y with rxPackets := y.rxPackets.erase q }) ∧ (i = .peerRead ∧ kd = 2 ∨ i = .peerWrite ∧ kd = 3 ∨ i = .peerAtomic ∧ kd = 4) ∧ s.ev.peer = p ∧ (s.stream s.ev.die p).rxPackets.find? (·.kind == kd) = some q ∧ a = (q.words.getD 0 0).toNat ∧ n = 2 ^ q.size ∧ 3 < q.size) ∧
    (∃ (s : State), ∃ (p : Nat), ∃ (q : Packet), ∃ (u : State), ∃ (i : Instr), ∃ (kd : Nat), ∃ (a : Nat), ∃ (n : Nat), (∀ h, q.hearth? = some h → awake (rouse s h) h = true) ∧ u = (s.woken q).modStream s.ev.die p (fun y => { y with rxPackets := y.rxPackets.erase q }) ∧ (i = .peerRead ∧ kd = 2 ∨ i = .peerWrite ∧ kd = 3 ∨ i = .peerAtomic ∧ kd = 4) ∧ s.ev.peer = p ∧ (s.stream s.ev.die p).rxPackets.find? (·.kind == kd) = some q ∧ a = (q.words.getD 0 0).toNat ∧ n = 2 ^ q.size ∧ 3 < q.size) ∧
    (∃ (s : State), ∃ (p : Nat), ∃ (q : Packet), ∃ (u : State), ∃ (i : Instr), ∃ (kd : Nat), ∃ (a : Nat), ∃ (n : Nat), (∀ h, q.hearth? = some h → awake (rouse s h) h = true) ∧ u = (s.woken q).modStream s.ev.die p (fun y => { y with rxPackets := y.rxPackets.erase q }) ∧ (i = .peerRead ∧ kd = 2 ∨ i = .peerWrite ∧ kd = 3 ∨ i = .peerAtomic ∧ kd = 4) ∧ s.ev.peer = p ∧ (s.stream s.ev.die p).rxPackets.find? (·.kind == kd) = some q ∧ a = (q.words.getD 0 0).toNat ∧ n = 2 ^ q.size ∧ 3 < q.size) ∧
    (∃ (s : State), ∃ (p : Nat), ∃ (q : Packet), ∃ (i : Instr), ∃ (kd : Nat), ∃ (h : Nat), (i = .peerRead ∧ kd = 2 ∨ i = .peerWrite ∧ kd = 3 ∨ i = .peerAtomic ∧ kd = 4) ∧ s.ev.peer = p ∧ (s.stream s.ev.die p).rxPackets.find? (·.kind == kd) = some q ∧ q.hearth? = some h ∧ awake (rouse s h) h = false) ∧
    (∃ (s : State), ∃ (p : Nat), ∃ (q : Packet), ∃ (i : Instr), ∃ (kd : Nat), ∃ (h : Nat), (i = .peerRead ∧ kd = 2 ∨ i = .peerWrite ∧ kd = 3 ∨ i = .peerAtomic ∧ kd = 4) ∧ s.ev.peer = p ∧ (s.stream s.ev.die p).rxPackets.find? (·.kind == kd) = some q ∧ q.hearth? = some h ∧ awake (rouse s h) h = false) ∧
    (∃ (s : State), ∃ (p : Nat), ∃ (q : Packet), ∃ (i : Instr), ∃ (kd : Nat), ∃ (h : Nat), (i = .peerRead ∧ kd = 2 ∨ i = .peerWrite ∧ kd = 3 ∨ i = .peerAtomic ∧ kd = 4) ∧ s.ev.peer = p ∧ (s.stream s.ev.die p).rxPackets.find? (·.kind == kd) = some q ∧ q.hearth? = some h ∧ awake (rouse s h) h = false) ∧
    (∃ (s : State), ∃ (p : Nat), ∃ (q : Packet), ∃ (u : State), ∃ (i : Instr), ∃ (kd : Nat), ∃ (a : Nat), ∃ (n : Nat), ∃ (h : Nat), ∃ (unit : Nat), ∃ (off : Nat), ∃ (why : Nat), (∀ h, q.hearth? = some h → awake (rouse s h) h = true) ∧ u = (s.woken q).modStream s.ev.die p (fun y => { y with rxPackets := y.rxPackets.erase q }) ∧ (i = .peerRead ∧ kd = 2 ∨ i = .peerWrite ∧ kd = 3 ∨ i = .peerAtomic ∧ kd = 4) ∧ s.ev.peer = p ∧ (s.stream s.ev.die p).rxPackets.find? (·.kind == kd) = some q ∧ a = (q.words.getD 0 0).toNat ∧ n = 2 ^ q.size ∧ q.size ≤ 3 ∧ a / 2 ^ 56 = 0xFE ∧ s.thisDevice (bitsOf a 55 50) = true ∧ bitsOf a 49 40 = h ∧ bitsOf a 39 36 = unit ∧ unit ≤ 8 ∧ bitsOf a 35 32 = 0 ∧ bitsOf a 31 0 = off ∧ unitRefusal s h unit off n (fun x => x == q.launch) = some why) ∧
    (∃ (s : State), ∃ (p : Nat), ∃ (q : Packet), ∃ (u : State), ∃ (i : Instr), ∃ (kd : Nat), ∃ (a : Nat), ∃ (n : Nat), ∃ (h : Nat), ∃ (unit : Nat), ∃ (off : Nat), ∃ (why : Nat), (∀ h, q.hearth? = some h → awake (rouse s h) h = true) ∧ u = (s.woken q).modStream s.ev.die p (fun y => { y with rxPackets := y.rxPackets.erase q }) ∧ (i = .peerRead ∧ kd = 2 ∨ i = .peerWrite ∧ kd = 3 ∨ i = .peerAtomic ∧ kd = 4) ∧ s.ev.peer = p ∧ (s.stream s.ev.die p).rxPackets.find? (·.kind == kd) = some q ∧ a = (q.words.getD 0 0).toNat ∧ n = 2 ^ q.size ∧ q.size ≤ 3 ∧ a / 2 ^ 56 = 0xFE ∧ s.thisDevice (bitsOf a 55 50) = true ∧ bitsOf a 49 40 = h ∧ bitsOf a 39 36 = unit ∧ unit ≤ 8 ∧ bitsOf a 35 32 = 0 ∧ bitsOf a 31 0 = off ∧ unitRefusal s h unit off n (fun x => x == q.launch) = some why) ∧
    (∃ (s : State), ∃ (p : Nat), ∃ (q : Packet), ∃ (u : State), ∃ (i : Instr), ∃ (kd : Nat), ∃ (a : Nat), ∃ (n : Nat), ∃ (h : Nat), ∃ (unit : Nat), ∃ (off : Nat), (∀ h, q.hearth? = some h → awake (rouse s h) h = true) ∧ u = (s.woken q).modStream s.ev.die p (fun y => { y with rxPackets := y.rxPackets.erase q }) ∧ (i = .peerRead ∧ kd = 2 ∨ i = .peerWrite ∧ kd = 3 ∨ i = .peerAtomic ∧ kd = 4) ∧ s.ev.peer = p ∧ (s.stream s.ev.die p).rxPackets.find? (·.kind == kd) = some q ∧ a = (q.words.getD 0 0).toNat ∧ n = 2 ^ q.size ∧ q.size ≤ 3 ∧ a / 2 ^ 56 = 0xFE ∧ s.thisDevice (bitsOf a 55 50) = true ∧ bitsOf a 49 40 = h ∧ bitsOf a 39 36 = unit ∧ unit ≤ 8 ∧ bitsOf a 35 32 = 0 ∧ bitsOf a 31 0 = off ∧ unitRefusal s h unit off n (fun x => x == q.launch) = none ∧ let m := sramKey h unit off; s.checksHold m n = true ∧ kd = 2) ∧
    (∃ (s : State), ∃ (p : Nat), ∃ (q : Packet), ∃ (u : State), ∃ (i : Instr), ∃ (kd : Nat), ∃ (a : Nat), ∃ (n : Nat), ∃ (h : Nat), ∃ (unit : Nat), ∃ (off : Nat), (∀ h, q.hearth? = some h → awake (rouse s h) h = true) ∧ u = (s.woken q).modStream s.ev.die p (fun y => { y with rxPackets := y.rxPackets.erase q }) ∧ (i = .peerRead ∧ kd = 2 ∨ i = .peerWrite ∧ kd = 3 ∨ i = .peerAtomic ∧ kd = 4) ∧ s.ev.peer = p ∧ (s.stream s.ev.die p).rxPackets.find? (·.kind == kd) = some q ∧ a = (q.words.getD 0 0).toNat ∧ n = 2 ^ q.size ∧ q.size ≤ 3 ∧ a / 2 ^ 56 = 0xFE ∧ s.thisDevice (bitsOf a 55 50) = true ∧ bitsOf a 49 40 = h ∧ bitsOf a 39 36 = unit ∧ unit ≤ 8 ∧ bitsOf a 35 32 = 0 ∧ bitsOf a 31 0 = off ∧ unitRefusal s h unit off n (fun x => x == q.launch) = none ∧ let m := sramKey h unit off; s.checksHold m n = true ∧ kd = 2) ∧
    (∃ (s : State), ∃ (p : Nat), ∃ (q : Packet), ∃ (u : State), ∃ (i : Instr), ∃ (kd : Nat), ∃ (a : Nat), ∃ (n : Nat), ∃ (h : Nat), ∃ (unit : Nat), ∃ (off : Nat), (∀ h, q.hearth? = some h → awake (rouse s h) h = true) ∧ u = (s.woken q).modStream s.ev.die p (fun y => { y with rxPackets := y.rxPackets.erase q }) ∧ (i = .peerRead ∧ kd = 2 ∨ i = .peerWrite ∧ kd = 3 ∨ i = .peerAtomic ∧ kd = 4) ∧ s.ev.peer = p ∧ (s.stream s.ev.die p).rxPackets.find? (·.kind == kd) = some q ∧ a = (q.words.getD 0 0).toNat ∧ n = 2 ^ q.size ∧ q.size ≤ 3 ∧ a / 2 ^ 56 = 0xFE ∧ s.thisDevice (bitsOf a 55 50) = true ∧ bitsOf a 49 40 = h ∧ bitsOf a 39 36 = unit ∧ unit ≤ 8 ∧ bitsOf a 35 32 = 0 ∧ bitsOf a 31 0 = off ∧ unitRefusal s h unit off n (fun x => x == q.launch) = none ∧ let m := sramKey h unit off; s.checksHold m n = true ∧ kd = 3 ∧ Memory.wf s.mem = true) :=
  ⟨⟨{ Tests.st with streams := [(streamKey 1 5, { rxPackets := [({ header := packetHeader 9 1 false 3 5 0 0, words := [8] } : Packet)] })], cfg := { routes := (List.range 12).map fun i => (i, 5) }, linked := [5], ev := { die := 1, peer := 5 } }, 5, .peerRead, 2, (.inl ⟨rfl, rfl⟩), by decide +kernel⟩,
    ⟨{ Tests.st with streams := [(streamKey 1 5, { rxPackets := [({ header := packetHeader 9 1 false 3 5 0 0, words := [8] } : Packet)] })], cfg := { routes := (List.range 12).map fun i => (i, 5) }, linked := [5], ev := { die := 1, peer := 5 } }, 5, 0, 77, 3, (({ Tests.st with streams := [(streamKey 1 5, { rxPackets := [({ header := packetHeader 9 1 false 3 5 0 0, words := [8] } : Packet)] })], cfg := { routes := (List.range 12).map fun i => (i, 5) }, linked := [5], ev := { die := 1, peer := 5 } } : State)).sendDie 0 5, (({ Tests.st with streams := [(streamKey 1 5, { rxPackets := [({ header := packetHeader 9 1 false 3 5 0 0, words := [8] } : Packet)] })], cfg := { routes := (List.range 12).map fun i => (i, 5) }, linked := [5], ev := { die := 1, peer := 5 } } : State)).queueKey 0 5, ((tget ((({ Tests.st with streams := [(streamKey 1 5, { rxPackets := [({ header := packetHeader 9 1 false 3 5 0 0, words := [8] } : Packet)] })], cfg := { routes := (List.range 12).map fun i => (i, 5) }, linked := [5], ev := { die := 1, peer := 5 } } : State)).stream ((({ Tests.st with streams := [(streamKey 1 5, { rxPackets := [({ header := packetHeader 9 1 false 3 5 0 0, words := [8] } : Packet)] })], cfg := { routes := (List.range 12).map fun i => (i, 5) }, linked := [5], ev := { die := 1, peer := 5 } } : State)).sendDie 0 5) 5).queues ((({ Tests.st with streams := [(streamKey 1 5, { rxPackets := [({ header := packetHeader 9 1 false 3 5 0 0, words := [8] } : Packet)] })], cfg := { routes := (List.range 12).map fun i => (i, 5) }, linked := [5], ev := { die := 1, peer := 5 } } : State)).queueKey 0 5)).getD ([], 0)).1, by decide +kernel⟩,
    ⟨{ Tests.la Tests.st fun l => { l with leases := [(5, { die := 2, created := 0, txs := [(0, .active, 0)] })] } with streams := [(streamKey 1 5, { rxPackets := [({ header := packetHeader 9 1 false 3 5 0 0, words := [8] } : Packet)] })], cfg := { routes := (List.range 12).map fun i => (i, 5) }, linked := [5], ev := { die := 1, peer := 5 } }, 5, 0, 77, 3, (({ Tests.la Tests.st fun l => { l with leases := [(5, { die := 2, created := 0, txs := [(0, .active, 0)] })] } with streams := [(streamKey 1 5, { rxPackets := [({ header := packetHeader 9 1 false 3 5 0 0, words := [8] } : Packet)] })], cfg := { routes := (List.range 12).map fun i => (i, 5) }, linked := [5], ev := { die := 1, peer := 5 } } : State)).sendDie 0 5, (({ Tests.la Tests.st fun l => { l with leases := [(5, { die := 2, created := 0, txs := [(0, .active, 0)] })] } with streams := [(streamKey 1 5, { rxPackets := [({ header := packetHeader 9 1 false 3 5 0 0, words := [8] } : Packet)] })], cfg := { routes := (List.range 12).map fun i => (i, 5) }, linked := [5], ev := { die := 1, peer := 5 } } : State)).queueKey 0 5, ((tget ((({ Tests.la Tests.st fun l => { l with leases := [(5, { die := 2, created := 0, txs := [(0, .active, 0)] })] } with streams := [(streamKey 1 5, { rxPackets := [({ header := packetHeader 9 1 false 3 5 0 0, words := [8] } : Packet)] })], cfg := { routes := (List.range 12).map fun i => (i, 5) }, linked := [5], ev := { die := 1, peer := 5 } } : State)).stream ((({ Tests.la Tests.st fun l => { l with leases := [(5, { die := 2, created := 0, txs := [(0, .active, 0)] })] } with streams := [(streamKey 1 5, { rxPackets := [({ header := packetHeader 9 1 false 3 5 0 0, words := [8] } : Packet)] })], cfg := { routes := (List.range 12).map fun i => (i, 5) }, linked := [5], ev := { die := 1, peer := 5 } } : State)).sendDie 0 5) 5).queues ((({ Tests.la Tests.st fun l => { l with leases := [(5, { die := 2, created := 0, txs := [(0, .active, 0)] })] } with streams := [(streamKey 1 5, { rxPackets := [({ header := packetHeader 9 1 false 3 5 0 0, words := [8] } : Packet)] })], cfg := { routes := (List.range 12).map fun i => (i, 5) }, linked := [5], ev := { die := 1, peer := 5 } } : State)).queueKey 0 5)).getD ([], 0)).1, by decide +kernel⟩,
    ⟨{ Tests.st with streams := [(streamKey 1 5, { rxPackets := [({ header := packetHeader 2 1 false 4 5 0 0, words := [0x10100] } : Packet)] })], cfg := { routes := (List.range 12).map fun i => (i, 5) }, linked := [5], ev := { die := 1, peer := 5 } }, 5, ({ header := packetHeader 2 1 false 4 5 0 0, words := [0x10100] } : Packet), ((({ Tests.st with streams := [(streamKey 1 5, { rxPackets := [({ header := packetHeader 2 1 false 4 5 0 0, words := [0x10100] } : Packet)] })], cfg := { routes := (List.range 12).map fun i => (i, 5) }, linked := [5], ev := { die := 1, peer := 5 } } : State)).woken (({ header := packetHeader 2 1 false 4 5 0 0, words := [0x10100] } : Packet))).modStream 1 5 (fun y => { y with rxPackets := y.rxPackets.erase (({ header := packetHeader 2 1 false 4 5 0 0, words := [0x10100] } : Packet)) }), .peerRead, 2, (((({ header := packetHeader 2 1 false 4 5 0 0, words := [0x10100] } : Packet))).words.getD 0 0).toNat, 2 ^ ((({ header := packetHeader 2 1 false 4 5 0 0, words := [0x10100] } : Packet))).size, (Tests.ofAll (fun h => awake (rouse ({ Tests.st with streams := [(streamKey 1 5, { rxPackets := [({ header := packetHeader 2 1 false 4 5 0 0, words := [0x10100] } : Packet)] })], cfg := { routes := (List.range 12).map fun i => (i, 5) }, linked := [5], ev := { die := 1, peer := 5 } } : State) h) h) _ (by decide +kernel)), (rfl), (.inl ⟨rfl, rfl⟩), by decide +kernel⟩,
    ⟨{ Tests.st with streams := [(streamKey 1 5, { rxPackets := [({ header := packetHeader 3 1 false 4 5 0 0, words := [0x10100] } : Packet)] })], cfg := { routes := (List.range 12).map fun i => (i, 5) }, linked := [5], ev := { die := 1, peer := 5 } }, 5, ({ header := packetHeader 3 1 false 4 5 0 0, words := [0x10100] } : Packet), ((({ Tests.st with streams := [(streamKey 1 5, { rxPackets := [({ header := packetHeader 3 1 false 4 5 0 0, words := [0x10100] } : Packet)] })], cfg := { routes := (List.range 12).map fun i => (i, 5) }, linked := [5], ev := { die := 1, peer := 5 } } : State)).woken (({ header := packetHeader 3 1 false 4 5 0 0, words := [0x10100] } : Packet))).modStream 1 5 (fun y => { y with rxPackets := y.rxPackets.erase (({ header := packetHeader 3 1 false 4 5 0 0, words := [0x10100] } : Packet)) }), .peerWrite, 3, (((({ header := packetHeader 3 1 false 4 5 0 0, words := [0x10100] } : Packet))).words.getD 0 0).toNat, 2 ^ ((({ header := packetHeader 3 1 false 4 5 0 0, words := [0x10100] } : Packet))).size, (Tests.ofAll (fun h => awake (rouse ({ Tests.st with streams := [(streamKey 1 5, { rxPackets := [({ header := packetHeader 3 1 false 4 5 0 0, words := [0x10100] } : Packet)] })], cfg := { routes := (List.range 12).map fun i => (i, 5) }, linked := [5], ev := { die := 1, peer := 5 } } : State) h) h) _ (by decide +kernel)), (rfl), (.inr (.inl ⟨rfl, rfl⟩)), by decide +kernel⟩,
    ⟨{ Tests.st with streams := [(streamKey 1 5, { rxPackets := [({ header := packetHeader 4 1 false 4 5 0 0, words := [0x10100] } : Packet)] })], cfg := { routes := (List.range 12).map fun i => (i, 5) }, linked := [5], ev := { die := 1, peer := 5 } }, 5, ({ header := packetHeader 4 1 false 4 5 0 0, words := [0x10100] } : Packet), ((({ Tests.st with streams := [(streamKey 1 5, { rxPackets := [({ header := packetHeader 4 1 false 4 5 0 0, words := [0x10100] } : Packet)] })], cfg := { routes := (List.range 12).map fun i => (i, 5) }, linked := [5], ev := { die := 1, peer := 5 } } : State)).woken (({ header := packetHeader 4 1 false 4 5 0 0, words := [0x10100] } : Packet))).modStream 1 5 (fun y => { y with rxPackets := y.rxPackets.erase (({ header := packetHeader 4 1 false 4 5 0 0, words := [0x10100] } : Packet)) }), .peerAtomic, 4, (((({ header := packetHeader 4 1 false 4 5 0 0, words := [0x10100] } : Packet))).words.getD 0 0).toNat, 2 ^ ((({ header := packetHeader 4 1 false 4 5 0 0, words := [0x10100] } : Packet))).size, (Tests.ofAll (fun h => awake (rouse ({ Tests.st with streams := [(streamKey 1 5, { rxPackets := [({ header := packetHeader 4 1 false 4 5 0 0, words := [0x10100] } : Packet)] })], cfg := { routes := (List.range 12).map fun i => (i, 5) }, linked := [5], ev := { die := 1, peer := 5 } } : State) h) h) _ (by decide +kernel)), (rfl), (.inr (.inr ⟨rfl, rfl⟩)), by decide +kernel⟩,
    ⟨{ (Tests.home Tests.st).modHearth 0 fun h => { h with powerGated := true } with streams := [(streamKey 1 5, { rxPackets := [({ header := packetHeader 2 1 false 3 5 0 0, words := [0xFE00000000000100] } : Packet)] })], cfg := { routes := (List.range 12).map fun i => (i, 5) }, linked := [5], ev := { die := 1, peer := 5 } }, 5, ({ header := packetHeader 2 1 false 3 5 0 0, words := [0xFE00000000000100] } : Packet), .peerRead, 2, 0, (.inl ⟨rfl, rfl⟩), by decide +kernel⟩,
    ⟨{ (Tests.home Tests.st).modHearth 0 fun h => { h with powerGated := true } with streams := [(streamKey 1 5, { rxPackets := [({ header := packetHeader 3 1 false 3 5 0 0, words := [0xFE00000000000100] } : Packet)] })], cfg := { routes := (List.range 12).map fun i => (i, 5) }, linked := [5], ev := { die := 1, peer := 5 } }, 5, ({ header := packetHeader 3 1 false 3 5 0 0, words := [0xFE00000000000100] } : Packet), .peerWrite, 3, 0, (.inr (.inl ⟨rfl, rfl⟩)), by decide +kernel⟩,
    ⟨{ (Tests.home Tests.st).modHearth 0 fun h => { h with powerGated := true } with streams := [(streamKey 1 5, { rxPackets := [({ header := packetHeader 4 1 false 3 5 0 0, words := [0xFE00000000000100] } : Packet)] })], cfg := { routes := (List.range 12).map fun i => (i, 5) }, linked := [5], ev := { die := 1, peer := 5 } }, 5, ({ header := packetHeader 4 1 false 3 5 0 0, words := [0xFE00000000000100] } : Packet), .peerAtomic, 4, 0, (.inr (.inr ⟨rfl, rfl⟩)), by decide +kernel⟩,
    ⟨{ Tests.st with streams := [(streamKey 1 5, { rxPackets := [({ header := packetHeader 2 1 false 3 5 0 0, words := [0xFE00000000000100] } : Packet)] })], cfg := { routes := (List.range 12).map fun i => (i, 5) }, linked := [5], ev := { die := 1, peer := 5 } }, 5, ({ header := packetHeader 2 1 false 3 5 0 0, words := [0xFE00000000000100] } : Packet), ((({ Tests.st with streams := [(streamKey 1 5, { rxPackets := [({ header := packetHeader 2 1 false 3 5 0 0, words := [0xFE00000000000100] } : Packet)] })], cfg := { routes := (List.range 12).map fun i => (i, 5) }, linked := [5], ev := { die := 1, peer := 5 } } : State)).woken (({ header := packetHeader 2 1 false 3 5 0 0, words := [0xFE00000000000100] } : Packet))).modStream 1 5 (fun y => { y with rxPackets := y.rxPackets.erase (({ header := packetHeader 2 1 false 3 5 0 0, words := [0xFE00000000000100] } : Packet)) }), .peerRead, 2, (((({ header := packetHeader 2 1 false 3 5 0 0, words := [0xFE00000000000100] } : Packet))).words.getD 0 0).toNat, 2 ^ ((({ header := packetHeader 2 1 false 3 5 0 0, words := [0xFE00000000000100] } : Packet))).size, 0, 0, 0x100, 1, (Tests.ofAll (fun h => awake (rouse ({ Tests.st with streams := [(streamKey 1 5, { rxPackets := [({ header := packetHeader 2 1 false 3 5 0 0, words := [0xFE00000000000100] } : Packet)] })], cfg := { routes := (List.range 12).map fun i => (i, 5) }, linked := [5], ev := { die := 1, peer := 5 } } : State) h) h) _ (by decide +kernel)), (rfl), (.inl ⟨rfl, rfl⟩), by decide +kernel⟩,
    ⟨{ Tests.put (sramKey 0 0 0x100) [7, 0, 0, 0, 1] (Tests.home Tests.st) with streams := [(streamKey 1 5, { rxPackets := [({ header := packetHeader 3 1 false 3 5 0 0, words := [0xFE00000000018000, 9] } : Packet)] })], cfg := { routes := (List.range 12).map fun i => (i, 5) }, linked := [5], ev := { die := 1, peer := 5 } }, 5, ({ header := packetHeader 3 1 false 3 5 0 0, words := [0xFE00000000018000, 9] } : Packet), ((({ Tests.put (sramKey 0 0 0x100) [7, 0, 0, 0, 1] (Tests.home Tests.st) with streams := [(streamKey 1 5, { rxPackets := [({ header := packetHeader 3 1 false 3 5 0 0, words := [0xFE00000000018000, 9] } : Packet)] })], cfg := { routes := (List.range 12).map fun i => (i, 5) }, linked := [5], ev := { die := 1, peer := 5 } } : State)).woken (({ header := packetHeader 3 1 false 3 5 0 0, words := [0xFE00000000018000, 9] } : Packet))).modStream 1 5 (fun y => { y with rxPackets := y.rxPackets.erase (({ header := packetHeader 3 1 false 3 5 0 0, words := [0xFE00000000018000, 9] } : Packet)) }), .peerWrite, 3, (((({ header := packetHeader 3 1 false 3 5 0 0, words := [0xFE00000000018000, 9] } : Packet))).words.getD 0 0).toNat, 2 ^ ((({ header := packetHeader 3 1 false 3 5 0 0, words := [0xFE00000000018000, 9] } : Packet))).size, 0, 0, 0x18000, 2, (Tests.ofAll (fun h => awake (rouse ({ Tests.put (sramKey 0 0 0x100) [7, 0, 0, 0, 1] (Tests.home Tests.st) with streams := [(streamKey 1 5, { rxPackets := [({ header := packetHeader 3 1 false 3 5 0 0, words := [0xFE00000000018000, 9] } : Packet)] })], cfg := { routes := (List.range 12).map fun i => (i, 5) }, linked := [5], ev := { die := 1, peer := 5 } } : State) h) h) _ (by decide +kernel)), (rfl), (.inr (.inl ⟨rfl, rfl⟩)), by decide +kernel⟩,
    ⟨{ Tests.put (sramKey 0 0 0x100) [7, 0, 0, 0, 1] (Tests.home Tests.st) with streams := [(streamKey 1 5, { rxPackets := [({ header := packetHeader 2 1 false 3 5 0 0, words := [0xFE00000000000100] } : Packet)] })], cfg := { routes := (List.range 12).map fun i => (i, 5) }, linked := [5], ev := { die := 1, peer := 5 } }, 5, ({ header := packetHeader 2 1 false 3 5 0 0, words := [0xFE00000000000100] } : Packet), ((({ Tests.put (sramKey 0 0 0x100) [7, 0, 0, 0, 1] (Tests.home Tests.st) with streams := [(streamKey 1 5, { rxPackets := [({ header := packetHeader 2 1 false 3 5 0 0, words := [0xFE00000000000100] } : Packet)] })], cfg := { routes := (List.range 12).map fun i => (i, 5) }, linked := [5], ev := { die := 1, peer := 5 } } : State)).woken (({ header := packetHeader 2 1 false 3 5 0 0, words := [0xFE00000000000100] } : Packet))).modStream 1 5 (fun y => { y with rxPackets := y.rxPackets.erase (({ header := packetHeader 2 1 false 3 5 0 0, words := [0xFE00000000000100] } : Packet)) }), .peerRead, 2, (((({ header := packetHeader 2 1 false 3 5 0 0, words := [0xFE00000000000100] } : Packet))).words.getD 0 0).toNat, 2 ^ ((({ header := packetHeader 2 1 false 3 5 0 0, words := [0xFE00000000000100] } : Packet))).size, 0, 0, 0x100, (Tests.ofAll (fun h => awake (rouse ({ Tests.put (sramKey 0 0 0x100) [7, 0, 0, 0, 1] (Tests.home Tests.st) with streams := [(streamKey 1 5, { rxPackets := [({ header := packetHeader 2 1 false 3 5 0 0, words := [0xFE00000000000100] } : Packet)] })], cfg := { routes := (List.range 12).map fun i => (i, 5) }, linked := [5], ev := { die := 1, peer := 5 } } : State) h) h) _ (by decide +kernel)), (rfl), (.inl ⟨rfl, rfl⟩), by decide +kernel⟩,
    ⟨{ Tests.put (sramKey 0 0 0x100) [7, 0, 0, 0, 1] (Tests.home Tests.st) with streams := [(streamKey 1 5, { rxPackets := [({ header := packetHeader 2 1 false 2 5 0 0, words := [0xFE00000000000100] } : Packet)] })], cfg := { routes := (List.range 12).map fun i => (i, 5) }, linked := [5], ev := { die := 1, peer := 5 }, poison := [sramKey 0 0 0x100 / 64] }, 5, ({ header := packetHeader 2 1 false 2 5 0 0, words := [0xFE00000000000100] } : Packet), ((({ Tests.put (sramKey 0 0 0x100) [7, 0, 0, 0, 1] (Tests.home Tests.st) with streams := [(streamKey 1 5, { rxPackets := [({ header := packetHeader 2 1 false 2 5 0 0, words := [0xFE00000000000100] } : Packet)] })], cfg := { routes := (List.range 12).map fun i => (i, 5) }, linked := [5], ev := { die := 1, peer := 5 }, poison := [sramKey 0 0 0x100 / 64] } : State)).woken (({ header := packetHeader 2 1 false 2 5 0 0, words := [0xFE00000000000100] } : Packet))).modStream 1 5 (fun y => { y with rxPackets := y.rxPackets.erase (({ header := packetHeader 2 1 false 2 5 0 0, words := [0xFE00000000000100] } : Packet)) }), .peerRead, 2, (((({ header := packetHeader 2 1 false 2 5 0 0, words := [0xFE00000000000100] } : Packet))).words.getD 0 0).toNat, 2 ^ ((({ header := packetHeader 2 1 false 2 5 0 0, words := [0xFE00000000000100] } : Packet))).size, 0, 0, 0x100, (Tests.ofAll (fun h => awake (rouse ({ Tests.put (sramKey 0 0 0x100) [7, 0, 0, 0, 1] (Tests.home Tests.st) with streams := [(streamKey 1 5, { rxPackets := [({ header := packetHeader 2 1 false 2 5 0 0, words := [0xFE00000000000100] } : Packet)] })], cfg := { routes := (List.range 12).map fun i => (i, 5) }, linked := [5], ev := { die := 1, peer := 5 }, poison := [sramKey 0 0 0x100 / 64] } : State) h) h) _ (by decide +kernel)), (rfl), (.inl ⟨rfl, rfl⟩), by decide +kernel⟩,
    ⟨{ Tests.put (sramKey 0 0 0x100) [7, 0, 0, 0, 1] (Tests.home Tests.st) with streams := [(streamKey 1 5, { rxPackets := [({ header := packetHeader 3 1 false 1 5 0 0, words := [0xFE00000000000100, 0x30201] } : Packet)] })], cfg := { routes := (List.range 12).map fun i => (i, 5) }, linked := [5], ev := { die := 1, peer := 5 } }, 5, ({ header := packetHeader 3 1 false 1 5 0 0, words := [0xFE00000000000100, 0x30201] } : Packet), ((({ Tests.put (sramKey 0 0 0x100) [7, 0, 0, 0, 1] (Tests.home Tests.st) with streams := [(streamKey 1 5, { rxPackets := [({ header := packetHeader 3 1 false 1 5 0 0, words := [0xFE00000000000100, 0x30201] } : Packet)] })], cfg := { routes := (List.range 12).map fun i => (i, 5) }, linked := [5], ev := { die := 1, peer := 5 } } : State)).woken (({ header := packetHeader 3 1 false 1 5 0 0, words := [0xFE00000000000100, 0x30201] } : Packet))).modStream 1 5 (fun y => { y with rxPackets := y.rxPackets.erase (({ header := packetHeader 3 1 false 1 5 0 0, words := [0xFE00000000000100, 0x30201] } : Packet)) }), .peerWrite, 3, (((({ header := packetHeader 3 1 false 1 5 0 0, words := [0xFE00000000000100, 0x30201] } : Packet))).words.getD 0 0).toNat, 2 ^ ((({ header := packetHeader 3 1 false 1 5 0 0, words := [0xFE00000000000100, 0x30201] } : Packet))).size, 0, 0, 0x100, (Tests.ofAll (fun h => awake (rouse ({ Tests.put (sramKey 0 0 0x100) [7, 0, 0, 0, 1] (Tests.home Tests.st) with streams := [(streamKey 1 5, { rxPackets := [({ header := packetHeader 3 1 false 1 5 0 0, words := [0xFE00000000000100, 0x30201] } : Packet)] })], cfg := { routes := (List.range 12).map fun i => (i, 5) }, linked := [5], ev := { die := 1, peer := 5 } } : State) h) h) _ (by decide +kernel)), (rfl), (.inr (.inl ⟨rfl, rfl⟩)), by decide +kernel⟩⟩

/-- Hypotheses of `Obligations.LinkEvents`, its part EventPeers are met. -/
theorem witness_LinkEvents_EventPeers_2 :
    (∃ (s : State), ∃ (p : Nat), ∃ (q : Packet), ∃ (u : State), ∃ (i : Instr), ∃ (kd : Nat), ∃ (a : Nat), ∃ (n : Nat), ∃ (h : Nat), ∃ (unit : Nat), ∃ (off : Nat), (∀ h, q.hearth? = some h → awake (rouse s h) h = true) ∧ u = (s.woken q).modStream s.ev.die p (fun y => { y with rxPackets := y.rxPackets.erase q }) ∧ (i = .peerRead ∧ kd = 2 ∨ i = .peerWrite ∧ kd = 3 ∨ i = .peerAtomic ∧ kd = 4) ∧ s.ev.peer = p ∧ (s.stream s.ev.die p).rxPackets.find? (·.kind == kd) = some q ∧ a = (q.words.getD 0 0).toNat ∧ n = 2 ^ q.size ∧ q.size ≤ 3 ∧ a / 2 ^ 56 = 0xFE ∧ s.thisDevice (bitsOf a 55 50) = true ∧ bitsOf a 49 40 = h ∧ bitsOf a 39 36 = unit ∧ unit ≤ 8 ∧ bitsOf a 35 32 = 0 ∧ bitsOf a 31 0 = off ∧ unitRefusal s h unit off n (fun x => x == q.launch) = none ∧ let m := sramKey h unit off; s.checksHold m n = true ∧ kd = 3 ∧ Memory.wf s.mem = true) ∧
    (∃ (s : State), ∃ (p : Nat), ∃ (q : Packet), ∃ (u : State), ∃ (i : Instr), ∃ (kd : Nat), ∃ (a : Nat), ∃ (n : Nat), ∃ (h : Nat), ∃ (unit : Nat), ∃ (off : Nat), (∀ h, q.hearth? = some h → awake (rouse s h) h = true) ∧ u = (s.woken q).modStream s.ev.die p (fun y => { y with rxPackets := y.rxPackets.erase q }) ∧ (i = .peerRead ∧ kd = 2 ∨ i = .peerWrite ∧ kd = 3 ∨ i = .peerAtomic ∧ kd = 4) ∧ s.ev.peer = p ∧ (s.stream s.ev.die p).rxPackets.find? (·.kind == kd) = some q ∧ a = (q.words.getD 0 0).toNat ∧ n = 2 ^ q.size ∧ q.size ≤ 3 ∧ a / 2 ^ 56 = 0xFE ∧ s.thisDevice (bitsOf a 55 50) = true ∧ bitsOf a 49 40 = h ∧ bitsOf a 39 36 = unit ∧ unit ≤ 8 ∧ bitsOf a 35 32 = 0 ∧ bitsOf a 31 0 = off ∧ unitRefusal s h unit off n (fun x => x == q.launch) = none ∧ let m := sramKey h unit off; s.checksHold m n = true ∧ kd = 4 ∧ let m := sramKey h unit off; poisoned s.poison m n = true) ∧
    (∃ (s : State), ∃ (p : Nat), ∃ (q : Packet), ∃ (u : State), ∃ (i : Instr), ∃ (kd : Nat), ∃ (a : Nat), ∃ (n : Nat), ∃ (h : Nat), ∃ (unit : Nat), ∃ (off : Nat), (∀ h, q.hearth? = some h → awake (rouse s h) h = true) ∧ u = (s.woken q).modStream s.ev.die p (fun y => { y with rxPackets := y.rxPackets.erase q }) ∧ (i = .peerRead ∧ kd = 2 ∨ i = .peerWrite ∧ kd = 3 ∨ i = .peerAtomic ∧ kd = 4) ∧ s.ev.peer = p ∧ (s.stream s.ev.die p).rxPackets.find? (·.kind == kd) = some q ∧ a = (q.words.getD 0 0).toNat ∧ n = 2 ^ q.size ∧ q.size ≤ 3 ∧ a / 2 ^ 56 = 0xFE ∧ s.thisDevice (bitsOf a 55 50) = true ∧ bitsOf a 49 40 = h ∧ bitsOf a 39 36 = unit ∧ unit ≤ 8 ∧ bitsOf a 35 32 = 0 ∧ bitsOf a 31 0 = off ∧ unitRefusal s h unit off n (fun x => x == q.launch) = none ∧ let m := sramKey h unit off; s.checksHold m n = true ∧ kd = 4 ∧ let m := sramKey h unit off; poisoned s.poison m n = false ∧ Memory.wf s.mem = true) ∧
    (∃ (s : State), ∃ (p : Nat), ∃ (q : Packet), ∃ (u : State), ∃ (i : Instr), ∃ (kd : Nat), ∃ (a : Nat), ∃ (n : Nat), ∃ (h : Nat), ∃ (unit : Nat), ∃ (off : Nat), (∀ h, q.hearth? = some h → awake (rouse s h) h = true) ∧ u = (s.woken q).modStream s.ev.die p (fun y => { y with rxPackets := y.rxPackets.erase q }) ∧ (i = .peerRead ∧ kd = 2 ∨ i = .peerWrite ∧ kd = 3 ∨ i = .peerAtomic ∧ kd = 4) ∧ s.ev.peer = p ∧ (s.stream s.ev.die p).rxPackets.find? (·.kind == kd) = some q ∧ a = (q.words.getD 0 0).toNat ∧ n = 2 ^ q.size ∧ q.size ≤ 3 ∧ a / 2 ^ 56 = 0xFE ∧ s.thisDevice (bitsOf a 55 50) = true ∧ bitsOf a 49 40 = h ∧ bitsOf a 39 36 = unit ∧ unit ≤ 8 ∧ bitsOf a 35 32 = 0 ∧ bitsOf a 31 0 = off ∧ unitRefusal s h unit off n (fun x => x == q.launch) = none ∧ let m := sramKey h unit off; s.checksHold m n = true ∧ kd = 4 ∧ let m := sramKey h unit off; poisoned s.poison m n = false ∧ Memory.wf s.mem = true) ∧
    (∃ (s : State), ∃ (p : Nat), ∃ (q : Packet), ∃ (u : State), ∃ (i : Instr), ∃ (kd : Nat), ∃ (a : Nat), ∃ (n : Nat), ∃ (h : Nat), ∃ (unit : Nat), ∃ (off : Nat), (∀ h, q.hearth? = some h → awake (rouse s h) h = true) ∧ u = (s.woken q).modStream s.ev.die p (fun y => { y with rxPackets := y.rxPackets.erase q }) ∧ (i = .peerRead ∧ kd = 2 ∨ i = .peerWrite ∧ kd = 3 ∨ i = .peerAtomic ∧ kd = 4) ∧ s.ev.peer = p ∧ (s.stream s.ev.die p).rxPackets.find? (·.kind == kd) = some q ∧ a = (q.words.getD 0 0).toNat ∧ n = 2 ^ q.size ∧ q.size ≤ 3 ∧ a / 2 ^ 56 = 0xFE ∧ s.thisDevice (bitsOf a 55 50) = true ∧ bitsOf a 49 40 = h ∧ bitsOf a 39 36 = unit ∧ unit ≤ 8 ∧ bitsOf a 35 32 = 0 ∧ bitsOf a 31 0 = off ∧ unitRefusal s h unit off n (fun x => x == q.launch) = none ∧ let m := sramKey h unit off; s.checksHold m n = true ∧ kd = 4 ∧ let m := sramKey h unit off; poisoned s.poison m n = false ∧ Memory.wf s.mem = true) ∧
    (∃ (s : State), ∃ (p : Nat), ∃ (q : Packet), ∃ (u : State), ∃ (i : Instr), ∃ (kd : Nat), ∃ (a : Nat), ∃ (n : Nat), ∃ (h : Nat), ∃ (unit : Nat), ∃ (off : Nat), (∀ h, q.hearth? = some h → awake (rouse s h) h = true) ∧ u = (s.woken q).modStream s.ev.die p (fun y => { y with rxPackets := y.rxPackets.erase q }) ∧ (i = .peerRead ∧ kd = 2 ∨ i = .peerWrite ∧ kd = 3 ∨ i = .peerAtomic ∧ kd = 4) ∧ s.ev.peer = p ∧ (s.stream s.ev.die p).rxPackets.find? (·.kind == kd) = some q ∧ a = (q.words.getD 0 0).toNat ∧ n = 2 ^ q.size ∧ q.size ≤ 3 ∧ a / 2 ^ 56 = 0xFE ∧ s.thisDevice (bitsOf a 55 50) = true ∧ bitsOf a 49 40 = h ∧ bitsOf a 39 36 = unit ∧ unit ≤ 8 ∧ bitsOf a 35 32 = 0 ∧ bitsOf a 31 0 = off ∧ unitRefusal s h unit off n (fun x => x == q.launch) = none ∧ let m := sramKey h unit off; s.checksHold m n = true ∧ kd = 4 ∧ let m := sramKey h unit off; poisoned s.poison m n = false ∧ Memory.wf s.mem = true) ∧
    (∃ (s : State), ∃ (p : Nat), ∃ (q : Packet), ∃ (u : State), ∃ (i : Instr), ∃ (kd : Nat), ∃ (a : Nat), ∃ (n : Nat), ∃ (h : Nat), ∃ (unit : Nat), ∃ (off : Nat), (∀ h, q.hearth? = some h → awake (rouse s h) h = true) ∧ u = (s.woken q).modStream s.ev.die p (fun y => { y with rxPackets := y.rxPackets.erase q }) ∧ (i = .peerRead ∧ kd = 2 ∨ i = .peerWrite ∧ kd = 3 ∨ i = .peerAtomic ∧ kd = 4) ∧ s.ev.peer = p ∧ (s.stream s.ev.die p).rxPackets.find? (·.kind == kd) = some q ∧ a = (q.words.getD 0 0).toNat ∧ n = 2 ^ q.size ∧ q.size ≤ 3 ∧ a / 2 ^ 56 = 0xFE ∧ s.thisDevice (bitsOf a 55 50) = true ∧ bitsOf a 49 40 = h ∧ bitsOf a 39 36 = unit ∧ unit ≤ 8 ∧ bitsOf a 35 32 = 0 ∧ bitsOf a 31 0 = off ∧ unitRefusal s h unit off n (fun x => x == q.launch) = none ∧ let m := sramKey h unit off; s.checksHold m n = true ∧ kd = 4 ∧ let m := sramKey h unit off; poisoned s.poison m n = false ∧ Memory.wf s.mem = true) ∧
    (∃ (s : State), ∃ (p : Nat), ∃ (q : Packet), ∃ (u : State), ∃ (i : Instr), ∃ (kd : Nat), ∃ (a : Nat), ∃ (n : Nat), (∀ h, q.hearth? = some h → awake (rouse s h) h = true) ∧ u = (s.woken q).modStream s.ev.die p (fun y => { y with rxPackets := y.rxPackets.erase q }) ∧ (i = .peerRead ∧ kd = 2 ∨ i = .peerWrite ∧ kd = 3 ∨ i = .peerAtomic ∧ kd = 4) ∧ (a / 2 ^ 56 = 0xFF ∨ s.thisDevice (bitsOf a 55 50) = false ∨ 8 < bitsOf a 39 36 ∨ bitsOf a 35 32 ≠ 0) ∧ s.ev.peer = p ∧ (s.stream s.ev.die p).rxPackets.find? (·.kind == kd) = some q ∧ a = (q.words.getD 0 0).toNat ∧ n = 2 ^ q.size ∧ q.size ≤ 3 ∧ 0xFE ≤ a / 2 ^ 56) ∧
    (∃ (s : State), ∃ (p : Nat), ∃ (q : Packet), ∃ (u : State), ∃ (i : Instr), ∃ (kd : Nat), ∃ (a : Nat), ∃ (n : Nat), (∀ h, q.hearth? = some h → awake (rouse s h) h = true) ∧ u = (s.woken q).modStream s.ev.die p (fun y => { y with rxPackets := y.rxPackets.erase q }) ∧ (i = .peerRead ∧ kd = 2 ∨ i = .peerWrite ∧ kd = 3 ∨ i = .peerAtomic ∧ kd = 4) ∧ (a / 2 ^ 56 = 0xFF ∨ s.thisDevice (bitsOf a 55 50) = false ∨ 8 < bitsOf a 39 36 ∨ bitsOf a 35 32 ≠ 0) ∧ s.ev.peer = p ∧ (s.stream s.ev.die p).rxPackets.find? (·.kind == kd) = some q ∧ a = (q.words.getD 0 0).toNat ∧ n = 2 ^ q.size ∧ q.size ≤ 3 ∧ 0xFE ≤ a / 2 ^ 56) ∧
    (∃ (s : State), ∃ (p : Nat), ∃ (q : Packet), ∃ (u : State), ∃ (i : Instr), ∃ (kd : Nat), ∃ (a : Nat), ∃ (n : Nat), (∀ h, q.hearth? = some h → awake (rouse s h) h = true) ∧ u = (s.woken q).modStream s.ev.die p (fun y => { y with rxPackets := y.rxPackets.erase q }) ∧ (i = .peerRead ∧ kd = 2 ∨ i = .peerWrite ∧ kd = 3 ∨ i = .peerAtomic ∧ kd = 4) ∧ (a / 2 ^ 56 = 0xFF ∨ s.thisDevice (bitsOf a 55 50) = false ∨ 8 < bitsOf a 39 36 ∨ bitsOf a 35 32 ≠ 0) ∧ s.ev.peer = p ∧ (s.stream s.ev.die p).rxPackets.find? (·.kind == kd) = some q ∧ a = (q.words.getD 0 0).toNat ∧ n = 2 ^ q.size ∧ q.size ≤ 3 ∧ 0xFE ≤ a / 2 ^ 56) ∧
    (∃ (s : State), ∃ (p : Nat), ∃ (q : Packet), ∃ (u : State), ∃ (i : Instr), ∃ (kd : Nat), ∃ (a : Nat), ∃ (n : Nat), (∀ h, q.hearth? = some h → awake (rouse s h) h = true) ∧ u = (s.woken q).modStream s.ev.die p (fun y => { y with rxPackets := y.rxPackets.erase q }) ∧ (i = .peerRead ∧ kd = 2 ∨ i = .peerWrite ∧ kd = 3 ∨ i = .peerAtomic ∧ kd = 4) ∧ (a / 2 ^ 56 = 0xFF ∨ s.thisDevice (bitsOf a 55 50) = false ∨ 8 < bitsOf a 39 36 ∨ bitsOf a 35 32 ≠ 0) ∧ s.ev.peer = p ∧ (s.stream s.ev.die p).rxPackets.find? (·.kind == kd) = some q ∧ a = (q.words.getD 0 0).toNat ∧ n = 2 ^ q.size ∧ q.size ≤ 3 ∧ 0xFE ≤ a / 2 ^ 56) ∧
    (∃ (s : State), ∃ (p : Nat), ∃ (q : Packet), ∃ (u : State), ∃ (i : Instr), ∃ (kd : Nat), ∃ (a : Nat), ∃ (n : Nat), ∃ (m : Nat), (∀ h, q.hearth? = some h → awake (rouse s h) h = true) ∧ u = (s.woken q).modStream s.ev.die p (fun y => { y with rxPackets := y.rxPackets.erase q }) ∧ (i = .peerRead ∧ kd = 2 ∨ i = .peerWrite ∧ kd = 3 ∨ i = .peerAtomic ∧ kd = 4) ∧ s.ev.peer = p ∧ (s.stream s.ev.die p).rxPackets.find? (·.kind == kd) = some q ∧ a = (q.words.getD 0 0).toNat ∧ n = 2 ^ q.size ∧ q.size ≤ 3 ∧ a / 2 ^ 56 < 0xFE ∧ a % 2 ^ 46 = m ∧ inWindows s p m n = false) ∧
    (∃ (s : State), ∃ (p : Nat), ∃ (q : Packet), ∃ (u : State), ∃ (i : Instr), ∃ (kd : Nat), ∃ (a : Nat), ∃ (n : Nat), ∃ (m : Nat), (∀ h, q.hearth? = some h → awake (rouse s h) h = true) ∧ u = (s.woken q).modStream s.ev.die p (fun y => { y with rxPackets := y.rxPackets.erase q }) ∧ (i = .peerRead ∧ kd = 2 ∨ i = .peerWrite ∧ kd = 3 ∨ i = .peerAtomic ∧ kd = 4) ∧ s.ev.peer = p ∧ (s.stream s.ev.die p).rxPackets.find? (·.kind == kd) = some q ∧ a = (q.words.getD 0 0).toNat ∧ n = 2 ^ q.size ∧ q.size ≤ 3 ∧ a / 2 ^ 56 < 0xFE ∧ a % 2 ^ 46 = m ∧ inWindows s p m n = false) ∧
    (∃ (s : State), ∃ (p : Nat), ∃ (q : Packet), ∃ (u : State), ∃ (i : Instr), ∃ (kd : Nat), ∃ (a : Nat), ∃ (n : Nat), ∃ (m : Nat), (∀ h, q.hearth? = some h → awake (rouse s h) h = true) ∧ u = (s.woken q).modStream s.ev.die p (fun y => { y with rxPackets := y.rxPackets.erase q }) ∧ (i = .peerRead ∧ kd = 2 ∨ i = .peerWrite ∧ kd = 3 ∨ i = .peerAtomic ∧ kd = 4) ∧ s.ev.peer = p ∧ (s.stream s.ev.die p).rxPackets.find? (·.kind == kd) = some q ∧ a = (q.words.getD 0 0).toNat ∧ n = 2 ^ q.size ∧ q.size ≤ 3 ∧ a / 2 ^ 56 < 0xFE ∧ a % 2 ^ 46 = m ∧ inWindows s p m n = true ∧ Config.hbmBytes < m + n) :=
  ⟨⟨{ Tests.put (sramKey 0 0 0x100) [7, 0, 0, 0, 1] (Tests.home Tests.st) with streams := [(streamKey 1 5, { rxPackets := [({ header := packetHeader 3 1 true 3 5 0 0, words := [0xFE00000000000100, 0x30201] } : Packet)] })], cfg := { routes := (List.range 12).map fun i => (i, 5) }, linked := [5], ev := { die := 1, peer := 5 }, poison := [sramKey 0 0 0x100 / 64] }, 5, ({ header := packetHeader 3 1 true 3 5 0 0, words := [0xFE00000000000100, 0x30201] } : Packet), ((({ Tests.put (sramKey 0 0 0x100) [7, 0, 0, 0, 1] (Tests.home Tests.st) with streams := [(streamKey 1 5, { rxPackets := [({ header := packetHeader 3 1 true 3 5 0 0, words := [0xFE00000000000100, 0x30201] } : Packet)] })], cfg := { routes := (List.range 12).map fun i => (i, 5) }, linked := [5], ev := { die := 1, peer := 5 }, poison := [sramKey 0 0 0x100 / 64] } : State)).woken (({ header := packetHeader 3 1 true 3 5 0 0, words := [0xFE00000000000100, 0x30201] } : Packet))).modStream 1 5 (fun y => { y with rxPackets := y.rxPackets.erase (({ header := packetHeader 3 1 true 3 5 0 0, words := [0xFE00000000000100, 0x30201] } : Packet)) }), .peerWrite, 3, (((({ header := packetHeader 3 1 true 3 5 0 0, words := [0xFE00000000000100, 0x30201] } : Packet))).words.getD 0 0).toNat, 2 ^ ((({ header := packetHeader 3 1 true 3 5 0 0, words := [0xFE00000000000100, 0x30201] } : Packet))).size, 0, 0, 0x100, (Tests.ofAll (fun h => awake (rouse ({ Tests.put (sramKey 0 0 0x100) [7, 0, 0, 0, 1] (Tests.home Tests.st) with streams := [(streamKey 1 5, { rxPackets := [({ header := packetHeader 3 1 true 3 5 0 0, words := [0xFE00000000000100, 0x30201] } : Packet)] })], cfg := { routes := (List.range 12).map fun i => (i, 5) }, linked := [5], ev := { die := 1, peer := 5 }, poison := [sramKey 0 0 0x100 / 64] } : State) h) h) _ (by decide +kernel)), (rfl), (.inr (.inl ⟨rfl, rfl⟩)), by decide +kernel⟩,
    ⟨{ Tests.put (sramKey 0 0 0x100) [7, 0, 0, 0, 1] (Tests.home Tests.st) with streams := [(streamKey 1 5, { rxPackets := [({ header := packetHeader 4 1 false 3 5 0 0, words := [0xFE00000000000100, 5, 6] } : Packet)] })], cfg := { routes := (List.range 12).map fun i => (i, 5) }, linked := [5], ev := { die := 1, peer := 5 }, poison := [sramKey 0 0 0x100 / 64] }, 5, ({ header := packetHeader 4 1 false 3 5 0 0, words := [0xFE00000000000100, 5, 6] } : Packet), ((({ Tests.put (sramKey 0 0 0x100) [7, 0, 0, 0, 1] (Tests.home Tests.st) with streams := [(streamKey 1 5, { rxPackets := [({ header := packetHeader 4 1 false 3 5 0 0, words := [0xFE00000000000100, 5, 6] } : Packet)] })], cfg := { routes := (List.range 12).map fun i => (i, 5) }, linked := [5], ev := { die := 1, peer := 5 }, poison := [sramKey 0 0 0x100 / 64] } : State)).woken (({ header := packetHeader 4 1 false 3 5 0 0, words := [0xFE00000000000100, 5, 6] } : Packet))).modStream 1 5 (fun y => { y with rxPackets := y.rxPackets.erase (({ header := packetHeader 4 1 false 3 5 0 0, words := [0xFE00000000000100, 5, 6] } : Packet)) }), .peerAtomic, 4, (((({ header := packetHeader 4 1 false 3 5 0 0, words := [0xFE00000000000100, 5, 6] } : Packet))).words.getD 0 0).toNat, 2 ^ ((({ header := packetHeader 4 1 false 3 5 0 0, words := [0xFE00000000000100, 5, 6] } : Packet))).size, 0, 0, 0x100, (Tests.ofAll (fun h => awake (rouse ({ Tests.put (sramKey 0 0 0x100) [7, 0, 0, 0, 1] (Tests.home Tests.st) with streams := [(streamKey 1 5, { rxPackets := [({ header := packetHeader 4 1 false 3 5 0 0, words := [0xFE00000000000100, 5, 6] } : Packet)] })], cfg := { routes := (List.range 12).map fun i => (i, 5) }, linked := [5], ev := { die := 1, peer := 5 }, poison := [sramKey 0 0 0x100 / 64] } : State) h) h) _ (by decide +kernel)), (rfl), (.inr (.inr ⟨rfl, rfl⟩)), by decide +kernel⟩,
    ⟨{ Tests.put (sramKey 0 0 0x100) [7, 0, 0, 0, 1] (Tests.home Tests.st) with streams := [(streamKey 1 5, { rxPackets := [({ header := packetHeader 4 1 false 3 5 0 0, words := [0xFE00000000000100, 5, 6] } : Packet)] })], cfg := { routes := (List.range 12).map fun i => (i, 5) }, linked := [5], ev := { die := 1, peer := 5 } }, 5, ({ header := packetHeader 4 1 false 3 5 0 0, words := [0xFE00000000000100, 5, 6] } : Packet), ((({ Tests.put (sramKey 0 0 0x100) [7, 0, 0, 0, 1] (Tests.home Tests.st) with streams := [(streamKey 1 5, { rxPackets := [({ header := packetHeader 4 1 false 3 5 0 0, words := [0xFE00000000000100, 5, 6] } : Packet)] })], cfg := { routes := (List.range 12).map fun i => (i, 5) }, linked := [5], ev := { die := 1, peer := 5 } } : State)).woken (({ header := packetHeader 4 1 false 3 5 0 0, words := [0xFE00000000000100, 5, 6] } : Packet))).modStream 1 5 (fun y => { y with rxPackets := y.rxPackets.erase (({ header := packetHeader 4 1 false 3 5 0 0, words := [0xFE00000000000100, 5, 6] } : Packet)) }), .peerAtomic, 4, (((({ header := packetHeader 4 1 false 3 5 0 0, words := [0xFE00000000000100, 5, 6] } : Packet))).words.getD 0 0).toNat, 2 ^ ((({ header := packetHeader 4 1 false 3 5 0 0, words := [0xFE00000000000100, 5, 6] } : Packet))).size, 0, 0, 0x100, (Tests.ofAll (fun h => awake (rouse ({ Tests.put (sramKey 0 0 0x100) [7, 0, 0, 0, 1] (Tests.home Tests.st) with streams := [(streamKey 1 5, { rxPackets := [({ header := packetHeader 4 1 false 3 5 0 0, words := [0xFE00000000000100, 5, 6] } : Packet)] })], cfg := { routes := (List.range 12).map fun i => (i, 5) }, linked := [5], ev := { die := 1, peer := 5 } } : State) h) h) _ (by decide +kernel)), (rfl), (.inr (.inr ⟨rfl, rfl⟩)), by decide +kernel⟩,
    ⟨{ Tests.put (sramKey 0 0 0x100) [7, 0, 0, 0, 1] (Tests.home Tests.st) with streams := [(streamKey 1 5, { rxPackets := [({ header := packetHeader 4 1 false 3 5 0 8, words := [0xFE00000000000100, 5, 0x100000007] } : Packet)] })], cfg := { routes := (List.range 12).map fun i => (i, 5) }, linked := [5], ev := { die := 1, peer := 5 } }, 5, ({ header := packetHeader 4 1 false 3 5 0 8, words := [0xFE00000000000100, 5, 0x100000007] } : Packet), ((({ Tests.put (sramKey 0 0 0x100) [7, 0, 0, 0, 1] (Tests.home Tests.st) with streams := [(streamKey 1 5, { rxPackets := [({ header := packetHeader 4 1 false 3 5 0 8, words := [0xFE00000000000100, 5, 0x100000007] } : Packet)] })], cfg := { routes := (List.range 12).map fun i => (i, 5) }, linked := [5], ev := { die := 1, peer := 5 } } : State)).woken (({ header := packetHeader 4 1 false 3 5 0 8, words := [0xFE00000000000100, 5, 0x100000007] } : Packet))).modStream 1 5 (fun y => { y with rxPackets := y.rxPackets.erase (({ header := packetHeader 4 1 false 3 5 0 8, words := [0xFE00000000000100, 5, 0x100000007] } : Packet)) }), .peerAtomic, 4, (((({ header := packetHeader 4 1 false 3 5 0 8, words := [0xFE00000000000100, 5, 0x100000007] } : Packet))).words.getD 0 0).toNat, 2 ^ ((({ header := packetHeader 4 1 false 3 5 0 8, words := [0xFE00000000000100, 5, 0x100000007] } : Packet))).size, 0, 0, 0x100, (Tests.ofAll (fun h => awake (rouse ({ Tests.put (sramKey 0 0 0x100) [7, 0, 0, 0, 1] (Tests.home Tests.st) with streams := [(streamKey 1 5, { rxPackets := [({ header := packetHeader 4 1 false 3 5 0 8, words := [0xFE00000000000100, 5, 0x100000007] } : Packet)] })], cfg := { routes := (List.range 12).map fun i => (i, 5) }, linked := [5], ev := { die := 1, peer := 5 } } : State) h) h) _ (by decide +kernel)), (rfl), (.inr (.inr ⟨rfl, rfl⟩)), by decide +kernel⟩,
    ⟨{ Tests.put (sramKey 0 0 0x100) [7, 0, 0, 0, 1] (Tests.home Tests.st) with streams := [(streamKey 1 5, { rxPackets := [({ header := packetHeader 4 1 false 3 5 0 8, words := [0xFE00000000000100, 5, 8] } : Packet)] })], cfg := { routes := (List.range 12).map fun i => (i, 5) }, linked := [5], ev := { die := 1, peer := 5 } }, 5, ({ header := packetHeader 4 1 false 3 5 0 8, words := [0xFE00000000000100, 5, 8] } : Packet), ((({ Tests.put (sramKey 0 0 0x100) [7, 0, 0, 0, 1] (Tests.home Tests.st) with streams := [(streamKey 1 5, { rxPackets := [({ header := packetHeader 4 1 false 3 5 0 8, words := [0xFE00000000000100, 5, 8] } : Packet)] })], cfg := { routes := (List.range 12).map fun i => (i, 5) }, linked := [5], ev := { die := 1, peer := 5 } } : State)).woken (({ header := packetHeader 4 1 false 3 5 0 8, words := [0xFE00000000000100, 5, 8] } : Packet))).modStream 1 5 (fun y => { y with rxPackets := y.rxPackets.erase (({ header := packetHeader 4 1 false 3 5 0 8, words := [0xFE00000000000100, 5, 8] } : Packet)) }), .peerAtomic, 4, (((({ header := packetHeader 4 1 false 3 5 0 8, words := [0xFE00000000000100, 5, 8] } : Packet))).words.getD 0 0).toNat, 2 ^ ((({ header := packetHeader 4 1 false 3 5 0 8, words := [0xFE00000000000100, 5, 8] } : Packet))).size, 0, 0, 0x100, (Tests.ofAll (fun h => awake (rouse ({ Tests.put (sramKey 0 0 0x100) [7, 0, 0, 0, 1] (Tests.home Tests.st) with streams := [(streamKey 1 5, { rxPackets := [({ header := packetHeader 4 1 false 3 5 0 8, words := [0xFE00000000000100, 5, 8] } : Packet)] })], cfg := { routes := (List.range 12).map fun i => (i, 5) }, linked := [5], ev := { die := 1, peer := 5 } } : State) h) h) _ (by decide +kernel)), (rfl), (.inr (.inr ⟨rfl, rfl⟩)), by decide +kernel⟩,
    ⟨{ Tests.put (sramKey 0 0 0x100) [7, 0, 0, 0, 1] (Tests.home Tests.st) with streams := [(streamKey 1 5, { rxPackets := [({ header := packetHeader 4 1 false 3 5 0 2, words := [0xFE00000000000100, 9, 0] } : Packet)] })], cfg := { routes := (List.range 12).map fun i => (i, 5) }, linked := [5], ev := { die := 1, peer := 5 } }, 5, ({ header := packetHeader 4 1 false 3 5 0 2, words := [0xFE00000000000100, 9, 0] } : Packet), ((({ Tests.put (sramKey 0 0 0x100) [7, 0, 0, 0, 1] (Tests.home Tests.st) with streams := [(streamKey 1 5, { rxPackets := [({ header := packetHeader 4 1 false 3 5 0 2, words := [0xFE00000000000100, 9, 0] } : Packet)] })], cfg := { routes := (List.range 12).map fun i => (i, 5) }, linked := [5], ev := { die := 1, peer := 5 } } : State)).woken (({ header := packetHeader 4 1 false 3 5 0 2, words := [0xFE00000000000100, 9, 0] } : Packet))).modStream 1 5 (fun y => { y with rxPackets := y.rxPackets.erase (({ header := packetHeader 4 1 false 3 5 0 2, words := [0xFE00000000000100, 9, 0] } : Packet)) }), .peerAtomic, 4, (((({ header := packetHeader 4 1 false 3 5 0 2, words := [0xFE00000000000100, 9, 0] } : Packet))).words.getD 0 0).toNat, 2 ^ ((({ header := packetHeader 4 1 false 3 5 0 2, words := [0xFE00000000000100, 9, 0] } : Packet))).size, 0, 0, 0x100, (Tests.ofAll (fun h => awake (rouse ({ Tests.put (sramKey 0 0 0x100) [7, 0, 0, 0, 1] (Tests.home Tests.st) with streams := [(streamKey 1 5, { rxPackets := [({ header := packetHeader 4 1 false 3 5 0 2, words := [0xFE00000000000100, 9, 0] } : Packet)] })], cfg := { routes := (List.range 12).map fun i => (i, 5) }, linked := [5], ev := { die := 1, peer := 5 } } : State) h) h) _ (by decide +kernel)), (rfl), (.inr (.inr ⟨rfl, rfl⟩)), by decide +kernel⟩,
    ⟨{ Tests.put (sramKey 0 0 0x100) [7, 0, 0, 0, 1] (Tests.home Tests.st) with streams := [(streamKey 1 5, { rxPackets := [({ header := packetHeader 4 1 false 3 5 0 7, words := [0xFE00000000000100, 9, 0] } : Packet)] })], cfg := { routes := (List.range 12).map fun i => (i, 5) }, linked := [5], ev := { die := 1, peer := 5 } }, 5, ({ header := packetHeader 4 1 false 3 5 0 7, words := [0xFE00000000000100, 9, 0] } : Packet), ((({ Tests.put (sramKey 0 0 0x100) [7, 0, 0, 0, 1] (Tests.home Tests.st) with streams := [(streamKey 1 5, { rxPackets := [({ header := packetHeader 4 1 false 3 5 0 7, words := [0xFE00000000000100, 9, 0] } : Packet)] })], cfg := { routes := (List.range 12).map fun i => (i, 5) }, linked := [5], ev := { die := 1, peer := 5 } } : State)).woken (({ header := packetHeader 4 1 false 3 5 0 7, words := [0xFE00000000000100, 9, 0] } : Packet))).modStream 1 5 (fun y => { y with rxPackets := y.rxPackets.erase (({ header := packetHeader 4 1 false 3 5 0 7, words := [0xFE00000000000100, 9, 0] } : Packet)) }), .peerAtomic, 4, (((({ header := packetHeader 4 1 false 3 5 0 7, words := [0xFE00000000000100, 9, 0] } : Packet))).words.getD 0 0).toNat, 2 ^ ((({ header := packetHeader 4 1 false 3 5 0 7, words := [0xFE00000000000100, 9, 0] } : Packet))).size, 0, 0, 0x100, (Tests.ofAll (fun h => awake (rouse ({ Tests.put (sramKey 0 0 0x100) [7, 0, 0, 0, 1] (Tests.home Tests.st) with streams := [(streamKey 1 5, { rxPackets := [({ header := packetHeader 4 1 false 3 5 0 7, words := [0xFE00000000000100, 9, 0] } : Packet)] })], cfg := { routes := (List.range 12).map fun i => (i, 5) }, linked := [5], ev := { die := 1, peer := 5 } } : State) h) h) _ (by decide +kernel)), (rfl), (.inr (.inr ⟨rfl, rfl⟩)), by decide +kernel⟩,
    ⟨{ Tests.st with streams := [(streamKey 1 5, { rxPackets := [({ header := packetHeader 2 1 false 3 5 0 0, words := [0xFF00000000000000] } : Packet)] })], cfg := { routes := (List.range 12).map fun i => (i, 5) }, linked := [5], ev := { die := 1, peer := 5 } }, 5, ({ header := packetHeader 2 1 false 3 5 0 0, words := [0xFF00000000000000] } : Packet), ((({ Tests.st with streams := [(streamKey 1 5, { rxPackets := [({ header := packetHeader 2 1 false 3 5 0 0, words := [0xFF00000000000000] } : Packet)] })], cfg := { routes := (List.range 12).map fun i => (i, 5) }, linked := [5], ev := { die := 1, peer := 5 } } : State)).woken (({ header := packetHeader 2 1 false 3 5 0 0, words := [0xFF00000000000000] } : Packet))).modStream 1 5 (fun y => { y with rxPackets := y.rxPackets.erase (({ header := packetHeader 2 1 false 3 5 0 0, words := [0xFF00000000000000] } : Packet)) }), .peerRead, 2, (((({ header := packetHeader 2 1 false 3 5 0 0, words := [0xFF00000000000000] } : Packet))).words.getD 0 0).toNat, 2 ^ ((({ header := packetHeader 2 1 false 3 5 0 0, words := [0xFF00000000000000] } : Packet))).size, (Tests.ofAll (fun h => awake (rouse ({ Tests.st with streams := [(streamKey 1 5, { rxPackets := [({ header := packetHeader 2 1 false 3 5 0 0, words := [0xFF00000000000000] } : Packet)] })], cfg := { routes := (List.range 12).map fun i => (i, 5) }, linked := [5], ev := { die := 1, peer := 5 } } : State) h) h) _ (by decide +kernel)), (rfl), (.inl ⟨rfl, rfl⟩), (.inl (by decide +kernel)), by decide +kernel⟩,
    ⟨{ Tests.st with streams := [(streamKey 1 5, { rxPackets := [({ header := packetHeader 2 1 false 3 5 0 0, words := [0xFE04000000000000] } : Packet)] })], cfg := { routes := (List.range 12).map fun i => (i, 5) }, linked := [5], ev := { die := 1, peer := 5 } }, 5, ({ header := packetHeader 2 1 false 3 5 0 0, words := [0xFE04000000000000] } : Packet), ((({ Tests.st with streams := [(streamKey 1 5, { rxPackets := [({ header := packetHeader 2 1 false 3 5 0 0, words := [0xFE04000000000000] } : Packet)] })], cfg := { routes := (List.range 12).map fun i => (i, 5) }, linked := [5], ev := { die := 1, peer := 5 } } : State)).woken (({ header := packetHeader 2 1 false 3 5 0 0, words := [0xFE04000000000000] } : Packet))).modStream 1 5 (fun y => { y with rxPackets := y.rxPackets.erase (({ header := packetHeader 2 1 false 3 5 0 0, words := [0xFE04000000000000] } : Packet)) }), .peerRead, 2, (((({ header := packetHeader 2 1 false 3 5 0 0, words := [0xFE04000000000000] } : Packet))).words.getD 0 0).toNat, 2 ^ ((({ header := packetHeader 2 1 false 3 5 0 0, words := [0xFE04000000000000] } : Packet))).size, (Tests.ofAll (fun h => awake (rouse ({ Tests.st with streams := [(streamKey 1 5, { rxPackets := [({ header := packetHeader 2 1 false 3 5 0 0, words := [0xFE04000000000000] } : Packet)] })], cfg := { routes := (List.range 12).map fun i => (i, 5) }, linked := [5], ev := { die := 1, peer := 5 } } : State) h) h) _ (by decide +kernel)), (rfl), (.inl ⟨rfl, rfl⟩), (.inr (.inl (by decide +kernel))), by decide +kernel⟩,
    ⟨{ Tests.st with streams := [(streamKey 1 5, { rxPackets := [({ header := packetHeader 2 1 false 3 5 0 0, words := [0xFE00009000000000] } : Packet)] })], cfg := { routes := (List.range 12).map fun i => (i, 5) }, linked := [5], ev := { die := 1, peer := 5 } }, 5, ({ header := packetHeader 2 1 false 3 5 0 0, words := [0xFE00009000000000] } : Packet), ((({ Tests.st with streams := [(streamKey 1 5, { rxPackets := [({ header := packetHeader 2 1 false 3 5 0 0, words := [0xFE00009000000000] } : Packet)] })], cfg := { routes := (List.range 12).map fun i => (i, 5) }, linked := [5], ev := { die := 1, peer := 5 } } : State)).woken (({ header := packetHeader 2 1 false 3 5 0 0, words := [0xFE00009000000000] } : Packet))).modStream 1 5 (fun y => { y with rxPackets := y.rxPackets.erase (({ header := packetHeader 2 1 false 3 5 0 0, words := [0xFE00009000000000] } : Packet)) }), .peerRead, 2, (((({ header := packetHeader 2 1 false 3 5 0 0, words := [0xFE00009000000000] } : Packet))).words.getD 0 0).toNat, 2 ^ ((({ header := packetHeader 2 1 false 3 5 0 0, words := [0xFE00009000000000] } : Packet))).size, (Tests.ofAll (fun h => awake (rouse ({ Tests.st with streams := [(streamKey 1 5, { rxPackets := [({ header := packetHeader 2 1 false 3 5 0 0, words := [0xFE00009000000000] } : Packet)] })], cfg := { routes := (List.range 12).map fun i => (i, 5) }, linked := [5], ev := { die := 1, peer := 5 } } : State) h) h) _ (by decide +kernel)), (rfl), (.inl ⟨rfl, rfl⟩), (.inr (.inr (.inl (by decide +kernel)))), by decide +kernel⟩,
    ⟨{ Tests.st with streams := [(streamKey 1 5, { rxPackets := [({ header := packetHeader 2 1 false 3 5 0 0, words := [0xFE00000100000000] } : Packet)] })], cfg := { routes := (List.range 12).map fun i => (i, 5) }, linked := [5], ev := { die := 1, peer := 5 } }, 5, ({ header := packetHeader 2 1 false 3 5 0 0, words := [0xFE00000100000000] } : Packet), ((({ Tests.st with streams := [(streamKey 1 5, { rxPackets := [({ header := packetHeader 2 1 false 3 5 0 0, words := [0xFE00000100000000] } : Packet)] })], cfg := { routes := (List.range 12).map fun i => (i, 5) }, linked := [5], ev := { die := 1, peer := 5 } } : State)).woken (({ header := packetHeader 2 1 false 3 5 0 0, words := [0xFE00000100000000] } : Packet))).modStream 1 5 (fun y => { y with rxPackets := y.rxPackets.erase (({ header := packetHeader 2 1 false 3 5 0 0, words := [0xFE00000100000000] } : Packet)) }), .peerRead, 2, (((({ header := packetHeader 2 1 false 3 5 0 0, words := [0xFE00000100000000] } : Packet))).words.getD 0 0).toNat, 2 ^ ((({ header := packetHeader 2 1 false 3 5 0 0, words := [0xFE00000100000000] } : Packet))).size, (Tests.ofAll (fun h => awake (rouse ({ Tests.st with streams := [(streamKey 1 5, { rxPackets := [({ header := packetHeader 2 1 false 3 5 0 0, words := [0xFE00000100000000] } : Packet)] })], cfg := { routes := (List.range 12).map fun i => (i, 5) }, linked := [5], ev := { die := 1, peer := 5 } } : State) h) h) _ (by decide +kernel)), (rfl), (.inl ⟨rfl, rfl⟩), (.inr (.inr (.inr (by decide +kernel)))), by decide +kernel⟩,
    ⟨{ Tests.st with streams := [(streamKey 1 5, { rxPackets := [({ header := packetHeader 2 1 false 3 5 0 0, words := [0x10100] } : Packet)] })], cfg := { routes := (List.range 12).map fun i => (i, 5) }, linked := [5], ev := { die := 1, peer := 5 } }, 5, ({ header := packetHeader 2 1 false 3 5 0 0, words := [0x10100] } : Packet), ((({ Tests.st with streams := [(streamKey 1 5, { rxPackets := [({ header := packetHeader 2 1 false 3 5 0 0, words := [0x10100] } : Packet)] })], cfg := { routes := (List.range 12).map fun i => (i, 5) }, linked := [5], ev := { die := 1, peer := 5 } } : State)).woken (({ header := packetHeader 2 1 false 3 5 0 0, words := [0x10100] } : Packet))).modStream 1 5 (fun y => { y with rxPackets := y.rxPackets.erase (({ header := packetHeader 2 1 false 3 5 0 0, words := [0x10100] } : Packet)) }), .peerRead, 2, (((({ header := packetHeader 2 1 false 3 5 0 0, words := [0x10100] } : Packet))).words.getD 0 0).toNat, 2 ^ ((({ header := packetHeader 2 1 false 3 5 0 0, words := [0x10100] } : Packet))).size, (((((({ header := packetHeader 2 1 false 3 5 0 0, words := [0x10100] } : Packet))).words.getD 0 0).toNat)) % 2 ^ 46, (Tests.ofAll (fun h => awake (rouse ({ Tests.st with streams := [(streamKey 1 5, { rxPackets := [({ header := packetHeader 2 1 false 3 5 0 0, words := [0x10100] } : Packet)] })], cfg := { routes := (List.range 12).map fun i => (i, 5) }, linked := [5], ev := { die := 1, peer := 5 } } : State) h) h) _ (by decide +kernel)), (rfl), (.inl ⟨rfl, rfl⟩), by decide +kernel⟩,
    ⟨{ Tests.st with streams := [(streamKey 1 5, { rxPackets := [({ header := packetHeader 3 1 false 3 5 0 0, words := [0x11000, 9] } : Packet)] })], cfg := { peerWindows := [(5, 0x10000, 0x1000), (5, Config.hbmBytes, 64)], routes := (List.range 12).map fun i => (i, 5) }, linked := [5], ev := { die := 1, peer := 5 } }, 5, ({ header := packetHeader 3 1 false 3 5 0 0, words := [0x11000, 9] } : Packet), ((({ Tests.st with streams := [(streamKey 1 5, { rxPackets := [({ header := packetHeader 3 1 false 3 5 0 0, words := [0x11000, 9] } : Packet)] })], cfg := { peerWindows := [(5, 0x10000, 0x1000), (5, Config.hbmBytes, 64)], routes := (List.range 12).map fun i => (i, 5) }, linked := [5], ev := { die := 1, peer := 5 } } : State)).woken (({ header := packetHeader 3 1 false 3 5 0 0, words := [0x11000, 9] } : Packet))).modStream 1 5 (fun y => { y with rxPackets := y.rxPackets.erase (({ header := packetHeader 3 1 false 3 5 0 0, words := [0x11000, 9] } : Packet)) }), .peerWrite, 3, (((({ header := packetHeader 3 1 false 3 5 0 0, words := [0x11000, 9] } : Packet))).words.getD 0 0).toNat, 2 ^ ((({ header := packetHeader 3 1 false 3 5 0 0, words := [0x11000, 9] } : Packet))).size, (((((({ header := packetHeader 3 1 false 3 5 0 0, words := [0x11000, 9] } : Packet))).words.getD 0 0).toNat)) % 2 ^ 46, (Tests.ofAll (fun h => awake (rouse ({ Tests.st with streams := [(streamKey 1 5, { rxPackets := [({ header := packetHeader 3 1 false 3 5 0 0, words := [0x11000, 9] } : Packet)] })], cfg := { peerWindows := [(5, 0x10000, 0x1000), (5, Config.hbmBytes, 64)], routes := (List.range 12).map fun i => (i, 5) }, linked := [5], ev := { die := 1, peer := 5 } } : State) h) h) _ (by decide +kernel)), (rfl), (.inr (.inl ⟨rfl, rfl⟩)), by decide +kernel⟩,
    ⟨{ Tests.st with streams := [(streamKey 1 5, { rxPackets := [({ header := packetHeader 2 1 false 3 5 0 0, words := [0xC000000000] } : Packet)] })], cfg := { peerWindows := [(5, 0x10000, 0x1000), (5, Config.hbmBytes, 64)], routes := (List.range 12).map fun i => (i, 5) }, linked := [5], ev := { die := 1, peer := 5 } }, 5, ({ header := packetHeader 2 1 false 3 5 0 0, words := [0xC000000000] } : Packet), ((({ Tests.st with streams := [(streamKey 1 5, { rxPackets := [({ header := packetHeader 2 1 false 3 5 0 0, words := [0xC000000000] } : Packet)] })], cfg := { peerWindows := [(5, 0x10000, 0x1000), (5, Config.hbmBytes, 64)], routes := (List.range 12).map fun i => (i, 5) }, linked := [5], ev := { die := 1, peer := 5 } } : State)).woken (({ header := packetHeader 2 1 false 3 5 0 0, words := [0xC000000000] } : Packet))).modStream 1 5 (fun y => { y with rxPackets := y.rxPackets.erase (({ header := packetHeader 2 1 false 3 5 0 0, words := [0xC000000000] } : Packet)) }), .peerRead, 2, (((({ header := packetHeader 2 1 false 3 5 0 0, words := [0xC000000000] } : Packet))).words.getD 0 0).toNat, 2 ^ ((({ header := packetHeader 2 1 false 3 5 0 0, words := [0xC000000000] } : Packet))).size, (((((({ header := packetHeader 2 1 false 3 5 0 0, words := [0xC000000000] } : Packet))).words.getD 0 0).toNat)) % 2 ^ 46, (Tests.ofAll (fun h => awake (rouse ({ Tests.st with streams := [(streamKey 1 5, { rxPackets := [({ header := packetHeader 2 1 false 3 5 0 0, words := [0xC000000000] } : Packet)] })], cfg := { peerWindows := [(5, 0x10000, 0x1000), (5, Config.hbmBytes, 64)], routes := (List.range 12).map fun i => (i, 5) }, linked := [5], ev := { die := 1, peer := 5 } } : State) h) h) _ (by decide +kernel)), (rfl), (.inl ⟨rfl, rfl⟩), by decide +kernel⟩⟩

/-- Hypotheses of `Obligations.LinkEvents`, its part EventPeers are met. -/
theorem witness_LinkEvents_EventPeers_3 :
    (∃ (s : State), ∃ (p : Nat), ∃ (q : Packet), ∃ (u : State), ∃ (i : Instr), ∃ (kd : Nat), ∃ (a : Nat), ∃ (n : Nat), ∃ (m : Nat), (∀ h, q.hearth? = some h → awake (rouse s h) h = true) ∧ u = (s.woken q).modStream s.ev.die p (fun y => { y with rxPackets := y.rxPackets.erase q }) ∧ (i = .peerRead ∧ kd = 2 ∨ i = .peerWrite ∧ kd = 3 ∨ i = .peerAtomic ∧ kd = 4) ∧ s.ev.peer = p ∧ (s.stream s.ev.die p).rxPackets.find? (·.kind == kd) = some q ∧ a = (q.words.getD 0 0).toNat ∧ n = 2 ^ q.size ∧ q.size ≤ 3 ∧ a / 2 ^ 56 < 0xFE ∧ a % 2 ^ 46 = m ∧ inWindows s p m n = true ∧ m + n ≤ Config.hbmBytes ∧ kd = 2 ∧ s.homeFree (m / 128) = true ∧ s.takesHost (m / 128) = true ∧ (s.home (m / 128)).dir.owner = none ∧ s.checksHold m n = true) ∧
    (∃ (s : State), ∃ (p : Nat), ∃ (q : Packet), ∃ (u : State), ∃ (i : Instr), ∃ (kd : Nat), ∃ (a : Nat), ∃ (n : Nat), ∃ (m : Nat), (∀ h, q.hearth? = some h → awake (rouse s h) h = true) ∧ u = (s.woken q).modStream s.ev.die p (fun y => { y with rxPackets := y.rxPackets.erase q }) ∧ (i = .peerRead ∧ kd = 2 ∨ i = .peerWrite ∧ kd = 3 ∨ i = .peerAtomic ∧ kd = 4) ∧ s.ev.peer = p ∧ (s.stream s.ev.die p).rxPackets.find? (·.kind == kd) = some q ∧ a = (q.words.getD 0 0).toNat ∧ n = 2 ^ q.size ∧ q.size ≤ 3 ∧ a / 2 ^ 56 < 0xFE ∧ a % 2 ^ 46 = m ∧ inWindows s p m n = true ∧ m + n ≤ Config.hbmBytes ∧ kd = 3 ∧ s.homeFree (m / 128) = true ∧ s.takesHost (m / 128) = true ∧ (s.home (m / 128)).dir.targets none = [] ∧ Memory.wf s.mem = true) ∧
    (∃ (s : State), ∃ (p : Nat), ∃ (q : Packet), ∃ (u : State), ∃ (key : Nat), (∀ h, q.hearth? = some h → awake (rouse s h) h = true) ∧ u = (s.woken q).modStream s.ev.die p (fun y => { y with rxPackets := y.rxPackets.erase q }) ∧ s.ev.peer = p ∧ (s.stream s.ev.die p).rxPackets.find? (·.kind == 5) = some q ∧ s.noneBehind = true ∧ key = transKey p q.transaction ∧ tget s.transactions key = none) ∧
    (∃ (s : State), ∃ (p : Nat), ∃ (q : Packet), ∃ (u : State), ∃ (key : Nat), ∃ (id : Nat), ∃ (r : Remote), (∀ h, q.hearth? = some h → awake (rouse s h) h = true) ∧ u = (s.woken q).modStream s.ev.die p (fun y => { y with rxPackets := y.rxPackets.erase q }) ∧ s.ev.peer = p ∧ (s.stream s.ev.die p).rxPackets.find? (·.kind == 5) = some q ∧ s.noneBehind = true ∧ key = transKey p q.transaction ∧ tget s.transactions key = some (false, id) ∧ tget s.remotes id = some r ∧ r.kind.kept = true ∧ r.parts = []) ∧
    (∃ (s : State), ∃ (p : Nat), ∃ (q : Packet), ∃ (u : State), ∃ (key : Nat), ∃ (id : Nat), ∃ (r : Remote), (∀ h, q.hearth? = some h → awake (rouse s h) h = true) ∧ u = (s.woken q).modStream s.ev.die p (fun y => { y with rxPackets := y.rxPackets.erase q }) ∧ s.ev.peer = p ∧ (s.stream s.ev.die p).rxPackets.find? (·.kind == 5) = some q ∧ s.noneBehind = true ∧ key = transKey p q.transaction ∧ tget s.transactions key = some (false, id) ∧ tget s.remotes id = some r ∧ r.kind.kept = true ∧ r.parts = []) ∧
    (∃ (s : State), ∃ (p : Nat), ∃ (q : Packet), ∃ (u : State), ∃ (key : Nat), ∃ (id : Nat), ∃ (r : Remote), (∀ h, q.hearth? = some h → awake (rouse s h) h = true) ∧ u = (s.woken q).modStream s.ev.die p (fun y => { y with rxPackets := y.rxPackets.erase q }) ∧ s.ev.peer = p ∧ (s.stream s.ev.die p).rxPackets.find? (·.kind == 5) = some q ∧ s.noneBehind = true ∧ key = transKey p q.transaction ∧ tget s.transactions key = some (false, id) ∧ tget s.remotes id = some r ∧ r.kind.kept = true ∧ r.parts = []) ∧
    (∃ (s : State), ∃ (p : Nat), ∃ (q : Packet), ∃ (u : State), ∃ (key : Nat), ∃ (id : Nat), ∃ (r : Remote), ∃ (w : Word), ∃ (ext : Bool), ∃ (part : Word × Nat), (∀ h, q.hearth? = some h → awake (rouse s h) h = true) ∧ u = (s.woken q).modStream s.ev.die p (fun y => { y with rxPackets := y.rxPackets.erase q }) ∧ s.ev.peer = p ∧ (s.stream s.ev.die p).rxPackets.find? (·.kind == 5) = some q ∧ s.noneBehind = true ∧ key = transKey p q.transaction ∧ tget s.transactions key = some (false, id) ∧ tget s.remotes id = some r ∧ r.kind = .load ∧ r.parts = [part] ∧ r.window = some (w, ext) ∧ q.op = 0 ∧ q.poison = false) ∧
    (∃ (s : State), ∃ (p : Nat), ∃ (q : Packet), ∃ (u : State), ∃ (key : Nat), ∃ (id : Nat), ∃ (m : Transit), ∃ (c : Nat), ∃ (k : Nat), (∀ h, q.hearth? = some h → awake (rouse s h) h = true) ∧ u = (s.woken q).modStream s.ev.die p (fun y => { y with rxPackets := y.rxPackets.erase q }) ∧ s.ev.peer = p ∧ (s.stream s.ev.die p).rxPackets.find? (·.kind == 5) = some q ∧ s.noneBehind = true ∧ key = transKey p q.transaction ∧ tget s.transactions key = some (true, id) ∧ tget s.transits id = some m ∧ q.op ≠ 5 ∧ m.sender = .task c k) ∧
    (∃ (s : State), ∃ (p : Nat), ∃ (q : Packet), ∃ (u : State), ∃ (key : Nat), ∃ (id : Nat), ∃ (m : Transit), ∃ (c : Nat), ∃ (k : Nat), (∀ h, q.hearth? = some h → awake (rouse s h) h = true) ∧ u = (s.woken q).modStream s.ev.die p (fun y => { y with rxPackets := y.rxPackets.erase q }) ∧ s.ev.peer = p ∧ (s.stream s.ev.die p).rxPackets.find? (·.kind == 5) = some q ∧ s.noneBehind = true ∧ key = transKey p q.transaction ∧ tget s.transactions key = some (true, id) ∧ tget s.transits id = some m ∧ q.op ≠ 5 ∧ m.sender = .task c k) ∧
    (∃ (s : State), ∃ (p : Nat), ∃ (q : Packet), ∃ (u : State), ∃ (key : Nat), ∃ (id : Nat), ∃ (m : Transit), ∃ (c : Nat), ∃ (k : Nat), (∀ h, q.hearth? = some h → awake (rouse s h) h = true) ∧ u = (s.woken q).modStream s.ev.die p (fun y => { y with rxPackets := y.rxPackets.erase q }) ∧ s.ev.peer = p ∧ (s.stream s.ev.die p).rxPackets.find? (·.kind == 5) = some q ∧ s.noneBehind = true ∧ key = transKey p q.transaction ∧ tget s.transactions key = some (true, id) ∧ tget s.transits id = some m ∧ q.op ≠ 5 ∧ m.sender = .task c k) ∧
    (∃ (s : State), ∃ (p : Nat), ∃ (q : Packet), ∃ (u : State), ∃ (key : Nat), ∃ (id : Nat), ∃ (m : Transit), (∀ h, q.hearth? = some h → awake (rouse s h) h = true) ∧ u = (s.woken q).modStream s.ev.die p (fun y => { y with rxPackets := y.rxPackets.erase q }) ∧ s.ev.peer = p ∧ (s.stream s.ev.die p).rxPackets.find? (·.kind == 5) = some q ∧ s.noneBehind = true ∧ key = transKey p q.transaction ∧ tget s.transactions key = some (true, id) ∧ tget s.transits id = some m ∧ q.op = 5 ∧ s.deaf m.msg.launch = false ∧ m.firstRefusal = none) :=
  ⟨⟨{ Tests.put 0x10100 [7, 0, 0, 0, 1] Tests.st with streams := [(streamKey 1 5, { rxPackets := [({ header := packetHeader 2 1 false 3 5 0 0, words := [0x10100] } : Packet)] })], cfg := { peerWindows := [(5, 0x10000, 0x1000), (5, Config.hbmBytes, 64)], routes := (List.range 12).map fun i => (i, 5) }, linked := [5], ev := { die := 1, peer := 5 } }, 5, ({ header := packetHeader 2 1 false 3 5 0 0, words := [0x10100] } : Packet), ((({ Tests.put 0x10100 [7, 0, 0, 0, 1] Tests.st with streams := [(streamKey 1 5, { rxPackets := [({ header := packetHeader 2 1 false 3 5 0 0, words := [0x10100] } : Packet)] })], cfg := { peerWindows := [(5, 0x10000, 0x1000), (5, Config.hbmBytes, 64)], routes := (List.range 12).map fun i => (i, 5) }, linked := [5], ev := { die := 1, peer := 5 } } : State)).woken (({ header := packetHeader 2 1 false 3 5 0 0, words := [0x10100] } : Packet))).modStream 1 5 (fun y => { y with rxPackets := y.rxPackets.erase (({ header := packetHeader 2 1 false 3 5 0 0, words := [0x10100] } : Packet)) }), .peerRead, 2, (((({ header := packetHeader 2 1 false 3 5 0 0, words := [0x10100] } : Packet))).words.getD 0 0).toNat, 2 ^ ((({ header := packetHeader 2 1 false 3 5 0 0, words := [0x10100] } : Packet))).size, (((((({ header := packetHeader 2 1 false 3 5 0 0, words := [0x10100] } : Packet))).words.getD 0 0).toNat)) % 2 ^ 46, (Tests.ofAll (fun h => awake (rouse ({ Tests.put 0x10100 [7, 0, 0, 0, 1] Tests.st with streams := [(streamKey 1 5, { rxPackets := [({ header := packetHeader 2 1 false 3 5 0 0, words := [0x10100] } : Packet)] })], cfg := { peerWindows := [(5, 0x10000, 0x1000), (5, Config.hbmBytes, 64)], routes := (List.range 12).map fun i => (i, 5) }, linked := [5], ev := { die := 1, peer := 5 } } : State) h) h) _ (by decide +kernel)), (rfl), (.inl ⟨rfl, rfl⟩), by decide +kernel⟩,
    ⟨{ Tests.put 0x10100 [7, 0, 0, 0, 1] Tests.st with streams := [(streamKey 1 5, { rxPackets := [({ header := packetHeader 3 1 false 3 5 0 0, words := [0x10FF8, 9] } : Packet)] })], cfg := { peerWindows := [(5, 0x10000, 0x1000), (5, Config.hbmBytes, 64)], routes := (List.range 12).map fun i => (i, 5) }, linked := [5], ev := { die := 1, peer := 5 } }, 5, ({ header := packetHeader 3 1 false 3 5 0 0, words := [0x10FF8, 9] } : Packet), ((({ Tests.put 0x10100 [7, 0, 0, 0, 1] Tests.st with streams := [(streamKey 1 5, { rxPackets := [({ header := packetHeader 3 1 false 3 5 0 0, words := [0x10FF8, 9] } : Packet)] })], cfg := { peerWindows := [(5, 0x10000, 0x1000), (5, Config.hbmBytes, 64)], routes := (List.range 12).map fun i => (i, 5) }, linked := [5], ev := { die := 1, peer := 5 } } : State)).woken (({ header := packetHeader 3 1 false 3 5 0 0, words := [0x10FF8, 9] } : Packet))).modStream 1 5 (fun y => { y with rxPackets := y.rxPackets.erase (({ header := packetHeader 3 1 false 3 5 0 0, words := [0x10FF8, 9] } : Packet)) }), .peerWrite, 3, (((({ header := packetHeader 3 1 false 3 5 0 0, words := [0x10FF8, 9] } : Packet))).words.getD 0 0).toNat, 2 ^ ((({ header := packetHeader 3 1 false 3 5 0 0, words := [0x10FF8, 9] } : Packet))).size, (((((({ header := packetHeader 3 1 false 3 5 0 0, words := [0x10FF8, 9] } : Packet))).words.getD 0 0).toNat)) % 2 ^ 46, (Tests.ofAll (fun h => awake (rouse ({ Tests.put 0x10100 [7, 0, 0, 0, 1] Tests.st with streams := [(streamKey 1 5, { rxPackets := [({ header := packetHeader 3 1 false 3 5 0 0, words := [0x10FF8, 9] } : Packet)] })], cfg := { peerWindows := [(5, 0x10000, 0x1000), (5, Config.hbmBytes, 64)], routes := (List.range 12).map fun i => (i, 5) }, linked := [5], ev := { die := 1, peer := 5 } } : State) h) h) _ (by decide +kernel)), (rfl), (.inr (.inl ⟨rfl, rfl⟩)), by decide +kernel⟩,
    ⟨{ Tests.st with streams := [(streamKey 1 5, { rxPackets := [({ header := packetHeader 5 1 false 0 5 0 0, words := [0x77] } : Packet)] })], cfg := { routes := (List.range 12).map fun i => (i, 5) }, linked := [5], ev := { die := 1, peer := 5 } }, 5, ({ header := packetHeader 5 1 false 0 5 0 0, words := [0x77] } : Packet), ((({ Tests.st with streams := [(streamKey 1 5, { rxPackets := [({ header := packetHeader 5 1 false 0 5 0 0, words := [0x77] } : Packet)] })], cfg := { routes := (List.range 12).map fun i => (i, 5) }, linked := [5], ev := { die := 1, peer := 5 } } : State)).woken (({ header := packetHeader 5 1 false 0 5 0 0, words := [0x77] } : Packet))).modStream 1 5 (fun y => { y with rxPackets := y.rxPackets.erase (({ header := packetHeader 5 1 false 0 5 0 0, words := [0x77] } : Packet)) }), transKey 5 ((({ header := packetHeader 5 1 false 0 5 0 0, words := [0x77] } : Packet))).transaction, (Tests.ofAll (fun h => awake (rouse ({ Tests.st with streams := [(streamKey 1 5, { rxPackets := [({ header := packetHeader 5 1 false 0 5 0 0, words := [0x77] } : Packet)] })], cfg := { routes := (List.range 12).map fun i => (i, 5) }, linked := [5], ev := { die := 1, peer := 5 } } : State) h) h) _ (by decide +kernel)), (rfl), by decide +kernel⟩,
    ⟨{ Tests.st with streams := [(streamKey 1 5, { rxPackets := [({ header := packetHeader 5 1 false 0 5 0 0, words := [0x77] } : Packet)] })], cfg := { routes := (List.range 12).map fun i => (i, 5) }, linked := [5], ev := { die := 1, peer := 5 }, transactions := [(5 * 2 ^ 16 + 5, false, 8)], remotes := [(8, ({ Tests.remote .load 0x10100 8 .sent with peer := some 5 } : Remote))] }, 5, ({ header := packetHeader 5 1 false 0 5 0 0, words := [0x77] } : Packet), ((({ Tests.st with streams := [(streamKey 1 5, { rxPackets := [({ header := packetHeader 5 1 false 0 5 0 0, words := [0x77] } : Packet)] })], cfg := { routes := (List.range 12).map fun i => (i, 5) }, linked := [5], ev := { die := 1, peer := 5 }, transactions := [(5 * 2 ^ 16 + 5, false, 8)], remotes := [(8, ({ Tests.remote .load 0x10100 8 .sent with peer := some 5 } : Remote))] } : State)).woken (({ header := packetHeader 5 1 false 0 5 0 0, words := [0x77] } : Packet))).modStream 1 5 (fun y => { y with rxPackets := y.rxPackets.erase (({ header := packetHeader 5 1 false 0 5 0 0, words := [0x77] } : Packet)) }), transKey 5 ((({ header := packetHeader 5 1 false 0 5 0 0, words := [0x77] } : Packet))).transaction, 8, ({ Tests.remote .load 0x10100 8 .sent with peer := some 5 } : Remote), (Tests.ofAll (fun h => awake (rouse ({ Tests.st with streams := [(streamKey 1 5, { rxPackets := [({ header := packetHeader 5 1 false 0 5 0 0, words := [0x77] } : Packet)] })], cfg := { routes := (List.range 12).map fun i => (i, 5) }, linked := [5], ev := { die := 1, peer := 5 }, transactions := [(5 * 2 ^ 16 + 5, false, 8)], remotes := [(8, ({ Tests.remote .load 0x10100 8 .sent with peer := some 5 } : Remote))] } : State) h) h) _ (by decide +kernel)), (rfl), by decide +kernel⟩,
    ⟨{ Tests.st with streams := [(streamKey 1 5, { rxPackets := [({ header := packetHeader 5 1 true 0 5 0 0, words := [0x77] } : Packet)] })], cfg := { routes := (List.range 12).map fun i => (i, 5) }, linked := [5], ev := { die := 1, peer := 5 }, transactions := [(5 * 2 ^ 16 + 5, false, 8)], remotes := [(8, ({ Tests.remote .load 0x10100 8 .sent with peer := some 5 } : Remote))] }, 5, ({ header := packetHeader 5 1 true 0 5 0 0, words := [0x77] } : Packet), ((({ Tests.st with streams := [(streamKey 1 5, { rxPackets := [({ header := packetHeader 5 1 true 0 5 0 0, words := [0x77] } : Packet)] })], cfg := { routes := (List.range 12).map fun i => (i, 5) }, linked := [5], ev := { die := 1, peer := 5 }, transactions := [(5 * 2 ^ 16 + 5, false, 8)], remotes := [(8, ({ Tests.remote .load 0x10100 8 .sent with peer := some 5 } : Remote))] } : State)).woken (({ header := packetHeader 5 1 true 0 5 0 0, words := [0x77] } : Packet))).modStream 1 5 (fun y => { y with rxPackets := y.rxPackets.erase (({ header := packetHeader 5 1 true 0 5 0 0, words := [0x77] } : Packet)) }), transKey 5 ((({ header := packetHeader 5 1 true 0 5 0 0, words := [0x77] } : Packet))).transaction, 8, ({ Tests.remote .load 0x10100 8 .sent with peer := some 5 } : Remote), (Tests.ofAll (fun h => awake (rouse ({ Tests.st with streams := [(streamKey 1 5, { rxPackets := [({ header := packetHeader 5 1 true 0 5 0 0, words := [0x77] } : Packet)] })], cfg := { routes := (List.range 12).map fun i => (i, 5) }, linked := [5], ev := { die := 1, peer := 5 }, transactions := [(5 * 2 ^ 16 + 5, false, 8)], remotes := [(8, ({ Tests.remote .load 0x10100 8 .sent with peer := some 5 } : Remote))] } : State) h) h) _ (by decide +kernel)), (rfl), by decide +kernel⟩,
    ⟨{ Tests.st with streams := [(streamKey 1 5, { rxPackets := [({ header := packetHeader 5 1 false 0 5 0 2, words := [0x77] } : Packet)] })], cfg := { routes := (List.range 12).map fun i => (i, 5) }, linked := [5], ev := { die := 1, peer := 5 }, transactions := [(5 * 2 ^ 16 + 5, false, 8)], remotes := [(8, ({ Tests.remote .load 0x10100 8 .sent with peer := some 5 } : Remote))] }, 5, ({ header := packetHeader 5 1 false 0 5 0 2, words := [0x77] } : Packet), ((({ Tests.st with streams := [(streamKey 1 5, { rxPackets := [({ header := packetHeader 5 1 false 0 5 0 2, words := [0x77] } : Packet)] })], cfg := { routes := (List.range 12).map fun i => (i, 5) }, linked := [5], ev := { die := 1, peer := 5 }, transactions := [(5 * 2 ^ 16 + 5, false, 8)], remotes := [(8, ({ Tests.remote .load 0x10100 8 .sent with peer := some 5 } : Remote))] } : State)).woken (({ header := packetHeader 5 1 false 0 5 0 2, words := [0x77] } : Packet))).modStream 1 5 (fun y => { y with rxPackets := y.rxPackets.erase (({ header := packetHeader 5 1 false 0 5 0 2, words := [0x77] } : Packet)) }), transKey 5 ((({ header := packetHeader 5 1 false 0 5 0 2, words := [0x77] } : Packet))).transaction, 8, ({ Tests.remote .load 0x10100 8 .sent with peer := some 5 } : Remote), (Tests.ofAll (fun h => awake (rouse ({ Tests.st with streams := [(streamKey 1 5, { rxPackets := [({ header := packetHeader 5 1 false 0 5 0 2, words := [0x77] } : Packet)] })], cfg := { routes := (List.range 12).map fun i => (i, 5) }, linked := [5], ev := { die := 1, peer := 5 }, transactions := [(5 * 2 ^ 16 + 5, false, 8)], remotes := [(8, ({ Tests.remote .load 0x10100 8 .sent with peer := some 5 } : Remote))] } : State) h) h) _ (by decide +kernel)), (rfl), by decide +kernel⟩,
    ⟨{ Tests.st with streams := [(streamKey 1 5, { rxPackets := [({ header := packetHeader 5 1 false 0 5 0 0, words := [0x77] } : Packet)] })], cfg := { routes := (List.range 12).map fun i => (i, 5) }, linked := [5], ev := { die := 1, peer := 5 }, transactions := [(5 * 2 ^ 16 + 5, false, 8)], remotes := [(8, ({ Tests.remote .load 0xFE00000100000004 4 .sent with peer := some 5, window := some (0x200000001A, false), parts := [(0, 3)], got := [7] } : Remote))] }, 5, ({ header := packetHeader 5 1 false 0 5 0 0, words := [0x77] } : Packet), ((({ Tests.st with streams := [(streamKey 1 5, { rxPackets := [({ header := packetHeader 5 1 false 0 5 0 0, words := [0x77] } : Packet)] })], cfg := { routes := (List.range 12).map fun i => (i, 5) }, linked := [5], ev := { die := 1, peer := 5 }, transactions := [(5 * 2 ^ 16 + 5, false, 8)], remotes := [(8, ({ Tests.remote .load 0xFE00000100000004 4 .sent with peer := some 5, window := some (0x200000001A, false), parts := [(0, 3)], got := [7] } : Remote))] } : State)).woken (({ header := packetHeader 5 1 false 0 5 0 0, words := [0x77] } : Packet))).modStream 1 5 (fun y => { y with rxPackets := y.rxPackets.erase (({ header := packetHeader 5 1 false 0 5 0 0, words := [0x77] } : Packet)) }), transKey 5 ((({ header := packetHeader 5 1 false 0 5 0 0, words := [0x77] } : Packet))).transaction, 8, ({ Tests.remote .load 0xFE00000100000004 4 .sent with peer := some 5, window := some (0x200000001A, false), parts := [(0, 3)], got := [7] } : Remote), 0x200000001A, false, (0, 3), (Tests.ofAll (fun h => awake (rouse ({ Tests.st with streams := [(streamKey 1 5, { rxPackets := [({ header := packetHeader 5 1 false 0 5 0 0, words := [0x77] } : Packet)] })], cfg := { routes := (List.range 12).map fun i => (i, 5) }, linked := [5], ev := { die := 1, peer := 5 }, transactions := [(5 * 2 ^ 16 + 5, false, 8)], remotes := [(8, ({ Tests.remote .load 0xFE00000100000004 4 .sent with peer := some 5, window := some (0x200000001A, false), parts := [(0, 3)], got := [7] } : Remote))] } : State) h) h) _ (by decide +kernel)), (rfl), by decide +kernel⟩,
    ⟨{ Tests.st with streams := [(streamKey 1 5, { rxPackets := [({ header := packetHeader 5 1 false 0 5 0 0, words := [0x77] } : Packet)] })], cfg := { routes := (List.range 12).map fun i => (i, 5) }, linked := [5], ev := { die := 1, peer := 5 }, transactions := [(5 * 2 ^ 16 + 5, true, 8)], transits := [(8, ({ msg := Tests.msg, sender := .task 0 1, dest := 0, leg := (.abroad 5 5) } : Transit))] }, 5, ({ header := packetHeader 5 1 false 0 5 0 0, words := [0x77] } : Packet), ((({ Tests.st with streams := [(streamKey 1 5, { rxPackets := [({ header := packetHeader 5 1 false 0 5 0 0, words := [0x77] } : Packet)] })], cfg := { routes := (List.range 12).map fun i => (i, 5) }, linked := [5], ev := { die := 1, peer := 5 }, transactions := [(5 * 2 ^ 16 + 5, true, 8)], transits := [(8, ({ msg := Tests.msg, sender := .task 0 1, dest := 0, leg := (.abroad 5 5) } : Transit))] } : State)).woken (({ header := packetHeader 5 1 false 0 5 0 0, words := [0x77] } : Packet))).modStream 1 5 (fun y => { y with rxPackets := y.rxPackets.erase (({ header := packetHeader 5 1 false 0 5 0 0, words := [0x77] } : Packet)) }), transKey 5 ((({ header := packetHeader 5 1 false 0 5 0 0, words := [0x77] } : Packet))).transaction, 8, ({ msg := Tests.msg, sender := .task 0 1, dest := 0, leg := (.abroad 5 5) } : Transit), 0, 1, (Tests.ofAll (fun h => awake (rouse ({ Tests.st with streams := [(streamKey 1 5, { rxPackets := [({ header := packetHeader 5 1 false 0 5 0 0, words := [0x77] } : Packet)] })], cfg := { routes := (List.range 12).map fun i => (i, 5) }, linked := [5], ev := { die := 1, peer := 5 }, transactions := [(5 * 2 ^ 16 + 5, true, 8)], transits := [(8, ({ msg := Tests.msg, sender := .task 0 1, dest := 0, leg := (.abroad 5 5) } : Transit))] } : State) h) h) _ (by decide +kernel)), (rfl), by decide +kernel⟩,
    ⟨{ Tests.st with streams := [(streamKey 1 5, { rxPackets := [({ header := packetHeader 5 1 false 0 5 0 2, words := [0x77] } : Packet)] })], cfg := { routes := (List.range 12).map fun i => (i, 5) }, linked := [5], ev := { die := 1, peer := 5 }, transactions := [(5 * 2 ^ 16 + 5, true, 8)], transits := [(8, ({ msg := Tests.msg, sender := .task 0 1, dest := 0, leg := (.abroad 5 5) } : Transit))] }, 5, ({ header := packetHeader 5 1 false 0 5 0 2, words := [0x77] } : Packet), ((({ Tests.st with streams := [(streamKey 1 5, { rxPackets := [({ header := packetHeader 5 1 false 0 5 0 2, words := [0x77] } : Packet)] })], cfg := { routes := (List.range 12).map fun i => (i, 5) }, linked := [5], ev := { die := 1, peer := 5 }, transactions := [(5 * 2 ^ 16 + 5, true, 8)], transits := [(8, ({ msg := Tests.msg, sender := .task 0 1, dest := 0, leg := (.abroad 5 5) } : Transit))] } : State)).woken (({ header := packetHeader 5 1 false 0 5 0 2, words := [0x77] } : Packet))).modStream 1 5 (fun y => { y with rxPackets := y.rxPackets.erase (({ header := packetHeader 5 1 false 0 5 0 2, words := [0x77] } : Packet)) }), transKey 5 ((({ header := packetHeader 5 1 false 0 5 0 2, words := [0x77] } : Packet))).transaction, 8, ({ msg := Tests.msg, sender := .task 0 1, dest := 0, leg := (.abroad 5 5) } : Transit), 0, 1, (Tests.ofAll (fun h => awake (rouse ({ Tests.st with streams := [(streamKey 1 5, { rxPackets := [({ header := packetHeader 5 1 false 0 5 0 2, words := [0x77] } : Packet)] })], cfg := { routes := (List.range 12).map fun i => (i, 5) }, linked := [5], ev := { die := 1, peer := 5 }, transactions := [(5 * 2 ^ 16 + 5, true, 8)], transits := [(8, ({ msg := Tests.msg, sender := .task 0 1, dest := 0, leg := (.abroad 5 5) } : Transit))] } : State) h) h) _ (by decide +kernel)), (rfl), by decide +kernel⟩,
    ⟨{ Tests.st with streams := [(streamKey 1 5, { rxPackets := [({ header := packetHeader 5 1 false 0 5 0 4, words := [0x77] } : Packet)] })], cfg := { routes := (List.range 12).map fun i => (i, 5) }, linked := [5], ev := { die := 1, peer := 5 }, transactions := [(5 * 2 ^ 16 + 5, true, 8)], transits := [(8, ({ msg := Tests.msg, sender := .task 0 1, dest := 0, leg := (.abroad 5 5) } : Transit))] }, 5, ({ header := packetHeader 5 1 false 0 5 0 4, words := [0x77] } : Packet), ((({ Tests.st with streams := [(streamKey 1 5, { rxPackets := [({ header := packetHeader 5 1 false 0 5 0 4, words := [0x77] } : Packet)] })], cfg := { routes := (List.range 12).map fun i => (i, 5) }, linked := [5], ev := { die := 1, peer := 5 }, transactions := [(5 * 2 ^ 16 + 5, true, 8)], transits := [(8, ({ msg := Tests.msg, sender := .task 0 1, dest := 0, leg := (.abroad 5 5) } : Transit))] } : State)).woken (({ header := packetHeader 5 1 false 0 5 0 4, words := [0x77] } : Packet))).modStream 1 5 (fun y => { y with rxPackets := y.rxPackets.erase (({ header := packetHeader 5 1 false 0 5 0 4, words := [0x77] } : Packet)) }), transKey 5 ((({ header := packetHeader 5 1 false 0 5 0 4, words := [0x77] } : Packet))).transaction, 8, ({ msg := Tests.msg, sender := .task 0 1, dest := 0, leg := (.abroad 5 5) } : Transit), 0, 1, (Tests.ofAll (fun h => awake (rouse ({ Tests.st with streams := [(streamKey 1 5, { rxPackets := [({ header := packetHeader 5 1 false 0 5 0 4, words := [0x77] } : Packet)] })], cfg := { routes := (List.range 12).map fun i => (i, 5) }, linked := [5], ev := { die := 1, peer := 5 }, transactions := [(5 * 2 ^ 16 + 5, true, 8)], transits := [(8, ({ msg := Tests.msg, sender := .task 0 1, dest := 0, leg := (.abroad 5 5) } : Transit))] } : State) h) h) _ (by decide +kernel)), (rfl), by decide +kernel⟩,
    ⟨{ Tests.st with streams := [(streamKey 1 5, { rxPackets := [({ header := packetHeader 5 1 false 0 5 0 5, words := [0x77] } : Packet)] })], cfg := { routes := (List.range 12).map fun i => (i, 5) }, linked := [5], ev := { die := 1, peer := 5 }, transactions := [(5 * 2 ^ 16 + 5, true, 8)], transits := [(8, ({ msg := Tests.msg, sender := .task 0 1, dest := 0, leg := (.abroad 5 5) } : Transit))] }, 5, ({ header := packetHeader 5 1 false 0 5 0 5, words := [0x77] } : Packet), ((({ Tests.st with streams := [(streamKey 1 5, { rxPackets := [({ header := packetHeader 5 1 false 0 5 0 5, words := [0x77] } : Packet)] })], cfg := { routes := (List.range 12).map fun i => (i, 5) }, linked := [5], ev := { die := 1, peer := 5 }, transactions := [(5 * 2 ^ 16 + 5, true, 8)], transits := [(8, ({ msg := Tests.msg, sender := .task 0 1, dest := 0, leg := (.abroad 5 5) } : Transit))] } : State)).woken (({ header := packetHeader 5 1 false 0 5 0 5, words := [0x77] } : Packet))).modStream 1 5 (fun y => { y with rxPackets := y.rxPackets.erase (({ header := packetHeader 5 1 false 0 5 0 5, words := [0x77] } : Packet)) }), transKey 5 ((({ header := packetHeader 5 1 false 0 5 0 5, words := [0x77] } : Packet))).transaction, 8, ({ msg := Tests.msg, sender := .task 0 1, dest := 0, leg := (.abroad 5 5) } : Transit), (Tests.ofAll (fun h => awake (rouse ({ Tests.st with streams := [(streamKey 1 5, { rxPackets := [({ header := packetHeader 5 1 false 0 5 0 5, words := [0x77] } : Packet)] })], cfg := { routes := (List.range 12).map fun i => (i, 5) }, linked := [5], ev := { die := 1, peer := 5 }, transactions := [(5 * 2 ^ 16 + 5, true, 8)], transits := [(8, ({ msg := Tests.msg, sender := .task 0 1, dest := 0, leg := (.abroad 5 5) } : Transit))] } : State) h) h) _ (by decide +kernel)), (rfl), by decide +kernel⟩⟩

/-- Hypotheses of `Obligations.LinkEvents`, its part EventPeerLost are met. -/
theorem witness_LinkEvents_EventPeerLost :
    (∃ (s : State), ∃ (p : Nat), (natMem s.linked p = false ∨ (∀ d, d < 4 → streamLost s (s.stream d p) = false)) ∧ s.ev.peer = p) ∧
    (∃ (s : State), ∃ (p : Nat), (natMem s.linked p = false ∨ (∀ d, d < 4 → streamLost s (s.stream d p) = false)) ∧ s.ev.peer = p) ∧
    (∃ (s : State), ∃ (p : Nat), ∃ (d : Nat), ∃ (key : Nat), ∃ (id : Nat), ∃ (r : Remote), ((∃ x, x ∈ (s.stream d p).unacked ∧ 16 ≤ x.2.2.2) ∨ ((s.stream d p).unacked ≠ [] ∧ (s.stream d p).ackedAt + 100000 ≤ s.ptp)) ∧ (∀ t, t ∈ s.transits → ∀ n, t.2.leg ≠ .waiting n) ∧ s.ev.peer = p ∧ natMem s.linked p = true ∧ p < 64 ∧ d < 4 ∧ s.transactions.filter (fun t => t.1 / 2 ^ 16 == p) = [(key, false, id)] ∧ tget s.remotes id = some r ∧ r.kind.kept = true ∧ s.noneBehind = true) ∧
    (∃ (s : State), ∃ (p : Nat), ∃ (d : Nat), ∃ (key : Nat), ∃ (id : Nat), ∃ (r : Remote), ((∃ x, x ∈ (s.stream d p).unacked ∧ 16 ≤ x.2.2.2) ∨ ((s.stream d p).unacked ≠ [] ∧ (s.stream d p).ackedAt + 100000 ≤ s.ptp)) ∧ (∀ t, t ∈ s.transits → ∀ n, t.2.leg ≠ .waiting n) ∧ s.ev.peer = p ∧ natMem s.linked p = true ∧ p < 64 ∧ d < 4 ∧ s.transactions.filter (fun t => t.1 / 2 ^ 16 == p) = [(key, false, id)] ∧ tget s.remotes id = some r ∧ r.kind.kept = true ∧ s.noneBehind = true) ∧
    (∃ (s : State), ∃ (p : Nat), (tget s.retrainAt p = none ∨ (∃ at_, tget s.retrainAt p = some at_ ∧ s.ptp < at_)) ∧ s.ev.peer = p) ∧
    (∃ (s : State), ∃ (p : Nat), (tget s.retrainAt p = none ∨ (∃ at_, tget s.retrainAt p = some at_ ∧ s.ptp < at_)) ∧ s.ev.peer = p) ∧
    (∃ (s : State), ∃ (p : Nat), ∃ (at_ : Nat), s.ev.peer = p ∧ tget s.retrainAt p = some at_ ∧ at_ ≤ s.ptp ∧ s.ev.flag = false) ∧
    (∃ (s : State), ∃ (p : Nat), ∃ (at_ : Nat), s.ev.peer = p ∧ tget s.retrainAt p = some at_ ∧ at_ ≤ s.ptp ∧ s.ev.flag = true ∧ p < 64 ∧ s.basesPlaced = true ∧ tget s.baseTx p = none) :=
  ⟨⟨{ Tests.st with  ev := { peer := 5 } }, 5, (.inl (by decide +kernel)), by decide +kernel⟩,
    ⟨{ Tests.st with cfg := { routes := (List.range 12).map fun i => (i, 5) }, linked := [5],  ev := { peer := 5 } }, 5, (.inr (by decide +kernel)), by decide +kernel⟩,
    ⟨{ Tests.la Tests.st fun l => { l with leases := [(5, { die := 2, created := 0, txs := [(0, .active, 0)] })] } with cfg := { routes := (List.range 12).map fun i => (i, 5) }, linked := [5], baseTx := [(5, 7)], streams := [(streamKey 2 5, { unacked := [(3, 9, 0, 16)], queues := [(256, [], 0)], nextTransaction := 3 })], transactions := [(5 * 2 ^ 16 + 5, false, 8), (6 * 2 ^ 16, false, 9)], remotes := [(8, ({ Tests.remote .load 0x10100 8 .sent with peer := some 5 } : Remote))], ptp17 := 17 * 100003, ev := { peer := 5 } }, 5, 2, 5 * 2 ^ 16 + 5, 8, ({ Tests.remote .load 0x10100 8 .sent with peer := some 5 } : Remote), (.inl ⟨(3, 9, 0, 16), by decide +kernel, by decide +kernel⟩), (fun t h => by cases h), by decide +kernel⟩,
    ⟨{ Tests.la Tests.st fun l => { l with leases := [(5, { die := 2, created := 0, txs := [(0, .active, 0)] })] } with cfg := { routes := (List.range 12).map fun i => (i, 5) }, linked := [5], baseTx := [(5, 7)], streams := [(streamKey 2 5, { unacked := [(3, 9, 0, 0)], ackedAt := 3, queues := [(256, [], 0)], nextTransaction := 3 })], transactions := [(5 * 2 ^ 16 + 5, false, 8), (6 * 2 ^ 16, false, 9)], remotes := [(8, ({ Tests.remote .load 0x10100 8 .sent with peer := some 5 } : Remote))], ptp17 := 17 * 100003, ev := { peer := 5 } }, 5, 2, 5 * 2 ^ 16 + 5, 8, ({ Tests.remote .load 0x10100 8 .sent with peer := some 5 } : Remote), (.inr (by decide +kernel)), (fun t h => by cases h), by decide +kernel⟩,
    ⟨{ Tests.st with  ev := { peer := 5 } }, 5, (.inl (by decide +kernel)), by decide +kernel⟩,
    ⟨{ Tests.st with cfg := { routes := [(256, 5)] }, retrainAt := [(5, 7)], ptp17 := 17 * 6, ev := { peer := 5, flag := true } }, 5, (.inr ⟨7, by decide +kernel⟩), by decide +kernel⟩,
    ⟨{ Tests.st with cfg := { routes := [(256, 5)] }, retrainAt := [(5, 7)], ptp17 := 17 * 7, ev := { peer := 5, flag := false } }, 5, 7, by decide +kernel⟩,
    ⟨{ Tests.st with cfg := { routes := [(256, 5)] }, retrainAt := [(5, 7)], ptp17 := 17 * 7, ev := { peer := 5, flag := true } }, 5, 7, by decide +kernel⟩⟩

/-- Hypotheses of `Obligations.PowerEvents`, its part EventIdle are met. -/
theorem witness_PowerEvents_EventIdle :
    (∃ (s : State), ∃ h, ∃ (i : Nat), ∃ (k : Nat), s.ev.hearth = h ∧ i < 8 ∧ (s.slotAt (8 * h + i) k).held = true) ∧
    (∃ (s : State), ∃ h, ∃ (i : Nat), ((s.core (8 * h + i)).hwq ≠ [] ∨ (s.core (8 * h + i)).ring ≠ [] ∨ (s.core (8 * h + i)).commands ≠ [] ∨ (s.core (8 * h + i)).lanes ≠ []) ∧ s.ev.hearth = h ∧ i < 8) ∧
    (∃ (s : State), ∃ h, ∃ (i : Nat), ((s.core (8 * h + i)).hwq ≠ [] ∨ (s.core (8 * h + i)).ring ≠ [] ∨ (s.core (8 * h + i)).commands ≠ [] ∨ (s.core (8 * h + i)).lanes ≠ []) ∧ s.ev.hearth = h ∧ i < 8) ∧
    (∃ (s : State), ∃ h, ∃ (i : Nat), ((s.core (8 * h + i)).hwq ≠ [] ∨ (s.core (8 * h + i)).ring ≠ [] ∨ (s.core (8 * h + i)).commands ≠ [] ∨ (s.core (8 * h + i)).lanes ≠ []) ∧ s.ev.hearth = h ∧ i < 8) ∧
    (∃ (s : State), ∃ h, ∃ (i : Nat), ((s.core (8 * h + i)).hwq ≠ [] ∨ (s.core (8 * h + i)).ring ≠ [] ∨ (s.core (8 * h + i)).commands ≠ [] ∨ (s.core (8 * h + i)).lanes ≠ []) ∧ s.ev.hearth = h ∧ i < 8) ∧
    (∃ (s : State), ∃ h, (s.idleTolerance < 20 ∨ (s.hearth h).ops ≠ [] ∨ tongsBusy s h = true) ∧ s.ev.hearth = h) ∧
    (∃ (s : State), ∃ h, (s.idleTolerance < 20 ∨ (s.hearth h).ops ≠ [] ∨ tongsBusy s h = true) ∧ s.ev.hearth = h) ∧
    (∃ (s : State), ∃ h, s.ev.hearth = h ∧ hearthIdle s h = true ∧ (s.hearth h).clockGated = false ∧ 20 ≤ s.idleTolerance) ∧
    (∃ (s : State), ∃ h, ((s.hearth h).clockGated = false ∨ s.ptp < (s.hearth h).idleSince + 64000 ∨ s.idleTolerance < 2000) ∧ s.ev.hearth = h) ∧
    (∃ (s : State), ∃ h, ((s.hearth h).clockGated = false ∨ s.ptp < (s.hearth h).idleSince + 64000 ∨ s.idleTolerance < 2000) ∧ s.ev.hearth = h) ∧
    (∃ (s : State), ∃ h, ((s.hearth h).clockGated = false ∨ s.ptp < (s.hearth h).idleSince + 64000 ∨ s.idleTolerance < 2000) ∧ s.ev.hearth = h) ∧
    (∃ (s : State), ∃ h, ∃ (l : Nat), ∃ (f : Launch), (∀ x, s.launch? l = some x → x.lr.getD 16 0 ≠ 0) ∧ (∀ n, s.fire? l = some n → n < s.ptp + 64000) ∧ s.ev.hearth = h ∧ (l, f) ∈ s.launches ∧ s.hearthIn l h = true) ∧
    (∃ (s : State), ∃ h, (∀ l f n, (l, f) ∈ s.launches → s.hearthIn l h = true → s.fire? l = some n → s.ptp + 64000 ≤ n) ∧ s.ev.hearth = h ∧ (s.hearth h).clockGated = true ∧ (s.hearth h).powerGated = false ∧ (s.hearth h).idleSince + 64000 ≤ s.ptp ∧ 2000 ≤ s.idleTolerance) ∧
    (∃ (s : State), ∃ (i : Nat), s.ev.id = i ∧ i < 12 ∧ s.hbmAccess.getD i 0 + 10000 ≤ s.ptp ∧ 3000 ≤ s.idleTolerance) :=
  ⟨⟨{ Tests.st with ev := { hearth := 0 }, tolerance := [60000, 60000] }, 0, 0, 0, by decide +kernel⟩,
    ⟨{ Tests.co Tests.st fun k => { k with slots := [], hwq := [{ msg := Tests.msg, arrival := 5, since := 0 }] } with ev := { hearth := 0 }, tolerance := [60000, 60000] }, 0, 0, (.inl (by decide +kernel)), by decide +kernel⟩,
    ⟨{ Tests.co Tests.st fun k => { k with slots := [], ring := [(1, 2, 3)] } with ev := { hearth := 0 }, tolerance := [60000, 60000] }, 0, 0, (.inr (.inl (by decide +kernel))), by decide +kernel⟩,
    ⟨{ Tests.co Tests.st fun k => { k with slots := [], commands := [(5, Tests.cmd)] } with ev := { hearth := 0 }, tolerance := [60000, 60000] }, 0, 0, (.inr (.inr (.inl (by decide +kernel)))), by decide +kernel⟩,
    ⟨{ Tests.co Tests.st fun k => { k with slots := [], lanes := [{ slot := 0, groups := 1, cycles := 1 }] } with ev := { hearth := 0 }, tolerance := [60000, 60000] }, 0, 0, (.inr (.inr (.inr ((by decide +kernel))))), by decide +kernel⟩,
    ⟨{ Tests.co Tests.st fun k => { k with slots := [] } with ev := { hearth := 0 }, tolerance := [19, 60000] }, 0, (.inl (by decide +kernel)), by decide +kernel⟩,
    ⟨{ (Tests.co Tests.st fun k => { k with slots := [] }).modHearth 0 fun h => { h with ops := [{ core := 0, slot := 0, writes := [], retireAt := 9 }] } with ev := { hearth := 0 }, tolerance := [60000, 60000] }, 0, (.inr (by decide +kernel)), by decide +kernel⟩,
    ⟨{ Tests.co Tests.st fun k => { k with slots := [] } with ev := { hearth := 0 }, tolerance := [20, 60000] }, 0, by decide +kernel⟩,
    ⟨{ Tests.co Tests.st fun k => { k with slots := [] } with ev := { hearth := 0 }, tolerance := [60000, 60000] }, 0, (.inl (by decide +kernel)), by decide +kernel⟩,
    ⟨{ (Tests.co Tests.st fun k => { k with slots := [] }).modHearth 0 fun h => { h with clockGated := true, idleSince := 3 } with ev := { hearth := 0 }, tolerance := [60000, 60000], ptp17 := 1088034 }, 0, (.inr (.inl (by decide +kernel))), by decide +kernel⟩,
    ⟨{ (Tests.co Tests.st fun k => { k with slots := [] }).modHearth 0 fun h => { h with clockGated := true, idleSince := 3 } with ev := { hearth := 0 }, tolerance := [1999, 60000], ptp17 := 1088051 }, 0, (.inr (.inr (by decide +kernel))), by decide +kernel⟩,
    ⟨{ Tests.lr 16 64000 ((Tests.co Tests.st fun k => { k with slots := [] }).modHearth 0 fun h => { h with clockGated := true, idleSince := 3 }) with ev := { hearth := 0 }, tolerance := [60000, 60000], ptp17 := 1088051 }, 0, 0, Tests.l0 ({ Tests.lr 16 64000 ((Tests.co Tests.st fun k => { k with slots := [] }).modHearth 0 fun h => { h with clockGated := true, idleSince := 3 }) with ev := { hearth := 0 }, tolerance := [60000, 60000], ptp17 := 1088051 } : State), (fun x h => by obtain rfl := Tests.only (a := Tests.l0 ({ Tests.lr 16 64000 ((Tests.co Tests.st fun k => { k with slots := [] }).modHearth 0 fun h => { h with clockGated := true, idleSince := 3 }) with ev := { hearth := 0 }, tolerance := [60000, 60000], ptp17 := 1088051 } : State)) (by decide +kernel) h; decide +kernel), (fun n h => by obtain rfl := Tests.only (a := 64000) (by decide +kernel) h; decide +kernel), by decide +kernel⟩,
    ⟨{ Tests.lr 16 128003 ((Tests.co Tests.st fun k => { k with slots := [] }).modHearth 0 fun h => { h with clockGated := true, idleSince := 3 }) with ev := { hearth := 0 }, tolerance := [60000, 60000], ptp17 := 1088051 }, 0, (fun l f n a b c => by obtain rfl : l = 0 := congrArg Prod.fst (List.mem_singleton.mp a); obtain rfl := Tests.only (a := 128003) (by decide +kernel) c; decide +kernel), by decide +kernel⟩,
    ⟨{ Tests.st with ev := { id := 4 }, tolerance := [60000, 60000], ptp17 := 170051, hbmAccess := (List.replicate 12 0).set 4 3 }, 4, by decide +kernel⟩⟩

/-- Hypotheses of `Obligations.PowerEvents`, its part EventIdle are met. -/
theorem witness_PowerEvents_EventIdle_2 :
    (∃ (s : State), ∃ (i : Nat), (s.ptp < s.hbmAccess.getD i 0 + 10000 ∨ s.idleTolerance < 3000) ∧ s.ev.id = i) ∧
    (∃ (s : State), ∃ (i : Nat), (s.ptp < s.hbmAccess.getD i 0 + 10000 ∨ s.idleTolerance < 3000) ∧ s.ev.id = i) ∧
    (∃ (s : State), ∃ (d : Nat), s.ev.die = d ∧ dieUnused s d = true ∧ d < 4 ∧ 40000 ≤ s.idleTolerance) ∧
    (∃ (s : State), ∃ (d : Nat), (s.idleTolerance < 40000 ∨ (∃ r, (d, r) ∈ s.firmwareSites) ∨ (∃ l x c, (l, x) ∈ s.launches ∧ c ∈ x.cores ++ x.gangCores ∧ dieOf c = d) ∨ (∃ i, i < 3 ∧ s.selfRefresh.getD (3 * d + i) false = false)) ∧ s.ev.die = d) ∧
    (∃ (s : State), ∃ (d : Nat), (s.idleTolerance < 40000 ∨ (∃ r, (d, r) ∈ s.firmwareSites) ∨ (∃ l x c, (l, x) ∈ s.launches ∧ c ∈ x.cores ++ x.gangCores ∧ dieOf c = d) ∨ (∃ i, i < 3 ∧ s.selfRefresh.getD (3 * d + i) false = false)) ∧ s.ev.die = d) ∧
    (∃ (s : State), ∃ (d : Nat), (s.idleTolerance < 40000 ∨ (∃ r, (d, r) ∈ s.firmwareSites) ∨ (∃ l x c, (l, x) ∈ s.launches ∧ c ∈ x.cores ++ x.gangCores ∧ dieOf c = d) ∨ (∃ i, i < 3 ∧ s.selfRefresh.getD (3 * d + i) false = false)) ∧ s.ev.die = d) ∧
    (∃ (s : State), ∃ (d : Nat), (s.idleTolerance < 40000 ∨ (∃ r, (d, r) ∈ s.firmwareSites) ∨ (∃ l x c, (l, x) ∈ s.launches ∧ c ∈ x.cores ++ x.gangCores ∧ dieOf c = d) ∨ (∃ i, i < 3 ∧ s.selfRefresh.getD (3 * d + i) false = false)) ∧ s.ev.die = d) ∧
    (∃ (s : State), ∃ (p : Nat), (s.ev.bytes.length ≠ 8 ∨ portOpen s p = false) ∧ s.ev.port = p) ∧
    (∃ (s : State), ∃ (p : Nat), (s.ev.bytes.length ≠ 8 ∨ portOpen s p = false) ∧ s.ev.port = p) ∧
    (∃ (s : State), ∃ (p : Nat), s.ev.port = p ∧ s.ev.bytes.length = 8 ∧ p < 2 ∧ p < s.tolerance.length ∧ portOpen s p = true) ∧
    (∃ (s : State), ∃ (p : Nat), s.ev.port = p ∧ s.ev.bytes.length = 8 ∧ p < 2 ∧ p < s.tolerance.length ∧ portOpen s p = true) ∧
    (∃ (s : State), ∃ (p : Nat), s.ev.port = p ∧ s.ev.bytes.length = 8 ∧ p < 2 ∧ p < s.tolerance.length ∧ portOpen s p = true) ∧
    (∃ (s : State), ∃ (p : Nat), s.ev.port = p ∧ s.ev.bytes.length = 8 ∧ p < 2 ∧ p < s.tolerance.length ∧ portOpen s p = true) ∧
    (∃ (s : State), ∃ (p : Nat), s.ev.port = p ∧ s.ev.bytes.length = 8 ∧ p < 2 ∧ p < s.tolerance.length ∧ portOpen s p = true) :=
  ⟨⟨{ Tests.st with ev := { id := 4 }, tolerance := [60000, 60000], ptp17 := 170034, hbmAccess := (List.replicate 12 0).set 4 3 }, 4, (.inl (by decide +kernel)), by decide +kernel⟩,
    ⟨{ Tests.st with ev := { id := 4 }, tolerance := [2999, 60000], ptp17 := 170051, hbmAccess := (List.replicate 12 0).set 4 3 }, 4, (.inr (by decide +kernel)), by decide +kernel⟩,
    ⟨{ Tests.st with ev := { die := 1 }, tolerance := [60000, 60000], homes := [(5, { dir := { dirty := true } }), (0x3000000000 / 128, { dir := { dirty := true } })], selfRefresh := List.replicate 12 true }, 1, by decide +kernel⟩,
    ⟨{ Tests.st with ev := { die := 1 }, tolerance := [39999, 60000], selfRefresh := List.replicate 12 true }, 1, (.inl (by decide +kernel)), by decide +kernel⟩,
    ⟨{ Tests.st with ev := { die := 1 }, tolerance := [60000, 60000], firmwareSites := [(1, 16, 3)], selfRefresh := List.replicate 12 true }, 1, (.inr (.inl ⟨(16, 3), by decide +kernel⟩)), by decide +kernel⟩,
    ⟨{ Tests.st with ev := { die := 0 }, tolerance := [60000, 60000], portUp := [false, false], selfRefresh := List.replicate 12 true }, 0, (.inr (.inr (.inl ⟨0, Tests.l0 ({ Tests.st with ev := { die := 0 }, tolerance := [60000, 60000], portUp := [false, false], selfRefresh := List.replicate 12 true } : State), 0, by decide +kernel⟩))), by decide +kernel⟩,
    ⟨{ Tests.st with ev := { die := 1 }, tolerance := [60000, 60000] }, 1, (.inr (.inr (.inr ⟨2, by decide +kernel⟩))), by decide +kernel⟩,
    ⟨{ { Tests.la (Tests.st) fun l => { l with leases := [(5, { die := 0, created := 0, txs := [(0, .active, 0), (1, .parked, 0)] })], linkSets := [(5, ⟨3, 9, 2⟩)] } with cfg := { routes := (List.range 12).map fun i => (i, 5) }, linked := [5], ev := { launch := 0, peer := 5 } }.modHearth 3 fun h => { h with clockGated := true, powerGated := true } with ev := { port := 0, bytes := leBytes 5 7 }, tolerance := [60000, 60000], selfRefresh := List.replicate 12 true, powerParked := [true, false, true, true] }, 0, (.inl (by decide +kernel)), by decide +kernel⟩,
    ⟨{ { Tests.la (Tests.st) fun l => { l with leases := [(5, { die := 0, created := 0, txs := [(0, .active, 0), (1, .parked, 0)] })], linkSets := [(5, ⟨3, 9, 2⟩)] } with cfg := { routes := (List.range 12).map fun i => (i, 5) }, linked := [5], ev := { launch := 0, peer := 5 } }.modHearth 3 fun h => { h with clockGated := true, powerGated := true } with ev := { port := 0, bytes := leBytes 5 8 }, tolerance := [60000, 60000], selfRefresh := List.replicate 12 true, powerParked := [true, false, true, true], portUp := [false, true] }, 0, (.inr (by decide +kernel)), by decide +kernel⟩,
    ⟨{ { Tests.la (Tests.st) fun l => { l with leases := [(5, { die := 0, created := 0, txs := [(0, .active, 0), (1, .parked, 0)] })], linkSets := [(5, ⟨3, 9, 2⟩)] } with cfg := { routes := (List.range 12).map fun i => (i, 5) }, linked := [5], ev := { launch := 0, peer := 5 } }.modHearth 3 fun h => { h with clockGated := true, powerGated := true } with ev := { port := 0, bytes := leBytes (10 + 2 ^ 32) 8 }, tolerance := [60000, 60000], selfRefresh := List.replicate 12 true, powerParked := [true, false, true, true] }, 0, by decide +kernel⟩,
    ⟨{ { Tests.la (Tests.st) fun l => { l with leases := [(5, { die := 0, created := 0, txs := [(0, .active, 0), (1, .parked, 0)] })], linkSets := [(5, ⟨3, 9, 2⟩)] } with cfg := { routes := (List.range 12).map fun i => (i, 5) }, linked := [5], ev := { launch := 0, peer := 5 } }.modHearth 3 fun h => { h with clockGated := true, powerGated := true } with ev := { port := 0, bytes := leBytes (1000 + 2 ^ 32) 8 }, tolerance := [60000, 60000], selfRefresh := List.replicate 12 true, powerParked := [true, false, true, true] }, 0, by decide +kernel⟩,
    ⟨{ { Tests.la (Tests.st) fun l => { l with leases := [(5, { die := 0, created := 0, txs := [(0, .active, 0), (1, .parked, 0)] })], linkSets := [(5, ⟨3, 9, 2⟩)] } with cfg := { routes := (List.range 12).map fun i => (i, 5) }, linked := [5], ev := { launch := 0, peer := 5 } }.modHearth 3 fun h => { h with clockGated := true, powerGated := true } with ev := { port := 0, bytes := leBytes (2399 + 2 ^ 32) 8 }, tolerance := [60000, 60000], selfRefresh := List.replicate 12 true, powerParked := [true, false, true, true] }, 0, by decide +kernel⟩,
    ⟨{ { Tests.la (Tests.st) fun l => { l with leases := [(5, { die := 0, created := 0, txs := [(0, .active, 0), (1, .parked, 0)] })], linkSets := [(5, ⟨3, 9, 2⟩)] } with cfg := { routes := (List.range 12).map fun i => (i, 5) }, linked := [5], ev := { launch := 0, peer := 5 } }.modHearth 3 fun h => { h with clockGated := true, powerGated := true } with ev := { port := 0, bytes := leBytes (2500 + 2 ^ 32) 8 }, tolerance := [60000, 60000], selfRefresh := List.replicate 12 true, powerParked := [true, false, true, true] }, 0, by decide +kernel⟩,
    ⟨{ { Tests.la (Tests.st) fun l => { l with leases := [(5, { die := 0, created := 0, txs := [(0, .active, 0), (1, .parked, 0)] })], linkSets := [(5, ⟨3, 9, 2⟩)] } with cfg := { routes := (List.range 12).map fun i => (i, 5) }, linked := [5], ev := { launch := 0, peer := 5 } }.modHearth 3 fun h => { h with clockGated := true, powerGated := true } with ev := { port := 0, bytes := leBytes (3500 + 2 ^ 32) 8 }, tolerance := [60000, 60000], selfRefresh := List.replicate 12 true, powerParked := [true, false, true, true] }, 0, by decide +kernel⟩⟩

/-- Hypotheses of `Obligations.PowerEvents`, its part EventIdle are met. -/
theorem witness_PowerEvents_EventIdle_3 :
    (∃ (s : State), ∃ (p : Nat), s.ev.port = p ∧ s.ev.bytes.length = 8 ∧ p < 2 ∧ p < s.tolerance.length ∧ portOpen s p = true) ∧
    (∃ (s : State), ∃ (a : Nat), ∃ (b : Nat), a = (if s.portUp.getD 0 false then s.tolerance.getD 0 0 else 0xFFFFFFFF) ∧ b = (if s.portUp.getD 1 false then s.tolerance.getD 1 0 else 0xFFFFFFFF)) :=
  ⟨⟨{ { Tests.la (Tests.st) fun l => { l with leases := [(5, { die := 0, created := 0, txs := [(0, .active, 0), (1, .parked, 0)] })], linkSets := [(5, ⟨3, 9, 2⟩)] } with cfg := { routes := (List.range 12).map fun i => (i, 5) }, linked := [5], ev := { launch := 0, peer := 5 } }.modHearth 3 fun h => { h with clockGated := true, powerGated := true } with ev := { port := 0, bytes := leBytes (50000 + 2 ^ 32) 8 }, tolerance := [60000, 60000], selfRefresh := List.replicate 12 true, powerParked := [true, false, true, true] }, 0, by decide +kernel⟩,
    ⟨{ Tests.st with portUp := [false, true], tolerance := [5, 9] }, 0xFFFFFFFF, 9, by decide +kernel⟩⟩

/-- Hypotheses of `Obligations.PowerEvents`, its part EventHeat are met. -/
theorem witness_PowerEvents_EventHeat :
    (∃ (s : State), ∃ (h : Nat), ∃ (d : Nat), s.ev.hearth = h ∧ h < 1024 ∧ h / 256 = d ∧ d < s.halved.length ∧ d < s.freeTokens.length ∧ d < s.heatParked.length ∧ s.hearths.Pairwise (fun a b => a.1 < b.1)) ∧
    (∃ (s : State), ∃ (h : Nat), ∃ (d : Nat), s.ev.hearth = h ∧ h < 1024 ∧ h / 256 = d ∧ d < s.halved.length ∧ d < s.freeTokens.length ∧ d < s.heatParked.length ∧ s.hearths.Pairwise (fun a b => a.1 < b.1)) ∧
    (∃ (s : State), ∃ (h : Nat), ∃ (d : Nat), s.ev.hearth = h ∧ h < 1024 ∧ h / 256 = d ∧ d < s.halved.length ∧ d < s.freeTokens.length ∧ d < s.heatParked.length ∧ s.hearths.Pairwise (fun a b => a.1 < b.1)) ∧
    (∃ (s : State), ∃ (h : Nat), ∃ (d : Nat), s.ev.hearth = h ∧ h < 1024 ∧ h / 256 = d ∧ d < s.halved.length ∧ d < s.freeTokens.length ∧ d < s.heatParked.length ∧ s.hearths.Pairwise (fun a b => a.1 < b.1)) ∧
    (∃ (s : State), ∃ (h : Nat), ∃ (d : Nat), s.ev.hearth = h ∧ h < 1024 ∧ h / 256 = d ∧ d < s.halved.length ∧ d < s.freeTokens.length ∧ d < s.heatParked.length ∧ s.hearths.Pairwise (fun a b => a.1 < b.1)) ∧
    (∃ (s : State), ∃ (h : Nat), ∃ (d : Nat), s.ev.hearth = h ∧ h < 1024 ∧ h / 256 = d ∧ d < s.halved.length ∧ d < s.freeTokens.length ∧ d < s.heatParked.length ∧ s.hearths.Pairwise (fun a b => a.1 < b.1)) ∧
    (∃ (s : State), ∃ (h : Nat), ∃ (d : Nat), s.ev.hearth = h ∧ h < 1024 ∧ h / 256 = d ∧ d < s.halved.length ∧ d < s.freeTokens.length ∧ d < s.heatParked.length ∧ s.hearths.Pairwise (fun a b => a.1 < b.1)) ∧
    (∃ (s : State), ∃ (d : Nat), ∃ (n : Nat), s.ev.die = d ∧ d < 4 ∧ d < s.tokens.length ∧ s.ev.n = n) ∧
    (∃ (s : State), ∃ (d : Nat), ∃ (n : Nat), s.ev.die = d ∧ d < 4 ∧ d < s.tokens.length ∧ s.ev.n = n) ∧
    (∃ (s : State), ∃ (d : Nat), ∃ (n : Nat), s.ev.die = d ∧ d < 4 ∧ d < s.tokens.length ∧ s.ev.n = n) ∧
    (∃ (s : State), s.holdover = true) ∧
    (∃ (s : State), hasSource s = false) ∧
    (∃ (s : State), hasSource s = true ∧ s.holdover = false) ∧
    (∃ (s : State), s.holdover = false) :=
  ⟨⟨{ Tests.st.modHearth 3 fun h => { h with token := true } with ev := { hearth := 0, int := 841 } }, 0, 0, by decide +kernel⟩,
    ⟨{ Tests.st with ev := { hearth := 0, int := 840 } }, 0, 0, by decide +kernel⟩,
    ⟨{ Tests.st.modHearth 300 fun h => { h with temp := 900 } with ev := { hearth := 0, int := 799 }, halved := [true, false, true, false] }, 0, 0, by decide +kernel⟩,
    ⟨{ Tests.st.modHearth 31 fun h => { h with temp := 800 } with ev := { hearth := 0, int := 799 }, halved := [true, false, true, false] }, 0, 0, by decide +kernel⟩,
    ⟨{ Tests.st with ev := { hearth := 0, int := 800 }, halved := [true, false, true, false] }, 0, 0, by decide +kernel⟩,
    ⟨{ Tests.st with ev := { hearth := 0, int := 919 } }, 0, 0, by decide +kernel⟩,
    ⟨{ Tests.home Tests.st with ev := { hearth := 0, int := 920 }, halved := [true, false, true, false] }, 0, 0, by decide +kernel⟩,
    ⟨{ Tests.st with ev := { die := 1, n := 9 } }, 1, 9, by decide +kernel⟩,
    ⟨{ Tests.st with ev := { die := 1, n := 99 }, tokens := [64, 7, 64, 64] }, 1, 99, by decide +kernel⟩,
    ⟨{ Tests.st with ev := { die := 1, flag := true }, tokens := [64, 7, 64, 64] }, 1, 0, by decide +kernel⟩,
    ⟨{ Tests.st with holdover := true }, by decide +kernel⟩,
    ⟨{ Tests.st with cfg := { timeFromPeer := some 5 } }, by decide +kernel⟩,
    ⟨{ Tests.st with cfg := { port0 := some .pcie }, portUp := [true, false], slew := 40, slewCycles := 7, ptp17 := 99, ev := { int := -30 } }, by decide +kernel⟩,
    ⟨{ Tests.st with cfg := { port0 := some .pcie }, portUp := [true, false], slew := 40, slewCycles := 7, ptp17 := 99, ev := { int := -30 } }, by decide +kernel⟩⟩

/-- Hypotheses of `Obligations.PowerEvents`, its part EventHeat are met. -/
theorem witness_PowerEvents_EventHeat_2 :
    (∃ (s : State), hasSource s = true ∧ s.holdover = true) ∧
    (∃ (s : State), ∃ (p : Nat), s.ev.port = p ∧ p < 2 ∧ p < s.portUp.length) ∧
    (∃ (s : State), ∃ (p : Nat), s.ev.port = p ∧ p < 2 ∧ p < s.portUp.length) ∧
    (∃ (s : State), ∃ (p : Nat), s.ev.port = p ∧ p < 2 ∧ p < s.portUp.length) ∧
    (∃ (s : State), ∃ (p : Nat), s.ev.port = p ∧ p < 2 ∧ p < s.portUp.length) ∧
    (∃ (s : State), ∃ (p : Nat), s.ev.port = p ∧ p < 2 ∧ p < s.portUp.length) ∧
    (∃ (s : State), ∃ (p : Nat), s.ev.port = p ∧ p < 2 ∧ p < s.portUp.length) ∧
    (∃ (s : State), ∃ (p : Nat), s.ev.port = p ∧ p < 2 ∧ p < s.portUp.length) ∧
    (∃ (s : State), ∃ (p : Nat), s.ev.port = p ∧ p < 2 ∧ p < s.portUp.length) ∧
    (∃ (s : State), ∃ (b : List Bool), b = s.portUp) :=
  ⟨⟨{ Tests.st with cfg := { timeFromPeer := some 5 }, linked := [5], holdover := true, ptp17 := 99, ev := { int := -30 } }, by decide +kernel⟩,
    ⟨{ Tests.st with ev := { port := 0 } }, 0, by decide +kernel⟩,
    ⟨{ Tests.st with ev := { port := 1 } }, 1, by decide +kernel⟩,
    ⟨{ Tests.st with cfg := { timeFromPeer := some 5 }, ev := { port := 0 } }, 0, by decide +kernel⟩,
    ⟨{ Tests.st with cfg := { timeFromPeer := some 5 }, ev := { port := 1 } }, 1, by decide +kernel⟩,
    ⟨{ Tests.st with cfg := { port0 := some .pcie }, portUp := [true, false], ev := { port := 0 } }, 0, by decide +kernel⟩,
    ⟨{ Tests.st with cfg := { port0 := some .pcie }, portUp := [true, false], ev := { port := 1 } }, 1, by decide +kernel⟩,
    ⟨{ Tests.st with cfg := { port0 := some .cxl }, portUp := [false, true], holdover := true, ev := { port := 0 } }, 0, by decide +kernel⟩,
    ⟨{ Tests.st with cfg := { port0 := some .cxl }, portUp := [false, true], holdover := true, ev := { port := 1 } }, 1, by decide +kernel⟩,
    ⟨Tests.st, [true, true], by decide +kernel⟩⟩

/-- Hypotheses of `Obligations.PowerEvents`, its part EventErrors are met. -/
theorem witness_PowerEvents_EventErrors :
    (∃ (s : State), ∃ (id : Nat), s.ev.id = id) ∧
    (∃ (s : State), ∃ (id : Nat), (s.ev.n = 0 ∨ s.ev.n = 2) ∧ s.ev.id = id ∧ s.ev.flag = true) ∧
    (∃ (s : State), ∃ (id : Nat), (s.ev.n = 0 ∨ s.ev.n = 2) ∧ s.ev.id = id ∧ s.ev.flag = true) ∧
    (∃ (s : State), ∃ (id : Nat), ∃ (h : Nat), ∃ (unit : Nat), (s.ev.n = 0 ∨ s.ev.n = 3) ∧ s.ev.id = id ∧ s.ev.flag = false ∧ sramUnit s.ev = (h, unit)) ∧
    (∃ (s : State), ∃ (id : Nat), ∃ (h : Nat), ∃ (unit : Nat), (s.ev.n = 0 ∨ s.ev.n = 3) ∧ s.ev.id = id ∧ s.ev.flag = false ∧ sramUnit s.ev = (h, unit)) ∧
    (∃ (s : State), ∃ (id : Nat), s.ev.id = id ∧ s.ev.queue = 1) ∧
    (∃ (s : State), ∃ (id : Nat), s.ev.id = id ∧ s.ev.queue = 2) ∧
    (∃ (s : State), ∃ (id : Nat), ∃ (h : Nat), ∃ (unit : Nat), ∃ (off : Nat), s.ev.id = id ∧ s.ev.queue = 0 ∧ keyUnit id = some (h, unit, off)) ∧
    (∃ (s : State), ∃ (id : Nat), ∃ (c : Nat), ∃ (k : Nat), s.ev.id = id ∧ s.ev.n = 1 ∧ s.ev.core = c ∧ s.ev.slot = k ∧ s.ev.flag = false) ∧
    (∃ (s : State), ∃ (id : Nat), ∃ (c : Nat), ∃ (k : Nat), s.ev.id = id ∧ s.ev.n = 1 ∧ s.ev.core = c ∧ s.ev.slot = k ∧ s.ev.flag = true) ∧
    (∃ (s : State), ∃ (id : Nat), ∃ (c : Nat), ∃ (k : Nat), s.ev.id = id ∧ s.ev.n = 1 ∧ s.ev.core = c ∧ s.ev.slot = k ∧ s.ev.flag = true) ∧
    (∃ (s : State), ∃ (id : Nat), ∃ (c : Nat), ∃ (k : Nat), s.ev.id = id ∧ s.ev.n = 1 ∧ s.ev.core = c ∧ s.ev.slot = k ∧ s.ev.flag = true) ∧
    (∃ (s : State), ∃ (id : Nat), s.ev.id = id ∧ s.ev.n = 2 ∧ s.ev.flag = false) ∧
    (∃ (s : State), ∃ (id : Nat), s.ev.id = id ∧ s.ev.n = 2 ∧ s.ev.flag = false) :=
  ⟨⟨{ Tests.st with ev := { id := 3 } }, 3, by decide +kernel⟩,
    ⟨{ Tests.st with ev := { id := 0x10100, n := 0, flag := true }, poison := [3, 0x405] }, 0x10100, (.inl rfl), by decide +kernel⟩,
    ⟨{ Tests.st with ev := { id := 0x10100, n := 2, flag := true }, poison := [3, 0x405] }, 0x10100, (.inr rfl), by decide +kernel⟩,
    ⟨{ Tests.st with ev := { id := 0x10100, n := 0, hearth := 2 }, cfg := { correctionLimit := 1 } }, 0x10100, 2, 255, (.inl rfl), by decide +kernel⟩,
    ⟨{ Tests.st with ev := { id := 0x10100, n := 3, hearth := 2 }, cfg := { correctionLimit := 1 } }, 0x10100, 2, 255, (.inr rfl), by decide +kernel⟩,
    ⟨{ Tests.st with ev := { id := 3, queue := 1, core := 13 } }, 3, by decide +kernel⟩,
    ⟨{ Tests.st with ev := { id := 3, queue := 2, hearth := 13 } }, 3, by decide +kernel⟩,
    ⟨{ Tests.st with ev := { id := sramKey 1 5 0x100 } }, sramKey 1 5 0x100, 1, 5, 0x100, by decide +kernel⟩,
    ⟨{ Tests.st with ev := { id := 3, n := 1 } }, 3, 0, 0, by decide +kernel⟩,
    ⟨{ Tests.st with ev := { id := 3, n := 1, flag := true, queue := 0 } }, 3, 0, 0, by decide +kernel⟩,
    ⟨{ Tests.st with ev := { id := 3, n := 1, flag := true, queue := 1 } }, 3, 0, 0, by decide +kernel⟩,
    ⟨{ Tests.st with ev := { id := 3, n := 1, flag := true, queue := 2 } }, 3, 0, 0, by decide +kernel⟩,
    ⟨{ Tests.st with ev := { id := 0x5010, n := 2 }, hbmCorrections := [(5, 2)] }, 0x5010, by decide +kernel⟩,
    ⟨{ Tests.st with ev := { id := 0x5010, n := 2 }, hbmCorrections := [(5, 3)] }, 0x5010, by decide +kernel⟩⟩

/-- Hypotheses of `Obligations.PowerEvents`, its part EventErrors are met. -/
theorem witness_PowerEvents_EventErrors_2 :
    (∃ (s : State), ∃ (id : Nat), ∃ (h : Nat), ∃ (unit : Nat), s.ev.id = id ∧ s.ev.n = 3 ∧ s.ev.flag = true ∧ sramUnit s.ev = (h, unit) ∧ (s.hearth h).fenced = false) ∧
    (∃ (s : State), ∃ (id : Nat), s.ev.id = id ∧ s.ev.n = 4) ∧
    (∃ (s : State), ∃ (id : Nat), s.ev.id = id ∧ s.ev.n = 5) ∧
    (∃ (s : State), ∃ (id : Nat), s.ev.id = id ∧ 6 ≤ s.ev.n) ∧
    (∃ (s : State), ∃ (id : Nat), s.ev.id = id ∧ 6 ≤ s.ev.n) ∧
    (∃ (s : State), ∃ (id : Nat), (s.boot ≠ .running ∨ s.ptp < s.scrubAt) ∧ s.ev.id = id) ∧
    (∃ (s : State), ∃ (id : Nat), (s.boot ≠ .running ∨ s.ptp < s.scrubAt) ∧ s.ev.id = id) ∧
    (∃ (s : State), ∃ (id : Nat), s.ev.id = id ∧ s.boot = .running ∧ s.scrubAt ≤ s.ptp) ∧
    (∃ (s : State), ∃ (id : Nat), ∃ (n : Nat), s.ev.id = id ∧ id < 6 ∧ n = s.failedLanes.getD id 0 + 1) ∧
    (∃ (s : State), ∃ (id : Nat), ∃ (n : Nat), s.ev.id = id ∧ id < 6 ∧ n = s.failedLanes.getD id 0 + 1) ∧
    (∃ (s : State), ∃ (id : Nat), ∃ (n : Nat), s.ev.id = id ∧ id < 6 ∧ n = s.failedLanes.getD id 0 + 1) ∧
    (∃ (s : State), ∃ (id : Nat), ∃ (n : Nat), s.ev.id = id ∧ id < 6 ∧ n = s.failedLanes.getD id 0 + 1) :=
  ⟨⟨{ Tests.home Tests.st with ev := { n := 3, flag := true, hearth := 0 } }, 0, 0, 255, by decide +kernel⟩,
    ⟨{ Tests.co Tests.st fun k => { k with icache := [3, 7] } with ev := { n := 4, id := 7 } }, 7, by decide +kernel⟩,
    ⟨{ Tests.st with ev := { id := 0x5010, n := 5 }, badCheck := [3] }, 0x5010, by decide +kernel⟩,
    ⟨{ Tests.st with ev := { id := 5, n := 6 }, sparedChannels := [3] }, 5, by decide +kernel⟩,
    ⟨{ Tests.st with ev := { id := 5, n := 7 }, sparedChannels := [3] }, 5, by decide +kernel⟩,
    ⟨{ Tests.st with ev := { id := 5 }, boot := .recovery, ptp17 := 1700, scrubAt := 1 }, 5, (.inl (by decide +kernel)), by decide +kernel⟩,
    ⟨{ Tests.st with ev := { id := 5 }, ptp17 := 170, scrubAt := 11 }, 5, (.inr (by decide +kernel)), by decide +kernel⟩,
    ⟨{ Tests.st with ev := { id := 5 }, ptp17 := 187, scrubAt := 11 }, 5, by decide +kernel⟩,
    ⟨{ Tests.st with ev := { id := 2 }, failedLanes := [0, 0, 0, 0, 0, 0] }, 2, 0 + 1, by decide +kernel⟩,
    ⟨{ Tests.st with ev := { id := 2 }, failedLanes := [0, 0, 7, 0, 0, 0] }, 2, 7 + 1, by decide +kernel⟩,
    ⟨{ Tests.st with ev := { id := 2 }, failedLanes := [0, 0, 8, 0, 0, 0] }, 2, 8 + 1, by decide +kernel⟩,
    ⟨{ Tests.st with ev := { id := 2 }, failedLanes := [0, 0, 9, 0, 0, 0] }, 2, 9 + 1, by decide +kernel⟩⟩

/-- Hypotheses of `Obligations.ServiceEvents`, its part EventRetire are met. -/
theorem witness_ServiceEvents_EventRetire :
    (∃ (s : State), ∃ (h : Nat), ∃ (worn : Bool), (s.boot ≠ .running ∨ 1024 ≤ h ∨ (s.hearth h).fenced = true ∨ (natMem s.retiring h = false ∧ worn = false)) ∧ s.ev.hearth = h ∧ worn = (decide (s.cfg.correctionLimit ≠ 0) && decide (s.cfg.correctionLimit ≤ (s.hearth h).corrections))) ∧
    (∃ (s : State), ∃ (h : Nat), ∃ (worn : Bool), (s.boot ≠ .running ∨ 1024 ≤ h ∨ (s.hearth h).fenced = true ∨ (natMem s.retiring h = false ∧ worn = false)) ∧ s.ev.hearth = h ∧ worn = (decide (s.cfg.correctionLimit ≠ 0) && decide (s.cfg.correctionLimit ≤ (s.hearth h).corrections))) ∧
    (∃ (s : State), ∃ (h : Nat), ∃ (worn : Bool), (s.boot ≠ .running ∨ 1024 ≤ h ∨ (s.hearth h).fenced = true ∨ (natMem s.retiring h = false ∧ worn = false)) ∧ s.ev.hearth = h ∧ worn = (decide (s.cfg.correctionLimit ≠ 0) && decide (s.cfg.correctionLimit ≤ (s.hearth h).corrections))) ∧
    (∃ (s : State), ∃ (h : Nat), ∃ (worn : Bool), (s.boot ≠ .running ∨ 1024 ≤ h ∨ (s.hearth h).fenced = true ∨ (natMem s.retiring h = false ∧ worn = false)) ∧ s.ev.hearth = h ∧ worn = (decide (s.cfg.correctionLimit ≠ 0) && decide (s.cfg.correctionLimit ≤ (s.hearth h).corrections))) ∧
    (∃ (s : State), ∃ (h : Nat), ∃ (worn : Bool), (natMem s.retiring h = true ∨ worn = true) ∧ s.ev.hearth = h ∧ worn = (decide (s.cfg.correctionLimit ≠ 0) && decide (s.cfg.correctionLimit ≤ (s.hearth h).corrections)) ∧ s.boot = .running ∧ h < 1024 ∧ (s.hearth h).fenced = false ∧ takeSpare s h = none) ∧
    (∃ (s : State), ∃ (h : Nat), ∃ (worn : Bool), (natMem s.retiring h = true ∨ worn = true) ∧ s.ev.hearth = h ∧ worn = (decide (s.cfg.correctionLimit ≠ 0) && decide (s.cfg.correctionLimit ≤ (s.hearth h).corrections)) ∧ s.boot = .running ∧ h < 1024 ∧ (s.hearth h).fenced = false ∧ takeSpare s h = none) ∧
    (∃ (s : State), ∃ (h : Nat), ∃ (worn : Bool), ∃ (row : Nat), ∃ (u : State), (natMem s.retiring h = true ∨ worn = true) ∧ ((s.hearth h).dispatchStopped = false ∨ hearthSettled s h = false) ∧ s.ev.hearth = h ∧ worn = (decide (s.cfg.correctionLimit ≠ 0) && decide (s.cfg.correctionLimit ≤ (s.hearth h).corrections)) ∧ s.boot = .running ∧ h < 1024 ∧ (s.hearth h).fenced = false ∧ takeSpare s h = some (row, u)) ∧
    (∃ (s : State), ∃ (h : Nat), ∃ (worn : Bool), ∃ (row : Nat), ∃ (u : State), (natMem s.retiring h = true ∨ worn = true) ∧ ((s.hearth h).dispatchStopped = false ∨ hearthSettled s h = false) ∧ s.ev.hearth = h ∧ worn = (decide (s.cfg.correctionLimit ≠ 0) && decide (s.cfg.correctionLimit ≤ (s.hearth h).corrections)) ∧ s.boot = .running ∧ h < 1024 ∧ (s.hearth h).fenced = false ∧ takeSpare s h = some (row, u)) ∧
    (∃ (s : State), ∃ (h : Nat), ∃ (worn : Bool), ∃ (row : Nat), ∃ (u : State), (natMem s.retiring h = true ∨ worn = true) ∧ (∃ c, c / 8 = h ∧ (s.core c).resident ≠ none) ∧ s.ev.hearth = h ∧ worn = (decide (s.cfg.correctionLimit ≠ 0) && decide (s.cfg.correctionLimit ≤ (s.hearth h).corrections)) ∧ s.boot = .running ∧ h < 1024 ∧ (s.hearth h).fenced = false ∧ takeSpare s h = some (row, u) ∧ (s.hearth h).dispatchStopped = true ∧ hearthSettled s h = true) ∧
    (∃ (s : State), ∃ (h : Nat), ∃ (worn : Bool), ∃ (row : Nat), ∃ (u : State), (natMem s.retiring h = true ∨ worn = true) ∧ (∀ c, c / 8 = h → (s.core c).resident = none) ∧ s.ev.hearth = h ∧ worn = (decide (s.cfg.correctionLimit ≠ 0) && decide (s.cfg.correctionLimit ≤ (s.hearth h).corrections)) ∧ s.boot = .running ∧ h < 1024 ∧ (s.hearth h).fenced = false ∧ takeSpare s h = some (row, u) ∧ (s.hearth h).dispatchStopped = true ∧ hearthSettled s h = true ∧ (s.ev.flag = false ∨ (s.hearth h).holder = none)) ∧
    (∃ (s : State), ∃ (h : Nat), ∃ (worn : Bool), ∃ (row : Nat), ∃ (u : State), (natMem s.retiring h = true ∨ worn = true) ∧ (∀ c, c / 8 = h → (s.core c).resident = none) ∧ s.ev.hearth = h ∧ worn = (decide (s.cfg.correctionLimit ≠ 0) && decide (s.cfg.correctionLimit ≤ (s.hearth h).corrections)) ∧ s.boot = .running ∧ h < 1024 ∧ (s.hearth h).fenced = false ∧ takeSpare s h = some (row, u) ∧ (s.hearth h).dispatchStopped = true ∧ hearthSettled s h = true ∧ (s.ev.flag = false ∨ (s.hearth h).holder = none)) ∧
    (∃ (s : State), ∃ (h : Nat), ∃ (worn : Bool), ∃ (row : Nat), ∃ (u : State), (natMem s.retiring h = true ∨ worn = true) ∧ (∀ c, c / 8 = h → (s.core c).resident = none) ∧ s.ev.hearth = h ∧ worn = (decide (s.cfg.correctionLimit ≠ 0) && decide (s.cfg.correctionLimit ≤ (s.hearth h).corrections)) ∧ s.boot = .running ∧ h < 1024 ∧ (s.hearth h).fenced = false ∧ takeSpare s h = some (row, u) ∧ (s.hearth h).dispatchStopped = true ∧ hearthSettled s h = true ∧ (s.hearth h).holder = none ∧ (s.hearth h).moved = [] ∧ row < 256) ∧
    (∃ (s : State), ∃ (h : Nat), ∃ (worn : Bool), ∃ (row : Nat), ∃ (u : State), (natMem s.retiring h = true ∨ worn = true) ∧ (∀ c, c / 8 = h → (s.core c).resident = none) ∧ s.ev.hearth = h ∧ worn = (decide (s.cfg.correctionLimit ≠ 0) && decide (s.cfg.correctionLimit ≤ (s.hearth h).corrections)) ∧ s.boot = .running ∧ h < 1024 ∧ (s.hearth h).fenced = false ∧ takeSpare s h = some (row, u) ∧ (s.hearth h).dispatchStopped = true ∧ hearthSettled s h = true ∧ (s.hearth h).holder = none ∧ (s.hearth h).moved = [] ∧ row < 256) ∧
    (∃ (s : State), ∃ (h : Nat), ∃ (worn : Bool), ∃ (row : Nat), ∃ (u : State), (natMem s.retiring h = true ∨ worn = true) ∧ (∀ c, c / 8 = h → (s.core c).resident = none) ∧ s.ev.hearth = h ∧ worn = (decide (s.cfg.correctionLimit ≠ 0) && decide (s.cfg.correctionLimit ≤ (s.hearth h).corrections)) ∧ s.boot = .running ∧ h < 1024 ∧ (s.hearth h).fenced = false ∧ takeSpare s h = some (row, u) ∧ (s.hearth h).dispatchStopped = true ∧ hearthSettled s h = true ∧ (s.ev.flag = false ∨ (s.hearth h).holder = none)) :=
  ⟨⟨{ Tests.st with ev := { hearth := 0 }, boot := .recovery }, 0, (decide ((({ Tests.st with ev := { hearth := 0 }, boot := .recovery } : State)).cfg.correctionLimit ≠ 0) && decide ((({ Tests.st with ev := { hearth := 0 }, boot := .recovery } : State)).cfg.correctionLimit ≤ ((({ Tests.st with ev := { hearth := 0 }, boot := .recovery } : State)).hearth (0)).corrections)), (.inl (by decide +kernel)), by decide +kernel⟩,
    ⟨{ Tests.st with ev := { hearth := 1024 } }, 1024, (decide ((({ Tests.st with ev := { hearth := 1024 } } : State)).cfg.correctionLimit ≠ 0) && decide ((({ Tests.st with ev := { hearth := 1024 } } : State)).cfg.correctionLimit ≤ ((({ Tests.st with ev := { hearth := 1024 } } : State)).hearth (1024)).corrections)), (.inr (.inl (by decide +kernel))), by decide +kernel⟩,
    ⟨{ Tests.st.modHearth 0 fun h => { h with fenced := true } with ev := { hearth := 0 }, retiring := [0] }, 0, (decide ((({ Tests.st.modHearth 0 fun h => { h with fenced := true } with ev := { hearth := 0 }, retiring := [0] } : State)).cfg.correctionLimit ≠ 0) && decide ((({ Tests.st.modHearth 0 fun h => { h with fenced := true } with ev := { hearth := 0 }, retiring := [0] } : State)).cfg.correctionLimit ≤ ((({ Tests.st.modHearth 0 fun h => { h with fenced := true } with ev := { hearth := 0 }, retiring := [0] } : State)).hearth (0)).corrections)), (.inr (.inr (.inl (by decide +kernel)))), by decide +kernel⟩,
    ⟨{ Tests.st with ev := { hearth := 0 } }, 0, (decide ((({ Tests.st with ev := { hearth := 0 } } : State)).cfg.correctionLimit ≠ 0) && decide ((({ Tests.st with ev := { hearth := 0 } } : State)).cfg.correctionLimit ≤ ((({ Tests.st with ev := { hearth := 0 } } : State)).hearth (0)).corrections)), (.inr (.inr (.inr (by decide +kernel)))), by decide +kernel⟩,
    ⟨{ Tests.st with ev := { hearth := 0 }, usedSpares := [(0, 16, 0), (0, 16, 1), (0, 16, 2), (0, 16, 3)], retiring := [0] }, 0, (decide ((({ Tests.st with ev := { hearth := 0 }, usedSpares := [(0, 16, 0), (0, 16, 1), (0, 16, 2), (0, 16, 3)], retiring := [0] } : State)).cfg.correctionLimit ≠ 0) && decide ((({ Tests.st with ev := { hearth := 0 }, usedSpares := [(0, 16, 0), (0, 16, 1), (0, 16, 2), (0, 16, 3)], retiring := [0] } : State)).cfg.correctionLimit ≤ ((({ Tests.st with ev := { hearth := 0 }, usedSpares := [(0, 16, 0), (0, 16, 1), (0, 16, 2), (0, 16, 3)], retiring := [0] } : State)).hearth (0)).corrections)), (.inl (by decide +kernel)), by decide +kernel⟩,
    ⟨{ Tests.st.modHearth 0 fun h => { h with corrections := 2 } with ev := { hearth := 0 }, usedSpares := [(0, 16, 0), (0, 16, 1), (0, 16, 2), (0, 16, 3)], cfg := { correctionLimit := 1 } }, 0, (decide ((({ Tests.st.modHearth 0 fun h => { h with corrections := 2 } with ev := { hearth := 0 }, usedSpares := [(0, 16, 0), (0, 16, 1), (0, 16, 2), (0, 16, 3)], cfg := { correctionLimit := 1 } } : State)).cfg.correctionLimit ≠ 0) && decide ((({ Tests.st.modHearth 0 fun h => { h with corrections := 2 } with ev := { hearth := 0 }, usedSpares := [(0, 16, 0), (0, 16, 1), (0, 16, 2), (0, 16, 3)], cfg := { correctionLimit := 1 } } : State)).cfg.correctionLimit ≤ ((({ Tests.st.modHearth 0 fun h => { h with corrections := 2 } with ev := { hearth := 0 }, usedSpares := [(0, 16, 0), (0, 16, 1), (0, 16, 2), (0, 16, 3)], cfg := { correctionLimit := 1 } } : State)).hearth (0)).corrections)), (.inr (by decide +kernel)), by decide +kernel⟩,
    ⟨{ Tests.st with ev := { hearth := 0 }, retiring := [0] }, 0, (decide ((({ Tests.st with ev := { hearth := 0 }, retiring := [0] } : State)).cfg.correctionLimit ≠ 0) && decide ((({ Tests.st with ev := { hearth := 0 }, retiring := [0] } : State)).cfg.correctionLimit ≤ ((({ Tests.st with ev := { hearth := 0 }, retiring := [0] } : State)).hearth (0)).corrections)), ((takeSpare ({ Tests.st with ev := { hearth := 0 }, retiring := [0] } : State) (0)).map (·.1)).getD 0, ((takeSpare ({ Tests.st with ev := { hearth := 0 }, retiring := [0] } : State) (0)).map (·.2)).getD ({ Tests.st with ev := { hearth := 0 }, retiring := [0] } : State), (.inl (by decide +kernel)), (.inl (by decide +kernel)), by decide +kernel⟩,
    ⟨{ (Tests.st.modHearth 0 fun h => { h with corrections := 2 }).modHearth 0 fun h => { h with dispatchStopped := true } with ev := { hearth := 0 }, cfg := { correctionLimit := 1 } }, 0, (decide ((({ (Tests.st.modHearth 0 fun h => { h with corrections := 2 }).modHearth 0 fun h => { h with dispatchStopped := true } with ev := { hearth := 0 }, cfg := { correctionLimit := 1 } } : State)).cfg.correctionLimit ≠ 0) && decide ((({ (Tests.st.modHearth 0 fun h => { h with corrections := 2 }).modHearth 0 fun h => { h with dispatchStopped := true } with ev := { hearth := 0 }, cfg := { correctionLimit := 1 } } : State)).cfg.correctionLimit ≤ ((({ (Tests.st.modHearth 0 fun h => { h with corrections := 2 }).modHearth 0 fun h => { h with dispatchStopped := true } with ev := { hearth := 0 }, cfg := { correctionLimit := 1 } } : State)).hearth (0)).corrections)), ((takeSpare ({ (Tests.st.modHearth 0 fun h => { h with corrections := 2 }).modHearth 0 fun h => { h with dispatchStopped := true } with ev := { hearth := 0 }, cfg := { correctionLimit := 1 } } : State) (0)).map (·.1)).getD 0, ((takeSpare ({ (Tests.st.modHearth 0 fun h => { h with corrections := 2 }).modHearth 0 fun h => { h with dispatchStopped := true } with ev := { hearth := 0 }, cfg := { correctionLimit := 1 } } : State) (0)).map (·.2)).getD ({ (Tests.st.modHearth 0 fun h => { h with corrections := 2 }).modHearth 0 fun h => { h with dispatchStopped := true } with ev := { hearth := 0 }, cfg := { correctionLimit := 1 } } : State), (.inr (by decide +kernel)), (.inr (by decide +kernel)), by decide +kernel⟩,
    ⟨{ (Tests.co (Tests.home Tests.st) fun k => { k with slots := [], resident := some 0 }).modHearth 0 fun h => { h with dispatchStopped := true } with ev := { hearth := 0 }, retiring := [0] }, 0, (decide ((({ (Tests.co (Tests.home Tests.st) fun k => { k with slots := [], resident := some 0 }).modHearth 0 fun h => { h with dispatchStopped := true } with ev := { hearth := 0 }, retiring := [0] } : State)).cfg.correctionLimit ≠ 0) && decide ((({ (Tests.co (Tests.home Tests.st) fun k => { k with slots := [], resident := some 0 }).modHearth 0 fun h => { h with dispatchStopped := true } with ev := { hearth := 0 }, retiring := [0] } : State)).cfg.correctionLimit ≤ ((({ (Tests.co (Tests.home Tests.st) fun k => { k with slots := [], resident := some 0 }).modHearth 0 fun h => { h with dispatchStopped := true } with ev := { hearth := 0 }, retiring := [0] } : State)).hearth (0)).corrections)), ((takeSpare ({ (Tests.co (Tests.home Tests.st) fun k => { k with slots := [], resident := some 0 }).modHearth 0 fun h => { h with dispatchStopped := true } with ev := { hearth := 0 }, retiring := [0] } : State) (0)).map (·.1)).getD 0, ((takeSpare ({ (Tests.co (Tests.home Tests.st) fun k => { k with slots := [], resident := some 0 }).modHearth 0 fun h => { h with dispatchStopped := true } with ev := { hearth := 0 }, retiring := [0] } : State) (0)).map (·.2)).getD ({ (Tests.co (Tests.home Tests.st) fun k => { k with slots := [], resident := some 0 }).modHearth 0 fun h => { h with dispatchStopped := true } with ev := { hearth := 0 }, retiring := [0] } : State), (.inl (by decide +kernel)), (⟨0, by decide +kernel⟩), by decide +kernel⟩,
    ⟨{ (Tests.co (Tests.home Tests.st) fun k => { k with slots := [], resident := none }).modHearth 0 fun h => { h with dispatchStopped := true } with ev := { hearth := 0 }, retiring := [0], homes := [(0, { dir := { dirty := true } }), (5, { dir := { dirty := true } })], usedSpares := [(0, 16, 0)], firmwareSites := [(0, 16, 1), (0, 16, 2)] }, 0, (decide ((({ (Tests.co (Tests.home Tests.st) fun k => { k with slots := [], resident := none }).modHearth 0 fun h => { h with dispatchStopped := true } with ev := { hearth := 0 }, retiring := [0], homes := [(0, { dir := { dirty := true } }), (5, { dir := { dirty := true } })], usedSpares := [(0, 16, 0)], firmwareSites := [(0, 16, 1), (0, 16, 2)] } : State)).cfg.correctionLimit ≠ 0) && decide ((({ (Tests.co (Tests.home Tests.st) fun k => { k with slots := [], resident := none }).modHearth 0 fun h => { h with dispatchStopped := true } with ev := { hearth := 0 }, retiring := [0], homes := [(0, { dir := { dirty := true } }), (5, { dir := { dirty := true } })], usedSpares := [(0, 16, 0)], firmwareSites := [(0, 16, 1), (0, 16, 2)] } : State)).cfg.correctionLimit ≤ ((({ (Tests.co (Tests.home Tests.st) fun k => { k with slots := [], resident := none }).modHearth 0 fun h => { h with dispatchStopped := true } with ev := { hearth := 0 }, retiring := [0], homes := [(0, { dir := { dirty := true } }), (5, { dir := { dirty := true } })], usedSpares := [(0, 16, 0)], firmwareSites := [(0, 16, 1), (0, 16, 2)] } : State)).hearth (0)).corrections)), ((takeSpare ({ (Tests.co (Tests.home Tests.st) fun k => { k with slots := [], resident := none }).modHearth 0 fun h => { h with dispatchStopped := true } with ev := { hearth := 0 }, retiring := [0], homes := [(0, { dir := { dirty := true } }), (5, { dir := { dirty := true } })], usedSpares := [(0, 16, 0)], firmwareSites := [(0, 16, 1), (0, 16, 2)] } : State) (0)).map (·.1)).getD 0, ((takeSpare ({ (Tests.co (Tests.home Tests.st) fun k => { k with slots := [], resident := none }).modHearth 0 fun h => { h with dispatchStopped := true } with ev := { hearth := 0 }, retiring := [0], homes := [(0, { dir := { dirty := true } }), (5, { dir := { dirty := true } })], usedSpares := [(0, 16, 0)], firmwareSites := [(0, 16, 1), (0, 16, 2)] } : State) (0)).map (·.2)).getD ({ (Tests.co (Tests.home Tests.st) fun k => { k with slots := [], resident := none }).modHearth 0 fun h => { h with dispatchStopped := true } with ev := { hearth := 0 }, retiring := [0], homes := [(0, { dir := { dirty := true } }), (5, { dir := { dirty := true } })], usedSpares := [(0, 16, 0)], firmwareSites := [(0, 16, 1), (0, 16, 2)] } : State), (.inl (by decide +kernel)), (fun c h => Tests.noResident (by decide +kernel) c), by decide +kernel⟩,
    ⟨{ ((Tests.co (Tests.home Tests.st) fun k => { k with slots := [], resident := none }).modHearth 0 fun h => { h with corrections := 2 }).modHearth 0 fun h => { h with dispatchStopped := true } with ev := { hearth := 0 }, cfg := { correctionLimit := 1 } }, 0, (decide ((({ ((Tests.co (Tests.home Tests.st) fun k => { k with slots := [], resident := none }).modHearth 0 fun h => { h with corrections := 2 }).modHearth 0 fun h => { h with dispatchStopped := true } with ev := { hearth := 0 }, cfg := { correctionLimit := 1 } } : State)).cfg.correctionLimit ≠ 0) && decide ((({ ((Tests.co (Tests.home Tests.st) fun k => { k with slots := [], resident := none }).modHearth 0 fun h => { h with corrections := 2 }).modHearth 0 fun h => { h with dispatchStopped := true } with ev := { hearth := 0 }, cfg := { correctionLimit := 1 } } : State)).cfg.correctionLimit ≤ ((({ ((Tests.co (Tests.home Tests.st) fun k => { k with slots := [], resident := none }).modHearth 0 fun h => { h with corrections := 2 }).modHearth 0 fun h => { h with dispatchStopped := true } with ev := { hearth := 0 }, cfg := { correctionLimit := 1 } } : State)).hearth (0)).corrections)), ((takeSpare ({ ((Tests.co (Tests.home Tests.st) fun k => { k with slots := [], resident := none }).modHearth 0 fun h => { h with corrections := 2 }).modHearth 0 fun h => { h with dispatchStopped := true } with ev := { hearth := 0 }, cfg := { correctionLimit := 1 } } : State) (0)).map (·.1)).getD 0, ((takeSpare ({ ((Tests.co (Tests.home Tests.st) fun k => { k with slots := [], resident := none }).modHearth 0 fun h => { h with corrections := 2 }).modHearth 0 fun h => { h with dispatchStopped := true } with ev := { hearth := 0 }, cfg := { correctionLimit := 1 } } : State) (0)).map (·.2)).getD ({ ((Tests.co (Tests.home Tests.st) fun k => { k with slots := [], resident := none }).modHearth 0 fun h => { h with corrections := 2 }).modHearth 0 fun h => { h with dispatchStopped := true } with ev := { hearth := 0 }, cfg := { correctionLimit := 1 } } : State), (.inr (by decide +kernel)), (fun c h => Tests.noResident (by decide +kernel) c), by decide +kernel⟩,
    ⟨{ (Tests.co (Tests.home Tests.st) fun k => { k with slots := [], resident := none }).modHearth 0 fun h => { h with dispatchStopped := true } with ev := { hearth := 0 }, retiring := [0], homes := [(0, { dir := { dirty := true } }), (5, { dir := { dirty := true } })], usedSpares := [(0, 16, 0)], firmwareSites := [(0, 16, 1), (0, 16, 2)] }, 0, (decide ((({ (Tests.co (Tests.home Tests.st) fun k => { k with slots := [], resident := none }).modHearth 0 fun h => { h with dispatchStopped := true } with ev := { hearth := 0 }, retiring := [0], homes := [(0, { dir := { dirty := true } }), (5, { dir := { dirty := true } })], usedSpares := [(0, 16, 0)], firmwareSites := [(0, 16, 1), (0, 16, 2)] } : State)).cfg.correctionLimit ≠ 0) && decide ((({ (Tests.co (Tests.home Tests.st) fun k => { k with slots := [], resident := none }).modHearth 0 fun h => { h with dispatchStopped := true } with ev := { hearth := 0 }, retiring := [0], homes := [(0, { dir := { dirty := true } }), (5, { dir := { dirty := true } })], usedSpares := [(0, 16, 0)], firmwareSites := [(0, 16, 1), (0, 16, 2)] } : State)).cfg.correctionLimit ≤ ((({ (Tests.co (Tests.home Tests.st) fun k => { k with slots := [], resident := none }).modHearth 0 fun h => { h with dispatchStopped := true } with ev := { hearth := 0 }, retiring := [0], homes := [(0, { dir := { dirty := true } }), (5, { dir := { dirty := true } })], usedSpares := [(0, 16, 0)], firmwareSites := [(0, 16, 1), (0, 16, 2)] } : State)).hearth (0)).corrections)), ((takeSpare ({ (Tests.co (Tests.home Tests.st) fun k => { k with slots := [], resident := none }).modHearth 0 fun h => { h with dispatchStopped := true } with ev := { hearth := 0 }, retiring := [0], homes := [(0, { dir := { dirty := true } }), (5, { dir := { dirty := true } })], usedSpares := [(0, 16, 0)], firmwareSites := [(0, 16, 1), (0, 16, 2)] } : State) (0)).map (·.1)).getD 0, ((takeSpare ({ (Tests.co (Tests.home Tests.st) fun k => { k with slots := [], resident := none }).modHearth 0 fun h => { h with dispatchStopped := true } with ev := { hearth := 0 }, retiring := [0], homes := [(0, { dir := { dirty := true } }), (5, { dir := { dirty := true } })], usedSpares := [(0, 16, 0)], firmwareSites := [(0, 16, 1), (0, 16, 2)] } : State) (0)).map (·.2)).getD ({ (Tests.co (Tests.home Tests.st) fun k => { k with slots := [], resident := none }).modHearth 0 fun h => { h with dispatchStopped := true } with ev := { hearth := 0 }, retiring := [0], homes := [(0, { dir := { dirty := true } }), (5, { dir := { dirty := true } })], usedSpares := [(0, 16, 0)], firmwareSites := [(0, 16, 1), (0, 16, 2)] } : State), (.inl (by decide +kernel)), (fun c h => Tests.noResident (by decide +kernel) c), by decide +kernel⟩,
    ⟨{ ((Tests.co (Tests.home Tests.st) fun k => { k with slots := [], resident := none }).modHearth 0 fun h => { h with corrections := 2 }).modHearth 0 fun h => { h with dispatchStopped := true } with ev := { hearth := 0 }, cfg := { correctionLimit := 1 } }, 0, (decide ((({ ((Tests.co (Tests.home Tests.st) fun k => { k with slots := [], resident := none }).modHearth 0 fun h => { h with corrections := 2 }).modHearth 0 fun h => { h with dispatchStopped := true } with ev := { hearth := 0 }, cfg := { correctionLimit := 1 } } : State)).cfg.correctionLimit ≠ 0) && decide ((({ ((Tests.co (Tests.home Tests.st) fun k => { k with slots := [], resident := none }).modHearth 0 fun h => { h with corrections := 2 }).modHearth 0 fun h => { h with dispatchStopped := true } with ev := { hearth := 0 }, cfg := { correctionLimit := 1 } } : State)).cfg.correctionLimit ≤ ((({ ((Tests.co (Tests.home Tests.st) fun k => { k with slots := [], resident := none }).modHearth 0 fun h => { h with corrections := 2 }).modHearth 0 fun h => { h with dispatchStopped := true } with ev := { hearth := 0 }, cfg := { correctionLimit := 1 } } : State)).hearth (0)).corrections)), ((takeSpare ({ ((Tests.co (Tests.home Tests.st) fun k => { k with slots := [], resident := none }).modHearth 0 fun h => { h with corrections := 2 }).modHearth 0 fun h => { h with dispatchStopped := true } with ev := { hearth := 0 }, cfg := { correctionLimit := 1 } } : State) (0)).map (·.1)).getD 0, ((takeSpare ({ ((Tests.co (Tests.home Tests.st) fun k => { k with slots := [], resident := none }).modHearth 0 fun h => { h with corrections := 2 }).modHearth 0 fun h => { h with dispatchStopped := true } with ev := { hearth := 0 }, cfg := { correctionLimit := 1 } } : State) (0)).map (·.2)).getD ({ ((Tests.co (Tests.home Tests.st) fun k => { k with slots := [], resident := none }).modHearth 0 fun h => { h with corrections := 2 }).modHearth 0 fun h => { h with dispatchStopped := true } with ev := { hearth := 0 }, cfg := { correctionLimit := 1 } } : State), (.inr (by decide +kernel)), (fun c h => Tests.noResident (by decide +kernel) c), by decide +kernel⟩,
    ⟨{ ((Tests.co (Tests.home Tests.st) fun k => { k with slots := [], resident := none }).modHearth 0 fun h => { h with dispatchStopped := true }).modHearth 0 fun h => { h with holder := some 5 } with ev := { hearth := 0 }, retiring := [0] }, 0, (decide ((({ ((Tests.co (Tests.home Tests.st) fun k => { k with slots := [], resident := none }).modHearth 0 fun h => { h with dispatchStopped := true }).modHearth 0 fun h => { h with holder := some 5 } with ev := { hearth := 0 }, retiring := [0] } : State)).cfg.correctionLimit ≠ 0) && decide ((({ ((Tests.co (Tests.home Tests.st) fun k => { k with slots := [], resident := none }).modHearth 0 fun h => { h with dispatchStopped := true }).modHearth 0 fun h => { h with holder := some 5 } with ev := { hearth := 0 }, retiring := [0] } : State)).cfg.correctionLimit ≤ ((({ ((Tests.co (Tests.home Tests.st) fun k => { k with slots := [], resident := none }).modHearth 0 fun h => { h with dispatchStopped := true }).modHearth 0 fun h => { h with holder := some 5 } with ev := { hearth := 0 }, retiring := [0] } : State)).hearth (0)).corrections)), ((takeSpare ({ ((Tests.co (Tests.home Tests.st) fun k => { k with slots := [], resident := none }).modHearth 0 fun h => { h with dispatchStopped := true }).modHearth 0 fun h => { h with holder := some 5 } with ev := { hearth := 0 }, retiring := [0] } : State) (0)).map (·.1)).getD 0, ((takeSpare ({ ((Tests.co (Tests.home Tests.st) fun k => { k with slots := [], resident := none }).modHearth 0 fun h => { h with dispatchStopped := true }).modHearth 0 fun h => { h with holder := some 5 } with ev := { hearth := 0 }, retiring := [0] } : State) (0)).map (·.2)).getD ({ ((Tests.co (Tests.home Tests.st) fun k => { k with slots := [], resident := none }).modHearth 0 fun h => { h with dispatchStopped := true }).modHearth 0 fun h => { h with holder := some 5 } with ev := { hearth := 0 }, retiring := [0] } : State), (.inl (by decide +kernel)), (fun c h => Tests.noResident (by decide +kernel) c), by decide +kernel⟩⟩

/-- Hypotheses of `Obligations.ServiceEvents`, its part EventRetire are met. -/
theorem witness_ServiceEvents_EventRetire_2 :
    (∃ (s : State), ∃ (h : Nat), ∃ (worn : Bool), ∃ (row : Nat), ∃ (u : State), (natMem s.retiring h = true ∨ worn = true) ∧ (∀ c, c / 8 = h → (s.core c).resident = none) ∧ s.ev.hearth = h ∧ worn = (decide (s.cfg.correctionLimit ≠ 0) && decide (s.cfg.correctionLimit ≤ (s.hearth h).corrections)) ∧ s.boot = .running ∧ h < 1024 ∧ (s.hearth h).fenced = false ∧ takeSpare s h = some (row, u) ∧ (s.hearth h).dispatchStopped = true ∧ hearthSettled s h = true ∧ s.ev.flag = true ∧ (s.hearth h).holder ≠ none) ∧
    (∃ (s : State), ∃ (h : Nat), ∃ (worn : Bool), ∃ (row : Nat), ∃ (u : State), s.ev.hearth = h ∧ worn = (decide (s.cfg.correctionLimit ≠ 0) && decide (s.cfg.correctionLimit ≤ (s.hearth h).corrections)) ∧ takeSpare s h = some (row, u) ∧ (h / 256, 16, h % 256 / 16) ∉ s.usedSpares) ∧
    (∃ (s : State), ∃ (h : Nat), ∃ (worn : Bool), ∃ (row : Nat), ∃ (u : State), s.ev.hearth = h ∧ worn = (decide (s.cfg.correctionLimit ≠ 0) && decide (s.cfg.correctionLimit ≤ (s.hearth h).corrections)) ∧ takeSpare s h = some (row, u)) ∧
    (∃ (s : State), ∃ (h : Nat), ∃ (worn : Bool), s.ev.hearth = h ∧ worn = (decide (s.cfg.correctionLimit ≠ 0) && decide (s.cfg.correctionLimit ≤ (s.hearth h).corrections)) ∧ s.ev.bytes.length ≠ 2) ∧
    (∃ (s : State), ∃ (h : Nat), ∃ (worn : Bool), s.ev.hearth = h ∧ worn = (decide (s.cfg.correctionLimit ≠ 0) && decide (s.cfg.correctionLimit ≤ (s.hearth h).corrections)) ∧ s.ev.bytes.length = 2 ∧ s.boot ≠ .running) ∧
    (∃ (s : State), ∃ (h : Nat), ∃ (worn : Bool), ∃ (n : Nat), s.ev.hearth = h ∧ worn = (decide (s.cfg.correctionLimit ≠ 0) && decide (s.cfg.correctionLimit ≤ (s.hearth h).corrections)) ∧ s.ev.bytes.length = 2 ∧ s.boot = .running ∧ n = leNat s.ev.bytes ∧ n < 1024 ∧ (s.hearth n).fenced = false ∧ takeSpare s n = none) ∧
    (∃ (s : State), ∃ (h : Nat), ∃ (worn : Bool), ∃ (n : Nat), (1024 ≤ n ∨ (s.hearth n).fenced = true) ∧ s.ev.hearth = h ∧ worn = (decide (s.cfg.correctionLimit ≠ 0) && decide (s.cfg.correctionLimit ≤ (s.hearth h).corrections)) ∧ s.ev.bytes.length = 2 ∧ s.boot = .running ∧ n = leNat s.ev.bytes) ∧
    (∃ (s : State), ∃ (h : Nat), ∃ (worn : Bool), ∃ (n : Nat), (1024 ≤ n ∨ (s.hearth n).fenced = true) ∧ s.ev.hearth = h ∧ worn = (decide (s.cfg.correctionLimit ≠ 0) && decide (s.cfg.correctionLimit ≤ (s.hearth h).corrections)) ∧ s.ev.bytes.length = 2 ∧ s.boot = .running ∧ n = leNat s.ev.bytes) ∧
    (∃ (s : State), ∃ (h : Nat), ∃ (worn : Bool), ∃ (n : Nat), s.ev.hearth = h ∧ worn = (decide (s.cfg.correctionLimit ≠ 0) && decide (s.cfg.correctionLimit ≤ (s.hearth h).corrections)) ∧ s.ev.bytes.length = 2 ∧ s.boot = .running ∧ n = leNat s.ev.bytes ∧ n < 1024 ∧ takeSpare s n ≠ none ∧ (s.hearth n).fenced = false) :=
  ⟨⟨{ ((Tests.co (Tests.home Tests.st) fun k => { k with slots := [], resident := none }).modHearth 0 fun h => { h with dispatchStopped := true }).modHearth 0 fun h => { h with holder := some 5 } with ev := { hearth := 0, flag := true }, retiring := [0] }, 0, (decide ((({ ((Tests.co (Tests.home Tests.st) fun k => { k with slots := [], resident := none }).modHearth 0 fun h => { h with dispatchStopped := true }).modHearth 0 fun h => { h with holder := some 5 } with ev := { hearth := 0, flag := true }, retiring := [0] } : State)).cfg.correctionLimit ≠ 0) && decide ((({ ((Tests.co (Tests.home Tests.st) fun k => { k with slots := [], resident := none }).modHearth 0 fun h => { h with dispatchStopped := true }).modHearth 0 fun h => { h with holder := some 5 } with ev := { hearth := 0, flag := true }, retiring := [0] } : State)).cfg.correctionLimit ≤ ((({ ((Tests.co (Tests.home Tests.st) fun k => { k with slots := [], resident := none }).modHearth 0 fun h => { h with dispatchStopped := true }).modHearth 0 fun h => { h with holder := some 5 } with ev := { hearth := 0, flag := true }, retiring := [0] } : State)).hearth (0)).corrections)), ((takeSpare ({ ((Tests.co (Tests.home Tests.st) fun k => { k with slots := [], resident := none }).modHearth 0 fun h => { h with dispatchStopped := true }).modHearth 0 fun h => { h with holder := some 5 } with ev := { hearth := 0, flag := true }, retiring := [0] } : State) (0)).map (·.1)).getD 0, ((takeSpare ({ ((Tests.co (Tests.home Tests.st) fun k => { k with slots := [], resident := none }).modHearth 0 fun h => { h with dispatchStopped := true }).modHearth 0 fun h => { h with holder := some 5 } with ev := { hearth := 0, flag := true }, retiring := [0] } : State) (0)).map (·.2)).getD ({ ((Tests.co (Tests.home Tests.st) fun k => { k with slots := [], resident := none }).modHearth 0 fun h => { h with dispatchStopped := true }).modHearth 0 fun h => { h with holder := some 5 } with ev := { hearth := 0, flag := true }, retiring := [0] } : State), (.inl (by decide +kernel)), (fun c h => Tests.noResident (by decide +kernel) c), by decide +kernel⟩,
    ⟨{ Tests.st with ev := { hearth := 0x155 } }, 0x155, (decide ((({ Tests.st with ev := { hearth := 0x155 } } : State)).cfg.correctionLimit ≠ 0) && decide ((({ Tests.st with ev := { hearth := 0x155 } } : State)).cfg.correctionLimit ≤ ((({ Tests.st with ev := { hearth := 0x155 } } : State)).hearth (0x155)).corrections)), ((takeSpare ({ Tests.st with ev := { hearth := 0x155 } } : State) (0x155)).map (·.1)).getD 0, ((takeSpare ({ Tests.st with ev := { hearth := 0x155 } } : State) (0x155)).map (·.2)).getD ({ Tests.st with ev := { hearth := 0x155 } } : State), by decide +kernel⟩,
    ⟨{ Tests.st with ev := { hearth := 0x155 }, usedSpares := [(1, 16, 5), (1, 16, 4)] }, 0x155, (decide ((({ Tests.st with ev := { hearth := 0x155 }, usedSpares := [(1, 16, 5), (1, 16, 4)] } : State)).cfg.correctionLimit ≠ 0) && decide ((({ Tests.st with ev := { hearth := 0x155 }, usedSpares := [(1, 16, 5), (1, 16, 4)] } : State)).cfg.correctionLimit ≤ ((({ Tests.st with ev := { hearth := 0x155 }, usedSpares := [(1, 16, 5), (1, 16, 4)] } : State)).hearth (0x155)).corrections)), ((takeSpare ({ Tests.st with ev := { hearth := 0x155 }, usedSpares := [(1, 16, 5), (1, 16, 4)] } : State) (0x155)).map (·.1)).getD 0, ((takeSpare ({ Tests.st with ev := { hearth := 0x155 }, usedSpares := [(1, 16, 5), (1, 16, 4)] } : State) (0x155)).map (·.2)).getD ({ Tests.st with ev := { hearth := 0x155 }, usedSpares := [(1, 16, 5), (1, 16, 4)] } : State), by decide +kernel⟩,
    ⟨{ Tests.st with ev := { hearth := 0, bytes := [1] } }, 0, (decide ((({ Tests.st with ev := { hearth := 0, bytes := [1] } } : State)).cfg.correctionLimit ≠ 0) && decide ((({ Tests.st with ev := { hearth := 0, bytes := [1] } } : State)).cfg.correctionLimit ≤ ((({ Tests.st with ev := { hearth := 0, bytes := [1] } } : State)).hearth (0)).corrections)), by decide +kernel⟩,
    ⟨{ Tests.st with ev := { hearth := 0, bytes := [2, 0] }, boot := .recovery }, 0, (decide ((({ Tests.st with ev := { hearth := 0, bytes := [2, 0] }, boot := .recovery } : State)).cfg.correctionLimit ≠ 0) && decide ((({ Tests.st with ev := { hearth := 0, bytes := [2, 0] }, boot := .recovery } : State)).cfg.correctionLimit ≤ ((({ Tests.st with ev := { hearth := 0, bytes := [2, 0] }, boot := .recovery } : State)).hearth (0)).corrections)), by decide +kernel⟩,
    ⟨{ Tests.st with ev := { hearth := 0, bytes := [2, 0] }, usedSpares := [(0, 16, 0), (0, 16, 1), (0, 16, 2), (0, 16, 3)] }, 0, (decide ((({ Tests.st with ev := { hearth := 0, bytes := [2, 0] }, usedSpares := [(0, 16, 0), (0, 16, 1), (0, 16, 2), (0, 16, 3)] } : State)).cfg.correctionLimit ≠ 0) && decide ((({ Tests.st with ev := { hearth := 0, bytes := [2, 0] }, usedSpares := [(0, 16, 0), (0, 16, 1), (0, 16, 2), (0, 16, 3)] } : State)).cfg.correctionLimit ≤ ((({ Tests.st with ev := { hearth := 0, bytes := [2, 0] }, usedSpares := [(0, 16, 0), (0, 16, 1), (0, 16, 2), (0, 16, 3)] } : State)).hearth (0)).corrections)), 2, by decide +kernel⟩,
    ⟨{ Tests.st with ev := { hearth := 0, bytes := [0, 4] } }, 0, (decide ((({ Tests.st with ev := { hearth := 0, bytes := [0, 4] } } : State)).cfg.correctionLimit ≠ 0) && decide ((({ Tests.st with ev := { hearth := 0, bytes := [0, 4] } } : State)).cfg.correctionLimit ≤ ((({ Tests.st with ev := { hearth := 0, bytes := [0, 4] } } : State)).hearth (0)).corrections)), 0x400, (.inl (by decide +kernel)), by decide +kernel⟩,
    ⟨{ Tests.st.modHearth 2 fun h => { h with fenced := true } with ev := { hearth := 0, bytes := [2, 0] } }, 0, (decide ((({ Tests.st.modHearth 2 fun h => { h with fenced := true } with ev := { hearth := 0, bytes := [2, 0] } } : State)).cfg.correctionLimit ≠ 0) && decide ((({ Tests.st.modHearth 2 fun h => { h with fenced := true } with ev := { hearth := 0, bytes := [2, 0] } } : State)).cfg.correctionLimit ≤ ((({ Tests.st.modHearth 2 fun h => { h with fenced := true } with ev := { hearth := 0, bytes := [2, 0] } } : State)).hearth (0)).corrections)), 2, (.inr (by decide +kernel)), by decide +kernel⟩,
    ⟨{ Tests.st with ev := { hearth := 0, bytes := [2, 3] } }, 0, (decide ((({ Tests.st with ev := { hearth := 0, bytes := [2, 3] } } : State)).cfg.correctionLimit ≠ 0) && decide ((({ Tests.st with ev := { hearth := 0, bytes := [2, 3] } } : State)).cfg.correctionLimit ≤ ((({ Tests.st with ev := { hearth := 0, bytes := [2, 3] } } : State)).hearth (0)).corrections)), 0x302, by decide +kernel⟩⟩

/-- Hypotheses of `Obligations.ServiceEvents`, its part EventService are met. -/
theorem witness_ServiceEvents_EventService :
    (∃ (s : State), ∃ (b : List Byte), s.ev.bytes = b) ∧
    (∃ (s : State), ∃ (b : List Byte), s.ev.bytes = b) ∧
    (∃ (s : State), ∃ (b : List Byte), (s.nv.firmware.length < 2820 ∨ s.nv.table.image.length < 2820 ∨ s.nv.firmwareKey ≠ s.nv.keyHash ∨ s.nv.tableKey ≠ s.nv.keyHash ∨ s.nv.table.port0 = none ∨ s.nv.table.port1 = none ∨ s.nv.table.version < s.nv.fusedVersion) ∧ s.ev.bytes = b) ∧
    (∃ (s : State), ∃ (b : List Byte), (s.nv.firmware.length < 2820 ∨ s.nv.table.image.length < 2820 ∨ s.nv.firmwareKey ≠ s.nv.keyHash ∨ s.nv.tableKey ≠ s.nv.keyHash ∨ s.nv.table.port0 = none ∨ s.nv.table.port1 = none ∨ s.nv.table.version < s.nv.fusedVersion) ∧ s.ev.bytes = b) ∧
    (∃ (s : State), ∃ (b : List Byte), (s.nv.firmware.length < 2820 ∨ s.nv.table.image.length < 2820 ∨ s.nv.firmwareKey ≠ s.nv.keyHash ∨ s.nv.tableKey ≠ s.nv.keyHash ∨ s.nv.table.port0 = none ∨ s.nv.table.port1 = none ∨ s.nv.table.version < s.nv.fusedVersion) ∧ s.ev.bytes = b) ∧
    (∃ (s : State), ∃ (b : List Byte), (s.nv.firmware.length < 2820 ∨ s.nv.table.image.length < 2820 ∨ s.nv.firmwareKey ≠ s.nv.keyHash ∨ s.nv.tableKey ≠ s.nv.keyHash ∨ s.nv.table.port0 = none ∨ s.nv.table.port1 = none ∨ s.nv.table.version < s.nv.fusedVersion) ∧ s.ev.bytes = b) ∧
    (∃ (s : State), ∃ (b : List Byte), (s.nv.firmware.length < 2820 ∨ s.nv.table.image.length < 2820 ∨ s.nv.firmwareKey ≠ s.nv.keyHash ∨ s.nv.tableKey ≠ s.nv.keyHash ∨ s.nv.table.port0 = none ∨ s.nv.table.port1 = none ∨ s.nv.table.version < s.nv.fusedVersion) ∧ s.ev.bytes = b) ∧
    (∃ (s : State), ∃ (b : List Byte), (s.nv.firmware.length < 2820 ∨ s.nv.table.image.length < 2820 ∨ s.nv.firmwareKey ≠ s.nv.keyHash ∨ s.nv.tableKey ≠ s.nv.keyHash ∨ s.nv.table.port0 = none ∨ s.nv.table.port1 = none ∨ s.nv.table.version < s.nv.fusedVersion) ∧ s.ev.bytes = b) ∧
    (∃ (s : State), ∃ (b : List Byte), (s.nv.firmware.length < 2820 ∨ s.nv.table.image.length < 2820 ∨ s.nv.firmwareKey ≠ s.nv.keyHash ∨ s.nv.tableKey ≠ s.nv.keyHash ∨ s.nv.table.port0 = none ∨ s.nv.table.port1 = none ∨ s.nv.table.version < s.nv.fusedVersion) ∧ s.ev.bytes = b) ∧
    (∃ (s : State), ∃ (b : List Byte), s.ev.bytes = b ∧ 2820 ≤ s.nv.firmware.length ∧ 2820 ≤ s.nv.table.image.length ∧ s.nv.firmwareKey = s.nv.keyHash ∧ s.nv.tableKey = s.nv.keyHash ∧ s.nv.table.port0 ≠ none ∧ s.nv.table.port1 ≠ none ∧ s.nv.fusedVersion ≤ s.nv.table.version) ∧
    (∃ (s : State), ∃ (b : List Byte), s.ev.bytes = b ∧ 2820 ≤ s.nv.firmware.length ∧ 2820 ≤ s.nv.table.image.length ∧ s.nv.firmwareKey = s.nv.keyHash ∧ s.nv.tableKey = s.nv.keyHash ∧ s.nv.table.port0 ≠ none ∧ s.nv.table.port1 ≠ none ∧ s.nv.fusedVersion ≤ s.nv.table.version) ∧
    (∃ (s : State), ∃ (b : List Byte), s.ev.bytes = b ∧ s.ev.flag = true) ∧
    (∃ (s : State), ∃ (b : List Byte), s.ev.bytes = b ∧ s.ev.flag = true) ∧
    (∃ (s : State), ∃ (b : List Byte), s.ev.bytes = b ∧ s.ev.flag = true) :=
  ⟨⟨Tests.st, ((Tests.st : State)).ev.bytes, by decide +kernel⟩,
    ⟨{ Tests.st with ev := {  }, ptp17 := 153 }, (({ Tests.st with ev := {  }, ptp17 := 153 } : State)).ev.bytes, by decide +kernel⟩,
    ⟨{ Tests.st with ev := {  } }, (({ Tests.st with ev := {  } } : State)).ev.bytes, (.inl (by decide +kernel)), by decide +kernel⟩,
    ⟨{ Tests.st with ev := {  }, nv := { keyHash := [1], firmwareKey := [1], tableKey := [1], firmware := List.replicate 2820 1, fusedVersion := 4, table := { port0 := some .pcie, port1 := some .cxl, version := 5, routes := [(0, 5), (256, 5), (1, 9)], image := [1] } } }, (({ Tests.st with ev := {  }, nv := { keyHash := [1], firmwareKey := [1], tableKey := [1], firmware := List.replicate 2820 1, fusedVersion := 4, table := { port0 := some .pcie, port1 := some .cxl, version := 5, routes := [(0, 5), (256, 5), (1, 9)], image := [1] } } } : State)).ev.bytes, (.inr (.inl (by decide +kernel))), by decide +kernel⟩,
    ⟨{ Tests.st with ev := {  }, nv := { keyHash := [1], firmwareKey := [2], tableKey := [1], firmware := List.replicate 2820 1, fusedVersion := 4, table := { port0 := some .pcie, port1 := some .cxl, version := 5, routes := [(0, 5), (256, 5), (1, 9)], image := List.replicate 2820 1 } } }, (({ Tests.st with ev := {  }, nv := { keyHash := [1], firmwareKey := [2], tableKey := [1], firmware := List.replicate 2820 1, fusedVersion := 4, table := { port0 := some .pcie, port1 := some .cxl, version := 5, routes := [(0, 5), (256, 5), (1, 9)], image := List.replicate 2820 1 } } } : State)).ev.bytes, (.inr (.inr (.inl (by decide +kernel)))), by decide +kernel⟩,
    ⟨{ Tests.st with ev := {  }, nv := { keyHash := [1], firmwareKey := [1], tableKey := [2], firmware := List.replicate 2820 1, fusedVersion := 4, table := { port0 := some .pcie, port1 := some .cxl, version := 5, routes := [(0, 5), (256, 5), (1, 9)], image := List.replicate 2820 1 } } }, (({ Tests.st with ev := {  }, nv := { keyHash := [1], firmwareKey := [1], tableKey := [2], firmware := List.replicate 2820 1, fusedVersion := 4, table := { port0 := some .pcie, port1 := some .cxl, version := 5, routes := [(0, 5), (256, 5), (1, 9)], image := List.replicate 2820 1 } } } : State)).ev.bytes, (.inr (.inr (.inr (.inl (by decide +kernel))))), by decide +kernel⟩,
    ⟨{ Tests.st with ev := {  }, nv := { keyHash := [1], firmwareKey := [1], tableKey := [1], firmware := List.replicate 2820 1, fusedVersion := 4, table := { port1 := some .cxl, image := List.replicate 2820 1 } } }, (({ Tests.st with ev := {  }, nv := { keyHash := [1], firmwareKey := [1], tableKey := [1], firmware := List.replicate 2820 1, fusedVersion := 4, table := { port1 := some .cxl, image := List.replicate 2820 1 } } } : State)).ev.bytes, (.inr (.inr (.inr (.inr (.inl (by decide +kernel)))))), by decide +kernel⟩,
    ⟨{ Tests.st with ev := {  }, nv := { keyHash := [1], firmwareKey := [1], tableKey := [1], firmware := List.replicate 2820 1, fusedVersion := 4, table := { port0 := some .cxl, image := List.replicate 2820 1 } } }, (({ Tests.st with ev := {  }, nv := { keyHash := [1], firmwareKey := [1], tableKey := [1], firmware := List.replicate 2820 1, fusedVersion := 4, table := { port0 := some .cxl, image := List.replicate 2820 1 } } } : State)).ev.bytes, (.inr (.inr (.inr (.inr (.inr (.inl (by decide +kernel))))))), by decide +kernel⟩,
    ⟨{ Tests.st with ev := {  }, nv := { keyHash := [1], firmwareKey := [1], tableKey := [1], firmware := List.replicate 2820 1, fusedVersion := 6, table := { port0 := some .pcie, port1 := some .cxl, version := 5, routes := [(0, 5), (256, 5), (1, 9)], image := List.replicate 2820 1 } } }, (({ Tests.st with ev := {  }, nv := { keyHash := [1], firmwareKey := [1], tableKey := [1], firmware := List.replicate 2820 1, fusedVersion := 6, table := { port0 := some .pcie, port1 := some .cxl, version := 5, routes := [(0, 5), (256, 5), (1, 9)], image := List.replicate 2820 1 } } } : State)).ev.bytes, (.inr (.inr (.inr (.inr (.inr (.inr (by decide +kernel))))))), by decide +kernel⟩,
    ⟨{ Tests.st with ev := { bytes := [5, 70, 9], n := 77, id := 0x70000 }, nv := { keyHash := [1], firmwareKey := [1], tableKey := [1], firmware := List.replicate 2820 1, fusedVersion := 4, table := { port0 := some .pcie, port1 := some .cxl, version := 5, routes := [(0, 5), (256, 5), (1, 9)], image := List.replicate 2820 1 } } }, (({ Tests.st with ev := { bytes := [5, 70, 9], n := 77, id := 0x70000 }, nv := { keyHash := [1], firmwareKey := [1], tableKey := [1], firmware := List.replicate 2820 1, fusedVersion := 4, table := { port0 := some .pcie, port1 := some .cxl, version := 5, routes := [(0, 5), (256, 5), (1, 9)], image := List.replicate 2820 1 } } } : State)).ev.bytes, by decide +kernel⟩,
    ⟨{ Tests.st with ev := {  }, nv := { keyHash := [1], firmwareKey := [1], tableKey := [1], firmware := List.replicate 2820 1, fusedVersion := 5, table := { port0 := some .pcie, port1 := some .cxl, version := 5, routes := [(0, 5), (256, 5), (1, 9)], image := List.replicate 2820 1 } } }, (({ Tests.st with ev := {  }, nv := { keyHash := [1], firmwareKey := [1], tableKey := [1], firmware := List.replicate 2820 1, fusedVersion := 5, table := { port0 := some .pcie, port1 := some .cxl, version := 5, routes := [(0, 5), (256, 5), (1, 9)], image := List.replicate 2820 1 } } } : State)).ev.bytes, by decide +kernel⟩,
    ⟨{ Tests.st with ev := { flag := true, n := 0 } }, (({ Tests.st with ev := { flag := true, n := 0 } } : State)).ev.bytes, by decide +kernel⟩,
    ⟨{ Tests.st with ev := { flag := true, n := 1 } }, (({ Tests.st with ev := { flag := true, n := 1 } } : State)).ev.bytes, by decide +kernel⟩,
    ⟨{ Tests.st with ev := { flag := true, n := 5 } }, (({ Tests.st with ev := { flag := true, n := 5 } } : State)).ev.bytes, by decide +kernel⟩⟩

/-- Hypotheses of `Obligations.ServiceEvents`, its part EventService are met. -/
theorem witness_ServiceEvents_EventService_2 :
    (∃ (s : State), ∃ (b : List Byte), s.ev.bytes = b ∧ s.ev.flag = true) ∧
    (∃ (s : State), ∃ (b : List Byte), s.ev.bytes = b ∧ s.ev.flag = true) ∧
    (∃ (s : State), ∃ (b : List Byte), s.ev.bytes = b ∧ b ≠ [] ∧ s.ev.flag = false) ∧
    (∃ (s : State), ∃ (b : List Byte), s.ev.bytes = b ∧ b = [] ∧ s.ev.flag = false ∧ s.ras = []) ∧
    (∃ (s : State), ∃ (b : List Byte), ∃ (r : Ras), ∃ (rest : List Ras), s.ev.bytes = b ∧ b = [] ∧ s.ev.flag = false ∧ s.ras = r :: rest) ∧
    (∃ (s : State), ∃ (b : List Byte), s.ev.bytes = b ∧ b = []) ∧
    (∃ (s : State), ∃ (b : List Byte), s.ev.bytes = b ∧ b.length ≠ 32) ∧
    (∃ (s : State), ∃ (b : List Byte), s.ev.bytes = b ∧ b.length = 32 ∧ 65536 ≤ s.nv.attestIndex) ∧
    (∃ (s : State), ∃ (b : List Byte), ∃ (i : Nat), s.ev.bytes = b ∧ b.length = 32 ∧ s.nv.attestIndex = i ∧ i < 65536) ∧
    (∃ (s : State), ∃ (b : List Byte), s.ev.bytes = b ∧ s.boot ≠ .recovery) ∧
    (∃ (s : State), ∃ (b : List Byte), (b = [] ∨ 256 < b.length ∨ (s.recovery = none ∧ b.length < 4)) ∧ s.ev.bytes = b ∧ s.boot = .recovery) ∧
    (∃ (s : State), ∃ (b : List Byte), (b = [] ∨ 256 < b.length ∨ (s.recovery = none ∧ b.length < 4)) ∧ s.ev.bytes = b ∧ s.boot = .recovery) ∧
    (∃ (s : State), ∃ (b : List Byte), (b = [] ∨ 256 < b.length ∨ (s.recovery = none ∧ b.length < 4)) ∧ s.ev.bytes = b ∧ s.boot = .recovery) ∧
    (∃ (s : State), ∃ (b : List Byte), ∃ (n : Nat), ∃ (got : List Byte), ∃ (image : List Byte), ((s.recovery = none ∧ 4 ≤ b.length ∧ leNat (b.take 4) = n ∧ got = b.drop 4) ∨ (∃ l, s.recovery = some (n, l) ∧ got = l ++ b)) ∧ s.ev.bytes = b ∧ s.boot = .recovery ∧ b ≠ [] ∧ b.length ≤ 256 ∧ image = got.take n ∧ got.length < n) :=
  ⟨⟨{ Tests.st with ev := { flag := true, n := 6 } }, (({ Tests.st with ev := { flag := true, n := 6 } } : State)).ev.bytes, by decide +kernel⟩,
    ⟨{ Tests.st with ev := { flag := true, n := 256 } }, (({ Tests.st with ev := { flag := true, n := 256 } } : State)).ev.bytes, by decide +kernel⟩,
    ⟨{ Tests.st with ev := { bytes := [1] } }, (({ Tests.st with ev := { bytes := [1] } } : State)).ev.bytes, by decide +kernel⟩,
    ⟨{ Tests.st with ev := {  } }, (({ Tests.st with ev := {  } } : State)).ev.bytes, by decide +kernel⟩,
    ⟨{ Tests.st with ev := {  }, ras := [{ time := 5, seq := 3, kind := 2, die := 1, hearth := 300, unit := 4, index := 1, addr := 0x123456, launch := some 9, asid := 7, count := 2 }] }, (({ Tests.st with ev := {  }, ras := [{ time := 5, seq := 3, kind := 2, die := 1, hearth := 300, unit := 4, index := 1, addr := 0x123456, launch := some 9, asid := 7, count := 2 }] } : State)).ev.bytes, ({ time := 5, seq := 3, kind := 2, die := 1, hearth := 300, unit := 4, index := 1, addr := 0x123456, launch := some 9, asid := 7, count := 2 } : Ras), [], by decide +kernel⟩,
    ⟨{ Tests.st with ev := { n := 0x12345 }, heatParked := [false, true] }, (({ Tests.st with ev := { n := 0x12345 }, heatParked := [false, true] } : State)).ev.bytes, by decide +kernel⟩,
    ⟨{ Tests.st with ev := { bytes := [1] } }, (({ Tests.st with ev := { bytes := [1] } } : State)).ev.bytes, by decide +kernel⟩,
    ⟨{ Tests.st with ev := { bytes := List.replicate 32 7 }, nv := { attestIndex := 65536 } }, (({ Tests.st with ev := { bytes := List.replicate 32 7 }, nv := { attestIndex := 65536 } } : State)).ev.bytes, by decide +kernel⟩,
    ⟨{ Tests.st with ev := { bytes := List.replicate 32 7 }, nv := { attestIndex := 65535, firmware := [1, 2] }, ptp17 := 2091 }, (({ Tests.st with ev := { bytes := List.replicate 32 7 }, nv := { attestIndex := 65535, firmware := [1, 2] }, ptp17 := 2091 } : State)).ev.bytes, 65535, by decide +kernel⟩,
    ⟨{ Tests.st with ev := { bytes := [1] } }, (({ Tests.st with ev := { bytes := [1] } } : State)).ev.bytes, by decide +kernel⟩,
    ⟨{ Tests.st with ev := {  }, boot := .recovery }, (({ Tests.st with ev := {  }, boot := .recovery } : State)).ev.bytes, (.inl (by decide +kernel)), by decide +kernel⟩,
    ⟨{ Tests.st with ev := { bytes := List.replicate 257 1 }, boot := .recovery }, (({ Tests.st with ev := { bytes := List.replicate 257 1 }, boot := .recovery } : State)).ev.bytes, (.inr (.inl (by decide +kernel))), by decide +kernel⟩,
    ⟨{ Tests.st with ev := { bytes := [1, 0, 0] }, boot := .recovery }, (({ Tests.st with ev := { bytes := [1, 0, 0] }, boot := .recovery } : State)).ev.bytes, (.inr (.inr (by decide +kernel))), by decide +kernel⟩,
    ⟨{ Tests.st with ev := { bytes := [4, 0, 0, 0, 8, 9, 10] }, boot := .recovery }, (({ Tests.st with ev := { bytes := [4, 0, 0, 0, 8, 9, 10] }, boot := .recovery } : State)).ev.bytes, 4, [8, 9, 10], ([8, 9, 10] : List Byte).take 4, (.inl (by decide +kernel)), by decide +kernel⟩⟩

/-- Hypotheses of `Obligations.ServiceEvents`, its part EventService are met. -/
theorem witness_ServiceEvents_EventService_3 :
    (∃ (s : State), ∃ (b : List Byte), ∃ (n : Nat), ∃ (got : List Byte), ∃ (image : List Byte), ((s.recovery = none ∧ 4 ≤ b.length ∧ leNat (b.take 4) = n ∧ got = b.drop 4) ∨ (∃ l, s.recovery = some (n, l) ∧ got = l ++ b)) ∧ s.ev.bytes = b ∧ s.boot = .recovery ∧ b ≠ [] ∧ b.length ≤ 256 ∧ image = got.take n ∧ n ≤ got.length ∧ s.ev.flag = false) ∧
    (∃ (s : State), ∃ (b : List Byte), ∃ (n : Nat), ∃ (got : List Byte), ∃ (image : List Byte), ((s.recovery = none ∧ 4 ≤ b.length ∧ leNat (b.take 4) = n ∧ got = b.drop 4) ∨ (∃ l, s.recovery = some (n, l) ∧ got = l ++ b)) ∧ s.ev.bytes = b ∧ s.boot = .recovery ∧ b ≠ [] ∧ b.length ≤ 256 ∧ image = got.take n ∧ n ≤ got.length ∧ s.ev.flag = false) ∧
    (∃ (s : State), ∃ (b : List Byte), ∃ (n : Nat), ∃ (got : List Byte), ∃ (image : List Byte), ((s.recovery = none ∧ 4 ≤ b.length ∧ leNat (b.take 4) = n ∧ got = b.drop 4) ∨ (∃ l, s.recovery = some (n, l) ∧ got = l ++ b)) ∧ s.ev.bytes = b ∧ s.boot = .recovery ∧ b ≠ [] ∧ b.length ≤ 256 ∧ image = got.take n ∧ n ≤ got.length ∧ s.ev.flag = true) ∧
    (∃ (s : State), ∃ (b : List Byte), ∃ (n : Nat), ∃ (got : List Byte), ∃ (image : List Byte), ((s.recovery = none ∧ 4 ≤ b.length ∧ leNat (b.take 4) = n ∧ got = b.drop 4) ∨ (∃ l, s.recovery = some (n, l) ∧ got = l ++ b)) ∧ s.ev.bytes = b ∧ s.boot = .recovery ∧ b ≠ [] ∧ b.length ≤ 256 ∧ image = got.take n ∧ got.length < n) ∧
    (∃ (s : State), ∃ (b : List Byte), ∃ (n : Nat), ∃ (got : List Byte), ∃ (image : List Byte), ((s.recovery = none ∧ 4 ≤ b.length ∧ leNat (b.take 4) = n ∧ got = b.drop 4) ∨ (∃ l, s.recovery = some (n, l) ∧ got = l ++ b)) ∧ s.ev.bytes = b ∧ s.boot = .recovery ∧ b ≠ [] ∧ b.length ≤ 256 ∧ image = got.take n ∧ n ≤ got.length ∧ s.ev.flag = false) ∧
    (∃ (s : State), ∃ (b : List Byte), ∃ (n : Nat), ∃ (got : List Byte), ∃ (image : List Byte), ((s.recovery = none ∧ 4 ≤ b.length ∧ leNat (b.take 4) = n ∧ got = b.drop 4) ∨ (∃ l, s.recovery = some (n, l) ∧ got = l ++ b)) ∧ s.ev.bytes = b ∧ s.boot = .recovery ∧ b ≠ [] ∧ b.length ≤ 256 ∧ image = got.take n ∧ n ≤ got.length ∧ s.ev.flag = true) ∧
    (∃ (s : State), ∃ (b : List Byte), s.ev.bytes = b ∧ s.responses = []) ∧
    (∃ (s : State), ∃ (b : List Byte), ∃ (st : Nat), ∃ (cmd : Nat), ∃ (data : List Byte), ∃ (rest : List MgmtResponse), s.ev.bytes = b ∧ s.responses = ⟨st, cmd, data⟩ :: rest) :=
  ⟨⟨{ Tests.st with ev := { bytes := [3, 0, 0, 0, 8, 9, 10] }, boot := .recovery }, (({ Tests.st with ev := { bytes := [3, 0, 0, 0, 8, 9, 10] }, boot := .recovery } : State)).ev.bytes, 3, [8, 9, 10], ([8, 9, 10] : List Byte).take 3, (.inl (by decide +kernel)), by decide +kernel⟩,
    ⟨{ Tests.st with ev := { bytes := [0, 0, 0, 0, 8, 9, 10] }, boot := .recovery }, (({ Tests.st with ev := { bytes := [0, 0, 0, 0, 8, 9, 10] }, boot := .recovery } : State)).ev.bytes, 0, [8, 9, 10], ([8, 9, 10] : List Byte).take 0, (.inl (by decide +kernel)), by decide +kernel⟩,
    ⟨{ Tests.st with ev := { flag := true, bytes := [2, 0, 0, 0, 8, 9, 10] }, boot := .recovery }, (({ Tests.st with ev := { flag := true, bytes := [2, 0, 0, 0, 8, 9, 10] }, boot := .recovery } : State)).ev.bytes, 2, [8, 9, 10], ([8, 9, 10] : List Byte).take 2, (.inl (by decide +kernel)), by decide +kernel⟩,
    ⟨{ Tests.st with ev := { bytes := [8] }, boot := .recovery, recovery := some (4, [5, 6]) }, (({ Tests.st with ev := { bytes := [8] }, boot := .recovery, recovery := some (4, [5, 6]) } : State)).ev.bytes, 4, [5, 6, 8], ([5, 6, 8] : List Byte).take 4, (.inr ⟨[5, 6], by decide +kernel⟩), by decide +kernel⟩,
    ⟨{ Tests.st with ev := { bytes := [8] }, boot := .recovery, recovery := some (3, [5, 6]) }, (({ Tests.st with ev := { bytes := [8] }, boot := .recovery, recovery := some (3, [5, 6]) } : State)).ev.bytes, 3, [5, 6, 8], ([5, 6, 8] : List Byte).take 3, (.inr ⟨[5, 6], by decide +kernel⟩), by decide +kernel⟩,
    ⟨{ Tests.st with ev := { flag := true, bytes := [8] }, boot := .recovery, recovery := some (2, [5, 6]) }, (({ Tests.st with ev := { flag := true, bytes := [8] }, boot := .recovery, recovery := some (2, [5, 6]) } : State)).ev.bytes, 2, [5, 6, 8], ([5, 6, 8] : List Byte).take 2, (.inr ⟨[5, 6], by decide +kernel⟩), by decide +kernel⟩,
    ⟨{ Tests.st with ev := {  } }, (({ Tests.st with ev := {  } } : State)).ev.bytes, by decide +kernel⟩,
    ⟨{ Tests.st with ev := {  }, responses := [⟨0, 1, [1]⟩, ⟨3, 2, []⟩] }, (({ Tests.st with ev := {  }, responses := [⟨0, 1, [1]⟩, ⟨3, 2, []⟩] } : State)).ev.bytes, 0, 1, [1], [⟨3, 2, []⟩], by decide +kernel⟩⟩

/-- Hypotheses of `Obligations.MemoryMap` are met. -/
theorem witness_MemoryMap :
    (∃ (pa : Nat), ∃ (d : Nat), d < 4 ∧ d * 0x3000000000 ≤ pa ∧ pa < (d + 1) * 0x3000000000) ∧
    (∃ (pa : Nat), ∃ (d : Nat), d < 4 ∧ d * 0x3000000000 ≤ pa ∧ pa < (d + 1) * 0x3000000000) ∧
    (∃ (pa : Nat), ∃ (h : Nat), h = (pa / 2 ^ 7 % 2 ^ 8) ^^^ (pa / 2 ^ 15 % 2 ^ 8) ^^^ (pa / 2 ^ 23 % 2 ^ 8) ^^^ (pa / 2 ^ 31 % 2 ^ 8) ^^^ (pa / 2 ^ 39 % 2 ^ 8) ∧ pa < 0xC000000000) ∧
    (∃ (pa : Nat), ∃ (h : Nat), h = (pa / 2 ^ 7 % 2 ^ 8) ^^^ (pa / 2 ^ 15 % 2 ^ 8) ^^^ (pa / 2 ^ 23 % 2 ^ 8) ^^^ (pa / 2 ^ 31 % 2 ^ 8) ^^^ (pa / 2 ^ 39 % 2 ^ 8) ∧ pa < 2 ^ 52) ∧
    (∃ (pa : Nat), ∃ (h : Nat), h = (pa / 2 ^ 7 % 2 ^ 8) ^^^ (pa / 2 ^ 15 % 2 ^ 8) ^^^ (pa / 2 ^ 23 % 2 ^ 8) ^^^ (pa / 2 ^ 31 % 2 ^ 8) ^^^ (pa / 2 ^ 39 % 2 ^ 8) ∧ pa < 0xC000000000) ∧
    (∃ (pa : Nat), ∃ (h : Nat), h = (pa / 2 ^ 7 % 2 ^ 8) ^^^ (pa / 2 ^ 15 % 2 ^ 8) ^^^ (pa / 2 ^ 23 % 2 ^ 8) ^^^ (pa / 2 ^ 31 % 2 ^ 8) ^^^ (pa / 2 ^ 39 % 2 ^ 8) ∧ pa < 2 ^ 52) :=
  ⟨⟨0x3000000000, 1, by decide +kernel⟩,
    ⟨0x9000000000 - 1, 2, by decide +kernel⟩,
    ⟨0xBFFFFFFFFF, (((0xBFFFFFFFFF)) / 2 ^ 7 % 2 ^ 8) ^^^ (((0xBFFFFFFFFF)) / 2 ^ 15 % 2 ^ 8) ^^^ (((0xBFFFFFFFFF)) / 2 ^ 23 % 2 ^ 8) ^^^ (((0xBFFFFFFFFF)) / 2 ^ 31 % 2 ^ 8) ^^^ (((0xBFFFFFFFFF)) / 2 ^ 39 % 2 ^ 8), by decide +kernel⟩,
    ⟨(2 ^ 52 - 1), ((((2 ^ 52 - 1))) / 2 ^ 7 % 2 ^ 8) ^^^ ((((2 ^ 52 - 1))) / 2 ^ 15 % 2 ^ 8) ^^^ ((((2 ^ 52 - 1))) / 2 ^ 23 % 2 ^ 8) ^^^ ((((2 ^ 52 - 1))) / 2 ^ 31 % 2 ^ 8) ^^^ ((((2 ^ 52 - 1))) / 2 ^ 39 % 2 ^ 8), by decide +kernel⟩,
    ⟨0xBFFFFFFFFF, (((0xBFFFFFFFFF)) / 2 ^ 7 % 2 ^ 8) ^^^ (((0xBFFFFFFFFF)) / 2 ^ 15 % 2 ^ 8) ^^^ (((0xBFFFFFFFFF)) / 2 ^ 23 % 2 ^ 8) ^^^ (((0xBFFFFFFFFF)) / 2 ^ 31 % 2 ^ 8) ^^^ (((0xBFFFFFFFFF)) / 2 ^ 39 % 2 ^ 8), by decide +kernel⟩,
    ⟨(2 ^ 52 - 1), ((((2 ^ 52 - 1))) / 2 ^ 7 % 2 ^ 8) ^^^ ((((2 ^ 52 - 1))) / 2 ^ 15 % 2 ^ 8) ^^^ ((((2 ^ 52 - 1))) / 2 ^ 23 % 2 ^ 8) ^^^ ((((2 ^ 52 - 1))) / 2 ^ 31 % 2 ^ 8) ^^^ ((((2 ^ 52 - 1))) / 2 ^ 39 % 2 ^ 8), by decide +kernel⟩⟩

/-- Hypotheses of `Obligations.ResetState` are met. -/
theorem witness_ResetState :
    (∃ (p : Nat), p < 2) :=
  ⟨0, by decide +kernel⟩

/-- Hypotheses of `Obligations.MemoryInvariant` are met. -/
theorem witness_MemoryInvariant :
    (∃ (s : State), ∃ (t : State), step s = .next t ∧ Memory.wf s.mem = true) :=
  ⟨Tests.st, Tests.after (step Tests.st), (Tests.ran _ (by decide +kernel)), by decide +kernel⟩

end Sys2Proof.Machine
end

/-! Writes of system registers (R73, R380): what `sysw` comes to, what a register write changes, and O39. -/

namespace Sys2Proof.Machine

/-! ### The checks of `sysw` do not look at streams -/

theorem any_held_of_tget {l : Table Slot} {t : Nat} (h : ((tget l t).getD {}).held = true) :
    l.any (·.2.held) = true := by
  induction l with
  | nil => cases h
  | cons p r ih =>
    obtain ⟨k, y⟩ := p
    by_cases hk : k = t
    · simp_all [tget]
    · simp [ih (by simpa [tget, hk] using h)]

theorem any_held_tset (l : Table Slot) (t : Nat) {x : Slot} (h : x.held = ((tget l t).getD {}).held) :
    (tset l t x).any (·.2.held) = l.any (·.2.held) := by
  induction l with
  | nil => simpa [tset, tget] using h
  | cons p r ih =>
    obtain ⟨k, y⟩ := p
    by_cases hlt : t < k
    · have hx : x.held = true → ((k, y) :: r).any (·.2.held) = true := fun hx => any_held_of_tget (h ▸ hx)
      simpa [tset, hlt] using hx
    · by_cases hk : k = t
      · simp_all [tset, tget]
      · simp [tset, hlt, hk, ih (by simpa [tget, hk] using h)]

theorem Core.busy_setSlot (k : Core) (t : Nat) {x : Slot} (h : x.held = (k.slot t).held) :
    (k.setSlot t x).busy = k.busy := any_held_tset k.slots t h

theorem regAccepts_consumed (s : State) (xs : List SrcM) (n : Nat) (v : Word) :
    regAccepts (consumed s xs) n v = regAccepts s n v := by
  obtain ⟨p, b, hr⟩ := s.slot.reads_eq xs
  have hbusy : (consumed s xs).myCore.busy = s.myCore.busy := by
    rw [consumed, State.myCore_setSlot]
    exact Core.busy_setSlot _ _ (by rw [hr]; rfl)
  simp only [regAccepts, hbusy]
  simp only [consumed, State.myCore_setSlot]
  rfl

/-! ### What `sysw` comes to, by who may write the register -/

theorem read_of_operandsGive {s : State} {d : Dst} {x : SrcM} {v : Word} (h : operandsGive s d [x] [v] = true) :
    (s.slot.read x.src).1 = .val v := by
  simp only [operandsGive, Bool.and_eq_true, beq_iff_eq] at h
  obtain ⟨⟨⟨hv, -⟩, -⟩, -⟩ := h
  simpa [Slot.reads] using hv

section
variable {s : State} {reg : BitVec 12} {a : Src} {v : Word} {w : Writer}
  (hg : operandsGive s .z [⟨a, false⟩] [v] = true) (hw : (regAccess reg.toNat).map RegAccess.writer = some w)
include hg hw

/-- A level that may not write the register traps PRIV with its number. -/
theorem exec_sysw_denied (hp : w.allows s.slot.priv = false) :
    exec (.sysw reg a) s = .next (takeTrap s { cause := .priv, info := word reg.toNat }) := by
  obtain ⟨x, hx, rfl⟩ := Option.map_eq_some_iff.mp hw
  have he : syswEffect s reg.toNat a (.sysw reg a) = .trap (privTrap reg.toNat) := by
    simp [syswEffect, hx, read_of_operandsGive hg, hp]
  rw [show exec (.sysw reg a) s = finish s 4 (syswEffect s reg.toNat a (.sysw reg a)) from rfl, he]
  exact finish_trap s 4 _ Cause.noConfusion

/-- A level that may write the register goes on to the check of the value. -/
theorem exec_sysw_allowed (hp : w.allows s.slot.priv = true) :
    exec (.sysw reg a) s = finish s 4
      (if !regAccepts s reg.toNat v then .trap (.illegal (word reg.toNat))
        else if isLinkReg reg.toNat then askLinks (consumed s [blk a]) (.write reg.toNat v)
        else .done (regWrite (consumed s [blk a]) reg.toNat v)) := by
  obtain ⟨x, hx, rfl⟩ := Option.map_eq_some_iff.mp hw
  have he : syswEffect s reg.toNat a (.sysw reg a) =
      ops1 s .z (blk a) fun v s =>
        if !regAccepts s reg.toNat v then .trap (.illegal (word reg.toNat))
        else if isLinkReg reg.toNat then askLinks s (.write reg.toNat v)
        else .done (regWrite s reg.toNat v) := by
    simp [syswEffect, hx, read_of_operandsGive hg, hp]
  rw [show exec (.sysw reg a) s = finish s 4 (syswEffect s reg.toNat a (.sysw reg a)) from rfl, he,
    ops1_gives (a := blk a) hg, regAccepts_consumed]

/-- A forbidden value traps ILLEGAL with the register's number. -/
theorem exec_sysw_refused (hp : w.allows s.slot.priv = true) (ha : regAccepts s reg.toNat v = false) :
    exec (.sysw reg a) s = .next (takeTrap s { cause := .illegal, info := word reg.toNat }) := by
  rw [exec_sysw_allowed hg hw hp, ha]
  exact finish_trap s 4 _ Cause.noConfusion

/-- A register of the links role is asked for there. -/
theorem exec_sysw_asks (hp : w.allows s.slot.priv = true) (ha : regAccepts s reg.toNat v = true)
    (hl : isLinkReg reg.toNat = true) :
    exec (.sysw reg a) s = finish s 4 (askLinks (consumed s [blk a]) (.write reg.toNat v)) := by
  rw [exec_sysw_allowed hg hw hp, ha, hl]
  rfl

/-- Any other register is written. -/
theorem exec_sysw_writes (hp : w.allows s.slot.priv = true) (ha : regAccepts s reg.toNat v = true)
    (hl : isLinkReg reg.toNat = false) :
    exec (.sysw reg a) s = .next (advance (regWrite (consumed s [blk a]) reg.toNat v) 4) := by
  rw [exec_sysw_allowed hg hw hp, ha, hl]
  rfl

end

/-! ### Who may write which register -/

theorem userWrites_access : ∀ q ∈ userWrites,
    (regAccess q.1).map RegAccess.writer = some .user ∧ isLinkReg q.1 = false := by decide

theorem kernelWrites_access : ∀ q ∈ kernelWrites,
    (regAccess q.1).map RegAccess.writer = some .kernel ∧ isLinkReg q.1 = false := by decide

/-- The registers that `sysw` writes for kernel code alone, those with a meaning of their own included. -/
theorem kernelRegs_access {reg : BitVec 12} (h : reg = 0x069 ∨ reg = 0x080 ∨ ∃ m, (reg.toNat, m) ∈ kernelWrites) :
    (regAccess reg.toNat).map RegAccess.writer = some .kernel := by
  obtain rfl | rfl | ⟨m, hm⟩ := h
  · rfl
  · rfl
  · exact (kernelWrites_access _ hm).1

theorem readOnly_access : ∀ n ∈ [0x000, 0x001, 0x002, 0x003, 0x004, 0x020, 0x030, 0x031, 0x032, 0x040, 0x050, 0x051,
    0x052, 0x058, 0x059, 0x063, 0x064, 0x070, 0x071, 0x072, 0x093, 0x094, 0x0A0, 0x0A1, 0x0A2, 0x0A3, 0x0B1, 0x0C0,
    0x110, 0x112, 0x113, 0x114, 0x130], (regAccess n).map RegAccess.writer = some .nobody := by decide

theorem linkWrites_access {n : Nat} (h : 0x090 ≤ n) (h' : n ≤ 0x092) :
    (regAccess n).map RegAccess.writer = some .user ∧ isLinkReg n = true := by
  interval_cases n <;> exact ⟨rfl, rfl⟩

theorem kernel_allows {p : Priv} (h : p ≠ .user) : Writer.kernel.allows p = true := by simpa [Writer.allows] using h

/-! ### Where the registers stand -/

/-- What the registers show of a state: the slot, its core and its hearth, and the part's own values. -/
structure RegView where
  slot : Slot
  core : Core
  hearth : Hearth
  cur : Nat × Nat
  device : Nat
  deadline : Word
  slack : Word

def regView (s : State) : RegView where
  slot := s.slot
  core := s.myCore
  hearth := s.hearth s.myHearth
  cur := s.cur
  device := s.cfg.deviceId
  deadline := s.lr s.slot.launch 16
  slack := slackWord s s.slot.launch

/-- A register's number and what it shows. -/
abbrev RegField := Nat × (RegView → Word)

/-- The registers of `sysValues`, the format windows left out. -/
def sysFields : List RegField :=
  [(0x000, fun w => word w.cur.1), (0x001, fun w => word w.cur.2), (0x002, fun w => word w.slot.launch),
    (0x003, fun w => word w.slot.rank), (0x004, fun w => word w.device), (0x010, fun w => w.slot.fpCtrl),
    (0x012, fun w => w.slot.fmtMode), (0x013, fun w => w.slot.gbeta), (0x020, fun w => word w.slot.vl),
    (0x021, fun w => w.slot.vstride), (0x022, fun w => word w.core.vshare), (0x030, fun w => w.core.cvgMax),
    (0x031, fun w => w.core.cvgCount), (0x033, fun w => w.core.cvgThresh), (0x034, fun w => w.core.cvgWindow),
    (0x040, fun w => word w.slot.hypCur), (0x060, fun w => word w.core.arrLimit), (0x061, fun w => word w.core.ovfBase),
    (0x062, fun w => word w.core.ovfSize), (0x064, fun w => word w.core.deadCount),
    (0x068, fun w => word w.core.spawnLimit), (0x070, fun w => w.slot.msgSrc), (0x071, fun w => w.slot.msgHdr),
    (0x072, fun w => w.slot.msgSlot), (0x080, fun w => word w.core.lsplit), (0x0B0, fun w => word w.hearth.held.gate),
    (0x0C0, fun _ => 0), (0x111, fun w => word w.core.journalSel), (0x130, fun w => word w.slot.wdog)]

/-- `FMT.WIN1` to `FMT.WIN15`. -/
def windowFields : List RegField :=
  (List.range 15).map fun i => (0xC1 + i, fun w => word (w.core.fmtWin.getD i 0).toNat)

/-- The registers of `kernelValues`. -/
def kernelFields : List RegField :=
  [(0x100, fun w => w.slot.bank1.cause), (0x101, fun w => w.slot.bank1.epc), (0x102, fun w => w.slot.bank1.addr),
    (0x103, fun w => w.slot.bank1.info), (0x104, fun w => w.slot.trapVec), (0x105, fun w => w.slot.trapStack),
    (0x108, fun w => w.slot.bank2.cause), (0x109, fun w => w.slot.bank2.epc), (0x10A, fun w => w.slot.bank2.addr),
    (0x10B, fun w => w.slot.bank2.info), (0x121, fun w => word w.slot.asid)]

/-- The registers of `sysMore`. -/
def moreFields : List RegField :=
  [(0x032, fun w => word (w.core.cvgQuiet.toNat % 2 ^ 63)), (0x050, fun w => if w.slot.wrapup then w.slot.quenchPc else 0),
    (0x051, fun w => if w.slot.wrapup then word w.slot.quenchCause else 0),
    (0x052, fun w => if w.slot.wrapup then word w.slot.quenchLeft else 0), (0x058, fun w => w.deadline),
    (0x059, fun w => w.slack),
    (0x063, fun w => word (w.core.ringHead * 2 ^ 32 + w.core.ring.length * 2 ^ 16 + w.core.hwq.length)),
    (0x069, fun w => w.slot.winSpill), (0x0A0, fun _ => word Config.awake), (0x0A1, fun _ => word Config.lwake),
    (0x0A2, fun _ => word Config.subReplay),
    (0x0A3, fun _ => word (Config.drainAllowance * 2 ^ 32) + BitVec.setWidth 64 Config.revision),
    (0x0B1, fun w => boolWord w.hearth.token), (0x110, fun w => journalHead w.core),
    (0x112, fun w => (w.core.journal.getD w.core.journalSel {}).addr),
    (0x113, fun w => (w.core.journal.getD w.core.journalSel {}).data),
    (0x114, fun w => journalWhy (w.core.journal.getD w.core.journalSel {}))]

/-- The registers that a write of `n` leaves, but for `n` itself: one of `ARR.LIMIT` lets messages move up (R45), and one
of `JRNL.SEL` selects an entry (R117, R118). -/
def regFields (n : Nat) : List RegField :=
  sysFields ++ windowFields ++ kernelFields ++ if n = 0x060 ∨ n = 0x111 then [] else moreFields

/-- The lists of the statements, by field. -/
theorem regLists_eq_map (s : State) (n : Nat) :
    sysValues s ++ kernelValues s ++ (if n = 0x060 ∨ n = 0x111 then [] else sysMore s) =
      (regFields n).map fun q => (q.1, q.2 (regView s)) := by
  simp only [regFields, List.map_append, apply_ite (List.map _), List.map_nil]
  rfl

theorem regValue_window (s : State) {i : Nat} (hi : i < 15) :
    regValue s (0xC1 + i) = word (s.myCore.fmtWin.getD i 0).toNat := by
  interval_cases i <;> rfl

/-- Each register shows what its field says. -/
theorem regValue_field {n : Nat} {q : RegField} (hq : q ∈ regFields n) (s : State) : regValue s q.1 = q.2 (regView s) := by
  revert q
  simp only [regFields, List.forall_mem_append, windowFields, List.forall_mem_map, List.mem_range]
  refine ⟨⟨⟨List.map_inj_left.mp ?_, fun i => regValue_window s⟩, List.map_inj_left.mp ?_⟩, ?_⟩
  · simp only [sysFields, List.map_cons]
    rfl
  · simp only [kernelFields, List.map_cons]
    rfl
  · split
    · simp
    · refine List.map_inj_left.mp ?_
      simp only [moreFields, List.map_cons]
      rfl

/-- Two views show the same in every register that a write of `n` leaves. -/
def Keeps (n : Nat) (a b : RegView) : Prop := ∀ q ∈ regFields n, q.1 ≠ n → q.2 a = q.2 b

theorem Keeps.of_map {n : Nat} {a b : RegView}
    (h : ((regFields n).filter (·.1 != n)).map (·.2 a) = ((regFields n).filter (·.1 != n)).map (·.2 b)) :
    Keeps n a b := fun _ hq hn => List.map_inj_left.mp h _ (List.mem_filter.mpr ⟨hq, by simpa using hn⟩)

theorem Keeps.trans {n : Nat} {a b c : RegView} (h : Keeps n a b) (h' : Keeps n b c) : Keeps n a c :=
  fun q hq hn => (h q hq hn).trans (h' q hq hn)

/-- No register shows the slots of the core but the one at hand. -/
theorem Keeps.setSlot (n : Nat) (w : RegView) (t : Nat) (x : Slot) : Keeps n { w with core := w.core.setSlot t x } w := by
  have h : (regFields n).map (·.2 { w with core := w.core.setSlot t x }) = (regFields n).map (·.2 w) := by
    simp only [regFields, List.map_append, apply_ite (List.map _), List.map_nil]
    rfl
  exact fun q hq _ => List.map_inj_left.mp h q hq

theorem regView_setSlot {s : State} {x : Slot} (h : x.launch = s.slot.launch) :
    regView (s.setSlot x) = { regView s with slot := x, core := s.myCore.setSlot s.cur.2 x } := by
  simp only [regView, State.slot_setSlot, State.myCore_setSlot, h]
  rfl

theorem State.slotAt_setCore_same_slots {s : State} {c : Nat} {k : Core} (h : k.slots = (s.core c).slots) (d t : Nat) :
    (s.setCore c k).slotAt d t = s.slotAt d t := by
  by_cases hd : d = c
  · subst hd; simp [State.slotAt, Core.slot, h]
  · simp [State.slotAt, State.core_setCore_ne _ _ hd]

theorem State.slot_setCore_same_slots {s : State} {k : Core} (h : k.slots = s.myCore.slots) :
    (s.setCore s.cur.1 k).slot = s.slot := s.slotAt_setCore_same_slots h _ _

@[simp] theorem State.myCore_setCore (s : State) (k : Core) : (s.setCore s.cur.1 k).myCore = k := s.core_setCore _ _

theorem regView_setCore {s : State} {k : Core} (h : k.slots = s.myCore.slots) :
    regView (s.setCore s.cur.1 k) = { regView s with core := k } := by
  simp only [regView, State.slot_setCore_same_slots h, State.myCore_setCore]
  rfl

theorem regView_modHearth (s : State) (f : Hearth → Hearth) :
    regView (s.modHearth s.myHearth f) = { regView s with hearth := f (s.hearth s.myHearth) } := by
  simp only [regView]
  rw [show (s.modHearth s.myHearth f).myHearth = s.myHearth from rfl, State.hearth_modHearth]
  rfl

/-! No register shows the pc, the streams or the stall of a slot. -/

theorem regValue_setSlot_control (s : State) (payload : List Word) (binds : List Bind) (pc : Word) (entry : Bool)
    (stall : Stall) (n : Nat) :
    regValue (s.setSlot { s.slot with payload := payload, binds := binds, pc := pc, entry := entry, stall := stall }) n =
      regValue s n := by
  simp only [regValue, State.slot_setSlot, State.myCore_setSlot]
  rfl

theorem regValue_advance (s : State) (len n : Nat) : regValue (advance s len) n = regValue s n :=
  regValue_setSlot_control s _ _ _ _ _ n

theorem regValue_consumed (s : State) (xs : List SrcM) (n : Nat) : regValue (consumed s xs) n = regValue s n := by
  obtain ⟨p, b, hr⟩ := s.slot.reads_eq xs
  rw [consumed, hr]
  exact regValue_setSlot_control s _ _ _ _ _ n

/-! ### Fields of words -/

/-- The low bits of a word are the word under their mask. -/
theorem word_bitsOf_low (v : Word) {h : Nat} {m : Word} (hm : m.toNat = 2 ^ (h + 1) - 1) :
    word (bitsOf v.toNat h 0) = v &&& m := by
  apply BitVec.eq_of_toNat_eq
  have hlt : v.toNat % 2 ^ (h + 1) < 2 ^ 64 := (Nat.mod_le _ _).trans_lt v.isLt
  rw [BitVec.toNat_and, BitVec.toNat_ofNat, hm, Nat.and_two_pow_sub_one_eq_mod]
  exact Nat.mod_eq_of_lt hlt

/-- The two fields of `FP.STAT` (R73). -/
theorem word_bitsOf_flags (v : Word) :
    word (bitsOf v.toNat 15 8 * 2 ^ 8 + bitsOf v.toNat 4 0) = v &&& 0xFF1F := by
  have hlow : v.toNat % 2 ^ 5 < 2 ^ 8 := (Nat.mod_lt _ (by decide)).trans (by decide)
  have hmask : (0xFF1F : Word).toNat = (2 ^ 8 - 1) <<< 8 ||| (2 ^ 5 - 1) := rfl
  have hlt : bitsOf v.toNat 15 8 * 2 ^ 8 + bitsOf v.toNat 4 0 < 2 ^ 64 := by simp only [bitsOf]; omega
  apply BitVec.eq_of_toNat_eq
  rw [BitVec.toNat_ofNat, Nat.mod_eq_of_lt hlt, BitVec.toNat_and, hmask]
  simp only [bitsOf, Nat.shiftRight_zero, ← Nat.shiftLeft_eq]
  rw [Nat.shiftLeft_add_eq_or_of_lt hlow]
  apply Nat.eq_of_testBit_eq
  intro i
  simp only [Nat.testBit_or, Nat.testBit_and, Nat.testBit_shiftLeft, Nat.testBit_mod_two_pow, Nat.testBit_shiftRight,
    Nat.testBit_two_pow_sub_one]
  by_cases h : 8 ≤ i
  · simp [h, Nat.add_sub_cancel' h, show ¬ i < 5 by omega, Bool.and_comm]
  · simp [h, Bool.and_comm]

theorem self_eq_and_ones (v : Word) : v = v &&& ~~~0 := BitVec.and_allOnes.symm

/-! ### What a register write leaves -/

/-- Register `n` has been written with `w`: it reads `w`, the other registers listed show what they did, and the task,
memory and the other slots are as they were. -/
structure Written (s t : State) (n : Nat) (w : Word) : Prop where
  value : regValue t n = w
  kept : Keeps n (regView t) (regView s)
  pc : t.slot.pc = s.slot.pc
  queue : t.slot.queue = s.slot.queue
  win : t.slot.win = s.slot.win
  vregs : t.slot.vregs = s.slot.vregs
  mem : t.mem = s.mem
  cur : t.cur = s.cur
  slots : otherSlots s t

theorem otherSlots_setSlot (s : State) (x : Slot) : otherSlots s (s.setSlot x) := by
  intro c k h
  exact s.slotAt_setSlotAt_ne x (by simpa [Prod.ext_iff, imp_iff_not_or] using h)

/-- A write of the slot: the register shows one of its fields. -/
theorem Written.of_slot {s : State} {n : Nat} {w : Word} {x : Slot} (field : Slot → Word)
    (hr : ∀ t : State, regValue t n = field t.slot) (hv : field x = w) (hl : x.launch = s.slot.launch)
    (hs : x.pc = s.slot.pc ∧ x.queue = s.slot.queue ∧ x.win = s.slot.win ∧ x.vregs = s.slot.vregs)
    (hk : Keeps n { regView s with slot := x } (regView s)) :
    Written s (s.setSlot x) n w := by
  obtain ⟨hpc, hqueue, hwin, hvregs⟩ := hs
  have hv' : Keeps n (regView (s.setSlot x)) (regView s) := by
    rw [regView_setSlot hl]
    exact (Keeps.setSlot n { regView s with slot := x } s.cur.2 x).trans hk
  refine ⟨?_, hv', ?_, ?_, ?_, ?_, rfl, rfl, otherSlots_setSlot s x⟩
  · rw [hr, State.slot_setSlot, hv]
  all_goals simpa only [State.slot_setSlot]

/-- A write of the core that leaves its slots: the register shows one of its fields. -/
theorem Written.of_core {s : State} {n : Nat} {w : Word} {k : Core} (field : Core → Word)
    (hr : ∀ t : State, regValue t n = field t.myCore) (hv : field k = w) (hs : k.slots = s.myCore.slots)
    (hk : Keeps n { regView s with core := k } (regView s)) : Written s (s.setCore s.cur.1 k) n w := by
  have hslot := State.slot_setCore_same_slots hs
  refine ⟨?_, by rwa [regView_setCore hs], ?_, ?_, ?_, ?_, rfl, rfl, fun c t _ => State.slotAt_setCore_same_slots hs c t⟩
  · rw [hr, State.myCore_setCore, hv]
  all_goals rw [hslot]

/-- The registers of the slot that `sysw` writes, with the bits they keep. -/
def slotWrites : List (Nat × Word) :=
  [(0x010, 0xFF), (0x011, 0xFF1F), (0x012, 1), (0x013, 0xFFFFFFFF), (0x021, ~~~0), (0x100, 0xFFF), (0x101, ~~~0),
    (0x102, ~~~0), (0x103, ~~~0), (0x104, ~~~0), (0x105, ~~~0), (0x108, 0xFFF), (0x109, ~~~0), (0x10A, ~~~0),
    (0x10B, ~~~0), (0x121, 0x3FFF)]

theorem regWrite_slotWrites (s : State) (v : Word) :
    ∀ q ∈ slotWrites, Written s (regWrite s q.1 v) q.1 (v &&& q.2) := by
  have low {h : Nat} {m : Word} (hm : m.toNat = 2 ^ (h + 1) - 1) := word_bitsOf_low v hm
  have all := self_eq_and_ones v
  simp only [slotWrites, List.forall_mem_cons]
  refine ⟨.of_slot (·.fpCtrl) (fun _ => rfl) (low rfl) rfl ⟨rfl, rfl, rfl, rfl⟩ (.of_map rfl),
    .of_slot (·.fpStat) (fun _ => rfl) (word_bitsOf_flags v) rfl ⟨rfl, rfl, rfl, rfl⟩ (.of_map rfl),
    .of_slot (·.fmtMode) (fun _ => rfl) (low rfl) rfl ⟨rfl, rfl, rfl, rfl⟩ (.of_map rfl),
    .of_slot (·.gbeta) (fun _ => rfl) (low rfl) rfl ⟨rfl, rfl, rfl, rfl⟩ (.of_map rfl),
    .of_slot (·.vstride) (fun _ => rfl) all rfl ⟨rfl, rfl, rfl, rfl⟩ (.of_map rfl),
    .of_slot (·.bank1.cause) (fun _ => rfl) (low rfl) rfl ⟨rfl, rfl, rfl, rfl⟩ (.of_map rfl),
    .of_slot (·.bank1.epc) (fun _ => rfl) all rfl ⟨rfl, rfl, rfl, rfl⟩ (.of_map rfl),
    .of_slot (·.bank1.addr) (fun _ => rfl) all rfl ⟨rfl, rfl, rfl, rfl⟩ (.of_map rfl),
    .of_slot (·.bank1.info) (fun _ => rfl) all rfl ⟨rfl, rfl, rfl, rfl⟩ (.of_map rfl),
    .of_slot (·.trapVec) (fun _ => rfl) all rfl ⟨rfl, rfl, rfl, rfl⟩ (.of_map rfl),
    .of_slot (·.trapStack) (fun _ => rfl) all rfl ⟨rfl, rfl, rfl, rfl⟩ (.of_map rfl),
    .of_slot (·.bank2.cause) (fun _ => rfl) (low rfl) rfl ⟨rfl, rfl, rfl, rfl⟩ (.of_map rfl),
    .of_slot (·.bank2.epc) (fun _ => rfl) all rfl ⟨rfl, rfl, rfl, rfl⟩ (.of_map rfl),
    .of_slot (·.bank2.addr) (fun _ => rfl) all rfl ⟨rfl, rfl, rfl, rfl⟩ (.of_map rfl),
    .of_slot (·.bank2.info) (fun _ => rfl) all rfl ⟨rfl, rfl, rfl, rfl⟩ (.of_map rfl),
    .of_slot (word ·.asid) (fun _ => rfl) (low rfl) rfl ⟨rfl, rfl, rfl, rfl⟩ (.of_map rfl),
    by simp⟩

/-- The registers of the core that `sysw` writes and that move nothing else. -/
def coreWrites : List (Nat × Word) :=
  [(0x022, 0xF), (0x033, 0xFFFFFFFF), (0x034, 0xFFFFFFFF), (0x061, 0x1FFFF), (0x062, 0xFFFF), (0x068, 0x7F)]

theorem regWrite_coreWrites (s : State) (v : Word) :
    ∀ q ∈ coreWrites, Written s (regWrite s q.1 v) q.1 (v &&& q.2) := by
  have low {h : Nat} {m : Word} (hm : m.toNat = 2 ^ (h + 1) - 1) := word_bitsOf_low v hm
  simp only [coreWrites, List.forall_mem_cons]
  refine ⟨.of_core (word ·.vshare) (fun _ => rfl) (low rfl) rfl (.of_map rfl),
    .of_core (·.cvgThresh) (fun _ => rfl) (low rfl) rfl (.of_map rfl),
    .of_core (·.cvgWindow) (fun _ => rfl) (low rfl) rfl (.of_map rfl),
    .of_core (word ·.ovfBase) (fun _ => rfl) (low rfl) rfl (.of_map rfl),
    .of_core (word ·.ovfSize) (fun _ => rfl) (low rfl) rfl (.of_map rfl),
    .of_core (word ·.spawnLimit) (fun _ => rfl) (low rfl) rfl (.of_map rfl),
    by simp⟩

/-- Messages that move up from the ring change the core's two queues, and nothing else (R45). -/
theorem moveRing_setCore (c n : Nat) (s : State) (k : Core) : ∃ hwq ring head,
    moveRing c n (s.setCore c k) = s.setCore c { k with hwq := hwq, ring := ring, ringHead := head } := by
  induction n generalizing k with
  | zero => exact ⟨k.hwq, k.ring, k.ringHead, rfl⟩
  | succ n ih =>
    simp only [moveRing, State.core_setCore, State.setCore_setCore]
    split
    · exact ⟨k.hwq, k.ring, k.ringHead, rfl⟩
    · split
      · exact ⟨k.hwq, k.ring, k.ringHead, rfl⟩
      · exact ih _

/-- A write of `ARR.LIMIT` lets messages move up (R45). -/
theorem regWrite_arrLimit (s : State) (v : Word) : Written s (regWrite s 0x060 v) 0x060 (v &&& 0x3F) := by
  obtain ⟨hwq, ring, head, h⟩ := moveRing_setCore s.cur.1 32 s { s.myCore with arrLimit := bitsOf v.toNat 5 0 }
  rw [show regWrite s 0x060 v = _ from h]
  exact .of_core (word ·.arrLimit) (fun _ => rfl) (word_bitsOf_low v rfl) rfl (.of_map rfl)

/-- Selecting a journal entry, and releasing it, changes the core's journal and the number selected (R117, R118). -/
theorem selectEntry_eq (s : State) (v : Word) : ∃ journal, selectEntry s v =
    s.setCore s.cur.1 { s.myCore with journalSel := bitsOf v.toNat 5 0, journal := journal } := by
  simp only [selectEntry, releaseEntry, State.modMyCore, State.modCore, State.setCore_cur, State.core_setCore,
    State.setCore_setCore]
  split
  · split
    · exact ⟨_, rfl⟩
    · exact ⟨_, rfl⟩
  · exact ⟨_, rfl⟩

theorem regWrite_journalSel (s : State) (v : Word) : Written s (regWrite s 0x111 v) 0x111 (v &&& 0x3F) := by
  obtain ⟨journal, h⟩ := selectEntry_eq s v
  rw [show regWrite s 0x111 v = _ from h]
  exact .of_core (word ·.journalSel) (fun _ => rfl) (word_bitsOf_low v rfl) rfl (.of_map rfl)

theorem regWrite_gate (s : State) (v : Word) : Written s (regWrite s 0x0B0 v) 0x0B0 (v &&& 0xFFFFFFFF) := by
  have hview : regView (regWrite s 0x0B0 v) = _ :=
    regView_modHearth s fun h => { h with held := { h.held with gate := bitsOf v.toNat 31 0 } }
  refine ⟨?_, ?_, rfl, rfl, rfl, rfl, rfl, rfl, fun _ _ _ => rfl⟩
  · rw [show regValue (regWrite s 0x0B0 v) 0x0B0 = word (regView (regWrite s 0x0B0 v)).hearth.held.gate from rfl, hview]
    exact word_bitsOf_low v rfl
  · rw [hview]
    exact .of_map rfl

theorem regWrite_windowNumber (s : State) (v : Word) {i : Nat} (hi : i < 15) :
    regWrite s (0xC1 + i) v = s.setCore s.cur.1 { s.myCore with fmtWin := padSet 0 s.myCore.fmtWin i v } := by
  interval_cases i <;> rfl

theorem mem_regFields {n : Nat} {q : RegField} (h : q ∈ regFields n) :
    q ∈ windowFields ∨ q ∈ sysFields ++ kernelFields ++ moreFields := by
  simp only [regFields, List.mem_append] at h ⊢
  split at h
  · have hmem := h.resolve_right List.not_mem_nil
    tauto
  · tauto

/-- A format window is written, and the other windows stay. -/
theorem regWrite_window (s : State) (v : Word) {i : Nat} (hi : i < 15) :
    Written s (regWrite s (0xC1 + i) v) (0xC1 + i) (v &&& ~~~0) := by
  have hrest : ∀ q ∈ sysFields ++ kernelFields ++ moreFields,
      q.2 { regView s with core := { s.myCore with fmtWin := padSet 0 s.myCore.fmtWin i v } } = q.2 (regView s) :=
    List.map_inj_left.mp rfl
  rw [regWrite_windowNumber s v hi]
  refine .of_core (fun k => word (k.fmtWin.getD i 0).toNat) (fun t => regValue_window t hi) ?_ rfl fun q hq hn => ?_
  · rw [padSet_getD]
    exact (BitVec.ofNat_toNat 64 v).trans ((BitVec.setWidth_eq v).trans (self_eq_and_ones v))
  · obtain hq | hq := mem_regFields hq
    · obtain ⟨j, -, rfl⟩ := List.mem_map.mp hq
      have hj : j ≠ i := fun h => hn (h ▸ rfl)
      exact congrArg (fun x : Word => word x.toNat) (padSet_getD_ne 0 s.myCore.fmtWin v hj)
    · exact hrest q hq

/-- Every register that `sysw` writes takes its bits of the value, and nothing else changes that a register shows. -/
theorem regWrite_written {n : Nat} {m : Word} (h : (n, m) ∈ userWrites ++ kernelWrites) (s : State) (v : Word) :
    Written s (regWrite s n v) n (v &&& m) := by
  have hclass : ∀ q ∈ userWrites ++ kernelWrites, q ∈ slotWrites ∨ q ∈ coreWrites ∨ q = (0x060, 0x3F) ∨
      q = (0x111, 0x3F) ∨ q = (0x0B0, 0xFFFFFFFF) ∨ ∃ i < 15, q = (0xC1 + i, ~~~0) := by decide
  rcases hclass _ h with h | h | h | h | h | ⟨i, hi, h⟩
  · exact regWrite_slotWrites s v _ h
  · exact regWrite_coreWrites s v _ h
  · cases h; exact regWrite_arrLimit s v
  · cases h; exact regWrite_journalSel s v
  · cases h; exact regWrite_gate s v
  · cases h; exact regWrite_window s v hi

/-! ### `sysw` as a whole -/

theorem otherSlots.trans {s t u : State} (h : otherSlots s t) (hc : t.cur = s.cur) (h' : otherSlots t u) :
    otherSlots s u := fun c k hk => (h' c k (hc ▸ hk)).trans (h c k hk)

theorem otherSlots_consumed (s : State) (xs : List SrcM) : otherSlots s (consumed s xs) := otherSlots_setSlot s _

theorem otherSlots_advance (s : State) (len : Nat) : otherSlots s (advance s len) := otherSlots_setSlot s _

/-- Taking operands changes nothing of the slot but its streams. -/
theorem slot_consumed_eq (s : State) (xs : List SrcM) :
    ∃ payload binds, (consumed s xs).slot = { s.slot with payload := payload, binds := binds } := by
  rw [slot_consumed]
  exact s.slot.reads_eq xs

theorem askLinks_eq (s : State) (op : LinkOp) : ∃ t, askLinks s op = .stay t ∧
    t.slot = { s.slot with stall := .links (s.cycle + 4096) op (s.slot.pc + 4) } ∧ t.mem = s.mem ∧ otherSlots s t :=
  ⟨_, rfl, s.slot_modSlot fun x => { x with stall := .links (s.cycle + 4096) op (s.slot.pc + 4) }, rfl,
    otherSlots_setSlot s _⟩

section
variable {s : State} {reg : BitVec 12} {a : Src} {v : Word} (hg : operandsGive s .z [⟨a, false⟩] [v] = true)
include hg

/-- A write that is allowed and taken: the register reads its bits of the value, and the rest is as it was. -/
theorem sysw_writes {m : Word} {w : Writer} (hm : (reg.toNat, m) ∈ userWrites ++ kernelWrites)
    (hw : (regAccess reg.toNat).map RegAccess.writer = some w) (hl : isLinkReg reg.toNat = false)
    (hp : w.allows s.slot.priv = true) (ha : regAccepts s reg.toNat v = true) :
    ∃ t, exec (.sysw reg a) s = .next t ∧ regValue t reg.toNat = v &&& m ∧ t.slot.pc = s.slot.pc + 4 ∧
      t.slot.queue = s.slot.queue ∧ t.slot.win = s.slot.win ∧ t.slot.vregs = s.slot.vregs ∧ sameMemory s t ∧
      otherSlots s t ∧
      ∀ p ∈ sysValues s ++ kernelValues s ++ (if reg.toNat = 0x060 ∨ reg.toNat = 0x111 then [] else sysMore s),
        p.1 ≠ reg.toNat → regValue t p.1 = p.2 := by
  have wr := regWrite_written hm (consumed s [blk a]) v
  obtain ⟨_, _, hu⟩ := slot_consumed_eq s [blk a]
  refine ⟨_, exec_sysw_writes hg hw hp ha hl, ?_, ?_, ?_, ?_, ?_, fun _ => ?_, ?_, ?_⟩
  · rw [regValue_advance, wr.value]
  · simp only [slot_advance, wr.pc, hu]
    rfl
  · simp only [slot_advance, wr.queue, hu]
  · simp only [slot_advance, wr.win, hu]
  · simp only [slot_advance, wr.vregs, hu]
  · rw [advance_mem, wr.mem, consumed_mem]
  · exact ((otherSlots_consumed s _).trans rfl wr.slots).trans wr.cur (otherSlots_advance _ 4)
  · rw [regLists_eq_map]
    rintro _ hp hn
    obtain ⟨q, hq, rfl⟩ := List.mem_map.mp hp
    rw [regValue_advance, regValue_field hq, wr.kept q hq hn, ← regValue_field hq, regValue_consumed, regValue_field hq]

/-- `WIN.SPILL` takes its base and its count, and keeps the number of records used (R67). -/
theorem sysw_winSpill (hr : reg.toNat = 0x069) (hp : s.slot.priv ≠ .user) (ha : bitsOf v.toNat 2 0 = 0) :
    ∃ t, exec (.sysw reg a) s = .next t ∧ t.slot.spillBase = bitsOf v.toNat 16 0 ∧
      t.slot.spillCount = bitsOf v.toNat 39 32 ∧ t.slot.spillUsed = s.slot.spillUsed ∧ t.slot.pc = s.slot.pc + 4 ∧
      t.slot.queue = s.slot.queue ∧ t.slot.win = s.slot.win ∧ sameMemory s t ∧ otherSlots s t := by
  have hw : (regAccess reg.toNat).map RegAccess.writer = some .kernel := by rw [hr]; rfl
  have hacc : regAccepts s reg.toNat v = true := by
    rw [hr]
    exact beq_iff_eq.mpr ha
  have hx := exec_sysw_writes hg hw (kernel_allows hp) hacc (by rw [hr]; rfl)
  rw [hr] at hx
  obtain ⟨_, _, hu⟩ := slot_consumed_eq s [blk a]
  have hslot : (regWrite (consumed s [blk a]) 0x069 v).slot = _ := State.slot_modSlot _ _
  refine ⟨_, hx, ?_, ?_, ?_, ?_, ?_, ?_, fun _ => rfl, ?_⟩
  · rw [slot_advance, hslot]
  · rw [slot_advance, hslot]
  · rw [slot_advance, hslot, hu]
  · rw [slot_advance, hslot, hu]
    rfl
  · rw [slot_advance, hslot, hu]
  · rw [slot_advance, hslot, hu]
  · exact ((otherSlots_consumed s _).trans rfl (otherSlots_setSlot _ _)).trans rfl (otherSlots_advance _ 4)

/-- The links role is asked for one of its registers, and the task stalls until it answers (R268). -/
theorem sysw_asks (h : 0x090 ≤ reg.toNat) (h' : reg.toNat ≤ 0x092) (ha : regAccepts s reg.toNat v = true) :
    ∃ t, exec (.sysw reg a) s = .next t ∧
      t.slot.stall = .links (s.cycle + 4096) (.write reg.toNat v) (s.slot.pc + 4) ∧ t.slot.pc = s.slot.pc ∧
      t.slot.queue = s.slot.queue ∧ sameMemory s t ∧ otherSlots s t := by
  obtain ⟨hw, hl⟩ := linkWrites_access h h'
  obtain ⟨_, _, hu⟩ := slot_consumed_eq s [blk a]
  obtain ⟨t, ht, hslot, hmem, hothers⟩ := askLinks_eq (consumed s [blk a]) (.write reg.toNat v)
  have hx := exec_sysw_asks hg hw rfl ha hl
  rw [ht, finish_stay] at hx
  refine ⟨t, hx, ?_, ?_, ?_, fun _ => ?_, (otherSlots_consumed s _).trans rfl hothers⟩
  · rw [hslot, hu]
    rfl
  · rw [hslot, hu]
  · rw [hslot, hu]
  · rw [hmem, consumed_mem]

end

/-- The two registers whose writes may move others, by name and by number. -/
theorem moves_iff (reg : BitVec 12) : reg = 0x060 ∨ reg = 0x111 ↔ reg.toNat = 0x060 ∨ reg.toNat = 0x111 := by
  simp only [BitVec.toNat_eq, BitVec.reduceToNat]

/-- Settles O39, by who may write the register: what `sysw` comes to is said once for every register, and what a write of
each of them changes is said by `regWrite_written`. -/
theorem sysWrite : Obligations.SysWrite := by
  unfold Obligations.SysWrite
  intro s reg a v hg
  refine ⟨fun m hm => ?_, fun hr hp x hx => ?_, fun h h' => ⟨sysw_asks hg h h', ?_⟩, fun hp hk => ?_, fun n hn hr => ?_⟩
  · obtain ⟨w, hw, hl, hp, hmem⟩ : ∃ w, (regAccess reg.toNat).map RegAccess.writer = some w ∧
        isLinkReg reg.toNat = false ∧ w.allows s.slot.priv = true ∧ (reg.toNat, m) ∈ userWrites ++ kernelWrites := by
      obtain hm | ⟨hm, hp⟩ := hm
      · obtain ⟨hw, hl⟩ := userWrites_access _ hm
        exact ⟨_, hw, hl, rfl, List.mem_append_left _ hm⟩
      · obtain ⟨hw, hl⟩ := kernelWrites_access _ hm
        exact ⟨_, hw, hl, kernel_allows hp, List.mem_append_right _ hm⟩
    simp only [moves_iff]
    exact ⟨sysw_writes hg hmem hw hl hp, exec_sysw_refused hg hw hp⟩
  · subst hr hx
    refine ⟨sysw_winSpill hg rfl hp, fun ha => ?_⟩
    exact exec_sysw_refused hg (w := .kernel) rfl (kernel_allows hp) (beq_eq_false_iff_ne.mpr ha)
  · exact exec_sysw_refused hg (linkWrites_access h h').1 rfl
  · exact exec_sysw_denied hg (kernelRegs_access hk) (by rw [hp]; rfl)
  · exact hr ▸ exec_sysw_denied hg (readOnly_access _ (hr ▸ hn)) rfl

end Sys2Proof.Machine

/-! The step and a slot's turn (R28, R210): which instruction, event or trap a step comes to, and O3, O4, O5. -/

namespace Sys2Proof.Machine

/-! ### A slot that issues -/

/-- A slot that issues goes on to the fetch: nothing else is taken at its boundary. -/
theorem issue_of_issues {s : State} (h : s.issues = true) : issue s = fetchIssue s := by
  simp only [State.issues, Bool.and_eq_true, Bool.not_eq_true', beq_iff_eq] at h
  obtain ⟨⟨⟨⟨hboot, hready⟩, hstopped⟩, haborts⟩, hboundary⟩ := h
  unfold issue
  cases hb : s.slot.atBoundary with
  | false => simp [hboot, hready, hstopped, haborts, hb]
  | true =>
    rw [hb, Bool.true_and] at hboundary
    obtain ⟨hq, hp⟩ := Bool.or_eq_false_iff.mp hboundary
    obtain ⟨hbudget, hdivert⟩ := Bool.or_eq_false_iff.mp hq
    simp only [hboot, hready, hstopped, haborts, hb, hbudget, hdivert, hp, Bool.true_and]
    rfl

theorem turn_of_fetchIssue_act {s u : State} (h : s.issues = true) (hf : fetchIssue s = .act u) : turn s = .next u := by
  simp only [turn, issue_of_issues h, hf]

section
variable {s : State} (h : s.issues = true)
include h

/-- The trap of the fetch is taken (R210). -/
theorem turn_fetchTrap {t : Trap} (hp : fetchParcels s = .error (.trap t)) :
    turn s = .next (takeTrap (crossFetch s) t) :=
  turn_of_fetchIssue_act h (by simp only [fetchIssue, hp])

/-- The fetch waits for a half of host memory (R255). -/
theorem turn_fetchLacks {half : Nat} (hp : fetchParcels s = .error (.lacks half)) :
    turn s = .next (fetchWaits (askHost s half .rdShared)) :=
  turn_of_fetchIssue_act h (by simp only [fetchIssue, hp])

section
variable {ps : List Nat} (hp : fetchParcels s = .ok ps)
include hp

/-- The fetch waits for HBM to wake (R284). -/
theorem turn_fetchSleeps {k : Nat} (hk : sleepingFetch s = some k) :
    turn s = .next (fetchWaits (touchKey s k)) :=
  turn_of_fetchIssue_act h (by simp only [fetchIssue, hp, hk])

variable (hz : sleepingFetch s = none)
include hz

/-- Bits that decode to nothing trap ILLEGAL (R301). -/
theorem turn_undecodable {n : Nat} {r : Reject} (hd : decodeParcels ps = (n, .error r)) :
    turn s = .next (takeTrap (fetched s) { cause := .illegal, info := rejectInfo s ps r }) :=
  turn_of_fetchIssue_act h (by simp only [fetchIssue, hp, hz, hd])

/-- An entry whose first parcel is no `frame` traps (R40, R345). -/
theorem turn_noFrame {n : Nat} {i : Instr} (hd : decodeParcels ps = (n, .ok i)) (he : s.slot.entry = true)
    (hf : isFrameParcel ps = false) : turn s = .next (takeTrap (fetched s) (entryTrap s i)) :=
  turn_of_fetchIssue_act h (by simp only [fetchIssue, hp, hz, hd, he, hf, Bool.not_false, Bool.and_self, if_true])

/-- Any other instruction is executed on the state in which it has been fetched. -/
theorem turn_runs {n : Nat} {i : Instr} (hd : decodeParcels ps = (n, .ok i))
    (hf : s.slot.entry = true → isFrameParcel ps = true) : turn s = exec i (fetched s) := by
  have hgate : (s.slot.entry && !isFrameParcel ps) = false := by
    cases he : s.slot.entry with
    | false => rfl
    | true => rw [hf he]; rfl
  simp only [turn, issue_of_issues h, fetchIssue, hp, hz, hd, hgate, Bool.false_eq_true, if_false]

end
end

/-! ### A core's turn -/

/-- A step is the turn of a core: the one the schedule names, or the next of the cycle. -/
theorem step_eq_coreTurn {u : State} {c : Nat} {rest : List Turn} (ht : u.timers = [])
    (hc : (u.turns = [] ∧ u.agenda = [] ∧ nextCore u = some c ∧ rest = []) ∨
      (u.turns = ⟨0, .issue c⟩ :: rest ∧ u.issued c = false)) : step u = coreTurn u c rest := by
  obtain ⟨hs, ha, hn, rfl⟩ | ⟨hs, hi⟩ := hc
  · simp only [step, ht, hs, ha, hn]
  · simp only [step, ht, hs, hi, Bool.false_eq_true, if_false]

theorem coreTurn_of_turn {u v : State} {c k : Nat} {rest : List Turn} (hn : nextSlot u c = some k)
    (hv : turn ({ u with turns := rest }.takeTurn c k) = .next v) :
    coreTurn u c rest = .next (if u.noIssue v c k then u.passOver v c k else v) := by
  simp only [coreTurn, hn, hv, State.afterTry]

theorem noIssue_iff (u v : State) (c k : Nat) :
    u.noIssue v c k = true ↔ (u.slotAt c k).stall = .held ∨ (v.slotAt c k).waiting = true := by
  simp [State.noIssue]

/-- A core that passes a slot over stands as the try left it, but has not issued. -/
theorem core_passOver (s v : State) (c t : Nat) :
    (s.passOver v c t).core c = { v.core c with
      lastSlot := (s.core c).lastSlot, issuedAt := (s.core c).issuedAt
      passed := (s.cycle + 1, if (s.core c).passed.1 == s.cycle + 1 then t :: (s.core c).passed.2 else [t]) } := by
  simp [State.core, State.passOver, State.modCore, State.setCore]

/-! ### The end of a cycle and the events -/

theorem happen_event (s : State) {e : Event} (he : e.kind.isEvent = true) :
    happen s e = exec e.kind { s with ev := e.args } := by
  rw [happen, if_pos he]

theorem endCycle_closing {s : State} {e : Event} {cl : List Event} (rest : List Turn) (hc : s.closing = e :: cl) :
    endCycle s rest = happen { s with closing := cl } e := by
  simp only [endCycle, hc]

theorem endCycle_elapses {s : State} (rest : List Turn) (hc : s.closing = []) :
    endCycle s rest = .next (elapse { s with turns := rest }) := by
  simp only [endCycle, hc]

theorem step_timer {s : State} {e : Event} {rest : List Event} (ht : s.timers = e :: rest) :
    step s = happen { s with timers := rest } e := by
  simp only [step, ht]

section
variable {s : State} (ht : s.timers = [])
include ht

theorem step_scheduledEvent {e : Event} {rest : List Turn} (hs : s.turns = ⟨0, .event e⟩ :: rest) :
    step s = happen { s with turns := rest } e := by
  simp only [step, ht, hs]

theorem step_scheduledCycles {n : Nat} {a : Act} {rest : List Turn} (hs : s.turns = ⟨n + 1, a⟩ :: rest) :
    step s = endCycle s (⟨n, a⟩ :: rest) := by
  simp only [step, ht, hs]

theorem step_scheduledIssued {c : Nat} {rest : List Turn} (hs : s.turns = ⟨0, .issue c⟩ :: rest)
    (hi : s.issued c = true) : step s = endCycle s s.turns := by
  simp only [step, ht, hs, hi, if_true]

theorem step_agenda (hs : s.turns = []) {e : Event} {rest : List Event} (ha : s.agenda = e :: rest) :
    step s = happen { s with agenda := rest } e := by
  simp only [step, ht, hs, ha]

theorem step_nothing (hs : s.turns = []) (ha : s.agenda = []) (hn : nextCore s = none) :
    step s = endCycle s s.turns := by
  simp only [step, ht, hs, ha, hn]

/-- Where the schedule lets a cycle pass, and where nothing is to be done in this cycle, the step ends the cycle. -/
theorem step_endsCycle {n : Nat} {a : Act} {c : Nat} {rest : List Turn}
    (h : s.turns = ⟨n + 1, a⟩ :: rest ∨ (s.turns = ⟨0, .issue c⟩ :: rest ∧ s.issued c = true) ∨
      (s.turns = [] ∧ s.agenda = [] ∧ nextCore s = none)) : ∃ r, step s = endCycle s r := by
  obtain hs | ⟨hs, hi⟩ | ⟨hs, ha, hn⟩ := h
  · exact ⟨_, step_scheduledCycles ht hs⟩
  · exact ⟨_, step_scheduledIssued ht hs hi⟩
  · exact ⟨_, step_nothing ht hs ha hn⟩

end

/-- Settles O3: the slot that issues is past its boundary and its fetch, so its turn is the instruction; the core's turn
keeps what it comes to, or passes the slot over. -/
theorem stepRunsDecoded : Obligations.StepRunsDecoded := by
  unfold Obligations.StepRunsDecoded
  intro s ps n i h hp hz hf hd
  have hrun := turn_runs h hp hz hd hf
  refine ⟨hrun, fun u c k rest ht hc hn hs v hv => ?_⟩
  subst hs
  have hstep : step u = .next (if u.noIssue v c k then u.passOver v c k else v) := by
    rw [step_eq_coreTurn ht hc]
    exact coreTurn_of_turn hn (hrun.trans hv)
  refine ⟨fun hstall hwait => ?_, fun hno => ?_⟩
  · have hissue : u.noIssue v c k = false := by
      rw [← Bool.not_eq_true, noIssue_iff]
      simp [hstall, hwait]
    rw [hstep, hissue]
    rfl
  · rw [(noIssue_iff u v c k).mpr hno] at hstep
    have hcore := core_passOver u v c k
    refine ⟨u.passOver v c k, hstep, rfl, by rw [hcore], by rw [hcore], ?_, passOver_mem u v c k⟩
    rw [State.slotAt, hcore]
    rfl

/-- Settles O4, by the order in which a step looks at what is to be done. -/
theorem stepTakesEvent : Obligations.StepTakesEvent := by
  unfold Obligations.StepTakesEvent
  intro s
  refine ⟨fun rest e he ht => ?_, fun ht => ⟨fun rest e he hs => ?_, fun n a c rest e cl hs he hc => ?_,
    fun hc => ⟨fun n a rest hs => ?_, fun c rest hs hi => ?_⟩, fun hs => ⟨fun rest e he ha => ?_, fun ha hn hc => ?_⟩⟩⟩
  · rw [step_timer ht, happen_event _ he]
  · rw [step_scheduledEvent ht hs, happen_event _ he]
  · obtain ⟨r, hr⟩ := step_endsCycle ht hs
    rw [hr, endCycle_closing r hc, happen_event _ he]
  · rw [step_scheduledCycles ht hs, endCycle_elapses _ hc]
  · rw [step_scheduledIssued ht hs hi, endCycle_elapses _ hc]
  · rw [step_agenda ht hs ha, happen_event _ he]
  · rw [step_nothing ht hs ha hn, endCycle_elapses _ hc]

/-- Settles O5: one trap or wait for each way in which the fetch, the decoding or the entry stops the instruction. -/
theorem stepTakesFetchTrap : Obligations.StepTakesFetchTrap := by
  unfold Obligations.StepTakesFetchTrap
  intro s h
  refine ⟨fun t => turn_fetchTrap h, fun half => turn_fetchLacks h, fun ps k hp => turn_fetchSleeps h hp,
    fun ps n r hp hz => turn_undecodable h hp hz, fun ps n i hp hz he hf hd => ?_⟩
  rw [turn_noFrame h hp hz hd he hf]
  refine ⟨fun hi => ?_, fun d r hi => by rw [hi]; rfl, fun r x hi => by rw [hi]; rfl, fun h1 h2 h3 h4 h5 h6 => ?_⟩
  · have hcause : entryTrap s i = { cause := if s.slot.priv = .user then .priv else .frame } := by
      obtain rfl | rfl | ⟨r, rfl⟩ | ⟨r, x, rfl⟩ := hi <;> by_cases hu : s.slot.priv = .user <;> simp [entryTrap, hu]
    rw [hcause]
  · have hframe : entryTrap s i = { cause := .frame } := by
      unfold entryTrap
      split
      · exact absurd rfl h1
      · exact absurd rfl (h4 _ _)
      · exact absurd rfl (h3 _)
      · exact absurd rfl h2
      · exact absurd rfl (h5 _ _)
      · exact absurd rfl (h6 _ _)
      · rfl
    rw [hframe]

end Sys2Proof.Machine

/-! A kernel trap context for an ended task in a slot that still keeps what it goes back to (R211): O49 fails there. -/

namespace Sys2Proof.Machine

/-- Refutes O49: the context starts at the `TRAP.VEC` of the slot as it is once freed. A free slot that still keeps the values
it goes back to (`back`, here with `TRAP.VEC` 1) starts there, and not at the `TRAP.VEC` it shows (0), which the last clause
gives. A task's end frees its slot, `back` included, but the statement
asks for no such thing. -/
theorem not_accessEvents : ¬ Obligations.AccessEvents := by
  unfold Obligations.AccessEvents
  intro h
  obtain ⟨-, -, -, -, hboundary⟩ := h
  obtain ⟨-, -, hended⟩ := hboundary
    { cores := [(0, { slots := [(0, { back := some { trapVec := 1 } })], endedTraps := [(0, 0, 0, 0)] })] } 0 0 _ rfl rfl rfl
  obtain ⟨t, ht, -, -, -, -, -, hpc, -⟩ := hended 0 0 0 0 [] 0 rfl rfl rfl (fun hr => nomatch hr) 0 rfl
  obtain rfl := Host.Outcome.next.inj ht
  exact absurd hpc (by decide)

end Sys2Proof.Machine

/-! The end of a task (R30, R381, R182, R169): what it leaves of the slot, the journal and the launch, and O17. -/

namespace Sys2Proof.Machine

/-! ### What the end of a task leaves -/

/-- The flags of the lane operations of a slot, those bound and those issued (R30). -/
def Core.laneFlags (k : Core) (t : Nat) : Nat :=
  (k.lanes ++ k.bound.map (·.op)).foldl (fun f o => if o.slot == t then f ||| o.flags else f) 0

/-- The journal entry of a task that ends: its own is marked. -/
def JEntry.outlive (t : Nat) (busy : Option (Nat × Nat)) (j : JEntry) : JEntry :=
  if j.used && j.slot == t && !j.ended then { j with ended := true, busy := busy } else j

/-- The object that a slot's exclusive task keeps busy. -/
def Slot.keepsBusy (sl : Slot) : Option (Nat × Nat) := sl.excl.map fun o => (sl.launch, o)

/-- A core after the end of the task of a slot (R30). -/
def Core.taskEnded (k : Core) (t : Nat) : Core :=
  { k.setSlot t (k.slot t).freed with
    commands := orphanCommands t k.commands
    journal := k.journal.map (JEntry.outlive t (k.slot t).keepsBusy)
    endedTraps := k.endedTraps ++ endedCauses (k.slot t)
    lanes := (k.lanes.filter fun o => o.slot != t || o.unformed.isNone).map (LaneOp.outlive t (k.slot t).keepsBusy)
    bound := k.bound.map fun b => { b with op := b.op.outlive t (k.slot t).keepsBusy }
    transfers := k.transfers.map (LaneOp.outlive t (k.slot t).keepsBusy) }

/-- A launch after the end of the task of a slot (R30, R322, R371). -/
def Launch.taskEnded (k : Core) (c t : Nat) (x : Launch) : Launch :=
  { x.leaveAll c t with
    flags := x.flags ||| ((k.slot t).fpStat.toNat % 32) ||| k.laneFlags t
    discarded := x.discarded + ((k.slot t).binds.map Bind.unread).sum }

theorem State.launch?_congr {s t : State} (h : t.launches = s.launches) (l : Nat) : t.launch? l = s.launch? l :=
  congrArg (tget · l) h

theorem State.modLaunch_launches_congr {s t : State} (h : t.launches = s.launches) (l : Nat) (f : Launch → Launch) :
    (t.modLaunch l f).launches = (s.modLaunch l f).launches := by
  simp only [State.modLaunch, State.launch?_congr h]
  cases s.launch? l <;> simp [h]

section
variable (s : State) (c t : Nat)

theorem endTask_cores : (endTask s c t).cores = tset s.cores c ((s.core c).taskEnded t) := by
  simp only [endTask, State.pokeLaunch, State.pokeAll_cores]
  split <;> simp only [State.poke_cores, State.modLaunch_cores] <;> rfl

theorem endTask_launches :
    (endTask s c t).launches = (s.modLaunch (s.slotAt c t).launch (Launch.taskEnded (s.core c) c t)).launches := by
  simp only [endTask, State.pokeLaunch, State.pokeAll_launches]
  split <;> exact State.modLaunch_launches_congr (s := s) (by rfl) _ _

@[simp] theorem endTask_cur : (endTask s c t).cur = s.cur := by
  simp only [endTask, State.pokeLaunch, State.pokeAll_cur]
  split <;> exact State.modLaunch_cur ..

@[simp] theorem endTask_core : (endTask s c t).core c = (s.core c).taskEnded t := by
  simp [State.core, endTask_cores]

theorem endTask_core_ne {d : Nat} (h : d ≠ c) : (endTask s c t).core d = s.core d := by
  simp [State.core, endTask_cores, tget_tset_ne _ _ h]

@[simp] theorem endTask_slotAt : (endTask s c t).slotAt c t = (s.slotAt c t).freed := by
  rw [State.slotAt, endTask_core]
  exact Core.slot_setSlot _ t _

theorem endTask_slotAt_ne {d k : Nat} (h : d ≠ c ∨ k ≠ t) : (endTask s c t).slotAt d k = s.slotAt d k := by
  by_cases hd : d = c
  · subst hd
    rw [State.slotAt, endTask_core]
    exact Core.slot_setSlot_ne _ _ (h.resolve_left (fun h => h rfl))
  · rw [State.slotAt, endTask_core_ne s c t hd]
    rfl

theorem endTask_launch? :
    (endTask s c t).launch? (s.slotAt c t).launch =
      (s.launch? (s.slotAt c t).launch).map (Launch.taskEnded (s.core c) c t) := by
  rw [State.launch?_congr (endTask_launches s c t), State.launch?_modLaunch]

end

/-- The marks of a journal entry whose task ends change none of what its store is. -/
theorem outlive_keeps_store (t : Nat) (busy : Option (Nat × Nat)) (j : JEntry) :
    ((j.outlive t busy).used, (j.outlive t busy).addr, (j.outlive t busy).data) = (j.used, j.addr, j.data) := by
  unfold JEntry.outlive
  split <;> rfl

theorem getD_map_outlive (t : Nat) (busy : Option (Nat × Nat)) (js : List JEntry) (n : Nat) :
    (js.map (JEntry.outlive t busy)).getD n {} = (js.getD n {}).outlive t busy := by
  simp only [List.getD_eq_getElem?_getD, List.getElem?_map]
  cases js[n]? <;> rfl

/-! ### The flags of the lane operations -/

theorem lor_absorbs {a b : Nat} (c : Nat) (h : a ||| b = a) : (a ||| c) ||| b = a ||| c := by
  rw [Nat.lor_assoc, Nat.lor_comm c, ← Nat.lor_assoc, h]

theorem foldl_flags_absorbs (t : Nat) (os : List LaneOp) {f g : Nat} (h : f ||| g = f) :
    os.foldl (fun f o => if o.slot == t then f ||| o.flags else f) f ||| g =
      os.foldl (fun f o => if o.slot == t then f ||| o.flags else f) f := by
  induction os generalizing f with
  | nil => exact h
  | cons o os ih =>
    rw [List.foldl_cons]
    refine ih ?_
    split
    · exact lor_absorbs _ h
    · exact h

theorem foldl_flags_mem {t : Nat} {os : List LaneOp} {o : LaneOp} (ho : o ∈ os) (hs : o.slot = t) (f : Nat) :
    os.foldl (fun f o => if o.slot == t then f ||| o.flags else f) f ||| o.flags =
      os.foldl (fun f o => if o.slot == t then f ||| o.flags else f) f := by
  induction os generalizing f with
  | nil => cases ho
  | cons p os ih =>
    rw [List.foldl_cons]
    rcases List.mem_cons.mp ho with rfl | ho
    · refine foldl_flags_absorbs t os ?_
      rw [if_pos (beq_iff_eq.mpr hs), Nat.lor_assoc, Nat.or_self]
    · exact ih ho _

theorem laneFlags_absorbs {k : Core} {t : Nat} {o : LaneOp} (ho : o ∈ k.lanes) (hs : o.slot = t) :
    k.laneFlags t ||| o.flags = k.laneFlags t :=
  foldl_flags_mem (List.mem_append_left _ ho) hs 0

/-- The launch has the task's flags and those of its lane operations, and keeps its own. -/
theorem taskEnded_flags (k : Core) (c t : Nat) (x : Launch) :
    let y := x.taskEnded k c t
    y.flags ||| ((k.slot t).fpStat.toNat % 32) = y.flags ∧ y.flags ||| x.flags = y.flags ∧
      ∀ o ∈ k.lanes, o.slot = t → y.flags ||| o.flags = y.flags := by
  refine ⟨lor_absorbs _ ?_, lor_absorbs _ (lor_absorbs _ (Nat.or_self _)), fun o ho hs => ?_⟩
  · rw [Nat.lor_assoc, Nat.or_self]
  · change (_ ||| k.laneFlags t) ||| o.flags = _ ||| k.laneFlags t
    rw [Nat.lor_assoc, laneFlags_absorbs ho hs]

/-! ### The record of an aborted handler -/

section
variable (s : State) (c t : Nat)

@[simp] theorem State.abortRecord_cores : (s.abortRecord c t).cores = s.cores := by
  simp only [State.abortRecord]; split <;> rfl

@[simp] theorem State.abortRecord_launches : (s.abortRecord c t).launches = s.launches := by
  simp only [State.abortRecord]; split <;> rfl

@[simp] theorem State.abortRecord_cur : (s.abortRecord c t).cur = s.cur := by
  simp only [State.abortRecord]; split <;> rfl

end

theorem State.core_congr {s t : State} (h : t.cores = s.cores) (c : Nat) : t.core c = s.core c := by
  rw [State.core, h, State.core]

theorem State.slotAt_congr {s t : State} (h : t.cores = s.cores) (c k : Nat) : t.slotAt c k = s.slotAt c k :=
  congrArg (Core.slot · k) (State.core_congr h c)

/-! ### The instructions that end a task -/

section
variable {s : State} {i : Instr}

/-- `tend`, and `qend` in a wrap-up task, end the task once a handler it stands in has been recorded. -/
theorem exec_taskEnd (h : s.orphan = false) (hi : i = .tend ∨ i = .tend16 ∨ (i = .qend ∧ s.slot.wrapup = true)) :
    exec i s = .next (endTask (s.abortRecord s.cur.1 s.cur.2) s.cur.1 s.cur.2) := by
  have he : endEffect s = .stay (endTask (s.abortRecord s.cur.1 s.cur.2) s.cur.1 s.cur.2) := by
    simp [endEffect, orphanGate, h]
  obtain rfl | rfl | ⟨rfl, hw⟩ := hi
  · change finish s 4 (endEffect s) = _
    rw [he, finish_stay]
  · change finish s 2 (endEffect s) = _
    rw [he, finish_stay]
  · change finish s 4 (orphanGate s (if s.slot.wrapup then endEffect s else .trap (.illegal 0))) = _
    simp only [orphanGate, h, hw, Bool.false_eq_true, if_false, if_true, he, finish_stay]

theorem exec_qend_illegal (hw : s.slot.wrapup = false) (h : s.orphan = false) :
    exec .qend s = .next (takeTrap s { cause := .illegal }) := by
  change finish s 4 (orphanGate s (if s.slot.wrapup then endEffect s else .trap (.illegal 0))) = _
  simp only [orphanGate, h, hw, Bool.false_eq_true, if_false]
  exact finish_trap s 4 _ Cause.noConfusion

theorem orphanGate_aborts (h : s.orphan = true) (e : Effect) :
    orphanGate s e = .stay (abortOrphan s s.cur.1 s.cur.2) := by simp [orphanGate, h]

theorem memGate_passes (h : s.slot.owed.any (·.lda) = false) (e : Effect) : memGate s e = e := by simp [memGate, h]

/-- An orphan is aborted at its end and at a memory access (R169). -/
theorem exec_orphan_aborts (h : s.orphan = true) (hl : s.slot.owed.any (·.lda) = false)
    (hi : i = .tend ∨ i = .tend16 ∨ i = .qend ∨ (∃ k d a imm, i = .ld k d a imm) ∨
      (∃ k d a sc off, i = .lda k d a sc off) ∨ (∃ z v a imm, i = .st z v a imm) ∨ ∃ z v a sc off, i = .str z v a sc off) :
    exec i s = .next (abortOrphan s s.cur.1 s.cur.2) := by
  have hend : ∀ e, finish s 4 (orphanGate s e) = .next (abortOrphan s s.cur.1 s.cur.2) := fun e => by
    rw [orphanGate_aborts h, finish_stay]
  have hmem : ∀ e, finish s 4 (memGate s (orphanGate s e)) = .next (abortOrphan s s.cur.1 s.cur.2) := fun e => by
    rw [memGate_passes hl, hend]
  obtain rfl | rfl | rfl | ⟨k, d, a, imm, rfl⟩ | ⟨k, d, a, sc, off, rfl⟩ | ⟨z, v, a, imm, rfl⟩ | ⟨z, v, a, sc, off, rfl⟩ := hi
  · exact hend _
  · change finish s 2 (orphanGate s _) = _
    rw [orphanGate_aborts h, finish_stay]
  · exact hend _
  · exact hmem _
  · exact hmem _
  · exact hmem _
  · exact hmem _

end

/-- Settles O17: each instruction comes to the end of the task, or to that of an orphan, whose slot, journal and launch the
lemmas above give. -/
theorem taskEnd : Obligations.TaskEnd := by
  unfold Obligations.TaskEnd
  refine ⟨fun s i h hi => ?_, fun s hw h => exec_qend_illegal hw h, fun s i h hl hi => ?_⟩
  · have hslot := State.slotAt_congr (State.abortRecord_cores s s.cur.1 s.cur.2)
    have hcore := State.core_congr (State.abortRecord_cores s s.cur.1 s.cur.2)
    have hfreed := (endTask_slotAt (s.abortRecord s.cur.1 s.cur.2) s.cur.1 s.cur.2).trans (congrArg Slot.freed (hslot _ _))
    refine ⟨_, exec_taskEnd h hi, ?_, ?_, fun a => ?_, fun c k hck => ?_, fun x hx => ?_, fun n => ?_⟩
    · rw [State.slot, endTask_cur, State.abortRecord_cur]
      exact hfreed
    · rw [State.slot, endTask_cur, State.abortRecord_cur, hfreed]
      rfl
    · rw [endTask_mem, State.abortRecord_mem]
    · rw [endTask_slotAt_ne, hslot]
      exact not_and_or.mp fun ⟨hc, hk⟩ => hck (Prod.ext hc hk)
    · have hl := endTask_launch? (s.abortRecord s.cur.1 s.cur.2) s.cur.1 s.cur.2
      rw [hslot, hcore, State.launch?_congr (State.abortRecord_launches _ _ _)] at hl
      refine ⟨_, hl.trans (congrArg _ hx), rfl, taskEnded_flags _ _ _ x⟩
    · rw [State.myCore, endTask_cur, State.abortRecord_cur, endTask_core, hcore]
      exact (congrArg (fun j : JEntry => (j.used, j.addr, j.data)) (getD_map_outlive _ _ _ n)).trans (outlive_keeps_store _ _ _)
  · refine ⟨_, exec_orphan_aborts h hl hi, ?_, fun a => by rw [abortOrphan_mem], fun x hx => ?_⟩
    · rw [State.slot, abortOrphan, endTask_cur, State.modLaunch_cur]
      exact (endTask_slotAt _ _ _).trans (congrArg Slot.freed (State.slotAt_congr (State.modLaunch_cores ..) _ _))
    · have hl := endTask_launch? (s.modLaunch s.slot.launch fun x => { x with orphans := x.orphans + 1 }) s.cur.1 s.cur.2
      rw [State.slotAt_congr (State.modLaunch_cores ..)] at hl
      refine ⟨_, hl.trans (congrArg _ ((State.launch?_modLaunch ..).trans (congrArg _ hx))), rfl⟩

end Sys2Proof.Machine

/-! Messages as their sender makes them (R35, R374, R377, R364): the fields of a message, what Tongs takes, and O30 and O29. -/

namespace Sys2Proof.Machine

/-! ### The fields of a message (R35) -/

theorem crcBit_lt (c : Nat) (b : Bool) : crcBit c b < 2 ^ 16 := by
  have hc : c * 2 % 2 ^ 16 < 2 ^ 16 := Nat.mod_lt _ (by decide)
  simp only [crcBit]
  split
  · exact Nat.xor_lt_two_pow hc (by decide)
  · exact hc

theorem foldl_lt {α : Type} {f : Nat → α → Nat} {n : Nat} (hf : ∀ c a, f c a < n) (l : List α) {c : Nat} (hc : c < n) :
    l.foldl f c < n := by
  induction l generalizing c with
  | nil => exact hc
  | cons a r ih => exact ih (hf c a)

theorem crcByte_lt (c : Nat) (b : Byte) : crcByte c b < 2 ^ 16 := by
  rw [crcByte, List.foldl_cons]
  exact foldl_lt (fun c i => crcBit_lt c (b.getLsbD i)) _ (crcBit_lt _ _)

theorem crc16_lt (bs : List Byte) : crc16 bs < 2 ^ 16 := foldl_lt crcByte_lt bs (by decide)

theorem messageCheck_lt (lo hi : Nat) (ws : List Word) : messageCheck lo hi ws < 2 ^ 16 := crc16_lt _

section
variable {dest cls hi : Nat} (ws : List Word)

theorem mkMsg_lo (hd : dest < 2 ^ 64) (hc : cls < 2 ^ 8) :
    (mkMsg dest cls hi ws).lo.toNat = dest / 2 ^ 8 * 2 ^ 8 + cls := by
  rw [mkMsg, BitVec.toNat_ofNat, Nat.mod_eq_of_lt (by omega)]

theorem mkMsg_hi (hh : hi < 2 ^ 48) :
    (mkMsg dest cls hi ws).hi.toNat = hi + 2 ^ 48 * messageCheck (dest / 2 ^ 8 * 2 ^ 8 + cls) hi ws := by
  have hc := messageCheck_lt (dest / 2 ^ 8 * 2 ^ 8 + cls) hi ws
  rw [mkMsg, BitVec.toNat_ofNat, Nat.mod_eq_of_lt (by omega)]

theorem mkMsg_checked (hd : dest < 2 ^ 64) (hc : cls < 2 ^ 8) (hh : hi < 2 ^ 48) :
    (mkMsg dest cls hi ws).checked = true := by
  have hk := messageCheck_lt (dest / 2 ^ 8 * 2 ^ 8 + cls) hi ws
  have hlow : (mkMsg dest cls hi ws).hi.toNat % 2 ^ 48 = hi := by rw [mkMsg_hi ws hh]; omega
  rw [Msg.checked, hlow, mkMsg_lo ws hd hc, Msg.check, mkMsg_hi ws hh, beq_iff_eq, bitsOf, Nat.shiftRight_eq_div_pow]
  change _ = messageCheck (dest / 2 ^ 8 * 2 ^ 8 + cls) hi ws
  omega

theorem mkMsg_dest (hd : dest < 2 ^ 64) (hc : cls < 2 ^ 8) :
    (mkMsg dest cls hi ws).dest.toNat = dest / 2 ^ 8 * 2 ^ 8 := by
  rw [Msg.dest, mkMsg_lo ws hd hc, BitVec.toNat_ofNat]
  omega

theorem mkMsg_cls (hd : dest < 2 ^ 64) (hc : cls < 2 ^ 8) : (mkMsg dest cls hi ws).cls = cls := by
  rw [Msg.cls, mkMsg_lo ws hd hc, bitsOf, Nat.shiftRight_zero]
  omega

end

theorem headerHi_lt {core dev launch tag prio len : Nat} (top : Bool) (hcore : core < 2 ^ 13) (hdev : dev < 2 ^ 6)
    (hlaunch : launch < 2 ^ 8) (htag : tag < 2 ^ 12) (hprio : prio < 2 ^ 4) (hlen : len < 2 ^ 4) :
    headerHi core dev launch top tag prio len < 2 ^ 48 := by
  cases top <;> simp only [headerHi, if_true, Bool.false_eq_true, if_false] <;> omega

/-- Each field of a header stands in its own bits, below those of the check. -/
theorem headerHi_fields {core dev launch tag prio len : Nat} (top : Bool) (hcore : core < 2 ^ 13) (hdev : dev < 2 ^ 6)
    (hlaunch : launch < 2 ^ 8) (htag : tag < 2 ^ 12) (hprio : prio < 2 ^ 4) (hlen : len < 2 ^ 4) (k : Nat) :
    let x := headerHi core dev launch top tag prio len + 2 ^ 48 * k
    bitsOf x 7 4 = prio ∧ bitsOf x 3 0 = len ∧ bitsOf x 28 21 = launch ∧ bitsOf x 19 8 = tag ∧ bitsOf x 47 35 = core ∧
      bitsOf x 34 29 = dev ∧ (bitsOf x 20 20 == 1) = top := by
  cases top <;>
    simp only [headerHi, bitsOf, Nat.shiftRight_eq_div_pow, if_true, Bool.false_eq_true, if_false, beq_iff_eq,
      beq_eq_false_iff_ne] <;>
    omega

/-- A message of a task has the fields that its sender and R35 give. -/
theorem msgFrom_taskMsg {s s' : State} {t : Nat × Option Nat} {cls prio : Nat} {ws : List Word}
    (hfit : s.numbersFit = true) (hdest : t.1 < 2 ^ 64) (hcls : cls < 2 ^ 8) (hprio : prio < 16) (hlen : ws.length < 16)
    (hcur : s'.cur = s.cur) (hcfg : s'.cfg = s.cfg) (hlaunch : s'.slot.launch = s.slot.launch)
    (hfmt : s'.slot.fmtMode = s.slot.fmtMode) (hhyp : s'.slot.hypCur = s.slot.hypCur) :
    msgFrom s (taskMsg s' t cls prio ws) t.1 cls prio ws (if t.2.isSome then s.cfg.deviceId else 63) := by
  simp only [State.numbersFit, Bool.and_eq_true, decide_eq_true_eq] at hfit
  obtain ⟨⟨⟨hc, hl⟩, hh⟩, hdevice⟩ := hfit
  have hdev : (if t.2.isSome then s.cfg.deviceId else 63) < 2 ^ 6 := by split <;> omega
  simp only [taskMsg, hcur, hcfg, hlaunch, hfmt, hhyp]
  generalize (if t.2.isSome then s.cfg.deviceId else 63) = dev at hdev ⊢
  have hlt := headerHi_lt (s.slot.fmtMode.getLsbD 0) hc hdev hl hh hprio hlen
  have hhi := mkMsg_hi (dest := t.1) (cls := cls) ws hlt
  obtain ⟨fprio, flen, flaunch, ftag, fcore, fdev, ftop⟩ :=
    headerHi_fields (s.slot.fmtMode.getLsbD 0) hc hdev hl hh hprio hlen (messageCheck (t.1 / 2 ^ 8 * 2 ^ 8 + cls)
      (headerHi s.cur.1 dev s.slot.launch (s.slot.fmtMode.getLsbD 0) s.slot.hypCur prio ws.length) ws)
  rw [← hhi] at fprio flen flaunch ftag fcore fdev ftop
  exact ⟨mkMsg_dest ws hdest hcls, mkMsg_cls ws hdest hcls, fprio, rfl, flen, flaunch, ftag, fcore, fdev, ftop,
    mkMsg_checked ws hdest hcls hlt⟩

/-! ### A packet toward a peer (R274) -/

/-- A launch but for its leases. -/
def Launch.sansLeases (x : Launch) : Launch := { x with leases := [] }

theorem State.modLease_launch? (s : State) (l peer : Nat) (f : Lease → Lease) (m : Nat) :
    ((s.modLease l peer f).launch? m).map Launch.sansLeases = (s.launch? m).map Launch.sansLeases := by
  by_cases h : m = l
  · subst h
    rw [State.modLease, State.launch?_modLaunch, Option.map_map]
    refine Option.map_congr fun x _ => ?_
    simp only [Function.comp_apply]
    split <;> rfl
  · rw [State.modLease, State.launch?_modLaunch_ne _ _ h]

theorem State.modLaunch_eq (s : State) (l : Nat) (f : Launch → Launch) :
    s.modLaunch l f = { s with launches := (s.modLaunch l f).launches } := by
  unfold State.modLaunch
  split <;> rfl

/-- Only leases of launches and events that are due change when a lease is woken. -/
theorem wakeLease_eq (s : State) (l peer : Nat) :
    ∃ ls ag, wakeLease s l peer = { s with launches := ls, agenda := ag } ∧
      ∀ m, (tget ls m).map Launch.sansLeases = (s.launch? m).map Launch.sansLeases := by
  unfold wakeLease
  split
  · exact ⟨_, _, rfl, fun m => rfl⟩
  · next x _ =>
    split
    · refine ⟨_, s.agenda ++ [⟨.warmingStart, { die := x.die }⟩], ?_, s.modLease_launch? l peer Lease.wake⟩
      rw [State.modLease, s.modLaunch_eq]
      rfl
    · exact ⟨_, _, rfl, fun m => rfl⟩

/-- A packet that is queued changes its stream, and may wake a lease. -/
theorem enqueue_eq (s : State) (die l peer : Nat) (p : Packet) :
    ∃ ls st ag, enqueue s die l peer p = { s with launches := ls, streams := st, agenda := ag } ∧
      ∀ m, (tget ls m).map Launch.sansLeases = (s.launch? m).map Launch.sansLeases := by
  simp only [enqueue]
  generalize hu : s.modStream die peer _ = u
  have hs : u = { s with streams := u.streams } := by rw [← hu]; rfl
  have hl : u.launches = s.launches := by rw [hs]
  split
  · obtain ⟨ls, ag, he, hm⟩ := wakeLease_eq u l peer
    refine ⟨ls, u.streams, ag ++ [⟨.streamFlitSend, { die := die, peer := peer }⟩], ?_, fun m => (hm m).trans (congrArg _ (State.launch?_congr hl m))⟩
    rw [he, hs]
    rfl
  · refine ⟨s.launches, u.streams, s.agenda ++ [⟨.streamFlitSend, { die := die, peer := peer }⟩], ?_, fun m => rfl⟩
    rw [hs]
    rfl

/-- A request toward a peer is a packet under a transaction of its own. -/
theorem sendRequest_eq (s : State) (l peer : Nat) (isMsg : Bool) (id : Nat) (mk : Nat → Packet) :
    ∃ ls st tr ag, sendRequest s l peer isMsg id mk =
        { s with launches := ls, streams := st, transactions := tr, agenda := ag } ∧
      ∀ m, (tget ls m).map Launch.sansLeases = (s.launch? m).map Launch.sansLeases := by
  simp only [sendRequest]
  generalize hu : s.modStream (s.baseDie peer) peer _ = u
  have hs : u = { s with streams := u.streams } := by rw [← hu]; rfl
  generalize hv : State.sendDie _ l peer = die
  obtain ⟨ls, st, ag, he, hm⟩ := enqueue_eq
    { u with transactions := tset u.transactions (transKey peer (s.nextTrans peer)) (isMsg, id) } die l peer (mk (s.nextTrans peer))
  refine ⟨ls, st, tset u.transactions (transKey peer (s.nextTrans peer)) (isMsg, id), ag, he.trans ?_, fun m => (hm m).trans (congrArg _ (State.launch?_congr (by rw [hs]) m))⟩
  rw [hs]

/-! ### What Tongs takes (R45, R152) -/

/-- A message that is handed over is counted in flight and stands in the transits under the next number. -/
theorem handToTongs_eq (s : State) (die : Nat) (peer : Option Nat) (m : Msg) (sender : Sender) :
    ∃ ls st tr ag leg, handToTongs s die peer m sender =
        { s with
          launches := ls, streams := st, transactions := tr, agenda := ag, nextId := s.nextId + 1
          transits := tset s.transits s.nextId { msg := m, sender := sender, dest := m.core, leg := leg } } ∧
      (peer = none → leg = .flying) ∧
      ∀ l, (tget ls l).map Launch.sansLeases = ((s.inflight m.launch die 1).launch? l).map Launch.sansLeases := by
  simp only [handToTongs]
  have hi : s.inflight m.launch die 1 = { s with launches := (s.inflight m.launch die 1).launches } := s.modLaunch_eq _ _
  generalize s.inflight m.launch die 1 = u at hi ⊢
  cases peer with
  | none =>
    refine ⟨u.launches, s.streams, s.transactions, s.agenda ++ [⟨.messageArrival, { id := s.nextId }⟩], .flying, ?_,
      fun _ => rfl, fun l => rfl⟩
    rw [hi]
    rfl
  | some p =>
    obtain ⟨ls, st, tr, ag, he, hm⟩ := sendRequest_eq { u.fresh with
      transits := tset u.fresh.transits s.nextId
        { msg := m, sender := sender, dest := m.core, leg := .abroad p (u.fresh.nextTrans p) } } m.launch p true s.nextId
      fun tr => { header := packetHeader 1 (messageFlits m.words.length) false 0 tr m.launch 0, words := m.lo :: m.hi :: m.words }
    refine ⟨ls, st, tr, ag, .abroad p (u.fresh.nextTrans p), he.trans ?_, fun h => absurd h (Option.some_ne_none p), hm⟩
    rw [hi]
    rfl

/-! ### What the part reads for itself -/

/-- What a translation and a read for the part itself depend on is the same. -/
structure SamePart (s t : State) : Prop where
  mem : t.mem = s.mem
  poison : t.poison = s.poison
  cfg : t.cfg = s.cfg
  linked : t.linked = s.linked
  asidBase : t.asidBase = s.asidBase

section
variable {s t : State} (h : SamePart s t)
include h

theorem partKey_congr : partKey t = partKey s := by
  funext asid va kind
  have hwalk : walk t asid va = walk s asid va := by
    unfold walk walkBy asidEntry
    rw [h.mem, h.asidBase]
  have htarget : targetOf t = targetOf s := by
    funext l va
    unfold targetOf hasCxl
    rw [h.cfg, h.linked]
  simp only [partKey, hwalk, htarget]

theorem partRead_congr (asid va n : Nat) : partRead t asid va n = partRead s asid va n := by
  induction n generalizing va with
  | zero => rfl
  | succ n ih => simp only [partRead, partKey_congr h, h.poison, h.mem, ih]

theorem classOf_congr (hlr : t.lr = s.lr) : t.classOf = s.classOf := by
  funext l cls
  simp only [State.classOf, State.asidOf, partWord, partRead_congr h, hlr]

end
/-! ### The operands and the gates of a message -/

section
variable (s : State) (xs : List SrcM)

theorem consumed_field {α : Type} (f : Slot → α) (hf : ∀ sl p b, f { sl with payload := p, binds := b } = f sl) :
    f (consumed s xs).slot = f s.slot := by
  obtain ⟨p, b, h⟩ := slot_consumed_eq s xs
  rw [h, hf]

@[simp] theorem consumed_launch : (consumed s xs).slot.launch = s.slot.launch := consumed_field s xs Slot.launch fun _ _ _ => rfl
@[simp] theorem consumed_composer : (consumed s xs).slot.composer = s.slot.composer :=
  consumed_field s xs Slot.composer fun _ _ _ => rfl
@[simp] theorem consumed_win : (consumed s xs).slot.win = s.slot.win := consumed_field s xs Slot.win fun _ _ _ => rfl
@[simp] theorem consumed_pc : (consumed s xs).slot.pc = s.slot.pc := consumed_field s xs Slot.pc fun _ _ _ => rfl
@[simp] theorem consumed_hypCur : (consumed s xs).slot.hypCur = s.slot.hypCur := consumed_field s xs Slot.hypCur fun _ _ _ => rfl
@[simp] theorem consumed_fmtMode : (consumed s xs).slot.fmtMode = s.slot.fmtMode :=
  consumed_field s xs Slot.fmtMode fun _ _ _ => rfl
@[simp] theorem consumed_owed : (consumed s xs).slot.owed = s.slot.owed := consumed_field s xs Slot.owed fun _ _ _ => rfl
@[simp] theorem consumed_reservedWord : (consumed s xs).slot.reservedWord = s.slot.reservedWord :=
  consumed_field s xs Slot.reservedWord fun _ _ _ => rfl
@[simp] theorem resolveTarget_consumed : resolveTarget (consumed s xs) = resolveTarget s := rfl
@[simp] theorem defaultPrio_consumed (l cls : Nat) : (consumed s xs).defaultPrio l cls = (s.classOf l cls).prio := by
  rw [State.defaultPrio, classOf_congr (s := s) (t := consumed s xs) ⟨rfl, rfl, rfl, rfl, rfl⟩ rfl]

@[simp] theorem released_consumed : (consumed s xs).released = s.released := by
  have hcore : (consumed s xs).myCore = s.myCore.setSlot s.cur.2 (s.slot.reads xs).2 := s.myCore_setSlot _
  have hjournal : (consumed s xs).myCore.journal = s.myCore.journal := by rw [hcore]; rfl
  have htrans : (consumed s xs).myCore.transferring = s.myCore.transferring := by rw [hcore]; rfl
  have hline : linePending (consumed s xs) = linePending s := rfl
  simp only [State.released, hjournal, htrans, hline, consumed_owed, consumed_cur]

end

theorem releaseGate_passes {s : State} (h : s.released = true) (e : Effect) : releaseGate s e = e := by
  simp only [State.released, Bool.and_eq_true, Bool.not_eq_true'] at h
  obtain ⟨⟨⟨hmine, howed⟩, htrans⟩, hline⟩ := h
  have hnone : s.myCore.journal.findIdx? (fun j => j.mine s.cur.2 && j.refused) = none := by
    rw [List.findIdx?_eq_none_iff]
    intro j hj
    rw [List.any_eq_false] at hmine
    simp [hmine j hj]
  simp only [releaseGate, hnone, hmine, howed, htrans, hline, Bool.or_self, Bool.false_eq_true, if_false]

section
variable {s : State}

theorem orphanGate_passes (h : s.memReady = true) (e : Effect) : orphanGate s e = e := by
  simp only [State.memReady, Bool.and_eq_true, Bool.not_eq_true'] at h
  simp only [orphanGate, h.2, Bool.false_eq_true, if_false]

theorem memGate_of_memReady (h : s.memReady = true) (e : Effect) : memGate s e = e := by
  simp only [State.memReady, Bool.and_eq_true, Bool.not_eq_true'] at h
  exact memGate_passes h.1 e

end

/-! ### What a composer shows (R360) -/

/-- A word still reserved makes a message wait. -/
theorem composerBlocks_reserved {ws : List Reg} {v : Word} {p : Option Nat} (h : (⟨v, .empty p⟩ : Reg) ∈ ws) :
    composerBlocks ws = some .wait := by
  unfold composerBlocks
  split
  · rfl
  · next hn => exact absurd (List.findSome?_eq_none_iff.mp hn _ h) (Option.some_ne_none _)

theorem composerBlocks_faulted (v : Word) (p : Bool) (ad pc : Word) :
    composerBlocks [⟨v, .faulted p ad pc⟩] =
      some (.trap { cause := if p then .poison else .access, addr := ad, info := pc, deferred := true }) := rfl

/-- Words that are all full show nothing. -/
theorem composerBlocks_composed {sl : Slot} (h : sl.composed = true) : composerBlocks sl.composer = none := by
  rw [Slot.composed, List.all_eq_true] at h
  have hfull : ∀ r ∈ sl.composer, r.st = .full := fun r hr => beq_iff_eq.mp (h r hr)
  unfold composerBlocks
  rw [List.findSome?_eq_none_iff.mpr fun r hr => by rw [hfull r hr], List.findSome?_eq_none_iff.mpr fun r hr => by rw [hfull r hr]]

/-- Full words are not reserved. -/
theorem reservedWord_of_composed {sl : Slot} (h : sl.composed = true) : sl.reservedWord = false := by
  rw [Slot.composed, List.all_eq_true] at h
  rw [Slot.reservedWord, List.any_eq_false]
  intro r hr
  rw [beq_iff_eq.mp (h r hr)]
  exact Bool.false_ne_true

/-! ### `send`, `spawn` and `migrate`, by what stops them -/

/-- The composer after a `send`, which may keep it (R374). -/
def State.composerSent (s : State) (keep : Bool) : State :=
  if keep then s else s.modSlot fun sl => { sl with composer := [] }

section
variable (s : State) (keep : Bool)

@[simp] theorem State.composerSent_cur : (s.composerSent keep).cur = s.cur := by cases keep <;> rfl
@[simp] theorem State.composerSent_mem : (s.composerSent keep).mem = s.mem := by cases keep <;> rfl
@[simp] theorem State.composerSent_transits : (s.composerSent keep).transits = s.transits := by cases keep <;> rfl
@[simp] theorem State.composerSent_launches : (s.composerSent keep).launches = s.launches := by cases keep <;> rfl

theorem otherSlots_composerSent : otherSlots s (s.composerSent keep) := by
  cases keep
  · exact otherSlots_setSlot s _
  · exact fun _ _ _ => rfl

theorem State.composerSent_slot :
    (s.composerSent keep).slot = { s.slot with composer := if keep then s.slot.composer else [] } := by
  cases keep
  · exact s.slot_setSlot _
  · rfl

end

theorem State.slotAt_modCore_same_slots (s : State) (c : Nat) {f : Core → Core} (h : ∀ k, (f k).slots = k.slots) :
    (s.modCore c f).slotAt = s.slotAt := by
  funext d t
  exact State.slotAt_setCore_same_slots (h _) d t

/-- The core and the task once a `spawn` is counted (R48). -/
def State.spawnCounted (s : State) : State :=
  (s.modMyCore fun k => { k with spawns := k.spawns + 1 }).modSlot fun sl => { sl with spawning := false }

section
variable (s : State)

theorem State.slotAt_countSpawn : (s.modMyCore fun k => { k with spawns := k.spawns + 1 }).slotAt = s.slotAt :=
  s.slotAt_modCore_same_slots s.cur.1 fun _ => rfl

theorem State.spawnCounted_slot : s.spawnCounted.slot = { s.slot with spawning := false } := by
  rw [State.spawnCounted, State.slot_modSlot, State.slot, State.slotAt_countSpawn]
  rfl

theorem otherSlots_spawnCounted : otherSlots s s.spawnCounted := fun c k hk =>
  (otherSlots_setSlot (s.modMyCore fun k => { k with spawns := k.spawns + 1 }) _ c k hk).trans
    (congrFun (congrFun s.slotAt_countSpawn c) k)

theorem State.spawnCounted_spawns : s.spawnCounted.myCore.spawns = s.myCore.spawns + 1 := by
  rw [State.spawnCounted, State.modSlot_eq, State.myCore_setSlot, State.myCore_modMyCore]
  rfl

end

section
variable {s : State} {cls : Nat} {a b : Src} {t x : Word} (hm : s.memReady = true)
include hm

section
variable (keep : Bool) (hg : operandsGive s .z [⟨a, false⟩, ⟨b, false⟩] [t, x] = true)
include hg

theorem sendEffect_illegal (hb : b ≠ .z) (hx : 16 ≤ x.toNat) : sendEffect s cls a b keep = .trap (.illegal x) := by
  simp only [sendEffect, orphanGate_passes hm, memGate_of_memReady hm, withOps_gives (xs := [blk a, blk b]) hg, beq_iff_eq,
    if_neg hb]
  exact if_pos hx

section
variable {p : Nat} (hp : p = (if b = .z then (s.classOf s.slot.launch cls).prio else x.toNat)) (hlt : p < 16)
include hp hlt

theorem sendEffect_noTarget (ht : resolveTarget s s.slot.launch t = none) :
    sendEffect s cls a b keep = .trap (targetTrap t) := by
  simp only [sendEffect, orphanGate_passes hm, memGate_of_memReady hm, withOps_gives (xs := [blk a, blk b]) hg, beq_iff_eq,
    consumed_launch, defaultPrio_consumed, resolveTarget_consumed, List.getD_cons_zero, List.getD_cons_succ, ← hp,
    if_neg (Nat.not_le.mpr hlt), ht]

theorem sendEffect_blocked {y : Nat × Option Nat} (ht : resolveTarget s s.slot.launch t = some y) {e : Effect}
    (he : composerBlocks s.slot.composer = some e) : sendEffect s cls a b keep = e := by
  simp only [sendEffect, orphanGate_passes hm, memGate_of_memReady hm, withOps_gives (xs := [blk a, blk b]) hg, beq_iff_eq,
    consumed_launch, consumed_composer, defaultPrio_consumed, resolveTarget_consumed, List.getD_cons_zero,
    List.getD_cons_succ, ← hp, if_neg (Nat.not_le.mpr hlt), ht, he]

/-- A `send` that is not stopped hands over the composer's words in the state in which its operands have been taken. -/
theorem sendEffect_sends {y : Nat × Option Nat} (ht : resolveTarget s s.slot.launch t = some y) (hr : s.released = true)
    (hc : s.slot.composed = true) :
    sendEffect s cls a b keep = .done ((handToTongs (consumed s [blk a, blk b]) (dieOf s.cur.1) y.2
        (taskMsg (consumed s [blk a, blk b]) y cls p (s.slot.composer.map (·.val)))
        (.task s.cur.1 s.cur.2)).composerSent keep) := by
  simp only [sendEffect, orphanGate_passes hm, memGate_of_memReady hm, withOps_gives (xs := [blk a, blk b]) hg, beq_iff_eq,
    consumed_launch, consumed_composer, defaultPrio_consumed, resolveTarget_consumed, List.getD_cons_zero,
    List.getD_cons_succ, ← hp, if_neg (Nat.not_le.mpr hlt), ht, composerBlocks_composed hc, consumed_cur,
    releaseGate_passes ((released_consumed s _).trans hr)]
  rfl

end
end

section
variable (hg : operandsGive s .z [⟨a, false⟩, ⟨b, false⟩] [t, x] = true)
include hg

theorem spawnEffect_noTarget (ht : resolveTarget s s.slot.launch t = none) :
    spawnEffect s cls a b = .trap (targetTrap t) := by
  simp only [spawnEffect, orphanGate_passes hm, memGate_of_memReady hm, withOps_gives (xs := [blk a, blk b]) hg,
    consumed_launch, resolveTarget_consumed, List.getD_cons_zero, ht]

section
variable {y : Nat × Option Nat} (ht : resolveTarget s s.slot.launch t = some y)
include ht

theorem spawnEffect_reserved (hw : s.slot.reservedWord = true) : spawnEffect s cls a b = .wait := by
  simp only [spawnEffect, orphanGate_passes hm, memGate_of_memReady hm, withOps_gives (xs := [blk a, blk b]) hg,
    consumed_launch, resolveTarget_consumed, List.getD_cons_zero, ht, consumed_reservedWord, hw, if_true]

variable (hw : s.slot.reservedWord = false)
include hw

theorem spawnEffect_full (hl : s.myCore.spawnLimit ≤ s.myCore.spawns) :
    spawnEffect s cls a b = .stay (s.modSlot fun z => { z.waits with spawning := true }) := by
  simp only [spawnEffect, orphanGate_passes hm, memGate_of_memReady hm, withOps_gives (xs := [blk a, blk b]) hg,
    consumed_launch, resolveTarget_consumed, List.getD_cons_zero, ht, consumed_reservedWord, hw, Bool.false_eq_true,
    if_false, if_pos hl]

theorem spawnEffect_sends (hl : s.myCore.spawns < s.myCore.spawnLimit) (hr : s.released = true) :
    spawnEffect s cls a b = .done (handToTongs (consumed s [blk a, blk b]) (dieOf s.cur.1) y.2
        (taskMsg (consumed s [blk a, blk b]) y cls (s.classOf s.slot.launch cls).prio [x])
        (.spawn s.cur.1 s.cur.2)).spawnCounted := by
  simp only [spawnEffect, orphanGate_passes hm, memGate_of_memReady hm, withOps_gives (xs := [blk a, blk b]) hg,
    consumed_launch, resolveTarget_consumed, defaultPrio_consumed, List.getD_cons_zero, List.getD_cons_succ, ht,
    consumed_reservedWord, hw, Bool.false_eq_true, if_false, if_neg (Nat.not_le.mpr hl),
    releaseGate_passes ((released_consumed s _).trans hr)]
  rfl

end
end
end

/-! ### `migrate` -/

/-- Registers that are all full are carried with their values. -/
theorem carried_full (n : Nat) {regs : List Reg} (hlen : n ≤ regs.length) (hfull : (regs.take n).all (fun r => r.st == .full) = true) :
    carried regs n = ((regs.take n).map (·.val), none) := by
  induction n generalizing regs with
  | zero => simp only [carried, List.take_zero, List.map_nil]
  | succ n ih =>
    cases regs with
    | nil => exact absurd hlen (by simp)
    | cons r rest =>
      rw [List.take_succ_cons, List.all_cons, Bool.and_eq_true, beq_iff_eq] at hfull
      have hval : r.peek = .val r.val := by rw [Reg.peek, hfull.1]
      simp only [carried, hval, groupThree_val, ih (Nat.le_of_succ_le_succ hlen) hfull.2, List.take_succ_cons, List.map_cons]

theorem migrateEffect_frame {s : State} {cls : Nat} {a : Src} (hm : s.memReady = true) (hf : s.slot.migrating = none)
    (hd : s.slot.depth ≠ 0) : migrateEffect s cls a = .trap { cause := .frame } := by
  simp only [migrateEffect, orphanGate_passes hm, hf, Option.isSome_none, Bool.false_eq_true, if_false, if_pos hd]

theorem migrateEffect_sends {s : State} {cls : Nat} {a : Src} {t : Word} {y : Nat × Option Nat} (hm : s.memReady = true)
    (hg : operandsGive s .z [⟨a, false⟩] [t] = true) (hf : s.slot.migrating = none) (hd : s.slot.depth = 0)
    (ht : resolveTarget s s.slot.launch t = some y) (hlen : 8 ≤ s.slot.win.act.length)
    (hfull : ((s.slot.win.act.take 8).all fun r => r.st == .full) = true) (hw : s.slot.reservedWord = false)
    (hr : s.released = true) :
    migrateEffect s cls a = .stay ((handToTongs (consumed s [blk a]) (dieOf s.cur.1) y.2
        (taskMsg (consumed s [blk a]) y cls (s.classOf s.slot.launch cls).prio
          ((s.slot.win.act.take 8).map (·.val) ++ [s.slot.pc + 4]))
        (.migrate s.cur.1 s.cur.2)).modSlot fun z => { s.slot with
          composer := z.composer, migrating := some s.nextId, migrateSrc := a, migrateEnd := none, stall := .none }) := by
  simp only [migrateEffect, orphanGate_passes hm, hf, Option.isSome_none, Bool.false_eq_true, if_false, hd, ne_eq,
    not_true_eq_false, memGate_of_memReady hm, withOps_gives (xs := [blk a]) hg, consumed_launch, resolveTarget_consumed,
    List.getD_cons_zero, ht, consumed_win, consumed_pc, carried_full 8 hlen hfull, consumed_reservedWord, hw, consumed_cur,
    defaultPrio_consumed, releaseGate_passes ((released_consumed s _).trans hr)]
  rfl

/-- Settles O30, by the first of the checks of a message that stops it. -/
theorem sendStops : Obligations.SendStops := by
  unfold Obligations.SendStops
  intro s cls a b keep t x hm
  have trapped : ∀ {e : Effect} {tr : Trap}, tr.cause ≠ .posted → e = .trap tr → finish s 4 e = .next (takeTrap s tr) :=
    fun hc he => he ▸ finish_trap s 4 _ hc
  refine ⟨fun hg => ⟨fun hb hx => ?_, fun hb hx ht => ?_, fun ht => ?_, fun ht hw => ?_, fun ht hw hl => ?_,
    fun hb hx ht => ?_⟩, fun hf hd => trapped Cause.noConfusion (migrateEffect_frame hm hf hd)⟩
  · exact trapped Cause.noConfusion (sendEffect_illegal hm keep hg hb hx)
  · exact trapped Cause.noConfusion (sendEffect_noTarget hm keep hg (if_neg hb).symm hx ht)
  · exact trapped Cause.noConfusion (spawnEffect_noTarget hm hg ht)
  · obtain ⟨y, hy⟩ := Option.ne_none_iff_exists'.mp ht
    exact congrArg (finish s 4) (spawnEffect_reserved hm hg hy hw)
  · obtain ⟨y, hy⟩ := Option.ne_none_iff_exists'.mp ht
    exact congrArg (finish s 4) (spawnEffect_full hm hg hy hw hl)
  · obtain ⟨y, hy⟩ := Option.ne_none_iff_exists'.mp ht
    have blocked {e : Effect} := sendEffect_blocked (e := e) (cls := cls.toNat) hm keep hg (if_neg hb).symm hx hy
    refine ⟨fun p hp => congrArg (finish s 4) (blocked (composerBlocks_reserved hp)), fun p ad pc hc => ?_⟩
    exact trapped (by split <;> exact Cause.noConfusion) (blocked (hc ▸ composerBlocks_faulted 0 p ad pc))

/-! ### What a message that is sent leaves -/

/-- The launch that a message is counted for. -/
theorem inflight_of_sansLeases {s u : State} {l die : Nat} {d : Int} {x : Launch} (hx : s.launch? l = some x)
    (hu : (u.launch? l).map Launch.sansLeases = ((s.inflight l die d).launch? l).map Launch.sansLeases) :
    ∃ x', u.launch? l = some x' ∧ x'.inflight = x.inflight.set die (x.inflight.getD die 0 + d) := by
  rw [State.inflight, State.launch?_modLaunch, hx, Option.map_some, Option.map_some, Option.map_eq_some_iff] at hu
  obtain ⟨x', hx', he⟩ := hu
  exact ⟨x', hx', congrArg Launch.inflight he⟩

/-- A message that is handed over: its way, and what it leaves alone. -/
theorem handToTongs_sends (s : State) (die : Nat) (peer : Option Nat) (m : Msg) (sender : Sender) :
    ∃ v x, handToTongs s die peer m sender = v ∧ v.cores = s.cores ∧ v.cur = s.cur ∧ v.mem = s.mem ∧
      tget v.transits s.nextId = some x ∧ x.msg = m ∧ x.sender = sender ∧
      (peer = none → x.leg = .flying ∧ x.dest = x.msg.core) ∧
      ∀ l, s.launch? m.launch = some l →
        ∃ l', v.launch? m.launch = some l' ∧ l'.inflight = l.inflight.set die (l.inflight.getD die 0 + 1) := by
  obtain ⟨ls, st, tr, ag, leg, he, hleg, hl⟩ := handToTongs_eq s die peer m sender
  exact ⟨_, { msg := m, sender := sender, dest := m.core, leg := leg }, he, rfl, rfl, rfl, by simp, rfl, rfl,
    fun hp => ⟨hleg hp, rfl⟩, fun l hx => inflight_of_sansLeases hx (hl m.launch)⟩

theorem State.slot_congr {s t : State} (hcores : t.cores = s.cores) (hcur : t.cur = s.cur) : t.slot = s.slot := by
  rw [State.slot, hcur, State.slotAt_congr hcores, State.slot]

/-- An instruction that changes nothing of the slot but its streams and its composer changes its pc alone. -/
theorem onlyPc_advance {s w : State} (len : Nat) (hcur : w.cur = s.cur)
    (hslot : ∃ p b c, w.slot = { s.slot with payload := p, binds := b, composer := c })
    (hothers : otherSlots s w) (hmem : w.mem = s.mem) : onlyPc s (advance w len) len := by
  obtain ⟨p, b, c, hw⟩ := hslot
  refine ⟨?_, ?_, ?_, ?_, hothers.trans hcur (otherSlots_advance w len), fun a => congrArg (memGet · a) hmem⟩ <;>
    rw [slot_advance, hw]
  rfl

/-- The slot of a state in which the operands have been taken and the rest of the slot stands. -/
theorem slot_of_consumed {s v : State} {xs : List SrcM} (hcores : v.cores = (consumed s xs).cores) (hcur : v.cur = s.cur) :
    ∃ p b, v.slot = { s.slot with payload := p, binds := b } := by
  obtain ⟨p, b, h⟩ := slot_consumed_eq s xs
  exact ⟨p, b, (State.slot_congr hcores hcur).trans h⟩

theorem otherSlots_of_cores {s t v : State} (h : otherSlots s t) (hcores : v.cores = t.cores) : otherSlots s v :=
  fun c k hk => (State.slotAt_congr hcores c k).trans (h c k hk)

/-- Settles O29: each message is handed over in the state in which its operands have been taken. -/
theorem sendResult : Obligations.SendResult := by
  unfold Obligations.SendResult
  intro s cls a b keep t x dest peer hmay hfit ht hdest dev hdev
  obtain ⟨hm, hr⟩ := Bool.and_eq_true_iff.mp hmay
  subst hdev
  have msg (xs : List SrcM) {prio : Nat} {ws : List Word} (hprio : prio < 16) (hlen : ws.length < 16) :=
    msgFrom_taskMsg (s' := consumed s xs) (t := (dest, peer)) hfit hdest cls.isLt hprio hlen rfl rfl (consumed_launch ..)
      (consumed_fmtMode ..) (consumed_hypCur ..)
  refine ⟨fun hg hc hlen prio hp hlt => ?_, fun hg hw hl hlt => ?_, fun hg hf hd hc hlt hlen hfull => ?_⟩
  · have he := (congrArg (finish s 4) (sendEffect_sends hm keep hg hp hlt ht hr hc)).trans (finish_done s _ 4)
    have hmsg := msg [blk a, blk b] (ws := s.slot.composer.map (·.val)) hlt (by simp; omega)
    generalize taskMsg _ _ _ _ _ = g at he hmsg
    obtain ⟨v, m, hv, hcores, hcur, hmem, hget, rfl, hsender, hleg, hcount⟩ :=
      handToTongs_sends (consumed s [blk a, blk b]) (dieOf s.cur.1) peer g (.task s.cur.1 s.cur.2)
    rw [hv] at he
    obtain ⟨p, q, hslot⟩ := slot_of_consumed hcores hcur
    have hothers : otherSlots s v := otherSlots_of_cores (otherSlots_consumed s _) hcores
    have hlaunch : m.msg.launch = s.slot.launch := hmsg.2.2.2.2.2.1
    rw [hlaunch] at hcount
    have hsent := v.composerSent_slot keep
    rw [hslot] at hsent
    refine ⟨_, m, he, onlyPc_advance 4 ((v.composerSent_cur keep).trans hcur) ⟨p, q, _, hsent⟩
      (hothers.trans hcur (otherSlots_composerSent v keep)) ((v.composerSent_mem keep).trans hmem), ?_,
      (congrArg (tget · s.nextId) (v.composerSent_transits keep)).trans hget, hsender, hmsg, hleg, fun l hl => ?_⟩
    · rw [slot_advance, hsent]
    · obtain ⟨l', hl', hin⟩ := hcount l hl
      exact ⟨l', (State.launch?_congr (v.composerSent_launches keep) _).trans hl', hin⟩
  · have he := (congrArg (finish s 4) (spawnEffect_sends hm (cls := cls.toNat) hg ht hw hl hr)).trans (finish_done s _ 4)
    have hmsg := msg [blk a, blk b] (ws := [x]) hlt (by simp)
    generalize taskMsg _ _ _ _ _ = g at he hmsg
    obtain ⟨v, m, hv, hcores, hcur, hmem, hget, rfl, hsender, -⟩ :=
      handToTongs_sends (consumed s [blk a, blk b]) (dieOf s.cur.1) peer g (.spawn s.cur.1 s.cur.2)
    rw [hv] at he
    obtain ⟨p, q, hslot⟩ := slot_of_consumed hcores hcur
    have hothers : otherSlots s v := otherSlots_of_cores (otherSlots_consumed s _) hcores
    have hcounted := v.spawnCounted_slot
    rw [hslot] at hcounted
    have hbefore := s.slot_modSlot fun z => { z with spawning := false }
    have hspawns : v.myCore.spawns = s.myCore.spawns := by
      rw [State.myCore, hcur, State.core_congr hcores]
      change (s.setSlot _).myCore.spawns = _
      rw [State.myCore_setSlot]
      rfl
    refine ⟨_, m, he, ?_, onlyPc_advance 4 hcur ⟨p, q, s.slot.composer, ?_⟩ (fun c k hk => ?_) hmem, ?_, ?_, hget, hsender,
      hmsg⟩
    · rw [slot_advance, hcounted]
    · rw [hcounted, hbefore]
    · exact (hothers.trans hcur (otherSlots_spawnCounted v) c k hk).trans (otherSlots_setSlot s _ c k hk).symm
    · rw [slot_advance, hcounted]
    · rw [advance, State.modSlot_eq, State.myCore_setSlot]
      exact v.spawnCounted_spawns.trans (congrArg (· + 1) hspawns)
  · have he := (congrArg (finish s 4) (migrateEffect_sends hm (cls := cls.toNat) hg hf hd ht hlen hfull
      (reservedWord_of_composed hc) hr)).trans (finish_stay s _ 4)
    have hmsg := msg [blk a] (ws := (s.slot.win.act.take 8).map (·.val) ++ [s.slot.pc + 4]) hlt (by simp; omega)
    generalize taskMsg _ _ _ _ _ = g at he hmsg
    obtain ⟨v, m, hv, hcores, hcur, hmem, hget, rfl, hsender, -⟩ :=
      handToTongs_sends (consumed s [blk a]) (dieOf s.cur.1) peer g (.migrate s.cur.1 s.cur.2)
    rw [hv] at he
    have hothers : otherSlots s v := otherSlots_of_cores (otherSlots_consumed s _) hcores
    refine ⟨_, m, he, ?_, ?_, ?_, ?_, ?_, hothers.trans hcur (otherSlots_setSlot v _), fun a => congrArg (memGet · a) hmem,
      hget, hsender, hmsg⟩ <;> rw [State.slot_modSlot]

end Sys2Proof.Machine

/-! Messages at their receiver (R36, R45, R47, R202): arrival and aging. -/

namespace Sys2Proof.Machine

/-! ### Hearths that wake (R283, R284) -/

section
variable (s : State) (h : Nat)

@[simp] theorem wakeHearth_cores : (wakeHearth s h).cores = s.cores := by
  simp only [wakeHearth, State.modHearth_cores, unparkDie]; split <;> rfl
@[simp] theorem wakeHearth_mem : (wakeHearth s h).mem = s.mem := by
  simp only [wakeHearth, State.modHearth_mem, unparkDie]; split <;> rfl
@[simp] theorem wakeHearth_launches : (wakeHearth s h).launches = s.launches := by
  simp only [wakeHearth, State.modHearth_launches, unparkDie]; split <;> rfl
@[simp] theorem wakeHearth_transits : (wakeHearth s h).transits = s.transits := by
  simp only [wakeHearth, State.modHearth_transits, unparkDie]; split <;> rfl
@[simp] theorem wakeHearth_ras : (wakeHearth s h).ras = s.ras := by
  simp only [wakeHearth, State.modHearth_ras, unparkDie]; split <;> rfl
@[simp] theorem wakeHearth_nextId : (wakeHearth s h).nextId = s.nextId := by
  simp only [wakeHearth, State.modHearth_nextId, unparkDie]; split <;> rfl
@[simp] theorem wakeHearth_cycle : (wakeHearth s h).cycle = s.cycle := by
  simp only [wakeHearth, State.modHearth_cycle, unparkDie]; split <;> rfl
@[simp] theorem wakeHearth_ptp : (wakeHearth s h).ptp = s.ptp := by
  simp only [wakeHearth, State.ptp, State.modHearth_ptp17, unparkDie]; split <;> rfl

theorem unparkDie_hearth (d : Nat) : (unparkDie s d).hearth h = s.hearth h := by
  unfold unparkDie; split <;> rfl

/-- A hearth that is woken is in no idle state, and has left the one it was in after its exit latency. -/
theorem wakeHearth_hearth : (wakeHearth s h).hearth h = { s.hearth h with
    clockGated := false, powerGated := false, idleSince := s.ptp
    wakeAt := if exitNs s h = 0 then (s.hearth h).wakeAt else s.ptp + exitNs s h } := by
  rw [wakeHearth, State.hearth_modHearth, unparkDie_hearth]

end

/-- A hearth that idles is not awake in the cycle in which it is woken. -/
theorem awake_wakeHearth_of_idle {s : State} {h : Nat} (hi : exitNs s h ≠ 0) : awake (wakeHearth s h) h = false := by
  rw [awake, wakeHearth_hearth, wakeHearth_ptp, if_neg hi, Bool.and_eq_false_iff]
  exact .inl (by simp; omega)

section
variable {s : State} {h : Nat} (hu : s.up h = true)
include hu

theorem up_iff : exitNs s h = 0 ∧ s.powerParked.getD (h / 256) false = false ∧ awake s h = true := by
  simpa [State.up, and_assoc] using hu

theorem rouse_of_up : rouse s h = s := by
  obtain ⟨he, hp, -⟩ := up_iff hu
  simp only [rouse, he, hp, decide_true, Bool.not_false, Bool.and_self, if_true]

theorem wakeHearth_of_up :
    wakeHearth s h = s.modHearth h fun x => { x with clockGated := false, powerGated := false, idleSince := s.ptp } := by
  obtain ⟨he, hp, -⟩ := up_iff hu
  simp only [wakeHearth, unparkDie, he, hp, Bool.false_eq_true, if_false, if_true]

theorem awake_wakeHearth_of_up : awake (wakeHearth s h) h = true := by
  obtain ⟨he, -, ha⟩ := up_iff hu
  rw [awake, wakeHearth_hearth, wakeHearth_ptp, if_pos he, wakeHearth_of_up hu]
  exact ha

end

/-! ### A message that has reached its core -/

/-- The part once a message has reached its core: the hearth is awake, and the core holds what arrived last. -/
def State.reached (s : State) (c id : Nat) (t : Transit) : State :=
  (wakeHearth s (c / 8)).modCore c fun k => { k with lastArrival := (s.cycle + 1, sourceKey t, id) }

/-- A state in which a message has reached its core: the hearth is awake, the core holds what arrived last, and the messages,
launches and memory are as they were. -/
structure Reached (s v : State) (c id : Nat) (t : Transit) : Prop where
  mem : v.mem = s.mem
  launches : v.launches = s.launches
  transits : v.transits = s.transits
  ras : v.ras = s.ras
  nextId : v.nextId = s.nextId
  cycle : v.cycle = s.cycle
  core : v.core c = { s.core c with lastArrival := (s.cycle + 1, sourceKey t, id) }
  others : ∀ d, d ≠ c → v.core d = s.core d
  fenced : (v.hearth (c / 8)).fenced = (s.hearth (c / 8)).fenced
  clockGated : (v.hearth (c / 8)).clockGated = false

theorem reached_reached (s : State) (c id : Nat) (t : Transit) : Reached s (s.reached c id t) c id t where
  mem := wakeHearth_mem s _
  launches := wakeHearth_launches s _
  transits := wakeHearth_transits s _
  ras := wakeHearth_ras s _
  nextId := wakeHearth_nextId s _
  cycle := wakeHearth_cycle s _
  core := by rw [State.reached, State.core_modCore, State.core_congr (wakeHearth_cores s _)]
  others d h := by rw [State.reached, State.core_modCore_ne _ _ h, State.core_congr (wakeHearth_cores s _)]
  fenced := by
    have h := congrArg Hearth.fenced (wakeHearth_hearth s (c / 8))
    exact h
  clockGated := by
    have h := congrArg Hearth.clockGated (wakeHearth_hearth s (c / 8))
    exact h

section
variable {s v : State} {c id : Nat} {t : Transit} (h : Reached s v c id t)
include h

theorem Reached.launch? (l : Nat) : v.launch? l = s.launch? l := State.launch?_congr h.launches l

theorem Reached.hasState (l : Nat) : hasState v c l = hasState s c l := by
  simp only [Machine.hasState, h.launch?, h.core]

theorem Reached.deaf (l : Nat) : v.deaf l = s.deaf l := by
  unfold State.deaf
  rw [h.launch?]

/-- A state with the cores of the one in which the message has reached its core. -/
theorem Reached.arrived {u : State} (hu : u.cores = v.cores) : s.arrived u c id t :=
  ⟨(State.core_congr hu c).trans h.core, fun x hx => (State.core_congr hu x).trans (h.others x hx)⟩

end

/-- What the receiver's Tongs does with a message that has reached its core. -/
def receive (s : State) (c id : Nat) (t : Transit) : State :=
  let m := t.msg
  if !m.checked || 10 ≤ m.len || !hasState s c m.launch || (s.hearth (c / 8)).fenced then
    answerSender (discardRecord (discardAt s c m) c m) id t true
  else if s.deaf m.launch then answerSender (discardAt s c m) id t true
  else
    let got := if (s.core c).resident == some m.launch then takeResident s c m
      else match tget (s.core c).saved m.launch with
        | some x => (takeSaved s c m.launch x m).map fun s => preempt s c m.launch
        | none => none
    match got with
    | some s' => (answerSender s' id { t with arrival := some s.nextId } true).poke ⟨.messageDispatch, { core := c }⟩
    | none => answerSender s id t false

section
variable {s : State} {id : Nat} {t : Transit} (hev : s.ev.id = id) (hget : tget s.transits id = some t)
include hev hget

section
variable (ha : t.arriving s.cycle = true)
include ha

theorem exec_messageArrival_late (hl : tooLate s t.dest id t = true) :
    exec .messageArrival s = .next (s.setTransit id { t with leg := .next (s.cycle + 1) }) := by
  change execMessageArrival s = _
  simp only [execMessageArrival, hev, hget, ha, hl, Bool.not_true, Bool.false_eq_true, if_false, if_true]

theorem exec_messageArrival_wakes (hl : tooLate s t.dest id t = false) (hi : exitNs s (t.dest / 8) ≠ 0) :
    exec .messageArrival s =
      .next ((wakeHearth s (t.dest / 8)).setTransit id { t with leg := .next (s.cycle + 1) }) := by
  change execMessageArrival s = _
  simp only [execMessageArrival, hev, hget, ha, hl, Bool.not_true, Bool.false_eq_true, if_false,
    awake_wakeHearth_of_idle hi, Bool.not_false, if_true, wakeHearth_cycle]

theorem exec_messageArrival_reaches (hl : tooLate s t.dest id t = false) (hu : s.up (t.dest / 8) = true)
    (hp : ∀ a b n, t.sender ≠ .peer a b n) :
    ∃ v, Reached s v t.dest id t ∧ exec .messageArrival s = .next (receive v t.dest id t) := by
  have hcount : ∀ u, countInbound u t = u := by
    intro u
    unfold countInbound
    split
    · next h => exact absurd h (hp _ _ _)
    · rfl
  refine ⟨s.reached t.dest id t, reached_reached s _ _ _, ?_⟩
  change execMessageArrival s = _
  simp only [execMessageArrival, hev, hget, ha, hl, Bool.not_true, Bool.false_eq_true, if_false,
    awake_wakeHearth_of_up hu, hcount, wakeHearth_cycle]
  rfl

end
end

/-! ### What the receiver's Tongs answers -/

section
variable {t : Transit} (hp : ∀ a b n, t.sender ≠ .peer a b n) (s : State) (id : Nat)
include hp

theorem answerSender_accepts (n : Option Nat) : answerSender s id { t with arrival := n } true =
    (s.setTransit id { t with arrival := n, leg := .accepted }).poke ⟨.acceptanceReceived, { id := id }⟩ := by
  unfold answerSender
  split
  · next h => exact absurd h (hp _ _ _)
  · rfl

theorem answerSender_refuses : answerSender s id t false =
    (s.setTransit id { t with leg := .refused }).poke ⟨.refusalReceived, { id := id }⟩ := by
  unfold answerSender
  split
  · next h => exact absurd h (hp _ _ _)
  · rfl

end

/-! ### A message that is discarded -/

/-- A message that is discarded is counted, and nothing but its launch changes. -/
theorem discardAt_counts (s : State) (c : Nat) (m : Msg) {x : Launch} (hx : s.launch? m.launch = some x) :
    ∃ w y, discardAt s c m = w ∧ w.mem = s.mem ∧ w.cores = s.cores ∧ w.transits = s.transits ∧ w.ras = s.ras ∧
      w.launch? m.launch = some y ∧ y.discarded = x.discarded + 1 := by
  have hl : ∃ y, (discardAt s c m).launch? m.launch = some y ∧ y.discarded = x.discarded + 1 := by
    rw [discardAt, State.inflight, State.launch?_modLaunch, State.countDiscard, State.launch?_modLaunch, hx]
    exact ⟨_, rfl, rfl⟩
  obtain ⟨y, hy, hd⟩ := hl
  refine ⟨discardAt s c m, y, rfl, ?_, ?_, ?_, ?_, hy, hd⟩ <;> simp [discardAt, State.countDiscard, State.inflight]

theorem deaf_of_launch {s : State} {l : Nat} {x : Launch} (h : s.launch? l = some x) :
    s.deaf l = (x.quenched || x.status != 0) := by
  simp only [State.deaf, h]

section
variable {s : State} {c id : Nat} {t : Transit}

theorem receive_bad (h : t.msg.checked = false ∨ 10 ≤ t.msg.len ∨ hasState s c t.msg.launch = false ∨
    (s.hearth (c / 8)).fenced = true) :
    receive s c id t = answerSender (discardRecord (discardAt s c t.msg) c t.msg) id t true := by
  unfold receive
  rw [if_pos]
  obtain h | h | h | h := h <;> simp [h]

section
variable (hc : t.msg.checked = true) (hlen : t.msg.len < 10) (hst : hasState s c t.msg.launch = true)
  (hf : (s.hearth (c / 8)).fenced = false)
include hc hlen hst hf

theorem receive_deaf (h : s.deaf t.msg.launch = true) :
    receive s c id t = answerSender (discardAt s c t.msg) id t true := by
  simp [receive, hc, hst, hf, h, Nat.not_le.mpr hlen]

section
variable (h : s.deaf t.msg.launch = false) (hr : (s.core c).resident = some t.msg.launch)
include h hr

theorem receive_taken {u : State} (ht : takeResident s c t.msg = some u) : receive s c id t =
    (answerSender u id { t with arrival := some s.nextId } true).poke ⟨.messageDispatch, { core := c }⟩ := by
  simp [receive, hc, hst, hf, h, hr, ht, Nat.not_le.mpr hlen]

theorem receive_refused (ht : takeResident s c t.msg = none) : receive s c id t = answerSender s id t false := by
  simp [receive, hc, hst, hf, h, hr, ht, Nat.not_le.mpr hlen]

end
end
end

/-! ### The queue and the ring of the resident launch (R45) -/

section
variable {s : State} {c : Nat}

theorem refillQueue_empty (h : (s.core c).ring = []) : refillQueue s c = s := by
  simp [refillQueue, moveRing, h]

theorem refillQueue_full (h : (s.core c).arrLimit ≤ (s.core c).hwq.length) : refillQueue s c = s := by
  unfold refillQueue moveRing
  dsimp only
  split
  · rfl
  · rw [if_pos h]

theorem takeResident_queue (m : Msg) (hr : (s.core c).ring = []) (hl : (s.core c).hwq.length < (s.core c).arrLimit) :
    takeResident s c m = some (s.fresh.setCore c { s.core c with
      hwq := (s.core c).hwq ++ [{ msg := m, arrival := s.nextId, since := s.cycle }] }) := by
  simp [takeResident, refillQueue_empty hr, hr, hl]

section
variable (m : Msg) (hl : (s.core c).arrLimit ≤ (s.core c).hwq.length)
include hl

theorem takeResident_ring (hr : (s.core c).ring.length < (s.core c).ovfSize) {a : Nat}
    (ha : a = scratchKey c (ringOffset (s.core c).ovfBase
      (((s.core c).ringHead + (s.core c).ring.length) % (s.core c).ovfSize))) :
    takeResident s c m = some (State.setCore
      (State.fresh { s with mem := memPutBytes s.mem a (ringBytes m), poison := unpoison s.poison a 96 }) c
      { s.core c with ring := (s.core c).ring ++ [(s.nextId, s.cycle, 0)] }) := by
  simp only [takeResident, refillQueue_full hl, decide_eq_false (Nat.not_lt.mpr hl), Bool.and_false, Bool.false_eq_true,
    if_false, if_pos hr, ha]

theorem takeResident_none (hr : (s.core c).ovfSize ≤ (s.core c).ring.length) : takeResident s c m = none := by
  simp [takeResident, refillQueue_full hl, Nat.not_lt.mpr hl, Nat.not_lt.mpr hr]

end
end

/-! ### The bytes of a ring slot (R44) -/

theorem memBytes_cons (m : List Host.Cell) (a n : Nat) : memBytes m a (n + 1) = memGet m a :: memBytes m (a + 1) n := by
  simp only [memBytes, List.range_succ_eq_map, List.map_cons, List.map_map, Nat.add_zero]
  congr 1
  refine List.map_congr_left fun i _ => ?_
  simp only [Function.comp_apply]
  congr 1
  omega

/-- Bytes that are written are read again. -/
theorem memBytes_memPutBytes {m : List Host.Cell} (a : Nat) (bs : List Byte) (h : Memory.wf m = true) :
    memBytes (memPutBytes m a bs) a bs.length = bs := by
  induction bs generalizing m a with
  | nil => rfl
  | cons b r ih =>
    have hwf := memPut_wf a b h
    rw [List.length_cons, memBytes_cons, memPutBytes, ih (a + 1) hwf, memGet_memPutBytes_out r hwf (.inl (Nat.lt_succ_self a)),
      memGet_memPut a b h]

theorem leBytes_length (v n : Nat) : (leBytes v n).length = n := by
  induction n generalizing v with
  | zero => rfl
  | succ n ih => rw [leBytes, List.length_cons, ih]

theorem ringBytes_length (m : Msg) : (ringBytes m).length = 96 := by
  simp [ringBytes, List.length_append, List.length_flatMap, leBytes_length]

/-! ### The outcomes of an arrival -/

section
variable {s : State} {id : Nat} {tr : Transit} (hev : s.ev.id = id) (hget : tget s.transits id = some tr)
  (ha : tr.arriving s.cycle = true) (hp : ∀ a b n, tr.sender ≠ .peer a b n) (hl : tooLate s tr.dest id tr = false)
  (hu : s.up (tr.dest / 8) = true)
include hev hget ha hp hl hu

section
variable {x : Launch} (hx : s.launch? tr.msg.launch = some x)
include hx

/-- A message that no core may take is discarded, counted and logged (R36). -/
theorem arrival_logged (hbad : tr.msg.checked = false ∨ 10 ≤ tr.msg.len ∨ hasState s tr.dest tr.msg.launch = false ∨
    (s.hearth (tr.dest / 8)).fenced = true) :
    ∃ t y r, exec .messageArrival s = .next t ∧ sameMemory s t ∧ s.arrived t tr.dest id tr ∧
      t.transits = tset s.transits id { tr with leg := .accepted } ∧ t.launch? tr.msg.launch = some y ∧
      y.discarded = x.discarded + 1 ∧ t.ras = s.ras ++ [r] ∧ r.kind = 11 ∧ r.launch = some tr.msg.launch := by
  obtain ⟨v, hv, hexec⟩ := exec_messageArrival_reaches hev hget ha hl hu hp
  rw [receive_bad (by simpa only [hv.hasState, hv.fenced] using hbad), answerSender_accepts hp _ _ tr.arrival] at hexec
  obtain ⟨w, y, hw, hmem, hcores, htransits, hras, hy, hd⟩ := discardAt_counts v tr.dest tr.msg ((hv.launch? _).trans hx)
  rw [hw] at hexec
  exact ⟨_, y, _, hexec, fun a => congrArg (memGet · a) (hmem.trans hv.mem), hv.arrived hcores,
    congrArg (tset · id _) (htransits.trans hv.transits), hy, hd, congrArg (· ++ [_]) (hras.trans hv.ras), rfl, rfl⟩

section
variable (hc : tr.msg.checked = true) (hlen : tr.msg.len < 10) (hst : hasState s tr.dest tr.msg.launch = true)
  (hf : (s.hearth (tr.dest / 8)).fenced = false)
include hc hlen hst hf

/-- A message of a launch that takes none any more is discarded and counted (R176). -/
theorem arrival_deaf (hd : s.deaf tr.msg.launch = true) :
    ∃ t y, exec .messageArrival s = .next t ∧ sameMemory s t ∧ s.arrived t tr.dest id tr ∧
      t.transits = tset s.transits id { tr with leg := .accepted } ∧ t.launch? tr.msg.launch = some y ∧
      y.discarded = x.discarded + 1 ∧ t.ras = s.ras := by
  obtain ⟨v, hv, hexec⟩ := exec_messageArrival_reaches hev hget ha hl hu hp
  rw [receive_deaf hc hlen ((hv.hasState _).trans hst) (hv.fenced.trans hf) ((hv.deaf _).trans hd),
    answerSender_accepts hp _ _ tr.arrival] at hexec
  obtain ⟨w, y, hw, hmem, hcores, htransits, hras, hy, hcount⟩ :=
    discardAt_counts v tr.dest tr.msg ((hv.launch? _).trans hx)
  rw [hw] at hexec
  exact ⟨_, y, hexec, fun a => congrArg (memGet · a) (hmem.trans hv.mem), hv.arrived hcores,
    congrArg (tset · id _) (htransits.trans hv.transits), hy, hcount, hras.trans hv.ras⟩

omit hx
section
variable (hd : s.deaf tr.msg.launch = false) {k : Core}
  (hk : k = { s.core tr.dest with lastArrival := (s.cycle + 1, sourceKey tr, id) }) (hr : k.resident = some tr.msg.launch)
include hd hk hr

/-- A message for which there is room comes to the end of the hardware queue (R45). -/
theorem arrival_queued (hring : k.ring = []) (hroom : k.hwq.length < k.arrLimit) :
    ∃ t, exec .messageArrival s = .next t ∧ sameMemory s t ∧ t.launches = s.launches ∧
      t.transits = tset s.transits id { tr with leg := .accepted, arrival := some s.nextId } ∧
      (t.hearth (tr.dest / 8)).clockGated = false ∧
      t.core tr.dest = { k with hwq := k.hwq ++ [{ msg := tr.msg, arrival := s.nextId, since := s.cycle }] } ∧
      ∀ i, i ≠ tr.dest → t.core i = s.core i := by
  obtain ⟨v, hv, hexec⟩ := exec_messageArrival_reaches hev hget ha hl hu hp
  have hcore := hv.core.trans hk.symm
  rw [receive_taken hc hlen ((hv.hasState _).trans hst) (hv.fenced.trans hf) ((hv.deaf _).trans hd) (by rwa [hcore])
    (takeResident_queue tr.msg (by rwa [hcore]) (by rwa [hcore])), answerSender_accepts hp, hcore, hv.nextId,
    hv.cycle] at hexec
  exact ⟨_, hexec, fun a => congrArg (memGet · a) hv.mem, hv.launches, congrArg (tset · id _) hv.transits, hv.clockGated,
    State.core_setCore _ _ _, fun i hi => (State.core_setCore_ne _ _ hi).trans (hv.others i hi)⟩

/-- A message for which the hardware queue has no room comes to the tail of the ring (R44, R45). -/
theorem arrival_ringed (hfull : k.arrLimit ≤ k.hwq.length) (hroom : k.ring.length < k.ovfSize)
    (hwf : Memory.wf s.mem = true) {a : Nat}
    (hat : a = scratchKey tr.dest (k.ovfBase + 96 * ((k.ringHead + k.ring.length) % k.ovfSize))) :
    ∃ t, exec .messageArrival s = .next t ∧ t.launches = s.launches ∧
      t.transits = tset s.transits id { tr with leg := .accepted, arrival := some s.nextId } ∧
      memBytes t.mem a 96 = ringBytes tr.msg ∧ sameMemoryBut s t a 96 ∧
      t.core tr.dest = { k with ring := k.ring ++ [(s.nextId, s.cycle, 0)] } := by
  obtain ⟨v, hv, hexec⟩ := exec_messageArrival_reaches hev hget ha hl hu hp
  have hcore := hv.core.trans hk.symm
  rw [receive_taken hc hlen ((hv.hasState _).trans hst) (hv.fenced.trans hf) ((hv.deaf _).trans hd) (by rwa [hcore])
    (takeResident_ring (a := a) tr.msg (by rwa [hcore]) (by rwa [hcore]) (by rw [hcore]; exact hat)), answerSender_accepts hp, hcore,
    hv.nextId, hv.cycle] at hexec
  have hbytes : memBytes (memPutBytes v.mem a (ringBytes tr.msg)) a 96 = ringBytes tr.msg := by
    rw [hv.mem, ← ringBytes_length tr.msg, memBytes_memPutBytes a _ hwf]
  have hout : ∀ b, b < a ∨ a + 96 ≤ b → memGet (memPutBytes v.mem a (ringBytes tr.msg)) b = memGet s.mem b := fun b hb => by
    rw [hv.mem, memGet_memPutBytes_out _ hwf (by rwa [ringBytes_length])]
  generalize memPutBytes v.mem a (ringBytes tr.msg) = mem at *
  exact ⟨_, hexec, hv.launches, congrArg (tset · id _) hv.transits, hbytes, hout, State.core_setCore _ _ _⟩

/-- A message for which neither has room is refused (R45). -/
theorem arrival_refused (hfull : k.arrLimit ≤ k.hwq.length) (hnone : k.ovfSize ≤ k.ring.length) :
    ∃ t, exec .messageArrival s = .next t ∧ sameMemory s t ∧ t.launches = s.launches ∧ t.core tr.dest = k ∧
      t.transits = tset s.transits id { tr with leg := .refused } := by
  obtain ⟨v, hv, hexec⟩ := exec_messageArrival_reaches hev hget ha hl hu hp
  have hcore := hv.core.trans hk.symm
  rw [receive_refused hc hlen ((hv.hasState _).trans hst) (hv.fenced.trans hf) ((hv.deaf _).trans hd) (by rwa [hcore])
    (takeResident_none tr.msg (by rwa [hcore]) (by rwa [hcore])), answerSender_refuses hp] at hexec
  exact ⟨_, hexec, fun a => congrArg (memGet · a) hv.mem, hv.launches, hcore, congrArg (tset · id _) hv.transits⟩

end
end
end
end

/-- A message that comes to a hearth that idles waits for the next cycle, and wakes it (R284). -/
theorem arrival_wakes {s : State} {id : Nat} {tr : Transit} (hev : s.ev.id = id) (hget : tget s.transits id = some tr)
    (ha : tr.arriving s.cycle = true) (hl : tooLate s tr.dest id tr = false) (hi : exitNs s (tr.dest / 8) ≠ 0) :
    ∃ t, exec .messageArrival s = .next t ∧ t.cores = s.cores ∧ sameMemory s t ∧ t.launches = s.launches ∧
      (t.hearth (tr.dest / 8)).clockGated = false ∧ (t.hearth (tr.dest / 8)).powerGated = false ∧
      (t.hearth (tr.dest / 8)).wakeAt = s.ptp + exitNs s (tr.dest / 8) ∧
      t.transits = tset s.transits id { tr with leg := .next (s.cycle + 1) } := by
  have hh := wakeHearth_hearth s (tr.dest / 8)
  rw [if_neg hi] at hh
  exact ⟨_, exec_messageArrival_wakes hev hget ha hl hi, wakeHearth_cores s _,
    fun a => congrArg (memGet · a) (wakeHearth_mem s _), wakeHearth_launches s _, congrArg Hearth.clockGated hh,
    congrArg Hearth.powerGated hh, congrArg Hearth.wakeAt hh, congrArg (tset · id _) (wakeHearth_transits s _)⟩

/-! ### Aging (R47) -/

/-- A message that has waited out another 2^16 cycles ages by one. -/
theorem aging_once {s : State} {id : Nat} {q : Queued} (hev : s.ev.id = id) (hq : (s.core s.ev.core).hwq = [q])
    (ha : q.arrival = id) (hs : q.since + 2 ^ 16 * (q.aged + 1) ≤ s.cycle) :
    ∃ t, exec .priorityAging s = .next t ∧ onlyCore s t s.ev.core ∧
      (t.core s.ev.core).hwq = [{ q with aged := q.aged + 1 }] := by
  refine ⟨_, rfl, ⟨rfl, fun x hx => s.core_modCore_ne _ hx⟩, ?_⟩
  rw [State.core_modCore, hq, hev, List.map_singleton, if_pos]
  exact Bool.and_eq_true_iff.mpr ⟨beq_iff_eq.mpr ha, decide_eq_true hs⟩

end Sys2Proof.Machine

/-! Messages at their sender (R36, R46, R48, R49, R176): refusals, retries and acceptances. -/

namespace Sys2Proof.Machine

/-! ### Events that become due leave the cores alone -/

section
variable (s : State)

@[simp] theorem State.core_pokeLaunch (l c : Nat) : (s.pokeLaunch l).core c = s.core c := rfl
@[simp] theorem State.slotAt_pokeLaunch (l c k : Nat) : (s.pokeLaunch l).slotAt c k = s.slotAt c k := rfl
@[simp] theorem State.core_pokeAll (es : List Event) (c : Nat) : (s.pokeAll es).core c = s.core c := rfl
@[simp] theorem State.slotAt_pokeAll (es : List Event) (c k : Nat) : (s.pokeAll es).slotAt c k = s.slotAt c k := rfl

end

/-! ### Refusals -/

/-- The gap before a retry doubles from 16 cycles to 512 (R46). -/
theorem retryGap_succ (n : Nat) : retryGap (n + 1) = min 512 (2 ^ (n + 4)) := by
  cases n with
  | zero => rfl
  | succ n => rw [retryGap, if_neg (by omega)]

section
variable (s : State) (c t : Nat) (m : Msg) (orphaned : Bool)

theorem raiseRefused_keeps : (raiseRefused s c t m orphaned).mem = s.mem ∧
    (raiseRefused s c t m orphaned).transits = s.transits ∧ (raiseRefused s c t m orphaned).launches = s.launches := by
  cases orphaned <;> exact ⟨rfl, rfl, rfl⟩

/-- A task that has ended leaves its SEND_REFUSED to its core. -/
theorem raiseRefused_ended : ((raiseRefused s c t m true).core c).endedTraps =
    (s.core c).endedTraps ++ [(0x12, m.dest, m.hi, m.launch)] := by
  simp [raiseRefused, State.core, State.modCore, State.setCore, Cause.code]

/-- A task that goes on has a SEND_REFUSED pending. -/
theorem raiseRefused_pending : ((raiseRefused s c t m false).slotAt c t).pendRefused =
    (s.slotAt c t).pendRefused ++ [(m.dest, m.hi)] := by
  simp [raiseRefused]

end

theorem not_deaf_of_launch {s : State} {l : Nat} {x : Launch} (hx : s.launch? l = some x) (hq : x.quenched = false)
    (hst : x.status = 0) : s.deaf l = false := by
  rw [deaf_of_launch hx, hq, hst]
  rfl

section
variable {s : State} {id : Nat} {tr : Transit} {x : Launch} (hev : s.ev.id = id) (hget : tget s.transits id = some tr)
  (hx : s.launch? tr.msg.launch = some x)

section
variable (hleg : tr.leg = .refused)
include hev hget hleg

theorem exec_refusalReceived : exec .refusalReceived s = .next (refusalAt s id tr) := by
  change execRefusalReceived s = _
  simp [execRefusalReceived, hev, hget, hleg]

include hx

/-- A refused message of a launch that takes none any more is discarded and counted only (R176). -/
theorem refusal_deaf (hd : x.quenched = true ∨ x.status ≠ 0) {a b : Nat} (hs : tr.sender = .task a b) :
    ∃ t y, exec .refusalReceived s = .next t ∧ t.cores = s.cores ∧ sameMemory s t ∧
      t.transits = tdel s.transits id ∧ t.launch? tr.msg.launch = some y ∧ y.discarded = x.discarded + 1 := by
  have hdeaf : s.deaf tr.msg.launch = true := by rw [deaf_of_launch hx]; simpa using hd
  obtain ⟨w, y, hw, hmem, hcores, htransits, -, hy, hc⟩ := discardAt_counts (s.dropTransit id) a tr.msg hx
  have hexec := exec_refusalReceived hev hget hleg
  rw [refusalAt, if_pos hdeaf, dropRefused, hs] at hexec
  dsimp only at hexec
  rw [hw] at hexec
  exact ⟨_, y, hexec, hcores, fun a => congrArg (memGet · a) hmem, htransits, hy, hc⟩

section
variable (hq : x.quenched = false) (hst : x.status = 0)
include hq hst

/-- A refusal within 4,096 cycles of the first is retried (R46). -/
theorem refusal_retried {first : Nat} (hf : first = tr.firstRefusal.getD s.cycle) (hlt : s.cycle < first + 4096) :
    exec .refusalReceived s = .next { s with transits := tset s.transits id { tr with
      firstRefusal := some first, refusals := tr.refusals + 1
      leg := .waiting (s.cycle + min 512 (2 ^ (tr.refusals + 4))) } } := by
  have hwait : (tr.firstRefusal.isSome && decide (first + 4096 ≤ s.cycle)) = false := by
    rw [decide_eq_false (Nat.not_le.mpr hlt), Bool.and_false]
  rw [exec_refusalReceived hev hget hleg, refusalAt, not_deaf_of_launch hx hq hst, if_neg Bool.false_ne_true]
  dsimp only
  rw [← hf, hwait, if_neg Bool.false_ne_true, retryGap_succ]
  rfl

section
variable {first : Nat} (hf : tr.firstRefusal = some first) (hlate : first + 4096 ≤ s.cycle)
include hf hlate

/-- A later refusal gives the message up (R46). -/
theorem exec_refusal_givesUp : exec .refusalReceived s = .next ((giveUp s id tr).pokeLaunch tr.msg.launch) := by
  rw [exec_refusalReceived hev hget hleg, refusalAt, not_deaf_of_launch hx hq hst, if_neg Bool.false_ne_true]
  simp [hf, hlate]

/-- The task learns with SEND_REFUSED that its message has been given up, or its core does once it has ended (R46). -/
theorem refusal_raised {a b : Nat} (hs : tr.sender = .task a b) :
    ∃ t y, exec .refusalReceived s = .next t ∧ sameMemory s t ∧ t.transits = tdel s.transits id ∧
      t.launch? tr.msg.launch = some y ∧ y.discarded = x.discarded + 1 ∧
      (tr.orphaned = false → (t.slotAt a b).pendRefused = (s.slotAt a b).pendRefused ++ [(tr.msg.dest, tr.msg.hi)]) ∧
      (tr.orphaned = true →
        (t.core a).endedTraps = (s.core a).endedTraps ++ [(0x12, tr.msg.dest, tr.msg.hi, tr.msg.launch)]) := by
  have hexec := exec_refusal_givesUp hev hget hx hleg hq hst hf hlate
  obtain ⟨w, y, hw, hmem, hcores, htransits, -, hy, hc⟩ := discardAt_counts (s.dropTransit id) a tr.msg hx
  rw [giveUp, hs] at hexec
  dsimp only at hexec
  rw [hw] at hexec
  obtain ⟨rmem, rtransits, rlaunches⟩ := raiseRefused_keeps w a b tr.msg tr.orphaned
  refine ⟨_, y, hexec, fun a => congrArg (memGet · a) (rmem.trans hmem), rtransits.trans htransits,
    (State.launch?_congr rlaunches _).trans hy, hc, fun ho => ?_, fun ho => ?_⟩
  · rw [ho, State.slotAt_pokeLaunch, raiseRefused_pending, State.slotAt_congr hcores]
    rfl
  · rw [ho, State.core_pokeLaunch, raiseRefused_ended, State.core_congr hcores]
    rfl

/-- A `migrate` whose message has been given up learns it in its slot (R49). -/
theorem refusal_ofMigrate {a b : Nat} (hs : tr.sender = .migrate a b) (hm : (s.slotAt a b).migrating = some id) :
    ∃ t, exec .refusalReceived s = .next t ∧ sameMemory s t ∧ t.transits = tdel s.transits id ∧
      t.slotAt a b = { s.slotAt a b with migrateEnd := some (some (tr.msg.dest, tr.msg.hi)) } := by
  have hexec := exec_refusal_givesUp hev hget hx hleg hq hst hf hlate
  obtain ⟨w, y, hw, hmem, hcores, htransits, -, hy, hc⟩ := discardAt_counts (s.dropTransit id) a tr.msg hx
  have hslot : w.slotAt a b = s.slotAt a b := State.slotAt_congr hcores a b
  rw [giveUp, hs] at hexec
  dsimp only at hexec
  rw [hw, hslot, hm, beq_self_eq_true, if_pos rfl] at hexec
  have hset := w.slotAt_modSlotAt a b fun sl => { sl with migrateEnd := some (some (tr.msg.dest, tr.msg.hi)) }
  rw [hslot] at hset
  exact ⟨_, hexec, fun a => congrArg (memGet · a) hmem, htransits, hset⟩

end
end
end

/-! ### Retries -/

section
variable {due : Nat} (hleg : tr.leg = .waiting due)
include hev hget hleg

theorem retry_early (h : s.cycle < due) : exec .retryTimer s = .next s := by
  change execRetryTimer s = _
  simp [execRetryTimer, hev, hget, hleg, h]

/-- Once the gap is over a message for this device flies again (R46). -/
theorem retry_flies (h : due ≤ s.cycle) (hd : s.thisDevice (bitsOf tr.msg.lo.toNat 63 58) = true) :
    ∃ t, exec .retryTimer s = .next t ∧ { t with transits := s.transits, agenda := s.agenda } = s ∧
      t.transits = tset s.transits id { tr with leg := .flying } ∧
      t.agenda = s.agenda ++ [⟨.messageArrival, { id := id }⟩] := by
  have hexec : exec .retryTimer s =
      .next ((s.setTransit id { tr with leg := .flying }).poke ⟨.messageArrival, { id := id }⟩) := by
    change execRetryTimer s = _
    simp [execRetryTimer, hev, hget, hleg, Nat.not_lt.mpr h, Transit.peer?, hd]
  exact ⟨_, hexec, rfl, rfl, rfl⟩

end

/-! ### Acceptances -/

section
variable (hleg : tr.leg = .accepted)
include hev hget hleg

theorem exec_acceptanceReceived :
    exec .acceptanceReceived s = .next (senderAccepted (s.dropTransit id) id tr.sender) := by
  change execAcceptanceReceived s = _
  simp [execAcceptanceReceived, hev, hget, hleg]

/-- The place of a `spawn` is free again (R48). -/
theorem acceptance_ofSpawn {a b : Nat} (hs : tr.sender = .spawn a b) :
    ∃ t, exec .acceptanceReceived s = .next t ∧ t.transits = tdel s.transits id ∧
      onlyCore { s with transits := tdel s.transits id } t a ∧ t.core a = { s.core a with spawns := (s.core a).spawns - 1 } := by
  have hexec := exec_acceptanceReceived hev hget hleg
  rw [hs] at hexec
  refine ⟨_, hexec, rfl, ⟨rfl, fun x hx => ?_⟩, ?_⟩
  · exact (s.dropTransit id).core_modCore_ne _ hx
  · exact (s.dropTransit id).core_modCore a _

/-- A task that migrates ends, or at the `tret` of the handler it is in (R49). -/
theorem acceptance_ofMigrate {a b : Nat} (hs : tr.sender = .migrate a b) (hm : (s.slotAt a b).migrating = some id) :
    ((s.slotAt a b).shadow = none →
      ∃ t, exec .acceptanceReceived s = .next t ∧ sameMemory s t ∧ t.slotAt a b = (s.slotAt a b).freed) ∧
    ((s.slotAt a b).shadow.isSome = true →
      ∃ t, exec .acceptanceReceived s = .next t ∧ sameMemory s t ∧
        t.slotAt a b = { ((s.slotAt a b).read (s.slotAt a b).migrateSrc).2 with migrateEnd := some none }) := by
  have hexec := exec_acceptanceReceived hev hget hleg
  have hslot : (s.dropTransit id).slotAt a b = s.slotAt a b := rfl
  obtain ⟨p, q, hread⟩ := (s.slotAt a b).read_eq (s.slotAt a b).migrateSrc
  have hset := (s.dropTransit id).slotAt_modSlotAt a b fun sl => (sl.read sl.migrateSrc).2
  rw [hslot] at hset
  generalize hv : (s.dropTransit id).modSlotAt a b (fun sl => (sl.read sl.migrateSrc).2) = v at hset
  have hmem : v.mem = s.mem := hv ▸ rfl
  have hshadow : (v.slotAt a b).shadow = (s.slotAt a b).shadow := by rw [hset, hread]
  rw [hs, senderAccepted, hslot, hm, bne_self_eq_false, if_neg Bool.false_ne_true, hv] at hexec
  dsimp only at hexec
  rw [hshadow] at hexec
  refine ⟨fun h => ?_, fun h => ?_⟩
  · rw [h, Option.isNone_none, if_pos rfl] at hexec
    refine ⟨_, hexec, fun a => congrArg (memGet · a) ((endTask_mem ..).trans hmem), ?_⟩
    rw [endTask_slotAt, hset, hread]
    rfl
  · rw [Option.isNone_eq_false_iff.mpr h, if_neg Bool.false_ne_true] at hexec
    refine ⟨_, hexec, fun a => congrArg (memGet · a) hmem, ?_⟩
    rw [State.slotAt_modSlotAt, hset]

end
end

end Sys2Proof.Machine

/-! The start of tasks (R27, R41, R42, R47, R49, R169, R179): dispatches and wrap-up tasks, and O50. -/

namespace Sys2Proof.Machine

/-! ### What the start of a task depends on -/

theorem State.lr_modLaunch (s : State) (l : Nat) {f : Launch → Launch} (hf : ∀ x, (f x).lr = x.lr) :
    (s.modLaunch l f).lr = s.lr := by
  funext m i
  by_cases h : m = l
  · subst h
    rw [State.lr, State.launch?_modLaunch, State.lr]
    cases s.launch? m with
    | none => rfl
    | some x => exact congrArg (·.getD i 0) (hf x)
  · rw [State.lr, State.launch?_modLaunch_ne _ _ h, State.lr]

theorem State.lr_of_launch? {s : State} {l : Nat} {x : Launch} (h : s.launch? l = some x) (i : Nat) :
    s.lr l i = x.lr.getD i 0 := by simp only [State.lr, h]

/-- What the start of a task reads is the same: memory and its translation, the launch records and the tags. -/
structure SameStart (s v : State) : Prop where
  part : SamePart s v
  lr : v.lr = s.lr
  hyp : v.hyp = s.hyp

theorem SameStart.refl (s : State) : SameStart s s := ⟨⟨rfl, rfl, rfl, rfl, rfl⟩, rfl, rfl⟩

theorem SameStart.trans {s t u : State} (h : SameStart s t) (h' : SameStart t u) : SameStart s u :=
  ⟨⟨h'.part.mem.trans h.part.mem, h'.part.poison.trans h.part.poison, h'.part.cfg.trans h.part.cfg,
    h'.part.linked.trans h.part.linked, h'.part.asidBase.trans h.part.asidBase⟩, h'.lr.trans h.lr, h'.hyp.trans h.hyp⟩

theorem sameStart_modCore (s : State) (c : Nat) (f : Core → Core) : SameStart s (s.modCore c f) :=
  ⟨⟨rfl, rfl, rfl, rfl, rfl⟩, rfl, rfl⟩

theorem sameStart_modLaunch (s : State) (l : Nat) {f : Launch → Launch} (hf : ∀ x, (f x).lr = x.lr) :
    SameStart s (s.modLaunch l f) :=
  ⟨⟨by simp, by simp, by simp, by simp, by simp⟩, s.lr_modLaunch l hf, by simp⟩

section
variable {s v : State} (h : SameStart s v)
include h

theorem SameStart.classOf : v.classOf = s.classOf := classOf_congr h.part h.lr

theorem SameStart.topBit : v.topBit = s.topBit := by
  funext l
  rw [State.topBit, h.lr, State.topBit]

theorem SameStart.objectEntry : objectEntry v = objectEntry s := by
  funext c l slot
  simp only [Machine.objectEntry, h.lr, h.part.mem, h.part.poison]

theorem SameStart.follow : v.follow = s.follow := by
  funext tag
  have hfollow : ∀ n tag, followTag v n tag = followTag s n tag := by
    intro n
    induction n with
    | zero => exact fun _ => rfl
    | succ n ih =>
      intro tag
      rw [followTag, followTag, ih, State.tag, State.tag, h.hyp]
  exact hfollow 16 tag

end

/-! ### The first frame (R65) -/

theorem firstFrame_arg {sl : Slot} {ws : List Word} (h : sl.win = firstFrame ws) {i : Nat} (hi : i < 8) :
    sl.named i = Reg.of (ws.getD i 0) := by
  rw [Slot.named, h, firstFrame, List.getD_append _ _ _ _ (by simpa using hi)]
  simp [List.getD_eq_getElem?_getD, List.getElem?_range hi]

theorem firstFrame_fresh {sl : Slot} {ws : List Word} (h : sl.win = firstFrame ws) {i : Nat} (hi : 8 ≤ i) (hi' : i < 32) :
    sl.named i = Reg.fresh := by
  rw [Slot.named, h, firstFrame, List.getD_append_right _ _ _ _ (by simpa using hi)]
  rw [List.getD_replicate]
  simp; omega

/-! ### The slot in which a task starts (R27) -/

/-- The state of a task of a message without a continuation: the part of it that R27 and R43 give. -/
structure Starts (s : State) (k : Nat) (e : ClassEntry) (m : Msg) (obj : Word) (sl : Slot) : Prop where
  held : sl.held = true
  launch : sl.launch = m.launch
  cls : sl.cls = k
  pc : sl.pc = e.entry
  entry : sl.entry = true
  priv : sl.priv = .user
  payload : sl.payload = m.words
  wdog : sl.wdog = e.cycles
  queue : sl.queue = List.replicate 16 (Reg.of 0)
  vl : sl.vl = 0
  fpStat : sl.fpStat = 0
  vstride : sl.vstride = 0
  shadow : sl.shadow = none
  fpCtrl : sl.fpCtrl = word (bitsOf (s.lr m.launch 28).toNat 7 0)
  gbeta : sl.gbeta = word (bitsOf (s.lr m.launch 28).toNat 63 32)
  fmtMode : sl.fmtMode = boolWord (s.topBit m.launch)
  hypCur : sl.hypCur = (if e.inherit then s.follow m.tag else 0)
  msgHdr : sl.msgHdr = m.hi
  msgSrc : sl.msgSrc = word (m.srcDev * 2 ^ 13 + m.srcCore)
  win : sl.win = firstFrame [m.dest, obj]

/-- A message that is no continuation starts its task in the slot at its class entry, a dead letter at that of class 255. -/
theorem startTask_starts {s v : State} (hv : SameStart s v) {m : Msg} {dead : Bool}
    (h : dead = true ∨ (m.len ≠ 9 ∧ m.top = s.topBit m.launch)) (c t : Nat) :
    ∃ sl, startTask v c t m dead = v.setSlotAt c t sl ∧
      Starts s (if dead then 255 else m.cls) (s.classOf m.launch (if dead then 255 else m.cls)) m
        (if dead || m.slot = 0xFFFF then 0 else word (scratchKey c (objectEntry s c m.launch m.slot).2.2)) sl := by
  have hcont : (!dead && m.len == 9) = false := by
    obtain rfl | ⟨hlen, -⟩ := h
    · rfl
    · rw [beq_eq_false_iff_ne.mpr hlen, Bool.and_false]
  have htop : (!dead && m.top != s.topBit m.launch) = false := by
    obtain rfl | ⟨-, htop⟩ := h
    · rfl
    · rw [htop, bne_self_eq_false, Bool.and_false]
  have hobj (n : Nat) : (if (dead || decide (m.slot = 0xFFFF)) = true then (0 : Word)
      else word (scratchKey c (if (dead || decide (m.slot = 0xFFFF)) = true then 0 else n))) =
      if dead || m.slot = 0xFFFF then 0 else word (scratchKey c n) := by
    generalize (dead || decide (m.slot = 0xFFFF)) = b
    cases b <;> simp
  simp only [startTask, hv.classOf, hv.topBit, hv.follow, hv.objectEntry, hcont, htop, Bool.false_and, Bool.false_eq_true,
    if_false, Bool.false_or, hobj]
  generalize s.classOf m.launch (if dead then 255 else m.cls) = e
  refine ⟨_, rfl, ?_⟩
  constructor
  case fpCtrl => exact congrArg (fun r : Nat → Nat → Word => word (bitsOf (r m.launch 28).toNat 7 0)) hv.lr
  case gbeta => exact congrArg (fun r : Nat → Nat → Word => word (bitsOf (r m.launch 28).toNat 63 32)) hv.lr
  case fmtMode => exact congrArg (fun f : Nat → Bool => boolWord (f m.launch)) hv.topBit
  all_goals rfl

/-! ### The choice of a message (R47) -/

section
variable {s : State} {c : Nat} {q : Queued} {m : Msg}

theorem bestMessage_single (h : fateOf s c q.msg ≠ .passedOver) : bestMessage s c [q] = some (q, fateOf s c q.msg) := by
  unfold bestMessage
  split
  · next hf => exact absurd hf h
  · rfl

theorem bestMessage_none (h : fateOf s c q.msg = .passedOver) : bestMessage s c [q] = none := by
  rw [bestMessage, h]
  rfl

section
variable (hb : boundChan (s.core c) m.cls = none)
include hb

/-- A dead letter starts the task of class 255 (R41). -/
theorem fateOf_dead {n : Nat} (hd : isDead s c m false = true) (hn : freeSlot (s.core c) = some n)
    (hr : s.refuted (s.follow m.tag) = false) : fateOf s c m = .started n true := by
  simp [fateOf, hb, hd, hn, hr]

theorem fateOf_alive {n : Nat} (hd : isDead s c m false = false) (hn : freeSlot (s.core c) = some n)
    (hr : s.refuted (s.follow m.tag) = false)
    (he : ((s.classOf m.launch m.cls).excl && m.slot != 0xFFFF && exclusiveRuns s c m.launch m.slot) = false) :
    fateOf s c m = .started n false := by
  simp only [fateOf, hb, Option.isSome_none, hd, he, hn, hr, Bool.false_eq_true, if_false]

/-- A message of a refuted tag is dropped (R169). -/
theorem fateOf_refuted {n : Nat} (hn : freeSlot (s.core c) = some n) (hr : s.refuted (s.follow m.tag) = true)
    (he : exclusiveRuns s c m.launch m.slot = false) : fateOf s c m = .dropped := by
  cases hd : isDead s c m false with
  | true => simp [fateOf, hb, hd, hn, hr]
  | false => simp only [fateOf, hb, Option.isSome_none, hd, he, hn, hr, Bool.and_false, Bool.false_eq_true, if_false, if_true]

/-- With no free slot a message stays (R47). -/
theorem fateOf_noSlot (hn : freeSlot (s.core c) = none) : fateOf s c m = .passedOver := by
  cases hd : isDead s c m false with
  | true => simp only [fateOf, hb, Option.isSome_none, hd, hn]
  | false =>
    simp only [fateOf, hb, Option.isSome_none, hd, hn]
    split <;> rfl

/-- A message for an exclusive object that is busy stays (R42). -/
theorem fateOf_busy (hd : isDead s c m false = false) (he : (s.classOf m.launch m.cls).excl = true)
    (hs : m.slot ≠ 0xFFFF) (hx : exclusiveRuns s c m.launch m.slot = true) : fateOf s c m = .passedOver := by
  simp only [fateOf, hb, Option.isSome_none, hd, he, hx, bne_iff_ne.mpr hs, Bool.and_self, if_true]

end

/-- The message leaves the hardware queue (R45). -/
theorem takeQueued_single (hq : (s.core c).hwq = [q]) (hr : (s.core c).ring = []) :
    takeQueued s c q = s.setCore c { s.core c with hwq := [] } := by
  have hf : (s.core c).hwq.filter (fun x => x.arrival != q.arrival) = [] := by rw [hq]; simp
  rw [takeQueued, State.modCore, hf, refillQueue_empty]
  rw [State.core_setCore]
  exact hr

end

/-! ### A dispatch (R47) -/

section
variable {s : State} {c : Nat} {q : Queued} (hev : s.ev.core = c) (hu : s.up (c / 8) = true)
  (hm : mayDispatch s c = true) (hq : (s.core c).hwq = [q])
include hev hu hm hq

theorem exec_messageDispatch_carries {f : Fate} (hf : fateOf s c q.msg = f) (hne : f ≠ .passedOver) :
    exec .messageDispatch s = .next ((wakeHearth (carryOut s c q f) (c / 8)).pokeAll
      [⟨.messageDispatch, { core := c }⟩, ⟨.launchQuiescent, { launch := q.msg.launch }⟩]) := by
  subst hf
  change execMessageDispatch s = _
  simp only [execMessageDispatch, hev, hq, List.isEmpty_cons, Bool.false_and, Bool.false_eq_true, if_false, rouse_of_up hu,
    hm, Bool.not_true, bestMessage_single hne]

theorem exec_messageDispatch_passes (hf : fateOf s c q.msg = .passedOver) : exec .messageDispatch s = .next s := by
  change execMessageDispatch s = _
  simp only [execMessageDispatch, hev, hq, List.isEmpty_cons, Bool.false_and, Bool.false_eq_true, if_false, rouse_of_up hu,
    hm, Bool.not_true, bestMessage_none hf]

end

/-! ### What a dispatch leaves -/

/-- The core and the launches once the one message of the queue has been taken out of it. -/
structure Taken (s v : State) (c : Nat) : Prop where
  same : SameStart s v
  slots : v.slotAt = s.slotAt
  hwq : (v.core c).hwq = []

theorem taken_setCore {s : State} {c : Nat} {k : Core} (hs : k.slots = (s.core c).slots) (hq : k.hwq = []) :
    Taken s (s.setCore c k) c where
  same := ⟨⟨rfl, rfl, rfl, rfl, rfl⟩, rfl, rfl⟩
  slots := by
    funext d t
    exact State.slotAt_setCore_same_slots hs d t
  hwq := by rw [State.core_setCore, hq]

theorem Taken.modLaunch {s v : State} {c : Nat} (h : Taken s v c) (l : Nat) {f : Launch → Launch}
    (hf : ∀ x, (f x).lr = x.lr) : Taken s (v.modLaunch l f) c where
  same := h.same.trans (sameStart_modLaunch v l hf)
  slots := by
    funext d t
    rw [State.slotAt_congr (v.modLaunch_cores l f), h.slots]
  hwq := by rw [State.core_congr (v.modLaunch_cores l f), h.hwq]

theorem Taken.inflight {s v : State} {c : Nat} (h : Taken s v c) (l die : Nat) (d : Int) : Taken s (v.inflight l die d) c :=
  h.modLaunch l fun _ => rfl

theorem Taken.mem {s v : State} {c : Nat} (h : Taken s v c) : v.mem = s.mem := h.same.part.mem

/-- A dead letter that is taken is counted on its core and for its launch (R41). -/
theorem countDead_taken {s : State} (c : Nat) {l : Nat} {x : Launch} (hx : s.launch? l = some x) :
    ∃ v, (countDead (s.setCore c { s.core c with hwq := [] }) c l).inflight l (dieOf c) (-1) = v ∧ Taken s v c ∧
      (v.core c).deadCount = (s.core c).deadCount + 1 ∧
      ∃ y, v.launch? l = some y ∧ y.dead = x.dead + 1 ∧ y.discarded = x.discarded := by
  rw [countDead, State.modCore, State.core_setCore, State.setCore_setCore]
  have hv := ((taken_setCore (s := s) (c := c) (k := { s.core c with hwq := [], deadCount := (s.core c).deadCount + 1 })
    rfl rfl).modLaunch l (f := fun x => { x with dead := x.dead + 1 }) fun _ => rfl).inflight l (dieOf c) (-1)
  refine ⟨_, rfl, hv, ?_, ?_⟩
  · rw [State.inflight, State.core_congr (State.modLaunch_cores ..), State.core_congr (State.modLaunch_cores ..),
      State.core_setCore]
  · rw [State.inflight, State.launch?_modLaunch, State.launch?_modLaunch, State.launch?_congr (State.setCore_launches ..), hx]
    exact ⟨_, rfl, rfl, rfl⟩

section
variable (s : State) (h : Nat) (es : List Event)

/-- A dispatch ends with its hearth awake and the next events due. -/
theorem dispatched_slotAt : ((wakeHearth s h).pokeAll es).slotAt = s.slotAt := by
  funext c k
  rw [State.slotAt_pokeAll, State.slotAt_congr (wakeHearth_cores s h)]

theorem dispatched_core (c : Nat) : ((wakeHearth s h).pokeAll es).core c = s.core c := by
  rw [State.core_pokeAll, State.core_congr (wakeHearth_cores s h)]

theorem dispatched_mem : ((wakeHearth s h).pokeAll es).mem = s.mem := wakeHearth_mem s h

theorem dispatched_launch? (l : Nat) : ((wakeHearth s h).pokeAll es).launch? l = s.launch? l :=
  State.launch?_congr (wakeHearth_launches s h) l

end

section
variable {s : State} {c : Nat} {q : Queued} (hev : s.ev.core = c) (hu : s.up (c / 8) = true)
  (hm : mayDispatch s c = true) (hq : (s.core c).hwq = [q]) (hring : (s.core c).ring = [])
include hev hu hm hq hring

/-- A message that is alive starts its task (R27). -/
theorem dispatch_starts {n : Nat} (hf : fateOf s c q.msg = .started n false) (hlen : q.msg.len ≠ 9)
    (htop : q.msg.top = s.topBit q.msg.launch) :
    ∃ t, exec .messageDispatch s = .next t ∧ sameMemory s t ∧ (t.core c).hwq = [] ∧
      (∀ i, i ≠ n → t.slotAt c i = s.slotAt c i) ∧
      Starts s q.msg.cls (s.classOf q.msg.launch q.msg.cls) q.msg
        (if q.msg.slot = 0xFFFF then 0 else word (scratchKey c (objectEntry s c q.msg.launch q.msg.slot).2.2)) (t.slotAt c n) := by
  have hexec := exec_messageDispatch_carries hev hu hm hq hf Fate.noConfusion
  rw [carryOut, takeQueued_single hq hring] at hexec
  have hv := (taken_setCore (s := s) (k := { s.core c with hwq := [] }) rfl rfl).inflight q.msg.launch (dieOf c) (-1)
  dsimp only at hexec
  generalize State.inflight _ _ _ _ = v at hexec hv
  obtain ⟨sl, hsl, hstart⟩ := startTask_starts hv.same (dead := false) (.inr ⟨hlen, htop⟩) c n
  rw [hsl] at hexec
  refine ⟨_, hexec, fun a => ?_, ?_, fun i hi => ?_, ?_⟩
  · rw [dispatched_mem, State.setSlotAt_mem, hv.mem]
  · rw [dispatched_core, State.setSlotAt, State.core_setCore]
    exact hv.hwq
  · rw [dispatched_slotAt, v.slotAt_setSlotAt_ne _ (.inr hi), hv.slots]
  · rw [dispatched_slotAt, v.slotAt_setSlotAt]
    simpa using hstart

/-- A dead letter is counted, and starts class 255 where that is present (R41). -/
theorem dispatch_dead {n : Nat} {x : Launch} (hf : fateOf s c q.msg = .started n true)
    (hx : s.launch? q.msg.launch = some x) :
    ∃ t y, exec .messageDispatch s = .next t ∧ sameMemory s t ∧ (t.core c).hwq = [] ∧
      (t.core c).deadCount = (s.core c).deadCount + 1 ∧ t.launch? q.msg.launch = some y ∧ y.dead = x.dead + 1 ∧
      ((s.classOf q.msg.launch 255).present = true →
        Starts s 255 (s.classOf q.msg.launch 255) q.msg 0 (t.slotAt c n)) ∧
      ((s.classOf q.msg.launch 255).present = false →
        t.slotAt c n = s.slotAt c n ∧ y.discarded = x.discarded + 1) := by
  have hexec := exec_messageDispatch_carries hev hu hm hq hf Fate.noConfusion
  rw [carryOut, takeQueued_single hq hring] at hexec
  dsimp only at hexec
  obtain ⟨v, hcount, hv, hdead, y, hy, hyd, hyc⟩ := countDead_taken (s := s) c hx
  rw [hcount, hv.same.classOf] at hexec
  cases hp : (s.classOf q.msg.launch 255).present with
  | true =>
    obtain ⟨sl, hsl, hstart⟩ := startTask_starts hv.same (m := q.msg) (dead := true) (.inl rfl) c n
    rw [hp, if_pos rfl, hsl] at hexec
    refine ⟨_, y, hexec, fun a => ?_, ?_, ?_, (dispatched_launch? ..).trans hy, hyd, fun _ => ?_,
      fun h => Bool.noConfusion h⟩
    · rw [dispatched_mem, State.setSlotAt_mem, hv.mem]
    · rw [dispatched_core, State.setSlotAt, State.core_setCore]
      exact hv.hwq
    · rw [dispatched_core, State.setSlotAt, State.core_setCore]
      exact hdead
    · rw [dispatched_slotAt, v.slotAt_setSlotAt]
      exact hstart
  | false =>
    have hd := hv.modLaunch q.msg.launch (f := fun x => { x with discarded := x.discarded + 1 }) fun _ => rfl
    rw [hp, if_neg Bool.false_ne_true] at hexec
    refine ⟨_, { y with discarded := y.discarded + 1 }, hexec, fun a => ?_, ?_, ?_, ?_, hyd, fun h => Bool.noConfusion h,
      fun _ => ⟨?_, congrArg (· + 1) hyc⟩⟩
    · rw [dispatched_mem]
      exact congrArg (memGet · a) hd.mem
    · rw [dispatched_core]
      exact hd.hwq
    · rw [dispatched_core, State.countDiscard, State.core_congr (State.modLaunch_cores ..), hdead]
    · rw [dispatched_launch?, State.countDiscard, State.launch?_modLaunch, hy]
      rfl
    · rw [dispatched_slotAt]
      exact congrFun (congrFun hd.slots c) n

/-- A message of a refuted tag is dropped and counted (R169). -/
theorem dispatch_drops {x : Launch} (hf : fateOf s c q.msg = .dropped) (hx : s.launch? q.msg.launch = some x) :
    ∃ t y, exec .messageDispatch s = .next t ∧ sameMemory s t ∧ (t.core c).hwq = [] ∧
      t.launch? q.msg.launch = some y ∧ y.orphans = x.orphans + 1 ∧ ∀ i, t.slotAt c i = s.slotAt c i := by
  have hexec := exec_messageDispatch_carries hev hu hm hq hf Fate.noConfusion
  rw [carryOut, takeQueued_single hq hring] at hexec
  have hv := ((taken_setCore (s := s) (k := { s.core c with hwq := [] }) rfl rfl).modLaunch q.msg.launch
    (f := fun x => { x with orphans := x.orphans + 1 }) fun _ => rfl).inflight q.msg.launch (dieOf c) (-1)
  have hl : ∃ y, ((State.modLaunch (s.setCore c { s.core c with hwq := [] }) q.msg.launch
      fun x => { x with orphans := x.orphans + 1 }).inflight q.msg.launch (dieOf c) (-1)).launch? q.msg.launch = some y ∧
      y.orphans = x.orphans + 1 := by
    rw [State.inflight, State.launch?_modLaunch, State.launch?_modLaunch, State.launch?_congr (State.setCore_launches ..), hx]
    exact ⟨_, rfl, rfl⟩
  dsimp only at hexec
  generalize State.inflight _ _ _ _ = v at hexec hv hl
  obtain ⟨y, hy, horphans⟩ := hl
  exact ⟨_, y, hexec, fun a => congrArg (memGet · a) ((dispatched_mem ..).trans hv.mem),
    (congrArg Core.hwq (dispatched_core ..)).trans hv.hwq, (dispatched_launch? ..).trans hy, horphans,
    fun i => by rw [dispatched_slotAt, hv.slots]⟩

end

theorem fmtMode_of_launch? {s : State} {l : Nat} {x : Launch} (h : s.launch? l = some x) :
    boolWord (s.topBit l) = word (bitsOf (x.lr.getD 0 0).toNat 4 4) := by
  rw [State.topBit, State.lr_of_launch? h]
  have hlt : bitsOf (x.lr.getD 0 0).toNat 4 4 < 2 := Nat.mod_lt _ (by decide)
  generalize bitsOf (x.lr.getD 0 0).toNat 4 4 = b at hlt
  obtain rfl | rfl : b = 0 ∨ b = 1 := by omega
  · rfl
  · rfl

/-! ### Wrap-up tasks (R179) -/

theorem mayDispatch_of_owed {s : State} {c : Nat} (h : (s.core c).wrapupOwed = true) : mayDispatch s c = false := by
  simp [mayDispatch, h]

/-- A wrap-up task that is owed takes the next free slot. -/
theorem wrapup_starts {s : State} {c l n : Nat} {x : Launch} (hev : s.ev.core = c) (hx : s.launch? l = some x)
    (hu : s.up (c / 8) = true) (ho : (s.core c).wrapupOwed = true) (hr : (s.core c).resident = some l)
    (hg : gangReady s l = true) (hn : freeSlot (s.core c) = some n) :
    ∃ t sl, exec .messageDispatch s = .next t ∧ onlyCore s t c ∧ (t.core c).wrapupOwed = false ∧ t.slotAt c n = sl ∧
      (∀ i, i ≠ n → t.slotAt c i = s.slotAt c i) ∧ sl.held = true ∧ sl.wrapup = true ∧ sl.launch = l ∧
      sl.pc = (s.classOf l (s.qclass l)).entry ∧ sl.entry = true ∧ sl.quenchCause = x.quench.getD 0 ∧
      sl.quenchLeft = s.qbudget l ∧ sl.wdog = s.qbudget l ∧ sl.named 0 = Reg.of (word (coreHandle c)) ∧
      ∀ i, 1 ≤ i → i < 8 → sl.named i = Reg.of 0 := by
  obtain ⟨-, -, ha⟩ := up_iff hu
  have hexec : exec .messageDispatch s = .next (startWrapup s c) := by
    change execMessageDispatch s = _
    simp only [execMessageDispatch, hev, ho, Bool.not_true, Bool.and_false, Bool.false_eq_true, if_false, rouse_of_up hu,
      mayDispatch_of_owed ho, Bool.not_false, if_true]
  simp only [startWrapup, ho, hr, hn, hg, ha, hx, Bool.not_true, Bool.or_self, Bool.false_eq_true, if_false] at hexec
  generalize s.classOf l (s.qclass l) = e at hexec ⊢
  generalize hsl : { ((s.core c).slot n).begin s l (s.rankOf l c) (s.qclass l) .wrapup e with
    wrapup := true, quenchCause := x.quench.getD 0, quenchLeft := s.qbudget l, wdog := s.qbudget l
    win := firstFrame [word (coreHandle c)] } = sl at hexec
  have hwin : sl.win = firstFrame [word (coreHandle c)] := by rw [← hsl]
  refine ⟨_, sl, hexec, ⟨rfl, fun d hd => ?_⟩, ?_, State.slotAt_setSlotAt .., fun i hi => ?_, ?_⟩
  · rw [State.setSlotAt, State.core_setCore_ne _ _ hd, State.core_modCore_ne _ _ hd]
  · rw [State.setSlotAt, State.core_setCore, State.core_modCore]
    rfl
  · exact (State.slotAt_setSlotAt_ne _ _ (.inr hi)).trans (State.slotAt_setCore_same_slots (by rfl) c i)
  · refine ⟨?_, ?_, ?_, ?_, ?_, ?_, ?_, ?_, firstFrame_arg hwin (by decide), fun i h1 h8 => ?_⟩
    case refine_9 =>
      obtain ⟨j, rfl⟩ := Nat.exists_eq_add_of_le' h1
      exact firstFrame_arg hwin h8
    all_goals exact hsl ▸ rfl

/-- Settles O50: each clause is one outcome of an arrival, of the sender's answer to it, or of a dispatch. -/
theorem messageEvents : Obligations.MessageEvents := by
  unfold Obligations.MessageEvents
  refine ⟨fun s id hev => ⟨fun c tr m x hget ha hp hc hm hx hl hu => ?_, fun tr hget ha => ⟨fun hl => ?_, fun hl hi => ?_⟩,
    fun q hq hid hs => aging_once hev hq hid hs⟩, fun s id tr m x hev hget hm hx => ?_, fun s c l k x hev hk hx hu => ?_⟩
  · subst hc hm
    refine ⟨fun hbad => arrival_logged hev hget ha hp hl hu hx hbad, fun hc hlen hst hf => ⟨fun hd => ?_,
      fun hq hs k hk hr => ⟨?_, ?_, ?_⟩⟩⟩
    · exact arrival_deaf hev hget ha hp hl hu hx hc hlen hst hf (by rw [deaf_of_launch hx]; simpa using hd)
    all_goals have hd := not_deaf_of_launch hx hq hs
    · exact fun hring hroom => arrival_queued hev hget ha hp hl hu hc hlen hst hf hd hk hr hring hroom
    · exact fun hfull hroom hwf a hat => arrival_ringed hev hget ha hp hl hu hc hlen hst hf hd hk hr hfull hroom hwf hat
    · exact fun hfull hnone => arrival_refused hev hget ha hp hl hu hc hlen hst hf hd hk hr hfull hnone
  · exact exec_messageArrival_late hev hget ha hl
  · exact arrival_wakes hev hget ha hl hi
  · subst hm
    refine ⟨fun hleg hd a b hs => refusal_deaf hev hget hx hleg hd hs, fun hleg hq hst => ⟨?_, ?_, ?_⟩,
      fun due hleg => ⟨retry_early hev hget hleg, retry_flies hev hget hleg⟩, fun hleg => ⟨fun ⟨a, b, hs⟩ => ?_,
      fun a b hs => acceptance_ofSpawn hev hget hleg hs, fun a b hs hmig => acceptance_ofMigrate hev hget hleg hs hmig⟩⟩
    · exact fun first hf hlt => refusal_retried hev hget hx hleg hq hst hf hlt
    · exact fun first a b hf hlate hs => refusal_raised hev hget hx hleg hq hst hf hlate hs
    · exact fun first a b hf hlate hs hmig => refusal_ofMigrate hev hget hx hleg hq hst hf hlate hs hmig
    · rw [exec_acceptanceReceived hev hget hleg, hs]
      rfl
  · subst hk
    refine ⟨fun q m n hmay hq hring hm hl hn hb hr => ?_, fun q n hmay hq hring hl hn hb hr he => ?_,
      fun q hmay hq hb hstay => ?_, fun n ho hres hg hn => wrapup_starts hev hx hu ho hres hg hn⟩
    · subst hm hl
      refine ⟨fun e obj hd hlen htop he hexcl hobj => ?_, fun hd => ?_⟩
      · subst he hobj
        have hrun : ((s.classOf q.msg.launch q.msg.cls).excl && q.msg.slot != 0xFFFF &&
            exclusiveRuns s c q.msg.launch q.msg.slot) = false := by
          obtain he | hs := hexcl
          · simp [he]
          · simp [hs]
        obtain ⟨t, hexec, hmem, hempty, hothers, h⟩ :=
          dispatch_starts hev hu hmay hq hring (fateOf_alive hb hd hn hr hrun) hlen htop
        refine ⟨t, _, hexec, hmem, hempty, rfl, hothers, h.held, h.launch, h.cls, h.pc, h.entry, h.priv, h.payload, h.wdog,
          h.queue, h.vl, h.fpStat, h.vstride, h.shadow, h.fpCtrl.trans (by rw [State.lr_of_launch? hx]),
          h.gbeta.trans (by rw [State.lr_of_launch? hx]), h.fmtMode.trans (fmtMode_of_launch? hx), h.hypCur, h.msgHdr,
          h.msgSrc, firstFrame_arg h.win (by decide), firstFrame_arg h.win (by decide), fun i h2 h8 => ?_,
          fun i h8 h32 => firstFrame_fresh h.win h8 h32⟩
        obtain ⟨j, rfl⟩ := Nat.exists_eq_add_of_le' h2
        exact firstFrame_arg h.win h8
      · obtain ⟨t, y, hexec, hmem, hempty, hdead, hy, hyd, hpresent, habsent⟩ :=
          dispatch_dead hev hu hmay hq hring (fateOf_dead hb hd hn hr) hx
        exact ⟨t, y, hexec, hmem, hempty, hdead, hy, hyd, fun hp => ⟨(hpresent hp).held, (hpresent hp).cls, (hpresent hp).pc,
          (hpresent hp).payload⟩, habsent⟩
    · subst hl
      exact dispatch_drops hev hu hmay hq hring (fateOf_refuted hb hn hr he) hx
    · refine exec_messageDispatch_passes hev hu hmay hq ?_
      obtain hn | ⟨hd, he, hs, hrun⟩ := hstay
      · exact fateOf_noSlot hb hn
      · exact fateOf_busy hb hd he hs hrun

end Sys2Proof.Machine

/-! Host queues (R188-R195): what a write of a descriptor's dword leaves, what a stop leaves, and the packets and host events by
their cases, for O51. -/

namespace Sys2Proof.Machine

/-! ### The dwords of a descriptor -/

section
variable {m : List Host.Cell} {a b n : Nat}

theorem memNat_congr {m' : List Host.Cell} (h : ∀ c, a ≤ c → c < a + n → memGet m' c = memGet m c) :
    memNat m' a n = memNat m a n := by
  induction n generalizing a with
  | zero => rfl
  | succ n ih =>
    simp only [memNat]
    rw [h a (Nat.le_refl _) (by omega), ih fun c hc hc' => h c (by omega) (by omega)]

theorem memNat_memPutNat_out (v k : Nat) (hm : Memory.wf m = true) (h : b + k ≤ a ∨ a + n ≤ b) :
    memNat (memPutNat m b v k) a n = memNat m a n :=
  memNat_congr fun c _ _ => memGet_memPutNat_out v k hm (by omega)

end

section
variable {s : State} {q : Nat}

theorem queueDword_setQueueDword (i v : Nat) (hm : Memory.wf s.mem = true) :
    queueDword (setQueueDword s q i v) q i = v % 2 ^ 64 := memNat_memPutNat _ v 8 hm

theorem queueDword_setQueueDword_ne {i j : Nat} (v : Nat) (hm : Memory.wf s.mem = true) (h : j ≠ i) :
    queueDword (setQueueDword s q i v) q j = queueDword s q j :=
  memNat_memPutNat_out v 8 hm (by simp only [State.queueKeyOf, setQueueDword]; omega)

theorem setQueueDword_wf (i v : Nat) (hm : Memory.wf s.mem = true) : Memory.wf (setQueueDword s q i v).mem = true :=
  memPutNat_wf _ v 8 hm

theorem setQueueDword_memory (i v : Nat) (hm : Memory.wf s.mem = true) :
    sameMemoryBut s (setQueueDword s q i v) (s.queueKeyOf q + 8 * i) 8 := fun _ h => memGet_memPutNat_out v 8 hm h

theorem memGet_setQueueDword {k i : Nat} (v : Nat) {a : Nat} (hm : Memory.wf s.mem = true) (hk : s.queueKeyOf q = k)
    (h : a < k + 8 * i ∨ k + 8 * i + 8 ≤ a) : memGet (setQueueDword s q i v).mem a = memGet s.mem a := by
  subst hk
  exact memGet_memPutNat_out v 8 hm h

@[simp] theorem State.queue_modQueue (s : State) (q : Nat) (f : Queue → Queue) : (s.modQueue q f).queue q = f (s.queue q) := by
  simp [State.modQueue, State.queue]

theorem State.queue_modQueue_ne (s : State) {q i : Nat} (f : Queue → Queue) (h : i ≠ q) :
    (s.modQueue q f).queue i = s.queue i := by simp [State.modQueue, State.queue, tget_tset_ne _ _ h]

end

@[simp] theorem queue_setQueueDword (s : State) (q i v : Nat) : (setQueueDword s q i v).queue = s.queue := rfl

@[simp] theorem queueDword_modQueue (s : State) (q : Nat) (f : Queue → Queue) : queueDword (s.modQueue q f) = queueDword s := rfl

@[simp] theorem State.modQueue_mem (s : State) (q : Nat) (f : Queue → Queue) : (s.modQueue q f).mem = s.mem := rfl

/-! ### A stop, and what comes next -/

section
variable {s : State} {q : Nat}

theorem stopQueue_stops {code : Nat} (hm : Memory.wf s.mem = true) (hc : code < 256) :
    ∃ r, ((stopQueue s q code).queue q).stopped = true ∧ queueDword (stopQueue s q code) q 3 = code * 2 ^ 56 ∧
      sameMemoryBut s (stopQueue s q code) (s.queueKeyOf q + 24) 8 ∧ (stopQueue s q code).ras = s.ras ++ [r] ∧ r.kind = 15 ∧
      (stopQueue s q code).notices = s.notices ++ [.rasInterrupt, .queueStop q code] ∧
      (stopQueue s q code).launches = s.launches := by
  have hstop : ((s.modQueue q fun x => { x with stopped := true }).queue q).stopped = true := by simp
  have hword : queueDword (setQueueDword (s.modQueue q fun x => { x with stopped := true }) q 3 (code * 2 ^ 56)) q 3 =
      code * 2 ^ 56 := by
    rw [queueDword_setQueueDword _ _ (by exact hm), Nat.mod_eq_of_lt (by omega)]
  have hnotices : (stopQueue s q code).notices = s.notices ++ [.rasInterrupt] ++ [.queueStop q code] := rfl
  rw [List.append_assoc] at hnotices
  exact ⟨_, hstop, hword, setQueueDword_memory (s := s) 3 _ hm, rfl, rfl, hnotices, rfl⟩

/-- The packet events all look at the queue's next packet the same way. -/
theorem onPacket_unready {e : Unready} (type : Nat) (k : State → QPacket → State) (hev : s.ev.queue = q)
    (hr : queueRuns s q = true) (hp : nextPacket s q = .error e) : onPacket s type k = holdQueue s q e := by
  simp [onPacket, hev, hr, hp]

theorem onPacket_asks {p : QPacket} {type key : Nat} (k : State → QPacket → State) (hev : s.ev.queue = q)
    (hr : queueRuns s q = true) (hp : nextPacket s q = .ok p) (ht : p.type = type) (ha : packetAway s q p = some key) :
    onPacket s type k = summon s key := by
  simp [onPacket, hev, hr, hp, ht, ha]

theorem onPacket_executes {p : QPacket} {type : Nat} (k : State → QPacket → State) (hev : s.ev.queue = q)
    (hr : queueRuns s q = true) (hp : nextPacket s q = .ok p) (ht : p.type = type) (ha : packetAway s q p = none) :
    onPacket s type k = lookNext (k s p) q := by
  simp [onPacket, hev, hr, hp, ht, ha]

theorem packetAway_of_type_ne {p : QPacket} (h : p.type ≠ 1) : packetAway s q p = none := by simp [packetAway, h]

theorem packet_unready {e : Unready} {i : Instr} (hev : s.ev.queue = q) (hr : queueRuns s q = true)
    (hp : nextPacket s q = .error e)
    (hi : i = .packetNop ∨ i = .packetDispatch ∨ i = .packetStop ∨ i = .packetIndirect ∨ i = .packetStatus) :
    exec i s = .next (holdQueue s q e) := by
  obtain rfl | rfl | rfl | rfl | rfl := hi <;>
    exact congrArg Host.Outcome.next (onPacket_unready _ _ hev hr hp)

theorem pastPacket_inRing {n : Nat} (h : (s.queue q).indirect = none) :
    pastPacket s q n = setQueueDword s q 2 (queueConsumer s q + n) := by simp [pastPacket, h]

end

/-! ### Events of the host -/

section
variable {s : State} {q : Nat} {x : Queue}

theorem submissionWrite_raises (hev : s.ev.queue = q) (hx : s.queue q = x) (hb : s.ev.bytes.length = 8) (hq : q < 4096) :
    exec .submissionWrite s = .next (lookNext
      { s with queues := tset s.queues q { x with latched := max x.latched (leNat s.ev.bytes) } } q) := by
  subst hx
  change execSubmissionWrite s = _
  simp [execSubmissionWrite, hev, hb, Nat.not_le.2 hq, State.modQueue]

theorem submissionWrite_narrow (hb : s.ev.bytes.length ≠ 8) : exec .submissionWrite s = .next s := by
  change execSubmissionWrite s = _
  simp [execSubmissionWrite, hb]

theorem queueDisable_writes (hm : Memory.wf s.mem = true) (hev : s.ev.queue = q) (hx : s.queue q = x) (hq : q < 4096)
    (hn : s.ev.n % 2 = 0) (hlt : s.ev.n < 2 ^ 64) :
    ∃ t, exec .queueDisable s = .next t ∧ (t.queue q).enabled = false ∧ (t.queue q).latched = x.latched ∧
      queueDword t q 0 = s.ev.n ∧ sameMemoryBut s t (s.queueKeyOf q) 8 ∧ ∀ i, i ≠ q → t.queue i = s.queue i := by
  subst hx
  let f : Queue → Queue := fun x => { x with enabled := false, indirect := none }
  have hword : queueDword (setQueueDword (s.modQueue q f) q 0 s.ev.n) q 0 = s.ev.n := by
    rw [queueDword_setQueueDword _ _ (by exact hm), Nat.mod_eq_of_lt hlt]
  refine ⟨setQueueDword (s.modQueue q f) q 0 s.ev.n, ?_, by simp [f], by simp [f], hword,
    setQueueDword_memory (s := s) 0 _ hm, fun i hi => by rw [queue_setQueueDword, State.queue_modQueue_ne _ _ hi]⟩
  change execQueueDisable s = _
  simp [execQueueDisable, hev, hn, Nat.not_le.2 hq, f]

/-- A queue that has just been enabled. -/
def Queue.afresh (x : Queue) : Queue :=
  { x with enabled := true, stopped := false, indirect := none, shadow := List.replicate 32 0 }

/-- The descriptor of a queue that is enabled takes its dword 0, and its error is cleared. -/
def queueCleared (s : State) (q : Nat) : State :=
  setQueueDword ((setQueueDword s q 0 s.ev.n).modQueue q Queue.afresh) q 3 0

/-- The queue is enabled: its consumer is at most the latched index. -/
def queueEnabled (s : State) (q latched : Nat) : State :=
  setQueueDword (queueCleared s q) q 2 (min (queueConsumer s q) latched)

@[simp] theorem queueCleared_queue : (queueCleared s q).queue q = (s.queue q).afresh := by simp [queueCleared]

@[simp] theorem queueEnabled_queue (n : Nat) : (queueEnabled s q n).queue q = (s.queue q).afresh := by
  rw [queueEnabled, queue_setQueueDword, queueCleared_queue]

theorem queueWritten_key (s : State) (q : Nat) :
    ((setQueueDword s q 0 s.ev.n).modQueue q Queue.afresh).queueKeyOf q = s.queueKeyOf q := rfl

theorem queueCleared_key (s : State) (q : Nat) : (queueCleared s q).queueKeyOf q = s.queueKeyOf q := rfl

section
variable (hm : Memory.wf s.mem = true)
include hm

theorem queueWritten_wf : Memory.wf ((setQueueDword s q 0 s.ev.n).modQueue q Queue.afresh).mem = true :=
  setQueueDword_wf 0 s.ev.n hm

theorem queueCleared_wf : Memory.wf (queueCleared s q).mem = true := setQueueDword_wf 3 0 (queueWritten_wf hm)

theorem queueCleared_dword {i : Nat} (h0 : i ≠ 0) (h3 : i ≠ 3) : queueDword (queueCleared s q) q i = queueDword s q i := by
  rw [queueCleared, queueDword_setQueueDword_ne _ (queueWritten_wf hm) h3, queueDword_modQueue,
    queueDword_setQueueDword_ne _ hm h0]

theorem queueEnabled_dwords (n : Nat) (hlt : s.ev.n < 2 ^ 64) :
    queueDword (queueEnabled s q n) q 0 = s.ev.n ∧ queueDword (queueEnabled s q n) q 3 = 0 ∧
      queueDword (queueEnabled s q n) q 2 = min (queueConsumer s q) n % 2 ^ 64 := by
  refine ⟨?_, ?_, queueDword_setQueueDword 2 _ (queueCleared_wf hm)⟩
  · rw [queueEnabled, queueDword_setQueueDword_ne _ (queueCleared_wf hm) (by decide), queueCleared,
      queueDword_setQueueDword_ne _ (queueWritten_wf hm) (by decide), queueDword_modQueue, queueDword_setQueueDword 0 _ hm,
      Nat.mod_eq_of_lt hlt]
  · rw [queueEnabled, queueDword_setQueueDword_ne _ (queueCleared_wf hm) (by decide), queueCleared,
      queueDword_setQueueDword 3 _ (queueWritten_wf hm), Nat.zero_mod]

theorem queueEnabled_memory (n : Nat) : sameMemoryBut s (queueEnabled s q n) (s.queueKeyOf q) 32 := by
  intro a ha
  rw [queueEnabled, memGet_setQueueDword _ (queueCleared_wf hm) (queueCleared_key s q) (by omega), queueCleared,
    memGet_setQueueDword _ (queueWritten_wf hm) (queueWritten_key s q) (by omega), State.modQueue_mem,
    memGet_setQueueDword _ hm rfl (by omega)]

theorem queueEnable_enables (hev : s.ev.queue = q) (hx : s.queue q = x) (hq : q < 4096) (hn : s.ev.n % 2 = 1)
    (he : x.enabled = false) : exec .queueEnable s = .next (lookNext (queueEnabled s q x.latched) q) := by
  subst hx
  have hcons : queueConsumer (queueCleared s q) q = queueConsumer s q := queueCleared_dword hm (by decide) (by decide)
  have hlatched : ((queueCleared s q).queue q).latched = (s.queue q).latched := by rw [queueCleared_queue]; rfl
  rw [queueEnabled, ← hcons, ← hlatched]
  change execQueueEnable s = _
  simp only [execQueueEnable, hev, hn, queue_setQueueDword, he, Nat.not_le.2 hq]
  rfl

end

/-! ### Packets -/

/-- What a packet's passing leaves (R190): the consumer has moved, no other byte of memory and no launch is changed. -/
def Passed (s t : State) (q n : Nat) : Prop :=
  queueDword t q 2 = (queueConsumer s q + n) % 2 ^ 64 ∧ sameMemoryBut s t (s.queueKeyOf q + 16) 8 ∧ t.launches = s.launches

theorem passed_pastPacket {s v : State} {q n : Nat} (hm : Memory.wf s.mem = true) (hmem : v.mem = s.mem)
    (hbase : v.queueBase = s.queueBase) (hl : v.launches = s.launches) (hi : (v.queue q).indirect = none) :
    Passed s (pastPacket v q n) q n ∧ (pastPacket v q n).queues = v.queues := by
  have hv : Memory.wf v.mem = true := hmem ▸ hm
  have hkey : v.queueKeyOf q = s.queueKeyOf q := by simp [State.queueKeyOf, hbase]
  have hcons : queueConsumer v q = queueConsumer s q := by simp [queueConsumer, queueDword, hkey, hmem]
  rw [pastPacket_inRing hi]
  refine ⟨⟨?_, fun a ha => ?_, hl⟩, rfl⟩
  · rw [queueDword_setQueueDword _ _ hv, hcons]
  · rw [setQueueDword_memory _ _ hv a (by rw [hkey]; exact ha), hmem]

theorem pastPacket_asid {v : State} {n : Nat} (hv : Memory.wf v.mem = true) (hi : (v.queue q).indirect = none) :
    queueDword (pastPacket v q n) q 0 = queueDword v q 0 := by
  rw [pastPacket_inRing hi, queueDword_setQueueDword_ne _ hv (by decide)]

section
variable {p : QPacket} (hm : Memory.wf s.mem = true) (hev : s.ev.queue = q) (hr : queueRuns s q = true)
  (hp : nextPacket s q = .ok p) (hi : (s.queue q).indirect = none)
include hev hr hp

theorem packetIndirect_enters (ht : p.type = 3) : exec .packetIndirect s = .next (lookNext (s.modQueue q fun y =>
    { y with indirect := some (p.body.getD 0 0, 8 * (p.body.getD 1 0).toNat, 0) }) q) := by
  change execPacketIndirect s = _
  rw [execPacketIndirect, onPacket_executes _ hev hr hp ht (packetAway_of_type_ne (by omega)), hev]

include hm hi

theorem packetNop_passes (ht : p.type = 0) : ∃ t, exec .packetNop s = .next (lookNext t q) ∧
    Passed s t q (1 + p.body.length) ∧ t.queues = s.queues := by
  obtain ⟨hpast, hqs⟩ := passed_pastPacket (n := 1 + p.body.length) hm rfl rfl rfl hi
  refine ⟨pastPacket s q (1 + p.body.length), ?_, hpast, hqs⟩
  change execPacketNop s = _
  rw [execPacketNop, onPacket_executes _ hev hr hp ht (packetAway_of_type_ne (by omega)), hev]

theorem packetDispatch_submits (ht : p.type = 1) (ha : packetAway s q p = none) :
    ∃ t, Passed s t q (1 + p.body.length) ∧ (t.queue q).shadow = p.fields (s.queue q).shadow ∧
      exec .packetDispatch s =
        .next (lookNext (submitLaunch t q (queueAsid s q) (queueCeiling s q) (p.fields (s.queue q).shadow)) q) := by
  let v := s.modQueue q fun x => { x with shadow := p.fields (s.queue q).shadow }
  have hvq : v.queue q = { s.queue q with shadow := p.fields (s.queue q).shadow } := s.queue_modQueue q _
  have hvi : (v.queue q).indirect = none := by rw [hvq]; exact hi
  obtain ⟨hpast, hqs⟩ := passed_pastPacket (n := 1 + p.body.length) (v := v) hm rfl rfl rfl hvi
  have hword : queueDword (pastPacket v q (1 + p.body.length)) q 0 = queueDword s q 0 := pastPacket_asid hm hvi
  have hqueue : (pastPacket v q (1 + p.body.length)).queue q = v.queue q := by
    rw [State.queue, hqs]; rfl
  refine ⟨pastPacket v q (1 + p.body.length), hpast, by rw [hqueue, hvq], ?_⟩
  change execPacketDispatch s = _
  rw [execPacketDispatch, onPacket_executes _ hev hr hp ht ha]
  simp only [hev, queueAsid, queueCeiling, ← hword]
  rfl

theorem packetStop_quenches (ht : p.type = 2) {l : Nat × Launch}
    (hl : s.launches.find? (fun y => y.2.queue == q && y.2.lr.getD 29 0 == p.body.getD 0 0) = some l) :
    ∃ t, Passed s t q 2 ∧ t.queues = s.queues ∧ exec .packetStop s = .next (lookNext (quenchLaunch t l.1 3) q) := by
  obtain ⟨hpast, hqs⟩ := passed_pastPacket (n := 2) hm rfl rfl rfl hi
  refine ⟨pastPacket s q 2, hpast, hqs, ?_⟩
  obtain ⟨-, -, hls⟩ := hpast
  rw [← hls] at hl
  change execPacketStop s = _
  rw [execPacketStop, onPacket_executes _ hev hr hp ht (packetAway_of_type_ne (by omega))]
  simp only [hev, hl]

theorem packetStatus_answers (ht : p.type = 4) {l : Nat × Launch}
    (hl : s.launches.find? (fun y => y.2.lr.getD 29 0 == p.body.getD 0 0) = some l)
    (hpeer : peerPage (pastPacket s q 3) (queueAsid s q) (p.body.getD 1 0).toNat = none) :
    ∃ t, Passed s t q 3 ∧ t.queues = s.queues ∧ exec .packetStatus s = .next (lookNext
      ((partWrite t (queueAsid s q) (p.body.getD 1 0).toNat
        (leBytes (launchCode l.2 + (if l.2.converged then 16 else 0) + 256 * l.1) 8 ++
          leBytes (l.2.lastSample % 2 ^ 64) 8)).getD t) q) := by
  obtain ⟨hpast, hqs⟩ := passed_pastPacket (n := 3) hm rfl rfl rfl hi
  refine ⟨pastPacket s q 3, hpast, hqs, ?_⟩
  have hw : statusWords s (p.body.getD 0 0) =
      (launchCode l.2 + (if l.2.converged then 16 else 0) + 256 * l.1, l.2.lastSample % 2 ^ 64) := by
    rw [statusWords, hl]
  change execPacketStatus s = _
  rw [execPacketStatus, onPacket_executes _ hev hr hp ht (packetAway_of_type_ne (by omega))]
  simp only [hev, hw, writeStatus, hpeer]

end
end
end Sys2Proof.Machine

/-! A launch record that is submitted (R51, R192, R197), for O51. -/

namespace Sys2Proof.Machine

/-- What a submission leaves of the state (R197): no byte of memory and no id given last. -/
structure Undisturbed (s t : State) : Prop where
  mem : t.mem = s.mem
  lastId : t.lastId = s.lastId

theorem Undisturbed.refl (s : State) : Undisturbed s s := ⟨rfl, rfl⟩

theorem Undisturbed.trans {s t u : State} (h : Undisturbed s t) (h' : Undisturbed t u) : Undisturbed s u :=
  ⟨h'.mem.trans h.mem, h'.lastId.trans h.lastId⟩

/-- A launch waits in the class queue with its record (R197). -/
def Waits (s : State) (id queue : Nat) (lr : List Word) : Prop :=
  ∃ x, s.launch? id = some x ∧ x.lr = lr ∧ x.queue = queue ∧ x.state = .queued

section
variable {s : State}

theorem foldl_modCore_eq (cs : List Nat) (f : Core → Core) (s : State) :
    ∃ ks, cs.foldl (fun s c => s.modCore c f) s = { s with cores := ks } := by
  induction cs generalizing s with
  | nil => exact ⟨s.cores, rfl⟩
  | cons c cs ih => exact ih (s.modCore c f)

/-- A reserving gang that goes back to the head of its queue. -/
def Launch.givenBack (x : Launch) : Launch := { x with state := .queued, gangCores := [], front := 2 }

theorem releaseGang_eq (s : State) (l : Nat) :
    ∃ ks, releaseGang s l = { s with cores := ks, launches := (s.modLaunch l Launch.givenBack).launches } := by
  cases hx : s.launch? l with
  | none => exact ⟨s.cores, by simp [releaseGang, State.modLaunch, hx]⟩
  | some x =>
    obtain ⟨ks, hks⟩ := foldl_modCore_eq x.gangCores (fun k => { k with reserved := none }) s
    refine ⟨ks, ?_⟩
    have hx' : State.launch? { s with cores := ks } l = some x := hx
    simp only [releaseGang, hx, hks, State.modLaunch, hx']
    rfl

theorem releaseGang_undisturbed (l : Nat) : Undisturbed s (releaseGang s l) := by
  obtain ⟨ks, h⟩ := releaseGang_eq s l
  rw [h]
  exact ⟨rfl, rfl⟩

theorem Waits.releaseGang {id queue : Nat} {lr : List Word} (h : Waits s id queue lr) (l : Nat) :
    Waits (releaseGang s l) id queue lr := by
  obtain ⟨ks, hks⟩ := releaseGang_eq s l
  obtain ⟨x, hx, hlr, hq, hst⟩ := h
  have hl : (Machine.releaseGang s l).launch? id = (s.modLaunch l Launch.givenBack).launch? id :=
    State.launch?_congr (by rw [hks]) id
  rw [Waits, hl]
  by_cases hid : id = l
  · subst hid
    exact ⟨x.givenBack, by rw [State.launch?_modLaunch, hx]; rfl, hlr, hq, rfl⟩
  · exact ⟨x, by rw [State.launch?_modLaunch_ne _ _ hid, hx], hlr, hq, hst⟩

theorem releaseGangs_undisturbed (prio : Nat) : Undisturbed s (releaseGangs s prio) := by
  rw [releaseGangs]
  generalize List.map _ _ = ls
  induction ls generalizing s with
  | nil => exact .refl s
  | cons l ls ih => exact (releaseGang_undisturbed l).trans ih

theorem Waits.releaseGangs {id queue : Nat} {lr : List Word} (h : Waits s id queue lr) (prio : Nat) :
    Waits (releaseGangs s prio) id queue lr := by
  rw [Machine.releaseGangs]
  generalize List.map _ _ = ls
  induction ls generalizing s with
  | nil => exact h
  | cons l ls ih => exact ih (h.releaseGang l)

theorem enterLaunch_eq (s : State) (id : Nat) (x : Launch) : ∃ tiles, enterLaunch s id x =
    (releaseGangs { s with launches := tset s.launches id { x with tileCounts := tiles } }
      (bitsOf (x.lr.getD 1 0).toNat 2 0)).poke ⟨.launchPlace, {}⟩ := ⟨_, rfl⟩

/-- A launch that enters waits in its class queue. -/
theorem enterLaunch_waits (s : State) (id : Nat) {x : Launch} (hst : x.state = .queued) :
    Undisturbed s (enterLaunch s id x) ∧ Waits (enterLaunch s id x) id x.queue x.lr := by
  obtain ⟨tiles, h⟩ := enterLaunch_eq s id x
  obtain ⟨v, hv⟩ : ∃ v : State, v = { s with launches := tset s.launches id { x with tileCounts := tiles } } := ⟨_, rfl⟩
  have hs : Undisturbed s v := by subst hv; exact ⟨rfl, rfl⟩
  have hw : Waits v id x.queue x.lr := by
    subst hv
    exact ⟨{ x with tileCounts := tiles }, tget_tset _ _ _, rfl, rfl, hst⟩
  rw [h, ← hv]
  exact ⟨hs.trans ⟨(releaseGangs_undisturbed _).mem, (releaseGangs_undisturbed _).lastId⟩, hw.releaseGangs _⟩

theorem nextLaunchId_congr {t : State} (h : t.launches = s.launches) (n i : Nat) : nextLaunchId t n i = nextLaunchId s n i := by
  induction n generalizing i with
  | zero => rfl
  | succ n ih => simp only [nextLaunchId, State.launch?_congr h, ih]

/-! ### The four ways a submission goes -/

section
variable {q asid ceiling : Nat} {lr : List Word}

theorem submitLaunch_breaks (h : recordOk { s with accepted := s.accepted + 1 } asid ceiling lr = false) :
    submitLaunch s q asid ceiling lr =
      writeRecord { s with accepted := s.accepted + 1 } asid none (lr.getD 29 0) [5, 0, 0, 0, 0, s.ptp, 0, 0] := by
  simp [submitLaunch, h, rejectLaunch, recordWords]
  rfl

variable (hok : recordOk { s with accepted := s.accepted + 1 } asid ceiling lr = true)
include hok

theorem submitLaunch_takesNext {id : Nat} (hf : fixId lr = none) (hn : nextLaunchId s 256 (s.lastId + 1) = some id) :
    ∃ v : State, v.mem = s.mem ∧ v.lastId = id ∧
      submitLaunch s q asid ceiling lr = enterLaunch v id { lr := lr, queue := q, order := s.accepted + 1 } := by
  have hn' := (nextLaunchId_congr (s := s) (t := { s with accepted := s.accepted + 1 }) rfl 256 (s.lastId + 1)).trans hn
  exact ⟨{ s with accepted := s.accepted + 1, lastId := id }, rfl, rfl, by simp [submitLaunch, hok, hf, hn']⟩

theorem submitLaunch_takesFixed {id : Nat} (hf : fixId lr = some id) (hn : s.launch? id = none) :
    ∃ v : State, v.mem = s.mem ∧ v.lastId = s.lastId ∧
      submitLaunch s q asid ceiling lr = enterLaunch v id { lr := lr, queue := q, order := s.accepted + 1 } := by
  have hn' := (State.launch?_congr (s := s) (t := { s with accepted := s.accepted + 1 }) rfl id).trans hn
  exact ⟨{ s with accepted := s.accepted + 1 }, rfl, rfl, by simp [submitLaunch, hok, hf, hn']⟩

theorem submitLaunch_fixedTaken {id : Nat} {x : Launch} (hf : fixId lr = some id) (hx : s.launch? id = some x) :
    submitLaunch s q asid ceiling lr =
      writeRecord { s with accepted := s.accepted + 1 } asid none (lr.getD 29 0) [5, 0, 0, 0, 0, s.ptp, 0, 0] := by
  have hx' := (State.launch?_congr (s := s) (t := { s with accepted := s.accepted + 1 }) rfl id).trans hx
  simp [submitLaunch, hok, hf, hx', rejectLaunch, recordWords]
  rfl

theorem submitLaunch_waits (hf : fixId lr = none) (hn : nextLaunchId s 256 (s.lastId + 1) = none) :
    submitLaunch s q asid ceiling lr = releaseGangs { s with
      accepted := s.accepted + 1, backlog := s.backlog ++ [{ lr := lr, queue := q, order := s.accepted + 1 }] }
        (bitsOf (lr.getD 1 0).toNat 2 0) := by
  have hn' := (nextLaunchId_congr (s := s) (t := { s with accepted := s.accepted + 1 }) rfl 256 (s.lastId + 1)).trans hn
  simp [submitLaunch, hok, hf, hn']

end

/-- What the entering of a launch makes true, as the obligation words it. -/
theorem enters_of_eq {t v : State} {q id n : Nat} {lr : List Word} (h : t = enterLaunch v id { lr := lr, queue := q, order := n })
    (hmem : v.mem = s.mem) :
    ∃ x, t.launch? id = some x ∧ x.lr = lr ∧ x.queue = q ∧ x.state = .queued ∧ t.lastId = v.lastId ∧ sameMemory s t := by
  obtain ⟨⟨hm, hid⟩, x, hx, hlr, hq, hst⟩ := enterLaunch_waits v id (x := { lr := lr, queue := q, order := n }) rfl
  rw [← h] at hm hid hx
  exact ⟨x, hx, hlr, hq, hst, hid, fun a => by rw [hm, hmem]⟩

theorem submitLaunch_outcomes (s : State) (q asid ceiling : Nat) (lr : List Word) (t : State)
    (h : t = submitLaunch s q asid ceiling lr) :
    (recordOk { s with accepted := s.accepted + 1 } asid ceiling lr = false →
      t = writeRecord { s with accepted := s.accepted + 1 } asid none (lr.getD 29 0) [5, 0, 0, 0, 0, s.ptp, 0, 0] :) ∧
    (recordOk { s with accepted := s.accepted + 1 } asid ceiling lr = true →
      (∀ id, fixId lr = none → nextLaunchId s 256 (s.lastId + 1) = some id →
        ∃ x, t.launch? id = some x ∧ x.lr = lr ∧ x.queue = q ∧ x.state = .queued ∧ t.lastId = id ∧ sameMemory s t) ∧
      (∀ id, fixId lr = some id → s.launch? id = none →
        ∃ x, t.launch? id = some x ∧ x.lr = lr ∧ x.queue = q ∧ x.state = .queued ∧ t.lastId = s.lastId ∧ sameMemory s t) ∧
      (∀ id x, fixId lr = some id → s.launch? id = some x →
        t = writeRecord { s with accepted := s.accepted + 1 } asid none (lr.getD 29 0) [5, 0, 0, 0, 0, s.ptp, 0, 0]) ∧
      (fixId lr = none → nextLaunchId s 256 (s.lastId + 1) = none →
        ∃ x, x.lr = lr ∧ x.queue = q ∧ sameMemory s t ∧ t = releaseGangs
          { s with accepted := s.accepted + 1, backlog := s.backlog ++ [x] } (bitsOf (lr.getD 1 0).toNat 2 0)) :) := by
  refine ⟨fun hbad => h.trans (submitLaunch_breaks hbad), fun hok => ⟨?_, ?_, ?_, ?_⟩⟩
  case refine_1 =>
    intro id hf hn
    obtain ⟨v, hmem, hid, hv⟩ := submitLaunch_takesNext (q := q) hok hf hn
    obtain ⟨x, hx, hlr, hq, hst, hl, hm⟩ := enters_of_eq (h.trans hv) hmem
    exact ⟨x, hx, hlr, hq, hst, hl.trans hid, hm⟩
  case refine_2 =>
    intro id hf hn
    obtain ⟨v, hmem, hid, hv⟩ := submitLaunch_takesFixed (q := q) hok hf hn
    obtain ⟨x, hx, hlr, hq, hst, hl, hm⟩ := enters_of_eq (h.trans hv) hmem
    exact ⟨x, hx, hlr, hq, hst, hl.trans hid, hm⟩
  case refine_3 => exact fun id x hf hx => h.trans (submitLaunch_fixedTaken hok hf hx)
  case refine_4 =>
    intro hf hn
    refine ⟨{ lr := lr, queue := q, order := s.accepted + 1 }, rfl, rfl, ?_, h.trans (submitLaunch_waits hok hf hn)⟩
    intro a
    rw [h, submitLaunch_waits hok hf hn, (releaseGangs_undisturbed _).mem]

end
end Sys2Proof.Machine

/-! What the operations of a launch's start and end leave of memory, of the cores' assignments and of the launches (R198, R201,
R218, R222, R264), for O51. -/

namespace Sys2Proof.Machine

/-! ### Two relations between a state and one that comes of it -/

/-- A relation that every step of a fold keeps holds over the fold. -/
theorem foldl_related {α : Type} {R : State → State → Prop} (hrefl : ∀ s, R s s)
    (htrans : ∀ {s t u}, R s t → R t u → R s u)
    {f : State → α → State} (hf : ∀ s a, R s (f s a)) (as : List α) (s : State) : R s (as.foldl f s) := by
  induction as generalizing s with
  | nil => exact hrefl s
  | cons a as ih => exact htrans (hf s a) (ih (f s a))

/-- The launches are as they were, and so is who is assigned to a core and resident on it. -/
structure SameSeats (s t : State) : Prop where
  launches : t.launches = s.launches
  backlog : t.backlog = s.backlog
  assigned : ∀ c, (t.core c).assigned = (s.core c).assigned
  resident : ∀ c, (t.core c).resident = (s.core c).resident

/-- The same, and so is memory. -/
structure Trims (s t : State) : Prop extends SameSeats s t where
  mem : t.mem = s.mem

/-- What the start of a launch settles of it: its record, its state and its cores. -/
def Launch.placed (x : Launch) : List Word × LState × List Nat := (x.lr, x.state, x.cores)

/-- No assignment is lost, and every launch stays placed as it was. -/
structure KeepsPlaced (s t : State) : Prop where
  assigned : ∀ c l, l ∈ (s.core c).assigned → l ∈ (t.core c).assigned
  placed : ∀ l, (t.launch? l).map Launch.placed = (s.launch? l).map Launch.placed

section
variable {s t u : State}

theorem SameSeats.refl (s : State) : SameSeats s s := ⟨rfl, rfl, fun _ => rfl, fun _ => rfl⟩

theorem SameSeats.trans (h : SameSeats s t) (h' : SameSeats t u) : SameSeats s u :=
  ⟨h'.launches.trans h.launches, h'.backlog.trans h.backlog, fun c => (h'.assigned c).trans (h.assigned c),
    fun c => (h'.resident c).trans (h.resident c)⟩

theorem SameSeats.of_eq (hc : t.cores = s.cores) (hl : t.launches = s.launches) (hb : t.backlog = s.backlog) : SameSeats s t :=
  ⟨hl, hb, fun c => by rw [State.core_congr hc], fun c => by rw [State.core_congr hc]⟩

theorem SameSeats.ite {p : Prop} [Decidable p] {v : State} (h : SameSeats s t) (h' : SameSeats s v) :
    SameSeats s (if p then t else v) := by split <;> assumption

theorem Trims.refl (s : State) : Trims s s := ⟨.refl s, rfl⟩

theorem Trims.trans (h : Trims s t) (h' : Trims t u) : Trims s u :=
  ⟨h.toSameSeats.trans h'.toSameSeats, h'.mem.trans h.mem⟩

/-- The same, the later step first. -/
theorem Trims.after (h' : Trims t u) (h : Trims s t) : Trims s u := h.trans h'

theorem Trims.of_eq (hc : t.cores = s.cores) (hl : t.launches = s.launches) (hb : t.backlog = s.backlog) (hm : t.mem = s.mem) :
    Trims s t := ⟨.of_eq hc hl hb, hm⟩

theorem Trims.ite {p : Prop} [Decidable p] {v : State} (h : Trims s t) (h' : Trims s v) : Trims s (if p then t else v) := by
  split <;> assumption

theorem KeepsPlaced.refl (s : State) : KeepsPlaced s s := ⟨fun _ _ h => h, fun _ => rfl⟩

theorem KeepsPlaced.trans (h : KeepsPlaced s t) (h' : KeepsPlaced t u) : KeepsPlaced s u :=
  ⟨fun c l hl => h'.assigned c l (h.assigned c l hl), fun l => (h'.placed l).trans (h.placed l)⟩

/-- The same, the later step first. -/
theorem KeepsPlaced.after (h' : KeepsPlaced t u) (h : KeepsPlaced s t) : KeepsPlaced s u := h.trans h'

theorem KeepsPlaced.of_eq (hc : t.cores = s.cores) (hl : t.launches = s.launches) : KeepsPlaced s t :=
  ⟨fun c l h => by rwa [State.core_congr hc], fun l => by rw [State.launch?_congr hl]⟩

theorem SameSeats.keepsPlaced (h : SameSeats s t) : KeepsPlaced s t :=
  ⟨fun c l hl => by rwa [h.assigned], fun l => by rw [State.launch?_congr h.launches]⟩

theorem KeepsPlaced.ite {p : Prop} [Decidable p] {v : State} (h : KeepsPlaced s t) (h' : KeepsPlaced s v) :
    KeepsPlaced s (if p then t else v) := by split <;> assumption

theorem keepsPlaced_setCore {c : Nat} {k : Core} (h : ∀ l ∈ (s.core c).assigned, l ∈ k.assigned) :
    KeepsPlaced s (s.setCore c k) := by
  refine ⟨fun d l hl => ?_, fun _ => rfl⟩
  by_cases hd : d = c
  · subst hd
    rw [State.core_setCore]
    exact h l hl
  · rwa [s.core_setCore_ne _ hd]

theorem keepsPlaced_modCore (s : State) (c : Nat) {f : Core → Core} (h : ∀ k, (f k).assigned = k.assigned) :
    KeepsPlaced s (s.modCore c f) := keepsPlaced_setCore fun l hl => by rwa [h]

theorem keepsPlaced_modLaunch (s : State) (l : Nat) {f : Launch → Launch} (h : ∀ x, (f x).placed = x.placed) :
    KeepsPlaced s (s.modLaunch l f) := by
  refine ⟨fun c m hm => by rwa [State.core_congr (State.modLaunch_cores s l f) c], fun m => ?_⟩
  by_cases hm : m = l
  · subst hm
    rw [State.launch?_modLaunch, Option.map_map]
    exact Option.map_congr fun x _ => h x
  · rw [State.launch?_modLaunch_ne _ _ hm]

theorem keepsPlaced_foldl {α : Type} {f : State → α → State} (hf : ∀ s a, KeepsPlaced s (f s a)) (as : List α) (s : State) :
    KeepsPlaced s (as.foldl f s) := foldl_related KeepsPlaced.refl KeepsPlaced.trans hf as s

theorem keepsPlaced_pokeAll (s : State) (es : List Event) : KeepsPlaced s (s.pokeAll es) := .of_eq rfl rfl

theorem keepsPlaced_poke (s : State) (e : Event) : KeepsPlaced s (s.poke e) := .of_eq rfl rfl

end

/-! ### Evictions: an L1 portion is given up -/

section
variable (s : State)

theorem unparkDie_trims (d : Nat) : Trims s (unparkDie s d) := by
  unfold unparkDie
  split
  · exact .of_eq rfl rfl rfl rfl
  · exact .refl s

theorem touchKey_trims (key : Nat) : Trims s (touchKey s key) := by
  unfold touchKey
  split
  · exact .refl s
  · exact (unparkDie_trims s _).trans (.of_eq rfl rfl rfl rfl)

theorem askHost_trims (half : Nat) (q : CacheReq) : Trims s (askHost s half q) := by
  unfold askHost
  split
  · exact .refl s
  · exact .of_eq rfl rfl rfl rfl

theorem verify_trims (key n die unit index : Nat) : Trims s (verify s key n die unit index) :=
  foldl_related Trims.refl Trims.trans (f := fun s g => originRecord
    { s with poison := natIns s.poison g, badCheck := natDel s.badCheck g } 0 die 0xFFFF unit index (64 * g))
    (fun _ _ => .of_eq rfl rfl rfl rfl) _ s

theorem returnHalf_trims (half : Nat) : Trims s (returnHalf s half) := by
  unfold returnHalf
  refine Trims.ite (.refl s) (Trims.trans (Trims.ite (verify_trims s _ _ _ _ _) (.refl s)) (.of_eq rfl rfl rfl rfl))

theorem evictLlc_trims (line : Nat) : Trims s (evictLlc s line) := by
  have hhome : Trims s (s.modHome line fun h => { h with dir := { h.dir with inLlc := false, dirty := false } }) :=
    .of_eq rfl rfl rfl rfl
  unfold evictLlc
  exact hhome.trans (.ite (.ite (touchKey_trims _ _) (.refl _))
    (.ite (.refl _) ((returnHalf_trims _ _).trans (returnHalf_trims _ _))))

theorem evictVersion_trims (v : Version) : Trims s (evictVersion s v) := by
  simp only [evictVersion]
  split
  · exact .ite (.of_eq rfl rfl rfl rfl) ((touchKey_trims s _).trans (.of_eq rfl rfl rfl rfl))
  · exact .of_eq rfl rfl rfl rfl

theorem trimSet_trims (n line : Nat) : Trims s (trimSet n s line) := by
  induction n generalizing s with
  | zero => exact .refl s
  | succ n ih =>
    simp only [trimSet]
    split
    · exact .refl s
    · have hfree : Trims s s.nextFree := .of_eq rfl rfl rfl rfl
      split
      · exact (hfree.trans (evictVersion_trims _ _)).trans (ih _)
      · exact (hfree.trans (evictLlc_trims _ _)).trans (ih _)

theorem trimLlc_trims (line : Nat) : Trims s (trimLlc s line) := trimSet_trims s _ line

theorem loseLine_trims (c line : Nat) : Trims s (s.modCore c (·.loseLine line)) := by
  refine ⟨⟨rfl, rfl, fun d => ?_, fun d => ?_⟩, rfl⟩ <;>
  · by_cases hd : d = c
    · subst hd
      rw [State.core_modCore]
      rfl
    · rw [s.core_modCore_ne _ hd]

theorem dropMine_trims (c line : Nat) : Trims s (dropMine s c line) := by
  unfold dropMine
  split
  · exact .refl s
  · refine (loseLine_trims s c line).trans (Trims.after (trimLlc_trims _ line) ?_)
    exact .of_eq rfl rfl rfl rfl

theorem fitL1_trims (c l : Nat) : Trims s (fitL1 s c l) :=
  .ite (.refl s) (Trims.trans (t := s.nextFree) (.of_eq rfl rfl rfl rfl)
    (foldl_related Trims.refl Trims.trans (f := fun s line => dropMine s c line)
      (fun s line => dropMine_trims s c line) _ s.nextFree))

end

/-! ### What the part writes of itself -/

section
variable (s : State)

theorem touchKey_keepsPlaced (key : Nat) : KeepsPlaced s (touchKey s key) := (touchKey_trims s key).keepsPlaced

theorem foldHalf_sameSeats (half : Nat) (b : List (Nat × Byte)) : SameSeats s (foldHalf s half b) := by
  unfold foldHalf
  refine .ite (.refl s) ?_
  split
  · exact .refl s
  · exact .of_eq rfl rfl rfl
  · refine SameSeats.trans ?_ (askHost_trims _ half _).toSameSeats
    exact .of_eq rfl rfl rfl

theorem partPut_sameSeats (key : Nat) (b : Byte) : SameSeats s (partPut s key b) := by
  have hmem : SameSeats s { s with mem := memPut s.mem key b, badCheck := recheck s.badCheck key 1 } := .of_eq rfl rfl rfl
  exact hmem.trans (.ite (touchKey_trims _ key).toSameSeats (foldHalf_sameSeats _ _ _))

theorem partWrite_sameSeats {s t : State} {asid va : Nat} {bs : List Byte} (h : partWrite s asid va bs = some t) :
    SameSeats s t := by
  induction bs generalizing va t with
  | nil =>
    cases h
    exact .refl s
  | cons b bs ih =>
    unfold partWrite at h
    split at h
    · cases h
    · obtain ⟨u, hu, rfl⟩ := Option.map_eq_some_iff.1 h
      exact (ih hu).trans (partPut_sameSeats u _ b)

/-- The part writes, or where the write faults does not. -/
theorem partWrite_getD_sameSeats (asid va : Nat) (bs : List Byte) : SameSeats s ((partWrite s asid va bs).getD s) := by
  generalize hw : partWrite s asid va bs = w
  cases w with
  | none => exact .refl s
  | some t => exact partWrite_sameSeats hw

theorem clearFlags_keepsPlaced (l : Nat) : KeepsPlaced s (clearFlags s l) := (partWrite_getD_sameSeats s _ _ _).keepsPlaced

theorem writeRecord_sameSeats (asid : Nat) (l : Option Nat) (done : Word) (ws : List Nat) :
    SameSeats s (writeRecord s asid l done ws) := by
  unfold writeRecord
  refine .ite ?_ (.of_eq rfl rfl rfl)
  exact (foldl_related SameSeats.refl SameSeats.trans (f := fun s i => _) (fun s i => partWrite_getD_sameSeats s _ _ _) _ s).trans
    (partWrite_getD_sameSeats _ _ _ _)

/-! ### The hearth's holder (R218, R221) -/

theorem writeSave_keepsPlaced (die t0 : Nat) (map : List Nat) (n : Nat) (image : List (Nat × Byte)) :
    KeepsPlaced s (writeSave s die t0 map n image) := by
  refine keepsPlaced_foldl (fun s j => ?_) _ s
  refine ((touchKey_keepsPlaced _ _).after (touchKey_keepsPlaced _ _)).after ?_
  exact .of_eq rfl rfl

theorem writeHeld_keepsPlaced (h asid : Nat) (x : SavedHeld) : KeepsPlaced s (writeHeld s h asid x) :=
  writeSave_keepsPlaced s _ _ _ _ _

theorem setGate_keepsPlaced (h asid : Nat) : KeepsPlaced s (setGate s h asid) := by
  unfold setGate
  refine .ite (.of_eq rfl rfl) (.ite (.refl s) ?_)
  refine KeepsPlaced.after (.ite (.refl _) (writeHeld_keepsPlaced _ h asid _)) ?_
  exact .of_eq rfl rfl

theorem saveHolder_keepsPlaced (h : Nat) (map : List Nat) : KeepsPlaced s (saveHolder s h map) := by
  unfold saveHolder
  split
  · exact .refl s
  · rename_i a _
    have hs : KeepsPlaced s (s.modHearth h (withArea s h a)) := .of_eq rfl rfl
    have hw : KeepsPlaced s (if (tget ((s.modHearth h (withArea s h a)).hearth h).areas a).isSome then
        writeHeld (s.modHearth h (withArea s h a)) h a (heldNow s h map) else s.modHearth h (withArea s h a)) :=
      hs.trans (.ite (writeHeld_keepsPlaced _ h a _) (.refl _))
    refine hw.trans ?_
    exact .of_eq rfl rfl

theorem takeHolder_keepsPlaced (h asid : Nat) : KeepsPlaced s (takeHolder s h asid) :=
  .ite (.refl s) (.of_eq rfl rfl)

/-! ### Failures (R213, R222) -/

theorem discardQueued_keepsPlaced (l c : Nat) : KeepsPlaced s (s.discardQueued l c) := by
  have hdrop : ∀ n, KeepsPlaced s ((s.countDiscard l n).inflight l (dieOf c) (-n)) := fun n =>
    .after (keepsPlaced_modLaunch (s.countDiscard l n) l fun _ => rfl) (keepsPlaced_modLaunch s l fun _ => rfl)
  unfold State.discardQueued
  refine .ite (.after (keepsPlaced_modCore _ c fun _ => rfl) (hdrop _)) ?_
  split
  · exact .after (keepsPlaced_modCore _ c fun _ => rfl) (hdrop _)
  · exact .refl s

theorem failLaunch_keepsPlaced (l status : Nat) : KeepsPlaced s (s.failLaunch l status) := by
  unfold State.failLaunch
  split
  · exact .refl s
  · refine .ite (.refl s) (.after (keepsPlaced_poke _ _) (.after (keepsPlaced_modLaunch _ l fun _ => rfl) ?_))
    exact keepsPlaced_foldl (fun s c => discardQueued_keepsPlaced s l c) _ s

theorem raiseRestore_keepsPlaced (c l seq addr asid : Nat) : KeepsPlaced s (raiseRestore s c l seq addr asid) := by
  refine (keepsPlaced_modCore s c (f := fun k =>
    { k with endedTraps := k.endedTraps ++ [(Cause.restore.code, word addr, word l, l)] }) fun _ => rfl).trans ?_
  exact .of_eq rfl rfl

theorem restoreFailure_keepsPlaced (c l : Nat) (x : Saved) (addr : Nat) : KeepsPlaced s (restoreFailure s c l x addr) :=
  .after (failLaunch_keepsPlaced _ l 3)
    (.after (raiseRestore_keepsPlaced _ c l x.seq addr x.asid) (keepsPlaced_modCore s c fun _ => rfl))

theorem heldFailure_keepsPlaced (c l : Nat) (x : Saved) (addr : Nat) : KeepsPlaced s (heldFailure s c l x addr) := by
  unfold heldFailure
  refine .after (keepsPlaced_foldl (fun s p => failLaunch_keepsPlaced s _ 3) _ _) ?_
  refine .after (raiseRestore_keepsPlaced _ c l _ addr x.asid) ?_
  refine .after (keepsPlaced_foldl (fun s c => ?_) _ _) ?_
  · exact keepsPlaced_modCore s c fun _ => rfl
  · exact .of_eq rfl rfl

/-! ### A context becomes resident (R222), and tasks on it -/

theorem moveRing_keepsPlaced (c n : Nat) : KeepsPlaced s (moveRing c n s) := by
  induction n generalizing s with
  | zero => exact .refl s
  | succ n ih =>
    simp only [moveRing]
    split
    · exact .refl s
    · exact .ite (.refl s) (.after (ih _) (keepsPlaced_setCore fun _ h => h))

theorem reissue_keepsPlaced (c : Nat) (cs : List Command) : KeepsPlaced s (reissue s c cs) := by
  refine keepsPlaced_foldl (fun s x => ?_) cs s
  refine .after (keepsPlaced_poke _ _) (.after (keepsPlaced_modCore s.fresh c fun _ => rfl) ?_)
  exact .of_eq rfl rfl

theorem startWrapup_keepsPlaced (c : Nat) : KeepsPlaced s (startWrapup s c) := by
  simp only [startWrapup]
  split
  · refine .ite (.refl s) ?_
    exact .after (keepsPlaced_setCore fun _ h => h) (keepsPlaced_modCore s c fun _ => rfl)
  · exact .refl s

theorem loadContext_keepsPlaced (c l : Nat) (x : Saved) : KeepsPlaced s (loadContext s c l x) := by
  unfold loadContext
  refine .after (keepsPlaced_pokeAll _ _) (.after (startWrapup_keepsPlaced _ c) (.after (moveRing_keepsPlaced _ c 32)
    (.after (reissue_keepsPlaced _ c _) (.after (keepsPlaced_modCore _ c fun _ => rfl) ?_))))
  refine .trans (.trans (takeHolder_keepsPlaced s (c / 8) (readContext s c l x).asid)
    (fitL1_trims _ c (readContext s c l x).lsplit).keepsPlaced) ?_
  exact .of_eq rfl rfl

theorem restoreContext_keepsPlaced (c l : Nat) (x : Saved) (map : List Nat) : KeepsPlaced s (restoreContext s c l x map) := by
  have hs : KeepsPlaced s (if (s.hearth (c / 8)).holder == some x.asid then s else saveHolder s (c / 8) map) :=
    .ite (.refl s) (saveHolder_keepsPlaced s _ map)
  simp only [restoreContext]
  refine hs.trans ?_
  generalize (if (s.hearth (c / 8)).holder == some x.asid then s else saveHolder s (c / 8) map) = v
  split
  · exact heldFailure_keepsPlaced v c l x _
  · split
    · exact restoreFailure_keepsPlaced v c l x _
    · exact loadContext_keepsPlaced v c l x

/-! ### Slices and turns (R201, R203) -/

theorem endSlice_keepsPlaced (c : Nat) : KeepsPlaced s (endSlice s c) := by
  refine keepsPlaced_foldl (fun s d => ?_) _ s
  exact .ite (.after (keepsPlaced_poke _ _) (keepsPlaced_modCore s d fun _ => rfl)) (.refl s)

theorem preempt_keepsPlaced (c l : Nat) : KeepsPlaced s (preempt s c l) := by
  unfold preempt
  split
  · exact .ite (endSlice_keepsPlaced s c) (.refl s)
  · exact .refl s

theorem gangTurn_keepsPlaced (l : Nat) : KeepsPlaced s (gangTurn s l) := by
  unfold gangTurn
  split
  · exact .refl s
  · have hcall : KeepsPlaced s (s.modLaunch l fun x => { x with called := true }) := keepsPlaced_modLaunch s l fun _ => rfl
    refine .ite (.refl s) (hcall.trans (.ite ?_ (keepsPlaced_foldl (fun s c => preempt_keepsPlaced s c l) _ _)))
    refine .after (keepsPlaced_foldl (fun s c => startWrapup_keepsPlaced s c) _ _)
      (.after (keepsPlaced_foldl (fun s p => ?_) _ _) (keepsPlaced_modLaunch _ l fun _ => rfl))
    split
    · exact restoreContext_keepsPlaced s _ l _ _
    · exact .refl s

theorem fillCore_keepsPlaced (c : Nat) : KeepsPlaced s (fillCore s c) := by
  refine .ite ?_ (.refl s)
  unfold takeContext
  split
  · exact .refl s
  · exact .ite (gangTurn_keepsPlaced s _) (.ite (restoreContext_keepsPlaced s c _ _ _) (.refl s))

/-! ### Messages and Quenches -/

theorem handToTongs_keepsPlaced (die : Nat) (peer : Option Nat) (m : Msg) (sender : Sender) :
    KeepsPlaced s (handToTongs s die peer m sender) := by
  have hin : KeepsPlaced s (s.inflight m.launch die 1) := keepsPlaced_modLaunch s m.launch fun _ => rfl
  obtain ⟨ls, st, tr, ag, leg, heq, -, hls⟩ := handToTongs_eq s die peer m sender
  refine hin.trans ⟨fun c l h => ?_, fun l => ?_⟩
  · rw [State.inflight, State.core_congr (State.modLaunch_cores s _ _)] at h
    rwa [State.core_congr (s := s) (by rw [heq])]
  · have h := congrArg (Option.map Launch.placed) (hls l)
    have hpl : Launch.placed ∘ Launch.sansLeases = Launch.placed := rfl
    rw [Option.map_map, Option.map_map, hpl] at h
    rw [State.launch?, heq]
    exact h

theorem postInitial_keepsPlaced (l : Nat) (b : List Byte) : KeepsPlaced s (postInitial s l b) := by
  simp only [postInitial]
  split
  · exact handToTongs_keepsPlaced s _ _ _ _
  · exact keepsPlaced_modLaunch s l fun _ => rfl

theorem postWork_keepsPlaced (l : Nat) : KeepsPlaced s (postWork s l) := by
  unfold postWork
  refine .after (.ite ?_ (.refl _)) (keepsPlaced_foldl (fun s b => postInitial_keepsPlaced s l b) _ s)
  exact .after (keepsPlaced_pokeAll _ _) (.after (keepsPlaced_foldl (fun s c => preempt_keepsPlaced s c l) _ _)
    (keepsPlaced_modLaunch _ l fun _ => rfl))

theorem fireQuench_keepsPlaced (l cause : Nat) : KeepsPlaced s (fireQuench s l cause) := by
  have hset : KeepsPlaced s (s.modLaunch l fun x => { x with quench := some cause }) := keepsPlaced_modLaunch s l fun _ => rfl
  unfold fireQuench
  split
  · exact .refl s
  · refine .ite (.refl s) ?_
    split
    · refine hset.trans ?_
      exact .of_eq rfl rfl
    · refine .ite (hset.trans ?_) (.refl s)
      exact .of_eq rfl rfl

end
end Sys2Proof.Machine

/-! The placing of a launch and its start (R197, R198, R201), for O51. -/

namespace Sys2Proof.Machine

/-- What every step of a fold establishes for its element, and no other step undoes, holds after the fold. -/
theorem foldl_establishes {α : Type} {f : State → α → State} {P : State → α → Prop} (hf : ∀ s a, P (f s a) a)
    (hk : ∀ s a b, P s b → P (f s a) b) (as : List α) (s : State) : ∀ a ∈ as, P (as.foldl f s) a := by
  have hkeep : ∀ (as : List α) (s : State) (b : α), P s b → P (as.foldl f s) b := by
    intro as
    induction as with
    | nil => exact fun s b h => h
    | cons a as ih => exact fun s b h => ih (f s a) b (hk s a b h)
  induction as generalizing s with
  | nil => exact fun a ha => absurd ha List.not_mem_nil
  | cons a as ih =>
    intro b hb
    rcases List.mem_cons.1 hb with rfl | hb
    · exact hkeep as (f s b) b (hf s b)
    · exact ih (f s a) b hb

/-! ### The start -/

section
variable {s : State} {l : Nat} {x : Launch} {cores : List Nat}

theorem unreserve_launches (s : State) (cores : List Nat) : (unreserve s cores).launches = s.launches := by
  obtain ⟨ks, h⟩ := foldl_modCore_eq cores (fun k => { k with reserved := none }) s
  rw [unreserve, h]

theorem unreserve_launch? (s : State) (cores : List Nat) (l : Nat) : (unreserve s cores).launch? l = s.launch? l :=
  State.launch?_congr (unreserve_launches s cores) l

theorem startCore_keepsPlaced (s : State) (l c rank : Nat) : KeepsPlaced s (startCore s l c rank) := by
  refine .after (setGate_keepsPlaced _ _ _) (.after (keepsPlaced_setCore fun m hm => List.mem_append_left _ hm) ?_)
  exact .of_eq (wakeHearth_cores s _) (wakeHearth_launches s _)

theorem startCore_assigns (s : State) (l c rank : Nat) : l ∈ ((startCore s l c rank).core c).assigned := by
  refine (setGate_keepsPlaced _ _ _).assigned c l ?_
  rw [State.core_modCore]
  exact List.mem_append_right _ (List.mem_singleton.2 rfl)

theorem startCores_assign (s : State) (l : Nat) (cores : List Nat) :
    ∀ c ∈ cores, l ∈ ((cores.zipIdx.foldl (fun s p => startCore s l p.1 p.2) s).core c).assigned := by
  intro c hc
  have h := foldl_establishes (P := fun s (p : Nat × Nat) => l ∈ (s.core p.1).assigned)
    (fun s p => startCore_assigns s l p.1 p.2)
    (fun s p q hq => (startCore_keepsPlaced s l p.1 p.2).assigned q.1 l hq) cores.zipIdx s
  rw [← List.zipIdx_map_fst 0 cores] at hc
  obtain ⟨p, hp, rfl⟩ := List.mem_map.1 hc
  exact h p hp

/-- A launch of the launch table runs on its cores, which are assigned to it. -/
def RunsOn (t : State) (l : Nat) (x : Launch) (cores : List Nat) : Prop :=
  ∃ y, t.launch? l = some y ∧ y.state = .running ∧ y.cores = cores ∧ y.lr = x.lr ∧
    ∀ c, c ∈ cores → l ∈ (t.core c).assigned

theorem RunsOn.keepsPlaced {t u : State} (h : RunsOn t l x cores) (hk : KeepsPlaced t u) : RunsOn u l x cores := by
  obtain ⟨y, hy, hst, hc, hlr, has⟩ := h
  have hp := hk.placed l
  rw [hy] at hp
  obtain ⟨z, hz, hzy⟩ := Option.map_eq_some_iff.1 hp
  simp only [Launch.placed, Prod.mk.injEq] at hzy
  obtain ⟨hzlr, hzst, hzc⟩ := hzy
  exact ⟨z, hz, hzst.trans hst, hzc.trans hc, hzlr.trans hlr, fun c hm => hk.assigned c l (has c hm)⟩

/-- The launch as it is once its cores are set up. -/
def setUp (s : State) (l : Nat) (cores : List Nat) : State :=
  cores.zipIdx.foldl (fun s p => startCore s l p.1 p.2)
    ((unreserve s cores).modLaunch l fun x => { x with state := .running, cores := cores, gangCores := [] })

theorem setUp_runsOn (hx : s.launch? l = some x) : RunsOn (setUp s l cores) l x cores := by
  have hl : ((unreserve s cores).modLaunch l fun x => { x with state := .running, cores := cores, gangCores := [] }).launch? l =
      some { x with state := .running, cores := cores, gangCores := [] } := by
    rw [State.launch?_modLaunch, unreserve_launch?, hx]
    rfl
  have hp := (keepsPlaced_foldl (fun s (p : Nat × Nat) => startCore_keepsPlaced s l p.1 p.2) cores.zipIdx
    ((unreserve s cores).modLaunch l fun x => { x with state := .running, cores := cores, gangCores := [] })).placed l
  rw [hl] at hp
  obtain ⟨y, hy, hyx⟩ := Option.map_eq_some_iff.1 hp
  simp only [Launch.placed, Prod.mk.injEq] at hyx
  obtain ⟨hlr, hst, hc⟩ := hyx
  exact ⟨y, hy, hst, hc, hlr, startCores_assign _ l cores⟩

/-- The contexts take their turn, the flags are cleared, and the work is posted or the launch is late (R198). -/
def goLive (s : State) (l : Nat) (cores : List Nat) : State :=
  let s := if bitsOf (s.lr l 0).toNat 0 0 = 1 then gangTurn s l else cores.foldl fillCore s
  let s := clearFlags s l
  let late := match s.fire? l with
    | some t => decide (t ≤ s.ptp)
    | none => false
  if late then fireQuench (s.modLaunch l fun x => { x with late := true }) l 1 else (postWork s l).pokeLaunch l

theorem goLive_keepsPlaced (s : State) (l : Nat) (cores : List Nat) : KeepsPlaced s (goLive s l cores) := by
  unfold goLive
  refine .after (.ite (.after (fireQuench_keepsPlaced _ l 1) (keepsPlaced_modLaunch _ l fun _ => rfl))
    (.after (keepsPlaced_pokeAll _ _) (postWork_keepsPlaced _ l))) (.after (clearFlags_keepsPlaced _ l) ?_)
  exact .ite (gangTurn_keepsPlaced s l) (keepsPlaced_foldl fillCore_keepsPlaced cores s)

theorem startLaunch_faults (hx : s.launch? l = some x) (hf : startFaults (unreserve s cores) x.lr = true) :
    startLaunch s l cores = endLaunch (unreserve s cores) l 5 := by
  simp [startLaunch, unreserve_launch?, hx, hf]

theorem startLaunch_runs (hx : s.launch? l = some x) (hf : startFaults (unreserve s cores) x.lr = false) :
    RunsOn (startLaunch s l cores) l x cores := by
  have h : startLaunch s l cores = goLive (setUp s l cores) l cores := by
    simp only [startLaunch, unreserve_launch?, hx, Option.elim_some, hf]
    rfl
  rw [h]
  exact (setUp_runsOn hx).keepsPlaced (goLive_keepsPlaced _ l cores)

end

/-! ### LAUNCH_PLACE and GANG_COMMIT -/

section
variable {s : State} {l : Nat} {x : Launch} {rest : List (Nat × Launch)} {cores : List Nat}

/-- A gang's cores are reserved for it. -/
def reserveGang (s : State) (l : Nat) (cores : List Nat) : State :=
  ((cores.foldl (fun s c => s.modCore c fun k => { k with reserved := some l }) s).modLaunch l fun x =>
    { x with state := .reserving, gangCores := cores }).poke ⟨.gangCommit, { launch := l }⟩

theorem reserveGang_reserves (hx : s.launch? l = some x) (cores : List Nat) :
    ∃ y, (reserveGang s l cores).launch? l = some y ∧ y.state = .reserving ∧ y.gangCores = cores ∧
      (reserveGang s l cores).mem = s.mem ∧ ∀ c, c ∈ cores → ((reserveGang s l cores).core c).reserved = some l := by
  obtain ⟨ks, hks⟩ := foldl_modCore_eq cores (fun k => { k with reserved := some l }) s
  have hres := foldl_establishes (P := fun s c => (s.core c).reserved = some l)
    (f := fun s c => s.modCore c fun k => { k with reserved := some l }) (fun s c => by rw [State.core_modCore])
    (fun s c d hd => by
      by_cases hcd : d = c
      · rw [hcd, State.core_modCore]
      · rwa [s.core_modCore_ne _ hcd]) cores s
  unfold reserveGang
  generalize List.foldl _ _ _ = v at hks hres ⊢
  have hv : v.launch? l = some x := (State.launch?_congr (by rw [hks]) l).trans hx
  refine ⟨{ x with state := .reserving, gangCores := cores }, ?_, rfl, rfl, ?_, fun c hc => ?_⟩
  · rw [State.launch?_congr (State.poke_launches _ _), State.launch?_modLaunch, hv]
    rfl
  · rw [State.poke_mem, State.modLaunch_mem, hks]
  · rw [State.core_congr (State.poke_cores _ _), State.core_congr (State.modLaunch_cores _ _ _)]
    exact hres c hc

theorem exec_launchPlace (hb : s.boot = .running) (hq : queuedLaunches s = (l, x) :: rest) (hh : heldBack s l x = false)
    (hp : placement s x = some cores) : exec .launchPlace s = .next ((if bitsOf (x.lr.getD 0 0).toNat 0 0 = 1 then
      reserveGang s l cores else startLaunch s l cores).poke ⟨.launchPlace, {}⟩) := by
  change execLaunchPlace s = _
  simp only [execLaunchPlace, hb, hq, placeFirst, hh, hp]
  rfl

theorem exec_gangCommit (hev : s.ev.launch = l) (hx : s.launch? l = some x) (hst : x.state = .reserving)
    (hroom : ∀ c, c ∈ x.gangCores → (s.core c).assigned.length < Config.maxAssigned ∧
      (s.hearth (c / 8)).fenced = false ∧ s.heatParked.getD (dieOf c) false = false) :
    exec .gangCommit s = .next (startLaunch s l x.gangCores) := by
  have hnone : (x.gangCores.any fun c => (s.hearth (c / 8)).fenced || s.heatParked.getD (dieOf c) false) = false := by
    rw [List.any_eq_false]
    intro c hc
    obtain ⟨-, hf, hh⟩ := hroom c hc
    rw [hf, hh]
    decide
  have hall : (x.gangCores.all fun c => decide ((s.core c).assigned.length < Config.maxAssigned)) = true := by
    rw [List.all_eq_true]
    exact fun c hc => decide_eq_true (hroom c hc).1
  change execGangCommit s = _
  have hres : (x.state == .reserving) = true := by rw [hst]; rfl
  simp only [execGangCommit, hev, hx, hres, hnone, hall, Bool.and_false, Bool.false_eq_true, if_false, Bool.and_self, if_true]

theorem launchPlace_rejects (hb : s.boot = .running) (hq : queuedLaunches s = (l, x) :: rest) (hh : heldBack s l x = false)
    (hp : placement s x = some cores) (hx : s.launch? l = some x) (hg : bitsOf (x.lr.getD 0 0).toNat 0 0 = 0)
    (hf : startFaults (unreserve s cores) x.lr = true) :
    exec .launchPlace s = .next ((endLaunch (unreserve s cores) l 5).poke ⟨.launchPlace, {}⟩) := by
  rw [exec_launchPlace hb hq hh hp, if_neg (by omega), startLaunch_faults hx hf]

theorem launchPlace_starts (hb : s.boot = .running) (hq : queuedLaunches s = (l, x) :: rest) (hh : heldBack s l x = false)
    (hp : placement s x = some cores) (hx : s.launch? l = some x) (hg : bitsOf (x.lr.getD 0 0).toNat 0 0 = 0)
    (hf : startFaults (unreserve s cores) x.lr = false) : ∃ t, exec .launchPlace s = .next t ∧ RunsOn t l x cores := by
  refine ⟨(startLaunch s l cores).poke ⟨.launchPlace, {}⟩, ?_, (startLaunch_runs hx hf).keepsPlaced (keepsPlaced_poke _ _)⟩
  rw [exec_launchPlace hb hq hh hp, if_neg (by omega)]

theorem launchPlace_reserves (hb : s.boot = .running) (hq : queuedLaunches s = (l, x) :: rest) (hh : heldBack s l x = false)
    (hp : placement s x = some cores) (hx : s.launch? l = some x) (hg : bitsOf (x.lr.getD 0 0).toNat 0 0 = 1) :
    ∃ t y, exec .launchPlace s = .next t ∧ t.launch? l = some y ∧ y.state = .reserving ∧ y.gangCores = cores ∧
      sameMemory s t ∧ ∀ c, c ∈ cores → (t.core c).reserved = some l := by
  obtain ⟨y, hy, hst, hcs, hmem, hres⟩ := reserveGang_reserves hx cores
  refine ⟨(reserveGang s l cores).poke ⟨.launchPlace, {}⟩, y, ?_, hy, hst, hcs, fun a => congrArg (memGet · a) hmem, hres⟩
  rw [exec_launchPlace hb hq hh hp, if_pos hg]

end

/-! ### The end is fixed (R51, R183), and a deadline (R175) -/

section
variable {s : State} {l : Nat} {x : Launch}

theorem fixEnd_fixes (hx : s.launch? l = some x) (status : Nat) :
    ∃ y a, { fixEnd s l status with launches := s.launches, beats := s.beats, agenda := s.agenda } = s ∧
      (fixEnd s l status).launch? l = some y ∧ y.endFixed = true ∧ y.status = status ∧
      y.refutedAt = some (Config.beatDelivery (s.cycle / 8)) ∧ (fixEnd s l status).beats = s.beats ++ [a] ∧
      a.kind = .refuteAll l ∧ a.window = s.cycle / 8 := by
  have h : fixEnd s l status = { s with
      launches := tset s.launches l { x with
        endFixed := true, status := status, refutedAt := some (Config.beatDelivery (s.cycle / 8)) }
      beats := s.beats ++ [{ window := s.cycle / 8, core := Config.numCores, slot := 0, launch := l, kind := .refuteAll l }]
      agenda := s.agenda ++ [⟨.completionRecordWrite, { launch := l }⟩] } := by
    simp only [fixEnd, State.modLaunch, hx]
    rfl
  rw [h]
  exact ⟨_, _, rfl, tget_tset _ _ _, rfl, rfl, rfl, rfl, rfl, rfl⟩

theorem exec_launchQuiescent (hev : s.ev.launch = l) (hx : s.launch? l = some x) (h : endsQuiescent s l x = true) :
    exec .launchQuiescent s = .next (fixEnd s l 1) := by
  change execLaunchQuiescent s = _
  simp [execLaunchQuiescent, hev, hx, h]

theorem exec_launchEndQuenched (hev : s.ev.launch = l) (hx : s.launch? l = some x) (hq : x.quenched = true)
    (hst : x.status = 0) (hw : wrapupDone s l x = true) (hc : x.cut.inProgress = false) (hd : storesDone s l = true) :
    exec .launchEndQuenched s = .next (fixEnd s l 2) := by
  change execLaunchEndQuenched s = _
  simp [execLaunchEndQuenched, hev, hx, hq, hst, hw, hc, hd]

theorem exec_deadlineFire (hev : s.ev.launch = l) (hx : s.launch? l = some x) (hl : l < 256) (hd : x.lr.getD 16 0 ≠ 0)
    (ht : fireTime x.lr ≤ s.ptp) : exec .deadlineFire s = .next (quenchLaunch s l 1) := by
  have hfire : s.fire? l = some (fireTime x.lr) := by simp only [State.fire?, hx, if_neg hd]
  change execDeadlineFire s = _
  simp only [execDeadlineFire, hev, hfire, if_neg (Nat.ne_of_lt hl), if_pos ht]

theorem deadline_quenches (hev : s.ev.launch = l) (hx : s.launch? l = some x) (hl : l < 256) (hd : x.lr.getD 16 0 ≠ 0)
    (ht : fireTime x.lr ≤ s.ptp) (hst : x.state = .running) (he : x.endFixed = false) (h0 : x.status = 0)
    (hq : x.quench = none) :
    ∃ t y a, exec .deadlineFire s = .next t ∧ onlyLaunch { s with beats := s.beats ++ [a] } t l ∧
      a.kind = .quench l 1 ∧ a.window = s.cycle / 8 ∧ t.launch? l = some y ∧ y = { x with quench := some 1 } := by
  have h : quenchLaunch s l 1 = { s with
      launches := tset s.launches l { x with quench := some 1 }
      beats := s.beats ++ [{ window := s.cycle / 8, core := Config.numCores, slot := 0, launch := l, kind := .quench l 1 }] } := by
    simp only [quenchLaunch, hx, hst, fireQuench, he, h0, hq, State.modLaunch]
    rfl
  rw [exec_deadlineFire hev hx hl hd ht, h]
  exact ⟨_, _, _, rfl, ⟨rfl, fun m hm => tget_tset_ne _ _ hm⟩, rfl, rfl, tget_tset _ _ _, rfl⟩

theorem deadline_endsQueued (hev : s.ev.launch = l) (hx : s.launch? l = some x) (hl : l < 256) (hd : x.lr.getD 16 0 ≠ 0)
    (ht : fireTime x.lr ≤ s.ptp) (hst : x.state = .queued) : exec .deadlineFire s =
      .next (endLaunch (clearFlags { s with launches := tset s.launches l { x with quench := some 1 } } l) l 2) := by
  rw [exec_deadlineFire hev hx hl hd ht]
  simp only [quenchLaunch, hx, hst, State.modLaunch]
  rfl

end
end Sys2Proof.Machine

/-! The end of a launch (R51, R183, R264), for O51. -/

namespace Sys2Proof.Machine

/-- No byte of memory is changed, and no launch comes to wait for an id. -/
structure Leaves (s t : State) : Prop where
  mem : t.mem = s.mem
  backlog : t.backlog = s.backlog

section
variable {s t u : State}

theorem Leaves.refl (s : State) : Leaves s s := ⟨rfl, rfl⟩

theorem Leaves.trans (h : Leaves s t) (h' : Leaves t u) : Leaves s u := ⟨h'.mem.trans h.mem, h'.backlog.trans h.backlog⟩

/-- The same, the later step first. -/
theorem Leaves.after (h' : Leaves t u) (h : Leaves s t) : Leaves s u := h.trans h'

theorem leaves_modLaunch (s : State) (l : Nat) (f : Launch → Launch) : Leaves s (s.modLaunch l f) := by
  rw [State.modLaunch_eq]
  exact ⟨rfl, rfl⟩

/-! ### Its leases end -/

theorem placeBase_leaves (s : State) (peer : Nat) : Leaves s (placeBase s peer) := by
  unfold placeBase
  split
  · exact .refl s
  · dsimp only
    split
    · exact ⟨rfl, rfl⟩
    · split
      · have h : Leaves s { s with freeCtr := s.freeCtr + 1 } := ⟨rfl, rfl⟩
        refine h.trans ⟨?_, ?_⟩
        · exact (leaves_modLaunch _ _ _).mem
        · exact (leaves_modLaunch _ _ _).backlog
      · exact ⟨rfl, rfl⟩

theorem placeBases_leaves (s : State) : Leaves s (placeBases s) :=
  foldl_related Leaves.refl Leaves.trans placeBase_leaves _ s

theorem endLease_leaves (s : State) (l peer : Nat) : Leaves s (endLease s l peer) := by
  unfold endLease
  split
  · exact .refl s
  · have hmod := leaves_modLaunch s l fun y => { y with leases := tdel y.leases peer }
    refine hmod.trans (Leaves.after (placeBases_leaves _) ?_)
    split
    · exact ⟨rfl, rfl⟩
    · exact ⟨rfl, rfl⟩

theorem endLeases_leaves (s : State) (l : Nat) : Leaves s (endLeases s l) := by
  unfold endLeases
  split
  · exact .refl s
  · exact foldl_related Leaves.refl Leaves.trans (fun s p => endLease_leaves s l p) _ s

/-! ### Its cores are free of it -/

theorem vacateCore_leaves (s : State) (c : Nat) : Leaves s (vacateCore s c) :=
  ⟨(fitL1_trims s c 0).mem, (fitL1_trims s c 0).backlog⟩

theorem vacateCore_resident (s : State) (c : Nat) : ((vacateCore s c).core c).resident = none := by
  rw [vacateCore, State.core_modCore]
  rfl

theorem vacateCore_resident_ne (s : State) {c d : Nat} (h : d ≠ c) :
    ((vacateCore s c).core d).resident = (s.core d).resident := by
  rw [vacateCore, State.core_modCore_ne _ _ h]
  exact (fitL1_trims s c 0).resident d

theorem vacateCores_resident (cs : List Nat) (s : State) {d l : Nat}
    (h : ((cs.foldl vacateCore s).core d).resident = some l) : (s.core d).resident = some l ∧ d ∉ cs := by
  induction cs generalizing s with
  | nil => exact ⟨h, List.not_mem_nil⟩
  | cons c cs ih =>
    obtain ⟨hr, hd⟩ := ih _ h
    have hne : d ≠ c := by
      rintro rfl
      rw [vacateCore_resident] at hr
      cases hr
    exact ⟨by rwa [vacateCore_resident_ne _ hne] at hr, by simp [hne, hd]⟩

theorem mem_tkeys_of_tget {α : Type} {t : Table α} {n : Nat} {a : α} (h : tget t n = some a) : n ∈ tkeys t := by
  induction t with
  | nil => cases h
  | cons p r ih =>
    simp only [tget] at h
    split at h
    · rename_i hp
      exact hp ▸ List.mem_cons_self
    · exact List.mem_cons_of_mem _ (ih h)

theorem mem_tkeys_of_resident {c l : Nat} (h : (s.core c).resident = some l) : c ∈ tkeys s.cores := by
  unfold State.core at h
  cases hk : tget s.cores c with
  | none =>
    rw [hk] at h
    cases h
  | some k => exact mem_tkeys_of_tget hk

/-- The cores on which a launch is resident. -/
def residentCores (s : State) (l : Nat) : List Nat := (tkeys s.cores).filter fun c => (s.core c).resident == some l

theorem vacated_resident (s : State) (l d : Nat) : (((residentCores s l).foldl vacateCore s).core d).resident ≠ some l := by
  intro h
  obtain ⟨hr, hd⟩ := vacateCores_resident _ s h
  exact hd (List.mem_filter.2 ⟨mem_tkeys_of_resident hr, by simp [hr]⟩)

theorem core_forget (v : State) (l d : Nat) :
    State.core { v with cores := tmap (fun _ k => k.forget l) v.cores } d = (v.core d).forget l := by
  simp only [State.core, tget_tmap]
  cases tget v.cores d <;> rfl

/-! ### The end -/

/-- The launch's record has been written, its leases have ended and its cores are free of its contexts. -/
def cleared (s : State) (l status : Nat) (x : Launch) : State :=
  let v := endLeases (writeRecord s (s.asidOf l) (some l) (s.lr l 29)
    (recordWords status x.flags x.dead x.discarded x.orphans s.ptp)) l
  (residentCores v l).foldl vacateCore v

/-- The launch is forgotten, and the host told. -/
def dropLaunch (v : State) (l status : Nat) : State :=
  State.notify { v with cores := tmap (fun _ k => k.forget l) v.cores, launches := tdel v.launches l } (.launchEnd l status)

theorem enterWaiting_nil (h : s.backlog = []) : enterWaiting s = s := by simp [enterWaiting, h]

theorem endLaunch_eq {l status : Nat} {x : Launch} (hx : s.launch? l = some x) : ∃ es, endLaunch s l status =
    (enterWaiting (dropLaunch (cleared s l status x) l status)).pokeAll es := by
  simp only [endLaunch, hx]
  exact ⟨_, rfl⟩

theorem cleared_leaves (s : State) (l status : Nat) (x : Launch) : Leaves (writeRecord s (s.asidOf l) (some l) (s.lr l 29)
    (recordWords status x.flags x.dead x.discarded x.orphans s.ptp)) (cleared s l status x) :=
  (endLeases_leaves _ l).trans (foldl_related Leaves.refl Leaves.trans vacateCore_leaves _ _)

theorem endLaunch_ends {l status : Nat} {x : Launch} (hx : s.launch? l = some x) (hb : s.backlog = []) :
    sameMemory (writeRecord s (s.asidOf l) (some l) (x.lr.getD 29 0)
        [status, x.flags % 32, x.dead, x.discarded, x.orphans, s.ptp, 0, 0]) (endLaunch s l status) ∧
      (∀ c, l ∉ ((endLaunch s l status).core c).assigned ∧ ((endLaunch s l status).core c).resident ≠ some l) ∧
      (endLaunch s l status).launch? l = none ∧ .launchEnd l status ∈ (endLaunch s l status).notices := by
  have hlr : s.lr l 29 = x.lr.getD 29 0 := State.lr_of_launch? hx 29
  have hleaves := cleared_leaves s l status x
  have hres : ∀ c, ((cleared s l status x).core c).resident ≠ some l := vacated_resident _ l
  have hback : (cleared s l status x).backlog = [] :=
    (hleaves.backlog.trans (writeRecord_sameSeats s _ _ _ _).backlog).trans hb
  obtain ⟨es, hes⟩ := endLaunch_eq (status := status) hx
  rw [hlr] at hleaves
  generalize cleared s l status x = v at hleaves hres hback hes
  rw [enterWaiting_nil (s := dropLaunch v l status) hback] at hes
  rw [hes]
  have hcore : ∀ c, ((dropLaunch v l status).pokeAll es).core c = (v.core c).forget l := core_forget v l
  refine ⟨fun a => congrArg (memGet · a) hleaves.mem, fun c => ?_, tget_tdel _ _,
    List.mem_append_right _ (List.mem_singleton.2 rfl)⟩
  rw [hcore]
  exact ⟨by simp [Core.forget], hres c⟩

theorem completionRecordWrite_ends {l at_ : Nat} {x : Launch} (hev : s.ev.launch = l) (hx : s.launch? l = some x)
    (hr : x.refutedAt = some at_) (hst : x.status ≠ 0) (ht : at_ < s.cycle)
    (hbeats : (s.beats.any fun a => a.kind == .refuteAll l) = false) (htask : anyTask s l = false)
    (hd : storesDone s l = true) (hc : x.cut.inProgress = false) :
    exec .completionRecordWrite s = .next (endLaunch s l x.status) := by
  change execCompletionRecordWrite s = _
  simp [execCompletionRecordWrite, hev, hx, hr, hst, Nat.not_le.2 ht, hbeats, htask, hd, hc]

end
end Sys2Proof.Machine

/-! Ranges and their tiles (R56, R200), and the settling of O51. -/

namespace Sys2Proof.Machine

/-! ### Slices that end (R203, R204) -/

/-- Slices have ended on some cores; nothing else is changed, and no slice begins. -/
structure Slices (s t : State) : Prop where
  rest : { t with cores := s.cores, agenda := s.agenda } = s
  core : ∀ c, { t.core c with sliceEnded := (s.core c).sliceEnded } = s.core c
  ended : ∀ c, (s.core c).sliceEnded = true → (t.core c).sliceEnded = true

section
variable {s t u : State}

theorem Slices.refl (s : State) : Slices s s := ⟨rfl, fun _ => rfl, fun _ h => h⟩

theorem Slices.trans (h : Slices s t) (h' : Slices t u) : Slices s u where
  rest := (congrArg (fun v : State => { v with cores := s.cores, agenda := s.agenda }) h'.rest).trans h.rest
  core c := (congrArg (fun k : Core => { k with sliceEnded := (s.core c).sliceEnded }) (h'.core c)).trans (h.core c)
  ended c hc := h'.ended c (h.ended c hc)

theorem Slices.resident (h : Slices s t) (c : Nat) : (t.core c).resident = (s.core c).resident :=
  (congrArg Core.resident (h.core c) :)

theorem Slices.launches (h : Slices s t) : t.launches = s.launches := (congrArg State.launches h.rest :)

theorem Slices.prioOf (h : Slices s t) (l : Nat) : t.prioOf l = s.prioOf l := by
  simp only [State.prioOf, State.lr, State.launch?_congr h.launches]

theorem Slices.sliceCores (h : Slices s t) (c : Nat) : sliceCores t c = sliceCores s c := by
  have hl : t.launch? = s.launch? := funext fun l => State.launch?_congr h.launches l
  rw [Machine.sliceCores, h.resident, hl, Machine.sliceCores]

theorem sliceEnds (s : State) (c : Nat) :
    Slices s ((s.modCore c fun k => { k with sliceEnded := true }).poke ⟨.contextSave, { core := c }⟩) := by
  refine ⟨rfl, fun d => ?_, fun d hd => ?_⟩ <;> rw [State.core_congr (State.poke_cores _ _)]
  · by_cases hdc : d = c
    · rw [hdc, State.core_modCore]
    · rw [s.core_modCore_ne _ hdc]
  · by_cases hdc : d = c
    · rw [hdc, State.core_modCore]
    · rwa [s.core_modCore_ne _ hdc]

/-- One core of those whose slice ends together. -/
def endSliceOn (r : Option Nat) (s : State) (c : Nat) : State :=
  if r.isSome && (s.core c).resident == r && !(s.core c).sliceEnded then
    (s.modCore c fun k => { k with sliceEnded := true }).poke ⟨.contextSave, { core := c }⟩
  else s

theorem endSlice_eq (s : State) (c : Nat) : endSlice s c = (sliceCores s c).foldl (endSliceOn (s.core c).resident) s := rfl

theorem endSliceOn_slices (r : Option Nat) (s : State) (c : Nat) : Slices s (endSliceOn r s c) := by
  unfold endSliceOn
  split
  · exact sliceEnds s c
  · exact .refl s

theorem endSliceOn_ends {r : Nat} {c : Nat} (h : ((endSliceOn (some r) s c).core c).resident = some r) :
    ((endSliceOn (some r) s c).core c).sliceEnded = true := by
  rw [(endSliceOn_slices (some r) s c).resident] at h
  cases he : (s.core c).sliceEnded with
  | true => exact (endSliceOn_slices (some r) s c).ended c he
  | false => rw [endSliceOn, if_pos (by simp [h, he]), State.core_congr (State.poke_cores _ _), State.core_modCore]

theorem endSlice_slices (s : State) (c : Nat) : Slices s (endSlice s c) :=
  foldl_related Slices.refl Slices.trans (endSliceOn_slices _) _ s

theorem endSlice_ends {c r : Nat} (hr : (s.core c).resident = some r) (hc : c ∈ sliceCores s c) :
    ((endSlice s c).core c).sliceEnded = true := by
  have h := foldl_establishes (f := endSliceOn (some r))
    (P := fun s c => (s.core c).resident = some r → (s.core c).sliceEnded = true)
    (fun s c => endSliceOn_ends) (fun s c d hd hres => (endSliceOn_slices (some r) s c).ended d
      (hd (by rwa [(endSliceOn_slices (some r) s c).resident] at hres))) (sliceCores s c) s c hc
  have hres := (endSlice_slices s c).resident c
  rw [endSlice_eq, hr] at hres ⊢
  exact h hres

theorem preempt_slices (s : State) (c l : Nat) : Slices s (preempt s c l) := by
  unfold preempt
  split
  · split
    · exact endSlice_slices s c
    · exact .refl s
  · exact .refl s

/-- The slice of a launch of lower class on a core has ended, if it stands there among those that end together. -/
def Yielded (s : State) (l c : Nat) : Prop :=
  c ∈ sliceCores s c → ∀ r, (s.core c).resident = some r → s.prioOf r < s.prioOf l → r ≠ l → (s.core c).sliceEnded = true

theorem Yielded.slices {l c : Nat} (h : Yielded s l c) (hs : Slices s t) : Yielded t l c := by
  intro hc r hr hp hne
  rw [hs.sliceCores] at hc
  rw [hs.resident] at hr
  rw [hs.prioOf, hs.prioOf] at hp
  exact hs.ended c (h hc r hr hp hne)

theorem preempt_yields (s : State) (l c : Nat) : Yielded (preempt s c l) l c := by
  have hs := preempt_slices s c l
  intro hc r hr hp hne
  rw [hs.sliceCores] at hc
  rw [hs.resident] at hr
  rw [hs.prioOf, hs.prioOf] at hp
  have h : preempt s c l = endSlice s c := by simp [preempt, hr, hp, hne]
  rw [h]
  exact endSlice_ends hr hc

theorem preemptAll_slices (s : State) (l : Nat) (cs : List Nat) : Slices s (cs.foldl (fun s c => preempt s c l) s) :=
  foldl_related Slices.refl Slices.trans (f := fun s c => preempt s c l) (fun s c => preempt_slices s c l) cs s

theorem preemptAll_yields (s : State) (l : Nat) (cs : List Nat) :
    ∀ c ∈ cs, Yielded (cs.foldl (fun s c => preempt s c l) s) l c :=
  foldl_establishes (f := fun s c => preempt s c l) (P := fun s c => Yielded s l c) (fun s c => preempt_yields s l c)
    (fun s c _ hd => hd.slices (preempt_slices s c l)) cs s

theorem sliceCores_modLaunch (s : State) (l : Nat) {f : Launch → Launch} (hlr : ∀ x, (f x).lr = x.lr)
    (hc : ∀ x, (f x).cores = x.cores) (c : Nat) : sliceCores (s.modLaunch l f) c = sliceCores s c := by
  simp only [sliceCores, State.core_congr (State.modLaunch_cores s l f)]
  cases (s.core c).resident with
  | none => rfl
  | some r =>
    simp only [Option.bind_some]
    by_cases hr : r = l
    · subst hr
      rw [State.launch?_modLaunch]
      cases s.launch? r with
      | none => rfl
      | some x => simp only [Option.map_some, hlr, hc]
    · rw [State.launch?_modLaunch_ne _ _ hr]

end

/-! ### Tiles of a range (R56, R200) -/

section
variable {s : State} {c l : Nat} {x : Launch}

theorem Launch.perDie_getD (x : Launch) {d : Nat} (hd : d < 4) (n : Nat) :
    x.perDie.getD d n = (x.cores.filter fun i => dieOf i == d).length := by
  interval_cases d <;> rfl

theorem rangeHandout_gives (hev : s.ev.core = c) (hx : s.launch? l = some x) (hu : s.up (c / 8) = true) {lo hi n : Nat}
    (hm : mayDispatch s c = true) (hr : (s.core c).resident = some l) (ht : (s.core c).tiles = [])
    (hf : (freeSlot (s.core c)).isSome = true) (hrange : x.ranges.getD (dieOf c) (0, 0) = (lo, hi)) (hlt : lo < hi)
    (hd : dieOf c < 4) (hn : n = max 1 (ceilDiv (hi - lo) (4 * (x.cores.filter fun i => dieOf i == dieOf c).length))) :
    ∃ t y, exec .rangeHandout s = .next t ∧ sameMemory s t ∧ (t.core c).tiles = (List.range n).map (lo + ·) ∧
      t.launch? l = some y ∧ y.ranges = x.ranges.set (dieOf c) (lo + n, hi) ∧ otherSlots s t := by
  let v := s.modLaunch l fun x => { x with ranges := x.ranges.set (dieOf c) (lo + n, hi) }
  have hv : v.launch? l = some { x with ranges := x.ranges.set (dieOf c) (lo + n, hi) } := by
    rw [State.launch?_modLaunch, hx]
    rfl
  have hexec : exec .rangeHandout s =
      .next ((v.modCore c fun k => { k with tiles := (List.range n).map (lo + ·) }).poke ⟨.rangeTaskStart, { core := c }⟩) := by
    obtain ⟨m, hm'⟩ := Option.isSome_iff_exists.1 hf
    have hle : ¬ hi ≤ lo := Nat.not_le.2 hlt
    change execRangeHandout s = _
    simp only [execRangeHandout, hev, hr, hx, hrange, rouse_of_up hu, ite_self, hm, ht, hm', hle, x.perDie_getD hd, ← hn]
    rfl
  have hmem : v.mem = s.mem := by rw [State.modLaunch_mem]
  refine ⟨_, _, hexec, fun a => congrArg (memGet · a) hmem, ?_, hv, rfl, fun d k _ => ?_⟩
  · rw [State.core_congr (State.poke_cores _ _), State.core_modCore]
  · exact (congrFun (congrFun (State.slotAt_modCore_same_slots v c
      (f := fun k => { k with tiles := (List.range n).map (lo + ·) }) fun _ => rfl) d) k).trans
      (State.slotAt_congr (State.modLaunch_cores s l _) d k)

theorem rangeTaskStart_starts (hev : s.ev.core = c) (hx : s.launch? l = some x) (hu : s.up (c / 8) = true) {i n : Nat}
    {rest : List Nat} (hm : mayDispatch s c = true) (hr : (s.core c).resident = some l) (ht : (s.core c).tiles = i :: rest)
    (hf : freeSlot (s.core c) = some n) :
    ∃ t sl, exec .rangeTaskStart s = .next t ∧ onlyCore s t c ∧ (t.core c).tiles = rest ∧ t.slotAt c n = sl ∧
      (∀ j, j ≠ n → t.slotAt c j = s.slotAt c j) ∧ sl.held = true ∧ sl.start = .range ∧ sl.launch = l ∧
      sl.pc = (s.classOf l (bitsOf (x.lr.getD 8 0).toNat 7 0)).entry ∧ sl.entry = true ∧ sl.payload = [] ∧
      sl.hypCur = 0 ∧ (∀ j, j < 4 → sl.named j = Reg.of (word ((tileCoords x.tileCounts i).getD j 0))) ∧
      sl.named 4 = Reg.of (word i) ∧ ∀ j, 5 ≤ j → j < 8 → sl.named j = Reg.of 0 := by
  have hstart : exec .rangeTaskStart s = execRangeTaskStart s := rfl
  simp only [execRangeTaskStart, hev, ht, hr, hf, rouse_of_up hu, hm, hx, State.lr_of_launch? hx, Option.elim_some,
    Bool.not_true, Bool.false_eq_true, if_false] at hstart
  generalize s.classOf l (bitsOf (x.lr.getD 8 0).toNat 7 0) = e at hstart ⊢
  generalize tileCoords x.tileCounts i = co at hstart ⊢
  generalize hws : ([0, 1, 2, 3].map fun d => word (co.getD d 0)) ++ [word i] = ws at hstart
  generalize hsl : { ((s.core c).slot n).begin s l (s.rankOf l c) (bitsOf (x.lr.getD 8 0).toNat 7 0) .range e with
    win := firstFrame ws } = sl at hstart
  have hwin : sl.win = firstFrame ws := by rw [← hsl]
  refine ⟨_, sl, hstart, ⟨rfl, fun d hd => ?_⟩, ?_, State.slotAt_setSlotAt .., fun j hj => ?_, ?_⟩
  · rw [State.core_congr (State.pokeAll_cores _ _), State.setSlotAt, State.core_setCore_ne _ _ hd, State.core_modCore_ne _ _ hd]
  · rw [State.core_congr (State.pokeAll_cores _ _), State.setSlotAt, State.core_setCore, State.core_modCore]
    rfl
  · exact (State.slotAt_setSlotAt_ne _ _ (.inr hj)).trans (State.slotAt_setCore_same_slots (by rfl) c j)
  · refine ⟨?_, ?_, ?_, ?_, ?_, ?_, ?_, fun j hj => ?_, ?_, fun j h5 h8 => ?_⟩
    case refine_8 =>
      rw [firstFrame_arg hwin (by omega), ← hws]
      interval_cases j <;> rfl
    case refine_9 =>
      rw [firstFrame_arg hwin (by omega), ← hws]
      rfl
    case refine_10 =>
      rw [firstFrame_arg hwin h8, ← hws]
      interval_cases j <;> rfl
    all_goals exact hsl ▸ rfl

/-- A die takes the upper half of the range `lo` to `hi` of die `v` (R200). -/
def Launch.steals (d v lo hi : Nat) (x : Launch) : Launch :=
  { x with ranges := (x.ranges.set v (lo, hi - (hi - lo) / 2)).set d (hi - (hi - lo) / 2, hi) }

theorem rangeSteal_takes {d v lo hi : Nat} (hev : s.ev.launch = l) (hed : s.ev.die = d) (hx : s.launch? l = some x)
    (hd : d < 4) (hcores : (x.cores.filter fun i => dieOf i == d) ≠ []) (hdry : (x.ranges.getD d (0, 0)).2 ≤ (x.ranges.getD d (0, 0)).1)
    (hv : (largestRange x.ranges).1 = v) (hr : x.ranges.getD v (0, 0) = (lo, hi)) (hlen : 2 ≤ hi - lo)
    (hq : x.quenched = false) (hst : x.status = 0) :
    ∃ t y, exec .rangeSteal s = .next t ∧ { t with launches := s.launches, cores := s.cores, agenda := s.agenda } = s ∧
      (∀ j, j ≠ l → t.launch? j = s.launch? j) ∧
      t.launch? l = some y ∧ y.ranges = (x.ranges.set v (lo, hi - (hi - lo) / 2)).set d (hi - (hi - lo) / 2, hi) ∧
      ∀ j, { t.core j with sliceEnded := (s.core j).sliceEnded } = s.core j ∧
        (j ∈ x.cores → dieOf j = d → j ∈ sliceCores s j → ∀ r, (s.core j).resident = some r → s.prioOf r < s.prioOf l → r ≠ l →
          (t.core j).sliceEnded = true) := by
  let u := s.modLaunch l (Launch.steals d v lo hi)
  let cs := x.cores.filter fun i => dieOf i == d
  have hexec : exec .rangeSteal s = .next ((cs.foldl (fun s c => preempt s c l) u).pokeAll
      (cs.map fun c => ⟨.rangeHandout, { core := c }⟩)) := by
    have hne : (x.cores.filter fun i => dieOf i == d).length ≠ 0 := fun h => hcores (List.length_eq_zero_iff.1 h)
    have hhalf : (hi - lo) / 2 ≠ 0 := by omega
    have hmine : decide ((x.ranges.getD d (0, 0)).1 < (x.ranges.getD d (0, 0)).2) = false := decide_eq_false (Nat.not_lt.2 hdry)
    change execRangeSteal s = _
    simp only [execRangeSteal, hev, hed, hx, hv, hr, x.perDie_getD hd, hne, hhalf, hmine, not_deaf_of_launch hx hq hst,
      decide_false, Bool.or_self, Bool.false_eq_true, if_false]
    rfl
  have hs : Slices u (cs.foldl (fun s c => preempt s c l) u) := preemptAll_slices u l cs
  have hyield := preemptAll_yields u l cs
  generalize cs.foldl (fun s c => preempt s c l) u = t at hexec hs hyield
  have hcore : ∀ j, u.core j = s.core j := State.core_congr (State.modLaunch_cores s l _)
  have hlr : u.lr = s.lr := s.lr_modLaunch l (f := Launch.steals d v lo hi) fun _ => rfl
  have hprio : ∀ r, u.prioOf r = s.prioOf r := fun r => by rw [State.prioOf, hlr, State.prioOf]
  have hslice : ∀ j, sliceCores u j = sliceCores s j :=
    sliceCores_modLaunch s l (f := Launch.steals d v lo hi) (fun _ => rfl) fun _ => rfl
  refine ⟨_, x.steals d v lo hi, hexec, ?_, fun j hj => ?_, ?_, rfl, fun j => ⟨?_, fun hj hdie hmem r hres hlt hne => ?_⟩⟩
  · have hu : u = { s with launches := u.launches } := s.modLaunch_eq l _
    exact (congrArg (fun w : State => { w with launches := s.launches, cores := s.cores, agenda := s.agenda }) hs.rest).trans
      (congrArg (fun w : State => { w with launches := s.launches, cores := s.cores, agenda := s.agenda }) hu)
  · exact (State.launch?_congr hs.launches j).trans (State.launch?_modLaunch_ne _ _ hj)
  · exact (State.launch?_congr hs.launches l).trans (by rw [State.launch?_modLaunch, hx]; rfl)
  · have h := hs.core j
    rw [hcore] at h
    exact h
  · have hjs : j ∈ cs := List.mem_filter.2 ⟨hj, by simp [hdie]⟩
    refine hyield j hjs ?_ r ?_ ?_ hne
    · rw [hs.sliceCores, hslice]
      exact hmem
    · rw [hs.resident, hcore, hres]
    · rw [hs.prioOf, hs.prioOf, hprio, hprio]
      exact hlt

end

/-- Settles O51: each clause is one event of a queue, of a submission, of a launch or of a range, by its lemma. -/
theorem launchEvents : Obligations.LaunchEvents := by
  unfold Obligations.LaunchEvents
  refine ⟨?queues, submitLaunch_outcomes, ?launches, ?ranges⟩
  case queues =>
    intro s q x hev hx hm
    refine ⟨submissionWrite_raises hev hx, submissionWrite_narrow, queueDisable_writes hm hev hx, ?enable, ?begins, ?ends,
      fun k i hr hp hi => packet_unready hev hr hp hi, ?asks, ?stops, ?packets⟩
    case enable =>
      intro hq hn hlt he
      obtain ⟨h0, h3, h2⟩ := queueEnabled_dwords (q := q) hm x.latched hlt
      refine ⟨queueEnabled s q x.latched, queueEnable_enables hm hev hx hq hn he, ?_, h0, h3, h2, queueEnabled_memory hm _⟩
      rw [queueEnabled_queue, hx]
      rfl
    case begins =>
      intro hf hr
      change execSchedulerFirmwareRestart s = _
      simp [execSchedulerFirmwareRestart, hf, hr]
    case ends =>
      intro hf
      change execSchedulerFirmwareRestart s = _
      simp [execSchedulerFirmwareRestart, hf]
    case asks =>
      intro k p hr hp ht ha
      exact congrArg Host.Outcome.next (onPacket_asks _ hev hr hp ht ha)
    case stops =>
      intro code i hr hp hc hi
      obtain ⟨r, hstop, hword, hmem, hras, hkind, hnotice, hl⟩ := stopQueue_stops (q := q) hm hc
      exact ⟨_, r, packet_unready hev hr hp hi, hstop, hword, hmem, hras, hkind, hnotice, hl⟩
    case packets =>
      subst hx
      intro p hr hp hi
      exact ⟨packetNop_passes hm hev hr hp hi, packetDispatch_submits hm hev hr hp hi,
        fun ht l hl => packetStop_quenches hm hev hr hp hi ht hl, packetIndirect_enters hev hr hp,
        fun ht l hl hpeer => packetStatus_answers hm hev hr hp hi ht hl hpeer⟩
  case launches =>
    intro s l x hx
    refine ⟨fun rest cores hb hq hh hp => ⟨launchPlace_rejects hb hq hh hp hx, ?starts, launchPlace_reserves hb hq hh hp hx⟩,
      fun hev => ⟨?commits, ?fixed, ?written,
        fun hl hd ht => ⟨deadline_quenches hev hx hl hd ht, deadline_endsQueued hev hx hl hd ht⟩⟩⟩
    case starts =>
      intro hg hf
      obtain ⟨t, ht, y, hy, hst, hc, hlr, has⟩ := launchPlace_starts hb hq hh hp hx hg hf
      exact ⟨t, y, ht, hy, hst, hc, hlr, has⟩
    case commits =>
      intro hst hroom hf
      obtain ⟨y, hy, hrun, hc, -, has⟩ := startLaunch_runs hx hf
      exact ⟨_, y, exec_gangCommit hev hx hst hroom, hy, hrun, hc, has⟩
    case fixed =>
      intro status i he h0 h
      obtain ⟨y, a, hrest, hy, hfix, hstat, hat, hbeats, hkind, hwin⟩ := fixEnd_fixes hx status
      refine ⟨fixEnd s l status, y, a, ?_, hrest, hy, hfix, hstat, hat, hbeats, hkind, hwin⟩
      rcases h with ⟨rfl, rfl, hst, hres, hlate, hq, hqu⟩ | ⟨rfl, rfl, hq, hw, hc, hd⟩
      · exact exec_launchQuiescent hev hx (by rw [endsQuiescent, hst, hres, hlate, hq, he, h0, hqu]; rfl)
      · exact exec_launchEndQuenched hev hx hq h0 hw hc hd
    case written =>
      intro at_ hr hst ht hbeats htask hd hc hb
      obtain ⟨hmem, hcores, hnone, hnotice⟩ := endLaunch_ends (status := x.status) hx hb
      exact ⟨_, completionRecordWrite_ends hev hx hr hst ht hbeats htask hd hc, hmem, hcores, hnone, hnotice⟩
  case ranges =>
    intro s c d l x hev hx hu
    exact ⟨fun lo hi n => rangeHandout_gives hev hx hu, fun i rest n => rangeTaskStart_starts hev hx hu,
      fun v lo hi hl hd => rangeSteal_takes hl hd hx⟩

end Sys2Proof.Machine

/-! What an instruction leaves (R58, R61, R62): a destination that is written, a value that is owed, and the slot past the
instruction; O8, O7, O11 and O12. -/

namespace Sys2Proof.Machine

/-! ### Writing a destination (R58, R61) -/

section
variable (sl : Slot) (d : Dst) (r : Reg)

theorem Slot.write_queue (h : d ≠ .z) : (sl.write d r).queue = r :: sl.queue.take 15 := by
  cases d with
  | z => exact absurd rfl h
  | _ => rfl

theorem Slot.write_composer (h : d ≠ .s7) : (sl.write d r).composer = sl.composer := by
  cases d with
  | s7 => exact absurd rfl h
  | _ => rfl

theorem Slot.write_named (j : Fin 32) : (sl.write (.n j) r).named j.val = r := padSet_getD _ _ _ _ _

variable {d} in
theorem Slot.write_named_ne {i : Nat} (h : ∀ j, d = .n j → i ≠ j.val) : (sl.write d r).named i = sl.named i := by
  cases d with
  | n j => exact padSet_getD_ne _ _ _ (h j rfl)
  | _ => rfl

theorem Slot.write_sameButRegs : sameButRegs sl (sl.write d r) := by cases d <;> rfl

theorem Slot.write_pc : (sl.write d r).pc = sl.pc := by cases d <;> rfl

theorem Slot.write_owed : (sl.write d r).owed = sl.owed := by cases d <;> rfl

end

/-! ### The slot alone -/

theorem onlySlot_setSlot (s : State) (x : Slot) : onlySlot s (s.setSlot x) := by
  rw [onlySlot, State.slot_setSlot]

theorem onlySlot.trans {s t u : State} (h : onlySlot s t) (h' : onlySlot t u) : onlySlot s u := by
  rw [onlySlot] at h h'
  rw [h, State.setSlot_setSlot] at h'
  exact h'

theorem onlySlot.mem {s t : State} (h : onlySlot s t) : sameMemory s t := fun a => by rw [h]; rfl

theorem onlySlot_modSlot (s : State) (f : Slot → Slot) : onlySlot s (s.modSlot f) := onlySlot_setSlot s _

theorem onlySlot_consumed (s : State) (xs : List SrcM) : onlySlot s (consumed s xs) := onlySlot_setSlot s _

theorem onlySlot_pushTo (s : State) (d : Dst) (v : Word) : onlySlot s (pushTo s d v) := onlySlot_setSlot s _

theorem onlySlot_advance (s : State) (len : Nat) : onlySlot s (advance s len) := onlySlot_setSlot s _

theorem sameButRegs.trans {a b c : Slot} (h : sameButRegs a b) (h' : sameButRegs b c) : sameButRegs a c := by
  rw [sameButRegs] at h h'
  rw [← h'] at h
  exact h

/-- Settles O8: what each destination takes, and that nothing else is written. -/
theorem writeDestination : Obligations.WriteDestination := by
  unfold Obligations.WriteDestination
  intro s v
  simp only [slot_pushTo]
  exact ⟨rfl, fun d hd => s.slot.write_queue d _ hd,
    fun j => ⟨s.slot.write_named _ j, fun r hr => s.slot.write_named_ne _ fun k hk => by cases hk; exact hr⟩,
    rfl, rfl, fun d hd => s.slot.write_composer d _ hd,
    fun d => ⟨onlySlot_pushTo s d v, s.slot.write_pc d _⟩⟩

/-! ### Register instructions -/

/-- A register instruction on integers reads its sources and writes a function of them (R58, R61). -/
theorem exec_regOp {i : Instr} {f : RegOp} (hf : regOp i = some f) (s : State) :
    ∃ g : List Word → Word, exec i s =
      finish s f.len (withOps s f.dst f.srcs fun vs t => .done (pushTo t f.dst (g vs))) := by
  unfold regOp at hf
  split at hf
  case h_46 imm =>
    obtain rfl := Option.some.inj hf
    exact ⟨fun _ => imm.signExtend 64, rfl⟩
  case h_47 => cases hf
  all_goals
    obtain rfl := Option.some.inj hf
    exact ⟨_, rfl⟩

theorem boolWord_toNat (b : Bool) : (boolWord b).toNat = if b then 1 else 0 := by cases b <;> rfl

/-- A scalar floating-point instruction reads its sources and writes a function of them and of its slot (R90, R336). -/
theorem exec_fpOp {i : Instr} {f : FpOp} (hf : fpOp i = some f) (s : State) :
    exec i s = finish s f.len (withOps s f.dst f.srcs fun vs t =>
      fpPush s t f.dst (f.val s.slot vs).1 (f.val s.slot vs).2) := by
  unfold fpOp at hf
  split at hf
  case h_16 c p d a b =>
    obtain rfl := Option.some.inj hf
    simp only [← boolWord_toNat]
    rfl
  case h_29 => cases hf
  all_goals
    obtain rfl := Option.some.inj hf
    rfl

/-- A register instruction whose operands can be read completes: a value is written. -/
theorem regOp_completes {i : Instr} {f : RegOp} {s : State} {vs : List Word} (hf : regOp i = some f)
    (hg : operandsGive s f.dst f.srcs vs = true) :
    ∃ v, exec i s = .next (advance (pushTo (consumed s f.srcs) f.dst v) f.len) := by
  obtain ⟨g, he⟩ := exec_regOp hf s
  exact ⟨g vs, by rw [he, withOps_gives hg, finish_done]⟩

/-- A floating-point instruction that raises no enabled trap completes: its result is written, and its flags are ORed into
`FP.STAT` (R90). -/
theorem fpOp_completes {i : Instr} {f : FpOp} {s : State} {vs : List Word} (hf : fpOp i = some f)
    (hg : operandsGive s f.dst f.srcs vs = true) (ht : s.slot.traps (f.val s.slot vs).2 = false) :
    exec i s = .next (advance ((pushTo (consumed s f.srcs) f.dst (word (f.val s.slot vs).1)).modSlot
      (·.orFlags (f.val s.slot vs).2)) f.len) := by
  rw [exec_fpOp hf, withOps_gives hg, fpPush, ht]
  exact finish_done _ _ _

/-- What the slot keeps once a destination has been written and the pc has moved on. -/
theorem registerSlot_frame (s : State) (xs : List SrcM) (d : Dst) (v : Word) (len : Nat) {t : Slot}
    (ht : t = (advance (pushTo (consumed s xs) d v) len).slot) :
    sameButRegs s.slot t ∧ (∀ r, (∀ j, d = .n j → r ≠ j.val) → t.named r = s.slot.named r) ∧
      (d ≠ .s7 → t.composer = s.slot.composer) ∧ (d = .z → t.queue = s.slot.queue) ∧ t.pc = s.slot.pc + word len := by
  obtain ⟨p, b, hc⟩ := slot_consumed_eq s xs
  rw [slot_advance, slot_pushTo, hc] at ht
  subst ht
  refine ⟨?_, fun r hr => ?_, fun hd => ?_, fun hd => ?_, ?_⟩
  · exact sameButRegs.trans (b := { s.slot with payload := p, binds := b }) rfl (Slot.write_sameButRegs _ d (Reg.of v))
  · exact Slot.write_named_ne { s.slot with payload := p, binds := b } _ hr
  · exact Slot.write_composer { s.slot with payload := p, binds := b } _ _ hd
  · subst hd; rfl
  · exact congrArg (· + word len) (Slot.write_pc _ d _)

theorem sameButRegs.fpStat {a b : Slot} (h : sameButRegs a b) : b.fpStat = a.fpStat := by
  rw [sameButRegs] at h
  have hf := congrArg Slot.fpStat h
  exact hf

/-- Settles O7: each instruction comes to one write of its destination, past which the rest of the slot stands. -/
theorem scalarFrame : Obligations.ScalarFrame := by
  unfold Obligations.ScalarFrame
  refine ⟨fun i f s t vs hf _ hg he => ?_, fun i f s t vs hf hg ht he => ?_⟩
  · obtain ⟨v, hv⟩ := regOp_completes hf hg
    obtain rfl := Host.Outcome.next.inj (hv.symm.trans he)
    have honly := ((onlySlot_consumed s f.srcs).trans (onlySlot_pushTo _ f.dst v)).trans (onlySlot_advance _ f.len)
    exact ⟨honly.mem, honly, registerSlot_frame s f.srcs f.dst v f.len rfl⟩
  · obtain rfl := Host.Outcome.next.inj ((fpOp_completes hf hg ht).symm.trans he)
    generalize (f.val s.slot vs).1 = x, (f.val s.slot vs).2 = fl
    have honly := (((onlySlot_consumed s f.srcs).trans (onlySlot_pushTo _ f.dst (word x))).trans
      (onlySlot_modSlot _ (·.orFlags fl))).trans (onlySlot_advance _ f.len)
    obtain ⟨hsame, hnamed, hcomp, hqueue, -⟩ := registerSlot_frame s f.srcs f.dst (word x) f.len (slot_advance _ _).symm
    have hstat := hsame.fpStat
    refine ⟨honly.mem, honly, ?_⟩
    rw [slot_advance, State.slot_modSlot]
    refine ⟨?_, ?_, hnamed, hcomp, hqueue⟩
    · rw [← hstat]; exact hsame
    · rw [← hstat]; rfl

/-! ### An operand that cannot be read (R63, R115) -/

/-- A source of the queue or of the frame that lies in the frame meets nothing in the first two groups of R210. -/
theorem groupTwo_register {sl : Slot} {a : SrcM} {d : Dst} (ha : (∃ i, a.src = .q i) ∨ ∃ i, a.src = .n i)
    (hs : srcGap sl a = none) (hd : dstGap sl d = none) : groupTwo sl d [(a, (sl.read a.src).1)] = none := by
  have hbound (r : Reg) : (r.peek == .unbound) = false := by
    rw [Reg.peek]
    cases r.st <;> rfl
  have hread : ((sl.read a.src).1 == .unbound) = false := by
    obtain ⟨i, hi⟩ | ⟨i, hi⟩ := ha <;> rw [hi] <;> exact hbound _
  simp [groupTwo, hread, hs, hd]

/-- `mov` of a register that shows no value comes to what its source does to it. -/
theorem exec_mov_blocked {s : State} {a : SrcM} {d : Dst} {e : Effect} (ha : (∃ i, a.src = .q i) ∨ ∃ i, a.src = .n i)
    (hs : srcGap s.slot a = none) (hd : dstGap s.slot d = none) (he : groupThree (a, (s.slot.read a.src).1) = some e) :
    exec (.mov d a) s = finish s 4 e := by
  have hops (k : Word → State → Effect) : ops1 s d a k = e := by
    simp [ops1, withOps, Slot.reads, groupTwo_register ha hs hd, he]
  exact congrArg (finish s 4) (hops _)

/-- Settles O11, by what the source shows. -/
theorem operandTraps : Obligations.OperandTraps := by
  unfold Obligations.OperandTraps
  intro s a d ha hs hd
  refine ⟨fun p hp h => ?_, fun hp h => ?_, fun poison addr pc hp => ?_⟩
  · rw [exec_mov_blocked ha hs hd (e := .trap { cause := .emptyRead, info := word (srcCode a.src) })]
    · exact finish_trap s 4 _ Cause.noConfusion
    · rw [groupThree, hp]
      obtain rfl | ht := h
      · simp
      · simp [ht]
  · rw [exec_mov_blocked ha hs hd (e := .wait)]
    · rfl
    · simp [groupThree, hp, h]
  · rw [exec_mov_blocked ha hs hd (by rw [groupThree, hp])]
    exact finish_trap s 4 _ (by cases poison <;> exact Cause.noConfusion)

/-! ### A value that is owed (R62) -/

/-- A state in which operands have been taken, and that differs in nothing else that an instruction's slot, the other slots
or memory show. -/
structure Took (s u : State) : Prop where
  slot : ∃ p b, u.slot = { s.slot with payload := p, binds := b }
  others : otherSlots s u
  mem : u.mem = s.mem
  cur : u.cur = s.cur
  nextId : u.nextId = s.nextId

theorem took_consumed (s : State) (xs : List SrcM) : Took s (consumed s xs) :=
  ⟨slot_consumed_eq s xs, otherSlots_consumed s xs, rfl, rfl, rfl⟩

section
variable (s : State) (d : Dst) (kind : OwedKind) (lda : Bool)

theorem oweTo_none : oweTo s .z kind false false = s := rfl

theorem oweTo_slot (h : ¬(d = .z ∧ lda = false)) : (oweTo s d kind lda false).slot =
    { s.slot.write d ⟨0, .empty (some s.nextId)⟩ with
      owed := s.slot.owed ++ [{ id := s.nextId, kind := kind, lda := lda }] } := by
  have hz : ((d == .z && !lda && !false) = true) = False := by simpa using h
  have hslot := s.slot_modSlot fun sl =>
    { sl.write d ⟨0, .empty (some s.nextId)⟩ with owed := sl.owed ++ [{ id := s.nextId, kind := kind, lda := lda }] }
  simp only [oweTo, hz, if_false]
  split <;> exact hslot

theorem oweTo_keeps : (oweTo s d kind lda false).mem = s.mem ∧ (oweTo s d kind lda false).cur = s.cur ∧
    otherSlots s (oweTo s d kind lda false) := by
  simp only [oweTo]
  split
  · exact ⟨rfl, rfl, fun _ _ _ => rfl⟩
  · split <;> exact ⟨rfl, rfl, otherSlots_setSlot s _⟩

end

/-- A value is owed: the task goes on, its entry and its destination await the value, and the rest stands. -/
theorem Took.owes {s u : State} (h : Took s u) (d : Dst) (kind : OwedKind) (lda : Bool) (len : Nat) {t : State}
    (ht : t = advance (oweTo u d kind lda false) len) :
    t.slot.pc = s.slot.pc + word len ∧ sameMemory s t ∧ otherSlots s t ∧ owesTo s t d kind lda ∧
      sameButRegs s.slot { t.slot with owed := s.slot.owed } := by
  obtain ⟨hmem, hcur, hothers⟩ := oweTo_keeps u d kind lda
  obtain ⟨p, b, hslot⟩ := h.slot
  have hmem' : sameMemory s t := fun a => by rw [ht, advance_mem, hmem, h.mem]
  have hothers' : otherSlots s t := by
    rw [ht]
    exact (h.others.trans h.cur hothers).trans (hcur.trans h.cur) (otherSlots_advance _ len)
  suffices hs : t.slot.pc = s.slot.pc + word len ∧ owesTo s t d kind lda ∧
      sameButRegs s.slot { t.slot with owed := s.slot.owed } from ⟨hs.1, hmem', hothers', hs.2⟩
  by_cases hz : d = .z ∧ lda = false
  · obtain ⟨rfl, rfl⟩ := hz
    rw [owesTo, ht, slot_advance, oweTo_none, hslot]
    simp [Slot.named, sameButRegs]
  · rw [owesTo, ht, slot_advance, oweTo_slot u d kind lda hz, hslot, h.nextId]
    generalize hw : ({ s.slot with payload := p, binds := b } : Slot) = w
    have hpc : w.pc = s.slot.pc := by rw [← hw]
    have howed : w.owed = s.slot.owed := by rw [← hw]
    have hqueue : w.queue = s.slot.queue := by rw [← hw]
    have hnamed : w.named = s.slot.named := by rw [← hw]; rfl
    have hsame : sameButRegs s.slot w := by rw [← hw]; rfl
    refine ⟨?_, ⟨?_, ?_, fun j hj => ?_, fun r hr => ?_⟩, ?_⟩
    · rw [← hpc]; exact congrArg (· + word len) (w.write_pc d _)
    · simp only [howed, hz, if_false]
    · split
      next hd => subst hd; exact hqueue
      next hd => rw [← hqueue]; exact w.write_queue d _ hd
    · subst hj; exact w.write_named _ j
    · rw [← hnamed]; exact w.write_named_ne _ hr
    · rw [← howed]
      refine hsame.trans ?_
      rw [← w.write_owed d ⟨0, .empty (some s.nextId)⟩]
      exact w.write_sameButRegs d _

/-- A division issues, or traps at once where the divisor is 0 (R334). -/
theorem division_gives {s : State} {d : Dst} {a b : SrcM} {x y : Word} (hg : operandsGive s d [a, b] [x, y] = true)
    (f : Word → Word → Word) :
    (y ≠ 0 → division s d a b f = .next (advance (oweTo (consumed s [a, b]) d (.value (f x y)) false false) 4)) ∧
      (y = 0 → division s d a b f = .next (takeTrap s { cause := .divzero })) := by
  rw [division, ops2_gives hg]
  refine ⟨fun hy => ?_, fun hy => ?_⟩
  · rw [if_neg hy, finish_done]
  · rw [if_pos hy]
    exact finish_trap s 4 _ Cause.noConfusion

/-- The four divisions are one operation with four functions (R334). -/
theorem exec_division {s : State} {d : Dst} {a b : SrcM} {x y : Word} {i : Instr} {v : Word}
    (h : (i = .div d a b ∧ v = BitVec.ofInt 64 (x.toInt.tdiv y.toInt)) ∨
      (i = .rem d a b ∧ v = BitVec.ofInt 64 (x.toInt.tmod y.toInt)) ∨
      (i = .divu d a b ∧ v = word (x.toNat / y.toNat)) ∨ (i = .remu d a b ∧ v = word (x.toNat % y.toNat))) :
    ∃ f, exec i s = division s d a b f ∧ f x y = v := by
  rcases h with ⟨rfl, rfl⟩ | ⟨rfl, rfl⟩ | ⟨rfl, rfl⟩ | ⟨rfl, rfl⟩
  · exact ⟨divS, rfl, rfl⟩
  · exact ⟨remS, rfl, rfl⟩
  · exact ⟨divU, rfl, rfl⟩
  · exact ⟨remU, rfl, rfl⟩

/-- Settles O12: the four divisions issue alike, and what they issue owes the value. -/
theorem divisionResult : Obligations.Division := by
  unfold Obligations.Division
  intro s d a b x y i v hg hi
  obtain ⟨f, he, rfl⟩ := exec_division (s := s) hi
  rw [he]
  obtain ⟨hissue, htrap⟩ := division_gives hg f
  refine ⟨fun hy => ⟨_, hissue hy, ?_⟩, htrap⟩
  obtain ⟨hpc, hmem, -, ⟨howed, hqueue, hnamed, hothers⟩, -⟩ := (took_consumed s [a, b]).owes d (.value (f x y)) false 4 rfl
  refine ⟨hpc, hmem, fun hd => ⟨?_, ?_, hnamed⟩, fun hd => ⟨?_, ?_⟩, hothers⟩
  · simpa [hd] using howed
  · simpa [hd] using hqueue
  · simpa [hd] using howed
  · simpa [hd] using hqueue

end Sys2Proof.Machine

/-! Calls and returns (R65-R67, R328, R329): what stops a call, the frame it opens, and the frame a return goes back to; O15 and
O16. -/

namespace Sys2Proof.Machine

/-! ### Returns -/

theorem exec_return {s : State} {i : Instr} (h : i = .ret ∨ i = .ret16) :
    exec i s = finish s (if i = .ret then 4 else 2) (retEffect s) := by
  obtain rfl | rfl := h <;> rfl

theorem retEffect_even {s : State} {k : Nat} {links : List Nat} {r : Word} (hl : s.slot.win.links = k :: links)
    (hr : s.slot.win.ret = some r) (he : r.toNat % 2 = 0) :
    retEffect s = .jump (s.setSlot { s.slot with
      win := s.slot.win.caller (callerFrame s s.slot).1 k links, spillUsed := (callerFrame s s.slot).2 }) r := by
  simp [retEffect, hl, hr, he]

theorem retEffect_bottom {s : State} (hl : s.slot.win.links = []) : retEffect s = .trap { cause := .frame } := by
  simp [retEffect, hl]

theorem onlySlot_jumpTo (s : State) (pc : Word) : onlySlot s (jumpTo s pc) := onlySlot_setSlot s _

theorem callerFrame_resident {s : State} {f : Frame} (hb : s.slot.win.below = some f) :
    callerFrame s s.slot = (f, s.slot.spillUsed) := by rw [callerFrame, hb]

theorem callerFrame_spilled {s : State} (hb : s.slot.win.below = none) : callerFrame s s.slot =
    (recordFrame s (s.slot.recordKey s.cur.1 (s.slot.spillUsed - 1)), s.slot.spillUsed - 1) := by rw [callerFrame, hb]

/-- Settles O16: the frame that a return goes back to is the resident one or that of the newest record. -/
theorem returnResult : Obligations.ReturnResult := by
  unfold Obligations.ReturnResult
  intro s i hi
  rw [exec_return hi]
  refine ⟨fun k links r hl hr he => ?_, fun hl => ?_⟩
  · have honly := (onlySlot_setSlot s { s.slot with
      win := s.slot.win.caller (callerFrame s s.slot).1 k links, spillUsed := (callerFrame s s.slot).2 }).trans
      (onlySlot_jumpTo _ r)
    rw [retEffect_even hl hr he, finish_jump]
    refine ⟨_, rfl, ?_⟩
    rw [slot_jumpTo, State.slot_setSlot]
    refine ⟨rfl, rfl, honly.mem, honly, rfl, rfl, rfl, fun f hb => ?_, fun hb f hf => ?_⟩
    · rw [callerFrame_resident hb]
      exact ⟨rfl, rfl, rfl⟩
    · rw [callerFrame_spilled hb, ← hf]
      exact ⟨rfl, rfl, rfl⟩
  · rw [retEffect_bottom hl]
    exact finish_trap s _ _ Cause.noConfusion

/-! ### What stops a call -/

theorem missingHalf_of_fault {s : State} {t : Word} {f : Trap} (h : parcelAt s t = .error f) : missingHalf s t = none := by
  unfold parcelAt at h
  unfold missingHalf
  split at h
  · rfl
  · cases h

/-- A call whose target's half is at hand is not held. -/
theorem targetHeld_none {s : State} {t : Word} (h : missingHalf s t = none) (e : Effect) : targetHeld s t e = e := by
  simp [targetHeld, h]

theorem targetHeld_odd {s : State} {t : Word} (h : t.toNat % 2 = 1) (e : Effect) : targetHeld s t e = e := by
  simp [targetHeld, h]

theorem targetHeld_lacks {s : State} {t : Word} {half : Nat} (he : t.toNat % 2 = 0) (h : missingHalf s t = some half)
    (e : Effect) : targetHeld s t e = .stay ((askHost s half .rdShared).modSlot Slot.waits) := by
  simp [targetHeld, h, he]

theorem callTo_odd {s : State} {t : Word} (len : Nat) (h : t.toNat % 2 = 1) : callTo s len t = .trap (oddTarget t) := by
  simp [callTo, h]

/-! ### Room for a frame (R67) -/

theorem makeRoom_full {s : State} (h : s.slot.spillFull = true) : makeRoom s s.cur.1 s.cur.2 = .full := by
  simp only [Slot.spillFull, Bool.and_eq_true, decide_eq_true_eq, Option.isSome_iff_exists] at h
  obtain ⟨⟨f, hb⟩, hn⟩ := h
  rw [State.slot_eq] at hb hn
  simp only [makeRoom, hb, if_pos hn]

/-- Room has been made: no frame lies below the active one, and what lay there is in the record that `spilled` names. -/
structure RoomMade (s u : State) : Prop where
  slot : ∃ n, u.slot = { s.slot with win := { s.slot.win with below := none }, spillUsed := n }
  spilled : spilled s u

theorem makeRoom_roomy {s : State} (hm : Memory.wf s.mem = true) (h : s.slot.roomy = true) :
    ∃ u, makeRoom s s.cur.1 s.cur.2 = .ok u ∧ RoomMade s u := by
  obtain ⟨hb, he⟩ | ⟨f, hb, hc⟩ := makeRoom_cases s s.cur.1 s.cur.2 <;> rw [← State.slot_eq] at hb
  · refine ⟨s, he, ⟨s.slot.spillUsed, ?_⟩, ?_⟩
    · rw [← hb]
    · rw [Machine.spilled, hb]
      exact ⟨fun _ => rfl, rfl⟩
  · rw [← State.slot_eq] at hc
    simp only [Slot.roomy, hb, Bool.and_eq_true, decide_eq_true_eq, Bool.not_eq_true'] at h
    obtain ⟨hlt, howed⟩ := h
    obtain ⟨hn, -⟩ | ⟨-, ho, -⟩ | ⟨-, -, he⟩ := hc
    · omega
    · rw [howed] at ho
      cases ho
    · have hslot : ((spill s s.cur.1 s.cur.2 f).modSlotAt s.cur.1 s.cur.2 fun sl =>
          { sl with win := { sl.win with below := none } }).slot =
          { s.slot with win := { s.slot.win with below := none }, spillUsed := s.slot.spillUsed + 1 } := by
        rw [State.slot_eq]
        refine (State.slotAt_modSlotAt _ _ _ _).trans ?_
        have hs : (spill s s.cur.1 s.cur.2 f).slotAt s.cur.1 s.cur.2 =
          { s.slot with spillUsed := s.slot.spillUsed + 1 } := State.slotAt_setSlotAt _ _ _ _
        rw [hs]
      refine ⟨_, he, ⟨_, hslot⟩, ?_⟩
      rw [Machine.spilled, hb]
      refine ⟨by rw [hslot], ?_, fun a ha => ?_⟩
      · exact memBytes_memPutBytes _ _ hm
      · exact memGet_memPutBytes_out _ hm ha

section
variable {s : State} {t : Word} (len : Nat) (he : t.toNat % 2 = 0)
include he

theorem callTo_fault {f : Trap} (h : parcelAt s t = .error f) : callTo s len t = .trap f := by
  simp [callTo, he, h]

variable {p : Nat} (hp : parcelAt s t = .ok p)
include hp

theorem callTo_noFrame (h : p / 2 ^ 10 ≠ 0x18) : callTo s len t = .trap { cause := .frame } := by
  simp only [callTo, he, hp, if_pos h]
  rfl

variable (hf : p / 2 ^ 10 = 0x18)
include hf

theorem callTo_reserved (h : p / 32 % 32 ≠ 0) : callTo s len t = .trap { cause := .illegal } := by
  simp only [callTo, he, hp, hf, if_pos h]
  rfl

variable (hr : p / 32 % 32 = 0)
include hr

theorem callTo_small (h : p % 32 + 1 < 8) : callTo s len t = .trap { cause := .frame, info := word (p % 32 + 1) } := by
  simp only [callTo, he, hp, hf, hr, if_pos h]
  rfl

variable (hk : 8 ≤ p % 32 + 1)
include hk

/-- A call that a frame would take past the depth, or that finds no record for the frame it spills. -/
theorem callTo_overflows (h : 64 ≤ s.slot.depth ∨ s.slot.spillFull = true) :
    callTo s len t = .trap { cause := .stackOvf, info := s.slot.winSpill } := by
  have hk' : ¬p % 32 + 1 < 8 := by omega
  simp only [callTo, he, hp, hf, hr, if_neg hk']
  obtain hd | hfull := h
  · rw [if_pos hd]
    rfl
  · rw [makeRoom_full hfull]
    exact ite_self _

theorem callTo_opens {u : State} (hd : s.slot.depth < 64) (h : makeRoom s s.cur.1 s.cur.2 = .ok u) :
    callTo s len t = .jump (u.modSlot fun x => { x with win := x.win.callee (s.slot.pc + word len) (p % 32 + 1) }) (t + 2) := by
  have hk' : ¬p % 32 + 1 < 8 := by omega
  have hd' : ¬64 ≤ s.slot.depth := by omega
  simp only [callTo, he, hp, hf, hr, if_neg hk', if_neg hd', h]
  rfl

end

/-! ### A call that opens a frame -/

theorem spilled_of_same {s u v : State} (h : spilled s u) (hm : v.mem = u.mem) (hu : v.slot.spillUsed = u.slot.spillUsed) :
    spilled s v := by
  unfold spilled sameMemory sameMemoryBut at h ⊢
  rw [hm, hu]
  exact h

theorem Took.refl (s : State) : Took s s := ⟨⟨_, _, rfl⟩, fun _ _ _ => rfl, rfl, rfl, rfl⟩

theorem Took.spilled {s v u : State} (h : Took s v) (hu : spilled v u) : spilled s u := by
  obtain ⟨p, b, hs⟩ := h.slot
  unfold Machine.spilled sameMemory sameMemoryBut at hu ⊢
  rw [hs, h.mem, h.cur] at hu
  exact hu

/-- Taking operands leaves what a fetch depends on. -/
theorem fetchKey_consumed (s : State) (xs : List SrcM) (va : Word) : fetchKey (consumed s xs) va = fetchKey s va := by
  obtain ⟨p, b, hs⟩ := s.slot.reads_eq xs
  have hcore : (consumed s xs).core s.cur.1 = s.myCore.setSlot s.cur.2 (s.slot.reads xs).2 := s.myCore_setSlot _
  have hleaf : coreLeaf (consumed s xs) s.cur.1 = coreLeaf s s.cur.1 := by
    unfold coreLeaf
    rw [hcore]
    rfl
  have hmem : locateMem (consumed s xs) s.cur.1 = locateMem s s.cur.1 := by
    unfold locateMem
    rw [hleaf]
    rfl
  simp only [fetchKey, slot_consumed, consumed_cur, hs, hmem]

theorem parcelAt_consumed (s : State) (xs : List SrcM) (va : Word) : parcelAt (consumed s xs) va = parcelAt s va := by
  have hcache : inIcache (consumed s xs) = inIcache s := by
    unfold inIcache
    rw [show (consumed s xs).myCore = s.myCore.setSlot s.cur.2 (s.slot.reads xs).2 from s.myCore_setSlot _]
    rfl
  have hbad : badFetch (consumed s xs) = badFetch s := by
    unfold badFetch
    rw [hcache]
    rfl
  simp only [parcelAt, parcelKey, fetchKey_consumed, hbad]
  rfl

/-- A call is `callTo` in the state in which its operands have been taken. -/
theorem exec_call {s : State} {i : Instr} {xs : List SrcM} {t : Word}
    (h : (∃ imm, i = .call imm ∧ xs = [] ∧ t = s.slot.pc + BitVec.ofInt 64 (2 * imm.toInt)) ∨
      (∃ a, i = .callr a ∧ xs = [a] ∧ operandsGive s .z [a] [t] = true)) (hh : missingHalf s t = none) :
    ∃ v, Took s v ∧ parcelAt v t = parcelAt s t ∧ exec i s = finish s 4 (callTo v 4 t) := by
  obtain ⟨imm, rfl, rfl, rfl⟩ | ⟨a, rfl, rfl, hg⟩ := h
  · exact ⟨s, .refl s, rfl, congrArg (finish s 4) (targetHeld_none hh _)⟩
  · exact ⟨_, took_consumed s [a], parcelAt_consumed s [a] t,
      congrArg (finish s 4) ((ops1_gives hg _).trans (targetHeld_none hh _))⟩

/-- A first parcel `frame k` has its code, no other bit, and its number of registers. -/
theorem frameParcel_fields {k p : Nat} (hk : 8 ≤ k) (hk' : k ≤ 32) (hp : p = 0x6000 + (k - 1)) :
    p / 2 ^ 10 = 0x18 ∧ p / 32 % 32 = 0 ∧ p % 32 + 1 = k := by omega

/-- A call with room for its frame goes on past the `frame` of its target, and writes no more than a spill record. -/
theorem callTo_calls (s : State) {v : State} {t : Word} {k : Nat} (hm : Memory.wf v.mem = true) (he : t.toNat % 2 = 0)
    (hp : parcelAt v t = .ok (0x6000 + (k - 1))) (hk : 8 ≤ k) (hk' : k ≤ 32) (hd : v.slot.depth < 64)
    (hroom : v.slot.roomy = true) :
    ∃ w, finish s 4 (callTo v 4 t) = .next w ∧ w.slot.pc = t + 2 ∧ w.slot.queue = v.slot.queue ∧
      w.slot.win = v.slot.win.callee (v.slot.pc + 4) k ∧ spilled v w := by
  obtain ⟨hf, hr, hn⟩ := frameParcel_fields hk hk' rfl
  obtain ⟨u, hu, ⟨n, hslot⟩, hspill⟩ := makeRoom_roomy hm hroom
  have hopen := callTo_opens 4 he hp hf hr (by omega) hd hu
  rw [hn] at hopen
  refine ⟨_, by rw [hopen, finish_jump], ?_⟩
  rw [slot_jumpTo, State.slot_modSlot, hslot]
  refine ⟨rfl, rfl, rfl, spilled_of_same hspill rfl ?_⟩
  rw [slot_jumpTo, State.slot_modSlot]

theorem Took.slot_fields {s v : State} (h : Took s v) : v.slot.win = s.slot.win ∧ v.slot.pc = s.slot.pc ∧
    v.slot.queue = s.slot.queue ∧ v.slot.depth = s.slot.depth ∧ v.slot.roomy = s.slot.roomy := by
  obtain ⟨p, b, hs⟩ := h.slot
  rw [hs]
  exact ⟨rfl, rfl, rfl, rfl, rfl⟩

/-- Settles O15: a call that finds room, and the stops of a call in their order. -/
theorem callResult : Obligations.CallResult := by
  unfold Obligations.CallResult
  refine ⟨fun s i xs t k hm hi he hh hp hk hk' hd hroom => ?calls, fun s imm t ht => ?stops⟩
  case calls =>
    obtain ⟨v, hv, hat, hx⟩ := exec_call hi hh
    obtain ⟨hwin, hpc, hqueue, hdepth, hroomy⟩ := hv.slot_fields
    rw [parcelAt_consumed, ← hat] at hp
    obtain ⟨u, hu, hupc, huqueue, huwin, hspill⟩ := callTo_calls s (hv.mem ▸ hm) he hp hk hk' (hdepth ▸ hd) (hroomy ▸ hroom)
    refine ⟨u, hx.trans hu, hupc, huqueue.trans hqueue, ?_, hv.spilled hspill⟩
    rw [huwin, hwin, hpc]
    rfl
  case stops =>
    have hx : exec (.call imm) s = finish s 4 (targetHeld s t (callTo s 4 t)) := by rw [ht]; rfl
    have trap {tr : Trap} (hn : t.toNat % 2 = 1 ∨ missingHalf s t = none) (hc : callTo s 4 t = .trap tr)
        (hp : tr.cause ≠ .posted) : exec (.call imm) s = .next (takeTrap s tr) := by
      rw [hx, hn.elim (targetHeld_odd · _) (targetHeld_none · _), hc]
      exact finish_trap s 4 tr hp
    refine ⟨fun ho => trap (.inl ho) (callTo_odd 4 ho) Cause.noConfusion, fun he => ⟨fun f hf hc =>
      trap (.inr (missingHalf_of_fault hf)) (callTo_fault 4 he hf) hc, fun half hh => ?_, fun p hh hp => ?_⟩⟩
    · rw [hx, targetHeld_lacks he hh, finish_stay]
    · exact ⟨fun h => trap (.inr hh) (callTo_noFrame 4 he hp h) Cause.noConfusion,
        fun hf h => trap (.inr hh) (callTo_reserved 4 he hp hf h) Cause.noConfusion,
        fun hf hr h => trap (.inr hh) (callTo_small 4 he hp hf hr h) Cause.noConfusion,
        fun hf hr hk h => trap (.inr hh) (callTo_overflows 4 he hp hf hr hk h) Cause.noConfusion⟩

end Sys2Proof.Machine

/-! Claims of lanes (R206, R391), reads of system registers (R73, R380) and requests to units away from the core (R266, R267, R358,
R382): O36, O38 and O35. -/

namespace Sys2Proof.Machine

theorem onlySlot.otherSlots {s t : State} (h : onlySlot s t) : otherSlots s t := by
  rw [h]
  exact otherSlots_setSlot s _

/-- What registers cannot write of a slot: its vector registers among it. -/
theorem sameButRegs.vectors {a b : Slot} (h : sameButRegs a b) :
    b.vl = a.vl ∧ b.vregs = a.vregs ∧ b.vfaults = a.vfaults := by
  rw [sameButRegs] at h
  rw [← h]
  exact ⟨rfl, rfl, rfl⟩

theorem sameButRegs.shadow {a b : Slot} (h : sameButRegs a b) : b.shadow = a.shadow := by
  rw [sameButRegs] at h
  rw [← h]

/-! ### `vclaim` (R206, R391) -/

/-- A grant is one of the four sizes, and no more than the claim rounded up to lane groups. -/
theorem grant_bounds (s : State) (c t : Nat) {n : Nat} (hn : n ≠ 0) :
    (grant s c t n = 8 ∨ grant s c t n = 16 ∨ grant s c t n = 32 ∨ grant s c t n = 64) ∧ grant s c t n < n + 8 := by
  obtain ⟨fair, hg⟩ : ∃ fair, grant s c t n =
      if 64 ≤ min (min (8 * ceilDiv n 8) fair) 64 then 64
      else if 32 ≤ min (min (8 * ceilDiv n 8) fair) 64 then 32
      else if 16 ≤ min (min (8 * ceilDiv n 8) fair) 64 then 16 else 8 := ⟨_, rfl⟩
  have hceil : 8 * ceilDiv n 8 < n + 8 := by
    unfold ceilDiv
    omega
  rw [hg]
  split_ifs <;> omega

/-- The slot once its claim has been granted: a task's first claim clears its vector registers. -/
def Slot.claimed (sl : Slot) (n g : Nat) : Slot :=
  if sl.vclaimed then { sl with vl := g, vasked := n, vclaimed := true }
  else { sl with vl := g, vasked := n, vclaimed := true, vregs := List.replicate 16 (List.replicate 64 0),
                 vfaults := List.replicate 16 none }

theorem exec_vclaim_refused {s : State} {d : Dst} {a : SrcM} {n : Word} (hg : operandsGive s d [a] [n] = true)
    (hn : 64 < n.toNat) : exec (.vclaim d a) s = .next (takeTrap s { cause := .illegal, info := n }) := by
  have he : exec (.vclaim d a) s = finish s 4 (.trap (.illegal n)) := by
    refine congrArg (finish s 4) ((ops1_gives hg _).trans ?_)
    dsimp only
    rw [if_pos hn]
  rw [he]
  exact finish_trap s 4 _ Cause.noConfusion

theorem exec_vclaim_granted {s : State} {d : Dst} {a : SrcM} {n : Word} (hg : operandsGive s d [a] [n] = true)
    (hn : n.toNat ≤ 64) :
    ∃ g, (n = 0 → g = 0) ∧ (n ≠ 0 → (g = 8 ∨ g = 16 ∨ g = 32 ∨ g = 64) ∧ g < n.toNat + 8) ∧
      exec (.vclaim d a) s =
        .next (advance (pushTo ((consumed s [a]).modSlot (·.claimed n.toNat g)) d (word g)) 4) := by
  have hz : n.toNat = 0 ↔ n = 0 := by simp [BitVec.toNat_eq]
  refine ⟨if n.toNat = 0 then 0 else grant (consumed s [a]) s.cur.1 s.cur.2 n.toNat, fun h => if_pos (hz.mpr h), fun h => ?_, ?_⟩
  · have h' : n.toNat ≠ 0 := fun e => h (hz.mp e)
    rw [if_neg h']
    exact grant_bounds _ _ _ h'
  · refine (congrArg (finish s 4) (ops1_gives hg _)).trans ?_
    dsimp only
    rw [if_neg (by omega), finish_done]
    rfl

/-- Settles O36: a claim is refused or granted, and the grant is written in the slot that it leaves. -/
theorem vclaimResult : Obligations.VclaimResult := by
  unfold Obligations.VclaimResult
  intro s d a n hg
  refine ⟨exec_vclaim_refused hg, fun hn => ?_⟩
  obtain ⟨g, hzero, hsize, he⟩ := exec_vclaim_granted hg hn
  obtain ⟨p, b, hs⟩ := slot_consumed_eq s [a]
  generalize hx : Slot.claimed { s.slot with payload := p, binds := b } n.toNat g = x
  have hfields : x.vl = g ∧ x.pc = s.slot.pc ∧ x.queue = s.slot.queue ∧
      (s.slot.vclaimed = true → x.vregs = s.slot.vregs ∧ x.vfaults = s.slot.vfaults) ∧
      (s.slot.vclaimed = false → x.vregs = List.replicate 16 (List.replicate 64 0)) := by
    subst hx
    cases hc : s.slot.vclaimed <;> simp [Slot.claimed, hc]
  obtain ⟨hvl, hpc, hqueue, hkept, hfresh⟩ := hfields
  have hmid : (consumed s [a]).modSlot (·.claimed n.toNat g) = s.setSlot x := by
    rw [State.modSlot_eq, hs, hx, consumed, State.setSlot_setSlot]
  rw [hmid] at he
  have honly := ((onlySlot_setSlot s x).trans (onlySlot_pushTo _ d (word g))).trans (onlySlot_advance _ 4)
  obtain ⟨hvl', hvregs, hvfaults⟩ := (x.write_sameButRegs d (Reg.of (word g))).vectors
  refine ⟨_, g, he, ?_⟩
  rw [slot_advance, slot_pushTo, State.slot_setSlot]
  refine ⟨hvl'.trans hvl, ?_, hzero, hsize, fun hd => ?_, fun hd => ?_, fun j hj => ?_, honly.mem, honly.otherSlots,
    fun hc => ?_, fun hc => hvregs.trans (hfresh hc)⟩
  · rw [← hpc, ← x.write_pc d (Reg.of (word g))]
    rfl
  · rw [← hqueue]
    exact x.write_queue d _ hd
  · rw [← hqueue, hd]
    rfl
  · rw [hj]
    exact x.write_named _ j
  · obtain ⟨hr, hf⟩ := hkept hc
    exact ⟨hvregs.trans hr, hvfaults.trans hf⟩

/-! ### `sysr` (R73, R380) -/

/-- An unlisted number, behind which nothing is read. -/
theorem exec_sysr_unlisted {s : State} (d : Dst) {reg : BitVec 12} (h : regAccess reg.toNat = none) :
    exec (.sysr d reg) s = .next (takeTrap s (unlistedTrap (.sysr d reg))) := by
  have he : sysrEffect s d reg.toNat (.sysr d reg) = .trap (unlistedTrap (.sysr d reg)) := by rw [sysrEffect, h]
  exact (congrArg (finish s 4) he).trans (finish_trap s 4 _ Cause.noConfusion)

section
variable {s : State} {d : Dst} {reg : BitVec 12} {a : RegAccess} (ha : regAccess reg.toNat = some a)
include ha

theorem exec_sysr_denied (hr : a.reads s.slot.priv = false) :
    exec (.sysr d reg) s = .next (takeTrap s { cause := .priv, info := word reg.toNat }) := by
  have he : sysrEffect s d reg.toNat (.sysr d reg) = .trap (privTrap reg.toNat) := by simp [sysrEffect, ha, hr]
  exact (congrArg (finish s 4) he).trans (finish_trap s 4 _ Cause.noConfusion)

variable (hg : operandsGive s d [] [] = true) (hr : a.reads s.slot.priv = true)
include hg hr

/-- A read that the level may make goes on in the state in which the destination has been checked. -/
theorem exec_sysr_allowed : exec (.sysr d reg) s = finish s 4
    (if isLinkReg reg.toNat then askLinks (consumed s []) (.read reg.toNat d)
      else if reg.toNat = 0x011 && !(s.myCore.laneOps s.cur.2).isEmpty then .hold
      else .done (pushTo (if reg.toNat = 0x100 then markCauseRead (consumed s []) s.cur.1 s.cur.2 else consumed s []) d
        (regValue s reg.toNat))) := by
  have hlanes : (consumed s []).myCore.laneOps = s.myCore.laneOps := by
    rw [show (consumed s []).myCore = s.myCore.setSlot s.cur.2 (s.slot.reads []).2 from s.myCore_setSlot _]
    rfl
  have he : sysrEffect s d reg.toNat (.sysr d reg) = ops0 s d fun s =>
      if isLinkReg reg.toNat then askLinks s (.read reg.toNat d)
      else if reg.toNat = 0x011 && !(s.myCore.laneOps s.cur.2).isEmpty then .hold
      else .done (pushTo (if reg.toNat = 0x100 then markCauseRead s s.cur.1 s.cur.2 else s) d (regValue s reg.toNat)) := by
    simp [sysrEffect, ha, hr]
  refine (congrArg (finish s 4) (he.trans (ops0_gives hg _))).trans ?_
  simp only [hlanes, regValue_consumed, consumed_cur]

/-- A register that is not asked for, held or marked pushes its value. -/
theorem exec_sysr_pushes (hl : isLinkReg reg.toNat = false) (h11 : reg.toNat ≠ 0x011) (h100 : reg.toNat ≠ 0x100) :
    exec (.sysr d reg) s = .next (advance (pushTo (consumed s []) d (regValue s reg.toNat)) 4) := by
  rw [exec_sysr_allowed ha hg hr]
  simp only [hl, h11, decide_false, Bool.false_and, Bool.false_eq_true, if_false, if_neg h100]
  exact finish_done s _ 4

/-- A register of the links role is asked for there (R268). -/
theorem exec_sysr_asks (hl : isLinkReg reg.toNat = true) :
    exec (.sysr d reg) s = finish s 4 (askLinks (consumed s []) (.read reg.toNat d)) := by
  rw [exec_sysr_allowed ha hg hr, if_pos hl]

end

/-- The registers that a user may read are neither asked for, nor held, nor marked. -/
theorem readable_numbers : ∀ n ∈ (sysFields ++ windowFields ++ moreFields).map Prod.fst,
    (regAccess n).map RegAccess.userRead = some true ∧ isLinkReg n = false ∧ n ≠ 0x011 ∧ n ≠ 0x100 := by decide

theorem kernel_numbers : ∀ n ∈ kernelFields.map Prod.fst,
    (regAccess n).map RegAccess.userRead = some false ∧ isLinkReg n = false ∧ n ≠ 0x011 := by decide

theorem linkReads_access {n : Nat} (h : 0x090 ≤ n) (h' : n ≤ 0x094) : ∃ a, regAccess n = some a ∧ a.userRead = true := by
  interval_cases n <;> exact ⟨_, rfl, rfl⟩

/-- A register in one of the lists of the statement reads the value beside it. -/
theorem regValue_of_mem {s : State} {n : Nat} {v : Word} (h : (n, v) ∈ sysValues s ++ kernelValues s ++ sysMore s) :
    regValue s n = v := by
  have h' : (n, v) ∈ (regFields 0).map fun q => (q.1, q.2 (regView s)) := regLists_eq_map s 0 ▸ h
  obtain ⟨q, hq, he⟩ := List.mem_map.mp h'
  obtain ⟨rfl, rfl⟩ := Prod.mk.inj he
  exact regValue_field hq s

theorem sysLists_numbers {s : State} {n : Nat} {v : Word} (h : (n, v) ∈ sysValues s ++ sysMore s) :
    n ∈ (sysFields ++ windowFields ++ moreFields).map Prod.fst := by
  have he : (sysValues s ++ sysMore s).map Prod.fst = (sysFields ++ windowFields ++ moreFields).map Prod.fst := by
    simp only [sysValues, sysMore, sysFields, windowFields, moreFields, List.map_append, List.map_cons, List.map_map]
    rfl
  exact he ▸ List.mem_map.mpr ⟨_, h, rfl⟩

theorem kernelValues_numbers {s : State} {n : Nat} {v : Word} (h : (n, v) ∈ kernelValues s) :
    n ∈ kernelFields.map Prod.fst := List.mem_map_of_mem (f := Prod.fst) h

theorem RegAccess.reads_of_userRead {a : RegAccess} (h : a.userRead = true) (p : Priv) : a.reads p = true := by
  simp [RegAccess.reads, h]

theorem RegAccess.reads_of_kernel {a : RegAccess} {p : Priv} (h : p ≠ .user) : a.reads p = true := by
  simp [RegAccess.reads, h]

theorem RegAccess.not_reads {a : RegAccess} {p : Priv} (h : a.userRead = false) (hp : p = .user) : a.reads p = false := by
  simp [RegAccess.reads, h, hp]

/-- A slot that waits for a unit away from the core: it stalls, the agenda holds the unit's answer, and the rest stands. -/
theorem Took.asks {s u : State} (hu : Took s u) (ha : u.agenda = s.agenda) (st : Stall) (e : Event) {t : State}
    (ht : t = (u.modSlot fun x => { x with stall := st }).poke e) :
    t.slot.stall = st ∧ t.slot.pc = s.slot.pc ∧ t.slot.queue = s.slot.queue ∧ sameMemory s t ∧ otherSlots s t ∧
      t.agenda = s.agenda ++ [e] := by
  obtain ⟨p, b, hs⟩ := hu.slot
  have hslot : t.slot = { s.slot with payload := p, binds := b, stall := st } := by
    rw [ht]
    refine (u.slot_modSlot fun x => { x with stall := st }).trans ?_
    rw [hs]
  have hothers : otherSlots u t := by
    rw [ht]
    exact otherSlots_setSlot u _
  have hmem : t.mem = u.mem := by
    rw [ht]
    rfl
  refine ⟨by rw [hslot], by rw [hslot], by rw [hslot], fun a => by rw [hmem, hu.mem], hu.others.trans hu.cur hothers, ?_⟩
  rw [ht, ← ha]
  rfl

/-- What is asked of the links role (R268). -/
theorem askLinks_asks (s : State) (xs : List SrcM) (op : LinkOp) :
    ∃ t, finish s 4 (askLinks (consumed s xs) op) = .next t ∧
    t.slot.stall = .links (s.cycle + 4096) op (s.slot.pc + 4) ∧ t.slot.pc = s.slot.pc ∧ t.slot.queue = s.slot.queue ∧
    sameMemory s t ∧ otherSlots s t ∧
    t.agenda = s.agenda ++ [⟨.linksRoleAnswer, { core := s.cur.1, slot := s.cur.2 }⟩] := by
  refine ⟨_, finish_stay .., (took_consumed s xs).asks rfl _ _ ?_⟩
  rw [← consumed_pc s xs]
  rfl

/-- A read of the trap's cause marks the handler, and pushes the cause. -/
theorem markCauseRead_pushes (s : State) (d : Dst) (v : Word) {t : State}
    (ht : t = advance (pushTo (markCauseRead (consumed s []) s.cur.1 s.cur.2) d v) 4) :
    (∀ sh, s.slot.shadow = some sh → t.slot.shadow = some { sh with causeRead := true }) ∧
      (d ≠ .z → t.slot.queue = ⟨v, .full⟩ :: s.slot.queue.take 15) := by
  obtain ⟨p, b, hs⟩ := slot_consumed_eq s []
  have hmid : (markCauseRead (consumed s []) s.cur.1 s.cur.2).slot =
      { s.slot with payload := p, binds := b, shadow := s.slot.shadow.map fun h => { h with causeRead := true } } := by
    refine ((consumed s []).slot_modSlot fun sl =>
      { sl with shadow := sl.shadow.map fun h => { h with causeRead := true } }).trans ?_
    rw [hs]
  rw [ht, slot_advance, slot_pushTo, hmid]
  generalize hx : ({ s.slot with payload := p, binds := b,
                                 shadow := s.slot.shadow.map fun h => { h with causeRead := true } } : Slot) = x
  have hshadow : x.shadow = s.slot.shadow.map fun h => { h with causeRead := true } := by rw [← hx]
  have hqueue : x.queue = s.slot.queue := by rw [← hx]
  refine ⟨fun sh hsh => ?_, fun hd => hqueue ▸ x.write_queue d (Reg.of v) hd⟩
  refine ((x.write_sameButRegs d (Reg.of v)).shadow.trans hshadow).trans ?_
  rw [hsh]
  rfl

/-- Settles O38, by the lists of the registers and the numbers apart from them. -/
theorem sysRead : Obligations.SysRead := by
  unfold Obligations.SysRead
  intro s d reg hg
  refine ⟨fun v hv => ?_, fun v hv => ⟨fun hp => ?_, fun hp hn => ?_⟩, fun hp hn => ?_, fun hn => ?_, fun hlo hhi => ?_,
    fun hn => exec_sysr_unlisted d hn⟩
  · obtain ⟨ha, hl, h11, h100⟩ := readable_numbers _ (sysLists_numbers hv)
    obtain ⟨a, ha, hu⟩ := Option.map_eq_some_iff.mp ha
    have hval : regValue s reg.toNat = v := regValue_of_mem (by
      simp only [List.mem_append] at hv ⊢
      tauto)
    rw [exec_sysr_pushes ha hg (RegAccess.reads_of_userRead hu _) hl h11 h100, hval]
  · obtain ⟨ha, -, -⟩ := kernel_numbers _ (kernelValues_numbers hv)
    obtain ⟨a, ha, hu⟩ := Option.map_eq_some_iff.mp ha
    exact exec_sysr_denied ha (RegAccess.not_reads hu hp)
  · obtain ⟨ha, hl, h11⟩ := kernel_numbers _ (kernelValues_numbers hv)
    obtain ⟨a, ha, -⟩ := Option.map_eq_some_iff.mp ha
    have hval : regValue s reg.toNat = v := regValue_of_mem (by
      simp only [List.mem_append]
      tauto)
    have h100 : reg.toNat ≠ 0x100 := fun h => hn (BitVec.eq_of_toNat_eq h)
    rw [exec_sysr_pushes ha hg (RegAccess.reads_of_kernel hp) hl h11 h100, hval]
  · subst hn
    refine ⟨_, ?_, markCauseRead_pushes s d s.slot.bank1.cause rfl⟩
    exact exec_sysr_allowed (a := ⟨false, .kernel⟩) rfl hg (RegAccess.reads_of_kernel hp)
  · subst hn
    have he := exec_sysr_allowed (reg := 0x011) (a := ⟨true, .user⟩) rfl hg rfl
    refine ⟨fun hlane => ?_, fun hlane => ?_⟩
    · refine he.trans ?_
      rw [hlane]
      rfl
    · refine he.trans ?_
      rw [hlane]
      rfl
  · have hlink : isLinkReg reg.toNat = true := by simp [isLinkReg, hlo, hhi]
    obtain ⟨a, ha, hu⟩ := linkReads_access hlo hhi
    rw [exec_sysr_asks ha hg (RegAccess.reads_of_userRead hu _) hlink]
    exact askLinks_asks s [] _

/-! ### Units away from the core (R266, R267, R358, R382) -/

/-- The word of a tag is the same after operands have been taken, and is what the statement writes out. -/
theorem hstatWord_eq (s : State) (xs : List SrcM) (v : Word) :
    hstatWord (consumed s xs) (consumed s xs).slot.launch v.toNat =
      if v = 0 then 1 else if (s.tag v.toNat).launch ≠ s.slot.launch then 0
        else match (s.tag v.toNat).state with
          | .free => 0
          | .live => word ((s.tag v.toNat).depth * 2 ^ 16 + (s.tag v.toNat).parent * 2 ^ 4 + 1)
          | .confirmed => 2
          | .sweeping => 3
          | .swept => 4 := by
  have hz : v.toNat = 0 ↔ v = 0 := by simp [BitVec.toNat_eq]
  rw [consumed_launch]
  simp only [hstatWord, hz, bne_iff_ne, show (consumed s xs).tag v.toNat = s.tag v.toNat from rfl] <;> rfl

section
variable {s : State} {d : Dst} {a b : SrcM} {v p n : Word}

theorem exec_hstat (hg : operandsGive s d [a] [v] = true) (hv : v.toNat < 4096) :
    exec (.hstat d a) s = .next (advance (oweTo (consumed s [a]) d
      (.value (hstatWord (consumed s [a]) (consumed s [a]).slot.launch v.toNat)) false false) 4) := by
  refine (congrArg (finish s 4) (ops1_gives hg _)).trans ?_
  rw [tagOperand, if_neg (by omega)]
  exact finish_done s _ 4

theorem exec_lstat (hg : operandsGive s d [a] [v] = true) (hv : v.toNat < 64) :
    exec (.lstat d a) s = .next (advance (oweTo (consumed s [a]) d (.lstat v.toNat) false false) 4) := by
  refine (congrArg (finish s 4) (ops1_gives hg _)).trans ?_
  rw [if_neg (by omega)]
  exact finish_done s _ 4

theorem exec_time (hg : operandsGive s d [] [] = true) :
    exec (.time d) s = .next (advance (oweTo (consumed s []) d .time false false) 4) :=
  congrArg (finish s 4) (ops0_gives hg _)

theorem exec_hstat_refused (hg : operandsGive s d [a] [v] = true) (hv : 4096 ≤ v.toNat) :
    exec (.hstat d a) s = .next (takeTrap s { cause := .illegal, info := v }) := by
  refine (congrArg (finish s 4) (ops1_gives hg _)).trans ?_
  rw [tagOperand, if_pos hv]
  exact finish_trap s 4 _ Cause.noConfusion

theorem exec_lstat_refused (hg : operandsGive s d [a] [v] = true) (hv : 64 ≤ v.toNat) :
    exec (.lstat d a) s = .next (takeTrap s { cause := .illegal, info := v }) := by
  refine (congrArg (finish s 4) (ops1_gives hg _)).trans ?_
  rw [if_pos hv]
  exact finish_trap s 4 _ Cause.noConfusion

/-- The checks of a `lease` in their order (R266). -/
theorem exec_lease (hg : operandsGive s d [a, b] [p, n] = true) : exec (.lease d a b) s = finish s 4
    (if 64 ≤ p.toNat then .trap (.illegal p)
      else if 64 < n.toNat then .trap (.illegal n)
      else if bitsOf (s.lr s.slot.launch 0).toNat 2 2 = 0 || s.thisDevice p.toNat || !natMem s.linked p.toNat then
        .trap { cause := .lease, addr := p, info := n }
      else askLinks (consumed s [a, b]) (.lease p.toNat n.toNat d)) := by
  refine (congrArg (finish s 4) (ops2_gives hg _)).trans ?_
  simp only [consumed_launch]
  rfl

theorem exec_lease_peer (hg : operandsGive s d [a, b] [p, n] = true) (hp : 64 ≤ p.toNat) :
    exec (.lease d a b) s = .next (takeTrap s { cause := .illegal, info := p }) := by
  rw [exec_lease hg, if_pos hp]
  exact finish_trap s 4 _ Cause.noConfusion

theorem exec_lease_count (hg : operandsGive s d [a, b] [p, n] = true) (hp : p.toNat < 64) (hn : 64 < n.toNat) :
    exec (.lease d a b) s = .next (takeTrap s { cause := .illegal, info := n }) := by
  rw [exec_lease hg, if_neg (by omega), if_pos hn]
  exact finish_trap s 4 _ Cause.noConfusion

theorem exec_lease_refused (hg : operandsGive s d [a, b] [p, n] = true) (hp : p.toNat < 64) (hn : n.toNat ≤ 64)
    (h : bitsOf (s.lr s.slot.launch 0).toNat 2 2 = 0 ∨ s.thisDevice p.toNat = true ∨ natMem s.linked p.toNat = false) :
    exec (.lease d a b) s = .next (takeTrap s { cause := .lease, addr := p, info := n }) := by
  rw [exec_lease hg, if_neg (by omega), if_neg (by omega), if_pos (by simpa [or_assoc] using h)]
  exact finish_trap s 4 _ Cause.noConfusion

theorem exec_lease_asks (hg : operandsGive s d [a, b] [p, n] = true) (hp : p.toNat < 64) (hn : n.toNat ≤ 64)
    (hflag : bitsOf (s.lr s.slot.launch 0).toNat 2 2 = 1) (hdev : s.thisDevice p.toNat = false)
    (hlink : natMem s.linked p.toNat = true) :
    exec (.lease d a b) s = finish s 4 (askLinks (consumed s [a, b]) (.lease p.toNat n.toNat d)) := by
  rw [exec_lease hg, if_neg (by omega), if_neg (by omega), if_neg (by simp [hflag, hdev, hlink])]

end

/-! Invalidations (R382). -/

section
variable {s : State}

theorem kernelOnly_denied (h : s.slot.priv = .user) (e : Effect) :
    finish s 4 (kernelOnly s e) = .next (takeTrap s { cause := .priv }) := by
  rw [kernelOnly, h]
  exact finish_trap s 4 _ Cause.noConfusion

theorem kernelOnly_passes (h : s.slot.priv ≠ .user) (e : Effect) : kernelOnly s e = e := by
  simp [kernelOnly, h]

theorem asidOperand_refused {v : Word} (h : 2 ^ 14 ≤ v.toNat) (k : Nat → Effect) :
    finish s 4 (asidOperand v k) = .next (takeTrap s { cause := .illegal, info := v }) := by
  rw [asidOperand, if_pos h]
  exact finish_trap s 4 _ Cause.noConfusion

theorem asidOperand_passes {v : Word} (h : v.toNat < 2 ^ 14) (k : Nat → Effect) : asidOperand v k = k v.toNat := by
  rw [asidOperand, if_neg (by omega)]

variable {a b : SrcM} {va v : Word} (hp : s.slot.priv ≠ .user)
include hp

theorem exec_tlbiAll : exec .tlbiAll s = finish s 4 (startTlbi s .all) := congrArg (finish s 4) (kernelOnly_passes hp _)

theorem exec_tlbiAsid (hg : operandsGive s .z [b] [v] = true) : exec (.tlbiAsid b) s =
    finish s 4 (asidOperand v fun asid => startTlbi (consumed s [b]) (.asid asid)) :=
  congrArg (finish s 4) ((kernelOnly_passes hp _).trans (ops1_gives hg _))

theorem exec_tlbiPage (hg : operandsGive s .z [a, b] [va, v] = true) : exec (.tlbiPage a b) s =
    finish s 4 (asidOperand v fun asid => startTlbi (consumed s [a, b]) (.page va asid)) :=
  congrArg (finish s 4) ((kernelOnly_passes hp _).trans (ops2_gives hg _))

end

/-- An invalidation that starts: the slot stalls for its end, which the agenda holds. -/
theorem Took.startTlbi_asks {s u : State} (hu : Took s u) (ha : u.agenda = s.agenda) (op : TlbiOp) :
    ∃ t, finish s 4 (startTlbi u op) = .next t ∧ t.slot.stall = .tlbi op (s.slot.pc + 4) ∧
      t.slot.pc = s.slot.pc ∧ t.slot.queue = s.slot.queue ∧ sameMemory s t ∧ otherSlots s t ∧
      t.agenda = s.agenda ++ [⟨.tlbiComplete, { core := s.cur.1, slot := s.cur.2 }⟩] := by
  refine ⟨_, finish_stay .., hu.asks ha _ _ ?_⟩
  obtain ⟨p, b, hs⟩ := hu.slot
  have hpc : u.slot.pc = s.slot.pc := by rw [hs]
  rw [← hpc, ← hu.cur]

/-- Settles O35: each request by its checks in their order, and by what is owed or asked for. -/
theorem unitRequests : Obligations.UnitRequests := by
  unfold Obligations.UnitRequests
  intro s d
  refine ⟨?values, fun hg => ?time, fun a v hg => ⟨exec_hstat_refused hg, exec_lstat_refused hg⟩,
    fun a b p n hg => ⟨exec_lease_peer hg, exec_lease_count hg, fun hp hn => ⟨exec_lease_refused hg hp hn, ?lease⟩⟩,
    fun hp a b => ⟨kernelOnly_denied hp _, kernelOnly_denied hp _, kernelOnly_denied hp _⟩,
    fun hp a b va v hv => ⟨fun hg => ?_, fun hg => ?_⟩, ?tlbi⟩
  case values =>
    rintro i a v k hg (⟨rfl, hv, hk⟩ | ⟨rfl, hv, rfl⟩)
    · have hword : k = .value (hstatWord (consumed s [a]) (consumed s [a]).slot.launch v.toNat) :=
        hk.trans (congrArg OwedKind.value (hstatWord_eq s [a] v).symm)
      rw [hword]
      obtain ⟨hpc, hmem, hothers, howes, hsame⟩ := (took_consumed s [a]).owes d
        (.value (hstatWord (consumed s [a]) (consumed s [a]).slot.launch v.toNat)) false 4 rfl
      exact ⟨_, exec_hstat hg hv, hpc, howes, hmem, hothers, hsame⟩
    · obtain ⟨hpc, hmem, hothers, howes, hsame⟩ := (took_consumed s [a]).owes d (.lstat v.toNat) false 4 rfl
      exact ⟨_, exec_lstat hg hv, hpc, howes, hmem, hothers, hsame⟩
  case time =>
    obtain ⟨hpc, hmem, hothers, howes, -⟩ := (took_consumed s []).owes d .time false 4 rfl
    exact ⟨_, exec_time hg, hpc, howes, hmem, hothers⟩
  case lease =>
    intro hflag hdev hlink
    rw [exec_lease_asks hg hp hn hflag hdev hlink]
    exact askLinks_asks s _ _
  · rw [exec_tlbiAsid hp hg]
    exact asidOperand_refused hv _
  · rw [exec_tlbiPage hp hg]
    exact asidOperand_refused hv _
  case tlbi =>
    rintro hp i op (⟨rfl, rfl⟩ | ⟨b, v, rfl, hg, hv, rfl⟩ | ⟨a, b, va, v, rfl, hg, hv, rfl⟩)
    · rw [exec_tlbiAll hp]
      exact (Took.refl s).startTlbi_asks rfl _
    · rw [exec_tlbiAsid hp hg, asidOperand_passes hv]
      exact (took_consumed s _).startTlbi_asks rfl _
    · rw [exec_tlbiPage hp hg, asidOperand_passes hv]
      exact (took_consumed s _).startTlbi_asks rfl _

end Sys2Proof.Machine

/-! Loads at hand (R359, R361, R102, R167): what the traffic beside an access leaves as it was, and the value a load owes; O21. -/

namespace Sys2Proof.Machine

/-! ### What translations and coherence traffic leave -/

/-- The data of the part, what hypotheses see of it, and the numbers a task counts by are as they were. -/
structure SameData (s t : State) : Prop where
  mem : t.mem = s.mem
  poison : t.poison = s.poison
  badCheck : t.badCheck = s.badCheck
  hyp : t.hyp = s.hyp
  versions : t.versions = s.versions
  cfg : t.cfg = s.cfg
  cur : t.cur = s.cur
  nextId : t.nextId = s.nextId

/-- With every slot as it was. -/
structure SameTasks (s t : State) : Prop extends SameData s t where
  slots : t.slotAt = s.slotAt

/-- What is at hand of memory stays at hand: the copies in L1s, the halves the bridge holds, the accesses under way, and
the stacks that are awake. -/
structure SameReach (s t : State) : Prop where
  l1 : ∀ c, (t.core c).l1 = (s.core c).l1
  journal : ∀ c, (t.core c).journal = (s.core c).journal
  bridge : t.bridge = s.bridge
  remotes : t.remotes = s.remotes
  stack : ∀ key, stackReady s key = true → stackReady t key = true

theorem SameData.trans {s t u : State} (h : SameData s t) (h' : SameData t u) : SameData s u :=
  ⟨h'.mem.trans h.mem, h'.poison.trans h.poison, h'.badCheck.trans h.badCheck, h'.hyp.trans h.hyp,
    h'.versions.trans h.versions, h'.cfg.trans h.cfg, h'.cur.trans h.cur, h'.nextId.trans h.nextId⟩

/-- What an access gives rise to beside its data, as far as a load sees: nothing. -/
structure Touches (s t : State) : Prop extends SameTasks s t, SameReach s t

section
variable {s t u : State}

theorem SameTasks.refl (s : State) : SameTasks s s := ⟨⟨rfl, rfl, rfl, rfl, rfl, rfl, rfl, rfl⟩, rfl⟩

theorem SameTasks.trans (h : SameTasks s t) (h' : SameTasks t u) : SameTasks s u :=
  ⟨h.toSameData.trans h'.toSameData, h'.slots.trans h.slots⟩

theorem SameReach.refl (s : State) : SameReach s s := ⟨fun _ => rfl, fun _ => rfl, rfl, rfl, fun _ h => h⟩

theorem SameReach.trans (h : SameReach s t) (h' : SameReach t u) : SameReach s u :=
  ⟨fun c => (h'.l1 c).trans (h.l1 c), fun c => (h'.journal c).trans (h.journal c), h'.bridge.trans h.bridge,
    h'.remotes.trans h.remotes, fun key hk => h'.stack key (h.stack key hk)⟩

theorem Touches.refl (s : State) : Touches s s := ⟨.refl s, .refl s⟩

theorem Touches.trans (h : Touches s t) (h' : Touches t u) : Touches s u :=
  ⟨h.toSameTasks.trans h'.toSameTasks, h.toSameReach.trans h'.toSameReach⟩

theorem Touches.ite {p : Prop} [Decidable p] {v : State} (h : Touches s t) (h' : Touches s v) :
    Touches s (if p then t else v) := by split <;> assumption

/-- Where the cores stand as they were. -/
theorem Touches.of_eq (hc : t.cores = s.cores) (hm : t.mem = s.mem) (hp : t.poison = s.poison) (hb : t.badCheck = s.badCheck)
    (hh : t.hyp = s.hyp) (hv : t.versions = s.versions) (hcfg : t.cfg = s.cfg) (hcur : t.cur = s.cur)
    (hn : t.nextId = s.nextId) (hbr : t.bridge = s.bridge) (hr : t.remotes = s.remotes)
    (hs : ∀ key, stackReady s key = true → stackReady t key = true) : Touches s t :=
  ⟨⟨⟨hm, hp, hb, hh, hv, hcfg, hcur, hn⟩, funext fun c => funext fun k => State.slotAt_congr hc c k⟩,
    ⟨fun c => by rw [State.core_congr hc], fun c => by rw [State.core_congr hc], hbr, hr, hs⟩⟩

/-- A change of a core that leaves its slots leaves the tasks. -/
theorem sameTasks_modCore (s : State) (c : Nat) {f : Core → Core} (h : ∀ k, (f k).slots = k.slots) :
    SameTasks s (s.modCore c f) := ⟨⟨rfl, rfl, rfl, rfl, rfl, rfl, rfl, rfl⟩, s.slotAt_modCore_same_slots c h⟩

/-- A change of a core that leaves its L1 and its journal. -/
theorem sameReach_setCore (s : State) (c : Nat) {k : Core} (h : k.l1 = (s.core c).l1) (hj : k.journal = (s.core c).journal) :
    SameReach s (s.setCore c k) := by
  have hcore : ∀ d, ((s.setCore c k).core d).l1 = (s.core d).l1 ∧ ((s.setCore c k).core d).journal = (s.core d).journal := by
    intro d
    by_cases hd : d = c
    · subst hd
      rw [State.core_setCore]
      exact ⟨h, hj⟩
    · rw [s.core_setCore_ne k hd]
      exact ⟨rfl, rfl⟩
  exact ⟨fun d => (hcore d).1, fun d => (hcore d).2, rfl, rfl, fun _ hk => hk⟩

theorem touches_modCore (s : State) (c : Nat) {f : Core → Core} (h : ∀ k, (f k).slots = k.slots) (hl : ∀ k, (f k).l1 = k.l1)
    (hj : ∀ k, (f k).journal = k.journal) : Touches s (s.modCore c f) :=
  ⟨sameTasks_modCore s c h, sameReach_setCore s c (hl _) (hj _)⟩

theorem sameData_consumed (s : State) (xs : List SrcM) : SameData s (consumed s xs) :=
  ⟨rfl, rfl, rfl, rfl, rfl, rfl, rfl, rfl⟩

theorem sameReach_consumed (s : State) (xs : List SrcM) : SameReach s (consumed s xs) :=
  sameReach_setCore s s.cur.1 rfl rfl

theorem Took.touched (h : Took s t) (h' : SameTasks t u) : Took s u := by
  obtain ⟨p, b, hs⟩ := h.slot
  have hslot : u.slot = t.slot := by rw [State.slot_eq, State.slot_eq, h'.slots, h'.cur]
  refine ⟨⟨p, b, hslot.trans hs⟩, h.others.trans h.cur fun c k _ => by rw [h'.slots], h'.mem.trans h.mem,
    h'.cur.trans h.cur, h'.nextId.trans h.nextId⟩

/-! ### Accesses to HBM (R283, R284) -/

theorem getD_set_of_getD {α : Type} {l : List α} {i j : Nat} {a d : α} (P : α → Prop) (h : P (l.getD j d)) (ha : i = j → P a) :
    P ((l.set i a).getD j d) := by
  rw [List.getD_eq_getElem?_getD, List.getElem?_set]
  split
  · split
    · exact ha ‹_›
    · subst_vars
      rwa [List.getD_eq_getElem?_getD, List.getElem?_eq_none (by omega)] at h
  · rwa [← List.getD_eq_getElem?_getD]

theorem unparkDie_touches (s : State) (d : Nat) : Touches s (unparkDie s d) := by
  unfold unparkDie
  split
  · refine .of_eq rfl rfl rfl rfl rfl rfl rfl rfl rfl rfl rfl fun key h => ?_
    simp only [stackReady, Bool.or_eq_true, Bool.and_eq_true, decide_eq_true_eq, Bool.not_eq_true'] at h ⊢
    refine h.imp_right fun ⟨⟨⟨hr, hw⟩, hp⟩, hd⟩ => ⟨⟨⟨hr, hw⟩, ?_⟩, ?_⟩
    · exact getD_set_of_getD (· = false) hp fun _ => rfl
    · refine getD_set_of_getD (· ≤ s.ptp) hd fun he => ?_
      subst he
      simp_all
  · exact .refl s

/-- A stack that is awake stays awake when memory is accessed. -/
theorem touchKey_touches (s : State) (key : Nat) : Touches s (touchKey s key) := by
  unfold touchKey
  split
  · exact .refl s
  · refine (unparkDie_touches s (hbmDie key)).trans (.of_eq rfl rfl rfl rfl rfl rfl rfl rfl rfl rfl rfl fun key' h => ?_)
    generalize unparkDie s (hbmDie key) = s at h ⊢
    simp only [stackReady, Bool.or_eq_true, Bool.and_eq_true, decide_eq_true_eq, Bool.not_eq_true'] at h ⊢
    refine h.imp_right fun ⟨⟨⟨hr, hw⟩, hp⟩, hd⟩ => ⟨⟨⟨?_, ?_⟩, hp⟩, hd⟩
    · exact getD_set_of_getD (· = false) hr fun _ => rfl
    · split
      · refine getD_set_of_getD (· ≤ s.ptp) hw fun he => ?_
        simp_all
      · exact hw

theorem touchWalk_touches (s : State) (die asid va : Nat) : Touches s (touchWalk s die asid va) :=
  foldl_related Touches.refl Touches.trans touchKey_touches _ s

/-! ### Translations (R124) -/

theorem tlbPut_touches (s : State) (c ctr : Nat) (e : TlbEntry) : Touches s
    { s.modCore c fun k => { k with tlb := tlbAdd 32 ctr (fun _ => true) k.tlb e } with freeCtr := ctr + 4 } :=
  (touches_modCore s c (f := fun k => { k with tlb := tlbAdd 32 ctr (fun _ => true) k.tlb e })
    (fun _ => rfl) (fun _ => rfl) fun _ => rfl).trans (.of_eq rfl rfl rfl rfl rfl rfl rfl rfl rfl rfl rfl fun _ h => h)

/-- A translation that is put into the TLBs, and the accesses of its walk, are seen by no load. -/
theorem tlbFor_touches (s : State) (va : Word) : Touches s (s.tlbFor va) := by
  unfold State.tlbFor fillTlb
  split
  · exact .refl s
  · split
    · have hwalk : ∀ f : Hearth → Hearth, Touches s
          ((cacheWalk (touchWalk s (dieOf s.cur.1) s.slot.asid va.toNat) (dieOf s.cur.1) s.slot.asid va.toNat).modHearth
            (s.cur.1 / 8) f) := fun f =>
        (touchWalk_touches s _ _ _).trans (.of_eq rfl rfl rfl rfl rfl rfl rfl rfl rfl rfl rfl fun _ h => h)
      have hmiss := fun f => Touches.ite (p := (tlbFind (s.hearth (s.cur.1 / 8)).tlb s.slot.asid va.toNat).isSome = true)
        (.refl s) (hwalk f)
      exact (hmiss _).trans (tlbPut_touches _ _ _ _)
    · exact .refl s

/-! ### Accesses to memory -/

theorem askHost_tasks (s : State) (half : Nat) (q : CacheReq) : SameTasks s (askHost s half q) := by
  unfold askHost
  split
  · exact .refl s
  · exact ⟨⟨rfl, rfl, rfl, rfl, rfl, rfl, rfl, rfl⟩, rfl⟩

/-- A load changes nothing of the bridge but what it asks for. -/
theorem touchHost_tasks (s : State) (x : Target) : SameTasks s (touchHost s x false) := by
  cases x with
  | host pa =>
    simp only [touchHost]
    cases s.bridgeSt (pa / 64)
    case i => exact askHost_tasks s _ _
    all_goals exact .refl s
  | hbm pa => exact .refl s
  | peer p pa => exact .refl s

theorem Core.fillHalf_slots (k : Core) (line : Nat) (bit : BitVec 2) : (k.fillHalf line bit).slots = k.slots := by
  unfold Core.fillHalf
  split <;> rfl

theorem fetchHalf_tasks (s : State) (c : Nat) (x : Target) : SameTasks s (fetchHalf s c x) := by
  cases x with
  | host pa =>
    simp only [fetchHalf]
    split
    · exact .refl s
    · exact sameTasks_modCore s c fun k => k.fillHalf_slots _ _
  | hbm pa => exact .refl s
  | peer p pa => exact .refl s

theorem sendCoh_tasks (s : State) (c line h : Nat) (store : Bool) (r : CohReq) : SameTasks s (sendCoh s c line h store r) :=
  (sameTasks_modCore s c (f := fun k => { k with cohReqs := tset k.cohReqs line r
                                                 cohWants := tset k.cohWants line (h, store) }) fun _ => rfl).trans
    ⟨⟨rfl, rfl, rfl, rfl, rfl, rfl, rfl, rfl⟩, rfl⟩

theorem touchLine_tasks (s : State) (c line h : Nat) : SameTasks s (touchLine s c line h false) := by
  unfold touchLine
  dsimp only
  split
  · exact .refl s
  · split
    · exact .refl s
    · split
      · exact sendCoh_tasks s c line h false _
      · exact .refl s

theorem touchHbm_tasks (s : State) (x : Target) : SameTasks s (touchHbm s x) := by
  cases x with
  | hbm pa => exact (touchKey_touches s pa).toSameTasks
  | host pa => exact .refl s
  | peer p pa => exact .refl s

/-- What a load of memory gives rise to beside its data leaves the tasks and the data. -/
theorem touchMem_tasks (s : State) (c : Nat) (x : Target) (cacheable : Bool) : SameTasks s (touchMem s c x cacheable false) := by
  unfold touchMem touchUnder
  split
  · exact ((touchHost_tasks s x).trans (fetchHalf_tasks _ c x)).trans (touchLine_tasks _ c _ _)
  · exact touchHbm_tasks s x

end

/-! ### What a load sees (R167, R129) -/

section
variable {s t : State} (h : SameData s t)
include h

theorem SameData.tag (a : Nat) : t.tag a = s.tag a := by rw [State.tag, h.hyp, State.tag]

theorem SameData.refuted (a : Nat) : t.refuted a = s.refuted a := by rw [State.refuted, h.tag, State.refuted]

theorem SameData.follow (a : Nat) : t.follow a = s.follow a := by
  unfold State.follow
  generalize 16 = n
  induction n generalizing a with
  | zero => rfl
  | succ n ih => simp only [followTag, h.tag, ih]

theorem SameData.chain (a : Nat) : t.chain a = s.chain a := by
  have hfrom : ∀ n a, chainFrom t n a = chainFrom s n a := by
    intro n
    induction n with
    | zero => exact fun _ => rfl
    | succ n ih => exact fun a => by simp only [chainFrom, h.tag, ih]
  have hrefuted : t.refuted = s.refuted := funext h.refuted
  rw [State.chain, h.follow, hfrom, hrefuted, State.chain]

theorem SameData.versionByte (a key : Nat) : t.versionByte a key = s.versionByte a key := by
  have hversion : t.version? = s.version? := by
    funext line b
    rw [State.version?, h.versions, State.version?]
  rw [State.versionByte, h.chain, hversion, State.versionByte]

theorem SameData.natUnder (a key n : Nat) : natUnder t a key n = natUnder s a key n := by
  induction n generalizing key with
  | zero => rfl
  | succ n ih => simp only [Machine.natUnder, State.byteUnder, h.versionByte, h.mem, ih]

theorem SameData.poisonedUnder (a key n : Nat) : poisonedUnder t a key n = poisonedUnder s a key n := by
  simp only [Machine.poisonedUnder, h.poison, h.versionByte]

theorem SameData.keyDie (key : Nat) : keyDie t key = keyDie s key := by
  have hport : cxlPort t = cxlPort s := by rw [cxlPort, h.cfg, cxlPort]
  rw [Machine.keyDie, hport, Machine.keyDie]

theorem SameData.checksHold (key n : Nat) : t.checksHold key n = s.checksHold key n := by
  rw [State.checksHold, h.badCheck, State.checksHold]

end

/-- The root sees no version. -/
theorem versionByte_root (s : State) (key : Nat) : s.versionByte 0 key = none := rfl

theorem natUnder_root (s : State) (key n : Nat) : natUnder s 0 key n = memNat s.mem key n := by
  induction n generalizing key with
  | zero => rfl
  | succ n ih => simp only [natUnder, memNat, ih, State.byteUnder, versionByte_root, Option.getD_none]

/-- The granules of the bytes that are read are among those of their range. -/
theorem poisonedUnder_root {s : State} {key n : Nat} (h : poisoned s.poison key n = false) : poisonedUnder s 0 key n = false := by
  simp only [poisoned, poisonedUnder, List.any_eq_false, List.mem_range, Bool.and_eq_true, not_and] at h ⊢
  intro i hi hp
  have hgranule := h ((key + i) / 64 - key / 64) (by omega)
  rw [show key / 64 + ((key + i) / 64 - key / 64) = (key + i) / 64 by omega] at hgranule
  exact absurd hp hgranule

/-- What an access that is taken by no poison reads under its tag. -/
theorem badAt_mem {s : State} {x : Target} {cacheable : Bool} {n : Nat} (h : s.badAt (.mem x cacheable) n = false) :
    poisonedUnder s (if cacheable then s.slot.hypCur else 0) x.key n = false ∧
      natUnder s (if cacheable then s.slot.hypCur else 0) x.key n =
        (if (Place.mem x cacheable).cached = true ∧ s.slot.hypCur ≠ 0 then natUnder s s.slot.hypCur x.key n
          else memNat s.mem x.key n) ∧
      (cacheable = false → keyDie s x.key = dieOf s.cur.1 ∨ s.checksHold x.key n = true) := by
  simp only [State.badAt, Bool.or_eq_false_iff, Place.key] at h
  obtain ⟨hp, hc⟩ := h
  cases cacheable with
  | false =>
    refine ⟨poisonedUnder_root hp, natUnder_root s x.key n, fun _ => ?_⟩
    simpa [State.badCross, imp_iff_not_or] using hc
  | true =>
    refine ⟨?_, ?_, fun h => absurd h (by decide)⟩
    · by_cases h0 : s.slot.hypCur = 0
      · rw [if_pos rfl, h0]
        exact poisonedUnder_root (by simpa [h0, Place.cached] using hp)
      · simpa [h0, Place.cached] using hp
    · by_cases h0 : s.slot.hypCur = 0
      · simpa [h0] using natUnder_root s x.key n
      · simp [h0, Place.cached]

/-- Checks that hold are verified without a change. -/
theorem verify_of_checksHold {s : State} {key n : Nat} (h : s.checksHold key n = true) (die unit index : Nat) :
    verify s key n die unit index = s := by
  have hnone : s.badCheck.filter (fun g => decide (64 * g < key + n) && decide (key < 64 * g + 64)) = [] := by
    rw [List.filter_eq_nil_iff]
    intro g hg
    simpa [imp_iff_not_or] using List.all_eq_true.mp h g hg
  rw [verify, hnone]
  rfl

theorem crossDies_of_holds {s : State} {a b key n : Nat} (h : a = b ∨ s.checksHold key n = true) : crossDies s a b key n = s := by
  unfold crossDies
  split
  · rfl
  · exact verify_of_checksHold (h.resolve_left ‹_›) _ _ _

/-! ### Places at hand (R114, R131, R250) -/

/-- A load that is at hand stays at hand. -/
theorem loadReady_of_reach {s t : State} (hd : SameData s t) (hr : SameReach s t) (hh : t.slot.hypCur = s.slot.hypCur)
    {x : Target} {cacheable : Bool} {n : Nat} (h : loadReady s x cacheable n = true) : loadReady t x cacheable n = true := by
  have hhost : hostReady t x false = hostReady s x false := by
    cases x with
    | host pa => simp only [hostReady, State.bridgeSt, hr.bridge]
    | hbm pa => rfl
    | peer p pa => rfl
  have hwaits : lineWaits t t.cur.1 t.cur.2 x.key n = lineWaits s s.cur.1 s.cur.2 x.key n := by
    rw [lineWaits, hr.remotes, hd.cur, lineWaits]
  cases cacheable with
  | true =>
    have hline : lineReady t t.cur.1 (t.follow t.slot.hypCur) x false = lineReady s s.cur.1 (s.follow s.slot.hypCur) x false := by
      simp only [lineReady, hhost, hd.cur, hr.l1, hh, hd.follow, hd.refuted]
    simpa only [loadReady, if_true, cacheReady, hline, hwaits] using h
  | false =>
    simp only [loadReady, plainReady, Bool.and_eq_true, hhost, hwaits, Bool.false_eq_true, if_false] at h ⊢
    exact ⟨⟨h.1.1, hr.stack _ h.1.2⟩, h.2⟩

/-! ### The value of a load -/

theorem loadForm_eq (k : LoadKind) : loadForm k = loadWidth k := by cases k <;> rfl

/-- The model's reading of a number of `m` bits is the integer that they are. -/
theorem intVal_signed {m : Nat} (hm : 0 < m) (hm' : m ≤ 64) (v : Nat) : intVal m true v = ((word v).setWidth m).toInt := by
  have hnat : ((word v).setWidth m).toNat = v % 2 ^ m := by
    rw [BitVec.toNat_setWidth, word, BitVec.toNat_ofNat, Nat.mod_mod_of_dvd _ (Nat.pow_dvd_pow 2 hm')]
  have hpow : 2 ^ m = 2 * 2 ^ (m - 1) := (mul_pow_sub_one (by omega) 2).symm
  rw [BitVec.toInt_eq_toNat_cond, hnat, intVal]
  generalize v % 2 ^ m = x
  rw [hpow]
  generalize 2 ^ (m - 1) = half
  by_cases hx : half ≤ x
  · rw [if_pos (by simpa using hx), if_neg (by omega)]
  · rw [if_neg (by simpa using hx), if_pos (by omega)]

/-- The model's extension of `n` bytes is the one of their low bits. -/
theorem extendLoad_eq {n : Nat} (hn : 0 < n) (hn' : n ≤ 8) (signed : Bool) (v : Nat) :
    extendLoad n signed v = extended (8 * n) signed (word v) := by
  cases signed with
  | true =>
    rw [extendLoad, extended, if_pos rfl, if_pos rfl, intVal_signed (by omega) (by omega)]
    rfl
  | false =>
    rw [extendLoad, extended, if_neg Bool.false_ne_true, if_neg Bool.false_ne_true]
    refine BitVec.eq_of_toNat_eq ?_
    have hdvd : 2 ^ (8 * n) ∣ 2 ^ 64 := Nat.pow_dvd_pow 2 (by omega)
    simp only [word, BitVec.toNat_ofNat, BitVec.toNat_setWidth, Nat.mod_mod_of_dvd _ hdvd]

/-! ### Where an address lies (R111) -/

/-- A place of SRAM is one of a window where the address names one, and lies at the address's offset there. -/
theorem locateSram_window {s : State} {c l va n : Nat} {p : Place} (h : locateSram s c l va n = some p) :
    p.windowed = (bitsOf va 35 32 != 0) ∧ ∀ q hh u w o, p = .window q hh u w o → o = bitsOf va 31 0 := by
  have hsome : ∀ {x y : Place}, some x = some y → y = x := fun h => (Option.some.inj h).symm
  simp only [locateSram, Option.ite_none_left_eq_some] at h
  obtain ⟨-, h⟩ := h
  split at h
  · simp only [Option.ite_none_left_eq_some] at h
    obtain ⟨-, -, h⟩ := h
    split at h
    · simp only [Option.ite_none_left_eq_some] at h
      obtain rfl := hsome h.2
      simp_all [Place.windowed]
    · obtain rfl := hsome h
      simp_all [Place.windowed]
  · simp only [Option.ite_none_right_eq_some] at h
    obtain ⟨-, h⟩ := h
    split at h
    · simp only [Option.ite_none_left_eq_some] at h
      obtain rfl := hsome h.2
      simp_all [Place.windowed]
    · obtain rfl := hsome h
      simp_all [Place.windowed]

theorem locateMem_mem {s : State} {c asid : Nat} {user : Bool} {k : AccKind} {va : Nat} {p : Place}
    (h : locateMem s c asid user k va = .ok p) : ∃ x cacheable, p = .mem x cacheable := by
  unfold locateMem at h
  split at h
  · cases h
  · split at h
    · cases h
    · split at h
      · cases h
      · cases h
        exact ⟨_, _, rfl⟩

theorem locate_window {s : State} {k : AccKind} {n : Nat} {va : Word} {elem : Nat} {p : Place}
    (h : locate s k n va elem = .ok p) : p.windowed = windowVa va ∧
      ∀ q hh u w o, p = .window q hh u w o → o = bitsOf va.toNat 31 0 := by
  unfold locate at h
  dsimp only at h
  by_cases htop : bitsOf va.toNat 63 56 = 0xFE
  · rw [if_pos htop] at h
    have hva : windowVa va = (bitsOf va.toNat 35 32 != 0) := by simp [windowVa, sramVa, htop]
    rw [hva]
    split at h
    · cases h
      exact locateSram_window ‹_›
    · cases h
  · have hva : windowVa va = false := by simp [windowVa, sramVa, htop]
    rw [if_neg htop] at h
    rw [hva]
    split at h
    · cases h
    · split at h
      · cases h
        obtain ⟨x, c, rfl⟩ := locateMem_mem ‹_›
        exact ⟨rfl, fun _ _ _ _ _ h => by cases h⟩
      · cases h

/-! ### Loads at hand (R359) -/

theorem exec_load {i : Instr} {f : LoadOp} (hi : loadOp i = some f) (s : State) :
    exec i s = finish s f.len (loadEffect s f.len f.dst f.kind f.base f.off f.lda) ∧ f.bytes = (loadForm f.kind).1 ∧
      f.signed = (loadForm f.kind).2 := by
  unfold loadOp at hi
  split at hi
  · cases hi
    exact ⟨rfl, by rw [loadForm_eq], by rw [loadForm_eq]⟩
  · cases hi
    exact ⟨rfl, by rw [loadForm_eq], by rw [loadForm_eq]⟩
  · cases hi
    exact ⟨rfl, rfl, rfl⟩
  · cases hi

theorem loadForm_bytes (k : LoadKind) : 0 < (loadForm k).1 ∧ (loadForm k).1 ≤ 8 := by cases k <;> decide

/-- What the bytes of a place show to the task of a load. -/
def State.shown (s : State) (p : Place) (n : Nat) : Nat :=
  if p.cached = true ∧ s.slot.hypCur ≠ 0 then natUnder s s.slot.hypCur p.key n else memNat s.mem p.key n

/-- The state once a load of memory at hand has set the traffic beside it going. -/
def State.loaded (s : State) (x : Target) (cacheable : Bool) (n : Nat) : State :=
  if cacheable then touchMem s s.cur.1 x cacheable false
  else
    let t := touchMem s s.cur.1 x cacheable false
    crossDies t (keyDie t x.key) (dieOf s.cur.1) x.key n

theorem loadNow_ready {s : State} (k : LoadKind) (va : Word) {x : Target} {cacheable : Bool} (hp : ∀ q pa, x ≠ .peer q pa)
    (h : loadReady s x cacheable (loadForm k).1 = true) : loadNow s k va (.mem x cacheable) =
      if poisonedUnder (s.loaded x cacheable (loadForm k).1) (if cacheable then s.slot.hypCur else 0) x.key (loadForm k).1 then
        .faulted (s.loaded x cacheable (loadForm k).1)
      else .value (s.loaded x cacheable (loadForm k).1)
        (natUnder (s.loaded x cacheable (loadForm k).1) (if cacheable then s.slot.hypCur else 0) x.key (loadForm k).1) := by
  cases x with
  | peer q pa => exact absurd rfl (hp q pa)
  | hbm pa => cases cacheable <;> simp only [loadNow, h] <;> rfl
  | host pa => cases cacheable <;> simp only [loadNow, h] <;> rfl

/-- Where the checks of its bytes hold on the way, the traffic beside a load is all there is. -/
theorem loaded_tasks {s : State} {x : Target} {cacheable : Bool} {n : Nat}
    (h : cacheable = false → keyDie s x.key = dieOf s.cur.1 ∨ s.checksHold x.key n = true) :
    SameTasks s (s.loaded x cacheable n) := by
  have htouch := touchMem_tasks s s.cur.1 x cacheable
  unfold State.loaded
  cases cacheable with
  | true => exact htouch
  | false =>
    simp only [Bool.false_eq_true, if_false]
    rw [crossDies_of_holds (by rw [htouch.keyDie, htouch.checksHold]; exact h rfl)]
    exact htouch

section
variable {s w : State} (hd : SameData s w)
include hd

theorem SameData.loadNow_sram (k : LoadKind) (va : Word) {h u off : Nat} (hn : isLocalUnit s.cur.1 h u = true)
    (hb : poisoned s.poison (sramKey h u off) (loadForm k).1 = false) :
    loadNow w k va (.sram h u off) = .value w (memNat s.mem (sramKey h u off) (loadForm k).1) := by
  simp only [loadNow, hd.cur, hd.poison, hd.mem, hn, hb, Bool.not_true, Bool.false_eq_true, if_false]

variable (hr : SameReach s w) (hh : w.slot.hypCur = s.slot.hypCur)
include hr hh

/-- Memory at hand gives its bytes under the task's tag. -/
theorem SameData.loadNow_mem (k : LoadKind) (va : Word) {x : Target} {cacheable : Bool} (hp : ∀ q pa, x ≠ .peer q pa)
    (hn : loadReady s x cacheable (loadForm k).1 = true) (hb : s.badAt (.mem x cacheable) (loadForm k).1 = false) :
    ∃ u, SameTasks w u ∧ loadNow w k va (.mem x cacheable) = .value u (s.shown (.mem x cacheable) (loadForm k).1) := by
  obtain ⟨hpoison, hval, hcross⟩ := badAt_mem hb
  have hload := loaded_tasks (s := w) (x := x) (cacheable := cacheable) (n := (loadForm k).1) (by
    simpa only [hd.keyDie, hd.checksHold, hd.cur] using hcross)
  refine ⟨_, hload, ?_⟩
  rw [loadNow_ready k va hp (loadReady_of_reach hd hr hh hn), hload.poisonedUnder, hload.natUnder, hd.poisonedUnder,
    hd.natUnder, hh, hpoison, hval]
  rfl

/-- A place at hand that is no window and takes no poison gives its bytes (R359). -/
theorem SameData.loadNow_near (k : LoadKind) (va : Word) {p : Place} (hp : p.windowed = false)
    (hn : s.near (loadForm k).1 p = true) (hb : s.badAt p (loadForm k).1 = false) :
    ∃ u, SameTasks w u ∧ loadNow w k va p = .value u (s.shown p (loadForm k).1) := by
  cases p with
  | window q h u v o => cases hp
  | peerSram q => cases hn
  | sram h u off =>
    have hpoison : poisoned s.poison (sramKey h u off) (loadForm k).1 = false := by
      simpa [State.badAt, State.badCross, Place.cached, Place.key] using hb
    exact ⟨w, .refl w, hd.loadNow_sram k va hn hpoison⟩
  | mem x cacheable =>
    cases x with
    | peer q pa => cases hn
    | hbm pa => exact hd.loadNow_mem hr hh k va (fun _ _ => Target.noConfusion) hn hb
    | host pa => exact hd.loadNow_mem hr hh k va (fun _ _ => Target.noConfusion) hn hb

end

/-! Windows of this device's units (R102). -/

theorem fmtWindow_consumed (s : State) (xs : List SrcM) (w : Nat) :
    (consumed s xs).myCore.fmtWindow w = s.myCore.fmtWindow w := by
  rw [show (consumed s xs).myCore = s.myCore.setSlot s.cur.2 (s.slot.reads xs).2 from s.myCore_setSlot _]
  rfl

theorem windowFault_consumed (s : State) (xs : List SrcM) (q : Option Nat) (h u w o n : Nat) (va : Word) (elem : Nat) :
    windowFault (consumed s xs) s.cur.1 q h u w o n va elem = windowFault s s.cur.1 q h u w o n va elem := by
  have hcore : (consumed s xs).core s.cur.1 = s.myCore.setSlot s.cur.2 (s.slot.reads xs).2 := s.myCore_setSlot _
  simp only [windowFault, windowHolds, windowPoison, unitLimit, hcore]
  rfl

/-- An element that a load may take lies at a multiple of four bytes, and the load is of four. -/
theorem windowFault_none {s : State} {c : Nat} {q : Option Nat} {h u w o n : Nat} {va : Word} {elem : Nat}
    (hf : windowFault s c q h u w o n va elem = none) : o % 4 = 0 ∧ n = 4 := by
  unfold windowFault at hf
  dsimp only at hf
  split_ifs at hf
  simp_all

theorem loadRange_consumed (s : State) (xs : List SrcM) (n : Nat) (va : Word) (h u w o : Nat) :
    loadRange (consumed s xs) n va (.window none h u w o) = loadRange s n va (.window none h u w o) := by
  simp only [loadRange, fmtWindow_consumed]

theorem loadNow_window {s : State} {xs : List SrcM} (k : LoadKind) (va : Word) {h u w o : Nat}
    (hn : isLocalUnit s.cur.1 h u = true)
    (hp : poisoned s.poison (sramKey h u 0 + elemRecord (s.myCore.fmtWindow w) (o / 4))
      (recordBytes (winFormat (s.myCore.fmtWindow w)) (winGroup (s.myCore.fmtWindow w)) (winBx (s.myCore.fmtWindow w))) = false) :
    loadNow (consumed s xs) k va (.window none h u w o) = .value (consumed s xs)
      (windowElem s.mem (sramKey h u 0) (s.myCore.fmtWindow w) (o / 4) (s.slot.fmtMode.getLsbD 0)) := by
  have hfw : ((consumed s xs).core s.cur.1).fmtWindow w = s.myCore.fmtWindow w := fmtWindow_consumed s xs w
  simp only [loadNow, hfw, consumed_cur, consumed_mem, consumed_fmtMode, (sameData_consumed s xs).poison, hn, hp, Bool.not_true,
    Bool.false_eq_true, if_false]

/-- The range of a load of a place that is no window does not depend on the state. -/
theorem loadRange_unwindowed {s w : State} {n : Nat} {va : Word} {p : Place} (h : p.windowed = false) :
    loadRange w n va p = loadRange s n va p := by
  cases p with
  | window q h u v o => cases h
  | sram h u off => rfl
  | peerSram q => rfl
  | mem x c => rfl

/-- A load behind no journal entry whose value is formed at once owes it to its destination. -/
theorem loadOrWait_value {w u : State} {len : Nat} {d : Dst} {k : LoadKind} {va : Word} {p : Place} {lda : Bool} {v : Nat}
    (hj : journalOverlap w.myCore (loadRange w (loadForm k).1 va p).1 (loadRange w (loadForm k).1 va p).2 = false)
    (hv : loadNow w k va p = .value u v) :
    loadOrWait w len d k va p lda = .done (oweTo u d (.value (extendLoad (loadForm k).1 (loadForm k).2 v)) lda false) := by
  simp only [loadOrWait, hj, Bool.false_eq_true, if_false, loadPlace, hv]

theorem journalOverlap_congr {k k' : Core} (h : k'.journal = k.journal) : journalOverlap k' = journalOverlap k := by
  funext key n
  rw [journalOverlap, h, journalOverlap]

section
variable {i : Instr} {f : LoadOp} {s : State} {b : Word} {p : Place} (hi : loadOp i = some f) (hm : s.memReady = true)
  (hg : operandsGive s f.dst [f.base] [b] = true) (hl : locate (consumed s [f.base]) .load f.bytes (f.va b) 0 = .ok p)
include hi hm hg hl

/-- An aligned load of a located place goes on to its window's rules and its journal overlap. -/
theorem exec_load_located
    (ha : (if windowVa (f.va b) then (f.va b).toNat % 4 else (f.va b).toNat % f.bytes) = 0) : exec i s = finish s f.len
    (match (generalizing := false) p with
      | .window q h u w o =>
        match windowFault (consumed s [f.base]) s.cur.1 q h u w o f.bytes (f.va b) 0 with
        | some t => .trap t
        | none => loadOrWait (consumed s [f.base]) f.len f.dst f.kind (f.va b) (.window q h u w o) f.lda
      | p => loadOrWait ((consumed s [f.base]).tlbFor (f.va b)) f.len f.dst f.kind (f.va b) p f.lda) := by
  obtain ⟨he, hbytes, -⟩ := exec_load hi s
  rw [he, loadEffect, memGate_of_memReady hm, orphanGate_passes hm, ops1_gives hg]
  simp only [LoadOp.va, hbytes] at ha hl ⊢
  generalize b + BitVec.ofInt 64 (f.off * ((loadForm f.kind).1 : Int)) = va at ha hl ⊢
  rw [if_neg (by simpa [windowVa, sramVa] using ha), hl]
  cases p <;> rfl

/-- A load of a place that is no window. -/
theorem exec_load_place (ha : (f.va b).toNat % f.bytes = 0) (hp : p.windowed = false) : exec i s = finish s f.len
    (loadOrWait ((consumed s [f.base]).tlbFor (f.va b)) f.len f.dst f.kind (f.va b) p f.lda) := by
  obtain ⟨hwin, -⟩ := locate_window hl
  rw [exec_load_located hi hm hg hl (by rw [← hwin, hp]; exact ha)]
  cases p with
  | window q h u w o => cases hp
  | sram h u off => rfl
  | peerSram q => rfl
  | mem x c => rfl

/-- A load through a window of this device (R102). -/
theorem exec_load_window {h u w o : Nat} (hp : p = .window none h u w o)
    (hf : windowFault s s.cur.1 none h u w o f.bytes (f.va b) 0 = none) : exec i s = finish s f.len
    (loadOrWait (consumed s [f.base]) f.len f.dst f.kind (f.va b) p f.lda) := by
  obtain ⟨hwin, hoff⟩ := locate_window hl
  obtain ⟨ho, -⟩ := windowFault_none hf
  have ha : (f.va b).toNat % 4 = 0 := by
    rw [hoff _ _ _ _ _ hp] at ho
    simp only [bitsOf, Nat.shiftRight_zero] at ho
    omega
  rw [exec_load_located hi hm hg hl (by rw [← hwin, hp]; exact ha), hp]
  simp only [windowFault_consumed, hf]

end

/-- Settles O21: a load at hand takes what its place shows, and owes it. -/
theorem loadResult : Obligations.LoadResult := by
  unfold Obligations.LoadResult
  intro i f s b p hi hm hg hl hn rg hrg hj
  subst hrg
  obtain ⟨-, hbytes, hsigned⟩ := exec_load hi s
  obtain ⟨hpos, hle⟩ := loadForm_bytes f.kind
  have htook := took_consumed s [f.base]
  have hdata := sameData_consumed s [f.base]
  have hreach := sameReach_consumed s [f.base]
  refine ⟨fun ha hp hb => ?_, ?_⟩
  · have hfill := tlbFor_touches (consumed s [f.base]) (f.va b)
    have hh : ((consumed s [f.base]).tlbFor (f.va b)).slot.hypCur = s.slot.hypCur := by
      rw [State.slot_eq, hfill.slots, hfill.cur]
      exact consumed_hypCur s _
    have hd := hdata.trans hfill.toSameData
    have hr := hreach.trans hfill.toSameReach
    rw [hbytes] at hn hb
    obtain ⟨u, hu, hv⟩ := hd.loadNow_near hr hh f.kind (f.va b) hp hn hb
    have hjournal : journalOverlap ((consumed s [f.base]).tlbFor (f.va b)).myCore = journalOverlap s.myCore :=
      journalOverlap_congr (by rw [State.myCore, hr.journal, hd.cur, State.myCore])
    rw [exec_load_place hi hm hg hl ha hp, loadOrWait_value (by
      rw [loadRange_unwindowed hp, hjournal, ← hbytes]
      exact hj) hv, extendLoad_eq hpos hle, ← hbytes, ← hsigned]
    obtain ⟨hpc, hmem, hothers, howes, hsame⟩ := ((htook.touched hfill.toSameTasks).touched hu).owes f.dst
      (.value (extended (8 * f.bytes) f.signed (word (s.shown p f.bytes)))) f.lda f.len rfl
    exact ⟨_, finish_done .., hpc, hmem, hothers, howes, hsame⟩
  · rintro h u w o rfl hf fw rfl hpoison
    obtain ⟨-, hfour⟩ := windowFault_none hf
    have hjournal : journalOverlap (consumed s [f.base]).myCore = journalOverlap s.myCore :=
      journalOverlap_congr (hreach.journal s.cur.1)
    rw [exec_load_window hi hm hg hl rfl hf, loadOrWait_value (by
      rw [loadRange_consumed, hjournal, ← hbytes]
      exact hj) (loadNow_window f.kind (f.va b) hn hpoison), ← hbytes, hfour, extendLoad_eq (by decide) (by decide), ← hsigned]
    obtain ⟨hpc, hmem, hothers, howes, hsame⟩ := htook.owes f.dst
      (.value (extended 32 f.signed (word (windowElem s.mem (sramKey h u 0) (s.myCore.fmtWindow w) (o / 4)
        (s.slot.fmtMode.getLsbD 0))))) f.lda f.len rfl
    exact ⟨_, finish_done .., hpc, hmem, hothers, howes, hsame⟩

end Sys2Proof.Machine

/-! Vector instructions on registers (R69, R71, R94, R385): what a write of a register leaves, the lane queue, and the values of the
operations; O40. -/

namespace Sys2Proof.Machine

/-! ### Writing a vector register (R69) -/

/-- The slot with a vector register and the held faults replaced. -/
def Slot.vput (sl : Slot) (vd : Fin 16) (x : List (BitVec 32)) (y : List (Option VFault)) : Slot :=
  { sl with vregs := padSet [] sl.vregs vd.val x, vfaults := y }

theorem Slot.vreg_vput (sl : Slot) (vd : Fin 16) (x : List (BitVec 32)) (y : List (Option VFault)) :
    (sl.vput vd x y).vreg vd = x := padSet_getD ..

theorem Slot.vreg_vput_ne (sl : Slot) {vd r : Fin 16} (x : List (BitVec 32)) (y : List (Option VFault)) (h : r ≠ vd) :
    (sl.vput vd x y).vreg r = sl.vreg r := padSet_getD_ne _ _ _ fun he => h (Fin.ext he)

theorem vecResult_getD (old : List (BitVec 32)) (n : Nat) (pair : Bool) (m : VMask) (act : Nat → Bool) (vals : List Nat)
    {j : Nat} (hj : j < 64) {i : Nat} (hi : i = if pair then j / 2 else j) :
    (vecResult old n pair m act vals).getD j 0 =
      if n ≤ i then old.getD j 0
      else if act i then BitVec.ofNat 32 (if pair && j % 2 == 1 then vals.getD i 0 / 2 ^ 32 else vals.getD i 0)
      else if m.z then 0 else old.getD j 0 := by
  subst hi
  simp [vecResult, List.getD_eq_getElem?_getD, List.getElem?_map, List.getElem?_range hj]

/-- A register written under its mask holds the values at its active elements, and its other elements as R69 has it. -/
theorem vecWritten_of_vecResult {a b : Slot} {r : Fin 16} {n : Nat} {pair : Bool} {m : VMask} {act : Nat → Bool}
    {vals : List Nat} {val : Nat → Nat} (h : b.vreg r = vecResult (a.vreg r) n pair m act vals)
    (hact : ∀ i, act i = a.takes m i) (hval : ∀ i, i < n → a.takes m i = true → vals.getD i 0 = val i) :
    vecWritten a b r m pair n val := by
  intro j hj i hi
  rw [Slot.velem, h, vecResult_getD _ _ _ _ _ _ hj hi, hact]
  by_cases hn : n ≤ i
  · simp only [if_pos hn]
    rfl
  · simp only [if_neg hn]
    cases ht : a.takes m i with
    | true =>
      simp only [if_true, hval i (by omega) ht]
      exact BitVec.toNat_ofNat _ _
    | false =>
      simp only [Bool.false_eq_true, if_false]
      cases m.z <;> rfl

/-- Of 32-bit elements the values count modulo 2^32. -/
theorem vecWritten_mod {a b : Slot} {r : Fin 16} {n : Nat} {m : VMask} {val val' : Nat → Nat}
    (h : vecWritten a b r m false n val) (hv : ∀ i, val i % 2 ^ 32 = val' i % 2 ^ 32) : vecWritten a b r m false n val' := by
  intro j hj i hi
  have hj' := h j hj i hi
  simp only [Bool.false_and, Bool.false_eq_true, if_false] at hj' ⊢
  rw [← hv, hj']

/-! ### The lane queue and the flags (R205, R94) -/

theorem slotAt_enterLanes (s : State) (op : LaneOp) : (enterLanes s op).slotAt = s.slotAt := by
  funext c k
  refine State.slotAt_setCore_same_slots (s := s) (c := s.cur.1) ?_ c k
  rfl

theorem slot_enterLanes (s : State) (op : LaneOp) : (enterLanes s op).slot = s.slot :=
  congrFun (congrFun (slotAt_enterLanes s op) _) _

theorem lanes_enterLanes (s : State) (op : LaneOp) : (enterLanes s op).myCore.lanes =
    if s.hasLane then s.myCore.lanes.map fun o => if o.standsFor s.cur.2 s.slot.pc then op else o
    else s.myCore.lanes ++ [op] := by
  exact congrArg Core.lanes (State.myCore_setCore s _)

/-- The state in which a vector instruction enters the lane queue: its flags are in `FP.STAT` where a trap is enabled, and the
lane queue's entry carries the others (R94). -/
structure Flagged (s u : State) (fl carried : Nat) : Prop where
  slot : ∃ p, u.slot = { s.slot with fpStat := p } ∧
    (s.slot.fpTraps = true → p = s.slot.fpStat ||| word fl ∧ carried = 0) ∧
    (s.slot.fpTraps = false → p = s.slot.fpStat ∧ carried = fl)
  others : otherSlots s u
  mem : u.mem = s.mem
  cur : u.cur = s.cur
  lanes : u.myCore.lanes = s.myCore.lanes

theorem flagged_none (s : State) : Flagged s s 0 0 :=
  ⟨⟨s.slot.fpStat, rfl, fun _ => ⟨(BitVec.or_zero).symm, rfl⟩, fun _ => ⟨rfl, rfl⟩⟩, fun _ _ _ => rfl, rfl, rfl, rfl⟩

theorem flagged_orFlags {s : State} (h : s.slot.fpTraps = true) (fl : Nat) : Flagged s (s.modSlot (·.orFlags fl)) fl 0 := by
  refine ⟨⟨_, s.slot_modSlot _, fun _ => ⟨rfl, rfl⟩, fun h' => ?_⟩, otherSlots_setSlot s _, rfl, rfl, ?_⟩
  · rw [h] at h'
    cases h'
  · rw [State.modSlot_eq, State.myCore_setSlot]
    rfl

theorem flagged_carried {s : State} (h : s.slot.fpTraps = false) (fl : Nat) : Flagged s s fl fl := by
  refine ⟨⟨s.slot.fpStat, rfl, fun h' => ?_, fun _ => ⟨rfl, rfl⟩⟩, fun _ _ _ => rfl, rfl, rfl, rfl⟩
  rw [h] at h'
  cases h'

/-- What a vector instruction on registers leaves (R385), as the obligation states it. -/
def VecDone (f : VecOp) (s t : State) : Prop :=
  vecFrame s t ∧ vecWritten s.slot t.slot f.vd f.mask f.pairOut (f.count s.slot) (fun n => (f.val s.slot n).1) ∧
    (∀ r, r ≠ f.vd → t.slot.vreg r = s.slot.vreg r) ∧ t.slot.vl = s.slot.vl ∧
    (s.slot.fpTraps = true → t.slot.fpStat = s.slot.fpStat ||| word (f.flags s.slot) ∧ entersLanes s t 0 none) ∧
    (s.slot.fpTraps = false → t.slot.fpStat = s.slot.fpStat ∧ entersLanes s t (f.flags s.slot) none)

/-- An instruction that has entered the lane queue and written its register is done. -/
theorem Flagged.done {s u w t : State} {f : VecOp} {carried : Nat} (h : Flagged s u (f.flags s.slot) carried) {op : LaneOp}
    (hop : op.unformed = none ∧ op.slot = s.cur.2 ∧ op.groups = s.slot.vl / 8 ∧ op.flags = carried ∧ op.transfer = none)
    (hcores : w.cores = (enterLanes u op).cores) (hcur : w.cur = u.cur) (hmem : w.mem = u.mem) {x : List (BitVec 32)}
    {y : List (Option VFault)} (ht : t = advance (w.setSlot (u.slot.vput f.vd x y)) 4)
    (hx : vecWritten s.slot (u.slot.vput f.vd x y) f.vd f.mask f.pairOut (f.count s.slot) (fun n => (f.val s.slot n).1)) :
    VecDone f s t := by
  obtain ⟨⟨p, hslot, htraps, hquiet⟩, hothers, humem, hucur, hlanes⟩ := h
  have hu : w.slotAt = u.slotAt := (funext fun c => funext fun k => State.slotAt_congr hcores c k).trans (slotAt_enterLanes u op)
  have htslot : t.slot = { s.slot.vput f.vd x y with fpStat := p, pc := s.slot.pc + 4, entry := false, stall := .none } := by
    rw [ht, slot_advance, State.slot_setSlot, hslot]
    rfl
  have htothers : otherSlots s t := by
    rw [ht]
    have hw : otherSlots u w := fun c k _ => by rw [hu]
    exact ((hothers.trans hucur hw).trans (hcur.trans hucur) (otherSlots_setSlot w _)).trans (hcur.trans hucur)
      (otherSlots_advance _ 4)
  have htlanes : t.myCore.lanes = if s.hasLane then s.myCore.lanes.map fun o => if o.standsFor s.cur.2 s.slot.pc then op else o
      else s.myCore.lanes ++ [op] := by
    have hpc : u.slot.pc = s.slot.pc := by rw [hslot]
    have hw : w.myCore.lanes = (enterLanes u op).myCore.lanes := by
      rw [State.myCore, hcur, State.core_congr hcores]
      rfl
    have htw : t.myCore.lanes = w.myCore.lanes := by
      rw [ht, advance, State.modSlot_eq, State.myCore_setSlot, State.myCore_setSlot]
      rfl
    rw [htw, hw, lanes_enterLanes, State.hasLane, hlanes, hucur, hpc, State.hasLane]
  have henters : entersLanes s t carried none := ⟨op, htlanes, hop⟩
  have hmem' : sameMemory s t := fun a => by
    rw [ht, advance_mem, State.setSlot_eq]
    exact congrArg (memGet · a) (hmem.trans humem)
  refine ⟨⟨?_, ?_, ?_, ?_, htothers, hmem'⟩, ?_, fun r hr => ?_, ?_, fun hf => ?_, fun hf => ?_⟩
  · rw [htslot]
    rfl
  · rw [htslot]
  · rw [htslot]
    rfl
  · rw [htslot]
    rfl
  · intro j hj i hi
    rw [← hx j hj i hi, htslot, hslot]
    rfl
  · rw [htslot]
    exact s.slot.vreg_vput_ne x y hr
  · rw [htslot]
    rfl
  · obtain ⟨hp, rfl⟩ := htraps hf
    rw [htslot]
    exact ⟨hp, henters⟩
  · obtain ⟨hp, rfl⟩ := hquiet hf
    rw [htslot]
    exact ⟨hp, henters⟩

/-! ### Issue (R205, R234, R385) -/

section
variable {s : State} {reads : List (Fin 16)} {m : VMask} {vd : Option (Fin 16)}

theorem vecStart_passes (h : s.vecReady reads m vd = true) (k : Effect) : vecStart s (reads ++ maskReads m vd) k = k := by
  simp only [State.vecReady, Bool.and_eq_true, bne_iff_ne, Bool.not_eq_true'] at h
  obtain ⟨⟨⟨hfault, hvl⟩, hfull⟩, hawaits⟩ := h
  rw [vecStart, Option.isNone_iff_eq_none.mp hfault]
  simp only [if_neg hvl, hfull, hawaits, Bool.false_eq_true, if_false]

end

/-- Where no element traps, the flags reach `FP.STAT` at once or go with the lane queue's entry. -/
theorem vecFlags_passes (s : State) {fls : List (Nat × Nat)} (h : ∀ q ∈ fls, s.slot.traps q.2 = false)
    (k : Nat → State → Effect) : ∃ u carried, vecFlags s fls k = k carried u ∧
      Flagged s u (fls.foldl (fun a q => a ||| q.2) 0) carried := by
  have hnone : fls.filter (fun q => s.slot.traps q.2) = [] := List.filter_eq_nil_iff.mpr fun q hq => by simp [h q hq]
  unfold vecFlags
  rw [hnone]
  cases hf : s.slot.fpTraps with
  | true => exact ⟨_, _, rfl, flagged_orFlags hf _⟩
  | false => exact ⟨_, _, rfl, flagged_carried hf _⟩

theorem VecOp.flags_of_none {f : VecOp} {sl : Slot} (h : ∀ i, (f.val sl i).2 = 0) : f.flags sl = 0 := by
  unfold VecOp.flags
  generalize List.range (f.count sl) = l
  induction l with
  | nil => rfl
  | cons i l ih => simpa only [List.foldl_cons, h, ite_self, Nat.or_zero] using ih

theorem VecOp.flagged_of_none {f : VecOp} {s : State} (h : ∀ i, (f.val s.slot i).2 = 0) : Flagged s s (f.flags s.slot) 0 := by
  rw [f.flags_of_none h]
  exact flagged_none s

/-- The entry of the lane queue that an instruction of the slot at hand makes. -/
theorem Flagged.laneOp_made {s u : State} {fl carried : Nat} (h : Flagged s u fl carried) (cycles : Nat)
    (reads : List (Fin 16)) (vd : Option (Fin 16)) (op : LaneOp) (hop : op = laneOp u cycles carried reads vd none) :
    op.unformed = none ∧ op.slot = s.cur.2 ∧ op.groups = s.slot.vl / 8 ∧ op.flags = carried ∧ op.transfer = none := by
  obtain ⟨p, hslot, -⟩ := h.slot
  have hvl : u.slot.vl = s.slot.vl := by rw [hslot]
  subst hop
  exact ⟨rfl, congrArg Prod.snd h.cur, by rw [← hvl]; rfl, rfl, rfl⟩

section
variable {s u : State} {f : VecOp} {carried : Nat} (h : Flagged s u (f.flags s.slot) carried) (cycles : Nat)
  (reads : List (Fin 16)) (vals : List Nat)
include h

/-- An instruction whose values are written is done. -/
theorem Flagged.vwrite_done
    (hx : ∀ b : Slot, b.vreg f.vd = vecResult (s.slot.vreg f.vd) (f.count s.slot) f.pairOut f.mask (s.slot.vactive f.mask) vals →
      vecWritten s.slot b f.vd f.mask f.pairOut (f.count s.slot) (fun n => (f.val s.slot n).1)) :
    VecDone f s (advance ((enterLanes u (laneOp u cycles carried reads (some f.vd) none)).vwrite f.vd (f.count s.slot) f.pairOut
      f.mask vals) 4) := by
  obtain ⟨p, hslot, -⟩ := h.slot
  refine h.done (w := overtake (enterLanes u (laneOp u cycles carried reads (some f.vd) none)) u.nextId f.vd.val
      (if f.pairOut then 2 * f.count s.slot else f.count s.slot) (!f.mask.me))
    (x := vecResult (u.slot.vreg f.vd) (f.count s.slot) f.pairOut f.mask (u.slot.vactive f.mask) vals)
    (y := (u.slot.vwrite f.vd (f.count s.slot) f.pairOut f.mask vals).vfaults)
    (h.laneOp_made cycles reads (some f.vd) _ rfl) rfl rfl rfl ?_ (hx _ ?_)
  · refine congrArg (advance · 4) ?_
    rw [State.vwrite, State.modSlot_eq]
    exact congrArg (State.setSlot _) (congrArg (Slot.vwrite · f.vd (f.count s.slot) f.pairOut f.mask vals)
      (slot_enterLanes u _))
  · rw [Slot.vreg_vput, hslot]
    rfl

end

/-- The flags of the elements below the count, those of inactive elements none. -/
def VecOp.elemFlags (f : VecOp) (sl : Slot) : List (Nat × Nat) :=
  (List.range (f.count sl)).map fun i => (i, if sl.takes f.mask i then (f.val sl i).2 else 0)

theorem VecOp.foldl_elemFlags (f : VecOp) (sl : Slot) :
    (f.elemFlags sl).foldl (fun a q => a ||| q.2) 0 = f.flags sl := by
  rw [VecOp.elemFlags, List.foldl_map]
  rfl

/-- The model's list of flags is theirs. -/
theorem fpFlags_eq (f : VecOp) (sl : Slot) {g : Nat → (Nat × Nat) × Bool} (hg : ∀ i, (g i).1 = f.val sl i) :
    ((((List.range (sl.vcount f.pairIn)).map fun i => if sl.vactive f.mask i then g i else ((0, 0), false)).zipIdx).map
      fun p => (p.2, p.1.1.2)) = f.elemFlags sl := by
  refine List.ext_getElem (by simp [VecOp.elemFlags, VecOp.count, Slot.vcount]) fun i _ _ => ?_
  simp only [VecOp.elemFlags, List.getElem_map, List.getElem_zipIdx, List.getElem_range, Nat.zero_add, ← hg]
  cases h : sl.vactive f.mask i <;> simp [show sl.takes f.mask i = sl.vactive f.mask i from rfl, h]

section
variable {s : State} {f : VecOp} (hr : s.vecReady f.reads f.mask (some f.vd) = true)
include hr

/-- An element operation without flags (R387, R388, R390, R398, R399, R402). -/
theorem VecOp.map_done {g : Nat → Nat} (hin : f.pairIn = false) (hout : f.pairOut = false)
    (hflag : ∀ i, (f.val s.slot i).2 = 0) (hval : ∀ i, g i % 2 ^ 32 = (f.val s.slot i).1 % 2 ^ 32) :
    ∃ t, finish s 4 (vecMap s f.reads f.vd f.mask false g) = .next t ∧ VecDone f s t := by
  refine ⟨_, (congrArg (finish s 4) (vecStart_passes hr _)).trans (finish_done ..), ?_⟩
  have hflags := VecOp.flagged_of_none hflag
  have hcount : f.count s.slot = s.slot.vl := by simp [VecOp.count, hin]
  have hdone := hflags.vwrite_done 1 (f.reads ++ maskReads f.mask (some f.vd)) ((List.range s.slot.vl).map g) fun b hb => by
    rw [hout] at hb ⊢
    refine vecWritten_mod (vecWritten_of_vecResult hb (fun _ => rfl) fun i hi _ => ?_) hval
    rw [hcount] at hi
    simp [List.getD_eq_getElem?_getD, List.getElem?_range hi]
  rw [hcount, hout] at hdone
  exact hdone

/-- An FP element operation (R387, R392-R395) of which no active element traps. -/
theorem VecOp.fp_done {g : Nat → (Nat × Nat) × Bool} (cycles : Nat) (hg : ∀ i, (g i).1 = f.val s.slot i)
    (ht : ∀ n, n < f.count s.slot → s.slot.takes f.mask n = true → s.slot.traps (f.val s.slot n).2 = false) :
    ∃ t, finish s 4 (vecFp s f.reads f.vd f.mask f.pairIn f.pairOut cycles g) = .next t ∧ VecDone f s t := by
  have hfls := fpFlags_eq f s.slot hg
  obtain ⟨u, carried, hk, hflags⟩ := vecFlags_passes s (fls := f.elemFlags s.slot) (by
    intro q hq
    obtain ⟨i, hi, rfl⟩ := List.mem_map.mp hq
    cases hi' : s.slot.takes f.mask i with
    | true => simpa [hi'] using ht i (List.mem_range.mp hi) hi'
    | false => simp [Slot.traps]) _
  rw [f.foldl_elemFlags] at hflags
  refine ⟨_, (congrArg (finish s 4) ((vecStart_passes hr _).trans ((congrArg (vecFlags s · _) hfls).trans hk))).trans
    (finish_done ..), ?_⟩
  refine hflags.vwrite_done _ (f.reads ++ maskReads f.mask (some f.vd)) _ fun b hb => ?_
  refine vecWritten_of_vecResult hb (fun _ => rfl) fun i hi hi' => ?_
  have hactive : s.slot.vactive f.mask i = true := hi'
  have hi'' : i < s.slot.vcount f.pairIn := hi
  simp [List.getD_eq_getElem?_getD, List.getElem?_range hi'', hactive, hg]

end

/-! ### Values of the integer operations (R387, R388, R392, R398, R402) -/

theorem Slot.velem_lt (sl : Slot) (r : Fin 16) (i : Nat) : sl.velem r i < 2 ^ 32 := BitVec.isLt _

/-- The model's reading of a 32-bit element is the signed value of its bits. -/
theorem i32_eq (x : Nat) : i32 x = signed32 x := by
  rw [i32, intVal_signed (by decide) (by decide), word, BitVec.setWidth_ofNat_of_le (by decide)]
  rfl

theorem vecLe_signed (x y : Nat) : vecLe true x y = decide (signed32 x ≤ signed32 y) := by
  rw [vecLe, if_pos rfl, i32_eq, i32_eq]

theorem vecLe_unsigned (x y : Nat) : vecLe false x y = decide (x ≤ y) := rfl

theorem signed32_inj {x y : Nat} (hx : x < 2 ^ 32) (hy : y < 2 ^ 32) : signed32 x = signed32 y ↔ x = y := by
  refine ⟨fun h => ?_, congrArg signed32⟩
  have hb := congrArg BitVec.toNat (BitVec.toInt_inj.mp h)
  rwa [BitVec.toNat_ofNat, BitVec.toNat_ofNat, Nat.mod_eq_of_lt hx, Nat.mod_eq_of_lt hy] at hb

theorem natOf_eq (b : Bool) : natOf b = if b then 1 else 0 := rfl

theorem intRel_signed (c : VCond) {x y : Nat} (hx : x < 2 ^ 32) (hy : y < 2 ^ 32) :
    intRel true c x y = relHolds c (signed32 x) (signed32 y) := by
  cases c with
  | eq => simp [intRel, relHolds, signed32_inj hx hy, Bool.beq_eq_decide_eq]
  | ne => simp [intRel, relHolds, bne, signed32_inj hx hy, Bool.beq_eq_decide_eq]
  | lt => simp [intRel, relHolds, vecLe_signed, ← decide_not]
  | le => simp [intRel, relHolds, vecLe_signed]
  | un => rfl

theorem intRel_unsigned (c : VCond) (x y : Nat) : intRel false c x y = relHolds c x y := by
  cases c with
  | eq => simp [intRel, relHolds, Bool.beq_eq_decide_eq]
  | ne => simp [intRel, relHolds, bne, Bool.beq_eq_decide_eq]
  | lt => simp [intRel, relHolds, vecLe_unsigned, ← decide_not]
  | le => simp [intRel, relHolds, vecLe_unsigned]
  | un => rfl

/-! ### The instructions -/

/-- The slot once `vsel` has written the values it selects (R401). -/
def Slot.vselected (sl : Slot) (vd vm : Fin 16) (vals : List Nat) : Slot :=
  sl.vput vd (vecResult (sl.vreg vd) sl.vl false ⟨vm, false, false⟩ (fun _ => true) vals) sl.vfaults

section
variable {s : State} {f : VecOp} {d a b : Fin 16} {m : VMask} (hr : s.vecReady f.reads f.mask (some f.vd) = true)
include hr

theorem vInt2_done {g g' : Nat → Nat → Nat} (hi : vInt2 d a b m g = some f)
    (hv : ∀ x y, x < 2 ^ 32 → y < 2 ^ 32 → g' x y % 2 ^ 32 = g x y % 2 ^ 32) :
    ∃ t, finish s 4 (vecInt s d a b m g') = .next t ∧ VecDone f s t := by
  obtain rfl := Option.some.inj hi
  exact VecOp.map_done hr rfl rfl (fun _ => rfl) fun i => hv _ _ (s.slot.velem_lt a i) (s.slot.velem_lt b i)

/-- Selection writes every element below `VL` (R401). -/
theorem vsel_done {vm : Fin 16} {z : Bool} (hi : vecOp (.vsel d a b vm z) = some f) :
    ∃ t, exec (.vsel d a b vm z) s = .next t ∧ VecDone f s t := by
  have hflags : Flagged s s (f.flags s.slot) 0 := VecOp.flagged_of_none (by
    obtain rfl := Option.some.inj hi
    exact fun _ => rfl)
  obtain rfl := Option.some.inj hi
  refine ⟨_, (congrArg (finish s 4) (vecStart_passes hr _)).trans (finish_done ..), ?_⟩
  refine hflags.done (w := overtake (enterLanes s (laneOp s 1 0 [a, b, vm] (some d) none)) s.nextId d.val s.slot.vl false)
    (x := vecResult (s.slot.vreg d) s.slot.vl false ⟨vm, false, false⟩ (fun _ => true)
      ((List.range s.slot.vl).map fun i => if s.slot.velem vm i % 2 = 1 then s.slot.velem a i else s.slot.velem b i))
    (y := s.slot.vfaults) (hflags.laneOp_made 1 [a, b, vm] (some d) _ rfl) rfl rfl rfl (congrArg (advance · 4) ?_)
    (vecWritten_of_vecResult (act := fun _ => true) (Slot.vreg_vput ..) (fun _ => rfl) fun i hi _ => ?_)
  · refine (State.modSlot_eq _ _).trans (congrArg (State.setSlot _) ?_)
    exact congrArg (Slot.vselected · d vm
      ((List.range s.slot.vl).map fun i => if s.slot.velem vm i % 2 = 1 then s.slot.velem a i else s.slot.velem b i))
      (slot_enterLanes s _)
  · have hi' : i < s.slot.vl := hi
    simp [List.getD_eq_getElem?_getD, List.getElem?_range hi']

variable (ht : ∀ n, n < f.count s.slot → s.slot.takes f.mask n = true → s.slot.traps (f.val s.slot n).2 = false)
include ht

theorem vFp2_done {p : Prec} {g : FpEnv → Nat → Nat → Nat × Nat} (cycles : Nat) (hi : vFp2 p d a b m g = some f) :
    ∃ t, finish s 4 (vecFp2 s p cycles d a b m g) = .next t ∧ VecDone f s t := by
  obtain rfl := Option.some.inj hi
  exact VecOp.fp_done hr cycles (fun _ => rfl) ht

theorem vFp1_done {p : Prec} {g : FpEnv → Nat → Nat × Nat} (cycles : Nat) (hi : vFp1 p d a m g = some f) :
    ∃ t, finish s 4 (vecFp1 s p cycles d a m g) = .next t ∧ VecDone f s t := by
  obtain rfl := Option.some.inj hi
  exact VecOp.fp_done hr cycles (fun _ => rfl) ht

theorem vFma_done {k : FmaKind} {p : Prec} (hi : vFma p d a b m k.negs.1 k.negs.2 = some f) :
    ∃ t, finish s 4 (vecFma s k p d a b m) = .next t ∧ VecDone f s t := by
  obtain rfl := Option.some.inj hi
  exact VecOp.fp_done hr 1 (fun _ => rfl) ht

/-- A vector instruction on registers that none of its elements traps is done. -/
theorem vecOp_done {i : Instr} (hi : vecOp i = some f) : ∃ t, exec i s = .next t ∧ VecDone f s t := by
  unfold vecOp at hi
  split at hi
  next d a b m => exact vInt2_done hr hi fun x y _ _ => (Nat.mod_mod (x + y) _).symm
  next d a b m => exact vInt2_done hr hi fun x y _ hy => by rw [Nat.add_sub_assoc hy.le, Nat.mod_mod]
  next d a b m => exact vInt2_done hr hi fun x y _ _ => (Nat.mod_mod (x * y) _).symm
  next d a b m => exact vInt2_done hr hi fun x y _ _ => by simp only [vecLe_signed, decide_eq_true_eq]
  next d a b m => exact vInt2_done hr hi fun x y _ _ => by simp only [vecLe_signed, decide_eq_true_eq]
  next d a b m => exact vInt2_done hr hi fun x y _ _ => rfl
  next d a b m => exact vInt2_done hr hi fun x y _ _ => rfl
  next d a b m => exact vInt2_done hr hi fun _ _ _ _ => rfl
  next d a b m => exact vInt2_done hr hi fun _ _ _ _ => rfl
  next d a b m => exact vInt2_done hr hi fun _ _ _ _ => rfl
  next d a b m => exact vInt2_done hr hi fun x y _ _ => by rw [Nat.shiftLeft_eq, Nat.mod_mod]
  next d a b m => exact vInt2_done hr hi fun x y _ _ => by rw [Nat.shiftRight_eq_div_pow]
  next d a b m => exact vInt2_done hr hi fun x y _ _ => by rw [i32_eq, BitVec.toNat_ofInt, bitsOfInt]
  next d a m =>
    obtain rfl := Option.some.inj hi
    exact VecOp.map_done hr rfl rfl (fun _ => rfl) fun _ => rfl
  next d m =>
    obtain rfl := Option.some.inj hi
    exact VecOp.map_done hr rfl rfl (fun _ => rfl) fun _ => rfl
  next d a b vm z => exact vsel_done hr hi
  next c d a b m =>
    exact vInt2_done hr (g' := fun x y => natOf (intRel true c x y)) hi fun x y hx hy => by rw [intRel_signed c hx hy, natOf_eq]
  next c d a b m =>
    exact vInt2_done hr (g' := fun x y => natOf (intRel false c x y)) hi fun x y _ _ => by rw [intRel_unsigned, natOf_eq]
  next c d a b m =>
    obtain rfl := Option.some.inj hi
    exact VecOp.fp_done hr 1 (fun _ => rfl) ht
  next c d a b m =>
    obtain rfl := Option.some.inj hi
    exact VecOp.fp_done hr 1 (fun _ => rfl) ht
  next d a b m => exact vFp2_done hr ht 1 hi
  next d a b m => exact vFp2_done hr ht 1 hi
  next d a b m => exact vFp2_done hr ht 1 hi
  next d a b m => exact vFp2_done hr ht 8 hi
  next d a b m => exact vFp2_done hr ht 1 hi
  next d a b m => exact vFp2_done hr ht 1 hi
  next d a m => exact vFp1_done hr ht 8 hi
  next d a b m => exact vFp2_done hr ht 1 hi
  next d a b m => exact vFp2_done hr ht 1 hi
  next d a b m => exact vFp2_done hr ht 1 hi
  next d a b m => exact vFp2_done hr ht 16 hi
  next d a b m => exact vFp2_done hr ht 1 hi
  next d a b m => exact vFp2_done hr ht 1 hi
  next d a m => exact vFp1_done hr ht 16 hi
  next p d a b m => exact vFma_done (k := .fma) hr ht hi
  next p d a b m => exact vFma_done (k := .fms) hr ht hi
  next p d a b m => exact vFma_done (k := .fnma) hr ht hi
  next p d a b m => exact vFma_done (k := .fnms) hr ht hi
  next code d a b m =>
    obtain rfl := Option.some.inj hi
    exact VecOp.fp_done hr 1 (fun _ => rfl) ht
  next => cases hi

end

/-- Settles O40: the operations of one kind by the lemma on that kind. -/
theorem vectorResult : Obligations.VectorResult := by
  unfold Obligations.VectorResult
  intro i f s hi hr ht
  exact vecOp_done hr ht hi

end Sys2Proof.Machine
